-- ==== Sys2Proof/Word.lean ====
section
/-! DEFINITION. The word type of the part: registers are 32 bits wide (00_scope.md, Registers). -/
namespace Sys2Proof

/-- One register word. -/
abbrev Word := BitVec 32

/-- One byte of a frame or of the configuration image. -/
abbrev Byte := BitVec 8

end Sys2Proof
end

