-- ==== Sys2Proof/Syntax.lean ====
section
/-! DEFINITION. The commands of the block: one constructor of `Instr` per row of the opcode table, with what the
outside world gives the part at that step (frames, line samples, measured charge, comparator outcomes) as
operands.  What the part itself holds is never an operand. -/
namespace Sys2Proof

/-- An axis AX0 to AX7 (R14). -/
abbrev Axis := Fin 8
/-- A leg LEG0 to LEG23 (R13). -/
abbrev Leg := Fin 24
/-- A charge slice SL0 to SL40 (Table 1-1). -/
abbrev SliceId := Fin 41
/-- A feedback port FP0 to FP31. -/
abbrev Port := Fin 32
/-- A timebase TB0 to TB20 (Table 2-1). -/
abbrev Tb := Fin 21
/-- A region RGN0 or RGN1; also the engine that serves it and the housekeeping converter of that number. -/
abbrev Region := Fin 2
/-- A D-die D0 to D3. -/
abbrev Die := Fin 4
/-- A die with an understudy: D0 to D3, and 4 for the C-die (Table 1-1). -/
abbrev UDie := Fin 5
/-- A fault source ID (R273). -/
abbrev Src := Fin 256
/-- An entry of the cue sheet (R34). -/
abbrev EntryIx := Fin 16384

/-- The two paths over which requests reach the part (R201). -/
inductive Path where
  | host
  | can
  deriving DecidableEq, Repr

/-- A host-port frame as it was clocked in (Table 14-1): its bits, how many clocks it had, and whether it
began less than 320 ns after the last one (R343). -/
structure HostFrame where
  cmd : BitVec 8
  addr : BitVec 24
  data : Word
  crc : BitVec 8
  clocks : Nat
  early : Bool
  deriving DecidableEq, Repr

/-- The parts of an inter-die link frame that its CRC covers (Table 1-3); TYPE is fixed by the row. -/
structure LinkFrame where
  seq : BitVec 4
  payload : BitVec 40
  crc : BitVec 16
  deriving DecidableEq, Repr

/-- A leg's mode (R78). -/
inductive LegMode where
  | float
  | pwm
  | low
  deriving DecidableEq, Repr

/-- The four live slew steps of a leg (R83, R84). -/
structure Slew where
  hsOn : Fin 8
  hsOff : Fin 8
  lsOn : Fin 8
  lsOff : Fin 8
  deriving DecidableEq, Repr

/-- What a fault in a leg or its link makes of the leg's two on-requests (R81): nothing; both rise in this tick; the
complement's request stays on while this one rises. -/
inductive Overlap where
  | none
  | both
  | later
  deriving DecidableEq, Repr

/-- What a leg-setting frame carries (R78, R84, R87): each part is present or absent. -/
structure LegSetting where
  mode : Option LegMode
  slew : Option Slew
  refresh : Bool
  deriving DecidableEq, Repr

/-- One of a leg's two gates. -/
inductive Gate where
  | high
  | low
  deriving DecidableEq, Repr

/-- What a slice-result frame carries up (R103, R228). -/
inductive SliceReport where
  | window (k : SliceId)
  | fastCurrent (i : Int)
  deriving DecidableEq, Repr

/-- The measured outcome of one window of an integrator (R104 to R106): net packets removed, floor(256 r) of the residue
at the close, clocks spent at the excess clamp, entries into the clamp. -/
structure Window where
  packets : Int
  full : Int
  clampClocks : Nat
  clampEntries : Nat
  deriving DecidableEq, Repr

/-- A slice self-check of Table 5-6. -/
inductive SliceCheck where
  | stuck
  | sat
  | cal
  deriving DecidableEq, Repr

/-- The frame an SSI group clocked in (R144, R145): the data line at T - 1, the position, status and CRC bits
as received, and whether the line returned high within TO. -/
structure SsiFrame where
  ready : Bool
  pos : BitVec 32
  status : BitVec 4
  crc : BitVec 8
  returned : Bool
  deriving DecidableEq, Repr

/-- Three reads of one OTP word whose reads are not all the stored value (R323): the place of the word (0 to 1,023 the
rows, 1,024 to 1,087 the spare rows, from 1,088 on the redirection table), the corrected normal read, the two
margin reads, whether any ECC bit disagreed, and whether the normal read had a double error. -/
structure OtpRead where
  word : Fin 1112
  normal : Word
  raised : Word
  lowered : Word
  eccDiffers : Bool
  double : Bool
  deriving DecidableEq, Repr

/-- A verify of R328: the three reads of the word just pulsed, whether its ECC bits verified, and whether the
window of Table 13-3 was left during the pulse. -/
structure Verify where
  normal : Word
  raised : Word
  lowered : Word
  eccOk : Bool
  windowLeft : Bool
  deriving DecidableEq, Repr

/-- The image header words (Table 12-3), in order of offset. -/
structure Header where
  magic : Word
  format : BitVec 16
  nsect : BitVec 16
  length : Word
  device : Word
  flags : Word
  serial : Word
  reserved : Word
  hcrc : Word
  deriving DecidableEq, Repr

/-- A section header (Table 12-4). -/
structure Section where
  type : Byte
  resv : Byte
  count : BitVec 16
  len : Word
  resv2 : Word
  scrc : Word
  deriving DecidableEq, Repr

/-- A frame received on CAN (R344, R345). -/
structure CanFrame where
  ide : Bool
  id : BitVec 29
  fd : Bool
  remote : Bool
  data : List Byte
  deriving DecidableEq, Repr

/-- A range-link frame (Table 14-4): characters 1 and 2 split into their fields, the payload characters 3 to
10 as one little-endian word, the CRC, and whether a code violation was seen. -/
structure RngFrame where
  src : BitVec 2
  type : BitVec 3
  sev : Bool
  stale : BitVec 2
  cycle : BitVec 5
  slot : BitVec 3
  payload : BitVec 64
  crc : BitVec 16
  violation : Bool
  deriving DecidableEq, Repr

/-- A protocol error the CAN controller detected, as a transmitter or as a receiver (R344). -/
inductive CanRole where
  | transmitter
  | receiver
  deriving DecidableEq, Repr

/-- What the integrators show at a close (R97, R111): the slice's own, and the understudy's where it closes with the slice. -/
structure Windows where
  own : Window
  under : Window
  deriving DecidableEq, Repr

/-- The commands of the block, one per row of the opcode table, in the table's order. -/
inductive Instr where
  -- Host port
  | nop (f : HostFrame)
  | read (f : HostFrame)
  | write (f : HostFrame)
  | registerWrite (p : Path) (addr : BitVec 24) (data : Word)
  | hpTimeout
  | hpRdbufRead (f : HostFrame)
  -- Inter-die link
  -- `on`: the duty that the frame carries
  | dutyFrame (l : Leg) (f : LinkFrame) (on : BitVec 17)
  | legSettingFrame (l : Leg) (f : LinkFrame) (o : Overlap)
  | windowCloseFrame (d : Die) (f : LinkFrame) (slices : List SliceId)
  | sliceResultFrame (d : Die) (f : LinkFrame) (r : SliceReport)
  | legStatusFrame (l : Leg) (f : LinkFrame) (gh gl bst : Bool)
  | acknowledgeFrame (d : Die) (up : Bool) (f : LinkFrame) (nack : Bool) (of : BitVec 4)
  | linkRetransmit (d : Die) (up : Bool)
  | linkTimeout (d : Die)
  -- `err`: the bits of the burst that the line changes
  | legFaultBurst (l : Leg) (err : BitVec 6)
  | burstSilence (l : Leg) (conds : BitVec 4)
  -- Timebases and cues
  | timebaseSample (eccBad : List EntryIx)
  | cueSkip (k : EntryIx) (eccBad : Bool)
  | portSet (k : EntryIx)
  | portClr (k : EntryIx)
  | portPulse (k : EntryIx)
  | portPulseEnd (p : Port)
  | winClose (k : EntryIx)
  | hkStart (k : EntryIx)
  | gearSlot (k : EntryIx)
  | advSet (k : EntryIx)
  | capture (k : EntryIx)
  | emuIndex (k : EntryIx)
  | irq (k : EntryIx)
  | release (k : EntryIx)
  | actSwitch (k : EntryIx)
  | cueEntryLowerWrite (p : Path) (k : EntryIx) (data : Word)
  | cueEntrySubmit (p : Path) (k : EntryIx) (data : Word)
  | cueSwitch (p : Path) (mask : BitVec 21)
  | cueSkipqPop (p : Path)
  | cueIrqqPop (p : Path)
  | cueEntryRead (p : Path) (k : EntryIx) (upper eccBad : Bool)
  -- Field engines
  | sliceSnapshot (a : Axis)
  | sliceStart (e : Region) (eccBad : Bool) (stray : Option (BitVec 24 × Bool))
  | sliceCommit (a : Axis)
  | sliceDeadline (a : Axis)
  | lockstepMismatch (e : Region) (cycle : BitVec 10)
  | reexecutionStart (e : Region)
  | pwmBoundary (a : Axis)
  -- Gate-drive legs
  | commandedRise (l : Leg) (o : Overlap)
  | commandedFall (l : Leg) (o : Overlap)
  | gateSenseCrossing (l : Leg) (g : Gate) (above : Bool)
  | gateTurnOn (l : Leg) (g : Gate)
  | handshakeTimeout (l : Leg) (g : Gate)
  | gateStuck (l : Leg) (g : Gate)
  | bstUv (l : Leg)
  | bstOk (l : Leg)
  | forcedRefresh (l : Leg)
  | chargingPulse (l : Leg)
  | vds (l : Leg) (g : Gate)
  | trip (l : Leg)
  -- Charge slices
  | windowClose (k : SliceId) (w : Windows)
  | fixedWindowExpiry (k : SliceId)
  | excHalfCycle
  | windowLimit (k : SliceId)
  | slWlenWrite (p : Path) (k : SliceId) (data : Word)
  | roundStart (d : UDie)
  | turnStart (d : UDie)
  | calibrationEnd (d : UDie) (measured : BitVec 16)
  | sliceCheckFail (k : SliceId) (c : SliceCheck)
  | understudySettleEnd (d : UDie)
  -- Feedback ports
  | portEdge (p : Port) (lines wires : BitVec 3)
  | wireCheckFail (p : Port)
  | hallCodeTimeout (p : Port)
  | acquireComplete (p : Port)
  | ssiFrameEnd (p : Port) (f : SsiFrame)
  | ssiReadyTimeout (p : Port)
  | digitalSample (p : Port) (level : Bool)
  | limitRearm (p : Port)
  | freqTimeout (p : Port)
  | testOn (path : Path) (p : Port)
  | testOff (path : Path) (p : Port)
  | limClr (path : Path) (p : Port)
  | emuEdge (p : Port)
  | emuLag (p : Port)
  | zPulseEnd (p : Port)
  -- Position sources and commutation
  | primaryLoss (a : Axis)
  | switchOver (a : Axis)
  | sourceResume (a : Axis)
  | back (p : Path) (a : Axis)
  | commutationPoint (a : Axis) (k : Fin 6) (backward : Bool)
  | transitionStep (a : Axis)
  | sectorReapply (a : Axis)
  | zeroCrossing (l : Leg) (rise : Bool)
  -- `k`: the number of the pulse; `gap`: whether its gap ends, or the pulse
  | ipdPulse (a : Axis) (k : Fin 12) (gap : Bool)
  | openLoopStep (a : Axis)
  | brakeHoldEnd (a : Axis)
  -- Commanding axes and motion
  | off (p : Path) (a : Axis)
  | curve (p : Path) (a : Axis) (backward : Bool)
  | compat (p : Path) (a : Axis)
  | stream (p : Path) (a : Axis)
  | gear (p : Path) (a : Axis) (keep : Bool) (slot : Fin 8)
  | home (p : Path) (a : Axis) (backward : Bool)
  | hold (p : Path) (a : Axis)
  | localCurveEntry (a : Axis)
  | axCinWrite (p : Path) (a : Axis) (value : BitVec 16)
  | curveInputTimeout (a : Axis)
  | cmpCtrlWrite (p : Path) (a : Axis) (data : Word)
  | cmpTargetWrite (p : Path) (a : Axis) (data : Word)
  | cmpAccelWrite (p : Path) (a : Axis) (data : Word)
  | cmpDecelWrite (p : Path) (a : Axis) (data : Word)
  | axSploWrite (p : Path) (a : Axis) (data : Word)
  | setpointSubmit (p : Path) (a : Axis) (data : Word)
  | homingTimeout (a : Axis)
  -- DC bus
  | busThresholdCrossing (r : Region) (v : BitVec 16)
  | fastCurrentReport (r : Region) (i : BitVec 16)
  | chopperCheckExpiry (r : Region)
  | chopMinExpiry (r : Region)
  | packDetection (r : Region)
  | precharge (r : Region)
  | prechargeTimeout (r : Region)
  | admGate (r : Region)
  | busAdmit (p : Path) (r : Region)
  | admOpen (p : Path) (r : Region)
  | rideLedgerRead (p : Path) (r : Region) (returned : Bool)
  -- Housekeeping
  | hkCmdStart (p : Path) (c : Region)
  | hkCmdUrgent (p : Path) (c : Region)
  | hktrigEdge (c : Region) (rising : Bool)
  | hkRoundStart
  | adaptiveRequest
  | hkConversionEnd (c : Region) (raw sense : Int) (bad : Bool)
  | hkChWrite (p : Path) (ch : Fin 46) (data : Word)
  -- `hi`, `lo`: the input in µV as the HI and as the LO comparator sees it
  | wmSample (m : Fin 8) (hi lo : Word)
  | wakeAck (p : Path)
  -- Fault collector
  | faultCollectorTick
  | severityWindowExpiry (s : Src)
  | beaconPulseEnd
  | clockLoss
  | testWordCheck (u : Fin 5)
  | fltInj (p : Path) (checker unit : BitVec 4)
  | fltClr (p : Path) (s : Src)
  | fltClrAll (p : Path)
  | fltFirstClear (p : Path)
  | fltAccClear (p : Path)
  -- Start-up and configuration image
  | nresetRise (reads : List OtpRead)
  | nresetFall
  | reset (p : Path) (reads : List OtpRead)
  | reload (p : Path)
  | imageHeader (h : Header)
  | sectionHeader (h : Section)
  | registerRecord (addr data : Word)
  | cueRecord (index lower upper : Word)
  | sectionEnd (fill : List Byte)
  | imageEnd (tag : List Byte)
  | i2cAddressRetry (acked : Bool)
  -- Power states and life-cycle
  | sysPwrHouse (p : Path)
  | sysPwrStandby (p : Path)
  | sysPwrShow (p : Path)
  | sysPwrDark (p : Path)
  | darkEntry
  | darkExitComplete (us : Word)
  -- `left`: the C-die's monitors find the window of Table 13-3 left (R327)
  | lifecycleChange (p : Path) (data : Word) (left : Bool) (copies : List Verify) (reads : List OtpRead)
  -- OTP and logbook
  | prog (p : Path) (word : BitVec 10) (left : Bool)
  | repulse (p : Path) (word : BitVec 10) (left : Bool)
  | redirect (p : Path) (row : BitVec 10) (left : Bool)
  | otpLock (p : Path) (area : BitVec 10) (left : Bool)
  | otpVerify (v : Verify)
  | logRecordWrite (first second : Bool)
  | pendingFlush (first second : Bool)
  | checkpointSlot (first second : Bool)
  | orderlyCheckpoint
  -- CAN FD
  | canFrameReceived (f : CanFrame)
  | canWrite
  | canRead
  | canSetpoint
  | canCueWrite
  | canCurveInput
  | heartbeatSupervision
  | canReplySend
  | nodeTimeout (j : Fin 32)
  | ownHeartbeat
  | busOff
  | busOffRec (p : Path)
  | forget (p : Path) (j : Fin 32)
  -- Range link
  | statusFrame (f : RngFrame)
  | helloFrame (f : RngFrame)
  | startFrame (f : RngFrame)
  | syncFrame (f : RngFrame) (err : Int)
  | posFrame (f : RngFrame)
  | faultFrame (f : RngFrame)
  | slotStart (slot : Fin 8)
  | helloSend
  | trainingTimeout
  | syncTimeout
  | retrain (p : Path)
  -- Rows the table adds at its end
  | eventLineEdge (p : Port) (level : Bool)
  | busOffRecovery
  | canBusError (role : CanRole)
  deriving DecidableEq, Repr

end Sys2Proof
end

