-- ==== Sys2Proof/Decode.lean ====
section
/-! DEFINITION. The decoder of a table word.  The opcode table gives no row any bits, so no word spells a command. -/
namespace Sys2Proof

/-- The command that a word of the table's bits spells: none. -/
def decodeTableWord (_nbits _w : Nat) : Option Instr := none

end Sys2Proof
end

