-- ==== Sys2Proof/Config.lean ====
section
/-! DEFINITION. What the spec leaves open: the free value, and nothing else. -/
namespace Sys2Proof.Config

/-- A value the spec does not give (log entry 2): the results of the control microcode, of the observer and of
the tracking loop, the sources' speed estimates.  It is read at the counter `Chip.free`, which advances at
every use, so that no two readings are tied together.  It has no body: nothing can be proved of it. -/
opaque freeValue : Nat → BitVec 64

end Sys2Proof.Config
end

