-- ==== Sys2Proof/Machine/RegMap.lean ====
section
/-! DEFINITION. The address map (16_address_map.md) and the field tables of every chapter: one address per
register, one `Field` per field, and one row per register with its access masks (R4, R6) and reset word
(R374).  Each name is the spec's name with the instance letter dropped; the instance index is an argument. -/
namespace Sys2Proof.Machine

/-- A field: the byte address of its register and its bit range (R4: bits in no field are reserved). -/
structure Field where
  addr : Nat
  hi : Nat
  lo : Nat
  deriving DecidableEq, Repr

/-! ### SYS block: Table 12-8 -/

def SYS_ID : Nat := 0x000000
def SYS_ID_ID : Field := ⟨SYS_ID, 31, 0⟩
def SYS_STATUS : Nat := 0x000004
def SYS_STATUS_BOOT : Field := ⟨SYS_STATUS, 31, 31⟩
def SYS_STATUS_TRANS : Field := ⟨SYS_STATUS, 30, 30⟩
def SYS_STATUS_PSTATE : Field := ⟨SYS_STATUS, 29, 28⟩
def SYS_STATUS_LC : Field := ⟨SYS_STATUS, 27, 26⟩
def SYS_STATUS_CFG_OK : Field := ⟨SYS_STATUS, 25, 25⟩
def SYS_STATUS_LOG_BUSY : Field := ⟨SYS_STATUS, 24, 24⟩
def SYS_STATUS_KEY : Field := ⟨SYS_STATUS, 23, 23⟩
def SYS_STATUS_LC_AMBIG : Field := ⟨SYS_STATUS, 22, 22⟩
def SYS_STATUS_RCAUSE : Field := ⟨SYS_STATUS, 17, 16⟩
def SYS_PWR : Nat := 0x000008
def SYS_PWR_TARGET : Field := ⟨SYS_PWR, 1, 0⟩
def SYS_CMD : Nat := 0x00000C
def SYS_CMD_RELOAD : Field := ⟨SYS_CMD, 1, 1⟩
def SYS_CMD_RESET : Field := ⟨SYS_CMD, 0, 0⟩
def SYS_LCCMD : Nat := 0x000010
def SYS_LCCMD_CONFIRM : Field := ⟨SYS_LCCMD, 31, 16⟩
def SYS_LCCMD_TARGET : Field := ⟨SYS_LCCMD, 1, 0⟩
def SYS_IMGSTAT : Nat := 0x000014
def SYS_IMGSTAT_CAUSE : Field := ⟨SYS_IMGSTAT, 27, 24⟩
def SYS_IMGSTAT_REASON : Field := ⟨SYS_IMGSTAT, 19, 16⟩
def SYS_IMGSTAT_SECT : Field := ⟨SYS_IMGSTAT, 8, 0⟩
def SYS_IMGAT : Nat := 0x000018
def SYS_IMGAT_AT : Field := ⟨SYS_IMGAT, 23, 0⟩
def SYS_IMGID : Nat := 0x00001C
def SYS_IMGID_SERIAL : Field := ⟨SYS_IMGID, 31, 0⟩
def SYS_BOOTT : Nat := 0x000020
def SYS_BOOTT_TICKS : Field := ⟨SYS_BOOTT, 31, 0⟩
def SYS_DARKT : Nat := 0x000024
def SYS_DARKT_US : Field := ⟨SYS_DARKT, 31, 0⟩

/-! ### FLT block: Tables 11-7 and 11-8 -/

def FLT_STATUS : Nat := 0x010000
def FLT_STATUS_FAULT : Field := ⟨FLT_STATUS, 31, 31⟩
def FLT_STATUS_CURTAIN : Field := ⟨FLT_STATUS, 30, 30⟩
def FLT_STATUS_FIRE : Field := ⟨FLT_STATUS, 29, 29⟩
def FLT_STATUS_COMPACT : Field := ⟨FLT_STATUS, 28, 28⟩
def FLT_STATUS_NSEV : Field := ⟨FLT_STATUS, 8, 0⟩
def FLT_FIRST : Nat := 0x010004
def FLT_FIRST_VALID : Field := ⟨FLT_FIRST, 31, 31⟩
def FLT_FIRST_OVF : Field := ⟨FLT_FIRST, 30, 30⟩
def FLT_FIRST_SAME_TICK : Field := ⟨FLT_FIRST, 29, 29⟩
def FLT_FIRST_CODE : Field := ⟨FLT_FIRST, 10, 8⟩
def FLT_FIRST_SRC : Field := ⟨FLT_FIRST, 7, 0⟩
def FLT_FIRSTT : Nat := 0x010008
def FLT_FIRSTT_TICK : Field := ⟨FLT_FIRSTT, 31, 0⟩
def FLT_FIRSTTH : Nat := 0x01000C
def FLT_FIRSTTH_TICK : Field := ⟨FLT_FIRSTTH, 31, 0⟩
def FLT_STVEC (k : Nat) : Nat := 0x010010 + k * 0x4
def FLT_STVEC_VEC (k : Nat) : Field := ⟨FLT_STVEC k, 31, 0⟩
def FLT_CLR : Nat := 0x010030
def FLT_CLR_ALL : Field := ⟨FLT_CLR, 31, 31⟩
def FLT_CLR_SRC : Field := ⟨FLT_CLR, 7, 0⟩
def FLT_INJ : Nat := 0x010034
def FLT_INJ_CHECKER : Field := ⟨FLT_INJ, 31, 28⟩
def FLT_INJ_UNIT : Field := ⟨FLT_INJ, 3, 0⟩
def FLT_INJS : Nat := 0x010038
def FLT_INJS_ARMED : Field := ⟨FLT_INJS, 3, 0⟩
def BEACON_CTL : Nat := 0x01003C
def BEACON_CTL_PULSING : Field := ⟨BEACON_CTL, 31, 31⟩
def BEACON_CTL_LEVEL : Field := ⟨BEACON_CTL, 8, 8⟩
def BEACON_CTL_PULSE : Field := ⟨BEACON_CTL, 7, 0⟩
def FLT_DRT : Nat := 0x010040
def FLT_DRT_DF : Field := ⟨FLT_DRT, 12, 0⟩
def FLT_ACC : Nat := 0x010044
def FLT_ACC_VALID : Field := ⟨FLT_ACC, 31, 31⟩
def FLT_ACC_OVF : Field := ⟨FLT_ACC, 30, 30⟩
def FLT_ACC_MASTER : Field := ⟨FLT_ACC, 26, 24⟩
def FLT_ACC_TYPE : Field := ⟨FLT_ACC, 20, 20⟩
def FLT_ACC_CAUSE : Field := ⟨FLT_ACC, 17, 16⟩
def FLT_ACCA : Nat := 0x010048
def FLT_ACCA_ADDR : Field := ⟨FLT_ACCA, 23, 0⟩
def FLT_ACCT : Nat := 0x01004C
def FLT_ACCT_TICK : Field := ⟨FLT_ACCT, 31, 0⟩
def FLT_ACCTH : Nat := 0x010050
def FLT_ACCTH_TICK : Field := ⟨FLT_ACCTH, 31, 0⟩
def FLT_SEV (k : Nat) : Nat := 0x010060 + k * 0x4
def FLT_SEV_SEV (k : Nat) : Field := ⟨FLT_SEV k, 31, 0⟩
def FLT_LIVE (k : Nat) : Nat := 0x010080 + k * 0x4
def FLT_LIVE_LIVE (k : Nat) : Field := ⟨FLT_LIVE k, 31, 0⟩
def FLT_CFG (s : Nat) : Nat := 0x011000 + s * 0x10
def FLT_CFG_T (s : Nat) : Field := ⟨FLT_CFG s, 31, 16⟩
def FLT_CFG_N (s : Nat) : Field := ⟨FLT_CFG s, 15, 8⟩
def FLT_CFG_CODE (s : Nat) : Field := ⟨FLT_CFG s, 2, 0⟩
def FLT_CNT (s : Nat) : Nat := 0x011004 + s * 0x10
def FLT_CNT_EVENTS (s : Nat) : Field := ⟨FLT_CNT s, 31, 0⟩
def FLT_SRC (s : Nat) : Nat := 0x011008 + s * 0x10
def FLT_SRC_SEVERE (s : Nat) : Field := ⟨FLT_SRC s, 31, 31⟩
def FLT_SRC_ACTIVE (s : Nat) : Field := ⟨FLT_SRC s, 30, 30⟩
def FLT_SRC_SAT (s : Nat) : Field := ⟨FLT_SRC s, 29, 29⟩
def FLT_SRC_INJ (s : Nat) : Field := ⟨FLT_SRC s, 28, 28⟩
def FLT_SRC_WCNT (s : Nat) : Field := ⟨FLT_SRC s, 7, 0⟩

/-! ### OTP block: Tables 13-8 and 13-9 -/

def OTP_STATUS : Nat := 0x020000
def OTP_STATUS_BUSY : Field := ⟨OTP_STATUS, 31, 31⟩
def OTP_STATUS_RESULT : Field := ⟨OTP_STATUS, 30, 28⟩
def OTP_STATUS_LOCK : Field := ⟨OTP_STATUS, 27, 24⟩
def OTP_STATUS_VOID_COUNT : Field := ⟨OTP_STATUS, 23, 15⟩
def OTP_STATUS_APPLIED : Field := ⟨OTP_STATUS, 14, 6⟩
def OTP_STATUS_PULSES : Field := ⟨OTP_STATUS, 3, 0⟩
def OTP_MARG : Nat := 0x020004
def OTP_MARG_MARG : Field := ⟨OTP_MARG, 31, 21⟩
def OTP_MARG_UNCORR : Field := ⟨OTP_MARG, 20, 10⟩
def OTP_MARG_MPATCH : Field := ⟨OTP_MARG, 8, 0⟩
def OTP_FIRSTM : Nat := 0x020008
def OTP_FIRSTM_VALID : Field := ⟨OTP_FIRSTM, 31, 31⟩
def OTP_FIRSTM_KIND : Field := ⟨OTP_FIRSTM, 16, 16⟩
def OTP_FIRSTM_WORD : Field := ⟨OTP_FIRSTM, 9, 0⟩
def OTP_CMD : Nat := 0x02000C
def OTP_CMD_OP : Field := ⟨OTP_CMD, 31, 28⟩
def OTP_CMD_CONFIRM : Field := ⟨OTP_CMD, 27, 12⟩
def OTP_CMD_ARG : Field := ⟨OTP_CMD, 9, 0⟩
def OTP_DATA : Nat := 0x020010
def OTP_DATA_DATA : Field := ⟨OTP_DATA, 31, 0⟩
def OTP_REDIR (k : Nat) : Nat := 0x020020 + k * 0x4
def OTP_REDIR_VALID (k : Nat) : Field := ⟨OTP_REDIR k, 31, 31⟩
def OTP_REDIR_VOID (k : Nat) : Field := ⟨OTP_REDIR k, 30, 30⟩
def OTP_REDIR_ROW (k : Nat) : Field := ⟨OTP_REDIR k, 13, 8⟩
def OTP_REDIR_SPARE (k : Nat) : Field := ⟨OTP_REDIR k, 1, 0⟩
def OTP_WORD (w : Nat) : Nat := 0x021000 + w * 0x4
def OTP_WORD_VALUE (w : Nat) : Field := ⟨OTP_WORD w, 31, 0⟩
def OTP_WSTAT (k : Nat) : Nat := 0x022000 + k * 0x4
def OTP_WSTAT_DOUBT (k : Nat) : Field := ⟨OTP_WSTAT k, 31, 0⟩
def OTP_VOID (k : Nat) : Nat := 0x022080 + k * 0x4
def OTP_VOID_VOID (k : Nat) : Field := ⟨OTP_VOID k, 31, 0⟩
def LOG_STATUS : Nat := 0x038000
def LOG_STATUS_BUSY : Field := ⟨LOG_STATUS, 31, 31⟩
def LOG_STATUS_HOLD : Field := ⟨LOG_STATUS, 30, 30⟩
def LOG_STATUS_LOSS : Field := ⟨LOG_STATUS, 29, 29⟩
def LOG_STATUS_PENDING : Field := ⟨LOG_STATUS, 20, 16⟩
def LOG_STATUS_PLOST : Field := ⟨LOG_STATUS, 15, 0⟩
def LOG_HEAD : Nat := 0x038004
def LOG_HEAD_REC : Field := ⟨LOG_HEAD, 9, 0⟩
def LOG_SEQ : Nat := 0x038008
def LOG_SEQ_SEQ : Field := ⟨LOG_SEQ, 31, 0⟩
def LOG_BOOT : Nat := 0x03800C
def LOG_BOOT_BOOT : Field := ⟨LOG_BOOT, 15, 0⟩
def LOG_FAILS : Nat := 0x038010
def LOG_FAILS_FAILS : Field := ⟨LOG_FAILS, 15, 0⟩
def LOG_WINDOW (i : Nat) : Nat := 0x030000 + i * 0x4

/-! ### LINK block: Tables 14-7 to 14-9 -/

def HP_CFG : Nat := 0x040000
def HP_CFG_TO : Field := ⟨HP_CFG, 7, 0⟩
def HP_STAT : Nat := 0x040004
def HP_STAT_TIMEOUT : Field := ⟨HP_STAT, 2, 2⟩
def HP_STAT_LENGTH : Field := ⟨HP_STAT, 1, 1⟩
def HP_STAT_CRC : Field := ⟨HP_STAT, 0, 0⟩
def HP_RDBUF : Nat := 0x040008
def HP_RDBUF_DATA : Field := ⟨HP_RDBUF, 31, 0⟩
def CAN_CFG : Nat := 0x041000
def CAN_CFG_EN : Field := ⟨CAN_CFG, 31, 31⟩
def CAN_CFG_FDEN : Field := ⟨CAN_CFG, 30, 30⟩
def CAN_CFG_AUTOREC : Field := ⟨CAN_CFG, 29, 29⟩
def CAN_NBT : Nat := 0x041004
def CAN_NBT_BRP : Field := ⟨CAN_NBT, 31, 23⟩
def CAN_NBT_SJW : Field := ⟨CAN_NBT, 22, 16⟩
def CAN_NBT_TSEG1 : Field := ⟨CAN_NBT, 15, 8⟩
def CAN_NBT_TSEG2 : Field := ⟨CAN_NBT, 6, 0⟩
def CAN_DBT : Nat := 0x041008
def CAN_DBT_BRP : Field := ⟨CAN_DBT, 31, 27⟩
def CAN_DBT_SJW : Field := ⟨CAN_DBT, 19, 16⟩
def CAN_DBT_TSEG1 : Field := ⟨CAN_DBT, 12, 8⟩
def CAN_DBT_TSEG2 : Field := ⟨CAN_DBT, 3, 0⟩
def CAN_TDC : Nat := 0x04100C
def CAN_TDC_EN : Field := ⟨CAN_TDC, 8, 8⟩
def CAN_TDC_TDCO : Field := ⟨CAN_TDC, 7, 0⟩
def CAN_OWNHB : Nat := 0x041010
def CAN_OWNHB_EN : Field := ⟨CAN_OWNHB, 31, 31⟩
def CAN_OWNHB_IDE : Field := ⟨CAN_OWNHB, 30, 30⟩
def CAN_OWNHB_ID : Field := ⟨CAN_OWNHB, 28, 0⟩
def CAN_OWNHB2 : Nat := 0x041014
def CAN_OWNHB2_PERIOD : Field := ⟨CAN_OWNHB2, 15, 0⟩
def CAN_STAT : Nat := 0x041020
def CAN_STAT_STATE : Field := ⟨CAN_STAT, 31, 30⟩
def CAN_STAT_TEC : Field := ⟨CAN_STAT, 23, 16⟩
def CAN_STAT_REC : Field := ⟨CAN_STAT, 15, 8⟩
def CAN_STAT_FULL : Field := ⟨CAN_STAT, 0, 0⟩
def CAN_CNT : Nat := 0x041024
def CAN_CNT_RXOVF : Field := ⟨CAN_CNT, 31, 16⟩
def CAN_CNT_TXDROP : Field := ⟨CAN_CNT, 15, 0⟩
def CAN_CMD : Nat := 0x041028
def CAN_CMD_REC : Field := ⟨CAN_CMD, 0, 0⟩
def CAN_NODECMD : Nat := 0x04102C
def CAN_NODECMD_FORGET : Field := ⟨CAN_NODECMD, 31, 31⟩
def CAN_NODECMD_NODE : Field := ⟨CAN_NODECMD, 4, 0⟩
def CAN_RDBUF : Nat := 0x041030
def CAN_RDBUF_DATA : Field := ⟨CAN_RDBUF, 31, 0⟩
def CAN_RDBUFH : Nat := 0x041034
def CAN_RDBUFH_DATA : Field := ⟨CAN_RDBUFH, 31, 0⟩
def CAN_ACC_W0 (k : Nat) : Nat := 0x042000 + k * 0x10
def CAN_ACC_W0_KIND (k : Nat) : Field := ⟨CAN_ACC_W0 k, 31, 29⟩
def CAN_ACC_W0_ID (k : Nat) : Field := ⟨CAN_ACC_W0 k, 28, 0⟩
def CAN_ACC_W1 (k : Nat) : Nat := 0x042004 + k * 0x10
def CAN_ACC_W1_IDE (k : Nat) : Field := ⟨CAN_ACC_W1 k, 31, 31⟩
def CAN_ACC_W1_MASK (k : Nat) : Field := ⟨CAN_ACC_W1 k, 28, 0⟩
def CAN_ACC_W2 (k : Nat) : Nat := 0x042008 + k * 0x10
def CAN_ACC_W2_RPLY (k : Nat) : Field := ⟨CAN_ACC_W2 k, 31, 31⟩
def CAN_ACC_W2_RIDE (k : Nat) : Field := ⟨CAN_ACC_W2 k, 30, 30⟩
def CAN_ACC_W2_RID (k : Nat) : Field := ⟨CAN_ACC_W2 k, 28, 0⟩
def CAN_ACC_W3 (k : Nat) : Nat := 0x04200C + k * 0x10
def CAN_ACC_W3_WIDE (k : Nat) : Field := ⟨CAN_ACC_W3 k, 31, 31⟩
def CAN_ACC_W3_TARGET (k : Nat) : Field := ⟨CAN_ACC_W3 k, 23, 0⟩
def CAN_NODE (j : Nat) : Nat := 0x043000 + j * 0x8
def CAN_NODE_USED (j : Nat) : Field := ⟨CAN_NODE j, 31, 31⟩
def CAN_NODE_LOST (j : Nat) : Field := ⟨CAN_NODE j, 30, 30⟩
def CAN_NODE_IDE (j : Nat) : Field := ⟨CAN_NODE j, 29, 29⟩
def CAN_NODE_ID (j : Nat) : Field := ⟨CAN_NODE j, 28, 0⟩
def CAN_NODE_ENTRY (j : Nat) : Nat := 0x043004 + j * 0x8
def CAN_NODE_ENTRY_ENTRY (j : Nat) : Field := ⟨CAN_NODE_ENTRY j, 5, 0⟩
def RNG_CFG : Nat := 0x044000
def RNG_CFG_EN : Field := ⟨RNG_CFG, 31, 31⟩
def RNG_CFG_REQ : Field := ⟨RNG_CFG, 30, 30⟩
def RNG_CFG_KEEPER_OK : Field := ⟨RNG_CFG, 29, 29⟩
def RNG_CFG_ADDR : Field := ⟨RNG_CFG, 25, 24⟩
def RNG_CFG_NPKG : Field := ⟨RNG_CFG, 21, 20⟩
def RNG_PUB : Nat := 0x044004
def RNG_PUB_EN1 : Field := ⟨RNG_PUB, 31, 31⟩
def RNG_PUB_TB1 : Field := ⟨RNG_PUB, 28, 24⟩
def RNG_PUB_EN0 : Field := ⟨RNG_PUB, 15, 15⟩
def RNG_PUB_TB0 : Field := ⟨RNG_PUB, 12, 8⟩
def RNG_SUB (m : Nat) : Nat := 0x044008 + m * 0x4
def RNG_SUB_EN (m : Nat) : Field := ⟨RNG_SUB m, 31, 31⟩
def RNG_SUB_RM (m : Nat) : Field := ⟨RNG_SUB m, 2, 0⟩
def RNG_CMD : Nat := 0x044020
def RNG_CMD_RETRAIN : Field := ⟨RNG_CMD, 0, 0⟩
def RNG_STAT : Nat := 0x044024
def RNG_STAT_STATE : Field := ⟨RNG_STAT, 31, 30⟩
def RNG_STAT_KEEPER : Field := ⟨RNG_STAT, 29, 29⟩
def RNG_STAT_KADDR : Field := ⟨RNG_STAT, 28, 27⟩
def RNG_STAT_HOPS : Field := ⟨RNG_STAT, 26, 25⟩
def RNG_STAT_CAUSE : Field := ⟨RNG_STAT, 24, 22⟩
def RNG_STAT_NOPUB : Field := ⟨RNG_STAT, 21, 21⟩
def RNG_STAT_FQOVF : Field := ⟨RNG_STAT, 20, 20⟩
def RNG_STAT_RT : Field := ⟨RNG_STAT, 15, 0⟩
def RNG_SKEW : Nat := 0x044028
def RNG_SKEW_ERR : Field := ⟨RNG_SKEW, 15, 0⟩

/-! ### AXIS block: Tables 8-7 to 8-12, 7-5 to 7-18 and 5-22 -/

def AX_CFG (a : Nat) : Nat := 0x080000 + a * 0x1000
def AX_CFG_OWNER (a : Nat) : Field := ⟨AX_CFG a, 31, 30⟩
def AX_CFG_LDIR (a : Nat) : Field := ⟨AX_CFG a, 28, 28⟩
def AX_CMD (a : Nat) : Nat := 0x080010 + a * 0x1000
def AX_CMD_MODE (a : Nat) : Field := ⟨AX_CMD a, 18, 16⟩
def AX_CMD_DIR (a : Nat) : Field := ⟨AX_CMD a, 12, 12⟩
def AX_CMD_SLOT_KEEP (a : Nat) : Field := ⟨AX_CMD a, 11, 11⟩
def AX_CMD_SLOT (a : Nat) : Field := ⟨AX_CMD a, 10, 8⟩
def AX_MSTAT (a : Nat) : Nat := 0x080014 + a * 0x1000
def AX_MSTAT_MODE (a : Nat) : Field := ⟨AX_MSTAT a, 31, 29⟩
def AX_MSTAT_DIR (a : Nat) : Field := ⟨AX_MSTAT a, 28, 28⟩
def AX_MSTAT_ARMED (a : Nat) : Field := ⟨AX_MSTAT a, 27, 27⟩
def AX_MSTAT_CRV_ON (a : Nat) : Field := ⟨AX_MSTAT a, 26, 26⟩
def AX_MSTAT_INFAIL (a : Nat) : Field := ⟨AX_MSTAT a, 25, 25⟩
def AX_MSTAT_LIM_F (a : Nat) : Field := ⟨AX_MSTAT a, 24, 24⟩
def AX_MSTAT_LIM_B (a : Nat) : Field := ⟨AX_MSTAT a, 23, 23⟩
def AX_MSTAT_HELD (a : Nat) : Field := ⟨AX_MSTAT a, 22, 22⟩
def AX_MSTAT_PEND (a : Nat) : Field := ⟨AX_MSTAT a, 21, 21⟩
def AX_MSTAT_REACTED (a : Nat) : Field := ⟨AX_MSTAT a, 20, 20⟩
def AX_MSTAT_GJUMP (a : Nat) : Field := ⟨AX_MSTAT a, 19, 19⟩
def AX_MSTAT_SLOT (a : Nat) : Field := ⟨AX_MSTAT a, 18, 16⟩
def AX_MSTAT_HOME (a : Nat) : Field := ⟨AX_MSTAT a, 2, 0⟩
def AX_SPDPI (a : Nat) : Nat := 0x080018 + a * 0x1000
def AX_SPDPI_KP (a : Nat) : Field := ⟨AX_SPDPI a, 31, 16⟩
def AX_SPDPI_KI (a : Nat) : Field := ⟨AX_SPDPI a, 15, 0⟩
def AX_POSPI (a : Nat) : Nat := 0x08001C + a * 0x1000
def AX_POSPI_KP (a : Nat) : Field := ⟨AX_POSPI a, 31, 16⟩
def AX_POSPI_KD (a : Nat) : Field := ⟨AX_POSPI a, 15, 0⟩
def AX_FOLLOW (a : Nat) : Nat := 0x080020 + a * 0x1000
def AX_FOLLOW_FOLLOW_N (a : Nat) : Field := ⟨AX_FOLLOW a, 31, 28⟩
def AX_FOLLOW_LIMIT (a : Nat) : Field := ⟨AX_FOLLOW a, 23, 0⟩
def AX_FERR (a : Nat) : Nat := 0x080024 + a * 0x1000
def AX_FERR_ERR (a : Nat) : Field := ⟨AX_FERR a, 31, 0⟩
def AX_STALL (a : Nat) : Nat := 0x080028 + a * 0x1000
def AX_STALL_STALL_T (a : Nat) : Field := ⟨AX_STALL a, 31, 24⟩
def AX_STALL_STALL_SPEED (a : Nat) : Field := ⟨AX_STALL a, 19, 0⟩
def AX_HOME (a : Nat) : Nat := 0x08002C + a * 0x1000
def AX_HOME_IHOME (a : Nat) : Field := ⟨AX_HOME a, 31, 20⟩
def AX_HOME_SPEED (a : Nat) : Field := ⟨AX_HOME a, 19, 0⟩
def AX_HOME2 (a : Nat) : Nat := 0x080030 + a * 0x1000
def AX_HOME2_AFTER (a : Nat) : Field := ⟨AX_HOME2 a, 31, 31⟩
def AX_HOME2_TO (a : Nat) : Field := ⟨AX_HOME2 a, 15, 0⟩
def AX_HREF (a : Nat) : Nat := 0x080034 + a * 0x1000
def AX_HREF_REFPOS (a : Nat) : Field := ⟨AX_HREF a, 31, 0⟩
def CMP_CTRL (a : Nat) : Nat := 0x080040 + a * 0x1000
def CMP_CTRL_RUN (a : Nat) : Field := ⟨CMP_CTRL a, 0, 0⟩
def CMP_TARGET (a : Nat) : Nat := 0x080044 + a * 0x1000
def CMP_TARGET_TARGET (a : Nat) : Field := ⟨CMP_TARGET a, 15, 0⟩
def CMP_ACCEL (a : Nat) : Nat := 0x080048 + a * 0x1000
def CMP_ACCEL_ACCEL (a : Nat) : Field := ⟨CMP_ACCEL a, 15, 0⟩
def CMP_DECEL (a : Nat) : Nat := 0x08004C + a * 0x1000
def CMP_DECEL_DECEL (a : Nat) : Field := ⟨CMP_DECEL a, 15, 0⟩
def CMP_ACTUAL (a : Nat) : Nat := 0x080050 + a * 0x1000
def CMP_ACTUAL_ACTUAL (a : Nat) : Field := ⟨CMP_ACTUAL a, 15, 0⟩
def CMP_STATUS (a : Nat) : Nat := 0x080054 + a * 0x1000
def CMP_STATUS_AT_SPEED (a : Nat) : Field := ⟨CMP_STATUS a, 1, 1⟩
def CMP_STATUS_RUNNING (a : Nat) : Field := ⟨CMP_STATUS a, 0, 0⟩
def CMP_GAIN (a : Nat) : Nat := 0x080058 + a * 0x1000
def CMP_GAIN_KPKI (a : Nat) : Field := ⟨CMP_GAIN a, 31, 0⟩
def AX_STRCFG (a : Nat) : Nat := 0x080060 + a * 0x1000
def AX_STRCFG_GATED (a : Nat) : Field := ⟨AX_STRCFG a, 31, 31⟩
def AX_STRCFG_SPD (a : Nat) : Field := ⟨AX_STRCFG a, 5, 0⟩
def AX_SPLO (a : Nat) : Nat := 0x080064 + a * 0x1000
def AX_SPLO_POS (a : Nat) : Field := ⟨AX_SPLO a, 31, 0⟩
def AX_SPHI (a : Nat) : Nat := 0x080068 + a * 0x1000
def AX_SPHI_BLK_END (a : Nat) : Field := ⟨AX_SPHI a, 31, 31⟩
def AX_SPHI_TAG (a : Nat) : Field := ⟨AX_SPHI a, 15, 0⟩
def AX_STRSTAT (a : Nat) : Nat := 0x08006C + a * 0x1000
def AX_STRSTAT_UNDER (a : Nat) : Field := ⟨AX_STRSTAT a, 31, 31⟩
def AX_STRSTAT_CREDITS (a : Nat) : Field := ⟨AX_STRSTAT a, 22, 16⟩
def AX_STRSTAT_LASTTAG (a : Nat) : Field := ⟨AX_STRSTAT a, 15, 0⟩
def AX_STRCNT (a : Nat) : Nat := 0x080070 + a * 0x1000
def AX_STRCNT_UNDERRUNS (a : Nat) : Field := ⟨AX_STRCNT a, 31, 16⟩
def AX_STRCNT_SLIPS (a : Nat) : Field := ⟨AX_STRCNT a, 15, 0⟩
def AX_SPC (a : Nat) : Nat := 0x080074 + a * 0x1000
def AX_SPC_P (a : Nat) : Field := ⟨AX_SPC a, 15, 0⟩
def AX_GEARCFG (a : Nat) : Nat := 0x080080 + a * 0x1000
def AX_GEARCFG_MASTER (a : Nat) : Field := ⟨AX_GEARCFG a, 1, 0⟩
def AX_GREM (a : Nat) : Nat := 0x080084 + a * 0x1000
def AX_GREM_REM (a : Nat) : Field := ⟨AX_GREM a, 15, 0⟩
def AX_PTGT (a : Nat) : Nat := 0x080088 + a * 0x1000
def AX_PTGT_TARGET (a : Nat) : Field := ⟨AX_PTGT a, 31, 0⟩
def AX_CRVCFG (a : Nat) : Nat := 0x080090 + a * 0x1000
def AX_CRVCFG_EN (a : Nat) : Field := ⟨AX_CRVCFG a, 31, 31⟩
def AX_CRVCFG_SRC (a : Nat) : Field := ⟨AX_CRVCFG a, 29, 28⟩
def AX_CRVCFG_IDX (a : Nat) : Field := ⟨AX_CRVCFG a, 24, 20⟩
def AX_CRVCFG_TIMEOUT (a : Nat) : Field := ⟨AX_CRVCFG a, 15, 0⟩
def AX_CRVTH (a : Nat) : Nat := 0x080094 + a * 0x1000
def AX_CRVTH_XON (a : Nat) : Field := ⟨AX_CRVTH a, 31, 16⟩
def AX_CRVTH_XOFF (a : Nat) : Field := ⟨AX_CRVTH a, 15, 0⟩
def AX_CIN (a : Nat) : Nat := 0x080098 + a * 0x1000
def AX_CIN_VALUE (a : Nat) : Field := ⟨AX_CIN a, 15, 0⟩
def AX_CINU (a : Nat) : Nat := 0x08009C + a * 0x1000
def AX_CINU_X (a : Nat) : Field := ⟨AX_CINU a, 15, 0⟩
def AX_KIRCH (a : Nat) : Nat := 0x0800C0 + a * 0x1000
def AX_KIRCH_ENA (a : Nat) : Field := ⟨AX_KIRCH a, 31, 31⟩
def AX_KIRCH_PERSIST (a : Nat) : Field := ⟨AX_KIRCH a, 19, 16⟩
def AX_KIRCH_BAND (a : Nat) : Field := ⟨AX_KIRCH a, 7, 0⟩
def AX_KIRCHS (a : Nat) : Nat := 0x0800C4 + a * 0x1000
def AX_KIRCHS_SUSP (a : Nat) : Field := ⟨AX_KIRCHS a, 31, 31⟩
def AX_KIRCHS_FAILS (a : Nat) : Field := ⟨AX_KIRCHS a, 15, 0⟩
def AX_COMCFG (a : Nat) : Nat := 0x080100 + a * 0x1000
def AX_COMCFG_EN (a : Nat) : Field := ⟨AX_COMCFG a, 31, 31⟩
def AX_COMCFG_WAVE (a : Nat) : Field := ⟨AX_COMCFG a, 30, 30⟩
def AX_COMCFG_POLES (a : Nat) : Field := ⟨AX_COMCFG a, 21, 16⟩
def AX_COMCFG_SHUNT (a : Nat) : Field := ⟨AX_COMCFG a, 15, 0⟩
def AX_SRC (a : Nat) : Nat := 0x080104 + a * 0x1000
def AX_SRC_PRI (a : Nat) : Field := ⟨AX_SRC a, 31, 29⟩
def AX_SRC_PRI_IDX (a : Nat) : Field := ⟨AX_SRC a, 28, 24⟩
def AX_SRC_SEC (a : Nat) : Field := ⟨AX_SRC a, 23, 21⟩
def AX_SRC_SEC_IDX (a : Nat) : Field := ⟨AX_SRC a, 20, 16⟩
def AX_SRC_RSVPP (a : Nat) : Field := ⟨AX_SRC a, 2, 0⟩
def AX_ZERO (a : Nat) : Nat := 0x080108 + a * 0x1000
def AX_ZERO_OFS (a : Nat) : Field := ⟨AX_ZERO a, 31, 0⟩
def AX_EREF (a : Nat) : Nat := 0x08010C + a * 0x1000
def AX_EREF_EREF (a : Nat) : Field := ⟨AX_EREF a, 31, 0⟩
def AX_ILIM (a : Nat) : Nat := 0x080110 + a * 0x1000
def AX_ILIM_ILIM_REG (a : Nat) : Field := ⟨AX_ILIM a, 27, 16⟩
def AX_ILIM_ILIM (a : Nat) : Field := ⟨AX_ILIM a, 11, 0⟩
def AX_CURPI (a : Nat) : Nat := 0x080114 + a * 0x1000
def AX_CURPI_KP (a : Nat) : Field := ⟨AX_CURPI a, 31, 16⟩
def AX_CURPI_KI (a : Nat) : Field := ⟨AX_CURPI a, 15, 0⟩
def AX_MOTOR (a : Nat) : Nat := 0x080118 + a * 0x1000
def AX_MOTOR_RS (a : Nat) : Field := ⟨AX_MOTOR a, 31, 16⟩
def AX_MOTOR_LS (a : Nat) : Field := ⟨AX_MOTOR a, 15, 0⟩
def AX_MOTOR2 (a : Nat) : Nat := 0x08011C + a * 0x1000
def AX_MOTOR2_KE (a : Nat) : Field := ⟨AX_MOTOR2 a, 15, 0⟩
def AX_SOFT (a : Nat) : Nat := 0x080120 + a * 0x1000
def AX_SOFT_STEPS (a : Nat) : Field := ⟨AX_SOFT a, 31, 28⟩
def AX_SOFT_SPAN (a : Nat) : Field := ⟨AX_SOFT a, 21, 16⟩
def AX_BEMF (a : Nat) : Nat := 0x080150 + a * 0x1000
def AX_BEMF_QUALN (a : Nat) : Field := ⟨AX_BEMF a, 31, 28⟩
def AX_BEMF_QUAL_SPEED (a : Nat) : Field := ⟨AX_BEMF a, 19, 0⟩
def AX_IPD (a : Nat) : Nat := 0x080154 + a * 0x1000
def AX_IPD_W (a : Nat) : Field := ⟨AX_IPD a, 31, 24⟩
def AX_IPD_GAP (a : Nat) : Field := ⟨AX_IPD a, 23, 16⟩
def AX_IPD_THR (a : Nat) : Field := ⟨AX_IPD a, 15, 0⟩
def AX_OLS (a : Nat) : Nat := 0x080158 + a * 0x1000
def AX_OLS_OL_I (a : Nat) : Field := ⟨AX_OLS a, 31, 24⟩
def AX_OLS_F0 (a : Nat) : Field := ⟨AX_OLS a, 23, 16⟩
def AX_OLS_FMAX (a : Nat) : Field := ⟨AX_OLS a, 15, 0⟩
def AX_OLA (a : Nat) : Nat := 0x08015C + a * 0x1000
def AX_OLA_ACC (a : Nat) : Field := ⟨AX_OLA a, 15, 0⟩
def AX_CATCH (a : Nat) : Nat := 0x080160 + a * 0x1000
def AX_CATCH_REST (a : Nat) : Field := ⟨AX_CATCH a, 31, 24⟩
def AX_CATCH_CATCH_MAX (a : Nat) : Field := ⟨AX_CATCH a, 19, 0⟩
def AX_REV (a : Nat) : Nat := 0x080164 + a * 0x1000
def AX_REV_REV_SPEED (a : Nat) : Field := ⟨AX_REV a, 19, 0⟩
def AX_PLAUS (a : Nat) : Nat := 0x080168 + a * 0x1000
def AX_PLAUS_PLAUS_N (a : Nat) : Field := ⟨AX_PLAUS a, 31, 28⟩
def AX_PLAUS_DROPN (a : Nat) : Field := ⟨AX_PLAUS a, 27, 24⟩
def AX_PLAUS_AMPLO (a : Nat) : Field := ⟨AX_PLAUS a, 23, 20⟩
def AX_PLAUS_AMPHI (a : Nat) : Field := ⟨AX_PLAUS a, 19, 16⟩
def AX_PLAUS_BAND (a : Nat) : Field := ⟨AX_PLAUS a, 11, 0⟩
def AX_SRCCMD (a : Nat) : Nat := 0x08016C + a * 0x1000
def AX_SRCCMD_BACK (a : Nat) : Field := ⟨AX_SRCCMD a, 0, 0⟩
def AX_SRCSTAT (a : Nat) : Nat := 0x080170 + a * 0x1000
def AX_SRCSTAT_ON_SEC (a : Nat) : Field := ⟨AX_SRCSTAT a, 31, 31⟩
def AX_SRCSTAT_PRI_OK (a : Nat) : Field := ⟨AX_SRCSTAT a, 30, 30⟩
def AX_SRCSTAT_SEC_OK (a : Nat) : Field := ⟨AX_SRCSTAT a, 29, 29⟩
def AX_SRCSTAT_OFS_OK (a : Nat) : Field := ⟨AX_SRCSTAT a, 28, 28⟩
def AX_SRCSTAT_QUAL (a : Nat) : Field := ⟨AX_SRCSTAT a, 27, 27⟩
def AX_SRCSTAT_START (a : Nat) : Field := ⟨AX_SRCSTAT a, 26, 24⟩
def AX_SRCSTAT_REVSOFT (a : Nat) : Field := ⟨AX_SRCSTAT a, 23, 23⟩
def AX_SRCSTAT_SECTOR (a : Nat) : Field := ⟨AX_SRCSTAT a, 18, 16⟩
def AX_SRCSTAT_SWITCHES (a : Nat) : Field := ⟨AX_SRCSTAT a, 15, 0⟩
def AX_SECOFS (a : Nat) : Nat := 0x080174 + a * 0x1000
def AX_SECOFS_OFS (a : Nat) : Field := ⟨AX_SECOFS a, 31, 0⟩
def AX_SPEED (a : Nat) : Nat := 0x080178 + a * 0x1000
def AX_SPEED_SPEED (a : Nat) : Field := ⟨AX_SPEED a, 31, 0⟩
def AX_CUR (a : Nat) : Nat := 0x08017C + a * 0x1000
def AX_CUR_ATLIM (a : Nat) : Field := ⟨AX_CUR a, 31, 31⟩
def AX_CUR_VSAT (a : Nat) : Field := ⟨AX_CUR a, 30, 30⟩
def AX_CUR_IMAG (a : Nat) : Field := ⟨AX_CUR a, 27, 16⟩
def AX_CUR_LIMIT (a : Nat) : Field := ⟨AX_CUR a, 11, 0⟩
def AX_ADVCFG (a : Nat) : Nat := 0x0801A0 + a * 0x1000
def AX_ADVCFG_TRAIN (a : Nat) : Field := ⟨AX_ADVCFG a, 31, 31⟩
def AX_ADVCFG_SET0 (a : Nat) : Field := ⟨AX_ADVCFG a, 30, 30⟩
def AX_ADVCFG_LIVE (a : Nat) : Field := ⟨AX_ADVCFG a, 29, 29⟩
def AX_ADVCFG_TRAIN_N (a : Nat) : Field := ⟨AX_ADVCFG a, 23, 16⟩
def AX_ADVCFG_TRIM_MAX (a : Nat) : Field := ⟨AX_ADVCFG a, 15, 0⟩
def AX_GSLOT (a : Nat) (j : Nat) : Nat := 0x0800A0 + a * 0x1000 + j * 0x4
def AX_GSLOT_NUM (a : Nat) (j : Nat) : Field := ⟨AX_GSLOT a j, 31, 16⟩
def AX_GSLOT_DEN (a : Nat) (j : Nat) : Field := ⟨AX_GSLOT a j, 15, 0⟩
def AX_PROF (a : Nat) (i : Nat) : Nat := 0x080130 + a * 0x1000 + i * 0x4
def AX_PROF_FRAC (a : Nat) (i : Nat) : Field := ⟨AX_PROF a i, 31, 24⟩
def AX_PROF_SLEW_OUT (a : Nat) (i : Nat) : Field := ⟨AX_PROF a i, 22, 20⟩
def AX_PROF_SLEW_IN (a : Nat) (i : Nat) : Field := ⟨AX_PROF a i, 18, 16⟩
def AX_CUEPOS (a : Nat) (k : Nat) : Nat := 0x080180 + a * 0x1000 + k * 0x4
def AX_CUEPOS_POS (a : Nat) (k : Nat) : Field := ⟨AX_CUEPOS a k, 31, 0⟩
def AX_ADV (a : Nat) (i : Nat) : Nat := 0x080200 + a * 0x1000 + i * 0x4
def AX_ADV_FREQ (a : Nat) (i : Nat) : Field := ⟨AX_ADV a i, 31, 16⟩
def AX_ADV_ADV (a : Nat) (i : Nat) : Field := ⟨AX_ADV a i, 15, 0⟩
def AX_TRIM (a : Nat) (i : Nat) : Nat := 0x080400 + a * 0x1000 + i * 0x4
def AX_TRIM_VALID (a : Nat) (i : Nat) : Field := ⟨AX_TRIM a i, 31, 31⟩
def AX_TRIM_TRIM (a : Nat) (i : Nat) : Field := ⟨AX_TRIM a i, 15, 0⟩
def AX_IPDTR (a : Nat) (b : Nat) : Nat := 0x080800 + a * 0x1000 + b * 0x4
def AX_IPDTR_VALID (a : Nat) (b : Nat) : Field := ⟨AX_IPDTR a b, 31, 31⟩
def AX_IPDTR_THR (a : Nat) (b : Nat) : Field := ⟨AX_IPDTR a b, 15, 0⟩
def AX_CRV (a : Nat) (i : Nat) : Nat := 0x080900 + a * 0x1000 + i * 0x4
def AX_CRV_X (a : Nat) (i : Nat) : Field := ⟨AX_CRV a i, 31, 16⟩
def AX_CRV_Y (a : Nat) (i : Nat) : Field := ⟨AX_CRV a i, 15, 0⟩
def AX_CRVS (a : Nat) (i : Nat) : Nat := 0x080980 + a * 0x1000 + i * 0x4
def AX_CRVS_SLOPE (a : Nat) (i : Nat) : Field := ⟨AX_CRVS a i, 15, 0⟩

/-! ### LEG block: Tables 4-5 to 4-13 -/

def LEG_CFG (n : Nat) : Nat := 0x090000 + n * 0x100
def LEG_CFG_HS_TO (n : Nat) : Field := ⟨LEG_CFG n, 31, 24⟩
def LEG_CFG_DT (n : Nat) : Field := ⟨LEG_CFG n, 8, 0⟩
def LEG_PERIOD (n : Nat) : Nat := 0x090004 + n * 0x100
def LEG_PERIOD_PHASE (n : Nat) : Field := ⟨LEG_PERIOD n, 31, 16⟩
def LEG_PERIOD_PERIOD (n : Nat) : Field := ⟨LEG_PERIOD n, 14, 0⟩
def LEG_SLEW (n : Nat) : Nat := 0x090008 + n * 0x100
def LEG_SLEW_LIVE_HS_ON (n : Nat) : Field := ⟨LEG_SLEW n, 30, 28⟩
def LEG_SLEW_LIVE_HS_OFF (n : Nat) : Field := ⟨LEG_SLEW n, 26, 24⟩
def LEG_SLEW_LIVE_LS_ON (n : Nat) : Field := ⟨LEG_SLEW n, 22, 20⟩
def LEG_SLEW_LIVE_LS_OFF (n : Nat) : Field := ⟨LEG_SLEW n, 18, 16⟩
def LEG_SLEW_HS_ON (n : Nat) : Field := ⟨LEG_SLEW n, 14, 12⟩
def LEG_SLEW_HS_OFF (n : Nat) : Field := ⟨LEG_SLEW n, 10, 8⟩
def LEG_SLEW_LS_ON (n : Nat) : Field := ⟨LEG_SLEW n, 6, 4⟩
def LEG_SLEW_LS_OFF (n : Nat) : Field := ⟨LEG_SLEW n, 2, 0⟩
def LEG_VDS (n : Nat) : Nat := 0x09000C + n * 0x100
def LEG_VDS_BLK (n : Nat) : Field := ⟨LEG_VDS n, 27, 16⟩
def LEG_VDS_THR_HS (n : Nat) : Field := ⟨LEG_VDS n, 12, 8⟩
def LEG_VDS_THR_LS (n : Nat) : Field := ⟨LEG_VDS n, 4, 0⟩
def LEG_TRIP (n : Nat) : Nat := 0x090010 + n * 0x100
def LEG_TRIP_BLK (n : Nat) : Field := ⟨LEG_TRIP n, 23, 16⟩
def LEG_TRIP_LVL (n : Nat) : Field := ⟨LEG_TRIP n, 7, 0⟩
def LEG_BST (n : Nat) : Nat := 0x090014 + n * 0x100
def LEG_BST_FORCE_REF (n : Nat) : Field := ⟨LEG_BST n, 16, 16⟩
def LEG_BST_REF_K (n : Nat) : Field := ⟨LEG_BST n, 15, 8⟩
def LEG_BST_UV_THR (n : Nat) : Field := ⟨LEG_BST n, 3, 0⟩
def LEG_DUTY (n : Nat) : Nat := 0x090018 + n * 0x100
def LEG_DUTY_MODE (n : Nat) : Field := ⟨LEG_DUTY n, 23, 22⟩
def LEG_DUTY_REACT (n : Nat) : Field := ⟨LEG_DUTY n, 21, 20⟩
def LEG_DUTY_ON (n : Nat) : Field := ⟨LEG_DUTY n, 16, 0⟩
def LEG_STAT (n : Nat) : Nat := 0x09001C + n * 0x100
def LEG_STAT_BST_OK (n : Nat) : Field := ⟨LEG_STAT n, 31, 31⟩
def LEG_STAT_VDS_HS_LIVE (n : Nat) : Field := ⟨LEG_STAT n, 23, 23⟩
def LEG_STAT_VDS_LS_LIVE (n : Nat) : Field := ⟨LEG_STAT n, 22, 22⟩
def LEG_STAT_BST_UV_LIVE (n : Nat) : Field := ⟨LEG_STAT n, 21, 21⟩
def LEG_STAT_GATE_LIVE (n : Nat) : Field := ⟨LEG_STAT n, 20, 20⟩
def LEG_STAT_TRIP_LIVE (n : Nat) : Field := ⟨LEG_STAT n, 19, 19⟩
def LEG_STAT_BURST_ERR (n : Nat) : Field := ⟨LEG_STAT n, 8, 8⟩
def LEG_STAT_VDS_HS (n : Nat) : Field := ⟨LEG_STAT n, 7, 7⟩
def LEG_STAT_VDS_LS (n : Nat) : Field := ⟨LEG_STAT n, 6, 6⟩
def LEG_STAT_BST_UV (n : Nat) : Field := ⟨LEG_STAT n, 5, 5⟩
def LEG_STAT_XCMD (n : Nat) : Field := ⟨LEG_STAT n, 4, 4⟩
def LEG_STAT_HSTO (n : Nat) : Field := ⟨LEG_STAT n, 3, 3⟩
def LEG_STAT_STUCK (n : Nat) : Field := ⟨LEG_STAT n, 2, 2⟩
def LEG_STAT_TRIP (n : Nat) : Field := ⟨LEG_STAT n, 1, 1⟩
def LEG_CNT (n : Nat) : Nat := 0x090020 + n * 0x100
def LEG_CNT_HSWAIT_MAX (n : Nat) : Field := ⟨LEG_CNT n, 31, 16⟩
def LEG_CNT_REFRESH (n : Nat) : Field := ⟨LEG_CNT n, 15, 0⟩

/-! ### SLICE block: Tables 5-8 to 5-21 -/

def SL_CFG (k : Nat) : Nat := 0x0A0000 + k * 0x40
def SL_CFG_EN (k : Nat) : Field := ⟨SL_CFG k, 31, 31⟩
def SL_CFG_AXIS (k : Nat) : Field := ⟨SL_CFG k, 10, 8⟩
def SL_CFG_CLOSE (k : Nat) : Field := ⟨SL_CFG k, 5, 4⟩
def SL_CFG_RANGE (k : Nat) : Field := ⟨SL_CFG k, 1, 0⟩
def SL_WLEN (k : Nat) : Nat := 0x0A0004 + k * 0x40
def SL_WLEN_WLEN (k : Nat) : Field := ⟨SL_WLEN k, 16, 0⟩
def SL_RES (k : Nat) : Nat := 0x0A0008 + k * 0x40
def SL_RES_OVR (k : Nat) : Field := ⟨SL_RES k, 31, 31⟩
def SL_RES_SETL (k : Nat) : Field := ⟨SL_RES k, 30, 30⟩
def SL_RES_SUB (k : Nat) : Field := ⟨SL_RES k, 29, 29⟩
def SL_RES_CHK (k : Nat) : Field := ⟨SL_RES k, 28, 28⟩
def SL_RES_CLS (k : Nat) : Field := ⟨SL_RES k, 27, 26⟩
def SL_RES_COUNT (k : Nat) : Field := ⟨SL_RES k, 23, 0⟩
def SL_RLEN (k : Nat) : Nat := 0x0A000C + k * 0x40
def SL_RLEN_SEQ (k : Nat) : Field := ⟨SL_RLEN k, 31, 24⟩
def SL_RLEN_LEN (k : Nat) : Field := ⟨SL_RLEN k, 15, 0⟩
def SL_LEDGER (k : Nat) : Nat := 0x0A0010 + k * 0x40
def SL_LEDGER_LEDGER_LO (k : Nat) : Field := ⟨SL_LEDGER k, 31, 0⟩
def SL_LEDGERH (k : Nat) : Nat := 0x0A0014 + k * 0x40
def SL_LEDGERH_LEDGER_HI (k : Nat) : Field := ⟨SL_LEDGERH k, 15, 0⟩
def SL_EXCESS (k : Nat) : Nat := 0x0A0018 + k * 0x40
def SL_EXCESS_EXCESS (k : Nat) : Field := ⟨SL_EXCESS k, 31, 0⟩
def SL_CLAMP (k : Nat) : Nat := 0x0A001C + k * 0x40
def SL_CLAMP_CLOCKS (k : Nat) : Field := ⟨SL_CLAMP k, 31, 0⟩
def SL_CAL (k : Nat) : Nat := 0x0A0020 + k * 0x40
def SL_CAL_GAIN (k : Nat) : Field := ⟨SL_CAL k, 31, 16⟩
def SL_CAL_OFS (k : Nat) : Field := ⟨SL_CAL k, 15, 0⟩
def SL_CALT (k : Nat) : Nat := 0x0A0024 + k * 0x40
def SL_CALT_TICK (k : Nat) : Field := ⟨SL_CALT k, 31, 0⟩
def SL_GAP (k : Nat) : Nat := 0x0A0028 + k * 0x40
def SL_GAP_CLOCKS (k : Nat) : Field := ⟨SL_GAP k, 31, 0⟩
def SL_STAT (k : Nat) : Nat := 0x0A002C + k * 0x40
def SL_STAT_SUBNOW (k : Nat) : Field := ⟨SL_STAT k, 31, 31⟩
def SL_STAT_PERM (k : Nat) : Field := ⟨SL_STAT k, 30, 30⟩
def SL_STAT_RECON (k : Nat) : Field := ⟨SL_STAT k, 29, 29⟩
def SL_STAT_CLAMP (k : Nat) : Field := ⟨SL_STAT k, 4, 4⟩
def SL_STAT_SHADOW (k : Nat) : Field := ⟨SL_STAT k, 3, 3⟩
def SL_STAT_CAL (k : Nat) : Field := ⟨SL_STAT k, 2, 2⟩
def SL_STAT_SAT (k : Nat) : Field := ⟨SL_STAT k, 1, 1⟩
def SL_STAT_STUCK (k : Nat) : Field := ⟨SL_STAT k, 0, 0⟩
def US_CFG (k : Nat) : Nat := 0x0A0030 + k * 0x40
def US_CFG_ENA (k : Nat) : Field := ⟨US_CFG k, 31, 31⟩
def US_CFG_CAL_MS (k : Nat) : Field := ⟨US_CFG k, 27, 24⟩
def US_CFG_TOL (k : Nat) : Field := ⟨US_CFG k, 23, 16⟩
def US_CFG_ROUND (k : Nat) : Field := ⟨US_CFG k, 15, 0⟩
def US_STAT (k : Nat) : Nat := 0x0A0034 + k * 0x40
def US_STAT_PERM (k : Nat) : Field := ⟨US_STAT k, 31, 31⟩
def US_STAT_HALTED (k : Nat) : Field := ⟨US_STAT k, 30, 30⟩
def US_STAT_TARGET (k : Nat) : Field := ⟨US_STAT k, 29, 24⟩
def US_STAT_STEP (k : Nat) : Field := ⟨US_STAT k, 18, 16⟩
def US_STAT_ROUNDS (k : Nat) : Field := ⟨US_STAT k, 15, 0⟩
def RSV_EXC : Nat := 0x0A0C00
def RSV_EXC_ENA : Field := ⟨RSV_EXC, 31, 31⟩
def RSV_EXC_AMP : Field := ⟨RSV_EXC, 27, 24⟩
def RSV_EXC_PER : Field := ⟨RSV_EXC, 15, 0⟩
def RSV_DLY : Nat := 0x0A0C04
def RSV_DLY_DELAY : Field := ⟨RSV_DLY, 15, 0⟩
def RSV_CYC : Nat := 0x0A0C08
def RSV_CYC_CYCLES : Field := ⟨RSV_CYC, 31, 0⟩

/-! ### PORT block: Tables 6-6 to 6-11 -/

def FP_CFG (p : Nat) : Nat := 0x0B0000 + p * 0x100
def FP_CFG_EN (p : Nat) : Field := ⟨FP_CFG p, 31, 31⟩
def FP_CFG_FUNC (p : Nat) : Field := ⟨FP_CFG p, 30, 28⟩
def FP_CFG_SE (p : Nat) : Field := ⟨FP_CFG p, 27, 27⟩
def FP_CFG_LVL (p : Nat) : Field := ⟨FP_CFG p, 26, 26⟩
def FP_CFG_REV (p : Nat) : Field := ⟨FP_CFG p, 25, 25⟩
def FP_CFG_PULL (p : Nat) : Field := ⟨FP_CFG p, 24, 24⟩
def FP_CFG_DEST (p : Nat) : Field := ⟨FP_CFG p, 20, 16⟩
def FP_CFG_DSUB (p : Nat) : Field := ⟨FP_CFG p, 14, 12⟩
def FP_CFG_ROLE (p : Nat) : Field := ⟨FP_CFG p, 9, 8⟩
def FP_CFG_LEAD (p : Nat) : Field := ⟨FP_CFG p, 4, 0⟩
def FP_CHK (p : Nat) : Nat := 0x0B0004 + p * 0x100
def FP_CHK_ACQ_T (p : Nat) : Field := ⟨FP_CHK p, 31, 28⟩
def FP_CHK_TAGREE (p : Nat) : Field := ⟨FP_CHK p, 27, 16⟩
def FP_CHK_MIN_EDGE (p : Nat) : Field := ⟨FP_CHK p, 11, 0⟩
def FP_CPR (p : Nat) : Nat := 0x0B0008 + p * 0x100
def FP_CPR_CPR (p : Nat) : Field := ⟨FP_CPR p, 24, 0⟩
def FP_IDX (p : Nat) : Nat := 0x0B000C + p * 0x100
def FP_IDX_MODE (p : Nat) : Field := ⟨FP_IDX p, 31, 30⟩
def FP_IDX_GATE (p : Nat) : Field := ⟨FP_IDX p, 29, 28⟩
def FP_IDX_TOL (p : Nat) : Field := ⟨FP_IDX p, 15, 0⟩
def FP_IDXPOS (p : Nat) : Nat := 0x0B0010 + p * 0x100
def FP_IDXPOS_IDXPOS (p : Nat) : Field := ⟨FP_IDXPOS p, 23, 0⟩
def FP_IDXDEV (p : Nat) : Nat := 0x0B0014 + p * 0x100
def FP_IDXDEV_VALID (p : Nat) : Field := ⟨FP_IDXDEV p, 31, 31⟩
def FP_IDXDEV_DEV (p : Nat) : Field := ⟨FP_IDXDEV p, 23, 0⟩
def FP_POS (p : Nat) : Nat := 0x0B0018 + p * 0x100
def FP_POS_COUNT (p : Nat) : Field := ⟨FP_POS p, 23, 0⟩
def FP_REV (p : Nat) : Nat := 0x0B001C + p * 0x100
def FP_REV_REV (p : Nat) : Field := ⟨FP_REV p, 15, 0⟩
def FP_LMF (p : Nat) : Nat := 0x0B0020 + p * 0x100
def FP_LMF_VALUE (p : Nat) : Field := ⟨FP_LMF p, 31, 0⟩
def FP_LMFH (p : Nat) : Nat := 0x0B0024 + p * 0x100
def FP_LMFH_VALUE (p : Nat) : Field := ⟨FP_LMFH p, 31, 0⟩
def FP_LMB (p : Nat) : Nat := 0x0B0028 + p * 0x100
def FP_LMB_VALUE (p : Nat) : Field := ⟨FP_LMB p, 31, 0⟩
def FP_LMBH (p : Nat) : Nat := 0x0B002C + p * 0x100
def FP_LMBH_VALUE (p : Nat) : Field := ⟨FP_LMBH p, 31, 0⟩
def FP_LEF (p : Nat) : Nat := 0x0B0030 + p * 0x100
def FP_LEF_VALUE (p : Nat) : Field := ⟨FP_LEF p, 31, 0⟩
def FP_LEFH (p : Nat) : Nat := 0x0B0034 + p * 0x100
def FP_LEFH_VALUE (p : Nat) : Field := ⟨FP_LEFH p, 31, 0⟩
def FP_LIL (p : Nat) : Nat := 0x0B0038 + p * 0x100
def FP_LIL_VALUE (p : Nat) : Field := ⟨FP_LIL p, 31, 0⟩
def FP_LILH (p : Nat) : Nat := 0x0B003C + p * 0x100
def FP_LILH_VALUE (p : Nat) : Field := ⟨FP_LILH p, 31, 0⟩
def FP_LIC (p : Nat) : Nat := 0x0B0040 + p * 0x100
def FP_LIC_VALUE (p : Nat) : Field := ⟨FP_LIC p, 31, 0⟩
def FP_LICH (p : Nat) : Nat := 0x0B0044 + p * 0x100
def FP_LICH_VALUE (p : Nat) : Field := ⟨FP_LICH p, 31, 0⟩
def FP_LTOT (p : Nat) : Nat := 0x0B0048 + p * 0x100
def FP_LTOT_VALUE (p : Nat) : Field := ⟨FP_LTOT p, 31, 0⟩
def FP_LTOTH (p : Nat) : Nat := 0x0B004C + p * 0x100
def FP_LTOTH_VALUE (p : Nat) : Field := ⟨FP_LTOTH p, 31, 0⟩
def FP_STAT (p : Nat) : Nat := 0x0B0050 + p * 0x100
def FP_STAT_PSTATE (p : Nat) : Field := ⟨FP_STAT p, 31, 30⟩
def FP_STAT_FAULTY (p : Nat) : Field := ⟨FP_STAT p, 29, 29⟩
def FP_STAT_LIM_TRIP (p : Nat) : Field := ⟨FP_STAT p, 28, 28⟩
def FP_STAT_CLRPEND (p : Nat) : Field := ⟨FP_STAT p, 27, 27⟩
def FP_STAT_LEVEL (p : Nat) : Field := ⟨FP_STAT p, 26, 26⟩
def FP_STAT_EMU_LAG (p : Nat) : Field := ⟨FP_STAT p, 25, 25⟩
def FP_STAT_WIRE (p : Nat) : Field := ⟨FP_STAT p, 7, 7⟩
def FP_STAT_EDGE (p : Nat) : Field := ⟨FP_STAT p, 6, 6⟩
def FP_STAT_ILLEGAL (p : Nat) : Field := ⟨FP_STAT p, 5, 5⟩
def FP_STAT_INDEX (p : Nat) : Field := ⟨FP_STAT p, 4, 4⟩
def FP_STAT_HALLC (p : Nat) : Field := ⟨FP_STAT p, 3, 3⟩
def FP_STAT_SSI (p : Nat) : Field := ⟨FP_STAT p, 2, 2⟩
def FP_STAT_OWE (p : Nat) : Field := ⟨FP_STAT p, 1, 1⟩
def FP_CMD (p : Nat) : Nat := 0x0B0054 + p * 0x100
def FP_CMD_TEST_ON (p : Nat) : Field := ⟨FP_CMD p, 2, 2⟩
def FP_CMD_TEST_OFF (p : Nat) : Field := ⟨FP_CMD p, 1, 1⟩
def FP_CMD_LIM_CLR (p : Nat) : Field := ⟨FP_CMD p, 0, 0⟩
def FP_EVT (p : Nat) : Nat := 0x0B0058 + p * 0x100
def FP_EVT_EVENTS (p : Nat) : Field := ⟨FP_EVT p, 31, 0⟩
def FP_SSI (p : Nat) : Nat := 0x0B0060 + p * 0x100
def FP_SSI_PER (p : Nat) : Field := ⟨FP_SSI p, 25, 16⟩
def FP_SSI_POSB (p : Nat) : Field := ⟨FP_SSI p, 13, 8⟩
def FP_SSI_GRAY (p : Nat) : Field := ⟨FP_SSI p, 7, 7⟩
def FP_SSI_STATB (p : Nat) : Field := ⟨FP_SSI p, 6, 4⟩
def FP_SSI_CRCW (p : Nat) : Field := ⟨FP_SSI p, 3, 0⟩
def FP_SSI2 (p : Nat) : Nat := 0x0B0064 + p * 0x100
def FP_SSI2_TO (p : Nat) : Field := ⟨FP_SSI2 p, 31, 24⟩
def FP_SSI2_POLY (p : Nat) : Field := ⟨FP_SSI2 p, 23, 16⟩
def FP_SSI2_ERRMASK (p : Nat) : Field := ⟨FP_SSI2 p, 15, 12⟩
def FP_SSI2_FAILN (p : Nat) : Field := ⟨FP_SSI2 p, 11, 8⟩
def FP_SSI2_DLY (p : Nat) : Field := ⟨FP_SSI2 p, 7, 0⟩
def FP_SSIRAW (p : Nat) : Nat := 0x0B0068 + p * 0x100
def FP_SSIRAW_RAW (p : Nat) : Field := ⟨FP_SSIRAW p, 31, 0⟩
def FP_SSI3 (p : Nat) : Nat := 0x0B006C + p * 0x100
def FP_SSI3_TRIGAX (p : Nat) : Field := ⟨FP_SSI3 p, 30, 28⟩
def FP_SSI3_TRIGDIV (p : Nat) : Field := ⟨FP_SSI3 p, 27, 24⟩
def FP_SSI3_MAXSTEP (p : Nat) : Field := ⟨FP_SSI3 p, 23, 0⟩
def FP_DIG (p : Nat) : Nat := 0x0B0070 + p * 0x100
def FP_DIG_SAMP (p : Nat) : Field := ⟨FP_DIG p, 29, 20⟩
def FP_DIG_REARM (p : Nat) : Field := ⟨FP_DIG p, 19, 10⟩
def FP_DIG_FREQTO (p : Nat) : Field := ⟨FP_DIG p, 9, 0⟩
def FP_FREQ (p : Nat) : Nat := 0x0B0074 + p * 0x100
def FP_FREQ_PERIOD (p : Nat) : Field := ⟨FP_FREQ p, 31, 0⟩
def FP_EMU (p : Nat) : Nat := 0x0B0080 + p * 0x100
def FP_EMU_ZAUTO (p : Nat) : Field := ⟨FP_EMU p, 31, 31⟩
def FP_EMU_SRC (p : Nat) : Field := ⟨FP_EMU p, 28, 24⟩
def FP_EMU_LINES (p : Nat) : Field := ⟨FP_EMU p, 15, 0⟩
def FP_EMUF (p : Nat) : Nat := 0x0B0084 + p * 0x100
def FP_EMUF_FMAX (p : Nat) : Field := ⟨FP_EMUF p, 14, 0⟩
def FP_EMIT (p : Nat) : Nat := 0x0B0088 + p * 0x100
def FP_EMIT_VALUE (p : Nat) : Field := ⟨FP_EMIT p, 31, 0⟩
def FP_EMITH (p : Nat) : Nat := 0x0B008C + p * 0x100
def FP_EMITH_VALUE (p : Nat) : Field := ⟨FP_EMITH p, 31, 0⟩
def FP_OWED (p : Nat) : Nat := 0x0B0090 + p * 0x100
def FP_OWED_VALUE (p : Nat) : Field := ⟨FP_OWED p, 31, 0⟩
def FP_OWEDH (p : Nat) : Nat := 0x0B0094 + p * 0x100
def FP_OWEDH_VALUE (p : Nat) : Field := ⟨FP_OWEDH p, 31, 0⟩

/-! ### FE block: Tables 3-6 to 3-15 -/

def FE_INFO (e : Nat) : Nat := 0x0C0000 + e * 0x8000
def FE_INFO_ROMREV (e : Nat) : Field := ⟨FE_INFO e, 15, 0⟩
def FE_LOAD (e : Nat) : Nat := 0x0C0004 + e * 0x8000
def FE_LOAD_LIVE (e : Nat) : Field := ⟨FE_LOAD e, 18, 0⟩
def FE_RESV (e : Nat) : Nat := 0x0C0008 + e * 0x8000
def FE_RESV_RESV (e : Nat) : Field := ⟨FE_RESV e, 18, 0⟩
def FE_STATUS (e : Nat) : Nat := 0x0C000C + e * 0x8000
def FE_STATUS_HALT (e : Nat) : Field := ⟨FE_STATUS e, 19, 16⟩
def FE_STATUS_RETRY (e : Nat) : Field := ⟨FE_STATUS e, 11, 8⟩
def FE_STATUS_ACTIVE (e : Nat) : Field := ⟨FE_STATUS e, 3, 0⟩
def FE_MMREC (e : Nat) : Nat := 0x0C0010 + e * 0x8000
def FE_MMREC_VALID (e : Nat) : Field := ⟨FE_MMREC e, 31, 31⟩
def FE_MMREC_PERSIST (e : Nat) : Field := ⟨FE_MMREC e, 30, 30⟩
def FE_MMREC_AXIS (e : Nat) : Field := ⟨FE_MMREC e, 25, 24⟩
def FE_MMREC_CYCLE (e : Nat) : Field := ⟨FE_MMREC e, 9, 0⟩
def FE_MMTICK (e : Nat) : Nat := 0x0C0014 + e * 0x8000
def FE_MMTICK_TICK_LO (e : Nat) : Field := ⟨FE_MMTICK e, 31, 0⟩
def FE_MMTICKH (e : Nat) : Nat := 0x0C0018 + e * 0x8000
def FE_MMTICKH_TICK_HI (e : Nat) : Field := ⟨FE_MMTICKH e, 31, 0⟩
def FE_AX_CFG (e : Nat) (k : Nat) : Nat := 0x0C0100 + e * 0x8000 + k * 0x20
def FE_AX_CFG_RES_GEAR (e : Nat) (k : Nat) : Field := ⟨FE_AX_CFG e k, 2, 2⟩
def FE_AX_CFG_RES_POS (e : Nat) (k : Nat) : Field := ⟨FE_AX_CFG e k, 1, 1⟩
def FE_AX_CFG_RES_SPD (e : Nat) (k : Nat) : Field := ⟨FE_AX_CFG e k, 0, 0⟩
def FE_AX_COST (e : Nat) (k : Nat) : Nat := 0x0C0104 + e * 0x8000 + k * 0x20
def FE_AX_COST_CHARGED (e : Nat) (k : Nat) : Field := ⟨FE_AX_COST e k, 25, 16⟩
def FE_AX_COST_PRESENT (e : Nat) (k : Nat) : Field := ⟨FE_AX_COST e k, 9, 0⟩
def FE_AX_LAT (e : Nat) (k : Nat) : Nat := 0x0C0108 + e * 0x8000 + k * 0x20
def FE_AX_LAT_LAT_MAX (e : Nat) (k : Nat) : Field := ⟨FE_AX_LAT e k, 31, 16⟩
def FE_AX_LAT_LAT_LAST (e : Nat) (k : Nat) : Field := ⟨FE_AX_LAT e k, 15, 0⟩
def FE_AX_MISS (e : Nat) (k : Nat) : Nat := 0x0C010C + e * 0x8000 + k * 0x20
def FE_AX_MISS_MISSES (e : Nat) (k : Nat) : Field := ⟨FE_AX_MISS e k, 15, 0⟩

/-! ### BUS block: Tables 9-4 and 9-5 -/

def BUS_VTH (r : Nat) : Nat := 0x0D0000 + r * 0x8000
def BUS_VTH_V_ASC (r : Nat) : Field := ⟨BUS_VTH r, 31, 24⟩
def BUS_VTH_V_REGEN_CUT (r : Nat) : Field := ⟨BUS_VTH r, 23, 16⟩
def BUS_VTH_V_CHOP (r : Nat) : Field := ⟨BUS_VTH r, 15, 8⟩
def BUS_VTH_V_UV (r : Nat) : Field := ⟨BUS_VTH r, 7, 0⟩
def BUS_CFG (r : Nat) : Nat := 0x0D0004 + r * 0x8000
def BUS_CFG_SHUNT (r : Nat) : Field := ⟨BUS_CFG r, 31, 16⟩
def BUS_CFG_CHOP_MIN (r : Nat) : Field := ⟨BUS_CFG r, 15, 8⟩
def BUS_CFG_HYST (r : Nat) : Field := ⟨BUS_CFG r, 7, 0⟩
def BUS_CHOP (r : Nat) : Nat := 0x0D0008 + r * 0x8000
def BUS_CHOP_EN (r : Nat) : Field := ⟨BUS_CHOP r, 31, 31⟩
def BUS_CHOP_CHKF (r : Nat) : Field := ⟨BUS_CHOP r, 27, 24⟩
def BUS_CHOP_RBRK (r : Nat) : Field := ⟨BUS_CHOP r, 15, 0⟩
def BUS_REGEN (r : Nat) : Nat := 0x0D000C + r * 0x8000
def BUS_REGEN_TEN (r : Nat) : Field := ⟨BUS_REGEN r, 31, 31⟩
def BUS_REGEN_TSENS (r : Nat) : Field := ⟨BUS_REGEN r, 27, 24⟩
def BUS_REGEN_TLO (r : Nat) : Field := ⟨BUS_REGEN r, 23, 16⟩
def BUS_REGEN_THI (r : Nat) : Field := ⟨BUS_REGEN r, 15, 8⟩
def BUS_REGEN2 (r : Nat) : Nat := 0x0D0010 + r * 0x8000
def BUS_REGEN2_RAMP (r : Nat) : Field := ⟨BUS_REGEN2 r, 25, 16⟩
def BUS_REGEN2_RLIM (r : Nat) : Field := ⟨BUS_REGEN2 r, 11, 0⟩
def BUS_ADM (r : Nat) : Nat := 0x0D0014 + r * 0x8000
def BUS_ADM_EN (r : Nat) : Field := ⟨BUS_ADM r, 31, 31⟩
def BUS_ADM_AUTO (r : Nat) : Field := ⟨BUS_ADM r, 30, 30⟩
def BUS_ADM_PRES (r : Nat) : Field := ⟨BUS_ADM r, 29, 25⟩
def BUS_ADM_PRES_EN (r : Nat) : Field := ⟨BUS_ADM r, 24, 24⟩
def BUS_ADM_PACKCH (r : Nat) : Field := ⟨BUS_ADM r, 19, 16⟩
def BUS_ADM_CBUS (r : Nat) : Field := ⟨BUS_ADM r, 15, 0⟩
def BUS_ADM2 (r : Nat) : Nat := 0x0D0018 + r * 0x8000
def BUS_ADM2_IPRE (r : Nat) : Field := ⟨BUS_ADM2 r, 31, 24⟩
def BUS_ADM2_IRAMP (r : Nat) : Field := ⟨BUS_ADM2 r, 23, 16⟩
def BUS_ADM2_DONE_V (r : Nat) : Field := ⟨BUS_ADM2 r, 15, 8⟩
def BUS_ADM2_V_PACK_MIN (r : Nat) : Field := ⟨BUS_ADM2 r, 7, 0⟩
def BUS_ADM3 (r : Nat) : Nat := 0x0D001C + r * 0x8000
def BUS_ADM3_PRE_TO (r : Nat) : Field := ⟨BUS_ADM3 r, 31, 16⟩
def BUS_ADM3_RMV_N (r : Nat) : Field := ⟨BUS_ADM3 r, 11, 8⟩
def BUS_ADM4 (r : Nat) : Nat := 0x0D0020 + r * 0x8000
def BUS_ADM4_IMIN (r : Nat) : Field := ⟨BUS_ADM4 r, 27, 16⟩
def BUS_ADM4_KDIV (r : Nat) : Field := ⟨BUS_ADM4 r, 9, 0⟩
def BUS_STAT (r : Nat) : Nat := 0x0D0040 + r * 0x8000
def BUS_STAT_ADM (r : Nat) : Field := ⟨BUS_STAT r, 31, 30⟩
def BUS_STAT_PACK_SEEN (r : Nat) : Field := ⟨BUS_STAT r, 29, 29⟩
def BUS_STAT_CHOP_ON (r : Nat) : Field := ⟨BUS_STAT r, 28, 28⟩
def BUS_STAT_CHOPF (r : Nat) : Field := ⟨BUS_STAT r, 27, 27⟩
def BUS_STAT_SHORT (r : Nat) : Field := ⟨BUS_STAT r, 26, 26⟩
def BUS_STAT_CUT (r : Nat) : Field := ⟨BUS_STAT r, 25, 25⟩
def BUS_STAT_TFORBID (r : Nat) : Field := ⟨BUS_STAT r, 24, 24⟩
def BUS_STAT_UV (r : Nat) : Field := ⟨BUS_STAT r, 23, 23⟩
def BUS_STAT_VCUT_LIVE (r : Nat) : Field := ⟨BUS_STAT r, 7, 0⟩
def BUS_FAST (r : Nat) : Nat := 0x0D0044 + r * 0x8000
def BUS_FAST_I (r : Nat) : Field := ⟨BUS_FAST r, 31, 16⟩
def BUS_FAST_V (r : Nat) : Field := ⟨BUS_FAST r, 15, 0⟩
def BUS_REGENS (r : Nat) : Nat := 0x0D0048 + r * 0x8000
def BUS_REGENS_RLIM_LIVE (r : Nat) : Field := ⟨BUS_REGENS r, 11, 0⟩
def BUS_CMD (r : Nat) : Nat := 0x0D004C + r * 0x8000
def BUS_CMD_ADMIT (r : Nat) : Field := ⟨BUS_CMD r, 1, 1⟩
def BUS_CMD_OPEN (r : Nat) : Field := ⟨BUS_CMD r, 0, 0⟩
def BUS_DRAWN (r : Nat) : Nat := 0x0D0050 + r * 0x8000
def BUS_DRAWN_DRAWN (r : Nat) : Field := ⟨BUS_DRAWN r, 31, 0⟩
def BUS_DRAWNH (r : Nat) : Nat := 0x0D0054 + r * 0x8000
def BUS_DRAWNH_DRAWN (r : Nat) : Field := ⟨BUS_DRAWNH r, 31, 0⟩
def BUS_RET (r : Nat) : Nat := 0x0D0058 + r * 0x8000
def BUS_RET_RETURNED (r : Nat) : Field := ⟨BUS_RET r, 31, 0⟩
def BUS_RETH (r : Nat) : Nat := 0x0D005C + r * 0x8000
def BUS_RETH_RETURNED (r : Nat) : Field := ⟨BUS_RETH r, 31, 0⟩
def BUS_CHOPT (r : Nat) : Nat := 0x0D0060 + r * 0x8000
def BUS_CHOPT_TICKS (r : Nat) : Field := ⟨BUS_CHOPT r, 31, 0⟩
def BUS_SWAPS (r : Nat) : Nat := 0x0D0064 + r * 0x8000
def BUS_SWAPS_REMOVALS (r : Nat) : Field := ⟨BUS_SWAPS r, 31, 16⟩
def BUS_SWAPS_ADMITS (r : Nat) : Field := ⟨BUS_SWAPS r, 15, 0⟩

/-! ### HK block: Tables 10-8 to 10-11 -/

def HK_CFG (c : Nat) : Nat := 0x0E0000 + c * 0x40
def HK_CFG_PINEDGE (c : Nat) : Field := ⟨HK_CFG c, 31, 30⟩
def HK_SEL (c : Nat) : Nat := 0x0E0004 + c * 0x40
def HK_SEL_CH (c : Nat) : Field := ⟨HK_SEL c, 5, 0⟩
def HK_CMD (c : Nat) : Nat := 0x0E0008 + c * 0x40
def HK_CMD_START (c : Nat) : Field := ⟨HK_CMD c, 31, 31⟩
def HK_CMD_URGENT (c : Nat) : Field := ⟨HK_CMD c, 30, 30⟩
def HK_RES (c : Nat) : Nat := 0x0E000C + c * 0x40
def HK_RES_NEW (c : Nat) : Field := ⟨HK_RES c, 31, 31⟩
def HK_RES_OVR (c : Nat) : Field := ⟨HK_RES c, 30, 30⟩
def HK_RES_SETL (c : Nat) : Field := ⟨HK_RES c, 29, 29⟩
def HK_RES_OVRN (c : Nat) : Field := ⟨HK_RES c, 28, 28⟩
def HK_RES_URG (c : Nat) : Field := ⟨HK_RES c, 27, 27⟩
def HK_RES_CH (c : Nat) : Field := ⟨HK_RES c, 26, 21⟩
def HK_RES_CODE (c : Nat) : Field := ⟨HK_RES c, 18, 0⟩
def HK_STAT (c : Nat) : Nat := 0x0E0010 + c * 0x40
def HK_STAT_BUSY (c : Nat) : Field := ⟨HK_STAT c, 31, 31⟩
def HK_STAT_CLASS (c : Nat) : Field := ⟨HK_STAT c, 30, 29⟩
def HK_STAT_ROUND_LATE (c : Nat) : Field := ⟨HK_STAT c, 28, 28⟩
def HK_STAT_CH (c : Nat) : Field := ⟨HK_STAT c, 5, 0⟩
def HK_CNT (c : Nat) : Nat := 0x0E0014 + c * 0x40
def HK_CNT_OVERRUN (c : Nat) : Field := ⟨HK_CNT c, 31, 16⟩
def HK_CNT_ABORTS (c : Nat) : Field := ⟨HK_CNT c, 15, 0⟩
def HK_MODE : Nat := 0x0E0080
def HK_MODE_MODE : Field := ⟨HK_MODE, 31, 31⟩
def HK_MODE_ROUND : Field := ⟨HK_MODE, 22, 16⟩
def HK_MODE_XCH : Field := ⟨HK_MODE, 13, 8⟩
def HK_MODE_XN : Field := ⟨HK_MODE, 7, 4⟩
def HK_MODE_XBAND : Field := ⟨HK_MODE, 3, 0⟩
def HK_CH (c : Nat) : Nat := 0x0E0100 + c * 0x8
def HK_CH_EN (c : Nat) : Field := ⟨HK_CH c, 31, 31⟩
def HK_CH_CONV (c : Nat) : Field := ⟨HK_CH c, 30, 30⟩
def HK_CH_RNG (c : Nat) : Field := ⟨HK_CH c, 29, 28⟩
def HK_CH_WMODE (c : Nat) : Field := ⟨HK_CH c, 27, 27⟩
def HK_CH_WAXIS (c : Nat) : Field := ⟨HK_CH c, 26, 24⟩
def HK_CH_NPER (c : Nat) : Field := ⟨HK_CH c, 23, 20⟩
def HK_CH_WLEN (c : Nat) : Field := ⟨HK_CH c, 14, 0⟩
def HK_COR (c : Nat) : Nat := 0x0E0104 + c * 0x8
def HK_COR_GAIN (c : Nat) : Field := ⟨HK_COR c, 31, 16⟩
def HK_COR_OFS (c : Nat) : Field := ⟨HK_COR c, 15, 0⟩
def HK_VAL (c : Nat) : Nat := 0x0E0400 + c * 0x4
def HK_VAL_VALID (c : Nat) : Field := ⟨HK_VAL c, 31, 31⟩
def HK_VAL_OVR (c : Nat) : Field := ⟨HK_VAL c, 30, 30⟩
def HK_VAL_SETL (c : Nat) : Field := ⟨HK_VAL c, 29, 29⟩
def HK_VAL_CODE (c : Nat) : Field := ⟨HK_VAL c, 18, 0⟩
def HK_TMP_TYPE (s : Nat) : Nat := 0x0E0800 + s * 0x10
def HK_TMP_TYPE_EN (s : Nat) : Field := ⟨HK_TMP_TYPE s, 31, 31⟩
def HK_TMP_TYPE_KIND (s : Nat) : Field := ⟨HK_TMP_TYPE s, 30, 30⟩
def HK_TMP_TYPE_NF (s : Nat) : Field := ⟨HK_TMP_TYPE s, 29, 14⟩
def HK_TMP_TYPE_B (s : Nat) : Field := ⟨HK_TMP_TYPE s, 13, 0⟩
def TMP_NTC (s : Nat) : Nat := 0x0E0804 + s * 0x10
def TMP_NTC_RNOM (s : Nat) : Field := ⟨TMP_NTC s, 31, 16⟩
def TMP_NTC_RBIAS (s : Nat) : Field := ⟨TMP_NTC s, 15, 0⟩
def TMP_LIM (s : Nat) : Nat := 0x0E0808 + s * 0x10
def TMP_LIM_TSTART (s : Nat) : Field := ⟨TMP_LIM s, 31, 24⟩
def TMP_LIM_TSTOP (s : Nat) : Field := ⟨TMP_LIM s, 23, 16⟩
def TMP_LIM_TSD (s : Nat) : Field := ⟨TMP_LIM s, 15, 8⟩
def TMP_LIM_SDHYST (s : Nat) : Field := ⟨TMP_LIM s, 7, 4⟩
def TMP_LIM_MARGIN (s : Nat) : Field := ⟨TMP_LIM s, 3, 0⟩
def TMP_STAT (s : Nat) : Nat := 0x0E080C + s * 0x10
def TMP_STAT_AXMASK (s : Nat) : Field := ⟨TMP_STAT s, 31, 24⟩
def TMP_STAT_FAIL (s : Nat) : Field := ⟨TMP_STAT s, 23, 23⟩
def TMP_STAT_SD (s : Nat) : Field := ⟨TMP_STAT s, 22, 22⟩
def TMP_STAT_HOT (s : Nat) : Field := ⟨TMP_STAT s, 21, 21⟩
def TMP_STAT_T (s : Nat) : Field := ⟨TMP_STAT s, 15, 0⟩
def TMP_DF (a : Nat) : Nat := 0x0E0A00 + a * 0x4
def TMP_DF_SUBST (a : Nat) : Field := ⟨TMP_DF a, 31, 31⟩
def TMP_DF_SENSOR (a : Nat) : Field := ⟨TMP_DF a, 28, 24⟩
def TMP_DF_DF (a : Nat) : Field := ⟨TMP_DF a, 12, 0⟩
def WM_CFG (m : Nat) : Nat := 0x0E0C00 + m * 0x20
def WM_CFG_EN (m : Nat) : Field := ⟨WM_CFG m, 31, 31⟩
def WM_CFG_WAKE (m : Nat) : Field := ⟨WM_CFG m, 30, 30⟩
def WM_CFG_IRQ (m : Nat) : Field := ⟨WM_CFG m, 29, 29⟩
def WM_CFG_FLT (m : Nat) : Field := ⟨WM_CFG m, 28, 28⟩
def WM_CFG_COND (m : Nat) : Field := ⟨WM_CFG m, 27, 26⟩
def WM_CFG_TB (m : Nat) : Field := ⟨WM_CFG m, 25, 21⟩
def WM_CFG_CAP (m : Nat) : Field := ⟨WM_CFG m, 20, 20⟩
def WM_CFG_IN (m : Nat) : Field := ⟨WM_CFG m, 19, 16⟩
def WM_CFG_FILT (m : Nat) : Field := ⟨WM_CFG m, 15, 8⟩
def WM_CFG_HYS (m : Nat) : Field := ⟨WM_CFG m, 4, 0⟩
def WM_THR (m : Nat) : Nat := 0x0E0C04 + m * 0x20
def WM_THR_HI (m : Nat) : Field := ⟨WM_THR m, 25, 16⟩
def WM_THR_LO (m : Nat) : Field := ⟨WM_THR m, 9, 0⟩
def WM_STAT (m : Nat) : Nat := 0x0E0C08 + m * 0x20
def WM_STAT_LEVEL (m : Nat) : Field := ⟨WM_STAT m, 31, 31⟩
def WM_STAT_ARMED (m : Nat) : Field := ⟨WM_STAT m, 30, 30⟩
def WM_STAT_IRQ (m : Nat) : Field := ⟨WM_STAT m, 29, 29⟩
def WM_STAT_WOKE (m : Nat) : Field := ⟨WM_STAT m, 28, 28⟩
def WM_STAT_EVENTS (m : Nat) : Field := ⟨WM_STAT m, 15, 0⟩
def WM_CAP (m : Nat) : Nat := 0x0E0C0C + m * 0x20
def WM_CAP_TICK_LO (m : Nat) : Field := ⟨WM_CAP m, 31, 0⟩
def WM_CAPH (m : Nat) : Nat := 0x0E0C10 + m * 0x20
def WM_CAPH_TICK_HI (m : Nat) : Field := ⟨WM_CAPH m, 31, 0⟩
def WM_CAPV (m : Nat) : Nat := 0x0E0C14 + m * 0x20
def WM_CAPV_VALUE (m : Nat) : Field := ⟨WM_CAPV m, 31, 0⟩
def WM_CAPS (m : Nat) : Nat := 0x0E0C18 + m * 0x20
def WM_CAPS_FULL (m : Nat) : Field := ⟨WM_CAPS m, 31, 31⟩
def WM_CAPS_OVF (m : Nat) : Field := ⟨WM_CAPS m, 30, 30⟩
def PC_CAPEN : Nat := 0x0E0E00
def PC_CAPEN_EN : Field := ⟨PC_CAPEN, 23, 0⟩
def PC_IRQEN : Nat := 0x0E0E04
def PC_IRQEN_EN : Field := ⟨PC_IRQEN, 23, 0⟩
def PC_WAKEEN : Nat := 0x0E0E08
def PC_WAKEEN_EN : Field := ⟨PC_WAKEEN, 23, 0⟩
def PC_IRQ : Nat := 0x0E0E0C
def PC_IRQ_PEND : Field := ⟨PC_IRQ, 23, 0⟩
def WAKE_CMD : Nat := 0x0E0E10
def WAKE_CMD_NWAKE : Field := ⟨WAKE_CMD, 31, 31⟩
def WAKE_CMD_ACK : Field := ⟨WAKE_CMD, 0, 0⟩
def PC_CAP (n : Nat) : Nat := 0x0E0E40 + n * 0x8
def PC_CAP_TICK (n : Nat) : Field := ⟨PC_CAP n, 31, 0⟩
def PC_CAPS (n : Nat) : Nat := 0x0E0E44 + n * 0x8
def PC_CAPS_FULL (n : Nat) : Field := ⟨PC_CAPS n, 31, 31⟩
def PC_CAPS_OVF (n : Nat) : Field := ⟨PC_CAPS n, 30, 30⟩
def PC_CAPS_RISE (n : Nat) : Field := ⟨PC_CAPS n, 29, 29⟩
def PC_CAPS_THETA (n : Nat) : Field := ⟨PC_CAPS n, 15, 0⟩

/-! ### CUE block: Tables 2-5 to 2-17 -/

def CUE_ENTRY (i : Nat) : Nat := 0x100000 + i * 0x4
def CUE_STATUS : Nat := 0x120000
def CUE_STATUS_BEHIND : Field := ⟨CUE_STATUS, 31, 31⟩
def CUE_STATUS_REASON : Field := ⟨CUE_STATUS, 19, 16⟩
def CUE_STATUS_SRC : Field := ⟨CUE_STATUS, 14, 14⟩
def CUE_STATUS_ENTRY : Field := ⟨CUE_STATUS, 13, 0⟩
def CUE_NEIGHBOUR : Nat := 0x120004
def CUE_NEIGHBOUR_VALID : Field := ⟨CUE_NEIGHBOUR, 31, 31⟩
def CUE_NEIGHBOUR_ENTRY : Field := ⟨CUE_NEIGHBOUR, 13, 0⟩
def CUE_SWITCH : Nat := 0x120008
def CUE_SWITCH_MASK : Field := ⟨CUE_SWITCH, 20, 0⟩
def CUE_FREE : Nat := 0x12000C
def CUE_FREE_FREE1 : Field := ⟨CUE_FREE, 29, 16⟩
def CUE_FREE_FREE0 : Field := ⟨CUE_FREE, 13, 0⟩
def CUE_SKIPQ : Nat := 0x120010
def CUE_SKIPQ_VALID : Field := ⟨CUE_SKIPQ, 31, 31⟩
def CUE_SKIPQ_OVF : Field := ⟨CUE_SKIPQ, 30, 30⟩
def CUE_SKIPQ_TB : Field := ⟨CUE_SKIPQ, 24, 20⟩
def CUE_SKIPQ_ENTRY : Field := ⟨CUE_SKIPQ, 13, 0⟩
def CUE_SKIPT : Nat := 0x120014
def CUE_SKIPT_TICK : Field := ⟨CUE_SKIPT, 31, 0⟩
def CUE_IRQQ : Nat := 0x120018
def CUE_IRQQ_VALID : Field := ⟨CUE_IRQQ, 31, 31⟩
def CUE_IRQQ_OVF : Field := ⟨CUE_IRQQ, 30, 30⟩
def CUE_IRQQ_ENTRY : Field := ⟨CUE_IRQQ, 29, 16⟩
def CUE_IRQQ_TAG : Field := ⟨CUE_IRQQ, 7, 0⟩
def CUE_TB_CFG (n : Nat) : Nat := 0x120100 + n * 0x20
def CUE_TB_CFG_MODE (n : Nat) : Field := ⟨CUE_TB_CFG n, 31, 31⟩
def CUE_TB_CFG_RUN (n : Nat) : Field := ⟨CUE_TB_CFG n, 30, 30⟩
def CUE_TB_CFG_SHIFT (n : Nat) : Field := ⟨CUE_TB_CFG n, 4, 0⟩
def CUE_TB_VMAX (n : Nat) : Nat := 0x120104 + n * 0x20
def CUE_TB_VMAX_VMAX (n : Nat) : Field := ⟨CUE_TB_VMAX n, 31, 0⟩
def CUE_TB_STAT (n : Nat) : Nat := 0x120108 + n * 0x20
def CUE_TB_STAT_OVS (n : Nat) : Field := ⟨CUE_TB_STAT n, 31, 31⟩
def CUE_TB_STAT_JUMP (n : Nat) : Field := ⟨CUE_TB_STAT n, 30, 30⟩
def CUE_TB_STAT_LIMIT (n : Nat) : Field := ⟨CUE_TB_STAT n, 29, 29⟩
def CUE_TB_STAT_STALE (n : Nat) : Field := ⟨CUE_TB_STAT n, 28, 28⟩
def CUE_TB_STAT_DIRN (n : Nat) : Field := ⟨CUE_TB_STAT n, 27, 27⟩
def CUE_TB_STAT_NOOP (n : Nat) : Field := ⟨CUE_TB_STAT n, 26, 26⟩
def CUE_TB_STAT_SUPP (n : Nat) : Field := ⟨CUE_TB_STAT n, 15, 0⟩
def CUE_TB_SKIP (n : Nat) : Nat := 0x12010C + n * 0x20
def CUE_TB_SKIP_SKIPS (n : Nat) : Field := ⟨CUE_TB_SKIP n, 31, 0⟩
def CUE_TB_VAL (n : Nat) : Nat := 0x120110 + n * 0x20
def CUE_TB_VAL_VALUE (n : Nat) : Field := ⟨CUE_TB_VAL n, 31, 0⟩
def CUE_TB_VALH (n : Nat) : Nat := 0x120114 + n * 0x20
def CUE_TB_VALH_VALUE_HI (n : Nat) : Field := ⟨CUE_TB_VALH n, 31, 0⟩
def CUE_CAP_TICK (k : Nat) : Nat := 0x120400 + k * 0x10
def CUE_CAP_TICK_TICK_LO (k : Nat) : Field := ⟨CUE_CAP_TICK k, 31, 0⟩
def CUE_CAP_TICKH (k : Nat) : Nat := 0x120404 + k * 0x10
def CUE_CAP_TICKH_TICK_HI (k : Nat) : Field := ⟨CUE_CAP_TICKH k, 31, 0⟩
def CUE_CAP_VALUE (k : Nat) : Nat := 0x120408 + k * 0x10
def CUE_CAP_VALUE_VALUE (k : Nat) : Field := ⟨CUE_CAP_VALUE k, 31, 0⟩
def CUE_CAP_STAT (k : Nat) : Nat := 0x12040C + k * 0x10
def CUE_CAP_STAT_FULL (k : Nat) : Field := ⟨CUE_CAP_STAT k, 31, 31⟩
def CUE_CAP_STAT_OVF (k : Nat) : Field := ⟨CUE_CAP_STAT k, 30, 30⟩
def CUE_CAP_STAT_TB (k : Nat) : Field := ⟨CUE_CAP_STAT k, 24, 20⟩
def CUE_CAP_STAT_ENTRY (k : Nat) : Field := ⟨CUE_CAP_STAT k, 13, 0⟩

/-- One row of the address map: a register or a two-level array of registers, the masks of its LK, RW, W1C,
RC and WO fields (Table 0-2), whether the next word is its high word (R5), and its reset word. -/
structure RegRow where
  base : Nat
  stride : Nat
  count : Nat
  stride2 : Nat
  count2 : Nat
  reset : Nat → Nat
  rw : Nat := 0
  lk : Nat := 0
  w1c : Nat := 0
  rc : Nat := 0
  ro : Nat := 0
  wo : Nat := 0
  pair : Bool := false

/-- Whether the row lists address `a`: an instance index inside the array, and the register's own word (R372:
a misaligned address is never listed). -/
def RegRow.holds (r : RegRow) (a : Nat) : Bool :=
  decide (r.base ≤ a) && decide ((a - r.base) / r.stride < r.count) &&
    (let d := (a - r.base) % r.stride
     decide (d / r.stride2 < r.count2) && decide (d % r.stride2 = 0))

/-- The first index of the instance at address `a`. -/
def RegRow.index (r : RegRow) (a : Nat) : Nat := (a - r.base) / r.stride

/-- The second index of the instance at address `a`. -/
def RegRow.index2 (r : RegRow) (a : Nat) : Nat := ((a - r.base) % r.stride) / r.stride2

/-- Default reaction code of source `s` (Tables 3-5, 4-4, 8-6, 9-3, 10-7, 11-2; R21, R120, R123, R156, R199). -/
def defaultCode (s : Nat) : Nat :=
  if s < 0x60 then (if s % 4 = 1 then 0 else 4)
  else if s < 0xA9 then 0
  else if s < 0xC9 then (if (s - 0xA9) % 4 = 1 then 4 else 2)
  else if s < 0xD7 then
    (match (s - 0xC9) % 7 with | 0 => 3 | 2 => 2 | 4 => 2 | 6 => 2 | _ => 0)
  else if s < 0xE3 then
    (match (s - 0xD7) % 3 with | 0 => 4 | 2 => 5 | _ => 0)
  else if s = 0xE3 ∨ s = 0xE5 then 6
  else if s = 0xE7 ∨ s = 0xEA then 5
  else if s = 0xE8 ∨ s = 0xEB ∨ s = 0xF9 then 2
  else 0

/-- Reset word of FLT_CFGs (Table 16-3); the registers of the reserved IDs 0xFC to 0xFF read 0 (R273). -/
def fltCfgReset (s : Nat) : Nat := if s < 0xFC then 0x03E80100 + defaultCode s else 0

/-- Reset word of US_CFG (Table 16-7): only SL7, SL15, SL23, SL31 and SL40 hold the register. -/
def usCfgReset (k : Nat) : Nat := if (k < 32 ∧ k % 8 = 7) ∨ k = 40 then 0x81080064 else 0

/-- Reset word of HK_TMP_TYPEs (Table 10-10): die sensors are enabled. -/
def tmpTypeReset (s : Nat) : Nat := if s < 12 then 0x1020CD7A else 0x9020CD7A

/-- Reset word of TMP_LIMs (Table 16-10). -/
def tmpLimReset (s : Nat) : Nat := if s < 12 then 0x82A0AA55 else 0xA5B9BE55

/-- Reset word of TMP_STATs (Table 16-10). -/
def tmpStatReset (s : Nat) : Nat :=
  match s with
  | 12 => 0xFF000000 | 13 => 0x03000000 | 14 => 0x0C000000 | 15 => 0x30000000 | 16 => 0xC0000000 | _ => 0

/-- Rows of the SYS block. -/
def sysRows : List RegRow :=
    [ { base := 0x000000, stride := 0x4, count := 1, stride2 := 0x4, count2 := 1, reset := fun _ => 0x83200001, ro := 0xFFFFFFFF }  -- SYS_ID
    , { base := 0x000004, stride := 0x4, count := 1, stride2 := 0x4, count2 := 1, reset := fun _ => 0x9C000000, ro := 0xFFC30000 }  -- SYS_STATUS
    , { base := 0x000008, stride := 0x4, count := 1, stride2 := 0x4, count2 := 1, reset := fun _ => 0x0, wo := 0x3 }  -- SYS_PWR
    , { base := 0x00000C, stride := 0x4, count := 1, stride2 := 0x4, count2 := 1, reset := fun _ => 0x0, wo := 0x3 }  -- SYS_CMD
    , { base := 0x000010, stride := 0x4, count := 1, stride2 := 0x4, count2 := 1, reset := fun _ => 0x0, wo := 0xFFFF0003 }  -- SYS_LCCMD
    , { base := 0x000014, stride := 0x4, count := 1, stride2 := 0x4, count2 := 1, reset := fun _ => 0x0, ro := 0xF0F01FF }  -- SYS_IMGSTAT
    , { base := 0x000018, stride := 0x4, count := 1, stride2 := 0x4, count2 := 1, reset := fun _ => 0x0, ro := 0xFFFFFF }  -- SYS_IMGAT
    , { base := 0x00001C, stride := 0x4, count := 1, stride2 := 0x4, count2 := 1, reset := fun _ => 0x0, ro := 0xFFFFFFFF }  -- SYS_IMGID
    , { base := 0x000020, stride := 0x4, count := 1, stride2 := 0x4, count2 := 1, reset := fun _ => 0x0, ro := 0xFFFFFFFF }  -- SYS_BOOTT
    , { base := 0x000024, stride := 0x4, count := 1, stride2 := 0x4, count2 := 1, reset := fun _ => 0x0, ro := 0xFFFFFFFF }  -- SYS_DARKT
    ]

/-- Rows of the FLT block. -/
def fltRows : List RegRow :=
    [ { base := 0x010000, stride := 0x4, count := 1, stride2 := 0x4, count2 := 1, reset := fun _ => 0x0, ro := 0xF00001FF }  -- FLT_STATUS
    , { base := 0x010004, stride := 0x4, count := 1, stride2 := 0x4, count2 := 1, reset := fun _ => 0x0, w1c := 0x80000000, ro := 0x600007FF }  -- FLT_FIRST
    , { base := 0x010008, stride := 0x4, count := 1, stride2 := 0x4, count2 := 1, reset := fun _ => 0x0, ro := 0xFFFFFFFF, pair := true }  -- FLT_FIRSTT
    , { base := 0x01000C, stride := 0x4, count := 1, stride2 := 0x4, count2 := 1, reset := fun _ => 0x0, ro := 0xFFFFFFFF }  -- FLT_FIRSTTH
    , { base := 0x010010, stride := 0x4, count := 8, stride2 := 0x4, count2 := 1, reset := fun _ => 0x0, ro := 0xFFFFFFFF }  -- FLT_STVEC
    , { base := 0x010030, stride := 0x4, count := 1, stride2 := 0x4, count2 := 1, reset := fun _ => 0x0, wo := 0x800000FF }  -- FLT_CLR
    , { base := 0x010034, stride := 0x4, count := 1, stride2 := 0x4, count2 := 1, reset := fun _ => 0x0, wo := 0xF000000F }  -- FLT_INJ
    , { base := 0x010038, stride := 0x4, count := 1, stride2 := 0x4, count2 := 1, reset := fun _ => 0x0, ro := 0xF }  -- FLT_INJS
    , { base := 0x01003C, stride := 0x4, count := 1, stride2 := 0x4, count2 := 1, reset := fun _ => 0x14, rw := 0x100, lk := 0xFF, ro := 0x80000000 }  -- BEACON_CTL
    , { base := 0x010040, stride := 0x4, count := 1, stride2 := 0x4, count2 := 1, reset := fun _ => 0x800, lk := 0x1FFF }  -- FLT_DRT
    , { base := 0x010044, stride := 0x4, count := 1, stride2 := 0x4, count2 := 1, reset := fun _ => 0x0, w1c := 0x80000000, ro := 0x47130000 }  -- FLT_ACC
    , { base := 0x010048, stride := 0x4, count := 1, stride2 := 0x4, count2 := 1, reset := fun _ => 0x0, ro := 0xFFFFFF }  -- FLT_ACCA
    , { base := 0x01004C, stride := 0x4, count := 1, stride2 := 0x4, count2 := 1, reset := fun _ => 0x0, ro := 0xFFFFFFFF, pair := true }  -- FLT_ACCT
    , { base := 0x010050, stride := 0x4, count := 1, stride2 := 0x4, count2 := 1, reset := fun _ => 0x0, ro := 0xFFFFFFFF }  -- FLT_ACCTH
    , { base := 0x010060, stride := 0x4, count := 8, stride2 := 0x4, count2 := 1, reset := fun _ => 0x0, ro := 0xFFFFFFFF }  -- FLT_SEV
    , { base := 0x010080, stride := 0x4, count := 8, stride2 := 0x4, count2 := 1, reset := fun _ => 0x0, ro := 0xFFFFFFFF }  -- FLT_LIVE
    , { base := 0x011000, stride := 0x10, count := 256, stride2 := 0x10, count2 := 1, reset := fltCfgReset, lk := 0xFFFFFF07 }  -- FLT_CFG
    , { base := 0x011004, stride := 0x10, count := 256, stride2 := 0x10, count2 := 1, reset := fun _ => 0x0, rc := 0xFFFFFFFF }  -- FLT_CNT
    , { base := 0x011008, stride := 0x10, count := 256, stride2 := 0x10, count2 := 1, reset := fun _ => 0x0, w1c := 0x30000000, ro := 0xC00000FF }  -- FLT_SRC
    ]

/-- Rows of the OTP block. -/
def otpRows : List RegRow :=
    [ { base := 0x020000, stride := 0x4, count := 1, stride2 := 0x4, count2 := 1, reset := fun _ => 0x0, ro := 0xFFFFFFCF }  -- OTP_STATUS
    , { base := 0x020004, stride := 0x4, count := 1, stride2 := 0x4, count2 := 1, reset := fun _ => 0x0, ro := 0xFFFFFDFF }  -- OTP_MARG
    , { base := 0x020008, stride := 0x4, count := 1, stride2 := 0x4, count2 := 1, reset := fun _ => 0x0, ro := 0x800103FF }  -- OTP_FIRSTM
    , { base := 0x02000C, stride := 0x4, count := 1, stride2 := 0x4, count2 := 1, reset := fun _ => 0x0, wo := 0xFFFFF3FF }  -- OTP_CMD
    , { base := 0x020010, stride := 0x4, count := 1, stride2 := 0x4, count2 := 1, reset := fun _ => 0x0, rw := 0xFFFFFFFF }  -- OTP_DATA
    , { base := 0x020020, stride := 0x4, count := 8, stride2 := 0x4, count2 := 1, reset := fun _ => 0x0, ro := 0xC0003F03 }  -- OTP_REDIR
    , { base := 0x021000, stride := 0x4, count := 1024, stride2 := 0x4, count2 := 1, reset := fun _ => 0x0, ro := 0xFFFFFFFF }  -- OTP_WORD
    , { base := 0x022000, stride := 0x4, count := 32, stride2 := 0x4, count2 := 1, reset := fun _ => 0x0, ro := 0xFFFFFFFF }  -- OTP_WSTAT
    , { base := 0x022080, stride := 0x4, count := 8, stride2 := 0x4, count2 := 1, reset := fun _ => 0x0, ro := 0xFFFFFFFF }  -- OTP_VOID
    , { base := 0x038000, stride := 0x4, count := 1, stride2 := 0x4, count2 := 1, reset := fun _ => 0x0, rc := 0xFFFF, ro := 0xE01F0000 }  -- LOG_STATUS
    , { base := 0x038004, stride := 0x4, count := 1, stride2 := 0x4, count2 := 1, reset := fun _ => 0x0, ro := 0x3FF }  -- LOG_HEAD
    , { base := 0x038008, stride := 0x4, count := 1, stride2 := 0x4, count2 := 1, reset := fun _ => 0x0, ro := 0xFFFFFFFF }  -- LOG_SEQ
    , { base := 0x03800C, stride := 0x4, count := 1, stride2 := 0x4, count2 := 1, reset := fun _ => 0x0, ro := 0xFFFF }  -- LOG_BOOT
    , { base := 0x038010, stride := 0x4, count := 1, stride2 := 0x4, count2 := 1, reset := fun _ => 0x0, rc := 0xFFFF }  -- LOG_FAILS
    , { base := 0x030000, stride := 0x4, count := 8192, stride2 := 0x4, count2 := 1, reset := fun _ => 0x0, ro := 0xFFFFFFFF }  -- LOG_WINDOW
    ]

/-- Rows of the LINK block, part 1. -/
def linkRows1 : List RegRow :=
    [ { base := 0x040000, stride := 0x4, count := 1, stride2 := 0x4, count2 := 1, reset := fun _ => 0x64, lk := 0xFF }  -- HP_CFG
    , { base := 0x040004, stride := 0x4, count := 1, stride2 := 0x4, count2 := 1, reset := fun _ => 0x0, w1c := 0x7 }  -- HP_STAT
    , { base := 0x040008, stride := 0x4, count := 1, stride2 := 0x4, count2 := 1, reset := fun _ => 0x0, ro := 0xFFFFFFFF }  -- HP_RDBUF
    , { base := 0x041000, stride := 0x4, count := 1, stride2 := 0x4, count2 := 1, reset := fun _ => 0x20000000, lk := 0xE0000000 }  -- CAN_CFG
    , { base := 0x041004, stride := 0x4, count := 1, stride2 := 0x4, count2 := 1, reset := fun _ => 0xF3E0F, lk := 0xFFFFFF7F }  -- CAN_NBT
    , { base := 0x041008, stride := 0x4, count := 1, stride2 := 0x4, count2 := 1, reset := fun _ => 0x10601, lk := 0xF80F1F0F }  -- CAN_DBT
    , { base := 0x04100C, stride := 0x4, count := 1, stride2 := 0x4, count2 := 1, reset := fun _ => 0x108, lk := 0x1FF }  -- CAN_TDC
    , { base := 0x041010, stride := 0x4, count := 1, stride2 := 0x4, count2 := 1, reset := fun _ => 0x0, lk := 0xDFFFFFFF }  -- CAN_OWNHB
    , { base := 0x041014, stride := 0x4, count := 1, stride2 := 0x4, count2 := 1, reset := fun _ => 0x64, lk := 0xFFFF }  -- CAN_OWNHB2
    , { base := 0x041020, stride := 0x4, count := 1, stride2 := 0x4, count2 := 1, reset := fun _ => 0xC0000000, ro := 0xC0FFFF01 }  -- CAN_STAT
    , { base := 0x041024, stride := 0x4, count := 1, stride2 := 0x4, count2 := 1, reset := fun _ => 0x0, rc := 0xFFFFFFFF }  -- CAN_CNT
    , { base := 0x041028, stride := 0x4, count := 1, stride2 := 0x4, count2 := 1, reset := fun _ => 0x0, wo := 0x1 }  -- CAN_CMD
    , { base := 0x04102C, stride := 0x4, count := 1, stride2 := 0x4, count2 := 1, reset := fun _ => 0x0, wo := 0x8000001F }  -- CAN_NODECMD
    , { base := 0x041030, stride := 0x4, count := 1, stride2 := 0x4, count2 := 1, reset := fun _ => 0x0, ro := 0xFFFFFFFF, pair := true }  -- CAN_RDBUF
    , { base := 0x041034, stride := 0x4, count := 1, stride2 := 0x4, count2 := 1, reset := fun _ => 0x0, ro := 0xFFFFFFFF }  -- CAN_RDBUFH
    , { base := 0x042000, stride := 0x10, count := 64, stride2 := 0x10, count2 := 1, reset := fun _ => 0x0, lk := 0xFFFFFFFF }  -- CAN_ACC_W0
    , { base := 0x042004, stride := 0x10, count := 64, stride2 := 0x10, count2 := 1, reset := fun _ => 0x1FFFFFFF, lk := 0x9FFFFFFF }  -- CAN_ACC_W1
    , { base := 0x042008, stride := 0x10, count := 64, stride2 := 0x10, count2 := 1, reset := fun _ => 0x0, lk := 0xDFFFFFFF }  -- CAN_ACC_W2
    , { base := 0x04200C, stride := 0x10, count := 64, stride2 := 0x10, count2 := 1, reset := fun _ => 0x0, lk := 0x80FFFFFF }  -- CAN_ACC_W3
    , { base := 0x043000, stride := 0x8, count := 32, stride2 := 0x8, count2 := 1, reset := fun _ => 0x0, ro := 0xFFFFFFFF }  -- CAN_NODE
    ]

/-- Rows of the LINK block, part 2. -/
def linkRows2 : List RegRow :=
    [ { base := 0x043004, stride := 0x8, count := 32, stride2 := 0x8, count2 := 1, reset := fun _ => 0x0, ro := 0x3F }  -- CAN_NODE_ENTRY
    , { base := 0x044000, stride := 0x4, count := 1, stride2 := 0x4, count2 := 1, reset := fun _ => 0x40100000, lk := 0xE3300000 }  -- RNG_CFG
    , { base := 0x044004, stride := 0x4, count := 1, stride2 := 0x4, count2 := 1, reset := fun _ => 0x0, lk := 0x9F009F00 }  -- RNG_PUB
    , { base := 0x044008, stride := 0x4, count := 4, stride2 := 0x4, count2 := 1, reset := fun _ => 0x0, lk := 0x80000007 }  -- RNG_SUB
    , { base := 0x044020, stride := 0x4, count := 1, stride2 := 0x4, count2 := 1, reset := fun _ => 0x0, wo := 0x1 }  -- RNG_CMD
    , { base := 0x044024, stride := 0x4, count := 1, stride2 := 0x4, count2 := 1, reset := fun _ => 0x0, w1c := 0x100000, ro := 0xFFE0FFFF }  -- RNG_STAT
    , { base := 0x044028, stride := 0x4, count := 1, stride2 := 0x4, count2 := 1, reset := fun _ => 0x0, ro := 0xFFFF }  -- RNG_SKEW
    ]

/-- Rows of the AXIS block, part 1. -/
def axisRows1 : List RegRow :=
    [ { base := 0x080000, stride := 0x1000, count := 8, stride2 := 0x1000, count2 := 1, reset := fun _ => 0x0, lk := 0xD0000000 }  -- AX_CFG
    , { base := 0x080010, stride := 0x1000, count := 8, stride2 := 0x1000, count2 := 1, reset := fun _ => 0x0, wo := 0x71F00 }  -- AX_CMD
    , { base := 0x080014, stride := 0x1000, count := 8, stride2 := 0x1000, count2 := 1, reset := fun _ => 0x0, w1c := 0x80000, ro := 0xFFF70007 }  -- AX_MSTAT
    , { base := 0x080018, stride := 0x1000, count := 8, stride2 := 0x1000, count2 := 1, reset := fun _ => 0x1000010, lk := 0xFFFFFFFF }  -- AX_SPDPI
    , { base := 0x08001C, stride := 0x1000, count := 8, stride2 := 0x1000, count2 := 1, reset := fun _ => 0x1000000, lk := 0xFFFFFFFF }  -- AX_POSPI
    , { base := 0x080020, stride := 0x1000, count := 8, stride2 := 0x1000, count2 := 1, reset := fun _ => 0x40004000, lk := 0xF0FFFFFF }  -- AX_FOLLOW
    , { base := 0x080024, stride := 0x1000, count := 8, stride2 := 0x1000, count2 := 1, reset := fun _ => 0x0, ro := 0xFFFFFFFF }  -- AX_FERR
    , { base := 0x080028, stride := 0x1000, count := 8, stride2 := 0x1000, count2 := 1, reset := fun _ => 0x320000A0, lk := 0xFF0FFFFF }  -- AX_STALL
    , { base := 0x08002C, stride := 0x1000, count := 8, stride2 := 0x1000, count2 := 1, reset := fun _ => 0x20000640, lk := 0xFFFFFFFF }  -- AX_HOME
    , { base := 0x080030, stride := 0x1000, count := 8, stride2 := 0x1000, count2 := 1, reset := fun _ => 0x1388, lk := 0x8000FFFF }  -- AX_HOME2
    , { base := 0x080034, stride := 0x1000, count := 8, stride2 := 0x1000, count2 := 1, reset := fun _ => 0x0, lk := 0xFFFFFFFF }  -- AX_HREF
    , { base := 0x080040, stride := 0x1000, count := 8, stride2 := 0x1000, count2 := 1, reset := fun _ => 0x0, rw := 0x1 }  -- CMP_CTRL
    , { base := 0x080044, stride := 0x1000, count := 8, stride2 := 0x1000, count2 := 1, reset := fun _ => 0x0, rw := 0xFFFF }  -- CMP_TARGET
    , { base := 0x080048, stride := 0x1000, count := 8, stride2 := 0x1000, count2 := 1, reset := fun _ => 0x1F4, rw := 0xFFFF }  -- CMP_ACCEL
    , { base := 0x08004C, stride := 0x1000, count := 8, stride2 := 0x1000, count2 := 1, reset := fun _ => 0x1F4, rw := 0xFFFF }  -- CMP_DECEL
    , { base := 0x080050, stride := 0x1000, count := 8, stride2 := 0x1000, count2 := 1, reset := fun _ => 0x0, ro := 0xFFFF }  -- CMP_ACTUAL
    , { base := 0x080054, stride := 0x1000, count := 8, stride2 := 0x1000, count2 := 1, reset := fun _ => 0x0, ro := 0x3 }  -- CMP_STATUS
    , { base := 0x080058, stride := 0x1000, count := 8, stride2 := 0x1000, count2 := 1, reset := fun _ => 0x1000010, lk := 0xFFFFFFFF }  -- CMP_GAIN
    , { base := 0x080060, stride := 0x1000, count := 8, stride2 := 0x1000, count2 := 1, reset := fun _ => 0x0, lk := 0x8000003F }  -- AX_STRCFG
    , { base := 0x080064, stride := 0x1000, count := 8, stride2 := 0x1000, count2 := 1, reset := fun _ => 0x0, wo := 0xFFFFFFFF }  -- AX_SPLO
    ]

/-- Rows of the AXIS block, part 2. -/
def axisRows2 : List RegRow :=
    [ { base := 0x080068, stride := 0x1000, count := 8, stride2 := 0x1000, count2 := 1, reset := fun _ => 0x0, wo := 0x8000FFFF }  -- AX_SPHI
    , { base := 0x08006C, stride := 0x1000, count := 8, stride2 := 0x1000, count2 := 1, reset := fun _ => 0x400000, w1c := 0x80000000, ro := 0x7FFFFF }  -- AX_STRSTAT
    , { base := 0x080070, stride := 0x1000, count := 8, stride2 := 0x1000, count2 := 1, reset := fun _ => 0x0, rc := 0xFFFFFFFF }  -- AX_STRCNT
    , { base := 0x080074, stride := 0x1000, count := 8, stride2 := 0x1000, count2 := 1, reset := fun _ => 0x0, ro := 0xFFFF }  -- AX_SPC
    , { base := 0x080080, stride := 0x1000, count := 8, stride2 := 0x1000, count2 := 1, reset := fun _ => 0x0, lk := 0x3 }  -- AX_GEARCFG
    , { base := 0x080084, stride := 0x1000, count := 8, stride2 := 0x1000, count2 := 1, reset := fun _ => 0x0, ro := 0xFFFF }  -- AX_GREM
    , { base := 0x080088, stride := 0x1000, count := 8, stride2 := 0x1000, count2 := 1, reset := fun _ => 0x0, ro := 0xFFFFFFFF }  -- AX_PTGT
    , { base := 0x080090, stride := 0x1000, count := 8, stride2 := 0x1000, count2 := 1, reset := fun _ => 0x64, lk := 0xB1F0FFFF }  -- AX_CRVCFG
    , { base := 0x080094, stride := 0x1000, count := 8, stride2 := 0x1000, count2 := 1, reset := fun _ => 0x8000400, lk := 0xFFFFFFFF }  -- AX_CRVTH
    , { base := 0x080098, stride := 0x1000, count := 8, stride2 := 0x1000, count2 := 1, reset := fun _ => 0x0, rw := 0xFFFF }  -- AX_CIN
    , { base := 0x08009C, stride := 0x1000, count := 8, stride2 := 0x1000, count2 := 1, reset := fun _ => 0x0, ro := 0xFFFF }  -- AX_CINU
    , { base := 0x0800C0, stride := 0x1000, count := 8, stride2 := 0x1000, count2 := 1, reset := fun _ => 0x80020029, lk := 0x800F00FF }  -- AX_KIRCH
    , { base := 0x0800C4, stride := 0x1000, count := 8, stride2 := 0x1000, count2 := 1, reset := fun _ => 0x0, rc := 0xFFFF, ro := 0x80000000 }  -- AX_KIRCHS
    , { base := 0x080100, stride := 0x1000, count := 8, stride2 := 0x1000, count2 := 1, reset := fun _ => 0x1F4, lk := 0xC03FFFFF }  -- AX_COMCFG
    , { base := 0x080104, stride := 0x1000, count := 8, stride2 := 0x1000, count2 := 1, reset := fun _ => 0x0, lk := 0xFFFF0007 }  -- AX_SRC
    , { base := 0x080108, stride := 0x1000, count := 8, stride2 := 0x1000, count2 := 1, reset := fun _ => 0x0, lk := 0xFFFFFFFF }  -- AX_ZERO
    , { base := 0x08010C, stride := 0x1000, count := 8, stride2 := 0x1000, count2 := 1, reset := fun _ => 0x0, ro := 0xFFFFFFFF }  -- AX_EREF
    , { base := 0x080110, stride := 0x1000, count := 8, stride2 := 0x1000, count2 := 1, reset := fun _ => 0x4000800, lk := 0xFFF0FFF }  -- AX_ILIM
    , { base := 0x080114, stride := 0x1000, count := 8, stride2 := 0x1000, count2 := 1, reset := fun _ => 0x1000010, lk := 0xFFFFFFFF }  -- AX_CURPI
    , { base := 0x080118, stride := 0x1000, count := 8, stride2 := 0x1000, count2 := 1, reset := fun _ => 0x0, lk := 0xFFFFFFFF }  -- AX_MOTOR
    ]

/-- Rows of the AXIS block, part 3. -/
def axisRows3 : List RegRow :=
    [ { base := 0x08011C, stride := 0x1000, count := 8, stride2 := 0x1000, count2 := 1, reset := fun _ => 0x0, lk := 0xFFFF }  -- AX_MOTOR2
    , { base := 0x080120, stride := 0x1000, count := 8, stride2 := 0x1000, count2 := 1, reset := fun _ => 0x40140000, lk := 0xF03F0000 }  -- AX_SOFT
    , { base := 0x080150, stride := 0x1000, count := 8, stride2 := 0x1000, count2 := 1, reset := fun _ => 0x60001900, lk := 0xF00FFFFF }  -- AX_BEMF
    , { base := 0x080154, stride := 0x1000, count := 8, stride2 := 0x1000, count2 := 1, reset := fun _ => 0x140A0190, lk := 0xFFFFFFFF }  -- AX_IPD
    , { base := 0x080158, stride := 0x1000, count := 8, stride2 := 0x1000, count2 := 1, reset := fun _ => 0x80050032, lk := 0xFFFFFFFF }  -- AX_OLS
    , { base := 0x08015C, stride := 0x1000, count := 8, stride2 := 0x1000, count2 := 1, reset := fun _ => 0x64, lk := 0xFFFF }  -- AX_OLA
    , { base := 0x080160, stride := 0x1000, count := 8, stride2 := 0x1000, count2 := 1, reset := fun _ => 0xA017700, lk := 0xFF0FFFFF }  -- AX_CATCH
    , { base := 0x080164, stride := 0x1000, count := 8, stride2 := 0x1000, count2 := 1, reset := fun _ => 0xC80, lk := 0xFFFFF }  -- AX_REV
    , { base := 0x080168, stride := 0x1000, count := 8, stride2 := 0x1000, count2 := 1, reset := fun _ => 0x434F00AB, lk := 0xFFFF0FFF }  -- AX_PLAUS
    , { base := 0x08016C, stride := 0x1000, count := 8, stride2 := 0x1000, count2 := 1, reset := fun _ => 0x0, wo := 0x1 }  -- AX_SRCCMD
    , { base := 0x080170, stride := 0x1000, count := 8, stride2 := 0x1000, count2 := 1, reset := fun _ => 0x0, w1c := 0x800000, rc := 0xFFFF, ro := 0xFF070000 }  -- AX_SRCSTAT
    , { base := 0x080174, stride := 0x1000, count := 8, stride2 := 0x1000, count2 := 1, reset := fun _ => 0x0, ro := 0xFFFFFFFF }  -- AX_SECOFS
    , { base := 0x080178, stride := 0x1000, count := 8, stride2 := 0x1000, count2 := 1, reset := fun _ => 0x0, ro := 0xFFFFFFFF }  -- AX_SPEED
    , { base := 0x08017C, stride := 0x1000, count := 8, stride2 := 0x1000, count2 := 1, reset := fun _ => 0x0, ro := 0xCFFF0FFF }  -- AX_CUR
    , { base := 0x0801A0, stride := 0x1000, count := 8, stride2 := 0x1000, count2 := 1, reset := fun _ => 0x400200, lk := 0xC0FFFFFF, ro := 0x20000000 }  -- AX_ADVCFG
    , { base := 0x0800A0, stride := 0x1000, count := 8, stride2 := 0x4, count2 := 8, reset := fun _ => 0x10001, lk := 0xFFFFFFFF }  -- AX_GSLOT
    , { base := 0x080130, stride := 0x1000, count := 8, stride2 := 0x4, count2 := 8, reset := fun _ => 0x770000, lk := 0xFF770000 }  -- AX_PROF
    , { base := 0x080180, stride := 0x1000, count := 8, stride2 := 0x4, count2 := 6, reset := fun _ => 0x0, ro := 0xFFFFFFFF }  -- AX_CUEPOS
    , { base := 0x080200, stride := 0x1000, count := 8, stride2 := 0x4, count2 := 64, reset := fun _ => 0x0, lk := 0xFFFFFFFF }  -- AX_ADV
    , { base := 0x080400, stride := 0x1000, count := 8, stride2 := 0x4, count2 := 256, reset := fun _ => 0x0, ro := 0x8000FFFF }  -- AX_TRIM
    ]

/-- Rows of the AXIS block, part 4. -/
def axisRows4 : List RegRow :=
    [ { base := 0x080800, stride := 0x1000, count := 8, stride2 := 0x4, count2 := 4, reset := fun _ => 0x0, ro := 0x8000FFFF }  -- AX_IPDTR
    , { base := 0x080900, stride := 0x1000, count := 8, stride2 := 0x4, count2 := 32, reset := fun _ => 0x0, lk := 0xFFFFFFFF }  -- AX_CRV
    , { base := 0x080980, stride := 0x1000, count := 8, stride2 := 0x4, count2 := 32, reset := fun _ => 0x3E8, lk := 0xFFFF }  -- AX_CRVS
    ]

/-- Rows of the LEG block. -/
def legRows : List RegRow :=
    [ { base := 0x090000, stride := 0x100, count := 24, stride2 := 0x100, count2 := 1, reset := fun _ => 0x19000019, lk := 0xFF0001FF }  -- LEG_CFG
    , { base := 0x090004, stride := 0x100, count := 24, stride2 := 0x100, count2 := 1, reset := fun _ => 0x30D4, lk := 0xFFFF7FFF }  -- LEG_PERIOD
    , { base := 0x090008, stride := 0x100, count := 24, stride2 := 0x100, count2 := 1, reset := fun _ => 0x77777777, lk := 0x7777, ro := 0x77770000 }  -- LEG_SLEW
    , { base := 0x09000C, stride := 0x100, count := 24, stride2 := 0x100, count2 := 1, reset := fun _ => 0xC80A0A, lk := 0xFFF1F1F }  -- LEG_VDS
    , { base := 0x090010, stride := 0x100, count := 24, stride2 := 0x100, count2 := 1, reset := fun _ => 0x1900C8, lk := 0xFF00FF }  -- LEG_TRIP
    , { base := 0x090014, stride := 0x100, count := 24, stride2 := 0x100, count2 := 1, reset := fun _ => 0x10802, lk := 0x1FF0F }  -- LEG_BST
    , { base := 0x090018, stride := 0x100, count := 24, stride2 := 0x100, count2 := 1, reset := fun _ => 0x0, ro := 0xF1FFFF }  -- LEG_DUTY
    , { base := 0x09001C, stride := 0x100, count := 24, stride2 := 0x100, count2 := 1, reset := fun _ => 0x0, w1c := 0x1FE, ro := 0x80F80000 }  -- LEG_STAT
    , { base := 0x090020, stride := 0x100, count := 24, stride2 := 0x100, count2 := 1, reset := fun _ => 0x0, rc := 0xFFFFFFFF }  -- LEG_CNT
    ]

/-- Rows of the SLICE block. -/
def sliceRows : List RegRow :=
    [ { base := 0x0A0000, stride := 0x40, count := 41, stride2 := 0x40, count2 := 1, reset := fun _ => 0x0, lk := 0x80000733 }  -- SL_CFG
    , { base := 0x0A0004, stride := 0x40, count := 41, stride2 := 0x40, count2 := 1, reset := fun _ => 0x30D4, rw := 0x1FFFF }  -- SL_WLEN
    , { base := 0x0A0008, stride := 0x40, count := 41, stride2 := 0x40, count2 := 1, reset := fun _ => 0x0, ro := 0xFCFFFFFF }  -- SL_RES
    , { base := 0x0A000C, stride := 0x40, count := 41, stride2 := 0x40, count2 := 1, reset := fun _ => 0x0, ro := 0xFF00FFFF }  -- SL_RLEN
    , { base := 0x0A0010, stride := 0x40, count := 41, stride2 := 0x40, count2 := 1, reset := fun _ => 0x0, ro := 0xFFFFFFFF, pair := true }  -- SL_LEDGER
    , { base := 0x0A0014, stride := 0x40, count := 41, stride2 := 0x40, count2 := 1, reset := fun _ => 0x0, ro := 0xFFFF }  -- SL_LEDGERH
    , { base := 0x0A0018, stride := 0x40, count := 41, stride2 := 0x40, count2 := 1, reset := fun _ => 0x0, ro := 0xFFFFFFFF }  -- SL_EXCESS
    , { base := 0x0A001C, stride := 0x40, count := 41, stride2 := 0x40, count2 := 1, reset := fun _ => 0x0, rc := 0xFFFFFFFF }  -- SL_CLAMP
    , { base := 0x0A0020, stride := 0x40, count := 41, stride2 := 0x40, count2 := 1, reset := fun _ => 0x80000000, ro := 0xFFFFFFFF }  -- SL_CAL
    , { base := 0x0A0024, stride := 0x40, count := 41, stride2 := 0x40, count2 := 1, reset := fun _ => 0x0, ro := 0xFFFFFFFF }  -- SL_CALT
    , { base := 0x0A0028, stride := 0x40, count := 41, stride2 := 0x40, count2 := 1, reset := fun _ => 0x0, rc := 0xFFFFFFFF }  -- SL_GAP
    , { base := 0x0A002C, stride := 0x40, count := 41, stride2 := 0x40, count2 := 1, reset := fun _ => 0x0, w1c := 0x1F, ro := 0xE0000000 }  -- SL_STAT
    , { base := 0x0A0030, stride := 0x40, count := 41, stride2 := 0x40, count2 := 1, reset := usCfgReset, lk := 0x8FFFFFFF }  -- US_CFG
    , { base := 0x0A0034, stride := 0x40, count := 41, stride2 := 0x40, count2 := 1, reset := fun _ => 0x0, ro := 0xFF07FFFF }  -- US_STAT
    , { base := 0x0A0C00, stride := 0x4, count := 1, stride2 := 0x4, count2 := 1, reset := fun _ => 0x40061A8, lk := 0x8F00FFFF }  -- RSV_EXC
    , { base := 0x0A0C04, stride := 0x4, count := 1, stride2 := 0x4, count2 := 1, reset := fun _ => 0x0, lk := 0xFFFF }  -- RSV_DLY
    , { base := 0x0A0C08, stride := 0x4, count := 1, stride2 := 0x4, count2 := 1, reset := fun _ => 0x0, ro := 0xFFFFFFFF }  -- RSV_CYC
    ]

/-- Rows of the PORT block, part 1. -/
def portRows1 : List RegRow :=
    [ { base := 0x0B0000, stride := 0x100, count := 32, stride2 := 0x100, count2 := 1, reset := fun _ => 0x0, lk := 0xFF1F7000, ro := 0x31F }  -- FP_CFG
    , { base := 0x0B0004, stride := 0x100, count := 32, stride2 := 0x100, count2 := 1, reset := fun _ => 0x20FA0005, lk := 0xFFFF0FFF }  -- FP_CHK
    , { base := 0x0B0008, stride := 0x100, count := 32, stride2 := 0x100, count2 := 1, reset := fun _ => 0x1000, lk := 0x1FFFFFF }  -- FP_CPR
    , { base := 0x0B000C, stride := 0x100, count := 32, stride2 := 0x100, count2 := 1, reset := fun _ => 0x30000002, lk := 0xF000FFFF }  -- FP_IDX
    , { base := 0x0B0010, stride := 0x100, count := 32, stride2 := 0x100, count2 := 1, reset := fun _ => 0x0, lk := 0xFFFFFF }  -- FP_IDXPOS
    , { base := 0x0B0014, stride := 0x100, count := 32, stride2 := 0x100, count2 := 1, reset := fun _ => 0x0, w1c := 0x80000000, ro := 0xFFFFFF }  -- FP_IDXDEV
    , { base := 0x0B0018, stride := 0x100, count := 32, stride2 := 0x100, count2 := 1, reset := fun _ => 0x0, ro := 0xFFFFFF, pair := true }  -- FP_POS
    , { base := 0x0B001C, stride := 0x100, count := 32, stride2 := 0x100, count2 := 1, reset := fun _ => 0x0, ro := 0xFFFF }  -- FP_REV
    , { base := 0x0B0020, stride := 0x100, count := 32, stride2 := 0x100, count2 := 1, reset := fun _ => 0x0, ro := 0xFFFFFFFF, pair := true }  -- FP_LMF
    , { base := 0x0B0024, stride := 0x100, count := 32, stride2 := 0x100, count2 := 1, reset := fun _ => 0x0, ro := 0xFFFFFFFF }  -- FP_LMFH
    , { base := 0x0B0028, stride := 0x100, count := 32, stride2 := 0x100, count2 := 1, reset := fun _ => 0x0, ro := 0xFFFFFFFF, pair := true }  -- FP_LMB
    , { base := 0x0B002C, stride := 0x100, count := 32, stride2 := 0x100, count2 := 1, reset := fun _ => 0x0, ro := 0xFFFFFFFF }  -- FP_LMBH
    , { base := 0x0B0030, stride := 0x100, count := 32, stride2 := 0x100, count2 := 1, reset := fun _ => 0x0, ro := 0xFFFFFFFF, pair := true }  -- FP_LEF
    , { base := 0x0B0034, stride := 0x100, count := 32, stride2 := 0x100, count2 := 1, reset := fun _ => 0x0, ro := 0xFFFFFFFF }  -- FP_LEFH
    , { base := 0x0B0038, stride := 0x100, count := 32, stride2 := 0x100, count2 := 1, reset := fun _ => 0x0, ro := 0xFFFFFFFF, pair := true }  -- FP_LIL
    , { base := 0x0B003C, stride := 0x100, count := 32, stride2 := 0x100, count2 := 1, reset := fun _ => 0x0, ro := 0xFFFFFFFF }  -- FP_LILH
    , { base := 0x0B0040, stride := 0x100, count := 32, stride2 := 0x100, count2 := 1, reset := fun _ => 0x0, ro := 0xFFFFFFFF, pair := true }  -- FP_LIC
    , { base := 0x0B0044, stride := 0x100, count := 32, stride2 := 0x100, count2 := 1, reset := fun _ => 0x0, ro := 0xFFFFFFFF }  -- FP_LICH
    , { base := 0x0B0048, stride := 0x100, count := 32, stride2 := 0x100, count2 := 1, reset := fun _ => 0x0, ro := 0xFFFFFFFF, pair := true }  -- FP_LTOT
    , { base := 0x0B004C, stride := 0x100, count := 32, stride2 := 0x100, count2 := 1, reset := fun _ => 0x0, ro := 0xFFFFFFFF }  -- FP_LTOTH
    ]

/-- Rows of the PORT block, part 2. -/
def portRows2 : List RegRow :=
    [ { base := 0x0B0050, stride := 0x100, count := 32, stride2 := 0x100, count2 := 1, reset := fun _ => 0x0, w1c := 0xFE, ro := 0xFE000000 }  -- FP_STAT
    , { base := 0x0B0054, stride := 0x100, count := 32, stride2 := 0x100, count2 := 1, reset := fun _ => 0x0, wo := 0x7 }  -- FP_CMD
    , { base := 0x0B0058, stride := 0x100, count := 32, stride2 := 0x100, count2 := 1, reset := fun _ => 0x0, rc := 0xFFFFFFFF }  -- FP_EVT
    , { base := 0x0B0060, stride := 0x100, count := 32, stride2 := 0x100, count2 := 1, reset := fun _ => 0x321800, lk := 0x3FF3FFF }  -- FP_SSI
    , { base := 0x0B0064, stride := 0x100, count := 32, stride2 := 0x100, count2 := 1, reset := fun _ => 0x1E000300, lk := 0xFFFFFFFF }  -- FP_SSI2
    , { base := 0x0B0068, stride := 0x100, count := 32, stride2 := 0x100, count2 := 1, reset := fun _ => 0x0, ro := 0xFFFFFFFF }  -- FP_SSIRAW
    , { base := 0x0B006C, stride := 0x100, count := 32, stride2 := 0x100, count2 := 1, reset := fun _ => 0x1000400, lk := 0x7FFFFFFF }  -- FP_SSI3
    , { base := 0x0B0070, stride := 0x100, count := 32, stride2 := 0x100, count2 := 1, reset := fun _ => 0xA191F4, lk := 0x3FFFFFFF }  -- FP_DIG
    , { base := 0x0B0074, stride := 0x100, count := 32, stride2 := 0x100, count2 := 1, reset := fun _ => 0x0, ro := 0xFFFFFFFF }  -- FP_FREQ
    , { base := 0x0B0080, stride := 0x100, count := 32, stride2 := 0x100, count2 := 1, reset := fun _ => 0x3FF, lk := 0x9F00FFFF }  -- FP_EMU
    , { base := 0x0B0084, stride := 0x100, count := 32, stride2 := 0x100, count2 := 1, reset := fun _ => 0x61A8, lk := 0x7FFF }  -- FP_EMUF
    , { base := 0x0B0088, stride := 0x100, count := 32, stride2 := 0x100, count2 := 1, reset := fun _ => 0x0, ro := 0xFFFFFFFF, pair := true }  -- FP_EMIT
    , { base := 0x0B008C, stride := 0x100, count := 32, stride2 := 0x100, count2 := 1, reset := fun _ => 0x0, ro := 0xFFFFFFFF }  -- FP_EMITH
    , { base := 0x0B0090, stride := 0x100, count := 32, stride2 := 0x100, count2 := 1, reset := fun _ => 0x0, ro := 0xFFFFFFFF, pair := true }  -- FP_OWED
    , { base := 0x0B0094, stride := 0x100, count := 32, stride2 := 0x100, count2 := 1, reset := fun _ => 0x0, ro := 0xFFFFFFFF }  -- FP_OWEDH
    ]

/-- Rows of the FE block. -/
def feRows : List RegRow :=
    [ { base := 0x0C0000, stride := 0x8000, count := 2, stride2 := 0x8000, count2 := 1, reset := fun _ => 0x1, ro := 0xFFFF }  -- FE_INFO
    , { base := 0x0C0004, stride := 0x8000, count := 2, stride2 := 0x8000, count2 := 1, reset := fun _ => 0x0, ro := 0x7FFFF }  -- FE_LOAD
    , { base := 0x0C0008, stride := 0x8000, count := 2, stride2 := 0x8000, count2 := 1, reset := fun _ => 0x0, ro := 0x7FFFF }  -- FE_RESV
    , { base := 0x0C000C, stride := 0x8000, count := 2, stride2 := 0x8000, count2 := 1, reset := fun _ => 0x0, ro := 0xF0F0F }  -- FE_STATUS
    , { base := 0x0C0010, stride := 0x8000, count := 2, stride2 := 0x8000, count2 := 1, reset := fun _ => 0x0, w1c := 0x80000000, ro := 0x430003FF }  -- FE_MMREC
    , { base := 0x0C0014, stride := 0x8000, count := 2, stride2 := 0x8000, count2 := 1, reset := fun _ => 0x0, ro := 0xFFFFFFFF, pair := true }  -- FE_MMTICK
    , { base := 0x0C0018, stride := 0x8000, count := 2, stride2 := 0x8000, count2 := 1, reset := fun _ => 0x0, ro := 0xFFFFFFFF }  -- FE_MMTICKH
    , { base := 0x0C0100, stride := 0x8000, count := 2, stride2 := 0x20, count2 := 4, reset := fun _ => 0x0, lk := 0x7 }  -- FE_AX_CFG
    , { base := 0x0C0104, stride := 0x8000, count := 2, stride2 := 0x20, count2 := 4, reset := fun _ => 0x0, ro := 0x3FF03FF }  -- FE_AX_COST
    , { base := 0x0C0108, stride := 0x8000, count := 2, stride2 := 0x20, count2 := 4, reset := fun _ => 0x0, rc := 0xFFFF0000, ro := 0xFFFF }  -- FE_AX_LAT
    , { base := 0x0C010C, stride := 0x8000, count := 2, stride2 := 0x20, count2 := 4, reset := fun _ => 0x0, rc := 0xFFFF }  -- FE_AX_MISS
    ]

/-- Rows of the BUS block. -/
def busRows : List RegRow :=
    [ { base := 0x0D0000, stride := 0x8000, count := 2, stride2 := 0x8000, count2 := 1, reset := fun _ => 0x8478703C, lk := 0xFFFFFFFF }  -- BUS_VTH
    , { base := 0x0D0004, stride := 0x8000, count := 2, stride2 := 0x8000, count2 := 1, reset := fun _ => 0x1F4140A, lk := 0xFFFFFFFF }  -- BUS_CFG
    , { base := 0x0D0008, stride := 0x8000, count := 2, stride2 := 0x8000, count2 := 1, reset := fun _ => 0x80003E8, lk := 0x8F00FFFF }  -- BUS_CHOP
    , { base := 0x0D000C, stride := 0x8000, count := 2, stride2 := 0x8000, count2 := 1, reset := fun _ => 0x80002D00, lk := 0x8FFFFF00 }  -- BUS_REGEN
    , { base := 0x0D0010, stride := 0x8000, count := 2, stride2 := 0x8000, count2 := 1, reset := fun _ => 0x1F40FFF, lk := 0x3FF0FFF }  -- BUS_REGEN2
    , { base := 0x0D0014, stride := 0x8000, count := 2, stride2 := 0x8000, count2 := 1, reset := fun _ => 0x400003E8, lk := 0xFF0FFFFF }  -- BUS_ADM
    , { base := 0x0D0018, stride := 0x8000, count := 2, stride2 := 0x8000, count2 := 1, reset := fun _ => 0x320A0A30, lk := 0xFFFFFFFF }  -- BUS_ADM2
    , { base := 0x0D001C, stride := 0x8000, count := 2, stride2 := 0x8000, count2 := 1, reset := fun _ => 0x640300, lk := 0xFFFF0F00 }  -- BUS_ADM3
    , { base := 0x0D0020, stride := 0x8000, count := 2, stride2 := 0x8000, count2 := 1, reset := fun _ => 0x140190, lk := 0xFFF03FF }  -- BUS_ADM4
    , { base := 0x0D0040, stride := 0x8000, count := 2, stride2 := 0x8000, count2 := 1, reset := fun _ => 0x0, ro := 0xFF8000FF }  -- BUS_STAT
    , { base := 0x0D0044, stride := 0x8000, count := 2, stride2 := 0x8000, count2 := 1, reset := fun _ => 0x0, ro := 0xFFFFFFFF }  -- BUS_FAST
    , { base := 0x0D0048, stride := 0x8000, count := 2, stride2 := 0x8000, count2 := 1, reset := fun _ => 0x0, ro := 0xFFF }  -- BUS_REGENS
    , { base := 0x0D004C, stride := 0x8000, count := 2, stride2 := 0x8000, count2 := 1, reset := fun _ => 0x0, wo := 0x3 }  -- BUS_CMD
    , { base := 0x0D0050, stride := 0x8000, count := 2, stride2 := 0x8000, count2 := 1, reset := fun _ => 0x0, rc := 0xFFFFFFFF, pair := true }  -- BUS_DRAWN
    , { base := 0x0D0054, stride := 0x8000, count := 2, stride2 := 0x8000, count2 := 1, reset := fun _ => 0x0, rc := 0xFFFFFFFF }  -- BUS_DRAWNH
    , { base := 0x0D0058, stride := 0x8000, count := 2, stride2 := 0x8000, count2 := 1, reset := fun _ => 0x0, rc := 0xFFFFFFFF, pair := true }  -- BUS_RET
    , { base := 0x0D005C, stride := 0x8000, count := 2, stride2 := 0x8000, count2 := 1, reset := fun _ => 0x0, rc := 0xFFFFFFFF }  -- BUS_RETH
    , { base := 0x0D0060, stride := 0x8000, count := 2, stride2 := 0x8000, count2 := 1, reset := fun _ => 0x0, rc := 0xFFFFFFFF }  -- BUS_CHOPT
    , { base := 0x0D0064, stride := 0x8000, count := 2, stride2 := 0x8000, count2 := 1, reset := fun _ => 0x0, rc := 0xFFFFFFFF }  -- BUS_SWAPS
    ]

/-- Rows of the HK block, part 1. -/
def hkRows1 : List RegRow :=
    [ { base := 0x0E0000, stride := 0x40, count := 2, stride2 := 0x40, count2 := 1, reset := fun _ => 0x0, lk := 0xC0000000 }  -- HK_CFG
    , { base := 0x0E0004, stride := 0x40, count := 2, stride2 := 0x40, count2 := 1, reset := fun _ => 0x0, rw := 0x3F }  -- HK_SEL
    , { base := 0x0E0008, stride := 0x40, count := 2, stride2 := 0x40, count2 := 1, reset := fun _ => 0x0, wo := 0xC0000000 }  -- HK_CMD
    , { base := 0x0E000C, stride := 0x40, count := 2, stride2 := 0x40, count2 := 1, reset := fun _ => 0x0, rc := 0x80000000, ro := 0x7FE7FFFF }  -- HK_RES
    , { base := 0x0E0010, stride := 0x40, count := 2, stride2 := 0x40, count2 := 1, reset := fun _ => 0x0, w1c := 0x10000000, ro := 0xE000003F }  -- HK_STAT
    , { base := 0x0E0014, stride := 0x40, count := 2, stride2 := 0x40, count2 := 1, reset := fun _ => 0x0, rc := 0xFFFFFFFF }  -- HK_CNT
    , { base := 0x0E0080, stride := 0x4, count := 1, stride2 := 0x4, count2 := 1, reset := fun _ => 0xA2C34, lk := 0x807F3FFF }  -- HK_MODE
    , { base := 0x0E0100, stride := 0x8, count := 46, stride2 := 0x8, count2 := 1, reset := fun _ => 0x201003E8, rw := 0x3FF07FFF, lk := 0xC0000000 }  -- HK_CH
    , { base := 0x0E0104, stride := 0x8, count := 46, stride2 := 0x8, count2 := 1, reset := fun _ => 0x80000000, lk := 0xFFFFFFFF }  -- HK_COR
    , { base := 0x0E0400, stride := 0x4, count := 46, stride2 := 0x4, count2 := 1, reset := fun _ => 0x0, ro := 0xE007FFFF }  -- HK_VAL
    , { base := 0x0E0800, stride := 0x10, count := 17, stride2 := 0x10, count2 := 1, reset := tmpTypeReset, lk := 0xFFFFFFFF }  -- HK_TMP_TYPE
    , { base := 0x0E0804, stride := 0x10, count := 17, stride2 := 0x10, count2 := 1, reset := fun _ => 0x3E803E8, lk := 0xFFFFFFFF }  -- TMP_NTC
    , { base := 0x0E0808, stride := 0x10, count := 17, stride2 := 0x10, count2 := 1, reset := tmpLimReset, lk := 0xFFFFFFFF }  -- TMP_LIM
    , { base := 0x0E080C, stride := 0x10, count := 17, stride2 := 0x10, count2 := 1, reset := tmpStatReset, lk := 0xFF000000, ro := 0xE0FFFF }  -- TMP_STAT
    , { base := 0x0E0A00, stride := 0x4, count := 8, stride2 := 0x4, count2 := 1, reset := fun _ => 0x1000, ro := 0x9F001FFF }  -- TMP_DF
    , { base := 0x0E0C00, stride := 0x20, count := 8, stride2 := 0x20, count2 := 1, reset := fun _ => 0x802, lk := 0xFFFFFF1F }  -- WM_CFG
    , { base := 0x0E0C04, stride := 0x20, count := 8, stride2 := 0x20, count2 := 1, reset := fun _ => 0x2000100, lk := 0x3FF03FF }  -- WM_THR
    , { base := 0x0E0C08, stride := 0x20, count := 8, stride2 := 0x20, count2 := 1, reset := fun _ => 0x0, w1c := 0x30000000, rc := 0xFFFF, ro := 0xC0000000 }  -- WM_STAT
    , { base := 0x0E0C0C, stride := 0x20, count := 8, stride2 := 0x20, count2 := 1, reset := fun _ => 0x0, ro := 0xFFFFFFFF, pair := true }  -- WM_CAP
    , { base := 0x0E0C10, stride := 0x20, count := 8, stride2 := 0x20, count2 := 1, reset := fun _ => 0x0, ro := 0xFFFFFFFF }  -- WM_CAPH
    ]

/-- Rows of the HK block, part 2. -/
def hkRows2 : List RegRow :=
    [ { base := 0x0E0C14, stride := 0x20, count := 8, stride2 := 0x20, count2 := 1, reset := fun _ => 0x0, ro := 0xFFFFFFFF }  -- WM_CAPV
    , { base := 0x0E0C18, stride := 0x20, count := 8, stride2 := 0x20, count2 := 1, reset := fun _ => 0x0, w1c := 0xC0000000 }  -- WM_CAPS
    , { base := 0x0E0E00, stride := 0x4, count := 1, stride2 := 0x4, count2 := 1, reset := fun _ => 0x0, lk := 0xFFFFFF }  -- PC_CAPEN
    , { base := 0x0E0E04, stride := 0x4, count := 1, stride2 := 0x4, count2 := 1, reset := fun _ => 0x0, lk := 0xFFFFFF }  -- PC_IRQEN
    , { base := 0x0E0E08, stride := 0x4, count := 1, stride2 := 0x4, count2 := 1, reset := fun _ => 0x0, lk := 0xFFFFFF }  -- PC_WAKEEN
    , { base := 0x0E0E0C, stride := 0x4, count := 1, stride2 := 0x4, count2 := 1, reset := fun _ => 0x0, w1c := 0xFFFFFF }  -- PC_IRQ
    , { base := 0x0E0E10, stride := 0x4, count := 1, stride2 := 0x4, count2 := 1, reset := fun _ => 0x0, ro := 0x80000000, wo := 0x1 }  -- WAKE_CMD
    , { base := 0x0E0E40, stride := 0x8, count := 24, stride2 := 0x8, count2 := 1, reset := fun _ => 0x0, ro := 0xFFFFFFFF }  -- PC_CAP
    , { base := 0x0E0E44, stride := 0x8, count := 24, stride2 := 0x8, count2 := 1, reset := fun _ => 0x0, w1c := 0xC0000000, ro := 0x2000FFFF }  -- PC_CAPS
    ]

/-- Rows of the CUE block. -/
def cueRows : List RegRow :=
    [ { base := 0x100000, stride := 0x4, count := 32768, stride2 := 0x4, count2 := 1, reset := fun _ => 0x0, rw := 0xFFFFFFFF }  -- CUE_ENTRY
    , { base := 0x120000, stride := 0x4, count := 1, stride2 := 0x4, count2 := 1, reset := fun _ => 0x0, ro := 0x800F7FFF }  -- CUE_STATUS
    , { base := 0x120004, stride := 0x4, count := 1, stride2 := 0x4, count2 := 1, reset := fun _ => 0x0, ro := 0x80003FFF }  -- CUE_NEIGHBOUR
    , { base := 0x120008, stride := 0x4, count := 1, stride2 := 0x4, count2 := 1, reset := fun _ => 0x0, wo := 0x1FFFFF }  -- CUE_SWITCH
    , { base := 0x12000C, stride := 0x4, count := 1, stride2 := 0x4, count2 := 1, reset := fun _ => 0x20002000, ro := 0x3FFF3FFF }  -- CUE_FREE
    , { base := 0x120010, stride := 0x4, count := 1, stride2 := 0x4, count2 := 1, reset := fun _ => 0x0, rc := 0xC0000000, ro := 0x1F03FFF }  -- CUE_SKIPQ
    , { base := 0x120014, stride := 0x4, count := 1, stride2 := 0x4, count2 := 1, reset := fun _ => 0x0, ro := 0xFFFFFFFF }  -- CUE_SKIPT
    , { base := 0x120018, stride := 0x4, count := 1, stride2 := 0x4, count2 := 1, reset := fun _ => 0x0, rc := 0xC0000000, ro := 0x3FFF00FF }  -- CUE_IRQQ
    , { base := 0x120100, stride := 0x20, count := 21, stride2 := 0x20, count2 := 1, reset := fun _ => 0x0, lk := 0x8000001F, ro := 0x40000000 }  -- CUE_TB_CFG
    , { base := 0x120104, stride := 0x20, count := 21, stride2 := 0x20, count2 := 1, reset := fun _ => 0x1, lk := 0xFFFFFFFF }  -- CUE_TB_VMAX
    , { base := 0x120108, stride := 0x20, count := 21, stride2 := 0x20, count2 := 1, reset := fun _ => 0x0, w1c := 0xE4000000, rc := 0xFFFF, ro := 0x18000000 }  -- CUE_TB_STAT
    , { base := 0x12010C, stride := 0x20, count := 21, stride2 := 0x20, count2 := 1, reset := fun _ => 0x0, rc := 0xFFFFFFFF }  -- CUE_TB_SKIP
    , { base := 0x120110, stride := 0x20, count := 21, stride2 := 0x20, count2 := 1, reset := fun _ => 0x0, ro := 0xFFFFFFFF, pair := true }  -- CUE_TB_VAL
    , { base := 0x120114, stride := 0x20, count := 21, stride2 := 0x20, count2 := 1, reset := fun _ => 0x0, ro := 0xFFFFFFFF }  -- CUE_TB_VALH
    , { base := 0x120400, stride := 0x10, count := 16, stride2 := 0x10, count2 := 1, reset := fun _ => 0x0, ro := 0xFFFFFFFF, pair := true }  -- CUE_CAP_TICK
    , { base := 0x120404, stride := 0x10, count := 16, stride2 := 0x10, count2 := 1, reset := fun _ => 0x0, ro := 0xFFFFFFFF }  -- CUE_CAP_TICKH
    , { base := 0x120408, stride := 0x10, count := 16, stride2 := 0x10, count2 := 1, reset := fun _ => 0x0, ro := 0xFFFFFFFF }  -- CUE_CAP_VALUE
    , { base := 0x12040C, stride := 0x10, count := 16, stride2 := 0x10, count2 := 1, reset := fun _ => 0x0, w1c := 0xC0000000, ro := 0x1F03FFF }  -- CUE_CAP_STAT
    ]

/-- The rows of the block of the address map that address `a` lies in (Tables 16-1 to 16-11). -/
def rowsAt (a : Nat) : List RegRow :=
  if a < 0x010000 then sysRows
  else if a < 0x020000 then fltRows
  else if a < 0x040000 then otpRows
  else if a < 0x080000 then linkRows1 ++ linkRows2
  else if a < 0x090000 then axisRows1 ++ axisRows2 ++ axisRows3 ++ axisRows4
  else if a < 0x0A0000 then legRows
  else if a < 0x0B0000 then sliceRows
  else if a < 0x0C0000 then portRows1 ++ portRows2
  else if a < 0x0D0000 then feRows
  else if a < 0x0E0000 then busRows
  else if a < 0x100000 then hkRows1 ++ hkRows2
  else cueRows

/-- The row that lists address `a`, if any; an address no row lists is reserved (R372). -/
def findRow (a : Nat) : Option RegRow := (rowsAt a).find? (fun r => r.holds a)

/-- The reset word of the register at `a` (R374); 0 where no register stands. -/
def regReset (a : Nat) : BitVec 32 :=
  match findRow a with
  | some r => BitVec.ofNat 32 (r.reset (if r.count = 1 then r.index2 a else r.index a))
  | none => 0

/-- A stated permitted range of one field, over every instance of its register (R394). -/
structure RangeRow where
  base : Nat
  stride : Nat
  count : Nat
  stride2 : Nat
  count2 : Nat
  hi : Nat
  lo : Nat
  min : Nat
  max : Nat

/-- Stated ranges, part 1. -/
def rangeRows1 : List RangeRow :=
    [ ⟨0x120100, 0x20, 21, 0x20, 1, 4, 0, 0, 16⟩  -- CUE_TB_CFG.SHIFT
    , ⟨0x090000, 0x100, 24, 0x100, 1, 31, 24, 1, 255⟩  -- LEG_CFG.HS_TO
    , ⟨0x090000, 0x100, 24, 0x100, 1, 8, 0, 5, 500⟩  -- LEG_CFG.DT
    , ⟨0x09000C, 0x100, 24, 0x100, 1, 27, 16, 50, 4000⟩  -- LEG_VDS.BLK
    , ⟨0x09000C, 0x100, 24, 0x100, 1, 12, 8, 1, 20⟩  -- LEG_VDS.THR_HS
    , ⟨0x09000C, 0x100, 24, 0x100, 1, 4, 0, 1, 20⟩  -- LEG_VDS.THR_LS
    , ⟨0x090010, 0x100, 24, 0x100, 1, 7, 0, 10, 250⟩  -- LEG_TRIP.LVL
    , ⟨0x090014, 0x100, 24, 0x100, 1, 15, 8, 1, 255⟩  -- LEG_BST.REF_K
    , ⟨0x090014, 0x100, 24, 0x100, 1, 3, 0, 0, 14⟩  -- LEG_BST.UV_THR
    , ⟨0x0A0000, 0x40, 41, 0x40, 1, 1, 0, 0, 2⟩  -- SL_CFG.RANGE
    , ⟨0x0A0004, 0x40, 41, 0x40, 1, 16, 0, 256, 130040⟩  -- SL_WLEN.WLEN
    , ⟨0x0A0C00, 0x4, 1, 0x4, 1, 27, 24, 0, 12⟩  -- RSV_EXC.AMP
    , ⟨0x0A0C00, 0x4, 1, 0x4, 1, 15, 0, 12500, 50000⟩  -- RSV_EXC.PER
    , ⟨0x0800C0, 0x1000, 8, 0x1000, 1, 19, 16, 1, 15⟩  -- AX_KIRCH.PERSIST
    , ⟨0x0800C0, 0x1000, 8, 0x1000, 1, 7, 0, 1, 255⟩  -- AX_KIRCH.BAND
    , ⟨0x0B0000, 0x100, 32, 0x100, 1, 30, 28, 0, 5⟩  -- FP_CFG.FUNC
    , ⟨0x0B0000, 0x100, 32, 0x100, 1, 14, 12, 0, 5⟩  -- FP_CFG.DSUB
    , ⟨0x0B0004, 0x100, 32, 0x100, 1, 31, 28, 1, 15⟩  -- FP_CHK.ACQ_T
    , ⟨0x0B0004, 0x100, 32, 0x100, 1, 27, 16, 25, 2500⟩  -- FP_CHK.TAGREE
    , ⟨0x0B0004, 0x100, 32, 0x100, 1, 11, 0, 2, 4000⟩  -- FP_CHK.MIN_EDGE
    , ⟨0x0B000C, 0x100, 32, 0x100, 1, 31, 30, 0, 2⟩  -- FP_IDX.MODE
    , ⟨0x0B0060, 0x100, 32, 0x100, 1, 25, 16, 25, 1000⟩  -- FP_SSI.PER
    , ⟨0x0B0060, 0x100, 32, 0x100, 1, 13, 8, 8, 32⟩  -- FP_SSI.POSB
    , ⟨0x0B0060, 0x100, 32, 0x100, 1, 6, 4, 0, 4⟩  -- FP_SSI.STATB
    ]

/-- Stated ranges, part 2. -/
def rangeRows2 : List RangeRow :=
    [ ⟨0x0B0060, 0x100, 32, 0x100, 1, 3, 0, 0, 8⟩  -- FP_SSI.CRCW
    , ⟨0x0B0064, 0x100, 32, 0x100, 1, 31, 24, 1, 255⟩  -- FP_SSI2.TO
    , ⟨0x0B0064, 0x100, 32, 0x100, 1, 11, 8, 1, 15⟩  -- FP_SSI2.FAILN
    , ⟨0x0B006C, 0x100, 32, 0x100, 1, 27, 24, 1, 15⟩  -- FP_SSI3.TRIGDIV
    , ⟨0x0B006C, 0x100, 32, 0x100, 1, 23, 0, 1, 8388608⟩  -- FP_SSI3.MAXSTEP
    , ⟨0x0B0070, 0x100, 32, 0x100, 1, 29, 20, 1, 1000⟩  -- FP_DIG.SAMP
    , ⟨0x0B0070, 0x100, 32, 0x100, 1, 19, 10, 1, 1000⟩  -- FP_DIG.REARM
    , ⟨0x0B0070, 0x100, 32, 0x100, 1, 9, 0, 1, 1000⟩  -- FP_DIG.FREQTO
    , ⟨0x0B0084, 0x100, 32, 0x100, 1, 14, 0, 1, 25000⟩  -- FP_EMUF.FMAX
    , ⟨0x080000, 0x1000, 8, 0x1000, 1, 31, 30, 0, 2⟩  -- AX_CFG.OWNER
    , ⟨0x080020, 0x1000, 8, 0x1000, 1, 31, 28, 1, 15⟩  -- AX_FOLLOW.FOLLOW_N
    , ⟨0x080028, 0x1000, 8, 0x1000, 1, 31, 24, 1, 255⟩  -- AX_STALL.STALL_T
    , ⟨0x08002C, 0x1000, 8, 0x1000, 1, 31, 20, 1, 4095⟩  -- AX_HOME.IHOME
    , ⟨0x080030, 0x1000, 8, 0x1000, 1, 15, 0, 1, 65535⟩  -- AX_HOME2.TO
    , ⟨0x080048, 0x1000, 8, 0x1000, 1, 15, 0, 1, 65535⟩  -- CMP_ACCEL.ACCEL
    , ⟨0x08004C, 0x1000, 8, 0x1000, 1, 15, 0, 1, 65535⟩  -- CMP_DECEL.DECEL
    , ⟨0x0800A0, 0x1000, 8, 0x4, 8, 15, 0, 1, 65535⟩  -- AX_GSLOT.DEN
    , ⟨0x080980, 0x1000, 8, 0x4, 32, 15, 0, 1, 65535⟩  -- AX_CRVS.SLOPE
    , ⟨0x080100, 0x1000, 8, 0x1000, 1, 15, 0, 100, 65535⟩  -- AX_COMCFG.SHUNT
    , ⟨0x080104, 0x1000, 8, 0x1000, 1, 31, 29, 0, 6⟩  -- AX_SRC.PRI
    , ⟨0x080104, 0x1000, 8, 0x1000, 1, 23, 21, 0, 6⟩  -- AX_SRC.SEC
    , ⟨0x080110, 0x1000, 8, 0x1000, 1, 27, 16, 1, 4095⟩  -- AX_ILIM.ILIM_REG
    , ⟨0x080110, 0x1000, 8, 0x1000, 1, 11, 0, 1, 4095⟩  -- AX_ILIM.ILIM
    , ⟨0x080120, 0x1000, 8, 0x1000, 1, 31, 28, 0, 8⟩  -- AX_SOFT.STEPS
    ]

/-- Stated ranges, part 3. -/
def rangeRows3 : List RangeRow :=
    [ ⟨0x080120, 0x1000, 8, 0x1000, 1, 21, 16, 0, 60⟩  -- AX_SOFT.SPAN
    , ⟨0x080150, 0x1000, 8, 0x1000, 1, 31, 28, 1, 15⟩  -- AX_BEMF.QUALN
    , ⟨0x080154, 0x1000, 8, 0x1000, 1, 31, 24, 1, 255⟩  -- AX_IPD.W
    , ⟨0x080154, 0x1000, 8, 0x1000, 1, 23, 16, 1, 255⟩  -- AX_IPD.GAP
    , ⟨0x080158, 0x1000, 8, 0x1000, 1, 23, 16, 1, 255⟩  -- AX_OLS.F0
    , ⟨0x08015C, 0x1000, 8, 0x1000, 1, 15, 0, 1, 65535⟩  -- AX_OLA.ACC
    , ⟨0x080168, 0x1000, 8, 0x1000, 1, 31, 28, 1, 15⟩  -- AX_PLAUS.PLAUS_N
    , ⟨0x080168, 0x1000, 8, 0x1000, 1, 27, 24, 1, 15⟩  -- AX_PLAUS.DROPN
    , ⟨0x0801A0, 0x1000, 8, 0x1000, 1, 23, 16, 1, 255⟩  -- AX_ADVCFG.TRAIN_N
    , ⟨0x0D0004, 0x8000, 2, 0x8000, 1, 31, 16, 100, 65535⟩  -- BUS_CFG.SHUNT
    , ⟨0x0D0004, 0x8000, 2, 0x8000, 1, 15, 8, 1, 255⟩  -- BUS_CFG.CHOP_MIN
    , ⟨0x0D0004, 0x8000, 2, 0x8000, 1, 7, 0, 5, 100⟩  -- BUS_CFG.HYST
    , ⟨0x0D0008, 0x8000, 2, 0x8000, 1, 27, 24, 4, 15⟩  -- BUS_CHOP.CHKF
    , ⟨0x0D0008, 0x8000, 2, 0x8000, 1, 15, 0, 100, 65535⟩  -- BUS_CHOP.RBRK
    , ⟨0x0D000C, 0x8000, 2, 0x8000, 1, 27, 24, 0, 11⟩  -- BUS_REGEN.TSENS
    , ⟨0x0D0010, 0x8000, 2, 0x8000, 1, 25, 16, 100, 1000⟩  -- BUS_REGEN2.RAMP
    , ⟨0x0D0014, 0x8000, 2, 0x8000, 1, 15, 0, 1, 65535⟩  -- BUS_ADM.CBUS
    , ⟨0x0D0018, 0x8000, 2, 0x8000, 1, 31, 24, 1, 255⟩  -- BUS_ADM2.IPRE
    , ⟨0x0D0018, 0x8000, 2, 0x8000, 1, 23, 16, 1, 255⟩  -- BUS_ADM2.IRAMP
    , ⟨0x0D0018, 0x8000, 2, 0x8000, 1, 15, 8, 5, 255⟩  -- BUS_ADM2.DONE_V
    , ⟨0x0D001C, 0x8000, 2, 0x8000, 1, 31, 16, 1, 65535⟩  -- BUS_ADM3.PRE_TO
    , ⟨0x0D001C, 0x8000, 2, 0x8000, 1, 11, 8, 1, 15⟩  -- BUS_ADM3.RMV_N
    , ⟨0x0D0020, 0x8000, 2, 0x8000, 1, 27, 16, 1, 4095⟩  -- BUS_ADM4.IMIN
    , ⟨0x0D0020, 0x8000, 2, 0x8000, 1, 9, 0, 1, 1000⟩  -- BUS_ADM4.KDIV
    ]

/-- Stated ranges, part 4. -/
def rangeRows4 : List RangeRow :=
    [ ⟨0x0E0080, 0x4, 1, 0x4, 1, 22, 16, 1, 100⟩  -- HK_MODE.ROUND
    , ⟨0x0E0080, 0x4, 1, 0x4, 1, 7, 4, 1, 15⟩  -- HK_MODE.XN
    , ⟨0x0E0080, 0x4, 1, 0x4, 1, 3, 0, 1, 15⟩  -- HK_MODE.XBAND
    , ⟨0x0E0100, 0x8, 46, 0x8, 1, 29, 28, 0, 2⟩  -- HK_CH.RNG
    , ⟨0x0E0100, 0x8, 46, 0x8, 1, 23, 20, 1, 15⟩  -- HK_CH.NPER
    , ⟨0x0E0100, 0x8, 46, 0x8, 1, 14, 0, 16, 20000⟩  -- HK_CH.WLEN
    , ⟨0x0E0800, 0x10, 17, 0x10, 1, 13, 0, 1, 16383⟩  -- HK_TMP_TYPE.B
    , ⟨0x0E0808, 0x10, 17, 0x10, 1, 7, 4, 1, 15⟩  -- TMP_LIM.SDHYST
    , ⟨0x0E0808, 0x10, 17, 0x10, 1, 3, 0, 1, 15⟩  -- TMP_LIM.MARGIN
    , ⟨0x0E0C00, 0x20, 8, 0x20, 1, 15, 8, 1, 255⟩  -- WM_CFG.FILT
    , ⟨0x01003C, 0x4, 1, 0x4, 1, 7, 0, 2, 255⟩  -- BEACON_CTL.PULSE
    , ⟨0x010040, 0x4, 1, 0x4, 1, 12, 0, 0, 4096⟩  -- FLT_DRT.DF
    , ⟨0x040000, 0x4, 1, 0x4, 1, 7, 0, 1, 255⟩  -- HP_CFG.TO
    , ⟨0x041014, 0x4, 1, 0x4, 1, 15, 0, 1, 65535⟩  -- CAN_OWNHB2.PERIOD
    , ⟨0x042000, 0x10, 64, 0x10, 1, 31, 29, 0, 6⟩  -- CAN_ACC_W0.KIND
    , ⟨0x044000, 0x4, 1, 0x4, 1, 21, 20, 1, 3⟩  -- RNG_CFG.NPKG
    , ⟨0x044004, 0x4, 1, 0x4, 1, 28, 24, 0, 19⟩  -- RNG_PUB.TB1
    , ⟨0x044004, 0x4, 1, 0x4, 1, 12, 8, 0, 19⟩  -- RNG_PUB.TB0
    ]

/-- Every stated single-field range (R394); the rules that join several fields stand in Admission. -/
def rangeRows : List RangeRow :=
  rangeRows1 ++ rangeRows2 ++ rangeRows3 ++ rangeRows4

end Sys2Proof.Machine
end

