-- ==== Sys2Proof/Machine/Store.lean ====
section
/-! DEFINITION. A sparse array: addresses strictly rising, and no entry equal to what an unlisted address reads
as, so that equal contents are equal data.  It holds the register words, the cue sheet, the fuses and the
logbook. -/
namespace Sys2Proof.Machine

/-- The listed cells of a sparse array of `w`-bit words. -/
abbrev Cells (w : Nat) := List (Nat × BitVec w)

/-- The listed value of address `k`, if it is listed. -/
def cellsFind {w : Nat} : Cells w → Nat → Option (BitVec w)
  | [], _ => none
  | (a, v) :: m, k => if a = k then some v else cellsFind m k

/-- Takes `k` off the list. -/
def cellsErase {w : Nat} : Cells w → Nat → Cells w
  | [], _ => []
  | (a, u) :: m, k => if a = k then cellsErase m k else (a, u) :: cellsErase m k

/-- Lists `v` at the unlisted address `k`, keeping the order. -/
def cellsPlace {w : Nat} : Cells w → Nat → BitVec w → Cells w
  | [], k, v => [(k, v)]
  | (a, u) :: m, k, v => if k < a then (k, v) :: (a, u) :: m else (a, u) :: cellsPlace m k v

/-- The content of address `k`, where unlisted addresses read as `d`. -/
def cellsGet {w : Nat} (d : Nat → BitVec w) (m : Cells w) (k : Nat) : BitVec w :=
  (cellsFind m k).getD (d k)

/-- Writes `v` to address `k` and keeps the canonical form. -/
def cellsSet {w : Nat} (d : Nat → BitVec w) (m : Cells w) (k : Nat) (v : BitVec w) : Cells w :=
  if v = d k then cellsErase m k else cellsPlace (cellsErase m k) k v

/-- Every listed address is at least `lo`, and they rise strictly; no entry equals what an unlisted address
reads as. -/
def cellsWfFrom {w : Nat} (d : Nat → BitVec w) : Nat → Cells w → Bool
  | _, [] => true
  | lo, (a, v) :: m => decide (lo ≤ a) && decide (v ≠ d a) && cellsWfFrom d (a + 1) m

/-- The canonical form of a sparse array. -/
def cellsWf {w : Nat} (d : Nat → BitVec w) (m : Cells w) : Bool := cellsWfFrom d 0 m

/-- What an unlisted word of the cue sheet, the fuse array and the logbook reads as: 0 (R35, R321). -/
def zeros {w : Nat} : Nat → BitVec w := fun _ => 0

end Sys2Proof.Machine
end

