-- ==== Sys2Proof/Machine/State.lean ====
section
/-! DEFINITION. The state of the block: every register word, in one sparse store by address, and beside it every piece
of state that the rules name and no register shows; the fuses and the logbook, which no reset touches; and
the queue of waiting commands. -/
namespace Sys2Proof.Machine

/-- The reasons a request is refused (Table 0-3). -/
inductive Reason where
  | ok
  | state
  | range
  | locked
  | credit
  | density
  | budget
  | wrongDir
  | busy
  | auth
  | window
  | late
  deriving DecidableEq, Repr

/-- Why the machine can stop.  The spec gives every command an effect, so no meaning raises this fault: it is
the one name kept for the type. -/
inductive Fault where
  /-- Raised by no command (safe: a stop proves nothing false). -/
  | unreachable
  deriving DecidableEq, Repr

/-- Why a command can be refused by the model. -/
inductive Refusal where
  /-- A command whose meaning has not been written; raised by Machine/Dispatch.lean only (safe). -/
  | notModelled (mnemonic : String)
  deriving DecidableEq, Repr

/-- What a leg holds beyond its registers (04_gate_legs.md). -/
structure LegState where
  /-- The on-requests of GH, GL (R76, R81). -/
  ghCmd : Bool := false
  glCmd : Bool := false
  /-- GH, GL turned on (R79). -/
  ghOn : Bool := false
  glOn : Bool := false
  /-- GH, GL lie below their gate-sense threshold since the latest crossing, and the tick from which a gate may turn on
  by it: tick k + 2 of a crossing in tick k, which is registered in tick k + 1 (R79). -/
  ghBelow : Bool := true
  glBelow : Bool := true
  ghClear : Nat := 0
  glClear : Nat := 0
  /-- The tick of the latest turn-off command of GH, GL (R79, R82). -/
  ghOff : Option Nat := none
  glOff : Option Nat := none
  /-- The tick of the latest edge of GH, GL (R82, R85, R90, R91). -/
  ghEdge : Option Nat := none
  glEdge : Option Nat := none
  /-- The gate waiting for the handshake (R79), and the tick d from which its timer runs (R80). -/
  waiting : Option Gate := none
  deadTick : Nat := 0
  /-- The rise and the fall of the period in progress have been made (R77). -/
  rose : Bool := false
  fell : Bool := false
  /-- A duty that applies from the next period, and one that arrived during a refresh (R77). -/
  nextOn : Option (BitVec 17) := none
  heldOn : Option (BitVec 17) := none
  /-- Periods in a row at 99 % duty or more (R86). -/
  refCount : Nat := 0
  /-- A refresh runs: the tick in which GL is commanded off again (R86). -/
  refresh : Option Nat := none
  /-- A refresh is requested: the tick in which the request arrived (R87). -/
  refreshReq : Option Nat := none
  /-- A charging series runs (R88, R89), with the pulses it has made; it has ended without BST_OK; a pulse runs: the
  tick in which GL is commanded off again. -/
  charging : Bool := false
  pulses : Nat := 0
  exhausted : Bool := false
  pulse : Option Nat := none
  /-- The leg stays off until its next duty frame (R22). -/
  awaitDuty : Bool := false
  /-- VDS, BST_UV, GATE, TRIP (bits 3 to 0): raised and not yet carried by a burst; as the C-die sees them; seen, but
  absent from the latest burst (R93). -/
  owed : BitVec 4 := 0
  seen : BitVec 4 := 0
  missed : BitVec 4 := 0
  /-- Gate-sense states and bootstrap status last reported up the link (Table 1-3, leg status). -/
  repGh : Bool := false
  repGl : Bool := false
  repBst : Bool := false
  /-- What the C-die last asked of the leg: mode, duty and live slew steps, base steps where absent (R174). -/
  wantMode : LegMode := .float
  wantOn : BitVec 17 := 0
  wantSlew : Option Slew := none
  /-- Duties and settings on their way down the link, oldest first (R19). -/
  duties : List (BitVec 17) := []
  settings : List LegSetting := []
  deriving DecidableEq, Repr

/-- One direction of an inter-die link (R19 to R21). -/
structure LinkDir where
  /-- Failures in a row of the frame with each SEQ. -/
  fails : Vector Nat 16 := Vector.replicate 16 0
  /-- SEQ of the last frame received with a valid CRC. -/
  lastSeq : BitVec 4 := 0
  /-- The not-acknowledges that the receiver owes the opposite direction, oldest first. -/
  nackDue : List (BitVec 4) := []
  /-- The frames that the sender owes again, oldest first. -/
  resend : List (BitVec 4) := []
  /-- Frames sent again since reset. -/
  resent : Nat := 0
  deriving DecidableEq, Repr

/-- A die's link (R21). -/
structure LinkState where
  down : Bool := false
  dn : LinkDir := {}
  up : LinkDir := {}
  deriving DecidableEq, Repr

/-- A timebase beyond its registers (R28 to R33). -/
structure TbState where
  /-- v(t) and v(t - 1) (R46). -/
  val : BitVec 32 := 0
  prev : BitVec 32 := 0
  /-- The source value at its last update, and the extrapolation since (R29). -/
  src : BitVec 32 := 0
  ext : Int := 0
  /-- The source's own direction: true is backward (R29). -/
  srcBack : Bool := false
  /-- The source's latest update landed behind the value, which holds until the source passes it (R29). -/
  holding : Bool := false
  /-- The speed estimate of the latest tick (R29), and whether it exceeded VMAX (R30). -/
  speed : Int := 0
  lagging : Bool := false
  /-- The source has given a valid sample since image load (R33). -/
  seeded : Bool := false
  /-- The next sample is a jump (R32). -/
  jumpDue : Bool := true
  /-- The source is gone (R33). -/
  lost : Bool := false
  /-- The unwrapped count U of a linear master (R31). -/
  unwrapped : Int := 0
  uStarted : Bool := false
  /-- The tick of the last swap of its acts (R45). -/
  swapTick : Option Nat := none
  /-- A jump since the sector was last applied anew (R172); a jump reached the gear accumulators (R224). -/
  jumped : Bool := false
  stepJump : Bool := false
  deriving DecidableEq, Repr

/-- A cue whose crossing qualified and whose action is due (R47): the wall tick of the crossing, and that tick as `now`
counts it. -/
structure Fire where
  entry : Nat
  cue : BitVec 64
  tb : Nat
  tick : Nat
  since : Nat
  /-- Timebase values before and at the crossing, for the split of R225, and the value of the timebase that a
  CAPTURE names in the crossing tick (Table 2-3). -/
  v0 : BitVec 32
  v1 : BitVec 32
  named : BitVec 32
  deriving DecidableEq, Repr

/-- A record of CUE_SKIPQ (Table 2-9) with its crossing tick. -/
structure SkipRec where
  entry : Nat
  tb : Nat
  tick : Nat
  deriving DecidableEq, Repr

/-- A record of CUE_IRQQ (Table 2-11). -/
structure IrqRec where
  entry : Nat
  tag : Nat
  deriving DecidableEq, Repr

/-- The cue sheet's own state (02_cue_sheet.md); the entries are 64-bit cells by index. -/
structure CueState where
  sheet : Cells 64 := []
  /-- Entries that hold a disarmed cue, rising (R47). -/
  disarmed : List Nat := []
  fires : List Fire := []
  skipq : List SkipRec := []
  skipLost : Bool := false
  irqq : List IrqRec := []
  irqLost : Bool := false
  /-- Holding registers of the host port and of CAN (R34). -/
  holdHost : Word := 0
  holdCan : Word := 0
  deriving DecidableEq, Repr

/-- An interval result of a slice, or a window's (R102): count, clocks and the flags of Table 5-10. -/
structure Result where
  count : Int := 0
  clocks : Nat := 0
  ovr : Bool := false
  setl : Bool := false
  sub : Bool := false
  chk : Bool := false
  deriving DecidableEq, Repr

/-- What a closed window brings to the C-die (R103): its result, close cause and carried excess, the clocks and entries
at the clamp, the clocks booked as gap, whether it ends an interval (R102), and whether the slice stopped at it (R108). -/
structure Report where
  res : Result
  cause : Nat
  /-- The ticks at which the window opened and closed. -/
  opened : Nat
  shut : Nat
  excess : Int
  clampClocks : Nat
  clampEntries : Nat
  gapClocks : Nat
  sched : Bool
  stop : Bool
  deriving DecidableEq, Repr

/-- A charge slice beyond its registers (05_charge_slices.md). -/
structure SliceState where
  running : Bool := false
  /-- The tick of the edge at which the present window opened, the latest close of the slice (R99). -/
  opened : Nat := 0
  /-- Fine code at which the last window ended (R104). -/
  fStart : Int := 0
  /-- Close causes requested and not yet taken (R99): scheduled, cue, LIMIT, FORCED. -/
  reqSched : Bool := false
  reqCue : Bool := false
  reqLimit : Bool := false
  reqForced : Bool := false
  /-- Windows that still carry SETL (R109), and the range an understudy last ran at. -/
  settle : Nat := 0
  range : Nat := 0
  /-- FIXED length in force, the tick from which it counts, and whether a new one is due at the close (R99, R110). -/
  wlen : Nat := 12500
  fixedFrom : Nat := 0
  lenDue : Bool := false
  /-- The fraction carry_x, as a numerator and its divisor (R114). -/
  carry : Int := 0
  carryBy : Nat := 1
  /-- The slice's windows form a gap, and are reconstructed where R118 and R119 allow it; its window waits for those of
  its mates at the same edge. -/
  gap : Bool := false
  waits : Bool := false
  /-- The next close stops the slice (R108). -/
  stopping : Bool := false
  /-- The next close hands the measurement back from the understudy (R116, R117). -/
  back : Bool := false
  /-- A window-close frame for it is on its way (R100); its window results on their way up, oldest first (R103). -/
  frameDue : Bool := false
  reports : List Report := []
  /-- The latest window's result and excess, as the slice closed it. -/
  closed : Result := {}
  excess : Int := 0
  /-- The interval in progress, and the interval last delivered (R102); whether the delivered one is new. -/
  cur : Result := {}
  last : Result := {}
  fresh : Bool := false
  deriving DecidableEq, Repr

/-- The understudy of a die (R111 to R119). -/
structure UnderState where
  /-- The tick at which the latest round started, and the turns still to start: target and start time (R111). -/
  roundFrom : Nat := 0
  turns : List (Nat × Nat) := []
  target : Option Nat := none
  /-- Windows of the target still to close in this step (R112). -/
  left : Nat := 0
  /-- This turn's shadow comparison has failed once (R113). -/
  retried : Bool := false
  /-- The understudy calibrates itself before a retry (R113), and has read zero. -/
  selfCal : Bool := false
  selfZero : Bool := false
  /-- The tick at which the calibration in progress began (R112, R113). -/
  calFrom : Nat := 0
  /-- A calibration of the target passed and waits for the hand-back (R115). -/
  newCal : Option Word := none
  zeroRead : BitVec 16 := 0
  /-- The calibration has ended and the turn waits for a close of the target (Table 5-4, step 4). -/
  calDone : Bool := false
  /-- The understudy itself has failed a check (R119). -/
  failed : Bool := false
  /-- Permanent replacement in progress: settle windows run for this slice, from this tick (R117); they have ended. -/
  settling : Option Nat := none
  settleFrom : Option Nat := none
  settled : Bool := false
  deriving DecidableEq, Repr

/-- A resolver's demodulation and tracking loop (R122, R162). -/
structure RsvState where
  posSin : Int := 0
  posCos : Int := 0
  posClocks : Nat := 0
  posBad : Bool := false
  /-- The demodulated sine and cosine of the latest cycle (R122). -/
  demSin : Int := 0
  demCos : Int := 0
  used : Nat := 0
  dropped : Nat := 0
  qualified : Bool := false
  everQual : Bool := false
  angle : BitVec 32 := 0
  deriving DecidableEq, Repr

/-- A feedback port beyond its registers (06_feedback_ports.md); a group's state stands at its lead port. -/
structure PortState where
  /-- The group's sampled lines, bit 0 the lead's (R134). -/
  lines : BitVec 3 := 0
  /-- The lines have been sampled since sampling began, so that `lines` is a sample (R127, R134). -/
  linesKnown : Bool := false
  /-- The tick of the latest edge, or of the first sample; an edge has been seen (R135).  Of an emulation output: the
  tick of its latest step (R154). -/
  lastEdge : Nat := 0
  anyEdge : Bool := false
  /-- The tick from which the acquire time counts (Table 6-2). -/
  acqTick : Nat := 0
  /-- This port's wire check has failed in the present episode (R128), and the tick from which it has passed. -/
  wireBad : Bool := false
  wireOkTick : Nat := 0
  /-- A Hall group's invalid code has been held for TAGREE (R137). -/
  hallHeld : Bool := false
  /-- The direction line's level and the tick it took it (R138). -/
  dirHigh : Bool := false
  dirTick : Nat := 0
  /-- The event line reads high; the index may fall again (R141); the index was learned (R143). -/
  evHigh : Bool := false
  idxArmed : Bool := true
  learned : Bool := false
  /-- SSI: frames triggered since the last start, a frame runs, failures in a row, good frames in a row, the
  last accepted position (R144 to R147). -/
  trig : Nat := 0
  ssiBusy : Bool := false
  /-- The start tick T of the frame in progress (R144). -/
  ssiFrom : Nat := 0
  ssiFails : Nat := 0
  ssiGood : Nat := 0
  ssiLast : Option Nat := none
  /-- Digital: equal samples in a row, their level, whether a level is qualified, last qualified rise (R148). -/
  digRun : Nat := 0
  digLevel : Bool := false
  digQual : Bool := false
  lastRise : Option Nat := none
  /-- The tick of the latest sample of a digital input (R148), and of the latest one that qualified its level anew
  (R150). -/
  sampTick : Option Nat := none
  digTick : Nat := 0
  /-- Output: the driven level, and the running pulse's last tick (R38). -/
  pulseEnd : Option Nat := none
  /-- Outputs are at high impedance (R127, R297). -/
  hiZ : Bool := false
  /-- Emulation: source value without wrap (R153); the owed counts by the tick in which they arose, oldest first (R154);
  the end of the running Z pulse (R155). -/
  emuX : Int := 0
  owes : List (Nat × Nat) := []
  zPulse : Option Nat := none
  deriving DecidableEq, Repr

/-- A setpoint entry in the FIFO (R212). -/
structure Setpoint where
  pos : BitVec 32
  tag : Nat
  blkEnd : Bool
  deriving DecidableEq, Repr

/-- What a slice's snapshot holds (R58). -/
structure Snapshot where
  tick : Nat := 0
  mode : Nat := 0
  /-- The first slice with this mode in its snapshot; the first after an entry into SHOW (R207); the entry it
  belongs to. -/
  entered : Bool := false
  entry : Nat := 0
  tbm : BitVec 32 := 0
  tbe : BitVec 32 := 0
  stale : Bool := true
  /-- The difference primary less secondary, where both sources are valid and comparable (R164). -/
  cmp : Option Int := none
  switched : Bool := false
  x : Nat := 0
  inFail : Bool := false
  df : Nat := 4096
  limF : Bool := false
  limB : Bool := false
  advSel : Bool := false
  /-- The direction in force; RUN, TARGET, ACCEL and DECEL of the compatibility block. -/
  dir : Bool := false
  run : Bool := false
  cmpTarget : Int := 0
  accel : Nat := 0
  decel : Nat := 0
  /-- The source in use is sensorless, and is qualified; the middle of the count's span of a Hall set in use (R363). -/
  sensorless : Bool := false
  qual : Bool := false
  hallMid : Option (BitVec 32) := none
  /-- The electrical speed in counts per tick; the target speed that GEAR feeds forward, in counts per tick, as
  numerator and denominator (R178, R224). -/
  speed : Int := 0
  gearSpeed : Int × Nat := (0, 1)
  gearTarget : BitVec 32 := 0
  /-- The target of GEAR or HOLD came from this snapshot. -/
  took : Bool := false
  homeLate : Bool := false
  /-- STREAM: the FIFO head of the period that this slice begins, as it stood (R213). -/
  head : Option Setpoint := none
  /-- The phase results (R177), by phase. -/
  u : Result := {}
  v : Result := {}
  w : Result := {}
  deriving DecidableEq, Repr

/-- A slice that has been released and has neither committed nor been abandoned (R58 to R61). -/
structure Pend where
  release : Nat
  /-- The derating factor in force at the release (R263); the tick of the boundary before, where the slice's windows
  opened, and TB(8 + a) there and at the release (R177). -/
  df : Nat := 4096
  opened : Nat := 0
  v0 : BitVec 32 := 0
  v1 : BitVec 32 := 0
  /-- STREAM: its servo period, its index in it, and whether the period is a new one (R211, R213). -/
  period : Nat := 0
  j : Nat := 0
  snap : Option Snapshot := none
  deriving DecidableEq, Repr

/-- The slices of an axis in its engine (R57 to R71). -/
structure SliceRun where
  /-- Released slices, oldest first. -/
  queue : List Pend := []
  /-- The oldest has started; it is preempted; its mismatch is flagged; it is being executed again. -/
  started : Bool := false
  preempted : Bool := false
  mismatched : Bool := false
  retrying : Bool := false
  /-- Engine cycles that the oldest ran before its latest start or resumption, and the tick of that (R60, R68); the tick
  of the flagged mismatch. -/
  ran : Nat := 0
  since : Nat := 0
  flagged : Nat := 0
  deriving DecidableEq, Repr

/-- A master step, and the slot changes inside it: the distance along the motion at which each falls, one more
than the step's length for the end of the step, and the new slot (R224, R225). -/
structure GearStep where
  tick : Nat
  d : Int
  cuts : List (Nat × Nat) := []
  deriving DecidableEq, Repr

/-- A softened transition in progress (R174): the target sector, the next step, the direction, the bank point and its
position when the transition began. -/
structure Trans where
  sector : Nat
  step : Nat
  back : Bool
  point : Nat
  base : BitVec 32
  deriving DecidableEq, Repr

/-- A lane cue of a commutation bank that has been crossed and whose action is due (R171): its point and place in the
span, the direction, and the tick of the crossing. -/
structure LaneFire where
  point : Nat
  place : Nat
  back : Bool
  since : Nat
  deriving DecidableEq, Repr

/-- How an accepted start proceeds (Table 7-6). -/
inductive StartPlan where
  | rest
  | catch
  | brake
  deriving DecidableEq, Repr

/-- An axis's committed checkpoint and the state its modes keep (03, 07, 08). -/
structure AxisState where
  run : SliceRun := {}
  /-- Home shift H (R158). -/
  homeShift : BitVec 32 := 0
  /-- The secondary's offset (R164, R165): no comparison yet since learning started, comparisons in band and out
  of band in a row, the offset and the mechanical base held at the switch-over, OFS_OK before the loss. -/
  learning : Bool := true
  inBand : Nat := 0
  outBand : Nat := 0
  heldOfs : BitVec 32 := 0
  heldMech : BitVec 32 := 0
  ofsAtLoss : Bool := false
  /-- A switch-over is prepared for a tick, and the tick of the latest switch (R167); an accepted return is due in a tick
  (R169); a switch since the last snapshot (R367); the secondary in use was lost (R168). -/
  switchDue : Option Nat := none
  switchTick : Option Nat := none
  backDue : Option Nat := none
  switched : Bool := false
  staleBySec : Bool := false
  /-- The latest edge of a Hall secondary: its tick, and the primary's rotor angle less the edge's (R164). -/
  hallEdge : Option (Nat × BitVec 32) := none
  /-- Sensorless estimate (R163, R182): mechanical value, whether it has ever qualified, crossings in band in a
  row, misses in a row, slices with the observer outside BAND and inside it, in a row; the tick of the latest
  crossing, and its angle as the observer takes it (R180). -/
  est : BitVec 32 := 0
  estEver : Bool := false
  crossRow : Nat := 0
  missRow : Nat := 0
  obsBad : Nat := 0
  obsGood : Nat := 0
  crossTick : Option Nat := none
  crossAngle : BitVec 32 := 0
  /-- A field-oriented axis with a sensorless source runs field-oriented, and has just changed over to it (R191). -/
  focOn : Bool := false
  focNew : Bool := false
  /-- The start in progress (R184 to R190): its plan, its first slice still due; the tick of its acceptance. -/
  plan : Option StartPlan := none
  planTick : Nat := 0
  /-- Detection (R188): a pulse runs; the ticks at which the latest pulse began and ended; the charge of each phase in
  it, and whether its windows have all stood; a window carried OVR. -/
  ipdOn : Bool := false
  ipdFrom : Nat := 0
  ipdTo : Option Nat := none
  ipdCharge : Vector (Int × Bool) 3 := Vector.replicate 3 (0, false)
  ipdOvr : Bool := false
  /-- Detection: responses so far, pulse width in µs, the repeat, the winning margin, direction and band. -/
  ipdDone : List Int := []
  ipdWidth : Nat := 0
  ipdAgain : Bool := false
  ipdMargin : Int := 0
  ipdDir : Nat := 0
  ipdBand : Nat := 0
  /-- Open loop: its start tick and its commutations (R190); the tick from which the legs stay LOW for 50 ms after a
  sensorless brake (R186). -/
  olTick : Nat := 0
  olSteps : Nat := 0
  brakeHold : Option Nat := none
  /-- The commutation bank (R171): it has been written, its disarmed lane cues, its crossed ones whose action is due. -/
  banked : Bool := false
  laneOff : List Nat := []
  lane : List LaneFire := []
  /-- Six-step: the transition in progress (R174); the advance and the sign of torque of the latest commit (R170). -/
  trans : Option Trans := none
  adv : Int := 0
  negTorque : Bool := false
  /-- Phase-advance set selected (R193), trained slices per trim register, margins of the last starts per band
  (R196). -/
  advSel : Bool := false
  trimSlices : List (Nat × Nat) := []
  margins : List (Nat × Int) := []
  /-- The mode was entered, or SHOW was, and no slice has taken it into its snapshot (R207); the entries so far, by
  which a slice with an older snapshot is told apart. -/
  entered : Bool := false
  entries : Nat := 0
  /-- The tick of the latest period boundary, and TB(8 + a) there (R74, R177). -/
  edgeTick : Option Nat := none
  edgeTb : BitVec 32 := 0
  /-- Speed reference of CURVE and COMPAT, forward positive, in rpm × 250,000,000 (R208, R210). -/
  ref : Int := 0
  /-- The drive waits to resume after STALE timebases (R365); after an orderly disqualification (R182). -/
  wasStale : Bool := false
  orderly : Bool := false
  /-- Setpoint stream (R211 to R214): FIFO, holding registers, whether a tag was accepted since entry, whether
  period 0 has begun, slices released in the period, the period in progress, P due in the next tick. -/
  fifo : List Setpoint := []
  spHost : Word := 0
  spCan : Word := 0
  tagged : Bool := false
  begun : Bool := false
  spdCount : Nat := 0
  period : Nat := 0
  newPeriod : Bool := false
  /-- The segment that the checkpoint holds, and the period it belongs to (R213). -/
  fromPos : BitVec 32 := 0
  toPos : BitVec 32 := 0
  segPeriod : Nat := 0
  /-- The entry applied in the period in progress; an abandoned slice left pops undone (R213). -/
  applied : Option Setpoint := none
  missedPop : Bool := false
  /-- Position target of GEAR and HOLD, and whether it is still to be taken from the entry snapshot. -/
  target : BitVec 32 := 0
  takeTarget : Bool := false
  /-- Gearing (R223 to R225): the stored slot, target, remainder and slot before the master's latest steps, and
  those steps, oldest first. -/
  gearStored : Nat := 0
  gearTarget0 : BitVec 32 := 0
  gearRem0 : Nat := 0
  gearSlot0 : Nat := 0
  gearSteps : List GearStep := []
  /-- Stall and following-error runs (R217, R219), homing (R218). -/
  stallFrom : Option Nat := none
  followRun : Nat := 0
  homeLate : Bool := false
  /-- The tick from which homing's timeout counts (R220), and the one from which the curve input's does (R205), which has
  expired. -/
  homeFrom : Nat := 0
  inputFrom : Nat := 0
  inputDead : Bool := false
  /-- A locally owned axis has still to enter CURVE (R204). -/
  localDue : Bool := false
  /-- The legs are driven by the mode in force (R207, R210). -/
  driven : Bool := false
  /-- Kirchhoff run of the axis (R120). -/
  kirchRun : Nat := 0
  /-- The phase whose charging pulse is next, and the tick of the axis's last pulse (R88). -/
  chargeTurn : Nat := 0
  chargeTick : Option Nat := none
  deriving DecidableEq, Repr

/-- A region's bus (09_bus_energy.md). -/
structure BusState where
  /-- A chopper check is open: the current report in force at the command in 0.1 A, and the fast voltage then in
  0.01 V (R232). -/
  chk : Option (Int × Nat) := none
  /-- The ticks of the gate command that the check verifies, and of the latest turn-on (R231, R232). -/
  chkTick : Nat := 0
  chopTick : Nat := 0
  /-- The tick of the latest turn-off (R232), and whether the minimum on time has ended (R231). -/
  chopOff : Option Nat := none
  minDone : Bool := false
  /-- Precharge (R242): i_ref in µA; v_ref in nV times CBUS. -/
  iRef : Nat := 0
  vRef : Int := 0
  /-- The latest reading of PACKCH times KDIV, in nV times 131,072 (R241). -/
  vPack : Nat := 0
  /-- The ticks at which the precharge began, and of its latest modulator clock (R242). -/
  preTick : Nat := 0
  preClock : Nat := 0
  /-- Admission gate command in 1/64 of full drive, and the tick from which it is fully on (R240). -/
  gate : Nat := 0
  gateTick : Nat := 0
  /-- Readings at or above V_PACK_MIN in a row (R241); removal intervals in a row (R243); fast voltage at the start
  of the bus interval. -/
  seenRun : Nat := 0
  rmvRun : Nat := 0
  vStart : Nat := 0
  /-- Position of the regenerative ramp: full at RAMP times 250 (R235). -/
  ramp : Nat := 0
  deriving DecidableEq, Repr

/-- A conversion: channel and class, 1 round, 2 triggered, 3 urgent (R252); whether its result carries SETL (R255);
the tick it began in and whether it came from a queue (R254). -/
structure HkReq where
  ch : Nat
  cls : Nat
  setl : Bool := false
  since : Nat := 0
  queued : Bool := false
  /-- The range and the window, in ticks, with which it began (R251, R255). -/
  rng : Nat := 0
  window : Nat := 0
  deriving DecidableEq, Repr

/-- A housekeeping converter (10_housekeeping_thermal.md). -/
structure HkState where
  running : Option HkReq := none
  /-- Internal urgent requests, re-queued conversions, and the round's list, each in order (R253). -/
  urgent : List Nat := []
  requeued : List HkReq := []
  round : List Nat := []
  /-- A flagged overrun waits for the next result; a round runs; the next round is late (R253, R256). -/
  overrun : Bool := false
  inRound : Bool := false
  lateRound : Bool := false
  /-- The converter's latest result of XCH, and whether it may be judged (R258). -/
  xch : Option (Int × Bool) := none
  deriving DecidableEq, Repr

/-- A temperature sensor (R261, R264). -/
structure TsState where
  badRun : Nat := 0
  goodRun : Nat := 0
  lastValid : Option Int := none
  df : Nat := 4096
  deriving DecidableEq, Repr

/-- A window monitor's qualification (R266). -/
structure WmState where
  run : Nat := 0
  level : Bool := false
  qual : Bool := false
  /-- The input lies above HI, below LO, as the comparators with their hysteresis have it. -/
  above : Bool := false
  below : Bool := false
  deriving DecidableEq, Repr

/-- An event a checker reports to the collector in the present tick (R273): its source, how many, the code of
its built-in action or the carried code (R281), the axes it names when the source has several, and whether it
came from injection. -/
structure Event where
  src : Nat
  count : Nat
  code : Nat
  mask : BitVec 8
  inj : Bool
  deriving DecidableEq, Repr

/-- A latched severe source (R280, R281): its effective code and its target axes (R282). -/
structure Latch where
  src : Nat
  code : Nat
  mask : BitVec 8
  deriving DecidableEq, Repr

/-- The fault collector beyond its registers (11_fault_collector.md). -/
structure FaultState where
  events : List Event := []
  latched : List Latch := []
  /-- The fire latch (R285). -/
  fire : Bool := false
  /-- Armed unit of each checker of Table 11-6. -/
  inj : Vector (Option Nat) 4 := Vector.replicate 4 none
  /-- Sensors whose thermal shutdown curtain holds, with their axis masks (R265). -/
  shutdown : List (Nat × BitVec 8) := []
  /-- Supply channels whose last reading lay outside its window (R262). -/
  supplyOut : List Nat := []
  /-- The events sampled at the collector's latest tick, by source, the sources that became severe in it, and that tick: their causes
  last to its end (R274). -/
  sampled : List Event := []
  risen : List Latch := []
  sampledTick : Option Nat := none
  /-- The open severity windows: the source and the tick of its first event (R277). -/
  windows : List (Nat × Nat) := []
  /-- The tick in which the first capture was filled (R287), and that of the event that started the latest BEACON pulse
  (R289). -/
  firstTick : Option Nat := none
  beaconTick : Nat := 0
  /-- The first access error of the latest tick that had one: that tick, FLT_ACC and the address (R291). -/
  accNew : Option (Nat × Word × Nat) := none
  deriving DecidableEq, Repr

/-- Where the start sequence stands (Table 12-1). -/
inductive BootStage where
  /-- nRESET is low. -/
  | held
  /-- Steps 4 and 5: the image is awaited and arrives. -/
  | loading
  /-- The sequence has ended. -/
  | done
  deriving DecidableEq, Repr

/-- The image loader (R301 to R306). -/
structure LoadState where
  stage : BootStage := .held
  /-- The tick at which the sequence began (R298). -/
  since : Nat := 0
  header : Option Header := none
  /-- Image bytes so far, newest first. -/
  bytes : List Byte := []
  /-- Index of the section in progress (0 is the header), its header, the records that it still holds and those of
  its bytes that have arrived, newest first. -/
  sect : Nat := 0
  cur : Option Section := none
  due : Nat := 0
  body : List Byte := []
  /-- A record or order failure to report at the section's end: reason and item (R303). -/
  fail : Option (Reason × Nat) := none
  /-- A cue section has come (R305). -/
  cueSeen : Bool := false
  /-- The loader's holding register for cue words that arrive as register records (R34, R375). -/
  hold : Word := 0
  /-- I²C address retries in a row without an answer (R352). -/
  retries : Nat := 0
  /-- The admitted image allows STRIKE (R318). -/
  strikeOk : Bool := false
  /-- A key word is uncorrectable, so every tag check fails (R325). -/
  keyDead : Bool := false
  deriving DecidableEq, Repr

/-- A logbook event record before it is written (Table 13-5). -/
structure LogRec where
  type : Nat
  pending : Bool
  tick : Nat
  p4 : Word
  p5 : Word
  p6 : Word
  deriving DecidableEq, Repr

/-- An OTP operation in progress (R326 to R329): operation, argument, target words still to verify with the
cell each goes to, pulses of the present word. -/
structure OtpOp where
  op : Nat
  arg : Nat
  todo : List (Nat × Word)
  pulses : Nat
  total : Nat
  deriving DecidableEq, Repr

/-- OTP and logbook control (13_otp_logbook.md). -/
structure NvCtl where
  op : Option OtpOp := none
  /-- Words that read marginal at this start (R323). -/
  marginal : List Nat := []
  /-- ROM patch entries applied: address and data (R331). -/
  patches : List (Nat × Word) := []
  /-- The vendor trims of this start, in the order of the registers that take them (R250). -/
  trims : List Word := []
  /-- Records that wait to be written, and those held in retained SRAM (R335). -/
  queue : List LogRec := []
  pending : List LogRec := []
  lost : Bool := false
  /-- Next position of the event ring, and next checkpoint slot (R333, R336). -/
  ring : Fin 1024 := 272
  slot : Nat := 0
  /-- An orderly checkpoint is due, with the cause of its CLOSE record (R337), and the reads of the start that follows
  one for SYS_CMD.RESET. -/
  orderly : Option Nat := none
  reads : List OtpRead := []
  /-- A LOSS record due at entry into HOUSE (R334): lost BOOT and the tick of its newest checkpoint. -/
  loss : Option (Word × Word) := none
  deriving DecidableEq, Repr

/-- What the host port drives on HSDO in a frame (Table 14-1). -/
structure HpOut where
  status : BitVec 16 := 0
  cmd : BitVec 8 := 0
  data : Word := 0
  deriving DecidableEq, Repr

/-- The host port (14_links.md). -/
structure HpState where
  reason : Reason := .ok
  cmd : BitVec 8 := 0
  data : Word := 0
  crcErr : Bool := false
  frames : Nat := 0
  out : HpOut := {}
  deriving DecidableEq, Repr

/-- A reply in the CAN transmit queue (R347). -/
structure CanReply where
  id : BitVec 29
  ide : Bool
  fd : Bool
  data : List Byte
  deriving DecidableEq, Repr

/-- The CAN port (R344 to R349). -/
structure CanState where
  reason : Reason := .ok
  /-- Matched frames with their acceptance entries, oldest first (R346). -/
  rx : List (Nat × CanFrame) := []
  tx : List CanReply := []
  /-- The frame last sent on CANTX. -/
  sent : Option CanReply := none
  /-- An accepted bus-off recovery is under way. -/
  recovering : Bool := false
  /-- The tick from which the timer of each node slot runs (R348), and that of the latest own heartbeat (R349). -/
  nodeTicks : Vector Nat 32 := Vector.replicate 32 0
  beatTick : Option Nat := none
  deriving DecidableEq, Repr

/-- A FAULT frame waiting to be sent (R360). -/
structure FaultMsg where
  src : Nat
  code : Nat
  tick : Nat
  deriving DecidableEq, Repr

/-- What training has heard of a package (R356): its address, KEEPER_OK, its hop count and its published masters. -/
structure RngHello where
  src : BitVec 2
  keeperOk : Bool
  hops : Nat
  mask : BitVec 8
  deriving DecidableEq, Repr

/-- The range link (R354 to R361). -/
structure RngState where
  /-- The HELLOs of other packages, one for each address; the hop count with which the own HELLO came back; an address
  came twice. -/
  heard : List RngHello := []
  back : Option Nat := none
  duplicate : Bool := false
  /-- The wall tick at which cycle 0 begins. -/
  startTick : Nat := 0
  /-- The ticks at which training started, of the latest own HELLO in it (R356), of the latest valid SYNC, cycle 0 before
  the first (R361), and of the latest own frame of a slot (R358). -/
  trainFrom : Nat := 0
  helloTick : Option Nat := none
  syncTick : Nat := 0
  slotTick : Option Nat := none
  faultQ : List FaultMsg := []
  /-- The latest SEV of each package (R360). -/
  sev : Vector Bool 4 := Vector.replicate 4 false
  /-- Frames in a row that failed (R355), SYNC errors in a row above 4 ticks (R361). -/
  crcRun : Nat := 0
  skewRun : Nat := 0
  /-- The link went down and has not been up since: the cause of RNG_DOWN (R361). -/
  downLive : Bool := false
  /-- The frame last sent, and the frame last forwarded. -/
  sent : Option RngFrame := none
  forwarded : Option RngFrame := none
  deriving DecidableEq, Repr

/-- The volatile part. -/
structure Chip where
  /-- Register words by byte address; unlisted registers read their reset word. -/
  regs : Cells 32 := []
  /-- Snapshotted high words (R5), by address, the CAN path's at address + 1; bit 32 tells that one is held. -/
  hold : Cells 33 := []
  /-- The register words as the present tick found them, and what the part has set and counted in them since: W1C bits
  and the additions to RC fields (R7). -/
  tickRegs : Cells 32 := []
  fresh : Cells 32 := []
  /-- The wall tick (R2), and the ticks counted since nRESET rose, which no load of the wall tick moves. -/
  wall : Nat := 0
  now : Nat := 0
  /-- Index of the next free value (log entry 2). -/
  free : Nat := 0
  /-- The tick of the latest entry into STANDBY from HOUSE (R57). -/
  armTick : Option Nat := none
  /-- The target of an accepted transition between HOUSE, STANDBY and SHOW, which takes effect in the next tick (R312). -/
  pwrDue : Option Nat := none
  legs : Vector LegState 24 := Vector.replicate 24 {}
  links : Vector LinkState 4 := Vector.replicate 4 {}
  tbs : Vector TbState 21 := Vector.replicate 21 {}
  cues : CueState := {}
  slices : Vector SliceState 41 := Vector.replicate 41 {}
  unders : Vector UnderState 5 := Vector.replicate 5 {}
  rsvs : Vector RsvState 4 := Vector.replicate 4 {}
  /-- The half-cycle of the excitation in progress is the positive one (R121); the tick of the latest half-cycle
  boundary. -/
  excPos : Bool := true
  excTick : Option Nat := none
  ports : Vector PortState 32 := Vector.replicate 32 {}
  axes : Vector AxisState 8 := Vector.replicate 8 {}
  /-- The axis whose slice each engine runs. -/
  engines : Vector (Option (Fin 8)) 2 := Vector.replicate 2 none
  buses : Vector BusState 2 := Vector.replicate 2 {}
  hks : Vector HkState 2 := Vector.replicate 2 {}
  /-- Channels whose next result carries SETL (R255). -/
  hkSettle : List Nat := []
  /-- The tick of the latest entry into HOUSE, from which the rounds count, and that of the latest start of one (R256). -/
  houseTick : Nat := 0
  roundTick : Option Nat := none
  /-- One more than the rounds completed without a result since each channel's last one, 0 while the round of that result
  still runs (R205). -/
  hkAge : Vector Nat 46 := Vector.replicate 46 1
  /-- Each channel's latest result without SETL, and its over-range flag (R255). -/
  hkUsed : Vector (Int × Bool) 46 := Vector.replicate 46 (0, false)
  xchRun : Nat := 0
  sensors : Vector TsState 17 := Vector.replicate 17 {}
  wms : Vector WmState 8 := Vector.replicate 8 {}
  faults : FaultState := {}
  load : LoadState := {}
  nvc : NvCtl := {}
  hp : HpState := {}
  can : CanState := {}
  rng : RngState := {}
  /-- The microcode's latest duty D per axis, which R174 reads. -/
  duty : Vector (BitVec 17) 8 := Vector.replicate 8 0
  deriving DecidableEq, Repr

/-- The non-volatile part: the fuse array by word (rows 0 to 63, then the spare rows at 1,024 and the redirection
table at 1,088), and the logbook's MRAM by word (R321, R332). -/
structure NonVolatile where
  fuses : Cells 32 := []
  log : Cells 32 := []
  deriving DecidableEq, Repr

/-- The state of the block. -/
structure State where
  chip : Chip
  nv : NonVolatile
  /-- The commands that wait, first in, first out. -/
  pending : List Instr
  deriving DecidableEq, Repr

/-- The machine right after reset: every register at its reset word, memories wiped (R297, R300, R374), nRESET
still low, output ports at high impedance; blank fuses and a blank logbook (log entry 3); no command waiting. -/
def State.reset : State := { chip := { ports := Vector.replicate 32 { hiZ := true } }, nv := {}, pending := [] }

/-- A step's outcome. -/
abbrev Out := Host.Outcome State Fault Refusal

end Sys2Proof.Machine
end

