-- ==== Sys2Proof/Machine/Ops.lean ====
section
/-! DEFINITION. The named operations over the state: reading and writing registers and fields, counters, the fixed
membership of the part (R13 to R15), reporting events to the fault collector, and judging requests (R10,
R11). -/
namespace Sys2Proof.Machine

/-! ### Fields of a word -/

/-- The bits of the field. -/
def Field.mask (f : Field) : Word := (BitVec.allOnes 32 >>> (31 - (f.hi - f.lo))) <<< f.lo

/-- The field's value in a word. -/
def Field.read (f : Field) (w : Word) : Nat := (w >>> f.lo).toNat % 2 ^ (f.hi + 1 - f.lo)

/-- The word with the field set to `v`, which wraps at the field's width. -/
def Field.write (f : Field) (w : Word) (v : Nat) : Word :=
  (w &&& ~~~f.mask) ||| ((BitVec.ofNat 32 v <<< f.lo) &&& f.mask)

/-- The field lies in a 32-bit word. -/
def Field.ok (f : Field) : Prop := f.lo ≤ f.hi ∧ f.hi < 32

/-- Two fields share no bit: they stand in different registers or beside each other. -/
def Field.apart (f g : Field) : Prop := f.addr ≠ g.addr ∨ f.hi < g.lo ∨ g.hi < f.lo

/-- Largest value of the field. -/
def Field.top (f : Field) : Nat := 2 ^ (f.hi + 1 - f.lo) - 1

/-- A `w`-bit two's complement value. -/
def signed (w v : Nat) : Int := if v < 2 ^ (w - 1) then (v : Int) else (v : Int) - 2 ^ w

/-- An integer in `w` bits of two's complement. -/
def wrapTo (w : Nat) (i : Int) : Nat := (i % (2 ^ w : Int)).toNat

/-- An integer held between two bounds. -/
def clampTo (lo hi i : Int) : Int := if i < lo then lo else if hi < i then hi else i

/-! ### Registers -/

/-- The word of the register at `a`. -/
def Chip.reg (c : Chip) (a : Nat) : Word := cellsGet regReset c.regs a

/-- Sets the word of the register at `a`. -/
def Chip.setReg (c : Chip) (a : Nat) (w : Word) : Chip := { c with regs := cellsSet regReset c.regs a w }

/-- A field's value. -/
def Chip.get (c : Chip) (f : Field) : Nat := f.read (c.reg f.addr)

/-- Whether a field is not 0. -/
def Chip.flag (c : Chip) (f : Field) : Bool := c.get f != 0

/-- A field's value in two's complement. -/
def Chip.gets (c : Chip) (f : Field) : Int := signed (f.hi + 1 - f.lo) (c.get f)

/-- Sets a field, which wraps at its width. -/
def Chip.put (c : Chip) (f : Field) (v : Nat) : Chip := c.setReg f.addr (f.write (c.reg f.addr) v)

/-- Sets a one-bit field. -/
def Chip.putF (c : Chip) (f : Field) (b : Bool) : Chip := c.put f b.toNat

/-- Sets a field in two's complement. -/
def Chip.puts (c : Chip) (f : Field) (i : Int) : Chip := c.put f (wrapTo (f.hi + 1 - f.lo) i)

/-- What the part has set in a field, or added to it, in the present tick (R7). -/
def Chip.freshOf (c : Chip) (f : Field) : Nat := f.read (cellsGet zeros c.fresh f.addr)

/-- Notes what the part has set in a field, or added to it, in the present tick (R7). -/
def Chip.noteFresh (c : Chip) (f : Field) (v : Nat) : Chip :=
  { c with fresh := cellsSet zeros c.fresh f.addr (f.write (cellsGet zeros c.fresh f.addr) v) }

/-- An event sets a bit that an access may clear (W1C or RC). -/
def Chip.mark (c : Chip) (f : Field) : Chip := (c.put f 1).noteFresh f 1

/-- An event sets such a bit if `b`. -/
def Chip.markIf (c : Chip) (b : Bool) (f : Field) : Chip := if b then c.mark f else c

/-- Adds to a counter that holds at its largest value. -/
def Chip.bump (c : Chip) (f : Field) (n : Nat) : Chip :=
  (c.put f (min (c.get f + n) f.top)).noteFresh f (min (c.freshOf f + n) f.top)

/-- Adds to a counter that wraps. -/
def Chip.addWrap (c : Chip) (f : Field) (i : Int) : Chip := c.puts f ((c.get f : Int) + i)

/-- Raises a field to `v` if it is lower. -/
def Chip.putMax (c : Chip) (f : Field) (v : Nat) : Chip :=
  (c.put f (max (c.get f) (min v f.top))).noteFresh f (max (c.freshOf f) (min v f.top))

/-- A 64-bit quantity in the registers at `a` and `a + 4` (R5). -/
def Chip.get64 (c : Chip) (a : Nat) : Nat := (c.reg a).toNat + 2 ^ 32 * (c.reg (a + 4)).toNat

/-- Sets a 64-bit quantity, which wraps. -/
def Chip.put64 (c : Chip) (a : Nat) (i : Int) : Chip :=
  let v := wrapTo 64 i
  (c.setReg a (BitVec.ofNat 32 v)).setReg (a + 4) (BitVec.ofNat 32 (v / 2 ^ 32))

/-- Adds to a 64-bit ledger. -/
def Chip.add64 (c : Chip) (a : Nat) (i : Int) : Chip := c.put64 a ((c.get64 a : Int) + i)

/-- Clears the bits of a W1C field to which the data carry a 1, but for those that the part has set in this tick (R6,
R7). -/
def Chip.clearOnes (c : Chip) (a : Nat) (mask data : Word) : Chip :=
  c.setReg a (c.reg a &&& ~~~(mask &&& data &&& ~~~(cellsGet zeros c.fresh a)))

/-- Clears the RC bits of a register after a read: what the part has added in this tick stands in the cleared fields
(R7), and a second read of the tick finds nothing but that. -/
def Chip.clearRead (c : Chip) (a : Nat) (rc : Word) : Chip :=
  let c := c.setReg a ((c.reg a &&& ~~~rc) ||| (cellsGet zeros c.fresh a &&& rc))
  { c with tickRegs := cellsSet regReset c.tickRegs a (cellsGet regReset c.tickRegs a &&& ~~~rc) }

/-- What a read of a register with RC bits returns of `w`: the bits in which the part has added something in this tick
read without it (R7). -/
def Chip.withoutFresh (c : Chip) (a : Nat) (rc w : Word) : Word :=
  if cellsGet zeros c.fresh a &&& rc = 0 then w else (w &&& ~~~rc) ||| (cellsGet regReset c.tickRegs a &&& rc)

/-- Sets the bits of `mask` to those of `data`. -/
def Chip.writeMask (c : Chip) (a : Nat) (mask data : Word) : Chip :=
  c.setReg a ((c.reg a &&& ~~~mask) ||| (data &&& mask))

/-! ### Parts of the state -/

/-- The state of leg `l`. -/
def Chip.leg (c : Chip) (l : Leg) : LegState := c.legs[l]
/-- Replaces the state of leg `l`. -/
def Chip.setLeg (c : Chip) (l : Leg) (x : LegState) : Chip := { c with legs := c.legs.set l x }
/-- The link of die `d`. -/
def Chip.link (c : Chip) (d : Die) : LinkState := c.links[d]
/-- Replaces the link of die `d`. -/
def Chip.setLink (c : Chip) (d : Die) (x : LinkState) : Chip := { c with links := c.links.set d x }
/-- The hidden state of timebase `n`. -/
def Chip.tb (c : Chip) (n : Tb) : TbState := c.tbs[n]
/-- Replaces the hidden state of timebase `n`. -/
def Chip.setTb (c : Chip) (n : Tb) (x : TbState) : Chip := { c with tbs := c.tbs.set n x }
/-- The hidden state of slice `k`. -/
def Chip.slice (c : Chip) (k : SliceId) : SliceState := c.slices[k]
/-- Replaces the hidden state of slice `k`. -/
def Chip.setSlice (c : Chip) (k : SliceId) (x : SliceState) : Chip := { c with slices := c.slices.set k x }
/-- The understudy of die `d`. -/
def Chip.under (c : Chip) (d : UDie) : UnderState := c.unders[d]
/-- Replaces the understudy of die `d`. -/
def Chip.setUnder (c : Chip) (d : UDie) (x : UnderState) : Chip := { c with unders := c.unders.set d x }
/-- The demodulation of resolver `m`. -/
def Chip.rsv (c : Chip) (m : Fin 4) : RsvState := c.rsvs[m]
/-- Replaces the demodulation of resolver `m`. -/
def Chip.setRsv (c : Chip) (m : Fin 4) (x : RsvState) : Chip := { c with rsvs := c.rsvs.set m x }
/-- The hidden state of port `p`. -/
def Chip.port (c : Chip) (p : Port) : PortState := c.ports[p]
/-- Replaces the hidden state of port `p`. -/
def Chip.setPort (c : Chip) (p : Port) (x : PortState) : Chip := { c with ports := c.ports.set p x }
/-- The hidden state of axis `a`. -/
def Chip.axis (c : Chip) (a : Axis) : AxisState := c.axes[a]
/-- Replaces the hidden state of axis `a`. -/
def Chip.setAxis (c : Chip) (a : Axis) (x : AxisState) : Chip := { c with axes := c.axes.set a x }
/-- The axis whose slice engine `e` runs. -/
def Chip.engine (c : Chip) (e : Region) : Option Axis := c.engines[e]
/-- Sets the axis whose slice engine `e` runs. -/
def Chip.setEngine (c : Chip) (e : Region) (x : Option Axis) : Chip := { c with engines := c.engines.set e x }
/-- The hidden state of the bus of region `r`. -/
def Chip.bus (c : Chip) (r : Region) : BusState := c.buses[r]
/-- Replaces the hidden state of the bus of region `r`. -/
def Chip.setBus (c : Chip) (r : Region) (x : BusState) : Chip := { c with buses := c.buses.set r x }
/-- The hidden state of converter `n`. -/
def Chip.hk (c : Chip) (n : Region) : HkState := c.hks[n]
/-- Replaces the hidden state of converter `n`. -/
def Chip.setHk (c : Chip) (n : Region) (x : HkState) : Chip := { c with hks := c.hks.set n x }
/-- The hidden state of sensor `n`. -/
def Chip.sensor (c : Chip) (n : Fin 17) : TsState := c.sensors[n]
/-- Replaces the hidden state of sensor `n`. -/
def Chip.setSensor (c : Chip) (n : Fin 17) (x : TsState) : Chip := { c with sensors := c.sensors.set n x }
/-- The qualification of window monitor `m`. -/
def Chip.wm (c : Chip) (m : Fin 8) : WmState := c.wms[m]
/-- Replaces the qualification of window monitor `m`. -/
def Chip.setWm (c : Chip) (m : Fin 8) (x : WmState) : Chip := { c with wms := c.wms.set m x }

/-- The value the spec leaves open, at the present reading (log entry 2). -/
def Chip.freeVal (c : Chip) : BitVec 64 := Config.freeValue c.free
/-- The present reading is used up. -/
def Chip.useFree (c : Chip) : Chip := { c with free := c.free + 1 }

/-- Applies an operation for every item of a list, in order. -/
def Chip.each {α : Type} (c : Chip) (l : List α) (f : Chip → α → Chip) : Chip := l.foldl f c

/-! ### Membership (R13 to R15) -/

/-- All axes. -/
def allAxes : List Axis := [0, 1, 2, 3, 4, 5, 6, 7]
/-- All legs. -/
def allLegs : List Leg := List.finRange 24
/-- Leg of axis `a` and phase `ph` (0 U, 1 V, 2 W). -/
def legOf (a : Axis) (ph : Fin 3) : Leg := ⟨3 * a.val + ph.val, by omega⟩
/-- The legs of an axis. -/
def legsOf (a : Axis) : List Leg := [legOf a 0, legOf a 1, legOf a 2]
/-- The axis a leg belongs to. -/
def axisOfLeg (l : Leg) : Axis := ⟨l.val / 3, by omega⟩
/-- The D-die a leg sits on. -/
def dieOfLeg (l : Leg) : Die := ⟨l.val / 6, by omega⟩
/-- The region an axis belongs to, and its engine (R14). -/
def regionOf (a : Axis) : Region := ⟨a.val / 4, by omega⟩
/-- The axes of a region. -/
def axesOfRegion (r : Region) : List Axis := allAxes.filter (regionOf · == r)
/-- The axes of a D-die. -/
def axesOfDie (d : Die) : List Axis := allAxes.filter (fun a => a.val / 2 == d.val)
/-- The phase-current slice of a leg (R13). -/
def sliceOfLeg (l : Leg) : SliceId := ⟨8 * (l.val / 6) + l.val % 6, by omega⟩
/-- The mechanical timebase of an axis (Table 2-1). -/
def tbmOf (a : Axis) : Tb := ⟨a.val, by omega⟩
/-- The electrical timebase of an axis (Table 2-1). -/
def tbeOf (a : Axis) : Tb := ⟨8 + a.val, by omega⟩
/-- The axes as a mask. -/
def axisMask (l : List Axis) : BitVec 8 := l.foldl (fun m a => m ||| (1 <<< a.val)) 0
/-- The axes in a mask. -/
def axesIn (m : BitVec 8) : List Axis := allAxes.filter (fun a => m.getLsbD a.val)

/-- Fault source of leg `l`: 0 VDS, 1 BST_UV, 2 GATE, 3 TRIP (R13). -/
def srcLeg (l : Leg) (j : Nat) : Nat := 4 * l.val + j
/-- Fault source of a slice (R15). -/
def srcSlice (k : SliceId) : Nat := 0x60 + k.val
/-- Fault source of a port (R15). -/
def srcPort (p : Port) : Nat := 0x89 + p.val
/-- Fault source of an axis: 0 Kirchhoff, 1 plausibility, 2 stall, 3 following error (R14). -/
def srcAxis (a : Axis) (j : Nat) : Nat := 0xA9 + 4 * a.val + j
/-- Fault source of a region (Table 9-3). -/
def srcRegion (r : Region) (j : Nat) : Nat := 0xC9 + 7 * r.val + j
/-- Fault source of a die: 0 SUPPLY, 1 TEMP, 2 the third (R15); die 4 is the C-die. -/
def srcDie (d : UDie) (j : Nat) : Nat := 0xD7 + 3 * d.val + j
/-- LINK source of a D-die. -/
def srcLink (d : Die) : Nat := 0xD9 + 3 * d.val

/-! ### Power, life-cycle and configuration (SYS_STATUS) -/

/-- PSTATE is DARK. -/
def Chip.inDark (c : Chip) : Bool := c.get SYS_STATUS_PSTATE == 0
/-- PSTATE is HOUSE. -/
def Chip.inHouse (c : Chip) : Bool := c.get SYS_STATUS_PSTATE == 1
/-- PSTATE is STANDBY. -/
def Chip.inStandby (c : Chip) : Bool := c.get SYS_STATUS_PSTATE == 2
/-- PSTATE is SHOW. -/
def Chip.inShow (c : Chip) : Bool := c.get SYS_STATUS_PSTATE == 3
/-- PSTATE is STANDBY or SHOW. -/
def Chip.isArmed (c : Chip) : Bool := c.inStandby || c.inShow
/-- An image is admitted and locked. -/
def Chip.cfgOk (c : Chip) : Bool := c.flag SYS_STATUS_CFG_OK
/-- A start sequence runs (R299). -/
def Chip.booting (c : Chip) : Bool := c.flag SYS_STATUS_BOOT
/-- Life-cycle state is STRIKE. -/
def Chip.inStrike (c : Chip) : Bool := c.get SYS_STATUS_LC == 3
/-- The axis is enabled. -/
def Chip.axisOn (c : Chip) (a : Axis) : Bool := c.flag (AX_COMCFG_EN a.val)
/-- The enabled axes. -/
def Chip.axesOn (c : Chip) : List Axis := allAxes.filter c.axisOn
/-- Exactly one region has an enabled axis and the range link is off (R276). -/
def Chip.compact (c : Chip) : Bool :=
  ((axesOfRegion 0).any c.axisOn != (axesOfRegion 1).any c.axisOn) && !c.flag RNG_CFG_EN

/-! ### Events for the collector (R273) -/

/-- Reports `n` events of source `src` with a built-in or carried code, for the axes of `mask`. -/
def Chip.report (c : Chip) (src n code : Nat) (mask : BitVec 8) (inj : Bool) : Chip :=
  if n = 0 then c else
    { c with faults := { c.faults with events := c.faults.events ++ [⟨src, n, code, mask, inj⟩] } }

/-- Reports one event of source `src`. -/
def Chip.raise (c : Chip) (src : Nat) : Chip := c.report src 1 0 0 false

/-- Reports one event of source `src` if `b`. -/
def Chip.raiseIf (c : Chip) (b : Bool) (src : Nat) : Chip := if b then c.raise src else c

/-- Fills FLT_ACC, FLT_ACCA and FLT_ACCT (R291). -/
def Chip.fillAccess (c : Chip) (w : Word) (addr : Nat) : Chip :=
  ((c.setReg FLT_ACC w).put FLT_ACCA_ADDR addr).put64 FLT_ACCT c.wall

/-- Keeps the first access error of the tick, with OVF once another has followed it in the tick (R7, R291). -/
def Chip.noteAccess (c : Chip) (w : Word) (addr : Nat) : Chip :=
  { c with faults := { c.faults with accNew :=
      match c.faults.accNew with
      | some (t, v, a) => if t = c.now then some (t, FLT_ACC_OVF.write v 1, a) else some (c.now, w, addr)
      | none => some (c.now, w, addr) } }

/-- An access error (R291): one event of ACCESS, and FLT_ACC, FLT_ACCA and FLT_ACCT when they are empty.  Masters: 0 host
port, 1 CAN, 2 image loader, 3 and 4 the engines, 5 range link. -/
def Chip.accessError (c : Chip) (master : Nat) (write : Bool) (cause addr : Nat) : Chip :=
  let w : Word := [(FLT_ACC_VALID, 1), (FLT_ACC_MASTER, master), (FLT_ACC_TYPE, write.toNat), (FLT_ACC_CAUSE, cause)].foldl
    (fun (w : Word) x => x.1.write w x.2) 0
  let c := (c.raise 0xF2).noteAccess w addr
  if c.flag FLT_ACC_VALID then c.put FLT_ACC_OVF 1 else c.fillAccess w addr

/-- Whether the collector's injection armed `unit` of `checker` (Table 11-6). -/
def Chip.injected (c : Chip) (checker : Fin 4) (unit : Nat) : Bool := c.faults.inj[checker] == some unit

/-- The checker disarms after its check (R292). -/
def Chip.disarm (c : Chip) (checker : Fin 4) : Chip :=
  { (c.put FLT_INJS_ARMED (c.get FLT_INJS_ARMED &&& (15 - 2 ^ checker.val))) with
    faults := { c.faults with inj := c.faults.inj.set checker none } }

/-! ### Reactions in force (R281 to R285, R96) -/

/-- Whether the latched reactions of code `lo` to `hi` act on axis `a`. -/
def Chip.reacted (c : Chip) (a : Axis) (lo hi : Nat) : Bool :=
  c.faults.latched.any fun x => decide (lo ≤ x.code) && decide (x.code ≤ hi) && x.mask.getLsbD a.val

/-- A thermal shutdown curtain holds on axis `a` (R265). -/
def Chip.shutdownOn (c : Chip) (a : Axis) : Bool := c.faults.shutdown.any fun x => x.2.getLsbD a.val

/-- The axis is halted in its engine, which asserts its curtain line (R69, R70). -/
def Chip.halted (c : Chip) (a : Axis) : Bool := (c.get (FE_STATUS_HALT (regionOf a).val)).testBit (a.val % 4)

/-- CURTAIN_A of axis `a` is asserted. -/
def Chip.curtain (c : Chip) (a : Axis) : Bool := c.reacted a 4 5 || c.shutdownOn a || c.halted a

/-- SHORT_A of axis `a` is asserted: by a reaction, or by the cascade of its region (R237). -/
def Chip.short (c : Chip) (a : Axis) : Bool :=
  c.reacted a 3 3 || (c.axisOn a && c.flag (BUS_STAT_SHORT (regionOf a).val))

/-- Some reaction line governs the legs of axis `a`. -/
def Chip.lineOn (c : Chip) (a : Axis) : Bool := c.faults.fire || c.curtain a || c.short a

/-- A reaction of code 2 to 6, or a thermal shutdown, holds on axis `a` (R202, R283). -/
def Chip.heldOff (c : Chip) (a : Axis) : Bool := c.faults.fire || c.reacted a 2 6 || c.curtain a || c.short a

/-! ### The logbook's records (R335) -/

/-- Records may be written now: outside DARK, and with the C-die inside its window (R335). -/
def Chip.mayLog (c : Chip) : Bool := !c.inDark && !c.flag LOG_STATUS_HOLD

/-- A record arises: it waits to be written, or is held in retained SRAM, which takes 16 (R335). -/
def Chip.logArise (c : Chip) (type : Nat) (p4 p5 p6 : Word) : Chip :=
  let n := c.nvc
  if c.mayLog then { c with nvc := { n with queue := n.queue ++ [⟨type, false, c.wall, p4, p5, p6⟩] } }
  else if n.pending.length < 16 then
    { c.put LOG_STATUS_PENDING (n.pending.length + 1) with
      nvc := { n with pending := n.pending ++ [⟨type, true, c.wall, p4, p5, p6⟩] } }
  else { c.bump LOG_STATUS_PLOST 1 with nvc := { n with lost := true } }

/-! ### Requests (R10, R11) -/

/-- The code of a reason (Table 0-3). -/
def Reason.toNat : Reason → Nat
  | .ok => 0 | .state => 1 | .range => 2 | .locked => 3 | .credit => 4 | .density => 5
  | .budget => 6 | .wrongDir => 7 | .busy => 8 | .auth => 9 | .window => 10 | .late => 11

/-- What judging a request leaves: the chip and the reason returned. -/
abbrev Judged := Chip × Reason

/-- The lowest nonzero code of the refusing conditions that apply (R11). -/
def judge : List (Bool × Reason) → Reason
  | [] => .ok
  | (b, r) :: l =>
    let q := judge l
    if b && (q == .ok || decide (r.toNat < q.toNat)) then r else q

/-- A request: refused without effect (R10), or accepted with its effect. -/
def Chip.request (c : Chip) (conds : List (Bool × Reason)) (f : Chip → Chip) : Judged :=
  let r := judge conds
  if r = .ok then (f c, .ok) else (c, r)

/-- The path learns the reason: the host in its next status word (R12), CAN in its reply (R347). -/
def Chip.answer (c : Chip) (p : Path) (r : Reason) : Chip :=
  match p with
  | .host => { c with hp := { c.hp with reason := r } }
  | .can => { c with can := { c.can with reason := r } }

/-- The CAN controller runs (R344). -/
def Chip.canRuns (c : Chip) : Bool := c.cfgOk && !c.inDark && !c.booting && c.flag CAN_CFG_EN

/-- The path can carry a request: the host port once nRESET is high (R299), CAN while its controller runs. -/
def Chip.carries (c : Chip) (p : Path) : Bool :=
  match p with
  | .host => c.load.stage != .held
  | .can => c.canRuns

/-- The refusal that a request meets whatever it asks for: BUSY while a start sequence runs (R299), STATE in DARK for
a request that DARK does not execute (R315). -/
def Chip.gate (c : Chip) (inDark : Bool) : Reason :=
  if c.booting then .busy else if c.inDark && !inDark then .state else .ok

/-- The reason reported for a request that meets `g` and would by its own rules return `own` (R11). -/
def Reason.under (g own : Reason) : Reason := judge [(true, g), (true, own)]

/-- A command's effect on the volatile part; the fuses, the logbook and the queue stay as they are. -/
def State.run (s : State) (f : Chip → Chip) : Out := .next { s with chip := f s.chip }

/-- A request over path `p`, judged and answered; `inDark` tells whether DARK executes it. -/
def Chip.ask (c : Chip) (p : Path) (inDark : Bool) (f : Chip → Judged) : Chip :=
  if !c.carries p then c
  else if c.gate inDark = .ok then (f c).1.answer p (f c).2
  else c.answer p ((c.gate inDark).under (f c).2)

/-- A request over path `p`, which DARK does not execute. -/
def State.ask (s : State) (p : Path) (f : Chip → Judged) : Out := s.run fun c => c.ask p false f

end Sys2Proof.Machine
end

