-- ==== Sys2Proof/Machine/Operands.lean ====
section
/-! DEFINITION. What a command's operands must satisfy before they count: the CRCs of the frames and of the image
(R19, R339, R303, R355), and the image's tag (R306). -/
namespace Sys2Proof.Machine

/-! ### CRCs -/

/-- The bits of a word, most significant first. -/
def bitsOf {n : Nat} (x : BitVec n) : List Bool := (List.range n).map x.getMsbD

/-- One bit into a CRC register, most significant bit first. -/
def crcBit {w : Nat} (poly : BitVec w) (r : BitVec w) (b : Bool) : BitVec w :=
  (r <<< 1) ^^^ (if r.msb != b then poly else 0)

/-- CRC-8 of a host-port frame: polynomial 0x2F, initial value 0xFF, final XOR 0xFF (R339). -/
def crc8 (x : BitVec 64) : BitVec 8 := (bitsOf x).foldl (crcBit 0x2F#8) 0xFF#8 ^^^ 0xFF#8

/-- CRC-16, polynomial 0x1021, initial value 0xFFFF (R19, R355). -/
def crc16 {n : Nat} (x : BitVec n) : BitVec 16 := (bitsOf x).foldl (crcBit 0x1021#16) 0xFFFF#16

/-- One byte into the reflected CRC-32 register. -/
def crc32Byte (r : BitVec 32) (b : Byte) : BitVec 32 :=
  (List.range 8).foldl (fun r _ => (r >>> 1) ^^^ (if r.getLsbD 0 then 0xEDB88320#32 else 0)) (r ^^^ b.zeroExtend 32)

/-- CRC-32 of the image: polynomial 0x04C1_1DB7 reflected, initial value and final inversion (R303). -/
def crc32 (bs : List Byte) : BitVec 32 := bs.foldl crc32Byte 0xFFFFFFFF#32 ^^^ 0xFFFFFFFF#32

/-- The bytes of a word, least significant first. -/
def bytesOf (n : Nat) (x : Nat) : List Byte := (List.range n).map fun i => BitVec.ofNat 8 (x / 2 ^ (8 * i))

/-- The number that little-endian bytes spell. -/
def ofBytes : List Byte → Nat
  | [] => 0
  | b :: l => b.toNat + 256 * ofBytes l

/-- A link frame's CRC is right: over TYPE, SEQ and PAYLOAD (Table 1-3). -/
def linkFrameOk (f : LinkFrame) (type : BitVec 4) : Bool := crc16 (type ++ f.seq ++ f.payload) == f.crc

/-- The eight payload characters of a range-link frame as they are sent, character 3 first. -/
def rngChars (f : RngFrame) : List Byte := bytesOf 8 f.payload.toNat

/-- A range-link frame's characters 1 and 2 (Table 14-4). -/
def rngHead (f : RngFrame) : BitVec 16 := f.src ++ f.type ++ BitVec.ofBool f.sev ++ f.stale ++ f.cycle ++ f.slot

/-- The CRC over characters 1 to 10 (R355). -/
def rngSum (f : RngFrame) : BitVec 16 :=
  ((rngChars f).flatMap bitsOf).foldl (crcBit 0x1021#16) (crc16 (rngHead f))

/-- A range-link frame may be used: right CRC and no code violation (R355). -/
def rngOk (f : RngFrame) : Bool := rngSum f == f.crc && !f.violation

/-- The frame with its CRC filled in. -/
def rngSealed (f : RngFrame) : RngFrame := { f with crc := rngSum f }

/-! ### HMAC-SHA-256 (R306)

The digest's constants are no table: they are the first 32 bits behind the point of the square roots of the first 8
primes and of the cube roots of the first 64. -/

/-- The primes below 312, of which there are 64. -/
def smallPrimes : List Nat := (List.range 312).filter fun p => 2 ≤ p ∧ (List.range 18).all fun d => d < 2 ∨ p ≤ d ∨ p % d ≠ 0

/-- Settles `n` bits of the `k`-th root of `x`, most significant first, on top of the bits `r` already settled. -/
def settleRoot (k x : Nat) : Nat → Nat → Nat
  | 0, r => r
  | n + 1, r => settleRoot k x n (if (r + 2 ^ n) ^ k ≤ x then r + 2 ^ n else r)

/-- The first 32 bits behind the point of the `k`-th root of `p`. -/
def rootBits (k p : Nat) : Word := BitVec.ofNat 32 (settleRoot k (p * 2 ^ (32 * k)) 37 0)

/-- The sixty-four additive constants of a block's rounds. -/
def digestAdd : List Word := smallPrimes.map (rootBits 3)

/-- Three rotations of a word, added without carry. -/
def turns (x : Word) (i j k : Nat) : Word := x.rotateRight i ^^^ x.rotateRight j ^^^ x.rotateRight k

/-- Two rotations and a shift of a word, added without carry. -/
def turnsShift (x : Word) (i j k : Nat) : Word := x.rotateRight i ^^^ x.rotateRight j ^^^ (x >>> k)

/-- The eight running words of a digest, in two halves of four. -/
structure Digest where
  p : Word
  q : Word
  r : Word
  s : Word
  t : Word
  u : Word
  v : Word
  w : Word
  deriving DecidableEq, Repr

/-- The digest before the first block. -/
def digest0 : Digest :=
  ⟨rootBits 2 2, rootBits 2 3, rootBits 2 5, rootBits 2 7, rootBits 2 11, rootBits 2 13, rootBits 2 17, rootBits 2 19⟩

/-- A round takes the sum `x` of its constant and its message word: the words move on by one place, the first and the
fifth being new. -/
def Digest.round (d : Digest) (x : Word) : Digest :=
  let g := d.w + turns d.t 6 11 25 + (d.v ^^^ (d.t &&& (d.u ^^^ d.v))) + x
  let h := turns d.p 2 13 22 + ((d.p &&& d.q) ||| (d.r &&& (d.p ||| d.q)))
  ⟨g + h, d.p, d.q, d.r, d.s + g, d.t, d.u, d.v⟩

/-- Two digests added word by word. -/
def Digest.plus (d e : Digest) : Digest :=
  ⟨d.p + e.p, d.q + e.q, d.r + e.r, d.s + e.s, d.t + e.t, d.u + e.u, d.v + e.v, d.w + e.w⟩

/-- The word that follows sixteen message words, oldest first. -/
def nextMessage (l : List Word) : Word :=
  l.getD 0 0 + turnsShift (l.getD 1 0) 7 18 3 + l.getD 9 0 + turnsShift (l.getD 14 0) 17 19 10

/-- The rounds of a block over the remaining constants, with the sixteen message words in view. -/
def blockRounds : List Word → List Word → Digest → Digest
  | [], _, d => d
  | k :: ks, l, d => blockRounds ks (l.tail ++ [nextMessage l]) (d.round (k + l.getD 0 0))

/-- The first `n` big-endian words of a list of bytes. -/
def bigWords : Nat → List Byte → List Word
  | 0, _ => []
  | n + 1, l => BitVec.ofNat 32 (ofBytes (l.take 4).reverse) :: bigWords n (l.drop 4)

/-- `n` blocks of 64 bytes into a digest. -/
def digestBlocks : Nat → List Byte → Digest → Digest
  | 0, _, d => d
  | n + 1, m, d => digestBlocks n (m.drop 64) (d.plus (blockRounds digestAdd (bigWords 16 m) d))

/-- A message filled up to whole blocks: a one bit, zeros, and the number of its bits in eight bytes. -/
def filled (m : List Byte) : List Byte :=
  m ++ 0x80#8 :: List.replicate ((119 - m.length % 64) % 64) 0 ++ (bytesOf 8 (8 * m.length)).reverse

/-- SHA-256. -/
def sha256 (m : List Byte) : List Byte :=
  let d := digestBlocks ((filled m).length / 64) (filled m) digest0
  [d.p, d.q, d.r, d.s, d.t, d.u, d.v, d.w].flatMap fun x => (bytesOf 4 x.toNat).reverse

/-- HMAC-SHA-256 under a key of at most 64 bytes. -/
def hmacSha256 (key m : List Byte) : List Byte :=
  let k := key ++ List.replicate (64 - key.length) 0
  sha256 (k.map (· ^^^ 0x5C#8) ++ sha256 (k.map (· ^^^ 0x36#8) ++ m))

end Sys2Proof.Machine
end

