-- ==== Sys2Proof/Machine/Thermal.lean ====
section
/-! DEFINITION. Temperature sensors (10_housekeeping_thermal.md, R257, R261, R263 to R265): failure and substitution, the
derating factors, and thermal shutdown. -/
namespace Sys2Proof.Machine

/-- A sensor: 0 to 11 TS0 to TS11, 12 the C-die, 13 to 16 D0 to D3 (Table 10-10). -/
abbrev Sensor := Fin 17

/-- All sensors. -/
def allSensors : List Sensor := List.finRange 17

/-- The sensor of a D-die. -/
def dieSensor (d : Die) : Sensor := ⟨13 + d.val, by omega⟩

/-- The sensor that a housekeeping channel reads (Table 10-1). -/
def sensorOf (ch : Nat) : Option Sensor :=
  if h : 16 ≤ ch ∧ ch < 28 then some ⟨ch - 16, by omega⟩
  else if h : 32 ≤ ch ∧ ch < 37 then some ⟨ch - 20, by omega⟩ else none

/-- The channel that reads a sensor. -/
def channelOf (s : Sensor) : Nat := if s.val < 12 then 16 + s.val else 20 + s.val

/-- The fault source of a sensor (Table 10-7). -/
def sensorSrc (s : Sensor) : Nat :=
  if s.val < 12 then 0xED else if s.val = 12 then 0xE4 else 0xD8 + 3 * (s.val - 13)

/-- A temperature field, in °C + 40, as 1/16 °C. -/
def celsius (v : Nat) : Int := 16 * ((v : Int) - 40)

/-- The sensor is enabled. -/
def Chip.sensorOn (c : Chip) (s : Sensor) : Bool := c.flag (HK_TMP_TYPE_EN s.val)

/-- The value in use (R264): the last valid reading, with MARGIN on top while the sensor is failed, or T_stop when
there was none since the entry into HOUSE. -/
def Chip.sensorValue (c : Chip) (s : Sensor) : Int :=
  match (c.sensor s).lastValid with
  | some t => if c.flag (TMP_STAT_FAIL s.val) then t + 32 * c.get (TMP_LIM_MARGIN s.val) else t
  | none => celsius (c.get (TMP_LIM_TSTOP s.val))

/-- DF_s at a value (R263). -/
def Chip.sensorDf (c : Chip) (s : Sensor) (t : Int) : Nat :=
  let stop := celsius (c.get (TMP_LIM_TSTOP s.val))
  let start := celsius (c.get (TMP_LIM_TSTART s.val))
  (clampTo 0 4096 (4096 * (stop - t) / (stop - start))).toNat

/-- The enabled sensors whose mask holds axis `a`. -/
def Chip.sensorsOf (c : Chip) (a : Axis) : List Sensor :=
  allSensors.filter fun s => c.sensorOn s && (c.get (TMP_STAT_AXMASK s.val)).testBit a.val

/-- The smallest factor of some sensors, with the sensor that gives it: of several the lowest-numbered; 4,096 and 0
where there is none (R263). -/
def Chip.leastDf (c : Chip) : List Sensor → Nat × Nat
  | [] => (4096, 0)
  | s :: l => l.foldl (fun b t => if (c.sensor t).df < b.1 then ((c.sensor t).df, t.val) else b) ((c.sensor s).df, s.val)

/-- The derating factor of an axis (R263): the smallest of its sensors; while one of them is failed it does not rise
(R264). -/
def Chip.derate (c : Chip) (a : Axis) : Chip :=
  let l := c.sensorsOf a
  let failed := l.any fun s => c.flag (TMP_STAT_FAIL s.val)
  let m := c.leastDf l
  let c := c.putF (TMP_DF_SUBST a.val) failed
  if failed && decide (c.get (TMP_DF_DF a.val) < m.1) then c
  else (c.put (TMP_DF_DF a.val) m.1).put (TMP_DF_SENSOR a.val) m.2

/-- Every axis's factor anew. -/
def Chip.derateAll (c : Chip) : Chip := c.each allAxes Chip.derate

/-- HOT in ADAPTIVE mode, with its 2 K of hysteresis (R257). -/
def Chip.judgeHot (c : Chip) (s : Sensor) (t : Int) : Chip :=
  let start := celsius (c.get (TMP_LIM_TSTART s.val))
  if !c.flag HK_MODE_MODE then c.put (TMP_STAT_HOT s.val) 0
  else if start - 160 ≤ t then c.put (TMP_STAT_HOT s.val) 1
  else if t < start - 192 then c.put (TMP_STAT_HOT s.val) 0
  else c

/-- THERMAL_SHUTDOWN (R265): at T_sd the curtain of the enabled axes in the mask is asserted, the source counts one
event, and a record arises; SD ends SDHYST below. -/
def Chip.judgeShutdown (c : Chip) (s : Sensor) (t : Int) : Chip :=
  let sd := celsius (c.get (TMP_LIM_TSD s.val))
  if c.flag (TMP_STAT_SD s.val) then
    if t < sd - 32 * c.get (TMP_LIM_SDHYST s.val) then c.put (TMP_STAT_SD s.val) 0 else c
  else if sd ≤ t then
    let m : BitVec 8 := BitVec.ofNat 8 (c.get (TMP_STAT_AXMASK s.val))
    let on := axisMask ((axesIn m).filter c.axisOn)
    let c := { c with faults := { c.faults with
      shutdown := c.faults.shutdown.filter (fun (x : Nat × BitVec 8) => x.1 != s.val) ++ [(s.val, on)] } }
    ((c.put (TMP_STAT_SD s.val) 1).report (sensorSrc s) 1 4 0 false).logArise 6
      (BitVec.ofNat 32 (s.val + 256 * m.toNat)) (BitVec.ofInt 32 t) 0
  else c

/-- A region's regeneration by pack temperature (R236): forbidden outside TLO to THI and while the sensor is failed. -/
def Chip.judgePack (c : Chip) (s : Sensor) (failed : Bool) : Chip :=
  c.each [(0 : Region), 1] fun c r =>
    if c.flag (BUS_REGEN_TEN r.val) && c.get (BUS_REGEN_TSENS r.val) == s.val then
      let bad : Bool := match (c.sensor s).lastValid with
        | some t => decide (t < 16 * c.gets (BUS_REGEN_TLO r.val)) || decide (16 * c.gets (BUS_REGEN_THI r.val) < t)
        | none => false
      (c.putF (BUS_STAT_TFORBID r.val) (bad || c.flag (TMP_STAT_FAIL s.val))).raiseIf failed (srcRegion r 5)
    else c

/-- What follows from a sensor's new value or failure. -/
def Chip.sensorJudged (c : Chip) (s : Sensor) (newlyFailed : Bool) : Chip :=
  let t := c.sensorValue s
  let c := (c.puts (TMP_STAT_T s.val) t).setSensor s { c.sensor s with df := c.sensorDf s t }
  ((((c.judgeHot s t).judgePack s newlyFailed).derateAll).judgeShutdown s t)

/-- The sensor fails (R261). -/
def Chip.sensorFails (c : Chip) (s : Sensor) : Chip :=
  if c.flag (TMP_STAT_FAIL s.val) then c.sensorJudged s false
  else ((c.put (TMP_STAT_FAIL s.val) 1).raise (sensorSrc s)).sensorJudged s true

/-- The link of a die sensor is lost (R261). -/
def Chip.sensorLost (c : Chip) (s : Sensor) : Chip :=
  if c.sensorOn s then (c.setSensor s { c.sensor s with goodRun := 0, badRun := 2 }).sensorFails s else c

/-- An entry into HOUSE: no sensor has had a valid reading since, so that a failed one is taken at T_stop (R264). -/
def Chip.sensorsAnew (c : Chip) : Chip :=
  c.each allSensors fun c s =>
    let c := c.setSensor s { c.sensor s with lastValid := none }
    if c.sensorOn s && c.flag (TMP_STAT_FAIL s.val) then c.sensorJudged s false else c

/-- One reading `t` in 1/16 °C: two invalid ones in a row fail the sensor, two valid ones end the failure (R261). -/
def Chip.sensorReading (c : Chip) (s : Sensor) (valid : Bool) (t : Int) : Chip :=
  let x := c.sensor s
  if !c.sensorOn s then c
  else if valid then
    let n := min (x.goodRun + 1) 2
    let c := c.setSensor s { x with goodRun := n, badRun := 0, lastValid := some t }
    (if 2 ≤ n then c.put (TMP_STAT_FAIL s.val) 0 else c).sensorJudged s false
  else
    let n := min (x.badRun + 1) 2
    let c := c.setSensor s { x with goodRun := 0, badRun := n }
    if 2 ≤ n then c.sensorFails s else c

end Sys2Proof.Machine
end

