-- ==== Sys2Proof/Machine/Link.lean ====
section
/-! DEFINITION. The inter-die link of each D-die (01_levels.md, R19 to R21): receiving a frame, acknowledging,
sending again, and the loss of the link. -/
namespace Sys2Proof.Machine

/-- One direction of a link: up to the C-die, or down to the D-die. -/
def LinkState.dir (k : LinkState) (up : Bool) : LinkDir := if up then k.up else k.dn

/-- Replaces one direction of a link. -/
def LinkState.setDir (k : LinkState) (up : Bool) (x : LinkDir) : LinkState :=
  if up then { k with up := x } else { k with dn := x }

/-- The unit of the link CRC injection for a direction of a die's link (Table 11-6). -/
def linkUnit (d : Die) (up : Bool) : Nat := d.val + 4 * up.toNat

/-- The die's sensor fails with its link, which is down (R261); the shutdown curtain that this may assert is heeded where
the whole row stands (LinkRows.lean). -/
def Chip.linkLost (c : Chip) (d : Die) : Chip := (c.raise (srcLink d)).sensorLost (dieSensor d)

/-- A frame that fails its CRC (R20, R21): it is discarded, a not-acknowledge for its SEQ is due in the opposite
direction, one event of the die's LINK source counts; the fourth failure in a row of the same frame takes the link
down, which is an event of its own (DESIGN CHOICE, log entry 6) and fails the die's temperature sensor (R261). -/
def Chip.linkBad (c : Chip) (d : Die) (up : Bool) (seq : BitVec 4) (inj : Bool) : Chip :=
  let k := c.link d
  let x := k.dir up
  let n := x.fails[seq.toNat] + 1
  let down := decide (4 ≤ n)
  let c := c.setLink d
    { k.setDir up { x with fails := x.fails.set seq.toNat n, nackDue := x.nackDue ++ [seq] } with down := k.down || down }
  let c := c.report (srcLink d) 1 0 0 inj
  if down && !k.down then c.linkLost d else c

/-- A frame of type `type` arrives (R19 to R21): a link that is down takes nothing; a frame with a valid CRC ends the run
of its own failures and has its effect `eff`.  An armed injection makes the check fail once (R292). -/
def Chip.linkRx (c : Chip) (d : Die) (up : Bool) (type : BitVec 4) (f : LinkFrame) (eff : Chip → Chip) : Chip :=
  if (c.link d).down then c
  else if c.injected 1 (linkUnit d up) then (c.disarm 1).linkBad d up f.seq true
  else if !linkFrameOk f type then c.linkBad d up f.seq false
  else
    let k := c.link d
    let x := k.dir up
    eff (c.setLink d (k.setDir up { x with fails := x.fails.set f.seq.toNat 0, lastSeq := f.seq }))

/-- ACKNOWLEDGE_FRAME (R20): it travels against the direction that it speaks of.  A not-acknowledge for SEQ `of` makes the
sender owe that frame again, and the receiver has then answered it; an acknowledge ends what is owed of that SEQ. -/
def Chip.acknowledged (c : Chip) (d : Die) (up nack : Bool) (of : BitVec 4) : Chip :=
  let k := c.link d
  let x := k.dir !up
  if nack then c.setLink d (k.setDir (!up) { x with nackDue := x.nackDue.erase of, resend := x.resend ++ [of] })
  else c.setLink d (k.setDir (!up) { x with resend := x.resend.filter (· != of) })

/-- LINK_RETRANSMIT (R20): the sender of a direction sends the oldest frame that it owes again. -/
def Chip.retransmit (c : Chip) (d : Die) (up : Bool) : Chip :=
  let k := c.link d
  let x := k.dir up
  if k.down then c
  else match x.resend with
    | [] => c
    | _ :: l => c.setLink d (k.setDir up { x with resend := l, resent := x.resent + 1 })

/-- LINK_RETRANSMIT. -/
def execLinkRetransmit (d : Die) (up : Bool) (s : State) : Out := s.run fun c => c.retransmit d up

/-- LINK_TIMEOUT (R21): the link is down, the legs keep their last valid duty, and LINK is raised once. -/
def Chip.linkTimeout (c : Chip) (d : Die) : Chip :=
  let k := c.link d
  if k.down then c else (c.setLink d { k with down := true }).linkLost d

/-- LEG_STATUS_FRAME (Table 1-3): the gate-sense states and bootstrap status of a leg reach the C-die. -/
def Chip.legReported (c : Chip) (l : Leg) (gh gl bst : Bool) : Chip :=
  c.setLeg l { c.leg l with repGh := gh, repGl := gl, repBst := bst }

end Sys2Proof.Machine
end

