-- ==== Sys2Proof/Machine/Legs.lean ====
section
/-! DEFINITION. The gate-drive legs (04_gate_legs.md): duty and mode, the handshake of the two gates, protection
conditions and their reports, the bootstrap, and the reaction lines at the legs. -/
namespace Sys2Proof.Machine

/-! ### Gates -/

/-- The dead time in ticks (R79). -/
def Chip.deadTime (c : Chip) (l : Leg) : Nat := c.get (LEG_CFG_DT l.val)

/-- The PWM period of an axis in ticks: that of its U leg (R74). -/
def Chip.period (c : Chip) (a : Axis) : Nat := c.get (LEG_PERIOD_PERIOD (3 * a.val))

/-- `n` ticks have passed since tick `t`; nothing has happened yet in `none`. -/
def Chip.aged (c : Chip) (n : Nat) (t : Option Nat) : Bool := t.all fun t => decide (t + n ≤ c.now)

/-- The on-request of a gate. -/
def LegState.cmd (x : LegState) (g : Gate) : Bool := match g with | .high => x.ghCmd | .low => x.glCmd

/-- A gate is on. -/
def LegState.on (x : LegState) (g : Gate) : Bool := match g with | .high => x.ghOn | .low => x.glOn

/-- The other gate of the leg. -/
def otherGate (g : Gate) : Gate := match g with | .high => .low | .low => .high

/-- The tick of a gate's latest turn-off command. -/
def LegState.off (x : LegState) (g : Gate) : Option Nat := match g with | .high => x.ghOff | .low => x.glOff

/-- The tick of a gate's latest edge. -/
def LegState.edge (x : LegState) (g : Gate) : Option Nat := match g with | .high => x.ghEdge | .low => x.glEdge

/-- A gate lies below its threshold, as its latest crossing left it, and the tick from which its complement may turn on
by it. -/
def LegState.below (x : LegState) (g : Gate) : Bool := match g with | .high => x.ghBelow | .low => x.glBelow

/-- The tick from which a gate's level counts for its complement's turn-on (R79). -/
def LegState.clear (x : LegState) (g : Gate) : Nat := match g with | .high => x.ghClear | .low => x.glClear

/-- A gate is registered below its threshold in tick `now`: a crossing in tick k is registered in tick k + 1, and until
then the level before it stands (R79). -/
def LegState.registeredBelow (x : LegState) (now : Nat) (g : Gate) : Bool :=
  if x.clear g ≤ now + 1 then x.below g else !x.below g

/-- The tick that holds the dead-time expiry after a gate was last commanded off (R79, R80). -/
def Chip.deadEnd (c : Chip) (l : Leg) (g : Gate) : Nat :=
  match (c.leg l).off g with | some t => t + c.deadTime l | none => 0

/-- A gate turns off at once when its request ends; the tick of the command and, if it was on, of its edge are kept. -/
def LegState.turnOff (x : LegState) (now : Nat) (g : Gate) : LegState :=
  if !x.cmd g && !x.on g then x
  else
    let e := if x.on g then some now else x.edge g
    match g with
    | .high => { x with ghCmd := false, ghOn := false, ghOff := some now, ghEdge := e }
    | .low => { x with glCmd := false, glOn := false, glOff := some now, glEdge := e }

/-- The request for one gate rises while its complement is commanded off: it waits for the handshake from the dead-time
expiry, or from this tick where that has passed (DEDUCED, log entry 10); a gate that is on or waits already stays
as it is. -/
def Chip.askGate (c : Chip) (l : Leg) (g : Gate) : Chip :=
  let x := c.leg l
  let x := match g with | .high => { x with ghCmd := true } | .low => { x with glCmd := true }
  if x.on g || x.waiting == some g then c.setLeg l x
  else c.setLeg l { x with waiting := some g, deadTick := max c.now (c.deadEnd l (otherGate g)) }

/-- Commands one gate on, its complement off, or both off (R76, R78, R96).  A gate is turned off at once; a gate asked to
turn on waits for the handshake (R79). -/
def Chip.gates (c : Chip) (l : Leg) (g : Option Gate) : Chip :=
  let x := c.leg l
  match g with
  | none => c.setLeg l { (x.turnOff c.now .high).turnOff c.now .low with waiting := none }
  | some g =>
    let x := x.turnOff c.now (otherGate g)
    (c.setLeg l { x with waiting := if x.waiting == some g then some g else none }).askGate l g

/-- The mode of a leg (R78): 0 FLOAT, 1 PWM, 2 LOW. -/
def Chip.legMode (c : Chip) (l : Leg) : Nat := c.get (LEG_DUTY_MODE l.val)

/-- Code of a mode in LEG_DUTY.MODE. -/
def legModeCode : LegMode → Nat
  | .float => 0 | .pwm => 1 | .low => 2

/-- The governing reaction line, as LEG_DUTY.REACT shows it (R96). -/
def Chip.legReact (c : Chip) (l : Leg) : Nat :=
  if c.faults.fire then 3 else if c.curtain (axisOfLeg l) then 2 else if c.short (axisOfLeg l) then 1 else 0

/-- A line governs the leg: its gates follow it, a refresh or charging pulse ends, what arrived during the refresh is
discarded, and the leg then stays off until its next duty frame (R22, R96). -/
def Chip.underLine (c : Chip) (l : Leg) (g : Option Gate) : Chip :=
  (c.gates l g).setLeg l
    { (c.gates l g).leg l with awaitDuty := true, refresh := none, heldOn := none, pulse := none }

/-- What governs the leg's gates now (R96): a line, a refresh or charging pulse in progress, the wait for a duty frame
after a line (R22), or the mode.  In PWM mode the edges command the gates; a leg that enters the mode starts low. -/
def Chip.obeyLeg (c : Chip) (l : Leg) : Chip :=
  let x := c.leg l
  match c.legReact l with
  | 0 =>
    if x.refresh.isSome || x.pulse.isSome then c
    else if x.awaitDuty then c.gates l none
    else match c.legMode l with
      | 0 => c.gates l none
      | 2 => c.gates l (some .low)
      | _ => if x.ghCmd || x.glCmd then c else c.gates l (some .low)
  | 1 => c.underLine l (some .low)
  | _ => c.underLine l none

/-- Every leg obeys the reaction lines as they now stand. -/
def Chip.obeyLines (c : Chip) : Chip := c.each allLegs Chip.obeyLeg

/-- A leg follows its edges: PWM mode, no line, no wait for a duty frame. -/
def Chip.legRuns (c : Chip) (l : Leg) : Bool :=
  c.legMode l == 1 && c.legReact l == 0 && !(c.leg l).awaitDuty

/-! ### Places in the period (R74 to R76) -/

/-- The duty in force, in ns. -/
def Chip.duty1 (c : Chip) (l : Leg) : Nat := c.get (LEG_DUTY_ON l.val)

/-- The high interval is dropped (R76). -/
def Chip.noHigh (c : Chip) (l : Leg) : Bool := decide (c.duty1 l ≤ 4 * c.deadTime l)

/-- The low interval is dropped (R76). -/
def Chip.noLow (c : Chip) (l : Leg) : Bool := decide (4 * c.period (axisOfLeg l) - c.duty1 l ≤ 4 * c.deadTime l)

/-- Ticks since the last period boundary of an axis (R74). -/
def Chip.sinceBoundary (c : Chip) (a : Axis) : Nat :=
  let p := c.period a
  (c.wall + p - c.get (LEG_PERIOD_PHASE (3 * a.val)) % p) % p

/-- A commanded edge at `ns` after the boundary is due: the tick that holds it has come. -/
def Chip.placeDue (c : Chip) (l : Leg) (ns : Nat) : Bool := decide (ns < 4 * (c.sinceBoundary (axisOfLeg l) + 1))

/-- The commanded rise of a duty, in ns after the boundary (R75). -/
def Chip.risePlace (c : Chip) (l : Leg) (on : Nat) : Nat := 2 * c.period (axisOfLeg l) - on / 2

/-- The commanded fall of a duty, in ns after the boundary (R75). -/
def Chip.fallPlace (c : Chip) (l : Leg) (on : Nat) : Nat := 2 * c.period (axisOfLeg l) + (on + 1) / 2

/-- The fall of a duty lies no later than the next tick, so that a pulse that has not risen is dropped (R77). -/
def Chip.pulseMissed (c : Chip) (l : Leg) (on : Nat) : Bool :=
  decide (c.fallPlace l on ≤ 4 * (c.sinceBoundary (axisOfLeg l) + 1))

/-! ### Duty and settings -/

/-- Latches a duty (R77), which is at most the period (R75): before the rise and while high it applies in the present
period, and when its fall would lie no later than the next tick a pulse that has not risen is dropped; after the
fall it waits for the next period.  A leg that was off since a line was released begins anew, low. -/
def Chip.latchDuty (c : Chip) (l : Leg) (on : BitVec 17) : Chip :=
  let x := c.leg l
  let on := min on.toNat (4 * c.period (axisOfLeg l))
  let x := if x.awaitDuty then { x with rose := false, fell := false, awaitDuty := false } else x
  if c.legMode l == 1 && x.fell then c.setLeg l { x with nextOn := some (BitVec.ofNat 17 on) }
  else
    let dropped := c.legMode l == 1 && !x.rose && c.pulseMissed l on
    (c.put (LEG_DUTY_ON l.val) on).setLeg l
      { x with rose := x.rose || dropped, fell := x.fell || dropped, nextOn := none }

/-- A duty reaches the leg (R22, R77): discarded while a line is asserted, held while a refresh runs; else latched, and a
leg that stayed off since a line was released runs again. -/
def Chip.dutyArrived (c : Chip) (l : Leg) (on : BitVec 17) : Chip :=
  if c.legReact l != 0 then c
  else if (c.leg l).refresh.isSome then c.setLeg l { c.leg l with heldOn := some on }
  else (c.latchDuty l on).obeyLeg l

/-- A duty frame carries the oldest duty on its way to the leg (R59, R77); one that tells of another duty does not arise. -/
def Chip.dutyCarried (c : Chip) (l : Leg) (on : BitVec 17) : Chip :=
  match (c.leg l).duties with
  | [] => c
  | x :: rest => if x = on then (c.setLeg l { c.leg l with duties := rest }).dutyArrived l on else c

/-- Sets the live slew steps (R84). -/
def Chip.setSlew (c : Chip) (l : Leg) (s : Slew) : Chip :=
  (((c.put (LEG_SLEW_LIVE_HS_ON l.val) s.hsOn.val).put (LEG_SLEW_LIVE_HS_OFF l.val) s.hsOff.val).put
    (LEG_SLEW_LIVE_LS_ON l.val) s.lsOn.val).put (LEG_SLEW_LIVE_LS_OFF l.val) s.lsOff.val

/-- The live slew steps return to the base steps (R84). -/
def Chip.baseSlew (c : Chip) (l : Leg) : Chip :=
  (((c.put (LEG_SLEW_LIVE_HS_ON l.val) (c.get (LEG_SLEW_HS_ON l.val))).put (LEG_SLEW_LIVE_HS_OFF l.val)
    (c.get (LEG_SLEW_HS_OFF l.val))).put (LEG_SLEW_LIVE_LS_ON l.val) (c.get (LEG_SLEW_LS_ON l.val))).put
    (LEG_SLEW_LIVE_LS_OFF l.val) (c.get (LEG_SLEW_LS_OFF l.val))

/-- A leg takes a mode (R78).  A leg that enters PWM starts low, and a pulse whose fall has passed is dropped (R77).  A
refresh requested in FLOAT is not needed once the leg enters LOW (R87). -/
def Chip.setLegMode (c : Chip) (l : Leg) (m : LegMode) : Chip :=
  let x := c.leg l
  let enters := m == .pwm && c.legMode l != 1
  let dropped := enters && c.pulseMissed l (c.duty1 l)
  let c := (c.put (LEG_DUTY_MODE l.val) (legModeCode m)).setLeg l
    { x with
      refreshReq := if m = .low then none else x.refreshReq
      refCount := if m = .pwm then x.refCount else 0
      refresh := if m = .pwm then x.refresh else none
      heldOn := if m = .pwm then x.heldOn else none
      pulse := none
      rose := if enters then dropped else x.rose
      fell := if enters then dropped else x.fell }
  c.obeyLeg l

/-- A requested refresh is noted with the tick of its arrival, except in LOW mode, which needs none (R87). -/
def Chip.askRefresh (c : Chip) (l : Leg) : Chip :=
  if c.legMode l == 2 then c else c.setLeg l { c.leg l with refreshReq := some c.now }

/-- A leg-setting frame's effect: each part it carries. -/
def Chip.legSet (c : Chip) (l : Leg) (g : LegSetting) : Chip :=
  let c := match g.slew with | some s => c.setSlew l s | none => c
  let c := match g.mode with | some m => c.setLegMode l m | none => c
  if g.refresh then c.askRefresh l else c

/-- The C-die puts a setting on its way to a leg; a link that is down carries nothing. -/
def Chip.sendSetting (c : Chip) (l : Leg) (g : LegSetting) : Chip :=
  if (c.link (dieOfLeg l)).down then c else c.setLeg l { c.leg l with settings := (c.leg l).settings ++ [g] }

/-- The C-die puts a duty on its way to a leg. -/
def Chip.sendDuty (c : Chip) (l : Leg) (on : BitVec 17) : Chip :=
  if (c.link (dieOfLeg l)).down then c else c.setLeg l { c.leg l with duties := (c.leg l).duties ++ [on] }

/-! ### Conditions (R90 to R92) -/

/-- A condition is raised: its sticky bit is set; if it was not active it becomes active, counts one event of the leg's
source `j` (R92), and is owed to the fault line (R93). -/
def Chip.legCond (c : Chip) (l : Leg) (sticky live : Field) (j : Nat) : Chip :=
  let c := c.setLeg l { c.leg l with owed := (c.leg l).owed ||| (8#4 >>> j) }
  ((c.mark sticky).put live 1).raiseIf (!c.flag live) (srcLeg l j)

/-- A GATE condition with its subtype bit (R80 to R82). -/
def Chip.gateCond (c : Chip) (l : Leg) (sticky : Field) : Chip := c.legCond l sticky (LEG_STAT_GATE_LIVE l.val) 2

/-- Both on-requests rise in one tick: both gates stay off and GATE is raised with XCMD (R81). -/
def Chip.xcmd (c : Chip) (l : Leg) : Chip :=
  let c := c.gates l none
  (c.setLeg l { c.leg l with ghCmd := true, glCmd := true }).gateCond l (LEG_STAT_XCMD l.val)

/-- The request for a gate rises while its complement's stays: it waits, and its timer runs from this tick (R80, R81). -/
def Chip.overlap (c : Chip) (l : Leg) (g : Gate) : Chip :=
  let x := c.leg l
  let x := match g with | .high => { x with ghCmd := true } | .low => { x with glCmd := true }
  c.setLeg l (if x.on g || x.waiting == some g then x else { x with waiting := some g, deadTick := c.now })

/-- One gate is commanded on, as a fault in the leg or its link leaves the two requests (R81). -/
def Chip.commandGate (c : Chip) (l : Leg) (g : Gate) (o : Overlap) : Chip :=
  match o with
  | .none => c.gates l (some g)
  | .both => c.xcmd l
  | .later => c.overlap l g

/-- A setting frame carries the oldest setting on its way to the leg; a fault may make requests of it (R78, R81). -/
def Chip.settingCarried (c : Chip) (l : Leg) (o : Overlap) : Chip :=
  match (c.leg l).settings with
  | [] => c
  | g :: rest =>
    let c := (c.setLeg l { c.leg l with settings := rest }).legSet l g
    if o = .none || c.legReact l != 0 then c else c.commandGate l .low o

/-- The commanded rise (R76): GL off, GH waits; no edge when the high interval is dropped, and nothing at the gates while a
refresh runs (R96). -/
def Chip.rise (c : Chip) (l : Leg) (o : Overlap) : Chip :=
  if !c.legRuns l || (c.leg l).rose || !c.placeDue l (c.risePlace l (c.duty1 l)) || (o = .none && c.noHigh l) then c
  else
    let c := c.setLeg l { c.leg l with rose := true }
    if o = .none && (c.leg l).refresh.isSome then c else c.commandGate l .high o

/-- COMMANDED_RISE. -/
def execCommandedRise (l : Leg) (o : Overlap) (s : State) : Out := s.run fun c => c.rise l o

/-- The commanded fall (R76): GH off, GL waits; no edge when the low interval is dropped, or when the high one is and GH is
off; nothing at the gates while a refresh runs (R96). -/
def Chip.fall (c : Chip) (l : Leg) (o : Overlap) : Chip :=
  let dropped := c.noLow l || (c.noHigh l && !(c.leg l).ghCmd)
  if !c.legRuns l || (c.leg l).fell || !c.placeDue l (c.fallPlace l (c.duty1 l)) || (o = .none && dropped) then c
  else
    let c := c.setLeg l { c.leg l with rose := true, fell := true }
    if o = .none && (c.leg l).refresh.isSome then c else c.commandGate l .low o

/-- COMMANDED_FALL. -/
def execCommandedFall (l : Leg) (o : Overlap) (s : State) : Out := s.run fun c => c.fall l o

/-- A gate disagrees with its command 1 µs after the edge (R82): on and registered below, or commanded off and registered
above. -/
def Chip.stuckNow (c : Chip) (l : Leg) (g : Gate) : Bool :=
  let x := c.leg l
  let low := x.registeredBelow c.now g
  (x.on g && low && c.aged 249 (x.edge g)) || (!x.cmd g && !low && c.aged 249 (x.off g))

/-- A GATE condition persists (R92): a disagreement, a wait without handshake past its timer, or both requests. -/
def Chip.gateBad (c : Chip) (l : Leg) : Bool :=
  let x := c.leg l
  c.stuckNow l .high || c.stuckNow l .low || (x.ghCmd && x.glCmd && x.waiting.isNone) ||
    (match x.waiting with
     | some g => !x.registeredBelow (c.now + 1) (otherGate g) && decide (x.deadTick + c.get (LEG_CFG_HS_TO l.val) ≤ c.now)
     | none => false)

/-- A gate crosses its threshold in this tick, which is registered in the next (R79); the GATE condition ends with its
cause (R92). -/
def Chip.crossing (c : Chip) (l : Leg) (g : Gate) (above : Bool) : Chip :=
  let x := c.leg l
  if x.below g = !above then c
  else
    let y := match g with
      | .high => { x with ghBelow := !above, ghClear := c.now + 2 }
      | .low => { x with glBelow := !above, glClear := c.now + 2 }
    let c := c.setLeg l y
    c.putF (LEG_STAT_GATE_LIVE l.val) (c.flag (LEG_STAT_GATE_LIVE l.val) && c.gateBad l)

/-- GATE_SENSE_CROSSING. -/
def execGateSenseCrossing (l : Leg) (g : Gate) (above : Bool) (s : State) : Out := s.run fun c => c.crossing l g above

/-- A waiting gate may turn on: its complement is commanded off, the dead time since has passed, and from the tick after
the registration below threshold (R79). -/
def Chip.mayTurnOn (c : Chip) (l : Leg) (g : Gate) : Bool :=
  let x := c.leg l
  let o := otherGate g
  x.waiting == some g && !x.cmd o && x.below o && decide (x.clear o ≤ c.now) && decide (c.deadEnd l o ≤ c.now)

/-- A waiting gate turns on; the wait past the dead-time expiry enters HSWAIT_MAX (R79, Table 4-13). -/
def Chip.turnOn (c : Chip) (l : Leg) (g : Gate) : Chip :=
  if c.mayTurnOn l g then
    let x := c.leg l
    let y := match g with
      | .high => { x with waiting := none, ghOn := true, ghEdge := some c.now }
      | .low => { x with waiting := none, glOn := true, glEdge := some c.now }
    (c.setLeg l y).putMax (LEG_CNT_HSWAIT_MAX l.val) (c.now - max x.deadTick (c.deadEnd l (otherGate g)))
  else c

/-- GATE_TURN_ON. -/
def execGateTurnOn (l : Leg) (g : Gate) (s : State) : Out := s.run fun c => c.turnOn l g

/-- The handshake timer expires at the end of tick e = d + HS_TO without a registration (R80). -/
def Chip.handshakeTimeout (c : Chip) (l : Leg) (g : Gate) : Chip :=
  let x := c.leg l
  if x.waiting == some g && decide (x.deadTick + c.get (LEG_CFG_HS_TO l.val) ≤ c.now) &&
      !x.registeredBelow c.now (otherGate g) then c.gateCond l (LEG_STAT_HSTO l.val)
  else c

/-- HANDSHAKE_TIMEOUT. -/
def execHandshakeTimeout (l : Leg) (g : Gate) (s : State) : Out := s.run fun c => c.handshakeTimeout l g

/-- A gate disagrees with its command 1 µs after the edge (R82). -/
def Chip.gateStuck (c : Chip) (l : Leg) (g : Gate) : Chip :=
  if c.stuckNow l g then c.gateCond l (LEG_STAT_STUCK l.val) else c

/-- GATE_STUCK. -/
def execGateStuck (l : Leg) (g : Gate) (s : State) : Out := s.run fun c => c.gateStuck l g

/-- `ns` have passed since tick `t`. -/
def Chip.agedNs (c : Chip) (ns : Nat) (t : Option Nat) : Bool := t.all fun t => decide (4 * t + ns ≤ 4 * c.now)

/-- VDS of one switch, whose comparator is active only while its gate is commanded on, and after the blanking from its
turn-on edge (R90). -/
def Chip.vds (c : Chip) (l : Leg) (g : Gate) : Chip :=
  let x := c.leg l
  if x.cmd g && x.on g && c.agedNs (c.get (LEG_VDS_BLK l.val)) (x.edge g) then
    match g with
    | .high => c.legCond l (LEG_STAT_VDS_HS l.val) (LEG_STAT_VDS_HS_LIVE l.val) 0
    | .low => c.legCond l (LEG_STAT_VDS_LS l.val) (LEG_STAT_VDS_LS_LIVE l.val) 0
  else c

/-- VDS. -/
def execVds (l : Leg) (g : Gate) (s : State) : Out := s.run fun c => c.vds l g

/-- The trip comparator, active in every mode outside its blanking after an edge of either gate (R91). -/
def Chip.trip (c : Chip) (l : Leg) : Chip :=
  let b := c.get (LEG_TRIP_BLK l.val)
  if c.aged b (c.leg l).ghEdge && c.aged b (c.leg l).glEdge then
    c.legCond l (LEG_STAT_TRIP l.val) (LEG_STAT_TRIP_LIVE l.val) 3
  else c

/-- TRIP. -/
def execTrip (l : Leg) (s : State) : Out := s.run fun c => c.trip l

/-! ### Bootstrap (R85 to R89) -/

/-- BST_UV is raised and BST_OK clears (R85); where FORCE_REF asks for it, a refresh request is on its way (R87). -/
def Chip.bstLow (c : Chip) (l : Leg) : Chip :=
  let force := c.flag (LEG_BST_FORCE_REF l.val) && !c.flag (LEG_STAT_BST_UV_LIVE l.val)
  let c := (c.legCond l (LEG_STAT_BST_UV l.val) (LEG_STAT_BST_UV_LIVE l.val) 1).put (LEG_STAT_BST_OK l.val) 0
  if force then c.sendSetting l ⟨none, none, true⟩ else c

/-- The monitor runs in STANDBY and SHOW, is blanked after a turn-on edge of GH, and does not raise BST_UV during charging
pulses (R85). -/
def Chip.bstUv (c : Chip) (l : Leg) : Chip :=
  let x := c.leg l
  let blank := x.ghOn && !c.agedNs (c.get (LEG_VDS_BLK l.val)) x.ghEdge
  if c.isArmed && !x.charging && !blank then c.bstLow l else c

/-- BST_UV. -/
def execBstUv (l : Leg) (s : State) : Out := s.run fun c => c.bstUv l

/-- BST_OK is set, which ends a charging series and lets the next one count afresh (R85, R88, R89). -/
def Chip.bstOk (c : Chip) (l : Leg) : Chip :=
  if c.isArmed then
    ((c.put (LEG_STAT_BST_OK l.val) 1).put (LEG_STAT_BST_UV_LIVE l.val) 0).setLeg l
      { c.leg l with charging := false, exhausted := false, pulses := 0 }
  else c

/-- BST_OK. -/
def execBstOk (l : Leg) (s : State) : Out := s.run fun c => c.bstOk l

/-- The commanded low interval of the period is longer than 400 ns (R86). -/
def Chip.longLow (c : Chip) (l : Leg) : Bool := decide (400 < 4 * c.period (axisOfLeg l) - c.duty1 l)

/-- The duty in force is at least 99 % (R86). -/
def Chip.fullDuty (c : Chip) (l : Leg) : Bool := decide (4 * c.period (axisOfLeg l) * 99 ≤ 100 * c.duty1 l)

/-- A refresh begins, which ends in tick `t`: GH is commanded off, and GL turns on under the handshake (R86, steps 1 and
2). -/
def Chip.beginRefresh (c : Chip) (l : Leg) (t : Nat) : Chip :=
  let c := (c.gates l (some .low)).bump (LEG_CNT_REFRESH l.val) 1
  c.setLeg l { c.leg l with refresh := some t }

/-- A refresh is inserted before a boundary `n` ticks ahead: its pulse ends 50 ticks after the boundary.  A commanded low
interval longer than 400 ns is used in its place (R86). -/
def Chip.insertRefresh (c : Chip) (l : Leg) (n : Nat) : Chip :=
  if c.longLow l || (c.leg l).refresh.isSome then c else c.beginRefresh l (c.now + n + 50)

/-- A refresh ends (R86, steps 3 and 4): GL is commanded off and GH turns on again, unless the duty that came into force
meanwhile asks for the low side (DEDUCED, log entry 10); then a duty that arrived during the refresh applies (R77). -/
def Chip.endRefresh (c : Chip) (l : Leg) : Chip :=
  let x := c.leg l
  let c := c.setLeg l { x with refresh := none, heldOn := none }
  let c := if c.noLow l || (x.rose && !x.fell) then c.gates l (some .high) else c
  match x.heldOn with
  | some on => c.latchDuty l on
  | none => c

/-- A forced refresh is inserted at the first boundary that its request reaches in time: it begins no earlier than B - 200
ns - DT, and the request has arrived by B - DT - 204 ns (R87).  Only in PWM mode; a line overrides it (R96). -/
def Chip.forcedRefresh (c : Chip) (l : Leg) : Chip :=
  let a := axisOfLeg l
  let n := c.period a - c.sinceBoundary a
  match (c.leg l).refreshReq with
  | none => c
  | some t =>
    if c.legRuns l && decide (n ≤ 50 + c.deadTime l) && decide (t + 51 + c.deadTime l ≤ c.now + n) then
      (c.setLeg l { c.leg l with refreshReq := none }).insertRefresh l n
    else c

/-- FORCED_REFRESH. -/
def execForcedRefresh (l : Leg) (s : State) : Out := s.run fun c => c.forcedRefresh l

/-- The refresh of R86 falls due at the next boundary, whose GH turn-off lies in this tick. -/
def Chip.refreshDue (c : Chip) (l : Leg) : Bool :=
  let a := axisOfLeg l
  c.legRuns l && c.sinceBoundary a + 50 + c.deadTime l == c.period a && c.fullDuty l &&
    decide (c.get (LEG_BST_REF_K l.val) ≤ (c.leg l).refCount + 1)

/-- What a leg does of itself in a tick: a charging pulse or a refresh ends, or a refresh begins (R86, R88). -/
def Chip.legTick (c : Chip) (l : Leg) : Chip :=
  let x := c.leg l
  match x.pulse, x.refresh with
  | some t, _ => if t ≤ c.now then (c.gates l none).setLeg l { (c.gates l none).leg l with pulse := none } else c
  | none, some t => if t ≤ c.now then c.endRefresh l else c
  | none, none => if x.ghCmd && c.refreshDue l then c.insertRefresh l (50 + c.deadTime l) else c

/-- A leg's part of its axis's period boundary: the period that ended counts toward a refresh (R86), a waiting duty
applies (R77), GL stays on when the high interval is dropped (R76), and a charging series begins where R89 calls for
one. -/
def Chip.legBoundary (c : Chip) (charge : Bool) (l : Leg) : Chip :=
  let x := c.leg l
  let n := if c.legRuns l && c.fullDuty l then x.refCount + 1 else 0
  let due := decide (0 < n) && decide (c.get (LEG_BST_REF_K l.val) ≤ n)
  let start := charge && !c.flag (LEG_STAT_BST_OK l.val) && !x.charging && !x.exhausted
  let c := if due then c.insertRefresh l 0 else c
  let c := match x.nextOn with | some d => c.put (LEG_DUTY_ON l.val) d.toNat | none => c
  let c := c.setLeg l { c.leg l with
    rose := false, fell := false, nextOn := none
    refCount := if due then 0 else n
    charging := x.charging || start, pulses := if start then 0 else x.pulses }
  if c.legRuns l && c.noHigh l && (c.leg l).refresh.isNone then c.gates l (some .low) else c

/-- A new entry of the leg's axis into OFF, or into STANDBY, opens a new charging series (R88, R89): at once, or at the
axis's next period boundary. -/
def Chip.newSeries (c : Chip) (now : Bool) (l : Leg) : Chip :=
  c.setLeg l { c.leg l with
    exhausted := false, pulses := 0, charging := now && !c.flag (LEG_STAT_BST_OK l.val) }

/-- The turn of leg `l` among the charging legs of its axis, U, V, W in order from the one after the last pulse (R88). -/
def Chip.chargeTurn (c : Chip) (l : Leg) : Bool :=
  let a := axisOfLeg l
  let t := (c.axis a).chargeTurn
  ([t, t + 1, t + 2].map fun i => legOf a ⟨i % 3, by omega⟩).find? (fun k => (c.leg k).charging) == some l

/-- A charging pulse, counted on REFRESH: GL turns on under the handshake for 400 ns, 10 µs after the axis's last pulse,
with the legs of the axis in turn; the 200th without BST_OK raises BST_UV and ends the series (R88).  The wait of R22
for a duty frame does not hold a pulse back (DESIGN CHOICE, log entry 10). -/
def Chip.chargingPulse (c : Chip) (l : Leg) : Chip :=
  let x := c.leg l
  let a := axisOfLeg l
  if x.charging && c.isArmed && c.legReact l == 0 && c.legMode l == 0 && !c.flag (LEG_STAT_BST_OK l.val) &&
      c.chargeTurn l && c.aged 2500 (c.axis a).chargeTick then
    let last := decide (200 ≤ x.pulses + 1)
    let c := (c.gates l (some .low)).bump (LEG_CNT_REFRESH l.val) 1
    let c := c.setLeg l
      { c.leg l with pulses := x.pulses + 1, charging := !last, exhausted := last, pulse := some (c.now + 100) }
    let c := c.setAxis a { c.axis a with chargeTurn := (l.val + 1) % 3, chargeTick := some c.now }
    if last then c.bstLow l else c
  else c

/-- CHARGING_PULSE. -/
def execChargingPulse (l : Leg) (s : State) : Out := s.run fun c => c.chargingPulse l

/-! ### Reports on the fault line (R93, R94) -/

/-- The parity bit agrees with the four condition bits. -/
def burstEven (b : BitVec 6) : Bool :=
  (b.getLsbD 4 ^^ b.getLsbD 3 ^^ b.getLsbD 2 ^^ b.getLsbD 1) == b.getLsbD 0

/-- A leg condition is active at the leg: 0 VDS, 1 BST_UV, 2 GATE, 3 TRIP (R92). -/
def Chip.legActive (c : Chip) (l : Leg) (j : Nat) : Bool :=
  match j with
  | 0 => c.flag (LEG_STAT_VDS_HS_LIVE l.val) || c.flag (LEG_STAT_VDS_LS_LIVE l.val)
  | 1 => c.flag (LEG_STAT_BST_UV_LIVE l.val)
  | 2 => c.flag (LEG_STAT_GATE_LIVE l.val)
  | _ => c.flag (LEG_STAT_TRIP_LIVE l.val)

/-- The conditions that a leg's burst carries: the active ones, and those raised since its last burst. -/
def Chip.legConds (c : Chip) (l : Leg) : BitVec 4 :=
  [0, 1, 2, 3].foldl (fun (w : BitVec 4) j => if c.legActive l j then w ||| (8#4 >>> j) else w) (c.leg l).owed

/-- A burst as it is sent (R93): the start bit, the four conditions, and the parity bit over them. -/
def burstOf (w : BitVec 4) : BitVec 6 :=
  1#1 ++ w ++ BitVec.ofBool (w.getLsbD 3 ^^ w.getLsbD 2 ^^ w.getLsbD 1 ^^ w.getLsbD 0)

/-- The C-die takes the conditions in `w` from a burst (R93, R94): each that it did not see yet and that is not active at
the leg, where it was counted, is an event of its source; a condition that it saw and that two successive bursts
lack has ended. -/
def Chip.burstTaken (c : Chip) (l : Leg) (w : BitVec 4) : Chip :=
  let x := c.leg l
  let new (j : Nat) : Bool := w.getLsbD (3 - j) && !x.seen.getLsbD (3 - j) && !x.owed.getLsbD (3 - j) && !c.legActive l j
  let absent := x.seen &&& ~~~w
  let d := c.setLeg l { x with owed := 0, seen := (x.seen ||| w) &&& ~~~(absent &&& x.missed), missed := absent &&& ~~~x.missed }
  d.each [0, 1, 2, 3] fun d j => d.raiseIf (new j) (srcLeg l j)

/-- A burst arrives with the bits in `err` changed by the line (R93); a leg without an active condition sends none, and one
whose start bit is lost is none.  A parity error makes it carry all four conditions, and counts one event of LINK
(R94). -/
def Chip.burst (c : Chip) (l : Leg) (err : BitVec 6) : Chip :=
  let b := burstOf (c.legConds l) ^^^ err
  if c.legConds l = 0 then c
  else if !b.getLsbD 5 then c.setLeg l { c.leg l with owed := 0 }
  else if burstEven b then c.burstTaken l (b.extractLsb' 1 4)
  else ((c.burstTaken l 15).mark (LEG_STAT_BURST_ERR l.val)).raise (srcLink (dieOfLeg l))

/-- LEG_FAULT_BURST. -/
def execLegFaultBurst (l : Leg) (err : BitVec 6) (s : State) : Out := s.run fun c => c.burst l err

/-- The conditions in `conds` have ended at the leg and 64 ns of silence have told the C-die so (R93); a GATE condition
does not end while its cause lasts (R92). -/
def Chip.burstSilence (c : Chip) (l : Leg) (conds : BitVec 4) : Chip :=
  let conds := if c.gateBad l then conds &&& 13 else conds
  let off (c : Chip) (i : Nat) (f : Field) : Chip := if conds.getLsbD i then c.put f 0 else c
  let x := c.leg l
  let c := c.setLeg l { x with seen := x.seen &&& ~~~conds, missed := x.missed &&& ~~~conds, owed := x.owed &&& ~~~conds }
  let c := off (off c 3 (LEG_STAT_VDS_HS_LIVE l.val)) 3 (LEG_STAT_VDS_LS_LIVE l.val)
  off (off (off c 2 (LEG_STAT_BST_UV_LIVE l.val)) 1 (LEG_STAT_GATE_LIVE l.val)) 0 (LEG_STAT_TRIP_LIVE l.val)

/-- BURST_SILENCE. -/
def execBurstSilence (l : Leg) (conds : BitVec 4) (s : State) : Out := s.run fun c => c.burstSilence l conds

/-- A leg condition is present for the collector (R92, R274): active at the leg, or still seen by the C-die. -/
def Chip.legCause (c : Chip) (l : Leg) (j : Nat) : Bool := (c.leg l).seen.getLsbD (3 - j) || c.legActive l j

/-- What an entry into STANDBY does to a leg (R84, R88): base slew steps, and for an enabled axis in OFF a charging
series. -/
def Chip.legStandby (c : Chip) (l : Leg) : Chip :=
  let c := c.baseSlew l
  if c.axisOn (axisOfLeg l) && c.get (AX_MSTAT_MODE (axisOfLeg l).val) == 0 then c.newSeries true l else c

/-- What an exit from STANDBY or SHOW to HOUSE does to a leg (R85, Table 12-6): FLOAT, BST_OK clears, and nothing is on
its way any more. -/
def Chip.legHouse (c : Chip) (l : Leg) : Chip :=
  let c := (c.setLegMode l .float).put (LEG_STAT_BST_OK l.val) 0
  c.setLeg l { c.leg l with charging := false, duties := [], settings := [], wantMode := .float, wantOn := 0 }

/-- A memory wipe leaves every leg in FLOAT with ON = 0 and nothing on its way to it (R78); a reaction line still governs its
gates (R96). -/
def Chip.legWipe (c : Chip) (l : Leg) : Chip :=
  let c := (c.setLegMode l .float).put (LEG_DUTY_ON l.val) 0
  c.setLeg l
    { c.leg l with
      nextOn := none, refreshReq := none, charging := false, duties := [], settings := []
      wantMode := .float, wantOn := 0, wantSlew := none }

end Sys2Proof.Machine
end

