-- ==== Sys2Proof/Machine/Cues.lean ====
section
/-! DEFINITION. The cue sheet (02_cue_sheet.md): entries and their admission, the two acts, the queues, and the
actions of cues that act on output ports and on the sheet itself. -/
namespace Sys2Proof.Machine

/-! ### Entries (Table 2-2) -/

/-- TB, bits [63:59]. -/
def cueTb (w : BitVec 64) : Nat := (w >>> 59).toNat
/-- DIR, bits [58:57]: 1 forward, 2 backward, 3 both. -/
def cueDir (w : BitVec 64) : Nat := (w >>> 57).toNat % 4
/-- ACT, bit [56]. -/
def cueAct (w : BitVec 64) : Nat := (w >>> 56).toNat % 2
/-- ACTION, bits [55:48]; 0 marks a free entry. -/
def cueAction (w : BitVec 64) : Nat := (w >>> 48).toNat % 256
/-- ARG, bits [47:32]. -/
def cueArg (w : BitVec 64) : Nat := (w >>> 32).toNat % 65536
/-- POS, bits [31:0]. -/
def cuePos (w : BitVec 64) : BitVec 32 := w.truncate 32

/-- The entry at index `k` (R34). -/
def Chip.cue (c : Chip) (k : Nat) : BitVec 64 := cellsGet zeros c.cues.sheet k

/-- The running act of a timebase (R40). -/
def Chip.runAct (c : Chip) (n : Nat) : Nat := c.get (CUE_TB_CFG_RUN n)

/-- The entry holds a cue of a running act. -/
def Chip.runs (c : Chip) (w : BitVec 64) : Bool :=
  cueAction w != 0 && decide (cueTb w ≤ 20) && cueAct w == c.runAct (cueTb w)

/-- A port configured as an enabled output (R37, Table 6-1). -/
def Chip.portIsOut (c : Chip) (p : Nat) : Bool :=
  c.flag (FP_CFG_EN p) && c.get (FP_CFG_FUNC p) == 4 && c.get (FP_CFG_DSUB p) == 5

/-- ARG breaks the rules of its action (R37, Table 2-3): a reserved action, a field out of range, or a nonzero
unnamed bit. -/
def cueArgBad (action arg : Nat) : Bool :=
  match action with
  | 1 | 2 | 9 => decide (31 < arg)
  | 3 => decide (arg / 32 = 0)
  | 4 => if arg < 32768 then decide (40 < arg) else decide (32768 + 7 < arg)
  | 5 => decide (3 < arg)
  | 6 => decide (63 < arg)
  | 7 => decide (15 < arg)
  | 8 => decide (20 < arg / 256) || decide (15 < arg % 256)
  | 10 => decide (255 < arg)
  | 11 => decide (7 < arg)
  | 12 => decide (20 < arg) && arg != 31
  | _ => true

/-- The entry breaks a RANGE rule of R34, R35 or R37. -/
def cueShapeBad (w : BitVec 64) : Bool :=
  if cueAction w = 0 then w != 0
  else decide (20 < cueTb w) || cueDir w == 0 || cueArgBad (cueAction w) (cueArg w)

/-- A timebase is linear (Table 2-12). -/
def Chip.linear (c : Chip) (n : Nat) : Bool := c.flag (CUE_TB_CFG_MODE n)

/-- VMAX, which is 1 for TB20 (R51). -/
def Chip.vmax (c : Chip) (n : Nat) : Nat := if n = 20 then 1 else c.get (CUE_TB_VMAX_VMAX n)

/-- The distance of two positions on timebase `n` (R52). -/
def Chip.cueDist (c : Chip) (n : Nat) (a b : BitVec 32) : Nat :=
  if c.linear n then (a.toInt - b.toInt).natAbs else min (a - b).toNat (b - a).toNat

/-- The minimum spacing D_min of R51, which is also the re-arm distance of R47. -/
def Chip.spacing (c : Chip) (n : Nat) : Nat := 4 * c.vmax n

/-- Entries `f` and `e` at indices `j` and `k` stand too close (R52): one list, or `f` is a running ACT_SWITCH of
their timebase that targets it. -/
def Chip.tooClose (c : Chip) (k : Nat) (e : BitVec 64) (j : Nat) (f : BitVec 64) : Bool :=
  j != k && j / 8192 == k / 8192 && cueAction f != 0 && cueTb f == cueTb e &&
    decide (c.cueDist (cueTb e) (cuePos e) (cuePos f) < c.spacing (cueTb e)) &&
    (cueAct f == cueAct e ||
      (cueAct f == c.runAct (cueTb e) && cueAction f == 12 && (cueArg f == cueTb e || cueArg f == 31)))

/-- The first entry that conflicts with `e` at index `k`. -/
def Chip.neighbour (c : Chip) (k : Nat) (e : BitVec 64) : Option Nat :=
  if cueAction e = 0 then none
  else (c.cues.sheet.find? fun x => c.tooClose k e x.1 x.2).map (·.1)

/-- The present value of a timebase; TB20 is the wall tick (Table 2-1). -/
def Chip.tbVal (c : Chip) (n : Tb) : BitVec 32 := if n.val = 20 then BitVec.ofNat 32 c.wall else (c.tb n).val

/-- A timebase by number; TB20 for a number no timebase has. -/
def tbOf (n : Nat) : Tb := if h : n < 21 then ⟨n, h⟩ else 20

/-- The cue lies behind the present position (R53). -/
def Chip.behind (c : Chip) (w : BitVec 64) : Bool :=
  let n := cueTb w
  let v := c.tbVal (tbOf n)
  let e : Int := if c.linear n then (cuePos w).toInt - v.toInt else (cuePos w - v).toInt
  if c.flag (CUE_TB_STAT_DIRN n) then decide (0 < e) || (!c.linear n && e == -(2 ^ 31)) else decide (e ≤ 0)

/-- Keeps `k` in or out of a rising list of indices. -/
def markIndex (l : List Nat) (k : Nat) (b : Bool) : List Nat :=
  if b then l.filter (· < k) ++ k :: l.filter (k < ·) else l.filter (· != k)

/-- Stores an entry; a stored cue starts armed, until a swap gives its arm state (R44). -/
def Chip.setCue (c : Chip) (k : Nat) (w : BitVec 64) : Chip :=
  { c with cues := { c.cues with
      sheet := cellsSet zeros c.cues.sheet k w, disarmed := markIndex c.cues.disarmed k false } }

/-- The holding register of a path (R34). -/
def Chip.cueHold (c : Chip) (p : Path) : Word :=
  match p with | .host => c.cues.holdHost | .can => c.cues.holdCan

/-- Loads a path's holding register. -/
def Chip.setCueHold (c : Chip) (p : Path) (v : Word) : Chip :=
  match p with
  | .host => { c with cues := { c.cues with holdHost := v } }
  | .can => { c with cues := { c.cues with holdCan := v } }

/-- CUE_ENTRY_LOWER_WRITE (R34): the holding register, and nothing else. -/
def Chip.cueLower (c : Chip) (p : Path) (v : Word) : Judged := (c.setCueHold p v, .ok)

/-- CUE_ENTRY_LOWER_WRITE. -/
def execCueEntryLowerWrite (p : Path) (_k : EntryIx) (v : Word) (s : State) : Out := s.ask p fun c => c.cueLower p v

/-- The refusing conditions of a cue write (R37, R41, R52). -/
def Chip.cueConds (c : Chip) (k : Nat) (w : BitVec 64) : List (Bool × Reason) :=
  [ (!c.cfgOk || c.runs (c.cue k) || c.runs w, .state)
  , (cueAction w != 0 && decide (cueAction w ≤ 3) && !c.portIsOut (cueArg w % 32), .state)
  , (cueShapeBad w, .range)
  , (!cueShapeBad w && (c.neighbour k w).isSome, .density) ]

/-- A whole entry is judged and stored or refused; CUE_STATUS and CUE_NEIGHBOUR tell the outcome (R42).  A write that is
not refused with DENSITY leaves CUE_NEIGHBOUR.ENTRY at 0, and of several conflicting entries the lowest-numbered one
is named (DESIGN CHOICE, log entry 14). -/
def Chip.judgeCue (c : Chip) (p : Path) (k : Nat) (w : BitVec 64) : Judged :=
  let r := judge (c.cueConds k w)
  let late := cueAction w != 0 && c.behind w
  let near := match c.neighbour k w with | some j => j | none => 0
  let c := if r = .ok then (c.setCue k w).putF CUE_STATUS_BEHIND late else c
  let c := ((c.put CUE_STATUS_REASON r.toNat).putF CUE_STATUS_SRC (p == .can)).put CUE_STATUS_ENTRY k
  ((c.putF CUE_NEIGHBOUR_VALID (r == .density)).put CUE_NEIGHBOUR_ENTRY (if r = .density then near else 0), r)

/-! ### Acts (R43 to R45) -/

/-- Gives the running cues of timebase `n` their arm state by distance (R32, R44). -/
def Chip.rearm (c : Chip) (n : Tb) : Chip :=
  let v := c.tbVal n
  let d := c.cues.sheet.foldl (fun l x =>
    if cueTb x.2 == n.val && c.runs x.2 then
      markIndex l x.1 (decide (c.cueDist n.val (cuePos x.2) v < c.spacing n.val))
    else l) c.cues.disarmed
  { c with cues := { c.cues with disarmed := d } }

/-- Swaps the acts of a timebase, once for the requests of one tick `t` (R43 to R45). -/
def Chip.swapActs (c : Chip) (t : Nat) (n : Tb) : Chip :=
  if (c.tb n).swapTick == some t then c
  else ((c.put (CUE_TB_CFG_RUN n.val) (1 - c.runAct n.val)).setTb n { c.tb n with swapTick := some t }).rearm n

/-- All timebases. -/
def allTbs : List Tb := List.finRange 21

/-- The timebases an ACT_SWITCH targets. -/
def switchTargets (arg : Nat) : List Tb := if arg = 31 then allTbs else [tbOf arg]

/-- The swap of a firing of ACT_SWITCH, which belongs to the tick of its crossing (R43). -/
def Chip.switchFire (c : Chip) (f : Fire) : Chip :=
  c.each (switchTargets (cueArg f.cue)) fun c n => c.swapActs f.since n

/-- Every ACT_SWITCH that is due is carried out: before the crossings of a later tick are judged (R43), and before a write
or another swap request of its own tick (R45). -/
def Chip.settleSwaps (c : Chip) : Chip :=
  let due := c.cues.fires.filter fun f => cueAction f.cue == 12
  let c := c.each due Chip.switchFire
  { c with cues := { c.cues with fires := c.cues.fires.filter fun f => cueAction f.cue != 12 } }

/-- A cue write is judged against the acts as the swaps of its tick leave them (R45). -/
def Chip.cueWrite (c : Chip) (p : Path) (k : Nat) (w : BitVec 64) : Judged := c.settleSwaps.judgeCue p k w

/-- CUE_ENTRY_SUBMIT (R34, R42). -/
def execCueEntrySubmit (p : Path) (k : EntryIx) (v : Word) (s : State) : Out :=
  s.ask p fun c => c.cueWrite p k.val (v ++ c.cueHold p)

/-- CUE_SWITCH: the acts of each timebase whose bit is 1 swap. -/
def Chip.cueSwitch (c : Chip) (mask : BitVec 21) : Judged :=
  (c.settleSwaps.each (allTbs.filter fun n => mask.getLsbD n.val) fun c n => c.swapActs c.now n, .ok)

/-- CUE_SWITCH; DARK refuses it with STATE (Table 2-7). -/
def execCueSwitch (p : Path) (mask : BitVec 21) (s : State) : Out := s.ask p fun c => c.cueSwitch mask

/-! ### Queues (R55) -/

/-- A path receives the value of a read: the host port on HP_RDBUF and in its next frame, CAN on CAN_RDBUF. -/
def Chip.give (c : Chip) (p : Path) (v : Word) : Chip :=
  match p with
  | .host => { c.setReg HP_RDBUF v with hp := { c.hp with data := v } }
  | .can => c.setReg CAN_RDBUF v

/-- A read that is not executed yields nothing: the next host frame carries 0 (Table 14-1). -/
def Chip.blank (c : Chip) (p : Path) : Chip :=
  match p with
  | .host => { c with hp := { c.hp with data := 0 } }
  | .can => c

/-- A read over path `p`: refused with BUSY while a start sequence runs (R299), 0 without effect in DARK (R315), else
executed. -/
def Chip.askRead (c : Chip) (p : Path) (f : Chip → Chip × Word) : Chip :=
  if !c.carries p then c
  else if c.booting then (c.blank p).answer p .busy
  else if c.inDark then (c.blank p).answer p .ok
  else ((f c).1.give p (f c).2).answer p .ok

/-- A register read over path `p`. -/
def State.askRead (s : State) (p : Path) (f : Chip → Chip × Word) : Out := s.run fun c => c.askRead p f

/-- Pushes a skip record; a full queue loses it. -/
def Chip.pushSkip (c : Chip) (r : SkipRec) : Chip :=
  if c.cues.skipq.length < 16 then { c with cues := { c.cues with skipq := c.cues.skipq ++ [r] } }
  else { c with cues := { c.cues with skipLost := true } }

/-- Pushes an IRQ record; a full queue loses it. -/
def Chip.pushIrq (c : Chip) (r : IrqRec) : Chip :=
  if c.cues.irqq.length < 32 then { c with cues := { c.cues with irqq := c.cues.irqq ++ [r] } }
  else { c with cues := { c.cues with irqLost := true } }

/-- A word made of fields. -/
def packFields (l : List (Field × Nat)) : Word := l.foldl (fun w x => x.1.write w x.2) 0

/-- Pops a skip record: the word read, and the record's tick on CUE_SKIPT (Tables 2-9, 2-10). -/
def Chip.popSkip (c : Chip) : Chip × Word :=
  match c.cues.skipq with
  | [] => (c, 0)
  | r :: l =>
    let w := packFields [(CUE_SKIPQ_VALID, 1), (CUE_SKIPQ_OVF, c.cues.skipLost.toNat), (CUE_SKIPQ_TB, r.tb),
      (CUE_SKIPQ_ENTRY, r.entry)]
    ({ c.put CUE_SKIPT_TICK r.tick with cues := { c.cues with skipq := l, skipLost := false } }, w)

/-- CUE_SKIPQ_POP. -/
def execCueSkipqPop (p : Path) (s : State) : Out := s.askRead p Chip.popSkip

/-- Pops an IRQ record (Table 2-11). -/
def Chip.popIrq (c : Chip) : Chip × Word :=
  match c.cues.irqq with
  | [] => (c, 0)
  | r :: l =>
    let w := packFields [(CUE_IRQQ_VALID, 1), (CUE_IRQQ_OVF, c.cues.irqLost.toNat), (CUE_IRQQ_ENTRY, r.entry),
      (CUE_IRQQ_TAG, r.tag)]
    ({ c with cues := { c.cues with irqq := l, irqLost := false } }, w)

/-- CUE_IRQQ_POP. -/
def execCueIrqqPop (p : Path) (s : State) : Out := s.askRead p Chip.popIrq

/-- An entry with an uncorrectable ECC error: freed, reported with TB 0x1F, and SRAM_ECC raised (R50).  It has no crossing:
CUE_SKIPT shows the wall tick of the loss (DESIGN CHOICE, log entry 15). -/
def Chip.cueEccLoss (c : Chip) (k : Nat) : Chip := ((c.setCue k 0).pushSkip ⟨k, 0x1F, c.wall⟩).raise 0xF0

/-- A read of a cue entry's word: the stored half, or 0 with the loss of the entry (R377). -/
def Chip.cueRead (c : Chip) (k : Nat) (upper eccBad : Bool) : Chip × Word :=
  if eccBad then (c.cueEccLoss k, 0)
  else (c, if upper then (c.cue k >>> 32).truncate 32 else (c.cue k).truncate 32)

/-- CUE_ENTRY_READ. -/
def execCueEntryRead (p : Path) (k : EntryIx) (upper eccBad : Bool) (s : State) : Out :=
  s.askRead p fun c => c.cueRead k.val upper eccBad

/-- Free entries of a half: 8,192 less the entries that hold a cue (Table 2-8). -/
def Chip.cueFree (c : Chip) (half : Nat) : Nat := 8192 - (c.cues.sheet.filter fun x => x.1 / 8192 == half).length

/-! ### Firing (R47 to R50) -/

/-- What an action acts on, by kind and number: cues of one tick with the same target are applied in order (R49). -/
def fireTarget (f : Fire) : Nat × Nat :=
  let arg := cueArg f.cue
  match cueAction f.cue with
  | 1 | 2 | 3 => (0, arg % 32)
  | 5 => (1, arg % 2)
  | 6 | 7 | 11 => (cueAction f.cue, arg % 8)
  | 8 => (2, arg % 16)
  | 9 => (3, arg % 32)
  | n => (n + 16, 0)

/-- The firing of entry `k` that waits with action `action`, with the firings before it that act on the same target (R49);
in DARK no cue fires (R33), and after tick t + 2 it is skipped (R50). -/
def Chip.firesOf (c : Chip) (k : EntryIx) (action : Nat) : List Fire :=
  if c.inDark then []
  else match c.cues.fires.find? fun f => f.entry == k.val && cueAction f.cue == action && decide (c.now ≤ f.since + 2) with
    | none => []
    | some f =>
      ((c.cues.fires.takeWhile (· != f)).filter fun g =>
        fireTarget g == fireTarget f && decide (c.now ≤ g.since + 2)) ++ [f]

/-- The firing has been carried out. -/
def Chip.endFire (c : Chip) (f : Fire) : Chip := { c with cues := { c.cues with fires := c.cues.fires.erase f } }

/-- A cue that fired without effect sets NOOP of its timebase (R39). -/
def Chip.noop (c : Chip) (f : Fire) : Chip := c.mark (CUE_TB_STAT_NOOP f.tb)

/-- CUE_SKIP (R50): a firing of entry `k` that cannot come by the end of tick t + 2 is counted, queued and reported; an
entry that the scanner cannot read is lost. -/
def Chip.cueSkip (c : Chip) (k : EntryIx) (eccBad : Bool) : Chip :=
  let c := match c.cues.fires.find? (fun f => f.entry == k.val && decide (f.since + 2 ≤ c.now)) with
    | none => c
    | some f => ((((c.endFire f).bump (CUE_TB_SKIP_SKIPS f.tb) 1).pushSkip ⟨k.val, f.tb, f.tick⟩).raise 0xEF)
  if eccBad then c.cueEccLoss k.val else c

/-- CUE_SKIP. -/
def execCueSkip (k : EntryIx) (eccBad : Bool) (s : State) : Out := s.run fun c => c.cueSkip k eccBad

/-- The port a port action names. -/
def firePort (f : Fire) : Port := ⟨cueArg f.cue % 32, by omega⟩

/-- Drives an output port; a level set by an action ends a running pulse (R38). -/
def Chip.driveOut (c : Chip) (p : Port) (high : Bool) (until? : Option Nat) : Chip :=
  (c.putF (FP_STAT_LEVEL p.val) high).setPort p { c.port p with pulseEnd := until? }

/-- PORT_SET, PORT_CLR and PORT_PULSE (Table 2-3, R38): high, low, or high for W ticks; a running pulse starts anew. -/
def Chip.portFire (c : Chip) (f : Fire) : Chip :=
  match cueAction f.cue with
  | 1 => c.driveOut (firePort f) true none
  | 2 => c.driveOut (firePort f) false none
  | _ => c.driveOut (firePort f) true (some (c.now + cueArg f.cue / 32))

/-- PORT_PULSE_END: a running pulse's width, which holds to one tick, expires and the port returns low. -/
def Chip.portPulseEnd (c : Chip) (p : Port) : Chip :=
  match (c.port p).pulseEnd with
  | some t => if t ≤ c.now + 1 then c.driveOut p false none else c
  | none => c

/-- PORT_PULSE_END. -/
def execPortPulseEnd (p : Port) (s : State) : Out := s.run fun c => c.portPulseEnd p

/-- A 64-bit tick count into a register pair. -/
def Chip.putTick (c : Chip) (a : Nat) (t : Nat) : Chip := c.put64 a t

/-- A bit as it stands, or as the present tick found it where a write of this tick has cleared it (R7). -/
def Chip.stillSet (c : Chip) (f : Field) : Bool := c.flag f || f.read (cellsGet regReset c.tickRegs f.addr) != 0

/-- CAPTURE (R56): the slot is overwritten; OVF when FULL was still set. -/
def Chip.capture (c : Chip) (f : Fire) : Chip :=
  let k := cueArg f.cue % 16
  let full := c.stillSet (CUE_CAP_STAT_FULL k)
  let c := (c.putTick (CUE_CAP_TICK k) f.tick).put (CUE_CAP_VALUE_VALUE k) f.named.toNat
  let c := (c.mark (CUE_CAP_STAT_FULL k)).markIf full (CUE_CAP_STAT_OVF k)
  (c.put (CUE_CAP_STAT_TB k) (cueArg f.cue / 256 % 32)).put (CUE_CAP_STAT_ENTRY k) f.entry

/-- IRQ: pushes entry and tag, which asserts nINT. -/
def Chip.irqFire (c : Chip) (f : Fire) : Chip := c.pushIrq ⟨f.entry, cueArg f.cue % 256⟩

end Sys2Proof.Machine
end

