-- ==== Sys2Proof/Machine/Timebase.lean ====
section
/-! DEFINITION. The timebases (02_cue_sheet.md, R28 to R33) and the scanners (R46 to R48): feeding a source value, one
tick of a timebase, jumps, and the crossings of one tick.  The command TIMEBASE_SAMPLE stands in Scan.lean. -/
namespace Sys2Proof.Machine

/-- All ports. -/
def allPorts : List Port := List.finRange 32

/-- Port `p` leads an enabled group of function `func` (Table 6-1). -/
def Chip.leads (c : Chip) (p : Port) (func : Nat) : Bool :=
  c.flag (FP_CFG_EN p.val) && c.get (FP_CFG_FUNC p.val) == func && c.get (FP_CFG_ROLE p.val) == 0

/-- The scaled source count of an emulation output (R153). -/
def Chip.emuScaled (c : Chip) (p : Port) : Int :=
  (c.port p).emuX * 4 * ((c.get (FP_EMU_LINES p.val) : Int) + 1) / (2 ^ 32 : Int)

/-- The counts owed, signed. -/
def Chip.owed (c : Chip) (p : Port) : Int := signed 64 (c.get64 (FP_OWED p.val))

/-- Takes `n` counts from the front of a list of owed ones. -/
def takeOwed : Nat → List (Nat × Nat) → List (Nat × Nat)
  | _, [] => []
  | n, (t, k) :: l => if k ≤ n then takeOwed (n - k) l else (t, k - n) :: l

/-- The owed counts of debt `o` after the source has moved by `d` counts in tick `t` (R154): they grow with the debt; a
reversal shrinks the debt first, the latest counts before the older ones (DESIGN CHOICE, log entry 77). -/
def oweMove (l : List (Nat × Nat)) (o d : Int) (t : Nat) : List (Nat × Nat) :=
  if d = 0 then l
  else if 0 ≤ o * d then l ++ [(t, d.natAbs)]
  else if d.natAbs < o.natAbs then (takeOwed d.natAbs l.reverse).reverse
  else if o + d = 0 then [] else [(t, (o + d).natAbs)]

/-- EMU_LAG ends when no count has been owed for longer than 2 µs (R154). -/
def Chip.lagEnds (c : Chip) (p : Port) : Chip :=
  if (c.port p).owes.any fun x => decide (x.1 + 500 < c.now) then c else c.put (FP_STAT_EMU_LAG p.val) 0

/-- The source of an emulation output moves by `d` counts, by motion or by a jump; the steps owed follow, so that
emitted plus owed stays the scaled source count (R153). -/
def Chip.emuMove (c : Chip) (p : Port) (d : Int) : Chip :=
  let x := c.port p
  let before := c.emuScaled p
  let o := c.owed p
  let c := c.setPort p { x with emuX := x.emuX + d }
  let m := c.emuScaled p - before
  let c := c.setPort p { c.port p with owes := oweMove x.owes o m c.now }
  (c.add64 (FP_OWED p.val) m).lagEnds p

/-- The emulation outputs that follow timebase `n`. -/
def Chip.emusOf (c : Chip) (n : Tb) : List Port :=
  allPorts.filter fun p => c.leads p 5 && c.get (FP_EMU_SRC p.val) == n.val

/-- The value a timebase of a linear master takes from the unwrapped count, held at the nearer limit (R31). -/
def Chip.linearSource (c : Chip) (n : Tb) (u : Int) : BitVec 32 :=
  BitVec.ofInt 32 (clampTo (-(2 ^ 31)) (2 ^ 31 - 1) (u * 2 ^ c.get (CUE_TB_CFG_SHIFT n.val)))

/-- The linear product lies outside the range of a timebase (R31). -/
def Chip.linearOver (c : Chip) (n : Tb) (u : Int) : Bool :=
  let p := u * 2 ^ c.get (CUE_TB_CFG_SHIFT n.val)
  decide (p < -(2 ^ 31)) || decide ((2 : Int) ^ 31 - 1 < p)

/-- Pole pairs of an axis (R158). -/
def Chip.poles (c : Chip) (a : Axis) : Nat := c.get (AX_COMCFG_POLES a.val) + 1

/-- The way from one value of timebase `n` to another: the difference on a linear one, the shorter way round on a
wrapping one (R46). -/
def Chip.tbGap (c : Chip) (n : Tb) (v0 v1 : BitVec 32) : Int := if c.linear n.val then v1.toInt - v0.toInt else (v1 - v0).toInt

/-- The source of timebase `n` gives a valid sample `v` (R29, R33), from which the extrapolation starts anew.  `motion`
tells that the value moved with the source and was not set, shifted or corrected: then the source's own direction
follows it, and a timebase that the update leaves ahead in its direction holds until the source has passed it. -/
def Chip.feed (c : Chip) (n : Tb) (v : BitVec 32) (motion : Bool) : Chip :=
  let x := c.tb n
  let d := c.tbGap n x.src v
  let moved := motion && x.seeded && !x.jumpDue && !x.lost
  let srcBack := if !moved then x.srcBack else if d < 0 then true else if 0 < d then false else x.srcBack
  let back := c.flag (CUE_TB_STAT_DIRN n.val)
  let gap := c.tbGap n x.val v
  let ahead := if back then decide (0 < gap) else decide (gap < 0)
  c.setTb n { x with
    src := v, ext := 0, seeded := true, srcBack := srcBack
    holding := moved && srcBack == back && (ahead || (x.holding && gap == 0)) }

/-- The next sample of timebase `n` is a jump (R32). -/
def Chip.jumpNext (c : Chip) (n : Tb) : Chip := c.setTb n { c.tb n with jumpDue := true }

/-- The source of timebase `n` is gone: the timebase becomes STALE at its next sample (R33). -/
def Chip.loseTb (c : Chip) (n : Tb) : Chip := c.setTb n { c.tb n with lost := true }

/-- The source of timebase `n` is back; the first sample is a jump (R32). -/
def Chip.regainTb (c : Chip) (n : Tb) : Chip := c.setTb n { c.tb n with lost := false, jumpDue := true }

/-- How far timebase `n` moves in one tick, for an extrapolation `ext` (R29): toward the source plus extrapolation, by
at most VMAX; not while it holds, and against its direction state only after the source's own direction has
changed. -/
def Chip.tbStep (c : Chip) (n : Tb) (ext : Int) : Int :=
  let x := c.tb n
  let back := c.flag (CUE_TB_STAT_DIRN n.val)
  let gap : Int :=
    if c.linear n.val then clampTo (-(2 ^ 31)) (2 ^ 31 - 1) (x.src.toInt + ext) - x.val.toInt
    else (x.src + BitVec.ofInt 32 ext - x.val).toInt
  let step := clampTo (-(c.vmax n.val : Int)) (c.vmax n.val) gap
  if x.holding || (0 < step && back && x.srcBack) || (decide (step < 0) && !back && !x.srcBack) then 0 else step

/-- The axis whose plausibility source a lag of timebase `n` counts on (R30). -/
def tbAxis (n : Tb) : Option Axis := if n.val < 16 then some ⟨n.val % 8, by omega⟩ else none

/-- The source's speed estimate of this tick, in counts per tick (R30): above VMAX it sets OVS, and the tick that begins
such a lag counts an event for an axis timebase. -/
def Chip.judgeSpeed (c : Chip) (n : Tb) (e : Int) : Chip :=
  let x := c.tb n
  let fast := decide (c.vmax n.val < e.natAbs)
  let c := (c.setTb n { x with speed := e, lagging := fast }).markIf fast (CUE_TB_STAT_OVS n.val)
  match tbAxis n with
  | some a => c.raiseIf (fast && !x.lagging) (srcAxis a 1)
  | none => c

/-- A jump to the source's value (R32): no crossing, JUMP set, DIRN unchanged, the running cues re-armed. -/
def Chip.jumpTb (c : Chip) (n : Tb) : Chip :=
  let x := c.tb n
  let d := c.tbGap n x.val x.src
  let c := c.setTb n { x with
    val := x.src, prev := x.src, ext := 0, jumpDue := false, holding := false, jumped := true, stepJump := true }
  let c := (c.mark (CUE_TB_STAT_JUMP n.val)).put (CUE_TB_STAT_STALE n.val) 0
  (c.each (c.emusOf n) fun c p => c.emuMove p d).rearm n

/-- Motion of one tick, with the source's speed estimate `e` (R28, R29). -/
def Chip.moveTb (c : Chip) (n : Tb) (e : Int) : Chip :=
  let x := c.tb n
  let step := c.tbStep n (x.ext + e)
  let c := c.setTb n { x with prev := x.val, val := x.val + BitVec.ofInt 32 step, ext := x.ext + e }
  let c := if step = 0 then c else c.putF (CUE_TB_STAT_DIRN n.val) (decide (step < 0))
  c.each (c.emusOf n) fun c p => c.emuMove p step

/-- A STALE timebase holds its value (R33). -/
def Chip.holdTb (c : Chip) (n : Tb) : Chip :=
  (c.put (CUE_TB_STAT_STALE n.val) 1).setTb n { c.tb n with
    prev := (c.tb n).val, jumpDue := true, lagging := false, holding := false, speed := 0 }

/-- One tick of TB20: it counts the wall tick; where scanning begins (R305), or where the wall tick was loaded (R357), its
cues take their arm state anew and nothing is crossed.  Such a sample, but for the first, is a jump and shows in JUMP (R32). -/
def Chip.sampleWall (c : Chip) : Chip :=
  let x := c.tb 20
  let v : BitVec 32 := BitVec.ofNat 32 c.wall
  if x.jumpDue && c.cfgOk then
    let c := c.markIf x.seeded (CUE_TB_STAT_JUMP 20)
    (c.setTb 20 { x with prev := v, val := v, jumpDue := false, seeded := true }).rearm 20
  else c.setTb 20 { x with prev := x.val, val := v }

/-- The source's present speed estimate for timebase `n`, which is free (log entry 2); the electrical timebase of an axis
takes that of the mechanical one times the pole pairs (R3). -/
def Chip.estimate (c : Chip) (n : Tb) : Chip × Int :=
  if 8 ≤ n.val ∧ n.val < 16 then (c, c.poles ⟨n.val % 8, by omega⟩ * (c.tb (tbOf (n.val - 8))).speed)
  else (c.useFree, (c.freeVal.truncate 32 : BitVec 32).toInt)

/-- One tick of one timebase: TB20 counts the wall tick; the others are STALE, jump, or move at the speed estimate. -/
def Chip.sampleTb (c : Chip) (n : Tb) : Chip :=
  let x := c.tb n
  if n.val = 20 then c.sampleWall
  else if x.lost || !x.seeded then c.holdTb n
  else
    let (c, e) := c.estimate n
    let c := c.judgeSpeed n e
    if x.jumpDue then c.jumpTb n else c.moveTb n e

/-! ### Scanning (R46 to R48) -/

/-- The direction in which POS is crossed from `v0` to `v1` (R46): 0 not, 1 forward, 2 backward. -/
def crossDir (linear : Bool) (v0 v1 pos : BitVec 32) : Nat :=
  if linear then
    if v0.toInt < pos.toInt && decide (pos.toInt ≤ v1.toInt) then 1
    else if v1.toInt < pos.toInt && decide (pos.toInt ≤ v0.toInt) then 2 else 0
  else
    let s := (v1 - v0).toInt
    if 0 < s && decide (0 < (pos - v0).toNat) && decide (((pos - v0).toNat : Int) ≤ s) then 1
    else if s < 0 && decide (0 < (pos - v1).toNat) && decide (((pos - v1).toNat : Int) ≤ -s) then 2 else 0

/-- The crossing of one running cue in this tick (R47, R48). -/
def Chip.scanCue (c : Chip) (n : Tb) (x : Nat × BitVec 64) : Chip :=
  if cueTb x.2 != n.val || !c.runs x.2 then c
  else
    let v0 := (c.tb n).prev
    let v1 := (c.tb n).val
    let d := crossDir (c.linear n.val) v0 v1 (cuePos x.2)
    let hit := d != 0 && (cueDir x.2 &&& d) != 0
    let off := c.cues.disarmed.contains x.1
    let far := decide (c.spacing n.val ≤ c.cueDist n.val (cuePos x.2) v1)
    let mark (c : Chip) (b : Bool) : Chip :=
      { c with cues := { c.cues with disarmed := markIndex c.cues.disarmed x.1 b } }
    if hit && !off then
      let f : Fire := ⟨x.1, x.2, n.val, c.wall, c.now, v0, v1, c.tbVal (tbOf (cueArg x.2 / 256 % 32))⟩
      mark { c with cues := { c.cues with fires := c.cues.fires ++ [f] } } (!far)
    else
      let c := if hit then c.bump (CUE_TB_STAT_SUPP n.val) 1 else c
      if off && far then mark c false else c

/-- Both halves are scanned, half 0 first, and within a half the lower timebase first (R49); scanning begins after the
lock (R305). -/
def Chip.scanCues (c : Chip) : Chip :=
  if !c.cfgOk then c else c.each [0, 1] fun c half => c.each allTbs fun c n =>
    c.each (c.cues.sheet.filter fun x => x.1 / 8192 == half) fun c x => c.scanCue n x

end Sys2Proof.Machine
end

