-- ==== Sys2Proof/Machine/Slices.lean ====
section
/-! DEFINITION. The charge slices (05_charge_slices.md): close requests, the booking of a window, the understudy's
turns, self-checks and permanent replacement, and the Kirchhoff check.  WINDOW_CLOSE, which also feeds the bus
and the resolvers, stands in Windows.lean. -/
namespace Sys2Proof.Machine

/-! ### Membership and modes -/

/-- All slices. -/
def allSlices : List SliceId := List.finRange 41
/-- All dice with an understudy. -/
def allUDies : List UDie := [0, 1, 2, 3, 4]
/-- The understudy of a die (Table 1-1). -/
def underOf (d : UDie) : SliceId := ⟨if d.val = 4 then 40 else 8 * d.val + 7, by split <;> omega⟩
/-- The die of a slice. -/
def dieOfSlice (k : SliceId) : UDie := ⟨min (k.val / 8) 4, by omega⟩
/-- The slice is an understudy. -/
def isUnder (k : SliceId) : Bool := k == underOf (dieOfSlice k)
/-- The axis of a phase slice, if it is one. -/
def phaseAxis (k : SliceId) : Option Axis :=
  if h : k.val < 32 ∧ k.val % 8 < 6 then some ⟨2 * (k.val / 8) + k.val % 8 / 3, by omega⟩ else none
/-- The three phase slices of an axis. -/
def slicesOfAxis (a : Axis) : List SliceId := (legsOf a).map sliceOfLeg
/-- The slices that close together with `k` in a forced close: a phase slice takes its axis along (R117). -/
def closesWith (k : SliceId) : List SliceId := match phaseAxis k with | some a => slicesOfAxis a | none => [k]
/-- A slice by number; SL40 for a number no slice has. -/
def sliceOf (n : Nat) : SliceId := if h : n < 41 then ⟨n, h⟩ else 40

/-- The slice is enabled. -/
def Chip.sliceOn (c : Chip) (k : SliceId) : Bool := c.flag (SL_CFG_EN k.val)
/-- The close mode of a slice (Table 5-2): 0 BOUNDARY, 1 CUE, 2 FIXED, 3 EXC. -/
def Chip.closeMode (c : Chip) (k : SliceId) : Nat := c.get (SL_CFG_CLOSE k.val)
/-- The working slices of a die that a round serves, in ascending index (R111). -/
def Chip.workers (c : Chip) (d : UDie) : List SliceId :=
  allSlices.filter fun k => dieOfSlice k == d && !isUnder k && c.sliceOn k

/-! ### Close requests (R99 to R101) -/

/-- Requests a scheduled close of a running slice. -/
def Chip.askSched (c : Chip) (k : SliceId) : Chip :=
  if (c.slice k).running then c.setSlice k { c.slice k with reqSched := true } else c

/-- The slices that close together with `k`: while one slice of its axis forms a gap, all three, so that their windows stay
the same (R118; DEDUCED, log entry 11). -/
def Chip.closing (c : Chip) (k : SliceId) : List SliceId :=
  if (closesWith k).any fun m => (c.slice m).gap then closesWith k else [k]

/-- Requests a close by cue. -/
def Chip.askCue (c : Chip) (k : SliceId) : Chip :=
  c.each (c.closing k) fun c m =>
    if (c.slice m).running then c.setSlice m { c.slice m with reqCue := true, frameDue := false } else c

/-- Requests a forced close. -/
def Chip.askForced (c : Chip) (k : SliceId) : Chip :=
  if (c.slice k).running then c.setSlice k { c.slice k with reqForced := true } else c

/-- FIXED_WINDOW_EXPIRY: the length of a FIXED slice has passed since its start or its last scheduled close (R99). -/
def Chip.fixedExpiry (c : Chip) (k : SliceId) : Chip :=
  let x := c.slice k
  if c.closeMode k = 2 ∧ x.fixedFrom + x.wlen ≤ c.now then
    (c.setSlice k { x with fixedFrom := x.fixedFrom + x.wlen }).askSched k
  else c

/-- FIXED_WINDOW_EXPIRY. -/
def execFixedWindowExpiry (k : SliceId) (s : State) : Out := s.run fun c => c.fixedExpiry k

/-- WINDOW_LIMIT: a window reaches 32,510 modulator clocks (R101). -/
def Chip.windowLimit (c : Chip) (k : SliceId) : Chip :=
  if (c.slice k).running && decide ((c.slice k).opened + 130040 ≤ c.now) then
    c.each (c.closing k) fun c m => c.setSlice m { c.slice m with reqLimit := true }
  else c

/-- WINDOW_LIMIT. -/
def execWindowLimit (k : SliceId) (s : State) : Out := s.run fun c => c.windowLimit k

/-- The slices a WIN_CLOSE cue names (Table 2-3). -/
def winTargets (arg : Nat) : List SliceId :=
  if arg < 32768 then [sliceOf (arg % 64)] else slicesOfAxis ⟨arg % 8, by omega⟩

/-- A WIN_CLOSE can act: the slices run, and what it names is enabled (R39). -/
def Chip.winAble (c : Chip) (arg : Nat) : Bool :=
  c.isArmed && (winTargets arg).all c.sliceOn && (decide (arg < 32768) || c.axisOn ⟨arg % 8, by omega⟩)

/-- A cue's close: on the C-die at once, on a D-die by a window-close frame (R100). -/
def Chip.winClose (c : Chip) (k : SliceId) : Chip :=
  if dieOfSlice k = 4 then c.askCue k else c.setSlice k { c.slice k with frameDue := true }

/-- The closes of a firing of WIN_CLOSE. -/
def Chip.winFire (c : Chip) (f : Fire) : Chip := c.each (winTargets (cueArg f.cue)) Chip.winClose

/-- A window-close frame reaches its die: the slices that it names and that wait for it close at the next modulator edge
(R100). -/
def Chip.winFrame (c : Chip) (d : Die) (l : List SliceId) : Chip :=
  c.each (l.filter fun k => (dieOfSlice k).val == d.val && (c.slice k).frameDue) Chip.askCue

/-- The conditions of a runtime write of SL_WLEN (R110). -/
def Chip.wlenConds (c : Chip) (k : SliceId) (data : Word) : List (Bool × Reason) :=
  let v := (SL_WLEN_WLEN k.val).read data
  [(c.closeMode k != 2, .state), (decide (v < 256) || decide (130040 < v), .range)]

/-- SL_WLEN_WRITE: the new length applies from the close of the window in progress (R110). -/
def Chip.wlenWrite (c : Chip) (k : SliceId) (data : Word) : Judged :=
  c.request (c.wlenConds k data) fun c =>
    (c.put (SL_WLEN_WLEN k.val) ((SL_WLEN_WLEN k.val).read data)).setSlice k { c.slice k with lenDue := true }

/-- SL_WLEN_WRITE. -/
def execSlWlenWrite (p : Path) (k : SliceId) (data : Word) (s : State) : Out := s.ask p fun c => c.wlenWrite k data

/-! ### Booking a window (R104 to R109, R114, R118) -/

/-- The 48-bit charge ledger of a slice. -/
def Chip.ledger (c : Chip) (k : SliceId) : Nat :=
  c.get (SL_LEDGER_LEDGER_LO k.val) + 2 ^ 32 * c.get (SL_LEDGERH_LEDGER_HI k.val)

/-- Adds a count to the charge ledger, modulo 2^48 (R107). -/
def Chip.bookLedger (c : Chip) (k : SliceId) (count : Int) : Chip :=
  let v := wrapTo 48 ((c.ledger k : Int) + count)
  (c.put (SL_LEDGER_LEDGER_LO k.val) v).put (SL_LEDGERH_LEDGER_HI k.val) (v / 2 ^ 32)

/-- The fine code at a close: held to 0 and 255 except at a stop (R105, R108). -/
def fineCode (stopping : Bool) (full : Int) : Int := if stopping then full else clampTo 0 255 full

/-- A signed calibration offset (Table 5-15). -/
def Chip.calOfs (c : Chip) (k : SliceId) : Int := c.gets (SL_CAL_OFS k.val)

/-- The count that the understudy `u` books for `x` (R114): the whole part of q, and the fraction carried, as a numerator
over a divisor.  q is put over one divisor of 256 × gain_x and of the old carry's. -/
def Chip.scaled (c : Chip) (u x : SliceId) (raw : Int) (n : Nat) (carry : Int) (carryBy : Nat) : Int × Int × Nat :=
  let gx := c.get (SL_CAL_GAIN x.val)
  let by' := 256 * gx
  let q := (256 * raw - c.calOfs u * n) * c.get (SL_CAL_GAIN u.val) + c.calOfs x * n * gx
  let m := Nat.lcm by' carryBy
  let t := q * (m / by' : Nat) + carry * (m / carryBy : Nat)
  let g := Nat.gcd (t % m).natAbs m
  (t / m, t % m / g, m / g)

/-- The understudy counts for the slice (SL_STAT.SUBNOW). -/
def Chip.subNow (c : Chip) (k : SliceId) : Bool := c.flag (SL_STAT_SUBNOW k.val)

/-- A slice is whole: it counts with its own integrator or is replaced for the moment, without a gap (R119). -/
def Chip.whole (c : Chip) (k : SliceId) : Bool := !(c.slice k).gap && !c.flag (SL_STAT_PERM k.val)

/-- The other two phase slices of a phase slice's axis. -/
def mates (k : SliceId) : List SliceId := (closesWith k).filter (· != k)

/-- The gap windows of `k` are reconstructed: a phase slice whose two mates are whole (R118, R119). -/
def Chip.reconOk (c : Chip) (k : SliceId) : Bool := (phaseAxis k).isSome && (mates k).all c.whole

/-- Modulator clocks of the present window, which is closed at this edge (R99). -/
def Chip.clocksOf (c : Chip) (k : SliceId) : Nat := (c.now - (c.slice k).opened) / 4

/-- An integrator's figures over `n` clocks: at most one packet at each edge, at most ±256 packets of excess, and clamp
clocks inside the window (R97, R106). -/
def windowFits (w : Window) (n : Nat) : Bool :=
  decide (w.packets.natAbs ≤ n) && decide ((w.full - clampTo 0 255 w.full).natAbs ≤ 65536) && decide (w.clampClocks ≤ n) &&
    decide (w.clampEntries ≤ w.clampClocks)

/-- What one window of a working slice yields, with the new carry of R114 and the excess behind it.  A gap is reconstructed
from the windows that the mates closed at the same edge, or counts 0 with CHK (R118, R119); a substituted slice takes
its understudy's window, scaled, with the excess of that integrator in its own packets (R107); else the slice's own
integrator counts (R104). -/
def Chip.windowOf (c : Chip) (k : SliceId) (w : Window) : Result × (Int × Nat) × Int :=
  let x := c.slice k
  let n := c.clocksOf k
  if x.gap then
    if c.reconOk k then
      (⟨-((mates k).map fun m => (c.slice m).closed.count).sum, n, false, decide (0 < x.settle), true, true⟩,
        (x.carry, x.carryBy), 0)
    else (⟨0, n, false, decide (0 < x.settle), false, true⟩, (x.carry, x.carryBy), 0)
  else if c.subNow k then
    let u := underOf (dieOfSlice k)
    let r := (c.slice u).closed
    let (q, carry) := c.scaled u k r.count r.clocks x.carry x.carryBy
    (⟨q, r.clocks, r.ovr, false, true, false⟩, carry,
      (c.slice u).excess * c.get (SL_CAL_GAIN u.val) / c.get (SL_CAL_GAIN k.val))
  else
    let fine := fineCode x.stopping w.full
    (⟨256 * w.packets + fine - x.fStart, n, decide (w.full < 0) || decide (255 < w.full),
      decide (0 < x.settle), false, false⟩, (x.carry, x.carryBy), w.full - fine)

/-- The cause code of SL_RES.CLS: the highest cause requested (R99). -/
def SliceState.cause (x : SliceState) : Nat :=
  if x.reqForced || x.stopping then 3 else if x.reqCue then 1 else if x.reqSched then 0 else 2

/-- Some close is requested. -/
def SliceState.asked (x : SliceState) : Bool :=
  x.reqForced || x.stopping || x.reqCue || x.reqSched || x.reqLimit

/-- The result of a window stands in SL_RES and SL_RLEN (Tables 5-10, 5-11). -/
def Chip.putResult (c : Chip) (k : SliceId) (r : Result) (cause : Nat) : Chip :=
  let c := c.setReg (SL_RES k.val) (packFields
    [(SL_RES_OVR k.val, r.ovr.toNat), (SL_RES_SETL k.val, r.setl.toNat), (SL_RES_SUB k.val, r.sub.toNat),
     (SL_RES_CHK k.val, r.chk.toNat), (SL_RES_CLS k.val, cause), (SL_RES_COUNT k.val, wrapTo 24 r.count)])
  (c.put (SL_RLEN_LEN k.val) r.clocks).addWrap (SL_RLEN_SEQ k.val) 1

/-- Two results of one interval joined (R102). -/
def Result.join (a b : Result) : Result :=
  ⟨a.count + b.count, a.clocks + b.clocks, a.ovr || b.ovr, a.setl || b.setl, a.sub || b.sub, a.chk || b.chk⟩

/-- A closed window's report goes up: on a D-die it waits for its frame, and the C-die takes its own at once (R103). -/
def Chip.sendReport (c : Chip) (k : SliceId) (r : Report) : Chip :=
  c.setSlice k { c.slice k with reports := (c.slice k).reports ++ [r] }

/-- Clamp clocks and entries of a window (R106). -/
def Chip.bookClamp (c : Chip) (k : SliceId) (r : Report) : Chip :=
  let c := c.bump (SL_CLAMP_CLOCKS k.val) r.clampClocks
  if r.clampEntries = 0 then c
  else (c.mark (SL_STAT_CLAMP k.val)).report (srcSlice k) r.clampEntries 0 0 false

/-- A window's report stands at the C-die (R102 to R107): result, ledger, excess, clamp, gap clocks, and the interval. -/
def Chip.takeReport (c : Chip) (k : SliceId) (r : Report) : Chip :=
  let x := c.slice k
  let cur := x.cur.join r.res
  let c := (c.putResult k r.res r.cause).bookLedger k r.res.count
  let c := (c.puts (SL_EXCESS_EXCESS k.val) r.excess).bookClamp k r
  let c := if r.gapClocks = 0 then c else c.bump (SL_GAP_CLOCKS k.val) r.gapClocks
  c.setSlice k { c.slice k with
    cur := if r.sched || r.stop then {} else cur
    last := if r.sched then cur else x.last
    fresh := x.fresh || r.sched }

/-- The window of a slice closes at this edge with figures `w`, with cause `cause`, ending an interval if `sched`: the next
one opens, and the report goes up.  At a stop the slice halts with an empty integrator (R108), and the interval it was
in is not completed (R102). -/
def Chip.closeSlice (c : Chip) (k : SliceId) (w : Window) (cause : Nat) (sched : Bool) : Chip :=
  let x := c.slice k
  let (r, carry, excess) := c.windowOf k w
  let own := !x.gap && !c.subNow k
  let rep : Report :=
    { res := r, cause := cause, excess := excess, opened := x.opened, shut := c.now
      clampClocks := if own then w.clampClocks else 0, clampEntries := if own then w.clampEntries else 0
      gapClocks := if r.chk && !r.sub then r.clocks else 0, sched := sched && !x.stopping, stop := x.stopping }
  (c.setSlice k { x with
    running := !x.stopping
    stopping := false
    waits := false
    opened := c.now
    fStart := if x.stopping then 0 else fineCode false w.full
    reqSched := false, reqCue := false, reqLimit := false, reqForced := false
    settle := if x.lenDue then max 1 (x.settle - 1) else x.settle - 1
    wlen := if x.lenDue then c.get (SL_WLEN_WLEN k.val) else x.wlen
    fixedFrom := if x.lenDue then c.now else x.fixedFrom
    lenDue := false
    carry := carry.1, carryBy := carry.2
    closed := r, excess := excess }).sendReport k rep

/-! ### Failure and replacement (R117 to R119) -/

/-- The understudy's register block index. -/
def underIx (d : UDie) : Nat := (underOf d).val

/-- The understudy is free to replace a slice. -/
def Chip.spare (c : Chip) (d : UDie) : Bool := !c.flag (US_STAT_PERM (underIx d)) && !(c.under d).failed

/-- RECON shows for each slice of an axis whether it is booked by reconstruction, and SUSP whether one of them is (R118,
R120). -/
def Chip.showGaps (c : Chip) (k : SliceId) : Chip :=
  let recon (m : SliceId) : Bool := (c.slice m).gap && c.reconOk m
  let c' := c.each (closesWith k) fun c m => c.putF (SL_STAT_RECON m.val) (recon m)
  match phaseAxis k with
  | some a => c'.putF (AX_KIRCHS_SUSP a.val) ((closesWith k).any recon)
  | none => c'

/-- Windows of `k` form a gap from now on, or no longer (R118). -/
def Chip.setGap (c : Chip) (k : SliceId) (b : Bool) : Chip := (c.setSlice k { c.slice k with gap := b }).showGaps k

/-- A slice that is being substituted for the moment is to be handed back at a forced close (R117). -/
def Chip.handBackSoon (c : Chip) (k : SliceId) : Chip :=
  (c.each (closesWith k) Chip.askForced).setSlice k
    { (c.each (closesWith k) Chip.askForced).slice k with back := true }

/-- The turn in progress ends without a hand-back of its own. -/
def UnderState.idle (u : UnderState) : UnderState :=
  { u with target := none, left := 0, retried := false, selfCal := false, newCal := none, calDone := false }

/-- The understudy runs at the range of slice `k`: its first two windows after a change carry SETL (R109). -/
def Chip.underRange (c : Chip) (k : SliceId) : Chip :=
  let u := underOf (dieOfSlice k)
  let g := c.get (SL_CFG_RANGE k.val)
  if (c.slice u).range = g then c else c.setSlice u { c.slice u with range := g, settle := 2 }

/-- A permanent replacement of `k` begins (R117): a slice that the understudy is substituting goes back, `k` and its
axis close, and the settle windows run.  A slice that the understudy counts for already stays with it, without a gap. -/
def Chip.replace (c : Chip) (k : SliceId) : Chip :=
  let d := dieOfSlice k
  let u := c.under d
  let own := u.target == some k.val && c.subNow k
  let c := match u.target with
    | some y => if y != k.val && c.subNow (sliceOf y) then c.handBackSoon (sliceOf y) else c
    | none => c
  let c := ((((c.put (SL_STAT_PERM k.val) 1).put (US_STAT_PERM (underIx d)) 1).put (US_STAT_HALTED (underIx d)) 1).put
    (US_STAT_TARGET (underIx d)) k.val).put (US_STAT_STEP (underIx d)) 0
  if own then (c.setUnder d { u.idle with turns := [] }).showGaps k
  else
    let c := c.setUnder d { u.idle with turns := [], settling := some k.val, settleFrom := none, settled := false }
    (c.each (closesWith k) Chip.askForced).setGap k true

/-- A working slice without a spare (R119): reconstructed while its mates are whole, else CHK without SUB with a count of
0 (DESIGN CHOICE, log entry 11). -/
def Chip.noSpare (c : Chip) (k : SliceId) : Chip := (c.each (closesWith k) Chip.askForced).setGap k true

/-- The understudy itself fails (R119): the round stops; the slice it stands in for, for the moment or for good, is booked
under R118 until it returns to its own integrator at a forced close. -/
def Chip.underFails (c : Chip) (d : UDie) : Chip :=
  let u := c.under d
  let c := (c.put (US_STAT_HALTED (underIx d)) 1).put (US_STAT_STEP (underIx d)) 0
  let served := match u.settling with
    | some k => some (sliceOf k)
    | none => allSlices.find? fun k => dieOfSlice k == d && c.subNow k
  let c := c.setUnder d { u.idle with turns := [], failed := true, settling := none, settleFrom := none, settled := false }
  match served with
  | some k => (c.handBackSoon k).setGap k true
  | none => c

/-- A slice fails a check: its bit, one event of its source, and replacement (R117, R119, R123). -/
def Chip.sliceFails (c : Chip) (k : SliceId) (bit : Field) : Chip :=
  let c := (c.mark bit).raise (srcSlice k)
  if isUnder k then c.underFails (dieOfSlice k)
  else if c.flag (SL_STAT_PERM k.val) || (c.slice k).gap then c
  else if c.spare (dieOfSlice k) then c.replace k
  else c.noSpare k

/-- The bit of a check (Table 5-18). -/
def checkBit (k : SliceId) (x : SliceCheck) : Field :=
  match x with
  | .stuck => SL_STAT_STUCK k.val
  | .sat => SL_STAT_SAT k.val
  | .cal => SL_STAT_CAL k.val

/-- SLICE_CHECK_FAIL. -/
def execSliceCheckFail (k : SliceId) (x : SliceCheck) (s : State) : Out :=
  s.run fun c => if (c.slice k).running then c.sliceFails k (checkBit k x) else c

/-- The two settle windows of 1 µs end: a second forced close follows, at which the understudy takes over (R117). -/
def Chip.settleEnd (c : Chip) (d : UDie) : Chip :=
  let u := c.under d
  match u.settling, u.settleFrom with
  | some k, some t =>
    if t + 500 ≤ c.now then
      (c.setUnder d { u with settled := true }).each (closesWith (sliceOf k)) Chip.askForced
    else c
  | _, _ => c

/-- UNDERSTUDY_SETTLE_END. -/
def execUnderstudySettleEnd (d : UDie) (s : State) : Out := s.run fun c => c.settleEnd d

/-- The forced closes of a replacement (R117): at the first, the understudy takes the slice's input and range and settles;
at the second, the gap ends and the understudy counts from its fine code of that moment. -/
def Chip.takeOver (c : Chip) (k : SliceId) : Chip :=
  let d := dieOfSlice k
  let v := c.under d
  let u := underOf d
  if v.settling != some k.val then c
  else if v.settled then
    let c := (c.put (SL_STAT_SUBNOW k.val) 1).setUnder d { v with settling := none, settleFrom := none, settled := false }
    (c.setSlice u { c.slice u with running := true, opened := c.now, settle := 0 }).setGap k false
  else if v.settleFrom.isNone then (c.setUnder d { v with settleFrom := some c.now }).underRange k
  else c

/-! ### The understudy's round (R111 to R116) -/

/-- The round's period in ticks (R111). -/
def Chip.roundTicks (c : Chip) (d : UDie) : Nat := 250000 * c.get (US_CFG_ROUND (underIx d))

/-- A round starts: turn j of its W working slices may begin from j × ROUND / W on; the turns queue behind those still to
run (R111). -/
def Chip.beginRound (c : Chip) (d : UDie) : Chip :=
  if c.flag (US_CFG_ENA (underIx d)) && c.isArmed && !c.flag (US_STAT_HALTED (underIx d)) then
    let l := c.workers d
    let times := (List.range l.length).map fun j => c.now + j * c.roundTicks d / l.length
    c.setUnder d { c.under d with roundFrom := c.now, turns := (c.under d).turns ++ (l.map (·.val)).zip times }
  else c

/-- ROUND_START: the next round, one period after the last (R111). -/
def Chip.roundStart (c : Chip) (d : UDie) : Chip :=
  if (c.under d).roundFrom + c.roundTicks d ≤ c.now then c.beginRound d else c

/-- ROUND_START. -/
def execRoundStart (d : UDie) (s : State) : Out := s.run fun c => c.roundStart d

/-- TURN_START: the next turn begins at a close of its target, at or after its start time and when no turn runs (R111); the
understudy takes the target's input and range and settles.  Its own windows go on from its last fine code (DESIGN CHOICE,
log entry 11). -/
def Chip.turnStart (c : Chip) (d : UDie) : Chip :=
  let u := c.under d
  match u.turns with
  | [] => c
  | (k, t) :: l =>
    if u.target.isSome || c.flag (US_STAT_HALTED (underIx d)) || !c.isArmed || decide (c.now < t) ||
        (c.slice (sliceOf k)).opened != c.now then c
    else
      let c := (c.put (US_STAT_TARGET (underIx d)) k).put (US_STAT_STEP (underIx d)) 1
      let c := c.setUnder d { u with turns := l, target := some k, left := 2, retried := false, calDone := false
                                     newCal := none }
      (c.setSlice (underOf d) { c.slice (underOf d) with running := true, opened := c.now }).underRange (sliceOf k)

/-- TURN_START. -/
def execTurnStart (d : UDie) (s : State) : Out := s.run fun c => c.turnStart d

/-- The slice beside which the understudy of a die closes its windows: the one that it counts for, or that it measures
alongside (R112, Table 5-4). -/
def Chip.beside (c : Chip) (d : UDie) : Option SliceId :=
  let u := c.under d
  if u.failed then none
  else match allSlices.find? fun k => dieOfSlice k == d && c.subNow k with
    | some k => some k
    | none => if u.selfCal then none else u.target.map sliceOf

/-- A comparison passes (R113): `raw` and `n` of the understudy, scaled with the fraction that the target carries, and `r`
of the target. -/
def Chip.agrees (c : Chip) (d : UDie) (k : SliceId) (r : Int) (raw : Int) (n : Nat) : Bool :=
  let q := (c.scaled (underOf d) k raw n (c.slice k).carry (c.slice k).carryBy).1
  decide (16 * (r - q).natAbs ≤ c.get (US_CFG_TOL (underIx d)) * n)

/-- The measurement goes back to the target, which counts from the understudy's last fine code (R114). -/
def Chip.handBack (c : Chip) (k : SliceId) : Chip :=
  let u := underOf (dieOfSlice k)
  (c.put (SL_STAT_SUBNOW k.val) 0).setSlice k
    { (c.slice k) with fStart := (c.slice u).fStart, back := false }

/-- A turn ends; the last slice of the round completes it. -/
def Chip.turnEnd (c : Chip) (d : UDie) (k : SliceId) : Chip :=
  let c := if (c.workers d).getLast? == some k then c.addWrap (US_STAT_ROUNDS (underIx d)) 1 else c
  (c.put (US_STAT_STEP (underIx d)) 0).setUnder d (c.under d).idle

/-- The step of the turn in progress. -/
def Chip.turnAt (c : Chip) (d : UDie) : Nat := c.get (US_STAT_STEP (underIx d))

/-- Enters a step of the turn. -/
def Chip.toStep (c : Chip) (d : UDie) (n : Nat) : Chip := c.put (US_STAT_STEP (underIx d)) n

/-- TURN_STEP (R112 to R115): at a close of the target `k`, whose own integrator gave the count `own` over the window, the
turn moves on.  `shadow` tells that the understudy's count, scaled, agrees with it (R113). -/
def Chip.turnStep (c : Chip) (k : SliceId) (shadow : Bool) : Chip :=
  let d := dieOfSlice k
  let u := c.under d
  if u.target != some k.val || u.selfCal then c
  else match c.turnAt d with
    | 1 => if u.left ≤ 1 then c.toStep d 2 else c.setUnder d { u with left := u.left - 1 }
    | 2 =>
      if shadow then c.toStep d 3
      else if u.retried then (c.mark (SL_STAT_SHADOW k.val)).sliceFails k (SL_STAT_CAL k.val)
      else (c.mark (SL_STAT_SHADOW k.val)).setUnder d
        { u with retried := true, selfCal := true, selfZero := false, calFrom := c.now }
    | 3 =>
      let c := ((c.put (SL_STAT_SUBNOW k.val) 1).toStep d 4).setUnder d { u with calFrom := c.now }
      c.setSlice (underOf d) { c.slice (underOf d) with fStart := (c.slice k).fStart }
    | 5 => if u.calDone then c.toStep d 6 else c
    | 6 => if shadow then c.toStep d 7 else (c.mark (SL_STAT_SHADOW k.val)).sliceFails k (SL_STAT_CAL k.val)
    | 7 =>
      let c := c.handBack k
      let c := match u.newCal with
        | some w => (c.setReg (SL_CAL k.val) w).put (SL_CALT_TICK k.val) c.wall
        | none => c
      c.turnEnd d k
    | _ => c

/-- A zero reading within ±1 % of full scale, in 2^-16 packet per clock (R115). -/
def zeroOk (v : BitVec 16) : Bool := decide (v.toInt.natAbs ≤ 655)

/-- A gain reading within ±3 % of nominal, in Q1.15 (R115). -/
def gainOk (v : BitVec 16) : Bool := decide (31785 ≤ v.toNat) && decide (v.toNat ≤ 33751)

/-- The understudy's own calibration before a retry (R113): its zero reading, then its reference reading, after which
SL_CAL and SL_CALT of the understudy are written and steps 1 to 3 come again; the window in progress is not one of
step 1's. -/
def Chip.selfCalEnd (c : Chip) (d : UDie) (v : BitVec 16) : Chip :=
  let u := c.under d
  if !u.selfZero then c.setUnder d { u with selfZero := true, zeroRead := v, calFrom := c.now }
  else
    let c := (c.setReg (SL_CAL (underIx d)) (v ++ u.zeroRead)).put (SL_CALT_TICK (underIx d)) c.wall
    (c.toStep d 1).setUnder d { u with selfCal := false, left := 3 }

/-- CALIBRATION_END (R112, R113, R115): after CAL_MS ms, the understudy's own calibration before a retry, the target's zero
reading, or its reference reading; a failed calibration fails the CAL check. -/
def Chip.calibrationEnd (c : Chip) (d : UDie) (v : BitVec 16) : Chip :=
  let u := c.under d
  if c.now < u.calFrom + 250000 * c.get (US_CFG_CAL_MS (underIx d)) then c
  else match u.target with
  | none => c
  | some k =>
    if u.selfCal then c.selfCalEnd d v
    else match c.turnAt d with
      | 4 => (c.toStep d 5).setUnder d { u with zeroRead := v, calFrom := c.now }
      | 5 =>
        if u.calDone then c
        else if zeroOk u.zeroRead && gainOk v then
          c.setUnder d { u with newCal := some (v ++ u.zeroRead), calDone := true }
        else c.sliceFails (sliceOf k) (SL_STAT_CAL k)
      | _ => c

/-- CALIBRATION_END. -/
def execCalibrationEnd (d : UDie) (v : BitVec 16) (s : State) : Out := s.run fun c => c.calibrationEnd d v

/-! ### Start and stop (R108, R111, R116) -/

/-- The first modulator edge at or after this tick: the wall tick is a multiple of 4 there (R97). -/
def Chip.nextEdge (c : Chip) : Nat := c.now + (4 - c.wall % 4) % 4

/-- A slice starts with an empty integrator; its first two windows settle (R108, R109). -/
def Chip.startSlice (c : Chip) (k : SliceId) : Chip :=
  if c.sliceOn k || isUnder k then
    c.setSlice k { c.slice k with
      running := true, stopping := false, opened := c.nextEdge, fStart := 0, settle := 2, waits := false
      wlen := c.get (SL_WLEN_WLEN k.val), fixedFrom := c.now, lenDue := false
      reqSched := false, reqCue := false, reqLimit := false, reqForced := false
      fresh := false, frameDue := false }
  else c

/-- A running slice is to close at once and stop (R108); one that is substituted for the moment takes its integrator
back at that close (R116). -/
def Chip.stopSlice (c : Chip) (k : SliceId) : Chip :=
  let x := c.slice k
  if x.running then
    c.setSlice k { x with stopping := true, reqForced := true
                          back := x.back || (c.subNow k && !c.flag (SL_STAT_PERM k.val)) }
  else c

/-- The first rounds start (R111), or restart after a stop (R116). -/
def Chip.startRounds (c : Chip) : Chip :=
  c.each allUDies fun c d => (c.setUnder d { (c.under d).idle with turns := [] }).beginRound d

/-- The turns in progress are abandoned (R116). -/
def Chip.stopRounds (c : Chip) : Chip :=
  c.each allUDies fun c d => (c.toStep d 0).setUnder d { (c.under d).idle with turns := [] }

/-! ### Kirchhoff (R120) -/

/-- One interval of an axis is judged. -/
def Chip.kirchhoff (c : Chip) (a : Axis) : Chip :=
  let x := c.axis a
  let rs := (slicesOfAxis a).map fun k => (c.slice k).last
  let bad := rs.any fun r => r.ovr || r.setl || r.chk
  let susp := c.flag (AX_KIRCHS_SUSP a.val)
  let sum := (rs.map (·.count)).sum
  let n := (rs.map (·.clocks)).headD 0
  let out := decide (c.get (AX_KIRCH_BAND a.val) * n < 16 * sum.natAbs)
  if !c.flag (AX_KIRCH_ENA a.val) || susp || bad || !out then c.setAxis a { x with kirchRun := 0 }
  else
    let c := c.bump (AX_KIRCHS_FAILS a.val) 1
    if c.get (AX_KIRCH_PERSIST a.val) ≤ x.kirchRun + 1 then
      (c.setAxis a { x with kirchRun := 0 }).raise (srcAxis a 0)
    else c.setAxis a { x with kirchRun := x.kirchRun + 1 }

/-- When the three phase slices of an axis have each delivered an interval, it is judged. -/
def Chip.kirchCheck (c : Chip) (k : SliceId) : Chip :=
  match phaseAxis k with
  | none => c
  | some a =>
    if (slicesOfAxis a).all fun m => (c.slice m).fresh then
      (c.each (slicesOfAxis a) fun c m => c.setSlice m { c.slice m with fresh := false }).kirchhoff a
    else c

end Sys2Proof.Machine
end

