-- ==== Sys2Proof/Machine/Sources.lean ====
section
/-! DEFINITION. Position sources (07_commutation.md, R158 to R169): what a source yields, the axis timebases that follow
it, the learned offset, the loss of a source, the switch-over and the return. -/
namespace Sys2Proof.Machine

/-! ### Open results -/

/-- A quotient whose rounding the spec does not give: exact where it is exact, else the floor or the next integer,
which one being free (log entry 2). -/
def Chip.divFree (c : Chip) (n d : Int) : Chip × Int :=
  if n % d = 0 then (c, n / d) else (c.useFree, n / d + (if c.freeVal.getLsbD 0 then 1 else 0))

/-- A free choice. -/
def Chip.pick (c : Chip) : Chip × Bool := (c.useFree, c.freeVal.getLsbD 0)

/-- A free word. -/
def Chip.freeWord (c : Chip) : Chip × BitVec 32 := (c.useFree, c.freeVal.truncate 32)

/-! ### What a source yields (Table 7-1) -/

/-- Type of the primary or secondary source. -/
def Chip.srcType (c : Chip) (a : Axis) (sec : Bool) : Nat :=
  if sec then c.get (AX_SRC_SEC a.val) else c.get (AX_SRC_PRI a.val)

/-- What it names: a lead port, or a resolver. -/
def Chip.srcIdx (c : Chip) (a : Axis) (sec : Bool) : Nat :=
  if sec then c.get (AX_SRC_SEC_IDX a.val) else c.get (AX_SRC_PRI_IDX a.val)

/-- A port by number. -/
def portOf (n : Nat) : Port := ⟨n % 32, by omega⟩

/-- A resolver by number. -/
def rsvOf (n : Nat) : Fin 4 := ⟨n % 4, by omega⟩

/-- The port state of a group (Table 6-2): 0 ACQUIRE, 1 SERVICE, 2 TEST, 3 RECOVER. -/
def Chip.portState (c : Chip) (p : Port) : Nat := c.get (FP_STAT_PSTATE p.val)

/-- The source is valid (Table 7-1). -/
def Chip.srcValid (c : Chip) (a : Axis) (sec : Bool) : Bool :=
  match c.srcType a sec with
  | 0 | 7 => false
  | 4 => (c.rsv (rsvOf (c.srcIdx a sec))).qualified
  | 5 => c.flag (AX_SRCSTAT_QUAL a.val)
  | _ => c.flag (FP_CFG_EN (portOf (c.srcIdx a sec)).val) && c.portState (portOf (c.srcIdx a sec)) == 1

/-- The angle of a counting group: floor(count × 2^32 / CPR) (R31, R160). -/
def Chip.portAngle (c : Chip) (p : Port) : BitVec 32 :=
  BitVec.ofNat 32 (c.get (FP_POS_COUNT p.val) * 2 ^ 32 / c.get (FP_CPR_CPR p.val))

/-- The mechanical angle that a source yields. -/
def Chip.srcMech (c : Chip) (a : Axis) (sec : Bool) : BitVec 32 :=
  match c.srcType a sec with
  | 4 => (c.rsv (rsvOf (c.srcIdx a sec))).angle
  | 5 => (c.axis a).est
  | _ => c.portAngle (portOf (c.srcIdx a sec))

/-- The rotor angle that a source yields, before any learned offset (R158). -/
def Chip.srcTheta (c : Chip) (a : Axis) (sec : Bool) : BitVec 32 :=
  (c.srcMech a sec + c.reg (AX_ZERO a.val)) * BitVec.ofNat 32 (c.poles a)

/-- The angle in the middle of the present count's span of a Hall group, 60 °e wide (R363). -/
def Chip.hallMiddle (c : Chip) (a : Axis) (sec : Bool) : BitVec 32 :=
  c.srcTheta a sec + BitVec.ofNat 32 (2 ^ 32 / 12) + (if sec then (c.axis a).heldOfs else 0)

/-- The axis has a sensorless source among its two. -/
def Chip.hasSensorless (c : Chip) (a : Axis) : Bool := c.srcType a false == 5 || c.srcType a true == 5

/-- The secondary is the source in use (15_combinations.md). -/
def Chip.onSec (c : Chip) (a : Axis) : Bool := c.flag (AX_SRCSTAT_ON_SEC a.val)

/-- The source in use is sensorless. -/
def Chip.usesSensorless (c : Chip) (a : Axis) : Bool := c.srcType a (c.onSec a) == 5

/-- Of the mechanical values whose product with `n` gives the angle `e`, the one nearest `prev` (R162, R163). -/
def nearestMech (n : Nat) (e prev : BitVec 32) : BitVec 32 :=
  let at' (j : Nat) : BitVec 32 := BitVec.ofNat 32 ((e.toNat + j * 2 ^ 32) / n)
  let far (v : BitVec 32) : Nat := (v - prev).toInt.natAbs
  (List.range n).foldl (fun best j => if far (at' j) < far best then at' j else best) (at' 0)

/-! ### Feeding the axis timebases (R158, R167) -/

/-- Feeds the two timebases of an axis from the source in use; without a valid one they extrapolate.  `motion` tells that
the source moved, and was not corrected, set or exchanged. -/
def Chip.feedAxis (c : Chip) (a : Axis) (motion : Bool) : Chip :=
  let x := c.axis a
  let n := BitVec.ofNat 32 (c.poles a)
  if (c.tb (tbmOf a)).lost then c
  else if c.onSec a then
    if c.flag (AX_SRCSTAT_SEC_OK a.val) then
      (c.feed (tbmOf a) (c.srcMech a true + x.heldMech + x.homeShift) motion).feed (tbeOf a)
        (c.srcTheta a true + x.heldOfs + c.reg (AX_EREF a.val)) motion
    else c
  else if c.flag (AX_SRCSTAT_PRI_OK a.val) then
    let m := c.srcMech a false + c.reg (AX_ZERO a.val) + x.homeShift
    (c.feed (tbmOf a) m motion).feed (tbeOf a) (m * n) motion
  else c

/-- Feeds them after the source in use or its base has changed: what differs from the present value is a jump (R32). -/
def Chip.rebase (c : Chip) (a : Axis) : Chip :=
  let d := c.feedAxis a false
  d.each [tbmOf a, tbeOf a] fun d n => if (d.tb n).src = (c.tb n).val then d else d.jumpNext n

/-! ### Validity, loss and learning (R164 to R168) -/

/-- The axis timebases are gone (R33). -/
def Chip.loseAxis (c : Chip) (a : Axis) : Chip := (c.loseTb (tbmOf a)).loseTb (tbeOf a)

/-- The axis timebases are STALE. -/
def Chip.axisStale (c : Chip) (a : Axis) : Bool := c.flag (CUE_TB_STAT_STALE (tbmOf a).val)

/-- The timebases become STALE by the loss of a source, with one event (R168). -/
def Chip.staleByLoss (c : Chip) (a : Axis) (sec : Bool) : Chip :=
  let c := c.loseAxis a
  (c.setAxis a { c.axis a with staleBySec := sec, switchDue := none }).raise (srcAxis a 1)

/-- The validity of both sources is taken anew.  When either becomes invalid, comparisons stop and OFS_OK clears; when
both are valid again, learning starts (R164).  Losing the secondary in use, or the one that a switch-over is prepared
for, makes the timebases STALE (R168). -/
def Chip.refreshSources (c : Chip) (a : Axis) : Chip :=
  let x := c.axis a
  let pri := c.srcValid a false
  let sec := c.srcValid a true
  let wasP := c.flag (AX_SRCSTAT_PRI_OK a.val)
  let wasS := c.flag (AX_SRCSTAT_SEC_OK a.val)
  let ofs := c.flag (AX_SRCSTAT_OFS_OK a.val)
  let gone := (wasP && !pri) || (wasS && !sec)
  let start := pri && sec && !(wasP && wasS)
  let c := ((c.putF (AX_SRCSTAT_PRI_OK a.val) pri).putF (AX_SRCSTAT_SEC_OK a.val) sec).putF
    (AX_SRCSTAT_OFS_OK a.val) (ofs && !gone && !start)
  let c := c.setAxis a { x with
    ofsAtLoss := if gone then ofs else x.ofsAtLoss
    learning := x.learning || start
    inBand := if gone || start then 0 else x.inBand
    outBand := if gone || start then 0 else x.outBand }
  if c.onSec a && wasS && !sec then c.staleByLoss a true
  else if x.switchDue.isSome && !sec then c.staleByLoss a false
  else c

/-- The axes that use port `p`. -/
def Chip.axesOfPort (c : Chip) (p : Port) : List Axis :=
  allAxes.filter fun a => c.axisOn a && [false, true].any fun sec =>
    c.srcIdx a sec == p.val && [1, 2, 3, 6].contains (c.srcType a sec)

/-- The axes that use resolver `m`. -/
def Chip.axesOfRsv (c : Chip) (m : Fin 4) : List Axis :=
  allAxes.filter fun a => c.axisOn a && [false, true].any fun sec => c.srcType a sec == 4 && c.srcIdx a sec == m.val

/-- The primary is lost and nothing has answered it yet: the timebases have had samples, follow it and are not gone. -/
def Chip.primaryGone (c : Chip) (a : Axis) : Bool :=
  c.axisOn a && !c.flag (AX_SRCSTAT_PRI_OK a.val) && !c.onSec a && (c.tb (tbmOf a)).seeded &&
    !(c.tb (tbmOf a)).lost && (c.axis a).switchDue.isNone

/-- PRIMARY_LOSS (R166 to R168): a valid secondary with a learned offset prepares a switch-over, from the second tick on;
else the timebases become STALE, with one event. -/
def Chip.primaryLoss (c : Chip) (a : Axis) : Chip :=
  if !c.primaryGone a then c
  else if c.flag (AX_SRCSTAT_SEC_OK a.val) && (c.axis a).ofsAtLoss then
    c.setAxis a { c.axis a with switchDue := some (c.now + 2) }
  else c.staleByLoss a false

/-- PRIMARY_LOSS. -/
def execPrimaryLoss (a : Axis) (s : State) : Out := s.run fun c => c.primaryLoss a

/-- A home reference no longer makes sense after a switch to a sensorless source, or its stall time starts anew
(R367); what ends homing stands in Motion.lean and is passed in. -/
def Chip.switchNoted (c : Chip) (a : Axis) : Chip :=
  c.setAxis a { c.axis a with switched := true, stallFrom := none }

/-- A prepared switch-over has come to its tick. -/
def Chip.switchNow (c : Chip) (a : Axis) : Bool := match (c.axis a).switchDue with | some t => decide (t ≤ c.now) | none => false

/-- SWITCH_OVER (R167): the timebases follow the secondary from here on, with the learned offset held.  The mechanical
timebase continues from its value; what the offset does not cover of the electrical one is a jump. -/
def Chip.switchOver (c : Chip) (a : Axis) : Chip :=
  if !c.switchNow a then c
  else
    let x := c.axis a
    let x := { x with switchDue := none, switchTick := some c.now, heldOfs := c.reg (AX_SECOFS a.val)
                      heldMech := (c.tb (tbmOf a)).val - x.homeShift - c.srcMech a true }
    let c := ((c.setAxis a x).putF (AX_SRCSTAT_ON_SEC a.val) true).bump (AX_SRCSTAT_SWITCHES a.val) 1
    (c.rebase a).switchNoted a

/-- The timebases resume on the source in use; the first sample is a jump (R168). -/
def Chip.regainAxis (c : Chip) (a : Axis) : Chip :=
  ((c.regainTb (tbmOf a)).regainTb (tbeOf a)).feedAxis a false

/-- SOURCE_RESUME (R168): a primary that is valid takes STALE timebases back; else the secondary in use whose loss made
them STALE, with its held offset. -/
def Chip.sourceResume (c : Chip) (a : Axis) : Chip :=
  if !(c.tb (tbmOf a)).lost then c
  else if c.flag (AX_SRCSTAT_PRI_OK a.val) then
    ((c.putF (AX_SRCSTAT_ON_SEC a.val) false).setAxis a { c.axis a with staleBySec := false }).regainAxis a
  else if (c.axis a).staleBySec && c.onSec a && c.flag (AX_SRCSTAT_SEC_OK a.val) then
    (c.setAxis a { c.axis a with staleBySec := false }).regainAxis a
  else c

/-- SOURCE_RESUME. -/
def execSourceResume (a : Axis) (s : State) : Out := s.run fun c => c.sourceResume a

/-! ### The running mean (R164, R165) -/

/-- A quotient rounded toward zero. -/
def truncDiv (n d : Int) : Int := if n < 0 then -((-n) / d) else n / d

/-- One comparison: `d` is the primary's rotor angle less the secondary's.  The first one after learning starts is the mean,
so it lies within BAND of it. -/
def Chip.compare (c : Chip) (a : Axis) (d : BitVec 32) : Chip :=
  let x := c.axis a
  if x.learning then
    (c.setReg (AX_SECOFS a.val) d).setAxis a { x with learning := false, inBand := 1, outBand := 0 }
  else
    let m := c.reg (AX_SECOFS a.val)
    let e := (d - m).toInt
    let out := decide (c.get (AX_PLAUS_BAND a.val) * 2 ^ 20 < e.natAbs)
    let c := c.setReg (AX_SECOFS a.val) (m + BitVec.ofInt 32 (truncDiv e 16))
    if out && decide (c.get (AX_PLAUS_PLAUS_N a.val) ≤ x.outBand + 1) then
      ((c.putF (AX_SRCSTAT_OFS_OK a.val) false).setAxis a
        { x with learning := true, inBand := 0, outBand := 0 }).raise (srcAxis a 1)
    else
      let n := if out then 0 else min (x.inBand + 1) 16
      let c := c.setAxis a { x with inBand := n, outBand := if out then x.outBand + 1 else 0 }
      if 16 ≤ n then c.putF (AX_SRCSTAT_OFS_OK a.val) true else c

/-! ### Sensorless qualification (R163, R182) -/

/-- The estimate takes the electrical angle `e`: at the first qualification the value below one electrical period,
later the value nearest the last (R163). -/
def Chip.takeEstimate (c : Chip) (a : Axis) (e : BitVec 32) : Chip :=
  let x := c.axis a
  let m := if x.estEver then nearestMech (c.poles a) e x.est else BitVec.ofNat 32 (e.toNat / c.poles a)
  c.setAxis a { x with est := m, estEver := true }

/-- The estimate is disqualified (R182). -/
def Chip.disqualify (c : Chip) (a : Axis) : Chip :=
  ((c.putF (AX_SRCSTAT_QUAL a.val) false).setAxis a
    { c.axis a with crossRow := 0, missRow := 0, obsBad := 0, obsGood := 0 }).refreshSources a

/-! ### Resolvers (R162) -/

/-- One excitation cycle of resolver `m` that was used, or was dropped: 16 used cycles in a row qualify the loop, and
DROPN dropped ones in a row lose it.  The tracking loop's angle `e` is free (log entry 2). -/
def Chip.rsvCycle (c : Chip) (m : Fin 4) (used : Bool) (n dropN : Nat) (e : BitVec 32) : Chip :=
  let x := c.rsv m
  let u := if used then min (x.used + 1) 16 else 0
  let d := if used then 0 else x.dropped + 1
  let q := (x.qualified || decide (16 ≤ u)) && decide (d < dropN)
  let angle := if x.everQual then nearestMech n e x.angle else BitVec.ofNat 32 (e.toNat / n)
  c.setRsv m { x with used := u, dropped := d, qualified := q, everQual := x.everQual || q, angle := angle }

end Sys2Proof.Machine
end

