-- ==== Sys2Proof/Machine/Drive.lean ====
section
/-! DEFINITION. What an axis asks of its legs (07_commutation.md): six-step sectors and softened transitions, the
commutation bank, starting and catching, and initial position detection. -/
namespace Sys2Proof.Machine

/-! ### Asking the legs (R59, R174)

What the C-die asks of a leg goes down the link, and reaches the leg with the frame rows of LinkRows.lean. -/

/-- A leg's base steps. -/
def Chip.slewOf (c : Chip) (l : Leg) : Slew :=
  let g (x : Field) : Fin 8 := ⟨c.get x % 8, by omega⟩
  ⟨g (LEG_SLEW_HS_ON l.val), g (LEG_SLEW_HS_OFF l.val), g (LEG_SLEW_LS_ON l.val), g (LEG_SLEW_LS_OFF l.val)⟩

/-- Asks a leg for a mode, a duty and live slew steps, the base steps in `none`: a setting frame carries what changes, and
a duty frame the duty, but to a leg that floats.  A LOW leg gets one too, which ends its wait after a reaction line
(R22; DEDUCED, log entry 10). -/
def Chip.want (c : Chip) (l : Leg) (m : LegMode) (on : BitVec 17) (s : Option Slew) : Chip :=
  let x := c.leg l
  let mode := if x.wantMode = m then none else some m
  let slew := if x.wantSlew = s then none else some (s.getD (c.slewOf l))
  let c := c.setLeg l { x with wantMode := m, wantOn := on, wantSlew := s }
  let c := if mode.isNone && slew.isNone then c else c.sendSetting l ⟨mode, slew, false⟩
  if m = .float then c else c.sendDuty l on

/-- All three legs of an axis float: it demands no current. -/
def Chip.floatAxis (c : Chip) (a : Axis) : Chip :=
  let c := c.each (legsOf a) fun c l => c.want l .float 0 none
  c.setAxis a { c.axis a with driven := false, trans := none }

/-- All three legs of an axis are LOW (R186). -/
def Chip.lowAxis (c : Chip) (a : Axis) : Chip :=
  let c := c.each (legsOf a) fun c l => c.want l .low 0 none
  c.setAxis a { c.axis a with driven := true, trans := none }

/-! ### Sectors (R170 to R174) -/

/-- PWM leg, LOW leg and FLOAT leg of a sector (Table 7-3). -/
def sectorLegs (s : Nat) : Fin 3 × Fin 3 × Fin 3 :=
  match s with
  | 0 => (0, 1, 2) | 1 => (0, 2, 1) | 2 => (1, 2, 0) | 3 => (1, 0, 2) | 4 => (2, 0, 1) | _ => (2, 1, 0)

/-- Raw value at which sector `k` is entered forward with no advance (Table 7-3). -/
def sectorEntry (k : Nat) : BitVec 32 :=
  match k with
  | 0 => 0x95555555 | 1 => 0xC0000000 | 2 => 0xEAAAAAAB | 3 => 0x15555555 | 4 => 0x40000000 | _ => 0x6AAAAAAB

/-- The axis moves backward: the sign of AX_SPEED (R171).  A speed of 0 counts as forward (DESIGN CHOICE, log entry 8). -/
def Chip.movesBack (c : Chip) (a : Axis) : Bool := decide (c.gets (AX_SPEED_SPEED a.val) < 0)

/-- The rotor angle θ (R158). -/
def Chip.theta (c : Chip) (a : Axis) : BitVec 32 := (c.tb (tbeOf a)).val - c.reg (AX_EREF a.val)

/-- The sector that contains an angle already corrected by the advance. -/
def sectorAt (x : BitVec 32) : Nat :=
  match [1, 2, 3, 4, 5].filter (fun k => decide ((x - sectorEntry 0).toNat ≥ (sectorEntry k - sectorEntry 0).toNat)) with
  | [] => 0
  | l => l.foldl max 0

/-- The sector that R170 gives for rotor angle `θ`, for the direction and the torque sign of the axis. -/
def Chip.sectorOf (c : Chip) (a : Axis) (θ : BitVec 32) : Nat :=
  let x := c.axis a
  let adv := BitVec.ofInt 32 x.adv
  let s := sectorAt (if c.movesBack a then θ - adv else θ + adv)
  if x.negTorque then (s + 3) % 6 else s

/-- The commutation bank: point `k` at θ_k - A + EREF forward, θ_k + A + EREF backward (R171). -/
def Chip.bankPoint (c : Chip) (a : Axis) (k : Nat) : BitVec 32 :=
  let adv := BitVec.ofInt 32 (c.axis a).adv
  (if c.movesBack a then sectorEntry k + adv else sectorEntry k - adv) + c.reg (AX_EREF a.val)

/-- The axis drives its motor by duties: it neither floats nor shorts its own legs (R186). -/
def Chip.pulsed (c : Chip) (a : Axis) : Bool :=
  (c.axis a).driven && !(legsOf a).all fun l => (c.leg l).wantMode == .low

/-- A sector is in force, and no transition runs. -/
def Chip.noteSector (c : Chip) (a : Axis) (s : Nat) : Chip :=
  (c.put (AX_SRCSTAT_SECTOR a.val) s).setAxis a { c.axis a with trans := none }

/-- A sector takes the legs (Table 7-3), with the latest committed duty. -/
def Chip.toSector (c : Chip) (a : Axis) (s : Nat) : Chip :=
  let (p, l, f) := sectorLegs s
  (((c.noteSector a s).want (legOf a p) .pwm c.duty[a] none).want (legOf a l) .low 0 none).want (legOf a f) .float 0 none

/-- A sector comes into force: it takes the legs where duties drive them. -/
def Chip.takeSector (c : Chip) (a : Axis) (s : Nat) : Chip := if c.pulsed a then c.toSector a s else c.noteSector a s

/-- Steps of a transition; 0 is a hard change (R174). -/
def Chip.softSteps (c : Chip) (a : Axis) : Nat :=
  if c.get (AX_SOFT_SPAN a.val) = 0 then 0 else c.get (AX_SOFT_STEPS a.val)

/-- Step `i` of the transition from the sector in force to `s` (R174): the leg that leaves one side and the leg that
takes its place share the duty by profile entry `i`, and the third conducting leg runs on with the latest committed
duty.  A quotient that is not a whole number of ns is rounded freely. -/
def Chip.softStep (c : Chip) (a : Axis) (s i : Nat) : Chip :=
  let (p0, l0, _) := sectorLegs (c.get (AX_SRCSTAT_SECTOR a.val))
  let (p1, l1, _) := sectorLegs s
  let frac := c.get (AX_PROF_FRAC a.val i)
  let sOut : Fin 8 := ⟨c.get (AX_PROF_SLEW_OUT a.val i) % 8, by omega⟩
  let sIn : Fin 8 := ⟨c.get (AX_PROF_SLEW_IN a.val i) % 8, by omega⟩
  let share (c : Chip) (whole part : Nat) : Chip × BitVec 17 :=
    let (c, v) := c.divFree ((whole * part : Nat) : Int) 256
    (c, BitVec.ofInt 17 v)
  if p0 = p1 then
    let whole := 4 * c.period a
    let (c, dOut) := share c whole frac
    let (c, dIn) := share c whole (256 - frac)
    ((c.want (legOf a p0) .pwm c.duty[a] none).want (legOf a l0) .pwm dOut
      (some { c.slewOf (legOf a l0) with lsOff := sOut })).want (legOf a l1) .pwm dIn
        (some { c.slewOf (legOf a l1) with lsOn := sIn })
  else
    let whole := c.duty[a].toNat
    let (c, dOut) := share c whole (256 - frac)
    let (c, dIn) := share c whole frac
    ((c.want (legOf a l0) .low 0 none).want (legOf a p0) .pwm dOut
      (some { c.slewOf (legOf a p0) with hsOff := sOut })).want (legOf a p1) .pwm dIn
        (some { c.slewOf (legOf a p1) with hsOn := sIn })

/-- Step `i` of a transition is made, and the next one awaited. -/
def Chip.toTrans (c : Chip) (a : Axis) (x : Trans) (i : Nat) : Chip :=
  let c := c.softStep a x.sector i
  c.setAxis a { c.axis a with trans := some { x with step := i + 1 } }

/-- Two sectors are neighbours, so that one leg leaves and one takes its place (R170). -/
def nextTo (s t : Nat) : Bool := (s + 1) % 6 == t || (t + 1) % 6 == s

/-- A commutation into sector `s` begins at bank point `k`: hard, or with step 0 of a transition (R174).  A transition that
the last point began is at its end by then (R173). -/
def Chip.commutate (c : Chip) (a : Axis) (s k : Nat) (backward : Bool) : Chip :=
  let c := match (c.axis a).trans with | some x => c.takeSector a x.sector | none => c
  if c.softSteps a = 0 || !c.pulsed a || !nextTo (c.get (AX_SRCSTAT_SECTOR a.val)) s then c.takeSector a s
  else c.toTrans a ⟨s, 0, backward, k, c.reg (AX_CUEPOS a.val k)⟩ 0

/-- The axis commutates in six-step: its waveform, or a field-oriented axis whose sensorless start has not yet changed
over (R191). -/
def Chip.sixStep (c : Chip) (a : Axis) : Bool := !c.flag (AX_COMCFG_WAVE a.val) || !(c.axis a).focOn

/-- START of an axis (Table 7-15): 0 idle, 1 detection, 2 open loop, 3 closed, 4 catch, 5 brake, 6 failed. -/
def Chip.startOf (c : Chip) (a : Axis) : Nat := c.get (AX_SRCSTAT_START a.val)

/-- The sector for a torque of the present sign, from that for a positive one (R170). -/
def Chip.torqued (c : Chip) (a : Axis) (s : Nat) : Nat := if (c.axis a).negTorque then (s + 3) % 6 else s

/-! ### The bank lane (R171, R46 to R48) -/

/-- The lane runs: a written bank of an axis that commutates in six-step on timebases that are not STALE (R33), outside
detection and open loop (R190). -/
def Chip.laneRuns (c : Chip) (a : Axis) : Bool :=
  c.axisOn a && c.isArmed && (c.axis a).banked && c.sixStep a && !c.flag (CUE_TB_STAT_STALE (tbeOf a).val) &&
    c.startOf a != 1 && c.startOf a != 2

/-- The places of the lane cues of a point: the point alone, or every step's start and the final state's (R174). -/
def Chip.lanePlaces (c : Chip) (a : Axis) : List Nat := List.range (c.softSteps a + 1)

/-- The position of a lane cue on TB(8 + a), for a point at `b`: place j of T lies at b - S / 2 + j S / T (R174). -/
def Chip.lanePos (c : Chip) (a : Axis) (b : BitVec 32) (j : Nat) : BitVec 32 :=
  let t := c.softSteps a
  if t = 0 then b else b + BitVec.ofInt 32 ((2 * (j : Int) - t) * c.get (AX_SOFT_SPAN a.val) * 2 ^ 32 / (1440 * t))

/-- Where point `k` stands: as the bank holds it, and for a running transition as it stood when that began (R193). -/
def Chip.lanePoint (c : Chip) (a : Axis) (k : Nat) : BitVec 32 :=
  match (c.axis a).trans with
  | some x => if x.point = k then x.base else c.reg (AX_CUEPOS a.val k)
  | none => c.reg (AX_CUEPOS a.val k)

/-- The step of a transition that a lane cue stands for, by the direction of its crossing. -/
def Chip.laneStep (c : Chip) (a : Axis) (back : Bool) (j : Nat) : Nat := if back then c.softSteps a - j else j

/-- A crossed lane cue has something to do: a commutation begins with the first one, and the later ones belong to the
transition in progress. -/
def Chip.laneCounts (c : Chip) (a : Axis) (k j : Nat) (back : Bool) : Bool :=
  c.laneStep a back j == 0 ||
    (match (c.axis a).trans with | some x => x.point == k && x.back == back && decide (x.step ≤ c.laneStep a back j) | none => false)

/-- One lane cue in this tick: fired and disarmed, suppressed, or armed again (R47, R48). -/
def Chip.scanLane (c : Chip) (a : Axis) (k j : Nat) : Chip :=
  let n := tbeOf a
  let v1 := (c.tb n).val
  let pos := c.lanePos a (c.lanePoint a k) j
  let d := crossDir false (c.tb n).prev v1 pos
  let id := 16 * k + j
  let off := (c.axis a).laneOff.contains id
  let far := decide (c.spacing n.val ≤ min (pos - v1).toNat (v1 - pos).toNat)
  let mark (c : Chip) (b : Bool) : Chip := c.setAxis a { c.axis a with laneOff := markIndex (c.axis a).laneOff id b }
  if (c.tb n).stepJump then mark c (!far)
  else if d != 0 && !off then
    let c := mark c (!far)
    if c.laneCounts a k j (d == 2) then c.setAxis a { c.axis a with lane := (c.axis a).lane ++ [⟨k, j, d == 2, c.now⟩] } else c
  else
    let c := if d != 0 then c.bump (CUE_TB_STAT_SUPP n.val) 1 else c
    if off && far then mark c false else c

/-- The bank lane scans its cues once a tick; a jump crosses none and re-arms them by distance (R32). -/
def Chip.scanBank (c : Chip) (a : Axis) : Chip :=
  if !c.laneRuns a then c
  else c.each ([0, 1, 2, 3, 4, 5] : List Nat) fun c k => c.each (c.lanePlaces a) fun c j => c.scanLane a k j

/-- A point commutates into its sector: forward into sector k, backward into sector k - 1.  A field-oriented axis whose
observer has agreed for PLAUS_N slices changes over instead (R191). -/
def Chip.atPoint (c : Chip) (a : Axis) (k : Nat) (back : Bool) : Chip :=
  let s := c.torqued a (if back then (k + 5) % 6 else k)
  if c.flag (AX_COMCFG_WAVE a.val) && c.startOf a == 3 && decide (c.get (AX_PLAUS_PLAUS_N a.val) ≤ (c.axis a).obsGood) then
    (c.takeSector a s).setAxis a { (c.takeSector a s).axis a with focOn := true, focNew := true }
  else c.commutate a s k back

/-- The action of a crossed lane cue, which is taken off the queue: a commutation, the next step of the transition, or
its final state (R171, R174). -/
def Chip.laneAct (c : Chip) (a : Axis) (f : LaneFire) : Chip :=
  let c := c.setAxis a { c.axis a with lane := (c.axis a).lane.erase f }
  let i := c.laneStep a f.back f.place
  if !c.laneRuns a then c
  else if i = 0 then c.atPoint a f.point f.back
  else match (c.axis a).trans with
    | none => c
    | some x =>
      if x.point != f.point || x.back != f.back || i < x.step then c
      else if i < c.softSteps a then c.toTrans a x i
      else c.takeSector a x.sector

/-- What the lane has crossed is carried out by the end of tick t + 2 (R47). -/
def Chip.settleLane (c : Chip) (a : Axis) : Chip :=
  c.each ((c.axis a).lane.filter fun f => decide (f.since + 2 < c.now)) fun c f => c.laneAct a f

/-- COMMUTATION_POINT (R171): the bank fires point `k`, which lies between sector k - 1 and sector k. -/
def Chip.commutationPoint (c : Chip) (a : Axis) (k : Fin 6) (backward : Bool) : Chip :=
  match (c.axis a).lane.find? fun f => f.point == k.val && f.back == backward && c.laneStep a f.back f.place == 0 with
  | some f => c.laneAct a f
  | none => c

/-- COMMUTATION_POINT. -/
def execCommutationPoint (a : Axis) (k : Fin 6) (backward : Bool) (s : State) : Out :=
  s.run fun c => c.commutationPoint a k backward

/-- TRANSITION_STEP (R174): the next step of the transition, or after the last one the final state, once its lane cue has
been crossed. -/
def Chip.transitionStep (c : Chip) (a : Axis) : Chip :=
  match (c.axis a).lane.find? fun f => c.laneStep a f.back f.place != 0 with
  | some f => c.laneAct a f
  | none => c

/-- TRANSITION_STEP. -/
def execTransitionStep (a : Axis) (s : State) : Out := s.run fun c => c.transitionStep a

/-- The transition window that holds the present angle (R172): its transition, with the step that the angle lies in. -/
def Chip.windowAt (c : Chip) (a : Axis) : Option Trans :=
  let t := c.softSteps a
  let span : Nat := c.get (AX_SOFT_SPAN a.val) * 2 ^ 32
  let back := c.movesBack a
  let v := (c.tb (tbeOf a)).val
  if t = 0 || !(c.axis a).banked then none
  else ([0, 1, 2, 3, 4, 5] : List Nat).findSome? fun k =>
    let b := c.reg (AX_CUEPOS a.val k)
    -- half a degree of an electrical period is 2^32 / 720
    let z : Int := 2 * 720 * (if back then b - v else v - b).toInt + (span : Int)
    if 0 ≤ z && decide (z < 2 * (span : Int)) then
      some ⟨if back then (k + 5) % 6 else k, (z * (t : Int) / (2 * (span : Int))).toNat, back, k, b⟩
    else none

/-- SECTOR_REAPPLY (R172): after a jump of the electrical timebase, its new value gives sector and step. -/
def Chip.sectorReapply (c : Chip) (a : Axis) : Chip :=
  if !(c.tb (tbeOf a)).jumped then c
  else
    let c := c.setTb (tbeOf a) { c.tb (tbeOf a) with jumped := false }
    if !c.axisOn a || !c.isArmed || !c.sixStep a || c.startOf a == 1 || c.startOf a == 2 then c
    else match c.windowAt a with
      | some x =>
        let c := c.takeSector a (c.torqued a (if x.back then (x.sector + 1) % 6 else (x.sector + 5) % 6))
        if c.pulsed a then c.toTrans a { x with sector := c.torqued a x.sector } x.step
        else c.takeSector a (c.torqued a x.sector)
      | none => c.takeSector a (c.sectorOf a (c.theta a))

/-- SECTOR_REAPPLY. -/
def execSectorReapply (a : Axis) (s : State) : Out := s.run fun c => c.sectorReapply a

/-! ### Starts (R184 to R187) -/

/-- Table 7-6, for a commanded direction, at the speed `s` of the latest committed slice. -/
def Chip.planAt (c : Chip) (a : Axis) (back : Bool) (s : Int) : Reason × StartPlan :=
  let v := if back then -s else s
  if s.natAbs < 16 * c.get (AX_CATCH_REST a.val) then (.ok, .rest)
  else if 0 ≤ v then (if v ≤ c.get (AX_CATCH_CATCH_MAX a.val) then (.ok, .catch) else (.state, .catch))
  else if v.natAbs < c.get (AX_REV_REV_SPEED a.val) then (.ok, .brake) else (.wrongDir, .brake)

/-- Table 7-6 at AX_SPEED. -/
def Chip.startPlan (c : Chip) (a : Axis) (back : Bool) : Reason × StartPlan := c.planAt a back (c.gets (AX_SPEED_SPEED a.val))

/-- A reversal is refused at REV_SPEED and above (R187). -/
def Chip.reversalBad (c : Chip) (a : Axis) : Bool :=
  decide (c.get (AX_REV_REV_SPEED a.val) ≤ (c.gets (AX_SPEED_SPEED a.val)).natAbs)

/-- START, with the plan that remains. -/
def Chip.setStart (c : Chip) (a : Axis) (st : Nat) (p : Option StartPlan) : Chip :=
  (c.put (AX_SRCSTAT_START a.val) st).setAxis a { c.axis a with plan := p }

/-- An accepted plan: a catch and a brake show at once, a start from rest begins with its first slice. -/
def Chip.planStart (c : Chip) (a : Axis) (p : StartPlan) : Chip :=
  let c := c.setAxis a { c.axis a with planTick := c.now }
  match p with
  | .rest => c.setStart a 0 (some .rest)
  | .catch => c.setStart a 4 (some .catch)
  | .brake => c.setStart a 5 (some .brake)

/-- Any start in progress ends; START returns to 0. -/
def Chip.endStart (c : Chip) (a : Axis) : Chip :=
  let c := c.setStart a 0 none
  c.setAxis a { c.axis a with brakeHold := none, ipdDone := [], ipdOn := false }

/-- A start fails (R189, R190): the legs float, START reads 6, one plausibility event. -/
def Chip.startFails (c : Chip) (a : Axis) : Chip :=
  ((c.floatAxis a).setStart a 6 none).raise (srcAxis a 1)

/-! ### Initial position detection (R188, R189, R196) -/

/-- The weight of phase `ph` in direction 30 °e × k of detection: positive at the high rail, negative at the low one, 0
where the phase floats. -/
def ipdWeight (k : Nat) (ph : Fin 3) : Int := [2, 2, 1, 0, -1, -2, -2, -2, -1, 0, 1, 2].getD ((k + 12 - 4 * ph.val) % 12) 0

/-- A pulse begins (R188): the legs take its vector, and the phase windows close, marked as a cue's closes. -/
def Chip.ipdBegin (c : Chip) (a : Axis) : Chip :=
  let k := (c.axis a).ipdDone.length
  let full : BitVec 17 := BitVec.ofNat 17 (4 * c.period a)
  let c := c.each ([0, 1, 2] : List (Fin 3)) fun c ph =>
    if 0 < ipdWeight k ph then c.want (legOf a ph) .pwm full none
    else if ipdWeight k ph < 0 then c.want (legOf a ph) .low 0 none
    else c.want (legOf a ph) .float 0 none
  let c := c.each (slicesOfAxis a) Chip.askCue
  c.setAxis a { c.axis a with
    ipdOn := true, ipdFrom := c.now, ipdTo := none, ipdCharge := Vector.replicate 3 (0, false), ipdOvr := false }

/-- A pulse ends (R188): all legs float, and the phase windows close again. -/
def Chip.ipdEnd (c : Chip) (a : Axis) : Chip :=
  let c := c.each (legsOf a) fun c l => c.want l .float 0 none
  let c := c.each (slicesOfAxis a) Chip.askCue
  c.setAxis a { c.axis a with ipdOn := false, ipdTo := some c.now }

/-- A phase window's report during detection: the charge of those from the start of the pulse to its end counts. -/
def Chip.ipdTake (c : Chip) (k : SliceId) (r : Report) : Chip :=
  match phaseAxis k with
  | none => c
  | some a =>
    let x := c.axis a
    let ph : Fin 3 := ⟨k.val % 8 % 3, by omega⟩
    let q := x.ipdCharge[ph]
    if c.startOf a != 1 || q.2 || decide (r.opened < x.ipdFrom) then c
    else
      let last : Bool := match x.ipdTo with | some t => decide (t ≤ r.shut) | none => false
      c.setAxis a { x with
        ipdCharge := x.ipdCharge.set ph (q.1 + r.res.count, last), ipdOvr := x.ipdOvr || r.res.ovr }

/-- The response of the pulse (R188): the window charge projected on its direction, a two-phase one scaled by 4/3.  With
one leg against two the projection is a third of 2 q less the two others; with one leg against another the pair's
charge is half their difference (DEDUCED, log entry 8), so that both are thirds of whole weights. -/
def Chip.ipdResponse (c : Chip) (a : Axis) : Chip × Int :=
  let x := c.axis a
  c.divFree (([0, 1, 2] : List (Fin 3)).map fun ph => ipdWeight x.ipdDone.length ph * x.ipdCharge[ph].1).sum 3

/-- Detection begins (R188), with the image's pulse width. -/
def Chip.beginIpd (c : Chip) (a : Axis) : Chip :=
  let c := (c.floatAxis a).setStart a 1 none
  (c.setAxis a { c.axis a with ipdDone := [], ipdWidth := c.get (AX_IPD_W a.val), ipdAgain := false, focOn := false }).ipdBegin a

/-- A start from rest (Table 7-6): a sensed source closes its loop, a sensorless one detects first, once the limit in
force is above 0 (R369). -/
def Chip.startRest (c : Chip) (a : Axis) (limit : Nat) : Chip :=
  if c.usesSensorless a && !c.flag (AX_SRCSTAT_QUAL a.val) then
    if limit = 0 then c.setStart a 0 (some .rest) else c.beginIpd a
  else (c.setStart a 3 none).setAxis a { (c.setStart a 3 none).axis a with focOn := true, driven := true }

/-- BRAKE_HOLD_END (R186): after 50 ms of LOW, a start from rest. -/
def Chip.brakeHoldEnd (c : Chip) (a : Axis) : Chip :=
  match (c.axis a).brakeHold with
  | some t =>
    if t + 12500000 ≤ c.now then
      (c.setAxis a { c.axis a with brakeHold := none }).startRest a (c.get (AX_CUR_LIMIT a.val))
    else c
  | none => c

/-- BRAKE_HOLD_END. -/
def execBrakeHoldEnd (a : Axis) (s : State) : Out := s.run fun c => c.brakeHoldEnd a

/-- Current band of a fraction `n / d` of full scale (R194). -/
def bandOf (n d : Nat) : Nat := if 8 * n < d then 0 else if 4 * n < d then 1 else if 2 * n < d then 2 else 3

/-- The threshold of a pulse band (R196). -/
def Chip.ipdThr (c : Chip) (a : Axis) (b : Nat) : Nat :=
  if c.flag (AX_IPDTR_VALID a.val b) then c.get (AX_IPDTR_THR a.val b) else c.get (AX_IPD_THR a.val)

/-- Index of the largest response, the lower direction first. -/
def largest (l : List Int) : Nat :=
  (List.range l.length).foldl (fun b i => if l.getD b 0 < l.getD i 0 then i else b) 0

/-- Open loop begins in the sector that R170 gives for angle `θ` and torque in the commanded direction (R189, R190). -/
def Chip.beginOpenLoop (c : Chip) (a : Axis) (θ : BitVec 32) : Chip :=
  let c := c.setStart a 2 none
  let c := c.setAxis a { c.axis a with
    olTick := c.now, olSteps := 0, driven := true, negTorque := c.flag (AX_MSTAT_DIR a.val) }
  c.takeSector a (c.sectorOf a θ)

/-- An angle of 30 °e × `k` in raw units. -/
def ipdAngle (k : Nat) : BitVec 32 := BitVec.ofNat 32 (k * 2 ^ 32 / 12)

/-- The twelve responses are judged (R189): the winner's margin over the opposite direction, against the threshold of
the winning pulse's band.  The peak current is 2 × charge / width, and one packet is I_FS × 16 ns (R98). -/
def Chip.judgeIpd (c : Chip) (a : Axis) (l : List Int) : Chip :=
  let x := c.axis a
  let k := largest l
  let m := l.getD k 0 - l.getD ((k + 6) % 12) 0
  let b := bandOf (l.getD k 0).toNat (8000 * x.ipdWidth)
  if (c.ipdThr a b : Int) ≤ m then
    (c.setAxis a { x with ipdDone := [], ipdMargin := m, ipdDir := k, ipdBand := b }).beginOpenLoop a (ipdAngle k)
  else if x.ipdAgain then c.startFails a
  else (c.setAxis a { x with ipdDone := [], ipdAgain := true, ipdWidth := min (2 * x.ipdWidth) 255 }).ipdBegin a

/-- A gap ends (R188, R189): OVR in the pulse's windows fails the detection; the twelfth response is judged, and after
any other the next pulse follows. -/
def Chip.ipdGapEnd (c : Chip) (a : Axis) : Chip :=
  if (c.axis a).ipdOvr then c.startFails a
  else
    let (c, r) := c.ipdResponse a
    let l := (c.axis a).ipdDone ++ [r]
    if l.length < 12 then (c.setAxis a { c.axis a with ipdDone := l }).ipdBegin a else c.judgeIpd a l

/-- The results of the pulse's windows stand, of every phase. -/
def Chip.ipdStands (c : Chip) (a : Axis) : Bool := (c.axis a).ipdCharge.toList.all (·.2)

/-- IPD_PULSE (R188, R189): pulse `k` ends after its width, or its gap after GAP × 10 µs; a row that names another pulse than
the one under way does not arise. -/
def Chip.ipdPulse (c : Chip) (a : Axis) (k : Fin 12) (gap : Bool) : Chip :=
  let x := c.axis a
  if c.startOf a != 1 || x.ipdOn == gap || x.ipdDone.length != k.val then c
  else if x.ipdOn then if x.ipdFrom + 250 * x.ipdWidth ≤ c.now then c.ipdEnd a else c
  else if c.aged (2500 * c.get (AX_IPD_GAP a.val)) x.ipdTo && c.ipdStands a then c.ipdGapEnd a else c

/-- IPD_PULSE. -/
def execIpdPulse (a : Axis) (k : Fin 12) (gap : Bool) (s : State) : Out := s.run fun c => c.ipdPulse a k gap

/-! ### Open loop (R190) -/

/-- The generator reached FMAX before this tick: F0 + ACC × t, in Hz (R190); in the tick itself a qualification wins. -/
def Chip.openLoopTop (c : Chip) (a : Axis) : Bool :=
  decide (c.get (AX_OLS_FMAX a.val) * 250000000 ≤
    c.get (AX_OLS_F0 a.val) * 250000000 + c.get (AX_OLA_ACC a.val) * (c.now - (c.axis a).olTick - 1)) &&
      decide ((c.axis a).olTick < c.now)

/-- The generated angle has reached the next commutation: n sixths of an electrical period of F0 t + ACC t² / 2. -/
def Chip.openLoopDue (c : Chip) (a : Axis) : Bool :=
  let t := c.now - (c.axis a).olTick
  decide (((c.axis a).olSteps + 1) * 250000000 ^ 2 ≤
    6 * c.get (AX_OLS_F0 a.val) * 250000000 * t + 3 * c.get (AX_OLA_ACC a.val) * t ^ 2)

/-- OPEN_LOOP_STEP (R190): the generator commutates in the commanded direction, or the start fails at FMAX. -/
def Chip.openLoopStep (c : Chip) (a : Axis) : Chip :=
  if c.startOf a != 2 then c
  else if c.openLoopTop a then c.startFails a
  else if !c.openLoopDue a then c
  else
    let s := c.get (AX_SRCSTAT_SECTOR a.val)
    (c.setAxis a { c.axis a with olSteps := (c.axis a).olSteps + 1 }).takeSector a
      (if c.flag (AX_MSTAT_DIR a.val) then (s + 5) % 6 else (s + 1) % 6)

/-- OPEN_LOOP_STEP. -/
def execOpenLoopStep (a : Axis) (s : State) : Out := s.run fun c => c.openLoopStep a

/-- The qualified angle `e` agrees with the detected one within 30 °e (R196). -/
def Chip.ipdAgrees (c : Chip) (a : Axis) (e : BitVec 32) : Bool :=
  decide ((e - ipdAngle (c.axis a).ipdDir).toInt.natAbs ≤ 2 ^ 32 / 12)

/-- A start's margin is kept, and half the smallest of the last 8 of its band becomes the trained threshold (R196). -/
def Chip.keepMargin (c : Chip) (a : Axis) : Chip :=
  let x := c.axis a
  let other := x.margins.filter (·.1 != x.ipdBand)
  let own := ((x.margins.filter (·.1 == x.ipdBand)) ++ [(x.ipdBand, x.ipdMargin)])
  let own := own.drop (own.length - 8)
  let c := c.setAxis a { x with margins := other ++ own }
  if own.length < 8 then c
  else
    let least := own.foldl (fun m y => min m y.2) x.ipdMargin
    let (c, half) := c.divFree least 2
    let (c, floor) := c.divFree (c.get (AX_IPD_THR a.val)) 2
    (c.put (AX_IPDTR_VALID a.val x.ipdBand) 1).put (AX_IPDTR_THR a.val x.ipdBand) (max half floor).toNat

end Sys2Proof.Machine
end

