-- ==== Sys2Proof/Machine/Motion.lean ====
section
/-! DEFINITION. Commanding axes (08_commands_motion.md): the command modes and who may command them, leaving a mode, the
curve input, the compatibility block, setpoints, and electronic gearing. -/
namespace Sys2Proof.Machine

/-! ### Modes (Table 8-1) -/

/-- The command mode in force: 0 OFF, 1 CURVE, 2 COMPAT, 3 STREAM, 4 GEAR, 5 HOME, 6 HOLD. -/
def Chip.modeOf (c : Chip) (a : Axis) : Nat := c.get (AX_MSTAT_MODE a.val)

/-- STREAM, GEAR and HOLD run the position loop (Table 3-2). -/
def usesPos (mode : Nat) : Bool := mode == 3 || mode == 4 || mode == 6

/-- CURVE, COMPAT and HOME run the speed loop (Table 3-2). -/
def usesSpd (mode : Nat) : Bool := mode == 1 || mode == 2 || mode == 5

/-! ### Cost and budget (R62 to R66) -/

/-- Local axis number in its engine. -/
def localOf (a : Axis) : Nat := a.val % 4

/-- Base and source parts of an axis's cost (Table 3-1). -/
def Chip.baseCost (c : Chip) (a : Axis) : Nat :=
  (if c.flag (AX_COMCFG_WAVE a.val) then 470 else 210) +
    (if c.srcType a false == 4 then 70 else 0) + (if c.srcType a true == 4 then 70 else 0) +
    (if c.hasSensorless a then 50 else 0)

/-- Loop parts, by whether each is charged. -/
def loopCost (pos spd gear : Bool) : Nat :=
  (if pos then 90 else 0) + (if spd then 60 else 0) + (if gear then 40 else 0)

/-- The charged cost of an axis in mode `m`: reserved parts count always (R64). -/
def Chip.chargedCost (c : Chip) (a : Axis) (m : Nat) : Nat :=
  let e := (regionOf a).val
  let k := localOf a
  if c.axisOn a then
    c.baseCost a + loopCost (usesPos m || c.flag (FE_AX_CFG_RES_POS e k)) (usesSpd m || c.flag (FE_AX_CFG_RES_SPD e k))
      (m == 4 || c.flag (FE_AX_CFG_RES_GEAR e k))
  else 0

/-- The cost of the parts that the present mode uses (Table 3-13). -/
def Chip.presentCost (c : Chip) (a : Axis) : Nat :=
  if c.axisOn a then
    c.baseCost a + loopCost (usesPos (c.modeOf a)) (usesSpd (c.modeOf a)) (c.modeOf a == 4)
  else 0

/-- A sum of fractions, as one. -/
def sumFrac (l : List (Nat × Nat)) : Nat × Nat := l.foldl (fun s x => (s.1 * x.2 + x.1 * s.2, s.2 * x.2)) (0, 1)

/-- The load of engine `e` with each axis in the mode that `m` gives, in kcycles/s, as a fraction (R64). -/
def Chip.loadWith (c : Chip) (e : Region) (m : Axis → Nat) : Nat × Nat :=
  sumFrac (((axesOfRegion e).filter c.axisOn).map fun a => (250000 * c.chargedCost a (m a), c.period a))

/-- A load lies above the budget of 225,000 kcycles/s. -/
def overBudget (x : Nat × Nat) : Bool := decide (225000 * x.2 < x.1)

/-- A change of axis `a` to mode `m` breaks the budget (R66). -/
def Chip.budgetBad (c : Chip) (a : Axis) (m : Nat) : Bool :=
  decide (c.chargedCost a (c.modeOf a) < c.chargedCost a m) &&
    overBudget (c.loadWith (regionOf a) fun b => if b = a then m else c.modeOf b)

/-! ### Leaving a mode (R204, R215, R220) -/

/-- The FIFO is discarded and every credit returns (R215). -/
def Chip.flushStream (c : Chip) (a : Axis) : Chip :=
  let c := ((c.put (AX_STRSTAT_CREDITS a.val) 64).put (AX_MSTAT_HELD a.val) 0).put (AX_MSTAT_PEND a.val) 0
  c.setAxis a { c.axis a with
    fifo := [], begun := false, newPeriod := false, applied := none, missedPop := false, spdCount := 0 }

/-- A slice under way holds in its snapshot of homing a trip of the limit input that faces the direction (Table 8-4). -/
def Chip.limitHeld (c : Chip) (a : Axis) : Bool :=
  (c.axis a).run.queue.any fun p => match p.snap with
    | some s => s.mode == 5 && s.entry == (c.axis a).entries && (if s.dir then s.limB else s.limF)
    | none => false

/-- What leaving the mode in force does, with the code that AX_MSTAT.HOME takes if homing runs; a limit trip in a slice's
snapshot wins over ABORTED (Table 8-4, R220). -/
def Chip.leaveMode (c : Chip) (a : Axis) (homeCode : Nat) : Chip :=
  let c := if c.modeOf a == 3 then c.flushStream a else c
  let c := if c.modeOf a == 5 && c.get (AX_MSTAT_HOME a.val) == 1 then
      c.put (AX_MSTAT_HOME a.val) (if homeCode = 5 ∧ c.limitHeld a = true then 3 else homeCode)
    else c
  c.setAxis a { c.axis a with stallFrom := none, followRun := 0, homeLate := false }

/-- Slices of the axis run: they then take the legs to the new mode (R204). -/
def Chip.slicesRun (c : Chip) (a : Axis) : Bool := c.isArmed && c.axisOn a && !c.halted a

/-- The axis enters OFF: a new entry opens a new bootstrap charging series, at the axis's next period boundary (R89); with
no slice running the legs float at once (R204). -/
def Chip.enterOff (c : Chip) (a : Axis) (homeCode : Nat) : Chip :=
  if c.modeOf a == 0 then c
  else
    let c := ((c.leaveMode a homeCode).put (AX_MSTAT_MODE a.val) 0).endStart a
    let c := c.setAxis a { c.axis a with
      entered := true, entries := (c.axis a).entries + 1, localDue := false, wasStale := false, orderly := false }
    let c := c.each (legsOf a) fun c l => c.newSeries false l
    if c.slicesRun a then c else c.floatAxis a

/-! ### Judging a mode command (R200 to R203, R184, R187, R241, R364, R366) -/

/-- The limit inputs of an axis: DSUB 3 forward, DSUB 4 backward, by DEST (R221, R125). -/
def Chip.limitTrip (c : Chip) (a : Axis) (back : Bool) : Bool :=
  allPorts.any fun p => c.leads p 4 && c.get (FP_CFG_DSUB p.val) == (if back then 4 else 3) &&
    c.get (FP_CFG_DEST p.val) == 8 + a.val && c.flag (FP_STAT_LIM_TRIP p.val)

/-- The direction that a command into `mode` names (Table 8-1). -/
def Chip.namedDir (c : Chip) (a : Axis) (mode : Nat) (back : Bool) : Option Bool :=
  match mode with
  | 1 | 5 => some back
  | 2 => some (decide (c.gets (CMP_TARGET_TARGET a.val) < 0))
  | _ => none

/-- The direction in force (R203). -/
def Chip.dirInForce (c : Chip) (a : Axis) : Bool :=
  if usesSpd (c.modeOf a) then c.flag (AX_MSTAT_DIR a.val) else c.movesBack a

/-- The direction a command takes: the one it names, or that of present motion. -/
def Chip.takenDir (c : Chip) (a : Axis) (mode : Nat) (back : Bool) : Bool :=
  (c.namedDir a mode back).getD (c.movesBack a)

/-- The command reverses the direction of a running axis (R187). -/
def Chip.reverses (c : Chip) (a : Axis) (mode : Nat) (back : Bool) : Bool :=
  c.modeOf a != 0 && (c.namedDir a mode back).isSome && c.takenDir a mode back != c.dirInForce a

/-- STATE conditions of a command with MODE other than OFF (R202, R241, R364, R366). -/
def Chip.modeState (c : Chip) (a : Axis) (mode : Nat) (back : Bool) : Bool :=
  let leaves := c.modeOf a == 0
  !c.inShow || !c.axisOn a || c.heldOff a ||
    (leaves && !(legsOf a).all fun l => c.flag (LEG_STAT_BST_OK l.val)) ||
    (leaves && c.get (BUS_STAT_ADM (regionOf a).val) != 2) ||
    (mode == 1 && !c.flag (AX_CRVCFG_EN a.val)) ||
    (mode == 5 && c.limitTrip a back) ||
    (mode == 4 && c.flag (CUE_TB_STAT_STALE (16 + c.get (AX_GEARCFG_MASTER a.val)))) ||
    ((usesPos mode || mode == 5) && c.axisStale a) ||
    (usesPos mode && c.usesSensorless a && !c.flag (AX_SRCSTAT_QUAL a.val)) ||
    (mode == 5 && c.usesSensorless a)

/-- The path owns the axis (R201). -/
def Chip.owns (c : Chip) (p : Path) (a : Axis) : Bool :=
  c.get (AX_CFG_OWNER a.val) == (match p with | .host => 0 | .can => 1)

/-- The refusing conditions of a command into `mode`, but for its path. -/
def Chip.modeConds (c : Chip) (a : Axis) (mode : Nat) (back : Bool) : List (Bool × Reason) :=
  let plan := (c.startPlan a (c.takenDir a mode back)).1
  [ (c.modeState a mode back, .state)
  , (c.modeOf a == 0 && plan == .state, .state)
  , (c.modeOf a == 0 && plan == .wrongDir, .wrongDir)
  , (c.reverses a mode back && c.reversalBad a, .wrongDir)
  , (c.budgetBad a mode, .budget) ]

/-! ### Entering a mode -/

/-- STREAM begins with an empty FIFO, all credits and P = 0 (R211). -/
def Chip.enterStream (c : Chip) (a : Axis) : Chip :=
  let c := (c.flushStream a).put (AX_SPC_P a.val) 0
  c.setAxis a { c.axis a with tagged := false, period := 0, segPeriod := 0, fromPos := (c.axis a).target, toPos := (c.axis a).target }

/-- GEAR begins with the named or the stored slot and a remainder of 0 (R223). -/
def Chip.enterGear (c : Chip) (a : Axis) (slot : Nat) : Chip :=
  let c := (c.put (AX_MSTAT_SLOT a.val) slot).put (AX_GREM_REM a.val) 0
  c.setAxis a { c.axis a with
    gearTarget0 := (c.axis a).target, gearRem0 := 0, gearSlot0 := slot, gearSteps := [] }

/-- The mode's own entry. -/
def Chip.beginMode (c : Chip) (a : Axis) (mode slot : Nat) : Chip :=
  match mode with
  | 3 => c.enterStream a
  | 4 => c.enterGear a slot
  | 5 => (c.put (AX_MSTAT_HOME a.val) 1).setAxis a { c.axis a with homeFrom := c.now }
  | 1 => c.setAxis a { c.axis a with inputDead := false, inputFrom := c.now }
  | _ => c

/-- An accepted entry into `mode` from another mode (R203, R204).  The position target in force goes along from STREAM,
GEAR and HOLD; else the entry snapshot gives it (R211, R216, R223). -/
def Chip.enterMode (c : Chip) (a : Axis) (mode : Nat) (back : Bool) (slot : Nat) : Chip :=
  let dir := c.takenDir a mode back
  let fromOff := c.modeOf a == 0
  let plan := (c.startPlan a dir).2
  let rev := c.reverses a mode back
  let keep := usesPos (c.modeOf a) && usesPos mode && !(c.axis a).takeTarget
  let c := c.leaveMode a 5
  let c := ((c.put (AX_MSTAT_MODE a.val) mode).putF (AX_MSTAT_DIR a.val) dir).put (AX_MSTAT_REACTED a.val) 0
  let c := c.setAxis a { c.axis a with
    entered := true, entries := (c.axis a).entries + 1, localDue := false, takeTarget := usesPos mode && !keep, ref := 0,
    wasStale := (c.axis a).wasStale && !fromOff, orderly := (c.axis a).orderly && !fromOff }
  let c := if mode = 1 then c.endStart a
    else if fromOff then c.planStart a plan
    else if rev then c.planStart a .brake
    else c
  c.beginMode a mode slot

/-- The slot changes behind the latest master step: it governs from the next one on (R223, R225). -/
def Chip.gearCut (c : Chip) (a : Axis) (slot : Nat) : Chip :=
  let x := c.axis a
  match x.gearSteps.getLast? with
  | none => c.setAxis a { x with gearSlot0 := slot }
  | some g => c.setAxis a { x with
      gearSteps := x.gearSteps.dropLast ++ [{ g with cuts := g.cuts ++ [(g.d.natAbs + 1, slot)] }] }

/-- The remainder carried through a ratio change (R225). -/
def Chip.carryRem (c : Chip) (a : Axis) (rem old new : Nat) : Nat :=
  rem * c.get (AX_GSLOT_DEN a.val new) / c.get (AX_GSLOT_DEN a.val old)

/-- The accumulator: target, remainder and slot. -/
abbrev Accum := BitVec 32 × Nat × Nat

/-- One part `d` of a master step with the slot in force (R224). -/
def Chip.gearPart (c : Chip) (a : Axis) (x : Accum) (d : Int) : Accum :=
  let den : Int := c.get (AX_GSLOT_DEN a.val x.2.2)
  let q := c.gets (AX_GSLOT_NUM a.val x.2.2) * d + x.2.1
  (x.1 + BitVec.ofInt 32 (q / den), (q % den).toNat, x.2.2)

/-- The slot changes to `s`, the remainder carried. -/
def Chip.gearTo (c : Chip) (a : Axis) (x : Accum) (s : Nat) : Accum := (x.1, c.carryRem a x.2.1 x.2.2 s, s)

/-- A master step with its cuts, nearest first: `done` of it, in the direction of `g.d`, is already taken. -/
def Chip.gearRun (c : Chip) (a : Axis) (d : Int) : Nat → List (Nat × Nat) → Accum → Accum
  | done, [], x => c.gearPart a x (if d < 0 then -((d.natAbs - done : Nat) : Int) else ((d.natAbs - done : Nat) : Int))
  | done, (k, s) :: l, x =>
    let k' := min k d.natAbs
    let part : Int := ((k' - done : Nat) : Int)
    c.gearRun a d (max done k') l (c.gearTo a (c.gearPart a x (if d < 0 then -part else part)) s)

/-- The accumulator after the kept steps. -/
def Chip.gearNow (c : Chip) (a : Axis) : Accum :=
  let x := c.axis a
  x.gearSteps.foldl (fun y g => c.gearRun a g.d 0 g.cuts y) (x.gearTarget0, x.gearRem0, x.gearSlot0)

/-- Shows the accumulator: the live slot, the remainder, the target (R225). -/
def Chip.showGear (c : Chip) (a : Axis) : Chip :=
  let y := c.gearNow a
  ((c.put (AX_MSTAT_SLOT a.val) y.2.2).put (AX_GREM_REM a.val) y.2.1).setAxis a { c.axis a with target := y.1 }

/-- The oldest kept step is taken for good once no slot change can fall into it any more (R47, R225). -/
def Chip.settleGear (c : Chip) (a : Axis) : Chip :=
  let x := c.axis a
  match x.gearSteps with
  | g :: g1 :: g2 :: l =>
    let y := c.gearRun a g.d 0 g.cuts (x.gearTarget0, x.gearRem0, x.gearSlot0)
    c.setAxis a { x with gearTarget0 := y.1, gearRem0 := y.2.1, gearSlot0 := y.2.2, gearSteps := g1 :: g2 :: l }
  | _ => c

/-- GEAR_STEP (R224): the accumulator takes the master's step `d` of this tick. -/
def Chip.gearStep (c : Chip) (a : Axis) (d : Int) (jump : Bool) : Chip :=
  let c := c.settleGear a
  let c := c.setAxis a { c.axis a with gearSteps := (c.axis a).gearSteps ++ [⟨c.now, d, []⟩] }
  let c := c.markIf jump (AX_MSTAT_GJUMP a.val)
  c.showGear a

/-- Keeps the cuts of a step in order of distance, a new one behind those at its own distance. -/
def insertCut (k s : Nat) : List (Nat × Nat) → List (Nat × Nat)
  | [] => [(k, s)]
  | x :: l => if x.1 ≤ k then x :: insertCut k s l else (k, s) :: x :: l

/-- A GEAR_SLOT firing cuts the master step of its tick: at POS on the master's own timebase, else at the end of the
step, so that it governs from tick t + 1 on (R225). -/
def Chip.gearFire (c : Chip) (a : Axis) (f : Fire) (slot : Nat) : Chip :=
  let x := c.axis a
  let own := f.tb == 16 + c.get (AX_GEARCFG_MASTER a.val)
  let dist (g : GearStep) : Nat :=
    if own then (if g.d < 0 then f.v0 - cuePos f.cue else cuePos f.cue - f.v0).toNat else g.d.natAbs + 1
  if x.gearSteps.any fun g => g.tick == f.since then
    c.setAxis a { x with
      gearSteps := x.gearSteps.map fun g => if g.tick = f.since then { g with cuts := insertCut (dist g) slot g.cuts } else g }
  else c.gearCut a slot

/-- GEAR_SLOT (R39, R225): the slot is stored; an axis in GEAR changes its ratio. -/
def Chip.gearSlot (c : Chip) (f : Fire) : Chip :=
  let a : Axis := ⟨cueArg f.cue % 8, by omega⟩
  let slot := cueArg f.cue / 8 % 8
  let c := c.setAxis a { c.axis a with gearStored := slot }
  if c.modeOf a == 4 then
    let c := (c.gearFire a f slot).showGear a
    c.put (AX_PTGT_TARGET a.val) (c.axis a).target.toNat
  else c

/-- A reversal within a mode (R187): the axis brakes and starts in the other direction; a slice whose snapshot is older
does not know of it (R58). -/
def Chip.reverse (c : Chip) (a : Axis) (back : Bool) : Chip :=
  let c := (c.putF (AX_MSTAT_DIR a.val) back).planStart a .brake
  c.setAxis a { c.axis a with ref := 0, entries := (c.axis a).entries + 1 }

/-- An accepted command that repeats the mode in force: another DIR is a reversal, HOME restarts with its timeout, GEAR
changes its slot from the next master step, and the others change nothing (R203, R208, R218, R223). -/
def Chip.repeatMode (c : Chip) (a : Axis) (mode : Nat) (back : Bool) (slot : Nat) : Chip :=
  let rev := c.reverses a mode back
  let c := c.put (AX_MSTAT_REACTED a.val) 0
  let c := if rev then c.reverse a (c.takenDir a mode back) else c
  match mode with
  | 4 => ((c.setAxis a { c.axis a with gearStored := slot }).gearCut a slot).showGear a
  | 5 => (c.put (AX_MSTAT_HOME a.val) 1).setAxis a { c.axis a with
      stallFrom := none, homeLate := false, homeFrom := c.now, entries := (c.axis a).entries + 1 }
  | _ => c

/-- A command into `mode` over path `p` (R200 to R204). -/
def Chip.command (c : Chip) (p : Path) (a : Axis) (mode : Nat) (back : Bool) (slot : Nat) : Judged :=
  c.request ((!c.owns p a, .locked) :: c.modeConds a mode back) fun c =>
    if c.modeOf a == mode then c.repeatMode a mode back slot else c.enterMode a mode back slot

/-- OFF (R201, R202): accepted over either path whatever the owner, and refused only in DARK. -/
def Chip.commandOff (c : Chip) (a : Axis) : Judged :=
  c.request [] fun c => (c.enterOff a 5).put (AX_MSTAT_REACTED a.val) 0

/-- OFF. -/
def execOff (p : Path) (a : Axis) (s : State) : Out := s.ask p fun c => c.commandOff a

/-- CURVE. -/
def execCurve (p : Path) (a : Axis) (back : Bool) (s : State) : Out := s.ask p fun c => c.command p a 1 back 0

/-- COMPAT. -/
def execCompat (p : Path) (a : Axis) (s : State) : Out := s.ask p fun c => c.command p a 2 false 0

/-- STREAM. -/
def execStream (p : Path) (a : Axis) (s : State) : Out := s.ask p fun c => c.command p a 3 false 0

/-- The slot a GEAR command takes: the named one, or with SLOT_KEEP the one last stored (R223). -/
def Chip.gearChoice (c : Chip) (a : Axis) (keep : Bool) (slot : Nat) : Nat :=
  if keep then (c.axis a).gearStored else slot

/-- An accepted GEAR command stores its slot as the last one. -/
def Chip.commandGear (c : Chip) (p : Path) (a : Axis) (keep : Bool) (slot : Nat) : Judged :=
  let v := c.gearChoice a keep slot
  let r := c.command p a 4 false v
  if r.2 = .ok then (r.1.setAxis a { r.1.axis a with gearStored := v }, .ok) else r

/-- GEAR. -/
def execGear (p : Path) (a : Axis) (keep : Bool) (slot : Fin 8) (s : State) : Out :=
  s.ask p fun c => c.commandGear p a keep slot.val

/-- HOME. -/
def execHome (p : Path) (a : Axis) (back : Bool) (s : State) : Out := s.ask p fun c => c.command p a 5 back 0

/-- HOLD. -/
def execHold (p : Path) (a : Axis) (s : State) : Out := s.ask p fun c => c.command p a 6 false 0

/-- LOCAL_CURVE_ENTRY (R204): judged like a command, and again until it is accepted. -/
def Chip.localCurve (c : Chip) (a : Axis) : Chip :=
  if (c.axis a).localDue && c.get (AX_CFG_OWNER a.val) == 2 then
    let back := c.flag (AX_CFG_LDIR a.val)
    (c.request (c.modeConds a 1 back) fun c =>
      if c.modeOf a == 1 then c.setAxis a { c.axis a with localDue := false } else c.enterMode a 1 back 0).1
  else c

/-- LOCAL_CURVE_ENTRY. -/
def execLocalCurveEntry (a : Axis) (s : State) : Out := s.run fun c => c.localCurve a

/-! ### Switch-over of a homing axis (R367) -/

/-- Homing ends when the source in use after a switch is sensorless. -/
def Chip.switchEndsHome (c : Chip) (a : Axis) : Chip :=
  if c.modeOf a == 5 && c.usesSensorless a then c.enterOff a 5 else c

/-- SWITCH_OVER. -/
def execSwitchOver (a : Axis) (s : State) : Out :=
  s.run fun c => if c.switchNow a then (c.switchOver a).switchEndsHome a else c

/-- BACK (R169): an accepted return takes effect from the second tick after the write. -/
def Chip.back (c : Chip) (a : Axis) : Judged :=
  c.request [(!(c.onSec a && c.flag (AX_SRCSTAT_PRI_OK a.val) && c.flag (AX_SRCSTAT_OFS_OK a.val)), .state)] fun c =>
    c.setAxis a { c.axis a with backDue := some (c.now + 2) }

/-- A due return to the primary takes effect (R169); one whose primary has been lost again meanwhile is dropped, since a lost
primary takes nothing back (R166; DEDUCED, log entry 8). -/
def Chip.backNow (c : Chip) (a : Axis) : Chip :=
  match (c.axis a).backDue with
  | none => c
  | some t =>
    if c.now < t then c
    else
      let c := c.setAxis a { c.axis a with backDue := none }
      if c.onSec a && c.flag (AX_SRCSTAT_PRI_OK a.val) then
        (((c.putF (AX_SRCSTAT_ON_SEC a.val) false).rebase a).switchNoted a).switchEndsHome a
      else c

/-- BACK. -/
def execBack (p : Path) (a : Axis) (s : State) : Out := s.ask p fun c => c.back a

/-! ### The curve input (R201, R205) -/

/-- AX_CIN_WRITE: only over the path that SRC names. -/
def Chip.writeCin (c : Chip) (p : Path) (a : Axis) (v : BitVec 16) : Judged :=
  c.request [(c.get (AX_CRVCFG_SRC a.val) != (match p with | .host => 0 | .can => 1), .locked)] fun c =>
    ((c.put (AX_CIN_VALUE a.val) v.toNat).put (AX_MSTAT_INFAIL a.val) 0).setAxis a
      { c.axis a with inputDead := false, inputFrom := c.now }

/-- AX_CIN_WRITE. -/
def execAxCinWrite (p : Path) (a : Axis) (v : BitVec 16) (s : State) : Out := s.ask p fun c => c.writeCin p a v

/-- CURVE_INPUT_TIMEOUT: no write for TIMEOUT ms since the entry into CURVE or since the last write; TIMEOUT = 0 never
fails. -/
def Chip.cinTimeout (c : Chip) (a : Axis) : Chip :=
  let t := c.get (AX_CRVCFG_TIMEOUT a.val)
  if c.modeOf a == 1 && decide (c.get (AX_CRVCFG_SRC a.val) ≤ 1) && t != 0 &&
      decide ((c.axis a).inputFrom + 250000 * t ≤ c.now) then
    (c.put (AX_MSTAT_INFAIL a.val) 1).setAxis a { c.axis a with inputDead := true }
  else c

/-- CURVE_INPUT_TIMEOUT. -/
def execCurveInputTimeout (a : Axis) (s : State) : Out := s.run fun c => c.cinTimeout a

/-- The latest input x, and whether it fails (Table 8-2). -/
def Chip.curveInput (c : Chip) (a : Axis) : Nat × Bool :=
  let idx := c.get (AX_CRVCFG_IDX a.val)
  let use (fail : Bool) (x : Nat) : Nat × Bool := (if fail then 0 else x, fail)
  match c.get (AX_CRVCFG_SRC a.val) with
  | 0 | 1 => use (c.axis a).inputDead (c.get (AX_CIN_VALUE a.val))
  | 2 =>
    let r := c.hkUsed.toList.getD idx (0, false)
    use (r.2 || decide (4 ≤ c.hkAge.toList.getD idx 0)) r.1.toNat
  | _ =>
    let t := c.get (FP_FREQ_PERIOD (portOf idx).val)
    use (c.flag (FP_STAT_FAULTY (portOf idx).val)) (if t = 0 then 0 else min 65535 (4000000000 / t))

/-! ### The compatibility block (R209) -/

/-- CMP_CTRL_WRITE. -/
def Chip.writeCmpCtrl (c : Chip) (p : Path) (a : Axis) (data : Word) : Judged :=
  c.request [(!c.owns p a, .locked)] fun c => c.put (CMP_CTRL_RUN a.val) ((CMP_CTRL_RUN a.val).read data)

/-- CMP_CTRL_WRITE. -/
def execCmpCtrlWrite (p : Path) (a : Axis) (data : Word) (s : State) : Out := s.ask p fun c => c.writeCmpCtrl p a data

/-- The new target reverses the commanded direction of an axis in COMPAT. -/
def Chip.targetReverses (c : Chip) (a : Axis) (v : Nat) : Bool :=
  c.modeOf a == 2 && decide (signed 16 v < 0) != c.flag (AX_MSTAT_DIR a.val)

/-- CMP_TARGET_WRITE: in COMPAT with RUN = 1 a reversal is judged under R187; an accepted one brakes, and the reference
then rises from 0 (R210).  With RUN = 0 the sign only names the direction, and the reference falls on to 0. -/
def Chip.writeCmpTarget (c : Chip) (p : Path) (a : Axis) (data : Word) : Judged :=
  let v := (CMP_TARGET_TARGET a.val).read data
  let back := decide (signed 16 v < 0)
  let rev := c.targetReverses a v
  let runs := c.flag (CMP_CTRL_RUN a.val)
  c.request [(!c.owns p a, .locked), (rev && runs && c.reversalBad a, .wrongDir)] fun c =>
    let c := c.put (CMP_TARGET_TARGET a.val) v
    if !rev then c else if runs then c.reverse a back else c.putF (AX_MSTAT_DIR a.val) back

/-- CMP_TARGET_WRITE. -/
def execCmpTargetWrite (p : Path) (a : Axis) (data : Word) (s : State) : Out :=
  s.ask p fun c => c.writeCmpTarget p a data

/-- A ramp of the compatibility block: 0 is refused. -/
def Chip.writeRamp (c : Chip) (p : Path) (a : Axis) (f : Field) (data : Word) : Judged :=
  c.request [(!c.owns p a, .locked), (f.read data == 0, .range)] fun c => c.put f (f.read data)

/-- CMP_ACCEL_WRITE. -/
def execCmpAccelWrite (p : Path) (a : Axis) (data : Word) (s : State) : Out :=
  s.ask p fun c => c.writeRamp p a (CMP_ACCEL_ACCEL a.val) data

/-- CMP_DECEL_WRITE. -/
def execCmpDecelWrite (p : Path) (a : Axis) (data : Word) (s : State) : Out :=
  s.ask p fun c => c.writeRamp p a (CMP_DECEL_DECEL a.val) data

/-! ### Setpoints (R212) -/

/-- The holding register of a path. -/
def Chip.spHold (c : Chip) (p : Path) (a : Axis) : Word :=
  match p with | .host => (c.axis a).spHost | .can => (c.axis a).spCan

/-- AX_SPLO_WRITE: loads the path's holding register. -/
def Chip.writeSplo (c : Chip) (p : Path) (a : Axis) (v : Word) : Judged :=
  (match p with
   | .host => c.setAxis a { c.axis a with spHost := v }
   | .can => c.setAxis a { c.axis a with spCan := v }, .ok)

/-- AX_SPLO_WRITE. -/
def execAxSploWrite (p : Path) (a : Axis) (data : Word) (s : State) : Out := s.ask p fun c => c.writeSplo p a data

/-- A tag is not ahead of `x`: the difference modulo 65,536 is 0 or above 32,767. -/
def notAhead (tag x : Nat) : Bool :=
  let d := (tag + 65536 - x % 65536) % 65536
  d == 0 || decide (32767 < d)

/-- The last accepted tag; 0 until the first since the entry into STREAM. -/
def Chip.lastTag (c : Chip) (a : Axis) : Nat := if (c.axis a).tagged then c.get (AX_STRSTAT_LASTTAG a.val) else 0

/-- The refusing conditions of a setpoint entry. -/
def Chip.setpointConds (c : Chip) (p : Path) (a : Axis) (tag : Nat) : List (Bool × Reason) :=
  [ (c.modeOf a != 3, .state)
  , (!c.owns p a, .locked)
  , (notAhead tag (c.lastTag a), .range)
  , (c.get (AX_STRSTAT_CREDITS a.val) == 0, .credit)
  , (notAhead tag (c.get (AX_SPC_P a.val)), .late) ]

/-- An accepted entry enters the FIFO and takes one credit. -/
def Chip.setpoint (c : Chip) (p : Path) (a : Axis) (x : Setpoint) : Judged :=
  c.request (c.setpointConds p a x.tag) fun c =>
    let c := (c.put (AX_STRSTAT_CREDITS a.val) (c.get (AX_STRSTAT_CREDITS a.val) - 1)).put
      (AX_STRSTAT_LASTTAG a.val) x.tag
    c.setAxis a { c.axis a with fifo := (c.axis a).fifo ++ [x], tagged := true }

/-- The entry that a write of AX_SPHI submits. -/
def Chip.setpointOf (c : Chip) (p : Path) (a : Axis) (data : Word) : Setpoint :=
  ⟨c.spHold p a, (AX_SPHI_TAG a.val).read data, (AX_SPHI_BLK_END a.val).read data == 1⟩

/-- SETPOINT_SUBMIT. -/
def execSetpointSubmit (p : Path) (a : Axis) (data : Word) (s : State) : Out :=
  s.ask p fun c => c.setpoint p a (c.setpointOf p a data)

/-! ### Cues and timers of an axis (R193, R214, R220) -/

/-- The axis a cue names. -/
def fireAxis (f : Fire) : Axis := ⟨cueArg f.cue % 8, by omega⟩

/-- ADV_SET (R193): stored, and in force from the first slice whose snapshot is taken after the firing. -/
def Chip.advSet (c : Chip) (f : Fire) : Chip :=
  c.setAxis (fireAxis f) { c.axis (fireAxis f) with advSel := cueArg f.cue / 8 % 2 == 1 }

/-- A RELEASE can act (R39, R214): the axis is enabled, streams in gated blocks and has none pending. -/
def Chip.releaseAble (c : Chip) (a : Axis) : Bool :=
  c.axisOn a && c.modeOf a == 3 && c.flag (AX_STRCFG_GATED a.val) && !c.flag (AX_MSTAT_PEND a.val)

/-- RELEASE (R214): ends the hold, or becomes pending. -/
def Chip.release (c : Chip) (a : Axis) : Chip :=
  if c.flag (AX_MSTAT_HELD a.val) then c.put (AX_MSTAT_HELD a.val) 0 else c.put (AX_MSTAT_PEND a.val) 1

/-- HOMING_TIMEOUT (R220): TO ms after the acceptance; the first slice whose snapshot is taken from now on ends homing. -/
def Chip.homingTimeout (c : Chip) (a : Axis) : Chip :=
  if c.modeOf a == 5 && c.get (AX_MSTAT_HOME a.val) == 1 &&
      decide ((c.axis a).homeFrom + 250000 * c.get (AX_HOME2_TO a.val) ≤ c.now) then c.setAxis a { c.axis a with homeLate := true } else c

/-- HOMING_TIMEOUT. -/
def execHomingTimeout (a : Axis) (s : State) : Out := s.run fun c => c.homingTimeout a

end Sys2Proof.Machine
end

