-- ==== Sys2Proof/Machine/Ports.lean ====
section
/-! DEFINITION. Feedback ports (06_feedback_ports.md): port states, the wire check, counting and the edge ledger, the
index, SSI groups, digital inputs and limits, and encoder emulation. -/
namespace Sys2Proof.Machine

/-! ### Groups -/

/-- Ports run in HOUSE, STANDBY and SHOW with an admitted image (R127). -/
def Chip.portsRun (c : Chip) : Bool := c.cfgOk && !c.inDark

/-- Port `p` leads an input group (Table 6-1). -/
def Chip.inputLead (c : Chip) (p : Port) : Bool :=
  c.leads p 1 || c.leads p 2 || c.leads p 3 || (c.leads p 4 && c.get (FP_CFG_DSUB p.val) != 5)

/-- A pulse-direction group. -/
def Chip.pulseLead (c : Chip) (p : Port) : Bool := c.leads p 4 && c.get (FP_CFG_DSUB p.val) == 2

/-- Ports of a group by its function (Table 6-1). -/
def Chip.groupSize (c : Chip) (p : Port) : Nat :=
  match c.get (FP_CFG_FUNC p.val) with
  | 1 | 2 | 5 => 3
  | 3 => 2
  | 4 => if c.get (FP_CFG_DSUB p.val) = 2 then 2 else 1
  | _ => 0

/-- The lead of the group that port `p` belongs to. -/
def Chip.leadOf (c : Chip) (p : Port) : Port := portOf (c.get (FP_CFG_LEAD p.val))

/-- The ports of the group led by `p`, the lead first. -/
def Chip.membersOf (c : Chip) (p : Port) : List Port := (List.range (c.groupSize p)).map fun i => portOf (p.val + i)

/-- The port's pair is an input with a wire check: all pairs of an input group but the clock of an SSI group. -/
def Chip.pairIsInput (c : Chip) (p : Port) : Bool :=
  c.inputLead (c.leadOf p) && (c.membersOf (c.leadOf p)).contains p && !(c.leads p 3)

/-- The group that counts, or reads a position: ABZ, Hall, SSI or pulse-direction (R125). -/
def Chip.positionLead (c : Chip) (p : Port) : Bool := c.leads p 1 || c.leads p 2 || c.leads p 3 || c.pulseLead p

/-- The master timebase that group `p` feeds (Table 6-6). -/
def Chip.masterOf (c : Chip) (p : Port) : Option Tb :=
  let d := c.get (FP_CFG_DEST p.val)
  if c.positionLead p && decide (16 ≤ d) && decide (d < 20) then some (tbOf d) else none

/-! ### Delivery to the consumer (R31, R130) -/

/-- Feeds a master position from its group (R31); `motion` tells that the group's count moved with the shaft. -/
def Chip.feedMaster (c : Chip) (p : Port) (n : Tb) (motion : Bool) : Chip :=
  if c.portState p != 1 then c
  else if c.linear n.val then
    let u := (c.tb n).unwrapped
    (c.markIf (c.linearOver n u) (CUE_TB_STAT_LIMIT n.val)).feed n (c.linearSource n u) motion
  else c.feed n (c.portAngle p) motion

/-- The group's position reaches its consumer, in SERVICE only (R130). -/
def Chip.deliver (c : Chip) (p : Port) (motion : Bool) : Chip :=
  let c := match c.masterOf p with | some n => c.feedMaster p n motion | none => c
  if c.portState p = 1 then c.each (c.axesOfPort p) fun c a => c.feedAxis a motion else c

/-- The consumer's next sample is a jump: an index correction (R32, R142). -/
def Chip.deliverJump (c : Chip) (p : Port) : Chip :=
  let c := c.deliver p false
  if c.portState p != 1 then c
  else
    let c := match c.masterOf p with | some n => c.jumpNext n | none => c
    c.each ((c.axesOfPort p).filter fun a => (c.onSec a && c.srcIdx a true == p.val) || (!c.onSec a && c.srcIdx a false == p.val))
      fun c a => (c.jumpNext (tbmOf a)).jumpNext (tbeOf a)

/-- The port state changes (Table 6-2).  A master position becomes STALE outside SERVICE and starts again with a jump;
the unwrapped count begins at the first SERVICE (R31); the axes judge their sources anew (R130). -/
def Chip.setPortState (c : Chip) (p : Port) (st : Nat) : Chip :=
  let was := c.portState p
  let c := c.put (FP_STAT_PSTATE p.val) st
  let c := match c.masterOf p with
    | none => c
    | some n =>
      if st = 1 then
        let x := c.tb n
        let c := if x.uStarted then c
          else c.setTb n { x with uStarted := true, unwrapped := c.get (FP_POS_COUNT p.val) }
        (c.regainTb n).feedMaster p n false
      else if was = 1 then c.loseTb n else c
  let c := c.each (c.axesOfPort p) Chip.refreshSources
  if st = 1 then c.each (c.axesOfPort p) fun c a => c.feedAxis a false else c

/-! ### Faults of a port (R131, R156) -/

/-- A faulty cause (R131): FAULTY, and RECOVER except in TEST. -/
def Chip.makeFaulty (c : Chip) (p : Port) : Chip :=
  let c := c.put (FP_STAT_FAULTY p.val) 1
  if c.portState p = 2 || c.portState p = 3 then c else c.setPortState p 3

/-- An event that makes the group faulty, with its flag (Table 6-5). -/
def Chip.portFault (c : Chip) (p : Port) (flag : Field) : Chip := ((c.mark flag).raise (srcPort p)).makeFaulty p

/-- Whether the wire check of a whole group passes at present. -/
def Chip.wiresPass (c : Chip) (p : Port) : Bool := (c.membersOf p).all fun m => !(c.port m).wireBad

/-- WIRE_CHECK_FAIL (R128, R129, R156): one failure for each episode, shown in the member and in the lead. -/
def Chip.wireCheckFail (c : Chip) (p : Port) : Chip :=
  if !c.portsRun || !c.pairIsInput p || (c.port p).wireBad then c
  else
    let c := (c.setPort p { c.port p with wireBad := true }).mark (FP_STAT_WIRE p.val)
    c.portFault (c.leadOf p) (FP_STAT_WIRE (c.leadOf p).val)

/-- WIRE_CHECK_FAIL. -/
def execWireCheckFail (p : Port) (s : State) : Out := s.run fun c => c.wireCheckFail p

/-- A sample of the group's wire comparators: bit `i` tells whether the wires of member `i` agree, or lie mid-level.
A sample without agreement ends an episode (R128, R129). -/
def Chip.wireSample (c : Chip) (p : Port) (wires : BitVec 3) : Chip :=
  c.each (c.membersOf p) fun c m =>
    let x := c.port m
    if x.wireBad && !wires.getLsbD (m.val - p.val) then c.setPort m { x with wireBad := false, wireOkTick := c.now } else c

/-! ### Counting (R134 to R140) -/

/-- Place of a code in the forward sequence (R137): A or H1 is bit 0. -/
def codePlace (func : Nat) (code : BitVec 3) : Option Nat :=
  if func = 2 then
    match code.toNat with
    | 1 => some 0 | 3 => some 1 | 2 => some 2 | 6 => some 3 | 4 => some 4 | 5 => some 5 | _ => none
  else
    match code.toNat % 4 with
    | 0 => some 0 | 1 => some 1 | 3 => some 2 | _ => some 3

/-- Codes of a turn of the sequence. -/
def codeCount (func : Nat) : Nat := if func = 2 then 6 else 4

/-- The step of a code change: forward, backward, or not a step. -/
def codeStep (func : Nat) (old new : BitVec 3) : Option Int :=
  match codePlace func old, codePlace func new with
  | some i, some j =>
    let d := (j + codeCount func - i) % codeCount func
    if d = 1 then some 1 else if d = codeCount func - 1 then some (-1) else none
  | _, _ => none

/-- Counting lines of a group, as a mask of its sampled lines; a digital input but for the pulse line of DSUB 2 has
none. -/
def Chip.countMask (c : Chip) (p : Port) : BitVec 3 :=
  match c.get (FP_CFG_FUNC p.val) with
  | 1 => 0b011
  | 2 => 0b111
  | 4 => if c.get (FP_CFG_DSUB p.val) = 2 then 0b001 else 0
  | _ => 0

/-- How many lines of a mask are set. -/
def ones (m : BitVec 3) : Nat := (m.getLsbD 0).toNat + (m.getLsbD 1).toNat + (m.getLsbD 2).toNat

/-- Moves the extended count by `d` (R140), and with it an unwrapped master count (R31). -/
def Chip.moveCount (c : Chip) (p : Port) (d : Int) : Chip :=
  let cpr : Int := c.get (FP_CPR_CPR p.val)
  let v := (c.get (FP_POS_COUNT p.val) : Int) + d
  let c := (c.put (FP_POS_COUNT p.val) (v % cpr).toNat).addWrap (FP_REV_REV p.val) (v / cpr)
  match c.masterOf p with
  | some n => if (c.tb n).uStarted then c.setTb n { c.tb n with unwrapped := (c.tb n).unwrapped + d } else c
  | none => c

/-- FP_CFG.REV swaps forward and backward (R137). -/
def Chip.signedStep (c : Chip) (p : Port) (d : Int) : Int := if c.flag (FP_CFG_REV p.val) then -d else d

/-- The step that a change from `old` to `new` of the counting lines makes, if it may be booked as motion.  For a
pulse-direction group the direction level must have been stable for MIN_EDGE ticks (R138). -/
def Chip.edgeStep (c : Chip) (p : Port) (old new : BitVec 3) : Option Int :=
  let x := c.port p
  if c.pulseLead p then
    if c.get (FP_CHK_MIN_EDGE p.val) ≤ c.now - x.dirTick then
      some (c.signedStep p (if x.dirHigh then 1 else -1)) else none
  else (codeStep (c.get (FP_CFG_FUNC p.val)) old new).map (c.signedStep p)

/-- An edge that enters or leaves an invalid Hall code (R137). -/
def Chip.hallEdge (c : Chip) (p : Port) (old new : BitVec 3) : Bool :=
  c.leads p 2 && ((codePlace 2 old).isNone || (codePlace 2 new).isNone)

/-- The axes that have the Hall group `p` as their secondary. -/
def Chip.hallAxes (c : Chip) (p : Port) : List Axis :=
  (c.axesOfPort p).filter fun a => c.srcType a true == 1 && c.srcIdx a true == p.val

/-- The rotor angle of the primary: where the axis uses it, that of the electrical timebase (R158). -/
def Chip.primaryTheta (c : Chip) (a : Axis) : BitVec 32 :=
  if c.onSec a then c.srcTheta a false else (c.tb (tbeOf a)).val - c.reg (AX_EREF a.val)

/-- A step of a Hall secondary from `b` to `c`: the difference of the primary's rotor angle and that of the edge, which lies
where the higher of its two counts begins (R164). -/
def Chip.noteHallEdge (c : Chip) (b : Chip) (p : Port) (d : Int) : Chip :=
  c.each (c.hallAxes p) fun c a =>
    let e := if 0 < d then c.srcTheta a true else b.srcTheta a true
    c.setAxis a { c.axis a with hallEdge := some (c.now, b.primaryTheta a - e) }

/-- One edge booked as motion: its ledger, and the count. -/
def Chip.bookMotion (c : Chip) (p : Port) (d : Int) : Chip :=
  ((c.add64 (if d < 0 then FP_LMB p.val else FP_LMF p.val) 1).moveCount p d).noteHallEdge c p d

/-- Edges booked as illegal transitions (R136); in ACQUIRE the acquire time starts anew. -/
def Chip.bookIllegal (c : Chip) (p : Port) (n : Nat) : Chip :=
  ((c.add64 (FP_LIL p.val) n).mark (FP_STAT_ILLEGAL p.val)).setPort p { c.port p with acqTick := c.now }

/-- Edges booked as edge faults, each one event (R135). -/
def Chip.bookFault (c : Chip) (p : Port) (n : Nat) : Chip :=
  ((c.add64 (FP_LEF p.val) n).mark (FP_STAT_EDGE p.val)).report (srcPort p) n 0 0 false

/-- Books one tick of a group whose counting lines go from `old` to `new` (R134 to R138), `n` lines having changed. -/
def Chip.bookEdges (c : Chip) (p : Port) (old new : BitVec 3) (n : Nat) : Chip :=
  let x := c.port p
  let service := c.portState p == 1
  let step := c.edgeStep p old new
  let inTime := !x.anyEdge || decide (c.get (FP_CHK_MIN_EDGE p.val) ≤ c.now - x.lastEdge)
  let c := c.add64 (FP_LTOT p.val) n
  if service then
    if n = 1 && c.hallEdge p old new then c.bookIllegal p 1
    else match step with
      | some d => if n = 1 && inTime then c.bookMotion p d else c.bookFault p n
      | none => c.bookFault p n
  else
    match step with
    | some d => if n = 1 then c.bookMotion p d else c.bookIllegal p n
    | none => c.bookIllegal p n

/-! ### The index (R141 to R143) -/

/-- The deviation of the count at an index event (R142). -/
def Chip.indexDev (c : Chip) (p : Port) : Int :=
  let cpr : Int := c.get (FP_CPR_CPR p.val)
  ((c.get (FP_POS_COUNT p.val) : Int) - c.get (FP_IDXPOS_IDXPOS p.val) + cpr / 2) % cpr - cpr / 2

/-- An index event is checked (R142). -/
def Chip.indexCheck (c : Chip) (p : Port) : Chip :=
  let d := c.indexDev p
  if d = 0 then c
  else if d.natAbs ≤ c.get (FP_IDX_TOL p.val) then
    ((c.moveCount p (-d)).add64 (FP_LIC p.val) (-d)).deliverJump p
  else ((c.puts (FP_IDXDEV_DEV p.val) d).mark (FP_IDXDEV_VALID p.val)).portFault p (FP_STAT_INDEX p.val)

/-- INDEX_EVENT: Z reads high and (A, B) equals GATE, Z having fallen since the last one (R141). -/
def Chip.indexEvent (c : Chip) (p : Port) : Chip :=
  let x := c.port p
  let gate := c.get (FP_IDX_GATE p.val)
  let here := x.lines.getLsbD 0 == gate.testBit 1 && x.lines.getLsbD 1 == gate.testBit 0
  if c.leads p 1 && x.evHigh && x.idxArmed && here then
    let c := c.setPort p { x with idxArmed := false }
    match c.get (FP_IDX_MODE p.val) with
    | 0 => c
    | 2 =>
      if x.learned then c.indexCheck p
      else (c.put (FP_IDXPOS_IDXPOS p.val) (c.get (FP_POS_COUNT p.val))).setPort p { c.port p with learned := true }
    | _ => c.indexCheck p
  else c

/-- The counting lines of group `p` as a sample of its lines shows them. -/
def Chip.sampledLines (c : Chip) (p : Port) (lines : BitVec 3) : BitVec 3 :=
  ((c.port p).lines &&& ~~~c.countMask p) ||| (lines &&& c.countMask p)

/-- The first sample of a group's lines, the event line in its place among them: levels, and no edges (R127, R134).  It may
show the index at once (R141); a Hall code is held from here on (R137). -/
def Chip.firstSample (c : Chip) (p : Port) (lines : BitVec 3) : Chip :=
  let x := { c.port p with lines := c.sampledLines p lines, linesKnown := true, lastEdge := c.now, hallHeld := false }
  let z := lines.getLsbD 2
  if c.leads p 1 then (c.setPort p { x with evHigh := z, idxArmed := x.idxArmed || !z }).indexEvent p
  else if c.pulseLead p then c.setPort p { x with dirHigh := lines.getLsbD 1, dirTick := c.now }
  else c.setPort p x

/-- A tick's sample of a group's counting lines and wires: what changed is booked, the group's code follows, and the
consumer gets the position in the next tick (R135 to R139). -/
def Chip.portEdge (c : Chip) (p : Port) (lines wires : BitVec 3) : Chip :=
  if !c.portsRun || !c.inputLead p then c
  else
    let x := c.port p
    let m := c.countMask p
    let new := c.sampledLines p lines
    let n := ones (x.lines ^^^ new)
    let c := c.wireSample p wires
    if !x.linesKnown then c.firstSample p lines
    else if n = 0 then c
    else
      let c := c.bookEdges p (x.lines &&& m) (new &&& m) n
      let y := c.port p
      let c := c.setPort p { y with
        lines := new, lastEdge := c.now, anyEdge := true
        hallHeld := y.hallHeld && (codePlace 2 (new &&& m)).isNone }
      (c.deliver p true).indexEvent p

/-- PORT_EDGE. -/
def execPortEdge (p : Port) (lines wires : BitVec 3) (s : State) : Out := s.run fun c => c.portEdge p lines wires

/-- An invalid code of a Hall group has been sampled in TAGREE ticks (R137). -/
def Chip.hallBad (c : Chip) (p : Port) : Bool :=
  (c.port p).linesKnown && (codePlace 2 (c.port p).lines).isNone &&
    decide (c.get (FP_CHK_TAGREE p.val) ≤ c.now + 1 - (c.port p).lastEdge)

/-- HALL_CODE_TIMEOUT (R137): an invalid code held for TAGREE ticks, once for each time it is held. -/
def Chip.hallTimeout (c : Chip) (p : Port) : Chip :=
  if c.portsRun && c.leads p 2 && c.hallBad p && !(c.port p).hallHeld then
    (c.setPort p { c.port p with hallHeld := true }).portFault p (FP_STAT_HALLC p.val)
  else c

/-- HALL_CODE_TIMEOUT. -/
def execHallCodeTimeout (p : Port) (s : State) : Out := s.run fun c => c.hallTimeout p

/-- Adds an event to FP_EVT, which holds at its largest value. -/
def Chip.portEvent (c : Chip) (p : Port) : Chip := c.bump (FP_EVT_EVENTS p.val) 1

/-- EVENT_LINE_EDGE (R138, R141): an edge of the event line at port `p`, the Z or direction line of its group. -/
def Chip.eventLine (c : Chip) (p : Port) (level : Bool) : Chip :=
  let l := c.leadOf p
  let x := c.port l
  if !c.portsRun then c
  else if c.leads l 1 && p.val == l.val + 2 then
    ((c.portEvent l).setPort l { x with evHigh := level, idxArmed := x.idxArmed || !level }).indexEvent l
  else if c.pulseLead l && p.val == l.val + 1 then
    (c.portEvent l).setPort l { x with dirHigh := level, dirTick := c.now }
  else c

/-- EVENT_LINE_EDGE. -/
def execEventLineEdge (p : Port) (level : Bool) (s : State) : Out := s.run fun c => c.eventLine p level

/-! ### ACQUIRE, TEST and RECOVER (R130 to R133) -/

/-- A limit's trip latches (R149). -/
def Chip.isLimit (c : Chip) (p : Port) : Bool :=
  c.leads p 4 && (c.get (FP_CFG_DSUB p.val) == 3 || c.get (FP_CFG_DSUB p.val) == 4)

/-- ACQ_T in ticks. -/
def Chip.acqTime (c : Chip) (p : Port) : Nat := c.get (FP_CHK_ACQ_T p.val) * 250000

/-- The wire check has passed continuously for ACQ_T ms (R132). -/
def Chip.wiresLong (c : Chip) (p : Port) : Bool :=
  c.wiresPass p && (c.membersOf p).all fun m => decide (c.acqTime p ≤ c.now - (c.port m).wireOkTick)

/-- What ACQUIRE waits for (Table 6-2). -/
def Chip.acquired (c : Chip) (p : Port) : Bool :=
  c.wiresLong p && decide (c.acqTime p ≤ c.now - (c.port p).acqTick) && (!c.leads p 2 || (codePlace 2 (c.port p).lines).isSome) && (!c.leads p 3 || decide (4 ≤ (c.port p).ssiGood))

/-- ACQUIRE_COMPLETE: the group enters SERVICE; a limit found qualified active latches its trip (R149). -/
def Chip.acquireComplete (c : Chip) (p : Port) : Chip :=
  if c.portsRun && c.inputLead p && c.portState p == 0 && c.acquired p then
    let c := c.setPortState p 1
    if c.isLimit p && (c.port p).digQual && c.flag (FP_STAT_LEVEL p.val) then c.put (FP_STAT_LIM_TRIP p.val) 1 else c
  else c

/-- ACQUIRE_COMPLETE. -/
def execAcquireComplete (p : Port) (s : State) : Out := s.run fun c => c.acquireComplete p

/-- Entry into ACQUIRE: learning of the index and the count of accepted frames start anew (R143, Table 6-2). -/
def Chip.acquire (c : Chip) (p : Port) : Chip :=
  (c.setPort p { c.port p with learned := false, ssiGood := 0, acqTick := c.now }).setPortState p 0

/-- The axis that a group names as its DEST. -/
def Chip.destAxis (c : Chip) (p : Port) : Option Axis :=
  let d := c.get (FP_CFG_DEST p.val)
  if h : 8 ≤ d ∧ d < 16 then some ⟨d - 8, by omega⟩ else none

/-- The group feeds an axis outside OFF, or the master of an axis in GEAR (R133). -/
def Chip.feedsMotion (c : Chip) (p : Port) : Bool :=
  (match c.destAxis p with | some a => c.modeOf a != 0 | none => false) ||
    (match c.masterOf p with
     | some n => allAxes.any fun a => c.modeOf a == 4 && 16 + c.get (AX_GEARCFG_MASTER a.val) == n.val
     | none => false)

/-- TEST_ON (R133). -/
def Chip.testOn (c : Chip) (p : Port) : Judged :=
  c.request [(!c.inputLead p || c.flag (FP_STAT_FAULTY p.val) || c.feedsMotion p, .state)] fun c => c.setPortState p 2

/-- TEST_ON. -/
def execTestOn (path : Path) (p : Port) (s : State) : Out := s.ask path fun c => c.testOn p

/-- TEST_OFF (R133). -/
def Chip.testOff (c : Chip) (p : Port) : Judged :=
  c.request [(!c.inputLead p || c.portState p != 2, .state)] fun c => c.acquire p

/-- TEST_OFF. -/
def execTestOff (path : Path) (p : Port) (s : State) : Out := s.ask path fun c => c.testOff p

/-- An input group begins to run, at image load or on leaving DARK (R127): its wire checks begin here too. -/
def Chip.beginGroup (c : Chip) (p : Port) : Chip :=
  (c.each (c.membersOf p) fun c m => c.setPort m { c.port m with wireOkTick := c.now }).acquire p

/-- The accepted clear of a group's source ends RECOVER (R132). -/
def Chip.recovered (c : Chip) (p : Port) : Chip :=
  let c := (c.put (FP_STAT_FAULTY p.val) 0).setPort p { c.port p with ssiFails := 0 }
  if c.portState p = 3 then (c.setPortState p 1).deliverJump p else c

/-! ### SSI groups (R144 to R147) -/

/-- A trigger: one of TRIGDIV boundaries of TRIGAX starts a frame, unless one is still running (R144, R146). -/
def Chip.ssiTrigger (c : Chip) (p : Port) : Chip :=
  let x := c.port p
  if c.get (FP_SSI3_TRIGDIV p.val) ≤ x.trig + 1 then c.setPort p { x with trig := 0, ssiBusy := true, ssiFrom := c.now }
  else c.setPort p { x with trig := x.trig + 1 }

/-- A Gray code as a binary number of `n` bits: each bit is the parity of the bits from it upward. -/
def grayToBinary (n v : Nat) : Nat :=
  (List.range n).foldl (fun s i => s ^^^ (v >>> i)) 0

/-- One bit into a CRC register of `w` bits held in a number. -/
def crcStep (w poly r : Nat) (b : Bool) : Nat :=
  let top := (r.testBit (w - 1)) != b
  ((2 * r) % 2 ^ w) ^^^ (if top then poly % 2 ^ w else 0)

/-- CRC of `n` bits, most significant first, initial value `r` (R145). -/
def crcBits (w poly : Nat) : Nat → Nat → Nat → Nat
  | 0, _, r => r
  | n + 1, v, r => crcBits w poly n v (crcStep w poly r (v.testBit n))

/-- The CRC that the position and status bits should carry. -/
def Chip.ssiCrc (c : Chip) (p : Port) (f : SsiFrame) : Nat :=
  let w := c.get (FP_SSI_CRCW p.val)
  let n := c.get (FP_SSI_POSB p.val)
  let k := c.get (FP_SSI_STATB p.val)
  crcBits w (c.get (FP_SSI2_POLY p.val)) k f.status.toNat (crcBits w (c.get (FP_SSI2_POLY p.val)) n f.pos.toNat 0)

/-- The tick at which the last bit of the frame in progress is sampled (R144). -/
def Chip.ssiLastBit (c : Chip) (p : Port) : Nat :=
  (c.port p).ssiFrom + (c.get (FP_SSI_POSB p.val) + c.get (FP_SSI_STATB p.val) + c.get (FP_SSI_CRCW p.val)) * c.get (FP_SSI_PER p.val) +
    c.get (FP_SSI2_DLY p.val)

/-- A frame is accepted (R145).  The status bits and ERRMASK are compared as numbers, the status bit received first being the
most significant (DESIGN CHOICE, log entry 77). -/
def Chip.ssiAccepts (c : Chip) (p : Port) (f : SsiFrame) : Bool :=
  let w := c.get (FP_SSI_CRCW p.val)
  f.ready && f.returned && (w == 0 || c.ssiCrc p f == f.crc.toNat % 2 ^ w) &&
    (f.status.toNat % 2 ^ c.get (FP_SSI_STATB p.val)) &&& c.get (FP_SSI2_ERRMASK p.val) == 0

/-- The position of a frame, binary. -/
def Chip.ssiPos (c : Chip) (p : Port) (f : SsiFrame) : Nat :=
  let n := c.get (FP_SSI_POSB p.val)
  let v := f.pos.toNat % 2 ^ n
  if c.flag (FP_SSI_GRAY p.val) then grayToBinary n v else v

/-- A run of frames in LEF or LIL that reaches FAILN makes the port faulty (R147).  An implausible frame too breaks the run
of accepted ones that ACQUIRE waits for (DESIGN CHOICE, log entry 77). -/
def Chip.ssiRun (c : Chip) (p : Port) : Chip :=
  let x := c.port p
  let c := c.setPort p { x with ssiFails := x.ssiFails + 1, ssiGood := 0, ssiBusy := false }
  if c.get (FP_SSI2_FAILN p.val) ≤ x.ssiFails + 1 then (c.mark (FP_STAT_SSI p.val)).makeFaulty p else c

/-- A failed frame (R146). -/
def Chip.ssiFail (c : Chip) (p : Port) : Chip :=
  ((((c.add64 (FP_LTOT p.val) 1).add64 (FP_LEF p.val) 1).mark (FP_STAT_SSI p.val)).raise (srcPort p)).ssiRun p

/-- The shortest step between two positions modulo CPR. -/
def shortStep (cpr old new : Int) : Int := (new - old + cpr / 2) % cpr - cpr / 2

/-- An accepted frame, which may be implausible (R146): FP_SSIRAW shows an implausible one too, and the next step is taken
from the last position that was used (DESIGN CHOICE, log entry 77). -/
def Chip.ssiTake (c : Chip) (p : Port) (v : Nat) : Chip :=
  let x := c.port p
  let cpr := c.get (FP_CPR_CPR p.val)
  let c := (c.add64 (FP_LTOT p.val) 1).put (FP_SSIRAW_RAW p.val) v
  let good (motion : Bool) (c : Chip) : Chip := (c.setPort p { x with
    ssiFails := 0, ssiGood := x.ssiGood + 1, ssiBusy := false, ssiLast := some v }).deliver p motion
  match x.ssiLast with
  | none => good false ((c.add64 (FP_LMF p.val) 1).put (FP_POS_COUNT p.val) (v % cpr))
  | some u =>
    let d := shortStep cpr u v
    if c.get (FP_SSI3_MAXSTEP p.val) < d.natAbs then (c.add64 (FP_LIL p.val) 1).ssiRun p
    else good true ((c.add64 (FP_LMF p.val) 1).moveCount p d)

/-- A frame of an SSI group runs, and `n` ticks have passed since its last bit. -/
def Chip.ssiRuns (c : Chip) (p : Port) (n : Nat) : Bool :=
  c.portsRun && c.leads p 3 && (c.port p).ssiBusy && decide (c.ssiLastBit p + n ≤ c.now)

/-- SSI_FRAME_END, after the frame's last bit. -/
def Chip.ssiEnd (c : Chip) (p : Port) (f : SsiFrame) : Chip :=
  if c.ssiRuns p 0 then
    if c.ssiAccepts p f then c.ssiTake p (c.ssiPos p f) else c.ssiFail p
  else c

/-- SSI_FRAME_END. -/
def execSsiFrameEnd (p : Port) (f : SsiFrame) (s : State) : Out := s.run fun c => c.ssiEnd p f

/-- SSI_READY_TIMEOUT (R145), TO µs after the last bit. -/
def Chip.ssiTimeout (c : Chip) (p : Port) : Chip :=
  if c.ssiRuns p (250 * c.get (FP_SSI2_TO p.val)) then c.ssiFail p else c

/-- SSI_READY_TIMEOUT. -/
def execSsiReadyTimeout (p : Port) (s : State) : Out := s.run fun c => c.ssiTimeout p

/-! ### Digital inputs (R148 to R151) -/

/-- A digital input that is sampled: DSUB 0, 1, 3 or 4. -/
def Chip.sampledInput (c : Chip) (p : Port) : Bool :=
  c.leads p 4 && c.get (FP_CFG_DSUB p.val) != 2 && c.get (FP_CFG_DSUB p.val) != 5

/-- A qualified edge (R148, R149, R151). -/
def Chip.qualifiedEdge (c : Chip) (p : Port) (high : Bool) : Chip :=
  let c := (c.putF (FP_STAT_LEVEL p.val) high).portEvent p
  let c := c.setPort p { c.port p with digTick := c.now }
  let c := if c.isLimit p && high then c.put (FP_STAT_LIM_TRIP p.val) 1 else c
  if high && c.get (FP_CFG_DSUB p.val) == 1 then
    let c := match (c.port p).lastRise with | some t => c.put (FP_FREQ_PERIOD p.val) (c.now - t) | none => c
    c.setPort p { c.port p with lastRise := some c.now }
  else c

/-- SAMP µs have passed since the latest sample of a digital input (R148). -/
def Chip.sampDue (c : Chip) (p : Port) : Bool :=
  match (c.port p).sampTick with
  | some t => decide (t + 250 * c.get (FP_DIG_SAMP p.val) ≤ c.now)
  | none => true

/-- One sample of a digital input (R148): eight equal ones qualify a level; the first level qualified is no edge. -/
def Chip.digital (c : Chip) (p : Port) (raw : Bool) : Chip :=
  if !c.portsRun || !c.sampledInput p || !c.sampDue p then c
  else
    let x := c.port p
    let v := raw != c.flag (FP_CFG_REV p.val)
    let n := if v == x.digLevel then min (x.digRun + 1) 8 else 1
    let c := c.setPort p { x with digLevel := v, digRun := n, sampTick := some c.now }
    if n < 8 then c
    else if !x.digQual then (c.putF (FP_STAT_LEVEL p.val) v).setPort p { c.port p with digQual := true, digTick := c.now }
    else if c.flag (FP_STAT_LEVEL p.val) = v then c
    else c.qualifiedEdge p v

/-- The qualified level of a limit input has been inactive for REARM ms (R150). -/
def Chip.quiet (c : Chip) (p : Port) : Bool :=
  (c.port p).digQual && !c.flag (FP_STAT_LEVEL p.val) &&
    decide ((c.port p).digTick + 250000 * c.get (FP_DIG_REARM p.val) ≤ c.now)

/-- LIMIT_REARM (R150). -/
def Chip.limitRearm (c : Chip) (p : Port) : Chip :=
  if c.portsRun && c.isLimit p && c.flag (FP_STAT_LIM_TRIP p.val) && c.flag (FP_STAT_CLRPEND p.val) && c.quiet p then
    (c.put (FP_STAT_LIM_TRIP p.val) 0).put (FP_STAT_CLRPEND p.val) 0
  else c

/-- LIMIT_REARM. -/
def execLimitRearm (p : Port) (s : State) : Out := s.run fun c => c.limitRearm p

/-- No qualified rising edge has arrived for FREQTO ms. -/
def Chip.noRise (c : Chip) (p : Port) : Bool :=
  match (c.port p).lastRise with
  | some t => decide (t + 250000 * c.get (FP_DIG_FREQTO p.val) ≤ c.now)
  | none => true

/-- FREQ_TIMEOUT (R151). -/
def Chip.freqTimeout (c : Chip) (p : Port) : Chip :=
  if c.portsRun && c.leads p 4 && c.get (FP_CFG_DSUB p.val) == 1 && c.noRise p then c.put (FP_FREQ_PERIOD p.val) 0 else c

/-- FREQ_TIMEOUT. -/
def execFreqTimeout (p : Port) (s : State) : Out := s.run fun c => c.freqTimeout p

/-- LIM_CLR (R150). -/
def Chip.limClr (c : Chip) (p : Port) : Judged :=
  c.request [(!c.flag (FP_STAT_LIM_TRIP p.val), .state)] fun c => c.put (FP_STAT_CLRPEND p.val) 1

/-- LIM_CLR. -/
def execLimClr (path : Path) (p : Port) (s : State) : Out := s.ask path fun c => c.limClr p

/-! ### Encoder emulation (R153 to R155) -/

/-- The (A, B) code after `n` emitted counts (R137, R153): A is bit 0. -/
def emuCode (n : Int) : BitVec 3 :=
  match (n % 4).toNat with
  | 0 => 0b000 | 1 => 0b001 | 2 => 0b011 | _ => 0b010

/-- Z of an emulation output (R155). -/
def Chip.emuZ (c : Chip) (p : Port) : Bool :=
  (c.port p).zPulse.isSome || (c.flag (FP_EMU_ZAUTO p.val) &&
    decide (signed 64 (c.get64 (FP_EMIT p.val)) % (4 * ((c.get (FP_EMU_LINES p.val) : Int) + 1)) ≤ 3))

/-- The group has valid source data: neither a STALE source nor DARK (R155). -/
def Chip.emuLive (c : Chip) (p : Port) : Bool :=
  c.portsRun && c.leads p 5 && !c.flag (CUE_TB_STAT_STALE (c.get (FP_EMU_SRC p.val)))

/-- Successive output edges are 250,000 / FMAX ns apart (R154), in whole ticks of 4 ns at least. -/
def Chip.emuSpaced (c : Chip) (p : Port) : Bool :=
  !(c.port p).anyEdge || decide ((c.port p).lastEdge + 62500 / c.get (FP_EMUF_FMAX p.val) ≤ c.now)

/-- EMU_EDGE (R153, R154): the oldest owed count is emitted. -/
def Chip.emuEdge (c : Chip) (p : Port) : Chip :=
  let o := c.owed p
  if c.emuLive p && o != 0 && c.emuSpaced p then
    let d : Int := if o < 0 then -1 else 1
    let c := (c.add64 (FP_EMIT p.val) d).add64 (FP_OWED p.val) (-d)
    let x := c.port p
    (c.setPort p { x with lines := emuCode (signed 64 (c.get64 (FP_EMIT p.val))), lastEdge := c.now, anyEdge := true
                          owes := takeOwed 1 x.owes }).lagEnds p
  else c

/-- EMU_EDGE. -/
def execEmuEdge (p : Port) (s : State) : Out := s.run fun c => c.emuEdge p

/-- EMU_LAG (R154): a count has been owed for longer than 2 µs. -/
def Chip.emuLag (c : Chip) (p : Port) : Chip :=
  if c.portsRun && c.leads p 5 && (c.port p).owes.any fun x => decide (x.1 + 500 < c.now) then
    (c.put (FP_STAT_EMU_LAG p.val) 1).mark (FP_STAT_OWE p.val)
  else c

/-- EMU_LAG. -/
def execEmuLag (p : Port) (s : State) : Out := s.run fun c => c.emuLag p

/-- EMU_INDEX (R155): one Z pulse of 4 × 250,000 / FMAX ns. -/
def Chip.emuIndex (c : Chip) (p : Port) : Chip :=
  c.setPort p { c.port p with zPulse := some (c.now + 250000 / c.get (FP_EMUF_FMAX p.val)) }

/-- Z_PULSE_END: the pulse has its width, to one tick. -/
def Chip.zPulseEnd (c : Chip) (p : Port) : Chip :=
  match (c.port p).zPulse with
  | some t => if t ≤ c.now + 1 then c.setPort p { c.port p with zPulse := none } else c
  | none => c

/-- Z_PULSE_END. -/
def execZPulseEnd (p : Port) (s : State) : Out := s.run fun c => c.zPulseEnd p

end Sys2Proof.Machine
end

