-- ==== Sys2Proof/Machine/Housekeeping.lean ====
section
/-! DEFINITION. The housekeeping converters (10_housekeeping_thermal.md, R248 to R257): requests, their classes and
queues, measurement rounds, the channel settings, and the window monitors (R266 to R270).  The end of a
conversion, which also feeds the bus, stands in HkResult.lean. -/
namespace Sys2Proof.Machine

/-- Both converters. -/
def bothConv : List Region := [0, 1]

/-- The channels of Table 10-1. -/
def isChannel (ch : Nat) : Bool := decide (ch ≤ 27) || (decide (32 ≤ ch) && decide (ch ≤ 45))

/-- A channel that a request or setting may name (R248). -/
def Chip.channelOk (c : Chip) (ch : Nat) : Bool := isChannel ch && c.flag (HK_CH_EN ch)

/-- Conversions run (R252). -/
def Chip.hkRuns (c : Chip) : Bool := c.cfgOk && !c.inDark

/-- The converter that owns a channel (R248). -/
def Chip.convOf (c : Chip) (ch : Nat) : Region := ⟨c.get (HK_CH_CONV ch) % 2, by omega⟩

/-! ### The converter (R251, R253) -/

/-- The window of a channel in ticks: WLEN µs, or NPER periods of its axis (R251). -/
def Chip.hkWindow (c : Chip) (ch : Nat) : Nat :=
  if c.flag (HK_CH_WMODE ch) then c.get (HK_CH_NPER ch) * c.period ⟨c.get (HK_CH_WAXIS ch) % 8, by omega⟩
  else 250 * c.get (HK_CH_WLEN ch)

/-- A conversion begins, with the settings of its channel; a settling mark that waits for the channel goes with it
(R255). -/
def Chip.hkBegin (c : Chip) (n : Region) (ch cls : Nat) (queued : Bool) : Chip :=
  let r : HkReq := ⟨ch, cls, c.hkSettle.contains ch, c.now, queued, c.get (HK_CH_RNG ch), c.hkWindow ch⟩
  let c := ((c.put (HK_STAT_BUSY n.val) 1).put (HK_STAT_CLASS n.val) cls).put (HK_STAT_CH n.val) ch
  { c.setHk n { c.hk n with running := some r } with hkSettle := c.hkSettle.filter (· != ch) }

/-- A conversion that is aborted waits at the head of its class, triggered ones before those of the round. -/
def requeue (l : List HkReq) (r : HkReq) : List HkReq :=
  if r.cls = 1 then l.filter (·.cls != 1) ++ r :: l.filter (·.cls == 1) else r :: l

/-- Puts the running conversion back into its queue; a settling mark stays with its channel. -/
def Chip.hkPutBack (c : Chip) (n : Region) : Chip :=
  let h := c.hk n
  match h.running with
  | none => c
  | some r =>
    let c := c.setHk n (if r.cls = 3 then { h with running := none, urgent := r.ch :: h.urgent }
      else { h with running := none, requeued := requeue h.requeued r })
    if r.setl then { c with hkSettle := c.hkSettle ++ [r.ch] } else c

/-- The converter counts as idle for a request: nothing runs, or what runs came from a queue in this very tick, at the
end of the last conversion (R254). -/
def Chip.hkIdle (c : Chip) (n : Region) : Bool :=
  match (c.hk n).running with
  | none => true
  | some r => r.queued && r.since == c.now

/-- The class of the running conversion; 0 for an idle converter. -/
def Chip.hkClass (c : Chip) (n : Region) : Nat :=
  if c.hkIdle n then 0 else match (c.hk n).running with | none => 0 | some r => r.cls

/-- Starts a request at once: an idle converter takes it, a lower conversion is aborted and counted (R253). -/
def Chip.hkTake (c : Chip) (n : Region) (ch cls : Nat) : Chip :=
  let busy := !c.hkIdle n
  let c := c.hkPutBack n
  (if busy then c.bump (HK_CNT_ABORTS n.val) 1 else c).hkBegin n ch cls false

/-- The next queued conversion starts: internal urgent ones, re-queued ones, then the round's list. -/
def Chip.hkNext (c : Chip) (n : Region) : Chip :=
  let h := c.hk n
  if h.running.isSome then c
  else match h.urgent, h.requeued, h.round with
    | ch :: l, _, _ => (c.setHk n { h with urgent := l }).hkBegin n ch 3 true
    | [], r :: l, _ => (c.setHk n { h with requeued := l }).hkBegin n r.ch r.cls true
    | [], [], ch :: l => (c.setHk n { h with round := l }).hkBegin n ch 1 true
    | [], [], [] => ((c.put (HK_STAT_BUSY n.val) 0).put (HK_STAT_CLASS n.val) 0).put (HK_STAT_CH n.val) 0

/-! ### Requests (R252, Table 10-2) -/

/-- An internal urgent request: it waits behind a running urgent conversion. -/
def Chip.internalUrgent (c : Chip) (n : Region) (ch : Nat) : Chip :=
  if !c.hkRuns || !c.channelOk ch then c
  else if c.hkClass n = 3 then c.setHk n { c.hk n with urgent := (c.hk n).urgent ++ [ch] }
  else c.hkTake n ch 3

/-- The channel selected on a converter. -/
def Chip.hkSel (c : Chip) (n : Region) : Nat := c.get (HK_SEL_CH n.val)

/-- A request of class `cls` meets a conversion that it does not abort. -/
def Chip.hkMeets (c : Chip) (n : Region) (cls : Nat) : Bool := decide (2 ≤ c.hkClass n) && decide (cls ≤ c.hkClass n)

/-- A pin or a cue requests the selected channel: taken, or ignored as a flagged overrun. -/
def Chip.hkAsk (c : Chip) (n : Region) (cls : Nat) : Chip :=
  if c.hkMeets n cls then (c.bump (HK_CNT_OVERRUN n.val) 1).setHk n { (c.bump (HK_CNT_OVERRUN n.val) 1).hk n with overrun := true }
  else c.hkTake n (c.hkSel n) cls

/-- The host's request: a channel that may not be named is refused with RANGE, one that meets its like with BUSY. -/
def Chip.hkCommand (c : Chip) (n : Region) (cls : Nat) : Judged :=
  c.request [(!c.hkRuns, .state), (!c.channelOk (c.hkSel n), .range), (c.hkMeets n cls, .busy)] fun c => c.hkTake n (c.hkSel n) cls

/-- HK_CMD_START. -/
def execHkCmdStart (p : Path) (n : Region) (s : State) : Out := s.ask p fun c => c.hkCommand n 2

/-- HK_CMD_URGENT. -/
def execHkCmdUrgent (p : Path) (n : Region) (s : State) : Out := s.ask p fun c => c.hkCommand n 3

/-- HKTRIG_EDGE: the edge selected by PINEDGE, 1 rising, 2 falling, 3 both. -/
def Chip.hkEdge (c : Chip) (n : Region) (rising : Bool) : Chip :=
  if c.hkRuns && (c.get (HK_CFG_PINEDGE n.val)).testBit (if rising then 0 else 1) && c.channelOk (c.hkSel n) then
    c.hkAsk n 2
  else c

/-- HKTRIG_EDGE. -/
def execHktrigEdge (n : Region) (rising : Bool) (s : State) : Out := s.run fun c => c.hkEdge n rising

/-- The converter an HK_START cue names. -/
def fireConv (f : Fire) : Region := ⟨cueArg f.cue % 2, by omega⟩

/-- The selected channel of the converter that an HK_START cue names can be converted (R39). -/
def Chip.hkStartAble (c : Chip) (f : Fire) : Bool := c.hkRuns && c.channelOk (c.hkSel (fireConv f))

/-- HK_START (R252). -/
def Chip.hkStartFire (c : Chip) (f : Fire) : Chip := c.hkAsk (fireConv f) (if cueArg f.cue / 2 % 2 = 1 then 3 else 2)

/-! ### Rounds (R256, R258) -/

/-- The list of a converter's round: its enabled channels and the cross-check channel, ascending. -/
def Chip.roundList (c : Chip) (n : Region) : List Nat :=
  (List.range 46).filter fun ch =>
    c.channelOk ch && (c.convOf ch == n || ch == c.get HK_MODE_XCH)

/-- A round of a converter begins, or is late because the last is not done. -/
def Chip.hkRound (c : Chip) (n : Region) : Chip :=
  let h := c.hk n
  if h.inRound then (c.mark (HK_STAT_ROUND_LATE n.val)).setHk n { h with lateRound := true }
  else
    let l := c.roundList n
    (c.setHk n { h with inRound := !l.isEmpty, round := l }).hkNext n

/-- A round is due: a multiple of ROUND ms after the entry into HOUSE, once in a tick (R256). -/
def Chip.roundDue (c : Chip) : Bool :=
  c.hkRuns && (c.now - c.houseTick) % (250000 * c.get HK_MODE_ROUND) == 0 && c.roundTick != some c.now

/-- HK_ROUND_START. -/
def Chip.hkRoundStart (c : Chip) : Chip :=
  if c.roundDue then { c.each bothConv Chip.hkRound with roundTick := some c.now } else c

/-- HK_ROUND_START. -/
def execHkRoundStart (s : State) : Out := s.run Chip.hkRoundStart

/-- ADAPTIVE_REQUEST (R257): each HOT sensor in channel order, on its owning converter. -/
def Chip.adaptive (c : Chip) : Chip :=
  if c.hkRuns && c.flag HK_MODE_MODE then
    c.each (allSensors.filter fun s => c.sensorOn s && c.flag (TMP_STAT_HOT s.val)) fun c s =>
      c.internalUrgent (c.convOf (channelOf s)) (channelOf s)
  else c

/-- ADAPTIVE_REQUEST. -/
def execAdaptiveRequest (s : State) : Out := s.run Chip.adaptive

/-! ### Channel settings (R255) -/

/-- The runtime fields of HK_CHc. -/
def hkChMask : Word := 0x3FF07FFF

/-- Their ranges (Table 10-9). -/
def hkChBad (ch : Nat) (data : Word) : Bool :=
  (HK_CH_RNG ch).read data == 3 || (HK_CH_NPER ch).read data == 0 ||
    decide ((HK_CH_WLEN ch).read data < 16) || decide (20000 < (HK_CH_WLEN ch).read data)

/-- HK_CH_WRITE: for HKIN channels only; a change marks the next conversion SETL (Table 10-4). -/
def Chip.writeHkCh (c : Chip) (ch : Nat) (data : Word) : Judged :=
  c.request [(decide (15 < ch), .locked), (hkChBad ch data, .range)] fun c =>
    let changed := (c.reg (HK_CH ch) ^^^ data) &&& hkChMask != 0
    let c := c.writeMask (HK_CH ch) hkChMask data
    if changed && !c.hkSettle.contains ch then { c with hkSettle := c.hkSettle ++ [ch] } else c

/-- HK_CH_WRITE. -/
def execHkChWrite (p : Path) (ch : Fin 46) (data : Word) (s : State) : Out := s.ask p fun c => c.writeHkCh ch.val data

/-! ### Window monitors (R266 to R268, R270) -/

/-- An entry into HOUSE: no sensor has a valid reading, the first conversion of every channel carries SETL, and the rounds
count from here (R255, R256, R264). -/
def Chip.houseAnew (c : Chip) : Chip :=
  { c.sensorsAnew with hkSettle := (List.range 46).filter c.channelOk, houseTick := c.now }

/-- nWAKE is asserted until it is acknowledged (R270). -/
def Chip.wake (c : Chip) : Chip := c.put WAKE_CMD_NWAKE 1

/-- The comparators of a monitor, each at the input in µV as it sees it, the tolerance of its threshold included: HYS on the
return side of each (R266). -/
def Chip.wmCompare (c : Chip) (m : Fin 8) (vHi vLo : Nat) : WmState :=
  let x := c.wm m
  let steps (n : Int) : Int := n * 5000000
  let h : Int := c.get (WM_CFG_HYS m.val)
  let hi : Int := c.get (WM_THR_HI m.val)
  let lo : Int := c.get (WM_THR_LO m.val)
  { x with
    above := decide (steps (if x.above then hi - h else hi) < vHi * 1024)
    below := decide ((vLo : Int) * 1024 < steps (if x.below then lo + h else lo)) }

/-- The condition of a monitor, from its comparators (R266). -/
def wmCond (cond : Nat) (above below : Bool) : Bool :=
  match cond with
  | 0 => above
  | 1 => below
  | 2 => !above && !below
  | _ => above || below

/-- The capture of a monitor (R268): as R56 does for CUE_CAPk. -/
def Chip.wmCapture (c : Chip) (m : Fin 8) : Chip :=
  let full := c.stillSet (WM_CAPS_FULL m.val)
  let c := (c.putTick (WM_CAP m.val) c.wall).put (WM_CAPV_VALUE m.val) (c.tbVal (tbOf (c.get (WM_CFG_TB m.val)))).toNat
  (c.mark (WM_CAPS_FULL m.val)).markIf full (WM_CAPS_OVF m.val)

/-- WM_EVENT (R268). -/
def Chip.wmEvent (c : Chip) (m : Fin 8) : Chip :=
  let c := c.bump (WM_STAT_EVENTS m.val) 1
  let c := if c.flag (WM_CFG_CAP m.val) && !c.inDark then c.wmCapture m else c
  let c := c.markIf (c.flag (WM_CFG_IRQ m.val)) (WM_STAT_IRQ m.val)
  let c := if c.flag (WM_CFG_WAKE m.val) then c.wake.mark (WM_STAT_WOKE m.val) else c
  c.raiseIf (c.flag (WM_CFG_FLT m.val)) 0xEE

/-- The condition is qualified (R267): inactive arms, a change to active while armed is an event. -/
def Chip.wmQualified (c : Chip) (m : Fin 8) (v : Bool) : Chip :=
  let was := c.flag (WM_STAT_LEVEL m.val)
  let armed := c.flag (WM_STAT_ARMED m.val)
  let c := c.putF (WM_STAT_LEVEL m.val) v
  if !v then c.put (WM_STAT_ARMED m.val) 1
  else if armed && !was then (c.put (WM_STAT_ARMED m.val) 0).wmEvent m
  else c

/-- WM_SAMPLE (R266): FILT equal samples in a row qualify; an enabled monitor runs in every power state once its image is
admitted. -/
def Chip.wmSample (c : Chip) (m : Fin 8) (hi lo : Word) : Chip :=
  if !c.cfgOk || !c.flag (WM_CFG_EN m.val) then c
  else
    let x := c.wmCompare m hi.toNat lo.toNat
    let b := wmCond (c.get (WM_CFG_COND m.val)) x.above x.below
    let n := if b == x.level && x.qual then min (x.run + 1) 255 else 1
    let c := c.setWm m { x with run := n, level := b, qual := true }
    if c.get (WM_CFG_FILT m.val) ≤ n then c.wmQualified m b else c

/-- WM_SAMPLE. -/
def execWmSample (m : Fin 8) (hi lo : Word) (s : State) : Out := s.run fun c => c.wmSample m hi lo

/-- WAKE_ACK (R270); DARK executes it (R315). -/
def Chip.wakeAck (c : Chip) : Judged := (c.put WAKE_CMD_NWAKE 0, .ok)

/-- WAKE_ACK. -/
def execWakeAck (p : Path) (s : State) : Out := s.run fun c => c.ask p true Chip.wakeAck

/-- Every monitor is unarmed at image load and at a change of power state (R267), and qualifies anew. -/
def Chip.disarmMonitors (c : Chip) : Chip :=
  c.each (List.finRange 8) fun c m =>
    (c.put (WM_STAT_ARMED m.val) 0).setWm m { above := (c.wm m).above, below := (c.wm m).below }

end Sys2Proof.Machine
end

