-- ==== Sys2Proof/Machine/Bus.lean ====
section
/-! DEFINITION. The DC buses (09_bus_energy.md): the over-voltage cascade, the chopper and its check, the regenerative
limit, the admission of a pack, removal, and the ride ledger.  The bus intervals end in Windows.lean, the
readings of PACKCH in HkResult.lean. -/
namespace Sys2Proof.Machine

/-- Both regions. -/
def allRegions : List Region := [0, 1]

/-- The bus voltage slice of a region (R227). -/
def voltSlice (r : Region) : SliceId := ⟨14 + 16 * r.val, by omega⟩
/-- The bus current slice of a region (R227). -/
def currSlice (r : Region) : SliceId := ⟨6 + 16 * r.val, by omega⟩

/-- The fast bus voltage is formed (R228, R229). -/
def Chip.busRuns (c : Chip) (r : Region) : Bool := c.isArmed && c.sliceOn (voltSlice r)

/-- A threshold of BUS_VTH in 0.01 V. -/
def Chip.volts (c : Chip) (f : Field) : Nat := 50 * c.get f

/-- HYST in 0.01 V. -/
def Chip.hyst (c : Chip) (r : Region) : Nat := 10 * c.get (BUS_CFG_HYST r.val)

/-- The admission state (R240): 0 OPEN, 1 PRECHARGE, 2 ADMITTED, 3 FAILED. -/
def Chip.adm (c : Chip) (r : Region) : Nat := c.get (BUS_STAT_ADM r.val)

/-- An axis enters OFF by a reaction (R204). -/
def Chip.reactOff (c : Chip) (a : Axis) : Chip := (c.enterOff a 5).put (AX_MSTAT_REACTED a.val) 1

/-! ### Chopper (R231 to R234) -/

/-- The chopper turns on (R231); a check opens unless the last turn-off is less than 500 ticks old, where one that is still
open goes on (R232). -/
def Chip.chopOn (c : Chip) (r : Region) (v : Nat) : Chip :=
  let b := c.bus r
  let recent : Bool := match b.chopOff with | some t => decide (c.now - t < 500) | none => false
  (c.put (BUS_STAT_CHOP_ON r.val) 1).setBus r
    { b with minDone := false, chopTick := c.now
             chk := if recent then b.chk else some (c.gets (BUS_FAST_I r.val), v)
             chkTick := if recent then b.chkTick else c.now }

/-- The chopper turns off, if it is on; an open check goes on (R232). -/
def Chip.chopStop (c : Chip) (r : Region) : Chip :=
  if c.flag (BUS_STAT_CHOP_ON r.val) then
    (c.put (BUS_STAT_CHOP_ON r.val) 0).setBus r { c.bus r with chopOff := some c.now }
  else c

/-- The chopper follows the fast voltage `v` (Table 9-1, R231, R234); a fire curtain holds it off (R281). -/
def Chip.judgeChop (c : Chip) (r : Region) (v : Nat) : Chip :=
  if c.flag (BUS_STAT_CHOP_ON r.val) then
    if (c.bus r).minDone && decide (v + c.hyst r < c.volts (BUS_VTH_V_CHOP r.val)) then c.chopStop r else c
  else if c.flag (BUS_CHOP_EN r.val) && !c.flag (BUS_STAT_CHOPF r.val) && !c.faults.fire &&
      decide (c.volts (BUS_VTH_V_CHOP r.val) ≤ v) then
    c.chopOn r v
  else c

/-- CHOP_MIN_EXPIRY (R231): the minimum on time ends. -/
def Chip.chopMin (c : Chip) (r : Region) : Chip :=
  if c.flag (BUS_STAT_CHOP_ON r.val) && decide ((c.bus r).chopTick + 250 * c.get (BUS_CFG_CHOP_MIN r.val) ≤ c.now) then
    (c.setBus r { c.bus r with minDone := true }).judgeChop r (c.get (BUS_FAST_V r.val))
  else c

/-- CHOP_MIN_EXPIRY. -/
def execChopMinExpiry (r : Region) (s : State) : Out := s.run fun c => c.chopMin r

/-- A report passes the check: it exceeds the one in force at the command by at least I_exp × CHKF / 16 (R232), with
currents in 0.1 A, the voltage in 0.01 V and RBRK in 0.01 Ω. -/
def Chip.chopPasses (c : Chip) (r : Region) (i0 : Int) (v0 : Nat) (i : Int) : Bool :=
  decide ((10 * v0 * c.get (BUS_CHOP_CHKF r.val) : Int) ≤ (i - i0) * c.get (BUS_CHOP_RBRK r.val) * 16)

/-- A fast bus current report (R228, R232). -/
def Chip.fastCurrent (c : Chip) (r : Region) (i : Int) : Chip :=
  if c.isArmed && c.sliceOn (currSlice r) then
    let c := c.puts (BUS_FAST_I r.val) i
    match (c.bus r).chk with
    | some (i0, v0) =>
      if decide (c.now ≤ (c.bus r).chkTick + 500) && c.chopPasses r i0 v0 i then c.setBus r { c.bus r with chk := none } else c
    | none => c
  else c

/-- FAST_CURRENT_REPORT. -/
def execFastCurrentReport (r : Region) (i : BitVec 16) (s : State) : Out := s.run fun c => c.fastCurrent r i.toInt

/-! ### The cascade (R230, R235 to R239) -/

/-- The regeneration cut by voltage (R235). -/
def Chip.judgeCut (c : Chip) (r : Region) (v : Nat) : Chip :=
  let t := c.volts (BUS_STAT_VCUT_LIVE r.val)
  if t ≤ v then c.put (BUS_STAT_CUT r.val) 1
  else if v + c.hyst r < t then c.put (BUS_STAT_CUT r.val) 0
  else c

/-- The active short (R237): the lines of the region's enabled axes, one event, and OFF. -/
def Chip.assertShort (c : Chip) (r : Region) : Chip :=
  let c := (c.put (BUS_STAT_SHORT r.val) 1).raise (srcRegion r 0)
  (c.each ((axesOfRegion r).filter c.axisOn) Chip.reactOff).obeyLines

/-- The short follows an upward crossing of V_ASC (R237). -/
def Chip.judgeShort (c : Chip) (r : Region) (old v : Nat) : Chip :=
  let t := c.volts (BUS_VTH_V_ASC r.val)
  if old < t && decide (t ≤ v) then c.assertShort r else c

/-- Under-voltage (R239). -/
def Chip.judgeUv (c : Chip) (r : Region) (v : Nat) : Chip :=
  let t := c.volts (BUS_VTH_V_UV r.val)
  if c.flag (BUS_STAT_UV r.val) then if t + c.hyst r < v then c.put (BUS_STAT_UV r.val) 0 else c
  else if v < t then (c.put (BUS_STAT_UV r.val) 1).raise (srcRegion r 2)
  else c

/-- BUS_THRESHOLD_CROSSING: the fast voltage takes the value `v`, in 0.01 V, and the cascade acts (Table 9-1). -/
def Chip.busVoltage (c : Chip) (r : Region) (v : Nat) : Chip :=
  if c.busRuns r then
    let old := c.get (BUS_FAST_V r.val)
    let c := c.put (BUS_FAST_V r.val) v
    (((c.judgeChop r v).judgeCut r v).judgeShort r old v).judgeUv r v
  else c

/-- BUS_THRESHOLD_CROSSING. -/
def execBusThresholdCrossing (r : Region) (v : BitVec 16) (s : State) : Out := s.run fun c => c.busVoltage r v.toNat

/-- CHOPPER_CHECK_EXPIRY (R233): a check that is still open 500 ticks after the gate command fails. -/
def Chip.chopFails (c : Chip) (r : Region) : Chip :=
  if (c.bus r).chk.isNone || decide (c.now < (c.bus r).chkTick + 500) then c
  else
    let c := (c.chopStop r).put (BUS_STAT_CHOPF r.val) 1
    let c := c.setBus r { c.bus r with chk := none }
    let c := c.put (BUS_STAT_VCUT_LIVE r.val) (c.get (BUS_VTH_V_CHOP r.val))
    let c := if c.volts (BUS_VTH_V_CHOP r.val) ≤ c.get (BUS_FAST_V r.val) then c.put (BUS_STAT_CUT r.val) 1 else c
    c.raise (srcRegion r 1)

/-- CHOPPER_CHECK_EXPIRY. -/
def execChopperCheckExpiry (r : Region) (s : State) : Out := s.run fun c => c.chopFails r

/-- Regeneration is allowed (R235). -/
def Chip.regenOk (c : Chip) (r : Region) : Bool :=
  !c.flag (BUS_STAT_CUT r.val) && !c.flag (BUS_STAT_TFORBID r.val) && c.adm r == 2

/-- One tick of the regenerative ramp and of the chopper's time (R231, R235).  A full ramp lasts RAMP µs; the
rounding of a value on its way is open. -/
def Chip.busTick (c : Chip) (r : Region) : Chip :=
  let c := if c.flag (BUS_STAT_CHOP_ON r.val) then c.bump (BUS_CHOPT_TICKS r.val) 1 else c
  let full := 250 * c.get (BUS_REGEN2_RAMP r.val)
  let b := c.bus r
  let n := if c.regenOk r then min (b.ramp + 1) full else b.ramp - 1
  let (c, x) := c.divFree (c.get (BUS_REGEN2_RLIM r.val) * n) full
  (c.put (BUS_REGENS_RLIM_LIVE r.val) x.toNat).setBus r { b with ramp := n }

/-! ### Admission (R240 to R245) -/

/-- PACK_DETECTION (R241): while OPEN, PACKCH is converted as an urgent request. -/
def Chip.packDetection (c : Chip) (r : Region) : Chip :=
  if c.isArmed && c.flag (BUS_ADM_EN r.val) && c.adm r == 0 then c.internalUrgent r (c.get (BUS_ADM_PACKCH r.val))
  else c

/-- PACK_DETECTION. -/
def execPackDetection (r : Region) (s : State) : Out := s.run fun c => c.packDetection r

/-- Precharge begins (R242). -/
def Chip.beginPrecharge (c : Chip) (r : Region) : Chip :=
  let v := (c.get (BUS_FAST_V r.val) : Int) * 10000000 * c.get (BUS_ADM_CBUS r.val)
  (c.put (BUS_STAT_ADM r.val) 1).setBus r { c.bus r with
    iRef := 0, vRef := v, gate := 0, seenRun := 0, preTick := c.now, preClock := c.now }

/-- A reading of PACKCH, in nV times 131,072 (R241): two in a row at V_PACK_MIN or more show a pack. -/
def Chip.packReading (c : Chip) (r : Region) (v : Nat) : Chip :=
  let b := c.bus r
  let c := c.setBus r { b with vPack := v }
  if !c.isArmed || !c.flag (BUS_ADM_EN r.val) || c.adm r != 0 then c
  else if v < c.get (BUS_ADM2_V_PACK_MIN r.val) * 500000000 * 131072 then
    c.setBus r { c.bus r with seenRun := 0 }
  else if b.seenRun = 0 then c.setBus r { c.bus r with seenRun := 1 }
  else
    let c := (c.put (BUS_STAT_PACK_SEEN r.val) 1).setBus r { c.bus r with seenRun := 1 }
    if c.flag (BUS_ADM_AUTO r.val) then c.beginPrecharge r else c

/-- The pack is admitted: the gate is fully on, unless a fire curtain holds it off (R281). -/
def Chip.admitted (c : Chip) (r : Region) : Chip :=
  ((c.put (BUS_STAT_ADM r.val) 2).bump (BUS_SWAPS_ADMITS r.val) 1).setBus r
    { c.bus r with gate := if c.faults.fire then 0 else 64, gateTick := c.now, rmvRun := 0, vStart := c.get (BUS_FAST_V r.val) }

/-- PRECHARGE (R242): one modulator clock of it, of 4 ticks.  The gate's drive is the regulator's own. -/
def Chip.precharge (c : Chip) (r : Region) : Chip :=
  if c.adm r != 1 || decide (c.now < (c.bus r).preClock + 4) then c
  else
    let b := c.bus r
    let cb := c.get (BUS_ADM_CBUS r.val)
    let v : Int := (c.get (BUS_FAST_V r.val) : Int) * 10000000 * 131072
    let i := min (100000 * c.get (BUS_ADM2_IPRE r.val)) (b.iRef + 16 * c.get (BUS_ADM2_IRAMP r.val))
    let d := ((b.vPack : Int) * cb - b.vRef * 131072).sign
    let c := c.setBus r { b with iRef := i, vRef := b.vRef + d * i * 16, preClock := c.now }
    if ((b.vPack : Int) - v).natAbs ≤ c.get (BUS_ADM2_DONE_V r.val) * 100000000 * 131072 then c.admitted r
    else if c.faults.fire || (decide ((b.vPack : Int) < v) && c.flag (BUS_STAT_TFORBID r.val)) then
      c.setBus r { c.bus r with gate := 0 }
    else (c.useFree).setBus r { c.bus r with gate := c.freeVal.toNat % 64 }

/-- PRECHARGE. -/
def execPrecharge (r : Region) (s : State) : Out := s.run fun c => c.precharge r

/-- PRECHARGE_TIMEOUT (R242). -/
def Chip.prechargeTimeout (c : Chip) (r : Region) : Chip :=
  if c.adm r = 1 ∧ (c.bus r).preTick + 250000 * c.get (BUS_ADM3_PRE_TO r.val) ≤ c.now then
    ((c.put (BUS_STAT_ADM r.val) 3).setBus r { c.bus r with gate := 0 }).raise (srcRegion r 3)
  else c

/-- PRECHARGE_TIMEOUT. -/
def execPrechargeTimeout (r : Region) (s : State) : Out := s.run fun c => c.prechargeTimeout r

/-- ADM_GATE (R240): the gate has been commanded fully on for 10 µs and has stayed below 8 V. -/
def Chip.admGate (c : Chip) (r : Region) : Chip :=
  c.raiseIf (c.adm r == 2 && (c.bus r).gate == 64 && decide ((c.bus r).gateTick + 2500 ≤ c.now)) (srcRegion r 6)

/-- ADM_GATE. -/
def execAdmGate (r : Region) (s : State) : Out := s.run fun c => c.admGate r

/-- The admission FETs open. -/
def Chip.admOff (c : Chip) (r : Region) : Chip :=
  (c.put (BUS_STAT_ADM r.val) 0).setBus r { c.bus r with gate := 0, seenRun := 0, rmvRun := 0 }

/-- ADMIT (R244, R245). -/
def Chip.busAdmit (c : Chip) (r : Region) : Judged :=
  c.request [(!c.isArmed || !c.flag (BUS_ADM_EN r.val) || !(c.adm r == 0 || c.adm r == 3) ||
    !c.flag (BUS_STAT_PACK_SEEN r.val), .state)] fun c => c.beginPrecharge r

/-- ADMIT. -/
def execAdmit (p : Path) (r : Region) (s : State) : Out := s.ask p fun c => c.busAdmit r

/-- OPEN (R244, R245). -/
def Chip.admOpen (c : Chip) (r : Region) : Judged :=
  c.request [(!c.isArmed || !c.flag (BUS_ADM_EN r.val) || !(axesOfRegion r).all (c.modeOf · == 0), .state)]
    fun c => c.admOff r

/-- OPEN. -/
def execAdmOpen (p : Path) (r : Region) (s : State) : Out := s.ask p fun c => c.admOpen r

/-- A removal (R243). -/
def Chip.packRemoved (c : Chip) (r : Region) : Chip :=
  (((c.admOff r).put (BUS_STAT_PACK_SEEN r.val) 0).bump (BUS_SWAPS_REMOVALS r.val) 1).raise (srcRegion r 4)

/-- A qualified inactive level on the presence port is a removal (R243). -/
def Chip.presence (c : Chip) (r : Region) (p : Port) : Chip :=
  if c.flag (BUS_ADM_EN r.val) && c.flag (BUS_ADM_PRES_EN r.val) && c.get (BUS_ADM_PRES r.val) == p.val && c.adm r == 2
      && (c.port p).digQual && !c.flag (FP_STAT_LEVEL p.val) then c.packRemoved r
  else c

/-- DIGITAL_SAMPLE: a sample of a digital input (R148 to R151), and what the presence port tells (R243). -/
def execDigitalSample (p : Port) (level : Bool) (s : State) : Out :=
  s.run fun c => (c.digital p level).each allRegions fun c r => c.presence r p

/-! ### Ride ledger (R246) -/

/-- Where a path's snapshot of the high word at `a` is kept. -/
def holdKey (p : Path) (a : Nat) : Nat := match p with | .host => a | .can => a + 1

/-- The snapshot of the high word at `a`, which the next read of it returns. -/
def Chip.held (c : Chip) (p : Path) (a : Nat) : Option Word :=
  let x := cellsGet zeros c.hold (holdKey p a)
  if x.getLsbD 32 then some (x.truncate 32) else none

/-- The snapshot has been returned. -/
def Chip.unhold (c : Chip) (p : Path) (a : Nat) : Chip := { c with hold := cellsSet zeros c.hold (holdKey p a) 0 }

/-- A path's snapshot of a high word (R5): kept at the word's address for the host, one above for CAN. -/
def Chip.holdHigh (c : Chip) (p : Path) (a : Nat) (w : Word) : Chip :=
  { c with hold := cellsSet zeros c.hold (holdKey p a) (1#1 ++ w : BitVec 33) }

/-- What the present tick has added to the 64-bit quantity at `a` (R7). -/
def Chip.fresh64 (c : Chip) (a : Nat) : Nat :=
  (cellsGet zeros c.fresh a).toNat + 2 ^ 32 * (cellsGet zeros c.fresh (a + 4)).toNat

/-- Adds to a 64-bit ledger that a read clears, and notes it for the present tick (R7). -/
def Chip.addRide (c : Chip) (a n : Nat) : Chip :=
  let v := c.fresh64 a + n
  { c.add64 a n with
    fresh := cellsSet zeros (cellsSet zeros c.fresh a (BitVec.ofNat 32 v)) (a + 4) (BitVec.ofNat 32 (v / 2 ^ 32)) }

/-- RIDE_LEDGER_READ: the low word is returned and the high word is held; the ledger starts again from what the present tick
has booked, which the read does not return (R7, R246). -/
def Chip.rideRead (c : Chip) (p : Path) (r : Region) (returned : Bool) : Chip × Word :=
  let a := if returned then BUS_RET r.val else BUS_DRAWN r.val
  let v := wrapTo 64 ((c.get64 a : Int) - c.fresh64 a)
  ((c.put64 a (c.fresh64 a)).holdHigh p (a + 4) (BitVec.ofNat 32 (v / 2 ^ 32)), BitVec.ofNat 32 v)

/-- RIDE_LEDGER_READ. -/
def execRideLedgerRead (p : Path) (r : Region) (returned : Bool) (s : State) : Out :=
  s.askRead p fun c => c.rideRead p r returned

/-- The mean current of an interval is at least IMIN (R243): full scale is 62.5 mV × 2^RANGE over the shunt, which is one
packet per modulator clock (Table 5-1). -/
def Chip.drawsEnough (c : Chip) (r : Region) (count : Int) (clocks : Nat) : Bool :=
  decide ((c.get (BUS_ADM4_IMIN r.val) * 256 * clocks * c.get (BUS_CFG_SHUNT r.val) : Int) ≤
    count * 625000 * 2 ^ c.get (SL_CFG_RANGE (currSlice r).val))

/-- The fast voltage fell by at least Q / (2 × CBUS), with the fall in 0.01 V (R243). -/
def Chip.fellEnough (c : Chip) (r : Region) (count fall : Int) : Bool :=
  decide (count * 100000 * 2 ^ c.get (SL_CFG_RANGE (currSlice r).val) ≤
    fall * 512 * (c.get (BUS_ADM_CBUS r.val) * c.get (BUS_CFG_SHUNT r.val)))

/-- The removal judgement of an interval (R243): one that is not judged, or does not count, ends the run. -/
def Chip.judgeRemoval (c : Chip) (r : Region) (count : Int) (clocks : Nat) (fall : Int) : Chip :=
  if !c.flag (BUS_ADM_EN r.val) || c.adm r != 2 then c
  else if decide (0 < count) && c.drawsEnough r count clocks && c.fellEnough r count fall then
    let n := (c.bus r).rmvRun + 1
    if c.get (BUS_ADM3_RMV_N r.val) ≤ n then c.packRemoved r else c.setBus r { c.bus r with rmvRun := n }
  else c.setBus r { c.bus r with rmvRun := 0 }

/-- The ride ledger books what the current slice booked (R246). -/
def Chip.rideBook (c : Chip) (r : Region) (count : Int) : Chip :=
  if 0 < count then c.addRide (BUS_DRAWN r.val) count.natAbs else c.addRide (BUS_RET r.val) count.natAbs

/-- One bus interval: the ride ledger books it, and removal is judged (R243, R246). -/
def Chip.busInterval (c : Chip) (r : Region) (count : Int) (clocks : Nat) : Chip :=
  let c := c.rideBook r count
  let v := c.get (BUS_FAST_V r.val)
  let fall : Int := ((c.bus r).vStart : Int) - v
  (c.setBus r { c.bus r with vStart := v }).judgeRemoval r count clocks fall

/-! ### Power states (R229, R240, R245) -/

/-- Entry into STANDBY from HOUSE: the cut threshold in force, and a region without a driver ADMITTED. -/
def Chip.busStandby (c : Chip) (r : Region) : Chip :=
  if c.flag (BUS_ADM_EN r.val) then c else c.put (BUS_STAT_ADM r.val) 2

/-- Exit from STANDBY or SHOW to HOUSE: no fast value, its conditions absent, the chopper off and the FETs open. -/
def Chip.busHouse (c : Chip) (r : Region) : Chip :=
  let c := c.chopStop r
  let c := ((c.setReg (BUS_FAST r.val) 0).put (BUS_STAT_UV r.val) 0).put (BUS_STAT_CUT r.val) 0
  (c.admOff r).setBus r { (c.admOff r).bus r with chk := none }

/-- The V_REGEN_CUT in force without a failed chopper (R233, R234). -/
def Chip.restoreCut (c : Chip) (r : Region) : Chip :=
  c.put (BUS_STAT_VCUT_LIVE r.val)
    (c.get (if c.flag (BUS_CHOP_EN r.val) then BUS_VTH_V_REGEN_CUT r.val else BUS_VTH_V_CHOP r.val))

end Sys2Proof.Machine
end

