-- ==== Sys2Proof/Machine/HkResult.lean ====
section
/-! DEFINITION. The end of a housekeeping conversion (10_housekeeping_thermal.md, R249, R250, R256, R258, R261, R262,
R265): the result and everything that reads it. -/
namespace Sys2Proof.Machine

/-- A converter's finished reading: channel, class, corrected code, over-range and settling marks. -/
structure Reading where
  ch : Nat
  cls : Nat
  code : Int
  ovr : Bool
  setl : Bool
  deriving DecidableEq, Repr

/-- A raw code outside the span of R249. -/
def rawOver (raw : Int) : Bool := decide (raw < -4096) || decide (135167 < raw)

/-- The corrected code of a channel (R249, R250). -/
def Chip.hkCorrect (c : Chip) (ch : Nat) (raw : Int) : Int :=
  clampTo (-4096) 135167
    (truncDiv ((clampTo (-4096) 135167 raw - c.gets (HK_COR_OFS ch)) * c.get (HK_COR_GAIN ch)) 32768)

/-- The result stands in HK_RESn and HK_VALc (Tables 10-8, 10-9). -/
def Chip.hkStore (c : Chip) (n : Region) (x : Reading) : Chip :=
  let i := n.val
  let c := c.setReg (HK_RES i) (packFields
    [(HK_RES_OVR i, x.ovr.toNat), (HK_RES_SETL i, x.setl.toNat),
     (HK_RES_OVRN i, (c.hk n).overrun.toNat), (HK_RES_URG i, (x.cls == 3).toNat), (HK_RES_CH i, x.ch),
     (HK_RES_CODE i, wrapTo 19 x.code)])
  let c := c.mark (HK_RES_NEW i)
  (c.setReg (HK_VAL x.ch) (packFields
    [(HK_VAL_VALID x.ch, 1), (HK_VAL_OVR x.ch, x.ovr.toNat), (HK_VAL_SETL x.ch, x.setl.toNat),
     (HK_VAL_CODE x.ch, wrapTo 19 x.code)])).setHk n { c.hk n with overrun := false }

/-- A vector entry by number, when it exists. -/
def setAt {α : Type} {k : Nat} (v : Vector α k) (i : Nat) (x : α) : Vector α k := if h : i < k then v.set i x else v

/-- A result without SETL is the channel's latest for the part's consumers (R205, R255). -/
def Chip.hkUse (c : Chip) (n : Region) (x : Reading) : Chip :=
  if x.setl then c
  else { c with
    hkUsed := setAt c.hkUsed x.ch (x.code, x.ovr)
    hkAge := setAt c.hkAge x.ch (if (c.hk n).inRound then 0 else 1) }

/-! ### Temperatures (R259, R260) -/

/-- The next `n` binary digits of the logarithm of `y`, a number from 1 to 2 in units of 2^-40, behind the digits `a`. -/
def logDigits : Nat → Nat → Nat → Nat
  | 0, _, a => a
  | n + 1, y, a =>
    let z := y * y / 2 ^ 40
    if 2 ^ 41 ≤ z then logDigits n (z / 2) (2 * a + 1) else logDigits n z (2 * a)

/-- The natural logarithm of `a / b` in units of 2^-32 (DEDUCED, log entry 34: to about nine decimal places). -/
def lnRatio (a b : Nat) : Int :=
  let k : Int := (Nat.log2 a : Int) - Nat.log2 b
  let y := if k < 0 then a * 2 ^ (40 + k.natAbs) / b else a * 2 ^ 40 / (b * 2 ^ k.natAbs)
  let (k, y) := if y < 2 ^ 40 then (k - 1, 2 * y) else (k, y)
  (k * 2 ^ 32 + logDigits 32 y 0) * 6931471805599453 / 10 ^ 16

/-- A temperature that a quotient of kelvins gives, in 1/16 °C: 273.15 K less, with the rounding free (log entry 34); far
below every valid one where there is no positive quotient. -/
def Chip.sixteenths (c : Chip) (n d : Int) : Chip × Int :=
  if d ≤ 0 then (c, -100000) else c.divFree (160 * n - 43704 * d) (10 * d)

/-- A diode's temperature from its voltage difference in nV (R259): T = ΔV q / (η k ln 16), with q and k in their exact
values, and η = NF / 16,384.  Without a factor the temperature is free. -/
def Chip.diodeTemp (c : Chip) (s : Sensor) (dv : Int) : Chip × Int :=
  let nf := c.get (HK_TMP_TYPE_NF s.val)
  if nf = 0 then (c.useFree, (c.freeVal.truncate 16 : BitVec 16).toInt)
  else c.sixteenths (dv * 16384 * 1602176634 * 10 ^ 7) (nf * 1380649 * 2772588722239781)

/-- A thermistor's temperature from its ratio in 1/131,072 (R260): the logarithm of its resistance over RNOM.  Where a
resistance is 0 the temperature is free. -/
def Chip.ntcTemp (c : Chip) (s : Sensor) (code : Int) : Chip × Int :=
  let a := c.get (TMP_NTC_RBIAS s.val) * code.toNat
  let b := c.get (TMP_NTC_RNOM s.val) * (131072 - code).toNat
  if a = 0 ∨ b = 0 then (c.useFree, (c.freeVal.truncate 16 : BitVec 16).toInt)
  else
    let beta : Int := c.get (HK_TMP_TYPE_B s.val) * 2 ^ 32
    c.sixteenths (5963 * beta) (20 * beta + 5963 * lnRatio a b)

/-- The sensor is a thermistor. -/
def Chip.isNtc (c : Chip) (s : Sensor) : Bool := decide (s.val < 12) && c.flag (HK_TMP_TYPE_KIND s.val)

/-- The temperature of a sensor in 1/16 °C, from its conversion's code or from what the conversion sensed: the voltage
difference of a diode in nV, or the temperature of a die (log entry 34). -/
def Chip.tempOf (c : Chip) (s : Sensor) (code sense : Int) : Chip × Int :=
  if 12 ≤ s.val then (c, sense) else if c.isNtc s then c.ntcTemp s code else c.diodeTemp s sense

/-- A sensor's reading is valid (R261); `bad` is a diode's open or short, `temp` the computed temperature in 1/16 °C. -/
def Chip.readingOk (c : Chip) (s : Sensor) (x : Reading) (temp : Int) (bad : Bool) : Bool :=
  let ntc := c.isNtc s
  !x.ovr && !bad && !(ntc && (decide (100 * x.code < 2 * 131072) || decide (98 * 131072 < 100 * x.code))) &&
    decide (-880 ≤ temp) && decide (temp ≤ 3200)

/-- The C-die junction has left the window in which the logbook may be written (R335). -/
def Chip.judgeLog (c : Chip) (s : Sensor) (ok : Bool) (temp : Int) : Chip :=
  if s.val = 12 ∧ ok = true ∧ (temp < -640 ∨ 2400 < temp) then c.put LOG_STATUS_HOLD 1 else c

/-- A thermal shutdown asserted since `before` takes its axes to OFF, and their legs obey (R202, R265). -/
def Chip.shutdownActs (c : Chip) (before : Chip) : Chip :=
  if c.faults.shutdown = before.faults.shutdown then c else (c.each (allAxes.filter c.shutdownOn) Chip.reactOff).obeyLines

/-- A temperature channel's result judges its sensor (R261, R265). -/
def Chip.hkSensor (c : Chip) (x : Reading) (sense : Int) (bad : Bool) : Chip :=
  match sensorOf x.ch with
  | none => c
  | some s =>
    if x.setl then c
    else
      let (c, temp) := c.tempOf s x.code sense
      let ok := c.readingOk s x temp bad
      ((c.sensorReading s ok temp).judgeLog s ok temp).shutdownActs c

/-- A reading of a supply channel lies inside its window (Table 10-5). -/
def supplyOk (ch : Nat) (code : Int) : Bool :=
  let inside (fs lo hi : Int) := decide (lo * 131072 ≤ code * fs) && decide (code * fs ≤ hi * 131072)
  match ch with
  | 37 => inside 125 85 95
  | 38 => inside 500 162 363
  | 39 => inside 1000 450 550
  | _ => inside 250 75 190

/-- A supply channel's reading in a round (R262). -/
def Chip.hkSupply (c : Chip) (x : Reading) : Chip :=
  if decide (x.ch < 37) || decide (43 < x.ch) || x.cls != 1 then c
  else
    let ok := supplyOk x.ch x.code
    let src := if x.ch < 40 then 0xE3 else 0xD7 + 3 * (x.ch - 40)
    let rest := c.faults.supplyOut.filter (· != x.ch)
    let c := { c with faults := { c.faults with supplyOut := if ok then rest else rest ++ [x.ch] } }
    c.raiseIf (!ok) src

/-- A reading of a region's PACKCH, in nV × 131,072 (R241): the code in the range of 1.25 V × 2^RNG, times KDIV. -/
def Chip.hkPack (c : Chip) (x : Reading) (rng : Nat) : Chip :=
  c.each allRegions fun c r =>
    if c.get (BUS_ADM_PACKCH r.val) == x.ch then
      c.packReading r (x.code.toNat * 1250000000 * 2 ^ rng * c.get (BUS_ADM4_KDIV r.val))
    else c

/-- The converter's latest result of XCH (R258). -/
def Chip.hkXch (c : Chip) (n : Region) (x : Reading) : Chip :=
  if c.get HK_MODE_XCH == x.ch then c.setHk n { c.hk n with xch := some (x.code, !x.ovr && !x.setl) } else c

/-- Two results of XCH disagree (R258). -/
def Chip.xchDiffers (c : Chip) (a b : Int) : Bool :=
  let d := (a - b).natAbs
  decide (128 < d) && decide ((c.get HK_MODE_XBAND : Int) * max a b < 400 * d)

/-- The cross-check at the end of a round of HK1 (R258). -/
def Chip.crossCheck (c : Chip) : Chip :=
  match (c.hk 0).xch, (c.hk 1).xch with
  | some (a, true), some (b, true) =>
    if !c.xchDiffers a b then { c with xchRun := 0 }
    else if c.get HK_MODE_XN ≤ c.xchRun + 1 then ({ c with xchRun := 0 } : Chip).raise 0xEC
    else { c with xchRun := c.xchRun + 1 }
  | _, _ => { c with xchRun := 0 }

/-- The channels that a converter owns. -/
def Chip.owned (c : Chip) (n : Region) : List Nat := (List.range 46).filter fun ch => isChannel ch && c.convOf ch == n

/-- A round ends when its list is done and no conversion of it waits; a late one then begins (R256). -/
def Chip.roundEnd (c : Chip) (n : Region) : Chip :=
  let h := c.hk n
  if !h.inRound || !h.round.isEmpty || h.requeued.any (·.cls == 1) then c
  else
    let c := c.setHk n { h with inRound := false, lateRound := false }
    let c := c.each (c.owned n) fun c ch => { c with hkAge := setAt c.hkAge ch (c.hkAge.toList.getD ch 0 + 1) }
    let c := if n = 1 then c.crossCheck else c
    if h.lateRound then c.hkRound n else c

/-- The running conversion of a converter whose settle and window have passed (R251). -/
def Chip.hkDone (c : Chip) (n : Region) : Option HkReq :=
  (c.hk n).running.filter fun r => decide (r.since + 1250 + r.window ≤ c.now)

/-- HK_CONVERSION_END (R251): the result stands, its consumers take it, and the next queued conversion starts. -/
def Chip.hkEnd (c : Chip) (n : Region) (raw sense : Int) (bad : Bool) : Chip :=
  match c.hkDone n with
  | none => c
  | some r =>
    let x : Reading := ⟨r.ch, r.cls, c.hkCorrect r.ch raw, rawOver raw, r.setl⟩
    let c := (c.setHk n { c.hk n with running := none }).hkStore n x
    let c := ((((c.hkUse n x).hkSensor x sense bad).hkSupply x).hkPack x r.rng).hkXch n x
    (c.roundEnd n).hkNext n

/-- HK_CONVERSION_END. -/
def execHkConversionEnd (n : Region) (raw sense : Int) (bad : Bool) (s : State) : Out :=
  s.run fun c => c.hkEnd n raw sense bad

end Sys2Proof.Machine
end

