-- ==== Sys2Proof/Machine/Windows.lean ====
section
/-! DEFINITION. The close of a window (R99 to R122) and everything it feeds: the understudy's turn, the Kirchhoff check,
the resolvers and the bus. -/
namespace Sys2Proof.Machine

/-! ### Resolvers (R121, R122, R162) -/

/-- The sine and cosine slices of resolver `m` (Table 1-1). -/
def sineSlice (m : Fin 4) : SliceId := ⟨32 + 2 * m.val, by omega⟩
/-- The cosine slice. -/
def cosSlice (m : Fin 4) : SliceId := ⟨33 + 2 * m.val, by omega⟩

/-- The resolver a slice belongs to. -/
def rsvOfSlice (k : SliceId) : Option (Fin 4) := if h : 32 ≤ k.val ∧ k.val < 40 then some ⟨(k.val - 32) / 2, by omega⟩ else none

/-- A result that drops its cycle (R122). -/
def Result.drops (r : Result) : Bool := r.ovr || r.setl || r.chk

/-- The place in the excitation's period, delayed by DELAY, which the wall tick fixes (R121, R122). -/
def Chip.excPlace (c : Chip) : Nat := (c.wall + c.get RSV_EXC_PER - c.get RSV_DLY_DELAY) % c.get RSV_EXC_PER

/-- A delayed half-cycle boundary falls in this tick and has not been taken yet (R122). -/
def Chip.excDue (c : Chip) : Bool :=
  c.flag RSV_EXC_ENA && c.isArmed && c.excPlace % (c.get RSV_EXC_PER / 2) == 0 && c.excTick != some c.now

/-- EXC_HALF_CYCLE: a half-cycle boundary, delayed by DELAY: the resolver slices close, and the end of a negative half
ends a cycle (R121, R122). -/
def Chip.excHalf (c : Chip) : Chip :=
  if !c.excDue then c
  else
    let pos := c.excPlace == 0
    let c := if pos then c.addWrap RSV_CYC_CYCLES 1 else c
    ({ c with excPos := pos, excTick := some c.now } : Chip).each
      (allSlices.filter fun k => (rsvOfSlice k).isSome) Chip.askSched

/-- EXC_HALF_CYCLE. -/
def execExcHalfCycle (s : State) : Out := s.run Chip.excHalf

/-- The amplitude of a demodulated cycle of `n` modulator clocks passes (R162): the sum of squares lies from AMPLO to AMPHI
sixteenths of the square of full deflection, taken as a full-scale count over the whole cycle (DEDUCED, log entry 9). -/
def Chip.amplitudeOk (c : Chip) (a : Axis) (s q : Int) (n : Nat) : Bool :=
  let full : Int := (256 * n) ^ 2
  decide (c.get (AX_PLAUS_AMPLO a.val) * full ≤ 16 * (s ^ 2 + q ^ 2)) &&
    decide (16 * (s ^ 2 + q ^ 2) ≤ c.get (AX_PLAUS_AMPHI a.val) * full)

/-- An axis takes a cycle of `n` clocks of its resolver; the angle of the tracking loop is free (R162, log entry 2). -/
def Chip.rsvAxis (c : Chip) (m : Fin 4) (good : Bool) (n : Nat) (a : Axis) : Chip :=
  let x := c.rsv m
  let pass := c.amplitudeOk a x.demSin x.demCos n
  let (c, e) := c.freeWord
  let c := c.raiseIf (good && !pass) (srcAxis a 1)
  let pp := c.get (AX_SRC_RSVPP a.val) + 1
  let c := c.rsvCycle m (good && pass) pp (c.get (AX_PLAUS_DROPN a.val)) e
  (c.refreshSources a).feedAxis a true

/-- Both channels of a resolver have delivered a half-cycle: the positive one is kept, the negative one completes the
cycle, whose demodulated value is their difference, and which is used unless a flag drops it (R122). -/
def Chip.rsvHalf (c : Chip) (m : Fin 4) : Chip :=
  let s := (c.slice (sineSlice m)).last
  let q := (c.slice (cosSlice m)).last
  let x := c.rsv m
  let bad := s.drops || q.drops
  if !c.excPos then c.setRsv m { x with posSin := s.count, posCos := q.count, posClocks := s.clocks, posBad := bad }
  else
    let c := c.setRsv m { x with demSin := x.posSin - s.count, demCos := x.posCos - q.count }
    c.each (c.axesOfRsv m) fun c a => c.rsvAxis m (!bad && !x.posBad) (x.posClocks + s.clocks) a

/-- A resolver slice has closed. -/
def Chip.rsvCheck (c : Chip) (k : SliceId) : Chip :=
  match rsvOfSlice k with
  | none => c
  | some m =>
    if (c.slice (sineSlice m)).fresh && (c.slice (cosSlice m)).fresh then
      ([sineSlice m, cosSlice m].foldl (fun (c : Chip) k => c.setSlice k { c.slice k with fresh := false }) c).rsvHalf m
    else c

/-! ### The bus interval (R102, R246) -/

/-- A window of the current slice of a bus: a BOUNDARY slice delivers its interval `whole`, and what it booked of one that a
stop cuts short goes into the ride ledger too (R246); any other delivers its window. -/
def Chip.busCheck (c : Chip) (k : SliceId) (rep : Report) (whole : Result) : Chip :=
  c.each (allRegions.filter (currSlice · == k)) fun c r =>
    if c.closeMode k = 0 then
      if rep.sched then c.busInterval r whole.count whole.clocks
      else if rep.stop then c.rideBook r whole.count
      else c
    else if rep.stop then c.rideBook r rep.res.count
    else c.busInterval r rep.res.count rep.res.clocks

/-- The oldest report of a slice stands at the C-die, and goes to everything that reads it (R103). -/
def Chip.deliverReport (c : Chip) (k : SliceId) : Chip :=
  match (c.slice k).reports with
  | [] => c
  | rep :: l =>
    let whole := (c.slice k).cur.join rep.res
    let c := (c.setSlice k { c.slice k with reports := l }).takeReport k rep
    ((((c.ipdTake k rep).kirchCheck k).rsvCheck k).busCheck k rep whole)

/-! ### WINDOW_CLOSE -/

/-- A slice goes back to its own integrator at this close (R116, R117, R119): a gap of the moment ends; a slice that
stops does so with an empty integrator. -/
def Chip.goBack (c : Chip) (k : SliceId) : Chip :=
  let halt := !(c.slice k).running
  let c := (c.handBack k).setGap k false
  c.setSlice k { c.slice k with fStart := if halt then 0 else (c.slice k).fStart }

/-- The slices of the C-die report at once; those of a D-die by a slice-result frame (R103). -/
def Chip.reportHome (c : Chip) (k : SliceId) : Chip := if dieOfSlice k = 4 then c.deliverReport k else c

/-- A window of a working slice is booked, and what waits for the close goes on: a replacement, a hand-back, or the
understudy's turn, to which `shadow` tells the comparison's outcome. -/
def Chip.bookClose (c : Chip) (k : SliceId) (w : Window) (shadow : Bool) : Chip :=
  let x := c.slice k
  let c := (c.closeSlice k w x.cause x.reqSched).takeOver k
  let c := if x.back then c.goBack k else if x.gap then c else c.turnStep k shadow
  c.reportHome k

/-- A mate of a gap slice has closed at this edge. -/
def Chip.closedNow (c : Chip) (k : SliceId) : Bool := (c.slice k).opened == c.now

/-- A gap window that is reconstructed waits for the windows of its mates at the same edge (R118). -/
def Chip.mustWait (c : Chip) (k : SliceId) : Bool := (c.slice k).gap && c.reconOk k && !(mates k).all c.closedNow

/-- The understudy closes beside a slice, with its own figures (Table 5-4). -/
def Chip.underClose (c : Chip) (d : UDie) (u : Window) (cause : Nat) : Chip :=
  let v := underOf d
  if (c.slice v).running then (c.closeSlice v u cause false).reportHome v else c

/-- The close of a working slice at an edge, the figures being its integrator's and its understudy's: what the understudy
does beside it, its own window, and the gap windows of its mates that waited for it. -/
def Chip.workClose (c : Chip) (k : SliceId) (w u : Window) : Chip :=
  let d := dieOfSlice k
  let v := underOf d
  let x := c.slice k
  let near := c.beside d == some k
  let c := if near then c.underClose d u x.cause
    else if (c.under d).settling == some k.val then c.setSlice v { c.slice v with fStart := fineCode false u.full }
    else c
  let own := 256 * w.packets + fineCode x.stopping w.full - x.fStart
  let shadow := near && c.agrees d k own (c.slice v).closed.count (c.slice v).closed.clocks
  if c.mustWait k then c.setSlice k { c.slice k with waits := true }
  else
    (c.bookClose k w shadow).each (mates k) fun c m =>
      if (c.slice m).waits && !c.mustWait m then c.bookClose m ⟨0, 0, 0, 0⟩ false else c

/-- A slice has a window to close at this modulator edge: one is asked for, or the window has its greatest length (R99,
R101).  A close at the edge at which it opened merges with that one, but for a stop. -/
def Chip.closeDue (c : Chip) (k : SliceId) : Bool :=
  let x := c.slice k
  x.running && c.wall % 4 == 0 && (x.asked || decide (32510 ≤ c.clocksOf k)) && (decide (x.opened < c.now) || x.stopping)

/-- WINDOW_CLOSE (R97, R99): a close takes effect at a modulator edge, with figures that an integrator can show over the
window.  An understudy closes with the slice that it stands beside; where it stands beside none, it stops on its
own. -/
def Chip.windowClose (c : Chip) (k : SliceId) (w u : Window) : Chip :=
  if !c.closeDue k || !windowFits w (c.clocksOf k) || !windowFits u (c.clocksOf (underOf (dieOfSlice k))) then c
  else if !isUnder k then c.workClose k w u
  else if (c.slice k).stopping && (c.beside (dieOfSlice k)).isNone then (c.closeSlice k w 3 false).reportHome k
  else c

/-- WINDOW_CLOSE. -/
def execWindowClose (k : SliceId) (w : Windows) (s : State) : Out := s.run fun c => c.windowClose k w.own w.under

/-! ### SLICE_RESULT_FRAME (R103, R228) -/

/-- What a slice-result frame brings to the C-die: the oldest window result of a slice, or the fast bus current. -/
def Chip.sliceReported (c : Chip) (d : Die) (r : SliceReport) : Chip :=
  match r with
  | .window k => if (dieOfSlice k).val = d.val then c.deliverReport k else c
  | .fastCurrent i => c.each (allRegions.filter fun r => 2 * r.val == d.val) fun c r => c.fastCurrent r i

end Sys2Proof.Machine
end

