-- ==== Sys2Proof/Machine/Observer.lean ====
section
/-! DEFINITION. The commanded speed of an axis (R206 to R210) and the sensorless estimate: its qualification, its loss and
the orderly disqualification (R180 to R182, R190, R196), and zero crossings (R269). -/
namespace Sys2Proof.Machine

/-! ### Commanded speed -/

/-- Number of the curve segment that holds `x` (R206). -/
def Chip.segment (c : Chip) (a : Axis) (x : Nat) : Nat :=
  ((List.range 32).filter fun i => decide (c.get (AX_CRV_X a.val i) ≤ x)).length - 1

/-- Y(x) in rpm, as numerator and denominator (R206). -/
def Chip.curveY (c : Chip) (a : Axis) (x : Nat) : Int × Int :=
  let i := c.segment a x
  let x0 := c.get (AX_CRV_X a.val i)
  let y0 : Int := c.get (AX_CRV_Y a.val i)
  if x < x0 || decide (31 ≤ i) then (y0, 1)
  else
    let d : Int := (c.get (AX_CRV_X a.val (i + 1)) : Int) - x0
    (y0 * d + ((c.get (AX_CRV_Y a.val (i + 1)) : Int) - y0) * ((x : Int) - x0), d)

/-- The magnitude of the speed that the mode in force commands, in 1/16 rpm, as numerator and denominator. -/
def Chip.commanded (c : Chip) (a : Axis) : Int × Int :=
  match c.modeOf a with
  | 1 =>
    if c.flag (AX_MSTAT_CRV_ON a.val) then
      (16 * (c.curveY a (c.get (AX_CINU_X a.val))).1, (c.curveY a (c.get (AX_CINU_X a.val))).2)
    else (0, 1)
  | 2 => if c.flag (CMP_CTRL_RUN a.val) then (16 * ((c.gets (CMP_TARGET_TARGET a.val)).natAbs : Int), 1) else (0, 1)
  | 5 => (c.get (AX_HOME_SPEED a.val), 1)
  | _ => (0, 1)

/-- The commanded speed lies below QUAL_SPEED (R182); an axis that brakes is commanded to rest (R186). -/
def Chip.commandsLow (c : Chip) (a : Axis) : Bool :=
  c.startOf a == 5 || decide ((c.commanded a).1 < c.get (AX_BEMF_QUAL_SPEED a.val) * (c.commanded a).2)

/-! ### Qualification and loss (R182, R190) -/

/-- The axis draws its torque from the observer (R182): its loop is closed on a sensorless source. -/
def Chip.onObserver (c : Chip) (a : Axis) : Bool := c.usesSensorless a && c.startOf a == 3

/-- The observer's angle lies within BAND of the angle of the latest crossing (R182). -/
def Chip.observerClose (c : Chip) (a : Axis) (θ : BitVec 32) : Bool :=
  decide ((θ - (c.axis a).crossAngle).toInt.natAbs ≤ c.get (AX_PLAUS_BAND a.val) * 2 ^ 20)

/-- The estimate is disqualified.  In CURVE, COMPAT and HOME with a commanded speed below QUAL_SPEED this is orderly: the
legs float, START returns to 0, no loss is counted and the timebases wait; else it is a loss (R182). -/
def Chip.estimateEnds (c : Chip) (a : Axis) : Chip :=
  if c.usesSensorless a && usesSpd (c.modeOf a) && c.commandsLow a then
    let braking := c.startOf a == 5
    let onSec := c.onSec a
    let c := if onSec then (c.putF (AX_SRCSTAT_QUAL a.val) false).loseAxis a else (c.loseAxis a).disqualify a
    let c := if onSec then (c.putF (AX_SRCSTAT_SEC_OK a.val) false).putF (AX_SRCSTAT_OFS_OK a.val) false else c
    let c := c.setAxis a { c.axis a with orderly := !braking, crossRow := 0, missRow := 0, obsBad := 0, obsGood := 0 }
    if braking then c else (c.floatAxis a).endStart a
  else c.disqualify a

/-- The estimate qualifies: its angle becomes valid, an open-loop start closes, and timebases that wait for it take it
(R163, R168, R190). -/
def Chip.estimateQualifies (c : Chip) (a : Axis) : Chip :=
  let (c, e) := c.freeWord
  let agree := c.ipdAgrees a e
  let c := ((c.takeEstimate a e).putF (AX_SRCSTAT_QUAL a.val) true).refreshSources a
  if c.startOf a = 2 then
    let c := (c.setStart a 3 none).setAxis a { (c.setStart a 3 none).axis a with focOn := false, obsGood := 0 }
    let c := if agree then c.keepMargin a else c
    if c.usesSensorless a then c.regainAxis a else c
  else if c.usesSensorless a && (c.axis a).orderly && (c.tb (tbmOf a)).lost then
    (c.setAxis a { c.axis a with orderly := false }).regainAxis a
  else if (c.tb (tbmOf a)).lost then c
  else c.feedAxis a false

/-- A qualified estimate follows the observer's angle `e` (R181). -/
def Chip.followObserver (c : Chip) (a : Axis) (e : BitVec 32) : Chip :=
  if c.flag (AX_SRCSTAT_QUAL a.val) then (c.takeEstimate a e).feedAxis a true else c

/-- The observer takes its angle anew at a crossing, which is free (log entry 2). -/
def Chip.takeObserver (c : Chip) (a : Axis) : Chip := c.freeWord.1.followObserver a c.freeWord.2

/-- A crossing at angle `θ`, an interval of `p` ticks after the one before being predicted (R182): within a quarter of that it
counts toward qualification, and two in a row that miss it by more than half disqualify.  The first crossing of all has no
prediction. -/
def Chip.judgeCrossing (c : Chip) (a : Axis) (p speed : Nat) (θ : BitVec 32) (close : Bool) : Chip :=
  let x := c.axis a
  let off : Option Nat := x.crossTick.map fun t => ((c.now - t : Nat) - (p : Int)).natAbs
  let row := match off with | some d => if 4 * d ≤ p then min (x.crossRow + 1) 15 else 0 | none => 0
  let miss := match off with | some d => if p < 2 * d then x.missRow + 1 else 0 | none => 0
  let c := c.setAxis a { x with crossRow := row, missRow := miss, crossTick := some c.now, crossAngle := θ }
  if c.flag (AX_SRCSTAT_QUAL a.val) then
    if 2 ≤ miss then c.estimateEnds a else c.takeObserver a
  else if c.get (AX_BEMF_QUALN a.val) ≤ row && decide (c.get (AX_BEMF_QUAL_SPEED a.val) ≤ speed) &&
      (c.sixStep a || close) then c.estimateQualifies a
  else c

/-! ### ZERO_CROSSING (R180, R269) -/

/-- No gate of the leg is on. -/
def Chip.legDark (c : Chip) (l : Leg) : Bool := c.legMode l == 0 && !(c.leg l).ghOn && !(c.leg l).glOn

/-- At least 1 µs has passed since any edge of the axis (R180). -/
def Chip.edgesOld (c : Chip) (a : Axis) : Bool :=
  (legsOf a).all fun l => c.aged 250 (c.leg l).ghEdge && c.aged 250 (c.leg l).glEdge

/-- The comparator of leg `l` is read in this tick (R180): all three with all legs of the axis floating; else, in six-step,
the floating leg's, while the PWM leg is on, or off where its duty is below 1.25 µs, and no edge of the axis is younger
than 1 µs. -/
def Chip.pcRead (c : Chip) (l : Leg) : Bool :=
  let a := axisOfLeg l
  let p := legOf a (sectorLegs (c.get (AX_SRCSTAT_SECTOR a.val))).1
  let on := (c.leg p).ghOn
  c.isArmed && c.axisOn a && c.legMode l == 0 && ((legsOf a).all c.legDark ||
    (c.sixStep a && c.edgesOld a && (if c.get (LEG_DUTY_ON p.val) < 1250 then !on else on)))

/-- Capture, interrupt and wake of a crossing (R269). -/
def Chip.pcEvent (c : Chip) (l : Leg) (rise : Bool) : Chip :=
  let n := l.val
  let full := c.stillSet (PC_CAPS_FULL n)
  let c := if (c.get PC_CAPEN_EN).testBit n then
      let c := c.put (PC_CAP_TICK n) c.wall
      let c := (c.mark (PC_CAPS_FULL n)).markIf full (PC_CAPS_OVF n)
      (c.putF (PC_CAPS_RISE n) rise).put (PC_CAPS_THETA n) ((c.theta (axisOfLeg l)).toNat / 65536)
    else c
  let c := c.markIf ((c.get PC_IRQEN_EN).testBit n) { PC_IRQ_PEND with hi := n, lo := n }
  if (c.get PC_WAKEEN_EN).testBit n then c.wake else c

/-- ZERO_CROSSING.  The predicted interval, the crossing's angle, the estimate's speed and the observer's angle are the
observer's own (log entry 2). -/
def Chip.zeroCrossing (c : Chip) (l : Leg) (rise : Bool) : Chip :=
  if !c.pcRead l then c
  else
    let a := axisOfLeg l
    let c := c.pcEvent l rise
    if !c.hasSensorless a then c
    else
      let (c, p) := c.freeWord
      let (c, speed) := c.freeWord
      let (c, cross) := c.freeWord
      let (c, angle) := c.freeWord
      let x := c.axis a
      let close := (c.setAxis a { x with crossAngle := cross }).observerClose a angle
      c.judgeCrossing a p.toNat speed.toNat cross close

/-- ZERO_CROSSING. -/
def execZeroCrossing (l : Leg) (rise : Bool) (s : State) : Out := s.run fun c => c.zeroCrossing l rise

end Sys2Proof.Machine
end

