-- ==== Sys2Proof/Machine/Engine.lean ====
section
/-! DEFINITION. The field engines (03_field_engines.md, R57 to R70): period boundaries and releases, snapshots, scheduling,
lockstep and rollback, and missed deadlines.  The commit stands in Commit.lean.  Each row acts only from the tick in which
its event can come (log entry 1). -/
namespace Sys2Proof.Machine

/-! ### Halting (R69, R70) -/

/-- The slices of an axis are dropped, and its engine is free of them. -/
def Chip.dropRun (c : Chip) (a : Axis) : Chip :=
  let e := regionOf a
  let c := c.setAxis a { c.axis a with run := {} }
  let c := c.put (FE_STATUS_RETRY e.val) (c.get (FE_STATUS_RETRY e.val) &&& (15 - 2 ^ localOf a))
  if c.engine e = some a then c.setEngine e none else c

/-- FE_STATUS.ACTIVE: the enabled local axes that run slices. -/
def Chip.showActive (c : Chip) (e : Region) : Chip :=
  c.put (FE_STATUS_ACTIVE e.val) (((axesOfRegion e).filter c.slicesRun).foldl (fun m a => m + 2 ^ localOf a) 0)

/-- An axis is halted until reset: HALTED, its curtain line at once, OFF (R69). -/
def Chip.haltAxis (c : Chip) (a : Axis) : Chip :=
  let e := regionOf a
  let c := (c.dropRun a).put (FE_STATUS_HALT e.val) (c.get (FE_STATUS_HALT e.val) ||| 2 ^ localOf a)
  ((c.reactOff a).showActive e).obeyLines

/-! ### PWM_BOUNDARY (R57, R58, R74) -/

/-- The servo period that ends at this boundary carries an applied BLK_END (R214), also one that a slice still under way
applies. -/
def Chip.blockEnds (c : Chip) (a : Axis) : Bool :=
  c.flag (AX_STRCFG_GATED a.val) && (match (c.axis a).applied with | some x => x.blkEnd | none => false)

/-- The entries of the FIFO that no slice under way has applied already: those pop at their commits, in order (R213;
DEDUCED, log entry 8). -/
def Chip.fifoLeft (c : Chip) (a : Axis) : List Setpoint :=
  let x := c.axis a
  x.fifo.drop (x.run.queue.filter fun p => match p.snap with | some s => s.head.isSome | none => false).length

/-- A new servo period begins at this release; with an empty FIFO it is an underrun (R211, R213). -/
def Chip.newServo (c : Chip) (a : Axis) : Chip :=
  let x := c.axis a
  let empty := (c.fifoLeft a).isEmpty
  let c := c.setAxis a { x with period := (x.period + 1) % 65536, spdCount := 1, newPeriod := true, applied := none }
  if empty then (c.mark (AX_STRSTAT_UNDER a.val)).bump (AX_STRCNT_UNDERRUNS a.val) 1 else c

/-- The servo-period bookkeeping of a release (R211 to R214); it yields the slice's index in its period, SPD for a slice
that holds a block end. -/
def Chip.servo (c : Chip) (a : Axis) : Chip × Nat :=
  let x := c.axis a
  let spd := c.get (AX_STRCFG_SPD a.val) + 1
  if c.modeOf a != 3 || !x.begun then (c, 0)
  else if x.spdCount < spd then (c.setAxis a { x with spdCount := x.spdCount + 1 }, x.spdCount)
  else if c.flag (AX_MSTAT_HELD a.val) then (c, spd)
  else if c.blockEnds a then
    if c.flag (AX_MSTAT_PEND a.val) then ((c.put (AX_MSTAT_PEND a.val) 0).newServo a, 0)
    else ((c.put (AX_MSTAT_HELD a.val) 1).setAxis a { x with applied := none }, spd)
  else (c.newServo a, 0)

/-- The entry into STANDBY is still to come, or takes place in this tick (R57). -/
def Chip.arming (c : Chip) : Bool := match c.armTick with | some t => decide (c.now ≤ t) | none => false

/-- The tick at which the windows that close at this boundary opened: the boundary before, or the entry into STANDBY since
(R57). -/
def Chip.windowFrom (c : Chip) (a : Axis) : Nat := min c.now (max ((c.axis a).edgeTick.getD c.now) (c.armTick.getD 0))

/-- TB(8 + a) at that tick; an entry into STANDBY between two boundaries takes its share of the way between them. -/
def Chip.windowTb (c : Chip) (a : Axis) : BitVec 32 :=
  let x := c.axis a
  let v := (c.tb (tbeOf a)).val
  match x.edgeTick with
  | none => v
  | some t => v - BitVec.ofInt 32 ((v - x.edgeTb).toInt * ((c.now - c.windowFrom a : Nat) : Int) / (max 1 (c.now - t) : Nat))

/-- A slice is released (R57, R58), with the derating factor of this tick (R263) and the rotor's way over its window. -/
def Chip.releaseSlice (c : Chip) (a : Axis) : Chip :=
  if !c.slicesRun a || c.arming then c
  else
    let (c, j) := c.servo a
    let x := c.axis a
    let p : Pend :=
      { release := c.now, df := c.get (TMP_DF_DF a.val), opened := c.windowFrom a, v0 := c.windowTb a
        v1 := (c.tb (tbeOf a)).val, period := x.period, j := j }
    c.setAxis a { x with run := { x.run with queue := x.run.queue ++ [p] } }

/-- The wall tick is a period boundary of the axis that has not been taken yet (R74). -/
def Chip.boundaryDue (c : Chip) (a : Axis) : Bool :=
  !c.inDark && c.sinceBoundary a == 0 && (c.axis a).edgeTick != some c.now

/-- PWM_BOUNDARY: the legs' period ends and the next begins; BOUNDARY slices that name the axis close, SSI groups that it
triggers start, and its slice is released (R74, R77, R86, R99, R144). -/
def Chip.pwmBoundary (c : Chip) (a : Axis) : Chip :=
  if !c.boundaryDue a then c
  else
    let charge := c.isArmed && c.axisOn a && c.modeOf a == 0
    let c := c.each (legsOf a) fun c l => c.legBoundary charge l
    let c := c.each (allSlices.filter fun k => c.closeMode k == 0 && c.get (SL_CFG_AXIS k.val) == a.val && !isUnder k)
      Chip.askSched
    let c := c.each (allPorts.filter fun p => c.leads p 3 && c.get (FP_SSI3_TRIGAX p.val) == a.val) Chip.ssiTrigger
    let c := c.releaseSlice a
    c.setAxis a { c.axis a with edgeTick := some c.now, edgeTb := (c.tb (tbeOf a)).val }

/-- PWM_BOUNDARY. -/
def execPwmBoundary (a : Axis) (s : State) : Out := s.run fun c => c.pwmBoundary a

/-! ### SLICE_SNAPSHOT (R58) -/

/-- The oldest released slice that has no snapshot becomes `q` with the snapshot `x`. -/
def takeSnap (q : Pend) (x : Snapshot) : List Pend → List Pend
  | [] => []
  | p :: l => if p.snap.isNone then { q with snap := some x } :: l else p :: takeSnap q x l

/-- The slice whose snapshot is due. -/
def dueSnap (l : List Pend) : Option Pend := l.find? fun p => p.snap.isNone

/-- The results of every phase window that closed at the boundary stand (R103). -/
def Chip.resultsStand (c : Chip) (a : Axis) : Bool :=
  (slicesOfAxis a).all fun k => !(c.slice k).reqSched && !((c.slice k).reports.any (·.sched))

/-- The difference that the engine compares for the slice `p` (R164), with both sources valid.  With a Hall secondary only a
window that held a Hall edge counts, by the angle of that edge. -/
def Chip.comparison (c : Chip) (a : Axis) (p : Pend) : Option Int :=
  if !(c.flag (AX_SRCSTAT_PRI_OK a.val) && c.flag (AX_SRCSTAT_SEC_OK a.val)) then none
  else if c.srcType a true = 1 then
    match (c.axis a).hallEdge with
    | some (t, d) => if p.opened < t && decide (t ≤ p.release) then some d.toInt else none
    | none => none
  else some (c.primaryTheta a - c.srcTheta a true).toInt

/-- What the mode takes from its entry snapshot (R211, R216, R223); the live slot of GEAR stays, whatever changed it since
the entry (R225). -/
def Chip.entryTarget (c : Chip) (a : Axis) : Chip :=
  let x := c.axis a
  let v := c.tbVal (tbmOf a)
  let c := if x.takeTarget then
      let c := c.setAxis a { x with
        takeTarget := false, target := v, fromPos := v, toPos := v
        gearTarget0 := v, gearRem0 := 0, gearSlot0 := (c.gearNow a).2.2, gearSteps := [] }
      if c.modeOf a = 4 then c.showGear a else c
    else c
  if c.modeOf a == 3 && !(c.axis a).begun then
    c.setAxis a { c.axis a with begun := true, period := 0, spdCount := 1 }
  else c

/-- The FIFO head that a period's first slice applies (R213). -/
def Chip.servoHead (c : Chip) (a : Axis) (p : Pend) : Option Setpoint :=
  if c.modeOf a == 3 && p.j == 0 then
    match c.fifoLeft a with
    | x :: _ => if x.tag = p.period then some x else none
    | [] => none
  else none

/-- The speed of the master times the ratio of the live slot, in counts per tick (R224). -/
def Chip.gearSpeed (c : Chip) (a : Axis) : Int × Nat :=
  let s := c.get (AX_MSTAT_SLOT a.val)
  (c.gets (AX_GSLOT_NUM a.val s) * (c.tb (tbOf (16 + c.get (AX_GEARCFG_MASTER a.val)))).speed, c.get (AX_GSLOT_DEN a.val s))

/-- The middle of the Hall span that a field-oriented axis may need (R363). -/
def Chip.hallMid (c : Chip) (a : Axis) : Option (BitVec 32) :=
  if c.flag (AX_COMCFG_WAVE a.val) && c.srcType a (c.onSec a) == 1 then some (c.hallMiddle a (c.onSec a)) else none

/-- The derating factor of a slice released with the thermal factor `df` (R263): a code 1 reaction acts from the slice
whose snapshot follows it (Table 11-3). -/
def Chip.dfOf (c : Chip) (a : Axis) (df : Nat) : Nat := if c.reacted a 1 1 then min df (c.get FLT_DRT_DF) else df

/-- The snapshot of an axis for the slice `p` (R58), whose input is `x`. -/
def Chip.snapOf (c : Chip) (a : Axis) (p : Pend) (took : Bool) (x : Nat) (fail : Bool) : Snapshot :=
  let y := c.axis a
  { tick := c.now, mode := c.modeOf a, entered := y.entered, entry := y.entries
    tbm := c.tbVal (tbmOf a), tbe := c.tbVal (tbeOf a), stale := c.axisStale a
    cmp := c.comparison a p, switched := y.switched, x := x, inFail := fail, df := c.dfOf a p.df
    limF := c.limitTrip a false, limB := c.limitTrip a true, advSel := y.advSel
    dir := c.flag (AX_MSTAT_DIR a.val), run := c.flag (CMP_CTRL_RUN a.val), cmpTarget := c.gets (CMP_TARGET_TARGET a.val)
    accel := c.get (CMP_ACCEL_ACCEL a.val), decel := c.get (CMP_DECEL_DECEL a.val)
    sensorless := c.usesSensorless a, qual := c.flag (AX_SRCSTAT_QUAL a.val), hallMid := c.hallMid a
    speed := (c.tb (tbeOf a)).speed, gearSpeed := c.gearSpeed a
    gearTarget := y.target, took := took, homeLate := y.homeLate, head := c.servoHead a p
    u := (c.slice (sliceOfLeg (legOf a 0))).last, v := (c.slice (sliceOfLeg (legOf a 1))).last
    w := (c.slice (sliceOfLeg (legOf a 2))).last }

/-- SLICE_SNAPSHOT.  A curve input above 16 bits has no stated value (R205): it is open. -/
def Chip.snapshot (c : Chip) (a : Axis) : Chip :=
  if !c.resultsStand a then c
  else match dueSnap (c.axis a).run.queue with
    | none => c
    | some p =>
      let begins := c.modeOf a == 3 && !(c.axis a).begun
      let took := (c.axis a).takeTarget
      let c := c.entryTarget a
      let (x, fail) := c.curveInput a
      let (c, w) := c.freeWord
      let p : Pend := if begins then { p with period := 0, j := 0 } else p
      let s := c.snapOf a p took (if x < 65536 then x else w.toNat % 65536) fail
      let y := c.axis a
      c.setAxis a { y with
        entered := false, switched := false, applied := if s.head.isSome then s.head else y.applied
        run := { y.run with queue := takeSnap p s y.run.queue } }

/-- SLICE_SNAPSHOT. -/
def execSliceSnapshot (a : Axis) (s : State) : Out := s.run fun c => c.snapshot a

/-! ### SLICE_START (R60, R70) -/

/-- The slice of an axis that may run: the oldest, once it has its snapshot. -/
def Chip.ready (c : Chip) (a : Axis) : Bool :=
  match (c.axis a).run.queue with
  | p :: _ => p.snap.isSome
  | [] => false

/-- The deadline of the oldest slice: two periods after its release (R59). -/
def Chip.deadline (c : Chip) (a : Axis) : Nat :=
  match (c.axis a).run.queue with
  | p :: _ => p.release + 2 * c.period a
  | [] => 0

/-- The ready axis with the earliest deadline, the lower number first (R60). -/
def Chip.earliest (c : Chip) (e : Region) : Option Axis :=
  ((axesOfRegion e).filter c.ready).foldl (fun (b : Option Axis) a =>
    match b with
    | none => some a
    | some x => if c.deadline a < c.deadline x then some a else some x) none

/-- A slice under rollback occupies its engine (R68). -/
def Chip.rollsBack (c : Chip) (e : Region) : Bool :=
  (axesOfRegion e).any fun a => (c.axis a).run.mismatched || (c.axis a).run.retrying

/-- Engine cycles that the slice of `a` has run, while the engine works on it (R68). -/
def Chip.ranNow (c : Chip) (a : Axis) : Nat := (c.axis a).run.ran + (c.now - (c.axis a).run.since)

/-- The slice of `b` is preempted: it keeps the cycle at which it stopped (R60). -/
def Chip.preempt (c : Chip) (b : Axis) : Chip :=
  c.setAxis b { c.axis b with run := { (c.axis b).run with preempted := true, ran := c.ranNow b } }

/-- The engine turns to the slice of `a`: a first start reads its checkpoint, whose uncorrectable ECC error halts the axis
(R70); `stray` is a data access outside the microcode map (R291). -/
def Chip.turnTo (c : Chip) (e : Region) (a : Axis) (eccBad : Bool) (stray : Option (BitVec 24 × Bool)) : Chip :=
  let x := c.axis a
  if eccBad && !x.run.started then (c.raise 0xF0).haltAxis a
  else
    let c := c.setAxis a { x with run := { x.run with started := true, preempted := false, since := c.now } }
    let c := match stray with | some (t, wr) => c.accessError (3 + e.val) wr 2 t.toNat | none => c
    c.setEngine e (some a)

/-- SLICE_START: earliest deadline first; only a strictly earlier deadline preempts (R60). -/
def Chip.sliceStart (c : Chip) (e : Region) (eccBad : Bool) (stray : Option (BitVec 24 × Bool)) : Chip :=
  match c.earliest e with
  | none => c
  | some a =>
    if c.rollsBack e then c
    else match c.engine e with
      | none => c.turnTo e a eccBad stray
      | some b =>
        if c.deadline a < c.deadline b then (c.preempt b).turnTo e a eccBad stray else c

/-- SLICE_START. -/
def execSliceStart (e : Region) (eccBad : Bool) (stray : Option (BitVec 24 × Bool)) (s : State) : Out :=
  s.run fun c => c.sliceStart e eccBad stray

/-! ### SLICE_DEADLINE (R61, R73) -/

/-- The snapshot of the slice after an abandoned one with snapshot `s`: what `s` held of an entry into the mode, of its
target and of a switch counts for the next one (R61). -/
def Snapshot.after (t s : Snapshot) : Snapshot :=
  { t with
    switched := t.switched || s.switched
    entered := t.entered || (s.entered && t.entry == s.entry)
    took := t.took || (s.took && t.entry == s.entry) }

/-- What a discarded snapshot had taken from the axis goes back to it. -/
def AxisState.retake (x : AxisState) (s : Snapshot) : AxisState :=
  { x with
    switched := x.switched || s.switched
    entered := x.entered || (s.entered && s.entry == x.entries)
    takeTarget := x.takeTarget || (s.took && s.entry == x.entries) }

/-- The snapshot that stands already when an older one `s` is discarded becomes the entry snapshot in its place (R211, R216);
GEAR's accumulator, which runs on, keeps the target that it began with (DEDUCED, log entry 8). -/
def AxisState.entryFrom (x : AxisState) (s t : Snapshot) : AxisState :=
  if s.took && t.entry == s.entry && t.entry == x.entries && t.mode != 4 then
    { x with target := t.tbm, fromPos := t.tbm, toPos := t.tbm }
  else x

/-- What a discarded snapshot had taken goes to the next slice's snapshot where that stands already, else to the axis
(R61); `l` are the slices that stay. -/
def Chip.undoSnap (c : Chip) (a : Axis) (s : Snapshot) (l : List Pend) : Chip :=
  let x := c.axis a
  match l with
  | [] => c.setAxis a (x.retake s)
  | q :: l' =>
    match q.snap with
    | some t => c.setAxis a { x.entryFrom s t with run := { queue := { q with snap := some (t.after s) } :: l' } }
    | none => c.setAxis a (x.retake s)

/-- An abandoned slice leaves a pop undone (R213): that of the head in its snapshot, or, before its snapshot, that of its
servo period. -/
def Pend.losesPop (p : Pend) (mode : Nat) : Bool :=
  match p.snap with
  | some s => s.head.isSome
  | none => mode == 3 && p.j == 0

/-- SLICE_DEADLINE: the oldest slice is abandoned; nothing of it is produced, and one event of MISS names its axis. -/
def Chip.sliceMissed (c : Chip) (a : Axis) : Chip :=
  if c.now < c.deadline a then c
  else match (c.axis a).run.queue with
    | [] => c
    | p :: l =>
      let lost := p.losesPop (c.modeOf a)
      let c := c.dropRun a
      let x := c.axis a
      let c := c.setAxis a { x with
        run := { queue := l }, missedPop := x.missedPop || lost, applied := if lost then none else x.applied }
      let c := match p.snap with | some s => c.undoSnap a s l | none => c
      let e := (regionOf a).val
      (c.bump (FE_AX_MISS_MISSES e (localOf a)) 1).report (0xE8 + 3 * e) 1 0 (axisMask [a]) false

/-- SLICE_DEADLINE. -/
def execSliceDeadline (a : Axis) (s : State) : Out := s.run fun c => c.sliceMissed a

/-! ### Lockstep (R68, R69) -/

/-- FE_MMREC and FE_MMTICK. -/
def Chip.recordMismatch (c : Chip) (e : Region) (a : Axis) (cycle : BitVec 10) (persist : Bool) : Chip :=
  ((c.setReg (FE_MMREC e.val) (packFields
    [(FE_MMREC_PERSIST e.val, persist.toNat), (FE_MMREC_AXIS e.val, localOf a),
     (FE_MMREC_CYCLE e.val, cycle.toNat)])).mark (FE_MMREC_VALID e.val)).put64 (FE_MMTICK e.val) c.wall

/-- LOCKSTEP_MISMATCH: the first in a slice discards the working copy and counts a TRANS event; one in a re-execution is
persistent, and halts the axis with a PERSIST event whose built-in action is a curtain. -/
def Chip.mismatch (c : Chip) (e : Region) (cycle : BitVec 10) : Chip :=
  match c.engine e with
  | none => c
  | some a =>
    let x := c.axis a
    if x.run.mismatched then c
    else if x.run.retrying then
      ((c.recordMismatch e a cycle true).haltAxis a).report (0xE7 + 3 * e.val) 1 4 (axisMask [a]) false
    else
      let inj := c.injected 2 e.val
      let c := c.recordMismatch e a cycle false
      let c := if inj then c.disarm 2 else c
      (c.setAxis a { x with run := { x.run with mismatched := true, flagged := c.now } }).report (0xE6 + 3 * e.val) 1 0 (axisMask [a]) inj

/-- LOCKSTEP_MISMATCH. -/
def execLockstepMismatch (e : Region) (cycle : BitVec 10) (s : State) : Out := s.run fun c => c.mismatch e cycle

/-- REEXECUTION_START: 4 ticks after the flag the slice starts again from the committed checkpoint with the same snapshot
(R68). -/
def Chip.reexecute (c : Chip) (e : Region) : Chip :=
  match c.engine e with
  | none => c
  | some a =>
    let x := c.axis a
    if x.run.mismatched && decide (x.run.flagged + 4 ≤ c.now) then
      (c.setAxis a { x with run :=
        { x.run with mismatched := false, retrying := true, ran := 0, since := c.now } }).put (FE_STATUS_RETRY e.val)
        (c.get (FE_STATUS_RETRY e.val) ||| 2 ^ localOf a)
    else c

/-- REEXECUTION_START. -/
def execReexecutionStart (e : Region) (s : State) : Out := s.run fun c => c.reexecute e

end Sys2Proof.Machine
end

