-- ==== Sys2Proof/Machine/Current.lean ====
section
/-! DEFINITION. The current of an axis in a slice (R176 to R179, R185, R197, R198, R221, R363): its measured magnitude, the
limit, the reference, and the duties that the current loop gives.  The microcode's own rounding and the states of its
integrals are open: quotients are rounded freely where they meet a register or a leg, an integral is a free value, and
between them the arithmetic is in fixed point (log entry 8). -/
namespace Sys2Proof.Machine

/-! ### Sine and cosine -/

/-- π / 2 in units of 2^-60. -/
def halfPi : Nat := 1811004864519280711

/-- The sine of `r` / 2^30 of a quarter turn, in units of 2^-30, by its series. -/
def quarterSine (r : Nat) : Int :=
  let y : Int := (r * halfPi / 2 ^ 30 : Nat)
  let z := y ^ 2 / 2 ^ 60
  y * (([210, 156, 110, 72, 42, 20, 6] : List Int).foldl (fun s k => 2 ^ 60 - z * s / (2 ^ 60 * k)) (2 ^ 60)) / 2 ^ 90

/-- The sine of an angle in raw units, in units of 2^-30. -/
def sine (x : BitVec 32) : Int :=
  let r := x.toNat % 2 ^ 30
  match x.toNat / 2 ^ 30 with
  | 0 => quarterSine r
  | 1 => quarterSine (2 ^ 30 - r)
  | 2 => -quarterSine r
  | _ => -quarterSine (2 ^ 30 - r)

/-- The cosine. -/
def cosine (x : BitVec 32) : Int := sine (x + 0x40000000)

/-- The axis of a phase winding: U at 0, V at 120 °e, W at 240 °e (R158, Table 7-3). -/
def phaseAxisAngle (ph : Fin 3) : BitVec 32 := BitVec.ofNat 32 (ph.val * 2 ^ 32 / 3)

/-! ### Measured currents (R98, R176, R177) -/

/-- The result of a phase in the snapshot. -/
def Snapshot.phase (x : Snapshot) (i : Fin 3) : Result := match i with | 0 => x.u | 1 => x.v | 2 => x.w

/-- The mean current of an interval in 2^-20 of I_FS: full scale is one packet per clock (R98). -/
def Result.current (r : Result) : Int := truncDiv (r.count * 4096) (max r.clocks 1 : Nat)

/-- The part of the measured current vector along the angle `θ`, in 2^-20 of I_FS. -/
def Snapshot.along (x : Snapshot) (θ : BitVec 32) : Int :=
  truncDiv (2 * (([0, 1, 2] : List (Fin 3)).map fun ph => (x.phase ph).current * cosine (θ - phaseAxisAngle ph)).sum) (3 * 2 ^ 30)

/-- A square root in whole numbers, rounded freely. -/
def Chip.rootFree (c : Chip) (n : Nat) : Chip × Nat :=
  let r := settleRoot 2 n 40 0
  if r ^ 2 = n then (c, r) else (c.useFree, r + (if c.freeVal.getLsbD 0 then 1 else 0))

/-- Current magnitude in 1/4,096 of I_FS: in six-step the mean of the conducting pair (R176), in field-oriented mode that of
the vector (R177).  Where an axis in six-step drives no pair, the magnitude is open. -/
def Chip.magnitude (c : Chip) (a : Axis) (s : Snapshot) : Chip × Nat :=
  if !c.sixStep a then
    let (u, v, w) := (s.u.count, s.v.count, s.w.count)
    let (c, r) := c.rootFree (1024 * (u ^ 2 + v ^ 2 + w ^ 2 - u * v - v * w - w * u).toNat / (9 * max s.u.clocks 1 ^ 2))
    (c, min r 4095)
  else if (c.axis a).driven then
    let (p, l, _) := sectorLegs (c.get (AX_SRCSTAT_SECTOR a.val))
    let (c, v) := c.divFree (8 * ((s.phase p).count.natAbs + (s.phase l).count.natAbs : Nat)) (max s.u.clocks 1 : Nat)
    (c, min v.toNat 4095)
  else (c.useFree, c.freeVal.toNat % 4096)

/-! ### The limit and the reference (R197, R198, R218, R221) -/

/-- The speed of the axis in 1/16 rpm. -/
def Chip.speed (c : Chip) (a : Axis) : Int := c.gets (AX_SPEED_SPEED a.val)

/-- The limit of R197 for a demand, derated: the braking limit while torque and motion have opposite signs, or the axis
brakes.  A demand of 0, and a speed of 0, have no sign (DEDUCED, log entry 8). -/
def Chip.limitFor (c : Chip) (a : Axis) (df : Nat) (dem : Int) : Nat :=
  let opposed := c.startOf a == 5 || (dem != 0 && c.speed a != 0 && decide (dem < 0) != c.movesBack a)
  (if opposed then min (c.get (AX_ILIM_ILIM_REG a.val)) (c.get (BUS_REGENS_RLIM_LIVE (regionOf a).val))
    else c.get (AX_ILIM_ILIM a.val)) * df / 4096

/-- A demand toward a limit input that has tripped is 0 (R221). -/
def Snapshot.allowed (s : Snapshot) (dem : Int) : Int :=
  if (s.limF && decide (0 < dem)) || (s.limB && decide (dem < 0)) then 0 else dem

/-- The reference that a demand in 1/4,096 of I_FS gives, and what AX_CUR shows of it: LIMIT is R197's, and ATLIM tells
that this limit, or in HOME the homing current, clamped (R198, R218); the clamp of R221 sets no ATLIM (DEDUCED, log entry
8).  The sign of the torque is the demand's. -/
def Chip.takeRef (c : Chip) (a : Axis) (s : Snapshot) (dem : Int) : Chip × Int :=
  let dem := s.allowed dem
  let limit := c.limitFor a s.df dem
  let top : Int := if s.mode = 5 then min limit (c.get (AX_HOME_IHOME a.val)) else limit
  let ref := clampTo (-top) top dem
  let c := (c.put (AX_CUR_LIMIT a.val) limit).putF (AX_CUR_ATLIM a.val) (ref != dem)
  (c.setAxis a { c.axis a with negTorque := decide (dem < 0) }, ref)

/-- A slice without a demand: AX_CUR shows the limit, and nothing is clamped. -/
def Chip.noRef (c : Chip) (a : Axis) (s : Snapshot) : Chip := (c.takeRef a s 0).1

/-! ### The current loop (R177 to R179) -/

/-- The integral part of a loop with integral gain `ki`, in the loop's own unit, which is free (log entry 8). -/
def Chip.integral (c : Chip) (ki : Nat) : Chip × Int := if ki = 0 then (c, 0) else (c.useFree, (c.freeVal.truncate 32 : BitVec 32).toInt)

/-- The output of the current loop for an error in 2^-20 of I_FS, in 2^-20 of the bus voltage. -/
def Chip.currentLoop (c : Chip) (a : Axis) (err : Int) : Chip × Int :=
  let (c, i) := c.integral (c.get (AX_CURPI_KI a.val))
  (c, truncDiv (c.get (AX_CURPI_KP a.val) * err) 256 + i)

/-- The voltage vector limited to the circle of amplitude 1 / √3, its angle kept, and whether it was (R179). -/
def toCircle (d q : Int) : Int × Int × Bool :=
  let m := (3 * (d ^ 2 + q ^ 2)).toNat
  if m ≤ 2 ^ 40 then (d, q, false)
  else
    let r : Int := (settleRoot 2 m 40 0 : Nat)
    (truncDiv (d * 2 ^ 20) r, truncDiv (q * 2 ^ 20) r, true)

/-- The rotor angles of a field-oriented slice: at the middle of its windows (R177), and as it predicts it for the tick at
which its duty takes effect, up to 33 ticks after the commit (R59, R178).  With a Hall set below REST both are the middle
of the count's span (R363). -/
def Chip.rotorAngles (c : Chip) (a : Axis) (p : Pend) (s : Snapshot) : Chip × BitVec 32 × BitVec 32 :=
  let eref := c.reg (AX_EREF a.val)
  let mid := p.v0 + BitVec.ofInt 32 ((p.v1 - p.v0).toInt / 2) - eref
  let ticks : Int := (c.now + c.freeVal.toNat % 34 : Nat) - (s.tick : Int)
  let soon := s.tbe + BitVec.ofInt 32 (s.speed * ticks) - eref
  match s.hallMid with
  | some h => if (c.speed a).natAbs < 16 * c.get (AX_CATCH_REST a.val) then (c, h, h) else (c.useFree, mid, soon)
  | none => (c.useFree, mid, soon)

/-- The duties of a voltage vector at the rotor angle `θ`, the least and the greatest centred in the period (R178), and
VSAT (R179). -/
def Chip.modulate (c : Chip) (a : Axis) (θ : BitVec 32) (d q : Int) : Chip :=
  let (d, q, sat) := toCircle d q
  let volt (ph : Fin 3) : Int :=
    truncDiv (d * cosine (θ - phaseAxisAngle ph) + q * cosine (θ - phaseAxisAngle ph + 0x40000000)) (2 ^ 30)
  let top := max (volt 0) (max (volt 1) (volt 2))
  let low := min (volt 0) (min (volt 1) (volt 2))
  let whole : Int := 4 * c.period a
  let c := c.putF (AX_CUR_VSAT a.val) sat
  c.each ([0, 1, 2] : List (Fin 3)) fun c ph =>
    let (c, on) := c.divFree (whole * (2 ^ 20 + 2 * volt ph - top - low)) (2 ^ 21)
    c.want (legOf a ph) .pwm (BitVec.ofInt 17 (clampTo 0 whole on)) none

/-- The magnitude of a field-oriented reference: at the change from six-step it departs from the measured one by no more than
the quantization (R191). -/
def Chip.focMagnitude (c : Chip) (a : Axis) (ref : Int) (imag : Nat) : Int :=
  if (c.axis a).focNew then clampTo (imag - 1) (imag + 1) ref.natAbs else ref.natAbs

/-- Field-oriented control of the reference `ref` (R177): i_d = -|i| sin A, i_q = |i| cos A in the sense of the torque. -/
def Chip.driveFoc (c : Chip) (a : Axis) (p : Pend) (s : Snapshot) (ref : Int) (imag : Nat) : Chip :=
  let (c, mid, soon) := c.rotorAngles a p s
  let i := 256 * c.focMagnitude a ref imag
  let adv := BitVec.ofInt 32 (c.axis a).adv
  let q := truncDiv (i * cosine adv) (2 ^ 30)
  let c := c.setAxis a { c.axis a with focNew := false }
  let (c, vd) := c.currentLoop a (-(truncDiv (i * sine adv) (2 ^ 30)) - s.along mid)
  let (c, vq) := c.currentLoop a ((if (c.axis a).negTorque then -q else q) - s.along (mid + 0x40000000))
  c.modulate a soon vd vq

/-- A six-step axis takes the duty `on`: a transition goes on with it (R174), and the sector is R170's for the present
angle (R172), in open loop the generator's (R190). -/
def Chip.driveSix (c : Chip) (a : Axis) (on : BitVec 17) : Chip :=
  let c : Chip := { c with duty := c.duty.set a on }
  let now := c.get (AX_SRCSTAT_SECTOR a.val)
  let s := c.sectorOf a (c.theta a)
  if c.startOf a = 2 then c.toSector a now
  else match (c.axis a).trans with
    | some x => if s = now || s = x.sector then c.softStep a x.sector (x.step - 1) else c.toSector a s
    | none => c.toSector a s

/-- A duty as a share of the period, from a voltage in 2^-20 of the bus (R176). -/
def Chip.dutyOf (c : Chip) (a : Axis) (v : Int) : Chip × BitVec 17 :=
  let whole : Int := 4 * c.period a
  let (c, on) := c.divFree (whole * v) (2 ^ 20)
  (c, BitVec.ofInt 17 (clampTo 0 whole on))

/-- The legs are driven toward the reference `ref`, with the measured magnitude `imag`. -/
def Chip.driveRef (c : Chip) (a : Axis) (p : Pend) (s : Snapshot) (ref : Int) (imag : Nat) : Chip :=
  let c := c.setAxis a { c.axis a with driven := true }
  if c.sixStep a then
    let (c, v) := c.currentLoop a (256 * ((ref.natAbs : Int) - imag))
    let (c, on) := c.dutyOf a v
    c.driveSix a on
  else c.driveFoc a p s ref imag

/-- A demand drives the legs. -/
def Chip.driveDemand (c : Chip) (a : Axis) (p : Pend) (s : Snapshot) (dem : Int) (imag : Nat) : Chip :=
  let (c, ref) := c.takeRef a s dem
  c.driveRef a p s ref imag

/-- The first slice of a catch sets the voltage to the estimated back-EMF, which is free, with no current demand (R185): a
vector along the q-axis, or a duty in the sector of the direction in which the axis moves. -/
def Chip.driveCatch (c : Chip) (a : Axis) (p : Pend) (s : Snapshot) : Chip :=
  let c := c.noRef a s
  let c := c.setAxis a { c.axis a with driven := true, negTorque := s.dir }
  let (c, emf) := c.freeWord
  if c.sixStep a then
    let (c, on) := c.dutyOf a emf.toInt
    c.driveSix a on
  else
    let (c, _, soon) := c.rotorAngles a p s
    c.modulate a soon 0 emf.toInt

end Sys2Proof.Machine
end

