-- ==== Sys2Proof/Machine/Commit.lean ====
section
/-! DEFINITION. SLICE_COMMIT (R67): what an axis's slice works out from its snapshot and releases at its commit.  What the
control microcode estimates (the speed, the observer's angle, the back-EMF) is open (log entry 2); every rule of chapters 07,
08 and 15 that reads or follows it is followed here. -/
namespace Sys2Proof.Machine

/-! ### Speed -/

/-- AX_SPEED and CMP_ACTUAL: 0 for a sensorless source that is not qualified (R184), else the estimate. -/
def Chip.takeSpeed (c : Chip) (a : Axis) : Chip :=
  let (c, w) := c.freeWord
  let v : Int := if c.usesSensorless a && !c.flag (AX_SRCSTAT_QUAL a.val) then 0 else w.toInt
  let (c, rpm) := c.divFree v 16
  (c.puts (AX_SPEED_SPEED a.val) v).puts (CMP_ACTUAL_ACTUAL a.val) (clampTo (-32767) 32767 rpm)

/-- The present speed as a reference, in rpm × 250,000,000; 0 when the axis moves against the direction `back` (R208). -/
def Chip.alongDir (c : Chip) (a : Axis) (back : Bool) : Int :=
  15625000 * (if back then min 0 (c.speed a) else max 0 (c.speed a))

/-! ### Phase advance and training (R192 to R195) -/

/-- Present electrical frequency in 1/960 Hz: |AX_SPEED| × pole pairs. -/
def Chip.elecFreq (c : Chip) (a : Axis) : Nat := (c.speed a).natAbs * c.poles a

/-- The two points of set `s` that bracket the frequency `n`; one point twice outside the table. -/
def Chip.advBracket (c : Chip) (a : Axis) (s n : Nat) : Nat × Nat :=
  let k := ((List.range 32).filter fun i => decide (60 * c.get (AX_ADV_FREQ a.val (s * 32 + i)) ≤ n)).length
  if k = 0 then (0, 0) else if 31 < k then (31, 31) else (k - 1, k)

/-- A set whose 32 points are all zero is unused (R192). -/
def Chip.advUnused (c : Chip) (a : Axis) (s : Nat) : Bool :=
  (List.range 32).all fun i => c.get (AX_ADV_FREQ a.val (s * 32 + i)) == 0 && c.get (AX_ADV_ADV a.val (s * 32 + i)) == 0

/-- What a point contributes: ADV, with TRIM when the trim of the band is VALID (R195). -/
def Chip.advPoint (c : Chip) (a : Axis) (s b i : Nat) : Int :=
  let k := s * 128 + b * 32 + i
  c.gets (AX_ADV_ADV a.val (s * 32 + i)) + (if c.flag (AX_TRIM_VALID a.val k) then c.gets (AX_TRIM_TRIM a.val k) else 0)

/-- The advance A in raw electrical units (R192). -/
def Chip.advance (c : Chip) (a : Axis) (s b : Nat) : Chip × Int :=
  let n := c.elecFreq a
  let (i, j) := c.advBracket a s n
  if c.advUnused a s then (c, 0)
  else if i = j then (c, 65536 * c.advPoint a s b i)
  else
    let x0 : Int := 60 * c.get (AX_ADV_FREQ a.val (s * 32 + i))
    let x1 : Int := 60 * c.get (AX_ADV_FREQ a.val (s * 32 + j))
    let y0 := c.advPoint a s b i
    c.divFree (65536 * (y0 * (x1 - x0) + (c.advPoint a s b j - y0) * (n - x0))) (x1 - x0)

/-- How many slices have trained trim `k`. -/
def trained (l : List (Nat × Nat)) (k : Nat) : Nat := match l.find? (·.1 == k) with | some x => x.2 | none => 0

/-- One trained slice of trim `k`: it moves by at most 1 within ±TRIM_MAX, which way is the microcode's, and becomes VALID
after TRAIN_N slices (R194). -/
def Chip.trainTrim (c : Chip) (a : Axis) (k : Nat) : Chip :=
  let step : Int := (c.freeVal.toNat % 3 : Nat) - 1
  let c := c.useFree
  let top : Int := c.get (AX_ADVCFG_TRIM_MAX a.val)
  let c := c.puts (AX_TRIM_TRIM a.val k) (clampTo (-top) top (c.gets (AX_TRIM_TRIM a.val k) + step))
  let x := c.axis a
  let n := trained x.trimSlices k + 1
  let c := c.setAxis a { x with trimSlices := (k, n) :: x.trimSlices.filter (·.1 != k) }
  if c.get (AX_ADVCFG_TRAIN_N a.val) ≤ n then c.put (AX_TRIM_VALID a.val k) 1 else c

/-- Training of a slice (R194): closed loop only, outside transitions and starts. -/
def Chip.train (c : Chip) (a : Axis) (s b : Nat) : Chip :=
  if c.flag (AX_ADVCFG_TRAIN a.val) && c.startOf a == 3 && (c.axis a).driven && (c.axis a).trans.isNone &&
      !c.advUnused a s then
    let (i, j) := c.advBracket a s (c.elecFreq a)
    c.each (if i = j then [i] else [i, j]) fun c i => c.trainTrim a (s * 128 + b * 32 + i)
  else c

/-- The advance in force and the commutation bank (R171, R192, R193). -/
def Chip.takeAdvance (c : Chip) (a : Axis) (s : Snapshot) (imag : Nat) : Chip :=
  let set := s.advSel.toNat
  let b := bandOf imag 4096
  let c := c.putF (AX_ADVCFG_LIVE a.val) s.advSel
  let (c, v) := c.advance a set b
  let c := c.setAxis a { c.axis a with adv := v, banked := true }
  let c := c.train a set b
  c.each ([0, 1, 2, 3, 4, 5] : List Nat) fun c k => c.setReg (AX_CUEPOS a.val k) (c.bankPoint a k)

/-! ### The observer (R181, R182, R191) -/

/-- A slice of an axis with a sensorless source: the observer's angle, its agreement with the latest crossing, the speed
rule, and the run of disagreement. -/
def Chip.observe (c : Chip) (a : Axis) : Chip :=
  if !c.hasSensorless a then c
  else
    let (c, e) := c.freeWord
    let ok := c.observerClose a e
    let x := c.axis a
    let c := (c.setAxis a { x with
      obsGood := if ok then min (x.obsGood + 1) 255 else 0
      obsBad := if ok then 0 else min (x.obsBad + 1) 255 }).followObserver a e
    let slow := decide (8 * (c.speed a).natAbs < 7 * c.get (AX_BEMF_QUAL_SPEED a.val))
    let apart := c.onObserver a && decide (c.get (AX_PLAUS_PLAUS_N a.val) ≤ (c.axis a).obsBad)
    if c.flag (AX_SRCSTAT_QUAL a.val) && (slow || apart) then c.estimateEnds a else c

/-! ### Starting and driving (R184 to R190, R365, R369) -/

/-- Current in the sense of the direction `back`. -/
def toward (back : Bool) (n : Nat) : Int := if back then -(n : Int) else n

/-- Open loop sets OL_I / 256 of the limit (R190). -/
def Chip.openDrive (c : Chip) (a : Axis) (p : Pend) (s : Snapshot) (imag : Nat) : Chip :=
  let (c, n) := c.divFree (c.get (AX_OLS_OL_I a.val) * c.limitFor a s.df 0 : Nat) 256
  c.driveDemand a p s (toward s.dir n.toNat) imag

/-- The legs stay as they are: a detection pulse, or the axis's own short. -/
def Chip.standBy (c : Chip) (a : Axis) (s : Snapshot) : Chip := c.noRef a s

/-- The legs float, and no current is demanded. -/
def Chip.floatSlice (c : Chip) (a : Axis) (s : Snapshot) : Chip := (c.floatAxis a).noRef a s

/-- A start from rest, driven at once when it closes. -/
def Chip.restDrive (c : Chip) (a : Axis) (p : Pend) (s : Snapshot) (dem : Int) (imag : Nat) : Chip :=
  let c := c.startRest a (c.limitFor a s.df 0)
  if c.startOf a = 3 then c.driveDemand a p s dem imag else c.noRef a s

/-- Braking (R186): a torque against the motion, whose magnitude within the limit is free, or the axis's own short while the
regenerative limit is zero. -/
def Chip.brakeDrive (c : Chip) (a : Axis) (p : Pend) (s : Snapshot) (imag : Nat) : Chip :=
  if c.get (BUS_REGENS_RLIM_LIVE (regionOf a).val) = 0 then (c.lowAxis a).noRef a s
  else
    let n := c.freeVal.toNat % 4096
    c.useFree.driveDemand a p s (toward (!c.movesBack a) n) imag

/-- A slice of an axis that brakes (R186). -/
def Chip.brakeSlice (c : Chip) (a : Axis) (p : Pend) (s : Snapshot) (dem : Int) (imag : Nat) : Chip :=
  if c.usesSensorless a then
    if (c.axis a).brakeHold.isSome then c.standBy a s
    else if c.flag (AX_SRCSTAT_QUAL a.val) then c.brakeDrive a p s imag
    else
      let c := (c.lowAxis a).noRef a s
      c.setAxis a { c.axis a with brakeHold := some c.now }
  else if (c.speed a).natAbs < 16 * c.get (AX_CATCH_REST a.val) then c.restDrive a p s dem imag
  else c.brakeDrive a p s imag

/-- The catch is at its end (R185): when the microcode has synchronized, at the latest 2 electrical periods after the
acceptance. -/
def Chip.catchEnds (c : Chip) (a : Axis) : Chip :=
  let late := decide (480000000000 ≤ (c.now - (c.axis a).planTick) * (c.speed a).natAbs * c.poles a)
  let (c, closed) := c.pick
  if closed || late then c.setStart a 3 none else c

/-- A slice with the demand `dem`: the start that is due goes on, a closed loop drives, and an axis without a start is
judged as at a turn-on, by the speed `old` of the slice committed before. -/
def Chip.drive (c : Chip) (a : Axis) (p : Pend) (s : Snapshot) (old dem : Int) (imag : Nat) : Chip :=
  let x := c.axis a
  if s.stale && !s.sensorless then c.floatSlice a s
  else match x.plan, c.startOf a with
    | some .rest, _ => c.restDrive a p s dem imag
    | some .catch, _ =>
      let c := c.setStart a 4 none
      (c.setAxis a { c.axis a with focOn := true }).driveCatch a p s
    | some .brake, _ => c.brakeSlice a p s dem imag
    | none, 1 => c.standBy a s
    | none, 2 => c.openDrive a p s imag
    | none, 3 => c.driveDemand a p s dem imag
    | none, 4 => (c.catchEnds a).driveDemand a p s dem imag
    | none, 0 =>
      let (r, q) := c.planAt a s.dir old
      let c := c.floatSlice a s
      if r = .ok then (c.planStart a q).setAxis a { (c.planStart a q).axis a with orderly := false } else c
    | none, _ => c.floatSlice a s

/-- A slice without a demand: the legs float, and a start in progress is at its end. -/
def Chip.coast (c : Chip) (a : Axis) (s : Snapshot) : Chip := (c.floatSlice a s).endStart a

/-! ### Demands (R208, R210, R216, R218) -/

/-- The speed loop's demand for the reference `ref` in rpm × 250,000,000. -/
def Chip.speedDemand (c : Chip) (a : Axis) (ref : Int) : Chip × Int :=
  let (c, i) := c.integral (c.get (AX_SPDPI_KI a.val))
  let (c, d) := c.divFree (c.get (AX_SPDPI_KP a.val) * (ref - 15625000 * c.speed a)) (256 * 250000000)
  (c, d + i)

/-- The position loop's demand for the error `e`, with the target's speed fed forward in counts per tick (R213, R216, R224):
KP on the error, KD on the difference of the two speeds (DEDUCED, log entry 8). -/
def Chip.posDemand (c : Chip) (a : Axis) (e : Int) (ff : Int × Nat) : Chip × Int :=
  let kp : Int := c.get (AX_POSPI_KP a.val)
  let kd : Int := c.get (AX_POSPI_KD a.val)
  let d : Int := max ff.2 1
  c.divFree (kp * e * 2 ^ 16 * d + kd * (15000000000 * ff.1 - 2 ^ 28 * c.speed a * d)) (2 ^ 40 * d)

/-! ### CURVE and COMPAT (R207, R208, R210, R365) -/

/-- The drive of a speed mode waits: its sensed timebases are STALE, or it has yet to resume (R365). -/
def Chip.waits (c : Chip) (a : Axis) (s : Snapshot) : Bool := s.stale && (!c.usesSensorless a || (c.axis a).wasStale)

/-- A turn-on or a resumption: the plan of Table 7-6 and the reference at the present speed along DIR (R208, R365). -/
def Chip.turnOnDrive (c : Chip) (a : Axis) (q : StartPlan) (back : Bool) : Chip :=
  let c := c.planStart a q
  c.setAxis a { c.axis a with ref := c.alongDir a back, wasStale := false, orderly := false }

/-- The reference `x` moves toward `goal`: its magnitude by at most `up` when it rises and `down` when it falls, and through 0
when they have opposite signs (R210). -/
def moveRef (x goal up down : Int) : Int :=
  if x < 0 ∨ (x = 0 ∧ goal < 0) then
    if goal < x then max goal (x - up) else min (min goal 0) (x + down)
  else if x < goal then min goal (x + up) else max (max goal 0) (x - down)

/-- The reference of CURVE moves toward Y(x) by the slope of the segment (R208). -/
def Chip.curveRef (c : Chip) (a : Axis) (s : Snapshot) : Chip :=
  let (n, d) := c.curveY a s.x
  let (c, goal) := c.divFree (n * 250000000) d
  let step : Int := c.get (AX_CRVS_SLOPE a.val (c.segment a s.x)) * c.period a
  c.setAxis a { c.axis a with ref := moveRef (c.axis a).ref (if s.dir then -goal else goal) step step }

/-- The curve of a slice (R207), judged by the speed `old` of the slice committed before (R208); the result is its demand. -/
def Chip.curveSlice (c : Chip) (a : Axis) (s : Snapshot) (old : Int) : Chip × Option Int :=
  let n := a.val
  let c := if s.entered then (c.put (AX_MSTAT_ARMED n) 0).put (AX_MSTAT_CRV_ON n) 0 else c
  if c.waits a s then (c, none)
  else
    let on := c.flag (AX_MSTAT_CRV_ON n)
    let xoff := c.get (AX_CRVTH_XOFF n)
    let armed := c.flag (AX_MSTAT_ARMED n) || decide (s.x < xoff)
    let (r, q) := c.planAt a s.dir old
    let turns := armed && !on && decide (c.get (AX_CRVTH_XON n) < s.x)
    let on' := (on || (turns && r == .ok)) && !decide (s.x < xoff)
    let c := (c.putF (AX_MSTAT_ARMED n) armed).putF (AX_MSTAT_CRV_ON n) on'
    if !on' then (c, none)
    else
      let c := if !on || ((c.axis a).wasStale && r == .ok) then c.turnOnDrive a q s.dir else c
      let c := c.curveRef a s
      if (c.axis a).wasStale then (c, none)
      else
        let (c, dem) := c.speedDemand a (c.axis a).ref
        (c, some dem)

/-- COMPAT in a slice (R210): the reference ramps, 0 while the axis brakes and from the present speed at a catch. -/
def Chip.compatSlice (c : Chip) (a : Axis) (s : Snapshot) (old : Int) : Chip × Option Int :=
  if c.waits a s then (c, none)
  else
    let (r, q) := c.planAt a s.dir old
    let c := if (c.axis a).wasStale && r == .ok then c.turnOnDrive a q s.dir else c
    let x := c.axis a
    let goal : Int := if s.run then 250000000 * s.cmpTarget else 0
    let ref := if c.startOf a = 5 then 0 else if x.plan = some .catch then c.alongDir a s.dir
      else moveRef x.ref goal (s.accel * c.period a : Nat) (s.decel * c.period a : Nat)
    let c := c.setAxis a { x with ref := ref }
    if x.wasStale || (!s.run && ref == 0) then (c, none)
    else
      let (c, dem) := c.speedDemand a ref
      (c, some dem)

/-- CMP_STATUS after the slice (R210). -/
def Chip.compatStatus (c : Chip) (a : Axis) : Chip :=
  let n := a.val
  let live := c.modeOf a == 2
  let v := c.gets (CMP_TARGET_TARGET n)
  (c.putF (CMP_STATUS_AT_SPEED n)
    (live && (c.axis a).ref == 250000000 * v && decide ((c.speed a - 16 * v).natAbs ≤ 160))).putF (CMP_STATUS_RUNNING n)
      (live && (c.axis a).driven)

/-! ### Position modes (R213, R216, R217) -/

/-- The credit of popped entries returns (R213). -/
def Chip.popStream (c : Chip) (a : Axis) (n : Nat) : Chip :=
  (c.put (AX_STRSTAT_CREDITS a.val) (min 64 (c.get (AX_STRSTAT_CREDITS a.val) + n))).setAxis a
    { c.axis a with fifo := (c.axis a).fifo.drop n }

/-- The entries that an abandoned slice has left to pop: those tagged at or before P (R213). -/
def Chip.slipped (c : Chip) (a : Axis) : List Setpoint :=
  (c.axis a).fifo.takeWhile fun x => notAhead x.tag (c.get (AX_SPC_P a.val))

/-- After an abandoned pop: the entries left are popped, the last one sets the target, and each counts in SLIPS (R213). -/
def Chip.slip (c : Chip) (a : Axis) (e : Setpoint) : Chip :=
  let n := (c.slipped a).length
  let c := (c.popStream a n).bump (AX_STRCNT_SLIPS a.val) n
  let x := c.axis a
  c.setAxis a { x with fromPos := e.pos, toPos := e.pos, segPeriod := x.period, applied := some e }

/-- The segment of the slice's period: its first slice pops the head it applies (R213). -/
def Chip.segmentOf (c : Chip) (a : Axis) (p : Pend) (s : Snapshot) : Chip :=
  let x := c.axis a
  let late := if x.missedPop then (c.slipped a).getLast? else none
  let c := c.setAxis a { x with missedPop := false }
  match late, p.j, s.head with
  | some e, _, _ => c.slip a e
  | none, 0, some e =>
    let c := c.popStream a 1
    c.setAxis a { c.axis a with fromPos := x.toPos, toPos := e.pos, segPeriod := p.period }
  | _, _, _ =>
    if p.j != 0 && x.segPeriod == p.period then c
    else c.setAxis a { c.axis a with fromPos := x.toPos, segPeriod := p.period }

/-- The interpolated target of a STREAM slice (R213), its rounding open; and its slope, in counts per tick. -/
def Chip.streamTarget (c : Chip) (a : Axis) (p : Pend) (s : Snapshot) : Chip × BitVec 32 × Int × Nat :=
  let c := c.segmentOf a p s
  let x := c.axis a
  let n := c.get (AX_STRCFG_SPD a.val) + 1
  let way := (x.toPos - x.fromPos).toInt
  let (c, v) := c.divFree (way * (min (p.j + 1) n : Nat)) n
  (c, x.fromPos + BitVec.ofInt 32 v, if p.j < n then way else 0, n * c.period a)

/-- The target of a position slice and its speed (R213, R216, R224). -/
def Chip.posTarget (c : Chip) (a : Axis) (p : Pend) (s : Snapshot) : Chip × BitVec 32 × Int × Nat :=
  if s.mode = 3 then
    let (c, t) := c.streamTarget a p s
    (c.setAxis a { c.axis a with target := t.1 }, t)
  else if s.mode = 4 then (c, s.gearTarget, s.gearSpeed)
  else (c, (c.axis a).target, 0, 1)

/-- The following-error run of a slice with the error `e` (R217). -/
def Chip.followSlice (c : Chip) (a : Axis) (s : Snapshot) (e : Int) : Chip :=
  let x := c.axis a
  if s.stale || !decide (65536 * c.get (AX_FOLLOW_LIMIT a.val) < e.natAbs) then c.setAxis a { x with followRun := 0 }
  else if c.get (AX_FOLLOW_FOLLOW_N a.val) ≤ x.followRun + 1 then
    (c.setAxis a { x with followRun := 0 }).raise (srcAxis a 3)
  else c.setAxis a { x with followRun := x.followRun + 1 }

/-- The position loop of a slice: target, error, demand, and the following-error run (R216, R217). -/
def Chip.posSlice (c : Chip) (a : Axis) (p : Pend) (s : Snapshot) : Chip × Option Int :=
  let (c, t, ff) := c.posTarget a p s
  let e := (t - s.tbm).toInt
  let c := ((c.setReg (AX_PTGT a.val) t).puts (AX_FERR_ERR a.val) e).followSlice a s e
  if s.stale then (c, none)
  else
    let (c, dem) := c.posDemand a e ff
    (c, some dem)

/-! ### Stall and homing (R218 to R222, R367) -/

/-- The stall run of a slice, and whether it qualifies (R219); a switch in the snapshot starts it anew (R367). -/
def Chip.stallSlice (c : Chip) (a : Axis) (s : Snapshot) : Chip × Bool :=
  let x := c.axis a
  let slow := decide ((c.speed a).natAbs < c.get (AX_STALL_STALL_SPEED a.val)) && c.flag (AX_CUR_ATLIM a.val)
  if s.switched || !slow then (c.setAxis a { x with stallFrom := none }, false)
  else
    let t := match x.stallFrom with | some t => t | none => s.tick
    if t + 250000 * c.get (AX_STALL_STALL_T a.val) ≤ s.tick then (c.setAxis a { x with stallFrom := none }, true)
    else (c.setAxis a { x with stallFrom := some t }, false)

/-- Homing sets its reference: TBa in the snapshot reads REFPOS, EREF follows, and the axis enters OFF or HOLD (R219). -/
def Chip.homeRef (c : Chip) (a : Axis) (s : Snapshot) : Chip :=
  let x := c.axis a
  let h := x.homeShift + (c.reg (AX_HREF a.val) - s.tbm)
  let c := (c.setAxis a { x with homeShift := h }).setReg (AX_EREF a.val) (h * BitVec.ofNat 32 (c.poles a))
  let c := (c.rebase a).put (AX_MSTAT_HOME a.val) 2
  if c.flag (AX_HOME2_AFTER a.val) then
    let c := c.enterMode a 6 false 0
    c.setAxis a { c.axis a with takeTarget := false, target := c.reg (AX_HREF a.val) }
  else c.enterOff a 2

/-- The outcome of a homing slice: a limit, then a stall, then the timeout (R220). -/
def Chip.homeSlice (c : Chip) (a : Axis) (s : Snapshot) : Chip :=
  let (c, stall) := c.stallSlice a s
  if if s.dir then s.limB else s.limF then c.enterOff a 3
  else if stall then c.homeRef a s
  else if s.homeLate then c.enterOff a 4
  else c

/-! ### The slice -/

/-- What the mode of the snapshot works out, and the current it demands (Table 8-1). -/
def Chip.modeSlice (c : Chip) (a : Axis) (p : Pend) (s : Snapshot) (old : Int) : Chip × Option Int :=
  let wait (x : Chip × Option Int) : Chip × Option Int := if (x.1.axis a).orderly && x.1.commandsLow a then (x.1, none) else x
  match s.mode with
  | 0 => (c, none)
  | 1 => wait (c.curveSlice a s old)
  | 2 => wait (c.compatSlice a s old)
  | 5 =>
    if s.stale then (c, none)
    else
      let (c, dem) := c.speedDemand a (15625000 * toward s.dir (c.get (AX_HOME_SPEED a.val)))
      (c, some dem)
  | _ => c.posSlice a p s

/-- The slice's mode part: the drive, then stalls and homing, which read the clamp of this slice. -/
def Chip.modeCommit (c : Chip) (a : Axis) (p : Pend) (s : Snapshot) (old : Int) (imag : Nat) : Chip :=
  let c := if s.mode = 1 then c else (c.put (AX_MSTAT_ARMED a.val) 0).put (AX_MSTAT_CRV_ON a.val) 0
  let (c, dem) := c.modeSlice a p s old
  let c := match dem with
    | some d => c.drive a p s old d imag
    | none => if c.waits a s && s.mode != 0 then c.floatSlice a s else c.coast a s
  if s.mode = 5 then c.homeSlice a s
  else if s.mode = 0 then c
  else
    let (c, stall) := c.stallSlice a s
    c.raiseIf stall (srcAxis a 2)

/-- A slice whose mode has been left, or whose command has changed, since its snapshot still drives (R58, R204); its demand,
from a state that the new command has begun anew, is free (log entry 8). -/
def Chip.oldCommit (c : Chip) (a : Axis) (p : Pend) (s : Snapshot) (imag : Nat) : Chip :=
  if c.pulsed a && (c.startOf a == 2 || c.startOf a == 3 || c.startOf a == 4) then
    let dem := (c.freeVal.truncate 13 : BitVec 13).toInt
    c.useFree.driveDemand a p s dem imag
  else c.noRef a s

/-- The sector of a six-step axis follows R170 at every commit, also where the slice drives nothing (R172). -/
def Chip.keepSector (c : Chip) (a : Axis) : Chip :=
  if c.sixStep a && c.startOf a != 1 && c.startOf a != 2 && (c.axis a).trans.isNone then
    c.put (AX_SRCSTAT_SECTOR a.val) (c.sectorOf a (c.theta a))
  else c

/-- The bridge holds its duty at this commit (R167): a switch-over is prepared, or has come since the slice's release. -/
def Chip.holdsDuty (c : Chip) (a : Axis) (p : Pend) : Bool :=
  (c.axis a).switchDue.isSome || (match (c.axis a).switchTick with | some t => decide (p.release ≤ t) | none => false)

/-- The legs of an axis, and what drives them, stay as they were in `b` (R167). -/
def Chip.keepBridge (c b : Chip) (a : Axis) : Chip :=
  let c : Chip := { c with duty := c.duty.set a b.duty[a] }
  let c := c.each (legsOf a) fun c l =>
    let x := b.leg l
    c.setLeg l { c.leg l with
      wantMode := x.wantMode, wantOn := x.wantOn, wantSlew := x.wantSlew, duties := x.duties, settings := x.settings }
  (c.put (AX_SRCSTAT_SECTOR a.val) (b.get (AX_SRCSTAT_SECTOR a.val))).setAxis a
    { c.axis a with driven := (b.axis a).driven, trans := (b.axis a).trans }

/-- The curve input of the snapshot (R205). -/
def Chip.showInput (c : Chip) (a : Axis) (s : Snapshot) : Chip :=
  if c.flag (AX_CRVCFG_EN a.val) then
    (c.put (AX_CINU_X a.val) s.x).putF (AX_MSTAT_INFAIL a.val) s.inFail
  else c

/-- The release-to-commit time (Table 3-14). -/
def Chip.showLatency (c : Chip) (a : Axis) (p : Pend) : Chip :=
  let e := (regionOf a).val
  let t := min (c.now - p.release) 65535
  (c.put (FE_AX_LAT_LAT_LAST e (localOf a)) t).putMax (FE_AX_LAT_LAT_MAX e (localOf a)) t

/-- The slice's comparison of its two sources, unless one has become invalid since (R164). -/
def Chip.compareSlice (c : Chip) (a : Axis) (s : Snapshot) : Chip :=
  match s.cmp with
  | some d => if c.flag (AX_SRCSTAT_PRI_OK a.val) && c.flag (AX_SRCSTAT_SEC_OK a.val) then c.compare a (BitVec.ofInt 32 d) else c
  | none => c

/-- What a slice measures and shows: its sources, its speed and observer, its input, the limit inputs and the current. -/
def Chip.measure (c : Chip) (a : Axis) (s : Snapshot) : Chip × Nat :=
  let c := (((c.compareSlice a s).takeSpeed a).observe a).showInput a s
  let (c, imag) := c.magnitude a s
  let c := (c.takeAdvance a s imag).put (AX_CUR_IMAG a.val) imag
  let on := s.mode != 0
  (((c.putF (AX_CUR_VSAT a.val) false).putF (AX_MSTAT_LIM_F a.val) (s.limF && on)).putF (AX_MSTAT_LIM_B a.val) (s.limB && on), imag)

/-- The commit of slice `p` with snapshot `s`: everything it releases, in one tick (R67). -/
def Chip.commitSlice (c : Chip) (a : Axis) (p : Pend) (s : Snapshot) : Chip :=
  let old := c.speed a
  let (b, imag) := (c.showLatency a p).measure a s
  let c := if s.mode == b.modeOf a && s.entry == (b.axis a).entries then b.modeCommit a p s old imag
    else b.oldCommit a p s imag
  let c := if b.holdsDuty a p then c.keepBridge b a else c.keepSector a
  c.compatStatus a

/-- The slice that its engine runs has run its cycles (R62), and its deadline has not passed (R61). -/
def Chip.commitDue (c : Chip) (a : Axis) (s : Snapshot) : Bool :=
  decide (c.now ≤ c.deadline a) && decide (c.chargedCost a s.mode ≤ c.ranNow a)

/-- SLICE_COMMIT: the slice that its engine runs commits, unless its mismatch is flagged (R67, R68). -/
def Chip.commit (c : Chip) (a : Axis) : Chip :=
  let x := c.axis a
  if c.engine (regionOf a) != some a || x.run.mismatched then c
  else match x.run.queue with
    | p :: l =>
      match p.snap with
      | some s =>
        if !c.commitDue a s then c
        else
          let c := c.dropRun a
          (c.setAxis a { c.axis a with run := { queue := l } }).commitSlice a p s
      | none => c
    | [] => c

/-- SLICE_COMMIT. -/
def execSliceCommit (a : Axis) (s : State) : Out := s.run fun c => c.commit a

end Sys2Proof.Machine
end

