-- ==== Sys2Proof/Machine/Scan.lean ====
section
/-! DEFINITION. What one tick holds (R2, R29): the wall tick advances, the timebases move, and what follows them in
the same tick takes place: STALE reactions (R365), abandoned transitions (R175), gear steps (R224), the scan for
crossings (R46 to R50, R171), what a leg does of itself (R86, R88), the bus ramps (R231, R235).  What the ticks before have left
to an axis by now comes first: lane actions (R47), returns to a primary (R169).  The row stands in Tick.lean. -/
namespace Sys2Proof.Machine

/-- The system clock runs: nRESET is high and the part is outside DARK (R2, R313). -/
def Chip.clockRuns (c : Chip) : Bool := c.load.stage != .held && !c.inDark

/-- P takes the index of the servo period that began with the release before (R211). -/
def Chip.servoIndex (c : Chip) (a : Axis) : Chip :=
  let x := c.axis a
  if x.newPeriod then (c.put (AX_SPC_P a.val) x.period).setAxis a { x with newPeriod := false } else c

/-- The axis timebases have become STALE (R365, R220): a position mode or homing enters OFF; a speed mode floats and
waits, but for a sensorless estimate that ended in order or while it brakes (R182, R186). -/
def Chip.staleReaction (c : Chip) (a : Axis) : Chip :=
  match c.modeOf a with
  | 0 => c
  | 1 | 2 =>
    if (c.axis a).orderly || (c.usesSensorless a && c.startOf a == 5) then c
    else ((c.floatAxis a).endStart a).setAxis a { ((c.floatAxis a).endStart a).axis a with wasStale := true }
  | _ => c.enterOff a 5

/-- DIRN of the electrical timebase has changed during a transition (R175). -/
def Chip.revSoft (c : Chip) (a : Axis) : Chip :=
  if (c.axis a).trans.isSome then (c.takeSector a (c.sectorOf a (c.theta a))).mark (AX_SRCSTAT_REVSOFT a.val) else c

/-- The step of a timebase from `old` (R224). -/
def Chip.masterStep (c : Chip) (n : Tb) (old : BitVec 32) : Int := c.tbGap n old (c.tb n).val

/-- What an axis does after the timebases have moved from the state `b`. -/
def Chip.axisTick (b c : Chip) (a : Axis) : Chip :=
  let c := if c.axisStale a && !b.axisStale a then c.staleReaction a else c
  let c := if c.flag (CUE_TB_STAT_DIRN (tbeOf a).val) != b.flag (CUE_TB_STAT_DIRN (tbeOf a).val) then c.revSoft a else c
  let m : Tb := tbOf (16 + c.get (AX_GEARCFG_MASTER a.val))
  if c.modeOf a = 4 then c.gearStep a (c.masterStep m (b.tb m).val) (c.tb m).stepJump else c

/-- The timebases take their values of this tick. -/
def Chip.moveTbs (c : Chip) : Chip :=
  c.each allTbs fun c n => (c.setTb n { c.tb n with stepJump := false }).sampleTb n

/-- Entries whose ECC the scanner finds uncorrectable are lost (R50). -/
def Chip.loseEntries (c : Chip) (l : List EntryIx) : Chip :=
  if c.cfgOk then c.each l fun c k => c.cueEccLoss k.val else c

/-- A tick begins: the wall tick and the tick counter advance, and nothing has been set in it yet (R7). -/
def Chip.nextTick (c : Chip) : Chip := { c with wall := c.wall + 1, now := c.now + 1, tickRegs := c.regs, fresh := [] }

/-- What earlier ticks have left an axis to do by now. -/
def Chip.axisDue (c : Chip) (a : Axis) : Chip := ((c.servoIndex a).settleLane a).backNow a

/-- What takes place in a tick that has begun; `eccBad` are the entries that the scanner finds uncorrectable. -/
def Chip.tickRuns (c : Chip) (eccBad : List EntryIx) : Chip :=
  let b := c.each allAxes Chip.axisDue
  let c := b.moveTbs.each allAxes fun c a => (Chip.axisTick b c a).scanBank a
  let c := c.each allLegs Chip.legTick
  ((c.loseEntries eccBad).scanCues).each allRegions Chip.busTick

end Sys2Proof.Machine
end

