-- ==== Sys2Proof/Machine/Faults.lean ====
section
/-! DEFINITION. The fault collector (11_fault_collector.md): one tick of sampling, severity, reactions, first capture,
BEACON, injection, and clearing. -/
namespace Sys2Proof.Machine

/-! ### Causes (R274) -/

/-- SUPPLY channels of a die (Table 10-1); 4 is the C-die. -/
def supplyChannels (d : Nat) : List Nat := if d = 4 then [37, 38, 39] else [40 + d]

/-- A supply reading of the die lies outside its window (R262). -/
def Chip.supplyCause (c : Chip) (d : Nat) : Bool := (supplyChannels d).any c.faults.supplyOut.contains

/-- A sensor of the source is at or above its shutdown temperature, less the hysteresis (R265). -/
def Chip.thermalCause (c : Chip) (src : Nat) : Bool := allSensors.any fun s => sensorSrc s == src && c.flag (TMP_STAT_SD s.val)

/-- A port's persisting cause: its wire check fails, or its Hall group holds an invalid code. -/
def Chip.portCause (c : Chip) (p : Port) : Bool := c.inputLead p && (!c.wiresPass p || (c.port p).hallHeld)

/-- The fast voltage is at or above the V_REGEN_CUT in force (R238). -/
def Chip.overCause (c : Chip) (r : Region) : Bool :=
  c.busRuns r && decide (c.volts (BUS_STAT_VCUT_LIVE r.val) ≤ c.get (BUS_FAST_V r.val))

/-- A region source's persisting cause (R238, R239). -/
def Chip.regionCause (c : Chip) (r : Region) (k : Nat) : Bool :=
  match k with
  | 0 => c.overCause r
  | 2 => c.flag (BUS_STAT_UV r.val)
  | _ => false

/-- A die source's persisting cause (R262, R265). -/
def Chip.dieCause (c : Chip) (s : Nat) : Bool :=
  match (s - 0xD7) % 3 with
  | 0 => c.supplyCause ((s - 0xD7) / 3)
  | 1 => c.thermalCause s
  | _ => false

/-- The condition that a source's chapter names as persisting. -/
def Chip.ownCause (c : Chip) (s : Nat) : Bool :=
  if h : s < 0x60 then c.legCause ⟨s / 4, by omega⟩ (s % 4)
  else if s < 0x89 then false
  else if s < 0xA9 then c.portCause (portOf (s - 0x89))
  else if s < 0xC9 then false
  else if h : 0xC9 ≤ s ∧ s < 0xD7 then c.regionCause ⟨(s - 0xC9) / 7, by omega⟩ ((s - 0xC9) % 7)
  else if s < 0xE6 then c.dieCause s
  else match s with
    | 0xE7 => c.flag (FE_STATUS_HALT 0)
    | 0xEA => c.flag (FE_STATUS_HALT 1)
    | 0xED => c.thermalCause s
    | 0xF9 => c.rng.downLive
    | 0xFB => c.rng.sev.toList.any id
    | _ => false

/-- The fire latch is a cause of every source whose severe event had code 6 (R285). -/
def Chip.fireCause (c : Chip) (s : Nat) : Bool := c.faults.fire && c.faults.latched.any fun x => x.src == s && x.code == 6

/-- A source's cause is present for a clear (R294). -/
def Chip.cause (c : Chip) (s : Nat) : Bool := c.ownCause s || c.fireCause s

/-- A source's cause as FLT_LIVE shows it: an event's own lasts to the end of the tick that samples it (R274). -/
def Chip.live (c : Chip) (s : Nat) : Bool :=
  c.cause s || (c.faults.sampledTick == some c.now && c.faults.sampled.any (·.src == s))

/-- A source is latched severe (R280). -/
def Chip.severe (c : Chip) (s : Nat) : Bool := c.faults.latched.any (·.src == s)

/-! ### Targets (R282, Table 11-4) -/

/-- The axes of a slice source. -/
def Chip.sliceTargets (c : Chip) (k : Nat) : List Axis :=
  if k < 32 then
    match k % 8 with
    | 6 => allAxes.filter fun a => a.val / 4 == k / 16
    | 7 => allAxes.filter fun a => a.val / 2 == k / 8
    | j => allAxes.filter fun a => a.val == 2 * (k / 8) + j / 3
  else allAxes.filter fun a => [false, true].any fun sec =>
    c.srcType a sec == 4 && (k == 40 || c.srcIdx a sec == (k - 32) / 2)

/-- The axes of a port source. -/
def Chip.portTargets (c : Chip) (p : Port) : List Axis :=
  match c.destAxis p, c.masterOf p with
  | some a, _ => [a]
  | none, some n => allAxes.filter fun a => 16 + c.get (AX_GEARCFG_MASTER a.val) == n.val
  | none, none => []

/-- A(s); an engine source carries its axis. -/
def Chip.targets (c : Chip) (e : Event) : List Axis :=
  let s := e.src
  if s < 0x60 then allAxes.filter fun a => a.val == s / 12
  else if s < 0x89 then c.sliceTargets (s - 0x60)
  else if s < 0xA9 then c.portTargets (portOf (s - 0x89))
  else if s < 0xC9 then allAxes.filter fun a => a.val == (s - 0xA9) / 4
  else if s < 0xD7 then allAxes.filter fun a => a.val / 4 == (s - 0xC9) / 7
  else if s < 0xE3 then allAxes.filter fun a => a.val / 2 == (s - 0xD7) / 3
  else if 0xE6 ≤ s ∧ s < 0xEC then axesIn e.mask
  else allAxes

/-- OVERVOLT of a region (Table 9-3). -/
def isOvervolt (s : Nat) : Bool := s == 0xC9 || s == 0xD0
/-- CHOPPER of a region (Table 9-3). -/
def isChopper (s : Nat) : Bool := s == 0xCA || s == 0xD1

/-- The effective code of a severe event (R275, R281). -/
def Chip.effCode (c : Chip) (e : Event) : Nat :=
  if e.src = 0xFB then e.code
  else max e.code (if isOvervolt e.src then 3 else c.get (FLT_CFG_CODE e.src))

/-- The axes on which a reaction acts: the enabled ones of A(s), of its regions for code 5, of the package for code 6
(R282). -/
def Chip.reactionMask (c : Chip) (e : Event) : BitVec 8 :=
  let l := c.targets e
  let l := match c.effCode e with
    | 5 => allAxes.filter fun a => l.any fun b => regionOf b == regionOf a
    | 6 => allAxes
    | _ => l
  axisMask (l.filter c.axisOn)

/-! ### One tick of the collector (R273 to R289) -/

/-- Joins an event to the tick's list, one entry for each source, by rising ID. -/
def mergeEvent : List Event → Event → List Event
  | [], e => [e]
  | x :: l, e =>
    if e.src < x.src then e :: x :: l
    else if e.src = x.src then
      ⟨x.src, x.count + e.count, max x.code e.code, x.mask ||| e.mask, x.inj || e.inj⟩ :: l
    else x :: mergeEvent l e

/-- The events of the tick by source; IDs 0xFC to 0xFF never report. -/
def Chip.tickEvents (c : Chip) : List Event :=
  ((c.faults.events.filter fun e => decide (e.src < 0xFC)).foldl mergeEvent [])

/-- Counting (R280, R292): the counter holds at its limit and sets SAT; INJ marks an injected event. -/
def Chip.countEvent (c : Chip) (e : Event) : Chip :=
  let f := FLT_CNT_EVENTS e.src
  let c := c.bump f e.count
  (c.markIf (c.get f == f.top) (FLT_SRC_SAT e.src)).markIf e.inj (FLT_SRC_INJ e.src)

/-- The source's severity window is open in this tick: it lasts to the end of the tick T ms after it opened (R277). -/
def Chip.windowOpen (c : Chip) (s : Nat) : Bool :=
  c.faults.windows.any fun x => x.1 == s && decide (c.now ≤ x.2 + 250000 * c.get (FLT_CFG_T s))

/-- The events that the source has in its open window. -/
def Chip.windowCount (c : Chip) (s : Nat) : Nat := if c.windowOpen s then c.get (FLT_SRC_WCNT s) else 0

/-- The source's severity window closes. -/
def Chip.closeWindow (c : Chip) (s : Nat) : Chip :=
  { c.put (FLT_SRC_WCNT s) 0 with faults := { c.faults with windows := c.faults.windows.filter (·.1 != s) } }

/-- The source's events of this tick make `n` in its window, which opens where none is open. -/
def Chip.countWindow (c : Chip) (s n : Nat) : Chip :=
  let c := if c.windowOpen s then c
    else
      let c := c.closeWindow s
      { c with faults := { c.faults with windows := c.faults.windows ++ [(s, c.now)] } }
  c.put (FLT_SRC_WCNT s) n

/-- Severe at once in every configuration (R279): CHOPPER, OVERVOLT, built-in actions, RNG_REMOTE. -/
def alwaysSevere (e : Event) : Bool := isChopper e.src || isOvervolt e.src || e.src == 0xFB || e.code != 0

/-- The event makes its source severe (R277 to R279). -/
def Chip.becomesSevere (c : Chip) (e : Event) : Bool :=
  !c.compact || alwaysSevere e || decide (c.get (FLT_CFG_N e.src) ≤ c.windowCount e.src + e.count)

/-- What a source's counted events come to: the latch that follows when the source becomes severe; otherwise they count in
its window. -/
def Chip.judgeSource (x : Chip × List Latch) (e : Event) : Chip × List Latch :=
  let c := x.1
  if c.severe e.src then (c, x.2)
  else if c.becomesSevere e then
    (c.closeWindow e.src, x.2 ++ [⟨e.src, c.effCode e, c.reactionMask e⟩])
  else (c.countWindow e.src (c.windowCount e.src + e.count), x.2)

/-- One source's events: counted and judged. -/
def Chip.sampleSource (x : Chip × List Latch) (e : Event) : Chip × List Latch :=
  Chip.judgeSource (x.1.countEvent e, x.2) e

/-- A fire curtain turns the choppers and the admission gates off (R17). -/
def Chip.fireOff (c : Chip) : Chip :=
  c.each allRegions fun c r =>
    let c := c.chopStop r
    c.setBus r { c.bus r with gate := 0 }

/-- A severe source is latched and its reaction acts (R281, R204, R285). -/
def Chip.react (c : Chip) (x : Latch) : Chip :=
  let f := c.faults
  let c : Chip := { c with faults := { f with latched := f.latched ++ [x], fire := f.fire || x.code == 6 } }
  let c := if 2 ≤ x.code then c.each (axesIn x.mask) Chip.reactOff else c
  if x.code = 6 then c.fireOff else c

/-- The winner of a tick: the highest effective code, then the lower ID (R286). -/
def winner : List Latch → Option Latch
  | [] => none
  | x :: l => match winner l with
    | none => some x
    | some y => if x.code < y.code then some y else some x

/-- Word k of the vector of sources. -/
def sourceWord (l : List Nat) (k : Nat) : Word :=
  (l.filter (· / 32 == k)).foldl (fun w s => w ||| (1 <<< (s % 32))) 0

/-- A BEACON pulse starts (R289). -/
def Chip.beaconPulse (c : Chip) : Chip :=
  { c.put BEACON_CTL_PULSING 1 with faults := { c.faults with beaconTick := c.now } }

/-- The sources `l` of this tick fill the first capture (R286, R288, R289). -/
def Chip.fillFirst (c : Chip) (l : List Latch) : Chip :=
  match winner l with
  | none => c
  | some w =>
    let same := decide (1 < l.length)
    let v := if same then l.map (·.src) else []
    let c := c.setReg FLT_FIRST (packFields
      [(FLT_FIRST_VALID, 1), (FLT_FIRST_SAME_TICK, same.toNat), (FLT_FIRST_CODE, w.code), (FLT_FIRST_SRC, w.src)])
    let c := (c.put64 FLT_FIRSTT c.wall).each (List.range 8) fun c k => c.setReg (FLT_STVEC k) (sourceWord v k)
    let c : Chip := { c with faults := { c.faults with firstTick := some c.now } }
    c.beaconPulse.logArise 5 (BitVec.ofNat 32 (w.src + 256 * w.code + 2048 * same.toNat)) (sourceWord v 0) 0

/-- The first capture (R286 to R289). -/
def Chip.capture1 (c : Chip) (l : List Latch) : Chip :=
  if l.isEmpty then c
  else if c.flag FLT_FIRST_VALID then
    let c := c.put FLT_FIRST_OVF 1
    if l.any fun x => isChopper x.src then c.beaconPulse else c
  else c.fillFirst l

/-- A severe event other than RNG_REMOTE is queued for the range; a full queue merges it (R360). -/
def Chip.propagate (c : Chip) (x : Latch) : Chip :=
  let q := c.rng.faultQ
  let m : FaultMsg := ⟨x.src, x.code, c.wall⟩
  if x.src = 0xFB || !c.flag RNG_CFG_EN then c
  else if q.length < 8 then { c with rng := { c.rng with faultQ := q ++ [m] } }
  else
    let c := c.mark RNG_STAT_FQOVF
    match q.getLast? with
    | some y => if y.code < x.code then { c with rng := { c.rng with faultQ := q.dropLast ++ [m] } } else c
    | none => c

/-- Sources become severe in this tick (R281, R286, R360). -/
def Chip.takeSevere (c : Chip) (l : List Latch) : Chip :=
  let c := ((c.each l Chip.react).capture1 l).each l Chip.propagate
  { c with faults := { c.faults with risen := c.faults.risen ++ l } }

/-- FAULT_COLLECTOR_TICK: one sampling in each tick. -/
def Chip.collect (c : Chip) : Chip :=
  if !c.clockRuns || c.faults.sampledTick == some c.now then c
  else
    let l := c.tickEvents
    let (c, new) := l.foldl Chip.sampleSource (c, [])
    let c : Chip := { c with faults := { c.faults with
      events := [], sampled := l, risen := [], sampledTick := some c.now } }
    let c := c.takeSevere new
    if new.any fun x => decide (2 ≤ x.code) then c.obeyLines else c

/-- FAULT_COLLECTOR_TICK. -/
def execFaultCollectorTick (s : State) : Out := s.run Chip.collect

/-- The source's window ends by now: its last tick has passed, or is this one, already sampled (R277). -/
def Chip.windowOver (c : Chip) (s : Nat) : Bool :=
  c.faults.windows.any fun x => x.1 == s &&
    decide (x.2 + 250000 * c.get (FLT_CFG_T s) < c.now + (c.faults.sampledTick == some c.now).toNat)

/-- SEVERITY_WINDOW_EXPIRY (R277): the window closes. -/
def Chip.windowExpiry (c : Chip) (s : Src) : Chip := if c.windowOver s.val then c.closeWindow s.val else c

/-- SEVERITY_WINDOW_EXPIRY. -/
def execSeverityWindowExpiry (x : Src) (s : State) : Out := s.run fun c => c.windowExpiry x

/-- BEACON_PULSE_END (R289, R290): PULSE µs after the tick that followed the sampling the pin follows LEVEL again; in
DARK, where no tick passes, whenever the row comes (log entry 1). -/
def Chip.beaconEnd (c : Chip) : Chip :=
  if c.clockRuns && decide (c.now < c.faults.beaconTick + 1 + 250 * c.get BEACON_CTL_PULSE) then c
  else c.put BEACON_CTL_PULSING 0

/-- BEACON_PULSE_END. -/
def execBeaconPulseEnd (s : State) : Out := s.run Chip.beaconEnd

/-- CLOCK_LOSS: one event of CLOCK while the system clock should run (Table 11-2). -/
def execClockLoss (s : State) : Out := s.run fun c => c.raiseIf c.clockRuns 0xE5

/-! ### Injection (R292, R293) -/

/-- TEST_WORD_CHECK: a memory's own checker reads its test word, which fails only while it is armed. -/
def Chip.testWord (c : Chip) (u : Fin 5) : Chip :=
  if c.clockRuns && c.injected 0 u.val then (c.report 0xF0 1 0 0 true).disarm 0 else c

/-- TEST_WORD_CHECK. -/
def execTestWordCheck (u : Fin 5) (s : State) : Out := s.run fun c => c.testWord u

/-- Units of a checker (Table 11-6). -/
def injUnits (checker : Nat) : Nat :=
  match checker with
  | 0 => 5 | 1 => 8 | 2 => 2 | 3 => 1 | _ => 0

/-- FLT_INJ (R292, R293). -/
def Chip.inject (c : Chip) (checker unit : Nat) : Judged :=
  c.request [(c.inDark || c.inStrike, .state), (decide (injUnits checker ≤ unit), .range),
      ((c.get FLT_INJS_ARMED).testBit checker, .busy)] fun c =>
    { c.put FLT_INJS_ARMED (c.get FLT_INJS_ARMED ||| 2 ^ checker) with
      faults := { c.faults with inj := setAt c.faults.inj checker (some unit) } }

/-- FLT_INJ. -/
def execFltInj (p : Path) (checker unit : BitVec 4) (s : State) : Out :=
  s.ask p fun c => c.inject checker.toNat unit.toNat

/-! ### Clearing (R294 to R296) -/

/-- The condition that a source's own chapter states for its clear (R132, R233). -/
def Chip.clearBad (c : Chip) (s : Nat) : Bool :=
  if 0x89 ≤ s ∧ s < 0xA9 then
    let p := portOf (s - 0x89)
    c.inputLead p && c.flag (FP_STAT_FAULTY p.val) && !c.wiresLong p
  else if s = 0xCA then c.busRuns 0 && decide (c.volts (BUS_VTH_V_CHOP 0) ≤ c.get (BUS_FAST_V 0))
  else if s = 0xD1 then c.busRuns 1 && decide (c.volts (BUS_VTH_V_CHOP 1) ≤ c.get (BUS_FAST_V 1))
  else false

/-- A clear of the source would be refused (R294). -/
def Chip.notClearable (c : Chip) (s : Nat) : Bool := c.cause s || c.clearBad s

/-- The accepted clear of CHOPPER (R233): V_REGEN_CUT is restored and the next turn-on is checked again. -/
def Chip.chopCleared (c : Chip) (r : Region) : Chip :=
  if c.flag (BUS_STAT_CHOPF r.val) then
    let c := ((c.put (BUS_STAT_CHOPF r.val) 0).setBus r { c.bus r with chopOff := none }).restoreCut r
    if c.busRuns r then c.judgeCut r (c.get (BUS_FAST_V r.val)) else c
  else c

/-- What the accepted clear of a source does in the source's own chapter (R132, R233, R238, R265). -/
def Chip.clearedOwn (c : Chip) (s : Nat) : Chip :=
  if 0x89 ≤ s ∧ s < 0xA9 then
    let p := portOf (s - 0x89)
    if c.flag (FP_STAT_FAULTY p.val) then c.recovered p else c
  else match s with
    | 0xC9 => c.put (BUS_STAT_SHORT 0) 0
    | 0xD0 => c.put (BUS_STAT_SHORT 1) 0
    | 0xCA => c.chopCleared 0
    | 0xD1 => c.chopCleared 1
    | _ => { c with faults := { c.faults with shutdown := c.faults.shutdown.filter fun x =>
        !(allSensors.any fun n => n.val == x.1 && sensorSrc n == s) } }

/-- The source's events of this tick, if it has been sampled. -/
def Chip.eventNow (c : Chip) (s : Nat) : Option Event :=
  if c.faults.sampledTick == some c.now then c.faults.sampled.find? (·.src == s) else none

/-- SEVERE and the window of a source end, and its reaction is released; events of the same tick are judged after that
(R294, R295). -/
def Chip.releaseSource (c : Chip) (s : Nat) : Chip :=
  let d := c.closeWindow s
  let d : Chip := { d with faults := { d.faults with latched := d.faults.latched.filter (·.src != s) } }
  match c.eventNow s with
  | none => d
  | some e => let x := Chip.judgeSource (d, []) e; x.1.takeSevere x.2

/-- An accepted clear (R294): a source that became severe in this very tick stays so (R295). -/
def Chip.clearSource (c : Chip) (s : Nat) : Chip :=
  if 0xFC ≤ s then c
  else
    let fresh := c.faults.sampledTick == some c.now && c.faults.risen.any (·.src == s)
    (if fresh then c else c.releaseSource s).clearedOwn s

/-- A locally owned axis that no reaction holds any longer is to enter CURVE again (R204, R284). -/
def Chip.localAgain (before c : Chip) : Chip :=
  c.each allAxes fun c a =>
    if before.heldOff a && !c.heldOff a && c.inShow && c.axisOn a && c.get (AX_CFG_OWNER a.val) == 2 then
      c.setAxis a { c.axis a with localDue := true }
    else c

/-- The clears of a list of sources, after which the legs obey the lines that remain (R22). -/
def Chip.clearAll (c : Chip) (l : List Nat) : Chip := Chip.localAgain c (c.each l Chip.clearSource).obeyLines

/-- FLT_CLR of one source (R294). -/
def Chip.fltClr (c : Chip) (s : Nat) : Judged :=
  c.request [(c.inDark || (decide (s < 0xFC) && c.notClearable s), .state)] fun c => c.clearAll [s]

/-- FLT_CLR. -/
def execFltClr (p : Path) (x : Src) (s : State) : Out := s.ask p fun c => c.fltClr x.val

/-- FLT_CLR with ALL = 1 (R295); with a SRC it is refused with RANGE (Table 11-7). -/
def Chip.fltClrAll (c : Chip) (withSrc : Bool) : Judged :=
  let l := c.faults.latched.map (·.src)
  c.request [(c.inDark || l.any c.notClearable, .state), (withSrc, .range)] fun c => c.clearAll l

/-- FLT_CLR_ALL. -/
def execFltClrAll (p : Path) (s : State) : Out := s.ask p fun c => c.fltClrAll false

/-- The capture is empty. -/
def Chip.emptyFirst (c : Chip) : Chip :=
  ((c.setReg FLT_FIRST 0).put64 FLT_FIRSTT 0).each (List.range 8) fun c k => c.setReg (FLT_STVEC k) 0

/-- A write of 1 to FLT_FIRST.VALID (R287): a capture of the same tick stays, and a source that became severe in this tick
fills the capture anew (R7). -/
def Chip.firstClear (c : Chip) : Judged :=
  let f := c.faults
  (if f.firstTick == some c.now then c
   else if f.sampledTick == some c.now then c.emptyFirst.fillFirst f.risen
   else c.emptyFirst, .ok)

/-- FLT_FIRST_CLEAR. -/
def execFltFirstClear (p : Path) (s : State) : Out := s.ask p Chip.firstClear

/-- A write of 1 to FLT_ACC.VALID (R291): an error of the same tick fills the capture anew (R7). -/
def Chip.accClear (c : Chip) : Judged :=
  let c := ((c.setReg FLT_ACC 0).setReg FLT_ACCA 0).put64 FLT_ACCT 0
  (match c.faults.accNew with
   | some (t, w, a) => if t = c.now then c.fillAccess w a else c
   | none => c, .ok)

/-- FLT_ACC_CLEAR. -/
def execFltAccClear (p : Path) (s : State) : Out := s.ask p Chip.accClear

end Sys2Proof.Machine
end

