-- ==== Sys2Proof/Machine/Otp.lean ====
section
/-! DEFINITION. The OTP fuses (13_otp_logbook.md, R321 to R331): the read of step 2 of a start, votes, redirection, patch
entries, and programming.  Places 0 to 1,023 are the words of rows 0 to 63, 1,024 to 1,087 the spare rows, 1,088
to 1,111 the redirection table, three copies for each entry. -/
namespace Sys2Proof.Machine

/-- The stored word of a place. -/
def NonVolatile.fuse (nv : NonVolatile) (k : Nat) : Word := cellsGet zeros nv.fuses k

/-- Fuse bits go from 0 to 1 and never back (R321). -/
def NonVolatile.blow (nv : NonVolatile) (k : Nat) (bits : Word) : NonVolatile :=
  { nv with fuses := cellsSet zeros nv.fuses k (nv.fuse k ||| bits) }

/-! ### The three reads (R323) -/

/-- The reads of a place: those given, or the stored word three times. -/
def NonVolatile.readAt (nv : NonVolatile) (l : List OtpRead) (k : Nat) : OtpRead :=
  match l.find? (·.word.val == k) with
  | some r => r
  | none => ⟨⟨k % 1112, by omega⟩, nv.fuse k, nv.fuse k, nv.fuse k, false, false⟩

/-- A word of rows 1 to 63, or of the table, is marginal. -/
def readMarginal (r : OtpRead) : Bool := r.normal != r.raised || r.normal != r.lowered || r.eccDiffers

/-- The value in use outside row 0: the corrected normal read, 0 when it is uncorrectable (R325). -/
def readUsed (r : OtpRead) : Word := if r.double then 0 else r.normal

/-! ### Redirection (R329) -/

/-- The three copies of table entry `e`. -/
def NonVolatile.copies (nv : NonVolatile) (l : List OtpRead) (e : Nat) : List OtpRead :=
  [nv.readAt l (1088 + 3 * e), nv.readAt l (1089 + 3 * e), nv.readAt l (1090 + 3 * e)]

/-- The entry's word when it is valid: two copies that read identical and non-marginal with VALID = 1. -/
def validEntry : List OtpRead → Option Word
  | [] => none
  | r :: l =>
    if r.normal.getLsbD 31 && !readMarginal r && l.any (fun q => q.normal == r.normal && !readMarginal q) then some r.normal
    else validEntry l

/-- Row and spare that an entry's word names. -/
def entryRow (w : Word) : Nat := (w >>> 8).toNat % 64
/-- The spare row that an entry's word names. -/
def entrySpare (w : Word) : Nat := w.toNat % 4

/-- The place of word `w` under valid entries, the highest last: the last entry that names its row governs. -/
def placeUnder (entries : List Word) (w : Nat) : Nat :=
  entries.foldl (fun k x => if entryRow x = w / 16 then 1024 + 16 * entrySpare x + w % 16 else k) w

/-- The valid entries at this start, in order. -/
def NonVolatile.entries (nv : NonVolatile) (l : List OtpRead) : List Word :=
  (List.range 8).filterMap fun e => validEntry (nv.copies l e)

/-- The redirections in force. -/
def Chip.redirections (c : Chip) : List Word :=
  (List.range 8).filterMap fun k => if c.flag (OTP_REDIR_VALID k) then some (c.reg (OTP_REDIR k)) else none

/-- OTP_REDIR of each entry; an entry that holds a nonzero copy and is not valid is void. -/
def Chip.showEntries (c : Chip) (nv : NonVolatile) (l : List OtpRead) : Chip :=
  c.each (List.range 8) fun c e =>
    match validEntry (nv.copies l e) with
    | some w => c.setReg (OTP_REDIR e) (packFields
        [(OTP_REDIR_VALID e, 1), (OTP_REDIR_ROW e, entryRow w), (OTP_REDIR_SPARE e, entrySpare w)])
    | none => c.putF (OTP_REDIR_VOID e) ((nv.copies l e).any fun r => r.normal != 0)

/-! ### Voting (R322, R324) -/

/-- Set bits of a byte. -/
def bitCount (b : Nat) : Nat := (List.range 8).countP b.testBit

/-- One read of a copy byte: at least 6 set bits read 1, at most 2 read 0. -/
def byteVote (w : Word) (k : Nat) : Option Bool :=
  let n := bitCount ((w >>> (8 * k)).toNat % 256)
  if 6 ≤ n then some true else if n ≤ 2 then some false else none

/-- A copy byte over the three reads; a marginal copy gives none. -/
def copyVote (r : OtpRead) (k : Nat) : Option Bool :=
  let a := byteVote r.normal k
  if a == byteVote r.raised k && a == byteVote r.lowered k then a else none

/-- The vote and whether it is ambiguous, which counts as 1. -/
def vote (l : List (Option Bool)) : Bool × Bool :=
  let ones := l.count (some true)
  let offs := l.count (some false)
  if ones + offs = 3 then (decide (2 ≤ ones), false)
  else if ones = 2 then (true, false)
  else if offs = 2 then (false, false)
  else (true, true)

/-- The vote of byte `k` over the copies in words `a` to `a + 2` of row 0. -/
def NonVolatile.voteByte (nv : NonVolatile) (l : List OtpRead) (a k : Nat) : Bool × Bool :=
  vote [copyVote (nv.readAt l a) k, copyVote (nv.readAt l (a + 1)) k, copyVote (nv.readAt l (a + 2)) k]

/-- The life-cycle state and whether its vote is ambiguous: the highest byte that votes 1. -/
def NonVolatile.lifeCycle (nv : NonVolatile) (l : List OtpRead) : Nat × Bool :=
  let v := nv.voteByte l 0
  (if (v 2).1 then 3 else if (v 1).1 then 2 else if (v 0).1 then 1 else 0, (v 0).2 || (v 1).2 || (v 2).2)

/-- The locks as voted. -/
def NonVolatile.locks (nv : NonVolatile) (l : List OtpRead) : Nat :=
  (List.range 4).foldl (fun m k => m + if (nv.voteByte l 3 k).1 then 2 ^ k else 0) 0

/-! ### Step 2 and step 3 of a start -/

/-- Word `w` as it is read, where it lies. -/
def NonVolatile.wordRead (nv : NonVolatile) (l : List OtpRead) (entries : List Word) (w : Nat) : OtpRead :=
  nv.readAt l (placeUnder entries w)

/-- A row-0 word with a marginal copy byte (R323). -/
def rowZeroBad (r : OtpRead) (w : Nat) : Bool :=
  decide (w < 6) && (List.range (if w < 3 then 3 else 4)).any fun k => (copyVote r k).isNone

/-- Marginal and uncorrectable (R323). -/
def doubt (r : OtpRead) (w : Nat) : Bool × Bool := if w < 16 then (rowZeroBad r w, false) else (readMarginal r, r.double)

/-- A doubtful word is noted: its bit, its count, one event, and the lowest one in OTP_FIRSTM. -/
def Chip.noteDoubt (c : Chip) (w : Nat) (bad : Bool) : Chip :=
  let f := OTP_WSTAT_DOUBT (w / 32)
  let c := c.put f (c.get f ||| 2 ^ (w % 32))
  let c := c.bump (if bad then OTP_MARG_UNCORR else OTP_MARG_MARG) 1
  let c := if c.flag OTP_FIRSTM_VALID then c else c.setReg OTP_FIRSTM (packFields
    [(OTP_FIRSTM_VALID, 1), (OTP_FIRSTM_KIND, bad.toNat), (OTP_FIRSTM_WORD, w)])
  c.raise 0xF3

/-- One word of step 2: its value in use, and its doubt. -/
def Chip.readWord (nv : NonVolatile) (l : List OtpRead) (entries : List Word) (c : Chip) (w : Nat) : Chip :=
  let r := nv.wordRead l entries w
  let d := doubt r w
  let c := c.setReg (OTP_WORD w) (if w < 16 then r.normal else readUsed r)
  let c := if d.1 || d.2 then c.noteDoubt w d.2 else c
  let c : Chip := if d.1 then { c with nvc := { c.nvc with marginal := c.nvc.marginal ++ [w] } } else c
  if d.2 && decide (128 ≤ w) && decide (w < 136) then { c with load := { c.load with keyDead := true } } else c

/-- The words that are not blank or that read otherwise than they are stored; every other word reads 0 without
doubt. -/
def NonVolatile.wordsToRead (nv : NonVolatile) (l : List OtpRead) : List Nat :=
  if l.isEmpty && nv.fuses.isEmpty then [] else List.range 1024

/-- The commit word that patch entry words call for (R330): the CRC is over both words, little-endian. -/
def patchCommit (addr data : Word) : Word :=
  0xC3A50000#32 ||| (((bytesOf 4 addr.toNat ++ bytesOf 4 data.toNat).flatMap bitsOf).foldl (crcBit 0x1021#16)
    0xFFFF#16).zeroExtend 32

/-- Patch entry `e` is classified, and applied when it is committed (Table 13-4). -/
def Chip.patchEntry (c : Chip) (e : Nat) : Chip :=
  let w := 192 + 3 * e
  let doubtful (k : Nat) := (c.get (OTP_WSTAT_DOUBT (k / 32))).testBit (k % 32)
  let a := c.reg (OTP_WORD w)
  let d := c.reg (OTP_WORD (w + 1))
  let m := c.reg (OTP_WORD (w + 2))
  if doubtful w || doubtful (w + 1) || doubtful (w + 2) then c.bump OTP_MARG_MPATCH 1
  else if a == 0 && d == 0 && m == 0 then c
  else if decide (a.toNat < 65536) && m == patchCommit a d then
    { c.bump OTP_STATUS_APPLIED 1 with nvc := { c.nvc with patches := c.nvc.patches ++ [(a.toNat, d)] } }
  else if decide (a.toNat < 65536) && m == 0 && !(c.get OTP_STATUS_LOCK).testBit 2 then c
  else
    (c.bump OTP_STATUS_VOID_COUNT 1).put (OTP_VOID_VOID (e / 32)) (c.get (OTP_VOID_VOID (e / 32)) ||| 2 ^ (e % 32))

/-- The image key (R306): the value of words 128 to 135, each little-endian. -/
def Chip.keyWords (c : Chip) : List Word := (List.range 8).map fun i => c.reg (OTP_WORD (128 + i))

/-- A key is held, or a word of it is uncorrectable (R306, R325). -/
def Chip.keyHeld (c : Chip) : Bool := c.keyWords.any (· != 0) || c.load.keyDead

/-- Step 2 of Table 12-1: the fuses are read and voted. -/
def Chip.readFuses (c : Chip) (nv : NonVolatile) (l : List OtpRead) : Chip :=
  let entries := nv.entries l
  let c := (c.showEntries nv l).each (nv.wordsToRead l) (Chip.readWord nv l entries)
  let lc := nv.lifeCycle l
  let c := ((c.put SYS_STATUS_LC lc.1).putF SYS_STATUS_LC_AMBIG lc.2).put OTP_STATUS_LOCK (nv.locks l)
  c.putF SYS_STATUS_KEY c.keyHeld

/-- Step 3: the committed patch entries are applied, in ascending order.  The revision of a patched microcode is not
stated: it is free. -/
def Chip.applyPatches (c : Chip) : Chip :=
  let c := c.each (List.range 256) Chip.patchEntry
  if c.nvc.patches.isEmpty then c
  else (c.each allRegions fun c r => c.put (FE_INFO_ROMREV r.val) c.freeVal.toNat).useFree

/-! ### Vendor trims (R250, R374) -/

/-- The vendor area holds trims; the spec does not say which word holds which. -/
def Chip.trimmed (c : Chip) : Bool := (List.range 112).any fun i => c.reg (OTP_WORD (16 + i)) != 0

/-- The registers that hold trims. -/
def trimRegs : List Nat := (List.range 41).map SL_CAL ++ ((List.range 46).filter isChannel).map HK_COR

/-- SL_CAL and HK_COR take the vendor trims of this start. -/
def Chip.setTrims (c : Chip) : Chip := c.each (trimRegs.zip c.nvc.trims) fun c x => c.setReg x.1 x.2

/-- The vendor trims are read: free values from a programmed area, none from a blank one, where the reset values
stay. -/
def Chip.takeTrims (c : Chip) : Chip :=
  if c.trimmed then
    (c.each trimRegs fun c _ =>
      { c.useFree with nvc := { c.nvc with trims := c.nvc.trims ++ [c.freeVal.truncate 32] } }).setTrims
  else c

/-! ### Requests (R326, R327) -/

/-- The area of a word. -/
def otpArea (w : Nat) : Nat := if w < 128 then 0 else if w < 192 then 1 else if w < 960 then 2 else 3

/-- The area may be programmed in life-cycle state `lc` (Table 13-1). -/
def areaOpen (area lc : Nat) : Bool :=
  match area with
  | 1 => decide (lc ≤ 1)
  | 3 => decide (lc ≤ 2)
  | _ => lc == 0

/-- The argument of an operation lies in Table 13-2. -/
def argOk (op arg : Nat) : Bool :=
  match op with
  | 1 | 2 => decide (16 ≤ arg) && decide (arg < 1024)
  | 3 => decide (1 ≤ arg) && decide (arg < 64)
  | 4 => decide (arg < 4)
  | _ => false

/-- The area an operation acts on. -/
def opArea (op arg : Nat) : Nat :=
  match op with
  | 3 => otpArea (16 * arg)
  | 4 => arg
  | _ => otpArea arg

/-- The lowest spare row that is blank and that no table entry names. -/
def NonVolatile.freeSpare (nv : NonVolatile) : Option Nat :=
  (List.range 4).find? fun s =>
    (List.range 16).all (fun i => nv.fuse (1024 + 16 * s + i) == 0) &&
      (List.range 24).all fun k => nv.fuse (1088 + k) == 0 || entrySpare (nv.fuse (1088 + k)) != s

/-- The lowest table entry whose three words are blank. -/
def NonVolatile.freeEntry (nv : NonVolatile) : Option Nat :=
  (List.range 8).find? fun e => (List.range 3).all fun k => nv.fuse (1088 + 3 * e + k) == 0

/-- The place of word `w` under the redirections in force. -/
def Chip.place (c : Chip) (w : Nat) : Nat := placeUnder c.redirections w

/-- The words that an operation is to program, with their targets. -/
def Chip.otpTodo (c : Chip) (nv : NonVolatile) (op arg : Nat) : List (Nat × Word) :=
  match op with
  | 1 => [(c.place arg, c.reg OTP_DATA)]
  | 2 => [(c.place arg, c.reg (OTP_WORD arg))]
  | 3 =>
    let s := nv.freeSpare.getD 0
    let e := nv.freeEntry.getD 0
    (List.range 16).map (fun i => (1024 + 16 * s + i, c.reg (OTP_WORD (16 * arg + i)))) ++
      (List.range 3).map (fun k => (1088 + 3 * e + k, BitVec.ofNat 32 (2 ^ 31 + 256 * arg + s)))
  | _ => (List.range 3).map fun i => (3 + i, nv.fuse (3 + i) ||| (0xFF#32 <<< (8 * arg)))

/-- The target does not allow the operation (Table 13-3, third row). -/
def Chip.otpTargetBad (c : Chip) (nv : NonVolatile) (op arg : Nat) : Bool :=
  match op with
  | 1 => nv.fuse (c.place arg) != 0
  | 2 => !c.nvc.marginal.contains arg
  | 3 => nv.freeSpare.isNone || nv.freeEntry.isNone
  | _ => (c.get OTP_STATUS_LOCK).testBit arg

/-- The life-cycle state does not allow the operation (Table 13-3, second row). -/
def Chip.otpLcBad (c : Chip) (op arg : Nat) : Bool :=
  let lc := c.get SYS_STATUS_LC
  !areaOpen (opArea op arg) lc || ((op == 2 || op == 3) && decide (2 ≤ lc))

/-- The programming window of Table 13-3 is left: by the monitors' verdict `left`, or because a junction outside the window
of R335 is outside this one. -/
def Chip.windowLeft (c : Chip) (left : Bool) : Bool := left || c.flag LOG_STATUS_HOLD

/-- An OTP_CMD write (Table 13-3). -/
def Chip.otpConds (c : Chip) (nv : NonVolatile) (op arg : Nat) (confirm left : Bool) : List (Bool × Reason) :=
  let ok := argOk op arg
  [(!c.inHouse || c.booting || c.flag SYS_STATUS_TRANS, .state), (ok && c.otpLcBad op arg, .state),
    (ok && c.otpTargetBad nv op arg, .state), (!confirm || !ok, .range),
    (op == 1 && decide (136 ≤ arg) && decide (arg < 192), .range),
    (op == 1 && ok && (c.get OTP_STATUS_LOCK).testBit (otpArea arg), .locked), (c.nvc.op.isSome, .busy),
    (c.windowLeft left, .window)]

/-- An OTP_CMD write: an accepted one starts its operation. -/
def Chip.otpCmd (nv : NonVolatile) (op arg : Nat) (confirm left : Bool) (c : Chip) : Judged :=
  c.request (c.otpConds nv op arg confirm left) fun c =>
    { c.put OTP_STATUS_BUSY 1 with nvc := { c.nvc with op := some ⟨op, arg, c.otpTodo nv op arg, 0, 0⟩ } }

/-- PROG. -/
def execProg (p : Path) (word : BitVec 10) (left : Bool) (s : State) : Out := s.ask p (Chip.otpCmd s.nv 1 word.toNat true left)

/-- REPULSE. -/
def execRepulse (p : Path) (word : BitVec 10) (left : Bool) (s : State) : Out := s.ask p (Chip.otpCmd s.nv 2 word.toNat true left)

/-- REDIRECT. -/
def execRedirect (p : Path) (row : BitVec 10) (left : Bool) (s : State) : Out := s.ask p (Chip.otpCmd s.nv 3 row.toNat true left)

/-- LOCK. -/
def execOtpLock (p : Path) (area : BitVec 10) (left : Bool) (s : State) : Out := s.ask p (Chip.otpCmd s.nv 4 area.toNat true left)

/-! ### Pulse and verify (R328) -/

/-- A verify passes: all three reads equal the target. -/
def verifyPasses (v : Verify) (t : Word) : Bool := v.normal == t && v.raised == t && v.lowered == t && v.eccOk

/-- One pulse and its verify: the fuses, the operation, its result when it ends (1 OK, 2 FAIL, 3 ABORT). -/
def pulseStep (nv : NonVolatile) (o : OtpOp) (v : Verify) : NonVolatile × OtpOp × Option Nat :=
  match o.todo with
  | [] => (nv, o, some 1)
  | (k, t) :: rest =>
    let nv := nv.blow k (v.normal &&& t)
    let p := { o with pulses := o.pulses + 1, total := o.total + 1 }
    if v.windowLeft then (nv, p, some 3)
    else if verifyPasses v t then
      if rest.isEmpty then (nv, p, some 1) else (nv, { p with todo := rest, pulses := 0 }, none)
    else if 9 ≤ p.pulses then (nv, p, some 2)
    else (nv, p, none)

/-- An operation ends: its result and its record; FAIL counts one event. -/
def Chip.otpEnd (c : Chip) (o : OtpOp) (result : Nat) : Chip :=
  let c := ((c.put OTP_STATUS_BUSY 0).put OTP_STATUS_RESULT result).raiseIf (result == 2) 0xF3
  ({ c with nvc := { c.nvc with op := none } } : Chip).logArise 8
    (packFields [(OTP_CMD_OP, o.op), (OTP_CMD_ARG, o.arg)]) (BitVec.ofNat 32 result) (BitVec.ofNat 32 o.total)

/-- OTP_VERIFY: the pulse of the operation in progress, and its verify. -/
def State.otpVerify (s : State) (v : Verify) : State :=
  match s.chip.nvc.op with
  | none => s
  | some o =>
    let (nv, q, result) := pulseStep s.nv o v
    let c := s.chip.put OTP_STATUS_PULSES (if q.pulses = 0 then o.pulses + 1 else q.pulses)
    match result with
    | none => { s with nv := nv, chip := { c with nvc := { c.nvc with op := some q } } }
    | some r => { s with nv := nv, chip := c.otpEnd q r }

/-- OTP_VERIFY. -/
def execOtpVerify (v : Verify) (s : State) : Out := .next (s.otpVerify v)

end Sys2Proof.Machine
end

