-- ==== Sys2Proof/Machine/Log.lean ====
section
/-! DEFINITION. The logbook (13_otp_logbook.md, R332 to R337): event records, pending records, checkpoint slots, and the
orderly checkpoint. -/
namespace Sys2Proof.Machine

/-! ### Records -/

/-- Word `i` of record `r` (R332). -/
def NonVolatile.logWord (nv : NonVolatile) (r i : Nat) : Word := cellsGet zeros nv.log (8 * r + i)

/-- Writes words from one place on. -/
def NonVolatile.putWords (nv : NonVolatile) : Nat → List Word → NonVolatile
  | _, [] => nv
  | k, w :: l => ({ nv with log := cellsSet zeros nv.log k w } : NonVolatile).putWords (k + 1) l

/-- Seven words and their CRC-32 (Table 13-5). -/
def withCrc (l : List Word) : List Word := l ++ [crc32 (l.flatMap fun w => bytesOf 4 w.toNat)]

/-- Record `r` carries its CRC. -/
def NonVolatile.recordOk (nv : NonVolatile) (r : Nat) : Bool :=
  withCrc ((List.range 7).map (nv.logWord r)) == (List.range 8).map (nv.logWord r)

/-- The words of an event record (Table 13-5). -/
def LogRec.words (x : LogRec) (seq : Word) (lost : Bool) (boot : Nat) : List Word :=
  withCrc [seq, BitVec.ofNat 32 (2 ^ 24 * x.type + 2 ^ 23 * x.pending.toNat + 2 ^ 22 * lost.toNat + boot),
    BitVec.ofNat 32 x.tick, BitVec.ofNat 32 (x.tick / 2 ^ 32), x.p4, x.p5, x.p6]

/-- The SEQ after one: 0 is never used (R333). -/
def nextSeq (w : Word) : Word := if w + 1 = 0 then 1 else w + 1

/-- The ring position after one (R333). -/
def nextRing (r : Fin 1024) : Fin 1024 := if r.val = 1023 then 272 else r + 1

/-- `n` free words. -/
def Chip.freeWords (c : Chip) : Nat → Chip × List Word
  | 0 => (c, [])
  | n + 1 => let x := (c.useFree).freeWords n; (x.1, c.freeVal.truncate 32 :: x.2)

/-- A record that fails both verifies (R332): one event; what stands in it is not stated. -/
def State.writeFails (s : State) (r : Nat) : State :=
  let (c, l) := s.chip.freeWords 8
  { s with nv := s.nv.putWords (8 * r) l, chip := (c.bump LOG_FAILS_FAILS 1).raise 0xF3 }

/-- LOG_RECORD_WRITE (R332, R333): the oldest record that waits is written and read back, twice at most; after the second
failure it moves on to the next ring position. -/
def State.writeRecord (s : State) (ok : Bool) : State :=
  let c := s.chip
  match c.nvc.queue with
  | [] => s
  | x :: rest =>
    let r := c.nvc.ring
    if ok then
      let seq := nextSeq (c.reg LOG_SEQ)
      let c : Chip := { (c.setReg LOG_SEQ seq).put LOG_HEAD_REC r.val with
        nvc := { c.nvc with queue := rest, lost := false, ring := nextRing r } }
      { s with nv := s.nv.putWords (8 * r.val) (x.words seq s.chip.nvc.lost (c.get LOG_BOOT_BOOT)), chip := c }
    else
      let s := s.writeFails r.val
      { s with chip := { s.chip with nvc := { s.chip.nvc with ring := nextRing r } } }

/-- LOG_RECORD_WRITE. -/
def execLogRecordWrite (first second : Bool) (s : State) : Out :=
  .next (if s.chip.mayLog then s.writeRecord (first || second) else s)

/-- Every record that waits is written, at most `n` of them. -/
def State.writeQueue (s : State) (ok : Bool) : Nat → State
  | 0 => s
  | n + 1 => (s.writeRecord ok).writeQueue ok n

/-- The pending records follow those that wait. -/
def Chip.unholdRecords (c : Chip) : Chip :=
  { (c.put LOG_STATUS_HOLD 0).put LOG_STATUS_PENDING 0 with
    nvc := { c.nvc with queue := c.nvc.queue ++ c.nvc.pending, pending := [] } }

/-- PENDING_FLUSH (R335): writing is allowed again, and the records are written in order of arising. -/
def State.pendingFlush (s : State) (ok : Bool) : State :=
  if s.chip.inDark then s
  else
    let c := s.chip.unholdRecords
    ({ s with chip := c } : State).writeQueue ok c.nvc.queue.length

/-- PENDING_FLUSH. -/
def execPendingFlush (first second : Bool) (s : State) : Out := .next (s.pendingFlush (first || second))

/-! ### Checkpoints (R336) -/

/-- The ledgers of a port, as little-endian words (Table 13-7). -/
def Chip.portLedgers (c : Chip) (p : Nat) : List Word :=
  let pair (a : Nat) : List Word := [c.reg a, c.reg (a + 4)]
  if c.leads (portOf p) 5 then pair (FP_EMIT p) ++ pair (FP_OWED p)
  else pair (FP_LMF p) ++ pair (FP_LMB p) ++ pair (FP_LEF p) ++ pair (FP_LIL p) ++ pair (FP_LIC p)

/-- The bytes of slot `j`: 20, filled up with zeros. -/
def Chip.slotBytes (c : Chip) (j : Nat) : List Byte :=
  let ofWords (l : List Word) : List Byte := l.flatMap fun w => bytesOf 4 w.toNat
  let l :=
    if j < 64 then ofWords ((c.portLedgers (j / 2)).drop (5 * (j % 2)))
    else if j < 78 then (List.range 3).flatMap fun i =>
      let k := 3 * (j - 64) + i
      if k < 41 then bytesOf 6 (c.ledger (sliceOf k)) else []
    else if j < 80 then
      let r := j - 78
      ofWords [c.reg (BUS_DRAWN r), c.reg (BUS_DRAWN r + 4), c.reg (BUS_RET r), c.reg (BUS_RET r + 4)]
    else if j < 131 then (List.range 5).flatMap fun i =>
      let x := 5 * (j - 80) + i
      if x < 252 then ofWords [c.reg (FLT_CNT x)] else []
    else (List.range 5).flatMap fun i =>
      let n := 5 * (j - 131) + i
      if n < 21 then ofWords [c.reg (CUE_TB_SKIP n)] else []
  (l ++ List.replicate 20 0).take 20

/-- A checkpoint record's words (R336). -/
def Chip.slotWords (c : Chip) (j : Nat) : List Word :=
  let b := c.slotBytes j
  withCrc ([BitVec.ofNat 32 c.wall, BitVec.ofNat 32 (0xC0 * 2 ^ 24 + j * 2 ^ 16 + c.get LOG_BOOT_BOOT)] ++
    (List.range 5).map fun i => BitVec.ofNat 32 (ofBytes ((b.drop (4 * i)).take 4)))

/-- Record `r` holds a valid checkpoint copy. -/
def NonVolatile.slotValid (nv : NonVolatile) (r : Nat) : Bool :=
  (nv.logWord r 1 >>> 24).toNat == 0xC0 && nv.recordOk r

/-- The value `x` of a counter of `w` bits is later than `y`: ahead of it by less than half its range (log entry 78). -/
def laterMod (w x y : Nat) : Bool := let d := (x + 2 ^ w - y % 2 ^ w) % 2 ^ w; decide (0 < d) && decide (d < 2 ^ (w - 1))

/-- Checkpoint copy `r` is later than copy `q` by (BOOT, tick). -/
def NonVolatile.slotLater (nv : NonVolatile) (r q : Nat) : Bool :=
  let boot (k : Nat) : Nat := (nv.logWord k 1).toNat % 65536
  if boot r = boot q then laterMod 32 (nv.logWord r 0).toNat (nv.logWord q 0).toNat else laterMod 16 (boot r) (boot q)

/-- The older copy of slot `j`: one that is not valid counts as the older. -/
def NonVolatile.olderCopy (nv : NonVolatile) (j : Nat) : Nat :=
  if nv.slotValid j && (!nv.slotValid (136 + j) || nv.slotLater j (136 + j)) then 136 + j else j

/-- One slot is snapshotted and written to its older copy; when both verifies fail, the other copy stands. -/
def State.writeSlot (s : State) (j : Nat) (ok : Bool) : State :=
  let r := s.nv.olderCopy j
  if ok then { s with nv := s.nv.putWords (8 * r) (s.chip.slotWords j) } else s.writeFails r

/-- CHECKPOINT_SLOT (R336): the slot that is due; the slots are written in turn. -/
def State.checkpoint (s : State) (ok : Bool) : State :=
  if s.chip.load.stage == .done && s.chip.mayLog then
    let s' := s.writeSlot s.chip.nvc.slot ok
    { s' with chip := { s'.chip with nvc := { s'.chip.nvc with slot := (s.chip.nvc.slot + 1) % 136 } } }
  else s

/-- CHECKPOINT_SLOT. -/
def execCheckpointSlot (first second : Bool) (s : State) : Out := .next (s.checkpoint (first || second))

/-- All slots from one snapshot (R337). -/
def State.writeSlots (s : State) : List Nat → State
  | [] => s
  | j :: l => (s.writeSlot j true).writeSlots l

/-- The orderly checkpoint (R337): all 136 slots, then CLOSE, which no record follows; LOG_BUSY ends. -/
def State.closeBook (s : State) (cause : Nat) : State :=
  let s := s.writeSlots (List.range 136)
  let c := s.chip.logArise 3 (BitVec.ofNat 32 cause) 0 0
  let s := ({ s with chip := c } : State).writeQueue true c.nvc.queue.length
  { s with chip := { (s.chip.put SYS_STATUS_LOG_BUSY 0).put LOG_STATUS_BUSY 0 with
    nvc := { s.chip.nvc with orderly := none } } }

/-! ### The scan of a start (R333, R334) -/

/-- The event records that may be valid: SEQ is never 0. -/
def NonVolatile.eventRecords (nv : NonVolatile) : List Nat :=
  (((nv.log.map fun x => x.1 / 8).filter fun r => decide (272 ≤ r) && decide (r < 1024)).eraseDups).filter nv.recordOk

/-- The newest valid event record. -/
def NonVolatile.newest (nv : NonVolatile) : Option Nat :=
  nv.eventRecords.foldl (fun b r => match b with
    | none => some r
    | some q => if (nv.logWord q 0).toNat < (nv.logWord r 0).toNat then some r else some q) none

/-- The tick word of a boot's newest checkpoint copy. -/
def NonVolatile.lastTick (nv : NonVolatile) (boot : Nat) : Option Nat :=
  let l := (List.range 272).filter fun r => nv.slotValid r && (nv.logWord r 1).toNat % 65536 == boot
  (l.map fun r => (nv.logWord r 0).toNat).foldl (fun b t =>
    match b with
    | none => some t
    | some x => if laterMod 32 t x then some t else b) none

/-- Step 2: SEQ, BOOT and the ring go on from the newest record, and a boot without CLOSE calls for LOSS.  A boot without
a checkpoint has no tick to name: that word is free. -/
def Chip.scanLog (c : Chip) (nv : NonVolatile) : Chip :=
  match nv.newest with
  | none => c.put LOG_BOOT_BOOT 1
  | some r =>
    let boot := (nv.logWord r 1).toNat % 65536
    let c := ((c.setReg LOG_SEQ (nv.logWord r 0)).put LOG_HEAD_REC r).put LOG_BOOT_BOOT (boot + 1)
    let c : Chip := { c with nvc := { c.nvc with ring := nextRing ⟨r % 1024, by omega⟩ } }
    if (nv.logWord r 1 >>> 24).toNat = 3 then c
    else match nv.lastTick boot with
      | some t => { c with nvc := { c.nvc with loss := some (BitVec.ofNat 32 boot, BitVec.ofNat 32 t) } }
      | none => { c.useFree with nvc := { c.nvc with loss := some (BitVec.ofNat 32 boot, c.freeVal.truncate 32) } }

end Sys2Proof.Machine
end

