-- ==== Sys2Proof/Machine/Flags.lean ====
section
/-! DEFINITION. The status flags that follow other state: FLT_STATUS (Table 11-7), the host status word (Table 0-4) and the
levels of the pins nINT, nWAKE and BEACON. -/
namespace Sys2Proof.Machine

/-- nINT is asserted while CUE_IRQQ holds a record (R55), or an interrupt bit of a monitor or comparator is set (R270). -/
def Chip.nInt (c : Chip) : Bool :=
  !c.cues.irqq.isEmpty || (List.range 8).any (fun m => c.flag (WM_STAT_IRQ m)) || c.flag PC_IRQ_PEND

/-- nWAKE is asserted (R270). -/
def Chip.nWake (c : Chip) : Bool := c.flag WAKE_CMD_NWAKE

/-- BEACON is held low: in a pulse, or by LEVEL outside one; while nRESET is low it is released (R289, R290). -/
def Chip.beaconLow (c : Chip) : Bool :=
  c.load.stage != .held && (c.flag BEACON_CTL_PULSING || c.flag BEACON_CTL_LEVEL)

/-- FLT_STATUS.FAULT: a source is latched severe (R296). -/
def Chip.faultFlag (c : Chip) : Bool := !c.faults.latched.isEmpty

/-- FLT_STATUS.CURTAIN: a reaction of code 4 to 6, or a thermal shutdown curtain, is in force on some axis (R296). -/
def Chip.curtainFlag (c : Chip) : Bool :=
  c.faults.fire || c.faults.latched.any (fun x => decide (4 ≤ x.code) && x.mask != 0) || c.faults.shutdown.any fun x => x.2 != 0

/-- The word of FLT_STATUS. -/
def Chip.faultStatus (c : Chip) : Word :=
  packFields [(FLT_STATUS_FAULT, c.faultFlag.toNat), (FLT_STATUS_CURTAIN, c.curtainFlag.toNat),
    (FLT_STATUS_FIRE, c.faults.fire.toNat), (FLT_STATUS_COMPACT, c.compact.toNat), (FLT_STATUS_NSEV, c.faults.latched.length)]

/-- The host status word (R12, Table 0-4). -/
def Chip.statusWord (c : Chip) : BitVec 16 :=
  BitVec.ofNat 4 c.hp.reason.toNat ++ BitVec.ofBool c.faultFlag ++ BitVec.ofBool c.curtainFlag ++
    BitVec.ofNat 2 (c.get SYS_STATUS_PSTATE) ++ BitVec.ofNat 2 (c.get SYS_STATUS_LC) ++ BitVec.ofBool c.cfgOk ++
    BitVec.ofBool (c.flag SYS_STATUS_LOG_BUSY) ++ BitVec.ofBool c.hp.crcErr ++ BitVec.ofNat 3 c.hp.frames

end Sys2Proof.Machine
end

