-- ==== Sys2Proof/Machine/Range.lean ====
section
/-! DEFINITION. The range link (14_links.md, R354 to R361, R368, R370): training, the frames of the slotted cycle, and
the ways in which the link goes down. -/
namespace Sys2Proof.Machine

/-- The link is active (R354). -/
def Chip.rngOn (c : Chip) : Bool := c.flag RNG_CFG_EN && c.cfgOk && !c.inDark

/-- The link trains. -/
def Chip.rngTrains (c : Chip) : Bool := c.rngOn && c.get RNG_STAT_STATE == 1

/-- The link is up. -/
def Chip.rngUp (c : Chip) : Bool := c.rngOn && c.get RNG_STAT_STATE == 2

/-- The ring address of this package. -/
def Chip.rngAddr (c : Chip) : BitVec 2 := BitVec.ofNat 2 (c.get RNG_CFG_ADDR)

/-- The masters that this package publishes, as a mask of range masters (R359). -/
def Chip.published (c : Chip) : BitVec 8 :=
  BitVec.ofNat 8 (((c.flag RNG_PUB_EN0).toNat + 2 * (c.flag RNG_PUB_EN1).toNat) * 4 ^ c.rngAddr.toNat)

/-- The master positions that subscribe to a range master, with their timebases. -/
def Chip.subscribed (c : Chip) : List (Nat × Tb) :=
  ((List.range 4).filter fun m => c.flag (RNG_SUB_EN m)).map fun m => (c.get (RNG_SUB_RM m), tbOf (16 + m))

/-! ### Down and training (R356, R361) -/

/-- Every subscribed timebase becomes STALE (R359). -/
def Chip.rngLose (c : Chip) : Chip := c.each c.subscribed fun c x => c.loseTb x.2

/-- The link is down for `cause`; while it is down every other package counts as carrying SEV = 0 (R370). -/
def Chip.rngIdle (c : Chip) (cause : Nat) : Chip :=
  let c := ((c.put RNG_STAT_STATE 3).put RNG_STAT_CAUSE cause).rngLose
  { c with rng := { c.rng with sev := Vector.replicate 4 false, crcRun := 0, skewRun := 0 } }

/-- A link that is up goes down: one event of RNG_DOWN, whose cause persists until the link is up again (R361). -/
def Chip.rngDown (c : Chip) (cause : Nat) : Chip :=
  if c.get RNG_STAT_STATE != 2 then c
  else
    let c := (c.rngIdle cause).raise 0xF9
    { c with rng := { c.rng with downLive := true } }

/-- Training starts (R356). -/
def Chip.rngTrain (c : Chip) : Chip :=
  let c := c.setReg RNG_STAT (packFields [(RNG_STAT_STATE, 1), (RNG_STAT_FQOVF, c.get RNG_STAT_FQOVF)])
  { c.rngLose with rng := { c.rng with
    heard := [], back := none, duplicate := false, crcRun := 0, skewRun := 0, trainFrom := c.now, helloTick := none } }

/-- Training at an entry into HOUSE with an admitted image; a link that is up stays up (R356; DEDUCED, log entry 79). -/
def Chip.rngHouse (c : Chip) : Chip := if c.rngOn && c.get RNG_STAT_STATE != 2 then c.rngTrain else c

/-- RETRAIN: in HOUSE, while the link is active and not up. -/
def Chip.retrain (c : Chip) : Judged :=
  c.request [(!c.inHouse || c.get RNG_STAT_STATE == 2 || !c.rngOn, .state)] Chip.rngTrain

/-- RETRAIN. -/
def execRetrain (p : Path) (s : State) : Out := s.ask p Chip.retrain

/-- TRAINING_TIMEOUT: the ring was not closed within 10 ms.  A HELLO of the own address that has passed another number of
packages than were heard comes from a second package of that address; a closed ring of another size fails for the
count. -/
def Chip.trainingTimeout (c : Chip) : Chip :=
  let n := c.rng.heard.length
  if !c.rngTrains || decide (c.now < c.rng.trainFrom + 2500000) then c
  else match c.rng.back with
    | none => c.rngIdle 4
    | some h => c.rngIdle (if h != n + 1 then 1 else if n != c.get RNG_CFG_NPKG then 2 else 4)

/-- TRAINING_TIMEOUT. -/
def execTrainingTimeout (s : State) : Out := s.run Chip.trainingTimeout

/-- SYNC_TIMEOUT (R361): no valid SYNC for 3 cycles. -/
def Chip.syncTimeout (c : Chip) : Chip :=
  if c.rngUp && decide (c.rng.syncTick + 12000 ≤ c.now) then c.rngDown 5 else c

/-- SYNC_TIMEOUT. -/
def execSyncTimeout (s : State) : Out := s.run Chip.syncTimeout

/-! ### Sending (R358) -/

/-- The cycle number. -/
def Chip.rngCycle (c : Chip) : Nat := (c.wall - c.rng.startTick) / 4000

/-- A package sends SEV = 1 while it has a propagated source latched severe (R360). -/
def Chip.rngSev (c : Chip) : Bool := c.faults.latched.any (·.src != 0xFB)

/-- A frame of this package, with its CRC. -/
def Chip.rngFrame (c : Chip) (type : BitVec 3) (stale : BitVec 2) (slot : BitVec 3) (payload : BitVec 64) : RngFrame :=
  rngSealed
    { src := c.rngAddr, type := type, sev := c.rngSev, stale := stale, cycle := BitVec.ofNat 5 c.rngCycle, slot := slot,
      payload := payload, crc := 0, violation := false }

/-- The frame goes out. -/
def Chip.rngSend (c : Chip) (f : RngFrame) : Chip := { c with rng := { c.rng with sent := some f } }

/-- The timebase that EN0 or EN1 publishes. -/
def Chip.pubTb (c : Chip) (second : Bool) : Tb := tbOf (if second then c.get RNG_PUB_TB1 else c.get RNG_PUB_TB0)

/-- A published timebase: its value and its STALE flag; 0 for one that is not published. -/
def Chip.pubPart (c : Chip) (second : Bool) : BitVec 32 × Bool :=
  if c.flag (if second then RNG_PUB_EN1 else RNG_PUB_EN0) then
    (c.tbVal (c.pubTb second), c.flag (CUE_TB_STAT_STALE (c.pubTb second).val))
  else (0, false)

/-- POS (Table 14-5). -/
def Chip.posOut (c : Chip) (slot : BitVec 3) : RngFrame :=
  let a := c.pubPart false
  let b := c.pubPart true
  c.rngFrame 4 (BitVec.ofBool b.2 ++ BitVec.ofBool a.2) slot (b.1 ++ a.1)

/-- SYNC (Table 14-5). -/
def Chip.syncOut (c : Chip) (slot : BitVec 3) : RngFrame :=
  c.rngFrame 3 0 slot (BitVec.ofNat 64 (c.wall % 2 ^ 48 + 2 ^ 48 * c.get RNG_STAT_RT))

/-- FAULT (Table 14-5). -/
def Chip.faultOut (c : Chip) (slot : BitVec 3) (m : FaultMsg) : RngFrame :=
  c.rngFrame 5 0 slot (BitVec.ofNat 64 (m.src + 256 * m.code + 65536 * (m.tick % 2 ^ 32)))

/-- Ticks since slot `slot` last began (R358). -/
def Chip.sinceSlot (c : Chip) (slot : Nat) : Nat := (c.wall + 4000 - (c.rng.startTick + 500 * slot) % 4000) % 4000

/-- Slot `slot` of the own address begins in this tick, and its frame has not been sent. -/
def Chip.slotDue (c : Chip) (slot : Nat) : Bool :=
  c.rngUp && slot % 4 == c.rngAddr.toNat && decide (c.rng.startTick ≤ c.wall) && c.sinceSlot slot == 0 &&
    c.rng.slotTick != some c.now

/-- SLOT_START: the owner's frame of the highest priority. -/
def Chip.slotStart (c : Chip) (slot : Fin 8) : Chip :=
  let n := BitVec.ofNat 3 slot.val
  if !c.slotDue slot.val then c
  else
    let c : Chip := { c with rng := { c.rng with slotTick := some c.now } }
    match c.rng.faultQ with
    | m :: l => { c.rngSend (c.faultOut n m) with rng := { (c.rngSend (c.faultOut n m)).rng with faultQ := l } }
    | [] =>
      if c.flag RNG_STAT_KEEPER && decide (slot.val < 4) then c.rngSend (c.syncOut n)
      else if c.published != 0 then c.rngSend (c.posOut n)
      else c.rngSend (c.rngFrame 0 0 n (c.statusWord.zeroExtend 64))

/-- SLOT_START. -/
def execSlotStart (slot : Fin 8) (s : State) : Out := s.run fun c => c.slotStart slot

/-- HELLO (Table 14-5): KEEPER_OK, the published masters, the image's serial. -/
def Chip.helloOut (c : Chip) : RngFrame :=
  c.rngFrame 1 0 0 (((c.reg SYS_IMGID) ++ c.published ++ BitVec.ofNat 8 (c.get RNG_CFG_KEEPER_OK)).zeroExtend 64)

/-- HELLO_SEND: in training, every 50 µs (R356). -/
def Chip.helloSend (c : Chip) : Chip :=
  let due := match c.rng.helloTick with | some t => decide (t + 12500 ≤ c.now) | none => true
  if c.rngTrains && due then
    { c.rngSend c.helloOut with rng := { (c.rngSend c.helloOut).rng with helloTick := some c.now } }
  else c

/-- HELLO_SEND. -/
def execHelloSend (s : State) : Out := s.run Chip.helloSend

/-! ### Receiving (R355, R358) -/

/-- Forwards a frame; the owner removes its own, and in training each forwarder adds 1 to HOPS. -/
def Chip.forward (c : Chip) (f : RngFrame) : Chip :=
  if f.src = c.rngAddr then c
  else
    let g := if c.rngTrains && rngOk f && f.type == 1 then rngSealed { f with slot := f.slot + 1 } else f
    { c with rng := { c.rng with forwarded := some g } }

/-- A frame arrives: one that fails is forwarded and counts one event of RNG_CRC, four in a row take the link down; a
good one of the row's TYPE is used.  In the cycle it shows its sender's SEV. -/
def Chip.rngRx (c : Chip) (type : BitVec 3) (f : RngFrame) (eff : Chip → Chip) : Chip :=
  if !(c.rngTrains || c.rngUp) then c
  else if !rngOk f then
    let n := c.rng.crcRun + 1
    let c := { (c.forward f).raise 0xFA with rng := { (c.forward f).rng with crcRun := n } }
    if 4 ≤ n then c.rngDown 6 else c
  else if f.type != type then c
  else
    let c := c.forward f
    let sev := if c.rngUp && f.src != c.rngAddr then setAt c.rng.sev f.src.toNat f.sev else c.rng.sev
    eff { c with rng := { c.rng with crcRun := 0, sev := sev } }

/-- STATUS_FRAME: the sender's SEV, which every frame shows. -/
def execStatusFrame (f : RngFrame) (s : State) : Out := s.run fun c => c.rngRx 0 f id

/-! ### Training (R356) -/

/-- What a HELLO tells; its sender stands one hop further than the forwarders it has passed. -/
def helloOf (f : RngFrame) : RngHello :=
  ⟨f.src, f.payload.getLsbD 0, f.slot.toNat + 1, f.payload.extractLsb' 8 8⟩

/-- Joins a HELLO to those heard: the same address with another hop count is a second package. -/
def Chip.hear (c : Chip) (f : RngFrame) : Chip :=
  let h := helloOf f
  let r := c.rng
  let clash (old : Option Nat) : Bool := match old with | some n => n != h.hops | none => false
  if f.src = c.rngAddr then { c with rng := { r with back := some h.hops, duplicate := r.duplicate || clash r.back } }
  else
    let old := r.heard.find? (·.src == f.src)
    { c with rng := { r with
      heard := if old.isSome then r.heard else r.heard ++ [h]
      duplicate := r.duplicate || clash (old.map (·.hops)) } }

/-- The keeper: the lowest address with KEEPER_OK, and its hop count, 0 for this package. -/
def Chip.keeper (c : Chip) : Option (BitVec 2 × Nat) :=
  let l := (c.rng.heard.filter (·.keeperOk)).map fun h => (h.src, h.hops)
  let l := if c.flag RNG_CFG_KEEPER_OK then (c.rngAddr, 0) :: l else l
  l.foldl (fun b x => match b with | none => some x | some y => if x.1.toNat < y.1.toNat then some x else some y) none

/-- Some subscribed master is published by no package of the ring. -/
def Chip.unpublished (c : Chip) : Bool :=
  let m := c.rng.heard.foldl (fun (m : BitVec 8) h => m ||| h.mask) c.published
  c.subscribed.any fun x => !m.getLsbD x.1

/-- The slotted cycle begins at the wall tick `t`; the cause of RNG_DOWN ends (R356, R361). -/
def Chip.rngBegin (c : Chip) (t : Nat) : Chip :=
  { c with rng := { c.rng with startTick := t, downLive := false, syncTick := c.now + (t - c.wall), slotTick := none } }

/-- The ring is closed: the keeper is chosen; being it, this package measures the ring delay and sends START, which names
the tick at which cycle 0 begins.  Neither value is the spec's to give: both are free. -/
def Chip.closeRing (c : Chip) : Chip :=
  match c.keeper with
  | none => c.rngIdle 3
  | some (a, h) =>
    let c := ((c.put RNG_STAT_KADDR a.toNat).put RNG_STAT_HOPS h).putF RNG_STAT_NOPUB c.unpublished
    if a != c.rngAddr then c
    else
      let c := ((c.put RNG_STAT_KEEPER 1).put RNG_STAT_RT c.freeVal.toNat).useFree
      let t := c.wall + (c.freeVal.truncate 32 : BitVec 32).toNat
      let c := (c.useFree.put RNG_STAT_STATE 2).rngSend (c.rngFrame 2 0 0 (BitVec.ofNat 64 t))
      c.rngBegin t

/-- HELLO_FRAME. -/
def Chip.hello (c : Chip) (f : RngFrame) : Chip :=
  if !c.rngTrains then c
  else
    let c := c.hear f
    let n := c.get RNG_CFG_NPKG
    if c.rng.duplicate then c.rngIdle 1
    else if n < c.rng.heard.length then c.rngIdle 2
    else if c.rng.back == some (n + 1) && c.rng.heard.length == n then c.closeRing
    else c

/-- HELLO_FRAME. -/
def execHelloFrame (f : RngFrame) (s : State) : Out := s.run fun c => c.rngRx 1 f fun c => c.hello f

/-- START_FRAME (R357): a follower in HOUSE loads the keeper's wall tick, corrected by its expected delay, which the spec
does not reduce to the frame: the correction is free.  The load is a jump of TB20. -/
def Chip.startCycle (c : Chip) (f : RngFrame) : Chip :=
  if !c.rngTrains || !c.inHouse || f.src == c.rngAddr then c
  else
    let t := f.payload.toNat
    let w := ((t : Int) + (c.freeVal.truncate 32 : BitVec 32).toInt).toNat
    let c := ((c.useFree.put RNG_STAT_STATE 2).put RNG_STAT_KADDR f.src.toNat).put (CUE_TB_STAT_JUMP 20) 1
    ({ c.jumpNext 20 with wall := w } : Chip).rngBegin t

/-- START_FRAME. -/
def execStartFrame (f : RngFrame) (s : State) : Out := s.run fun c => c.rngRx 2 f fun c => c.startCycle f

/-- SYNC_FRAME (R357, R361): the error in ns stands in RNG_SKEW; the third in a row above 4 ticks takes the link down.  The
keeper's own, back from the ring, is an arrival as well (DEDUCED, log entry 79). -/
def Chip.sync (c : Chip) (f : RngFrame) (err : Int) : Chip :=
  let c : Chip := { c with rng := { c.rng with syncTick := c.now } }
  if !c.rngUp || f.src == c.rngAddr then c
  else
    let n := if 16 < err.natAbs then c.rng.skewRun + 1 else 0
    let c := (c.puts RNG_SKEW_ERR err).put RNG_STAT_RT (f.payload >>> 48).toNat
    let c : Chip := { c with rng := { c.rng with skewRun := n } }
    if 3 ≤ n then c.rngDown 7 else c

/-- SYNC_FRAME. -/
def execSyncFrame (f : RngFrame) (err : Int) (s : State) : Out := s.run fun c => c.rngRx 3 f fun c => c.sync f err

/-- A published value reaches a subscribed timebase, which extrapolates it from the start of its slot, `age` ticks ago (R29,
R359). -/
def Chip.takeMaster (c : Chip) (n : Tb) (v : BitVec 32) (stale : Bool) (age : Nat) : Chip :=
  if stale then c.loseTb n
  else
    let c := (if (c.tb n).lost then c.regainTb n else c).feed n v true
    c.setTb n { c.tb n with ext := (c.tb n).speed * (age : Int) }

/-- POS_FRAME: range masters 2a and 2a + 1 of its sender, this package's own among them (R368). -/
def Chip.pos (c : Chip) (f : RngFrame) : Chip :=
  if !c.rngUp then c
  else c.each c.subscribed fun c x =>
    if x.1 / 2 != f.src.toNat then c
    else c.takeMaster x.2 ((f.payload >>> (32 * (x.1 % 2))).truncate 32) (f.stale.getLsbD (x.1 % 2)) (c.sinceSlot f.slot.toNat)

/-- POS_FRAME. -/
def execPosFrame (f : RngFrame) (s : State) : Out := s.run fun c => c.rngRx 4 f fun c => c.pos f

/-- FAULT_FRAME (R360): one event of RNG_REMOTE with the carried code, for all eight axes. -/
def Chip.remoteFault (c : Chip) (f : RngFrame) : Chip :=
  if !c.rngUp || f.src == c.rngAddr then c
  else c.report 0xFB 1 (f.payload.extractLsb' 8 3).toNat 0xFF false

/-- FAULT_FRAME. -/
def execFaultFrame (f : RngFrame) (s : State) : Out := s.run fun c => c.rngRx 5 f fun c => c.remoteFault f

end Sys2Proof.Machine
end

