-- ==== Sys2Proof/Machine/Admission.lean ====
section
/-! DEFINITION. Admission (R307): every check that fails an image, over the whole configuration that its records left,
with the reason and the item that each failing check names. -/
namespace Sys2Proof.Machine

/-- A check: whether it fails, its reason, the byte address of its item. -/
abbrev Check := Bool × Reason × Nat

/-- A check that fails with RANGE. -/
def rangeIf (b : Bool) (item : Nat) : Check := (b, .range, item)

/-- A value lies outside `lo` to `hi`. -/
def outside (lo hi n : Nat) : Bool := decide (n < lo) || decide (hi < n)

/-! ### Groups before the lock -/

/-- Port `p` lies inside the group of an enabled lead below it (R124). -/
def Chip.inGroup (c : Chip) (p : Port) : Bool :=
  allPorts.any fun q => decide (q.val < p.val) && c.flag (FP_CFG_EN q.val) && decide (p.val < q.val + c.groupSize q)

/-- An enabled group begins at `p`. -/
def Chip.groupAt (c : Chip) (p : Port) : Bool := c.flag (FP_CFG_EN p.val) && c.get (FP_CFG_FUNC p.val) != 0 && !c.inGroup p

/-! ### Single fields (R394) -/

/-- Addresses whose stored word is not judged: the slice settings that the part itself makes (Table 5-1), and the
settings of member ports (R124). -/
def Chip.unjudged (c : Chip) (a : Nat) : Bool :=
  allUDies.any (fun d => SL_CFG (underOf d).val == a) || allPorts.any fun p => FP_CFG p.val == a && c.inGroup p

/-- Every instance of one stated range. -/
def Chip.rangeChecks (c : Chip) (r : RangeRow) : List Check :=
  (List.range r.count).flatMap fun i => (List.range r.count2).map fun j =>
    let a := r.base + i * r.stride + j * r.stride2
    rangeIf (outside r.min r.max (c.get ⟨a, r.hi, r.lo⟩) && !c.unjudged a) a

/-- Timebase fields (Table 2-12). -/
def Chip.tbChecks (c : Chip) : List Check :=
  (List.range 21).flatMap fun n =>
    [rangeIf (c.linear n && (decide (n < 16) || n == 20)) (CUE_TB_CFG n),
      rangeIf (n != 20 && outside 1 0x1FFFFFFF (c.get (CUE_TB_VMAX_VMAX n))) (CUE_TB_VMAX n)]

/-- Periods of the U legs (R74). -/
def Chip.periodChecks (c : Chip) : List Check :=
  allAxes.map fun a =>
    let l := 3 * a.val
    rangeIf (outside 2500 31250 (c.get (LEG_PERIOD_PERIOD l)) ||
      decide (c.get (LEG_PERIOD_PERIOD l) ≤ c.get (LEG_PERIOD_PHASE l))) (LEG_PERIOD l)

/-- Fault sources (R275, R278, R279, R237). -/
def Chip.faultChecks (c : Chip) : List Check :=
  (List.range 0xFC).map fun s =>
    let n := c.get (FLT_CFG_N s)
    rangeIf (c.get (FLT_CFG_CODE s) == 7 || outside 1 65000 (c.get (FLT_CFG_T s)) || n == 0 ||
      (isOvervolt s && c.get (FLT_CFG_CODE s) != 3) || ((isOvervolt s || isChopper s) && decide (1 < n))) (FLT_CFG s)

/-! ### Slices (R98, Tables 5-1, 5-2, 5-19, R121, R122) -/

/-- A slice's close mode, axis and range, as Tables 5-1 and 5-2 permit them, whether it is enabled or not (R98, R394). -/
def Chip.sliceBad (c : Chip) (k : SliceId) : Bool :=
  let close := c.closeMode k
  let ax := c.get (SL_CFG_AXIS k.val)
  !isUnder k &&
    match phaseAxis k with
    | some a => close != 0 || ax != a.val
    | none =>
      if 32 ≤ k.val then close != 3
      else close == 3 || (close == 0 && ax / 4 != k.val / 16) ||
        ((k.val == 14 || k.val == 30) && c.get (SL_CFG_RANGE k.val) != 2)

/-- Of the listed slices, two differ in RANGE. -/
def Chip.rangesDiffer (c : Chip) (l : List SliceId) : Bool :=
  l.any fun k => l.any fun j => c.get (SL_CFG_RANGE k.val) != c.get (SL_CFG_RANGE j.val)

/-- The sine slice of resolver `m`. -/
def sineOf (m : Fin 4) : SliceId := sliceOf (32 + 2 * m.val)
/-- The cosine slice of resolver `m`. -/
def cosineOf (m : Fin 4) : SliceId := sliceOf (33 + 2 * m.val)

/-- Checks of the slices and of the excitation. -/
def Chip.sliceChecks (c : Chip) : List Check :=
  let per := c.get RSV_EXC_PER
  allSlices.map (fun k => rangeIf (c.sliceBad k) (SL_CFG k.val)) ++
    allAxes.map (fun a => rangeIf (c.rangesDiffer (slicesOfAxis a)) (SL_CFG (sliceOfLeg (legOf a 0)).val)) ++
    allAxes.map (fun a => rangeIf (c.axisOn a && !(slicesOfAxis a).all c.sliceOn) (AX_COMCFG a.val)) ++
    (List.finRange 4).map (fun m => rangeIf (c.rangesDiffer [sineOf m, cosineOf m]) (SL_CFG (sineOf m).val)) ++
    allUDies.map (fun d =>
      let k := (underOf d).val
      rangeIf (c.get (US_CFG_CAL_MS k) == 0 || c.get (US_CFG_TOL k) == 0 || outside 10 1000 (c.get (US_CFG_ROUND k))) (US_CFG k)) ++
    [rangeIf (per % 2 == 1) RSV_EXC, rangeIf (decide (per / 2 ≤ c.get RSV_DLY_DELAY)) RSV_EXC,
      rangeIf (!c.flag RSV_EXC_ENA && (List.finRange 4).any fun m => c.sliceOn (sineOf m) || c.sliceOn (cosineOf m)) (SL_CFG 32)]

/-! ### Ports (R125, R126, Table 6-1) -/

/-- A number is a power of two. -/
def isPow2 (n : Nat) : Bool := (List.range 32).any fun i => 2 ^ i == n

/-- CPR breaks the restriction of Table 6-1, or of R140. -/
def Chip.cprBad (c : Chip) (p : Port) : Bool :=
  let n := c.get (FP_CPR_CPR p.val)
  match c.get (FP_CFG_FUNC p.val) with
  | 1 => n % 4 != 0
  | 2 => n % 6 != 0
  | 3 => !isPow2 n
  | _ => false

/-- DEST does not suit the group (R125). -/
def Chip.destBad (c : Chip) (p : Port) : Bool :=
  let d := c.get (FP_CFG_DEST p.val)
  let axis := decide (8 ≤ d) && decide (d < 16)
  let master := decide (16 ≤ d) && decide (d < 20)
  if !(d == 0 || axis || master) then true
  else if c.groupAt p && !c.positionLead p then (if c.leads p 4 && (c.get (FP_CFG_DSUB p.val) == 3 ||
    c.get (FP_CFG_DSUB p.val) == 4) then !axis else d != 0)
  else false

/-- Checks of one port (R126, R140, R153). -/
def Chip.portChecks (c : Chip) (p : Port) : List Check :=
  let f := c.get (FP_CFG_FUNC p.val)
  let emu := c.get (FP_EMU_SRC p.val)
  let own := !c.inGroup p
  [rangeIf (own && c.destBad p) (FP_CFG p.val),
    rangeIf (own && c.flag (FP_CFG_PULL p.val) && !c.flag (FP_CFG_SE p.val)) (FP_CFG p.val),
    rangeIf (own && f == 2 && !c.flag (FP_CFG_SE p.val)) (FP_CFG p.val),
    rangeIf (c.groupAt p && decide (32 < p.val + c.groupSize p)) (FP_CFG p.val),
    rangeIf (c.groupAt p && (allPorts.any fun q => decide (p.val < q.val) && decide (q.val < p.val + c.groupSize p) &&
      c.get (FP_CFG_FUNC q.val) != 0)) (FP_CFG p.val),
    rangeIf (own && c.cprBad p) (FP_CFG p.val),
    rangeIf (outside (if own && f == 2 then 6 else 16) (2 ^ 24) (c.get (FP_CPR_CPR p.val))) (FP_CPR p.val),
    rangeIf (!(decide (emu < 8) || (decide (16 ≤ emu) && decide (emu < 20)))) (FP_EMU p.val)]

/-- The position groups that name destination `d`. -/
def Chip.groupsTo (c : Chip) (d : Nat) : List Port :=
  allPorts.filter fun p => c.groupAt p && c.positionLead p && c.get (FP_CFG_DEST p.val) == d

/-- At most two position groups for an axis, one source for a master (R126). -/
def Chip.crossbarChecks (c : Chip) : List Check :=
  allAxes.map (fun a =>
    let l := c.groupsTo (8 + a.val)
    rangeIf (decide (2 < l.length)) (FP_CFG (l.headD 0).val)) ++
  (List.range 4).map fun m =>
    let l := c.groupsTo (16 + m)
    if c.flag (RNG_SUB_EN m) then rangeIf (!l.isEmpty) (RNG_SUB m)
    else rangeIf (decide (1 < l.length)) (FP_CFG (l.headD 0).val)

/-! ### Axes (R157 to R223) -/

/-- A named source does not suit the axis (R161). -/
def Chip.sourceBad (c : Chip) (a : Axis) (sec : Bool) : Bool :=
  let n := c.srcIdx a sec
  let group (ok : Port → Bool) : Bool := !(c.groupAt (portOf n) && ok (portOf n) && c.get (FP_CFG_DEST n) == 8 + a.val)
  match c.srcType a sec with
  | 1 => group (c.leads · 2)
  | 2 => group (c.leads · 1)
  | 3 => group (c.leads · 3)
  | 4 => decide (3 < n) || !c.flag RSV_EXC_ENA || !c.sliceOn (sineOf (rsvOf n)) || !c.sliceOn (cosineOf (rsvOf n))
  | 6 => group c.pulseLead
  | _ => false

/-- The axis names port group `p`. -/
def Chip.namesPort (c : Chip) (a : Axis) (p : Port) : Bool :=
  [false, true].any fun sec => c.srcIdx a sec == p.val && [1, 2, 3, 6].contains (c.srcType a sec)

/-- Both sources are the same, or both sensorless. -/
def Chip.sameSource (c : Chip) (a : Axis) : Bool :=
  let t := c.srcType a false
  t != 0 && t == c.srcType a true && (t == 5 || c.srcIdx a false == c.srcIdx a true)

/-- The axis names resolver `m`. -/
def Chip.namesRsv (c : Chip) (a : Axis) (m : Nat) : Bool := [false, true].any fun sec => c.srcType a sec == 4 && c.srcIdx a sec == m

/-- A resolver of the axis is named by a higher axis as well. -/
def Chip.rsvShared (c : Chip) (a : Axis) : Bool :=
  (List.range 4).any fun m => c.namesRsv a m && allAxes.any fun b => decide (a.val < b.val) && c.namesRsv b m

/-- A Hall group of the axis has the wrong CPR. -/
def Chip.hallCprBad (c : Chip) (a : Axis) : Bool :=
  [false, true].any fun sec => c.srcType a sec == 1 && c.get (FP_CPR_CPR (c.srcIdx a sec)) != 6 * c.poles a

/-- The six-step bank is too dense for VMAX (R173). SPAN counts half degrees (Table of AX_SOFT), so every side is
multiplied by 720. -/
def Chip.bankDense (c : Chip) (a : Axis) : Bool :=
  let v := 4 * 720 * c.vmax (tbeOf a).val
  let s := c.get (AX_SOFT_SPAN a.val)
  let t := c.get (AX_SOFT_STEPS a.val)
  if s = 0 ∨ t = 0 then decide (120 * 2 ^ 32 < v)
  else decide (s * 2 ^ 32 < v * t) || decide ((120 - s) * 2 ^ 32 < v)

/-- An advance set that is used and not strictly ascending (R192). -/
def Chip.advBad (c : Chip) (a : Axis) (s : Nat) : Bool :=
  let at' (i : Nat) := AX_ADV a.val (32 * s + i)
  (List.range 32).any (fun i => c.reg (at' i) != 0) &&
    (List.range 31).any fun i => decide (c.get (AX_ADV_FREQ a.val (32 * s + i + 1)) ≤ c.get (AX_ADV_FREQ a.val (32 * s + i)))

/-- The curve's X do not rise strictly (R206). -/
def Chip.curveBad (c : Chip) (a : Axis) : Bool :=
  (List.range 31).any fun i => decide (c.get (AX_CRV_X a.val (i + 1)) ≤ c.get (AX_CRV_X a.val i))

/-- The curve's input names no channel of Table 8-2, or a disabled one, whether the curve is defined or not (R248, R394). -/
def Chip.inputRange (c : Chip) (a : Axis) : Bool :=
  let i := c.get (AX_CRVCFG_IDX a.val)
  c.get (AX_CRVCFG_SRC a.val) == 2 && (decide (27 < i) || !c.channelOk i)

/-- The input of a defined curve is no valid source (R206, Table 8-2). -/
def Chip.inputBad (c : Chip) (a : Axis) : Bool :=
  let i := c.get (AX_CRVCFG_IDX a.val)
  match c.get (AX_CRVCFG_SRC a.val) with
  | 3 => !(c.groupAt (portOf i) && c.leads (portOf i) 4 && c.get (FP_CFG_DSUB i) == 1)
  | _ => false

/-- Checks of one axis. -/
def Chip.axisChecks (c : Chip) (a : Axis) : List Check :=
  let n := a.val
  let free := c.hasSensorless a
  [rangeIf (c.axisOn a && c.srcType a false == 0) (AX_COMCFG n), rangeIf (c.sameSource a) (AX_SRC n),
    rangeIf (c.sourceBad a false || c.sourceBad a true) (AX_SRC n),
    rangeIf ((c.groupsTo (8 + n)).any fun p => !c.namesPort a p) (AX_SRC n), rangeIf (c.rsvShared a) (AX_SRC n),
    rangeIf (c.hallCprBad a) (AX_COMCFG n), rangeIf (c.poles a % (c.get (AX_SRC_RSVPP n) + 1) != 0) (AX_COMCFG n),
    rangeIf (free && (c.get (AX_MOTOR_RS n) == 0 || c.get (AX_MOTOR_LS n) == 0 || c.get (AX_MOTOR2_KE n) == 0)) (AX_SRC n),
    rangeIf (decide (c.get (AX_REV_REV_SPEED n) ≤ 16 * c.get (AX_CATCH_REST n))) (AX_CATCH n),
    rangeIf (decide (c.get (AX_OLS_FMAX n) < c.get (AX_OLS_F0 n))) (AX_OLS n),
    rangeIf (decide (960 * c.get (AX_OLS_FMAX n) < c.get (AX_BEMF_QUAL_SPEED n) * c.poles a)) (AX_COMCFG n),
    rangeIf (c.advBad a 0) (AX_ADV n 0), rangeIf (c.advBad a 1) (AX_ADV n 32),
    (c.axisOn a && !c.flag (AX_COMCFG_WAVE n) && c.bankDense a, .density, AX_COMCFG n),
    rangeIf (c.get (AX_CFG_OWNER n) == 2 && !c.flag (AX_CRVCFG_EN n)) (AX_CFG n),
    rangeIf (c.inputRange a) (AX_CRVCFG n),
    rangeIf (c.flag (AX_CRVCFG_EN n) && (c.curveBad a || c.inputBad a)) (AX_CRVCFG n),
    rangeIf (c.get (AX_CRVTH_XOFF n) == 0 || decide (c.get (AX_CRVTH_XON n) ≤ c.get (AX_CRVTH_XOFF n))) (AX_CRVTH n)]

/-! ### Regions (R65, R227, R230, R248) -/

/-- The gaps of the cascade, in 0.1 V (R230). -/
def Chip.cascadeBad (c : Chip) (r : Region) : Bool :=
  let v (f : Field) := 5 * c.get f
  let h := max 1 (2 * c.get (BUS_CFG_HYST r.val))
  let uv := v (BUS_VTH_V_UV r.val)
  let ch := v (BUS_VTH_V_CHOP r.val)
  let cut := v (BUS_VTH_V_REGEN_CUT r.val)
  let asc := v (BUS_VTH_V_ASC r.val)
  decide (uv < 100) || decide (950 < asc) || decide (ch < uv + h) || decide (cut < ch + h) || decide (asc < cut + h)

/-- The two bus slices differ where they must agree (R227). -/
def Chip.busPairBad (c : Chip) (r : Region) : Bool :=
  let i := (currSlice r)
  let v := (voltSlice r)
  c.sliceOn i && c.sliceOn v &&
    (c.closeMode i != c.closeMode v || c.get (SL_CFG_AXIS i.val) != c.get (SL_CFG_AXIS v.val) ||
      c.get (SL_WLEN_WLEN i.val) != c.get (SL_WLEN_WLEN v.val))

/-- The load with every enabled axis in OFF (R65). -/
def Chip.offLoad (c : Chip) (e : Region) : Nat × Nat := c.loadWith e fun _ => 0

/-- Checks of one region. -/
def Chip.regionChecks (c : Chip) (r : Region) : List Check :=
  let n := r.val
  let driver := c.flag (BUS_CHOP_EN n) || c.flag (BUS_ADM_EN n)
  [rangeIf (!c.sliceOn (voltSlice r) && (driver || (axesOfRegion r).any c.axisOn)) (AX_COMCFG (4 * n)),
    rangeIf (!c.sliceOn (currSlice r) && driver) (SL_CFG (currSlice r).val),
    rangeIf (c.busPairBad r) (SL_CFG (currSlice r).val), rangeIf (c.cascadeBad r) (BUS_VTH n),
    rangeIf (!c.channelOk (c.get (BUS_ADM_PACKCH n)) && (c.flag (BUS_ADM_EN n) || c.flag (BUS_ADM_PACKCH n))) (BUS_ADM n),
    (overBudget (c.offLoad r), .budget, FE_RESV n)]

/-! ### Housekeeping (R248, R257, R258, R263) -/

/-- The sensors of a converter do not fit 1 ms when all are HOT (R257). -/
def Chip.adaptiveBad (c : Chip) (n : Region) : Bool :=
  let l := allSensors.filter fun s => c.sensorOn s && c.channelOk (channelOf s) && c.convOf (channelOf s) == n
  decide (250000 < (l.map fun s => c.hkWindow (channelOf s) + 1250).sum)

/-- A sensor's limits (R263, Table 10-10). -/
def Chip.sensorChecks (c : Chip) (s : Sensor) : List Check :=
  let n := s.val
  [rangeIf (c.sensorOn s && (decide (c.get (TMP_LIM_TSTOP n) ≤ c.get (TMP_LIM_TSTART n)) ||
      decide (c.get (TMP_LIM_TSD n) < c.get (TMP_LIM_TSTOP n)))) (HK_TMP_TYPE n),
    rangeIf (decide (12 ≤ n) && decide (195 < c.get (TMP_LIM_TSD n))) (TMP_LIM n),
    rangeIf (decide (12 ≤ n) && c.flag (HK_TMP_TYPE_KIND n)) (HK_TMP_TYPE n)]

/-- A setting names a channel that does not exist, or a disabled one (R248); one that the image has left at its reset value
names it only where `used` (log entry 57). -/
def Chip.channelBad (c : Chip) (ch reset : Nat) (used : Bool) : Bool :=
  !isChannel ch || (!c.channelOk ch && (used || ch != reset))

/-- A window monitor's limits (R266). -/
def Chip.wmChecks (c : Chip) : List Check :=
  (List.range 8).map fun m => rangeIf (decide (c.get (WM_THR_HI m) ≤ c.get (WM_THR_LO m))) (WM_THR m)

/-- Checks of the converters, their channels and the cross-check. -/
def Chip.hkChecks (c : Chip) : List Check :=
  let x := c.get HK_MODE_XCH
  [rangeIf (isChannel x && c.flag (HK_CH_WMODE x)) HK_MODE,
    rangeIf (c.channelBad x 0x2C ((List.range 46).any fun ch => c.flag (HK_CH_EN ch))) HK_MODE,
    (c.flag HK_MODE_MODE && (c.adaptiveBad 0 || c.adaptiveBad 1), .budget, HK_MODE)] ++
  bothConv.map (fun n => rangeIf (c.channelBad (c.hkSel n) 0 false) (HK_SEL n.val)) ++
  [28, 29, 30, 31].map (fun ch => rangeIf (c.flag (HK_CH_EN ch)) (HK_CH ch)) ++ allSensors.flatMap c.sensorChecks

/-! ### CAN (R345) and cues (R37) -/

/-- The runtime set (R308) as KIND 1 may name it: a cue word, or a register with a field that a WRITE may reach. -/
def runtimeSet (a : Nat) : Bool :=
  match findRow a with
  | some r => r.rw != 0 || r.wo != 0 || r.w1c != 0
  | none => false

/-- Checks of one acceptance entry. -/
def Chip.canChecks (c : Chip) (k : Nat) : List Check :=
  let kind := c.get (CAN_ACC_W0_KIND k)
  [rangeIf (kind == 2 && !c.flag (CAN_ACC_W2_RPLY k)) (CAN_ACC_W0 k),
    rangeIf (kind == 1 && !runtimeSet (c.get (CAN_ACC_W3_TARGET k))) (CAN_ACC_W0 k)]

/-- The STATE check of R37: a port action names an output port. -/
def Chip.cueChecks (c : Chip) : List Check :=
  c.cues.sheet.map fun x =>
    (decide (1 ≤ cueAction x.2) && decide (cueAction x.2 ≤ 3) && !c.portIsOut (cueArg x.2 % 32), .state, 0x100000 + 8 * x.1)

/-! ### The verdict (R307) -/

/-- Every check. -/
def Chip.checks (c : Chip) : List Check :=
  rangeRows.flatMap c.rangeChecks ++ c.tbChecks ++ c.periodChecks ++ c.faultChecks ++ c.sliceChecks ++
    allPorts.flatMap c.portChecks ++ c.crossbarChecks ++ allAxes.flatMap c.axisChecks ++
    allRegions.flatMap c.regionChecks ++ c.hkChecks ++ c.wmChecks ++ (List.range 64).flatMap c.canChecks ++ c.cueChecks

/-- Of two failures, the one that is reported: the lower code, then the lower item. -/
def worse (b : Option (Reason × Nat)) (x : Check) : Option (Reason × Nat) :=
  if !x.1 then b
  else match b with
    | none => some x.2
    | some y =>
      if x.2.1.toNat < y.1.toNat ∨ (x.2.1.toNat = y.1.toNat ∧ x.2.2 < y.2) then some x.2 else some y

/-- The failure that admission reports, none when the image is admitted. -/
def Chip.admission (c : Chip) : Option (Reason × Nat) := c.checks.foldl worse none

/-- FE_RESV holds the load that admission computed (R65), in whole kcycles/s: the floor of a load that is not a whole number
is the model's choice (DESIGN CHOICE, log entry 24). -/
def Chip.showResv (c : Chip) : Chip :=
  c.each allRegions fun c e => c.put (FE_RESV_RESV e.val) (min ((c.offLoad e).1 / (c.offLoad e).2) 0x7FFFF)

end Sys2Proof.Machine
end

