-- ==== Sys2Proof/Machine/Startup.lean ====
section
/-! DEFINITION. The start sequence (12_start_lifecycle.md, R297 to R300, R308, R309; 14_links.md, R350 to R352): what a
start resets, the steps up to the image, the lock, the entry into HOUSE, and the end of a failed load. -/
namespace Sys2Proof.Machine

/-! ### Entry into HOUSE (R298, R334) -/

/-- The records of an entry into HOUSE: LOSS when the last boot ended unannounced, then START. -/
def Chip.startRecords (c : Chip) : Chip :=
  let c := match c.nvc.loss with
    | none => c
    | some (boot, t) => { (c.put LOG_STATUS_LOSS 1).logArise 2 boot t 0 with
        nvc := { ((c.put LOG_STATUS_LOSS 1).logArise 2 boot t 0).nvc with loss := none } }
  c.logArise 1 (c.reg SYS_IMGSTAT) (c.reg SYS_IMGID) (c.reg SYS_STATUS)

/-- What every entry into HOUSE begins: marks, rounds and sensors anew (R255, R256, R264), with what a sensor's lost reading
brings about (R265), and the training of the range link (R356). -/
def Chip.enterHouse (c : Chip) : Chip := (c.houseAnew.shutdownActs c).rngHouse

/-- Step 9: the sequence ends in HOUSE. -/
def Chip.intoHouse (c : Chip) : Chip :=
  let c : Chip := { c with load := { c.load with stage := .done, header := none, cur := none, bytes := [], body := [] } }
  (((c.put SYS_STATUS_PSTATE 1).put SYS_STATUS_BOOT 0).put SYS_BOOTT_TICKS (c.now - c.load.since)).enterHouse.startRecords

/-! ### Failure (R309) -/

/-- An image-writable register (R304, R375). -/
def imageWritable (a : Nat) : Bool :=
  match findRow a with
  | some r => r.lk != 0 || r.rw != 0
  | none => false

/-- The memories of R300 that a load has filled; the legs float (R78). -/
def Chip.wipe (c : Chip) : Chip :=
  let c := c.each allLegs Chip.legWipe
  { c with
    cues := { c.cues with sheet := [], disarmed := [] }
    axes := Vector.replicate 8 {}
    engines := Vector.replicate 2 none
    load := { c.load with fail := none, cueSeen := false, hold := 0, sect := 0, due := 0, retries := 0 } }

/-- The memories are wiped again and every image-writable register returns to its reset value; FE_RESV is none. -/
def Chip.undoLoad (c : Chip) : Chip :=
  let c : Chip := { c with regs := c.regs.filter fun x => !imageWritable x.1 }
  (c.wipe.setTrims).disarmMonitors

/-- The load stops: what failed is named, what it wrote is undone, and the part enters HOUSE unconfigured. -/
def Chip.stopLoad (c : Chip) (cause : Nat) (r : Reason) (at' : Nat) : Chip :=
  let c := c.setReg SYS_IMGSTAT (packFields
    [(SYS_IMGSTAT_CAUSE, cause), (SYS_IMGSTAT_REASON, r.toNat), (SYS_IMGSTAT_SECT, if cause = 5 ∨ cause = 7 then 0 else c.load.sect)])
  (c.put SYS_IMGAT_AT at').undoLoad.intoHouse

/-! ### The NVM port setting (R350, Table 14-3) -/

/-- OTP word 960 when it is used: VALID, and neither marginal nor uncorrectable. -/
def Chip.nvmSetting (c : Chip) : Option Word :=
  let w := c.reg (OTP_WORD 960)
  if w.getLsbD 31 && !(c.get (OTP_WSTAT_DOUBT 30)).testBit 0 then some w else none

/-- The setting names I²C. -/
def namesI2c (w : Word) : Bool := w.getLsbD 30

/-- The setting stops the load with CAUSE 1: dual output without fast read, or the reserved I²C rate. -/
def settingBad (w : Word) : Bool :=
  if namesI2c w then (w >>> 23).toNat % 4 == 3 else w.getLsbD 27 && !w.getLsbD 29

/-- Step 4 begins: the image is awaited, unless the life-cycle state or the port setting stops the sequence. -/
def Chip.beginLoad (c : Chip) : Chip :=
  if c.inStrike then c.stopLoad 8 .ok 0
  else match c.nvmSetting with
    | some w => if settingBad w then c.stopLoad 1 .ok 0 else c
    | none => c

/-! ### The sequence (R297, Table 12-1) -/

/-- The injections that a start leaves armed: that of the image CRC, after RESET and RELOAD only (R293). -/
def Chip.keptInjection (c : Chip) (keep : Bool) : Vector (Option Nat) 4 :=
  (Vector.replicate 4 none).set 3 (if keep then c.faults.inj[3] else none)

/-- FLT_INJS shows what is armed. -/
def Chip.setInjections (c : Chip) (v : Vector (Option Nat) 4) : Chip :=
  { c.put FLT_INJS_ARMED (if v[3].isSome then 8 else 0) with faults := { c.faults with inj := v } }

/-- What a reset leaves of a leg: all gates are off, and what the gate-sense comparators see is the world's (R79). -/
def LegState.anew (x : LegState) : LegState := { ghBelow := x.ghBelow, glBelow := x.glBelow }

/-- Step 1 of every start but a reload: all registers at their reset words, everything volatile wiped, the wall tick and
the ledgers at 0; the pending records survive and are written when they may be (R300, R335). -/
def Chip.restart (c : Chip) (rcause : Nat) (keep : Bool) : Chip :=
  let n : Chip := {
    free := c.free
    legs := c.legs.map LegState.anew
    load := { stage := .loading }
    hp := { c.hp with frames := 0 }
    nvc := { pending := c.nvc.pending, lost := c.nvc.lost } }
  let n := (n.put SYS_STATUS_RCAUSE rcause).setInjections (c.keptInjection keep)
  let n := (n.putF LOG_STATUS_HOLD (c.flag LOG_STATUS_HOLD)).put LOG_STATUS_PENDING n.nvc.pending.length
  if n.flag LOG_STATUS_HOLD then n else n.unholdRecords

/-- Steps 1 to 4. -/
def State.start (s : State) (rcause : Nat) (keep : Bool) (reads : List OtpRead) : State :=
  let c := ((s.chip.restart rcause keep).readFuses s.nv reads).scanLog s.nv
  { s with chip := (c.applyPatches.takeTrims).beginLoad }

/-- NRESET_RISE. -/
def State.nresetRise (s : State) (reads : List OtpRead) : State :=
  if s.chip.load.stage == .held then s.start 0 false reads else s

/-- NRESET_RISE. -/
def execNresetRise (reads : List OtpRead) (s : State) : Out := .next (s.nresetRise reads)

/-- NRESET_FALL (R297): everything stops; gates are off, output ports are at high impedance, and the volatile state is
held in reset. -/
def Chip.nresetFall (c : Chip) : Chip :=
  { free := c.free
    legs := c.legs.map LegState.anew
    ports := Vector.replicate 32 { hiZ := true }
    nvc := { pending := c.nvc.pending, lost := c.nvc.lost } }

/-- NRESET_FALL. -/
def execNresetFall (s : State) : Out := s.run Chip.nresetFall

/-! ### RESET (R297, R337) -/

/-- Refusals of SYS_CMD. -/
def Chip.resetConds (c : Chip) : List (Bool × Reason) :=
  [(c.flag SYS_STATUS_LOG_BUSY, .busy), (c.nvc.op.isSome, .busy)]

/-- LOG_BUSY of an orderly checkpoint, in both places that show it. -/
def Chip.logBusy (c : Chip) (b : Bool) : Chip := (c.putF SYS_STATUS_LOG_BUSY b).putF LOG_STATUS_BUSY b

/-- An orderly checkpoint is requested for `cause`: it is taken at once, or waits for the window of R335. -/
def State.orderlyRequest (s : State) (cause : Nat) (reads : List OtpRead) : State :=
  let c := s.chip.logBusy true
  { s with chip := { c with nvc := { c.nvc with orderly := some cause, reads := reads } } }

/-- The orderly checkpoint runs (R337); that of RESET is followed by the start sequence. -/
def State.orderlyCheckpoint (s : State) : State :=
  match s.chip.nvc.orderly with
  | none => s
  | some cause =>
    if !s.chip.mayLog then s
    else
      let reads := s.chip.nvc.reads
      let t := s.closeBook cause
      if cause = 1 then t.start 1 true reads else t

/-- ORDERLY_CHECKPOINT. -/
def execOrderlyCheckpoint (s : State) : Out := .next s.orderlyCheckpoint

/-- An accepted SYS_CMD.RESET. -/
def State.reset1 (s : State) (reads : List OtpRead) : State := (s.orderlyRequest 1 reads).orderlyCheckpoint

/-- A request whose effect reaches the fuses or the logbook: judged and answered as `Chip.ask` does. -/
def State.judged (s : State) (p : Path) (inDark : Bool) (conds : Chip → List (Bool × Reason)) (f : State → State) : State :=
  let c := s.chip
  if !c.carries p then s
  else
    let own := judge (conds c)
    let r := if c.gate inDark = .ok then own else (c.gate inDark).under own
    let t := if r = .ok then f s else s
    { t with chip := t.chip.answer p r }

/-- RESET. -/
def execReset (p : Path) (reads : List OtpRead) (s : State) : Out :=
  .next (s.judged p false Chip.resetConds fun s => s.reset1 reads)

/-! ### RELOAD (R310) -/

/-- An accepted reload: step 1 without the registers, then step 4 on; the host frame that carries it ends after its start
(R340). -/
def Chip.reloadNow (p : Path) (c : Chip) : Chip :=
  let c := (c.wipe.setInjections (c.keptInjection true)).setTrims
  let c : Chip := { c with
    load := { c.load with stage := .loading, since := c.now, header := none, cur := none, bytes := [], body := [] }
    hp := { c.hp with frames := if p = .host then 1 else 0 } }
  ((c.put SYS_STATUS_BOOT 1).put SYS_STATUS_RCAUSE 3).beginLoad

/-- RELOAD: outside HOUSE, with an admitted image, or in STRIKE, it is refused with STATE. -/
def Chip.reload (p : Path) (c : Chip) : Judged :=
  c.request [(!c.inHouse || c.cfgOk || c.inStrike || c.booting, .state), (c.nvc.op.isSome, .busy)] (Chip.reloadNow p)

/-- RELOAD. -/
def execReload (p : Path) (s : State) : Out := s.ask p (Chip.reload p)

end Sys2Proof.Machine
end

