-- ==== Sys2Proof/Machine/Image.lean ====
section
/-! DEFINITION. The Breken image (12_start_lifecycle.md, R301 to R308): header, sections, records, the tag, and the lock
of an admitted image. -/
namespace Sys2Proof.Machine

/-! ### Bytes as they arrive -/

/-- Bytes of the image arrive, inside a section's body or outside one. -/
def LoadState.take (l : LoadState) (body : Bool) (bs : List Byte) : LoadState :=
  { l with bytes := bs.reverse ++ l.bytes, body := if body then bs.reverse ++ l.body else l.body }

/-- The header's bytes but for HCRC (Table 12-3). -/
def headerFront (h : Header) : List Byte :=
  bytesOf 4 h.magic.toNat ++ bytesOf 2 h.format.toNat ++ bytesOf 2 h.nsect.toNat ++ bytesOf 4 h.length.toNat ++
    bytesOf 4 h.device.toNat ++ bytesOf 4 h.flags.toNat ++ bytesOf 4 h.serial.toNat ++ bytesOf 4 h.reserved.toNat

/-- FLAGS.TAGGED. -/
def headerTagged (h : Header) : Bool := h.flags.getLsbD 0

/-- Where the last section must end (R302). -/
def headerStop (h : Header) : Nat := h.length.toNat - (if headerTagged h then 32 else 0)

/-- A section header's bytes but for SCRC (Table 12-4). -/
def sectionFront (h : Section) : List Byte :=
  bytesOf 1 h.type.toNat ++ bytesOf 1 h.resv.toNat ++ bytesOf 2 h.count.toNat ++ bytesOf 4 h.len.toNat ++ bytesOf 4 h.resv2.toNat

/-! ### IMAGE_HEADER (R301, Table 12-3) -/

/-- The header's fields break a rule of Table 12-3 (CAUSE 2). -/
def headerBad (h : Header) : Bool :=
  h.magic != 0x4E4B5242 || h.format != 1 || outside 1 256 h.nsect.toNat || h.length.toNat % 4 != 0 ||
    decide (524288 < h.length.toNat) || (h.flags >>> 2) != 0 || h.reserved != 0

/-- DEVICE does not match SYS_ID (CAUSE 3). -/
def Chip.wrongDevice (c : Chip) (h : Header) : Bool :=
  let id := c.reg SYS_ID
  (h.device >>> 8) != (id >>> 8) || decide (id.toNat % 256 < h.device.toNat % 256)

/-- The image needs more block bits than the I²C setting gives (R352, CAUSE 4). -/
def Chip.tooLong (c : Chip) (h : Header) : Bool :=
  match c.nvmSetting with
  | some w => namesI2c w && decide (2 ^ (16 + (w >>> 14).toNat % 4) < h.length.toNat)
  | none => false

/-- The header arrives and is checked; it is the first section check of the load (R303, Table 11-6). -/
def Chip.imageHeader (c : Chip) (h : Header) : Chip :=
  if c.load.stage != .loading || c.load.header.isSome then c
  else
    let bs := headerFront h ++ bytesOf 4 h.hcrc.toNat
    let c : Chip := { c with load := { c.load.take false bs with header := some h, sect := 0 } }
    if c.injected 3 0 then ((c.disarm 3).report 0xF1 1 0 0 true).stopLoad 2 .ok 0
    else if crc32 (headerFront h) != h.hcrc then (c.raise 0xF1).stopLoad 2 .ok 0
    else if headerBad h then c.stopLoad 2 .ok 0
    else if c.wrongDevice h then c.stopLoad 3 .ok 0
    else if c.tooLong h then c.stopLoad 4 .ok 0
    else c

/-- IMAGE_HEADER. -/
def execImageHeader (h : Header) (s : State) : Out := s.run fun c => c.imageHeader h

/-! ### SECTION_HEADER (R302, R305) -/

/-- Bytes of one record of a section. -/
def recordSize (type : Byte) : Nat := if type = 1 then 8 else if type = 2 then 12 else 0

/-- The section header breaks a rule of R302. -/
def sectionBad (h : Section) (pos stop : Nat) : Bool :=
  !(h.type == 1 || h.type == 2 || h.type == 3) || h.resv != 0 || h.resv2 != 0 || h.len.toNat % 4 != 0 ||
    (h.type != 3 && h.len.toNat != h.count.toNat * recordSize h.type) || decide (stop < pos + 16 + h.len.toNat)

/-- A section header arrives; a register section after a cue section fails at its end (R303, R305). -/
def Chip.sectionHeader (c : Chip) (h : Section) : Chip :=
  match c.load.header with
  | none => c
  | some hd =>
    if c.load.stage != .loading || c.load.cur.isSome || hd.nsect.toNat ≤ c.load.sect then c
    else
      let bad := sectionBad h c.load.bytes.length (headerStop hd)
      let l := c.load.take false (sectionFront h ++ bytesOf 4 h.scrc.toNat)
      let c : Chip := { c with load := { l with
        sect := l.sect + 1, cur := some h, due := if h.type = 3 then 0 else h.count.toNat, body := []
        cueSeen := l.cueSeen || h.type == 2
        fail := if h.type = 1 ∧ l.cueSeen = true then some (.state, 0) else none } }
      if bad then c.stopLoad 4 .ok 0 else c

/-- SECTION_HEADER. -/
def execSectionHeader (h : Section) (s : State) : Out := s.run fun c => c.sectionHeader h

/-! ### Records (R304, R305) -/

/-- A record of a section of type `type` arrives: its bytes count for the CRC, and it takes effect unless the section has
failed already (R303). -/
def Chip.record (c : Chip) (type : Byte) (bs : List Byte) (eff : Chip → Chip) : Chip :=
  match c.load.cur with
  | none => c
  | some h =>
    if c.load.stage != .loading || h.type != type || c.load.due == 0 then c
    else
      let c : Chip := { c with load := { c.load.take true bs with due := c.load.due - 1 } }
      if c.load.fail.isSome then c else eff c

/-- The section has failed. -/
def Chip.recordFails (c : Chip) (r : Reason) (at' : Nat) : Chip := { c with load := { c.load with fail := some (r, at') } }

/-- A cue record is judged under R34 to R37 and R52; the STATE check of R37 is left to admission. -/
def Chip.loadCue (c : Chip) (k : Nat) (w : BitVec 64) : Chip :=
  let r := judge [(cueShapeBad w, .range), (!cueShapeBad w && (c.neighbour k w).isSome, .density)]
  if r = .ok then c.setCue k w else c.recordFails r (0x100000 + 8 * k)

/-- An instance whose write changes nothing although its row is writable (R373): the period of a V or W leg, US_CFG outside
the understudies, FLT_CFG of a reserved source, VMAX of TB20. -/
def deadWrite (a : Nat) : Bool :=
  (List.range 24).any (fun l => l % 3 != 0 && LEG_PERIOD l == a) ||
    (List.range 41).any (fun k => !isUnder (sliceOf k) && US_CFG k == a) ||
    [0xFC, 0xFD, 0xFE, 0xFF].any (fun s => FLT_CFG s == a) || CUE_TB_VMAX 20 == a

/-- The register that an address names: CMP_GAIN is AX_SPDPI (R209). -/
def homeOf (a : Nat) : Nat :=
  match allAxes.find? fun x => CMP_GAIN x.val == a with
  | some x => AX_SPDPI x.val
  | none => a

/-- The address of a cue entry's word: its index and whether it is the upper word (R34). -/
def cueWord (a : Nat) : Option (Nat × Bool) :=
  if 0x100000 ≤ a ∧ a < 0x120000 ∧ a % 4 = 0 then some ((a - 0x100000) / 8, (a - 0x100000) % 8 == 4) else none

/-- A register record writes the LK and RW fields of its register (R4, R9). -/
def Chip.loadReg (c : Chip) (a : Nat) (data : Word) : Chip :=
  match cueWord a, findRow (homeOf a) with
  | some (k, true), _ => c.loadCue k (data ++ c.load.hold)
  | some (_, false), _ => { c with load := { c.load with hold := data } }
  | none, some r => if deadWrite a then c else c.writeMask (homeOf a) (BitVec.ofNat 32 (r.lk ||| r.rw)) data
  | none, none => c

/-- REGISTER_RECORD: outside the image-writable set it is an access error and fails the section with RANGE. -/
def Chip.registerRecord (c : Chip) (addr data : Word) : Chip :=
  c.record 1 (bytesOf 4 addr.toNat ++ bytesOf 4 data.toNat) fun c =>
    let a := addr.toNat % 2 ^ 24
    if 2 ^ 24 ≤ addr.toNat ∨ imageWritable a = false then
      (c.accessError 2 true (if a % 4 = 0 then 3 else 1) a).recordFails .range a
    else c.loadReg a data

/-- REGISTER_RECORD. -/
def execRegisterRecord (addr data : Word) (s : State) : Out := s.run fun c => c.registerRecord addr data

/-- CUE_RECORD. -/
def Chip.cueRecord (c : Chip) (index lower upper : Word) : Chip :=
  c.record 2 (bytesOf 4 index.toNat ++ bytesOf 4 lower.toNat ++ bytesOf 4 upper.toNat) fun c =>
    let k := index.toNat % 16384
    if 16384 ≤ index.toNat then c.recordFails .range (0x100000 + 8 * k) else c.loadCue k (upper ++ lower)

/-- CUE_RECORD. -/
def execCueRecord (index lower upper : Word) (s : State) : Out := s.run fun c => c.cueRecord index lower upper

/-! ### SECTION_END (R303) -/

/-- The last byte of a section: its CRC, then a failure of its records, then the place of the last section's end. -/
def Chip.sectionEnd (c : Chip) (fill : List Byte) : Chip :=
  match c.load.header, c.load.cur with
  | some hd, some h =>
    if c.load.stage != .loading || c.load.due != 0 || fill.length != (if h.type = 3 then h.len.toNat else 0) then c
    else
      let c : Chip := { c with load := c.load.take true fill }
      if crc32 (sectionFront h ++ c.load.body.reverse) != h.scrc then (c.raise 0xF1).stopLoad 4 .ok 0
      else match c.load.fail with
        | some (r, at') => c.stopLoad 6 r at'
        | none =>
          if c.load.sect = hd.nsect.toNat ∧ c.load.bytes.length ≠ (headerStop hd) then c.stopLoad 4 .ok 0
          else { c with load := { c.load with cur := none, body := [] } }
  | _, _ => c

/-- SECTION_END. -/
def execSectionEnd (fill : List Byte) (s : State) : Out := s.run fun c => c.sectionEnd fill

/-! ### The lock (R308) -/

/-- The members of each group take the lead's FUNC, their ROLE and the lead (R124). -/
def Chip.setGroups (c : Chip) : Chip :=
  (allPorts.filter c.groupAt).foldl (fun c p =>
    (c.put (FP_CFG_LEAD p.val) p.val).each ((List.range (c.groupSize p)).drop 1) fun c i =>
      let q := p.val + i
      c.setReg (FP_CFG q) (packFields
        [(FP_CFG_FUNC q, c.get (FP_CFG_FUNC p.val)), (FP_CFG_ROLE q, i), (FP_CFG_LEAD q, p.val)])) c

/-- What axis `a` takes from its configuration: the advance set (R193). -/
def Chip.lockAxis (c : Chip) (a : Axis) : Chip :=
  let set := c.flag (AX_ADVCFG_SET0 a.val)
  (c.putF (AX_ADVCFG_LIVE a.val) set).setAxis a { c.axis a with advSel := set }

/-- Steps 8 and 9 of an admitted image: the configuration locks, what it configures begins (R33, R84, R127, R130, R234,
R255, R267, R344, R356), and the part enters HOUSE. -/
def Chip.lockImage (c : Chip) (hd : Header) : Chip :=
  let c := ((c.setReg SYS_IMGSTAT 0).setReg SYS_IMGAT 0).setReg SYS_IMGID hd.serial
  let c : Chip := { c.put SYS_STATUS_CFG_OK 1 with load := { c.load with strikeOk := hd.flags.getLsbD 1 } }
  let c := c.setGroups
  let c := c.each (allPorts.filter c.inputLead) Chip.beginGroup
  let c := (c.each allAxes Chip.lockAxis).each allLegs Chip.baseSlew
  let c := (c.each (List.range 20) fun c n => c.put (CUE_TB_STAT_STALE n) 1).each allRegions Chip.restoreCut
  let c := if c.flag CAN_CFG_EN then c.put CAN_STAT_STATE 0 else c
  c.disarmMonitors.intoHouse

/-- The tag does not satisfy R306. -/
def Chip.tagBad (c : Chip) (hd : Header) (tag : List Byte) : Bool :=
  c.keyHeld && (!headerTagged hd || c.load.keyDead ||
    hmacSha256 (c.keyWords.flatMap fun w => bytesOf 4 w.toNat) c.load.bytes.reverse != tag)

/-- IMAGE_END: the tag, then admission, then the lock. -/
def Chip.imageEnd (c : Chip) (tag : List Byte) : Chip :=
  match c.load.header with
  | none => c
  | some hd =>
    if c.load.stage != .loading || c.load.cur.isSome || c.load.sect != hd.nsect.toNat ||
      tag.length != (if headerTagged hd then 32 else 0) then c
    else if c.tagBad hd tag then (c.raise 0xF1).stopLoad 5 .auth 0
    else
      let c := c.showResv
      match c.admission with
      | some (r, at') => c.stopLoad 7 r at'
      | none => c.lockImage hd

/-- IMAGE_END. -/
def execImageEnd (tag : List Byte) (s : State) : Out := s.run fun c => c.imageEnd tag

/-! ### I2C_ADDRESS_RETRY (R352) -/

/-- A retry of the device address: the third without an answer stops the load; the row does not arise on an SPI port. -/
def Chip.i2cRetry (c : Chip) (acked : Bool) : Chip :=
  let spi := match c.nvmSetting with | some w => !namesI2c w | none => false
  if c.load.stage != .loading || spi then c
  else if acked then { c with load := { c.load with retries := 0 } }
  else if 3 ≤ c.load.retries + 1 then c.stopLoad 1 .ok 0
  else { c with load := { c.load with retries := c.load.retries + 1 } }

/-- I2C_ADDRESS_RETRY. -/
def execI2cAddressRetry (acked : Bool) (s : State) : Out := s.run fun c => c.i2cRetry acked

end Sys2Proof.Machine
end

