-- ==== Sys2Proof/Machine/Power.lean ====
section
/-! DEFINITION. Power states and the life-cycle (12_start_lifecycle.md, R311 to R320): SYS_PWR requests, entry into DARK and
the return from it, and a life-cycle change. -/
namespace Sys2Proof.Machine

/-! ### Judging SYS_PWR (R311, R361, Table 12-6) -/

/-- The present power state, by its code. -/
def Chip.pstate (c : Chip) : Nat := c.get SYS_STATUS_PSTATE

/-- A transition accepted earlier, a checkpoint of a reset or of a life-cycle change, or an OTP operation is under way. -/
def Chip.pwrBusy (c : Chip) : Bool :=
  c.pwrDue.isSome || c.flag SYS_STATUS_TRANS || c.flag SYS_STATUS_LOG_BUSY || c.nvc.op.isSome

/-- The pair of states stands in Table 12-6. -/
def pwrPair (old new : Nat) : Bool :=
  match old, new with
  | 1, 2 | 2, 3 | 3, 2 | 2, 1 | 3, 1 | 1, 0 | 0, 1 => true
  | _, _ => old == new

/-- STANDBY is not to be entered from HOUSE: no image, STRIKE, or a required range link that is not up (R361). -/
def Chip.armState (c : Chip) : Bool :=
  !c.cfgOk || c.inStrike || (c.flag RNG_CFG_EN && c.flag RNG_CFG_REQ && !c.rngUp)

/-- The latest reading of a supply channel lies outside Table 10-5. -/
def Chip.supplyBad (c : Chip) (ch : Nat) : Bool :=
  c.flag (HK_VAL_VALID ch) && !supplyOk ch (c.gets (HK_VAL_CODE ch))

/-- The latest reading of VCC5, or of VGD of a die with an enabled axis, lies outside its window. -/
def Chip.armWindow (c : Chip) : Bool :=
  c.supplyBad 39 || (List.range 4).any fun d => allAxes.any (fun a => a.val / 2 == d && c.axisOn a) && c.supplyBad (40 + d)

/-- The refusing conditions of a SYS_PWR write. -/
def Chip.pwrConds (c : Chip) (target : Nat) : List (Bool × Reason) :=
  let arms := c.pstate == 1 && target == 2
  [(c.pwrBusy, .busy), (!pwrPair c.pstate target, .state), (arms && c.armState, .state), (arms && c.armWindow, .window)]

/-! ### HOUSE, STANDBY and SHOW (R312, Table 12-6) -/

/-- PSTATE changes; every window monitor is unarmed (R267). -/
def Chip.setPstate (c : Chip) (st : Nat) : Chip := (c.put SYS_STATUS_PSTATE st).disarmMonitors

/-- The half-cycle of the excitation in the tick of entry, delayed by DELAY (R121, R122). -/
def Chip.excPhase (c : Chip) : Bool := decide (2 * c.excPlace < c.get RSV_EXC_PER)

/-- HOUSE to STANDBY: gates armed, slices and rounds start, bootstraps charge, pack detection
starts (R57, R84, R88, R99, R111, R241, R245). -/
def Chip.arm (c : Chip) : Chip :=
  let c := c.setPstate 2
  let c : Chip := { c with armTick := some c.now, excPos := c.excPhase }
  let c := ((c.each allLegs Chip.legStandby).each allSlices Chip.startSlice).startRounds
  ((c.each allRegions Chip.busStandby).each allRegions Chip.showActive).obeyLines

/-- STANDBY to SHOW: the curve is off until its input re-arms it (R207), and locally owned axes are to enter CURVE
(R204). -/
def Chip.show (c : Chip) : Chip :=
  (c.setPstate 3).each allAxes fun c a =>
    c.setAxis a { c.axis a with
      entered := true, entries := (c.axis a).entries + 1
      localDue := c.axisOn a && c.get (AX_CFG_OWNER a.val) == 2 }

/-- Leaving SHOW: every axis enters OFF (R204). -/
def Chip.leaveShow (c : Chip) : Chip :=
  c.each allAxes fun c a => (c.enterOff a 5).setAxis a { (c.enterOff a 5).axis a with localDue := false }

/-- SHOW to STANDBY: base slew steps (R84); an axis that was in OFF already starts its charging series, one that enters OFF
its own (R88, R89). -/
def Chip.unshow (c : Chip) : Chip := ((c.setPstate 2).each allLegs Chip.legStandby).leaveShow

/-- STANDBY or SHOW to HOUSE: slices and rounds stop, admission FETs open, legs go to FLOAT, choppers off (R85, R108, R116,
R229, R240). -/
def Chip.disarmAll (c : Chip) : Chip :=
  let c := (c.setPstate 1).leaveShow
  let c := (c.each allAxes Chip.dropRun).each allSlices Chip.stopSlice
  let c := (c.stopRounds.each allLegs Chip.legHouse).each allRegions Chip.busHouse
  (({ c with armTick := none } : Chip).each allRegions Chip.showActive).enterHouse

/-! ### DARK (R313 to R315) -/

/-- DARK is requested: the orderly checkpoint comes first. -/
def Chip.darkRequest (c : Chip) : Chip :=
  let c := (c.put SYS_STATUS_TRANS 1).logBusy true
  { c with nvc := { c.nvc with orderly := some 0, reads := [] } }

/-- A port in DARK: outputs at high impedance, lines unsampled, with what their sampling has under way, an SSI frame abandoned
(R127, R137, R147, R148, R151). -/
def PortState.dark (x : PortState) : PortState :=
  { x with
    hiZ := true, linesKnown := false, hallHeld := false, ssiBusy := false
    digRun := 0, digQual := false, sampTick := none, lastRise := none }

/-- A converter stops (R252). -/
def Chip.hkStop (c : Chip) (n : Region) : Chip :=
  (((c.put (HK_STAT_BUSY n.val) 0).put (HK_STAT_CLASS n.val) 0).put (HK_STAT_CH n.val) 0).setHk n { xch := (c.hk n).xch }

/-- The range link in DARK: down, by skew or DARK (R361). -/
def Chip.rngDark (c : Chip) : Chip :=
  if c.get RNG_STAT_STATE = 2 then c.rngDown 7 else if c.get RNG_STAT_STATE = 1 then c.rngIdle 7 else c

/-- DARK_ENTRY: the checkpoint is written, and every clock but the host port's and the wake logic's stops.  The next
sample of every timebase is then a jump (R32). -/
def Chip.darkEntry (c : Chip) : Chip :=
  if !c.inHouse || !c.flag SYS_STATUS_TRANS || c.nvc.orderly.isSome || c.booting then c
  else
    let c := (c.rngDark.setPstate 0).put SYS_STATUS_TRANS 0
    let c := c.each allPorts fun c p => c.setPort p (c.port p).dark
    let c := (c.each allRegions Chip.hkStop).each allTbs Chip.jumpNext
    c.put CAN_STAT_STATE 3

/-- DARK_ENTRY. -/
def execDarkEntry (s : State) : Out := s.run Chip.darkEntry

/-- The ports run again (R127): inputs acquire, output ports return low, an emulation group goes on from its code. -/
def Chip.portsBack (c : Chip) : Chip :=
  let c := c.each allPorts fun c p => c.setPort p { c.port p with hiZ := false }
  let c := c.each allPorts fun c p => if c.portIsOut p.val then c.driveOut p false none else c
  c.each (allPorts.filter c.inputLead) Chip.beginGroup

/-- What an admitted image makes run again: ports and CAN, the timers of the node list from zero (R344, R348). -/
def Chip.runAgain (c : Chip) : Chip :=
  let c := c.portsBack
  let c : Chip := { c with can := { c.can with nodeTicks := Vector.replicate 32 c.now } }
  if c.flag CAN_CFG_EN then c.setReg CAN_STAT (packFields [(CAN_STAT_FULL, c.get CAN_STAT_FULL)]) else c

/-- DARK_EXIT_COMPLETE: the clock is back, `us` after the entry into DARK; the pending records may be written, and RESUME
after them (R314, R334, R335). -/
def Chip.darkExit (c : Chip) (us : Word) : Chip :=
  if !c.inDark || !c.flag SYS_STATUS_TRANS then c
  else
    let c := ((c.setPstate 1).put SYS_STATUS_TRANS 0).setReg SYS_DARKT us
    let c := (if c.flag LOG_STATUS_HOLD then c else c.unholdRecords).logArise 4 us 0 0
    (if c.cfgOk then c.runAgain else c).enterHouse

/-- DARK_EXIT_COMPLETE. -/
def execDarkExitComplete (us : Word) (s : State) : Out := s.run fun c => c.darkExit us

/-! ### SYS_PWR -/

/-- A transition between HOUSE, STANDBY and SHOW takes effect. -/
def Chip.pwrMove (c : Chip) (target : Nat) : Chip :=
  match c.pstate, target with
  | 1, 2 => c.arm
  | 2, 3 => c.show
  | 3, 2 => c.unshow
  | 2, 1 | 3, 1 => c.disarmAll
  | _, _ => c

/-- An accepted transition takes effect in the tick after its acceptance (R312). -/
def Chip.pwrSettle (c : Chip) : Chip :=
  match c.pwrDue with
  | none => c
  | some t => ({ c with pwrDue := none } : Chip).pwrMove t

/-- An accepted request from the present state: DARK and the return from it begin at once (R313, R314), the other transitions
in the next tick (R312); one for the present state does nothing (R311). -/
def Chip.pwrTo (c : Chip) (target : Nat) : Chip :=
  match c.pstate, target with
  | 1, 0 => c.darkRequest
  | 0, 1 => c.put SYS_STATUS_TRANS 1
  | old, new => if old = new then c else { c with pwrDue := some new }

/-- A SYS_PWR write. -/
def Chip.sysPwr (c : Chip) (target : Nat) : Judged := c.request (c.pwrConds target) fun c => c.pwrTo target

/-- SYS_PWR_HOUSE. -/
def execSysPwrHouse (p : Path) (s : State) : Out := s.run fun c => c.ask p true fun c => c.sysPwr 1

/-- SYS_PWR_STANDBY. -/
def execSysPwrStandby (p : Path) (s : State) : Out := s.run fun c => c.ask p true fun c => c.sysPwr 2

/-- SYS_PWR_SHOW. -/
def execSysPwrShow (p : Path) (s : State) : Out := s.run fun c => c.ask p true fun c => c.sysPwr 3

/-- SYS_PWR_DARK. -/
def execSysPwrDark (p : Path) (s : State) : Out := s.run fun c => c.ask p true fun c => c.sysPwr 0

/-! ### Life-cycle (R318, R319, R337) -/

/-- The next states of Table 12-7. -/
def lcNext (old new : Nat) : Bool :=
  match old, new with
  | 0, 1 | 0, 3 | 1, 2 | 1, 3 | 2, 3 => true
  | _, _ => false

/-- The refusing conditions of a SYS_LCCMD write (R318, R327). -/
def Chip.lcConds (data : Word) (left : Bool) (c : Chip) : List (Bool × Reason) :=
  let lc := c.get SYS_STATUS_LC
  let target := SYS_LCCMD_TARGET.read data
  [ (SYS_LCCMD_CONFIRM.read data != 0xA55A || !lcNext lc target, .range)
  , (!c.inHouse || c.booting || c.flag SYS_STATUS_TRANS, .state)
  , (target == 2 && !(c.flag SYS_STATUS_KEY && (c.get OTP_STATUS_LOCK).testBit 1), .state)
  , (target == 3 && lc == 2 && !(c.cfgOk && c.load.strikeOk), .locked)
  , (c.flag SYS_STATUS_LOG_BUSY || c.nvc.op.isSome, .busy)
  , (c.windowLeft left, .window) ]

/-- The three copies of a life-cycle state's byte, each word with its target (R322). -/
def NonVolatile.lcTodo (nv : NonVolatile) (target : Nat) : List (Nat × Word) :=
  (List.range 3).map fun i => (i, nv.fuse i ||| (0xFF#32 <<< (8 * (target - 1))))

/-- The pulses and verifies of a change: those given, then words that verify at their first pulse. -/
def burn (nv : NonVolatile) (o : OtpOp) : List Verify → NonVolatile
  | [] => o.todo.foldl (fun nv x => nv.blow x.1 x.2) nv
  | v :: l =>
    match pulseStep nv o v with
    | (nv, q, none) => burn nv q l
    | (nv, _, some _) => nv

/-- Entry into STRIKE: the logbook reads all zeros, and the record of the change follows the newest SEQ. -/
def State.wipeLog (s : State) (old new : Nat) : State :=
  let c := s.chip.logArise 7 (BitVec.ofNat 32 old) (BitVec.ofNat 32 new) 0
  ({ s with chip := c, nv := { s.nv with log := [] } } : State).writeQueue true c.nvc.queue.length

/-- An accepted change (R319): checkpoint, fuses, the wipe for STRIKE, and the start sequence, whatever came of them. -/
def State.lifecycle (s : State) (target : Nat) (copies : List Verify) (reads : List OtpRead) : State :=
  let old := s.chip.get SYS_STATUS_LC
  let s : State := { s with chip := s.chip.logBusy true }
  let s := s.closeBook 2
  let s : State := { s with nv := burn s.nv ⟨0, 0, s.nv.lcTodo target, 0, 0⟩ copies }
  (if target = 3 then s.wipeLog old target else s).start 2 false reads

/-- A SYS_LCCMD write. -/
def State.lccmd (s : State) (p : Path) (data : Word) (left : Bool) (copies : List Verify) (reads : List OtpRead) : State :=
  s.judged p false (Chip.lcConds data left) fun s => s.lifecycle (SYS_LCCMD_TARGET.read data) copies reads

/-- LIFECYCLE_CHANGE. -/
def execLifecycleChange (p : Path) (data : Word) (left : Bool) (copies : List Verify) (reads : List OtpRead) (s : State) :
    Out := .next (s.lccmd p data left copies reads)

end Sys2Proof.Machine
end

