-- ==== Sys2Proof/Machine/Registers.lean ====
section
/-! DEFINITION. Register accesses over a path (00_scope.md, R4 to R9, R394; 16_address_map.md, R372 to R377): what a read
shows and clears, and what a write does, by the register that the address names. -/
namespace Sys2Proof.Machine

/-! ### What a read shows -/

/-- The instance, of `n` with one stride, at which an address names the register that starts at `base`. -/
def instAt (n base stride a : Nat) : Option (Fin n) :=
  if h : (a - base) / stride < n then
    if base ≤ a ∧ (a - base) % stride = 0 then some ⟨(a - base) / stride, h⟩ else none
  else none

/-- A port register that is not live in its port (R373): counting, index and ledger registers outside the lead of an input
group, SSI registers outside an SSI lead, digital ones outside a digital port, emulation ones outside an emulation
lead. -/
def Chip.portDead (c : Chip) (p off : Nat) : Bool :=
  let func := c.get (FP_CFG_FUNC p)
  let lead := c.get (FP_CFG_ROLE p) == 0
  let input := decide (1 ≤ func) && decide (func ≤ 3) || (func == 4 && c.get (FP_CFG_DSUB p) != 5)
  if 0x008 ≤ off ∧ off < 0x050 then !(lead && input)
  else if 0x060 ≤ off ∧ off < 0x070 then !(lead && func == 3)
  else if 0x070 ≤ off ∧ off < 0x078 then func != 4
  else if 0x080 ≤ off ∧ off < 0x098 then !(lead && func == 5)
  else false

/-- An address of a port register that is not live. -/
def Chip.deadRead (c : Chip) (a : Nat) : Bool :=
  decide (0x0B0000 ≤ a) && decide (a < 0x0B2000) && c.portDead ((a - 0x0B0000) / 256) ((a - 0x0B0000) % 256)

/-- A bit for each of the 32 sources of word `k`. -/
def sourceBits (f : Nat → Bool) (k : Nat) : Word :=
  BitVec.ofNat 32 ((List.range 32).foldl (fun w i => w + if f (32 * k + i) then 2 ^ i else 0) 0)

/-- SL_CFG of an understudy (R111): RANGE and CLOSE of the slice it serves, AXIS 0. -/
def Chip.underCfg (c : Chip) (k : SliceId) : Word :=
  let w := (SL_CFG_AXIS k.val).write (c.reg (SL_CFG k.val)) 0
  if c.get (US_STAT_STEP k.val) != 0 || c.flag (US_STAT_PERM k.val) then
    let t := c.get (US_STAT_TARGET k.val)
    (SL_CFG_CLOSE k.val).write ((SL_CFG_RANGE k.val).write w (c.get (SL_CFG_RANGE t))) (c.get (SL_CFG_CLOSE t))
  else w

/-- FLT_SRC of a source: its latch and its cause (Table 11-8). -/
def Chip.sourceShown (c : Chip) (s : Nat) : Word :=
  let own := decide (s < 0xFC)
  (FLT_SRC_ACTIVE s).write ((FLT_SRC_SEVERE s).write (c.reg (FLT_SRC s)) (own && c.severe s).toNat) (own && c.live s).toNat

/-- FE_AX_COST of local axis `k` of engine `e` (Table 3-13). -/
def Chip.costShown (c : Chip) (e : Region) (k : Fin 4) : Word :=
  let a : Axis := ⟨4 * e.val + k.val, by omega⟩
  packFields [(FE_AX_COST_CHARGED e.val k.val, c.chargedCost a (c.modeOf a)), (FE_AX_COST_PRESENT e.val k.val, c.presentCost a)]

/-- CUE_TBn_VAL and its high word: of TB20 the wall tick, of any other timebase its value and 0 (Table 2-16). -/
def Chip.tbShown (c : Chip) (n : Tb) (high : Bool) : Word :=
  if high then (if n.val = 20 then BitVec.ofNat 32 (c.wall / 2 ^ 32) else 0) else c.tbVal n

/-- The first of the given views whose register stands at `a`. -/
def viewAt (a : Nat) : List (Nat × Nat × Nat × (Nat → Word)) → Option Word
  | [] => none
  | (n, base, stride, f) :: l =>
    match instAt n base stride a with
    | some i => some (f i.val)
    | none => viewAt a l

/-- The registers whose word follows other state, with their number, first address and stride. -/
def Chip.views (c : Chip) (nv : NonVolatile) : List (Nat × Nat × Nat × (Nat → Word)) :=
  [ (1, FLT_STATUS, 4, fun _ => c.faultStatus)
  , (8, FLT_SEV 0, 4, sourceBits c.severe)
  , (8, FLT_LIVE 0, 4, sourceBits fun s => decide (s < 0xFC) && c.live s)
  , (256, FLT_SRC 0, 16, c.sourceShown)
  , (8192, LOG_WINDOW 0, 4, cellsGet zeros nv.log)
  , (64, OTP_WORD 128, 4, fun i => if (c.get OTP_STATUS_LOCK).testBit 1 then 0 else c.reg (OTP_WORD (128 + i)))
  , (24, LEG_PERIOD 0, 0x100, fun l => c.reg (LEG_PERIOD (3 * (l / 3))))
  , (24, LEG_DUTY 0, 0x100, fun l => (LEG_DUTY_REACT l).write (c.reg (LEG_DUTY l)) (c.legReact ⟨l % 24, by omega⟩))
  , (41, SL_CFG 0, 0x40, fun k => if isUnder (sliceOf k) then c.underCfg (sliceOf k) else c.reg (SL_CFG k))
  , (4, FE_AX_COST 0 0, 0x20, fun k => c.costShown 0 ⟨k % 4, by omega⟩)
  , (4, FE_AX_COST 1 0, 0x20, fun k => c.costShown 1 ⟨k % 4, by omega⟩)
  , (1, CUE_FREE, 4, fun _ => packFields [(CUE_FREE_FREE1, c.cueFree 1), (CUE_FREE_FREE0, c.cueFree 0)])
  , (21, CUE_TB_VAL 0, 0x20, fun n => c.tbShown (tbOf n) false)
  , (21, CUE_TB_VALH 0, 0x20, fun n => c.tbShown (tbOf n) true) ]

/-- The word that a read of the register at `a` shows. -/
def Chip.shown (c : Chip) (nv : NonVolatile) (a : Nat) : Word :=
  if c.deadRead a then 0
  else match viewAt a (c.views nv) with
    | some w => w
    | none => c.reg (homeOf a)

/-! ### Reading -/

/-- FE_LOAD in kcycles/s (R64); how a fraction is rounded is not stated. -/
def Chip.loadShown (c : Chip) (e : Region) : Chip × Word :=
  let x := c.loadWith e c.modeOf
  let (c, v) := c.divFree x.1 x.2
  (c, BitVec.ofInt 32 v)

/-- A read of a register of row `r`: a held high word first (R5), then the word as it stands; a low word holds its high
word, and RC fields clear (R6), but for what the part has added in this tick (R7). -/
def Chip.readRow (c : Chip) (nv : NonVolatile) (p : Path) (r : RegRow) (a : Nat) : Chip × Word :=
  match c.held p a with
  | some w => (c.unhold p a, w)
  | none =>
    let (c, w) := match instAt 2 (FE_LOAD 0) 0x8000 a with
      | some e => c.loadShown e
      | none => (c, c.shown nv a)
    let c := if r.pair then c.holdHigh p (a + 4) (c.shown nv (a + 4)) else c
    let rc := BitVec.ofNat 32 r.rc
    if rc = 0 then (c, w) else (c.clearRead a rc, c.withoutFresh a rc w)

/-- The masters of FLT_ACC (Table 11-7). -/
def pathMaster : Path → Nat
  | .host => 0
  | .can => 1

/-- An access to an address that names no register (R291, R372). -/
def Chip.badAccess (c : Chip) (p : Path) (write : Bool) (a : Nat) : Chip :=
  c.accessError (pathMaster p) write (if a % 4 = 0 then 0 else 1) a

/-- A register read. -/
def Chip.readReg (nv : NonVolatile) (p : Path) (a : Nat) (c : Chip) : Chip × Word :=
  match cueWord a, findRow a with
  | some (k, upper), _ => c.cueRead k upper false
  | none, none => (c.badAccess p false a, 0)
  | none, some r =>
    if a = CUE_SKIPQ then c.popSkip
    else if a = CUE_IRQQ then c.popIrq
    else match instAt 2 (BUS_DRAWN 0) 0x8000 a, instAt 2 (BUS_RET 0) 0x8000 a with
      | some x, _ => c.rideRead p x false
      | none, some x => c.rideRead p x true
      | none, none => c.readRow nv p r a

/-- Reads that a start sequence (the SYS block) or DARK (WAKE_CMD too) executes (R299, R315). -/
def Chip.readOpen (c : Chip) (a : Nat) : Bool :=
  decide (a < 0x000028) || (!c.booting && (!c.inDark || a == WAKE_CMD))

/-- A read over path `p`: BUSY while a start sequence runs, 0 without effect in DARK, else executed (R299, R315, R372). -/
def Chip.askReg (nv : NonVolatile) (p : Path) (a : Nat) (c : Chip) : Chip :=
  if !c.carries p then c
  else if c.readOpen a then
    let x := Chip.readReg nv p a c
    (x.1.give p x.2).answer p .ok
  else (c.blank p).answer p (if c.booting then .busy else .ok)

/-! ### Writing -/

/-- A write without effect. -/
def Chip.pass (c : Chip) : Judged := (c, .ok)

/-- AX_CMD (Table 8-1): MODE 7 is no mode. -/
def Chip.axCmd (c : Chip) (p : Path) (a : Axis) (w : Word) : Judged :=
  let back := (AX_CMD_DIR a.val).read w == 1
  match (AX_CMD_MODE a.val).read w with
  | 0 => c.commandOff a
  | 4 => c.commandGear p a ((AX_CMD_SLOT_KEEP a.val).read w == 1) ((AX_CMD_SLOT a.val).read w)
  | 7 => c.request [(!c.inShow || !c.axisOn a || c.heldOff a, .state), (true, .range), (!c.owns p a, .locked)] id
  | m => c.command p a m back 0

/-- FP_CMD, BUS_CMD and HK_CMD: one bit, or the write is refused with RANGE (Tables 6-9, 9-2, 10-8) unless one of the
operations it asks for has a lower reason to be refused (R11). -/
def Chip.oneBit (c : Chip) (bits : List (Bool × (Chip → Judged))) : Judged :=
  match bits.filter (·.1) with
  | [] => c.pass
  | [x] => x.2 c
  | l => c.request ((true, .range) :: l.map fun x => ((x.2 c).2 != .ok, (x.2 c).2)) id

/-- HK_SEL: a channel that may not be named is refused with RANGE (R248). -/
def Chip.writeHkSel (c : Chip) (n : Region) (w : Word) : Judged :=
  c.request [(!c.channelOk ((HK_SEL_CH n.val).read w), .range)] fun c => c.put (HK_SEL_CH n.val) ((HK_SEL_CH n.val).read w)

/-- A FLT_CLR write (Table 11-7). -/
def Chip.writeFltClr (c : Chip) (w : Word) : Judged :=
  if FLT_CLR_ALL.read w = 1 then c.fltClrAll (FLT_CLR_SRC.read w != 0) else c.fltClr (FLT_CLR_SRC.read w)

/-- A SYS_CMD write without RESET alone: RELOAD, both bits, or none (Table 12-8). -/
def Chip.writeSysCmd (c : Chip) (p : Path) (w : Word) : Judged :=
  match SYS_CMD_RELOAD.read w, SYS_CMD_RESET.read w with
  | 1, 1 => c.request ((true, .range) :: ((c.reload p).2 != .ok, (c.reload p).2) :: c.resetConds) id
  | 1, _ => c.reload p
  | _, _ => c.request [(c.nvc.op.isSome, .busy)] id

/-- Bus-off recovery (Table 14-8); its completion is the row of its own. -/
def Chip.canRec (c : Chip) : Judged :=
  c.request [(c.get CAN_STAT_STATE != 2, .state)] fun c => { c with can := { c.can with recovering := true } }

/-- FORGET frees a node slot (R348). -/
def Chip.canForget (c : Chip) (j : Nat) : Judged :=
  (((c.setReg (CAN_NODE j) 0).setReg (CAN_NODE_ENTRY j) 0).put CAN_STAT_FULL 0, .ok)

/-- An OTP_CMD write; no register tells the verdict of the monitors on the window of Table 13-3: it is free (log entry 2). -/
def Chip.writeOtpCmd (c : Chip) (nv : NonVolatile) (w : Word) : Judged :=
  let left := c.freeVal.getLsbD 0
  Chip.otpCmd nv (OTP_CMD_OP.read w) (OTP_CMD_ARG.read w) (OTP_CMD_CONFIRM.read w == 0xA55A) left c.useFree

/-- The operation of the first register that stands at `a`, of `n` with one stride. -/
def opAt {n : Nat} (stride a : Nat) : List (Nat × (Fin n → Judged)) → Option Judged
  | [] => none
  | (base, f) :: l =>
    match instAt n base stride a with
    | some i => some (f i)
    | none => opAt stride a l

/-- Writes with rows of their own to registers that stand once. -/
def Chip.oneOps (nv : NonVolatile) (c : Chip) (p : Path) (w : Word) (a : Nat) : Option Judged :=
  if a = SYS_PWR then some (c.sysPwr (SYS_PWR_TARGET.read w))
  else if a = SYS_CMD then some (c.writeSysCmd p w)
  else if a = FLT_FIRST then some (if FLT_FIRST_VALID.read w = 1 then c.firstClear else c.pass)
  else if a = FLT_CLR then some (c.writeFltClr w)
  else if a = FLT_INJ then some (c.inject (FLT_INJ_CHECKER.read w) (FLT_INJ_UNIT.read w))
  else if a = FLT_ACC then some (if FLT_ACC_VALID.read w = 1 then c.accClear else c.pass)
  else if a = OTP_CMD then some (c.writeOtpCmd nv w)
  else if a = CAN_CMD then some (if CAN_CMD_REC.read w = 1 then c.canRec else c.pass)
  else if a = CAN_NODECMD then some (if CAN_NODECMD_FORGET.read w = 1 then c.canForget (CAN_NODECMD_NODE.read w) else c.pass)
  else if a = RNG_CMD then some (if RNG_CMD_RETRAIN.read w = 1 then c.retrain else c.pass)
  else if a = WAKE_CMD then some (if WAKE_CMD_ACK.read w = 1 then c.wakeAck else c.pass)
  else if a = CUE_SWITCH then some (c.cueSwitch (w.truncate 21))
  else none

/-- Writes with rows of their own to axis registers. -/
def Chip.axisOps (c : Chip) (p : Path) (w : Word) (a : Nat) : Option Judged :=
  opAt (n := 8) 0x1000 a
    [ (AX_CMD 0, fun x => c.axCmd p x w)
    , (CMP_CTRL 0, fun x => c.writeCmpCtrl p x w)
    , (CMP_TARGET 0, fun x => c.writeCmpTarget p x w)
    , (CMP_ACCEL 0, fun x => c.writeRamp p x (CMP_ACCEL_ACCEL x.val) w)
    , (CMP_DECEL 0, fun x => c.writeRamp p x (CMP_DECEL_DECEL x.val) w)
    , (AX_SPLO 0, fun x => c.writeSplo p x w)
    , (AX_SPHI 0, fun x => c.setpoint p x (c.setpointOf p x w))
    , (AX_CIN 0, fun x => c.writeCin p x ((AX_CIN_VALUE x.val).read w |> BitVec.ofNat 16))
    , (AX_SRCCMD 0, fun x => if (AX_SRCCMD_BACK x.val).read w = 1 then c.back x else c.pass) ]

/-- Writes with rows of their own to slice, port, bus and converter registers. -/
def Chip.unitOps (c : Chip) (w : Word) (a : Nat) : Option Judged :=
  (opAt (n := 41) 0x40 a [(SL_WLEN 0, fun k => c.wlenWrite k w)]).orElse fun _ =>
  (opAt (n := 32) 0x100 a [(FP_CMD 0, fun q => c.oneBit
    [ ((FP_CMD_TEST_ON q.val).read w == 1, fun c => c.testOn q), ((FP_CMD_TEST_OFF q.val).read w == 1, fun c => c.testOff q)
    , ((FP_CMD_LIM_CLR q.val).read w == 1, fun c => c.limClr q) ])]).orElse fun _ =>
  (opAt (n := 2) 0x8000 a [(BUS_CMD 0, fun r => c.oneBit
    [ ((BUS_CMD_ADMIT r.val).read w == 1, fun c => c.busAdmit r), ((BUS_CMD_OPEN r.val).read w == 1, fun c => c.admOpen r) ])]).orElse fun _ =>
  (opAt (n := 2) 0x40 a
    [ (HK_SEL 0, fun n => c.writeHkSel n w)
    , (HK_CMD 0, fun n => c.oneBit
        [ ((HK_CMD_START n.val).read w == 1, fun c => c.hkCommand n 2)
        , ((HK_CMD_URGENT n.val).read w == 1, fun c => c.hkCommand n 3) ]) ]).orElse fun _ =>
  opAt (n := 46) 8 a [(HK_CH 0, fun ch => c.writeHkCh ch.val w)]

/-- A write with no row of its own (R6, R8, R9): RW fields are set and W1C bits cleared, but for those that the part has set
in this tick (R7); with no such field it is refused with LOCKED. -/
def Chip.plainWrite (c : Chip) (r : RegRow) (a : Nat) (w : Word) : Judged :=
  c.request [(r.rw == 0 && r.wo == 0 && r.w1c == 0, .locked)] fun c =>
    (c.writeMask a (BitVec.ofNat 32 r.rw) w).clearOnes a (BitVec.ofNat 32 r.w1c) w

/-- A register write, but for SYS_CMD.RESET and SYS_LCCMD. -/
def Chip.writeReg (nv : NonVolatile) (p : Path) (a : Nat) (w : Word) (c : Chip) : Judged :=
  match cueWord a, findRow a with
  | some (_, false), _ => c.cueLower p w
  | some (k, true), _ => c.cueWrite p k (w ++ c.cueHold p)
  | none, none => (c.badAccess p true a, .ok)
  | none, some r =>
    match (c.oneOps nv p w a).orElse fun _ => (c.axisOps p w a).orElse fun _ => c.unitOps w a with
    | some x => x
    | none => c.plainWrite r a w

/-- Writes that DARK executes (R315). -/
def writeOpen (a : Nat) : Bool := a == SYS_PWR || a == WAKE_CMD

/-- A write over path `p`.  The fuses read at a start and the verifies of a change are the outside world's: here they are
those that find everything as it is stored. -/
def State.writeReg (s : State) (p : Path) (a : Nat) (w : Word) : State :=
  if a = SYS_CMD ∧ SYS_CMD_RESET.read w = 1 ∧ SYS_CMD_RELOAD.read w = 0 then
    s.judged p false Chip.resetConds fun s => s.reset1 []
  else if a = SYS_LCCMD then ({ s with chip := s.chip.useFree } : State).lccmd p w (s.chip.freeVal.getLsbD 0) [] []
  else { s with chip := s.chip.ask p (writeOpen a) (Chip.writeReg s.nv p a w) }

/-- A read over path `p`. -/
def State.readReg (s : State) (p : Path) (a : Nat) : State := { s with chip := Chip.askReg s.nv p a s.chip }

/-- REGISTER_WRITE (R9). -/
def execRegisterWrite (p : Path) (addr : BitVec 24) (data : Word) (s : State) : Out := .next (s.writeReg p addr.toNat data)

end Sys2Proof.Machine
end

