-- ==== Sys2Proof/Machine/HostPort.lean ====
section
/-! DEFINITION. The host port (14_links.md, R338 to R343): its frames, those it discards, and what it drives back. -/
namespace Sys2Proof.Machine

/-- The first 64 bits of a frame. -/
def hostBits (f : HostFrame) : BitVec 64 := f.cmd ++ f.addr ++ f.data

/-- The frame's CRC is right (R339). -/
def hostCrcOk (f : HostFrame) : Bool := crc8 (hostBits f) == f.crc

/-- What HSDO carries in a frame that begins now (Table 14-1, R340). -/
def Chip.hpAnswer (c : Chip) : HpOut := ⟨c.statusWord, c.hp.cmd, c.hp.data⟩

/-- HSDO stays high for a whole frame (R343). -/
def hpHigh : HpOut := ⟨0xFFFF, 0xFF, 0xFFFFFFFF⟩

/-- The frame has been discarded: no request, no data (R340). -/
def Chip.hpDiscard (c : Chip) : Chip := { c with hp := { c.hp with reason := .ok, data := 0, crcErr := true } }

/-- A frame ends (R340).  It is counted before its effect, so that a RESET, whose checkpoint outlasts the frame, starts the
count at 0; a reload, whose start the frame outlasts, starts it at 1. -/
def Chip.hpEnd (c : Chip) (cmd : BitVec 8) : Chip :=
  { c with hp := { c.hp with cmd := cmd, frames := (c.hp.frames + 1) % 8 } }

/-- A wrong length or CRC: its bit of HP_STAT, and one event of HP_CRC (R342). -/
def Chip.hpBad (c : Chip) (f : Field) : Chip := ((c.mark f).raise 0xF4).hpDiscard

/-- An executed frame leaves no data but a READ's, and shows its request's reason. -/
def Chip.hpClean (c : Chip) : Chip := { c with hp := { c.hp with reason := .ok, data := 0, crcErr := false } }

/-- A frame with a correct CRC is executed (R341); a CMD outside Table 14-1 is refused with RANGE (R343). -/
def State.hostRun (s : State) (f : HostFrame) : State :=
  let s : State := { s with chip := s.chip.hpClean }
  match f.cmd.toNat with
  | 0 => s
  | 1 => s.readReg .host f.addr.toNat
  | 2 => s.writeReg .host f.addr.toNat f.data
  | _ => { s with chip := s.chip.answer .host .range }

/-- A host-port frame (R340 to R343); while nRESET is low the port does not answer. -/
def State.hostFrame (s : State) (f : HostFrame) : State :=
  if s.chip.load.stage == .held then s
  else
    let out := if f.early then hpHigh else s.chip.hpAnswer
    let s : State := { s with chip := { s.chip with hp := { s.chip.hp with out := out } }.hpEnd f.cmd }
    if f.early then { s with chip := s.chip.hpDiscard }
    else if f.clocks != 72 then { s with chip := s.chip.hpBad HP_STAT_LENGTH }
    else if !hostCrcOk f then { s with chip := s.chip.hpBad HP_STAT_CRC }
    else s.hostRun f

/-- NOP. -/
def execNop (f : HostFrame) (s : State) : Out := .next (s.hostFrame f)

/-- READ. -/
def execRead (f : HostFrame) (s : State) : Out := .next (s.hostFrame f)

/-- WRITE. -/
def execWrite (f : HostFrame) (s : State) : Out := .next (s.hostFrame f)

/-- HP_RDBUF_READ: the buffer is returned, and what the read stores back is itself (R341). -/
def execHpRdbufRead (f : HostFrame) (s : State) : Out := .next (s.hostFrame f)

/-- HP_TIMEOUT: a frame whose 72nd clock does not come is discarded (R342).  How much of it arrived is not told: its CMD is
free. -/
def Chip.hpTimeout (c : Chip) : Chip :=
  if c.load.stage == .held then c
  else
    let c : Chip := { c with hp := { c.hp with out := c.hpAnswer } }
    ((((c.mark HP_STAT_TIMEOUT).raise 0xF5).hpDiscard).hpEnd (c.freeVal.truncate 8)).useFree

/-- HP_TIMEOUT. -/
def execHpTimeout (s : State) : Out := s.run Chip.hpTimeout

end Sys2Proof.Machine
end

