-- ==== Sys2Proof/Machine/Can.lean ====
section
/-! DEFINITION. The CAN port (14_links.md, R344 to R349): reception and judging of frames, replies, supervised nodes, and
the controller's bus state. -/
namespace Sys2Proof.Machine

/-! ### The controller's counters (R344) -/

/-- The controller is on the bus: it runs and is not in bus-off. -/
def Chip.canOnBus (c : Chip) : Bool := c.canRuns && c.get CAN_STAT_STATE != 2

/-- Error counters as they stand decide between error active and error passive (ISO 11898-1). -/
def Chip.canErrorState (c : Chip) : Chip :=
  c.put CAN_STAT_STATE (if 127 < c.get CAN_STAT_TEC ∨ 127 < c.get CAN_STAT_REC then 1 else 0)

/-- A frame has been sent: TEC falls by 1. -/
def Chip.canSentOk (c : Chip) : Chip := (c.put CAN_STAT_TEC (c.get CAN_STAT_TEC - 1)).canErrorState

/-- A frame has been received: REC falls by 1, or to a value from 119 to 127, which the standard leaves open. -/
def Chip.canGotOk (c : Chip) : Chip :=
  let n := c.get CAN_STAT_REC
  if n ≤ 127 then (c.put CAN_STAT_REC (n - 1)).canErrorState
  else ((c.put CAN_STAT_REC (119 + c.freeVal.toNat % 9)).useFree).canErrorState

/-- CAN_BUS_ERROR: TEC rises by 8 for a transmitter, REC by 1 or 8 for a receiver; they hold at 255. -/
def Chip.canBusError (c : Chip) (role : CanRole) : Chip :=
  if !c.canOnBus then c
  else match role with
    | .transmitter => (c.bump CAN_STAT_TEC 8).canErrorState
    | .receiver => ((c.bump CAN_STAT_REC (if c.freeVal.getLsbD 0 then 8 else 1)).useFree).canErrorState

/-- CAN_BUS_ERROR. -/
def execCanBusError (role : CanRole) (s : State) : Out := s.run fun c => c.canBusError role

/-- BUS_OFF: one event of CAN_BUSOFF. -/
def Chip.busOff (c : Chip) : Chip :=
  if c.canOnBus then
    let c := (c.put CAN_STAT_STATE 2).raise 0xF6
    { c with can := { c.can with recovering := false } }
  else c

/-- BUS_OFF. -/
def execBusOff (s : State) : Out := s.run Chip.busOff

/-- REC. -/
def execBusOffRec (p : Path) (s : State) : Out := s.ask p Chip.canRec

/-- BUS_OFF_RECOVERY: with AUTOREC, or after an accepted REC, the controller returns to error active. -/
def Chip.busOffRecovery (c : Chip) : Chip :=
  if c.canRuns && c.get CAN_STAT_STATE == 2 && (c.flag CAN_CFG_AUTOREC || c.can.recovering) then
    let c := ((c.put CAN_STAT_STATE 0).put CAN_STAT_TEC 0).put CAN_STAT_REC 0
    { c with can := { c.can with recovering := false } }
  else c

/-- BUS_OFF_RECOVERY. -/
def execBusOffRecovery (s : State) : Out := s.run Chip.busOffRecovery

/-! ### Reception (R345, R346) -/

/-- A frame matches acceptance entry `k` (R345); an entry of KIND 0 is off. -/
def Chip.canMatches (c : Chip) (f : CanFrame) (k : Nat) : Bool :=
  c.get (CAN_ACC_W0_KIND k) != 0 && f.ide == c.flag (CAN_ACC_W1_IDE k) &&
    (f.id.toNat ^^^ c.get (CAN_ACC_W0_ID k)) &&& c.get (CAN_ACC_W1_MASK k) == 0

/-- The lowest acceptance entry that matches. -/
def Chip.canEntry (c : Chip) (f : CanFrame) : Option Nat := (List.range 64).find? (c.canMatches f)

/-- The slots of the node list. -/
def nodeSlots : List (Fin 32) := List.finRange 32

/-- The slot that holds the sender of a frame. -/
def Chip.nodeOf (c : Chip) (x : CanFrame) : Option (Fin 32) :=
  nodeSlots.find? fun j =>
    c.flag (CAN_NODE_USED j.val) && c.flag (CAN_NODE_IDE j.val) == x.ide && c.get (CAN_NODE_ID j.val) == x.id.toNat

/-- The timer of a node slot runs from this tick (R348). -/
def Chip.nodeTimer (c : Chip) (j : Fin 32) : Chip :=
  { c with can := { c.can with nodeTicks := c.can.nodeTicks.set j c.now } }

/-- A frame that entry `k` takes restarts the timer of its sender, where `k` supervises and knows it: the timer runs from
the end of the frame (R348). -/
def Chip.nodeHeard (c : Chip) (k : Nat) (f : CanFrame) : Chip :=
  match c.get (CAN_ACC_W0_KIND k), c.nodeOf f with
  | 6, some j => c.nodeTimer j
  | _, _ => c

/-- CAN_FRAME_RECEIVED: a matched frame joins the queue of 16, or is lost; remote frames, and FD frames where FD is off,
are ignored (R344). -/
def Chip.canReceive (c : Chip) (f : CanFrame) : Chip :=
  if !c.canOnBus || f.remote || (f.fd && !c.flag CAN_CFG_FDEN) then c
  else
    let c := c.canGotOk
    match c.canEntry f with
    | none => c
    | some k =>
      if c.can.rx.length < 16 then ({ c with can := { c.can with rx := c.can.rx ++ [(k, f)] } } : Chip).nodeHeard k f
      else (c.bump CAN_CNT_RXOVF 1).raise 0xF8

/-- CAN_FRAME_RECEIVED. -/
def execCanFrameReceived (f : CanFrame) (s : State) : Out := s.run fun c => c.canReceive f

/-- The frame at the head of the queue, when its entry has KIND `kind`. -/
def Chip.canHead (c : Chip) (kind : Nat) : Option (Nat × CanFrame) :=
  match c.can.rx with
  | [] => none
  | x :: _ => if c.canRuns && c.get (CAN_ACC_W0_KIND x.1) == kind then some x else none

/-- The head leaves the queue. -/
def Chip.canPop (c : Chip) : Chip := { c with can := { c.can with rx := c.can.rx.tail } }

/-! ### Replies (R347) -/

/-- Number held in bytes `i` to `i + n - 1` of a frame, little-endian. -/
def canNum (f : CanFrame) (i n : Nat) : Nat := ofBytes ((f.data.drop i).take n)

/-- The transmit queue is full. -/
def Chip.canFull (c : Chip) : Bool := decide (8 ≤ c.can.tx.length)

/-- A reply is queued, or dropped and counted. -/
def Chip.canReply (c : Chip) (k : Nat) (f : CanFrame) (r : Reason) (rest : List Byte) : Chip :=
  if !c.canRuns || !c.flag (CAN_ACC_W2_RPLY k) then c
  else if c.canFull then c.bump CAN_CNT_TXDROP 1
  else
    let head := BitVec.ofNat 8 (r.toNat + 16 * c.get (CAN_ACC_W0_KIND k))
    let x : CanReply := ⟨BitVec.ofNat 29 (c.get (CAN_ACC_W2_RID k)), c.flag (CAN_ACC_W2_RIDE k), f.fd, head :: rest⟩
    { c with can := { c.can with tx := c.can.tx ++ [x] } }

/-- `n` zero bytes. -/
def zeroBytes (n : Nat) : List Byte := List.replicate n 0

/-- TARGET of an acceptance entry. -/
def Chip.canTarget (c : Chip) (k : Nat) : Nat := c.get (CAN_ACC_W3_TARGET k)

/-- The axis that TARGET names. -/
def Chip.canAxis (c : Chip) (k : Nat) : Axis := ⟨c.canTarget k % 8, by omega⟩

/-- CAN_REPLY_SEND: the oldest reply goes out. -/
def Chip.canReplySend (c : Chip) : Chip :=
  match c.can.tx with
  | [] => c
  | x :: l => if c.canOnBus then { c.canSentOk with can := { c.canSentOk.can with tx := l, sent := some x } } else c

/-- CAN_REPLY_SEND. -/
def execCanReplySend (s : State) : Out := s.run Chip.canReplySend

/-! ### Judging a frame (R345, Table 14-2) -/

/-- KIND 1: WRITE. -/
def State.canWrite (s : State) : State :=
  match s.chip.canHead 1 with
  | none => s
  | some (k, f) =>
    let s : State := { s with chip := s.chip.canPop }
    if f.data.length < 4 then { s with chip := s.chip.canReply k f .range (zeroBytes 7) }
    else
      let s := s.writeReg .can (s.chip.canTarget k) (BitVec.ofNat 32 (canNum f 0 4))
      { s with chip := s.chip.canReply k f s.chip.can.reason (zeroBytes 7) }

/-- CAN_WRITE. -/
def execCanWrite (s : State) : Out := .next s.canWrite

/-- The value of an executed KIND 2 read: CAN_RDBUF, and with WIDE the high word in CAN_RDBUFH. -/
def Chip.canFetch (nv : NonVolatile) (k : Nat) (c : Chip) : Chip :=
  let a := c.canTarget k
  let x := Chip.readReg nv .can a c
  let y := if c.flag (CAN_ACC_W3_WIDE k) then Chip.readReg nv .can (a + 4) x.1 else (x.1, 0)
  (y.1.setReg CAN_RDBUF x.2).setReg CAN_RDBUFH y.2

/-- KIND 2: READ.  A full transmit queue refuses it with BUSY before the read. -/
def State.canRead (s : State) : State :=
  match s.chip.canHead 2 with
  | none => s
  | some (k, f) =>
    let c := s.chip.canPop
    let wide := c.flag (CAN_ACC_W3_WIDE k)
    let r := judge [(wide && !f.fd, .range), (c.canFull, .busy)]
    let zeros := zeroBytes (if wide && f.fd then 11 else 7)
    if r = .ok then
      let c := Chip.canFetch s.nv k c
      let v := bytesOf 4 (c.reg CAN_RDBUF).toNat ++ (if wide then bytesOf 4 (c.reg CAN_RDBUFH).toNat else [])
      { s with chip := c.canReply k f .ok (zeroBytes 3 ++ v) }
    else { s with chip := c.canReply k f r zeros }

/-- CAN_READ. -/
def execCanRead (s : State) : Out := .next s.canRead

/-- A request of the frame at the head: judged and answered with the bytes that `tail` gives. -/
def Chip.canAsk (c : Chip) (kind : Nat) (ok : CanFrame → Bool) (f : Nat → CanFrame → Chip → Judged)
    (tail : Chip → CanFrame → Reason → List Byte) : Chip :=
  match c.canHead kind with
  | none => c
  | some (k, x) =>
    let c := c.canPop
    let j := if ok x then f k x c else (c, .range)
    let c := j.1.answer .can j.2
    c.canReply k x j.2 (tail c x j.2)

/-- KIND 3: a setpoint; the reply tells its TAG and the credits held after judging. -/
def Chip.canSetpoint (c : Chip) : Chip :=
  let axis := match c.canHead 3 with | some x => c.canAxis x.1 | none => 0
  c.canAsk 3 (fun x => decide (7 ≤ x.data.length))
    (fun _ x c => c.setpoint .can axis ⟨BitVec.ofNat 32 (canNum x 0 4), canNum x 4 2, (canNum x 6 1).testBit 0⟩)
    fun c x _ => bytesOf 2 (canNum x 4 2) ++ bytesOf 1 (c.get (AX_STRSTAT_CREDITS axis.val)) ++ zeroBytes 4

/-- CAN_SETPOINT. -/
def execCanSetpoint (s : State) : Out := s.run Chip.canSetpoint

/-- A cue write's form: an FD frame of 12 bytes, the last two 0, that names an entry of the sheet. -/
def cueFormOk (x : CanFrame) : Bool := x.fd && x.data.length == 12 && canNum x 10 2 == 0 && decide (canNum x 0 2 < 16384)

/-- KIND 4: a cue write (R41, R42). -/
def Chip.canCueWrite (c : Chip) : Chip :=
  c.canAsk 4 cueFormOk
    (fun _ x c => c.cueWrite .can (canNum x 0 2) (BitVec.ofNat 64 (canNum x 2 8)))
    fun c x r => bytesOf 2 (canNum x 0 2) ++ bytesOf 1 (r == .ok && c.flag CUE_STATUS_BEHIND).toNat ++ zeroBytes 4

/-- CAN_CUE_WRITE. -/
def execCanCueWrite (s : State) : Out := s.run Chip.canCueWrite

/-- KIND 5: a curve input. -/
def Chip.canCurveInput (c : Chip) : Chip :=
  c.canAsk 5 (fun x => decide (2 ≤ x.data.length))
    (fun k x c => c.writeCin .can (c.canAxis k) (BitVec.ofNat 16 (canNum x 0 2)))
    fun _ _ _ => zeroBytes 7

/-- CAN_CURVE_INPUT. -/
def execCanCurveInput (s : State) : Out := s.run Chip.canCurveInput

/-! ### Supervised nodes (R348) -/

/-- A frame of a supervised node: it is PRESENT, in its slot or in the lowest free one, where its timer starts; a full list
is shown. -/
def Chip.nodeFrame (c : Chip) (k : Nat) (x : CanFrame) : Chip :=
  let c := match c.nodeOf x with
    | some j => c.put (CAN_NODE_LOST j.val) 0
    | none =>
      match nodeSlots.find? fun (j : Fin 32) => !c.flag (CAN_NODE_USED j.val) with
      | none => c
      | some j =>
        let n := j.val
        (((c.setReg (CAN_NODE n) (packFields
          [(CAN_NODE_USED n, 1), (CAN_NODE_IDE n, x.ide.toNat), (CAN_NODE_ID n, x.id.toNat)])).put
          (CAN_NODE_ENTRY_ENTRY n) k)).nodeTimer j
  c.putF CAN_STAT_FULL (nodeSlots.all fun j => c.flag (CAN_NODE_USED j.val))

/-- HEARTBEAT_SUPERVISION: KIND 6 sends no reply. -/
def Chip.heartbeat (c : Chip) : Chip :=
  match c.canHead 6 with
  | none => c
  | some (k, x) => c.canPop.nodeFrame k x

/-- HEARTBEAT_SUPERVISION. -/
def execHeartbeatSupervision (s : State) : Out := s.run Chip.heartbeat

/-- No frame of the node has ended for TARGET ms of its supervising entry (R348). -/
def Chip.nodeOver (c : Chip) (j : Fin 32) : Bool :=
  decide (c.can.nodeTicks[j] + 250000 * (c.canTarget (c.get (CAN_NODE_ENTRY_ENTRY j.val)) % 65536) ≤ c.now)

/-- NODE_TIMEOUT: a node that is PRESENT becomes LOST. -/
def Chip.nodeTimeout (c : Chip) (j : Fin 32) : Chip :=
  if c.canRuns && c.flag (CAN_NODE_USED j.val) && !c.flag (CAN_NODE_LOST j.val) && c.nodeOver j then
    (c.put (CAN_NODE_LOST j.val) 1).raise 0xF7
  else c

/-- NODE_TIMEOUT. -/
def execNodeTimeout (j : Fin 32) (s : State) : Out := s.run fun c => c.nodeTimeout j

/-- FORGET. -/
def execForget (p : Path) (j : Fin 32) (s : State) : Out := s.ask p fun c => c.canForget j.val

/-- The own heartbeat is due: PERIOD ms after the one before (R349). -/
def Chip.beatDue (c : Chip) : Bool :=
  match c.can.beatTick with
  | some t => decide (t + 250000 * c.get CAN_OWNHB2_PERIOD ≤ c.now)
  | none => true

/-- OWN_HEARTBEAT (R349): a classic frame of two bytes with the host status word. -/
def Chip.ownHeartbeat (c : Chip) : Chip :=
  if c.canOnBus && c.flag CAN_OWNHB_EN && c.beatDue then
    let x : CanReply := ⟨BitVec.ofNat 29 (c.get CAN_OWNHB_ID), c.flag CAN_OWNHB_IDE, false, bytesOf 2 c.statusWord.toNat⟩
    { c.canSentOk with can := { c.canSentOk.can with sent := some x, beatTick := some c.now } }
  else c

/-- OWN_HEARTBEAT. -/
def execOwnHeartbeat (s : State) : Out := s.run Chip.ownHeartbeat

end Sys2Proof.Machine
end

