-- ==== Sys2Proof/Machine/CueActions.lean ====
section
/-! DEFINITION. The cue actions (02_cue_sheet.md, Table 2-3, R38, R39, R47 to R50, R56): what a firing of each action does
and when it can do nothing. -/
namespace Sys2Proof.Machine

/-- The target of a firing can take its action (R39). -/
def Chip.fireAble (c : Chip) (f : Fire) : Bool :=
  match cueAction f.cue with
  | 1 | 2 | 3 => c.portIsOut (firePort f).val
  | 4 => c.winAble (cueArg f.cue)
  | 5 => c.hkStartAble f
  | 6 | 7 => c.axisOn (fireAxis f)
  | 9 => c.leads (firePort f) 5
  | 11 => c.releaseAble (fireAxis f)
  | _ => true

/-- The effect of a firing's action (Table 2-3). -/
def Chip.fireEffect (c : Chip) (f : Fire) : Chip :=
  match cueAction f.cue with
  | 1 | 2 | 3 => c.portFire f
  | 4 => c.winFire f
  | 5 => c.hkStartFire f
  | 6 => c.gearSlot f
  | 7 => c.advSet f
  | 8 => c.capture f
  | 9 => c.emuIndex (firePort f)
  | 10 => c.irqFire f
  | 11 => c.release (fireAxis f)
  | 12 => c.switchFire f
  | _ => c

/-- Carries out one waiting firing, as a NOOP where its target cannot take it (R39). -/
def Chip.carryOut (c : Chip) (f : Fire) : Chip :=
  if (c.endFire f).fireAble f then (c.endFire f).fireEffect f else (c.endFire f).noop f

/-- A row of an action for entry `k`: its waiting firing, after those of the same target that come before it (R49); where
none waits, nothing. -/
def Chip.fireCue (c : Chip) (k : EntryIx) (action : Nat) : Chip := c.each (c.firesOf k action) Chip.carryOut

/-- PORT_SET. -/
def execPortSet (k : EntryIx) (s : State) : Out := s.run fun c => c.fireCue k 1

/-- PORT_CLR. -/
def execPortClr (k : EntryIx) (s : State) : Out := s.run fun c => c.fireCue k 2

/-- PORT_PULSE. -/
def execPortPulse (k : EntryIx) (s : State) : Out := s.run fun c => c.fireCue k 3

/-- WIN_CLOSE. -/
def execWinClose (k : EntryIx) (s : State) : Out := s.run fun c => c.fireCue k 4

/-- HK_START. -/
def execHkStart (k : EntryIx) (s : State) : Out := s.run fun c => c.fireCue k 5

/-- GEAR_SLOT. -/
def execGearSlot (k : EntryIx) (s : State) : Out := s.run fun c => c.fireCue k 6

/-- ADV_SET. -/
def execAdvSet (k : EntryIx) (s : State) : Out := s.run fun c => c.fireCue k 7

/-- CAPTURE. -/
def execCapture (k : EntryIx) (s : State) : Out := s.run fun c => c.fireCue k 8

/-- EMU_INDEX. -/
def execEmuIndex (k : EntryIx) (s : State) : Out := s.run fun c => c.fireCue k 9

/-- IRQ. -/
def execIrq (k : EntryIx) (s : State) : Out := s.run fun c => c.fireCue k 10

/-- RELEASE. -/
def execRelease (k : EntryIx) (s : State) : Out := s.run fun c => c.fireCue k 11

/-- ACT_SWITCH. -/
def execActSwitch (k : EntryIx) (s : State) : Out := s.run fun c => c.fireCue k 12

end Sys2Proof.Machine
end

