-- ==== Sys2Proof/Machine/LinkRows.lean ====
section
/-! DEFINITION. The commands of the inter-die link (01_levels.md, Table 1-3, R19 to R22): what each frame carries, and the
shutdown that the loss of a link may assert (R261, R265). -/
namespace Sys2Proof.Machine

/-- A frame arrives and has its effect `eff`; where it takes the link down, a thermal shutdown that the die's lost sensor
asserts is heeded at once (R202, R265). -/
def Chip.frame (c : Chip) (d : Die) (up : Bool) (type : BitVec 4) (f : LinkFrame) (eff : Chip → Chip) : Chip :=
  (c.linkRx d up type f eff).shutdownActs c

/-- DUTY_FRAME. -/
def execDutyFrame (l : Leg) (f : LinkFrame) (on : BitVec 17) (s : State) : Out :=
  s.run fun c => c.frame (dieOfLeg l) false 0x1 f fun c => c.dutyCarried l on

/-- LEG_SETTING_FRAME. -/
def execLegSettingFrame (l : Leg) (f : LinkFrame) (o : Overlap) (s : State) : Out :=
  s.run fun c => c.frame (dieOfLeg l) false 0x2 f fun c => c.settingCarried l o

/-- WINDOW_CLOSE_FRAME. -/
def execWindowCloseFrame (d : Die) (f : LinkFrame) (l : List SliceId) (s : State) : Out :=
  s.run fun c => c.frame d false 0x3 f fun c => c.winFrame d l

/-- SLICE_RESULT_FRAME. -/
def execSliceResultFrame (d : Die) (f : LinkFrame) (r : SliceReport) (s : State) : Out :=
  s.run fun c => c.frame d true 0x4 f fun c => c.sliceReported d r

/-- LEG_STATUS_FRAME. -/
def execLegStatusFrame (l : Leg) (f : LinkFrame) (gh gl bst : Bool) (s : State) : Out :=
  s.run fun c => c.frame (dieOfLeg l) true 0x5 f fun c => c.legReported l gh gl bst

/-- ACKNOWLEDGE_FRAME. -/
def execAcknowledgeFrame (d : Die) (up : Bool) (f : LinkFrame) (nack : Bool) (of : BitVec 4) (s : State) : Out :=
  s.run fun c => c.frame d up 0xF f fun c => c.acknowledged d up nack of

/-- LINK_TIMEOUT. -/
def execLinkTimeout (d : Die) (s : State) : Out := s.run fun c => (c.linkTimeout d).shutdownActs c

end Sys2Proof.Machine
end

