-- ==== Sys2Proof/Machine/Tick.lean ====
section
/-! DEFINITION. TIMEBASE_SAMPLE: one tick (R2, R29).  Swaps of acts that the tick before has left come first (R43); then the wall
tick advances, an accepted power transition takes effect (R312), and what Scan.lean describes takes place. -/
namespace Sys2Proof.Machine

/-- TIMEBASE_SAMPLE; no tick passes while the system clock stands (R313). -/
def Chip.tick (c : Chip) (eccBad : List EntryIx) : Chip :=
  if !c.clockRuns then c else (c.settleSwaps.nextTick.pwrSettle).tickRuns eccBad

/-- TIMEBASE_SAMPLE. -/
def execTimebaseSample (eccBad : List EntryIx) (s : State) : Out := s.run fun c => c.tick eccBad

end Sys2Proof.Machine
end

