-- ==== Sys2Proof/Machine/Dispatch.lean ====
section
/-! DEFINITION. One arm for each command: a direct call of its meaning. -/
namespace Sys2Proof.Machine

/-- What a command does to everything but the queue (log entry 1). -/
def exec (i : Instr) (s : State) : Host.Outcome State Fault Refusal :=
  match i with
  | .nop f => Sys2Proof.Machine.execNop f s
  | .read f => Sys2Proof.Machine.execRead f s
  | .write f => Sys2Proof.Machine.execWrite f s
  | .registerWrite p addr data => Sys2Proof.Machine.execRegisterWrite p addr data s
  | .hpTimeout => Sys2Proof.Machine.execHpTimeout s
  | .hpRdbufRead f => Sys2Proof.Machine.execHpRdbufRead f s
  | .dutyFrame l f on => Sys2Proof.Machine.execDutyFrame l f on s
  | .legSettingFrame l f o => Sys2Proof.Machine.execLegSettingFrame l f o s
  | .windowCloseFrame d f slices => Sys2Proof.Machine.execWindowCloseFrame d f slices s
  | .sliceResultFrame d f r => Sys2Proof.Machine.execSliceResultFrame d f r s
  | .legStatusFrame l f gh gl bst => Sys2Proof.Machine.execLegStatusFrame l f gh gl bst s
  | .acknowledgeFrame d up f nack of => Sys2Proof.Machine.execAcknowledgeFrame d up f nack of s
  | .linkRetransmit d up => Sys2Proof.Machine.execLinkRetransmit d up s
  | .linkTimeout d => Sys2Proof.Machine.execLinkTimeout d s
  | .legFaultBurst l err => Sys2Proof.Machine.execLegFaultBurst l err s
  | .burstSilence l conds => Sys2Proof.Machine.execBurstSilence l conds s
  | .timebaseSample eccBad => Sys2Proof.Machine.execTimebaseSample eccBad s
  | .cueSkip k eccBad => Sys2Proof.Machine.execCueSkip k eccBad s
  | .portSet k => Sys2Proof.Machine.execPortSet k s
  | .portClr k => Sys2Proof.Machine.execPortClr k s
  | .portPulse k => Sys2Proof.Machine.execPortPulse k s
  | .portPulseEnd p => Sys2Proof.Machine.execPortPulseEnd p s
  | .winClose k => Sys2Proof.Machine.execWinClose k s
  | .hkStart k => Sys2Proof.Machine.execHkStart k s
  | .gearSlot k => Sys2Proof.Machine.execGearSlot k s
  | .advSet k => Sys2Proof.Machine.execAdvSet k s
  | .capture k => Sys2Proof.Machine.execCapture k s
  | .emuIndex k => Sys2Proof.Machine.execEmuIndex k s
  | .irq k => Sys2Proof.Machine.execIrq k s
  | .release k => Sys2Proof.Machine.execRelease k s
  | .actSwitch k => Sys2Proof.Machine.execActSwitch k s
  | .cueEntryLowerWrite p k data => Sys2Proof.Machine.execCueEntryLowerWrite p k data s
  | .cueEntrySubmit p k data => Sys2Proof.Machine.execCueEntrySubmit p k data s
  | .cueSwitch p mask => Sys2Proof.Machine.execCueSwitch p mask s
  | .cueSkipqPop p => Sys2Proof.Machine.execCueSkipqPop p s
  | .cueIrqqPop p => Sys2Proof.Machine.execCueIrqqPop p s
  | .cueEntryRead p k upper eccBad => Sys2Proof.Machine.execCueEntryRead p k upper eccBad s
  | .sliceSnapshot a => Sys2Proof.Machine.execSliceSnapshot a s
  | .sliceStart e eccBad stray => Sys2Proof.Machine.execSliceStart e eccBad stray s
  | .sliceCommit a => Sys2Proof.Machine.execSliceCommit a s
  | .sliceDeadline a => Sys2Proof.Machine.execSliceDeadline a s
  | .lockstepMismatch e cycle => Sys2Proof.Machine.execLockstepMismatch e cycle s
  | .reexecutionStart e => Sys2Proof.Machine.execReexecutionStart e s
  | .pwmBoundary a => Sys2Proof.Machine.execPwmBoundary a s
  | .commandedRise l o => Sys2Proof.Machine.execCommandedRise l o s
  | .commandedFall l o => Sys2Proof.Machine.execCommandedFall l o s
  | .gateSenseCrossing l g above => Sys2Proof.Machine.execGateSenseCrossing l g above s
  | .gateTurnOn l g => Sys2Proof.Machine.execGateTurnOn l g s
  | .handshakeTimeout l g => Sys2Proof.Machine.execHandshakeTimeout l g s
  | .gateStuck l g => Sys2Proof.Machine.execGateStuck l g s
  | .bstUv l => Sys2Proof.Machine.execBstUv l s
  | .bstOk l => Sys2Proof.Machine.execBstOk l s
  | .forcedRefresh l => Sys2Proof.Machine.execForcedRefresh l s
  | .chargingPulse l => Sys2Proof.Machine.execChargingPulse l s
  | .vds l g => Sys2Proof.Machine.execVds l g s
  | .trip l => Sys2Proof.Machine.execTrip l s
  | .windowClose k w => Sys2Proof.Machine.execWindowClose k w s
  | .fixedWindowExpiry k => Sys2Proof.Machine.execFixedWindowExpiry k s
  | .excHalfCycle => Sys2Proof.Machine.execExcHalfCycle s
  | .windowLimit k => Sys2Proof.Machine.execWindowLimit k s
  | .slWlenWrite p k data => Sys2Proof.Machine.execSlWlenWrite p k data s
  | .roundStart d => Sys2Proof.Machine.execRoundStart d s
  | .turnStart d => Sys2Proof.Machine.execTurnStart d s
  | .calibrationEnd d measured => Sys2Proof.Machine.execCalibrationEnd d measured s
  | .sliceCheckFail k c => Sys2Proof.Machine.execSliceCheckFail k c s
  | .understudySettleEnd d => Sys2Proof.Machine.execUnderstudySettleEnd d s
  | .portEdge p lines wires => Sys2Proof.Machine.execPortEdge p lines wires s
  | .wireCheckFail p => Sys2Proof.Machine.execWireCheckFail p s
  | .hallCodeTimeout p => Sys2Proof.Machine.execHallCodeTimeout p s
  | .acquireComplete p => Sys2Proof.Machine.execAcquireComplete p s
  | .ssiFrameEnd p f => Sys2Proof.Machine.execSsiFrameEnd p f s
  | .ssiReadyTimeout p => Sys2Proof.Machine.execSsiReadyTimeout p s
  | .digitalSample p level => Sys2Proof.Machine.execDigitalSample p level s
  | .limitRearm p => Sys2Proof.Machine.execLimitRearm p s
  | .freqTimeout p => Sys2Proof.Machine.execFreqTimeout p s
  | .testOn path p => Sys2Proof.Machine.execTestOn path p s
  | .testOff path p => Sys2Proof.Machine.execTestOff path p s
  | .limClr path p => Sys2Proof.Machine.execLimClr path p s
  | .emuEdge p => Sys2Proof.Machine.execEmuEdge p s
  | .emuLag p => Sys2Proof.Machine.execEmuLag p s
  | .zPulseEnd p => Sys2Proof.Machine.execZPulseEnd p s
  | .primaryLoss a => Sys2Proof.Machine.execPrimaryLoss a s
  | .switchOver a => Sys2Proof.Machine.execSwitchOver a s
  | .sourceResume a => Sys2Proof.Machine.execSourceResume a s
  | .back p a => Sys2Proof.Machine.execBack p a s
  | .commutationPoint a k backward => Sys2Proof.Machine.execCommutationPoint a k backward s
  | .transitionStep a => Sys2Proof.Machine.execTransitionStep a s
  | .sectorReapply a => Sys2Proof.Machine.execSectorReapply a s
  | .zeroCrossing l rise => Sys2Proof.Machine.execZeroCrossing l rise s
  | .ipdPulse a k gap => Sys2Proof.Machine.execIpdPulse a k gap s
  | .openLoopStep a => Sys2Proof.Machine.execOpenLoopStep a s
  | .brakeHoldEnd a => Sys2Proof.Machine.execBrakeHoldEnd a s
  | .off p a => Sys2Proof.Machine.execOff p a s
  | .curve p a backward => Sys2Proof.Machine.execCurve p a backward s
  | .compat p a => Sys2Proof.Machine.execCompat p a s
  | .stream p a => Sys2Proof.Machine.execStream p a s
  | .gear p a keep slot => Sys2Proof.Machine.execGear p a keep slot s
  | .home p a backward => Sys2Proof.Machine.execHome p a backward s
  | .hold p a => Sys2Proof.Machine.execHold p a s
  | .localCurveEntry a => Sys2Proof.Machine.execLocalCurveEntry a s
  | .axCinWrite p a value => Sys2Proof.Machine.execAxCinWrite p a value s
  | .curveInputTimeout a => Sys2Proof.Machine.execCurveInputTimeout a s
  | .cmpCtrlWrite p a data => Sys2Proof.Machine.execCmpCtrlWrite p a data s
  | .cmpTargetWrite p a data => Sys2Proof.Machine.execCmpTargetWrite p a data s
  | .cmpAccelWrite p a data => Sys2Proof.Machine.execCmpAccelWrite p a data s
  | .cmpDecelWrite p a data => Sys2Proof.Machine.execCmpDecelWrite p a data s
  | .axSploWrite p a data => Sys2Proof.Machine.execAxSploWrite p a data s
  | .setpointSubmit p a data => Sys2Proof.Machine.execSetpointSubmit p a data s
  | .homingTimeout a => Sys2Proof.Machine.execHomingTimeout a s
  | .busThresholdCrossing r v => Sys2Proof.Machine.execBusThresholdCrossing r v s
  | .fastCurrentReport r x => Sys2Proof.Machine.execFastCurrentReport r x s
  | .chopperCheckExpiry r => Sys2Proof.Machine.execChopperCheckExpiry r s
  | .chopMinExpiry r => Sys2Proof.Machine.execChopMinExpiry r s
  | .packDetection r => Sys2Proof.Machine.execPackDetection r s
  | .precharge r => Sys2Proof.Machine.execPrecharge r s
  | .prechargeTimeout r => Sys2Proof.Machine.execPrechargeTimeout r s
  | .admGate r => Sys2Proof.Machine.execAdmGate r s
  | .busAdmit p r => Sys2Proof.Machine.execAdmit p r s
  | .admOpen p r => Sys2Proof.Machine.execAdmOpen p r s
  | .rideLedgerRead p r returned => Sys2Proof.Machine.execRideLedgerRead p r returned s
  | .hkCmdStart p c => Sys2Proof.Machine.execHkCmdStart p c s
  | .hkCmdUrgent p c => Sys2Proof.Machine.execHkCmdUrgent p c s
  | .hktrigEdge c rising => Sys2Proof.Machine.execHktrigEdge c rising s
  | .hkRoundStart => Sys2Proof.Machine.execHkRoundStart s
  | .adaptiveRequest => Sys2Proof.Machine.execAdaptiveRequest s
  | .hkConversionEnd c raw sense bad => Sys2Proof.Machine.execHkConversionEnd c raw sense bad s
  | .hkChWrite p ch data => Sys2Proof.Machine.execHkChWrite p ch data s
  | .wmSample m hi lo => Sys2Proof.Machine.execWmSample m hi lo s
  | .wakeAck p => Sys2Proof.Machine.execWakeAck p s
  | .faultCollectorTick => Sys2Proof.Machine.execFaultCollectorTick s
  | .severityWindowExpiry x => Sys2Proof.Machine.execSeverityWindowExpiry x s
  | .beaconPulseEnd => Sys2Proof.Machine.execBeaconPulseEnd s
  | .clockLoss => Sys2Proof.Machine.execClockLoss s
  | .testWordCheck u => Sys2Proof.Machine.execTestWordCheck u s
  | .fltInj p checker unit => Sys2Proof.Machine.execFltInj p checker unit s
  | .fltClr p x => Sys2Proof.Machine.execFltClr p x s
  | .fltClrAll p => Sys2Proof.Machine.execFltClrAll p s
  | .fltFirstClear p => Sys2Proof.Machine.execFltFirstClear p s
  | .fltAccClear p => Sys2Proof.Machine.execFltAccClear p s
  | .nresetRise reads => Sys2Proof.Machine.execNresetRise reads s
  | .nresetFall => Sys2Proof.Machine.execNresetFall s
  | .reset p reads => Sys2Proof.Machine.execReset p reads s
  | .reload p => Sys2Proof.Machine.execReload p s
  | .imageHeader h => Sys2Proof.Machine.execImageHeader h s
  | .sectionHeader h => Sys2Proof.Machine.execSectionHeader h s
  | .registerRecord addr data => Sys2Proof.Machine.execRegisterRecord addr data s
  | .cueRecord index lower upper => Sys2Proof.Machine.execCueRecord index lower upper s
  | .sectionEnd fill => Sys2Proof.Machine.execSectionEnd fill s
  | .imageEnd tag => Sys2Proof.Machine.execImageEnd tag s
  | .i2cAddressRetry acked => Sys2Proof.Machine.execI2cAddressRetry acked s
  | .sysPwrHouse p => Sys2Proof.Machine.execSysPwrHouse p s
  | .sysPwrStandby p => Sys2Proof.Machine.execSysPwrStandby p s
  | .sysPwrShow p => Sys2Proof.Machine.execSysPwrShow p s
  | .sysPwrDark p => Sys2Proof.Machine.execSysPwrDark p s
  | .darkEntry => Sys2Proof.Machine.execDarkEntry s
  | .darkExitComplete us => Sys2Proof.Machine.execDarkExitComplete us s
  | .lifecycleChange p data left copies reads => Sys2Proof.Machine.execLifecycleChange p data left copies reads s
  | .prog p word left => Sys2Proof.Machine.execProg p word left s
  | .repulse p word left => Sys2Proof.Machine.execRepulse p word left s
  | .redirect p row left => Sys2Proof.Machine.execRedirect p row left s
  | .otpLock p area left => Sys2Proof.Machine.execOtpLock p area left s
  | .otpVerify v => Sys2Proof.Machine.execOtpVerify v s
  | .logRecordWrite first second => Sys2Proof.Machine.execLogRecordWrite first second s
  | .pendingFlush first second => Sys2Proof.Machine.execPendingFlush first second s
  | .checkpointSlot first second => Sys2Proof.Machine.execCheckpointSlot first second s
  | .orderlyCheckpoint => Sys2Proof.Machine.execOrderlyCheckpoint s
  | .canFrameReceived f => Sys2Proof.Machine.execCanFrameReceived f s
  | .canWrite => Sys2Proof.Machine.execCanWrite s
  | .canRead => Sys2Proof.Machine.execCanRead s
  | .canSetpoint => Sys2Proof.Machine.execCanSetpoint s
  | .canCueWrite => Sys2Proof.Machine.execCanCueWrite s
  | .canCurveInput => Sys2Proof.Machine.execCanCurveInput s
  | .heartbeatSupervision => Sys2Proof.Machine.execHeartbeatSupervision s
  | .canReplySend => Sys2Proof.Machine.execCanReplySend s
  | .nodeTimeout j => Sys2Proof.Machine.execNodeTimeout j s
  | .ownHeartbeat => Sys2Proof.Machine.execOwnHeartbeat s
  | .busOff => Sys2Proof.Machine.execBusOff s
  | .busOffRec p => Sys2Proof.Machine.execBusOffRec p s
  | .forget p j => Sys2Proof.Machine.execForget p j s
  | .statusFrame f => Sys2Proof.Machine.execStatusFrame f s
  | .helloFrame f => Sys2Proof.Machine.execHelloFrame f s
  | .startFrame f => Sys2Proof.Machine.execStartFrame f s
  | .syncFrame f err => Sys2Proof.Machine.execSyncFrame f err s
  | .posFrame f => Sys2Proof.Machine.execPosFrame f s
  | .faultFrame f => Sys2Proof.Machine.execFaultFrame f s
  | .slotStart slot => Sys2Proof.Machine.execSlotStart slot s
  | .helloSend => Sys2Proof.Machine.execHelloSend s
  | .trainingTimeout => Sys2Proof.Machine.execTrainingTimeout s
  | .syncTimeout => Sys2Proof.Machine.execSyncTimeout s
  | .retrain p => Sys2Proof.Machine.execRetrain p s
  | .eventLineEdge p level => Sys2Proof.Machine.execEventLineEdge p level s
  | .busOffRecovery => Sys2Proof.Machine.execBusOffRecovery s
  | .canBusError role => Sys2Proof.Machine.execCanBusError role s

end Sys2Proof.Machine
end

