-- ==== Sys2Proof/Safety.lean ====
section
/-! DEFINITION. The words that statements use: a safe run, the canonical form of the sparse memories, what the fuses keep. -/
namespace Sys2Proof.Machine

/-- Two states differ at most in the register words and in what is noted of them as set in this tick (R7): what no register
shows, the fuses, the logbook and the queue are the same. -/
def OnlyRegs (s t : State) : Prop := t = { s with chip := { s.chip with regs := t.chip.regs, fresh := t.chip.fresh } }

/-- Every field, of any register, that shares no bit with a field of `l` has the same value in both. -/
def FieldsBut (l : List Field) (c d : Chip) : Prop := ∀ g : Field, g.ok → (∀ f ∈ l, g.apart f) → d.get g = c.get g

/-- Every register has the same word in both, but for those of `l`. -/
def RegsBut (l : List Nat) (c d : Chip) : Prop := ∀ a : Nat, a ∉ l → d.reg a = c.reg a

/-- A run of `k` steps that meets no fault and no refusal. -/
def SafeRun (s : State) (k : Nat) : Prop := ∃ t, core.run k s = .next t

/-- The sparse memories of the volatile part are in their canonical form. -/
def Chip.wf (c : Chip) : Bool :=
  cellsWf regReset c.regs && cellsWf zeros c.hold && cellsWf zeros c.cues.sheet

/-- The fuses and the logbook are in their canonical form. -/
def NonVolatile.wf (nv : NonVolatile) : Bool := cellsWf zeros nv.fuses && cellsWf zeros nv.log

/-- Every sparse memory is in its canonical form. -/
def State.wf (s : State) : Bool := s.chip.wf && s.nv.wf

/-- No bit of the fuse array that is 1 in `a` is 0 in `b`, in the array as in its spares and its table (R321). -/
def FusesKept (a b : NonVolatile) : Prop := ∀ k, a.fuse k &&& b.fuse k = a.fuse k

/-- The command completes on `s`: exec answers a next state whose volatile part satisfies `P`, with the fuses, the logbook
and the queue as they were. -/
def Completes (i : Instr) (s : State) (P : Chip → Prop) : Prop := ∃ c, exec i s = .next { s with chip := c } ∧ P c

/-- The path reaches the part, no start sequence runs, and the part is outside DARK: a request is judged by its own rules
(R299, R315). -/
def Chip.serves (c : Chip) (p : Path) : Prop := c.carries p = true ∧ c.booting = false ∧ c.inDark = false

/-- The request is accepted: its effect satisfies `P`, and the path learns the reason OK (R12); the fuses, the logbook and the
queue stay as they were. -/
def Grants (i : Instr) (p : Path) (s : State) (P : Chip → Prop) : Prop :=
  ∃ c, exec i s = .next { s with chip := c.answer p .ok } ∧ P c

/-- The request is refused with `r`: it has no effect but the reason its path learns (R10). -/
def Refuses (i : Instr) (p : Path) (s : State) (r : Reason) : Prop :=
  exec i s = .next { s with chip := s.chip.answer p r }

/-- The read is executed: its path receives `v` and the reason OK, and its effect satisfies `P`. -/
def Yields (i : Instr) (p : Path) (s : State) (v : Word) (P : Chip → Prop) : Prop :=
  ∃ c, exec i s = .next { s with chip := (c.give p v).answer p .ok } ∧ P c

/-- Nothing that earlier ticks left to do moves the source of timebase `n`: its axis has no commutation point due and no return
to its primary (R169, R171). -/
def Chip.quietTb (c : Chip) (n : Tb) : Prop :=
  ∀ a, tbAxis n = some a → (c.axis a).lane = [] ∧ (c.axis a).backDue = none

/-- What carrying out a firing leaves of the cue sheet: everything but the firing itself. -/
def FiredOnly (s : State) (f : Fire) (c : Chip) : Prop :=
  c.cues = { s.chip.cues with fires := s.chip.cues.fires.erase f }

/-- The timebases of `l` swap their acts, each once in its tick `t`; the sheet, the waiting firings and every other register
field stay (R43 to R45). -/
def Swapped (l : List Tb) (t : Nat) (b c : Chip) : Prop :=
  (∀ n ∈ l, (b.tb n).swapTick ≠ some t → c.runAct n.val = 1 - b.runAct n.val) ∧
  (∀ n, n ∉ l ∨ (b.tb n).swapTick = some t → c.runAct n.val = b.runAct n.val) ∧
  c.cues = { b.cues with disarmed := c.cues.disarmed } ∧
  c = { b with regs := c.regs, tbs := c.tbs, cues := c.cues } ∧
  ∀ g : Field, g.ok → (∀ n ∈ l, g.apart (CUE_TB_CFG_RUN n.val)) → c.get g = b.get g

/-- The slices that differ in `c` from `b` are those of `l`, and each running one of them has had a close requested as `f`
says. -/
def Requested (l : List SliceId) (f : SliceState → SliceState) (b c : Chip) : Prop :=
  (∀ k ∈ l, c.slice k = if (b.slice k).running then f (b.slice k) else b.slice k) ∧
  (∀ k, k ∉ l → c.slice k = b.slice k)

/-- The slice closes now, at a modulator edge and with figures that integrators can show, and counts with its own integrator,
in no turn and no hand-back; an understudy closes so only at a stop. -/
def Chip.closesAlone (c : Chip) (k : SliceId) (w u : Window) : Prop :=
  c.closeDue k = true ∧ windowFits w (c.clocksOf k) = true ∧ windowFits u (c.clocksOf (underOf (dieOfSlice k))) = true ∧
  (c.slice k).gap = false ∧ (c.slice k).back = false ∧ c.subNow k = false ∧
  (c.under (dieOfSlice k)).target ≠ some k.val ∧ (c.under (dieOfSlice k)).settling ≠ some k.val ∧
  (∀ m ∈ mates k, (c.slice m).waits = false) ∧
  (isUnder k = true → (c.slice k).stopping = true ∧ c.beside (dieOfSlice k) = none)

/-- What a window of a slice's own integrator counts (R104, R105). -/
def Chip.ownCount (c : Chip) (k : SliceId) (w : Window) : Int :=
  256 * w.packets + fineCode (c.slice k).stopping w.full - (c.slice k).fStart

/-- The result of that window (Tables 5-10, 5-11, R105, R109). -/
def Chip.ownResult (c : Chip) (k : SliceId) (w : Window) : Result :=
  { count := c.ownCount k w, clocks := c.clocksOf k, ovr := decide (w.full < 0) || decide (255 < w.full)
    setl := decide (0 < (c.slice k).settle), sub := false, chk := false }

/-- What its close sends up (R99, R102 to R108). -/
def Chip.ownReport (c : Chip) (k : SliceId) (w : Window) : Report :=
  let x := c.slice k
  { res := c.ownResult k w, cause := x.cause, excess := w.full - fineCode x.stopping w.full, opened := x.opened
    shut := c.now, clampClocks := w.clampClocks, clampEntries := w.clampEntries, gapClocks := 0
    sched := !isUnder k && x.reqSched && !x.stopping, stop := x.stopping }

/-- The report `r` of slice `k` stands in the slice's registers (R102 to R107, Tables 5-10 to 5-12). -/
def ReportShown (k : SliceId) (r : Report) (b c : Chip) : Prop :=
  c.get (SL_RES_COUNT k.val) = wrapTo 24 r.res.count ∧ c.get (SL_RES_CLS k.val) = r.cause % 4 ∧
  c.flag (SL_RES_OVR k.val) = r.res.ovr ∧ c.flag (SL_RES_SETL k.val) = r.res.setl ∧
  c.flag (SL_RES_SUB k.val) = r.res.sub ∧ c.flag (SL_RES_CHK k.val) = r.res.chk ∧
  c.get (SL_RLEN_LEN k.val) = r.res.clocks % ((SL_RLEN_LEN k.val).top + 1) ∧
  c.get (SL_RLEN_SEQ k.val) = (b.get (SL_RLEN_SEQ k.val) + 1) % ((SL_RLEN_SEQ k.val).top + 1) ∧
  c.ledger k = wrapTo 48 ((b.ledger k : Int) + r.res.count) ∧
  c.get (SL_EXCESS_EXCESS k.val) =
    wrapTo ((SL_EXCESS_EXCESS k.val).hi + 1 - (SL_EXCESS_EXCESS k.val).lo) r.excess ∧
  c.get (SL_CLAMP_CLOCKS k.val) = min (b.get (SL_CLAMP_CLOCKS k.val) + r.clampClocks) (SL_CLAMP_CLOCKS k.val).top ∧
  c.get (SL_GAP_CLOCKS k.val) = min (b.get (SL_GAP_CLOCKS k.val) + r.gapClocks) (SL_GAP_CLOCKS k.val).top ∧
  c.flag (SL_STAT_CLAMP k.val) = (b.flag (SL_STAT_CLAMP k.val) || r.clampEntries != 0) ∧
  b.faults.events.length ≤ c.faults.events.length ∧
  (r.clampEntries ≠ 0 → ⟨srcSlice k, r.clampEntries, 0, 0, false⟩ ∈ c.faults.events)

/-- The registers that show the gap of slice `k`: the status of the slices that close with it, and its axis's SUSP (R118,
R120). -/
def gapRegs (k : SliceId) : List Nat :=
  (closesWith k).map (fun j => SL_STAT j.val) ++ (phaseAxis k).toList.map fun a => AX_KIRCHS a.val

/-- A link frame that the receiver of die `d` takes: the link is up, no CRC injection is armed for it, and its CRC is
right for a frame of type `type` (R19 to R21, R292). -/
def Chip.linkTakes (c : Chip) (d : Die) (up : Bool) (type : BitVec 4) (f : LinkFrame) : Bool :=
  !(c.link d).down && !c.injected 1 (linkUnit d up) && linkFrameOk f type

/-- No leg but `l` differs. -/
def OneLeg (l : Leg) (b c : Chip) : Prop := ∀ k, k ≠ l → c.leg k = b.leg k

/-- What raising a condition of leg `l` does (R90 to R93): its sticky bit and its live bit are 1, the leg's source `j` has one
more event exactly when the condition was not live, its report is owed to the fault line, and nothing else changes. -/
def LegCondition (l : Leg) (sticky live : Field) (j : Nat) (b c : Chip) : Prop :=
  c.get sticky = 1 ∧ c.get live = 1 ∧
  c.faults = { b.faults with
    events := b.faults.events ++ (if b.flag live then [] else [⟨srcLeg l j, 1, 0, 0, false⟩]) } ∧
  c.leg l = { b.leg l with owed := (b.leg l).owed ||| (8#4 >>> j) } ∧ OneLeg l b c ∧
  FieldsBut [sticky, live] b c ∧ c = { b with regs := c.regs, fresh := c.fresh, legs := c.legs, faults := c.faults }

/-- No link but that of die `d` differs. -/
def OneLink (d : Die) (b c : Chip) : Prop := ∀ e, e ≠ d → c.link e = b.link e

/-- No slice but `k` differs. -/
def OneSlice (k : SliceId) (b c : Chip) : Prop := ∀ j, j ≠ k → c.slice j = b.slice j

/-- No understudy but that of die `d` differs. -/
def OneUnder (d : UDie) (b c : Chip) : Prop := ∀ e, e ≠ d → c.under e = b.under e

/-- No port but `p` differs. -/
def OnePort (p : Port) (b c : Chip) : Prop := ∀ q, q ≠ p → c.port q = b.port q

/-- No axis but `a` differs. -/
def OneAxis (a : Axis) (b c : Chip) : Prop := ∀ x, x ≠ a → c.axis x = b.axis x

/-- No bus but that of region `r` differs. -/
def OneBus (r : Region) (b c : Chip) : Prop := ∀ q, q ≠ r → c.bus q = b.bus q

/-- The collector has one more event, of source `src`, and is otherwise the same. -/
def Raised (src : Nat) (b c : Chip) : Prop :=
  c.faults = { b.faults with events := b.faults.events ++ [⟨src, 1, 0, 0, false⟩] }

/-- The axis takes sector `sec` (Table 7-3): it is shown, no transition runs, and while duties drive the axis its legs are asked
for PWM, LOW and FLOAT as the sector has them. -/
def SectorTaken (a : Axis) (sec : Nat) (b c : Chip) : Prop :=
  c.get (AX_SRCSTAT_SECTOR a.val) = sec ∧ (c.axis a).trans = none ∧
  (b.pulsed a = true → (c.leg (legOf a (sectorLegs sec).1)).wantMode = .pwm ∧
    (c.leg (legOf a (sectorLegs sec).2.1)).wantMode = .low ∧ (c.leg (legOf a (sectorLegs sec).2.2)).wantMode = .float) ∧
  (b.pulsed a = false → c.legs = b.legs) ∧
  OneAxis a b c ∧ FieldsBut [AX_SRCSTAT_SECTOR a.val] b c ∧ (∀ l, l ∉ legsOf a → c.leg l = b.leg l) ∧
  c = { b with regs := c.regs, legs := c.legs, axes := c.axes }

/-- A start of the axis fails (R189): START reads 6, its legs are asked to float, and its plausibility source has one event. -/
def StartFailed (a : Axis) (b c : Chip) : Prop :=
  c.get (AX_SRCSTAT_START a.val) = 6 ∧ (∀ l ∈ legsOf a, (c.leg l).wantMode = .float) ∧ Raised (srcAxis a 1) b c ∧
  OneAxis a b c ∧ FieldsBut [AX_SRCSTAT_START a.val] b c ∧ (∀ l, l ∉ legsOf a → c.leg l = b.leg l) ∧
  c = { b with regs := c.regs, legs := c.legs, axes := c.axes, faults := c.faults, free := c.free }

/-- A pulse of detection begins in direction 30 °e × k (R188): its legs are asked for the rails of their weights, and the axis's
phase windows are asked to close. -/
def PulseBegins (a : Axis) (k : Nat) (b c : Chip) : Prop :=
  (c.axis a).ipdOn = true ∧ (c.axis a).ipdFrom = b.now ∧ (c.axis a).ipdTo = none ∧ (c.axis a).ipdOvr = false ∧
  (∀ ph : Fin 3, (c.leg (legOf a ph)).wantMode =
    if 0 < ipdWeight k ph then .pwm else if ipdWeight k ph < 0 then .low else .float) ∧
  (∀ j ∈ slicesOfAxis a, (b.slice j).running = true → (c.slice j).reqCue = true) ∧
  (∀ j, j ∉ slicesOfAxis a → c.slice j = b.slice j) ∧ (∀ l, l ∉ legsOf a → c.leg l = b.leg l) ∧ OneAxis a b c

/-- The crossed cue of the bank lane that a COMMUTATION_POINT row stands for (R171). -/
def Chip.pointDue (c : Chip) (a : Axis) (k : Fin 6) (back : Bool) : Option LaneFire :=
  (c.axis a).lane.find? fun f => f.point == k.val && f.back == back && c.laneStep a f.back f.place == 0

/-- The crossed cue of the lane that a TRANSITION_STEP row stands for (R174). -/
def Chip.stepDue (c : Chip) (a : Axis) : Option LaneFire :=
  (c.axis a).lane.find? fun f => c.laneStep a f.back f.place != 0

/-- The axis has entered `mode` with direction `back` (R203, R204): the mode and the direction show, REACTED clears, the next
snapshot takes it, and only registers of the axis that belong to its modes and its start change. -/
def Entered (a : Axis) (mode : Nat) (back : Bool) (b c : Chip) : Prop :=
  c.modeOf a = mode ∧ c.flag (AX_MSTAT_DIR a.val) = back ∧ c.get (AX_MSTAT_REACTED a.val) = 0 ∧
  (c.axis a).entered = true ∧ (c.axis a).entries = (b.axis a).entries + 1 ∧ OneAxis a b c ∧
  RegsBut [AX_MSTAT a.val, AX_SRCSTAT a.val, AX_STRSTAT a.val, AX_SPC a.val, AX_GREM a.val] b c ∧
  c = { b with regs := c.regs, axes := c.axes }

/-- The fields that show what a port group's state means to its consumers: the validity of the axes' sources (R166) and the
limits of the linear masters (R31). -/
def consumerFields : List Field :=
  (allAxes.flatMap fun a => [AX_SRCSTAT_PRI_OK a.val, AX_SRCSTAT_SEC_OK a.val, AX_SRCSTAT_OFS_OK a.val]) ++
    [16, 17, 18, 19].map CUE_TB_STAT_LIMIT

/-- The edge ledger of group `p` holds (R139): the edges, or the frames, are those booked as motion, as edge faults and as
illegal. -/
def Chip.edgeLaw (c : Chip) (p : Port) : Prop :=
  c.get64 (FP_LTOT p.val) = (c.get64 (FP_LMF p.val) + c.get64 (FP_LMB p.val) + c.get64 (FP_LEF p.val) + c.get64 (FP_LIL p.val)) % 2 ^ 64

/-- The sampled lines of group `p` after a sample of its counting lines. -/
def Chip.nextLines (c : Chip) (p : Port) (lines : BitVec 3) : BitVec 3 :=
  ((c.port p).lines &&& ~~~c.countMask p) ||| (lines &&& c.countMask p)

/-- The lead of group `p` is faulty (R131, R156): `flag` and FAULTY are set, RECOVER begins outside TEST, and the lead's
source has one event before any of its consumers'. -/
def PortFaulted (p : Port) (flag : Field) (b c : Chip) : Prop :=
  c.get flag = 1 ∧ c.get (FP_STAT_FAULTY p.val) = 1 ∧ c.portState p = (if b.portState p = 2 then 2 else 3) ∧
  c.faults.events.take (b.faults.events.length + 1) = b.faults.events ++ [⟨srcPort p, 1, 0, 0, false⟩]

/-- The fast voltage of region `r` rises through V_ASC (R237). -/
def Chip.crossesAsc (c : Chip) (r : Region) (v : Nat) : Prop :=
  c.get (BUS_FAST_V r.val) < c.volts (BUS_VTH_V_ASC r.val) ∧ c.volts (BUS_VTH_V_ASC r.val) ≤ v

/-- No converter but `n` differs. -/
def OneConv (n : Region) (b c : Chip) : Prop := ∀ q, q ≠ n → c.hk q = b.hk q

/-- Converter `n` begins a conversion of channel `ch` in class `cls` in this tick (R251, R253): HK_STAT shows it, and a
conversion that it aborts is counted. -/
def ConversionBegins (n : Region) (ch cls : Nat) (b c : Chip) : Prop :=
  (∃ q, (c.hk n).running = some q ∧ q.ch = ch ∧ q.cls = cls ∧ q.since = b.now ∧ q.rng = b.get (HK_CH_RNG ch) ∧
    q.window = b.hkWindow ch) ∧
  c.get (HK_STAT_BUSY n.val) = 1 ∧ c.get (HK_STAT_CLASS n.val) = cls ∧ c.get (HK_STAT_CH n.val) = ch % 64 ∧
  c.get (HK_CNT_ABORTS n.val) =
    (if b.hkIdle n then b.get (HK_CNT_ABORTS n.val) else min (b.get (HK_CNT_ABORTS n.val) + 1) 65535) ∧
  OneConv n b c ∧
  FieldsBut [HK_STAT_BUSY n.val, HK_STAT_CLASS n.val, HK_STAT_CH n.val, HK_CNT_ABORTS n.val] b c

/-- The condition of monitor `m` at an input in µV as its two comparators see it, its hysteresis taken into account (R266). -/
def Chip.wmSees (c : Chip) (m : Fin 8) (hi lo : Word) : Bool :=
  let x := c.wmCompare m hi.toNat lo.toNat
  wmCond (c.get (WM_CFG_COND m.val)) x.above x.below

/-- The run of equal samples of monitor `m` with a sample whose condition is `v` (R266). -/
def Chip.wmRun (c : Chip) (m : Fin 8) (v : Bool) : Nat :=
  if v = (c.wm m).level ∧ (c.wm m).qual = true then min ((c.wm m).run + 1) 255 else 1

/-- The severe event `e` has latched its source: the reaction's lines hold, the axes it names are in OFF, and the legs obey
(R22, R96, R204, R281 to R285). -/
def Reacting (e : Event) (b c : Chip) : Prop :=
  (∀ a, (b.reactionMask e).getLsbD a.val = true → c.modeOf a = 0 ∧ c.get (AX_MSTAT_REACTED a.val) = 1) ∧
  (∀ l, (b.reactionMask e).getLsbD (axisOfLeg l).val = true →
    (b.effCode e = 3 → c.legReact l ≠ 0) ∧ (b.effCode e = 4 ∨ b.effCode e = 5 → 2 ≤ c.legReact l)) ∧
  (b.effCode e = 6 → c.faults.fire = true ∧ ∀ l, c.legReact l = 3) ∧
  (∀ l, c.legReact l = 1 → (c.leg l).ghOn = false ∧ (c.leg l).glCmd = true ∧ (c.leg l).awaitDuty = true) ∧
  (∀ l, 2 ≤ c.legReact l → (c.leg l).ghOn = false ∧ (c.leg l).glOn = false ∧ (c.leg l).awaitDuty = true)

/-- The first capture of a severe event (R286 to R289): an empty FLT_FIRST takes its source, code and tick; BEACON pulses; a
full one only notes that another came. -/
def FirstCapture (e : Event) (b c : Chip) : Prop :=
  (b.flag FLT_FIRST_VALID = false →
    c.get FLT_FIRST_VALID = 1 ∧ c.get FLT_FIRST_SRC = e.src ∧ c.get FLT_FIRST_CODE = b.effCode e % 8 ∧
    c.get FLT_FIRST_SAME_TICK = 0 ∧ c.get FLT_FIRST_OVF = 0 ∧ c.get64 FLT_FIRSTT = b.wall % 2 ^ 64 ∧
    c.flag BEACON_CTL_PULSING = true) ∧
  (b.flag FLT_FIRST_VALID = true →
    c.get FLT_FIRST_OVF = 1 ∧ c.get FLT_FIRST_SRC = b.get FLT_FIRST_SRC ∧ c.get FLT_FIRST_CODE = b.get FLT_FIRST_CODE ∧
    c.get64 FLT_FIRSTT = b.get64 FLT_FIRSTT)

/-- What ends step 4 of the sequence before an image comes (R309, R318, R350): STRIKE with CAUSE 8, a port setting that cannot
be used with CAUSE 1; otherwise the sequence waits for the image. -/
def Awaits (c : Chip) : Prop :=
  (c.inStrike = true → c.get SYS_IMGSTAT_CAUSE = 8 ∧ c.inHouse = true ∧ c.booting = false ∧ c.load.stage = .done) ∧
  (c.inStrike = false → c.nvmSetting.any settingBad = true →
    c.get SYS_IMGSTAT_CAUSE = 1 ∧ c.inHouse = true ∧ c.booting = false ∧ c.load.stage = .done) ∧
  (c.inStrike = false → c.nvmSetting.any settingBad = false → c.booting = true ∧ c.load.stage = .loading)

/-- A start sequence has run its steps 1 to 4 (R297, R300, R322, R374, Table 12-1): the tick and the ledgers begin at 0,
everything volatile is wiped, registers read their reset words, the life-cycle state and the locks are voted from the fuses,
and the image is awaited. -/
def Started (rcause : Nat) (nv : NonVolatile) (reads : List OtpRead) (c : Chip) : Prop :=
  c.wall = 0 ∧ c.get SYS_STATUS_RCAUSE = rcause ∧ c.get SYS_STATUS_LC = (nv.lifeCycle reads).1 ∧
  c.flag SYS_STATUS_LC_AMBIG = (nv.lifeCycle reads).2 ∧ c.get OTP_STATUS_LOCK = nv.locks reads ∧ c.cfgOk = false ∧
  (∀ l, c.leg l = (c.leg l).anew) ∧ c.now = 0 ∧ c.links = Vector.replicate 4 {} ∧ c.tbs = Vector.replicate 21 {} ∧ c.cues = {} ∧
  c.slices = Vector.replicate 41 {} ∧ c.unders = Vector.replicate 5 {} ∧ c.ports = Vector.replicate 32 {} ∧
  c.axes = Vector.replicate 8 {} ∧ c.buses = Vector.replicate 2 {} ∧ c.hks = Vector.replicate 2 {} ∧
  c.faults.latched = [] ∧ c.faults.fire = false ∧ c.rng = {} ∧
  (∀ a, (0x011000 ≤ a ∧ a < 0x020000) ∨ 0x040000 ≤ a → a ≠ FE_INFO 0 → a ≠ FE_INFO 1 → a ∉ trimRegs →
    c.reg a = regReset a) ∧
  Awaits c

/-- A load has stopped (R78, R309): SYS_IMGSTAT and SYS_IMGAT name what failed, what the load wrote is undone, no leg is driven
but by a reaction line, and the part enters HOUSE unconfigured; SYS_BOOTT shows what the sequence took (R298). -/
def LoadStopped (cause : Nat) (r : Reason) (sect at' : Nat) (b c : Chip) : Prop :=
  c.get SYS_IMGSTAT_CAUSE = cause ∧ c.get SYS_IMGSTAT_REASON = r.toNat ∧
  c.get SYS_IMGSTAT_SECT = (if cause = 5 ∨ cause = 7 then 0 else sect % 512) ∧ c.get SYS_IMGAT_AT = at' % 2 ^ 24 ∧
  c.inHouse = true ∧ c.booting = false ∧ c.cfgOk = b.cfgOk ∧ c.load.stage = .done ∧ c.cues.sheet = [] ∧
  c.axes = Vector.replicate 8 {} ∧ c.engines = Vector.replicate 2 none ∧
  (∀ a, imageWritable a = true → a ∉ trimRegs → c.reg a = regReset a) ∧
  c.get SYS_BOOTT_TICKS = (b.now - b.load.since) % (SYS_BOOTT_TICKS.top + 1) ∧ c.houseTick = b.now ∧
  (∀ l, c.legMode l = 0 ∧ c.duty1 l = 0 ∧ (c.leg l).duties = [] ∧ (c.leg l).settings = [] ∧
    (c.legReact l = 0 → (c.leg l).ghCmd = false ∧ (c.leg l).glCmd = false)) ∧
  (∀ m : Fin 8, c.flag (WM_STAT_ARMED m.val) = false) ∧ (∀ i, (c.sensor i).lastValid = none) ∧
  c = { b with regs := c.regs, cues := c.cues, axes := c.axes, engines := c.engines, legs := c.legs, wms := c.wms
               sensors := c.sensors, hkSettle := c.hkSettle, houseTick := c.houseTick, load := c.load, nvc := c.nvc
               faults := c.faults, fresh := c.fresh }

/-- The part is ready for a header: it loads, and none has come. -/
def Chip.awaitsHeader (c : Chip) : Bool := c.load.stage == .loading && c.load.header.isNone

/-- The part is ready for a section header of `hd`: it loads, no section is open, and `hd` announces another one. -/
def Chip.awaitsSection (c : Chip) (hd : Header) : Bool :=
  c.load.stage == .loading && c.load.header == some hd && c.load.cur.isNone && decide (c.load.sect < hd.nsect.toNat)

/-- The part is ready for a record of section `h`. -/
def Chip.awaitsRecord (c : Chip) (h : Section) : Bool :=
  c.load.stage == .loading && c.load.cur == some h && decide (0 < c.load.due)

/-- The part is ready for the end of section `h`, which has `n` bytes still to come. -/
def Chip.awaitsEnd (c : Chip) (hd : Header) (h : Section) (n : Nat) : Bool :=
  c.load.stage == .loading && c.load.header == some hd && c.load.cur == some h && c.load.due == 0 &&
    n == (if h.type = 3 then h.len.toNat else 0)

/-- The image is complete but for its tag, of `n` bytes. -/
def Chip.awaitsTag (c : Chip) (hd : Header) (n : Nat) : Bool :=
  c.load.stage == .loading && c.load.header == some hd && c.load.cur.isNone && c.load.sect == hd.nsect.toNat &&
    n == (if headerTagged hd then 32 else 0)

/-- The CRC-32 of a section is right once its `fill` has come (R303). -/
def Chip.sectionCrcOk (c : Chip) (h : Section) (fill : List Byte) : Bool :=
  crc32 (sectionFront h ++ (c.load.body.reverse ++ fill)) == h.scrc

/-- The loader's record of a record of `n` bytes that has come: one fewer is due. -/
def OneRecord (n : Nat) (b c : Chip) : Prop :=
  c.load.due = b.load.due - 1 ∧ c.load.bytes.length = b.load.bytes.length + n ∧ c.load.cur = b.load.cur ∧
  c.load.sect = b.load.sect ∧ c.load.stage = b.load.stage

/-- Every axis is in OFF, and none waits to enter CURVE by itself (R204). -/
def AllOff (c : Chip) : Prop := ∀ a, c.modeOf a = 0 ∧ (c.axis a).localDue = false

/-- The chip as a tick finds it that begins in `c`: swaps that were due have been made, and the wall tick has advanced. -/
def Chip.inNextTick (c : Chip) : Chip := { c.settleSwaps.nextTick with pwrDue := none }

/-- An accepted transition to power state `st` takes effect in the next tick, before the rest of the tick (R267, R312, Table
12-6): PSTATE is `st`, every monitor is unarmed, the transition is no longer due, and `P` holds; time, timebases, cues, ports and
the latched sources stay. -/
def Moves (ecc : List EntryIx) (st : Nat) (s : State) (P : Chip → Prop) : Prop :=
  ∃ b, exec (.timebaseSample ecc) s = .next { s with chip := b.tickRuns ecc } ∧ P b ∧ b.pwrDue = none ∧
    b.get SYS_STATUS_PSTATE = st ∧ (∀ m : Fin 8, b.flag (WM_STAT_ARMED m.val) = false) ∧
    b.wall = s.chip.wall + 1 ∧ b.now = s.chip.now + 1 ∧ b.cues = s.chip.inNextTick.cues ∧
    b.ports = s.chip.ports ∧ b.faults.latched = s.chip.faults.latched ∧ b.cfgOk = s.chip.cfgOk

/-- An OTP operation has ended with `result`, 1 OK, 2 FAIL, 3 ABORT, and its record of type 8 arises (R328). -/
def OtpEnded (result : Nat) (b c : Chip) : Prop :=
  c.nvc.op = none ∧ c.get OTP_STATUS_BUSY = 0 ∧ c.get OTP_STATUS_RESULT = result ∧
  (b.mayLog = true → ∃ x : LogRec, c.nvc.queue = b.nvc.queue ++ [x] ∧ x.type = 8 ∧ x.tick = b.wall ∧
    x.p5 = BitVec.ofNat 32 result)

/-- What a judged CAN frame `f` of acceptance entry `k` leaves beyond its effect (R347): with RPLY its reply, which begins with
the reason and the entry's KIND, waits to be sent; a full queue drops it, counted; without RPLY nothing. -/
def Replied (k : Nat) (f : CanFrame) (r : Reason) (tail : List Byte) (b c : Chip) : Prop :=
  (b.canRuns = true → b.flag (CAN_ACC_W2_RPLY k) = true → b.can.tx.length < 8 →
    ∃ x : CanReply, c = { b with can := { b.can with tx := b.can.tx ++ [x] } } ∧
      x.id.toNat = b.get (CAN_ACC_W2_RID k) ∧ x.ide = b.flag (CAN_ACC_W2_RIDE k) ∧ x.fd = f.fd ∧
      x.data = BitVec.ofNat 8 (r.toNat + 16 * b.get (CAN_ACC_W0_KIND k)) :: tail) ∧
  (b.canRuns = true → b.flag (CAN_ACC_W2_RPLY k) = true → 8 ≤ b.can.tx.length →
    c.get CAN_CNT_TXDROP = min (b.get CAN_CNT_TXDROP + 1) CAN_CNT_TXDROP.top ∧ FieldsBut [CAN_CNT_TXDROP] b c ∧
    c = { b with regs := c.regs, fresh := c.fresh }) ∧
  (b.canRuns = false ∨ b.flag (CAN_ACC_W2_RPLY k) = false → c = b)

/-- The frame `(k, f)` is at the head of the receive queue, of KIND `kind`, and the controller runs. -/
def Chip.canDue (c : Chip) (kind k : Nat) (f : CanFrame) : Prop :=
  c.canRuns = true ∧ c.can.rx.head? = some (k, f) ∧ c.get (CAN_ACC_W0_KIND k) = kind

/-- The controller's counters decide its state (R344). -/
def Chip.canStateOk (c : Chip) : Prop :=
  c.get CAN_STAT_STATE = if 127 < c.get CAN_STAT_TEC ∨ 127 < c.get CAN_STAT_REC then 1 else 0

/-- The range link is idle for `cause` (R356, R359, R361, R370): its state and cause show, every subscribed timebase has lost
its source, and every other package counts as carrying SEV = 0. -/
def RangeIdle (cause : Nat) (b c : Chip) : Prop :=
  c.get RNG_STAT_STATE = 3 ∧ c.get RNG_STAT_CAUSE = cause ∧ (∀ x ∈ b.subscribed, (c.tb x.2).lost = true) ∧
  (∀ n, (∀ x ∈ b.subscribed, x.2 ≠ n) → c.tb n = b.tb n) ∧ (∀ i : Fin 4, c.rng.sev[i] = false) ∧ c.rng.crcRun = 0 ∧
  c = { b with regs := c.regs, tbs := c.tbs, rng := c.rng, faults := c.faults }

/-- A link that was up has gone down for `cause`: idle, with one event of RNG_DOWN whose cause persists (R361). -/
def RangeDown (cause : Nat) (b c : Chip) : Prop :=
  RangeIdle cause b c ∧ FieldsBut [RNG_STAT_STATE, RNG_STAT_CAUSE] b c ∧ c.rng.downLive = true

/-- What every good frame of another package or of this one leaves in the link's own state (R355, R358, R360): the run of bad
frames ends, in the cycle its sender's SEV shows, and a frame of another package is forwarded. -/
def RangeHeard (f : RngFrame) (b c : Chip) : Prop :=
  c.rng.crcRun = 0 ∧ (f.src = b.rngAddr → c.rng.forwarded = b.rng.forwarded) ∧
  (f.src ≠ b.rngAddr → (∃ g, c.rng.forwarded = some g ∧ g.src = f.src ∧ g.type = f.type ∧ g.payload = f.payload) ∧
    (b.rngUp = true → c.rng.sev.toList.getD f.src.toNat false = f.sev))

/-- The frame a package sends (Table 14-4): its address, the TYPE, the slot, the cycle, a right CRC. -/
def RangeSent (type : BitVec 3) (slot : BitVec 3) (payload : BitVec 64) (b c : Chip) : Prop :=
  ∃ x, c.rng.sent = some x ∧ x.src = b.rngAddr ∧ x.type = type ∧ x.slot = slot ∧ x.payload = payload ∧ x.sev = b.rngSev ∧
    x.cycle = BitVec.ofNat 5 b.rngCycle ∧ x.violation = false ∧ x.crc = rngSum x

/-- A frame the part executes: not early, of 72 clocks, with a right CRC (R339, R342, R343). -/
def hostOk (f : HostFrame) : Bool := !f.early && f.clocks == 72 && hostCrcOk f

/-- The host port after a frame (R340): its CMD is kept for the next answer, the frame counts, HSDO carried `out`. -/
def Framed (cmd : BitVec 8) (out : HpOut) (b c : Chip) : Prop :=
  c.hp.cmd = cmd ∧ c.hp.frames = (b.hp.frames + 1) % 8 ∧ c.hp.out = out

/-- The chip as the effect of a frame with a right CRC finds it: the answer is on HSDO, the frame is counted, and neither
reason nor data of an older frame is left. -/
def Chip.framing (c : Chip) (cmd : BitVec 8) : Chip :=
  { c with hp := { c.hp with
      out := c.hpAnswer, cmd := cmd, frames := (c.hp.frames + 1) % 8, reason := .ok, data := 0, crcErr := false } }

/-- The access of a register of row `r` at `a` is a plain one: no queue, no ledger, no load to compute, no pair and nothing
held. -/
def Chip.plainRead (c : Chip) (p : Path) (r : RegRow) (a : Nat) : Prop :=
  cueWord a = none ∧ findRow a = some r ∧ r.pair = false ∧ c.held p a = none ∧ a ≠ CUE_SKIPQ ∧ a ≠ CUE_IRQQ ∧
  instAt 2 (BUS_DRAWN 0) 0x8000 a = none ∧ instAt 2 (BUS_RET 0) 0x8000 a = none ∧ instAt 2 (FE_LOAD 0) 0x8000 a = none

/-- The write of `w` to the register of row `r` at `a` has no row of its own in the command table. -/
def Chip.plainRow (c : Chip) (nv : NonVolatile) (p : Path) (r : RegRow) (a : Nat) (w : Word) : Prop :=
  cueWord a = none ∧ findRow a = some r ∧ a ≠ SYS_LCCMD ∧ c.oneOps nv p w a = none ∧ c.axisOps p w a = none ∧
  c.unitOps w a = none

/-- An access error of `master` at `a` (R291): one event of ACCESS; an empty FLT_ACC takes it, a full one notes that another
came. -/
def AccessNoted (master : Nat) (write : Bool) (cause a : Nat) (b c : Chip) : Prop :=
  c.faults = { b.faults with events := b.faults.events ++ [⟨0xF2, 1, 0, 0, false⟩], accNew := c.faults.accNew } ∧
  (b.flag FLT_ACC_VALID = false → c.get FLT_ACC_VALID = 1 ∧ c.get FLT_ACC_OVF = 0 ∧ c.get FLT_ACC_MASTER = master ∧
    c.get FLT_ACC_TYPE = write.toNat ∧ c.get FLT_ACC_CAUSE = cause ∧ c.get FLT_ACCA_ADDR = a ∧
    c.get64 FLT_ACCT = b.wall % 2 ^ 64) ∧
  (b.flag FLT_ACC_VALID = true → c.get FLT_ACC_OVF = 1 ∧ c.get FLT_ACC_MASTER = b.get FLT_ACC_MASTER ∧
    c.reg FLT_ACCA = b.reg FLT_ACCA ∧ c.get64 FLT_ACCT = b.get64 FLT_ACCT)

end Sys2Proof.Machine
end

