-- ==== Sys2Proof/Certificates/Slice0/Obligations.lean ====
section
/-! DEFINITION. The statements for the provers: what each family of commands does to the block, what it leaves unchanged, when
it is refused and why, and what holds of every step. -/
open Sys2Proof Sys2Proof.Machine

/-! ### Inter-die links and gate legs -/

/-- A valid frame on an inter-die link has its effect and no other (R19, R77, R78, R84, Table 1-3): a duty frame brings the leg the
oldest duty on its way, which is set, but waits for the next period past the fall in PWM mode, is held during a refresh, and is
discarded under a reaction line; a leg-setting frame sets the mode and the live slew steps that it carries and notes a requested
refresh, a leg-status frame tells the C-die, an acknowledge makes the sender owe the frame again or not. A frame that fails its
CRC is discarded and a not-acknowledge for its SEQ is owed; each failure is one event of LINK; the fourth of one frame takes the
link down (R20, R21). A link without a valid frame goes down at the timeout, which raises LINK (R21). An owed frame is sent
again once. -/
def Obligations.LinkFrames : Prop :=
  ((∀ (s : State) (l : Leg) (f : LinkFrame) (on : BitVec 17) (rest : List (BitVec 17)),
    s.chip.linkTakes (dieOfLeg l) false 1 f = true → (s.chip.leg l).duties = on :: rest →
    Completes (.dutyFrame l f on) s fun c =>
      (c.leg l).duties = rest ∧
      (s.chip.legReact l = 0 → (s.chip.leg l).refresh = none →
        ((s.chip.legMode l == 1) && (s.chip.leg l).fell && !(s.chip.leg l).awaitDuty) = false →
        c.get (LEG_DUTY_ON l.val) = min on.toNat (4 * s.chip.period (axisOfLeg l)) ∧ (c.leg l).awaitDuty = false) ∧
      (s.chip.legReact l = 0 → (s.chip.leg l).refresh = none → s.chip.legMode l = 1 → (s.chip.leg l).fell = true →
        (s.chip.leg l).awaitDuty = false →
        (c.leg l).nextOn = some (BitVec.ofNat 17 (min on.toNat (4 * s.chip.period (axisOfLeg l)))) ∧ c.regs = s.chip.regs) ∧
      (s.chip.legReact l = 0 → (s.chip.leg l).refresh.isSome = true →
        c.leg l = { s.chip.leg l with duties := rest, heldOn := some on } ∧ c.regs = s.chip.regs) ∧
      (s.chip.legReact l ≠ 0 → c.leg l = { s.chip.leg l with duties := rest } ∧ c.regs = s.chip.regs) ∧
      FieldsBut [LEG_DUTY_ON l.val] s.chip c ∧ OneLeg l s.chip c ∧ OneLink (dieOfLeg l) s.chip c ∧
      c = { s.chip with regs := c.regs, legs := c.legs, links := c.links }) ∧
  (∀ (s : State) (l : Leg) (f : LinkFrame) (g : LegSetting) (rest : List LegSetting),
    s.chip.linkTakes (dieOfLeg l) false 2 f = true → (s.chip.leg l).settings = g :: rest →
    Completes (.legSettingFrame l f .none) s fun c =>
      (c.leg l).settings = rest ∧ (∀ m, g.mode = some m → c.legMode l = legModeCode m) ∧
      (g.mode = none → c.legMode l = s.chip.legMode l) ∧
      (∀ x, g.slew = some x →
        c.get (LEG_SLEW_LIVE_HS_ON l.val) = x.hsOn.val ∧ c.get (LEG_SLEW_LIVE_HS_OFF l.val) = x.hsOff.val ∧
        c.get (LEG_SLEW_LIVE_LS_ON l.val) = x.lsOn.val ∧ c.get (LEG_SLEW_LIVE_LS_OFF l.val) = x.lsOff.val) ∧
      (g.slew = none → FieldsBut [LEG_DUTY_MODE l.val] s.chip c) ∧
      (g.refresh = true → c.legMode l ≠ 2 → (c.leg l).refreshReq = some s.chip.now) ∧
      FieldsBut [LEG_DUTY_MODE l.val, LEG_SLEW_LIVE_HS_ON l.val, LEG_SLEW_LIVE_HS_OFF l.val, LEG_SLEW_LIVE_LS_ON l.val,
        LEG_SLEW_LIVE_LS_OFF l.val] s.chip c ∧ OneLeg l s.chip c ∧ OneLink (dieOfLeg l) s.chip c ∧
      c = { s.chip with regs := c.regs, legs := c.legs, links := c.links }) ∧
  (∀ (s : State) (l : Leg) (f : LinkFrame) (gh gl bst : Bool), s.chip.linkTakes (dieOfLeg l) true 5 f = true →
    Completes (.legStatusFrame l f gh gl bst) s fun c =>
      c.leg l = { s.chip.leg l with repGh := gh, repGl := gl, repBst := bst } ∧
      OneLeg l s.chip c ∧ OneLink (dieOfLeg l) s.chip c ∧ c = { s.chip with legs := c.legs, links := c.links }) ∧
  (∀ (s : State) (d : Die) (up nack : Bool) (f : LinkFrame) (q : BitVec 4), s.chip.linkTakes d up 15 f = true →
    Completes (.acknowledgeFrame d up f nack q) s fun c =>
      ((c.link d).dir !up).resend =
        (if nack then ((s.chip.link d).dir !up).resend ++ [q] else ((s.chip.link d).dir !up).resend.filter (· != q)) ∧
      ((c.link d).dir up).lastSeq = f.seq ∧ ((c.link d).dir up).fails = ((s.chip.link d).dir up).fails.set f.seq.toNat 0 ∧
      OneLink d s.chip c ∧ c = { s.chip with links := c.links })) ∧
  ((∀ (s : State) (d : Die) (up nack : Bool) (f : LinkFrame) (q : BitVec 4),
    (s.chip.link d).down = false → s.chip.injected 1 (linkUnit d up) = false → linkFrameOk f 15 = false →
    Completes (.acknowledgeFrame d up f nack q) s fun c =>
      ((c.link d).dir up).nackDue = ((s.chip.link d).dir up).nackDue ++ [f.seq] ∧
      ((c.link d).dir up).fails =
        ((s.chip.link d).dir up).fails.set f.seq.toNat (((s.chip.link d).dir up).fails[f.seq.toNat] + 1) ∧
      ((c.link d).down = true ↔ 3 ≤ ((s.chip.link d).dir up).fails[f.seq.toNat]) ∧
      c.faults.events.take (s.chip.faults.events.length + 1) = s.chip.faults.events ++ [⟨srcLink d, 1, 0, 0, false⟩] ∧
      (((s.chip.link d).dir up).fails[f.seq.toNat] < 3 → c = { s.chip with links := c.links, faults := c.faults }) ∧
      (c.faults.shutdown = s.chip.faults.shutdown → c.legs = s.chip.legs) ∧ OneLink d s.chip c) ∧
  (∀ (s : State) (d : Die), (s.chip.link d).down = false →
    Completes (.linkTimeout d) s fun c =>
      c.link d = { s.chip.link d with down := true } ∧
      c.faults.events.take (s.chip.faults.events.length + 1) = s.chip.faults.events ++ [⟨srcLink d, 1, 0, 0, false⟩] ∧
      (c.faults.shutdown = s.chip.faults.shutdown → c.legs = s.chip.legs) ∧ OneLink d s.chip c) ∧
  (∀ (s : State) (d : Die) (up : Bool) (q : BitVec 4) (rest : List (BitVec 4)), (s.chip.link d).down = false →
    ((s.chip.link d).dir up).resend = q :: rest →
    Completes (.linkRetransmit d up) s fun c =>
      ((c.link d).dir up).resend = rest ∧ ((c.link d).dir up).resent = ((s.chip.link d).dir up).resent + 1 ∧
      OneLink d s.chip c ∧ c = { s.chip with links := c.links }))

/-- The edges of a leg in PWM mode (R75, R76), once the tick that holds their place in the period has come: at the commanded rise GL
turns off and GH waits for the handshake, at the commanded fall GH turns off and GL waits; an interval no longer than the dead
time is dropped, and a refresh keeps the gates. The handshake (R79, R92): a waiting gate turns on once its complement is
commanded off, is registered below its threshold since the tick before, and the dead time is over, and never before; a crossing
counts from the second tick after it, and ends a GATE condition whose cause is gone. -/
def Obligations.LegEdges : Prop :=
  ((∀ (s : State) (l : Leg), s.chip.legRuns l = true → (s.chip.leg l).rose = false →
    s.chip.placeDue l (s.chip.risePlace l (s.chip.duty1 l)) = true →
    (s.chip.noHigh l = true → exec (.commandedRise l .none) s = .next s) ∧
    (s.chip.noHigh l = false → Completes (.commandedRise l .none) s fun c =>
      (c.leg l).rose = true ∧
      ((s.chip.leg l).refresh.isSome = true → c.leg l = { s.chip.leg l with rose := true }) ∧
      ((s.chip.leg l).refresh = none → (c.leg l).ghCmd = true ∧ (c.leg l).glCmd = false ∧
        ((s.chip.leg l).glCmd = true → (c.leg l).glOn = false ∧ (c.leg l).glOff = some s.chip.now) ∧
        ((s.chip.leg l).ghOn = false → (c.leg l).waiting = some .high)) ∧
      OneLeg l s.chip c ∧ c = { s.chip with legs := c.legs })) ∧
  (∀ (s : State) (l : Leg), s.chip.legRuns l = true → (s.chip.leg l).fell = false →
    s.chip.placeDue l (s.chip.fallPlace l (s.chip.duty1 l)) = true →
    (s.chip.noLow l = true ∨ (s.chip.noHigh l = true ∧ (s.chip.leg l).ghCmd = false) →
      exec (.commandedFall l .none) s = .next s) ∧
    (s.chip.noLow l = false → s.chip.noHigh l = false ∨ (s.chip.leg l).ghCmd = true → Completes (.commandedFall l .none) s fun c =>
      (c.leg l).fell = true ∧
      ((s.chip.leg l).refresh.isSome = true → c.leg l = { s.chip.leg l with rose := true, fell := true }) ∧
      ((s.chip.leg l).refresh = none → (c.leg l).ghCmd = false ∧ (c.leg l).glCmd = true ∧
        ((s.chip.leg l).ghCmd = true → (c.leg l).ghOn = false ∧ (c.leg l).ghOff = some s.chip.now) ∧
        ((s.chip.leg l).glOn = false → (c.leg l).waiting = some .low)) ∧
      OneLeg l s.chip c ∧ c = { s.chip with legs := c.legs }))) ∧
  ((∀ (s : State) (l : Leg) (g : Gate), (s.chip.leg l).waiting = some g → (s.chip.leg l).cmd (otherGate g) = false →
    (s.chip.leg l).below (otherGate g) = true → (s.chip.leg l).clear (otherGate g) ≤ s.chip.now →
    s.chip.deadEnd l (otherGate g) ≤ s.chip.now →
    Completes (.gateTurnOn l g) s fun c =>
      (c.leg l).waiting = none ∧ (c.leg l).on g = true ∧ (c.leg l).edge g = some s.chip.now ∧
      (c.leg l).on (otherGate g) = (s.chip.leg l).on (otherGate g) ∧
      FieldsBut [LEG_CNT_HSWAIT_MAX l.val] s.chip c ∧ OneLeg l s.chip c ∧
      c = { s.chip with regs := c.regs, fresh := c.fresh, legs := c.legs }) ∧
  (∀ (s : State) (l : Leg) (g : Gate), (s.chip.leg l).cmd (otherGate g) = true ∨
      (s.chip.leg l).below (otherGate g) = false ∨ s.chip.now < (s.chip.leg l).clear (otherGate g) ∨
      s.chip.now < s.chip.deadEnd l (otherGate g) → exec (.gateTurnOn l g) s = .next s) ∧
  (∀ (s : State) (l : Leg) (g : Gate) (above : Bool), (s.chip.leg l).below g = above →
    Completes (.gateSenseCrossing l g above) s fun c =>
      (c.leg l).below g = !above ∧ (c.leg l).clear g = s.chip.now + 2 ∧
      (c.flag (LEG_STAT_GATE_LIVE l.val) = true ↔ s.chip.flag (LEG_STAT_GATE_LIVE l.val) = true ∧ c.gateBad l = true) ∧
      FieldsBut [LEG_STAT_GATE_LIVE l.val] s.chip c ∧ OneLeg l s.chip c ∧
      c = { s.chip with regs := c.regs, legs := c.legs }))

/-- The protection conditions of a leg (R80 to R82, R90 to R92): each is raised on its own terms, sets its sticky and live bits and
counts one event of its source when it was not active; VDS of a switch that is not commanded on is no condition, the trip
comparator is active in every mode outside its blanking; two on-requests that rise together keep both gates off. A burst on the
fault line (R93, R94): it carries the conditions that are active or newly raised, which join those the C-die sees; one seen that
two successive bursts lack has ended; with a parity error all four are seen, BURST_ERR is set and LINK has an event; silence
ends the conditions named, but not GATE while its cause lasts. -/
def Obligations.LegConditions : Prop :=
  ((∀ (s : State) (l : Leg) (g : Gate), (s.chip.leg l).waiting = some g →
    (s.chip.leg l).deadTick + s.chip.get (LEG_CFG_HS_TO l.val) ≤ s.chip.now →
    (s.chip.leg l).registeredBelow s.chip.now (otherGate g) = false →
    Completes (.handshakeTimeout l g) s (LegCondition l (LEG_STAT_HSTO l.val) (LEG_STAT_GATE_LIVE l.val) 2 s.chip)) ∧
  (∀ (s : State) (l : Leg) (g : Gate), s.chip.stuckNow l g = true →
    Completes (.gateStuck l g) s (LegCondition l (LEG_STAT_STUCK l.val) (LEG_STAT_GATE_LIVE l.val) 2 s.chip)) ∧
  (∀ (s : State) (l : Leg), (s.chip.leg l).ghCmd = true → (s.chip.leg l).ghOn = true →
    s.chip.agedNs (s.chip.get (LEG_VDS_BLK l.val)) (s.chip.leg l).ghEdge = true →
    Completes (.vds l .high) s (LegCondition l (LEG_STAT_VDS_HS l.val) (LEG_STAT_VDS_HS_LIVE l.val) 0 s.chip)) ∧
  (∀ (s : State) (l : Leg), (s.chip.leg l).glCmd = true → (s.chip.leg l).glOn = true →
    s.chip.agedNs (s.chip.get (LEG_VDS_BLK l.val)) (s.chip.leg l).glEdge = true →
    Completes (.vds l .low) s (LegCondition l (LEG_STAT_VDS_LS l.val) (LEG_STAT_VDS_LS_LIVE l.val) 0 s.chip)) ∧
  (∀ (s : State) (l : Leg) (g : Gate), (s.chip.leg l).cmd g = false → exec (.vds l g) s = .next s) ∧
  (∀ (s : State) (l : Leg), s.chip.aged (s.chip.get (LEG_TRIP_BLK l.val)) (s.chip.leg l).ghEdge = true →
    s.chip.aged (s.chip.get (LEG_TRIP_BLK l.val)) (s.chip.leg l).glEdge = true →
    Completes (.trip l) s (LegCondition l (LEG_STAT_TRIP l.val) (LEG_STAT_TRIP_LIVE l.val) 3 s.chip)) ∧
  (∀ (s : State) (l : Leg), s.chip.legRuns l = true → (s.chip.leg l).rose = false →
    s.chip.placeDue l (s.chip.risePlace l (s.chip.duty1 l)) = true →
    Completes (.commandedRise l .both) s fun c =>
      c.get (LEG_STAT_XCMD l.val) = 1 ∧ c.get (LEG_STAT_GATE_LIVE l.val) = 1 ∧ (c.leg l).ghCmd = true ∧
      (c.leg l).glCmd = true ∧ (c.leg l).waiting = none ∧ ((s.chip.leg l).ghCmd = true → (c.leg l).ghOn = false) ∧
      ((s.chip.leg l).glCmd = true → (c.leg l).glOn = false) ∧
      FieldsBut [LEG_STAT_XCMD l.val, LEG_STAT_GATE_LIVE l.val] s.chip c ∧ OneLeg l s.chip c ∧
      c = { s.chip with regs := c.regs, fresh := c.fresh, legs := c.legs, faults := c.faults })) ∧
  ((∀ (s : State) (l : Leg) (err : BitVec 6), s.chip.legConds l = 0 → exec (.legFaultBurst l err) s = .next s) ∧
  (∀ (s : State) (l : Leg) (err : BitVec 6), s.chip.legConds l ≠ 0 → err.getLsbD 5 = true →
    Completes (.legFaultBurst l err) s fun c =>
      c.leg l = { s.chip.leg l with owed := 0 } ∧ OneLeg l s.chip c ∧ c = { s.chip with legs := c.legs }) ∧
  (∀ (s : State) (l : Leg) (err : BitVec 6) (w : BitVec 4), s.chip.legConds l ≠ 0 → err.getLsbD 5 = false →
    burstEven (burstOf (s.chip.legConds l) ^^^ err) = true → (burstOf (s.chip.legConds l) ^^^ err).extractLsb' 1 4 = w →
    Completes (.legFaultBurst l err) s fun c =>
      c.leg l = { s.chip.leg l with
        owed := 0
        seen := ((s.chip.leg l).seen ||| w) &&& ~~~((s.chip.leg l).seen &&& ~~~w &&& (s.chip.leg l).missed)
        missed := (s.chip.leg l).seen &&& ~~~w &&& ~~~(s.chip.leg l).missed } ∧
      (err = 0 → w = s.chip.legConds l ∧ c.faults = s.chip.faults) ∧
      OneLeg l s.chip c ∧ c = { s.chip with legs := c.legs, faults := c.faults }) ∧
  (∀ (s : State) (l : Leg) (err : BitVec 6), s.chip.legConds l ≠ 0 → err.getLsbD 5 = false →
    burstEven (burstOf (s.chip.legConds l) ^^^ err) = false →
    Completes (.legFaultBurst l err) s fun c =>
      c.leg l = { s.chip.leg l with owed := 0, seen := 15, missed := 0 } ∧ c.get (LEG_STAT_BURST_ERR l.val) = 1 ∧
      c.faults.events.getLast? = some ⟨srcLink (dieOfLeg l), 1, 0, 0, false⟩ ∧
      FieldsBut [LEG_STAT_BURST_ERR l.val] s.chip c ∧ OneLeg l s.chip c ∧
      c = { s.chip with regs := c.regs, fresh := c.fresh, legs := c.legs, faults := c.faults }) ∧
  (∀ (s : State) (l : Leg) (conds : BitVec 4),
    Completes (.burstSilence l conds) s fun c =>
      (s.chip.gateBad l = false → (c.leg l).seen = (s.chip.leg l).seen &&& ~~~conds) ∧
      (conds.getLsbD 0 = true → c.get (LEG_STAT_TRIP_LIVE l.val) = 0) ∧
      (conds.getLsbD 1 = true → s.chip.gateBad l = false → c.get (LEG_STAT_GATE_LIVE l.val) = 0) ∧
      (s.chip.gateBad l = true → c.get (LEG_STAT_GATE_LIVE l.val) = s.chip.get (LEG_STAT_GATE_LIVE l.val)) ∧
      (conds.getLsbD 2 = true → c.get (LEG_STAT_BST_UV_LIVE l.val) = 0) ∧
      (conds.getLsbD 3 = true → c.get (LEG_STAT_VDS_HS_LIVE l.val) = 0 ∧ c.get (LEG_STAT_VDS_LS_LIVE l.val) = 0) ∧
      FieldsBut [LEG_STAT_TRIP_LIVE l.val, LEG_STAT_GATE_LIVE l.val, LEG_STAT_BST_UV_LIVE l.val,
        LEG_STAT_VDS_HS_LIVE l.val, LEG_STAT_VDS_LS_LIVE l.val] s.chip c ∧ OneLeg l s.chip c ∧
      c = { s.chip with regs := c.regs, legs := c.legs }))

/-- The bootstrap (R85 to R88): BST_UV clears BST_OK and is raised while the part is armed, no charging runs and no blanking; BST_OK
is set and ends the charging series; a forced refresh turns GL on until 50 ticks after the boundary and is counted, unless the
period's own low interval is long enough; a charging pulse of 400 ns in the leg's turn is counted, and the 200th without BST_OK
ends the series with BST_UV. -/
def Obligations.Bootstrap : Prop :=
  (∀ (s : State) (l : Leg), s.chip.isArmed = true → (s.chip.leg l).charging = false → (s.chip.leg l).ghOn = false →
    Completes (.bstUv l) s fun c =>
      c.get (LEG_STAT_BST_OK l.val) = 0 ∧ c.get (LEG_STAT_BST_UV l.val) = 1 ∧ c.get (LEG_STAT_BST_UV_LIVE l.val) = 1 ∧
      c.faults = { s.chip.faults with events := s.chip.faults.events ++
        (if s.chip.flag (LEG_STAT_BST_UV_LIVE l.val) then [] else [⟨srcLeg l 1, 1, 0, 0, false⟩]) } ∧
      (s.chip.flag (LEG_BST_FORCE_REF l.val) = true → s.chip.flag (LEG_STAT_BST_UV_LIVE l.val) = false →
        (s.chip.link (dieOfLeg l)).down = false → (c.leg l).settings = (s.chip.leg l).settings ++ [⟨none, none, true⟩]) ∧
      FieldsBut [LEG_STAT_BST_OK l.val, LEG_STAT_BST_UV l.val, LEG_STAT_BST_UV_LIVE l.val] s.chip c ∧ OneLeg l s.chip c ∧
      c = { s.chip with regs := c.regs, fresh := c.fresh, legs := c.legs, faults := c.faults }) ∧
  (∀ (s : State) (l : Leg), s.chip.isArmed = true →
    Completes (.bstOk l) s fun c =>
      c.get (LEG_STAT_BST_OK l.val) = 1 ∧ c.get (LEG_STAT_BST_UV_LIVE l.val) = 0 ∧ (c.leg l).charging = false ∧
      (c.leg l).pulses = 0 ∧ FieldsBut [LEG_STAT_BST_OK l.val, LEG_STAT_BST_UV_LIVE l.val] s.chip c ∧
      OneLeg l s.chip c ∧ c = { s.chip with regs := c.regs, legs := c.legs }) ∧
  (∀ (s : State) (l : Leg) (t n : Nat), (s.chip.leg l).refreshReq = some t → s.chip.legRuns l = true →
    s.chip.period (axisOfLeg l) - s.chip.sinceBoundary (axisOfLeg l) = n → n ≤ 50 + s.chip.deadTime l →
    t + 51 + s.chip.deadTime l ≤ s.chip.now + n → (s.chip.leg l).refresh = none →
    Completes (.forcedRefresh l) s fun c =>
      (c.leg l).refreshReq = none ∧
      (s.chip.longLow l = true → (c.leg l).refresh = none ∧ c.regs = s.chip.regs) ∧
      (s.chip.longLow l = false → (c.leg l).refresh = some (s.chip.now + n + 50) ∧ (c.leg l).ghCmd = false ∧
        (c.leg l).glCmd = true ∧
        c.get (LEG_CNT_REFRESH l.val) = min (s.chip.get (LEG_CNT_REFRESH l.val) + 1) (LEG_CNT_REFRESH l.val).top) ∧
      FieldsBut [LEG_CNT_REFRESH l.val] s.chip c ∧ OneLeg l s.chip c ∧
      c = { s.chip with regs := c.regs, fresh := c.fresh, legs := c.legs }) ∧
  (∀ (s : State) (l : Leg), (s.chip.leg l).charging = true → s.chip.isArmed = true → s.chip.legReact l = 0 →
    s.chip.legMode l = 0 → s.chip.flag (LEG_STAT_BST_OK l.val) = false → s.chip.chargeTurn l = true →
    s.chip.aged 2500 (s.chip.axis (axisOfLeg l)).chargeTick = true →
    Completes (.chargingPulse l) s fun c =>
      (c.leg l).pulses = (s.chip.leg l).pulses + 1 ∧ ((c.leg l).charging = true ↔ (s.chip.leg l).pulses + 1 < 200) ∧
      (c.leg l).pulse = some (s.chip.now + 100) ∧ (c.leg l).glCmd = true ∧ (c.leg l).ghCmd = false ∧
      c.get (LEG_CNT_REFRESH l.val) = min (s.chip.get (LEG_CNT_REFRESH l.val) + 1) (LEG_CNT_REFRESH l.val).top ∧
      (200 ≤ (s.chip.leg l).pulses + 1 → c.get (LEG_STAT_BST_UV l.val) = 1) ∧
      ((s.chip.leg l).pulses + 1 < 200 → c.faults = s.chip.faults ∧ FieldsBut [LEG_CNT_REFRESH l.val] s.chip c) ∧
      OneLeg l s.chip c ∧ OneAxis (axisOfLeg l) s.chip c ∧
      c = { s.chip with regs := c.regs, fresh := c.fresh, legs := c.legs, axes := c.axes, faults := c.faults })

/-! ### Cue sheet and timebases -/

/-- The actions on output ports (R38, Table 2-3): PORT_SET and PORT_CLR end a running pulse and set their level, PORT_PULSE drives
the port high for W ticks whether or not a pulse runs, and at the pulse's end, which holds to one tick, the port goes low. -/
def Obligations.PortActions : Prop :=
  (∀ (s : State) (k : EntryIx) (f : Fire), s.chip.firesOf k 1 = [f] → s.chip.portIsOut (firePort f).val = true →
    Completes (.portSet k) s fun c =>
      c.get (FP_STAT_LEVEL (firePort f).val) = 1 ∧ (c.port (firePort f)).pulseEnd = none ∧ FiredOnly s f c ∧
      c = { s.chip with regs := c.regs, ports := c.ports, cues := c.cues } ∧
      FieldsBut [FP_STAT_LEVEL (firePort f).val] s.chip c ∧ OnePort (firePort f) s.chip c) ∧
  (∀ (s : State) (k : EntryIx) (f : Fire), s.chip.firesOf k 2 = [f] → s.chip.portIsOut (firePort f).val = true →
    Completes (.portClr k) s fun c =>
      c.get (FP_STAT_LEVEL (firePort f).val) = 0 ∧ (c.port (firePort f)).pulseEnd = none ∧ FiredOnly s f c ∧
      c = { s.chip with regs := c.regs, ports := c.ports, cues := c.cues } ∧
      FieldsBut [FP_STAT_LEVEL (firePort f).val] s.chip c ∧ OnePort (firePort f) s.chip c) ∧
  (∀ (s : State) (k : EntryIx) (f : Fire), s.chip.firesOf k 3 = [f] → s.chip.portIsOut (firePort f).val = true →
    Completes (.portPulse k) s fun c =>
      c.get (FP_STAT_LEVEL (firePort f).val) = 1 ∧
      (c.port (firePort f)).pulseEnd = some (s.chip.now + cueArg f.cue / 32) ∧ FiredOnly s f c ∧
      c = { s.chip with regs := c.regs, ports := c.ports, cues := c.cues } ∧
      FieldsBut [FP_STAT_LEVEL (firePort f).val] s.chip c ∧ OnePort (firePort f) s.chip c) ∧
  (∀ (s : State) (p : Port) (t : Nat), (s.chip.port p).pulseEnd = some t → t ≤ s.chip.now + 1 →
    Completes (.portPulseEnd p) s fun c =>
      c.get (FP_STAT_LEVEL p.val) = 0 ∧ (c.port p).pulseEnd = none ∧
      c = { s.chip with regs := c.regs, ports := c.ports } ∧
      FieldsBut [FP_STAT_LEVEL p.val] s.chip c ∧ OnePort p s.chip c)

/-- Firings of one tick with one target are carried out in order, and none in DARK (R33, R49). A port action on a port that is no
output has no effect but NOOP of its timebase (R39). CAPTURE overwrites its slot, and sets OVF when FULL was still set, as a
write of this tick finds it (R7, R56); IRQ pushes the entry and its tag, and a full queue discards the record (R55, Table 2-3).
An ACT_SWITCH cue swaps its target's acts, and a 1 written to a bit of CUE_SWITCH that timebase's (R43); both halves share the
one running act, and a second swap in the tick has no effect (R45); swaps that cues of the tick owe come first. -/
def Obligations.CueActions : Prop :=
  ((∀ (s : State) (k : EntryIx) (n : Nat) (i : Instr),
    (n, i) ∈ [(1, Instr.portSet k), (2, .portClr k), (3, .portPulse k), (4, .winClose k), (5, .hkStart k), (6, .gearSlot k),
      (7, .advSet k), (8, .capture k), (9, .emuIndex k), (10, .irq k), (11, .release k), (12, .actSwitch k)] →
    (s.chip.inDark = true → exec i s = .next s) ∧
    (∀ l : List Fire, s.chip.firesOf k n = l → exec i s = .next { s with chip := l.foldl Chip.carryOut s.chip })) ∧
  (∀ (s : State) (k : EntryIx) (f : Fire) (n : Nat) (i : Instr), (n, i) ∈ [(1, Instr.portSet k), (2, .portClr k), (3, .portPulse k)] →
    s.chip.firesOf k n = [f] → s.chip.portIsOut (firePort f).val = false →
    Completes i s fun c =>
      c.get (CUE_TB_STAT_NOOP f.tb) = 1 ∧ FiredOnly s f c ∧
      c = { s.chip with regs := c.regs, fresh := c.fresh, cues := c.cues } ∧ FieldsBut [CUE_TB_STAT_NOOP f.tb] s.chip c)) ∧
  ((∀ (s : State) (k : EntryIx) (f : Fire) (n : Nat), s.chip.firesOf k 8 = [f] → cueArg f.cue % 16 = n →
    Completes (.capture k) s fun c =>
      c.get (CUE_CAP_TICK_TICK_LO n) = f.tick % 2 ^ 32 ∧ c.get (CUE_CAP_TICKH_TICK_HI n) = f.tick / 2 ^ 32 % 2 ^ 32 ∧
      c.get (CUE_CAP_VALUE_VALUE n) = f.named.toNat ∧ c.get (CUE_CAP_STAT_FULL n) = 1 ∧
      c.flag (CUE_CAP_STAT_OVF n) = (s.chip.stillSet (CUE_CAP_STAT_FULL n) || s.chip.flag (CUE_CAP_STAT_OVF n)) ∧
      c.get (CUE_CAP_STAT_TB n) = cueArg f.cue / 256 % 32 ∧ c.get (CUE_CAP_STAT_ENTRY n) = k.val ∧ FiredOnly s f c ∧
      c = { s.chip with regs := c.regs, fresh := c.fresh, cues := c.cues } ∧
      RegsBut [CUE_CAP_TICK n, CUE_CAP_TICKH n, CUE_CAP_VALUE n, CUE_CAP_STAT n] s.chip c) ∧
  (∀ (s : State) (k : EntryIx) (f : Fire), s.chip.firesOf k 10 = [f] →
    Completes (.irq k) s fun c =>
      c = { s.chip with cues := { s.chip.cues with
        fires := s.chip.cues.fires.erase f
        irqq := if s.chip.cues.irqq.length < 32 then s.chip.cues.irqq ++ [⟨k.val, cueArg f.cue % 256⟩] else s.chip.cues.irqq
        irqLost := s.chip.cues.irqLost || decide (32 ≤ s.chip.cues.irqq.length) } })) ∧
  ((∀ (s : State) (k : EntryIx) (f : Fire), s.chip.firesOf k 12 = [f] →
    Completes (.actSwitch k) s fun c => Swapped (switchTargets (cueArg f.cue)) f.since (s.chip.endFire f) c) ∧
  (∀ (s : State) (p : Path) (mask : BitVec 21), s.chip.serves p →
    Grants (.cueSwitch p mask) p s fun c => Swapped (allTbs.filter fun n => mask.getLsbD n.val) s.chip.now s.chip.settleSwaps c))

/-- A write to the lower word loads the path's holding register and changes nothing else; a write to the upper word submits both as
one entry, which is judged after the swaps of its tick (R45) and stored or refused as a whole, and CUE_STATUS tells the outcome
(R34, R42). A firing that has not come by the end of tick t + 2 is counted, queued and reported, and the action is not carried
out; a younger one stays (R50). A read of CUE_SKIPQ or CUE_IRQQ pops one record, whose OVF tells that records were discarded
before it (R55); a read of an entry with an uncorrectable error returns 0 and frees the entry, with its loss queued and reported
(R50, R377). -/
def Obligations.CueEntries : Prop :=
  ((∀ (s : State) (p : Path) (k : EntryIx) (v : Word), s.chip.serves p →
    Grants (.cueEntryLowerWrite p k v) p s fun c =>
      c.cueHold p = v ∧ c = { s.chip with cues := { s.chip.cues with holdHost := c.cues.holdHost, holdCan := c.cues.holdCan } } ∧
      ∀ q, q ≠ p → c.cueHold q = s.chip.cueHold q) ∧
  (∀ (s : State) (p : Path) (k : EntryIx) (v : Word) (r : Reason) (b : Chip), s.chip.serves p → s.chip.settleSwaps = b →
    judge (b.cueConds k.val (v ++ s.chip.cueHold p)) = r →
    ∃ c, exec (.cueEntrySubmit p k v) s = .next { s with chip := c.answer p r } ∧
      (r = .ok → c.cue k.val = (v ++ s.chip.cueHold p : BitVec 64)) ∧ (r ≠ .ok → c.cues = b.cues) ∧
      (∀ j, j ≠ k.val → c.cue j = s.chip.cue j) ∧
      c.get CUE_STATUS_REASON = r.toNat ∧ c.get CUE_STATUS_ENTRY = k.val ∧ c.flag CUE_STATUS_SRC = (p == .can) ∧
      c.flag CUE_NEIGHBOUR_VALID = (r == .density) ∧
      c = { b with regs := c.regs, cues := c.cues } ∧ RegsBut [CUE_STATUS, CUE_NEIGHBOUR] b c)) ∧
  ((∀ (s : State) (k : EntryIx), (∀ f ∈ s.chip.cues.fires, f.entry = k.val → s.chip.now < f.since + 2) →
    exec (.cueSkip k false) s = .next s) ∧
  (∀ (s : State) (k : EntryIx) (f : Fire),
    s.chip.cues.fires.find? (fun f => f.entry == k.val && decide (f.since + 2 ≤ s.chip.now)) = some f →
    Completes (.cueSkip k false) s fun c =>
      c.get (CUE_TB_SKIP_SKIPS f.tb) = min (s.chip.get (CUE_TB_SKIP_SKIPS f.tb) + 1) (2 ^ 32 - 1) ∧
      c.cues = { s.chip.cues with
        fires := s.chip.cues.fires.erase f
        skipq := if s.chip.cues.skipq.length < 16 then s.chip.cues.skipq ++ [⟨k.val, f.tb, f.tick⟩] else s.chip.cues.skipq
        skipLost := s.chip.cues.skipLost || decide (16 ≤ s.chip.cues.skipq.length) } ∧
      Raised 0xEF s.chip c ∧
      c = { s.chip with regs := c.regs, fresh := c.fresh, cues := c.cues, faults := c.faults } ∧
      FieldsBut [CUE_TB_SKIP_SKIPS f.tb] s.chip c)) ∧
  ((∀ (s : State) (p : Path) (r : SkipRec) (l : List SkipRec), s.chip.serves p → s.chip.cues.skipq = r :: l →
    ∃ v, Yields (.cueSkipqPop p) p s v fun c =>
      c = { s.chip with regs := c.regs, cues := { s.chip.cues with skipq := l, skipLost := false } } ∧
      c.get CUE_SKIPT_TICK = r.tick % 2 ^ 32 ∧ RegsBut [CUE_SKIPT] s.chip c ∧
      CUE_SKIPQ_VALID.read v = 1 ∧ CUE_SKIPQ_OVF.read v = s.chip.cues.skipLost.toNat ∧
      CUE_SKIPQ_TB.read v = r.tb % 32 ∧ CUE_SKIPQ_ENTRY.read v = r.entry % 16384) ∧
  (∀ (s : State) (p : Path) (r : IrqRec) (l : List IrqRec), s.chip.serves p → s.chip.cues.irqq = r :: l →
    ∃ v, Yields (.cueIrqqPop p) p s v fun c =>
      c = { s.chip with cues := { s.chip.cues with irqq := l, irqLost := false } } ∧
      CUE_IRQQ_VALID.read v = 1 ∧ CUE_IRQQ_OVF.read v = s.chip.cues.irqLost.toNat ∧
      CUE_IRQQ_ENTRY.read v = r.entry % 16384 ∧ CUE_IRQQ_TAG.read v = r.tag % 256) ∧
  (∀ (s : State) (p : Path) (k : EntryIx) (upper : Bool), s.chip.serves p →
    Yields (.cueEntryRead p k upper false) p s
      (if upper then (s.chip.cue k.val >>> 32).truncate 32 else (s.chip.cue k.val).truncate 32) fun c => c = s.chip) ∧
  (∀ (s : State) (p : Path) (k : EntryIx) (upper : Bool), s.chip.serves p →
    Yields (.cueEntryRead p k upper true) p s 0 fun c =>
      c.cue k.val = 0 ∧ (∀ j, j ≠ k.val → c.cue j = s.chip.cue j) ∧
      c.cues.fires = s.chip.cues.fires ∧ c.cues.irqq = s.chip.cues.irqq ∧
      c.cues.skipq = (if s.chip.cues.skipq.length < 16 then s.chip.cues.skipq ++ [⟨k.val, 31, s.chip.wall⟩]
        else s.chip.cues.skipq) ∧
      Raised 0xF0 s.chip c ∧
      c = { s.chip with cues := c.cues, faults := c.faults }))

/-- One tick (R2, R28 to R33): with the clock running the wall tick advances by one and TB20 holds its low word; a timebase without
a valid source holds its value and is STALE; one whose source came back jumps to its value; a moving one moves by VMAX at most;
without the clock nothing happens. -/
def Obligations.TimebasesTick : Prop :=
  (∀ (s : State) (l : List EntryIx), s.chip.clockRuns = true → s.chip.pwrDue = none →
    Completes (.timebaseSample l) s fun c =>
      c.wall = s.chip.wall + 1 ∧ c.now = s.chip.now + 1 ∧ (c.tb 20).val = BitVec.ofNat 32 (s.chip.wall + 1) ∧
      (∀ n : Tb, n.val ≠ 20 → s.chip.quietTb n → (s.chip.tb n).lost = true →
        (c.tb n).val = (s.chip.tb n).val ∧ c.flag (CUE_TB_STAT_STALE n.val) = true) ∧
      (∀ n : Tb, n.val ≠ 20 → s.chip.quietTb n → (s.chip.tb n).lost = false → (s.chip.tb n).seeded = true →
        (s.chip.tb n).jumpDue = true →
        (c.tb n).val = (s.chip.tb n).src ∧ c.get (CUE_TB_STAT_JUMP n.val) = 1 ∧
        c.flag (CUE_TB_STAT_STALE n.val) = false) ∧
      (∀ n : Tb, n.val ≠ 20 → s.chip.quietTb n → (s.chip.tb n).lost = false → (s.chip.tb n).seeded = true →
        (s.chip.tb n).jumpDue = false → s.chip.vmax n.val ≤ 0x1FFFFFFF →
        ((c.tb n).val - (s.chip.tb n).val).toInt.natAbs ≤ s.chip.vmax n.val) ∧
      c.nvc = s.chip.nvc ∧ c.hp = s.chip.hp ∧ c.can = s.chip.can ∧ c.rng = s.chip.rng ∧ c.load = s.chip.load ∧
      c.hks = s.chip.hks ∧ c.slices = s.chip.slices) ∧
  (∀ (s : State) (l : List EntryIx), s.chip.clockRuns = false → exec (.timebaseSample l) s = .next s)

/-! ### Charge slices -/

/-- The requests for a close (R99 to R101, R110, R121): the end of a fixed window once its length has passed, the limit of 130,040
ticks, a delayed half-cycle boundary for the resolver slices, a window-close frame for the slices that it names on its die and
that wait for it. A slice that is not running takes none. A WIN_CLOSE that can act requests the close on the C-die at once and
owes a window-close frame to a D-die (R100); one that cannot has no effect but NOOP (R39). SL_WLEN may be written only for a
slice in FIXED mode, from 256 to 130,040 ticks; the length is due at the close of the window in progress (R110). A slice-result
frame brings up the oldest window result of a slice of its die, which then stands in SL_RES, SL_RLEN, the ledger, SL_EXCESS and
the clamp and gap counts (R102 to R107), or the fast bus current, whose field of the region it sets while the part is armed and
the slice enabled (R103, R228). -/
def Obligations.WindowRequests : Prop :=
  ((∀ (s : State) (k : SliceId), s.chip.closeMode k = 2 →
    (s.chip.slice k).fixedFrom + (s.chip.slice k).wlen ≤ s.chip.now →
    Completes (.fixedWindowExpiry k) s fun c =>
      c.slice k = { s.chip.slice k with
        fixedFrom := (s.chip.slice k).fixedFrom + (s.chip.slice k).wlen
        reqSched := (s.chip.slice k).reqSched || (s.chip.slice k).running } ∧
      OneSlice k s.chip c ∧ c = { s.chip with slices := c.slices }) ∧
  (∀ (s : State) (k : SliceId), (s.chip.slice k).running = true → (s.chip.slice k).opened + 130040 ≤ s.chip.now →
    Completes (.windowLimit k) s fun c =>
      (∀ j, c.slice j = if j ∈ s.chip.closing k then { s.chip.slice j with reqLimit := true } else s.chip.slice j) ∧
      c = { s.chip with slices := c.slices }) ∧
  (∀ (s : State), s.chip.excDue = true →
    Completes .excHalfCycle s fun c =>
      c.excPos = (s.chip.excPlace == 0) ∧ c.excTick = some s.chip.now ∧
      Requested (allSlices.filter fun k => (rsvOfSlice k).isSome) (fun x => { x with reqSched := true }) s.chip c ∧
      c.get (RSV_CYC_CYCLES) = (s.chip.get RSV_CYC_CYCLES + (if s.chip.excPlace = 0 then 1 else 0)) % (RSV_CYC_CYCLES.top + 1) ∧
      FieldsBut [RSV_CYC_CYCLES] s.chip c ∧
      c = { s.chip with regs := c.regs, excPos := c.excPos, excTick := c.excTick, slices := c.slices }) ∧
  (∀ (s : State) (d : Die) (f : LinkFrame) (l : List SliceId), s.chip.linkTakes d false 3 f = true →
    Completes (.windowCloseFrame d f l) s fun c =>
      Requested ((l.filter fun k => (dieOfSlice k).val == d.val && (s.chip.slice k).frameDue).flatMap s.chip.closing)
        (fun x => { x with reqCue := true, frameDue := false }) s.chip c ∧
      c = { s.chip with slices := c.slices, links := c.links } ∧ OneLink d s.chip c)) ∧
  ((∀ (s : State) (k : EntryIx) (f : Fire), s.chip.firesOf k 4 = [f] → s.chip.winAble (cueArg f.cue) = true →
    Completes (.winClose k) s fun c =>
      (∀ j ∈ winTargets (cueArg f.cue),
        if dieOfSlice j = 4 then (s.chip.slice j).running = true → (c.slice j).reqCue = true
        else (c.slice j).frameDue = true) ∧
      (∀ j, j ∉ winTargets (cueArg f.cue) → c.slice j = s.chip.slice j) ∧ FiredOnly s f c ∧
      c = { s.chip with slices := c.slices, cues := c.cues }) ∧
  (∀ (s : State) (k : EntryIx) (f : Fire), s.chip.firesOf k 4 = [f] → s.chip.winAble (cueArg f.cue) = false →
    Completes (.winClose k) s fun c =>
      c.get (CUE_TB_STAT_NOOP f.tb) = 1 ∧ FiredOnly s f c ∧
      c = { s.chip with regs := c.regs, fresh := c.fresh, cues := c.cues } ∧ FieldsBut [CUE_TB_STAT_NOOP f.tb] s.chip c)) ∧
  ((∀ (s : State) (p : Path) (k : SliceId) (v : Word), s.chip.serves p → s.chip.closeMode k = 2 →
    256 ≤ (SL_WLEN_WLEN k.val).read v → (SL_WLEN_WLEN k.val).read v ≤ 130040 →
    Grants (.slWlenWrite p k v) p s fun c =>
      c.get (SL_WLEN_WLEN k.val) = (SL_WLEN_WLEN k.val).read v ∧ c.slice k = { s.chip.slice k with lenDue := true } ∧
      FieldsBut [SL_WLEN_WLEN k.val] s.chip c ∧ c = { s.chip with regs := c.regs, slices := c.slices } ∧
      OneSlice k s.chip c) ∧
  (∀ (s : State) (p : Path) (k : SliceId) (v : Word), s.chip.serves p → s.chip.closeMode k ≠ 2 →
    Refuses (.slWlenWrite p k v) p s .state) ∧
  (∀ (s : State) (p : Path) (k : SliceId) (v : Word), s.chip.serves p → s.chip.closeMode k = 2 →
    (SL_WLEN_WLEN k.val).read v < 256 ∨ 130040 < (SL_WLEN_WLEN k.val).read v →
    Refuses (.slWlenWrite p k v) p s .range) ∧
  (∀ (s : State) (p : Path) (k : SliceId) (v : Word), s.chip.carries p = true → s.chip.booting = false →
    s.chip.inDark = true → Refuses (.slWlenWrite p k v) p s .state)) ∧
  ((∀ (s : State) (d : Die) (f : LinkFrame) (k : SliceId) (r : Report) (l : List Report), s.chip.linkTakes d true 4 f = true →
    (dieOfSlice k).val = d.val → (s.chip.slice k).reports = r :: l →
    Completes (.sliceResultFrame d f (.window k)) s fun c =>
      (c.slice k).reports = l ∧ ReportShown k r s.chip c ∧ OneLink d s.chip c ∧
      (∀ a, phaseAxis k = some a →
        RegsBut ([SL_RES k.val, SL_RLEN k.val, SL_LEDGER k.val, SL_LEDGERH k.val, SL_EXCESS k.val, SL_CLAMP k.val,
          SL_STAT k.val, SL_GAP k.val, AX_KIRCHS a.val]) s.chip c ∧ OneAxis a s.chip c ∧
        c = { s.chip with regs := c.regs, fresh := c.fresh, slices := c.slices, axes := c.axes, links := c.links
                          faults := c.faults })) ∧
  (∀ (s : State) (d : Die) (f : LinkFrame) (r : Region) (i : Int), s.chip.linkTakes d true 4 f = true → 2 * r.val = d.val →
    s.chip.isArmed = true → s.chip.sliceOn (currSlice r) = true →
    Completes (.sliceResultFrame d f (.fastCurrent i)) s fun c =>
      c.get (BUS_FAST_I r.val) = wrapTo 16 i ∧ FieldsBut [BUS_FAST_I r.val] s.chip c ∧
      c = { s.chip with regs := c.regs, buses := c.buses, links := c.links } ∧
      OneBus r s.chip c ∧ OneLink d s.chip c))

/-- A window that closes at a modulator edge is booked as its own integrator counted it (R99, R102 to R109): the result has the
count, the clocks, OVR for an excess outside the fine code and SETL; the next window opens from the fine code, no request is
left, and a slice that was to stop halts empty. The report of a D-die slice waits for its frame, with the highest cause
requested and the excess; that of a C-die slice stands at once in SL_RES, SL_RLEN and the ledger. -/
def Obligations.WindowsAreBooked : Prop :=
  (∀ (s : State) (k : SliceId) (w u : Window), s.chip.closesAlone k w u →
    Completes (.windowClose k ⟨w, u⟩) s fun c =>
      (c.slice k).closed = s.chip.ownResult k w ∧
      (c.slice k).excess = w.full - fineCode (s.chip.slice k).stopping w.full ∧
      (c.slice k).running = !(s.chip.slice k).stopping ∧ (c.slice k).opened = s.chip.now ∧
      (c.slice k).fStart = (if (s.chip.slice k).stopping then 0 else clampTo 0 255 w.full) ∧
      (c.slice k).asked = false ∧ (c.slice k).settle ≤ max 1 (s.chip.slice k).settle ∧ OneSlice k s.chip c ∧
      (dieOfSlice k ≠ 4 → (c.slice k).reports = (s.chip.slice k).reports ++ [s.chip.ownReport k w] ∧
        c = { s.chip with slices := c.slices })) ∧
  (∀ (s : State) (k : SliceId) (w u : Window), s.chip.closesAlone k w u → dieOfSlice k = 4 →
    (s.chip.slice k).reports = [] →
    Completes (.windowClose k ⟨w, u⟩) s fun c =>
      (c.slice k).reports = [] ∧ ReportShown k (s.chip.ownReport k w) s.chip c ∧
      ∀ j, j ≠ k → c.ledger j = s.chip.ledger j)

/-- The understudy's round (R111, R112, R113, R115): a period after the last it queues the enabled working slices of its die in
ascending index, at even distances; a turn begins at a close of its target, from its start time on; the calibration readings,
after CAL_MS, move the turn on, fail the target's CAL check, or calibrate the understudy itself. Permanent replacement (R117 to
R119): a working slice that fails a check while its die has a spare and no turn runs sets its bit and PERM, adds one event to
its source, halts the round and forces the closes; 500 ticks after the first close the second is forced. Without a spare its
windows form a gap, shown as RECON where its mates reconstruct them. An understudy that fails while it serves no slice stops its
round. -/
def Obligations.Understudies : Prop :=
  ((∀ (s : State) (d : UDie), s.chip.flag (US_CFG_ENA (underIx d)) = true → s.chip.isArmed = true →
    s.chip.flag (US_STAT_HALTED (underIx d)) = false → (s.chip.under d).roundFrom + s.chip.roundTicks d ≤ s.chip.now →
    Completes (.roundStart d) s fun c =>
      (∃ l : List (Nat × Nat), (c.under d).turns = (s.chip.under d).turns ++ l ∧
        l.map (·.1) = (s.chip.workers d).map (·.val) ∧
        ∀ j, j < l.length → (l.map (·.2))[j]? = some (s.chip.now + j * s.chip.roundTicks d / l.length)) ∧
      c.under d = { s.chip.under d with turns := (c.under d).turns, roundFrom := s.chip.now } ∧
      c = { s.chip with unders := c.unders } ∧ OneUnder d s.chip c) ∧
  (∀ (s : State) (d : UDie) (k : SliceId) (t : Nat) (l : List (Nat × Nat)), (s.chip.under d).turns = (k.val, t) :: l →
    (s.chip.under d).target = none → s.chip.flag (US_STAT_HALTED (underIx d)) = false → s.chip.isArmed = true →
    t ≤ s.chip.now → (s.chip.slice k).opened = s.chip.now → dieOfSlice k = d → isUnder k = false →
    Completes (.turnStart d) s fun c =>
      (c.under d).target = some k.val ∧ (c.under d).turns = l ∧ (c.under d).left = 2 ∧ c.get (US_STAT_STEP (underIx d)) = 1 ∧
      c.get (US_STAT_TARGET (underIx d)) = k.val ∧
      (c.slice (underOf d)).running = true ∧ (c.slice (underOf d)).opened = s.chip.now ∧
      (c.slice (underOf d)).range = s.chip.get (SL_CFG_RANGE k.val) ∧
      ((s.chip.slice (underOf d)).range ≠ s.chip.get (SL_CFG_RANGE k.val) → (c.slice (underOf d)).settle = 2) ∧
      FieldsBut [US_STAT_TARGET (underIx d), US_STAT_STEP (underIx d)] s.chip c ∧
      c = { s.chip with regs := c.regs, unders := c.unders, slices := c.slices } ∧
      OneUnder d s.chip c ∧ OneSlice (underOf d) s.chip c) ∧
  (∀ (s : State) (d : UDie) (k : SliceId) (v : BitVec 16), (s.chip.under d).target = some k.val →
    (s.chip.under d).calFrom + 250000 * s.chip.get (US_CFG_CAL_MS (underIx d)) ≤ s.chip.now →
    ((s.chip.under d).selfCal = false → s.chip.turnAt d = 4 →
      Completes (.calibrationEnd d v) s fun c =>
        c.turnAt d = 5 ∧ c.under d = { s.chip.under d with zeroRead := v, calFrom := s.chip.now } ∧
        FieldsBut [US_STAT_STEP (underIx d)] s.chip c ∧ c = { s.chip with regs := c.regs, unders := c.unders } ∧
        OneUnder d s.chip c) ∧
    ((s.chip.under d).selfCal = false → s.chip.turnAt d = 5 → (s.chip.under d).calDone = false →
      zeroOk (s.chip.under d).zeroRead = true → gainOk v = true →
      Completes (.calibrationEnd d v) s fun c =>
        c.under d = { s.chip.under d with newCal := some (v ++ (s.chip.under d).zeroRead), calDone := true } ∧
        c = { s.chip with unders := c.unders } ∧ OneUnder d s.chip c) ∧
    ((s.chip.under d).selfCal = false → s.chip.turnAt d = 5 → (s.chip.under d).calDone = false →
      zeroOk (s.chip.under d).zeroRead = false ∨ gainOk v = false →
      Completes (.calibrationEnd d v) s fun c => c.get (SL_STAT_CAL k.val) = 1 ∧ Raised (srcSlice k) s.chip c) ∧
    ((s.chip.under d).selfCal = true → (s.chip.under d).selfZero = false →
      Completes (.calibrationEnd d v) s fun c =>
        c.under d = { s.chip.under d with selfZero := true, zeroRead := v, calFrom := s.chip.now } ∧
        c = { s.chip with unders := c.unders } ∧ OneUnder d s.chip c) ∧
    ((s.chip.under d).selfCal = true → (s.chip.under d).selfZero = true →
      Completes (.calibrationEnd d v) s fun c =>
        c.get (SL_CAL_GAIN (underIx d)) = v.toNat ∧ c.gets (SL_CAL_OFS (underIx d)) = (s.chip.under d).zeroRead.toInt ∧
        c.get (SL_CALT_TICK (underIx d)) = s.chip.wall % 2 ^ 32 ∧ c.turnAt d = 1 ∧
        c.under d = { s.chip.under d with selfCal := false, left := 3 } ∧
        RegsBut [SL_CAL (underIx d), SL_CALT (underIx d), US_STAT (underIx d)] s.chip c ∧
        c = { s.chip with regs := c.regs, unders := c.unders } ∧ OneUnder d s.chip c))) ∧
  ((∀ (s : State) (k : SliceId) (x : SliceCheck), (s.chip.slice k).running = true → isUnder k = false →
    (s.chip.slice k).gap = false → s.chip.flag (SL_STAT_PERM k.val) = false → s.chip.spare (dieOfSlice k) = true →
    (s.chip.under (dieOfSlice k)).target = none →
    Completes (.sliceCheckFail k x) s fun c =>
      c.get (checkBit k x) = 1 ∧ c.get (SL_STAT_PERM k.val) = 1 ∧
      c.get (US_STAT_PERM (underIx (dieOfSlice k))) = 1 ∧ c.get (US_STAT_HALTED (underIx (dieOfSlice k))) = 1 ∧
      c.get (US_STAT_TARGET (underIx (dieOfSlice k))) = k.val ∧
      (c.under (dieOfSlice k)).settling = some k.val ∧ (c.under (dieOfSlice k)).turns = [] ∧ (c.slice k).gap = true ∧
      (∀ j ∈ closesWith k, (s.chip.slice j).running = true → (c.slice j).reqForced = true) ∧
      (∀ j, j ∉ closesWith k → c.slice j = s.chip.slice j) ∧ OneUnder (dieOfSlice k) s.chip c ∧
      Raised (srcSlice k) s.chip c ∧
      RegsBut (US_STAT (underIx (dieOfSlice k)) :: gapRegs k) s.chip c ∧
      c = { s.chip with regs := c.regs, fresh := c.fresh, slices := c.slices, unders := c.unders, faults := c.faults }) ∧
  (∀ (s : State) (k : SliceId) (x : SliceCheck), (s.chip.slice k).running = true → isUnder k = false →
    (s.chip.slice k).gap = false → s.chip.flag (SL_STAT_PERM k.val) = false → s.chip.spare (dieOfSlice k) = false →
    Completes (.sliceCheckFail k x) s fun c =>
      c.get (checkBit k x) = 1 ∧ (c.slice k).gap = true ∧ c.flag (SL_STAT_RECON k.val) = s.chip.reconOk k ∧
      (∀ j ∈ closesWith k, (s.chip.slice j).running = true → (c.slice j).reqForced = true) ∧
      (∀ j, j ∉ closesWith k → c.slice j = s.chip.slice j) ∧
      Raised (srcSlice k) s.chip c ∧ RegsBut (gapRegs k) s.chip c ∧
      c = { s.chip with regs := c.regs, fresh := c.fresh, slices := c.slices, faults := c.faults }) ∧
  (∀ (s : State) (d : UDie) (x : SliceCheck), (s.chip.slice (underOf d)).running = true →
    (s.chip.under d).settling = none → (∀ j, dieOfSlice j = d → s.chip.subNow j = false) →
    Completes (.sliceCheckFail (underOf d) x) s fun c =>
      c.get (checkBit (underOf d) x) = 1 ∧ c.get (US_STAT_HALTED (underIx d)) = 1 ∧
      (c.under d).failed = true ∧ (c.under d).turns = [] ∧ (c.under d).target = none ∧
      Raised (srcSlice (underOf d)) s.chip c ∧
      FieldsBut [checkBit (underOf d) x, US_STAT_HALTED (underIx d), US_STAT_STEP (underIx d)] s.chip c ∧
      c = { s.chip with regs := c.regs, fresh := c.fresh, unders := c.unders, faults := c.faults } ∧
      OneUnder d s.chip c) ∧
  (∀ (s : State) (d : UDie) (k t : Nat), (s.chip.under d).settling = some k → (s.chip.under d).settleFrom = some t →
    t + 500 ≤ s.chip.now →
    Completes (.understudySettleEnd d) s fun c =>
      c.under d = { s.chip.under d with settled := true } ∧
      Requested (closesWith (sliceOf k)) (fun x => { x with reqForced := true }) s.chip c ∧
      c = { s.chip with slices := c.slices, unders := c.unders } ∧ OneUnder d s.chip c))

/-! ### Field engines -/

/-- A period boundary of an axis (R57, R58, R74, R77, R86, R99), once in the tick in which (t - PHASE) mod PERIOD is 0 and not in
DARK: its legs begin a new period with a waiting duty, its BOUNDARY slices are asked to close, and where slices of the axis run,
but not in the tick of the entry into STANDBY, one more is released in this tick, behind those before it, with the derating
factor of this tick. The snapshot of the oldest released slice that has none (R58): it is taken once the results of the axis's
phase windows stand, and holds the tick, the mode in force, both timebase values and whether they are STALE, the direction and
the compatibility commands, and the three phase results. -/
def Obligations.PeriodsAndSnapshots : Prop :=
  ((∀ (s : State) (a : Axis), s.chip.inDark = false → s.chip.sinceBoundary a = 0 → (s.chip.axis a).edgeTick ≠ some s.chip.now →
    Completes (.pwmBoundary a) s fun c =>
      (∀ l ∈ legsOf a, (c.leg l).fell = false ∧ (c.leg l).nextOn = none ∧
        ∀ d, (s.chip.leg l).nextOn = some d → c.get (LEG_DUTY_ON l.val) = d.toNat) ∧
      Requested (allSlices.filter fun k => s.chip.closeMode k == 0 && s.chip.get (SL_CFG_AXIS k.val) == a.val && !isUnder k)
        (fun x => { x with reqSched := true }) s.chip c ∧
      (s.chip.slicesRun a = true → s.chip.arming = false →
        ∃ p, (c.axis a).run = { (s.chip.axis a).run with queue := (s.chip.axis a).run.queue ++ [p] } ∧
          p.release = s.chip.now ∧ p.df = s.chip.get (TMP_DF_DF a.val) ∧ p.v1 = (s.chip.tb (tbeOf a)).val ∧ p.snap = none) ∧
      (s.chip.slicesRun a = false ∨ s.chip.arming = true → c.axis a = { s.chip.axis a with
        edgeTick := some s.chip.now, edgeTb := (s.chip.tb (tbeOf a)).val }) ∧
      (c.axis a).edgeTick = some s.chip.now ∧
      OneAxis a s.chip c ∧ (∀ l, l ∉ legsOf a → c.leg l = s.chip.leg l) ∧
      FieldsBut ([AX_STRSTAT_UNDER a.val, AX_STRCNT_UNDERRUNS a.val, AX_MSTAT_PEND a.val, AX_MSTAT_HELD a.val] ++
        (legsOf a).map (fun l => LEG_DUTY_ON l.val) ++ (legsOf a).map fun l => LEG_CNT_REFRESH l.val) s.chip c ∧
      c = { s.chip with regs := c.regs, fresh := c.fresh, legs := c.legs, slices := c.slices, ports := c.ports
                        axes := c.axes }) ∧
  (∀ (s : State) (a : Axis), s.chip.inDark = true ∨ s.chip.sinceBoundary a ≠ 0 → exec (.pwmBoundary a) s = .next s)) ∧
  ((∀ (s : State) (a : Axis) (p : Pend), dueSnap (s.chip.axis a).run.queue = some p → s.chip.resultsStand a = true →
    Completes (.sliceSnapshot a) s fun c =>
      (∃ (q : Pend) (x : Snapshot), (c.axis a).run = { (s.chip.axis a).run with queue := takeSnap q x (s.chip.axis a).run.queue } ∧
        q = { p with period := q.period, j := q.j } ∧
        x.tick = s.chip.now ∧ x.mode = s.chip.modeOf a ∧ x.entered = (s.chip.axis a).entered ∧
        x.tbm = s.chip.tbVal (tbmOf a) ∧ x.tbe = s.chip.tbVal (tbeOf a) ∧ x.stale = s.chip.axisStale a ∧
        x.dir = s.chip.flag (AX_MSTAT_DIR a.val) ∧ x.run = s.chip.flag (CMP_CTRL_RUN a.val) ∧
        x.cmpTarget = s.chip.gets (CMP_TARGET_TARGET a.val) ∧ x.accel = s.chip.get (CMP_ACCEL_ACCEL a.val) ∧
        x.decel = s.chip.get (CMP_DECEL_DECEL a.val) ∧
        x.u = (s.chip.slice (sliceOfLeg (legOf a 0))).last ∧ x.v = (s.chip.slice (sliceOfLeg (legOf a 1))).last ∧
        x.w = (s.chip.slice (sliceOfLeg (legOf a 2))).last) ∧
      (c.axis a).entered = false ∧ (c.axis a).switched = false ∧
      OneAxis a s.chip c ∧ FieldsBut [AX_MSTAT_SLOT a.val, AX_GREM_REM a.val] s.chip c ∧
      c = { s.chip with regs := c.regs, axes := c.axes, free := c.free }) ∧
  (∀ (s : State) (a : Axis), s.chip.resultsStand a = false ∨ dueSnap (s.chip.axis a).run.queue = none →
    exec (.sliceSnapshot a) s = .next s))

/-- An engine starts the ready slice with the earliest deadline, the lower axis first among equal ones; only a strictly earlier
deadline preempts the slice that runs, which keeps the cycles it has run (R60); none starts during a rollback (R68). A stray
data access is an access error (R291). An uncorrectable error of the checkpoint that a first start reads halts the axis instead
(R70). A commit (R61, R62, R67): from the tick in which the engine has run the slice's cycles, up to its deadline, the slice
leaves the queue and frees the engine, its latency stands, and nothing changes but what its axis releases: no other engine, no
window of another axis, no cue, no logbook control. Before that tick, after the deadline, and for a slice whose mismatch is
flagged, nothing is released. A slice that has not committed by its deadline is abandoned: it leaves the queue, one event of
MISS names its axis, and the miss is counted; of its outputs nothing is produced, and the slices behind it stay (R61). Before
the deadline nothing is abandoned. -/
def Obligations.EngineSchedule : Prop :=
  ((∀ (s : State) (e : Region) (x : Axis), regionOf x = e → s.chip.ready x = true →
    ∃ a, s.chip.earliest e = some a ∧ regionOf a = e ∧ s.chip.ready a = true ∧
      (s.chip.deadline a < s.chip.deadline x ∨ (s.chip.deadline a = s.chip.deadline x ∧ a ≤ x))) ∧
  (∀ (s : State) (e : Region) (a : Axis) (ecc : Bool) (stray : Option (BitVec 24 × Bool)), s.chip.earliest e = some a →
    s.chip.rollsBack e = false → s.chip.engine e = none → ecc = false ∨ (s.chip.axis a).run.started = true →
    Completes (.sliceStart e ecc stray) s fun c =>
      c.engine e = some a ∧
      c.axis a = { s.chip.axis a with
        run := { (s.chip.axis a).run with started := true, preempted := false, since := s.chip.now } } ∧
      OneAxis a s.chip c ∧ (∀ q, q ≠ e → c.engine q = s.chip.engine q) ∧
      (stray = none → c = { s.chip with axes := c.axes, engines := c.engines }) ∧
      (∀ t wr, stray = some (t, wr) → AccessNoted (3 + e.val) wr 2 t.toNat s.chip c) ∧
      RegsBut [FLT_ACC, FLT_ACCA, FLT_ACCT, FLT_ACCTH] s.chip c ∧
      c = { s.chip with regs := c.regs, fresh := c.fresh, axes := c.axes, engines := c.engines, faults := c.faults }) ∧
  (∀ (s : State) (e : Region) (a b : Axis), s.chip.earliest e = some a → s.chip.rollsBack e = false →
    s.chip.engine e = some b → s.chip.deadline a < s.chip.deadline b →
    Completes (.sliceStart e false none) s fun c =>
      c.engine e = some a ∧ (c.axis a).run.started = true ∧ (c.axis a).run.since = s.chip.now ∧
      c.axis b = { s.chip.axis b with run := { (s.chip.axis b).run with preempted := true, ran := s.chip.ranNow b } } ∧
      c = { s.chip with axes := c.axes, engines := c.engines }) ∧
  (∀ (s : State) (e : Region) (ecc : Bool) (stray : Option (BitVec 24 × Bool)), s.chip.earliest e = none ∨
      s.chip.rollsBack e = true ∨
      (∃ a b, s.chip.earliest e = some a ∧ s.chip.engine e = some b ∧ s.chip.deadline b ≤ s.chip.deadline a) →
    exec (.sliceStart e ecc stray) s = .next s) ∧
  (∀ (s : State) (e : Region) (a : Axis) (stray : Option (BitVec 24 × Bool)), s.chip.earliest e = some a →
    s.chip.rollsBack e = false → s.chip.engine e = none → (s.chip.axis a).run.started = false →
    Completes (.sliceStart e true stray) s fun c =>
      c.halted a = true ∧ c.modeOf a = 0 ∧ (c.axis a).run.queue = [] ∧ Raised 0xF0 s.chip c)) ∧
  ((∀ (s : State) (a : Axis) (p : Pend) (l : List Pend) (x : Snapshot), s.chip.engine (regionOf a) = some a →
    (s.chip.axis a).run.mismatched = false → (s.chip.axis a).run.queue = p :: l → p.snap = some x →
    s.chip.now ≤ p.release + 2 * s.chip.period a → s.chip.chargedCost a x.mode ≤ s.chip.ranNow a →
    Completes (.sliceCommit a) s fun c =>
      c.engine (regionOf a) = none ∧ (c.axis a).run = { queue := l } ∧
      c.get (FE_AX_LAT_LAT_LAST (regionOf a).val (localOf a)) = min (s.chip.now - p.release) 65535 ∧
      c.get (FE_AX_LAT_LAT_MAX (regionOf a).val (localOf a)) =
        max (s.chip.get (FE_AX_LAT_LAT_MAX (regionOf a).val (localOf a))) (min (s.chip.now - p.release) 65535) ∧
      c.wall = s.chip.wall ∧ c.now = s.chip.now ∧ c.cues = s.chip.cues ∧ c.nvc = s.chip.nvc ∧
      (∀ k, k ∉ slicesOfAxis a → c.slice k = s.chip.slice k) ∧ OneAxis a s.chip c ∧
      ∀ q, q ≠ regionOf a → c.engine q = s.chip.engine q) ∧
  (∀ (s : State) (a : Axis), s.chip.engine (regionOf a) ≠ some a ∨ (s.chip.axis a).run.mismatched = true ∨
      s.chip.deadline a < s.chip.now ∨ s.chip.ready a = false →
    exec (.sliceCommit a) s = .next s)) ∧
  ((∀ (s : State) (a : Axis) (p : Pend) (l : List Pend), (s.chip.axis a).run.queue = p :: l →
    p.release + 2 * s.chip.period a ≤ s.chip.now →
    Completes (.sliceDeadline a) s fun c =>
      (∃ l', (c.axis a).run = { queue := l' } ∧ l'.map (·.release) = l.map (·.release) ∧ l'.tail = l.tail) ∧
      (p.snap = none → (c.axis a).run = { queue := l }) ∧
      c.get (FE_AX_MISS_MISSES (regionOf a).val (localOf a)) =
        min (s.chip.get (FE_AX_MISS_MISSES (regionOf a).val (localOf a)) + 1) 65535 ∧
      c.faults = { s.chip.faults with
        events := s.chip.faults.events ++ [⟨0xE8 + 3 * (regionOf a).val, 1, 0, axisMask [a], false⟩] } ∧
      c.engine (regionOf a) ≠ some a ∧ OneAxis a s.chip c ∧
      FieldsBut [FE_AX_MISS_MISSES (regionOf a).val (localOf a), FE_STATUS_RETRY (regionOf a).val] s.chip c ∧
      c = { s.chip with regs := c.regs, fresh := c.fresh, axes := c.axes, engines := c.engines, faults := c.faults }) ∧
  (∀ (s : State) (a : Axis), (s.chip.axis a).run.queue = [] ∨ s.chip.now < s.chip.deadline a →
    exec (.sliceDeadline a) s = .next s))

/-- Lockstep (R68, R69): a first mismatch in a slice is recorded with its axis and cycle and counts a TRANS event; 4 ticks later the
slice starts again with its snapshot; a mismatch in the re-execution is persistent, halts the axis and counts a PERSIST event
with the built-in curtain. -/
def Obligations.Lockstep : Prop :=
  (∀ (s : State) (e : Region) (a : Axis) (n : BitVec 10), s.chip.engine e = some a → (s.chip.axis a).run.mismatched = false →
    (s.chip.axis a).run.retrying = false →
    Completes (.lockstepMismatch e n) s fun c =>
      c.axis a = { s.chip.axis a with run := { (s.chip.axis a).run with mismatched := true, flagged := s.chip.now } } ∧
      c.get (FE_MMREC_VALID e.val) = 1 ∧ c.get (FE_MMREC_PERSIST e.val) = 0 ∧ c.get (FE_MMREC_AXIS e.val) = localOf a ∧
      c.get (FE_MMREC_CYCLE e.val) = n.toNat ∧ c.get64 (FE_MMTICK e.val) = s.chip.wall % 2 ^ 64 ∧
      c.faults.events = s.chip.faults.events ++ [⟨0xE6 + 3 * e.val, 1, 0, axisMask [a], s.chip.injected 2 e.val⟩] ∧
      c.injected 2 e.val = false ∧
      c.faults = { s.chip.faults with events := c.faults.events, inj := c.faults.inj } ∧
      OneAxis a s.chip c ∧ RegsBut [FE_MMREC e.val, FE_MMTICK e.val, FE_MMTICKH e.val, FLT_INJS] s.chip c ∧
      (s.chip.injected 2 e.val = false → c.reg FLT_INJS = s.chip.reg FLT_INJS ∧ c.faults.inj = s.chip.faults.inj) ∧
      c = { s.chip with regs := c.regs, fresh := c.fresh, axes := c.axes, faults := c.faults }) ∧
  (∀ (s : State) (e : Region) (a : Axis), s.chip.engine e = some a → (s.chip.axis a).run.mismatched = true →
    (s.chip.axis a).run.flagged + 4 ≤ s.chip.now →
    Completes (.reexecutionStart e) s fun c =>
      c.axis a = { s.chip.axis a with
        run := { (s.chip.axis a).run with mismatched := false, retrying := true, ran := 0, since := s.chip.now } } ∧
      (c.get (FE_STATUS_RETRY e.val)).testBit (localOf a) = true ∧ OneAxis a s.chip c ∧
      FieldsBut [FE_STATUS_RETRY e.val] s.chip c ∧ c = { s.chip with regs := c.regs, axes := c.axes }) ∧
  (∀ (s : State) (e : Region) (a : Axis) (n : BitVec 10), s.chip.engine e = some a → regionOf a = e →
    (s.chip.axis a).run.mismatched = false → (s.chip.axis a).run.retrying = true →
    Completes (.lockstepMismatch e n) s fun c =>
      c.halted a = true ∧ c.modeOf a = 0 ∧ c.get (FE_MMREC_PERSIST e.val) = 1 ∧ c.engine e = none ∧
      c.faults = { s.chip.faults with
        events := s.chip.faults.events ++ [⟨0xE7 + 3 * e.val, 1, 4, axisMask [a], false⟩] })

/-! ### Position sources and commutation -/

/-- The loss of the primary (R166 to R168): with a valid secondary whose offset was learned a switch-over is prepared for the second
tick on, else both axis timebases are lost and the plausibility source has one event. The switch-over in its tick sets ON_SEC,
counts, and holds the offset; the timebases keep their values. Taking a source again (R168, R169): a valid primary takes STALE
timebases back, with a jump, and so does a secondary in use whose loss made them STALE; AX_SRCCMD.BACK returns the axis to its
primary, from the second tick on, only while the secondary is in use, the primary is valid and OFS_OK is 1, and is refused with
STATE otherwise. -/
def Obligations.PositionSources : Prop :=
  ((∀ (s : State) (a : Axis), s.chip.primaryGone a = true → s.chip.flag (AX_SRCSTAT_SEC_OK a.val) = true →
    (s.chip.axis a).ofsAtLoss = true →
    Completes (.primaryLoss a) s fun c =>
      c.axis a = { s.chip.axis a with switchDue := some (s.chip.now + 2) } ∧ OneAxis a s.chip c ∧
      c = { s.chip with axes := c.axes }) ∧
  (∀ (s : State) (a : Axis), s.chip.primaryGone a = true →
    (s.chip.flag (AX_SRCSTAT_SEC_OK a.val) && (s.chip.axis a).ofsAtLoss) = false →
    Completes (.primaryLoss a) s fun c =>
      (c.tb (tbmOf a)).lost = true ∧ (c.tb (tbeOf a)).lost = true ∧
      (∀ n, (c.tb n).val = (s.chip.tb n).val) ∧
      c.axis a = { s.chip.axis a with staleBySec := false, switchDue := none } ∧ Raised (srcAxis a 1) s.chip c ∧
      OneAxis a s.chip c ∧ (∀ n, n ≠ tbmOf a → n ≠ tbeOf a → c.tb n = s.chip.tb n) ∧
      c = { s.chip with tbs := c.tbs, axes := c.axes, faults := c.faults }) ∧
  (∀ (s : State) (a : Axis) (t : Nat), (s.chip.axis a).switchDue = some t → t ≤ s.chip.now →
    Completes (.switchOver a) s fun c =>
      c.get (AX_SRCSTAT_ON_SEC a.val) = 1 ∧
      c.get (AX_SRCSTAT_SWITCHES a.val) = min (s.chip.get (AX_SRCSTAT_SWITCHES a.val) + 1) 65535 ∧
      (c.axis a).switchDue = none ∧ (c.axis a).switchTick = some s.chip.now ∧
      (c.axis a).heldOfs = s.chip.reg (AX_SECOFS a.val) ∧
      (∀ n, (c.tb n).val = (s.chip.tb n).val) ∧
      (s.chip.modeOf a = 5 → s.chip.srcType a true = 5 → c.modeOf a = 0) ∧
      (s.chip.modeOf a ≠ 5 → (c.axis a).switched = true ∧
        FieldsBut [AX_SRCSTAT_ON_SEC a.val, AX_SRCSTAT_SWITCHES a.val] s.chip c ∧ OneAxis a s.chip c ∧
        c = { s.chip with regs := c.regs, fresh := c.fresh, tbs := c.tbs, axes := c.axes })) ∧
  (∀ (s : State) (a : Axis), (s.chip.axis a).switchDue = none ∨
      (∃ t, (s.chip.axis a).switchDue = some t ∧ s.chip.now < t) → exec (.switchOver a) s = .next s) ∧
  (∀ (s : State) (a : Axis), s.chip.primaryGone a = false → exec (.primaryLoss a) s = .next s)) ∧
  ((∀ (s : State) (a : Axis), (s.chip.tb (tbmOf a)).lost = true → s.chip.flag (AX_SRCSTAT_PRI_OK a.val) = true →
    Completes (.sourceResume a) s fun c =>
      c.get (AX_SRCSTAT_ON_SEC a.val) = 0 ∧ (c.tb (tbmOf a)).lost = false ∧ (c.tb (tbeOf a)).lost = false ∧
      (c.tb (tbmOf a)).jumpDue = true ∧ (c.tb (tbeOf a)).jumpDue = true ∧ (c.axis a).staleBySec = false ∧
      (∀ n, (c.tb n).val = (s.chip.tb n).val) ∧ OneAxis a s.chip c ∧
      FieldsBut [AX_SRCSTAT_ON_SEC a.val] s.chip c ∧ c = { s.chip with regs := c.regs, tbs := c.tbs, axes := c.axes }) ∧
  (∀ (s : State) (a : Axis), (s.chip.tb (tbmOf a)).lost = true → s.chip.flag (AX_SRCSTAT_PRI_OK a.val) = false →
    (s.chip.axis a).staleBySec = true → s.chip.onSec a = true → s.chip.flag (AX_SRCSTAT_SEC_OK a.val) = true →
    Completes (.sourceResume a) s fun c =>
      (c.tb (tbmOf a)).lost = false ∧ (c.tb (tbeOf a)).lost = false ∧
      (c.tb (tbmOf a)).jumpDue = true ∧ (c.tb (tbeOf a)).jumpDue = true ∧ (c.axis a).staleBySec = false ∧
      (∀ n, (c.tb n).val = (s.chip.tb n).val) ∧ OneAxis a s.chip c ∧
      c = { s.chip with tbs := c.tbs, axes := c.axes }) ∧
  (∀ (s : State) (a : Axis), (s.chip.tb (tbmOf a)).lost = false → exec (.sourceResume a) s = .next s) ∧
  (∀ (s : State) (p : Path) (a : Axis), s.chip.serves p → s.chip.onSec a = true →
    s.chip.flag (AX_SRCSTAT_PRI_OK a.val) = true → s.chip.flag (AX_SRCSTAT_OFS_OK a.val) = true →
    Grants (.back p a) p s fun c =>
      c.axis a = { s.chip.axis a with backDue := some (s.chip.now + 2) } ∧ OneAxis a s.chip c ∧
      c = { s.chip with axes := c.axes }) ∧
  (∀ (s : State) (p : Path) (a : Axis), s.chip.serves p →
    (s.chip.onSec a && s.chip.flag (AX_SRCSTAT_PRI_OK a.val) && s.chip.flag (AX_SRCSTAT_OFS_OK a.val)) = false →
    Refuses (.back p a) p s .state))

/-- A crossed point of the commutation bank (R171, R172, R174, R191): without steps it takes its sector at once; with steps a
transition begins, each crossed step goes on with it, and the last takes the target; a field-oriented axis whose observer agrees
changes over. While the lane does not run, a STALE timebase among the reasons, and without a crossing, nothing commutates. After
a jump the sector follows the new value. -/
def Obligations.Commutation : Prop :=
  (∀ (s : State) (a : Axis) (k : Fin 6) (back : Bool) (f : LaneFire) (sec : Nat), s.chip.pointDue a k back = some f →
    s.chip.laneRuns a = true → s.chip.flag (AX_COMCFG_WAVE a.val) = false → s.chip.softSteps a = 0 →
    sec = ((if back then k.val + 5 else k.val) + if (s.chip.axis a).negTorque then 3 else 0) % 6 →
    Completes (.commutationPoint a k back) s fun c =>
      SectorTaken a sec s.chip c ∧ (c.axis a).lane = (s.chip.axis a).lane.erase f) ∧
  (∀ (s : State) (a : Axis) (k : Fin 6) (back : Bool) (f : LaneFire) (sec : Nat), s.chip.pointDue a k back = some f →
    s.chip.laneRuns a = true → s.chip.flag (AX_COMCFG_WAVE a.val) = false → 0 < s.chip.softSteps a →
    s.chip.pulsed a = true → (s.chip.axis a).trans = none →
    sec = ((if back then k.val + 5 else k.val) + if (s.chip.axis a).negTorque then 3 else 0) % 6 →
    nextTo (s.chip.get (AX_SRCSTAT_SECTOR a.val)) sec = true →
    Completes (.commutationPoint a k back) s fun c =>
      (c.axis a).trans = some ⟨sec, 1, back, k.val, s.chip.reg (AX_CUEPOS a.val k.val)⟩ ∧
      OneAxis a s.chip c ∧ (∀ l, l ∉ legsOf a → c.leg l = s.chip.leg l) ∧
      c = { s.chip with legs := c.legs, axes := c.axes, free := c.free }) ∧
  (∀ (s : State) (a : Axis) (k : Fin 6) (back : Bool) (f : LaneFire), s.chip.pointDue a k back = some f →
    s.chip.laneRuns a = false →
    Completes (.commutationPoint a k back) s fun c =>
      c.axis a = { s.chip.axis a with lane := (s.chip.axis a).lane.erase f } ∧ OneAxis a s.chip c ∧
      c = { s.chip with axes := c.axes }) ∧
  (∀ (s : State) (a : Axis) (k : Fin 6) (back : Bool), s.chip.pointDue a k back = none →
    exec (.commutationPoint a k back) s = .next s) ∧
  (∀ (s : State) (a : Axis) (k : Fin 6) (back : Bool) (f : LaneFire), s.chip.pointDue a k back = some f →
    s.chip.laneRuns a = true → s.chip.flag (AX_COMCFG_WAVE a.val) = true → s.chip.startOf a = 3 →
    s.chip.get (AX_PLAUS_PLAUS_N a.val) ≤ (s.chip.axis a).obsGood →
    Completes (.commutationPoint a k back) s fun c =>
      (c.axis a).focOn = true ∧ (c.axis a).focNew = true ∧ (c.axis a).trans = none ∧ OneAxis a s.chip c) ∧
  (∀ (s : State) (a : Axis) (f : LaneFire) (x : Trans) (i : Nat), s.chip.stepDue a = some f → s.chip.laneRuns a = true →
    (s.chip.axis a).trans = some x → x.point = f.point → x.back = f.back → s.chip.laneStep a f.back f.place = i →
    x.step ≤ i → i < s.chip.softSteps a →
    Completes (.transitionStep a) s fun c =>
      (c.axis a).trans = some { x with step := i + 1 } ∧ OneAxis a s.chip c ∧
      (∀ l, l ∉ legsOf a → c.leg l = s.chip.leg l) ∧
      c = { s.chip with legs := c.legs, axes := c.axes, free := c.free }) ∧
  (∀ (s : State) (a : Axis) (f : LaneFire) (x : Trans), s.chip.stepDue a = some f → s.chip.laneRuns a = true →
    (s.chip.axis a).trans = some x → x.point = f.point → x.back = f.back → x.sector < 6 →
    x.step ≤ s.chip.laneStep a f.back f.place → s.chip.softSteps a ≤ s.chip.laneStep a f.back f.place →
    Completes (.transitionStep a) s (SectorTaken a x.sector s.chip)) ∧
  (∀ (s : State) (a : Axis), s.chip.stepDue a = none → exec (.transitionStep a) s = .next s) ∧
  (∀ (s : State) (a : Axis), (s.chip.tb (tbeOf a)).jumped = true → s.chip.axisOn a = true → s.chip.isArmed = true →
    s.chip.sixStep a = true → s.chip.startOf a ≠ 1 → s.chip.startOf a ≠ 2 → s.chip.windowAt a = none →
    Completes (.sectorReapply a) s fun c =>
      SectorTaken a (s.chip.sectorOf a (s.chip.theta a))
        (s.chip.setTb (tbeOf a) { s.chip.tb (tbeOf a) with jumped := false }) c) ∧
  (∀ (s : State) (a : Axis) (x : Trans), (s.chip.tb (tbeOf a)).jumped = true → s.chip.axisOn a = true →
    s.chip.isArmed = true → s.chip.sixStep a = true → s.chip.startOf a ≠ 1 → s.chip.startOf a ≠ 2 →
    s.chip.windowAt a = some x → s.chip.pulsed a = true →
    Completes (.sectorReapply a) s fun c =>
      (c.axis a).trans = some { x with sector := s.chip.torqued a x.sector, step := x.step + 1 } ∧
      (c.tb (tbeOf a)).jumped = false ∧ OneAxis a s.chip c ∧ FieldsBut [AX_SRCSTAT_SECTOR a.val] s.chip c ∧
      c = { s.chip with regs := c.regs, tbs := c.tbs, legs := c.legs, axes := c.axes, free := c.free }) ∧
  (∀ (s : State) (a : Axis), (s.chip.tb (tbeOf a)).jumped = false → exec (.sectorReapply a) s = .next s)

/-- The twelfth response is judged (R189, R196): a margin of the threshold of its band or more begins open loop, a smaller one
repeats the set once with the width doubled, capped at 255 µs, and then fails the start. Sensorless starts (R186, R188 to R190):
a pulse of detection ends after its width, its legs float and its windows close; after the gap its response is kept and the next
pulse begins, until there are twelve; OVR in a pulse window fails the detection; in open loop each step that is due takes the
next sector in the commanded direction, and past FMAX the start fails; 50 ms after a brake hold began the axis starts from rest.
A zero crossing that is read is captured with its tick and direction while its capture is enabled, and sets its interrupt bit
where that is enabled (R180, R269); one that is not read has no effect. -/
def Obligations.SensorlessStarts : Prop :=
  (∀ (s : State) (a : Axis) (r m : Int) (l : List Int) (k thr : Nat) (e : Nat), s.chip.startOf a = 1 →
    (s.chip.axis a).ipdOn = false → (s.chip.axis a).ipdTo = some e → e + 2500 * s.chip.get (AX_IPD_GAP a.val) ≤ s.chip.now →
    s.chip.ipdStands a = true → (s.chip.axis a).ipdOvr = false → (s.chip.ipdResponse a).2 = r →
    (s.chip.axis a).ipdDone ++ [r] = l → l.length = 12 → largest l = k → l.getD k 0 - l.getD ((k + 6) % 12) 0 = m →
    s.chip.ipdThr a (bandOf (l.getD k 0).toNat (8000 * (s.chip.axis a).ipdWidth)) = thr →
    Completes (.ipdPulse a 11 true) s fun c =>
      ((thr : Int) ≤ m → c.startOf a = 2 ∧ (c.axis a).driven = true ∧ (c.axis a).olTick = s.chip.now ∧
        (c.axis a).negTorque = s.chip.flag (AX_MSTAT_DIR a.val) ∧
        OneAxis a s.chip c ∧ FieldsBut [AX_SRCSTAT_START a.val, AX_SRCSTAT_SECTOR a.val] s.chip c) ∧
      (m < (thr : Int) → (s.chip.axis a).ipdAgain = false →
        (c.axis a).ipdDone = [] ∧ (c.axis a).ipdAgain = true ∧
        (c.axis a).ipdWidth = min (2 * (s.chip.axis a).ipdWidth) 255 ∧ PulseBegins a 0 s.chip c ∧
        c = { s.chip with legs := c.legs, slices := c.slices, axes := c.axes, free := c.free }) ∧
      (m < (thr : Int) → (s.chip.axis a).ipdAgain = true → StartFailed a s.chip c)) ∧
  ((∀ (s : State) (a : Axis) (k : Fin 12), s.chip.startOf a = 1 → (s.chip.axis a).ipdOn = true →
    (s.chip.axis a).ipdDone.length = k.val → (s.chip.axis a).ipdFrom + 250 * (s.chip.axis a).ipdWidth ≤ s.chip.now →
    Completes (.ipdPulse a k false) s fun c =>
      (c.axis a).ipdOn = false ∧ (c.axis a).ipdTo = some s.chip.now ∧ (∀ l ∈ legsOf a, (c.leg l).wantMode = .float) ∧
      (∀ j ∈ slicesOfAxis a, (s.chip.slice j).running = true → (c.slice j).reqCue = true) ∧
      (∀ j, j ∉ slicesOfAxis a → c.slice j = s.chip.slice j) ∧ (∀ l, l ∉ legsOf a → c.leg l = s.chip.leg l) ∧
      OneAxis a s.chip c ∧ c = { s.chip with legs := c.legs, slices := c.slices, axes := c.axes }) ∧
  (∀ (s : State) (a : Axis) (k : Fin 12) (e : Nat), s.chip.startOf a = 1 → (s.chip.axis a).ipdOn = false →
    (s.chip.axis a).ipdTo = some e → e + 2500 * s.chip.get (AX_IPD_GAP a.val) ≤ s.chip.now → s.chip.ipdStands a = true →
    (s.chip.axis a).ipdOvr = false → (s.chip.axis a).ipdDone.length = k.val → k.val < 11 →
    Completes (.ipdPulse a k true) s fun c =>
      (c.axis a).ipdDone = (s.chip.axis a).ipdDone ++ [(s.chip.ipdResponse a).2] ∧
      PulseBegins a (k.val + 1) s.chip c ∧
      c = { s.chip with legs := c.legs, slices := c.slices, axes := c.axes, free := c.free }) ∧
  (∀ (s : State) (a : Axis) (k : Fin 12) (e : Nat), s.chip.startOf a = 1 → (s.chip.axis a).ipdOn = false →
    (s.chip.axis a).ipdTo = some e → e + 2500 * s.chip.get (AX_IPD_GAP a.val) ≤ s.chip.now → s.chip.ipdStands a = true →
    (s.chip.axis a).ipdDone.length = k.val → (s.chip.axis a).ipdOvr = true →
    Completes (.ipdPulse a k true) s (StartFailed a s.chip)) ∧
  (∀ (s : State) (a : Axis), s.chip.startOf a = 2 → s.chip.openLoopTop a = false → s.chip.openLoopDue a = true →
    Completes (.openLoopStep a) s fun c =>
      SectorTaken a ((s.chip.get (AX_SRCSTAT_SECTOR a.val) + if s.chip.flag (AX_MSTAT_DIR a.val) then 5 else 1) % 6) s.chip c ∧
      (c.axis a).olSteps = (s.chip.axis a).olSteps + 1) ∧
  (∀ (s : State) (a : Axis), s.chip.startOf a = 2 → s.chip.openLoopTop a = true →
    Completes (.openLoopStep a) s (StartFailed a s.chip)) ∧
  (∀ (s : State) (a : Axis), s.chip.startOf a ≠ 2 ∨ (s.chip.openLoopTop a = false ∧ s.chip.openLoopDue a = false) →
    exec (.openLoopStep a) s = .next s) ∧
  (∀ (s : State) (a : Axis) (t : Nat), (s.chip.axis a).brakeHold = some t → t + 12500000 ≤ s.chip.now →
    Completes (.brakeHoldEnd a) s fun c =>
      (c.axis a).brakeHold = none ∧
      c.startOf a = (if s.chip.usesSensorless a && !s.chip.flag (AX_SRCSTAT_QUAL a.val)
        then (if s.chip.get (AX_CUR_LIMIT a.val) = 0 then 0 else 1) else 3) ∧
      (c.startOf a = 1 → PulseBegins a 0 s.chip c) ∧ (c.startOf a ≠ 1 → c.legs = s.chip.legs ∧ c.slices = s.chip.slices) ∧
      OneAxis a s.chip c ∧ FieldsBut [AX_SRCSTAT_START a.val] s.chip c ∧ (∀ l, l ∉ legsOf a → c.leg l = s.chip.leg l) ∧
      c = { s.chip with regs := c.regs, legs := c.legs, slices := c.slices, axes := c.axes })) ∧
  ((∀ (s : State) (l : Leg) (rise : Bool), s.chip.pcRead l = true → s.chip.hasSensorless (axisOfLeg l) = false →
    Completes (.zeroCrossing l rise) s fun c =>
      ((s.chip.get PC_CAPEN_EN).testBit l.val = true →
        c.get (PC_CAP_TICK l.val) = s.chip.wall % 2 ^ 32 ∧ c.get (PC_CAPS_FULL l.val) = 1 ∧
        c.flag (PC_CAPS_OVF l.val) = (s.chip.stillSet (PC_CAPS_FULL l.val) || s.chip.flag (PC_CAPS_OVF l.val)) ∧
        c.flag (PC_CAPS_RISE l.val) = rise) ∧
      ((s.chip.get PC_CAPEN_EN).testBit l.val = false →
        c.reg (PC_CAP l.val) = s.chip.reg (PC_CAP l.val) ∧ c.reg (PC_CAPS l.val) = s.chip.reg (PC_CAPS l.val)) ∧
      ((s.chip.get PC_IRQEN_EN).testBit l.val = true → (c.get PC_IRQ_PEND).testBit l.val = true) ∧
      ((s.chip.get PC_WAKEEN_EN).testBit l.val = true → c.nWake = true) ∧
      RegsBut [PC_CAP l.val, PC_CAPS l.val, PC_IRQ, WAKE_CMD] s.chip c ∧
      c = { s.chip with regs := c.regs, fresh := c.fresh }) ∧
  (∀ (s : State) (l : Leg) (rise : Bool), s.chip.pcRead l = true → s.chip.hasSensorless (axisOfLeg l) = true →
    Completes (.zeroCrossing l rise) s fun c =>
      (c.axis (axisOfLeg l)).crossTick = some s.chip.now ∧ OneAxis (axisOfLeg l) s.chip c ∧
      ((s.chip.get PC_CAPEN_EN).testBit l.val = true →
        c.get (PC_CAP_TICK l.val) = s.chip.wall % 2 ^ 32 ∧ c.flag (PC_CAPS_RISE l.val) = rise)) ∧
  (∀ (s : State) (l : Leg) (rise : Bool), s.chip.pcRead l = false → exec (.zeroCrossing l rise) s = .next s))

/-! ### Commands and motion -/

/-- The commands into CURVE, COMPAT, STREAM, HOME and HOLD (R201 to R204): over the path that owns the axis and with no refusing
condition each enters its mode in the direction it names, or in that of present motion; with one it is refused with the lowest
code and has no effect (R10, R11). A command that repeats the mode in force changes nothing but REACTED, but for a reversal,
which brakes the axis (R187), and for HOME, which starts anew with its timeout (R218). GEAR takes the named slot, or with
SLOT_KEEP the one last stored, and stores it, also where it repeats GEAR (R223); OFF is accepted over either path whatever the
owner (R201, R202); a locally owned axis enters CURVE as soon as no condition refuses it (R204). -/
def Obligations.AxisCommands : Prop :=
  (∀ (s : State) (p : Path) (a : Axis) (back b : Bool) (mode : Nat) (i : Instr),
    (i, mode, b) ∈ [(Instr.curve p a back, 1, back), (.compat p a, 2, false), (.stream p a, 3, false), (.home p a back, 5, back),
      (.hold p a, 6, false)] → s.chip.serves p →
    (s.chip.owns p a = true → judge (s.chip.modeConds a mode b) = .ok → s.chip.modeOf a ≠ mode →
      Grants i p s (Entered a mode (s.chip.takenDir a mode b) s.chip)) ∧
    (s.chip.owns p a = true → judge (s.chip.modeConds a mode b) = .ok → s.chip.modeOf a = mode → mode ≠ 5 →
      s.chip.reverses a mode b = false →
      Grants i p s fun c => c.get (AX_MSTAT_REACTED a.val) = 0 ∧ FieldsBut [AX_MSTAT_REACTED a.val] s.chip c ∧
        c = { s.chip with regs := c.regs }) ∧
    (s.chip.owns p a = true → judge (s.chip.modeConds a mode b) = .ok → s.chip.modeOf a = mode →
      s.chip.reverses a mode b = true →
      Grants i p s fun c => c.get (AX_MSTAT_REACTED a.val) = 0 ∧ c.flag (AX_MSTAT_DIR a.val) = s.chip.takenDir a mode b ∧
        c.startOf a = 5 ∧ (c.axis a).ref = 0 ∧ OneAxis a s.chip c ∧
        FieldsBut [AX_MSTAT_REACTED a.val, AX_MSTAT_DIR a.val, AX_SRCSTAT_START a.val, AX_MSTAT_HOME a.val] s.chip c ∧
        c = { s.chip with regs := c.regs, axes := c.axes }) ∧
    (s.chip.owns p a = true → judge (s.chip.modeConds a mode b) = .ok → s.chip.modeOf a = mode → mode = 5 →
      Grants i p s fun c => c.get (AX_MSTAT_REACTED a.val) = 0 ∧ c.get (AX_MSTAT_HOME a.val) = 1 ∧
        (c.axis a).homeFrom = s.chip.now ∧ (c.axis a).homeLate = false ∧ (c.axis a).stallFrom = none ∧ OneAxis a s.chip c ∧
        FieldsBut [AX_MSTAT_REACTED a.val, AX_MSTAT_DIR a.val, AX_SRCSTAT_START a.val, AX_MSTAT_HOME a.val] s.chip c ∧
        c = { s.chip with regs := c.regs, axes := c.axes }) ∧
    (∀ r, judge ((!s.chip.owns p a, .locked) :: s.chip.modeConds a mode b) = r → r ≠ .ok → Refuses i p s r)) ∧
  ((∀ (s : State) (p : Path) (a : Axis) (keep : Bool) (slot : Fin 8), s.chip.serves p → s.chip.owns p a = true →
    judge (s.chip.modeConds a 4 false) = .ok → s.chip.modeOf a ≠ 4 →
    Grants (.gear p a keep slot) p s fun c =>
      Entered a 4 (s.chip.takenDir a 4 false) s.chip c ∧
      c.get (AX_MSTAT_SLOT a.val) = (if keep then (s.chip.axis a).gearStored else slot.val) % 8 ∧
      c.get (AX_GREM_REM a.val) = 0 ∧ (c.axis a).gearStored = if keep then (s.chip.axis a).gearStored else slot.val) ∧
  (∀ (s : State) (p : Path) (a : Axis) (keep : Bool) (slot : Fin 8), s.chip.serves p → s.chip.owns p a = true →
    judge (s.chip.modeConds a 4 false) = .ok → s.chip.modeOf a = 4 →
    Grants (.gear p a keep slot) p s fun c =>
      c.modeOf a = 4 ∧ c.get (AX_MSTAT_REACTED a.val) = 0 ∧
      (c.axis a).gearStored = (if keep then (s.chip.axis a).gearStored else slot.val) ∧
      ((s.chip.axis a).gearSteps = [] →
        c.get (AX_MSTAT_SLOT a.val) = (if keep then (s.chip.axis a).gearStored else slot.val) % 8) ∧ OneAxis a s.chip c ∧
      FieldsBut [AX_MSTAT_REACTED a.val, AX_MSTAT_SLOT a.val, AX_GREM_REM a.val] s.chip c ∧
      c = { s.chip with regs := c.regs, axes := c.axes }) ∧
  (∀ (s : State) (p : Path) (a : Axis) (keep : Bool) (slot : Fin 8) (r : Reason), s.chip.serves p →
    judge ((!s.chip.owns p a, .locked) :: s.chip.modeConds a 4 false) = r → r ≠ .ok → Refuses (.gear p a keep slot) p s r) ∧
  (∀ (s : State) (p : Path) (a : Axis), s.chip.serves p →
    Grants (.off p a) p s fun c =>
      c.modeOf a = 0 ∧ c.get (AX_MSTAT_REACTED a.val) = 0 ∧
      (s.chip.modeOf a = 3 → c.get (AX_STRSTAT_CREDITS a.val) = 64 ∧ (c.axis a).fifo = []) ∧
      OneAxis a s.chip c ∧ (∀ l, l ∉ legsOf a → c.leg l = s.chip.leg l) ∧
      RegsBut [AX_MSTAT a.val, AX_SRCSTAT a.val, AX_STRSTAT a.val] s.chip c ∧
      c = { s.chip with regs := c.regs, legs := c.legs, axes := c.axes }) ∧
  (∀ (s : State) (a : Axis) (back : Bool), (s.chip.axis a).localDue = true → s.chip.get (AX_CFG_OWNER a.val) = 2 →
    s.chip.flag (AX_CFG_LDIR a.val) = back → judge (s.chip.modeConds a 1 back) = .ok → s.chip.modeOf a ≠ 1 →
    Completes (.localCurveEntry a) s fun c => Entered a 1 back s.chip c ∧ (c.axis a).localDue = false) ∧
  (∀ (s : State) (a : Axis) (back : Bool), (s.chip.axis a).localDue = true → s.chip.get (AX_CFG_OWNER a.val) = 2 →
    s.chip.flag (AX_CFG_LDIR a.val) = back → judge (s.chip.modeConds a 1 back) ≠ .ok →
    exec (.localCurveEntry a) s = .next s) ∧
  (∀ (s : State) (a : Axis), (s.chip.axis a).localDue = false ∨ s.chip.get (AX_CFG_OWNER a.val) ≠ 2 → exec (.localCurveEntry a) s = .next s))

/-- The curve input (R201, R205): a write of AX_CIN is taken only over the path that SRC names, clears INFAIL and restarts the
timer; TIMEOUT ms later without a write the input fails in CURVE, not before and never with TIMEOUT = 0. The compatibility block
(R187, R209, R210): its registers are written over the path that owns the axis, a ramp of 0 is refused with RANGE, and a new
target that reverses an axis in COMPAT brakes it while RUN is 1, or is refused with WRONG_DIR at REV_SPEED and above; with RUN =
0 it only names the direction. Over another path each is refused with LOCKED, a ramp of 0 with RANGE. -/
def Obligations.AxisInputs : Prop :=
  ((∀ (s : State) (p : Path) (a : Axis) (v : BitVec 16), s.chip.serves p →
    s.chip.get (AX_CRVCFG_SRC a.val) = (match p with | .host => 0 | .can => 1) →
    Grants (.axCinWrite p a v) p s fun c =>
      c.get (AX_CIN_VALUE a.val) = v.toNat ∧ c.get (AX_MSTAT_INFAIL a.val) = 0 ∧
      c.axis a = { s.chip.axis a with inputDead := false, inputFrom := s.chip.now } ∧ OneAxis a s.chip c ∧
      FieldsBut [AX_CIN_VALUE a.val, AX_MSTAT_INFAIL a.val] s.chip c ∧ c = { s.chip with regs := c.regs, axes := c.axes }) ∧
  (∀ (s : State) (p : Path) (a : Axis) (v : BitVec 16), s.chip.serves p →
    s.chip.get (AX_CRVCFG_SRC a.val) ≠ (match p with | .host => 0 | .can => 1) → Refuses (.axCinWrite p a v) p s .locked) ∧
  (∀ (s : State) (a : Axis), s.chip.modeOf a = 1 → s.chip.get (AX_CRVCFG_SRC a.val) ≤ 1 →
    s.chip.get (AX_CRVCFG_TIMEOUT a.val) ≠ 0 →
    (s.chip.axis a).inputFrom + 250000 * s.chip.get (AX_CRVCFG_TIMEOUT a.val) ≤ s.chip.now →
    Completes (.curveInputTimeout a) s fun c =>
      c.get (AX_MSTAT_INFAIL a.val) = 1 ∧ c.axis a = { s.chip.axis a with inputDead := true } ∧ OneAxis a s.chip c ∧
      FieldsBut [AX_MSTAT_INFAIL a.val] s.chip c ∧ c = { s.chip with regs := c.regs, axes := c.axes }) ∧
  (∀ (s : State) (a : Axis), s.chip.modeOf a ≠ 1 ∨ 1 < s.chip.get (AX_CRVCFG_SRC a.val) ∨
      s.chip.get (AX_CRVCFG_TIMEOUT a.val) = 0 ∨
      s.chip.now < (s.chip.axis a).inputFrom + 250000 * s.chip.get (AX_CRVCFG_TIMEOUT a.val) →
    exec (.curveInputTimeout a) s = .next s)) ∧
  ((∀ (s : State) (p : Path) (a : Axis) (v : Word), s.chip.serves p → s.chip.owns p a = true →
    Grants (.cmpCtrlWrite p a v) p s fun c =>
      c.get (CMP_CTRL_RUN a.val) = (CMP_CTRL_RUN a.val).read v ∧ FieldsBut [CMP_CTRL_RUN a.val] s.chip c ∧
      c = { s.chip with regs := c.regs }) ∧
  (∀ (s : State) (p : Path) (a : Axis) (v : Word) (f : Field) (i : Instr),
    (f, i) ∈ [(CMP_ACCEL_ACCEL a.val, Instr.cmpAccelWrite p a v), (CMP_DECEL_DECEL a.val, .cmpDecelWrite p a v)] →
    s.chip.serves p → s.chip.owns p a = true →
    (f.read v ≠ 0 → Grants i p s fun c =>
      c.get f = f.read v ∧ FieldsBut [f] s.chip c ∧ c = { s.chip with regs := c.regs }) ∧
    (f.read v = 0 → Refuses i p s .range)) ∧
  (∀ (s : State) (p : Path) (a : Axis) (v : Word), s.chip.serves p → s.chip.owns p a = true →
    s.chip.targetReverses a ((CMP_TARGET_TARGET a.val).read v) = false →
    Grants (.cmpTargetWrite p a v) p s fun c =>
      c.get (CMP_TARGET_TARGET a.val) = (CMP_TARGET_TARGET a.val).read v ∧ FieldsBut [CMP_TARGET_TARGET a.val] s.chip c ∧
      c = { s.chip with regs := c.regs }) ∧
  (∀ (s : State) (p : Path) (a : Axis) (v : Word), s.chip.serves p → s.chip.owns p a = true →
    s.chip.targetReverses a ((CMP_TARGET_TARGET a.val).read v) = true →
    (s.chip.flag (CMP_CTRL_RUN a.val) = true → s.chip.reversalBad a = true → Refuses (.cmpTargetWrite p a v) p s .wrongDir) ∧
    (s.chip.flag (CMP_CTRL_RUN a.val) = true → s.chip.reversalBad a = false →
      Grants (.cmpTargetWrite p a v) p s fun c =>
        c.get (CMP_TARGET_TARGET a.val) = (CMP_TARGET_TARGET a.val).read v ∧ c.startOf a = 5 ∧
        c.flag (AX_MSTAT_DIR a.val) = (!s.chip.flag (AX_MSTAT_DIR a.val)) ∧ (c.axis a).ref = 0 ∧ OneAxis a s.chip c ∧
        FieldsBut [CMP_TARGET_TARGET a.val, AX_MSTAT_DIR a.val, AX_SRCSTAT_START a.val] s.chip c ∧
        c = { s.chip with regs := c.regs, axes := c.axes }) ∧
    (s.chip.flag (CMP_CTRL_RUN a.val) = false →
      Grants (.cmpTargetWrite p a v) p s fun c =>
        c.get (CMP_TARGET_TARGET a.val) = (CMP_TARGET_TARGET a.val).read v ∧
        c.flag (AX_MSTAT_DIR a.val) = (!s.chip.flag (AX_MSTAT_DIR a.val)) ∧
        FieldsBut [CMP_TARGET_TARGET a.val, AX_MSTAT_DIR a.val] s.chip c ∧ c = { s.chip with regs := c.regs })) ∧
  (∀ (s : State) (p : Path) (a : Axis) (v : Word) (i : Instr),
    i ∈ [Instr.cmpCtrlWrite p a v, .cmpTargetWrite p a v] → s.chip.serves p → s.chip.owns p a = false →
    Refuses i p s .locked) ∧
  (∀ (s : State) (p : Path) (a : Axis) (v : Word) (f : Field) (i : Instr),
    (f, i) ∈ [(CMP_ACCEL_ACCEL a.val, Instr.cmpAccelWrite p a v), (CMP_DECEL_DECEL a.val, .cmpDecelWrite p a v)] →
    s.chip.serves p → s.chip.owns p a = false → Refuses i p s (if f.read v = 0 then .range else .locked)))

/-- A write of AX_SPLO loads the path's holding register; a write of AX_SPHI submits the entry, which takes one credit and the last
place of the FIFO, or is refused with the lowest code that applies: STATE outside STREAM, RANGE for a tag that does not rise,
LOCKED over the wrong path, CREDIT without one, LATE for a past period (R212). -/
def Obligations.Setpoints : Prop :=
  (∀ (s : State) (p : Path) (a : Axis) (v : Word), s.chip.serves p →
    Grants (.axSploWrite p a v) p s fun c =>
      c.spHold p a = v ∧ (∀ q, q ≠ p → c.spHold q a = s.chip.spHold q a) ∧
      c.axis a = { s.chip.axis a with spHost := (c.axis a).spHost, spCan := (c.axis a).spCan } ∧
      OneAxis a s.chip c ∧ c = { s.chip with axes := c.axes }) ∧
  (∀ (s : State) (p : Path) (a : Axis) (v : Word) (x : Setpoint), s.chip.serves p → s.chip.setpointOf p a v = x →
    judge (s.chip.setpointConds p a x.tag) = .ok →
    Grants (.setpointSubmit p a v) p s fun c =>
      (c.axis a).fifo = (s.chip.axis a).fifo ++ [x] ∧
      c.get (AX_STRSTAT_CREDITS a.val) = s.chip.get (AX_STRSTAT_CREDITS a.val) - 1 ∧
      c.get (AX_STRSTAT_LASTTAG a.val) = x.tag ∧ OneAxis a s.chip c ∧
      FieldsBut [AX_STRSTAT_CREDITS a.val, AX_STRSTAT_LASTTAG a.val] s.chip c ∧
      c = { s.chip with regs := c.regs, axes := c.axes }) ∧
  (∀ (s : State) (p : Path) (a : Axis) (v : Word) (r : Reason), s.chip.serves p →
    judge (s.chip.setpointConds p a (s.chip.setpointOf p a v).tag) = r → r ≠ .ok →
    Refuses (.setpointSubmit p a v) p s r)

/-- The cues of an axis (R39, R193, R214, R223, R225): ADV_SET stores its selection; RELEASE ends a hold, or becomes pending, and is
a NOOP for an axis that cannot take it, as the others are for one that is not enabled; GEAR_SLOT stores its slot, which is in
force at once for an axis in GEAR without a kept master step; the homing timeout, TO ms after the acceptance, is told to the
next snapshot (R220). -/
def Obligations.AxisCues : Prop :=
  (∀ (s : State) (k : EntryIx) (f : Fire), s.chip.firesOf k 7 = [f] → s.chip.axisOn (fireAxis f) = true →
    Completes (.advSet k) s fun c =>
      c.axis (fireAxis f) = { s.chip.axis (fireAxis f) with advSel := cueArg f.cue / 8 % 2 == 1 } ∧
      OneAxis (fireAxis f) s.chip c ∧ FiredOnly s f c ∧ c = { s.chip with axes := c.axes, cues := c.cues }) ∧
  (∀ (s : State) (k : EntryIx) (f : Fire), s.chip.firesOf k 11 = [f] → s.chip.releaseAble (fireAxis f) = true →
    Completes (.release k) s fun c =>
      c.get (AX_MSTAT_HELD (fireAxis f).val) = 0 ∧
      (s.chip.flag (AX_MSTAT_HELD (fireAxis f).val) = false → c.get (AX_MSTAT_PEND (fireAxis f).val) = 1) ∧
      FieldsBut [if s.chip.flag (AX_MSTAT_HELD (fireAxis f).val) then AX_MSTAT_HELD (fireAxis f).val
        else AX_MSTAT_PEND (fireAxis f).val] s.chip c ∧
      FiredOnly s f c ∧ c = { s.chip with regs := c.regs, cues := c.cues }) ∧
  (∀ (s : State) (k : EntryIx) (f : Fire), s.chip.firesOf k 11 = [f] → s.chip.releaseAble (fireAxis f) = false →
    Completes (.release k) s fun c =>
      c.get (CUE_TB_STAT_NOOP f.tb) = 1 ∧ FiredOnly s f c ∧
      c = { s.chip with regs := c.regs, fresh := c.fresh, cues := c.cues } ∧ FieldsBut [CUE_TB_STAT_NOOP f.tb] s.chip c) ∧
  (∀ (s : State) (k : EntryIx) (f : Fire) (n : Nat) (i : Instr), (n, i) ∈ [(6, Instr.gearSlot k), (7, .advSet k)] →
    s.chip.firesOf k n = [f] → s.chip.axisOn (fireAxis f) = false →
    Completes i s fun c =>
      c.get (CUE_TB_STAT_NOOP f.tb) = 1 ∧ FiredOnly s f c ∧
      c = { s.chip with regs := c.regs, fresh := c.fresh, cues := c.cues } ∧ FieldsBut [CUE_TB_STAT_NOOP f.tb] s.chip c) ∧
  (∀ (s : State) (k : EntryIx) (f : Fire), s.chip.firesOf k 6 = [f] → s.chip.axisOn (fireAxis f) = true →
    Completes (.gearSlot k) s fun c =>
      (c.axis (fireAxis f)).gearStored = cueArg f.cue / 8 % 8 ∧ OneAxis (fireAxis f) s.chip c ∧ FiredOnly s f c ∧
      (s.chip.modeOf (fireAxis f) ≠ 4 → c.regs = s.chip.regs) ∧
      (s.chip.modeOf (fireAxis f) = 4 → (s.chip.axis (fireAxis f)).gearSteps = [] →
        c.get (AX_MSTAT_SLOT (fireAxis f).val) = cueArg f.cue / 8 % 8) ∧
      FieldsBut [AX_MSTAT_SLOT (fireAxis f).val, AX_GREM_REM (fireAxis f).val, AX_PTGT_TARGET (fireAxis f).val] s.chip c ∧
      c = { s.chip with regs := c.regs, axes := c.axes, cues := c.cues }) ∧
  (∀ (s : State) (a : Axis), s.chip.modeOf a = 5 → s.chip.get (AX_MSTAT_HOME a.val) = 1 →
    (s.chip.axis a).homeFrom + 250000 * s.chip.get (AX_HOME2_TO a.val) ≤ s.chip.now →
    Completes (.homingTimeout a) s fun c =>
      c.axis a = { s.chip.axis a with homeLate := true } ∧ OneAxis a s.chip c ∧ c = { s.chip with axes := c.axes })

/-! ### Feedback ports -/

/-- A tick in which counting lines of a group change (R134 to R137, R139): every edge enters LTOT and exactly one of the other
ledgers; the group's code follows the lines; in SERVICE a single edge that keeps its interval moves the count by one, modulo
CPR, and adds to LMF or LMB; edges that make no step, or several at once, are edge faults, each an event of the port; nothing is
booked where no counting line changes, nor at the first sample since sampling began (R127). -/
def Obligations.EdgesAreBooked : Prop :=
  (∀ (s : State) (p : Port) (lines wires : BitVec 3) (n : Nat), s.chip.portsRun = true → s.chip.inputLead p = true →
    (s.chip.port p).linesKnown = true →
    ones ((s.chip.port p).lines ^^^ s.chip.nextLines p lines) = n → 0 < n →
    Completes (.portEdge p lines wires) s fun c =>
      c.get64 (FP_LTOT p.val) = (s.chip.get64 (FP_LTOT p.val) + n) % 2 ^ 64 ∧ (s.chip.edgeLaw p → c.edgeLaw p) ∧
      (c.port p).lines = s.chip.nextLines p lines ∧ (c.port p).lastEdge = s.chip.now ∧
      ∀ q, q ≠ p → c.get64 (FP_LTOT q.val) = s.chip.get64 (FP_LTOT q.val)) ∧
  (∀ (s : State) (p : Port) (lines wires : BitVec 3) (d : Int), s.chip.portsRun = true → s.chip.inputLead p = true →
    (s.chip.port p).linesKnown = true →
    ones ((s.chip.port p).lines ^^^ s.chip.nextLines p lines) = 1 → s.chip.portState p = 1 →
    s.chip.edgeStep p ((s.chip.port p).lines &&& s.chip.countMask p) (s.chip.nextLines p lines &&& s.chip.countMask p) = some d →
    s.chip.hallEdge p ((s.chip.port p).lines &&& s.chip.countMask p) (s.chip.nextLines p lines &&& s.chip.countMask p) = false →
    ((s.chip.port p).anyEdge = true → s.chip.get (FP_CHK_MIN_EDGE p.val) ≤ s.chip.now - (s.chip.port p).lastEdge) →
    (s.chip.port p).evHigh = false →
    Completes (.portEdge p lines wires) s fun c =>
      c.get (FP_POS_COUNT p.val) =
        (((s.chip.get (FP_POS_COUNT p.val) : Int) + d) % (s.chip.get (FP_CPR_CPR p.val) : Int)).toNat % 2 ^ 24 ∧
      c.get64 (if d < 0 then FP_LMB p.val else FP_LMF p.val) =
        (s.chip.get64 (if d < 0 then FP_LMB p.val else FP_LMF p.val) + 1) % 2 ^ 64 ∧
      c.faults = s.chip.faults ∧
      RegsBut ([FP_LTOT p.val, FP_LTOTH p.val, FP_LMF p.val, FP_LMFH p.val, FP_LMB p.val, FP_LMBH p.val, FP_POS p.val, FP_REV p.val] ++
        [16, 17, 18, 19].map CUE_TB_STAT) s.chip c ∧
      c = { s.chip with regs := c.regs, fresh := c.fresh, tbs := c.tbs, ports := c.ports, axes := c.axes }) ∧
  (∀ (s : State) (p : Port) (lines wires : BitVec 3) (n : Nat), s.chip.portsRun = true → s.chip.inputLead p = true →
    (s.chip.port p).linesKnown = true → ones ((s.chip.port p).lines ^^^ s.chip.nextLines p lines) = n → 0 < n →
    s.chip.portState p = 1 → (s.chip.port p).evHigh = false →
    1 < n ∨ (s.chip.leads p 2 = false ∧
      s.chip.edgeStep p ((s.chip.port p).lines &&& s.chip.countMask p) (s.chip.nextLines p lines &&& s.chip.countMask p) = none) →
    Completes (.portEdge p lines wires) s fun c =>
      c.get64 (FP_LEF p.val) = (s.chip.get64 (FP_LEF p.val) + n) % 2 ^ 64 ∧ c.get (FP_STAT_EDGE p.val) = 1 ∧
      c.get (FP_POS_COUNT p.val) = s.chip.get (FP_POS_COUNT p.val) ∧
      c.faults = { s.chip.faults with events := s.chip.faults.events ++ [⟨srcPort p, n, 0, 0, false⟩] }) ∧
  (∀ (s : State) (p : Port) (lines wires : BitVec 3), s.chip.portsRun = true → s.chip.inputLead p = true →
    (s.chip.port p).linesKnown = true →
    (s.chip.port p).lines = s.chip.nextLines p lines →
    Completes (.portEdge p lines wires) s fun c =>
      c = { s.chip with ports := c.ports } ∧ ∀ q, (c.port q).lines = (s.chip.port q).lines) ∧
  (∀ (s : State) (p : Port) (lines wires : BitVec 3), s.chip.portsRun = true → s.chip.inputLead p = true →
    (s.chip.port p).linesKnown = false → s.chip.get (FP_IDX_MODE p.val) = 0 →
    Completes (.portEdge p lines wires) s fun c =>
      c = { s.chip with ports := c.ports } ∧ (c.port p).lines = s.chip.nextLines p lines ∧ (c.port p).linesKnown = true)

/-- An edge of an event line (R138, R141): a Z edge adds 1 to FP_EVT and follows the level; a direction edge adds 1 and stamps the
level's tick. SSI frames (R145 to R147): every frame that ends, from its last bit on, or runs out of time TO later, adds 1 to
LTOT and to exactly one of LMF, LEF and LIL; an accepted one within MAXSTEP gives the position, one beyond it does not; a failed
one is an event of the port; FAILN failures in a row make the port faulty. -/
def Obligations.PortFrames : Prop :=
  ((∀ (s : State) (p l : Port) (level : Bool), s.chip.portsRun = true → s.chip.leadOf p = l → s.chip.leads l 1 = true →
    p.val = l.val + 2 → s.chip.get (FP_IDX_MODE l.val) = 0 →
    Completes (.eventLineEdge p level) s fun c =>
      c.get (FP_EVT_EVENTS l.val) = min (s.chip.get (FP_EVT_EVENTS l.val) + 1) (2 ^ 32 - 1) ∧
      (c.port l).evHigh = level ∧ (level = false → (c.port l).idxArmed = true) ∧ OnePort l s.chip c ∧
      FieldsBut [FP_EVT_EVENTS l.val] s.chip c ∧ c = { s.chip with regs := c.regs, fresh := c.fresh, ports := c.ports }) ∧
  (∀ (s : State) (p l : Port) (level : Bool), s.chip.portsRun = true → s.chip.leadOf p = l → s.chip.pulseLead l = true →
    p.val = l.val + 1 →
    Completes (.eventLineEdge p level) s fun c =>
      c.get (FP_EVT_EVENTS l.val) = min (s.chip.get (FP_EVT_EVENTS l.val) + 1) (2 ^ 32 - 1) ∧
      c.port l = { s.chip.port l with dirHigh := level, dirTick := s.chip.now } ∧ OnePort l s.chip c ∧
      FieldsBut [FP_EVT_EVENTS l.val] s.chip c ∧ c = { s.chip with regs := c.regs, fresh := c.fresh, ports := c.ports }) ∧
  (∀ (s : State) (p l : Port), s.chip.portsRun = true → s.chip.leadOf p = l → s.chip.leads l 1 = true →
    p.val = l.val + 2 → s.chip.get (FP_IDX_MODE l.val) = 2 → (s.chip.port l).learned = false →
    (s.chip.port l).idxArmed = true → (s.chip.port l).lines.getLsbD 0 = (s.chip.get (FP_IDX_GATE l.val)).testBit 1 →
    (s.chip.port l).lines.getLsbD 1 = (s.chip.get (FP_IDX_GATE l.val)).testBit 0 →
    Completes (.eventLineEdge p true) s fun c =>
      c.get (FP_IDXPOS_IDXPOS l.val) = s.chip.get (FP_POS_COUNT l.val) ∧
      c.get (FP_POS_COUNT l.val) = s.chip.get (FP_POS_COUNT l.val) ∧ (c.port l).learned = true ∧
      FieldsBut [FP_EVT_EVENTS l.val, FP_IDXPOS_IDXPOS l.val] s.chip c)) ∧
  ((∀ (s : State) (p : Port) (f : SsiFrame), s.chip.portsRun = true → s.chip.leads p 3 = true → (s.chip.port p).ssiBusy = true →
    s.chip.ssiLastBit p ≤ s.chip.now →
    Completes (.ssiFrameEnd p f) s fun c =>
      c.get64 (FP_LTOT p.val) = (s.chip.get64 (FP_LTOT p.val) + 1) % 2 ^ 64 ∧ (s.chip.edgeLaw p → c.edgeLaw p) ∧
      (c.port p).ssiBusy = false ∧ OnePort p s.chip c ∧
      (s.chip.ssiAccepts p f = true →
        c.get (FP_SSIRAW_RAW p.val) = s.chip.ssiPos p f % 2 ^ 32 ∧
        ((s.chip.port p).ssiLast = none →
          (c.port p).ssiLast = some (s.chip.ssiPos p f) ∧ (c.port p).ssiFails = 0 ∧
          c.get (FP_POS_COUNT p.val) = s.chip.ssiPos p f % s.chip.get (FP_CPR_CPR p.val) % 2 ^ 24) ∧
        (∀ u, (s.chip.port p).ssiLast = some u →
          s.chip.get (FP_SSI3_MAXSTEP p.val) <
            (shortStep (s.chip.get (FP_CPR_CPR p.val)) u (s.chip.ssiPos p f)).natAbs →
          c.get64 (FP_LIL p.val) = (s.chip.get64 (FP_LIL p.val) + 1) % 2 ^ 64 ∧ (c.port p).ssiLast = some u ∧
          c.get (FP_POS_COUNT p.val) = s.chip.get (FP_POS_COUNT p.val))) ∧
      (s.chip.ssiAccepts p f = false →
        c.get64 (FP_LEF p.val) = (s.chip.get64 (FP_LEF p.val) + 1) % 2 ^ 64 ∧ c.get (FP_STAT_SSI p.val) = 1 ∧
        (c.port p).ssiFails = (s.chip.port p).ssiFails + 1 ∧
        (s.chip.get (FP_SSI2_FAILN p.val) ≤ (s.chip.port p).ssiFails + 1 → c.flag (FP_STAT_FAULTY p.val) = true) ∧
        c.faults.events.take (s.chip.faults.events.length + 1) =
          s.chip.faults.events ++ [⟨srcPort p, 1, 0, 0, false⟩])) ∧
  (∀ (s : State) (p : Port), s.chip.portsRun = true → s.chip.leads p 3 = true → (s.chip.port p).ssiBusy = true →
    s.chip.ssiLastBit p + 250 * s.chip.get (FP_SSI2_TO p.val) ≤ s.chip.now →
    Completes (.ssiReadyTimeout p) s fun c =>
      c.get64 (FP_LTOT p.val) = (s.chip.get64 (FP_LTOT p.val) + 1) % 2 ^ 64 ∧
      c.get64 (FP_LEF p.val) = (s.chip.get64 (FP_LEF p.val) + 1) % 2 ^ 64 ∧ (s.chip.edgeLaw p → c.edgeLaw p) ∧
      c.get (FP_STAT_SSI p.val) = 1 ∧ (c.port p).ssiBusy = false ∧
      (c.port p).ssiFails = (s.chip.port p).ssiFails + 1 ∧
      (s.chip.get (FP_SSI2_FAILN p.val) ≤ (s.chip.port p).ssiFails + 1 → c.flag (FP_STAT_FAULTY p.val) = true) ∧
      c.faults.events.take (s.chip.faults.events.length + 1) =
        s.chip.faults.events ++ [⟨srcPort p, 1, 0, 0, false⟩] ∧ OnePort p s.chip c))

/-- Digital inputs (R148 to R151): eight equal samples, SAMP apart, qualify a level, and fewer change nothing; the first qualified
level is no edge, every later one adds 1 to FP_EVT and a limit's active edge latches its trip; LIM_CLR is accepted only while a
trip is latched, and the trip re-arms once it is asked to and the level has been away for REARM; a frequency without a rise for
FREQTO reads 0. The inactive level of a presence port removes the pack (R243). -/
def Obligations.DigitalInputs : Prop :=
  (∀ (s : State) (p : Port) (raw v : Bool), s.chip.portsRun = true → s.chip.sampledInput p = true →
    (raw != s.chip.flag (FP_CFG_REV p.val)) = v → (s.chip.port p).digLevel = v → 7 ≤ (s.chip.port p).digRun →
    s.chip.sampDue p = true → (∀ r : Region, s.chip.flag (BUS_ADM_EN r.val) = true →
      s.chip.flag (BUS_ADM_PRES_EN r.val) = true → s.chip.get (BUS_ADM_PRES r.val) = p.val → s.chip.adm r ≠ 2 ∨ v = true) →
    Completes (.digitalSample p raw) s fun c =>
      c.flag (FP_STAT_LEVEL p.val) = v ∧ (c.port p).digQual = true ∧
      ((s.chip.port p).digQual = false → c.get (FP_EVT_EVENTS p.val) = s.chip.get (FP_EVT_EVENTS p.val) ∧
        c.flag (FP_STAT_LIM_TRIP p.val) = s.chip.flag (FP_STAT_LIM_TRIP p.val)) ∧
      ((s.chip.port p).digQual = true → s.chip.flag (FP_STAT_LEVEL p.val) ≠ v →
        c.get (FP_EVT_EVENTS p.val) = min (s.chip.get (FP_EVT_EVENTS p.val) + 1) (2 ^ 32 - 1) ∧
        c.flag (FP_STAT_LIM_TRIP p.val) = (s.chip.flag (FP_STAT_LIM_TRIP p.val) || (s.chip.isLimit p && v))) ∧
      FieldsBut [FP_STAT_LEVEL p.val, FP_STAT_LIM_TRIP p.val, FP_EVT_EVENTS p.val, FP_FREQ_PERIOD p.val] s.chip c ∧
      OnePort p s.chip c ∧ c = { s.chip with regs := c.regs, fresh := c.fresh, ports := c.ports }) ∧
  (∀ (s : State) (p : Port) (raw : Bool), s.chip.portsRun = true → s.chip.sampledInput p = true → s.chip.sampDue p = true →
    (s.chip.port p).digRun < 7 ∨ (s.chip.port p).digLevel ≠ (raw != s.chip.flag (FP_CFG_REV p.val)) →
    (∀ r : Region, s.chip.adm r ≠ 2) →
    Completes (.digitalSample p raw) s fun c =>
      (c.port p).digLevel = (raw != s.chip.flag (FP_CFG_REV p.val)) ∧ OnePort p s.chip c ∧
      c = { s.chip with ports := c.ports }) ∧
  (∀ (s : State) (p : Port) (raw : Bool) (r : Region), s.chip.portsRun = true → s.chip.sampledInput p = true →
    s.chip.sampDue p = true → (raw != s.chip.flag (FP_CFG_REV p.val)) = false → (s.chip.port p).digLevel = false →
    7 ≤ (s.chip.port p).digRun → s.chip.flag (BUS_ADM_EN r.val) = true → s.chip.flag (BUS_ADM_PRES_EN r.val) = true →
    s.chip.get (BUS_ADM_PRES r.val) = p.val → s.chip.adm r = 2 →
    Completes (.digitalSample p raw) s fun c =>
      c.adm r = 0 ∧ c.get (BUS_STAT_PACK_SEEN r.val) = 0 ∧ (c.bus r).gate = 0 ∧
      c.get (BUS_SWAPS_REMOVALS r.val) = min (s.chip.get (BUS_SWAPS_REMOVALS r.val) + 1) 65535 ∧
      ⟨srcRegion r 4, 1, 0, 0, false⟩ ∈ c.faults.events) ∧
  (∀ (s : State) (p : Port), s.chip.portsRun = true → s.chip.isLimit p = true → s.chip.flag (FP_STAT_LIM_TRIP p.val) = true →
    s.chip.flag (FP_STAT_CLRPEND p.val) = true → (s.chip.port p).digQual = true → s.chip.flag (FP_STAT_LEVEL p.val) = false →
    (s.chip.port p).digTick + 250000 * s.chip.get (FP_DIG_REARM p.val) ≤ s.chip.now →
    Completes (.limitRearm p) s fun c =>
      c.get (FP_STAT_LIM_TRIP p.val) = 0 ∧ c.get (FP_STAT_CLRPEND p.val) = 0 ∧
      FieldsBut [FP_STAT_LIM_TRIP p.val, FP_STAT_CLRPEND p.val] s.chip c ∧ c = { s.chip with regs := c.regs }) ∧
  (∀ (s : State) (p : Port), s.chip.portsRun = true → s.chip.leads p 4 = true → s.chip.get (FP_CFG_DSUB p.val) = 1 →
    (∀ t, (s.chip.port p).lastRise = some t → t + 250000 * s.chip.get (FP_DIG_FREQTO p.val) ≤ s.chip.now) →
    Completes (.freqTimeout p) s fun c =>
      c.get (FP_FREQ_PERIOD p.val) = 0 ∧ FieldsBut [FP_FREQ_PERIOD p.val] s.chip c ∧ c = { s.chip with regs := c.regs }) ∧
  (∀ (s : State) (path : Path) (p : Port), s.chip.serves path → s.chip.flag (FP_STAT_LIM_TRIP p.val) = true →
    Grants (.limClr path p) path s fun c =>
      c.get (FP_STAT_CLRPEND p.val) = 1 ∧ FieldsBut [FP_STAT_CLRPEND p.val] s.chip c ∧ c = { s.chip with regs := c.regs }) ∧
  (∀ (s : State) (path : Path) (p : Port), s.chip.serves path → s.chip.flag (FP_STAT_LIM_TRIP p.val) = false →
    Refuses (.limClr path p) path s .state)

/-- What makes a port faulty (R128, R131, R137, R156): a wire-check failure, once for each episode, shows in the member and in the
lead; an invalid Hall code held for TAGREE ticks sets HALLC. Every other register field is as before but for what the group's
consumers show. Port states (R130, R133, R149, Table 6-2): a group that has acquired enters SERVICE, and a limit found active
latches its trip; TEST_ON is refused with STATE for a faulty port and for one that feeds motion; TEST_OFF begins ACQUIRE anew,
with the index to learn again. -/
def Obligations.PortStates : Prop :=
  ((∀ (s : State) (p l : Port), s.chip.portsRun = true → s.chip.pairIsInput p = true → (s.chip.port p).wireBad = false →
    s.chip.leadOf p = l →
    Completes (.wireCheckFail p) s fun c =>
      c.get (FP_STAT_WIRE p.val) = 1 ∧ PortFaulted l (FP_STAT_WIRE l.val) s.chip c ∧ (c.port p).wireBad = true ∧
      OnePort p s.chip c ∧
      FieldsBut ([FP_STAT_WIRE p.val, FP_STAT_WIRE l.val, FP_STAT_FAULTY l.val, FP_STAT_PSTATE l.val] ++ consumerFields) s.chip c ∧
      c = { s.chip with regs := c.regs, fresh := c.fresh, ports := c.ports, tbs := c.tbs, axes := c.axes
                        faults := c.faults }) ∧
  (∀ (s : State) (p : Port), (s.chip.port p).wireBad = true → exec (.wireCheckFail p) s = .next s) ∧
  (∀ (s : State) (p : Port), s.chip.portsRun = true → s.chip.leads p 2 = true → (s.chip.port p).linesKnown = true →
    codePlace 2 (s.chip.port p).lines = none →
    s.chip.get (FP_CHK_TAGREE p.val) ≤ s.chip.now + 1 - (s.chip.port p).lastEdge → (s.chip.port p).hallHeld = false →
    Completes (.hallCodeTimeout p) s fun c =>
      PortFaulted p (FP_STAT_HALLC p.val) s.chip c ∧ (c.port p).hallHeld = true ∧ OnePort p s.chip c ∧
      FieldsBut ([FP_STAT_HALLC p.val, FP_STAT_FAULTY p.val, FP_STAT_PSTATE p.val] ++ consumerFields) s.chip c ∧
      c = { s.chip with regs := c.regs, fresh := c.fresh, ports := c.ports, tbs := c.tbs, axes := c.axes
                        faults := c.faults })) ∧
  ((∀ (s : State) (p : Port), s.chip.portsRun = true → s.chip.inputLead p = true → s.chip.portState p = 0 →
    s.chip.acquired p = true →
    Completes (.acquireComplete p) s fun c =>
      c.portState p = 1 ∧
      c.flag (FP_STAT_LIM_TRIP p.val) = (s.chip.flag (FP_STAT_LIM_TRIP p.val) ||
        (s.chip.isLimit p && (s.chip.port p).digQual && s.chip.flag (FP_STAT_LEVEL p.val))) ∧
      FieldsBut ([FP_STAT_PSTATE p.val, FP_STAT_LIM_TRIP p.val] ++ consumerFields) s.chip c ∧
      c = { s.chip with regs := c.regs, fresh := c.fresh, tbs := c.tbs, axes := c.axes, faults := c.faults }) ∧
  (∀ (s : State) (path : Path) (p : Port), s.chip.serves path → s.chip.inputLead p = true →
    s.chip.flag (FP_STAT_FAULTY p.val) = false → s.chip.feedsMotion p = false →
    Grants (.testOn path p) path s fun c =>
      c.portState p = 2 ∧ FieldsBut ([FP_STAT_PSTATE p.val] ++ consumerFields) s.chip c ∧
      c = { s.chip with regs := c.regs, fresh := c.fresh, tbs := c.tbs, axes := c.axes, faults := c.faults }) ∧
  (∀ (s : State) (path : Path) (p : Port), s.chip.serves path →
    (!s.chip.inputLead p || s.chip.flag (FP_STAT_FAULTY p.val) || s.chip.feedsMotion p) = true →
    Refuses (.testOn path p) path s .state) ∧
  (∀ (s : State) (path : Path) (p : Port), s.chip.serves path → s.chip.inputLead p = true → s.chip.portState p = 2 →
    Grants (.testOff path p) path s fun c =>
      c.portState p = 0 ∧ (c.port p).learned = false ∧ OnePort p s.chip c ∧
      FieldsBut ([FP_STAT_PSTATE p.val] ++ consumerFields) s.chip c ∧
      c = { s.chip with regs := c.regs, fresh := c.fresh, ports := c.ports, tbs := c.tbs, axes := c.axes
                        faults := c.faults }) ∧
  (∀ (s : State) (path : Path) (p : Port), s.chip.serves path →
    s.chip.inputLead p = false ∨ s.chip.portState p ≠ 2 →
    Refuses (.testOff path p) path s .state))

/-- Encoder emulation (R153 to R155): an edge moves one count from the owed to the emitted, so that their sum stays, and the lag
ends with the last one; a count owed for longer than 2 µs sets EMU_LAG and OWE; an EMU_INDEX cue begins a Z pulse of its width
that its end takes away, and is a NOOP where its target is no emulation (R39). -/
def Obligations.Emulation : Prop :=
  (∀ (s : State) (p : Port) (d : Int), s.chip.emuLive p = true → s.chip.owed p ≠ 0 →
    d = (if s.chip.owed p < 0 then -1 else 1) → s.chip.emuSpaced p = true →
    Completes (.emuEdge p) s fun c =>
      c.get64 (FP_EMIT p.val) = wrapTo 64 ((s.chip.get64 (FP_EMIT p.val) : Int) + d) ∧
      c.get64 (FP_OWED p.val) = wrapTo 64 ((s.chip.get64 (FP_OWED p.val) : Int) - d) ∧
      (s.chip.owed p = d → c.get (FP_STAT_EMU_LAG p.val) = 0) ∧ OnePort p s.chip c ∧
      RegsBut [FP_EMIT p.val, FP_EMITH p.val, FP_OWED p.val, FP_OWEDH p.val, FP_STAT p.val] s.chip c ∧
      c = { s.chip with regs := c.regs, ports := c.ports }) ∧
  (∀ (s : State) (p : Port), s.chip.owed p = 0 ∨ s.chip.emuLive p = false ∨ s.chip.emuSpaced p = false →
    exec (.emuEdge p) s = .next s) ∧
  (∀ (s : State) (p : Port), s.chip.portsRun = true → s.chip.leads p 5 = true →
    (∃ x ∈ (s.chip.port p).owes, x.1 + 500 < s.chip.now) →
    Completes (.emuLag p) s fun c =>
      c.get (FP_STAT_EMU_LAG p.val) = 1 ∧ c.get (FP_STAT_OWE p.val) = 1 ∧
      FieldsBut [FP_STAT_EMU_LAG p.val, FP_STAT_OWE p.val] s.chip c ∧ c = { s.chip with regs := c.regs, fresh := c.fresh }) ∧
  (∀ (s : State) (k : EntryIx) (f : Fire), s.chip.firesOf k 9 = [f] → s.chip.leads (firePort f) 5 = true →
    Completes (.emuIndex k) s fun c =>
      c.port (firePort f) = { s.chip.port (firePort f) with
        zPulse := some (s.chip.now + 250000 / s.chip.get (FP_EMUF_FMAX (firePort f).val)) } ∧ c.emuZ (firePort f) = true ∧
      OnePort (firePort f) s.chip c ∧ FiredOnly s f c ∧ c = { s.chip with ports := c.ports, cues := c.cues }) ∧
  (∀ (s : State) (k : EntryIx) (f : Fire), s.chip.firesOf k 9 = [f] → s.chip.leads (firePort f) 5 = false →
    Completes (.emuIndex k) s fun c =>
      c.get (CUE_TB_STAT_NOOP f.tb) = 1 ∧ FiredOnly s f c ∧
      c = { s.chip with regs := c.regs, fresh := c.fresh, cues := c.cues } ∧ FieldsBut [CUE_TB_STAT_NOOP f.tb] s.chip c) ∧
  (∀ (s : State) (p : Port) (t : Nat), (s.chip.port p).zPulse = some t → t ≤ s.chip.now + 1 →
    Completes (.zPulseEnd p) s fun c =>
      c.port p = { s.chip.port p with zPulse := none } ∧ OnePort p s.chip c ∧ c = { s.chip with ports := c.ports })

/-! ### DC bus -/

/-- The over-voltage cascade (R231, R235, R237, R239): the fast voltage is shown; at V_CHOP an enabled chopper that is not failed
turns on; regeneration is cut at the live threshold and allowed again below its hysteresis; under-voltage sets UV with one
event. Below V_ASC nothing else changes. At V_ASC the active short is asserted: SHORT is set, OVERVOLT has one event, and every
enabled axis of the region enters OFF with REACTED set (R237). -/
def Obligations.BusCascade : Prop :=
  (∀ (s : State) (r : Region) (v : BitVec 16), s.chip.busRuns r = true →
    Completes (.busThresholdCrossing r v) s fun c =>
      c.get (BUS_FAST_V r.val) = v.toNat ∧
      (s.chip.flag (BUS_STAT_CHOP_ON r.val) = false → s.chip.flag (BUS_CHOP_EN r.val) = true →
        s.chip.flag (BUS_STAT_CHOPF r.val) = false → s.chip.faults.fire = false →
        s.chip.volts (BUS_VTH_V_CHOP r.val) ≤ v.toNat →
        c.flag (BUS_STAT_CHOP_ON r.val) = true ∧ (c.bus r).minDone = false ∧
        ((∀ t, (s.chip.bus r).chopOff = some t → t + 500 ≤ s.chip.now) → (c.bus r).chkTick = s.chip.now ∧
          (c.bus r).chk = some (s.chip.gets (BUS_FAST_I r.val), v.toNat))) ∧
      (s.chip.flag (BUS_CHOP_EN r.val) = false → s.chip.flag (BUS_STAT_CHOP_ON r.val) = false →
        c.flag (BUS_STAT_CHOP_ON r.val) = false) ∧
      (s.chip.volts (BUS_STAT_VCUT_LIVE r.val) ≤ v.toNat → c.flag (BUS_STAT_CUT r.val) = true) ∧
      (v.toNat + s.chip.hyst r < s.chip.volts (BUS_STAT_VCUT_LIVE r.val) → c.flag (BUS_STAT_CUT r.val) = false) ∧
      (v.toNat < s.chip.volts (BUS_VTH_V_UV r.val) → c.flag (BUS_STAT_UV r.val) = true) ∧
      (s.chip.volts (BUS_VTH_V_UV r.val) + s.chip.hyst r < v.toNat → c.flag (BUS_STAT_UV r.val) = false) ∧
      (¬ s.chip.crossesAsc r v.toNat →
        c.faults = { s.chip.faults with events := s.chip.faults.events ++
          (if s.chip.flag (BUS_STAT_UV r.val) = false ∧ v.toNat < s.chip.volts (BUS_VTH_V_UV r.val)
           then [⟨srcRegion r 2, 1, 0, 0, false⟩] else []) } ∧
        OneBus r s.chip c ∧
        FieldsBut [BUS_FAST_V r.val, BUS_STAT_CHOP_ON r.val, BUS_STAT_CUT r.val, BUS_STAT_UV r.val] s.chip c ∧
        c = { s.chip with regs := c.regs, buses := c.buses, faults := c.faults })) ∧
  (∀ (s : State) (r : Region) (v : BitVec 16), s.chip.busRuns r = true → s.chip.crossesAsc r v.toNat →
    Completes (.busThresholdCrossing r v) s fun c =>
      c.flag (BUS_STAT_SHORT r.val) = true ∧
      (∀ a, regionOf a = r → s.chip.axisOn a = true →
        c.modeOf a = 0 ∧ c.get (AX_MSTAT_REACTED a.val) = 1 ∧ c.short a = true) ∧
      c.faults.events.take (s.chip.faults.events.length + 1) =
        s.chip.faults.events ++ [⟨srcRegion r 0, 1, 0, 0, false⟩] ∧
      (∀ a, regionOf a ≠ r → c.modeOf a = s.chip.modeOf a))

/-- The chopper (R231 to R233): a fast-current report is shown while the slice runs and closes the check it passes; a check still
open 500 ticks after its gate command turns the chopper off, marks it failed, sets the cut threshold to V_CHOP and counts an
event; at the end of its minimum on time the chopper turns off once the voltage is below its hysteresis. -/
def Obligations.Chopper : Prop :=
  (∀ (s : State) (r : Region) (i : BitVec 16), s.chip.isArmed = true → s.chip.sliceOn (currSlice r) = true →
    Completes (.fastCurrentReport r i) s fun c =>
      c.get (BUS_FAST_I r.val) = i.toNat ∧
      (∀ i0 v0, (s.chip.bus r).chk = some (i0, v0) →
        (c.bus r).chk = if s.chip.now ≤ (s.chip.bus r).chkTick + 500 ∧ s.chip.chopPasses r i0 v0 i.toInt = true then none
          else some (i0, v0)) ∧
      OneBus r s.chip c ∧ FieldsBut [BUS_FAST_I r.val] s.chip c ∧ c = { s.chip with regs := c.regs, buses := c.buses }) ∧
  (∀ (s : State) (r : Region), (s.chip.bus r).chk.isSome = true →
    (s.chip.bus r).chkTick + 500 ≤ s.chip.now →
    Completes (.chopperCheckExpiry r) s fun c =>
      c.flag (BUS_STAT_CHOP_ON r.val) = false ∧ c.flag (BUS_STAT_CHOPF r.val) = true ∧
      c.get (BUS_STAT_VCUT_LIVE r.val) = s.chip.get (BUS_VTH_V_CHOP r.val) ∧
      (s.chip.volts (BUS_VTH_V_CHOP r.val) ≤ s.chip.get (BUS_FAST_V r.val) → c.flag (BUS_STAT_CUT r.val) = true) ∧
      (c.bus r).chk = none ∧ (s.chip.flag (BUS_STAT_CHOP_ON r.val) = true → (c.bus r).chopOff = some s.chip.now) ∧
      Raised (srcRegion r 1) s.chip c ∧ OneBus r s.chip c ∧
      FieldsBut [BUS_STAT_CHOP_ON r.val, BUS_STAT_CHOPF r.val, BUS_STAT_VCUT_LIVE r.val, BUS_STAT_CUT r.val] s.chip c ∧
      c = { s.chip with regs := c.regs, buses := c.buses, faults := c.faults }) ∧
  (∀ (s : State) (r : Region), (s.chip.bus r).chk = none ∨ s.chip.now < (s.chip.bus r).chkTick + 500 →
    exec (.chopperCheckExpiry r) s = .next s) ∧
  (∀ (s : State) (r : Region), s.chip.flag (BUS_STAT_CHOP_ON r.val) = true →
    (s.chip.bus r).chopTick + 250 * s.chip.get (BUS_CFG_CHOP_MIN r.val) ≤ s.chip.now →
    Completes (.chopMinExpiry r) s fun c =>
      (c.flag (BUS_STAT_CHOP_ON r.val) = true ↔
        s.chip.volts (BUS_VTH_V_CHOP r.val) ≤ s.chip.get (BUS_FAST_V r.val) + s.chip.hyst r) ∧
      (c.bus r).minDone = true ∧ OneBus r s.chip c ∧ FieldsBut [BUS_STAT_CHOP_ON r.val] s.chip c ∧
      c = { s.chip with regs := c.regs, buses := c.buses })

/-- Precharge (R240 to R242): while OPEN the pack's channel is converted as an urgent request; in PRECHARGE the current reference
rises by its ramp to its limit, and the region is ADMITTED with the gate fully on once the pack's voltage is close enough; a
precharge that runs out of time fails, with one event; a gate that has been commanded fully on for 10 µs and stays low is an
event. BUS_CMD.ADMIT and BUS_CMD.OPEN are accepted only as R244 says, and refused with STATE otherwise: ADMIT begins precharge,
OPEN opens the FETs and keeps PACK_SEEN; with BUS_ADM.EN = 0 both are refused (R245). A read of a ride ledger's low word returns
it without what this tick has booked, which stays (R7); it clears the rest of the 64-bit value and holds the high word for the
path's next read of it (R5, R246). -/
def Obligations.Admission : Prop :=
  ((∀ (s : State) (r : Region), s.chip.isArmed = true → s.chip.flag (BUS_ADM_EN r.val) = true → s.chip.adm r = 0 →
    s.chip.hkRuns = true → s.chip.channelOk (s.chip.get (BUS_ADM_PACKCH r.val)) = true → (s.chip.hk r).running = none →
    Completes (.packDetection r) s fun c =>
      (∃ q, (c.hk r).running = some q ∧ q.ch = s.chip.get (BUS_ADM_PACKCH r.val) ∧ q.cls = 3) ∧
      c.flag (HK_STAT_BUSY r.val) = true ∧ c.get (HK_STAT_CLASS r.val) = 3 ∧
      FieldsBut [HK_STAT_BUSY r.val, HK_STAT_CLASS r.val, HK_STAT_CH r.val] s.chip c ∧
      c = { s.chip with regs := c.regs, hks := c.hks, hkSettle := c.hkSettle }) ∧
  (∀ (s : State) (r : Region), s.chip.adm r = 1 → (s.chip.bus r).preClock + 4 ≤ s.chip.now →
    Completes (.precharge r) s fun c =>
      (c.bus r).iRef = min (100000 * s.chip.get (BUS_ADM2_IPRE r.val))
        ((s.chip.bus r).iRef + 16 * s.chip.get (BUS_ADM2_IRAMP r.val)) ∧ (c.bus r).preClock = s.chip.now ∧
      ((((s.chip.bus r).vPack : Int) - (s.chip.get (BUS_FAST_V r.val) : Int) * 10000000 * 131072).natAbs ≤
          s.chip.get (BUS_ADM2_DONE_V r.val) * 100000000 * 131072 →
        c.adm r = 2 ∧ c.get (BUS_SWAPS_ADMITS r.val) = min (s.chip.get (BUS_SWAPS_ADMITS r.val) + 1) 65535 ∧
        (c.bus r).gate = if s.chip.faults.fire then 0 else 64) ∧
      (s.chip.get (BUS_ADM2_DONE_V r.val) * 100000000 * 131072 <
          (((s.chip.bus r).vPack : Int) - (s.chip.get (BUS_FAST_V r.val) : Int) * 10000000 * 131072).natAbs →
        c.adm r = 1 ∧ (c.bus r).gate < 64) ∧
      OneBus r s.chip c ∧ FieldsBut [BUS_STAT_ADM r.val, BUS_SWAPS_ADMITS r.val] s.chip c ∧
      c = { s.chip with regs := c.regs, fresh := c.fresh, buses := c.buses, free := c.free }) ∧
  (∀ (s : State) (r : Region), s.chip.adm r = 1 →
    (s.chip.bus r).preTick + 250000 * s.chip.get (BUS_ADM3_PRE_TO r.val) ≤ s.chip.now →
    Completes (.prechargeTimeout r) s fun c =>
      c.adm r = 3 ∧ (c.bus r).gate = 0 ∧ Raised (srcRegion r 3) s.chip c ∧ OneBus r s.chip c ∧
      FieldsBut [BUS_STAT_ADM r.val] s.chip c ∧ c = { s.chip with regs := c.regs, buses := c.buses, faults := c.faults }) ∧
  (∀ (s : State) (r : Region), s.chip.adm r = 2 → (s.chip.bus r).gate = 64 →
    (s.chip.bus r).gateTick + 2500 ≤ s.chip.now →
    Completes (.admGate r) s fun c => Raised (srcRegion r 6) s.chip c ∧ c = { s.chip with faults := c.faults }) ∧
  (∀ (s : State) (r : Region), s.chip.adm r ≠ 2 ∨ s.chip.now < (s.chip.bus r).gateTick + 2500 → exec (.admGate r) s = .next s)) ∧
  (∀ (s : State) (p : Path) (r : Region), s.chip.serves p →
    (s.chip.isArmed = true → s.chip.flag (BUS_ADM_EN r.val) = true → (s.chip.adm r = 0 ∨ s.chip.adm r = 3) →
      s.chip.flag (BUS_STAT_PACK_SEEN r.val) = true →
      Grants (.busAdmit p r) p s fun c =>
        c.adm r = 1 ∧ (c.bus r).iRef = 0 ∧ (c.bus r).preTick = s.chip.now ∧ OneBus r s.chip c ∧ FieldsBut [BUS_STAT_ADM r.val] s.chip c ∧
        c = { s.chip with regs := c.regs, buses := c.buses }) ∧
    (s.chip.isArmed = false ∨ s.chip.flag (BUS_ADM_EN r.val) = false ∨ (s.chip.adm r ≠ 0 ∧ s.chip.adm r ≠ 3) ∨
      s.chip.flag (BUS_STAT_PACK_SEEN r.val) = false → Refuses (.busAdmit p r) p s .state) ∧
    (s.chip.isArmed = true → s.chip.flag (BUS_ADM_EN r.val) = true → (∀ a, regionOf a = r → s.chip.modeOf a = 0) →
      Grants (.admOpen p r) p s fun c =>
        c.adm r = 0 ∧ (c.bus r).gate = 0 ∧ OneBus r s.chip c ∧ FieldsBut [BUS_STAT_ADM r.val] s.chip c ∧
        c = { s.chip with regs := c.regs, buses := c.buses }) ∧
    (s.chip.isArmed = false ∨ s.chip.flag (BUS_ADM_EN r.val) = false ∨ (∃ a, regionOf a = r ∧ s.chip.modeOf a ≠ 0) →
      Refuses (.admOpen p r) p s .state)) ∧
  (∀ (s : State) (p : Path) (r : Region) (ret : Bool) (a v : Nat), s.chip.serves p →
    a = (if ret then BUS_RET r.val else BUS_DRAWN r.val) → v = wrapTo 64 ((s.chip.get64 a : Int) - s.chip.fresh64 a) →
    Yields (.rideLedgerRead p r ret) p s (BitVec.ofNat 32 v) fun c =>
      c.get64 a = s.chip.fresh64 a % 2 ^ 64 ∧ c.held p (a + 4) = some (BitVec.ofNat 32 (v / 2 ^ 32)) ∧
      RegsBut [a, a + 4] s.chip c ∧ c = { s.chip with regs := c.regs, hold := c.hold })

/-! ### Housekeeping -/

/-- The host's requests of a conversion (R248, R252, R253): the selected channel is converted at once, aborting a lower class; a
request is refused with STATE where no conversion runs, with RANGE for a channel that may not be named, and with BUSY where it
meets its like. A pin edge that PINEDGE selects, and an HK_START cue, request the selected channel in the same way (R39, R252,
R253); one that meets its like is ignored as a flagged overrun, and a cue whose channel cannot be converted is a NOOP. A
measurement round begins, a multiple of ROUND after the entry into HOUSE, on both converters, or is late where the last one is
not done (R256); in ADAPTIVE mode every HOT sensor whose channel may be converted is converted, or waits, as an urgent request
on its converter (R257). -/
def Obligations.ConversionRequests : Prop :=
  (∀ (s : State) (p : Path) (n : Region) (cls : Nat) (i : Instr),
    (i, cls) ∈ [(Instr.hkCmdStart p n, 2), (.hkCmdUrgent p n, 3)] → s.chip.serves p →
    (s.chip.hkRuns = true → s.chip.channelOk (s.chip.hkSel n) = true → s.chip.hkMeets n cls = false →
      Grants i p s fun c => ConversionBegins n (s.chip.hkSel n) cls s.chip c ∧
        c = { s.chip with regs := c.regs, fresh := c.fresh, hks := c.hks, hkSettle := c.hkSettle }) ∧
    (s.chip.hkRuns = false → Refuses i p s .state) ∧
    (s.chip.hkRuns = true → s.chip.channelOk (s.chip.hkSel n) = false → Refuses i p s .range) ∧
    (s.chip.hkRuns = true → s.chip.channelOk (s.chip.hkSel n) = true → s.chip.hkMeets n cls = true → Refuses i p s .busy)) ∧
  ((∀ (s : State) (n : Region) (rising : Bool), s.chip.hkRuns = true → s.chip.channelOk (s.chip.hkSel n) = true →
    (s.chip.get (HK_CFG_PINEDGE n.val)).testBit (if rising then 0 else 1) = true →
    Completes (.hktrigEdge n rising) s fun c =>
      (s.chip.hkMeets n 2 = false → ConversionBegins n (s.chip.hkSel n) 2 s.chip c) ∧
      (s.chip.hkMeets n 2 = true →
        c.get (HK_CNT_OVERRUN n.val) = min (s.chip.get (HK_CNT_OVERRUN n.val) + 1) 65535 ∧
        c.hk n = { s.chip.hk n with overrun := true } ∧ FieldsBut [HK_CNT_OVERRUN n.val] s.chip c) ∧
      OneConv n s.chip c ∧ c = { s.chip with regs := c.regs, fresh := c.fresh, hks := c.hks, hkSettle := c.hkSettle }) ∧
  (∀ (s : State) (n : Region) (rising : Bool),
    (s.chip.get (HK_CFG_PINEDGE n.val)).testBit (if rising then 0 else 1) = false →
    exec (.hktrigEdge n rising) s = .next s) ∧
  (∀ (s : State) (k : EntryIx) (f : Fire) (n : Region) (cls : Nat), s.chip.firesOf k 5 = [f] → fireConv f = n →
    cls = (if cueArg f.cue / 2 % 2 = 1 then 3 else 2) → s.chip.hkRuns = true →
    s.chip.channelOk (s.chip.hkSel n) = true →
    Completes (.hkStart k) s fun c =>
      FiredOnly s f c ∧
      (s.chip.hkMeets n cls = false → ConversionBegins n (s.chip.hkSel n) cls s.chip c) ∧
      (s.chip.hkMeets n cls = true →
        c.get (HK_CNT_OVERRUN n.val) = min (s.chip.get (HK_CNT_OVERRUN n.val) + 1) 65535 ∧
        c.hk n = { s.chip.hk n with overrun := true } ∧ FieldsBut [HK_CNT_OVERRUN n.val] s.chip c) ∧
      OneConv n s.chip c ∧
      c = { s.chip with regs := c.regs, fresh := c.fresh, hks := c.hks, hkSettle := c.hkSettle, cues := c.cues }) ∧
  (∀ (s : State) (k : EntryIx) (f : Fire), s.chip.firesOf k 5 = [f] → s.chip.hkStartAble f = false →
    Completes (.hkStart k) s fun c =>
      c.get (CUE_TB_STAT_NOOP f.tb) = 1 ∧ FiredOnly s f c ∧
      c = { s.chip with regs := c.regs, fresh := c.fresh, cues := c.cues } ∧ FieldsBut [CUE_TB_STAT_NOOP f.tb] s.chip c)) ∧
  ((∀ (s : State), s.chip.hkRuns = true → (s.chip.now - s.chip.houseTick) % (250000 * s.chip.get HK_MODE_ROUND) = 0 →
    s.chip.roundTick ≠ some s.chip.now →
    Completes .hkRoundStart s fun c =>
      (∀ n, (s.chip.hk n).inRound = true → (c.hk n).lateRound = true ∧ c.flag (HK_STAT_ROUND_LATE n.val) = true) ∧
      (∀ n, (s.chip.hk n).inRound = false → (c.hk n).inRound = !(s.chip.roundList n).isEmpty) ∧
      (∀ n ch l, (s.chip.hk n).inRound = false → (s.chip.hk n).running = none → (s.chip.hk n).urgent = [] →
        (s.chip.hk n).requeued = [] → s.chip.roundList n = ch :: l →
        (∃ q, (c.hk n).running = some q ∧ q.ch = ch ∧ q.cls = 1) ∧ (c.hk n).round = l) ∧
      RegsBut [HK_STAT 0, HK_STAT 1] s.chip c ∧
      c = { s.chip with regs := c.regs, fresh := c.fresh, hks := c.hks, hkSettle := c.hkSettle
                        roundTick := some s.chip.now }) ∧
  (∀ (s : State), s.chip.hkRuns = false ∨ (s.chip.now - s.chip.houseTick) % (250000 * s.chip.get HK_MODE_ROUND) ≠ 0 →
    exec .hkRoundStart s = .next s) ∧
  (∀ (s : State), s.chip.hkRuns = true → s.chip.flag HK_MODE_MODE = true →
    Completes .adaptiveRequest s fun c =>
      (∀ x : Fin 17, s.chip.sensorOn x = true → s.chip.flag (TMP_STAT_HOT x.val) = true →
        s.chip.channelOk (channelOf x) = true →
        channelOf x ∈ (c.hk (s.chip.convOf (channelOf x))).urgent ∨
        ∃ q, (c.hk (s.chip.convOf (channelOf x))).running = some q ∧ q.ch = channelOf x ∧ q.cls = 3) ∧
      RegsBut [HK_STAT 0, HK_STAT 1, HK_CNT 0, HK_CNT 1] s.chip c ∧
      c = { s.chip with regs := c.regs, fresh := c.fresh, hks := c.hks, hkSettle := c.hkSettle }) ∧
  (∀ (s : State), s.chip.flag HK_MODE_MODE = false → exec .adaptiveRequest s = .next s))

/-- The end of a conversion, 5 µs and its window after it began (R249 to R251): HK_RES and HK_VAL show the corrected code, held to
its span and wrapped to its field, with OVR for a mean input outside the span and SETL where a setting has changed. The settings
of a channel may be written for HKIN channels only, in their ranges, and a change marks the channel's next result SETL (R255). -/
def Obligations.ConversionResults : Prop :=
  ((∀ (s : State) (n : Region) (q : HkReq) (raw sense : Int) (bad : Bool), (s.chip.hk n).running = some q → q.ch < 46 →
    q.since + 1250 + q.window ≤ s.chip.now →
    Completes (.hkConversionEnd n raw sense bad) s fun c =>
      c.get (HK_RES_NEW n.val) = 1 ∧ c.get (HK_RES_CODE n.val) = wrapTo 19 (s.chip.hkCorrect q.ch raw) ∧
      c.flag (HK_RES_OVR n.val) = rawOver raw ∧ c.flag (HK_RES_SETL n.val) = q.setl ∧
      c.flag (HK_RES_OVRN n.val) = (s.chip.hk n).overrun ∧ c.get (HK_RES_CH n.val) = q.ch ∧
      c.flag (HK_RES_URG n.val) = (q.cls == 3) ∧
      c.get (HK_VAL_VALID q.ch) = 1 ∧ c.get (HK_VAL_CODE q.ch) = wrapTo 19 (s.chip.hkCorrect q.ch raw) ∧
      (∀ ch, ch < 46 → ch ≠ q.ch → c.reg (HK_VAL ch) = s.chip.reg (HK_VAL ch)) ∧
      (q.ch < 16 → (s.chip.hk n).inRound = false →
        RegsBut [HK_RES n.val, HK_VAL q.ch, HK_STAT n.val, BUS_STAT 0, BUS_STAT 1] s.chip c ∧
        c = { s.chip with regs := c.regs, fresh := c.fresh, hks := c.hks, hkSettle := c.hkSettle, hkUsed := c.hkUsed
                          hkAge := c.hkAge, buses := c.buses })) ∧
  (∀ (s : State) (n : Region) (raw sense : Int) (bad : Bool), s.chip.hkDone n = none →
    exec (.hkConversionEnd n raw sense bad) s = .next s) ∧
  (∀ (s : State) (n : Region), (∀ q, (s.chip.hk n).running = some q → s.chip.now < q.since + 1250 + q.window) →
    s.chip.hkDone n = none)) ∧
  (∀ (s : State) (p : Path) (ch : Fin 46) (v : Word), s.chip.serves p →
    (ch.val ≤ 15 → hkChBad ch.val v = false →
      Grants (.hkChWrite p ch v) p s fun c =>
        c.reg (HK_CH ch.val) = (s.chip.reg (HK_CH ch.val) &&& ~~~hkChMask) ||| (v &&& hkChMask) ∧
        (c.reg (HK_CH ch.val) ≠ s.chip.reg (HK_CH ch.val) → ch.val ∈ c.hkSettle) ∧
        RegsBut [HK_CH ch.val] s.chip c ∧ c = { s.chip with regs := c.regs, hkSettle := c.hkSettle }) ∧
    (hkChBad ch.val v = true → Refuses (.hkChWrite p ch v) p s .range) ∧
    (15 < ch.val → hkChBad ch.val v = false → Refuses (.hkChWrite p ch v) p s .locked))

/-- Window monitors (R266 to R268, R270): a sample is compared with the thresholds and their hysteresis, and FILT equal ones qualify
the condition; one qualified inactive arms the monitor; one that becomes active while armed is an event, which disarms it,
counts, and interrupts, wakes, captures and reports as configured; nWAKE stays until it is acknowledged, in DARK too. -/
def Obligations.WindowMonitors : Prop :=
  (∀ (s : State) (m : Fin 8) (hi lo : Word), s.chip.cfgOk = true → s.chip.flag (WM_CFG_EN m.val) = true →
    s.chip.wmSees m hi lo = true → s.chip.get (WM_CFG_FILT m.val) ≤ s.chip.wmRun m true →
    s.chip.flag (WM_STAT_ARMED m.val) = true → s.chip.flag (WM_STAT_LEVEL m.val) = false →
    Completes (.wmSample m hi lo) s fun c =>
      c.flag (WM_STAT_ARMED m.val) = false ∧ c.flag (WM_STAT_LEVEL m.val) = true ∧
      c.get (WM_STAT_EVENTS m.val) = min (s.chip.get (WM_STAT_EVENTS m.val) + 1) 65535 ∧
      (s.chip.flag (WM_CFG_IRQ m.val) = true → c.flag (WM_STAT_IRQ m.val) = true ∧ c.nInt = true) ∧
      (s.chip.flag (WM_CFG_WAKE m.val) = true → c.flag (WM_STAT_WOKE m.val) = true ∧ c.nWake = true) ∧
      (s.chip.flag (WM_CFG_CAP m.val) = true → s.chip.inDark = false →
        c.get64 (WM_CAP m.val) = s.chip.wall % 2 ^ 64 ∧ c.get (WM_CAPS_FULL m.val) = 1) ∧
      c.faults = { s.chip.faults with events := s.chip.faults.events ++
        (if s.chip.flag (WM_CFG_FLT m.val) then [⟨0xEE, 1, 0, 0, false⟩] else []) } ∧
      RegsBut [WM_STAT m.val, WM_CAP m.val, WM_CAPH m.val, WM_CAPV m.val, WM_CAPS m.val, WAKE_CMD] s.chip c ∧
      c = { s.chip with regs := c.regs, fresh := c.fresh, wms := c.wms, faults := c.faults }) ∧
  (∀ (s : State) (m : Fin 8) (hi lo : Word), s.chip.cfgOk = true → s.chip.flag (WM_CFG_EN m.val) = true →
    s.chip.wmSees m hi lo = true → s.chip.get (WM_CFG_FILT m.val) ≤ s.chip.wmRun m true →
    (s.chip.flag (WM_STAT_ARMED m.val) = false ∨ s.chip.flag (WM_STAT_LEVEL m.val) = true) →
    Completes (.wmSample m hi lo) s fun c =>
      c.flag (WM_STAT_LEVEL m.val) = true ∧ FieldsBut [WM_STAT_LEVEL m.val] s.chip c ∧
      c = { s.chip with regs := c.regs, wms := c.wms }) ∧
  (∀ (s : State) (m : Fin 8) (hi lo : Word), s.chip.cfgOk = true → s.chip.flag (WM_CFG_EN m.val) = true →
    s.chip.wmSees m hi lo = false → s.chip.get (WM_CFG_FILT m.val) ≤ s.chip.wmRun m false →
    Completes (.wmSample m hi lo) s fun c =>
      c.flag (WM_STAT_ARMED m.val) = true ∧ c.flag (WM_STAT_LEVEL m.val) = false ∧
      FieldsBut [WM_STAT_ARMED m.val, WM_STAT_LEVEL m.val] s.chip c ∧
      c = { s.chip with regs := c.regs, wms := c.wms }) ∧
  (∀ (s : State) (m : Fin 8) (hi lo : Word), s.chip.cfgOk = true → s.chip.flag (WM_CFG_EN m.val) = true →
    s.chip.wmRun m (s.chip.wmSees m hi lo) < s.chip.get (WM_CFG_FILT m.val) →
    Completes (.wmSample m hi lo) s fun c =>
      (c.wm m).run = s.chip.wmRun m (s.chip.wmSees m hi lo) ∧ (∀ q, q ≠ m → c.wm q = s.chip.wm q) ∧
      c = { s.chip with wms := c.wms }) ∧
  (∀ (s : State) (m : Fin 8) (hi lo : Word), s.chip.cfgOk = false ∨ s.chip.flag (WM_CFG_EN m.val) = false →
    exec (.wmSample m hi lo) s = .next s) ∧
  (∀ (s : State) (p : Path), s.chip.carries p = true → s.chip.booting = false →
    Grants (.wakeAck p) p s fun c =>
      c.nWake = false ∧ FieldsBut [WAKE_CMD_NWAKE] s.chip c ∧ c = { s.chip with regs := c.regs })

/-! ### Fault collector -/

/-- A tick of the collector with one event (R273, R275, R277 to R289, R360), once in each tick: it is counted; while its source is
latched, or stays below its severity threshold, nothing else but the count of its window follows, which opens with the first
event; when the source becomes severe it latches, its reaction acts on the legs and axes, the first capture and BEACON follow,
and the range is told. -/
def Obligations.CollectorTick : Prop :=
  (∀ (s : State) (e : Event), s.chip.clockRuns = true → s.chip.faults.sampledTick ≠ some s.chip.now →
    s.chip.faults.events = [e] → e.src < 0xFC →
    Completes .faultCollectorTick s fun c =>
      c.get (FLT_CNT_EVENTS e.src) = min (s.chip.get (FLT_CNT_EVENTS e.src) + e.count) (2 ^ 32 - 1) ∧
      (e.inj = true → c.flag (FLT_SRC_INJ e.src) = true) ∧ c.faults.events = [] ∧
      (s.chip.severe e.src = true →
        RegsBut [FLT_CNT e.src, FLT_SRC e.src] s.chip c ∧ c.get (FLT_SRC_WCNT e.src) = s.chip.get (FLT_SRC_WCNT e.src) ∧
        c = { s.chip with regs := c.regs, fresh := c.fresh, faults := { s.chip.faults with
          events := [], sampled := [e], risen := [], sampledTick := some s.chip.now } }) ∧
      (s.chip.severe e.src = false → s.chip.becomesSevere e = false →
        RegsBut [FLT_CNT e.src, FLT_SRC e.src] s.chip c ∧
        c.get (FLT_SRC_WCNT e.src) = s.chip.windowCount e.src + e.count ∧ c.windowOpen e.src = true ∧
        c = { s.chip with regs := c.regs, fresh := c.fresh, faults := { s.chip.faults with
          events := [], sampled := [e], risen := [], sampledTick := some s.chip.now
          windows := if s.chip.windowOpen e.src then s.chip.faults.windows
            else s.chip.faults.windows.filter (·.1 != e.src) ++ [(e.src, s.chip.now)] } }) ∧
      (s.chip.severe e.src = false → s.chip.becomesSevere e = true →
        c.faults = { s.chip.faults with
          events := [], sampled := [e], sampledTick := some s.chip.now
          risen := [⟨e.src, s.chip.effCode e, s.chip.reactionMask e⟩]
          windows := s.chip.faults.windows.filter (·.1 != e.src)
          latched := s.chip.faults.latched ++ [⟨e.src, s.chip.effCode e, s.chip.reactionMask e⟩]
          fire := s.chip.faults.fire || s.chip.effCode e == 6
          firstTick := c.faults.firstTick, beaconTick := c.faults.beaconTick } ∧
        c.severe e.src = true ∧ c.faultFlag = true ∧ c.get (FLT_SRC_WCNT e.src) = 0 ∧ FirstCapture e s.chip c ∧
        (2 ≤ s.chip.effCode e → Reacting e s.chip c) ∧
        (s.chip.effCode e < 2 →
          RegsBut [FLT_CNT e.src, FLT_SRC e.src, FLT_FIRST, FLT_FIRSTT, FLT_FIRSTTH, FLT_STVEC 0, FLT_STVEC 1, FLT_STVEC 2,
            FLT_STVEC 3, FLT_STVEC 4, FLT_STVEC 5, FLT_STVEC 6, FLT_STVEC 7, BEACON_CTL, LOG_STATUS, RNG_STAT] s.chip c ∧
          c = { s.chip with regs := c.regs, fresh := c.fresh, faults := c.faults, nvc := c.nvc, rng := c.rng }) ∧
        (s.chip.flag RNG_CFG_EN = true → e.src ≠ 0xFB → s.chip.rng.faultQ.length < 8 →
          c.rng = { s.chip.rng with faultQ := s.chip.rng.faultQ ++ [⟨e.src, s.chip.effCode e, s.chip.wall⟩] }) ∧
        (s.chip.flag RNG_CFG_EN = true → e.src ≠ 0xFB → 8 ≤ s.chip.rng.faultQ.length →
          c.get RNG_STAT_FQOVF = 1 ∧ c.rng.faultQ.length = s.chip.rng.faultQ.length) ∧
        (s.chip.flag RNG_CFG_EN = false ∨ e.src = 0xFB → c.rng = s.chip.rng))) ∧
  (∀ s : State, s.chip.clockRuns = false ∨ s.chip.faults.sampledTick = some s.chip.now →
    exec .faultCollectorTick s = .next s)

/-- What the checkers themselves do between ticks (R277, R289, R290, R292, Table 11-2): a window closes T ms after it opened, a
BEACON pulse ends after its width, the loss of the clock is an event, and a test word fails only while its injection is armed,
once. Injection (R292, R293): an unarmed checker is armed for one of its units, unless the part is in STRIKE. -/
def Obligations.CollectorChecks : Prop :=
  ((∀ (s : State) (x : Src), s.chip.windowOver x.val = true →
    Completes (.severityWindowExpiry x) s fun c =>
      c.get (FLT_SRC_WCNT x.val) = 0 ∧ FieldsBut [FLT_SRC_WCNT x.val] s.chip c ∧
      c = { s.chip with regs := c.regs, faults := { s.chip.faults with
        windows := s.chip.faults.windows.filter (·.1 != x.val) } }) ∧
  (∀ (s : State) (x : Src), (∀ w ∈ s.chip.faults.windows, w.1 = x.val →
      s.chip.now < w.2 + 250000 * s.chip.get (FLT_CFG_T x.val)) → exec (.severityWindowExpiry x) s = .next s) ∧
  (∀ s : State, s.chip.clockRuns = false ∨
      s.chip.faults.beaconTick + 1 + 250 * s.chip.get BEACON_CTL_PULSE ≤ s.chip.now →
    Completes .beaconPulseEnd s fun c =>
      c.flag BEACON_CTL_PULSING = false ∧ FieldsBut [BEACON_CTL_PULSING] s.chip c ∧
      (s.chip.load.stage ≠ .held → c.beaconLow = s.chip.flag BEACON_CTL_LEVEL) ∧ c = { s.chip with regs := c.regs }) ∧
  (∀ s : State, s.chip.clockRuns = true → s.chip.now < s.chip.faults.beaconTick + 1 + 250 * s.chip.get BEACON_CTL_PULSE →
    exec .beaconPulseEnd s = .next s) ∧
  (∀ s : State, s.chip.clockRuns = true →
    Completes .clockLoss s fun c => Raised 0xE5 s.chip c ∧ c = { s.chip with faults := c.faults }) ∧
  (∀ s : State, s.chip.clockRuns = false → exec .clockLoss s = .next s) ∧
  (∀ (s : State) (u : Fin 5), s.chip.clockRuns = true → s.chip.injected 0 u.val = true →
    Completes (.testWordCheck u) s fun c =>
      c.faults.events = s.chip.faults.events ++ [⟨0xF0, 1, 0, 0, true⟩] ∧ c.injected 0 u.val = false ∧
      (c.get FLT_INJS_ARMED).testBit 0 = false ∧ FieldsBut [FLT_INJS_ARMED] s.chip c ∧
      c = { s.chip with regs := c.regs, faults := c.faults }) ∧
  (∀ (s : State) (u : Fin 5), s.chip.injected 0 u.val = false → exec (.testWordCheck u) s = .next s)) ∧
  (∀ (s : State) (p : Path) (k : Fin 4) (u : BitVec 4), s.chip.serves p →
    (s.chip.inStrike = false → u.toNat < injUnits k.val → (s.chip.get FLT_INJS_ARMED).testBit k.val = false →
      Grants (.fltInj p (BitVec.ofNat 4 k.val) u) p s fun c =>
        c.injected k u.toNat = true ∧ (c.get FLT_INJS_ARMED).testBit k.val = true ∧
        (∀ j, j ≠ k → c.faults.inj[j] = s.chip.faults.inj[j] ∧
          (c.get FLT_INJS_ARMED).testBit j.val = (s.chip.get FLT_INJS_ARMED).testBit j.val) ∧
        FieldsBut [FLT_INJS_ARMED] s.chip c ∧
        c = { s.chip with regs := c.regs, faults := { s.chip.faults with inj := c.faults.inj } }) ∧
    (s.chip.inStrike = true → Refuses (.fltInj p (BitVec.ofNat 4 k.val) u) p s .state) ∧
    (s.chip.inStrike = false → injUnits k.val ≤ u.toNat → Refuses (.fltInj p (BitVec.ofNat 4 k.val) u) p s .range) ∧
    (s.chip.inStrike = false → u.toNat < injUnits k.val → (s.chip.get FLT_INJS_ARMED).testBit k.val = true →
      Refuses (.fltInj p (BitVec.ofNat 4 k.val) u) p s .busy))

/-- Clears (R7, R285, R287, R291, R294, R295): a source whose cause is gone loses its latch and its window's count, one whose cause
persists is refused with STATE, all or none with ALL, and one that became severe in this tick stays latched; the fire latch
stays; the first capture and the access record are emptied by a clear, which does not touch a latch, but what this tick has
brought stands after it. -/
def Obligations.Clears : Prop :=
  (∀ (s : State) (p : Path) (x : Src), s.chip.serves p → x.val < 0xFC → s.chip.notClearable x.val = false →
    s.chip.eventNow x.val = none →
    (s.chip.faults.sampledTick = some s.chip.now → ∀ y ∈ s.chip.faults.risen, y.src ≠ x.val) →
    Grants (.fltClr p x) p s fun c =>
      c.faults.latched = s.chip.faults.latched.filter (·.src != x.val) ∧ c.severe x.val = false ∧
      c.get (FLT_SRC_WCNT x.val) = 0 ∧ c.windowOpen x.val = false ∧ c.faults.fire = s.chip.faults.fire ∧
      c.faults.inj = s.chip.faults.inj ∧
      (∀ l, 2 ≤ c.legReact l → (c.leg l).ghOn = false ∧ (c.leg l).glOn = false) ∧
      c.wall = s.chip.wall ∧ c.cues = s.chip.cues ∧ c.slices = s.chip.slices) ∧
  (∀ (s : State) (p : Path) (x : Src), s.chip.serves p → x.val < 0xFC → s.chip.notClearable x.val = false →
    s.chip.faults.sampledTick = some s.chip.now → (∃ y ∈ s.chip.faults.risen, y.src = x.val) →
    Grants (.fltClr p x) p s fun c => c.faults.latched = s.chip.faults.latched ∧ c.faults.fire = s.chip.faults.fire) ∧
  (∀ (s : State) (p : Path) (x : Src), s.chip.serves p → x.val < 0xFC → s.chip.notClearable x.val = true →
    Refuses (.fltClr p x) p s .state) ∧
  (∀ (s : State) (p : Path), s.chip.serves p → s.chip.faults.latched.all (fun x => !s.chip.notClearable x.src) = true →
    s.chip.faults.sampledTick ≠ some s.chip.now →
    Grants (.fltClrAll p) p s fun c =>
      (∀ x ∈ c.faults.latched, 0xFC ≤ x.src) ∧ c.faults.fire = s.chip.faults.fire ∧ c.wall = s.chip.wall ∧
      c.cues = s.chip.cues ∧ c.slices = s.chip.slices) ∧
  (∀ (s : State) (p : Path), s.chip.serves p → s.chip.faults.latched.all (fun x => !s.chip.notClearable x.src) = false →
    Refuses (.fltClrAll p) p s .state) ∧
  (∀ (s : State) (p : Path), s.chip.serves p → s.chip.faults.firstTick ≠ some s.chip.now →
    s.chip.faults.sampledTick ≠ some s.chip.now ∨ s.chip.faults.risen = [] →
    Grants (.fltFirstClear p) p s fun c =>
      c.reg FLT_FIRST = 0 ∧ c.get64 FLT_FIRSTT = 0 ∧ (∀ k, k < 8 → c.reg (FLT_STVEC k) = 0) ∧
      RegsBut [FLT_FIRST, FLT_FIRSTT, FLT_FIRSTTH, FLT_STVEC 0, FLT_STVEC 1, FLT_STVEC 2, FLT_STVEC 3, FLT_STVEC 4,
        FLT_STVEC 5, FLT_STVEC 6, FLT_STVEC 7] s.chip c ∧ c = { s.chip with regs := c.regs }) ∧
  (∀ (s : State) (p : Path), s.chip.serves p → s.chip.faults.firstTick = some s.chip.now →
    Grants (.fltFirstClear p) p s fun c => c = s.chip) ∧
  (∀ (s : State) (p : Path) (w : Latch), s.chip.serves p → s.chip.faults.firstTick ≠ some s.chip.now →
    s.chip.faults.sampledTick = some s.chip.now → winner s.chip.faults.risen = some w →
    Grants (.fltFirstClear p) p s fun c =>
      c.get FLT_FIRST_VALID = 1 ∧ c.get FLT_FIRST_SRC = w.src % 256 ∧ c.get64 FLT_FIRSTT = s.chip.wall % 2 ^ 64) ∧
  (∀ (s : State) (p : Path), s.chip.serves p → (∀ t w a, s.chip.faults.accNew = some (t, w, a) → t ≠ s.chip.now) →
    Grants (.fltAccClear p) p s fun c =>
      c.reg FLT_ACC = 0 ∧ c.reg FLT_ACCA = 0 ∧ c.get64 FLT_ACCT = 0 ∧
      RegsBut [FLT_ACC, FLT_ACCA, FLT_ACCT, FLT_ACCT + 4] s.chip c ∧ c = { s.chip with regs := c.regs }) ∧
  (∀ (s : State) (p : Path) (w : Word) (a : Nat), s.chip.serves p → s.chip.faults.accNew = some (s.chip.now, w, a) →
    Grants (.fltAccClear p) p s fun c =>
      c.reg FLT_ACC = w ∧ c.get FLT_ACCA_ADDR = a % 2 ^ 24 ∧ c.get64 FLT_ACCT = s.chip.wall % 2 ^ 64 ∧
      c = { s.chip with regs := c.regs })

/-! ### Start-up, image, power states and life-cycle -/

/-- nRESET and RESET (R297, R300, R337, Table 12-1): the rise of nRESET runs the start sequence; its fall stops everything and turns
every gate off; an accepted RESET takes the orderly checkpoint and runs the sequence, unless the checkpoint has to wait; RESET
is refused with BUSY in a start sequence, during a checkpoint or an OTP operation, and with STATE in DARK. RELOAD (R78, R300,
R310): in HOUSE, unconfigured, outside STRIKE and outside a start sequence, it wipes the cue sheet and the checkpoints, leaves
every leg in FLOAT with ON = 0, keeps time, timebases, ports and latches, and awaits an image; in every other case it is refused
with STATE. -/
def Obligations.StartSequences : Prop :=
  ((∀ (s : State) (reads : List OtpRead), s.chip.load.stage = .held →
    Completes (.nresetRise reads) s (Started 0 s.nv reads)) ∧
  (∀ (s : State) (reads : List OtpRead), s.chip.load.stage ≠ .held → exec (.nresetRise reads) s = .next s) ∧
  (∀ s : State,
    Completes .nresetFall s fun c =>
      c.regs = [] ∧ c.load.stage = .held ∧ (∀ l, c.leg l = (s.chip.leg l).anew ∧ (c.leg l).ghOn = false ∧ (c.leg l).glOn = false) ∧
      (∀ p, (c.port p).hiZ = true) ∧ c.wall = 0 ∧ c.now = 0 ∧ c.faults = {} ∧ c.cues = {} ∧
      c.axes = Vector.replicate 8 {} ∧ c.slices = Vector.replicate 41 {} ∧
      c.nvc = { pending := s.chip.nvc.pending, lost := s.chip.nvc.lost }) ∧
  (∀ (s : State) (p : Path) (reads : List OtpRead), s.chip.serves p → s.chip.flag SYS_STATUS_LOG_BUSY = false →
    s.chip.nvc.op = none →
    ∃ t, exec (.reset p reads) s = .next t ∧ t.pending = s.pending ∧ t.nv.fuses = s.nv.fuses ∧
      (s.chip.mayLog = true → Started 1 t.nv reads t.chip) ∧
      (s.chip.mayLog = false →
        t = { s with chip := ({ s.chip.logBusy true with
          nvc := { s.chip.nvc with orderly := some 1, reads := reads } } : Chip).answer p .ok })) ∧
  (∀ (s : State) (p : Path) (reads : List OtpRead), s.chip.serves p →
    s.chip.flag SYS_STATUS_LOG_BUSY = true ∨ s.chip.nvc.op.isSome = true → Refuses (.reset p reads) p s .busy) ∧
  (∀ (s : State) (p : Path) (reads : List OtpRead), s.chip.carries p = true → s.chip.booting = true →
    Refuses (.reset p reads) p s .busy) ∧
  (∀ (s : State) (p : Path) (reads : List OtpRead), s.chip.carries p = true → s.chip.booting = false →
    s.chip.inDark = true → Refuses (.reset p reads) p s .state)) ∧
  ((∀ (s : State) (p : Path), s.chip.serves p → s.chip.inHouse = true → s.chip.cfgOk = false →
    s.chip.inStrike = false → s.chip.nvc.op = none →
    Grants (.reload p) p s fun c =>
      c.get SYS_STATUS_RCAUSE = 3 ∧ c.cues.sheet = [] ∧ c.axes = Vector.replicate 8 {} ∧
      c.engines = Vector.replicate 2 none ∧ (∀ l, c.legMode l = 0 ∧ c.duty1 l = 0) ∧ c.load.since = s.chip.now ∧
      c.wall = s.chip.wall ∧ c.now = s.chip.now ∧ c.tbs = s.chip.tbs ∧ c.ports = s.chip.ports ∧ c.faults.latched = s.chip.faults.latched ∧ Awaits c) ∧
  (∀ (s : State) (p : Path), s.chip.carries p = true →
    s.chip.inHouse = false ∨ s.chip.cfgOk = true ∨ s.chip.inStrike = true ∨ s.chip.booting = true →
    Refuses (.reload p) p s .state) ∧
  (∀ (s : State) (p : Path), s.chip.serves p → s.chip.inHouse = true → s.chip.cfgOk = false → s.chip.inStrike = false →
    s.chip.nvc.op.isSome = true → Refuses (.reload p) p s .busy))

/-- Headers (R301 to R303, R309, R352): a good image header or section header opens what it names; a bad one stops the load with the
CAUSE of Table 12-5, a wrong CRC or an injected one counting an event of IMAGE; the third unanswered I²C address stops it too. -/
def Obligations.ImageHeaders : Prop :=
  (∀ (s : State) (h : Header), s.chip.awaitsHeader = true → s.chip.injected 3 0 = false → crc32 (headerFront h) = h.hcrc →
    headerBad h = false → s.chip.wrongDevice h = false → s.chip.tooLong h = false →
    Completes (.imageHeader h) s fun c =>
      c.load.header = some h ∧ c.load.sect = 0 ∧ c.load.bytes.length = s.chip.load.bytes.length + 32 ∧
      c = { s.chip with load := c.load }) ∧
  (∀ (s : State) (h : Header), s.chip.load.stage ≠ .loading ∨ s.chip.load.header.isSome = true →
    exec (.imageHeader h) s = .next s) ∧
  (∀ (s : State) (h : Header), s.chip.awaitsHeader = true → s.chip.injected 3 0 = true →
    Completes (.imageHeader h) s fun c =>
      LoadStopped 2 .ok 0 0 s.chip c ∧ c.injected 3 0 = false ∧
      c.faults.events = s.chip.faults.events ++ [⟨0xF1, 1, 0, 0, true⟩]) ∧
  (∀ (s : State) (h : Header), s.chip.awaitsHeader = true → s.chip.injected 3 0 = false →
    crc32 (headerFront h) ≠ h.hcrc →
    Completes (.imageHeader h) s fun c => LoadStopped 2 .ok 0 0 s.chip c ∧ Raised 0xF1 s.chip c) ∧
  (∀ (s : State) (h : Header), s.chip.awaitsHeader = true → s.chip.injected 3 0 = false →
    crc32 (headerFront h) = h.hcrc → headerBad h = true →
    Completes (.imageHeader h) s fun c => LoadStopped 2 .ok 0 0 s.chip c ∧ c.faults = s.chip.faults) ∧
  (∀ (s : State) (h : Header), s.chip.awaitsHeader = true → s.chip.injected 3 0 = false →
    crc32 (headerFront h) = h.hcrc → headerBad h = false → s.chip.wrongDevice h = true →
    Completes (.imageHeader h) s fun c => LoadStopped 3 .ok 0 0 s.chip c ∧ c.faults = s.chip.faults) ∧
  (∀ (s : State) (h : Header), s.chip.awaitsHeader = true → s.chip.injected 3 0 = false →
    crc32 (headerFront h) = h.hcrc → headerBad h = false → s.chip.wrongDevice h = false → s.chip.tooLong h = true →
    Completes (.imageHeader h) s fun c => LoadStopped 4 .ok 0 0 s.chip c ∧ c.faults = s.chip.faults) ∧
  (∀ (s : State) (hd : Header) (h : Section), s.chip.awaitsSection hd = true →
    sectionBad h s.chip.load.bytes.length (headerStop hd) = false →
    Completes (.sectionHeader h) s fun c =>
      c.load.cur = some h ∧ c.load.sect = s.chip.load.sect + 1 ∧ c.load.body = [] ∧
      c.load.due = (if h.type = 3 then 0 else h.count.toNat) ∧
      (c.load.fail = if h.type = 1 ∧ s.chip.load.cueSeen = true then some (.state, 0) else none) ∧
      c = { s.chip with load := c.load }) ∧
  (∀ (s : State) (hd : Header) (h : Section), s.chip.awaitsSection hd = true →
    sectionBad h s.chip.load.bytes.length (headerStop hd) = true →
    Completes (.sectionHeader h) s fun c =>
      LoadStopped 4 .ok (s.chip.load.sect + 1) 0 s.chip c ∧ c.faults = s.chip.faults) ∧
  (∀ (s : State) (acked : Bool), s.chip.load.stage = .loading → s.chip.nvmSetting.any (!namesI2c ·) = false →
    (acked = true ∨ s.chip.load.retries < 2) →
    Completes (.i2cAddressRetry acked) s fun c =>
      c = { s.chip with load := { s.chip.load with retries := if acked then 0 else s.chip.load.retries + 1 } }) ∧
  (∀ s : State, s.chip.load.stage = .loading → s.chip.nvmSetting.any (!namesI2c ·) = false →
    2 ≤ s.chip.load.retries →
    Completes (.i2cAddressRetry false) s fun c => LoadStopped 1 .ok s.chip.load.sect 0 s.chip c) ∧
  (∀ (s : State) (acked : Bool), s.chip.load.stage ≠ .loading ∨ s.chip.nvmSetting.any (!namesI2c ·) = true →
    exec (.i2cAddressRetry acked) s = .next s)

/-- Records and the ends of sections (R303 to R305, R309): a register record writes the LK and RW fields of its register, a cue
record its entry; one that names no image-writable register, or breaks a rule of the cue sheet, fails its section, whose load
stops at the section's end with CAUSE 6, or with CAUSE 4 and an event of IMAGE where the CRC is wrong. The end of the image
(R33, R84, R306 to R309, R356): a wrong tag stops the load with CAUSE 5, AUTH and an event of IMAGE; a failing admission check
with CAUSE 7, its reason and its item; otherwise the configuration locks, timebases are STALE, legs take their base slew steps,
an enabled range link trains, and the part enters HOUSE. -/
def Obligations.ImageBodies : Prop :=
  ((∀ (s : State) (h : Section) (a data : Word) (r : RegRow), s.chip.awaitsRecord h = true → h.type = 1 →
    s.chip.load.fail = none → a.toNat < 2 ^ 24 → imageWritable a.toNat = true → cueWord a.toNat = none →
    findRow (homeOf a.toNat) = some r → deadWrite a.toNat = false →
    Completes (.registerRecord a data) s fun c =>
      (∀ i, i < 32 → (c.reg (homeOf a.toNat)).getLsbD i =
        if (r.lk ||| r.rw).testBit i then data.getLsbD i else (s.chip.reg (homeOf a.toNat)).getLsbD i) ∧
      c.load.fail = none ∧ OneRecord 8 s.chip c ∧ RegsBut [homeOf a.toNat] s.chip c ∧
      c = { s.chip with regs := c.regs, load := c.load }) ∧
  (∀ (s : State) (h : Section) (a data : Word), s.chip.awaitsRecord h = true → h.type = 1 → s.chip.load.fail = none →
    a.toNat < 2 ^ 24 → imageWritable a.toNat = true → cueWord a.toNat = none → deadWrite a.toNat = true →
    Completes (.registerRecord a data) s fun c =>
      c.load.fail = none ∧ OneRecord 8 s.chip c ∧ c = { s.chip with load := c.load }) ∧
  (∀ (s : State) (h : Section) (a data : Word) (k : Nat) (upper : Bool), s.chip.awaitsRecord h = true → h.type = 1 →
    s.chip.load.fail = none → a.toNat < 2 ^ 24 → imageWritable a.toNat = true → cueWord a.toNat = some (k, upper) →
    (upper = true → cueShapeBad (data ++ s.chip.load.hold) = false ∧ s.chip.neighbour k (data ++ s.chip.load.hold) = none) →
    Completes (.registerRecord a data) s fun c =>
      (upper = false → c.load.hold = data ∧ c.cues = s.chip.cues) ∧
      (upper = true → c.cue k = data ++ s.chip.load.hold ∧ ∀ j, j ≠ k → c.cue j = s.chip.cue j) ∧
      c.load.fail = none ∧ OneRecord 8 s.chip c ∧ c = { s.chip with cues := c.cues, load := c.load }) ∧
  (∀ (s : State) (h : Section) (a data : Word), s.chip.awaitsRecord h = true → h.type = 1 → s.chip.load.fail = none →
    2 ^ 24 ≤ a.toNat ∨ imageWritable (a.toNat % 2 ^ 24) = false →
    Completes (.registerRecord a data) s fun c =>
      c.load.fail = some (.range, a.toNat % 2 ^ 24) ∧ OneRecord 8 s.chip c ∧
      AccessNoted 2 true (if a.toNat % 4 = 0 then 3 else 1) (a.toNat % 2 ^ 24) s.chip c ∧
      RegsBut [FLT_ACC, FLT_ACCA, FLT_ACCT, FLT_ACCTH] s.chip c ∧
      c = { s.chip with regs := c.regs, load := c.load, faults := c.faults }) ∧
  (∀ (s : State) (h : Section) (ix lo hi : Word) (n : Nat), s.chip.awaitsRecord h = true → h.type = 2 →
    s.chip.load.fail = none → ix.toNat < 16384 → cueShapeBad (hi ++ lo) = false →
    s.chip.neighbour ix.toNat (hi ++ lo) = some n →
    Completes (.cueRecord ix lo hi) s fun c =>
      c.load.fail = some (.density, 0x100000 + 8 * ix.toNat) ∧ OneRecord 12 s.chip c ∧
      c = { s.chip with load := c.load }) ∧
  (∀ (s : State) (h : Section) (ix lo hi : Word), s.chip.awaitsRecord h = true → h.type = 2 → s.chip.load.fail = none →
    ix.toNat < 16384 → cueShapeBad (hi ++ lo) = false → s.chip.neighbour ix.toNat (hi ++ lo) = none →
    Completes (.cueRecord ix lo hi) s fun c =>
      c.cue ix.toNat = hi ++ lo ∧ (∀ k, k ≠ ix.toNat → c.cue k = s.chip.cue k) ∧ c.load.fail = none ∧
      OneRecord 12 s.chip c ∧ c = { s.chip with cues := c.cues, load := c.load }) ∧
  (∀ (s : State) (h : Section) (ix lo hi : Word), s.chip.awaitsRecord h = true → h.type = 2 → s.chip.load.fail = none →
    16384 ≤ ix.toNat ∨ cueShapeBad (hi ++ lo) = true →
    Completes (.cueRecord ix lo hi) s fun c =>
      c.load.fail = some (.range, 0x100000 + 8 * (ix.toNat % 16384)) ∧ OneRecord 12 s.chip c ∧
      c = { s.chip with load := c.load }) ∧
  (∀ (s : State) (hd : Header) (h : Section) (fill : List Byte), s.chip.awaitsEnd hd h fill.length = true →
    s.chip.sectionCrcOk h fill = true → s.chip.load.fail = none →
    (s.chip.load.sect ≠ hd.nsect.toNat ∨ s.chip.load.bytes.length + fill.length = headerStop hd) →
    Completes (.sectionEnd fill) s fun c =>
      c.load.cur = none ∧ c.load.sect = s.chip.load.sect ∧ c.load.stage = .loading ∧ c = { s.chip with load := c.load }) ∧
  (∀ (s : State) (hd : Header) (h : Section) (fill : List Byte) (r : Reason) (at' : Nat),
    s.chip.awaitsEnd hd h fill.length = true → s.chip.sectionCrcOk h fill = true →
    s.chip.load.fail = some (r, at') →
    Completes (.sectionEnd fill) s fun c => LoadStopped 6 r s.chip.load.sect at' s.chip c ∧ c.faults = s.chip.faults) ∧
  (∀ (s : State) (hd : Header) (h : Section) (fill : List Byte), s.chip.awaitsEnd hd h fill.length = true →
    s.chip.sectionCrcOk h fill = false →
    Completes (.sectionEnd fill) s fun c => LoadStopped 4 .ok s.chip.load.sect 0 s.chip c ∧ Raised 0xF1 s.chip c)) ∧
  (∀ (s : State) (hd : Header) (tag : List Byte), s.chip.awaitsTag hd tag.length = true →
    (s.chip.tagBad hd tag = true →
      Completes (.imageEnd tag) s fun c => LoadStopped 5 .auth 0 0 s.chip c ∧ Raised 0xF1 s.chip c) ∧
    (∀ (r : Reason) (at' : Nat), s.chip.tagBad hd tag = false →
      s.chip.showResv.admission = some (r, at') →
      Completes (.imageEnd tag) s fun c => LoadStopped 7 r 0 at' s.chip c ∧ c.faults = s.chip.faults) ∧
    (s.chip.tagBad hd tag = false → s.chip.showResv.admission = none →
      Completes (.imageEnd tag) s fun c =>
        c.cfgOk = true ∧ c.inHouse = true ∧ c.booting = false ∧ c.load.stage = .done ∧ c.reg SYS_IMGID = hd.serial ∧
        c.reg SYS_IMGSTAT = 0 ∧ c.reg SYS_IMGAT = 0 ∧ c.load.strikeOk = hd.flags.getLsbD 1 ∧ c.wall = s.chip.wall ∧
        c.get SYS_BOOTT_TICKS = (s.chip.now - s.chip.load.since) % (SYS_BOOTT_TICKS.top + 1) ∧
        (∀ n : Nat, n < 20 → c.flag (CUE_TB_STAT_STALE n) = true) ∧
        (∀ l : Leg, c.get (LEG_SLEW_LIVE_HS_ON l.val) = s.chip.get (LEG_SLEW_HS_ON l.val) ∧
          c.get (LEG_SLEW_LIVE_LS_ON l.val) = s.chip.get (LEG_SLEW_LS_ON l.val)) ∧
        (s.chip.flag RNG_CFG_EN = true → s.chip.get RNG_STAT_STATE ≠ 2 → c.get RNG_STAT_STATE = 1) ∧
        c.cues = s.chip.cues ∧ (∀ a, c.axisOn a = s.chip.axisOn a) ∧
        ((∀ i : Sensor, s.chip.flag (TMP_STAT_FAIL i.val) = false) →
          c.legs = s.chip.legs ∧ c.slices = s.chip.slices ∧ c.faults = s.chip.faults)))

/-- Accepted SYS_PWR requests (R311 to R313, Table 12-6): those between HOUSE, STANDBY and SHOW change nothing at once and take
effect in the next tick: STANDBY from HOUSE arms the gates and starts the slices; SHOW starts nothing but the modes that locally
owned axes enter; leaving SHOW takes every axis to OFF; HOUSE stops the slices, floats the legs and opens the admission gates;
DARK asks for an orderly checkpoint first, and the return from it for the clock. Refused SYS_PWR requests (R10, R11, R299, R311,
R361, Table 12-6): a pair of states that the table does not hold, and STANDBY without an image, in STRIKE or without a required
range link, give STATE; a start sequence, a transition or a checkpoint under way gives BUSY; a supply outside its window gives
WINDOW; the present state again is accepted without effect. -/
def Obligations.PowerStates : Prop :=
  ((∀ (s : State) (p : Path) (t : Nat) (i : Instr),
    (i, t) ∈ [(Instr.sysPwrHouse p, 1), (.sysPwrStandby p, 2), (.sysPwrShow p, 3)] → s.chip.serves p →
    pwrPair s.chip.pstate t = true → s.chip.pstate ≠ t → s.chip.pwrBusy = false →
    (s.chip.pstate = 1 → s.chip.armState = false ∧ s.chip.armWindow = false) →
    Grants i p s fun c => c = { s.chip with pwrDue := some t }) ∧
  (∀ (s : State) (ecc : List EntryIx), s.chip.clockRuns = true → s.chip.pwrDue = some 2 → s.chip.pstate = 1 →
    Moves ecc 2 s fun c =>
      c.armTick = some (s.chip.now + 1) ∧ c.tbs = s.chip.inNextTick.tbs ∧ c.faults = s.chip.inNextTick.faults ∧
      (∀ k, s.chip.sliceOn k = true ∨ isUnder k = true → (c.slice k).running = true ∧ (c.slice k).settle = 2) ∧
      (∀ l : Leg, c.get (LEG_SLEW_LIVE_HS_ON l.val) = s.chip.get (LEG_SLEW_HS_ON l.val) ∧
        (s.chip.axisOn (axisOfLeg l) = true → s.chip.modeOf (axisOfLeg l) = 0 → s.chip.flag (LEG_STAT_BST_OK l.val) = false →
          (c.leg l).charging = true)) ∧
      (∀ r : Region, s.chip.flag (BUS_ADM_EN r.val) = false → c.get (BUS_STAT_ADM r.val) = 2)) ∧
  (∀ (s : State) (ecc : List EntryIx), s.chip.clockRuns = true → s.chip.pwrDue = some 3 → s.chip.pstate = 2 →
    Moves ecc 3 s fun c =>
      (∀ a, (c.axis a).entered = true) ∧
      (∀ a, (c.axis a).localDue = true ↔ s.chip.axisOn a = true ∧ s.chip.get (AX_CFG_OWNER a.val) = 2) ∧
      c.legs = s.chip.legs ∧ c.slices = s.chip.slices ∧ c.buses = s.chip.buses ∧ c.faults = s.chip.inNextTick.faults) ∧
  (∀ (s : State) (ecc : List EntryIx), s.chip.clockRuns = true → s.chip.pwrDue = some 2 → s.chip.pstate = 3 →
    Moves ecc 2 s fun c => AllOff c ∧ c.slices = s.chip.slices ∧ c.buses = s.chip.buses ∧
      (∀ l : Leg, c.get (LEG_SLEW_LIVE_HS_ON l.val) = s.chip.get (LEG_SLEW_HS_ON l.val))) ∧
  (∀ (s : State) (ecc : List EntryIx), s.chip.clockRuns = true → s.chip.pwrDue = some 1 →
    s.chip.pstate = 2 ∨ s.chip.pstate = 3 →
    Moves ecc 1 s fun c =>
      AllOff c ∧ c.armTick = none ∧ c.houseTick = s.chip.now + 1 ∧
      (∀ l, c.legMode l = 0 ∧ (c.leg l).charging = false ∧ (c.leg l).duties = [] ∧ c.flag (LEG_STAT_BST_OK l.val) = false) ∧
      (∀ k, (s.chip.slice k).running = true → (c.slice k).stopping = true ∧ (c.slice k).reqForced = true) ∧
      (∀ r : Region, c.get (BUS_STAT_CHOP_ON r.val) = 0 ∧ (c.bus r).gate = 0) ∧ (∀ a, c.engine (regionOf a) ≠ some a) ∧
      (∀ i, (c.sensor i).lastValid = none)) ∧
  (∀ (s : State) (p : Path), s.chip.serves p → s.chip.pstate = 1 → s.chip.pwrBusy = false →
    Grants (.sysPwrDark p) p s fun c =>
      c.flag SYS_STATUS_TRANS = true ∧ c.flag SYS_STATUS_LOG_BUSY = true ∧ c.flag LOG_STATUS_BUSY = true ∧
      c.nvc.orderly = some 0 ∧ FieldsBut [SYS_STATUS_TRANS, SYS_STATUS_LOG_BUSY, LOG_STATUS_BUSY] s.chip c ∧
      c = { s.chip with regs := c.regs, nvc := c.nvc }) ∧
  (∀ (s : State) (p : Path), s.chip.carries p = true → s.chip.booting = false → s.chip.pstate = 0 →
    s.chip.pwrBusy = false →
    Grants (.sysPwrHouse p) p s fun c =>
      c.flag SYS_STATUS_TRANS = true ∧ FieldsBut [SYS_STATUS_TRANS] s.chip c ∧ c = { s.chip with regs := c.regs })) ∧
  (∀ (s : State) (p : Path) (t : Nat) (i : Instr),
    (i, t) ∈ [(Instr.sysPwrHouse p, 1), (.sysPwrStandby p, 2), (.sysPwrShow p, 3), (.sysPwrDark p, 0)] →
    s.chip.carries p = true →
    (pwrPair s.chip.pstate t = false → Refuses i p s .state) ∧
    (s.chip.pstate = 1 → t = 2 → s.chip.armState = true → Refuses i p s .state) ∧
    (pwrPair s.chip.pstate t = true → (s.chip.pstate = 1 → t = 2 → s.chip.armState = false) →
      s.chip.pwrBusy = true ∨ s.chip.booting = true → Refuses i p s .busy) ∧
    (s.chip.pstate = 1 → t = 2 → s.chip.armState = false → s.chip.pwrBusy = false → s.chip.booting = false →
      s.chip.armWindow = true → Refuses i p s .window) ∧
    (s.chip.pstate = t → s.chip.pwrBusy = false → s.chip.booting = false → Grants i p s fun c => c = s.chip))

/-- DARK (R32, R127, R252, R313, R314, R334, R335): once the checkpoint is written the part enters it, its ports and converters stop
and the next sample of every timebase is a jump; the return shows the time spent, lets the held records be written with RESUME
after them, and brings the ports back. A life-cycle change (R318, R319, R321, R322): an accepted one burns the bytes of its
target and runs the start sequence, and no fuse bit returns to 0; a request that Table 12-7 does not hold is refused with RANGE,
one outside HOUSE, in a start sequence or in a transition with STATE, entry into STRIKE that the image does not allow with
LOCKED, one beside an OTP operation or a checkpoint with BUSY, one outside the program window with WINDOW. -/
def Obligations.DarkAndLifecycle : Prop :=
  ((∀ s : State, s.chip.inHouse = true → s.chip.flag SYS_STATUS_TRANS = true → s.chip.nvc.orderly = none →
    s.chip.booting = false →
    Completes .darkEntry s fun c =>
      c.inDark = true ∧ c.flag SYS_STATUS_TRANS = false ∧ (∀ n, (c.tb n).jumpDue = true) ∧
      (∀ q, (c.port q).hiZ = true ∧ (c.port q).ssiBusy = false ∧ (c.port q).linesKnown = false) ∧
      (∀ n, (c.hk n).running = none) ∧
      c.get CAN_STAT_STATE = 3 ∧ c.wall = s.chip.wall ∧ c.cues = s.chip.cues ∧ c.axes = s.chip.axes ∧
      (s.chip.get RNG_STAT_STATE ≠ 2 → c.faults = s.chip.faults)) ∧
  (∀ s : State, s.chip.inHouse = false ∨ s.chip.flag SYS_STATUS_TRANS = false ∨ s.chip.nvc.orderly.isSome = true →
    exec .darkEntry s = .next s) ∧
  (∀ (s : State) (us : Word), s.chip.inDark = true → s.chip.flag SYS_STATUS_TRANS = true →
    Completes (.darkExitComplete us) s fun c =>
      c.inHouse = true ∧ c.flag SYS_STATUS_TRANS = false ∧ c.reg SYS_DARKT = us ∧ c.wall = s.chip.wall ∧
      c.cues = s.chip.cues ∧ c.houseTick = s.chip.now ∧ (s.chip.cfgOk = true → ∀ q, (c.port q).hiZ = false) ∧
      (s.chip.flag LOG_STATUS_HOLD = false →
        c.nvc.pending = [] ∧
        ∃ l, c.nvc.queue = s.chip.nvc.queue ++ s.chip.nvc.pending ++ [⟨4, false, s.chip.wall, us, 0, 0⟩] ++ l)) ∧
  (∀ (s : State) (us : Word), s.chip.inDark = false ∨ s.chip.flag SYS_STATUS_TRANS = false →
    exec (.darkExitComplete us) s = .next s)) ∧
  ((∀ (s : State) (p : Path) (data : Word) (left : Bool) (copies : List Verify) (reads : List OtpRead), s.chip.serves p →
    judge (Chip.lcConds data left s.chip) = .ok →
    ∃ t, exec (.lifecycleChange p data left copies reads) s = .next t ∧ t.pending = s.pending ∧
      Started 2 t.nv reads t.chip ∧ FusesKept s.nv t.nv ∧
      (copies = [] → ∀ i, i < 3 → ((t.nv.fuse i >>> (8 * (SYS_LCCMD_TARGET.read data - 1))).truncate 8 : Byte) = 0xFF) ∧
      (∀ k, 3 ≤ k → t.nv.fuse k = s.nv.fuse k)) ∧
  (∀ (s : State) (p : Path) (data : Word) (left : Bool) (copies : List Verify) (reads : List OtpRead),
    let target := SYS_LCCMD_TARGET.read data
    let right := SYS_LCCMD_CONFIRM.read data = 0xA55A ∧ lcNext (s.chip.get SYS_STATUS_LC) target = true
    let ready := s.chip.inHouse = true ∧ s.chip.flag SYS_STATUS_TRANS = false ∧
      (target = 2 → s.chip.flag SYS_STATUS_KEY = true ∧ (s.chip.get OTP_STATUS_LOCK).testBit 1 = true)
    let mayStrike := target = 3 → s.chip.get SYS_STATUS_LC = 2 → s.chip.cfgOk = true ∧ s.chip.load.strikeOk = true
    let i := Instr.lifecycleChange p data left copies reads
    (s.chip.serves p → ready → ¬right → Refuses i p s .range) ∧
    (s.chip.carries p = true → s.chip.inHouse = false ∨ s.chip.flag SYS_STATUS_TRANS = true ∨ s.chip.booting = true →
      Refuses i p s .state) ∧
    (s.chip.serves p → s.chip.inHouse = true → s.chip.flag SYS_STATUS_TRANS = false → ¬ready → Refuses i p s .state) ∧
    (s.chip.serves p → ready → right → ¬mayStrike → Refuses i p s .locked) ∧
    (s.chip.serves p → ready → right → mayStrike → s.chip.flag SYS_STATUS_LOG_BUSY = true ∨ s.chip.nvc.op.isSome = true →
      Refuses i p s .busy) ∧
    (s.chip.serves p → ready → right → mayStrike → s.chip.flag SYS_STATUS_LOG_BUSY = false → s.chip.nvc.op = none →
      s.chip.windowLeft left = true → Refuses i p s .window)))

/-! ### OTP and logbook -/

/-- OTP_CMD (R10, R11, R299, R326, R327, Table 13-3): an accepted operation starts with the words that it is to program; outside
HOUSE, in a start sequence or a transition, or where the target does not allow it, it is refused with STATE, for an argument
outside Table 13-2 or a key word with RANGE, in a locked area with LOCKED, with another running with BUSY, and outside the
window with WINDOW. -/
def Obligations.OtpCommands : Prop :=
  ∀ (s : State) (p : Path) (x : BitVec 10) (left : Bool) (i : Instr) (op : Nat),
    (i, op) ∈ [(Instr.prog p x left, 1), (.repulse p x left, 2), (.redirect p x left, 3), (.otpLock p x left, 4)] →
    (s.chip.carries p = true → s.chip.inHouse = false ∨ s.chip.flag SYS_STATUS_TRANS = true ∨ s.chip.booting = true →
      Refuses i p s .state) ∧
    (s.chip.serves p → argOk op x.toNat = true →
      s.chip.otpLcBad op x.toNat = true ∨ s.chip.otpTargetBad s.nv op x.toNat = true → Refuses i p s .state) ∧
    (s.chip.serves p → s.chip.inHouse = true → s.chip.flag SYS_STATUS_TRANS = false →
      (argOk op x.toNat = false → Refuses i p s .range) ∧
      (argOk op x.toNat = true → s.chip.otpLcBad op x.toNat = false → s.chip.otpTargetBad s.nv op x.toNat = false →
        let key := op = 1 ∧ 136 ≤ x.toNat ∧ x.toNat < 192
        let locked := op = 1 ∧ (s.chip.get OTP_STATUS_LOCK).testBit (otpArea x.toNat) = true
        (key → Refuses i p s .range) ∧
        (¬key → locked → Refuses i p s .locked) ∧
        (¬key → ¬locked → s.chip.nvc.op.isSome = true → Refuses i p s .busy) ∧
        (¬key → ¬locked → s.chip.nvc.op = none → s.chip.windowLeft left = true → Refuses i p s .window) ∧
        (¬key → ¬locked → s.chip.nvc.op = none → s.chip.windowLeft left = false →
          Grants i p s fun c =>
            c.get OTP_STATUS_BUSY = 1 ∧ c.nvc.op = some ⟨op, x.toNat, s.chip.otpTodo s.nv op x.toNat, 0, 0⟩ ∧
            FieldsBut [OTP_STATUS_BUSY] s.chip c ∧
            c = { s.chip with regs := c.regs, nvc := { s.chip.nvc with op := c.nvc.op } })))

/-- A pulse and its verify (R321, R328): the bits of the target that the pulse made 1 are 1 from then on, no other word of the array
changes; the word is done, pulsed again up to nine times, or given up, and an operation that ends shows its result and brings
its record. -/
def Obligations.OtpVerifies : Prop :=
  (∀ (s : State) (v : Verify) (o : OtpOp) (k : Nat) (w : Word) (rest : List (Nat × Word)),
    s.chip.nvc.op = some o → o.todo = (k, w) :: rest →
    ∃ t, exec (.otpVerify v) s = .next t ∧ t.pending = s.pending ∧ t.nv.log = s.nv.log ∧
      t.nv.fuse k = s.nv.fuse k ||| (v.normal &&& w) ∧ (∀ j, j ≠ k → t.nv.fuse j = s.nv.fuse j) ∧
      (v.windowLeft = true → OtpEnded 3 s.chip t.chip) ∧
      (v.windowLeft = false → verifyPasses v w = true → rest = [] →
        OtpEnded 1 s.chip t.chip) ∧
      (v.windowLeft = false → verifyPasses v w = true → rest ≠ [] →
        t.chip.nvc.op = some { o with todo := rest, pulses := 0, total := o.total + 1 }) ∧
      (v.windowLeft = false → verifyPasses v w = false → o.pulses < 8 →
        t.chip.nvc.op = some { o with pulses := o.pulses + 1, total := o.total + 1 }) ∧
      (v.windowLeft = false → verifyPasses v w = false → 8 ≤ o.pulses →
        OtpEnded 2 s.chip t.chip ∧ Raised 0xF3 s.chip t.chip) ∧
      (v.windowLeft = true ∨ verifyPasses v w = true ∨ o.pulses < 8 → t.chip.faults = s.chip.faults) ∧
      RegsBut [OTP_STATUS, LOG_STATUS] s.chip t.chip ∧
      t.chip = { s.chip with regs := t.chip.regs, fresh := t.chip.fresh, nvc := t.chip.nvc, faults := t.chip.faults }) ∧
  (∀ (s : State) (v : Verify), s.chip.nvc.op = none → exec (.otpVerify v) s = .next s)

/-- Event records (R332, R333, R335): the oldest record that waits goes to the next place of the ring under the next SEQ; when both
verifies fail it is counted and tries the place after; nothing is written outside the window. Records held while nothing may be
written, and checkpoints (R335 to R337): the held records are written in their order; a slot goes to its older copy and the next
one is due; the orderly checkpoint ends with CLOSE as the newest record, LOG_BUSY cleared, and for RESET with the start
sequence. -/
def Obligations.Logbook : Prop :=
  ((∀ (s : State) (first second : Bool) (x : LogRec) (rest : List LogRec), s.chip.mayLog = true →
    s.chip.nvc.queue = x :: rest → (first || second) = true →
    ∃ t, exec (.logRecordWrite first second) s = .next t ∧ t.pending = s.pending ∧ t.nv.fuses = s.nv.fuses ∧
      (∀ i, i < 8 → t.nv.logWord s.chip.nvc.ring.val i =
        (x.words (nextSeq (s.chip.reg LOG_SEQ)) s.chip.nvc.lost (s.chip.get LOG_BOOT_BOOT)).getD i 0) ∧
      (∀ r i, i < 8 → r ≠ s.chip.nvc.ring.val → t.nv.logWord r i = s.nv.logWord r i) ∧
      t.chip.reg LOG_SEQ = nextSeq (s.chip.reg LOG_SEQ) ∧ t.chip.get LOG_HEAD_REC = s.chip.nvc.ring.val ∧
      RegsBut [LOG_SEQ, LOG_HEAD] s.chip t.chip ∧
      t.chip = { s.chip with regs := t.chip.regs, nvc := { s.chip.nvc with
        queue := rest, lost := false, ring := nextRing s.chip.nvc.ring } }) ∧
  (∀ s : State, s.chip.mayLog = true → s.chip.nvc.queue ≠ [] →
    ∃ t, exec (.logRecordWrite false false) s = .next t ∧ t.pending = s.pending ∧ t.nv.fuses = s.nv.fuses ∧
      (∀ r i, i < 8 → r ≠ s.chip.nvc.ring.val → t.nv.logWord r i = s.nv.logWord r i) ∧
      t.chip.get LOG_FAILS_FAILS = min (s.chip.get LOG_FAILS_FAILS + 1) LOG_FAILS_FAILS.top ∧
      Raised 0xF3 s.chip t.chip ∧ t.chip.nvc = { s.chip.nvc with ring := nextRing s.chip.nvc.ring } ∧
      FieldsBut [LOG_FAILS_FAILS] s.chip t.chip) ∧
  (∀ (s : State) (first second : Bool), s.chip.mayLog = false ∨ s.chip.nvc.queue = [] →
    exec (.logRecordWrite first second) s = .next s)) ∧
  ((∀ (s : State) (first second : Bool), s.chip.inDark = false →
    ∃ t, exec (.pendingFlush first second) s = .next t ∧ t.pending = s.pending ∧ t.nv.fuses = s.nv.fuses ∧
      t.chip.nvc.pending = [] ∧ t.chip.flag LOG_STATUS_HOLD = false ∧ t.chip.get LOG_STATUS_PENDING = 0 ∧
      ((first || second) = true → t.chip.nvc.queue = []) ∧
      ((first || second) = false → t.chip.nvc.queue = s.chip.nvc.queue ++ s.chip.nvc.pending) ∧
      t.chip.wall = s.chip.wall ∧ t.chip.cues = s.chip.cues) ∧
  (∀ (s : State) (first second : Bool), s.chip.inDark = true → exec (.pendingFlush first second) s = .next s) ∧
  (∀ (s : State) (first second : Bool), s.chip.load.stage = .done → s.chip.mayLog = true →
    ∃ t, exec (.checkpointSlot first second) s = .next t ∧ t.pending = s.pending ∧ t.nv.fuses = s.nv.fuses ∧
      ((first || second) = true →
        (∀ i, i < 8 → t.nv.logWord (s.nv.olderCopy s.chip.nvc.slot) i = (s.chip.slotWords s.chip.nvc.slot).getD i 0) ∧
        t.chip = { s.chip with nvc := { s.chip.nvc with slot := (s.chip.nvc.slot + 1) % 136 } }) ∧
      ((first || second) = false →
        t.chip.get LOG_FAILS_FAILS = min (s.chip.get LOG_FAILS_FAILS + 1) LOG_FAILS_FAILS.top ∧ Raised 0xF3 s.chip t.chip ∧
        t.chip.nvc = { s.chip.nvc with slot := (s.chip.nvc.slot + 1) % 136 }) ∧
      (∀ r i, i < 8 → r ≠ s.nv.olderCopy s.chip.nvc.slot → t.nv.logWord r i = s.nv.logWord r i)) ∧
  (∀ (s : State) (first second : Bool), s.chip.load.stage ≠ .done ∨ s.chip.mayLog = false →
    exec (.checkpointSlot first second) s = .next s) ∧
  (∀ s : State, s.chip.mayLog = true → s.chip.nvc.orderly = some 0 →
    ∃ t, exec .orderlyCheckpoint s = .next t ∧ t.pending = s.pending ∧ t.nv.fuses = s.nv.fuses ∧
      t.chip.nvc.orderly = none ∧ t.chip.flag SYS_STATUS_LOG_BUSY = false ∧ t.chip.flag LOG_STATUS_BUSY = false ∧
      t.chip.nvc.queue = [] ∧ t.nv.logWord (t.chip.get LOG_HEAD_REC) 1 >>> 24 = 3 ∧ t.chip.wall = s.chip.wall ∧
      RegsBut [SYS_STATUS, LOG_STATUS, LOG_SEQ, LOG_HEAD] s.chip t.chip) ∧
  (∀ s : State, s.chip.mayLog = true → s.chip.nvc.orderly = some 1 →
    ∃ t, exec .orderlyCheckpoint s = .next t ∧ t.pending = s.pending ∧ t.nv.fuses = s.nv.fuses ∧
      Started 1 t.nv s.chip.nvc.reads t.chip) ∧
  (∀ s : State, s.chip.mayLog = false ∨ s.chip.nvc.orderly = none → exec .orderlyCheckpoint s = .next s))

/-! ### CAN and the range link -/

/-- Reception and the controller's state (R344 to R346): a frame that matches an acceptance entry joins the queue of 16, where a
known node's timer starts anew, or is lost, counted, with an event; remote frames, and FD frames without FDEN, are ignored; the
counters move the controller between error active and passive, bus-off stops it with an event, and AUTOREC or a requested
recovery brings it back. Nodes and sending (R347 to R349): a heartbeat makes its sender PRESENT, in its slot or in the lowest
free one, or shows that the list is full; a node that stays silent for its time is LOST with an event; FORGET frees its slot;
replies go out in order, and the own heartbeat carries the host status word. -/
def Obligations.CanController : Prop :=
  ((∀ (s : State) (f : CanFrame), s.chip.canOnBus = true → f.remote = false →
    (f.fd = true → s.chip.flag CAN_CFG_FDEN = true) → s.chip.get CAN_STAT_REC ≤ 127 →
    Completes (.canFrameReceived f) s fun c =>
      c.get CAN_STAT_REC = s.chip.get CAN_STAT_REC - 1 ∧ c.canStateOk ∧
      (s.chip.canEntry f = none → c.can = s.chip.can ∧ c.faults = s.chip.faults ∧ RegsBut [CAN_STAT] s.chip c) ∧
      (∀ k, s.chip.canEntry f = some k → s.chip.can.rx.length < 16 →
        c.can = { s.chip.can with rx := s.chip.can.rx ++ [(k, f)], nodeTicks := c.can.nodeTicks } ∧
        (∀ j, c.can.nodeTicks[j] = if s.chip.get (CAN_ACC_W0_KIND k) = 6 ∧ s.chip.nodeOf f = some j then s.chip.now
          else s.chip.can.nodeTicks[j]) ∧ c.faults = s.chip.faults ∧
        RegsBut [CAN_STAT] s.chip c) ∧
      (∀ k, s.chip.canEntry f = some k → 16 ≤ s.chip.can.rx.length →
        c.can = s.chip.can ∧ Raised 0xF8 s.chip c ∧
        c.get CAN_CNT_RXOVF = min (s.chip.get CAN_CNT_RXOVF + 1) CAN_CNT_RXOVF.top ∧
        RegsBut [CAN_STAT, CAN_CNT] s.chip c) ∧
      c = { s.chip with regs := c.regs, fresh := c.fresh, can := c.can, faults := c.faults }) ∧
  (∀ (s : State) (f : CanFrame), s.chip.canOnBus = false ∨ f.remote = true ∨ (f.fd = true ∧ s.chip.flag CAN_CFG_FDEN = false) →
    exec (.canFrameReceived f) s = .next s) ∧
  (∀ s : State, s.chip.canOnBus = true →
    Completes (.canBusError .transmitter) s fun c =>
      c.get CAN_STAT_TEC = min (s.chip.get CAN_STAT_TEC + 8) 255 ∧ c.canStateOk ∧
      FieldsBut [CAN_STAT_TEC, CAN_STAT_STATE] s.chip c ∧ c = { s.chip with regs := c.regs, fresh := c.fresh }) ∧
  (∀ s : State, s.chip.canOnBus = true →
    Completes (.canBusError .receiver) s fun c =>
      (c.get CAN_STAT_REC = min (s.chip.get CAN_STAT_REC + 1) 255 ∨
        c.get CAN_STAT_REC = min (s.chip.get CAN_STAT_REC + 8) 255) ∧ c.canStateOk ∧
      FieldsBut [CAN_STAT_REC, CAN_STAT_STATE] s.chip c ∧
      c = { s.chip with regs := c.regs, fresh := c.fresh, free := c.free }) ∧
  (∀ s : State, s.chip.canOnBus = true →
    Completes .busOff s fun c =>
      c.get CAN_STAT_STATE = 2 ∧ Raised 0xF6 s.chip c ∧ FieldsBut [CAN_STAT_STATE] s.chip c ∧
      c = { s.chip with regs := c.regs, faults := c.faults, can := { s.chip.can with recovering := false } }) ∧
  (∀ (s : State) (role : CanRole), s.chip.canOnBus = false →
    exec (.canBusError role) s = .next s ∧ exec .busOff s = .next s) ∧
  (∀ (s : State) (p : Path), s.chip.serves p → s.chip.get CAN_STAT_STATE = 2 →
    Grants (.busOffRec p) p s fun c => c = { s.chip with can := { s.chip.can with recovering := true } }) ∧
  (∀ (s : State) (p : Path), s.chip.serves p → s.chip.get CAN_STAT_STATE ≠ 2 → Refuses (.busOffRec p) p s .state) ∧
  (∀ s : State, s.chip.canRuns = true → s.chip.get CAN_STAT_STATE = 2 →
    (s.chip.flag CAN_CFG_AUTOREC = true ∨ s.chip.can.recovering = true) →
    Completes .busOffRecovery s fun c =>
      c.get CAN_STAT_STATE = 0 ∧ c.get CAN_STAT_TEC = 0 ∧ c.get CAN_STAT_REC = 0 ∧
      FieldsBut [CAN_STAT_STATE, CAN_STAT_TEC, CAN_STAT_REC] s.chip c ∧
      c = { s.chip with regs := c.regs, can := { s.chip.can with recovering := false } }) ∧
  (∀ s : State, s.chip.flag CAN_CFG_AUTOREC = false → s.chip.can.recovering = false →
    exec .busOffRecovery s = .next s)) ∧
  ((∀ (s : State) (k : Nat) (j : Fin 32) (f : CanFrame), s.chip.canDue 6 k f → s.chip.nodeOf f = some j →
    Completes .heartbeatSupervision s fun c =>
      c.get (CAN_NODE_LOST j.val) = 0 ∧ RegsBut [CAN_NODE j.val, CAN_STAT] s.chip c ∧
      c = { s.chip with regs := c.regs, can := { s.chip.can with rx := s.chip.can.rx.tail } }) ∧
  (∀ (s : State) (k : Nat) (j : Fin 32) (f : CanFrame), s.chip.canDue 6 k f → s.chip.nodeOf f = none →
    nodeSlots.find? (fun i => !s.chip.flag (CAN_NODE_USED i.val)) = some j →
    Completes .heartbeatSupervision s fun c =>
      c.flag (CAN_NODE_USED j.val) = true ∧ c.get (CAN_NODE_ID j.val) = f.id.toNat ∧ c.flag (CAN_NODE_IDE j.val) = f.ide ∧
      c.flag (CAN_NODE_LOST j.val) = false ∧ c.get (CAN_NODE_ENTRY_ENTRY j.val) = k % 64 ∧
      RegsBut [CAN_NODE j.val, CAN_NODE_ENTRY j.val, CAN_STAT] s.chip c ∧
      c = { s.chip with regs := c.regs, can := c.can } ∧
      c.can = { s.chip.can with rx := s.chip.can.rx.tail, nodeTicks := s.chip.can.nodeTicks.set j s.chip.now }) ∧
  (∀ (s : State) (k : Nat) (f : CanFrame), s.chip.canDue 6 k f → s.chip.nodeOf f = none →
    (∀ i : Fin 32, s.chip.flag (CAN_NODE_USED i.val) = true) →
    Completes .heartbeatSupervision s fun c =>
      c.flag CAN_STAT_FULL = true ∧ FieldsBut [CAN_STAT_FULL] s.chip c ∧
      c = { s.chip with regs := c.regs, can := { s.chip.can with rx := s.chip.can.rx.tail } }) ∧
  (∀ (s : State) (j : Fin 32), s.chip.canRuns = true → s.chip.flag (CAN_NODE_USED j.val) = true →
    s.chip.flag (CAN_NODE_LOST j.val) = false → s.chip.nodeOver j = true →
    Completes (.nodeTimeout j) s fun c =>
      c.flag (CAN_NODE_LOST j.val) = true ∧ Raised 0xF7 s.chip c ∧ FieldsBut [CAN_NODE_LOST j.val] s.chip c ∧
      c = { s.chip with regs := c.regs, faults := c.faults }) ∧
  (∀ (s : State) (j : Fin 32), s.chip.canRuns = false ∨ s.chip.flag (CAN_NODE_USED j.val) = false ∨
      s.chip.flag (CAN_NODE_LOST j.val) = true ∨ s.chip.nodeOver j = false →
    exec (.nodeTimeout j) s = .next s) ∧
  (∀ (s : State) (p : Path) (j : Fin 32), s.chip.serves p →
    Grants (.forget p j) p s fun c =>
      c.flag (CAN_NODE_USED j.val) = false ∧ c.flag CAN_STAT_FULL = false ∧
      (∀ f, c.nodeOf f ≠ some j) ∧ RegsBut [CAN_NODE j.val, CAN_NODE_ENTRY j.val, CAN_STAT] s.chip c ∧
      c = { s.chip with regs := c.regs }) ∧
  (∀ (s : State) (x : CanReply) (l : List CanReply), s.chip.canOnBus = true → s.chip.can.tx = x :: l →
    Completes .canReplySend s fun c =>
      c.can = { s.chip.can with tx := l, sent := some x } ∧ c.get CAN_STAT_TEC = s.chip.get CAN_STAT_TEC - 1 ∧
      c.canStateOk ∧ FieldsBut [CAN_STAT_TEC, CAN_STAT_STATE] s.chip c ∧
      c = { s.chip with regs := c.regs, can := c.can }) ∧
  (∀ s : State, s.chip.can.tx = [] → exec .canReplySend s = .next s) ∧
  (∀ s : State, s.chip.canOnBus = true → s.chip.flag CAN_OWNHB_EN = true → s.chip.beatDue = true →
    Completes .ownHeartbeat s fun c =>
      (∃ x, c.can = { s.chip.can with sent := some x, beatTick := some s.chip.now } ∧ x.id.toNat = s.chip.get CAN_OWNHB_ID ∧
        x.ide = s.chip.flag CAN_OWNHB_IDE ∧ x.fd = false ∧ x.data = bytesOf 2 s.chip.statusWord.toNat) ∧
      c.get CAN_STAT_TEC = s.chip.get CAN_STAT_TEC - 1 ∧ c.canStateOk ∧
      FieldsBut [CAN_STAT_TEC, CAN_STAT_STATE] s.chip c ∧ c = { s.chip with regs := c.regs, can := c.can }) ∧
  (∀ s : State, s.chip.canOnBus = false ∨ s.chip.flag CAN_OWNHB_EN = false ∨ s.chip.beatDue = false →
    exec .ownHeartbeat s = .next s))

/-- Judged frames (R345, R347, Table 14-2): each leaves the queue and has the effect that the host's request of its kind has; a
frame too short for its kind, or a wide read that is no FD frame, is refused with RANGE and has none, a read that finds the
transmit queue full with BUSY; with RPLY the answer waits to be sent. -/
def Obligations.CanRequests : Prop :=
  (∀ (s : State) (k : Nat) (f : CanFrame), s.chip.canDue 1 k f → 4 ≤ f.data.length →
    ∃ t, exec .canWrite s = .next t ∧ t.pending = s.pending ∧
      let w := ({ s with chip := s.chip.canPop } : State).writeReg .can (s.chip.canTarget k) (BitVec.ofNat 32 (canNum f 0 4))
      t.nv = w.nv ∧ Replied k f w.chip.can.reason (zeroBytes 7) w.chip t.chip) ∧
  (∀ (s : State) (k : Nat) (f : CanFrame), s.chip.canDue 1 k f → f.data.length < 4 →
    Completes .canWrite s (Replied k f .range (zeroBytes 7) s.chip.canPop)) ∧
  (∀ (s : State) (k : Nat) (f : CanFrame), s.chip.canDue 2 k f → s.chip.can.tx.length < 8 →
    s.chip.flag (CAN_ACC_W3_WIDE k) = false →
    Completes .canRead s fun c =>
      let x := Chip.readReg s.nv .can (s.chip.canTarget k) s.chip.canPop
      Replied k f .ok (zeroBytes 3 ++ bytesOf 4 x.2.toNat) ((x.1.setReg CAN_RDBUF x.2).setReg CAN_RDBUFH 0) c) ∧
  (∀ (s : State) (k : Nat) (f : CanFrame), s.chip.canDue 2 k f → s.chip.can.tx.length < 8 →
    s.chip.flag (CAN_ACC_W3_WIDE k) = true → f.fd = true →
    Completes .canRead s fun c =>
      let x := Chip.readReg s.nv .can (s.chip.canTarget k) s.chip.canPop
      let y := Chip.readReg s.nv .can (s.chip.canTarget k + 4) x.1
      Replied k f .ok (zeroBytes 3 ++ (bytesOf 4 x.2.toNat ++ bytesOf 4 y.2.toNat))
        ((y.1.setReg CAN_RDBUF x.2).setReg CAN_RDBUFH y.2) c) ∧
  (∀ (s : State) (k : Nat) (f : CanFrame), s.chip.canDue 2 k f → s.chip.flag (CAN_ACC_W3_WIDE k) = true → f.fd = false →
    Completes .canRead s (Replied k f .range (zeroBytes 7) s.chip.canPop)) ∧
  (∀ (s : State) (k : Nat) (f : CanFrame), s.chip.canDue 2 k f → 8 ≤ s.chip.can.tx.length →
    (s.chip.flag (CAN_ACC_W3_WIDE k) = true → f.fd = true) →
    Completes .canRead s
      (Replied k f .busy (zeroBytes (if s.chip.flag (CAN_ACC_W3_WIDE k) && f.fd then 11 else 7)) s.chip.canPop)) ∧
  (∀ (s : State) (k : Nat) (f : CanFrame), s.chip.canDue 3 k f →
    Completes .canSetpoint s fun c =>
      let a := s.chip.canAxis k
      let j := if 7 ≤ f.data.length then
          s.chip.canPop.setpoint .can a ⟨BitVec.ofNat 32 (canNum f 0 4), canNum f 4 2, (canNum f 6 1).testBit 0⟩
        else (s.chip.canPop, .range)
      let b := j.1.answer .can j.2
      Replied k f j.2 (bytesOf 2 (canNum f 4 2) ++ bytesOf 1 (b.get (AX_STRSTAT_CREDITS a.val)) ++ zeroBytes 4) b c) ∧
  (∀ (s : State) (k : Nat) (f : CanFrame), s.chip.canDue 4 k f →
    Completes .canCueWrite s fun c =>
      let j := if cueFormOk f = true then s.chip.canPop.cueWrite .can (canNum f 0 2) (BitVec.ofNat 64 (canNum f 2 8))
        else (s.chip.canPop, .range)
      let b := j.1.answer .can j.2
      Replied k f j.2 (bytesOf 2 (canNum f 0 2) ++ bytesOf 1 (j.2 == .ok && b.flag CUE_STATUS_BEHIND).toNat ++ zeroBytes 4) b c) ∧
  (∀ (s : State) (k : Nat) (f : CanFrame), s.chip.canDue 5 k f →
    Completes .canCurveInput s fun c =>
      let j := if 2 ≤ f.data.length then
          s.chip.canPop.writeCin .can (s.chip.canAxis k) (BitVec.ofNat 16 (canNum f 0 2))
        else (s.chip.canPop, .range)
      Replied k f j.2 (zeroBytes 7) (j.1.answer .can j.2) c)

/-- Training (R356, R357): HELLOs are collected until the ring closes; two packages of one address, a wrong number of packages and a
ring without a keeper end it with their causes; the keeper that closes the ring sends START and is up, a follower in HOUSE is up
with its START; the time limit and RETRAIN as the rules have them. -/
def Obligations.RangeTraining : Prop :=
  (∀ (s : State) (f : RngFrame), s.chip.rngTrains = true → rngOk f = true → f.type = 1 →
    let h := s.chip.hear f
    let n := s.chip.get RNG_CFG_NPKG
    let closed := h.rng.back = some (n + 1) ∧ h.rng.heard.length = n
    Completes (.helloFrame f) s fun c =>
      (h.rng.duplicate = true → RangeIdle 1 s.chip c) ∧
      (h.rng.duplicate = false → n < h.rng.heard.length → RangeIdle 2 s.chip c) ∧
      (h.rng.duplicate = false → h.rng.heard.length ≤ n → ¬closed →
        c.rng.heard = h.rng.heard ∧ c.rng.back = h.rng.back ∧ RangeHeard f s.chip c ∧ c = { s.chip with rng := c.rng }) ∧
      (h.rng.duplicate = false → closed → h.keeper = none → RangeIdle 3 s.chip c) ∧
      (∀ a hops, h.rng.duplicate = false → closed → h.keeper = some (a, hops) →
        c.get RNG_STAT_KADDR = a.toNat ∧ c.flag RNG_STAT_NOPUB = h.unpublished ∧
        (a ≠ s.chip.rngAddr → c.get RNG_STAT_STATE = 1) ∧
        (a = s.chip.rngAddr → c.rngUp = true ∧ c.flag RNG_STAT_KEEPER = true ∧ c.rng.downLive = false ∧
          ∃ x, c.rng.sent = some x ∧ x.type = 2 ∧ x.src = a ∧ x.payload = BitVec.ofNat 64 c.rng.startTick) ∧
        RegsBut [RNG_STAT] s.chip c ∧ c = { s.chip with regs := c.regs, rng := c.rng, free := c.free })) ∧
  (∀ (s : State) (f : RngFrame), s.chip.rngUp = true → rngOk f = true → f.type = 1 →
    Completes (.helloFrame f) s fun c => RangeHeard f s.chip c ∧ c = { s.chip with rng := c.rng }) ∧
  (∀ (s : State) (f : RngFrame), s.chip.rngTrains = true → s.chip.inHouse = true → rngOk f = true → f.type = 2 →
    f.src ≠ s.chip.rngAddr →
    Completes (.startFrame f) s fun c =>
      c.rngUp = true ∧ c.get RNG_STAT_KADDR = f.src.toNat ∧ c.rng.startTick = f.payload.toNat ∧ c.rng.downLive = false ∧
      c.rng.slotTick = none ∧ c.now = s.chip.now ∧
      c.get (CUE_TB_STAT_JUMP 20) = 1 ∧ (c.tb 20).jumpDue = true ∧
      FieldsBut [RNG_STAT_STATE, RNG_STAT_KADDR, CUE_TB_STAT_JUMP 20] s.chip c ∧
      c = { s.chip with regs := c.regs, rng := c.rng, tbs := c.tbs, free := c.free, wall := c.wall }) ∧
  (∀ (s : State) (f : RngFrame), rngOk f = true → f.type = 2 →
    s.chip.rngUp = true ∨ (s.chip.rngTrains = true ∧ (s.chip.inHouse = false ∨ f.src = s.chip.rngAddr)) →
    Completes (.startFrame f) s fun c => RangeHeard f s.chip c ∧ c = { s.chip with rng := c.rng }) ∧
  (∀ s : State, s.chip.rngTrains = true → (∀ t, s.chip.rng.helloTick = some t → t + 12500 ≤ s.chip.now) →
    Completes .helloSend s fun c =>
      RangeSent 1 0 ((s.chip.reg SYS_IMGID ++ s.chip.published ++ BitVec.ofNat 8 (s.chip.get RNG_CFG_KEEPER_OK)).zeroExtend 64)
        s.chip c ∧ c = { s.chip with rng := { s.chip.rng with sent := c.rng.sent, helloTick := some s.chip.now } }) ∧
  (∀ (s : State) (t : Nat), s.chip.rngTrains = false ∨ (s.chip.rng.helloTick = some t ∧ s.chip.now < t + 12500) →
    exec .helloSend s = .next s) ∧
  (∀ s : State, s.chip.rngTrains = false ∨ s.chip.now < s.chip.rng.trainFrom + 2500000 →
    exec .trainingTimeout s = .next s) ∧
  (∀ s : State, s.chip.rngTrains = true → s.chip.rng.trainFrom + 2500000 ≤ s.chip.now →
    Completes .trainingTimeout s fun c =>
      (s.chip.rng.back = none → RangeIdle 4 s.chip c) ∧
      (∀ h, s.chip.rng.back = some h → h ≠ s.chip.rng.heard.length + 1 → RangeIdle 1 s.chip c) ∧
      (s.chip.rng.back = some (s.chip.rng.heard.length + 1) → s.chip.rng.heard.length ≠ s.chip.get RNG_CFG_NPKG →
        RangeIdle 2 s.chip c) ∧
      (s.chip.rng.back = some (s.chip.rng.heard.length + 1) → s.chip.rng.heard.length = s.chip.get RNG_CFG_NPKG →
        RangeIdle 4 s.chip c) ∧
      c.faults = s.chip.faults) ∧
  (∀ (s : State) (p : Path), s.chip.serves p → s.chip.inHouse = true → s.chip.get RNG_STAT_STATE ≠ 2 →
    s.chip.rngOn = true →
    Grants (.retrain p) p s fun c =>
      c.rngTrains = true ∧ c.rng.heard = [] ∧ c.rng.back = none ∧ c.rng.duplicate = false ∧
      c.rng.trainFrom = s.chip.now ∧ c.rng.helloTick = none ∧
      (∀ x ∈ s.chip.subscribed, (c.tb x.2).lost = true) ∧ RegsBut [RNG_STAT] s.chip c ∧
      c = { s.chip with regs := c.regs, tbs := c.tbs, rng := c.rng }) ∧
  (∀ (s : State) (p : Path), s.chip.serves p →
    s.chip.inHouse = false ∨ s.chip.get RNG_STAT_STATE = 2 ∨ s.chip.rngOn = false → Refuses (.retrain p) p s .state)

/-- Frames that fail (R354, R355, R361): while the link neither trains nor is up nothing is received; a frame with a wrong CRC or a
code violation is forwarded, counts one event of RNG_CRC and has no other effect; the fourth in a row takes the link down; a
good frame of another TYPE than the row's does not arise as this row. Frames of the cycle (R357 to R361, R368, Table 14-5): POS
feeds the timebases that subscribe to its masters, or ends their source where it says STALE; SYNC shows the error and the ring
delay, and its third large error in a row takes the link down; FAULT is one event of RNG_REMOTE with its code for all axes; a
missing SYNC takes the link down. -/
def Obligations.RangeCycle : Prop :=
  (∀ (s : State) (f : RngFrame) (err : Int) (i : Instr) (type : BitVec 3),
    (i, type) ∈ [(Instr.statusFrame f, 0), (.helloFrame f, 1), (.startFrame f, 2), (.syncFrame f err, 3), (.posFrame f, 4),
      (.faultFrame f, 5)] →
    (s.chip.rngTrains = false → s.chip.rngUp = false → exec i s = .next s) ∧
    (rngOk f = true → f.type ≠ type → exec i s = .next s) ∧
    (s.chip.rngTrains = true ∨ s.chip.rngUp = true → rngOk f = false → s.chip.rng.crcRun < 3 ∨ s.chip.rngUp = false →
      Completes i s fun c =>
        Raised 0xFA s.chip c ∧
        c = { s.chip with faults := c.faults, rng := { s.chip.rng with
          crcRun := s.chip.rng.crcRun + 1
          forwarded := if f.src = s.chip.rngAddr then s.chip.rng.forwarded else some f } }) ∧
    (s.chip.rngUp = true → rngOk f = false → 3 ≤ s.chip.rng.crcRun →
      Completes i s fun c =>
        RangeDown 6 s.chip c ∧
        c.faults.events = s.chip.faults.events ++ [⟨0xFA, 1, 0, 0, false⟩, ⟨0xF9, 1, 0, 0, false⟩])) ∧
  ((∀ (s : State) (f : RngFrame), s.chip.rngUp = true ∨ s.chip.rngTrains = true → rngOk f = true → f.type = 0 →
    Completes (.statusFrame f) s fun c => RangeHeard f s.chip c ∧ c = { s.chip with rng := c.rng }) ∧
  (∀ (s : State) (f : RngFrame), s.chip.rngUp = true → rngOk f = true → f.type = 4 →
    Completes (.posFrame f) s fun c =>
      RangeHeard f s.chip c ∧
      (∀ x ∈ s.chip.subscribed, x.1 / 2 = f.src.toNat →
        (f.stale.getLsbD (x.1 % 2) = true → c.tb x.2 = { s.chip.tb x.2 with lost := true }) ∧
        (f.stale.getLsbD (x.1 % 2) = false →
          (c.tb x.2).src = (f.payload >>> (32 * (x.1 % 2))).truncate 32 ∧ (c.tb x.2).lost = false ∧
          (c.tb x.2).ext = (c.tb x.2).speed * (s.chip.sinceSlot f.slot.toNat : Int) ∧
          (c.tb x.2).seeded = true ∧ ((s.chip.tb x.2).lost = true → (c.tb x.2).jumpDue = true))) ∧
      (∀ n, (∀ x ∈ s.chip.subscribed, x.2 = n → x.1 / 2 ≠ f.src.toNat) → c.tb n = s.chip.tb n) ∧
      c = { s.chip with rng := c.rng, tbs := c.tbs }) ∧
  (∀ (s : State) (f : RngFrame) (err : Int), s.chip.rngUp = true → rngOk f = true → f.type = 3 → f.src ≠ s.chip.rngAddr →
    Completes (.syncFrame f err) s fun c =>
      c.get RNG_SKEW_ERR = wrapTo (RNG_SKEW_ERR.hi + 1 - RNG_SKEW_ERR.lo) err ∧ c.get RNG_STAT_RT = (f.payload >>> 48).toNat ∧
      (16 < err.natAbs → s.chip.rng.skewRun < 2 → c.rng.skewRun = s.chip.rng.skewRun + 1) ∧
      (err.natAbs ≤ 16 → c.rng.skewRun = 0) ∧
      (err.natAbs ≤ 16 ∨ s.chip.rng.skewRun < 2 →
        RangeHeard f s.chip c ∧ FieldsBut [RNG_SKEW_ERR, RNG_STAT_RT] s.chip c ∧
        c = { s.chip with regs := c.regs, rng := c.rng }) ∧
      (err.natAbs ≤ 16 ∨ s.chip.rng.skewRun < 2 → c.rng.syncTick = s.chip.now) ∧
      (16 < err.natAbs → 2 ≤ s.chip.rng.skewRun → RangeIdle 7 s.chip c ∧ Raised 0xF9 s.chip c ∧ c.rng.downLive = true)) ∧
  (∀ (s : State) (f : RngFrame), s.chip.rngUp = true → rngOk f = true → f.type = 5 → f.src ≠ s.chip.rngAddr →
    Completes (.faultFrame f) s fun c =>
      RangeHeard f s.chip c ∧
      c.faults.events = s.chip.faults.events ++ [⟨0xFB, 1, (f.payload.extractLsb' 8 3).toNat, 0xFF, false⟩] ∧
      c = { s.chip with rng := c.rng, faults := { s.chip.faults with events := c.faults.events } }) ∧
  (∀ (s : State) (f : RngFrame) (err : Int), s.chip.rngUp = true → rngOk f = true → f.src = s.chip.rngAddr →
    (f.type = 3 → Completes (.syncFrame f err) s fun c =>
      RangeHeard f s.chip c ∧ c.rng.syncTick = s.chip.now ∧ c = { s.chip with rng := c.rng }) ∧
    (f.type = 5 → Completes (.faultFrame f) s fun c => RangeHeard f s.chip c ∧ c = { s.chip with rng := c.rng })) ∧
  (∀ s : State, s.chip.rngUp = true → s.chip.rng.syncTick + 12000 ≤ s.chip.now →
    Completes .syncTimeout s fun c => RangeDown 5 s.chip c ∧ Raised 0xF9 s.chip c) ∧
  (∀ s : State, s.chip.rngUp = false ∨ s.chip.now < s.chip.rng.syncTick + 12000 → exec .syncTimeout s = .next s))

/-- The package's own slots (R358 to R360, Table 14-5), each as it begins in the cycle and once: a FAULT that waits goes first, the
oldest of them; then SYNC where this package is the keeper and the slot one of the first four; then POS where it publishes; else
STATUS. -/
def Obligations.RangeSlots : Prop :=
  ∀ (s : State) (slot : Fin 8),
    (s.chip.rngUp = true → slot.val % 4 = s.chip.rngAddr.toNat → s.chip.rng.startTick ≤ s.chip.wall →
      (s.chip.wall - s.chip.rng.startTick) % 4000 = 500 * slot.val → s.chip.rng.slotTick ≠ some s.chip.now →
      Completes (.slotStart slot) s fun c =>
        (∀ m l, s.chip.rng.faultQ = m :: l →
          RangeSent 5 (BitVec.ofNat 3 slot.val) (BitVec.ofNat 64 (m.src + 256 * m.code + 65536 * (m.tick % 2 ^ 32))) s.chip c ∧
          c.rng.faultQ = l) ∧
        (s.chip.rng.faultQ = [] → s.chip.flag RNG_STAT_KEEPER = true → slot.val < 4 →
          RangeSent 3 (BitVec.ofNat 3 slot.val) (BitVec.ofNat 64 (s.chip.wall % 2 ^ 48 + 2 ^ 48 * s.chip.get RNG_STAT_RT))
            s.chip c) ∧
        (s.chip.rng.faultQ = [] → (s.chip.flag RNG_STAT_KEEPER = false ∨ 4 ≤ slot.val) → s.chip.published ≠ 0 →
          RangeSent 4 (BitVec.ofNat 3 slot.val) ((s.chip.pubPart true).1 ++ (s.chip.pubPart false).1) s.chip c) ∧
        (s.chip.rng.faultQ = [] → (s.chip.flag RNG_STAT_KEEPER = false ∨ 4 ≤ slot.val) → s.chip.published = 0 →
          RangeSent 0 (BitVec.ofNat 3 slot.val) (s.chip.statusWord.zeroExtend 64) s.chip c) ∧
        c = { s.chip with rng := { s.chip.rng with sent := c.rng.sent, faultQ := c.rng.faultQ, slotTick := some s.chip.now } }) ∧
    (s.chip.rngUp = false ∨ slot.val % 4 ≠ s.chip.rngAddr.toNat ∨ s.chip.wall < s.chip.rng.startTick ∨
      (s.chip.wall - s.chip.rng.startTick) % 4000 ≠ 500 * slot.val ∨ s.chip.rng.slotTick = some s.chip.now → exec (.slotStart slot) s = .next s)

/-! ### Host port and registers -/

/-- Host-port frames (R12, R338 to R343, Table 14-1): while nRESET is low none is taken; an early one, one of a wrong length and one
with a wrong CRC are discarded without effect, the last two with their bit and an event of HP_CRC; a NOP has no effect, a CMD
outside the table is refused with RANGE, a WRITE writes its register; every frame counts, before its effect, and the next one
answers it. -/
def Obligations.HostFrames : Prop :=
  (∀ (s : State) (f : HostFrame) (i : Instr), i ∈ [Instr.nop f, .read f, .write f, .hpRdbufRead f] →
    (s.chip.load.stage = .held → exec i s = .next s) ∧
    (s.chip.load.stage ≠ .held → f.early = true →
      Completes i s fun c =>
        Framed f.cmd ⟨0xFFFF, 0xFF, 0xFFFFFFFF⟩ s.chip c ∧ c.hp.reason = .ok ∧ c.hp.data = 0 ∧ c.hp.crcErr = true ∧
        c = { s.chip with hp := c.hp }) ∧
    (s.chip.load.stage ≠ .held → f.early = false → f.clocks ≠ 72 ∨ hostCrcOk f = false →
      Completes i s fun c =>
        Framed f.cmd s.chip.hpAnswer s.chip c ∧ c.hp.reason = .ok ∧ c.hp.data = 0 ∧ c.hp.crcErr = true ∧
        c.get (if f.clocks = 72 then HP_STAT_CRC else HP_STAT_LENGTH) = 1 ∧ Raised 0xF4 s.chip c ∧
        FieldsBut [if f.clocks = 72 then HP_STAT_CRC else HP_STAT_LENGTH] s.chip c ∧
        c = { s.chip with regs := c.regs, fresh := c.fresh, faults := c.faults, hp := c.hp }) ∧
    (s.chip.load.stage ≠ .held → hostOk f = true → f.cmd = 0 ∨ 3 ≤ f.cmd.toNat →
      Completes i s fun c =>
        Framed f.cmd s.chip.hpAnswer s.chip c ∧ c.hp.reason = (if f.cmd = 0 then .ok else .range) ∧ c.hp.data = 0 ∧
        c.hp.crcErr = false ∧ c = { s.chip with hp := c.hp }) ∧
    (s.chip.load.stage ≠ .held → hostOk f = true → f.cmd = 2 →
      exec i s = .next (({ s with chip := s.chip.framing f.cmd } : State).writeReg .host f.addr.toNat f.data))) ∧
  (∀ s : State, s.chip.load.stage ≠ .held →
    Completes .hpTimeout s fun c =>
      c.hp.frames = (s.chip.hp.frames + 1) % 8 ∧ c.hp.out = s.chip.hpAnswer ∧ c.hp.reason = .ok ∧ c.hp.data = 0 ∧
      c.hp.crcErr = true ∧ c.get HP_STAT_TIMEOUT = 1 ∧ Raised 0xF5 s.chip c ∧ FieldsBut [HP_STAT_TIMEOUT] s.chip c ∧
      c = { s.chip with regs := c.regs, fresh := c.fresh, faults := c.faults, hp := c.hp, free := c.free }) ∧
  (∀ s : State, s.chip.load.stage = .held → exec .hpTimeout s = .next s)

/-- READ frames (R6, R7, R299, R315, R341, R372): the value appears in the next frame and in HP_RDBUF, an RC field clears with its
read, but for what the part has added in the tick, which the read does not return; a READ of HP_RDBUF leaves it; a reserved
address reads 0 and is an access error; during a start sequence a READ outside the SYS block is refused with BUSY. -/
def Obligations.HostReads : Prop :=
  ∀ (s : State) (f : HostFrame) (i : Instr), i ∈ [Instr.read f, .hpRdbufRead f] → s.chip.load.stage ≠ .held →
    hostOk f = true → f.cmd = 1 →
    (∀ r : RegRow, s.chip.plainRead .host r f.addr.toNat → s.chip.readOpen f.addr.toNat = true →
      Completes i s fun c =>
        let rc : Word := BitVec.ofNat 32 r.rc
        let new := cellsGet zeros s.chip.fresh f.addr.toNat &&& rc
        Framed f.cmd s.chip.hpAnswer s.chip c ∧ c.hp.reason = .ok ∧ c.reg HP_RDBUF = c.hp.data ∧
        (new = 0 → c.hp.data = s.chip.shown s.nv f.addr.toNat) ∧
        (new ≠ 0 → c.hp.data = (s.chip.shown s.nv f.addr.toNat &&& ~~~rc) |||
          (cellsGet regReset s.chip.tickRegs f.addr.toNat &&& rc)) ∧
        (f.addr.toNat ≠ HP_RDBUF → c.reg f.addr.toNat = (s.chip.reg f.addr.toNat &&& ~~~rc) ||| new) ∧
        RegsBut [f.addr.toNat, HP_RDBUF] s.chip c ∧
        c = { s.chip with regs := c.regs, tickRegs := c.tickRegs, hp := c.hp }) ∧
    (f.addr.toNat = HP_RDBUF → s.chip.readOpen HP_RDBUF = true → s.chip.held .host HP_RDBUF = none →
      Completes i s fun c =>
        c.hp.data = s.chip.reg HP_RDBUF ∧ c.reg HP_RDBUF = s.chip.reg HP_RDBUF ∧ c.hp.reason = .ok) ∧
    (findRow f.addr.toNat = none → cueWord f.addr.toNat = none → s.chip.readOpen f.addr.toNat = true →
      Completes i s fun c =>
        Framed f.cmd s.chip.hpAnswer s.chip c ∧ c.hp.reason = .ok ∧ c.hp.data = 0 ∧ c.reg HP_RDBUF = 0 ∧
        AccessNoted 0 false (if f.addr.toNat % 4 = 0 then 0 else 1) f.addr.toNat s.chip c ∧
        RegsBut [FLT_ACC, FLT_ACCA, FLT_ACCT, FLT_ACCTH, HP_RDBUF] s.chip c ∧
        c = { s.chip with regs := c.regs, faults := c.faults, hp := c.hp }) ∧
    (s.chip.booting = true → 0x28 ≤ f.addr.toNat →
      Completes i s fun c =>
        Framed f.cmd s.chip.hpAnswer s.chip c ∧ c.hp.reason = .busy ∧ c.hp.data = 0 ∧ c = { s.chip with hp := c.hp })

/-- Register writes (R4, R6 to R9, R299, R315, R372): where the register has no row of its own, RW fields take the data, W1C bits
with a 1 clear unless the part has set them in this tick, every other bit stays; a register without such a field is refused with
LOCKED; a start sequence refuses with BUSY, DARK with STATE; a reserved address changes nothing and is an access error; a write
to SYS_PWR or RNG_CMD is the row that its data name. -/
def Obligations.RegisterWrites : Prop :=
  (∀ (s : State) (p : Path) (a : BitVec 24) (w : Word) (r : RegRow), s.chip.carries p = true →
    s.chip.plainRow s.nv p r a.toNat w → r.rw ≠ 0 ∨ r.wo ≠ 0 ∨ r.w1c ≠ 0 →
    (s.chip.booting = true → Refuses (.registerWrite p a w) p s .busy) ∧
    (s.chip.booting = false → s.chip.inDark = true → writeOpen a.toNat = false → Refuses (.registerWrite p a w) p s .state)) ∧
  (∀ (s : State) (p : Path) (w : Word) (i : Instr) (t : Nat),
    (i, t) ∈ [(Instr.sysPwrDark p, 0), (.sysPwrHouse p, 1), (.sysPwrStandby p, 2), (.sysPwrShow p, 3)] →
    (SYS_PWR_TARGET.read w = t → exec (.registerWrite p (BitVec.ofNat 24 SYS_PWR) w) s = exec i s) ∧
    (RNG_CMD_RETRAIN.read w = 1 → exec (.registerWrite p (BitVec.ofNat 24 RNG_CMD) w) s = exec (.retrain p) s)) ∧
  ∀ (s : State) (p : Path) (a : BitVec 24) (w : Word), s.chip.serves p →
    (∀ r : RegRow, s.chip.plainRow s.nv p r a.toNat w → r.rw ≠ 0 ∨ r.wo ≠ 0 ∨ r.w1c ≠ 0 →
      Grants (.registerWrite p a w) p s fun c =>
        (∀ i, i < 32 → (c.reg a.toNat).getLsbD i =
          ((if r.rw.testBit i then w.getLsbD i else (s.chip.reg a.toNat).getLsbD i) &&
            !(r.w1c.testBit i && w.getLsbD i && !(cellsGet zeros s.chip.fresh a.toNat).getLsbD i))) ∧
        RegsBut [a.toNat] s.chip c ∧ c = { s.chip with regs := c.regs }) ∧
    (∀ r : RegRow, s.chip.plainRow s.nv p r a.toNat w → r.rw = 0 → r.wo = 0 → r.w1c = 0 →
      Refuses (.registerWrite p a w) p s .locked) ∧
    (findRow a.toNat = none → cueWord a.toNat = none →
      Grants (.registerWrite p a w) p s fun c =>
        AccessNoted (match p with | .host => 0 | .can => 1) true (if a.toNat % 4 = 0 then 0 else 1) a.toNat s.chip c ∧
        RegsBut [FLT_ACC, FLT_ACCA, FLT_ACCT, FLT_ACCTH] s.chip c ∧
        c = { s.chip with regs := c.regs, faults := c.faults })

/-- R376: the LOG window is read-only; a write to any of its words is refused with LOCKED and is no access error, and a read returns
the word of its record as it stands. -/
def Obligations.LogWindow : Prop :=
  (∀ (s : State) (p : Path) (r : Fin 1024) (j : Fin 8) (w : Word), s.chip.serves p →
    Refuses (.registerWrite p (BitVec.ofNat 24 (0x030000 + 32 * r.val + 4 * j.val)) w) p s .locked) ∧
  (∀ (s : State) (f : HostFrame) (r : Fin 1024) (j : Fin 8), f.addr.toNat = 0x030000 + 32 * r.val + 4 * j.val →
    s.chip.load.stage ≠ .held → hostOk f = true → f.cmd = 1 → s.chip.readOpen f.addr.toNat = true →
    s.chip.held .host f.addr.toNat = none →
    Completes (.read f) s fun c =>
      c.hp.reason = .ok ∧ c.hp.data = s.nv.logWord r.val j.val ∧ c.reg HP_RDBUF = s.nv.logWord r.val j.val ∧
      c.faults = s.chip.faults)

/-! ### The block as a whole -/

/-- A step takes the command at the front of the queue and runs it on the state with the queue's rest; an empty queue leaves the
block idle (log entry 4). -/
def Obligations.StepRunsTheQueueHead : Prop :=
  (∀ (s : State) (i : Instr) (rest : List Instr),
    step { s with pending := i :: rest } = exec i { s with pending := rest }) ∧
  (∀ s : State, s.pending = [] → step s = .next s)

/-- No command stops the block, none looks at the queue or changes it, and only the commands that may write the logbook or burn
fuses touch what is not volatile. -/
def Obligations.EveryCommandAnswers : Prop :=
  ∀ (i : Instr) (s : State), ∃ t, exec i s = .next t ∧ t.pending = s.pending ∧
    (match i with
     | .nop _ | .read _ | .write _ | .hpRdbufRead _ | .registerWrite _ _ _ | .canWrite | .otpVerify _ | .logRecordWrite _ _
     | .pendingFlush _ _ | .checkpointSlot _ _ | .orderlyCheckpoint | .reset _ _ | .lifecycleChange _ _ _ _ _ => True
     | _ => t.nv = s.nv)

/-- A fuse bit that is 1 before a step is 1 after it (R321). -/
def Obligations.FusesNeverClear : Prop := ∀ s t : State, step s = .next t → FusesKept s.nv t.nv

/-- Every step keeps the canonical form of the fuse array and the logbook. -/
def Obligations.StoresStayCanonical : Prop := ∀ s t : State, s.nv.wf = true → step s = .next t → t.nv.wf = true

/-- Reset leaves every memory in its canonical form, every register at its reset word, the wall tick at 0, every gate off, no source
latched, no command waiting, and BOOT shown (R2, R297, R298, R374). -/
def Obligations.ResetState : Prop :=
  State.reset.wf = true ∧ (∀ a, State.reset.chip.reg a = regReset a) ∧ State.reset.chip.wall = 0 ∧
  (∀ l, (State.reset.chip.leg l).ghOn = false ∧ (State.reset.chip.leg l).glOn = false) ∧
  State.reset.chip.faults.latched = [] ∧ State.reset.pending = [] ∧ State.reset.chip.booting = true ∧
  State.reset.chip.inHouse = true ∧ State.reset.chip.cfgOk = false ∧ State.reset.chip.flag BEACON_CTL_LEVEL = false ∧
  (∀ p, (State.reset.chip.port p).hiZ = true) ∧ exec .nresetFall State.reset = .next State.reset

/-- R11: of the refusing conditions that a request meets, the one with the lowest nonzero code is reported; a request that meets
none is accepted. -/
def Obligations.LowestReasonIsReported : Prop :=
  ∀ (c : Chip) (l : List (Bool × Reason)) (f : Chip → Chip), (∀ x ∈ l, x.2 ≠ .ok) →
    ((∀ x ∈ l, x.1 = false) → c.request l f = (f c, .ok)) ∧
    ((∃ x ∈ l, x.1 = true) →
      ∃ r, c.request l f = (c, r) ∧ r ≠ .ok ∧ (true, r) ∈ l ∧ ∀ x ∈ l, x.1 = true → r.toNat ≤ x.2.toNat)

/-- R366: a command into HOME is refused with STATE while the source in use is sensorless. -/
def Obligations.HomeNeedsASensor : Prop :=
  ∀ (s : State) (p : Path) (a : Axis) (back : Bool), s.chip.serves p → s.chip.usesSensorless a = true →
    Refuses (.home p a back) p s .state

/-- R290: outside a pulse BEACON follows LEVEL, 1 holding the pin low; LEVEL resets to 0, the collector never changes it; while
nRESET is low the pin is released. -/
def Obligations.BeaconFollowsLevel : Prop :=
  (∀ c : Chip, c.load.stage ≠ .held → c.flag BEACON_CTL_PULSING = false → c.beaconLow = c.flag BEACON_CTL_LEVEL) ∧
  regReset BEACON_CTL_LEVEL.addr &&& BEACON_CTL_LEVEL.mask = 0 ∧
  (∀ (s : State) (x : Src) (i : Instr), i ∈ [Instr.faultCollectorTick, .severityWindowExpiry x, .beaconPulseEnd] →
    ∃ t, exec i s = .next t ∧ t.chip.get BEACON_CTL_LEVEL = s.chip.get BEACON_CTL_LEVEL) ∧
  (∀ c : Chip, c.load.stage = .held → c.beaconLow = false)
end

