-- ==== Sys2Proof/Laws/Store.lean ====
section
/-! SUPPORT. The laws of the sparse arrays: a read after a write to the same place, a write leaves every other place
alone, and every operation keeps the canonical form. -/
namespace Sys2Proof.Machine

variable {w : Nat}

theorem cellsFind_erase_same (m : Cells w) (k : Nat) : cellsFind (cellsErase m k) k = none := by
  induction m with
  | nil => rfl
  | cons x m ih =>
    obtain ⟨a, u⟩ := x
    by_cases h : a = k <;> simp [cellsErase, cellsFind, h, ih]

theorem cellsFind_erase_ne (m : Cells w) {k j : Nat} (h : j ≠ k) : cellsFind (cellsErase m k) j = cellsFind m j := by
  induction m with
  | nil => rfl
  | cons x m ih =>
    obtain ⟨a, u⟩ := x
    by_cases hk : a = k
    · subst hk
      simp [cellsErase, cellsFind, ih, Ne.symm h]
    · rw [show cellsErase ((a, u) :: m) k = (a, u) :: cellsErase m k by simp [cellsErase, hk]]
      by_cases hj : a = j <;> simp [cellsFind, hj, ih]

theorem cellsFind_place_ne (m : Cells w) (v : BitVec w) {k j : Nat} (h : j ≠ k) :
    cellsFind (cellsPlace m k v) j = cellsFind m j := by
  induction m with
  | nil => simp [cellsPlace, cellsFind, Ne.symm h]
  | cons x m ih =>
    obtain ⟨a, u⟩ := x
    by_cases hk : k < a
    · simp [cellsPlace, cellsFind, hk, Ne.symm h]
    · rw [show cellsPlace ((a, u) :: m) k v = (a, u) :: cellsPlace m k v by simp [cellsPlace, hk]]
      by_cases hj : a = j <;> simp [cellsFind, hj, ih]

theorem cellsFind_place_same (m : Cells w) (k : Nat) (v : BitVec w) (h : cellsFind m k = none) :
    cellsFind (cellsPlace m k v) k = some v := by
  induction m with
  | nil => simp [cellsPlace, cellsFind]
  | cons x m ih =>
    obtain ⟨a, u⟩ := x
    by_cases ha : a = k
    · simp [cellsFind, ha] at h
    · by_cases hk : k < a
      · simp [cellsPlace, cellsFind, hk]
      · simp [cellsPlace, cellsFind, hk, ha]
        exact ih (by simpa [cellsFind, ha] using h)

/-- A read after a write to the same place gives the value written. -/
theorem cellsGet_set_same (d : Nat → BitVec w) (m : Cells w) (k : Nat) (v : BitVec w) :
    cellsGet d (cellsSet d m k v) k = v := by
  unfold cellsGet cellsSet
  split
  · next h => rw [cellsFind_erase_same]; exact h.symm
  · rw [cellsFind_place_same _ _ _ (cellsFind_erase_same m k)]; rfl

/-- A write leaves every other place alone. -/
theorem cellsGet_set_ne (d : Nat → BitVec w) (m : Cells w) (v : BitVec w) {k j : Nat} (h : j ≠ k) :
    cellsGet d (cellsSet d m k v) j = cellsGet d m j := by
  unfold cellsGet cellsSet
  split
  · rw [cellsFind_erase_ne m h]
  · rw [cellsFind_place_ne _ v h, cellsFind_erase_ne m h]

theorem cellsWfFrom_mono (d : Nat → BitVec w) (m : Cells w) {lo lo' : Nat} (h : lo' ≤ lo) (hm : cellsWfFrom d lo m = true) :
    cellsWfFrom d lo' m = true := by
  cases m with
  | nil => rfl
  | cons x m =>
    obtain ⟨a, u⟩ := x
    simp only [cellsWfFrom, Bool.and_eq_true, decide_eq_true_eq] at hm ⊢
    exact ⟨⟨by omega, hm.1.2⟩, hm.2⟩

theorem cellsWfFrom_erase (d : Nat → BitVec w) (m : Cells w) (k lo : Nat) (hm : cellsWfFrom d lo m = true) :
    cellsWfFrom d lo (cellsErase m k) = true := by
  induction m generalizing lo with
  | nil => rfl
  | cons x m ih =>
    obtain ⟨a, u⟩ := x
    simp only [cellsWfFrom, Bool.and_eq_true, decide_eq_true_eq] at hm
    by_cases h : a = k
    · simp only [cellsErase, h, if_true]
      exact ih lo (cellsWfFrom_mono d m (by omega) hm.2)
    · simp only [cellsErase, h, if_false, cellsWfFrom, Bool.and_eq_true, decide_eq_true_eq]
      exact ⟨hm.1, ih _ hm.2⟩

theorem cellsWfFrom_place (d : Nat → BitVec w) (m : Cells w) (k lo : Nat) (v : BitVec w) (hv : v ≠ d k) (hlo : lo ≤ k)
    (hk : cellsFind m k = none) (hm : cellsWfFrom d lo m = true) : cellsWfFrom d lo (cellsPlace m k v) = true := by
  induction m generalizing lo with
  | nil => simp [cellsPlace, cellsWfFrom, hv, hlo]
  | cons x m ih =>
    obtain ⟨a, u⟩ := x
    simp only [cellsWfFrom, Bool.and_eq_true, decide_eq_true_eq] at hm
    have ha : a ≠ k := by
      intro h
      simp [cellsFind, h] at hk
    by_cases h : k < a
    · simp only [cellsPlace, h, if_true, cellsWfFrom, Bool.and_eq_true, decide_eq_true_eq]
      exact ⟨⟨hlo, hv⟩, ⟨by omega, hm.1.2⟩, hm.2⟩
    · simp only [cellsPlace, h, if_false, cellsWfFrom, Bool.and_eq_true, decide_eq_true_eq]
      exact ⟨hm.1, ih _ (by omega) (by simpa [cellsFind, ha] using hk) hm.2⟩

/-- A write keeps the canonical form. -/
theorem cellsWf_set (d : Nat → BitVec w) (m : Cells w) (k : Nat) (v : BitVec w) (h : cellsWf d m = true) :
    cellsWf d (cellsSet d m k v) = true := by
  unfold cellsWf cellsSet at *
  split
  · exact cellsWfFrom_erase d m k 0 h
  · next hv =>
    exact cellsWfFrom_place d _ k 0 v hv (Nat.zero_le k) (cellsFind_erase_same m k) (cellsWfFrom_erase d m k 0 h)

/-- The empty array is canonical. -/
@[simp] theorem cellsWf_nil (d : Nat → BitVec w) : cellsWf d ([] : Cells w) = true := rfl

end Sys2Proof.Machine
end

