-- ==== Sys2Proof/Laws/Registers.lean ====
section
/-! SUPPORT. The laws of registers and fields: what a read gives after a write of the same register, of another one, of the
same field, of another field. -/
namespace Sys2Proof.Machine

/-! ### Words and fields -/

/-- A concrete field lies in its word: `Field.ok_of _ rfl`. -/
theorem Field.ok_of (f : Field) (h : (Nat.ble f.lo f.hi && Nat.blt f.hi 32) = true) : f.ok := by
  simp only [Bool.and_eq_true, Nat.blt, Nat.ble_eq] at h
  exact ⟨h.1, h.2⟩

/-- Two concrete fields of one register share no bit: `Field.apart_of _ _ rfl`. -/
theorem Field.apart_of (f g : Field) (h : (Nat.blt f.hi g.lo || Nat.blt g.hi f.lo) = true) : f.apart g := by
  simp only [Bool.or_eq_true, Nat.blt, Nat.ble_eq] at h
  exact .inr h

theorem Field.mask_bit (f : Field) (h : f.ok) (i : Nat) (hi : i < 32) :
    f.mask.getLsbD i = (decide (f.lo ≤ i) && decide (i ≤ f.hi)) := by
  obtain ⟨h1, h2⟩ := h
  have h3 : (31 - (f.hi - f.lo) + (i - f.lo) < 32) ↔ i - f.lo ≤ f.hi - f.lo := by omega
  by_cases hl : i < f.lo
  · simp only [Field.mask, BitVec.getLsbD_shiftLeft, hl, Nat.not_le.mpr hl]
    simp
  · have h4 : (i - f.lo ≤ f.hi - f.lo) ↔ i ≤ f.hi := by omega
    simp only [Field.mask, BitVec.getLsbD_shiftLeft, BitVec.getLsbD_ushiftRight, BitVec.getLsbD_allOnes, hi, hl, h3, h4,
      Nat.not_lt.mp hl]
    simp

theorem Field.write_bit (f : Field) (h : f.ok) (w : Word) (v i : Nat) (hi : i < 32) :
    (f.write w v).getLsbD i = if f.lo ≤ i ∧ i ≤ f.hi then v.testBit (i - f.lo) else w.getLsbD i := by
  simp only [Field.write, BitVec.getLsbD_or, BitVec.getLsbD_and, BitVec.getLsbD_not, BitVec.getLsbD_shiftLeft,
    f.mask_bit h i hi, hi, BitVec.getLsbD_ofNat]
  by_cases hc : f.lo ≤ i ∧ i ≤ f.hi
  · have h5 : i - f.lo < 32 := by omega
    simp [hc, Nat.not_lt.mpr hc.1, h5]
  · have h5 : (decide (f.lo ≤ i) && decide (i ≤ f.hi)) = false := by simpa using hc
    simp [hc, h5]

theorem Field.read_testBit (f : Field) (h : f.ok) (w : Word) (j : Nat) :
    (f.read w).testBit j = (decide (j ≤ f.hi - f.lo) && w.getLsbD (f.lo + j)) := by
  obtain ⟨h1, h2⟩ := h
  have : (j < f.hi + 1 - f.lo) ↔ j ≤ f.hi - f.lo := by omega
  simp [Field.read, Nat.testBit_mod_two_pow, BitVec.testBit_toNat, this]

/-- A field reads as it was written, at its width. -/
theorem Field.read_write (f : Field) (h : f.ok) (w : Word) (v : Nat) : f.read (f.write w v) = v % 2 ^ (f.hi + 1 - f.lo) := by
  apply Nat.eq_of_testBit_eq
  intro j
  rw [f.read_testBit h, Nat.testBit_mod_two_pow]
  by_cases hj : j ≤ f.hi - f.lo
  · have h3 : f.lo + j < 32 := by have := h.1; have := h.2; omega
    have h4 : f.lo ≤ f.lo + j ∧ f.lo + j ≤ f.hi := by have := h.1; omega
    have h5 : j < f.hi + 1 - f.lo := by have := h.1; omega
    simp [f.write_bit h w v _ h3, h4, hj, h5]
  · have h5 : ¬ j < f.hi + 1 - f.lo := by have := h.1; omega
    simp [hj, h5]

/-- Another field of the register keeps its value. -/
theorem Field.read_write_apart (f g : Field) (hf : f.ok) (hg : g.ok) (h : f.hi < g.lo ∨ g.hi < f.lo) (w : Word) (v : Nat) :
    f.read (g.write w v) = f.read w := by
  apply Nat.eq_of_testBit_eq
  intro j
  rw [f.read_testBit hf, f.read_testBit hf]
  by_cases hj : j ≤ f.hi - f.lo
  · have h1 := hf.1
    have h2 := hf.2
    have h3 : f.lo + j < 32 := by omega
    have h4 : ¬ (g.lo ≤ f.lo + j ∧ f.lo + j ≤ g.hi) := by omega
    rw [g.write_bit hg w v _ h3, if_neg h4]
  · simp [hj]

/-! ### Registers -/

@[simp] theorem Chip.reg_setReg (c : Chip) (a : Nat) (w : Word) : (c.setReg a w).reg a = w := cellsGet_set_same _ _ _ _

theorem Chip.reg_setReg_ne (c : Chip) (w : Word) {a b : Nat} (h : b ≠ a) : (c.setReg a w).reg b = c.reg b :=
  cellsGet_set_ne _ _ _ h

@[simp] theorem Chip.reg_put (c : Chip) (f : Field) (v : Nat) : (c.put f v).reg f.addr = f.write (c.reg f.addr) v :=
  Chip.reg_setReg _ _ _

theorem Chip.reg_put_ne (c : Chip) (f : Field) (v : Nat) {b : Nat} (h : b ≠ f.addr) : (c.put f v).reg b = c.reg b :=
  Chip.reg_setReg_ne _ _ h

/-- A field reads as it was put, at its width. -/
theorem Chip.get_put (c : Chip) (f : Field) (h : f.ok) (v : Nat) : (c.put f v).get f = v % 2 ^ (f.hi + 1 - f.lo) := by
  simp only [Chip.get, Chip.reg_put]
  exact f.read_write h _ v

/-- A field that shares no bit with the one written keeps its value. -/
theorem Chip.get_put_apart (c : Chip) (f g : Field) (v : Nat) (hf : f.ok) (hg : g.ok) (h : f.apart g) :
    (c.put g v).get f = c.get f := by
  unfold Chip.get
  by_cases ha : f.addr = g.addr
  · rw [ha, Chip.reg_put]
    exact f.read_write_apart g hf hg (h.resolve_left (by simp [ha])) _ v
  · rw [Chip.reg_put_ne _ _ _ ha]

theorem Chip.get_put_ne (c : Chip) (f g : Field) (v : Nat) (h : f.addr ≠ g.addr) : (c.put g v).get f = c.get f := by
  unfold Chip.get
  rw [Chip.reg_put_ne _ _ _ h]

theorem Chip.get_setReg_ne (c : Chip) (f : Field) (w : Word) {a : Nat} (h : f.addr ≠ a) : (c.setReg a w).get f = c.get f := by
  unfold Chip.get
  rw [Chip.reg_setReg_ne _ _ h]

theorem Chip.get_setReg (c : Chip) (f : Field) (w : Word) : (c.setReg f.addr w).get f = f.read w := by
  unfold Chip.get
  rw [Chip.reg_setReg]

/-- Writing a register keeps the canonical form of the register words. -/
theorem Chip.regs_wf_setReg (c : Chip) (a : Nat) (w : Word) (h : cellsWf regReset c.regs = true) :
    cellsWf regReset (c.setReg a w).regs = true := cellsWf_set _ _ _ _ h

/-- Putting a field keeps the canonical form of the register words. -/
theorem Chip.regs_wf_put (c : Chip) (f : Field) (v : Nat) (h : cellsWf regReset c.regs = true) :
    cellsWf regReset (c.put f v).regs = true := cellsWf_set _ _ _ _ h

end Sys2Proof.Machine
end

