-- ==== Sys2Proof/Laws/State.lean ====
section
/-! SUPPORT. What each update of the state leaves alone, one lemma per field and update, and what it sets: no later proof
unfolds a record update. -/
namespace Sys2Proof.Machine

variable (c : Chip)

/-! ### setReg -/

@[simp] theorem Chip.setReg_hold (a : Nat) (w : Word) : (c.setReg a w).hold = c.hold := rfl
@[simp] theorem Chip.setReg_tickRegs (a : Nat) (w : Word) : (c.setReg a w).tickRegs = c.tickRegs := rfl
@[simp] theorem Chip.setReg_fresh (a : Nat) (w : Word) : (c.setReg a w).fresh = c.fresh := rfl
@[simp] theorem Chip.setReg_wall (a : Nat) (w : Word) : (c.setReg a w).wall = c.wall := rfl
@[simp] theorem Chip.setReg_now (a : Nat) (w : Word) : (c.setReg a w).now = c.now := rfl
@[simp] theorem Chip.setReg_free (a : Nat) (w : Word) : (c.setReg a w).free = c.free := rfl
@[simp] theorem Chip.setReg_armTick (a : Nat) (w : Word) : (c.setReg a w).armTick = c.armTick := rfl
@[simp] theorem Chip.setReg_pwrDue (a : Nat) (w : Word) : (c.setReg a w).pwrDue = c.pwrDue := rfl
@[simp] theorem Chip.setReg_legs (a : Nat) (w : Word) : (c.setReg a w).legs = c.legs := rfl
@[simp] theorem Chip.setReg_links (a : Nat) (w : Word) : (c.setReg a w).links = c.links := rfl
@[simp] theorem Chip.setReg_tbs (a : Nat) (w : Word) : (c.setReg a w).tbs = c.tbs := rfl
@[simp] theorem Chip.setReg_cues (a : Nat) (w : Word) : (c.setReg a w).cues = c.cues := rfl
@[simp] theorem Chip.setReg_slices (a : Nat) (w : Word) : (c.setReg a w).slices = c.slices := rfl
@[simp] theorem Chip.setReg_unders (a : Nat) (w : Word) : (c.setReg a w).unders = c.unders := rfl
@[simp] theorem Chip.setReg_rsvs (a : Nat) (w : Word) : (c.setReg a w).rsvs = c.rsvs := rfl
@[simp] theorem Chip.setReg_excPos (a : Nat) (w : Word) : (c.setReg a w).excPos = c.excPos := rfl
@[simp] theorem Chip.setReg_excTick (a : Nat) (w : Word) : (c.setReg a w).excTick = c.excTick := rfl
@[simp] theorem Chip.setReg_ports (a : Nat) (w : Word) : (c.setReg a w).ports = c.ports := rfl
@[simp] theorem Chip.setReg_axes (a : Nat) (w : Word) : (c.setReg a w).axes = c.axes := rfl
@[simp] theorem Chip.setReg_engines (a : Nat) (w : Word) : (c.setReg a w).engines = c.engines := rfl
@[simp] theorem Chip.setReg_buses (a : Nat) (w : Word) : (c.setReg a w).buses = c.buses := rfl
@[simp] theorem Chip.setReg_hks (a : Nat) (w : Word) : (c.setReg a w).hks = c.hks := rfl
@[simp] theorem Chip.setReg_hkSettle (a : Nat) (w : Word) : (c.setReg a w).hkSettle = c.hkSettle := rfl
@[simp] theorem Chip.setReg_houseTick (a : Nat) (w : Word) : (c.setReg a w).houseTick = c.houseTick := rfl
@[simp] theorem Chip.setReg_roundTick (a : Nat) (w : Word) : (c.setReg a w).roundTick = c.roundTick := rfl
@[simp] theorem Chip.setReg_hkAge (a : Nat) (w : Word) : (c.setReg a w).hkAge = c.hkAge := rfl
@[simp] theorem Chip.setReg_hkUsed (a : Nat) (w : Word) : (c.setReg a w).hkUsed = c.hkUsed := rfl
@[simp] theorem Chip.setReg_xchRun (a : Nat) (w : Word) : (c.setReg a w).xchRun = c.xchRun := rfl
@[simp] theorem Chip.setReg_sensors (a : Nat) (w : Word) : (c.setReg a w).sensors = c.sensors := rfl
@[simp] theorem Chip.setReg_wms (a : Nat) (w : Word) : (c.setReg a w).wms = c.wms := rfl
@[simp] theorem Chip.setReg_faults (a : Nat) (w : Word) : (c.setReg a w).faults = c.faults := rfl
@[simp] theorem Chip.setReg_load (a : Nat) (w : Word) : (c.setReg a w).load = c.load := rfl
@[simp] theorem Chip.setReg_nvc (a : Nat) (w : Word) : (c.setReg a w).nvc = c.nvc := rfl
@[simp] theorem Chip.setReg_hp (a : Nat) (w : Word) : (c.setReg a w).hp = c.hp := rfl
@[simp] theorem Chip.setReg_can (a : Nat) (w : Word) : (c.setReg a w).can = c.can := rfl
@[simp] theorem Chip.setReg_rng (a : Nat) (w : Word) : (c.setReg a w).rng = c.rng := rfl
@[simp] theorem Chip.setReg_duty (a : Nat) (w : Word) : (c.setReg a w).duty = c.duty := rfl
@[simp] theorem Chip.leg_setReg (a : Nat) (w : Word) (j : Leg) : (c.setReg a w).leg j = c.leg j := rfl
@[simp] theorem Chip.link_setReg (a : Nat) (w : Word) (j : Die) : (c.setReg a w).link j = c.link j := rfl
@[simp] theorem Chip.tb_setReg (a : Nat) (w : Word) (j : Tb) : (c.setReg a w).tb j = c.tb j := rfl
@[simp] theorem Chip.slice_setReg (a : Nat) (w : Word) (j : SliceId) : (c.setReg a w).slice j = c.slice j := rfl
@[simp] theorem Chip.under_setReg (a : Nat) (w : Word) (j : UDie) : (c.setReg a w).under j = c.under j := rfl
@[simp] theorem Chip.rsv_setReg (a : Nat) (w : Word) (j : Fin 4) : (c.setReg a w).rsv j = c.rsv j := rfl
@[simp] theorem Chip.port_setReg (a : Nat) (w : Word) (j : Port) : (c.setReg a w).port j = c.port j := rfl
@[simp] theorem Chip.axis_setReg (a : Nat) (w : Word) (j : Axis) : (c.setReg a w).axis j = c.axis j := rfl
@[simp] theorem Chip.engine_setReg (a : Nat) (w : Word) (j : Region) : (c.setReg a w).engine j = c.engine j := rfl
@[simp] theorem Chip.bus_setReg (a : Nat) (w : Word) (j : Region) : (c.setReg a w).bus j = c.bus j := rfl
@[simp] theorem Chip.hk_setReg (a : Nat) (w : Word) (j : Region) : (c.setReg a w).hk j = c.hk j := rfl
@[simp] theorem Chip.sensor_setReg (a : Nat) (w : Word) (j : Fin 17) : (c.setReg a w).sensor j = c.sensor j := rfl
@[simp] theorem Chip.wm_setReg (a : Nat) (w : Word) (j : Fin 8) : (c.setReg a w).wm j = c.wm j := rfl
/-! ### put -/

@[simp] theorem Chip.put_hold (f : Field) (v : Nat) : (c.put f v).hold = c.hold := rfl
@[simp] theorem Chip.put_tickRegs (f : Field) (v : Nat) : (c.put f v).tickRegs = c.tickRegs := rfl
@[simp] theorem Chip.put_fresh (f : Field) (v : Nat) : (c.put f v).fresh = c.fresh := rfl
@[simp] theorem Chip.put_wall (f : Field) (v : Nat) : (c.put f v).wall = c.wall := rfl
@[simp] theorem Chip.put_now (f : Field) (v : Nat) : (c.put f v).now = c.now := rfl
@[simp] theorem Chip.put_free (f : Field) (v : Nat) : (c.put f v).free = c.free := rfl
@[simp] theorem Chip.put_armTick (f : Field) (v : Nat) : (c.put f v).armTick = c.armTick := rfl
@[simp] theorem Chip.put_pwrDue (f : Field) (v : Nat) : (c.put f v).pwrDue = c.pwrDue := rfl
@[simp] theorem Chip.put_legs (f : Field) (v : Nat) : (c.put f v).legs = c.legs := rfl
@[simp] theorem Chip.put_links (f : Field) (v : Nat) : (c.put f v).links = c.links := rfl
@[simp] theorem Chip.put_tbs (f : Field) (v : Nat) : (c.put f v).tbs = c.tbs := rfl
@[simp] theorem Chip.put_cues (f : Field) (v : Nat) : (c.put f v).cues = c.cues := rfl
@[simp] theorem Chip.put_slices (f : Field) (v : Nat) : (c.put f v).slices = c.slices := rfl
@[simp] theorem Chip.put_unders (f : Field) (v : Nat) : (c.put f v).unders = c.unders := rfl
@[simp] theorem Chip.put_rsvs (f : Field) (v : Nat) : (c.put f v).rsvs = c.rsvs := rfl
@[simp] theorem Chip.put_excPos (f : Field) (v : Nat) : (c.put f v).excPos = c.excPos := rfl
@[simp] theorem Chip.put_excTick (f : Field) (v : Nat) : (c.put f v).excTick = c.excTick := rfl
@[simp] theorem Chip.put_ports (f : Field) (v : Nat) : (c.put f v).ports = c.ports := rfl
@[simp] theorem Chip.put_axes (f : Field) (v : Nat) : (c.put f v).axes = c.axes := rfl
@[simp] theorem Chip.put_engines (f : Field) (v : Nat) : (c.put f v).engines = c.engines := rfl
@[simp] theorem Chip.put_buses (f : Field) (v : Nat) : (c.put f v).buses = c.buses := rfl
@[simp] theorem Chip.put_hks (f : Field) (v : Nat) : (c.put f v).hks = c.hks := rfl
@[simp] theorem Chip.put_hkSettle (f : Field) (v : Nat) : (c.put f v).hkSettle = c.hkSettle := rfl
@[simp] theorem Chip.put_houseTick (f : Field) (v : Nat) : (c.put f v).houseTick = c.houseTick := rfl
@[simp] theorem Chip.put_roundTick (f : Field) (v : Nat) : (c.put f v).roundTick = c.roundTick := rfl
@[simp] theorem Chip.put_hkAge (f : Field) (v : Nat) : (c.put f v).hkAge = c.hkAge := rfl
@[simp] theorem Chip.put_hkUsed (f : Field) (v : Nat) : (c.put f v).hkUsed = c.hkUsed := rfl
@[simp] theorem Chip.put_xchRun (f : Field) (v : Nat) : (c.put f v).xchRun = c.xchRun := rfl
@[simp] theorem Chip.put_sensors (f : Field) (v : Nat) : (c.put f v).sensors = c.sensors := rfl
@[simp] theorem Chip.put_wms (f : Field) (v : Nat) : (c.put f v).wms = c.wms := rfl
@[simp] theorem Chip.put_faults (f : Field) (v : Nat) : (c.put f v).faults = c.faults := rfl
@[simp] theorem Chip.put_load (f : Field) (v : Nat) : (c.put f v).load = c.load := rfl
@[simp] theorem Chip.put_nvc (f : Field) (v : Nat) : (c.put f v).nvc = c.nvc := rfl
@[simp] theorem Chip.put_hp (f : Field) (v : Nat) : (c.put f v).hp = c.hp := rfl
@[simp] theorem Chip.put_can (f : Field) (v : Nat) : (c.put f v).can = c.can := rfl
@[simp] theorem Chip.put_rng (f : Field) (v : Nat) : (c.put f v).rng = c.rng := rfl
@[simp] theorem Chip.put_duty (f : Field) (v : Nat) : (c.put f v).duty = c.duty := rfl
@[simp] theorem Chip.leg_put (f : Field) (v : Nat) (j : Leg) : (c.put f v).leg j = c.leg j := rfl
@[simp] theorem Chip.link_put (f : Field) (v : Nat) (j : Die) : (c.put f v).link j = c.link j := rfl
@[simp] theorem Chip.tb_put (f : Field) (v : Nat) (j : Tb) : (c.put f v).tb j = c.tb j := rfl
@[simp] theorem Chip.slice_put (f : Field) (v : Nat) (j : SliceId) : (c.put f v).slice j = c.slice j := rfl
@[simp] theorem Chip.under_put (f : Field) (v : Nat) (j : UDie) : (c.put f v).under j = c.under j := rfl
@[simp] theorem Chip.rsv_put (f : Field) (v : Nat) (j : Fin 4) : (c.put f v).rsv j = c.rsv j := rfl
@[simp] theorem Chip.port_put (f : Field) (v : Nat) (j : Port) : (c.put f v).port j = c.port j := rfl
@[simp] theorem Chip.axis_put (f : Field) (v : Nat) (j : Axis) : (c.put f v).axis j = c.axis j := rfl
@[simp] theorem Chip.engine_put (f : Field) (v : Nat) (j : Region) : (c.put f v).engine j = c.engine j := rfl
@[simp] theorem Chip.bus_put (f : Field) (v : Nat) (j : Region) : (c.put f v).bus j = c.bus j := rfl
@[simp] theorem Chip.hk_put (f : Field) (v : Nat) (j : Region) : (c.put f v).hk j = c.hk j := rfl
@[simp] theorem Chip.sensor_put (f : Field) (v : Nat) (j : Fin 17) : (c.put f v).sensor j = c.sensor j := rfl
@[simp] theorem Chip.wm_put (f : Field) (v : Nat) (j : Fin 8) : (c.put f v).wm j = c.wm j := rfl
/-! ### putF -/

@[simp] theorem Chip.putF_hold (f : Field) (b : Bool) : (c.putF f b).hold = c.hold := rfl
@[simp] theorem Chip.putF_tickRegs (f : Field) (b : Bool) : (c.putF f b).tickRegs = c.tickRegs := rfl
@[simp] theorem Chip.putF_fresh (f : Field) (b : Bool) : (c.putF f b).fresh = c.fresh := rfl
@[simp] theorem Chip.putF_wall (f : Field) (b : Bool) : (c.putF f b).wall = c.wall := rfl
@[simp] theorem Chip.putF_now (f : Field) (b : Bool) : (c.putF f b).now = c.now := rfl
@[simp] theorem Chip.putF_free (f : Field) (b : Bool) : (c.putF f b).free = c.free := rfl
@[simp] theorem Chip.putF_armTick (f : Field) (b : Bool) : (c.putF f b).armTick = c.armTick := rfl
@[simp] theorem Chip.putF_pwrDue (f : Field) (b : Bool) : (c.putF f b).pwrDue = c.pwrDue := rfl
@[simp] theorem Chip.putF_legs (f : Field) (b : Bool) : (c.putF f b).legs = c.legs := rfl
@[simp] theorem Chip.putF_links (f : Field) (b : Bool) : (c.putF f b).links = c.links := rfl
@[simp] theorem Chip.putF_tbs (f : Field) (b : Bool) : (c.putF f b).tbs = c.tbs := rfl
@[simp] theorem Chip.putF_cues (f : Field) (b : Bool) : (c.putF f b).cues = c.cues := rfl
@[simp] theorem Chip.putF_slices (f : Field) (b : Bool) : (c.putF f b).slices = c.slices := rfl
@[simp] theorem Chip.putF_unders (f : Field) (b : Bool) : (c.putF f b).unders = c.unders := rfl
@[simp] theorem Chip.putF_rsvs (f : Field) (b : Bool) : (c.putF f b).rsvs = c.rsvs := rfl
@[simp] theorem Chip.putF_excPos (f : Field) (b : Bool) : (c.putF f b).excPos = c.excPos := rfl
@[simp] theorem Chip.putF_excTick (f : Field) (b : Bool) : (c.putF f b).excTick = c.excTick := rfl
@[simp] theorem Chip.putF_ports (f : Field) (b : Bool) : (c.putF f b).ports = c.ports := rfl
@[simp] theorem Chip.putF_axes (f : Field) (b : Bool) : (c.putF f b).axes = c.axes := rfl
@[simp] theorem Chip.putF_engines (f : Field) (b : Bool) : (c.putF f b).engines = c.engines := rfl
@[simp] theorem Chip.putF_buses (f : Field) (b : Bool) : (c.putF f b).buses = c.buses := rfl
@[simp] theorem Chip.putF_hks (f : Field) (b : Bool) : (c.putF f b).hks = c.hks := rfl
@[simp] theorem Chip.putF_hkSettle (f : Field) (b : Bool) : (c.putF f b).hkSettle = c.hkSettle := rfl
@[simp] theorem Chip.putF_houseTick (f : Field) (b : Bool) : (c.putF f b).houseTick = c.houseTick := rfl
@[simp] theorem Chip.putF_roundTick (f : Field) (b : Bool) : (c.putF f b).roundTick = c.roundTick := rfl
@[simp] theorem Chip.putF_hkAge (f : Field) (b : Bool) : (c.putF f b).hkAge = c.hkAge := rfl
@[simp] theorem Chip.putF_hkUsed (f : Field) (b : Bool) : (c.putF f b).hkUsed = c.hkUsed := rfl
@[simp] theorem Chip.putF_xchRun (f : Field) (b : Bool) : (c.putF f b).xchRun = c.xchRun := rfl
@[simp] theorem Chip.putF_sensors (f : Field) (b : Bool) : (c.putF f b).sensors = c.sensors := rfl
@[simp] theorem Chip.putF_wms (f : Field) (b : Bool) : (c.putF f b).wms = c.wms := rfl
@[simp] theorem Chip.putF_faults (f : Field) (b : Bool) : (c.putF f b).faults = c.faults := rfl
@[simp] theorem Chip.putF_load (f : Field) (b : Bool) : (c.putF f b).load = c.load := rfl
@[simp] theorem Chip.putF_nvc (f : Field) (b : Bool) : (c.putF f b).nvc = c.nvc := rfl
@[simp] theorem Chip.putF_hp (f : Field) (b : Bool) : (c.putF f b).hp = c.hp := rfl
@[simp] theorem Chip.putF_can (f : Field) (b : Bool) : (c.putF f b).can = c.can := rfl
@[simp] theorem Chip.putF_rng (f : Field) (b : Bool) : (c.putF f b).rng = c.rng := rfl
@[simp] theorem Chip.putF_duty (f : Field) (b : Bool) : (c.putF f b).duty = c.duty := rfl
@[simp] theorem Chip.leg_putF (f : Field) (b : Bool) (j : Leg) : (c.putF f b).leg j = c.leg j := rfl
@[simp] theorem Chip.link_putF (f : Field) (b : Bool) (j : Die) : (c.putF f b).link j = c.link j := rfl
@[simp] theorem Chip.tb_putF (f : Field) (b : Bool) (j : Tb) : (c.putF f b).tb j = c.tb j := rfl
@[simp] theorem Chip.slice_putF (f : Field) (b : Bool) (j : SliceId) : (c.putF f b).slice j = c.slice j := rfl
@[simp] theorem Chip.under_putF (f : Field) (b : Bool) (j : UDie) : (c.putF f b).under j = c.under j := rfl
@[simp] theorem Chip.rsv_putF (f : Field) (b : Bool) (j : Fin 4) : (c.putF f b).rsv j = c.rsv j := rfl
@[simp] theorem Chip.port_putF (f : Field) (b : Bool) (j : Port) : (c.putF f b).port j = c.port j := rfl
@[simp] theorem Chip.axis_putF (f : Field) (b : Bool) (j : Axis) : (c.putF f b).axis j = c.axis j := rfl
@[simp] theorem Chip.engine_putF (f : Field) (b : Bool) (j : Region) : (c.putF f b).engine j = c.engine j := rfl
@[simp] theorem Chip.bus_putF (f : Field) (b : Bool) (j : Region) : (c.putF f b).bus j = c.bus j := rfl
@[simp] theorem Chip.hk_putF (f : Field) (b : Bool) (j : Region) : (c.putF f b).hk j = c.hk j := rfl
@[simp] theorem Chip.sensor_putF (f : Field) (b : Bool) (j : Fin 17) : (c.putF f b).sensor j = c.sensor j := rfl
@[simp] theorem Chip.wm_putF (f : Field) (b : Bool) (j : Fin 8) : (c.putF f b).wm j = c.wm j := rfl
/-! ### puts -/

@[simp] theorem Chip.puts_hold (f : Field) (i : Int) : (c.puts f i).hold = c.hold := rfl
@[simp] theorem Chip.puts_tickRegs (f : Field) (i : Int) : (c.puts f i).tickRegs = c.tickRegs := rfl
@[simp] theorem Chip.puts_fresh (f : Field) (i : Int) : (c.puts f i).fresh = c.fresh := rfl
@[simp] theorem Chip.puts_wall (f : Field) (i : Int) : (c.puts f i).wall = c.wall := rfl
@[simp] theorem Chip.puts_now (f : Field) (i : Int) : (c.puts f i).now = c.now := rfl
@[simp] theorem Chip.puts_free (f : Field) (i : Int) : (c.puts f i).free = c.free := rfl
@[simp] theorem Chip.puts_armTick (f : Field) (i : Int) : (c.puts f i).armTick = c.armTick := rfl
@[simp] theorem Chip.puts_pwrDue (f : Field) (i : Int) : (c.puts f i).pwrDue = c.pwrDue := rfl
@[simp] theorem Chip.puts_legs (f : Field) (i : Int) : (c.puts f i).legs = c.legs := rfl
@[simp] theorem Chip.puts_links (f : Field) (i : Int) : (c.puts f i).links = c.links := rfl
@[simp] theorem Chip.puts_tbs (f : Field) (i : Int) : (c.puts f i).tbs = c.tbs := rfl
@[simp] theorem Chip.puts_cues (f : Field) (i : Int) : (c.puts f i).cues = c.cues := rfl
@[simp] theorem Chip.puts_slices (f : Field) (i : Int) : (c.puts f i).slices = c.slices := rfl
@[simp] theorem Chip.puts_unders (f : Field) (i : Int) : (c.puts f i).unders = c.unders := rfl
@[simp] theorem Chip.puts_rsvs (f : Field) (i : Int) : (c.puts f i).rsvs = c.rsvs := rfl
@[simp] theorem Chip.puts_excPos (f : Field) (i : Int) : (c.puts f i).excPos = c.excPos := rfl
@[simp] theorem Chip.puts_excTick (f : Field) (i : Int) : (c.puts f i).excTick = c.excTick := rfl
@[simp] theorem Chip.puts_ports (f : Field) (i : Int) : (c.puts f i).ports = c.ports := rfl
@[simp] theorem Chip.puts_axes (f : Field) (i : Int) : (c.puts f i).axes = c.axes := rfl
@[simp] theorem Chip.puts_engines (f : Field) (i : Int) : (c.puts f i).engines = c.engines := rfl
@[simp] theorem Chip.puts_buses (f : Field) (i : Int) : (c.puts f i).buses = c.buses := rfl
@[simp] theorem Chip.puts_hks (f : Field) (i : Int) : (c.puts f i).hks = c.hks := rfl
@[simp] theorem Chip.puts_hkSettle (f : Field) (i : Int) : (c.puts f i).hkSettle = c.hkSettle := rfl
@[simp] theorem Chip.puts_houseTick (f : Field) (i : Int) : (c.puts f i).houseTick = c.houseTick := rfl
@[simp] theorem Chip.puts_roundTick (f : Field) (i : Int) : (c.puts f i).roundTick = c.roundTick := rfl
@[simp] theorem Chip.puts_hkAge (f : Field) (i : Int) : (c.puts f i).hkAge = c.hkAge := rfl
@[simp] theorem Chip.puts_hkUsed (f : Field) (i : Int) : (c.puts f i).hkUsed = c.hkUsed := rfl
@[simp] theorem Chip.puts_xchRun (f : Field) (i : Int) : (c.puts f i).xchRun = c.xchRun := rfl
@[simp] theorem Chip.puts_sensors (f : Field) (i : Int) : (c.puts f i).sensors = c.sensors := rfl
@[simp] theorem Chip.puts_wms (f : Field) (i : Int) : (c.puts f i).wms = c.wms := rfl
@[simp] theorem Chip.puts_faults (f : Field) (i : Int) : (c.puts f i).faults = c.faults := rfl
@[simp] theorem Chip.puts_load (f : Field) (i : Int) : (c.puts f i).load = c.load := rfl
@[simp] theorem Chip.puts_nvc (f : Field) (i : Int) : (c.puts f i).nvc = c.nvc := rfl
@[simp] theorem Chip.puts_hp (f : Field) (i : Int) : (c.puts f i).hp = c.hp := rfl
@[simp] theorem Chip.puts_can (f : Field) (i : Int) : (c.puts f i).can = c.can := rfl
@[simp] theorem Chip.puts_rng (f : Field) (i : Int) : (c.puts f i).rng = c.rng := rfl
@[simp] theorem Chip.puts_duty (f : Field) (i : Int) : (c.puts f i).duty = c.duty := rfl
@[simp] theorem Chip.leg_puts (f : Field) (i : Int) (j : Leg) : (c.puts f i).leg j = c.leg j := rfl
@[simp] theorem Chip.link_puts (f : Field) (i : Int) (j : Die) : (c.puts f i).link j = c.link j := rfl
@[simp] theorem Chip.tb_puts (f : Field) (i : Int) (j : Tb) : (c.puts f i).tb j = c.tb j := rfl
@[simp] theorem Chip.slice_puts (f : Field) (i : Int) (j : SliceId) : (c.puts f i).slice j = c.slice j := rfl
@[simp] theorem Chip.under_puts (f : Field) (i : Int) (j : UDie) : (c.puts f i).under j = c.under j := rfl
@[simp] theorem Chip.rsv_puts (f : Field) (i : Int) (j : Fin 4) : (c.puts f i).rsv j = c.rsv j := rfl
@[simp] theorem Chip.port_puts (f : Field) (i : Int) (j : Port) : (c.puts f i).port j = c.port j := rfl
@[simp] theorem Chip.axis_puts (f : Field) (i : Int) (j : Axis) : (c.puts f i).axis j = c.axis j := rfl
@[simp] theorem Chip.engine_puts (f : Field) (i : Int) (j : Region) : (c.puts f i).engine j = c.engine j := rfl
@[simp] theorem Chip.bus_puts (f : Field) (i : Int) (j : Region) : (c.puts f i).bus j = c.bus j := rfl
@[simp] theorem Chip.hk_puts (f : Field) (i : Int) (j : Region) : (c.puts f i).hk j = c.hk j := rfl
@[simp] theorem Chip.sensor_puts (f : Field) (i : Int) (j : Fin 17) : (c.puts f i).sensor j = c.sensor j := rfl
@[simp] theorem Chip.wm_puts (f : Field) (i : Int) (j : Fin 8) : (c.puts f i).wm j = c.wm j := rfl
/-! ### noteFresh -/

@[simp] theorem Chip.noteFresh_regs (f : Field) (v : Nat) : (c.noteFresh f v).regs = c.regs := rfl
@[simp] theorem Chip.noteFresh_hold (f : Field) (v : Nat) : (c.noteFresh f v).hold = c.hold := rfl
@[simp] theorem Chip.noteFresh_tickRegs (f : Field) (v : Nat) : (c.noteFresh f v).tickRegs = c.tickRegs := rfl
@[simp] theorem Chip.noteFresh_wall (f : Field) (v : Nat) : (c.noteFresh f v).wall = c.wall := rfl
@[simp] theorem Chip.noteFresh_now (f : Field) (v : Nat) : (c.noteFresh f v).now = c.now := rfl
@[simp] theorem Chip.noteFresh_free (f : Field) (v : Nat) : (c.noteFresh f v).free = c.free := rfl
@[simp] theorem Chip.noteFresh_armTick (f : Field) (v : Nat) : (c.noteFresh f v).armTick = c.armTick := rfl
@[simp] theorem Chip.noteFresh_pwrDue (f : Field) (v : Nat) : (c.noteFresh f v).pwrDue = c.pwrDue := rfl
@[simp] theorem Chip.noteFresh_legs (f : Field) (v : Nat) : (c.noteFresh f v).legs = c.legs := rfl
@[simp] theorem Chip.noteFresh_links (f : Field) (v : Nat) : (c.noteFresh f v).links = c.links := rfl
@[simp] theorem Chip.noteFresh_tbs (f : Field) (v : Nat) : (c.noteFresh f v).tbs = c.tbs := rfl
@[simp] theorem Chip.noteFresh_cues (f : Field) (v : Nat) : (c.noteFresh f v).cues = c.cues := rfl
@[simp] theorem Chip.noteFresh_slices (f : Field) (v : Nat) : (c.noteFresh f v).slices = c.slices := rfl
@[simp] theorem Chip.noteFresh_unders (f : Field) (v : Nat) : (c.noteFresh f v).unders = c.unders := rfl
@[simp] theorem Chip.noteFresh_rsvs (f : Field) (v : Nat) : (c.noteFresh f v).rsvs = c.rsvs := rfl
@[simp] theorem Chip.noteFresh_excPos (f : Field) (v : Nat) : (c.noteFresh f v).excPos = c.excPos := rfl
@[simp] theorem Chip.noteFresh_excTick (f : Field) (v : Nat) : (c.noteFresh f v).excTick = c.excTick := rfl
@[simp] theorem Chip.noteFresh_ports (f : Field) (v : Nat) : (c.noteFresh f v).ports = c.ports := rfl
@[simp] theorem Chip.noteFresh_axes (f : Field) (v : Nat) : (c.noteFresh f v).axes = c.axes := rfl
@[simp] theorem Chip.noteFresh_engines (f : Field) (v : Nat) : (c.noteFresh f v).engines = c.engines := rfl
@[simp] theorem Chip.noteFresh_buses (f : Field) (v : Nat) : (c.noteFresh f v).buses = c.buses := rfl
@[simp] theorem Chip.noteFresh_hks (f : Field) (v : Nat) : (c.noteFresh f v).hks = c.hks := rfl
@[simp] theorem Chip.noteFresh_hkSettle (f : Field) (v : Nat) : (c.noteFresh f v).hkSettle = c.hkSettle := rfl
@[simp] theorem Chip.noteFresh_houseTick (f : Field) (v : Nat) : (c.noteFresh f v).houseTick = c.houseTick := rfl
@[simp] theorem Chip.noteFresh_roundTick (f : Field) (v : Nat) : (c.noteFresh f v).roundTick = c.roundTick := rfl
@[simp] theorem Chip.noteFresh_hkAge (f : Field) (v : Nat) : (c.noteFresh f v).hkAge = c.hkAge := rfl
@[simp] theorem Chip.noteFresh_hkUsed (f : Field) (v : Nat) : (c.noteFresh f v).hkUsed = c.hkUsed := rfl
@[simp] theorem Chip.noteFresh_xchRun (f : Field) (v : Nat) : (c.noteFresh f v).xchRun = c.xchRun := rfl
@[simp] theorem Chip.noteFresh_sensors (f : Field) (v : Nat) : (c.noteFresh f v).sensors = c.sensors := rfl
@[simp] theorem Chip.noteFresh_wms (f : Field) (v : Nat) : (c.noteFresh f v).wms = c.wms := rfl
@[simp] theorem Chip.noteFresh_faults (f : Field) (v : Nat) : (c.noteFresh f v).faults = c.faults := rfl
@[simp] theorem Chip.noteFresh_load (f : Field) (v : Nat) : (c.noteFresh f v).load = c.load := rfl
@[simp] theorem Chip.noteFresh_nvc (f : Field) (v : Nat) : (c.noteFresh f v).nvc = c.nvc := rfl
@[simp] theorem Chip.noteFresh_hp (f : Field) (v : Nat) : (c.noteFresh f v).hp = c.hp := rfl
@[simp] theorem Chip.noteFresh_can (f : Field) (v : Nat) : (c.noteFresh f v).can = c.can := rfl
@[simp] theorem Chip.noteFresh_rng (f : Field) (v : Nat) : (c.noteFresh f v).rng = c.rng := rfl
@[simp] theorem Chip.noteFresh_duty (f : Field) (v : Nat) : (c.noteFresh f v).duty = c.duty := rfl
@[simp] theorem Chip.noteFresh_reg (f : Field) (v : Nat) (j : Nat) : (c.noteFresh f v).reg j = c.reg j := rfl
@[simp] theorem Chip.noteFresh_get (f : Field) (v : Nat) (g : Field) : (c.noteFresh f v).get g = c.get g := rfl
@[simp] theorem Chip.noteFresh_flag (f : Field) (v : Nat) (g : Field) : (c.noteFresh f v).flag g = c.flag g := rfl
@[simp] theorem Chip.leg_noteFresh (f : Field) (v : Nat) (j : Leg) : (c.noteFresh f v).leg j = c.leg j := rfl
@[simp] theorem Chip.link_noteFresh (f : Field) (v : Nat) (j : Die) : (c.noteFresh f v).link j = c.link j := rfl
@[simp] theorem Chip.tb_noteFresh (f : Field) (v : Nat) (j : Tb) : (c.noteFresh f v).tb j = c.tb j := rfl
@[simp] theorem Chip.slice_noteFresh (f : Field) (v : Nat) (j : SliceId) : (c.noteFresh f v).slice j = c.slice j := rfl
@[simp] theorem Chip.under_noteFresh (f : Field) (v : Nat) (j : UDie) : (c.noteFresh f v).under j = c.under j := rfl
@[simp] theorem Chip.rsv_noteFresh (f : Field) (v : Nat) (j : Fin 4) : (c.noteFresh f v).rsv j = c.rsv j := rfl
@[simp] theorem Chip.port_noteFresh (f : Field) (v : Nat) (j : Port) : (c.noteFresh f v).port j = c.port j := rfl
@[simp] theorem Chip.axis_noteFresh (f : Field) (v : Nat) (j : Axis) : (c.noteFresh f v).axis j = c.axis j := rfl
@[simp] theorem Chip.engine_noteFresh (f : Field) (v : Nat) (j : Region) : (c.noteFresh f v).engine j = c.engine j := rfl
@[simp] theorem Chip.bus_noteFresh (f : Field) (v : Nat) (j : Region) : (c.noteFresh f v).bus j = c.bus j := rfl
@[simp] theorem Chip.hk_noteFresh (f : Field) (v : Nat) (j : Region) : (c.noteFresh f v).hk j = c.hk j := rfl
@[simp] theorem Chip.sensor_noteFresh (f : Field) (v : Nat) (j : Fin 17) : (c.noteFresh f v).sensor j = c.sensor j := rfl
@[simp] theorem Chip.wm_noteFresh (f : Field) (v : Nat) (j : Fin 8) : (c.noteFresh f v).wm j = c.wm j := rfl
/-! ### mark -/

@[simp] theorem Chip.mark_hold (f : Field) : (c.mark f).hold = c.hold := rfl
@[simp] theorem Chip.mark_tickRegs (f : Field) : (c.mark f).tickRegs = c.tickRegs := rfl
@[simp] theorem Chip.mark_wall (f : Field) : (c.mark f).wall = c.wall := rfl
@[simp] theorem Chip.mark_now (f : Field) : (c.mark f).now = c.now := rfl
@[simp] theorem Chip.mark_free (f : Field) : (c.mark f).free = c.free := rfl
@[simp] theorem Chip.mark_armTick (f : Field) : (c.mark f).armTick = c.armTick := rfl
@[simp] theorem Chip.mark_pwrDue (f : Field) : (c.mark f).pwrDue = c.pwrDue := rfl
@[simp] theorem Chip.mark_legs (f : Field) : (c.mark f).legs = c.legs := rfl
@[simp] theorem Chip.mark_links (f : Field) : (c.mark f).links = c.links := rfl
@[simp] theorem Chip.mark_tbs (f : Field) : (c.mark f).tbs = c.tbs := rfl
@[simp] theorem Chip.mark_cues (f : Field) : (c.mark f).cues = c.cues := rfl
@[simp] theorem Chip.mark_slices (f : Field) : (c.mark f).slices = c.slices := rfl
@[simp] theorem Chip.mark_unders (f : Field) : (c.mark f).unders = c.unders := rfl
@[simp] theorem Chip.mark_rsvs (f : Field) : (c.mark f).rsvs = c.rsvs := rfl
@[simp] theorem Chip.mark_excPos (f : Field) : (c.mark f).excPos = c.excPos := rfl
@[simp] theorem Chip.mark_excTick (f : Field) : (c.mark f).excTick = c.excTick := rfl
@[simp] theorem Chip.mark_ports (f : Field) : (c.mark f).ports = c.ports := rfl
@[simp] theorem Chip.mark_axes (f : Field) : (c.mark f).axes = c.axes := rfl
@[simp] theorem Chip.mark_engines (f : Field) : (c.mark f).engines = c.engines := rfl
@[simp] theorem Chip.mark_buses (f : Field) : (c.mark f).buses = c.buses := rfl
@[simp] theorem Chip.mark_hks (f : Field) : (c.mark f).hks = c.hks := rfl
@[simp] theorem Chip.mark_hkSettle (f : Field) : (c.mark f).hkSettle = c.hkSettle := rfl
@[simp] theorem Chip.mark_houseTick (f : Field) : (c.mark f).houseTick = c.houseTick := rfl
@[simp] theorem Chip.mark_roundTick (f : Field) : (c.mark f).roundTick = c.roundTick := rfl
@[simp] theorem Chip.mark_hkAge (f : Field) : (c.mark f).hkAge = c.hkAge := rfl
@[simp] theorem Chip.mark_hkUsed (f : Field) : (c.mark f).hkUsed = c.hkUsed := rfl
@[simp] theorem Chip.mark_xchRun (f : Field) : (c.mark f).xchRun = c.xchRun := rfl
@[simp] theorem Chip.mark_sensors (f : Field) : (c.mark f).sensors = c.sensors := rfl
@[simp] theorem Chip.mark_wms (f : Field) : (c.mark f).wms = c.wms := rfl
@[simp] theorem Chip.mark_faults (f : Field) : (c.mark f).faults = c.faults := rfl
@[simp] theorem Chip.mark_load (f : Field) : (c.mark f).load = c.load := rfl
@[simp] theorem Chip.mark_nvc (f : Field) : (c.mark f).nvc = c.nvc := rfl
@[simp] theorem Chip.mark_hp (f : Field) : (c.mark f).hp = c.hp := rfl
@[simp] theorem Chip.mark_can (f : Field) : (c.mark f).can = c.can := rfl
@[simp] theorem Chip.mark_rng (f : Field) : (c.mark f).rng = c.rng := rfl
@[simp] theorem Chip.mark_duty (f : Field) : (c.mark f).duty = c.duty := rfl
@[simp] theorem Chip.leg_mark (f : Field) (j : Leg) : (c.mark f).leg j = c.leg j := rfl
@[simp] theorem Chip.link_mark (f : Field) (j : Die) : (c.mark f).link j = c.link j := rfl
@[simp] theorem Chip.tb_mark (f : Field) (j : Tb) : (c.mark f).tb j = c.tb j := rfl
@[simp] theorem Chip.slice_mark (f : Field) (j : SliceId) : (c.mark f).slice j = c.slice j := rfl
@[simp] theorem Chip.under_mark (f : Field) (j : UDie) : (c.mark f).under j = c.under j := rfl
@[simp] theorem Chip.rsv_mark (f : Field) (j : Fin 4) : (c.mark f).rsv j = c.rsv j := rfl
@[simp] theorem Chip.port_mark (f : Field) (j : Port) : (c.mark f).port j = c.port j := rfl
@[simp] theorem Chip.axis_mark (f : Field) (j : Axis) : (c.mark f).axis j = c.axis j := rfl
@[simp] theorem Chip.engine_mark (f : Field) (j : Region) : (c.mark f).engine j = c.engine j := rfl
@[simp] theorem Chip.bus_mark (f : Field) (j : Region) : (c.mark f).bus j = c.bus j := rfl
@[simp] theorem Chip.hk_mark (f : Field) (j : Region) : (c.mark f).hk j = c.hk j := rfl
@[simp] theorem Chip.sensor_mark (f : Field) (j : Fin 17) : (c.mark f).sensor j = c.sensor j := rfl
@[simp] theorem Chip.wm_mark (f : Field) (j : Fin 8) : (c.mark f).wm j = c.wm j := rfl
/-! ### markIf -/

@[simp] theorem Chip.markIf_hold (b : Bool) (f : Field) : (c.markIf b f).hold = c.hold := by cases b <;> rfl
@[simp] theorem Chip.markIf_tickRegs (b : Bool) (f : Field) : (c.markIf b f).tickRegs = c.tickRegs := by cases b <;> rfl
@[simp] theorem Chip.markIf_wall (b : Bool) (f : Field) : (c.markIf b f).wall = c.wall := by cases b <;> rfl
@[simp] theorem Chip.markIf_now (b : Bool) (f : Field) : (c.markIf b f).now = c.now := by cases b <;> rfl
@[simp] theorem Chip.markIf_free (b : Bool) (f : Field) : (c.markIf b f).free = c.free := by cases b <;> rfl
@[simp] theorem Chip.markIf_armTick (b : Bool) (f : Field) : (c.markIf b f).armTick = c.armTick := by cases b <;> rfl
@[simp] theorem Chip.markIf_pwrDue (b : Bool) (f : Field) : (c.markIf b f).pwrDue = c.pwrDue := by cases b <;> rfl
@[simp] theorem Chip.markIf_legs (b : Bool) (f : Field) : (c.markIf b f).legs = c.legs := by cases b <;> rfl
@[simp] theorem Chip.markIf_links (b : Bool) (f : Field) : (c.markIf b f).links = c.links := by cases b <;> rfl
@[simp] theorem Chip.markIf_tbs (b : Bool) (f : Field) : (c.markIf b f).tbs = c.tbs := by cases b <;> rfl
@[simp] theorem Chip.markIf_cues (b : Bool) (f : Field) : (c.markIf b f).cues = c.cues := by cases b <;> rfl
@[simp] theorem Chip.markIf_slices (b : Bool) (f : Field) : (c.markIf b f).slices = c.slices := by cases b <;> rfl
@[simp] theorem Chip.markIf_unders (b : Bool) (f : Field) : (c.markIf b f).unders = c.unders := by cases b <;> rfl
@[simp] theorem Chip.markIf_rsvs (b : Bool) (f : Field) : (c.markIf b f).rsvs = c.rsvs := by cases b <;> rfl
@[simp] theorem Chip.markIf_excPos (b : Bool) (f : Field) : (c.markIf b f).excPos = c.excPos := by cases b <;> rfl
@[simp] theorem Chip.markIf_excTick (b : Bool) (f : Field) : (c.markIf b f).excTick = c.excTick := by cases b <;> rfl
@[simp] theorem Chip.markIf_ports (b : Bool) (f : Field) : (c.markIf b f).ports = c.ports := by cases b <;> rfl
@[simp] theorem Chip.markIf_axes (b : Bool) (f : Field) : (c.markIf b f).axes = c.axes := by cases b <;> rfl
@[simp] theorem Chip.markIf_engines (b : Bool) (f : Field) : (c.markIf b f).engines = c.engines := by cases b <;> rfl
@[simp] theorem Chip.markIf_buses (b : Bool) (f : Field) : (c.markIf b f).buses = c.buses := by cases b <;> rfl
@[simp] theorem Chip.markIf_hks (b : Bool) (f : Field) : (c.markIf b f).hks = c.hks := by cases b <;> rfl
@[simp] theorem Chip.markIf_hkSettle (b : Bool) (f : Field) : (c.markIf b f).hkSettle = c.hkSettle := by cases b <;> rfl
@[simp] theorem Chip.markIf_houseTick (b : Bool) (f : Field) : (c.markIf b f).houseTick = c.houseTick := by cases b <;> rfl
@[simp] theorem Chip.markIf_roundTick (b : Bool) (f : Field) : (c.markIf b f).roundTick = c.roundTick := by cases b <;> rfl
@[simp] theorem Chip.markIf_hkAge (b : Bool) (f : Field) : (c.markIf b f).hkAge = c.hkAge := by cases b <;> rfl
@[simp] theorem Chip.markIf_hkUsed (b : Bool) (f : Field) : (c.markIf b f).hkUsed = c.hkUsed := by cases b <;> rfl
@[simp] theorem Chip.markIf_xchRun (b : Bool) (f : Field) : (c.markIf b f).xchRun = c.xchRun := by cases b <;> rfl
@[simp] theorem Chip.markIf_sensors (b : Bool) (f : Field) : (c.markIf b f).sensors = c.sensors := by cases b <;> rfl
@[simp] theorem Chip.markIf_wms (b : Bool) (f : Field) : (c.markIf b f).wms = c.wms := by cases b <;> rfl
@[simp] theorem Chip.markIf_faults (b : Bool) (f : Field) : (c.markIf b f).faults = c.faults := by cases b <;> rfl
@[simp] theorem Chip.markIf_load (b : Bool) (f : Field) : (c.markIf b f).load = c.load := by cases b <;> rfl
@[simp] theorem Chip.markIf_nvc (b : Bool) (f : Field) : (c.markIf b f).nvc = c.nvc := by cases b <;> rfl
@[simp] theorem Chip.markIf_hp (b : Bool) (f : Field) : (c.markIf b f).hp = c.hp := by cases b <;> rfl
@[simp] theorem Chip.markIf_can (b : Bool) (f : Field) : (c.markIf b f).can = c.can := by cases b <;> rfl
@[simp] theorem Chip.markIf_rng (b : Bool) (f : Field) : (c.markIf b f).rng = c.rng := by cases b <;> rfl
@[simp] theorem Chip.markIf_duty (b : Bool) (f : Field) : (c.markIf b f).duty = c.duty := by cases b <;> rfl
@[simp] theorem Chip.leg_markIf (b : Bool) (f : Field) (j : Leg) : (c.markIf b f).leg j = c.leg j := by cases b <;> rfl
@[simp] theorem Chip.link_markIf (b : Bool) (f : Field) (j : Die) : (c.markIf b f).link j = c.link j := by cases b <;> rfl
@[simp] theorem Chip.tb_markIf (b : Bool) (f : Field) (j : Tb) : (c.markIf b f).tb j = c.tb j := by cases b <;> rfl
@[simp] theorem Chip.slice_markIf (b : Bool) (f : Field) (j : SliceId) : (c.markIf b f).slice j = c.slice j := by cases b <;> rfl
@[simp] theorem Chip.under_markIf (b : Bool) (f : Field) (j : UDie) : (c.markIf b f).under j = c.under j := by cases b <;> rfl
@[simp] theorem Chip.rsv_markIf (b : Bool) (f : Field) (j : Fin 4) : (c.markIf b f).rsv j = c.rsv j := by cases b <;> rfl
@[simp] theorem Chip.port_markIf (b : Bool) (f : Field) (j : Port) : (c.markIf b f).port j = c.port j := by cases b <;> rfl
@[simp] theorem Chip.axis_markIf (b : Bool) (f : Field) (j : Axis) : (c.markIf b f).axis j = c.axis j := by cases b <;> rfl
@[simp] theorem Chip.engine_markIf (b : Bool) (f : Field) (j : Region) : (c.markIf b f).engine j = c.engine j := by cases b <;> rfl
@[simp] theorem Chip.bus_markIf (b : Bool) (f : Field) (j : Region) : (c.markIf b f).bus j = c.bus j := by cases b <;> rfl
@[simp] theorem Chip.hk_markIf (b : Bool) (f : Field) (j : Region) : (c.markIf b f).hk j = c.hk j := by cases b <;> rfl
@[simp] theorem Chip.sensor_markIf (b : Bool) (f : Field) (j : Fin 17) : (c.markIf b f).sensor j = c.sensor j := by cases b <;> rfl
@[simp] theorem Chip.wm_markIf (b : Bool) (f : Field) (j : Fin 8) : (c.markIf b f).wm j = c.wm j := by cases b <;> rfl
/-! ### bump -/

@[simp] theorem Chip.bump_hold (f : Field) (n : Nat) : (c.bump f n).hold = c.hold := rfl
@[simp] theorem Chip.bump_tickRegs (f : Field) (n : Nat) : (c.bump f n).tickRegs = c.tickRegs := rfl
@[simp] theorem Chip.bump_wall (f : Field) (n : Nat) : (c.bump f n).wall = c.wall := rfl
@[simp] theorem Chip.bump_now (f : Field) (n : Nat) : (c.bump f n).now = c.now := rfl
@[simp] theorem Chip.bump_free (f : Field) (n : Nat) : (c.bump f n).free = c.free := rfl
@[simp] theorem Chip.bump_armTick (f : Field) (n : Nat) : (c.bump f n).armTick = c.armTick := rfl
@[simp] theorem Chip.bump_pwrDue (f : Field) (n : Nat) : (c.bump f n).pwrDue = c.pwrDue := rfl
@[simp] theorem Chip.bump_legs (f : Field) (n : Nat) : (c.bump f n).legs = c.legs := rfl
@[simp] theorem Chip.bump_links (f : Field) (n : Nat) : (c.bump f n).links = c.links := rfl
@[simp] theorem Chip.bump_tbs (f : Field) (n : Nat) : (c.bump f n).tbs = c.tbs := rfl
@[simp] theorem Chip.bump_cues (f : Field) (n : Nat) : (c.bump f n).cues = c.cues := rfl
@[simp] theorem Chip.bump_slices (f : Field) (n : Nat) : (c.bump f n).slices = c.slices := rfl
@[simp] theorem Chip.bump_unders (f : Field) (n : Nat) : (c.bump f n).unders = c.unders := rfl
@[simp] theorem Chip.bump_rsvs (f : Field) (n : Nat) : (c.bump f n).rsvs = c.rsvs := rfl
@[simp] theorem Chip.bump_excPos (f : Field) (n : Nat) : (c.bump f n).excPos = c.excPos := rfl
@[simp] theorem Chip.bump_excTick (f : Field) (n : Nat) : (c.bump f n).excTick = c.excTick := rfl
@[simp] theorem Chip.bump_ports (f : Field) (n : Nat) : (c.bump f n).ports = c.ports := rfl
@[simp] theorem Chip.bump_axes (f : Field) (n : Nat) : (c.bump f n).axes = c.axes := rfl
@[simp] theorem Chip.bump_engines (f : Field) (n : Nat) : (c.bump f n).engines = c.engines := rfl
@[simp] theorem Chip.bump_buses (f : Field) (n : Nat) : (c.bump f n).buses = c.buses := rfl
@[simp] theorem Chip.bump_hks (f : Field) (n : Nat) : (c.bump f n).hks = c.hks := rfl
@[simp] theorem Chip.bump_hkSettle (f : Field) (n : Nat) : (c.bump f n).hkSettle = c.hkSettle := rfl
@[simp] theorem Chip.bump_houseTick (f : Field) (n : Nat) : (c.bump f n).houseTick = c.houseTick := rfl
@[simp] theorem Chip.bump_roundTick (f : Field) (n : Nat) : (c.bump f n).roundTick = c.roundTick := rfl
@[simp] theorem Chip.bump_hkAge (f : Field) (n : Nat) : (c.bump f n).hkAge = c.hkAge := rfl
@[simp] theorem Chip.bump_hkUsed (f : Field) (n : Nat) : (c.bump f n).hkUsed = c.hkUsed := rfl
@[simp] theorem Chip.bump_xchRun (f : Field) (n : Nat) : (c.bump f n).xchRun = c.xchRun := rfl
@[simp] theorem Chip.bump_sensors (f : Field) (n : Nat) : (c.bump f n).sensors = c.sensors := rfl
@[simp] theorem Chip.bump_wms (f : Field) (n : Nat) : (c.bump f n).wms = c.wms := rfl
@[simp] theorem Chip.bump_faults (f : Field) (n : Nat) : (c.bump f n).faults = c.faults := rfl
@[simp] theorem Chip.bump_load (f : Field) (n : Nat) : (c.bump f n).load = c.load := rfl
@[simp] theorem Chip.bump_nvc (f : Field) (n : Nat) : (c.bump f n).nvc = c.nvc := rfl
@[simp] theorem Chip.bump_hp (f : Field) (n : Nat) : (c.bump f n).hp = c.hp := rfl
@[simp] theorem Chip.bump_can (f : Field) (n : Nat) : (c.bump f n).can = c.can := rfl
@[simp] theorem Chip.bump_rng (f : Field) (n : Nat) : (c.bump f n).rng = c.rng := rfl
@[simp] theorem Chip.bump_duty (f : Field) (n : Nat) : (c.bump f n).duty = c.duty := rfl
@[simp] theorem Chip.leg_bump (f : Field) (n : Nat) (j : Leg) : (c.bump f n).leg j = c.leg j := rfl
@[simp] theorem Chip.link_bump (f : Field) (n : Nat) (j : Die) : (c.bump f n).link j = c.link j := rfl
@[simp] theorem Chip.tb_bump (f : Field) (n : Nat) (j : Tb) : (c.bump f n).tb j = c.tb j := rfl
@[simp] theorem Chip.slice_bump (f : Field) (n : Nat) (j : SliceId) : (c.bump f n).slice j = c.slice j := rfl
@[simp] theorem Chip.under_bump (f : Field) (n : Nat) (j : UDie) : (c.bump f n).under j = c.under j := rfl
@[simp] theorem Chip.rsv_bump (f : Field) (n : Nat) (j : Fin 4) : (c.bump f n).rsv j = c.rsv j := rfl
@[simp] theorem Chip.port_bump (f : Field) (n : Nat) (j : Port) : (c.bump f n).port j = c.port j := rfl
@[simp] theorem Chip.axis_bump (f : Field) (n : Nat) (j : Axis) : (c.bump f n).axis j = c.axis j := rfl
@[simp] theorem Chip.engine_bump (f : Field) (n : Nat) (j : Region) : (c.bump f n).engine j = c.engine j := rfl
@[simp] theorem Chip.bus_bump (f : Field) (n : Nat) (j : Region) : (c.bump f n).bus j = c.bus j := rfl
@[simp] theorem Chip.hk_bump (f : Field) (n : Nat) (j : Region) : (c.bump f n).hk j = c.hk j := rfl
@[simp] theorem Chip.sensor_bump (f : Field) (n : Nat) (j : Fin 17) : (c.bump f n).sensor j = c.sensor j := rfl
@[simp] theorem Chip.wm_bump (f : Field) (n : Nat) (j : Fin 8) : (c.bump f n).wm j = c.wm j := rfl
/-! ### addWrap -/

@[simp] theorem Chip.addWrap_hold (f : Field) (i : Int) : (c.addWrap f i).hold = c.hold := rfl
@[simp] theorem Chip.addWrap_tickRegs (f : Field) (i : Int) : (c.addWrap f i).tickRegs = c.tickRegs := rfl
@[simp] theorem Chip.addWrap_fresh (f : Field) (i : Int) : (c.addWrap f i).fresh = c.fresh := rfl
@[simp] theorem Chip.addWrap_wall (f : Field) (i : Int) : (c.addWrap f i).wall = c.wall := rfl
@[simp] theorem Chip.addWrap_now (f : Field) (i : Int) : (c.addWrap f i).now = c.now := rfl
@[simp] theorem Chip.addWrap_free (f : Field) (i : Int) : (c.addWrap f i).free = c.free := rfl
@[simp] theorem Chip.addWrap_armTick (f : Field) (i : Int) : (c.addWrap f i).armTick = c.armTick := rfl
@[simp] theorem Chip.addWrap_pwrDue (f : Field) (i : Int) : (c.addWrap f i).pwrDue = c.pwrDue := rfl
@[simp] theorem Chip.addWrap_legs (f : Field) (i : Int) : (c.addWrap f i).legs = c.legs := rfl
@[simp] theorem Chip.addWrap_links (f : Field) (i : Int) : (c.addWrap f i).links = c.links := rfl
@[simp] theorem Chip.addWrap_tbs (f : Field) (i : Int) : (c.addWrap f i).tbs = c.tbs := rfl
@[simp] theorem Chip.addWrap_cues (f : Field) (i : Int) : (c.addWrap f i).cues = c.cues := rfl
@[simp] theorem Chip.addWrap_slices (f : Field) (i : Int) : (c.addWrap f i).slices = c.slices := rfl
@[simp] theorem Chip.addWrap_unders (f : Field) (i : Int) : (c.addWrap f i).unders = c.unders := rfl
@[simp] theorem Chip.addWrap_rsvs (f : Field) (i : Int) : (c.addWrap f i).rsvs = c.rsvs := rfl
@[simp] theorem Chip.addWrap_excPos (f : Field) (i : Int) : (c.addWrap f i).excPos = c.excPos := rfl
@[simp] theorem Chip.addWrap_excTick (f : Field) (i : Int) : (c.addWrap f i).excTick = c.excTick := rfl
@[simp] theorem Chip.addWrap_ports (f : Field) (i : Int) : (c.addWrap f i).ports = c.ports := rfl
@[simp] theorem Chip.addWrap_axes (f : Field) (i : Int) : (c.addWrap f i).axes = c.axes := rfl
@[simp] theorem Chip.addWrap_engines (f : Field) (i : Int) : (c.addWrap f i).engines = c.engines := rfl
@[simp] theorem Chip.addWrap_buses (f : Field) (i : Int) : (c.addWrap f i).buses = c.buses := rfl
@[simp] theorem Chip.addWrap_hks (f : Field) (i : Int) : (c.addWrap f i).hks = c.hks := rfl
@[simp] theorem Chip.addWrap_hkSettle (f : Field) (i : Int) : (c.addWrap f i).hkSettle = c.hkSettle := rfl
@[simp] theorem Chip.addWrap_houseTick (f : Field) (i : Int) : (c.addWrap f i).houseTick = c.houseTick := rfl
@[simp] theorem Chip.addWrap_roundTick (f : Field) (i : Int) : (c.addWrap f i).roundTick = c.roundTick := rfl
@[simp] theorem Chip.addWrap_hkAge (f : Field) (i : Int) : (c.addWrap f i).hkAge = c.hkAge := rfl
@[simp] theorem Chip.addWrap_hkUsed (f : Field) (i : Int) : (c.addWrap f i).hkUsed = c.hkUsed := rfl
@[simp] theorem Chip.addWrap_xchRun (f : Field) (i : Int) : (c.addWrap f i).xchRun = c.xchRun := rfl
@[simp] theorem Chip.addWrap_sensors (f : Field) (i : Int) : (c.addWrap f i).sensors = c.sensors := rfl
@[simp] theorem Chip.addWrap_wms (f : Field) (i : Int) : (c.addWrap f i).wms = c.wms := rfl
@[simp] theorem Chip.addWrap_faults (f : Field) (i : Int) : (c.addWrap f i).faults = c.faults := rfl
@[simp] theorem Chip.addWrap_load (f : Field) (i : Int) : (c.addWrap f i).load = c.load := rfl
@[simp] theorem Chip.addWrap_nvc (f : Field) (i : Int) : (c.addWrap f i).nvc = c.nvc := rfl
@[simp] theorem Chip.addWrap_hp (f : Field) (i : Int) : (c.addWrap f i).hp = c.hp := rfl
@[simp] theorem Chip.addWrap_can (f : Field) (i : Int) : (c.addWrap f i).can = c.can := rfl
@[simp] theorem Chip.addWrap_rng (f : Field) (i : Int) : (c.addWrap f i).rng = c.rng := rfl
@[simp] theorem Chip.addWrap_duty (f : Field) (i : Int) : (c.addWrap f i).duty = c.duty := rfl
@[simp] theorem Chip.leg_addWrap (f : Field) (i : Int) (j : Leg) : (c.addWrap f i).leg j = c.leg j := rfl
@[simp] theorem Chip.link_addWrap (f : Field) (i : Int) (j : Die) : (c.addWrap f i).link j = c.link j := rfl
@[simp] theorem Chip.tb_addWrap (f : Field) (i : Int) (j : Tb) : (c.addWrap f i).tb j = c.tb j := rfl
@[simp] theorem Chip.slice_addWrap (f : Field) (i : Int) (j : SliceId) : (c.addWrap f i).slice j = c.slice j := rfl
@[simp] theorem Chip.under_addWrap (f : Field) (i : Int) (j : UDie) : (c.addWrap f i).under j = c.under j := rfl
@[simp] theorem Chip.rsv_addWrap (f : Field) (i : Int) (j : Fin 4) : (c.addWrap f i).rsv j = c.rsv j := rfl
@[simp] theorem Chip.port_addWrap (f : Field) (i : Int) (j : Port) : (c.addWrap f i).port j = c.port j := rfl
@[simp] theorem Chip.axis_addWrap (f : Field) (i : Int) (j : Axis) : (c.addWrap f i).axis j = c.axis j := rfl
@[simp] theorem Chip.engine_addWrap (f : Field) (i : Int) (j : Region) : (c.addWrap f i).engine j = c.engine j := rfl
@[simp] theorem Chip.bus_addWrap (f : Field) (i : Int) (j : Region) : (c.addWrap f i).bus j = c.bus j := rfl
@[simp] theorem Chip.hk_addWrap (f : Field) (i : Int) (j : Region) : (c.addWrap f i).hk j = c.hk j := rfl
@[simp] theorem Chip.sensor_addWrap (f : Field) (i : Int) (j : Fin 17) : (c.addWrap f i).sensor j = c.sensor j := rfl
@[simp] theorem Chip.wm_addWrap (f : Field) (i : Int) (j : Fin 8) : (c.addWrap f i).wm j = c.wm j := rfl
/-! ### putMax -/

@[simp] theorem Chip.putMax_hold (f : Field) (v : Nat) : (c.putMax f v).hold = c.hold := rfl
@[simp] theorem Chip.putMax_tickRegs (f : Field) (v : Nat) : (c.putMax f v).tickRegs = c.tickRegs := rfl
@[simp] theorem Chip.putMax_wall (f : Field) (v : Nat) : (c.putMax f v).wall = c.wall := rfl
@[simp] theorem Chip.putMax_now (f : Field) (v : Nat) : (c.putMax f v).now = c.now := rfl
@[simp] theorem Chip.putMax_free (f : Field) (v : Nat) : (c.putMax f v).free = c.free := rfl
@[simp] theorem Chip.putMax_armTick (f : Field) (v : Nat) : (c.putMax f v).armTick = c.armTick := rfl
@[simp] theorem Chip.putMax_pwrDue (f : Field) (v : Nat) : (c.putMax f v).pwrDue = c.pwrDue := rfl
@[simp] theorem Chip.putMax_legs (f : Field) (v : Nat) : (c.putMax f v).legs = c.legs := rfl
@[simp] theorem Chip.putMax_links (f : Field) (v : Nat) : (c.putMax f v).links = c.links := rfl
@[simp] theorem Chip.putMax_tbs (f : Field) (v : Nat) : (c.putMax f v).tbs = c.tbs := rfl
@[simp] theorem Chip.putMax_cues (f : Field) (v : Nat) : (c.putMax f v).cues = c.cues := rfl
@[simp] theorem Chip.putMax_slices (f : Field) (v : Nat) : (c.putMax f v).slices = c.slices := rfl
@[simp] theorem Chip.putMax_unders (f : Field) (v : Nat) : (c.putMax f v).unders = c.unders := rfl
@[simp] theorem Chip.putMax_rsvs (f : Field) (v : Nat) : (c.putMax f v).rsvs = c.rsvs := rfl
@[simp] theorem Chip.putMax_excPos (f : Field) (v : Nat) : (c.putMax f v).excPos = c.excPos := rfl
@[simp] theorem Chip.putMax_excTick (f : Field) (v : Nat) : (c.putMax f v).excTick = c.excTick := rfl
@[simp] theorem Chip.putMax_ports (f : Field) (v : Nat) : (c.putMax f v).ports = c.ports := rfl
@[simp] theorem Chip.putMax_axes (f : Field) (v : Nat) : (c.putMax f v).axes = c.axes := rfl
@[simp] theorem Chip.putMax_engines (f : Field) (v : Nat) : (c.putMax f v).engines = c.engines := rfl
@[simp] theorem Chip.putMax_buses (f : Field) (v : Nat) : (c.putMax f v).buses = c.buses := rfl
@[simp] theorem Chip.putMax_hks (f : Field) (v : Nat) : (c.putMax f v).hks = c.hks := rfl
@[simp] theorem Chip.putMax_hkSettle (f : Field) (v : Nat) : (c.putMax f v).hkSettle = c.hkSettle := rfl
@[simp] theorem Chip.putMax_houseTick (f : Field) (v : Nat) : (c.putMax f v).houseTick = c.houseTick := rfl
@[simp] theorem Chip.putMax_roundTick (f : Field) (v : Nat) : (c.putMax f v).roundTick = c.roundTick := rfl
@[simp] theorem Chip.putMax_hkAge (f : Field) (v : Nat) : (c.putMax f v).hkAge = c.hkAge := rfl
@[simp] theorem Chip.putMax_hkUsed (f : Field) (v : Nat) : (c.putMax f v).hkUsed = c.hkUsed := rfl
@[simp] theorem Chip.putMax_xchRun (f : Field) (v : Nat) : (c.putMax f v).xchRun = c.xchRun := rfl
@[simp] theorem Chip.putMax_sensors (f : Field) (v : Nat) : (c.putMax f v).sensors = c.sensors := rfl
@[simp] theorem Chip.putMax_wms (f : Field) (v : Nat) : (c.putMax f v).wms = c.wms := rfl
@[simp] theorem Chip.putMax_faults (f : Field) (v : Nat) : (c.putMax f v).faults = c.faults := rfl
@[simp] theorem Chip.putMax_load (f : Field) (v : Nat) : (c.putMax f v).load = c.load := rfl
@[simp] theorem Chip.putMax_nvc (f : Field) (v : Nat) : (c.putMax f v).nvc = c.nvc := rfl
@[simp] theorem Chip.putMax_hp (f : Field) (v : Nat) : (c.putMax f v).hp = c.hp := rfl
@[simp] theorem Chip.putMax_can (f : Field) (v : Nat) : (c.putMax f v).can = c.can := rfl
@[simp] theorem Chip.putMax_rng (f : Field) (v : Nat) : (c.putMax f v).rng = c.rng := rfl
@[simp] theorem Chip.putMax_duty (f : Field) (v : Nat) : (c.putMax f v).duty = c.duty := rfl
@[simp] theorem Chip.leg_putMax (f : Field) (v : Nat) (j : Leg) : (c.putMax f v).leg j = c.leg j := rfl
@[simp] theorem Chip.link_putMax (f : Field) (v : Nat) (j : Die) : (c.putMax f v).link j = c.link j := rfl
@[simp] theorem Chip.tb_putMax (f : Field) (v : Nat) (j : Tb) : (c.putMax f v).tb j = c.tb j := rfl
@[simp] theorem Chip.slice_putMax (f : Field) (v : Nat) (j : SliceId) : (c.putMax f v).slice j = c.slice j := rfl
@[simp] theorem Chip.under_putMax (f : Field) (v : Nat) (j : UDie) : (c.putMax f v).under j = c.under j := rfl
@[simp] theorem Chip.rsv_putMax (f : Field) (v : Nat) (j : Fin 4) : (c.putMax f v).rsv j = c.rsv j := rfl
@[simp] theorem Chip.port_putMax (f : Field) (v : Nat) (j : Port) : (c.putMax f v).port j = c.port j := rfl
@[simp] theorem Chip.axis_putMax (f : Field) (v : Nat) (j : Axis) : (c.putMax f v).axis j = c.axis j := rfl
@[simp] theorem Chip.engine_putMax (f : Field) (v : Nat) (j : Region) : (c.putMax f v).engine j = c.engine j := rfl
@[simp] theorem Chip.bus_putMax (f : Field) (v : Nat) (j : Region) : (c.putMax f v).bus j = c.bus j := rfl
@[simp] theorem Chip.hk_putMax (f : Field) (v : Nat) (j : Region) : (c.putMax f v).hk j = c.hk j := rfl
@[simp] theorem Chip.sensor_putMax (f : Field) (v : Nat) (j : Fin 17) : (c.putMax f v).sensor j = c.sensor j := rfl
@[simp] theorem Chip.wm_putMax (f : Field) (v : Nat) (j : Fin 8) : (c.putMax f v).wm j = c.wm j := rfl
/-! ### put64 -/

@[simp] theorem Chip.put64_hold (a : Nat) (i : Int) : (c.put64 a i).hold = c.hold := rfl
@[simp] theorem Chip.put64_tickRegs (a : Nat) (i : Int) : (c.put64 a i).tickRegs = c.tickRegs := rfl
@[simp] theorem Chip.put64_fresh (a : Nat) (i : Int) : (c.put64 a i).fresh = c.fresh := rfl
@[simp] theorem Chip.put64_wall (a : Nat) (i : Int) : (c.put64 a i).wall = c.wall := rfl
@[simp] theorem Chip.put64_now (a : Nat) (i : Int) : (c.put64 a i).now = c.now := rfl
@[simp] theorem Chip.put64_free (a : Nat) (i : Int) : (c.put64 a i).free = c.free := rfl
@[simp] theorem Chip.put64_armTick (a : Nat) (i : Int) : (c.put64 a i).armTick = c.armTick := rfl
@[simp] theorem Chip.put64_pwrDue (a : Nat) (i : Int) : (c.put64 a i).pwrDue = c.pwrDue := rfl
@[simp] theorem Chip.put64_legs (a : Nat) (i : Int) : (c.put64 a i).legs = c.legs := rfl
@[simp] theorem Chip.put64_links (a : Nat) (i : Int) : (c.put64 a i).links = c.links := rfl
@[simp] theorem Chip.put64_tbs (a : Nat) (i : Int) : (c.put64 a i).tbs = c.tbs := rfl
@[simp] theorem Chip.put64_cues (a : Nat) (i : Int) : (c.put64 a i).cues = c.cues := rfl
@[simp] theorem Chip.put64_slices (a : Nat) (i : Int) : (c.put64 a i).slices = c.slices := rfl
@[simp] theorem Chip.put64_unders (a : Nat) (i : Int) : (c.put64 a i).unders = c.unders := rfl
@[simp] theorem Chip.put64_rsvs (a : Nat) (i : Int) : (c.put64 a i).rsvs = c.rsvs := rfl
@[simp] theorem Chip.put64_excPos (a : Nat) (i : Int) : (c.put64 a i).excPos = c.excPos := rfl
@[simp] theorem Chip.put64_excTick (a : Nat) (i : Int) : (c.put64 a i).excTick = c.excTick := rfl
@[simp] theorem Chip.put64_ports (a : Nat) (i : Int) : (c.put64 a i).ports = c.ports := rfl
@[simp] theorem Chip.put64_axes (a : Nat) (i : Int) : (c.put64 a i).axes = c.axes := rfl
@[simp] theorem Chip.put64_engines (a : Nat) (i : Int) : (c.put64 a i).engines = c.engines := rfl
@[simp] theorem Chip.put64_buses (a : Nat) (i : Int) : (c.put64 a i).buses = c.buses := rfl
@[simp] theorem Chip.put64_hks (a : Nat) (i : Int) : (c.put64 a i).hks = c.hks := rfl
@[simp] theorem Chip.put64_hkSettle (a : Nat) (i : Int) : (c.put64 a i).hkSettle = c.hkSettle := rfl
@[simp] theorem Chip.put64_houseTick (a : Nat) (i : Int) : (c.put64 a i).houseTick = c.houseTick := rfl
@[simp] theorem Chip.put64_roundTick (a : Nat) (i : Int) : (c.put64 a i).roundTick = c.roundTick := rfl
@[simp] theorem Chip.put64_hkAge (a : Nat) (i : Int) : (c.put64 a i).hkAge = c.hkAge := rfl
@[simp] theorem Chip.put64_hkUsed (a : Nat) (i : Int) : (c.put64 a i).hkUsed = c.hkUsed := rfl
@[simp] theorem Chip.put64_xchRun (a : Nat) (i : Int) : (c.put64 a i).xchRun = c.xchRun := rfl
@[simp] theorem Chip.put64_sensors (a : Nat) (i : Int) : (c.put64 a i).sensors = c.sensors := rfl
@[simp] theorem Chip.put64_wms (a : Nat) (i : Int) : (c.put64 a i).wms = c.wms := rfl
@[simp] theorem Chip.put64_faults (a : Nat) (i : Int) : (c.put64 a i).faults = c.faults := rfl
@[simp] theorem Chip.put64_load (a : Nat) (i : Int) : (c.put64 a i).load = c.load := rfl
@[simp] theorem Chip.put64_nvc (a : Nat) (i : Int) : (c.put64 a i).nvc = c.nvc := rfl
@[simp] theorem Chip.put64_hp (a : Nat) (i : Int) : (c.put64 a i).hp = c.hp := rfl
@[simp] theorem Chip.put64_can (a : Nat) (i : Int) : (c.put64 a i).can = c.can := rfl
@[simp] theorem Chip.put64_rng (a : Nat) (i : Int) : (c.put64 a i).rng = c.rng := rfl
@[simp] theorem Chip.put64_duty (a : Nat) (i : Int) : (c.put64 a i).duty = c.duty := rfl
@[simp] theorem Chip.leg_put64 (a : Nat) (i : Int) (j : Leg) : (c.put64 a i).leg j = c.leg j := rfl
@[simp] theorem Chip.link_put64 (a : Nat) (i : Int) (j : Die) : (c.put64 a i).link j = c.link j := rfl
@[simp] theorem Chip.tb_put64 (a : Nat) (i : Int) (j : Tb) : (c.put64 a i).tb j = c.tb j := rfl
@[simp] theorem Chip.slice_put64 (a : Nat) (i : Int) (j : SliceId) : (c.put64 a i).slice j = c.slice j := rfl
@[simp] theorem Chip.under_put64 (a : Nat) (i : Int) (j : UDie) : (c.put64 a i).under j = c.under j := rfl
@[simp] theorem Chip.rsv_put64 (a : Nat) (i : Int) (j : Fin 4) : (c.put64 a i).rsv j = c.rsv j := rfl
@[simp] theorem Chip.port_put64 (a : Nat) (i : Int) (j : Port) : (c.put64 a i).port j = c.port j := rfl
@[simp] theorem Chip.axis_put64 (a : Nat) (i : Int) (j : Axis) : (c.put64 a i).axis j = c.axis j := rfl
@[simp] theorem Chip.engine_put64 (a : Nat) (i : Int) (j : Region) : (c.put64 a i).engine j = c.engine j := rfl
@[simp] theorem Chip.bus_put64 (a : Nat) (i : Int) (j : Region) : (c.put64 a i).bus j = c.bus j := rfl
@[simp] theorem Chip.hk_put64 (a : Nat) (i : Int) (j : Region) : (c.put64 a i).hk j = c.hk j := rfl
@[simp] theorem Chip.sensor_put64 (a : Nat) (i : Int) (j : Fin 17) : (c.put64 a i).sensor j = c.sensor j := rfl
@[simp] theorem Chip.wm_put64 (a : Nat) (i : Int) (j : Fin 8) : (c.put64 a i).wm j = c.wm j := rfl
/-! ### add64 -/

@[simp] theorem Chip.add64_hold (a : Nat) (i : Int) : (c.add64 a i).hold = c.hold := rfl
@[simp] theorem Chip.add64_tickRegs (a : Nat) (i : Int) : (c.add64 a i).tickRegs = c.tickRegs := rfl
@[simp] theorem Chip.add64_fresh (a : Nat) (i : Int) : (c.add64 a i).fresh = c.fresh := rfl
@[simp] theorem Chip.add64_wall (a : Nat) (i : Int) : (c.add64 a i).wall = c.wall := rfl
@[simp] theorem Chip.add64_now (a : Nat) (i : Int) : (c.add64 a i).now = c.now := rfl
@[simp] theorem Chip.add64_free (a : Nat) (i : Int) : (c.add64 a i).free = c.free := rfl
@[simp] theorem Chip.add64_armTick (a : Nat) (i : Int) : (c.add64 a i).armTick = c.armTick := rfl
@[simp] theorem Chip.add64_pwrDue (a : Nat) (i : Int) : (c.add64 a i).pwrDue = c.pwrDue := rfl
@[simp] theorem Chip.add64_legs (a : Nat) (i : Int) : (c.add64 a i).legs = c.legs := rfl
@[simp] theorem Chip.add64_links (a : Nat) (i : Int) : (c.add64 a i).links = c.links := rfl
@[simp] theorem Chip.add64_tbs (a : Nat) (i : Int) : (c.add64 a i).tbs = c.tbs := rfl
@[simp] theorem Chip.add64_cues (a : Nat) (i : Int) : (c.add64 a i).cues = c.cues := rfl
@[simp] theorem Chip.add64_slices (a : Nat) (i : Int) : (c.add64 a i).slices = c.slices := rfl
@[simp] theorem Chip.add64_unders (a : Nat) (i : Int) : (c.add64 a i).unders = c.unders := rfl
@[simp] theorem Chip.add64_rsvs (a : Nat) (i : Int) : (c.add64 a i).rsvs = c.rsvs := rfl
@[simp] theorem Chip.add64_excPos (a : Nat) (i : Int) : (c.add64 a i).excPos = c.excPos := rfl
@[simp] theorem Chip.add64_excTick (a : Nat) (i : Int) : (c.add64 a i).excTick = c.excTick := rfl
@[simp] theorem Chip.add64_ports (a : Nat) (i : Int) : (c.add64 a i).ports = c.ports := rfl
@[simp] theorem Chip.add64_axes (a : Nat) (i : Int) : (c.add64 a i).axes = c.axes := rfl
@[simp] theorem Chip.add64_engines (a : Nat) (i : Int) : (c.add64 a i).engines = c.engines := rfl
@[simp] theorem Chip.add64_buses (a : Nat) (i : Int) : (c.add64 a i).buses = c.buses := rfl
@[simp] theorem Chip.add64_hks (a : Nat) (i : Int) : (c.add64 a i).hks = c.hks := rfl
@[simp] theorem Chip.add64_hkSettle (a : Nat) (i : Int) : (c.add64 a i).hkSettle = c.hkSettle := rfl
@[simp] theorem Chip.add64_houseTick (a : Nat) (i : Int) : (c.add64 a i).houseTick = c.houseTick := rfl
@[simp] theorem Chip.add64_roundTick (a : Nat) (i : Int) : (c.add64 a i).roundTick = c.roundTick := rfl
@[simp] theorem Chip.add64_hkAge (a : Nat) (i : Int) : (c.add64 a i).hkAge = c.hkAge := rfl
@[simp] theorem Chip.add64_hkUsed (a : Nat) (i : Int) : (c.add64 a i).hkUsed = c.hkUsed := rfl
@[simp] theorem Chip.add64_xchRun (a : Nat) (i : Int) : (c.add64 a i).xchRun = c.xchRun := rfl
@[simp] theorem Chip.add64_sensors (a : Nat) (i : Int) : (c.add64 a i).sensors = c.sensors := rfl
@[simp] theorem Chip.add64_wms (a : Nat) (i : Int) : (c.add64 a i).wms = c.wms := rfl
@[simp] theorem Chip.add64_faults (a : Nat) (i : Int) : (c.add64 a i).faults = c.faults := rfl
@[simp] theorem Chip.add64_load (a : Nat) (i : Int) : (c.add64 a i).load = c.load := rfl
@[simp] theorem Chip.add64_nvc (a : Nat) (i : Int) : (c.add64 a i).nvc = c.nvc := rfl
@[simp] theorem Chip.add64_hp (a : Nat) (i : Int) : (c.add64 a i).hp = c.hp := rfl
@[simp] theorem Chip.add64_can (a : Nat) (i : Int) : (c.add64 a i).can = c.can := rfl
@[simp] theorem Chip.add64_rng (a : Nat) (i : Int) : (c.add64 a i).rng = c.rng := rfl
@[simp] theorem Chip.add64_duty (a : Nat) (i : Int) : (c.add64 a i).duty = c.duty := rfl
@[simp] theorem Chip.leg_add64 (a : Nat) (i : Int) (j : Leg) : (c.add64 a i).leg j = c.leg j := rfl
@[simp] theorem Chip.link_add64 (a : Nat) (i : Int) (j : Die) : (c.add64 a i).link j = c.link j := rfl
@[simp] theorem Chip.tb_add64 (a : Nat) (i : Int) (j : Tb) : (c.add64 a i).tb j = c.tb j := rfl
@[simp] theorem Chip.slice_add64 (a : Nat) (i : Int) (j : SliceId) : (c.add64 a i).slice j = c.slice j := rfl
@[simp] theorem Chip.under_add64 (a : Nat) (i : Int) (j : UDie) : (c.add64 a i).under j = c.under j := rfl
@[simp] theorem Chip.rsv_add64 (a : Nat) (i : Int) (j : Fin 4) : (c.add64 a i).rsv j = c.rsv j := rfl
@[simp] theorem Chip.port_add64 (a : Nat) (i : Int) (j : Port) : (c.add64 a i).port j = c.port j := rfl
@[simp] theorem Chip.axis_add64 (a : Nat) (i : Int) (j : Axis) : (c.add64 a i).axis j = c.axis j := rfl
@[simp] theorem Chip.engine_add64 (a : Nat) (i : Int) (j : Region) : (c.add64 a i).engine j = c.engine j := rfl
@[simp] theorem Chip.bus_add64 (a : Nat) (i : Int) (j : Region) : (c.add64 a i).bus j = c.bus j := rfl
@[simp] theorem Chip.hk_add64 (a : Nat) (i : Int) (j : Region) : (c.add64 a i).hk j = c.hk j := rfl
@[simp] theorem Chip.sensor_add64 (a : Nat) (i : Int) (j : Fin 17) : (c.add64 a i).sensor j = c.sensor j := rfl
@[simp] theorem Chip.wm_add64 (a : Nat) (i : Int) (j : Fin 8) : (c.add64 a i).wm j = c.wm j := rfl
/-! ### setLeg -/

@[simp] theorem Chip.setLeg_regs (l : Leg) (x : LegState) : (c.setLeg l x).regs = c.regs := rfl
@[simp] theorem Chip.setLeg_hold (l : Leg) (x : LegState) : (c.setLeg l x).hold = c.hold := rfl
@[simp] theorem Chip.setLeg_tickRegs (l : Leg) (x : LegState) : (c.setLeg l x).tickRegs = c.tickRegs := rfl
@[simp] theorem Chip.setLeg_fresh (l : Leg) (x : LegState) : (c.setLeg l x).fresh = c.fresh := rfl
@[simp] theorem Chip.setLeg_wall (l : Leg) (x : LegState) : (c.setLeg l x).wall = c.wall := rfl
@[simp] theorem Chip.setLeg_now (l : Leg) (x : LegState) : (c.setLeg l x).now = c.now := rfl
@[simp] theorem Chip.setLeg_free (l : Leg) (x : LegState) : (c.setLeg l x).free = c.free := rfl
@[simp] theorem Chip.setLeg_armTick (l : Leg) (x : LegState) : (c.setLeg l x).armTick = c.armTick := rfl
@[simp] theorem Chip.setLeg_pwrDue (l : Leg) (x : LegState) : (c.setLeg l x).pwrDue = c.pwrDue := rfl
@[simp] theorem Chip.setLeg_links (l : Leg) (x : LegState) : (c.setLeg l x).links = c.links := rfl
@[simp] theorem Chip.setLeg_tbs (l : Leg) (x : LegState) : (c.setLeg l x).tbs = c.tbs := rfl
@[simp] theorem Chip.setLeg_cues (l : Leg) (x : LegState) : (c.setLeg l x).cues = c.cues := rfl
@[simp] theorem Chip.setLeg_slices (l : Leg) (x : LegState) : (c.setLeg l x).slices = c.slices := rfl
@[simp] theorem Chip.setLeg_unders (l : Leg) (x : LegState) : (c.setLeg l x).unders = c.unders := rfl
@[simp] theorem Chip.setLeg_rsvs (l : Leg) (x : LegState) : (c.setLeg l x).rsvs = c.rsvs := rfl
@[simp] theorem Chip.setLeg_excPos (l : Leg) (x : LegState) : (c.setLeg l x).excPos = c.excPos := rfl
@[simp] theorem Chip.setLeg_excTick (l : Leg) (x : LegState) : (c.setLeg l x).excTick = c.excTick := rfl
@[simp] theorem Chip.setLeg_ports (l : Leg) (x : LegState) : (c.setLeg l x).ports = c.ports := rfl
@[simp] theorem Chip.setLeg_axes (l : Leg) (x : LegState) : (c.setLeg l x).axes = c.axes := rfl
@[simp] theorem Chip.setLeg_engines (l : Leg) (x : LegState) : (c.setLeg l x).engines = c.engines := rfl
@[simp] theorem Chip.setLeg_buses (l : Leg) (x : LegState) : (c.setLeg l x).buses = c.buses := rfl
@[simp] theorem Chip.setLeg_hks (l : Leg) (x : LegState) : (c.setLeg l x).hks = c.hks := rfl
@[simp] theorem Chip.setLeg_hkSettle (l : Leg) (x : LegState) : (c.setLeg l x).hkSettle = c.hkSettle := rfl
@[simp] theorem Chip.setLeg_houseTick (l : Leg) (x : LegState) : (c.setLeg l x).houseTick = c.houseTick := rfl
@[simp] theorem Chip.setLeg_roundTick (l : Leg) (x : LegState) : (c.setLeg l x).roundTick = c.roundTick := rfl
@[simp] theorem Chip.setLeg_hkAge (l : Leg) (x : LegState) : (c.setLeg l x).hkAge = c.hkAge := rfl
@[simp] theorem Chip.setLeg_hkUsed (l : Leg) (x : LegState) : (c.setLeg l x).hkUsed = c.hkUsed := rfl
@[simp] theorem Chip.setLeg_xchRun (l : Leg) (x : LegState) : (c.setLeg l x).xchRun = c.xchRun := rfl
@[simp] theorem Chip.setLeg_sensors (l : Leg) (x : LegState) : (c.setLeg l x).sensors = c.sensors := rfl
@[simp] theorem Chip.setLeg_wms (l : Leg) (x : LegState) : (c.setLeg l x).wms = c.wms := rfl
@[simp] theorem Chip.setLeg_faults (l : Leg) (x : LegState) : (c.setLeg l x).faults = c.faults := rfl
@[simp] theorem Chip.setLeg_load (l : Leg) (x : LegState) : (c.setLeg l x).load = c.load := rfl
@[simp] theorem Chip.setLeg_nvc (l : Leg) (x : LegState) : (c.setLeg l x).nvc = c.nvc := rfl
@[simp] theorem Chip.setLeg_hp (l : Leg) (x : LegState) : (c.setLeg l x).hp = c.hp := rfl
@[simp] theorem Chip.setLeg_can (l : Leg) (x : LegState) : (c.setLeg l x).can = c.can := rfl
@[simp] theorem Chip.setLeg_rng (l : Leg) (x : LegState) : (c.setLeg l x).rng = c.rng := rfl
@[simp] theorem Chip.setLeg_duty (l : Leg) (x : LegState) : (c.setLeg l x).duty = c.duty := rfl
@[simp] theorem Chip.setLeg_reg (l : Leg) (x : LegState) (j : Nat) : (c.setLeg l x).reg j = c.reg j := rfl
@[simp] theorem Chip.setLeg_get (l : Leg) (x : LegState) (g : Field) : (c.setLeg l x).get g = c.get g := rfl
@[simp] theorem Chip.setLeg_flag (l : Leg) (x : LegState) (g : Field) : (c.setLeg l x).flag g = c.flag g := rfl
@[simp] theorem Chip.leg_setLeg (l : Leg) (x : LegState) : (c.setLeg l x).leg l = x := by
  simp [Chip.setLeg, Chip.leg]
theorem Chip.leg_setLeg_ne (l : Leg) (x : LegState) {j : Leg} (h : j ≠ l) : (c.setLeg l x).leg j = c.leg j := by
  have h' : l.val ≠ j.val := fun e => h (Fin.ext e.symm)
  simp [Chip.setLeg, Chip.leg, h']
@[simp] theorem Chip.link_setLeg (l : Leg) (x : LegState) (j : Die) : (c.setLeg l x).link j = c.link j := rfl
@[simp] theorem Chip.tb_setLeg (l : Leg) (x : LegState) (j : Tb) : (c.setLeg l x).tb j = c.tb j := rfl
@[simp] theorem Chip.slice_setLeg (l : Leg) (x : LegState) (j : SliceId) : (c.setLeg l x).slice j = c.slice j := rfl
@[simp] theorem Chip.under_setLeg (l : Leg) (x : LegState) (j : UDie) : (c.setLeg l x).under j = c.under j := rfl
@[simp] theorem Chip.rsv_setLeg (l : Leg) (x : LegState) (j : Fin 4) : (c.setLeg l x).rsv j = c.rsv j := rfl
@[simp] theorem Chip.port_setLeg (l : Leg) (x : LegState) (j : Port) : (c.setLeg l x).port j = c.port j := rfl
@[simp] theorem Chip.axis_setLeg (l : Leg) (x : LegState) (j : Axis) : (c.setLeg l x).axis j = c.axis j := rfl
@[simp] theorem Chip.engine_setLeg (l : Leg) (x : LegState) (j : Region) : (c.setLeg l x).engine j = c.engine j := rfl
@[simp] theorem Chip.bus_setLeg (l : Leg) (x : LegState) (j : Region) : (c.setLeg l x).bus j = c.bus j := rfl
@[simp] theorem Chip.hk_setLeg (l : Leg) (x : LegState) (j : Region) : (c.setLeg l x).hk j = c.hk j := rfl
@[simp] theorem Chip.sensor_setLeg (l : Leg) (x : LegState) (j : Fin 17) : (c.setLeg l x).sensor j = c.sensor j := rfl
@[simp] theorem Chip.wm_setLeg (l : Leg) (x : LegState) (j : Fin 8) : (c.setLeg l x).wm j = c.wm j := rfl
/-! ### setLink -/

@[simp] theorem Chip.setLink_regs (d : Die) (x : LinkState) : (c.setLink d x).regs = c.regs := rfl
@[simp] theorem Chip.setLink_hold (d : Die) (x : LinkState) : (c.setLink d x).hold = c.hold := rfl
@[simp] theorem Chip.setLink_tickRegs (d : Die) (x : LinkState) : (c.setLink d x).tickRegs = c.tickRegs := rfl
@[simp] theorem Chip.setLink_fresh (d : Die) (x : LinkState) : (c.setLink d x).fresh = c.fresh := rfl
@[simp] theorem Chip.setLink_wall (d : Die) (x : LinkState) : (c.setLink d x).wall = c.wall := rfl
@[simp] theorem Chip.setLink_now (d : Die) (x : LinkState) : (c.setLink d x).now = c.now := rfl
@[simp] theorem Chip.setLink_free (d : Die) (x : LinkState) : (c.setLink d x).free = c.free := rfl
@[simp] theorem Chip.setLink_armTick (d : Die) (x : LinkState) : (c.setLink d x).armTick = c.armTick := rfl
@[simp] theorem Chip.setLink_pwrDue (d : Die) (x : LinkState) : (c.setLink d x).pwrDue = c.pwrDue := rfl
@[simp] theorem Chip.setLink_legs (d : Die) (x : LinkState) : (c.setLink d x).legs = c.legs := rfl
@[simp] theorem Chip.setLink_tbs (d : Die) (x : LinkState) : (c.setLink d x).tbs = c.tbs := rfl
@[simp] theorem Chip.setLink_cues (d : Die) (x : LinkState) : (c.setLink d x).cues = c.cues := rfl
@[simp] theorem Chip.setLink_slices (d : Die) (x : LinkState) : (c.setLink d x).slices = c.slices := rfl
@[simp] theorem Chip.setLink_unders (d : Die) (x : LinkState) : (c.setLink d x).unders = c.unders := rfl
@[simp] theorem Chip.setLink_rsvs (d : Die) (x : LinkState) : (c.setLink d x).rsvs = c.rsvs := rfl
@[simp] theorem Chip.setLink_excPos (d : Die) (x : LinkState) : (c.setLink d x).excPos = c.excPos := rfl
@[simp] theorem Chip.setLink_excTick (d : Die) (x : LinkState) : (c.setLink d x).excTick = c.excTick := rfl
@[simp] theorem Chip.setLink_ports (d : Die) (x : LinkState) : (c.setLink d x).ports = c.ports := rfl
@[simp] theorem Chip.setLink_axes (d : Die) (x : LinkState) : (c.setLink d x).axes = c.axes := rfl
@[simp] theorem Chip.setLink_engines (d : Die) (x : LinkState) : (c.setLink d x).engines = c.engines := rfl
@[simp] theorem Chip.setLink_buses (d : Die) (x : LinkState) : (c.setLink d x).buses = c.buses := rfl
@[simp] theorem Chip.setLink_hks (d : Die) (x : LinkState) : (c.setLink d x).hks = c.hks := rfl
@[simp] theorem Chip.setLink_hkSettle (d : Die) (x : LinkState) : (c.setLink d x).hkSettle = c.hkSettle := rfl
@[simp] theorem Chip.setLink_houseTick (d : Die) (x : LinkState) : (c.setLink d x).houseTick = c.houseTick := rfl
@[simp] theorem Chip.setLink_roundTick (d : Die) (x : LinkState) : (c.setLink d x).roundTick = c.roundTick := rfl
@[simp] theorem Chip.setLink_hkAge (d : Die) (x : LinkState) : (c.setLink d x).hkAge = c.hkAge := rfl
@[simp] theorem Chip.setLink_hkUsed (d : Die) (x : LinkState) : (c.setLink d x).hkUsed = c.hkUsed := rfl
@[simp] theorem Chip.setLink_xchRun (d : Die) (x : LinkState) : (c.setLink d x).xchRun = c.xchRun := rfl
@[simp] theorem Chip.setLink_sensors (d : Die) (x : LinkState) : (c.setLink d x).sensors = c.sensors := rfl
@[simp] theorem Chip.setLink_wms (d : Die) (x : LinkState) : (c.setLink d x).wms = c.wms := rfl
@[simp] theorem Chip.setLink_faults (d : Die) (x : LinkState) : (c.setLink d x).faults = c.faults := rfl
@[simp] theorem Chip.setLink_load (d : Die) (x : LinkState) : (c.setLink d x).load = c.load := rfl
@[simp] theorem Chip.setLink_nvc (d : Die) (x : LinkState) : (c.setLink d x).nvc = c.nvc := rfl
@[simp] theorem Chip.setLink_hp (d : Die) (x : LinkState) : (c.setLink d x).hp = c.hp := rfl
@[simp] theorem Chip.setLink_can (d : Die) (x : LinkState) : (c.setLink d x).can = c.can := rfl
@[simp] theorem Chip.setLink_rng (d : Die) (x : LinkState) : (c.setLink d x).rng = c.rng := rfl
@[simp] theorem Chip.setLink_duty (d : Die) (x : LinkState) : (c.setLink d x).duty = c.duty := rfl
@[simp] theorem Chip.setLink_reg (d : Die) (x : LinkState) (j : Nat) : (c.setLink d x).reg j = c.reg j := rfl
@[simp] theorem Chip.setLink_get (d : Die) (x : LinkState) (g : Field) : (c.setLink d x).get g = c.get g := rfl
@[simp] theorem Chip.setLink_flag (d : Die) (x : LinkState) (g : Field) : (c.setLink d x).flag g = c.flag g := rfl
@[simp] theorem Chip.link_setLink (d : Die) (x : LinkState) : (c.setLink d x).link d = x := by
  simp [Chip.setLink, Chip.link]
theorem Chip.link_setLink_ne (d : Die) (x : LinkState) {j : Die} (h : j ≠ d) : (c.setLink d x).link j = c.link j := by
  have h' : d.val ≠ j.val := fun e => h (Fin.ext e.symm)
  simp [Chip.setLink, Chip.link, h']
@[simp] theorem Chip.leg_setLink (d : Die) (x : LinkState) (j : Leg) : (c.setLink d x).leg j = c.leg j := rfl
@[simp] theorem Chip.tb_setLink (d : Die) (x : LinkState) (j : Tb) : (c.setLink d x).tb j = c.tb j := rfl
@[simp] theorem Chip.slice_setLink (d : Die) (x : LinkState) (j : SliceId) : (c.setLink d x).slice j = c.slice j := rfl
@[simp] theorem Chip.under_setLink (d : Die) (x : LinkState) (j : UDie) : (c.setLink d x).under j = c.under j := rfl
@[simp] theorem Chip.rsv_setLink (d : Die) (x : LinkState) (j : Fin 4) : (c.setLink d x).rsv j = c.rsv j := rfl
@[simp] theorem Chip.port_setLink (d : Die) (x : LinkState) (j : Port) : (c.setLink d x).port j = c.port j := rfl
@[simp] theorem Chip.axis_setLink (d : Die) (x : LinkState) (j : Axis) : (c.setLink d x).axis j = c.axis j := rfl
@[simp] theorem Chip.engine_setLink (d : Die) (x : LinkState) (j : Region) : (c.setLink d x).engine j = c.engine j := rfl
@[simp] theorem Chip.bus_setLink (d : Die) (x : LinkState) (j : Region) : (c.setLink d x).bus j = c.bus j := rfl
@[simp] theorem Chip.hk_setLink (d : Die) (x : LinkState) (j : Region) : (c.setLink d x).hk j = c.hk j := rfl
@[simp] theorem Chip.sensor_setLink (d : Die) (x : LinkState) (j : Fin 17) : (c.setLink d x).sensor j = c.sensor j := rfl
@[simp] theorem Chip.wm_setLink (d : Die) (x : LinkState) (j : Fin 8) : (c.setLink d x).wm j = c.wm j := rfl
/-! ### setTb -/

@[simp] theorem Chip.setTb_regs (n : Tb) (x : TbState) : (c.setTb n x).regs = c.regs := rfl
@[simp] theorem Chip.setTb_hold (n : Tb) (x : TbState) : (c.setTb n x).hold = c.hold := rfl
@[simp] theorem Chip.setTb_tickRegs (n : Tb) (x : TbState) : (c.setTb n x).tickRegs = c.tickRegs := rfl
@[simp] theorem Chip.setTb_fresh (n : Tb) (x : TbState) : (c.setTb n x).fresh = c.fresh := rfl
@[simp] theorem Chip.setTb_wall (n : Tb) (x : TbState) : (c.setTb n x).wall = c.wall := rfl
@[simp] theorem Chip.setTb_now (n : Tb) (x : TbState) : (c.setTb n x).now = c.now := rfl
@[simp] theorem Chip.setTb_free (n : Tb) (x : TbState) : (c.setTb n x).free = c.free := rfl
@[simp] theorem Chip.setTb_armTick (n : Tb) (x : TbState) : (c.setTb n x).armTick = c.armTick := rfl
@[simp] theorem Chip.setTb_pwrDue (n : Tb) (x : TbState) : (c.setTb n x).pwrDue = c.pwrDue := rfl
@[simp] theorem Chip.setTb_legs (n : Tb) (x : TbState) : (c.setTb n x).legs = c.legs := rfl
@[simp] theorem Chip.setTb_links (n : Tb) (x : TbState) : (c.setTb n x).links = c.links := rfl
@[simp] theorem Chip.setTb_cues (n : Tb) (x : TbState) : (c.setTb n x).cues = c.cues := rfl
@[simp] theorem Chip.setTb_slices (n : Tb) (x : TbState) : (c.setTb n x).slices = c.slices := rfl
@[simp] theorem Chip.setTb_unders (n : Tb) (x : TbState) : (c.setTb n x).unders = c.unders := rfl
@[simp] theorem Chip.setTb_rsvs (n : Tb) (x : TbState) : (c.setTb n x).rsvs = c.rsvs := rfl
@[simp] theorem Chip.setTb_excPos (n : Tb) (x : TbState) : (c.setTb n x).excPos = c.excPos := rfl
@[simp] theorem Chip.setTb_excTick (n : Tb) (x : TbState) : (c.setTb n x).excTick = c.excTick := rfl
@[simp] theorem Chip.setTb_ports (n : Tb) (x : TbState) : (c.setTb n x).ports = c.ports := rfl
@[simp] theorem Chip.setTb_axes (n : Tb) (x : TbState) : (c.setTb n x).axes = c.axes := rfl
@[simp] theorem Chip.setTb_engines (n : Tb) (x : TbState) : (c.setTb n x).engines = c.engines := rfl
@[simp] theorem Chip.setTb_buses (n : Tb) (x : TbState) : (c.setTb n x).buses = c.buses := rfl
@[simp] theorem Chip.setTb_hks (n : Tb) (x : TbState) : (c.setTb n x).hks = c.hks := rfl
@[simp] theorem Chip.setTb_hkSettle (n : Tb) (x : TbState) : (c.setTb n x).hkSettle = c.hkSettle := rfl
@[simp] theorem Chip.setTb_houseTick (n : Tb) (x : TbState) : (c.setTb n x).houseTick = c.houseTick := rfl
@[simp] theorem Chip.setTb_roundTick (n : Tb) (x : TbState) : (c.setTb n x).roundTick = c.roundTick := rfl
@[simp] theorem Chip.setTb_hkAge (n : Tb) (x : TbState) : (c.setTb n x).hkAge = c.hkAge := rfl
@[simp] theorem Chip.setTb_hkUsed (n : Tb) (x : TbState) : (c.setTb n x).hkUsed = c.hkUsed := rfl
@[simp] theorem Chip.setTb_xchRun (n : Tb) (x : TbState) : (c.setTb n x).xchRun = c.xchRun := rfl
@[simp] theorem Chip.setTb_sensors (n : Tb) (x : TbState) : (c.setTb n x).sensors = c.sensors := rfl
@[simp] theorem Chip.setTb_wms (n : Tb) (x : TbState) : (c.setTb n x).wms = c.wms := rfl
@[simp] theorem Chip.setTb_faults (n : Tb) (x : TbState) : (c.setTb n x).faults = c.faults := rfl
@[simp] theorem Chip.setTb_load (n : Tb) (x : TbState) : (c.setTb n x).load = c.load := rfl
@[simp] theorem Chip.setTb_nvc (n : Tb) (x : TbState) : (c.setTb n x).nvc = c.nvc := rfl
@[simp] theorem Chip.setTb_hp (n : Tb) (x : TbState) : (c.setTb n x).hp = c.hp := rfl
@[simp] theorem Chip.setTb_can (n : Tb) (x : TbState) : (c.setTb n x).can = c.can := rfl
@[simp] theorem Chip.setTb_rng (n : Tb) (x : TbState) : (c.setTb n x).rng = c.rng := rfl
@[simp] theorem Chip.setTb_duty (n : Tb) (x : TbState) : (c.setTb n x).duty = c.duty := rfl
@[simp] theorem Chip.setTb_reg (n : Tb) (x : TbState) (j : Nat) : (c.setTb n x).reg j = c.reg j := rfl
@[simp] theorem Chip.setTb_get (n : Tb) (x : TbState) (g : Field) : (c.setTb n x).get g = c.get g := rfl
@[simp] theorem Chip.setTb_flag (n : Tb) (x : TbState) (g : Field) : (c.setTb n x).flag g = c.flag g := rfl
@[simp] theorem Chip.tb_setTb (n : Tb) (x : TbState) : (c.setTb n x).tb n = x := by
  simp [Chip.setTb, Chip.tb]
theorem Chip.tb_setTb_ne (n : Tb) (x : TbState) {j : Tb} (h : j ≠ n) : (c.setTb n x).tb j = c.tb j := by
  have h' : n.val ≠ j.val := fun e => h (Fin.ext e.symm)
  simp [Chip.setTb, Chip.tb, h']
@[simp] theorem Chip.leg_setTb (n : Tb) (x : TbState) (j : Leg) : (c.setTb n x).leg j = c.leg j := rfl
@[simp] theorem Chip.link_setTb (n : Tb) (x : TbState) (j : Die) : (c.setTb n x).link j = c.link j := rfl
@[simp] theorem Chip.slice_setTb (n : Tb) (x : TbState) (j : SliceId) : (c.setTb n x).slice j = c.slice j := rfl
@[simp] theorem Chip.under_setTb (n : Tb) (x : TbState) (j : UDie) : (c.setTb n x).under j = c.under j := rfl
@[simp] theorem Chip.rsv_setTb (n : Tb) (x : TbState) (j : Fin 4) : (c.setTb n x).rsv j = c.rsv j := rfl
@[simp] theorem Chip.port_setTb (n : Tb) (x : TbState) (j : Port) : (c.setTb n x).port j = c.port j := rfl
@[simp] theorem Chip.axis_setTb (n : Tb) (x : TbState) (j : Axis) : (c.setTb n x).axis j = c.axis j := rfl
@[simp] theorem Chip.engine_setTb (n : Tb) (x : TbState) (j : Region) : (c.setTb n x).engine j = c.engine j := rfl
@[simp] theorem Chip.bus_setTb (n : Tb) (x : TbState) (j : Region) : (c.setTb n x).bus j = c.bus j := rfl
@[simp] theorem Chip.hk_setTb (n : Tb) (x : TbState) (j : Region) : (c.setTb n x).hk j = c.hk j := rfl
@[simp] theorem Chip.sensor_setTb (n : Tb) (x : TbState) (j : Fin 17) : (c.setTb n x).sensor j = c.sensor j := rfl
@[simp] theorem Chip.wm_setTb (n : Tb) (x : TbState) (j : Fin 8) : (c.setTb n x).wm j = c.wm j := rfl
/-! ### setSlice -/

@[simp] theorem Chip.setSlice_regs (k : SliceId) (x : SliceState) : (c.setSlice k x).regs = c.regs := rfl
@[simp] theorem Chip.setSlice_hold (k : SliceId) (x : SliceState) : (c.setSlice k x).hold = c.hold := rfl
@[simp] theorem Chip.setSlice_tickRegs (k : SliceId) (x : SliceState) : (c.setSlice k x).tickRegs = c.tickRegs := rfl
@[simp] theorem Chip.setSlice_fresh (k : SliceId) (x : SliceState) : (c.setSlice k x).fresh = c.fresh := rfl
@[simp] theorem Chip.setSlice_wall (k : SliceId) (x : SliceState) : (c.setSlice k x).wall = c.wall := rfl
@[simp] theorem Chip.setSlice_now (k : SliceId) (x : SliceState) : (c.setSlice k x).now = c.now := rfl
@[simp] theorem Chip.setSlice_free (k : SliceId) (x : SliceState) : (c.setSlice k x).free = c.free := rfl
@[simp] theorem Chip.setSlice_armTick (k : SliceId) (x : SliceState) : (c.setSlice k x).armTick = c.armTick := rfl
@[simp] theorem Chip.setSlice_pwrDue (k : SliceId) (x : SliceState) : (c.setSlice k x).pwrDue = c.pwrDue := rfl
@[simp] theorem Chip.setSlice_legs (k : SliceId) (x : SliceState) : (c.setSlice k x).legs = c.legs := rfl
@[simp] theorem Chip.setSlice_links (k : SliceId) (x : SliceState) : (c.setSlice k x).links = c.links := rfl
@[simp] theorem Chip.setSlice_tbs (k : SliceId) (x : SliceState) : (c.setSlice k x).tbs = c.tbs := rfl
@[simp] theorem Chip.setSlice_cues (k : SliceId) (x : SliceState) : (c.setSlice k x).cues = c.cues := rfl
@[simp] theorem Chip.setSlice_unders (k : SliceId) (x : SliceState) : (c.setSlice k x).unders = c.unders := rfl
@[simp] theorem Chip.setSlice_rsvs (k : SliceId) (x : SliceState) : (c.setSlice k x).rsvs = c.rsvs := rfl
@[simp] theorem Chip.setSlice_excPos (k : SliceId) (x : SliceState) : (c.setSlice k x).excPos = c.excPos := rfl
@[simp] theorem Chip.setSlice_excTick (k : SliceId) (x : SliceState) : (c.setSlice k x).excTick = c.excTick := rfl
@[simp] theorem Chip.setSlice_ports (k : SliceId) (x : SliceState) : (c.setSlice k x).ports = c.ports := rfl
@[simp] theorem Chip.setSlice_axes (k : SliceId) (x : SliceState) : (c.setSlice k x).axes = c.axes := rfl
@[simp] theorem Chip.setSlice_engines (k : SliceId) (x : SliceState) : (c.setSlice k x).engines = c.engines := rfl
@[simp] theorem Chip.setSlice_buses (k : SliceId) (x : SliceState) : (c.setSlice k x).buses = c.buses := rfl
@[simp] theorem Chip.setSlice_hks (k : SliceId) (x : SliceState) : (c.setSlice k x).hks = c.hks := rfl
@[simp] theorem Chip.setSlice_hkSettle (k : SliceId) (x : SliceState) : (c.setSlice k x).hkSettle = c.hkSettle := rfl
@[simp] theorem Chip.setSlice_houseTick (k : SliceId) (x : SliceState) : (c.setSlice k x).houseTick = c.houseTick := rfl
@[simp] theorem Chip.setSlice_roundTick (k : SliceId) (x : SliceState) : (c.setSlice k x).roundTick = c.roundTick := rfl
@[simp] theorem Chip.setSlice_hkAge (k : SliceId) (x : SliceState) : (c.setSlice k x).hkAge = c.hkAge := rfl
@[simp] theorem Chip.setSlice_hkUsed (k : SliceId) (x : SliceState) : (c.setSlice k x).hkUsed = c.hkUsed := rfl
@[simp] theorem Chip.setSlice_xchRun (k : SliceId) (x : SliceState) : (c.setSlice k x).xchRun = c.xchRun := rfl
@[simp] theorem Chip.setSlice_sensors (k : SliceId) (x : SliceState) : (c.setSlice k x).sensors = c.sensors := rfl
@[simp] theorem Chip.setSlice_wms (k : SliceId) (x : SliceState) : (c.setSlice k x).wms = c.wms := rfl
@[simp] theorem Chip.setSlice_faults (k : SliceId) (x : SliceState) : (c.setSlice k x).faults = c.faults := rfl
@[simp] theorem Chip.setSlice_load (k : SliceId) (x : SliceState) : (c.setSlice k x).load = c.load := rfl
@[simp] theorem Chip.setSlice_nvc (k : SliceId) (x : SliceState) : (c.setSlice k x).nvc = c.nvc := rfl
@[simp] theorem Chip.setSlice_hp (k : SliceId) (x : SliceState) : (c.setSlice k x).hp = c.hp := rfl
@[simp] theorem Chip.setSlice_can (k : SliceId) (x : SliceState) : (c.setSlice k x).can = c.can := rfl
@[simp] theorem Chip.setSlice_rng (k : SliceId) (x : SliceState) : (c.setSlice k x).rng = c.rng := rfl
@[simp] theorem Chip.setSlice_duty (k : SliceId) (x : SliceState) : (c.setSlice k x).duty = c.duty := rfl
@[simp] theorem Chip.setSlice_reg (k : SliceId) (x : SliceState) (j : Nat) : (c.setSlice k x).reg j = c.reg j := rfl
@[simp] theorem Chip.setSlice_get (k : SliceId) (x : SliceState) (g : Field) : (c.setSlice k x).get g = c.get g := rfl
@[simp] theorem Chip.setSlice_flag (k : SliceId) (x : SliceState) (g : Field) : (c.setSlice k x).flag g = c.flag g := rfl
@[simp] theorem Chip.slice_setSlice (k : SliceId) (x : SliceState) : (c.setSlice k x).slice k = x := by
  simp [Chip.setSlice, Chip.slice]
theorem Chip.slice_setSlice_ne (k : SliceId) (x : SliceState) {j : SliceId} (h : j ≠ k) : (c.setSlice k x).slice j = c.slice j := by
  have h' : k.val ≠ j.val := fun e => h (Fin.ext e.symm)
  simp [Chip.setSlice, Chip.slice, h']
@[simp] theorem Chip.leg_setSlice (k : SliceId) (x : SliceState) (j : Leg) : (c.setSlice k x).leg j = c.leg j := rfl
@[simp] theorem Chip.link_setSlice (k : SliceId) (x : SliceState) (j : Die) : (c.setSlice k x).link j = c.link j := rfl
@[simp] theorem Chip.tb_setSlice (k : SliceId) (x : SliceState) (j : Tb) : (c.setSlice k x).tb j = c.tb j := rfl
@[simp] theorem Chip.under_setSlice (k : SliceId) (x : SliceState) (j : UDie) : (c.setSlice k x).under j = c.under j := rfl
@[simp] theorem Chip.rsv_setSlice (k : SliceId) (x : SliceState) (j : Fin 4) : (c.setSlice k x).rsv j = c.rsv j := rfl
@[simp] theorem Chip.port_setSlice (k : SliceId) (x : SliceState) (j : Port) : (c.setSlice k x).port j = c.port j := rfl
@[simp] theorem Chip.axis_setSlice (k : SliceId) (x : SliceState) (j : Axis) : (c.setSlice k x).axis j = c.axis j := rfl
@[simp] theorem Chip.engine_setSlice (k : SliceId) (x : SliceState) (j : Region) : (c.setSlice k x).engine j = c.engine j := rfl
@[simp] theorem Chip.bus_setSlice (k : SliceId) (x : SliceState) (j : Region) : (c.setSlice k x).bus j = c.bus j := rfl
@[simp] theorem Chip.hk_setSlice (k : SliceId) (x : SliceState) (j : Region) : (c.setSlice k x).hk j = c.hk j := rfl
@[simp] theorem Chip.sensor_setSlice (k : SliceId) (x : SliceState) (j : Fin 17) : (c.setSlice k x).sensor j = c.sensor j := rfl
@[simp] theorem Chip.wm_setSlice (k : SliceId) (x : SliceState) (j : Fin 8) : (c.setSlice k x).wm j = c.wm j := rfl
/-! ### setUnder -/

@[simp] theorem Chip.setUnder_regs (d : UDie) (x : UnderState) : (c.setUnder d x).regs = c.regs := rfl
@[simp] theorem Chip.setUnder_hold (d : UDie) (x : UnderState) : (c.setUnder d x).hold = c.hold := rfl
@[simp] theorem Chip.setUnder_tickRegs (d : UDie) (x : UnderState) : (c.setUnder d x).tickRegs = c.tickRegs := rfl
@[simp] theorem Chip.setUnder_fresh (d : UDie) (x : UnderState) : (c.setUnder d x).fresh = c.fresh := rfl
@[simp] theorem Chip.setUnder_wall (d : UDie) (x : UnderState) : (c.setUnder d x).wall = c.wall := rfl
@[simp] theorem Chip.setUnder_now (d : UDie) (x : UnderState) : (c.setUnder d x).now = c.now := rfl
@[simp] theorem Chip.setUnder_free (d : UDie) (x : UnderState) : (c.setUnder d x).free = c.free := rfl
@[simp] theorem Chip.setUnder_armTick (d : UDie) (x : UnderState) : (c.setUnder d x).armTick = c.armTick := rfl
@[simp] theorem Chip.setUnder_pwrDue (d : UDie) (x : UnderState) : (c.setUnder d x).pwrDue = c.pwrDue := rfl
@[simp] theorem Chip.setUnder_legs (d : UDie) (x : UnderState) : (c.setUnder d x).legs = c.legs := rfl
@[simp] theorem Chip.setUnder_links (d : UDie) (x : UnderState) : (c.setUnder d x).links = c.links := rfl
@[simp] theorem Chip.setUnder_tbs (d : UDie) (x : UnderState) : (c.setUnder d x).tbs = c.tbs := rfl
@[simp] theorem Chip.setUnder_cues (d : UDie) (x : UnderState) : (c.setUnder d x).cues = c.cues := rfl
@[simp] theorem Chip.setUnder_slices (d : UDie) (x : UnderState) : (c.setUnder d x).slices = c.slices := rfl
@[simp] theorem Chip.setUnder_rsvs (d : UDie) (x : UnderState) : (c.setUnder d x).rsvs = c.rsvs := rfl
@[simp] theorem Chip.setUnder_excPos (d : UDie) (x : UnderState) : (c.setUnder d x).excPos = c.excPos := rfl
@[simp] theorem Chip.setUnder_excTick (d : UDie) (x : UnderState) : (c.setUnder d x).excTick = c.excTick := rfl
@[simp] theorem Chip.setUnder_ports (d : UDie) (x : UnderState) : (c.setUnder d x).ports = c.ports := rfl
@[simp] theorem Chip.setUnder_axes (d : UDie) (x : UnderState) : (c.setUnder d x).axes = c.axes := rfl
@[simp] theorem Chip.setUnder_engines (d : UDie) (x : UnderState) : (c.setUnder d x).engines = c.engines := rfl
@[simp] theorem Chip.setUnder_buses (d : UDie) (x : UnderState) : (c.setUnder d x).buses = c.buses := rfl
@[simp] theorem Chip.setUnder_hks (d : UDie) (x : UnderState) : (c.setUnder d x).hks = c.hks := rfl
@[simp] theorem Chip.setUnder_hkSettle (d : UDie) (x : UnderState) : (c.setUnder d x).hkSettle = c.hkSettle := rfl
@[simp] theorem Chip.setUnder_houseTick (d : UDie) (x : UnderState) : (c.setUnder d x).houseTick = c.houseTick := rfl
@[simp] theorem Chip.setUnder_roundTick (d : UDie) (x : UnderState) : (c.setUnder d x).roundTick = c.roundTick := rfl
@[simp] theorem Chip.setUnder_hkAge (d : UDie) (x : UnderState) : (c.setUnder d x).hkAge = c.hkAge := rfl
@[simp] theorem Chip.setUnder_hkUsed (d : UDie) (x : UnderState) : (c.setUnder d x).hkUsed = c.hkUsed := rfl
@[simp] theorem Chip.setUnder_xchRun (d : UDie) (x : UnderState) : (c.setUnder d x).xchRun = c.xchRun := rfl
@[simp] theorem Chip.setUnder_sensors (d : UDie) (x : UnderState) : (c.setUnder d x).sensors = c.sensors := rfl
@[simp] theorem Chip.setUnder_wms (d : UDie) (x : UnderState) : (c.setUnder d x).wms = c.wms := rfl
@[simp] theorem Chip.setUnder_faults (d : UDie) (x : UnderState) : (c.setUnder d x).faults = c.faults := rfl
@[simp] theorem Chip.setUnder_load (d : UDie) (x : UnderState) : (c.setUnder d x).load = c.load := rfl
@[simp] theorem Chip.setUnder_nvc (d : UDie) (x : UnderState) : (c.setUnder d x).nvc = c.nvc := rfl
@[simp] theorem Chip.setUnder_hp (d : UDie) (x : UnderState) : (c.setUnder d x).hp = c.hp := rfl
@[simp] theorem Chip.setUnder_can (d : UDie) (x : UnderState) : (c.setUnder d x).can = c.can := rfl
@[simp] theorem Chip.setUnder_rng (d : UDie) (x : UnderState) : (c.setUnder d x).rng = c.rng := rfl
@[simp] theorem Chip.setUnder_duty (d : UDie) (x : UnderState) : (c.setUnder d x).duty = c.duty := rfl
@[simp] theorem Chip.setUnder_reg (d : UDie) (x : UnderState) (j : Nat) : (c.setUnder d x).reg j = c.reg j := rfl
@[simp] theorem Chip.setUnder_get (d : UDie) (x : UnderState) (g : Field) : (c.setUnder d x).get g = c.get g := rfl
@[simp] theorem Chip.setUnder_flag (d : UDie) (x : UnderState) (g : Field) : (c.setUnder d x).flag g = c.flag g := rfl
@[simp] theorem Chip.under_setUnder (d : UDie) (x : UnderState) : (c.setUnder d x).under d = x := by
  simp [Chip.setUnder, Chip.under]
theorem Chip.under_setUnder_ne (d : UDie) (x : UnderState) {j : UDie} (h : j ≠ d) : (c.setUnder d x).under j = c.under j := by
  have h' : d.val ≠ j.val := fun e => h (Fin.ext e.symm)
  simp [Chip.setUnder, Chip.under, h']
@[simp] theorem Chip.leg_setUnder (d : UDie) (x : UnderState) (j : Leg) : (c.setUnder d x).leg j = c.leg j := rfl
@[simp] theorem Chip.link_setUnder (d : UDie) (x : UnderState) (j : Die) : (c.setUnder d x).link j = c.link j := rfl
@[simp] theorem Chip.tb_setUnder (d : UDie) (x : UnderState) (j : Tb) : (c.setUnder d x).tb j = c.tb j := rfl
@[simp] theorem Chip.slice_setUnder (d : UDie) (x : UnderState) (j : SliceId) : (c.setUnder d x).slice j = c.slice j := rfl
@[simp] theorem Chip.rsv_setUnder (d : UDie) (x : UnderState) (j : Fin 4) : (c.setUnder d x).rsv j = c.rsv j := rfl
@[simp] theorem Chip.port_setUnder (d : UDie) (x : UnderState) (j : Port) : (c.setUnder d x).port j = c.port j := rfl
@[simp] theorem Chip.axis_setUnder (d : UDie) (x : UnderState) (j : Axis) : (c.setUnder d x).axis j = c.axis j := rfl
@[simp] theorem Chip.engine_setUnder (d : UDie) (x : UnderState) (j : Region) : (c.setUnder d x).engine j = c.engine j := rfl
@[simp] theorem Chip.bus_setUnder (d : UDie) (x : UnderState) (j : Region) : (c.setUnder d x).bus j = c.bus j := rfl
@[simp] theorem Chip.hk_setUnder (d : UDie) (x : UnderState) (j : Region) : (c.setUnder d x).hk j = c.hk j := rfl
@[simp] theorem Chip.sensor_setUnder (d : UDie) (x : UnderState) (j : Fin 17) : (c.setUnder d x).sensor j = c.sensor j := rfl
@[simp] theorem Chip.wm_setUnder (d : UDie) (x : UnderState) (j : Fin 8) : (c.setUnder d x).wm j = c.wm j := rfl
/-! ### setRsv -/

@[simp] theorem Chip.setRsv_regs (m : Fin 4) (x : RsvState) : (c.setRsv m x).regs = c.regs := rfl
@[simp] theorem Chip.setRsv_hold (m : Fin 4) (x : RsvState) : (c.setRsv m x).hold = c.hold := rfl
@[simp] theorem Chip.setRsv_tickRegs (m : Fin 4) (x : RsvState) : (c.setRsv m x).tickRegs = c.tickRegs := rfl
@[simp] theorem Chip.setRsv_fresh (m : Fin 4) (x : RsvState) : (c.setRsv m x).fresh = c.fresh := rfl
@[simp] theorem Chip.setRsv_wall (m : Fin 4) (x : RsvState) : (c.setRsv m x).wall = c.wall := rfl
@[simp] theorem Chip.setRsv_now (m : Fin 4) (x : RsvState) : (c.setRsv m x).now = c.now := rfl
@[simp] theorem Chip.setRsv_free (m : Fin 4) (x : RsvState) : (c.setRsv m x).free = c.free := rfl
@[simp] theorem Chip.setRsv_armTick (m : Fin 4) (x : RsvState) : (c.setRsv m x).armTick = c.armTick := rfl
@[simp] theorem Chip.setRsv_pwrDue (m : Fin 4) (x : RsvState) : (c.setRsv m x).pwrDue = c.pwrDue := rfl
@[simp] theorem Chip.setRsv_legs (m : Fin 4) (x : RsvState) : (c.setRsv m x).legs = c.legs := rfl
@[simp] theorem Chip.setRsv_links (m : Fin 4) (x : RsvState) : (c.setRsv m x).links = c.links := rfl
@[simp] theorem Chip.setRsv_tbs (m : Fin 4) (x : RsvState) : (c.setRsv m x).tbs = c.tbs := rfl
@[simp] theorem Chip.setRsv_cues (m : Fin 4) (x : RsvState) : (c.setRsv m x).cues = c.cues := rfl
@[simp] theorem Chip.setRsv_slices (m : Fin 4) (x : RsvState) : (c.setRsv m x).slices = c.slices := rfl
@[simp] theorem Chip.setRsv_unders (m : Fin 4) (x : RsvState) : (c.setRsv m x).unders = c.unders := rfl
@[simp] theorem Chip.setRsv_excPos (m : Fin 4) (x : RsvState) : (c.setRsv m x).excPos = c.excPos := rfl
@[simp] theorem Chip.setRsv_excTick (m : Fin 4) (x : RsvState) : (c.setRsv m x).excTick = c.excTick := rfl
@[simp] theorem Chip.setRsv_ports (m : Fin 4) (x : RsvState) : (c.setRsv m x).ports = c.ports := rfl
@[simp] theorem Chip.setRsv_axes (m : Fin 4) (x : RsvState) : (c.setRsv m x).axes = c.axes := rfl
@[simp] theorem Chip.setRsv_engines (m : Fin 4) (x : RsvState) : (c.setRsv m x).engines = c.engines := rfl
@[simp] theorem Chip.setRsv_buses (m : Fin 4) (x : RsvState) : (c.setRsv m x).buses = c.buses := rfl
@[simp] theorem Chip.setRsv_hks (m : Fin 4) (x : RsvState) : (c.setRsv m x).hks = c.hks := rfl
@[simp] theorem Chip.setRsv_hkSettle (m : Fin 4) (x : RsvState) : (c.setRsv m x).hkSettle = c.hkSettle := rfl
@[simp] theorem Chip.setRsv_houseTick (m : Fin 4) (x : RsvState) : (c.setRsv m x).houseTick = c.houseTick := rfl
@[simp] theorem Chip.setRsv_roundTick (m : Fin 4) (x : RsvState) : (c.setRsv m x).roundTick = c.roundTick := rfl
@[simp] theorem Chip.setRsv_hkAge (m : Fin 4) (x : RsvState) : (c.setRsv m x).hkAge = c.hkAge := rfl
@[simp] theorem Chip.setRsv_hkUsed (m : Fin 4) (x : RsvState) : (c.setRsv m x).hkUsed = c.hkUsed := rfl
@[simp] theorem Chip.setRsv_xchRun (m : Fin 4) (x : RsvState) : (c.setRsv m x).xchRun = c.xchRun := rfl
@[simp] theorem Chip.setRsv_sensors (m : Fin 4) (x : RsvState) : (c.setRsv m x).sensors = c.sensors := rfl
@[simp] theorem Chip.setRsv_wms (m : Fin 4) (x : RsvState) : (c.setRsv m x).wms = c.wms := rfl
@[simp] theorem Chip.setRsv_faults (m : Fin 4) (x : RsvState) : (c.setRsv m x).faults = c.faults := rfl
@[simp] theorem Chip.setRsv_load (m : Fin 4) (x : RsvState) : (c.setRsv m x).load = c.load := rfl
@[simp] theorem Chip.setRsv_nvc (m : Fin 4) (x : RsvState) : (c.setRsv m x).nvc = c.nvc := rfl
@[simp] theorem Chip.setRsv_hp (m : Fin 4) (x : RsvState) : (c.setRsv m x).hp = c.hp := rfl
@[simp] theorem Chip.setRsv_can (m : Fin 4) (x : RsvState) : (c.setRsv m x).can = c.can := rfl
@[simp] theorem Chip.setRsv_rng (m : Fin 4) (x : RsvState) : (c.setRsv m x).rng = c.rng := rfl
@[simp] theorem Chip.setRsv_duty (m : Fin 4) (x : RsvState) : (c.setRsv m x).duty = c.duty := rfl
@[simp] theorem Chip.setRsv_reg (m : Fin 4) (x : RsvState) (j : Nat) : (c.setRsv m x).reg j = c.reg j := rfl
@[simp] theorem Chip.setRsv_get (m : Fin 4) (x : RsvState) (g : Field) : (c.setRsv m x).get g = c.get g := rfl
@[simp] theorem Chip.setRsv_flag (m : Fin 4) (x : RsvState) (g : Field) : (c.setRsv m x).flag g = c.flag g := rfl
@[simp] theorem Chip.rsv_setRsv (m : Fin 4) (x : RsvState) : (c.setRsv m x).rsv m = x := by
  simp [Chip.setRsv, Chip.rsv]
theorem Chip.rsv_setRsv_ne (m : Fin 4) (x : RsvState) {j : Fin 4} (h : j ≠ m) : (c.setRsv m x).rsv j = c.rsv j := by
  have h' : m.val ≠ j.val := fun e => h (Fin.ext e.symm)
  simp [Chip.setRsv, Chip.rsv, h']
@[simp] theorem Chip.leg_setRsv (m : Fin 4) (x : RsvState) (j : Leg) : (c.setRsv m x).leg j = c.leg j := rfl
@[simp] theorem Chip.link_setRsv (m : Fin 4) (x : RsvState) (j : Die) : (c.setRsv m x).link j = c.link j := rfl
@[simp] theorem Chip.tb_setRsv (m : Fin 4) (x : RsvState) (j : Tb) : (c.setRsv m x).tb j = c.tb j := rfl
@[simp] theorem Chip.slice_setRsv (m : Fin 4) (x : RsvState) (j : SliceId) : (c.setRsv m x).slice j = c.slice j := rfl
@[simp] theorem Chip.under_setRsv (m : Fin 4) (x : RsvState) (j : UDie) : (c.setRsv m x).under j = c.under j := rfl
@[simp] theorem Chip.port_setRsv (m : Fin 4) (x : RsvState) (j : Port) : (c.setRsv m x).port j = c.port j := rfl
@[simp] theorem Chip.axis_setRsv (m : Fin 4) (x : RsvState) (j : Axis) : (c.setRsv m x).axis j = c.axis j := rfl
@[simp] theorem Chip.engine_setRsv (m : Fin 4) (x : RsvState) (j : Region) : (c.setRsv m x).engine j = c.engine j := rfl
@[simp] theorem Chip.bus_setRsv (m : Fin 4) (x : RsvState) (j : Region) : (c.setRsv m x).bus j = c.bus j := rfl
@[simp] theorem Chip.hk_setRsv (m : Fin 4) (x : RsvState) (j : Region) : (c.setRsv m x).hk j = c.hk j := rfl
@[simp] theorem Chip.sensor_setRsv (m : Fin 4) (x : RsvState) (j : Fin 17) : (c.setRsv m x).sensor j = c.sensor j := rfl
@[simp] theorem Chip.wm_setRsv (m : Fin 4) (x : RsvState) (j : Fin 8) : (c.setRsv m x).wm j = c.wm j := rfl
/-! ### setPort -/

@[simp] theorem Chip.setPort_regs (p : Port) (x : PortState) : (c.setPort p x).regs = c.regs := rfl
@[simp] theorem Chip.setPort_hold (p : Port) (x : PortState) : (c.setPort p x).hold = c.hold := rfl
@[simp] theorem Chip.setPort_tickRegs (p : Port) (x : PortState) : (c.setPort p x).tickRegs = c.tickRegs := rfl
@[simp] theorem Chip.setPort_fresh (p : Port) (x : PortState) : (c.setPort p x).fresh = c.fresh := rfl
@[simp] theorem Chip.setPort_wall (p : Port) (x : PortState) : (c.setPort p x).wall = c.wall := rfl
@[simp] theorem Chip.setPort_now (p : Port) (x : PortState) : (c.setPort p x).now = c.now := rfl
@[simp] theorem Chip.setPort_free (p : Port) (x : PortState) : (c.setPort p x).free = c.free := rfl
@[simp] theorem Chip.setPort_armTick (p : Port) (x : PortState) : (c.setPort p x).armTick = c.armTick := rfl
@[simp] theorem Chip.setPort_pwrDue (p : Port) (x : PortState) : (c.setPort p x).pwrDue = c.pwrDue := rfl
@[simp] theorem Chip.setPort_legs (p : Port) (x : PortState) : (c.setPort p x).legs = c.legs := rfl
@[simp] theorem Chip.setPort_links (p : Port) (x : PortState) : (c.setPort p x).links = c.links := rfl
@[simp] theorem Chip.setPort_tbs (p : Port) (x : PortState) : (c.setPort p x).tbs = c.tbs := rfl
@[simp] theorem Chip.setPort_cues (p : Port) (x : PortState) : (c.setPort p x).cues = c.cues := rfl
@[simp] theorem Chip.setPort_slices (p : Port) (x : PortState) : (c.setPort p x).slices = c.slices := rfl
@[simp] theorem Chip.setPort_unders (p : Port) (x : PortState) : (c.setPort p x).unders = c.unders := rfl
@[simp] theorem Chip.setPort_rsvs (p : Port) (x : PortState) : (c.setPort p x).rsvs = c.rsvs := rfl
@[simp] theorem Chip.setPort_excPos (p : Port) (x : PortState) : (c.setPort p x).excPos = c.excPos := rfl
@[simp] theorem Chip.setPort_excTick (p : Port) (x : PortState) : (c.setPort p x).excTick = c.excTick := rfl
@[simp] theorem Chip.setPort_axes (p : Port) (x : PortState) : (c.setPort p x).axes = c.axes := rfl
@[simp] theorem Chip.setPort_engines (p : Port) (x : PortState) : (c.setPort p x).engines = c.engines := rfl
@[simp] theorem Chip.setPort_buses (p : Port) (x : PortState) : (c.setPort p x).buses = c.buses := rfl
@[simp] theorem Chip.setPort_hks (p : Port) (x : PortState) : (c.setPort p x).hks = c.hks := rfl
@[simp] theorem Chip.setPort_hkSettle (p : Port) (x : PortState) : (c.setPort p x).hkSettle = c.hkSettle := rfl
@[simp] theorem Chip.setPort_houseTick (p : Port) (x : PortState) : (c.setPort p x).houseTick = c.houseTick := rfl
@[simp] theorem Chip.setPort_roundTick (p : Port) (x : PortState) : (c.setPort p x).roundTick = c.roundTick := rfl
@[simp] theorem Chip.setPort_hkAge (p : Port) (x : PortState) : (c.setPort p x).hkAge = c.hkAge := rfl
@[simp] theorem Chip.setPort_hkUsed (p : Port) (x : PortState) : (c.setPort p x).hkUsed = c.hkUsed := rfl
@[simp] theorem Chip.setPort_xchRun (p : Port) (x : PortState) : (c.setPort p x).xchRun = c.xchRun := rfl
@[simp] theorem Chip.setPort_sensors (p : Port) (x : PortState) : (c.setPort p x).sensors = c.sensors := rfl
@[simp] theorem Chip.setPort_wms (p : Port) (x : PortState) : (c.setPort p x).wms = c.wms := rfl
@[simp] theorem Chip.setPort_faults (p : Port) (x : PortState) : (c.setPort p x).faults = c.faults := rfl
@[simp] theorem Chip.setPort_load (p : Port) (x : PortState) : (c.setPort p x).load = c.load := rfl
@[simp] theorem Chip.setPort_nvc (p : Port) (x : PortState) : (c.setPort p x).nvc = c.nvc := rfl
@[simp] theorem Chip.setPort_hp (p : Port) (x : PortState) : (c.setPort p x).hp = c.hp := rfl
@[simp] theorem Chip.setPort_can (p : Port) (x : PortState) : (c.setPort p x).can = c.can := rfl
@[simp] theorem Chip.setPort_rng (p : Port) (x : PortState) : (c.setPort p x).rng = c.rng := rfl
@[simp] theorem Chip.setPort_duty (p : Port) (x : PortState) : (c.setPort p x).duty = c.duty := rfl
@[simp] theorem Chip.setPort_reg (p : Port) (x : PortState) (j : Nat) : (c.setPort p x).reg j = c.reg j := rfl
@[simp] theorem Chip.setPort_get (p : Port) (x : PortState) (g : Field) : (c.setPort p x).get g = c.get g := rfl
@[simp] theorem Chip.setPort_flag (p : Port) (x : PortState) (g : Field) : (c.setPort p x).flag g = c.flag g := rfl
@[simp] theorem Chip.port_setPort (p : Port) (x : PortState) : (c.setPort p x).port p = x := by
  simp [Chip.setPort, Chip.port]
theorem Chip.port_setPort_ne (p : Port) (x : PortState) {j : Port} (h : j ≠ p) : (c.setPort p x).port j = c.port j := by
  have h' : p.val ≠ j.val := fun e => h (Fin.ext e.symm)
  simp [Chip.setPort, Chip.port, h']
@[simp] theorem Chip.leg_setPort (p : Port) (x : PortState) (j : Leg) : (c.setPort p x).leg j = c.leg j := rfl
@[simp] theorem Chip.link_setPort (p : Port) (x : PortState) (j : Die) : (c.setPort p x).link j = c.link j := rfl
@[simp] theorem Chip.tb_setPort (p : Port) (x : PortState) (j : Tb) : (c.setPort p x).tb j = c.tb j := rfl
@[simp] theorem Chip.slice_setPort (p : Port) (x : PortState) (j : SliceId) : (c.setPort p x).slice j = c.slice j := rfl
@[simp] theorem Chip.under_setPort (p : Port) (x : PortState) (j : UDie) : (c.setPort p x).under j = c.under j := rfl
@[simp] theorem Chip.rsv_setPort (p : Port) (x : PortState) (j : Fin 4) : (c.setPort p x).rsv j = c.rsv j := rfl
@[simp] theorem Chip.axis_setPort (p : Port) (x : PortState) (j : Axis) : (c.setPort p x).axis j = c.axis j := rfl
@[simp] theorem Chip.engine_setPort (p : Port) (x : PortState) (j : Region) : (c.setPort p x).engine j = c.engine j := rfl
@[simp] theorem Chip.bus_setPort (p : Port) (x : PortState) (j : Region) : (c.setPort p x).bus j = c.bus j := rfl
@[simp] theorem Chip.hk_setPort (p : Port) (x : PortState) (j : Region) : (c.setPort p x).hk j = c.hk j := rfl
@[simp] theorem Chip.sensor_setPort (p : Port) (x : PortState) (j : Fin 17) : (c.setPort p x).sensor j = c.sensor j := rfl
@[simp] theorem Chip.wm_setPort (p : Port) (x : PortState) (j : Fin 8) : (c.setPort p x).wm j = c.wm j := rfl
/-! ### setAxis -/

@[simp] theorem Chip.setAxis_regs (a : Axis) (x : AxisState) : (c.setAxis a x).regs = c.regs := rfl
@[simp] theorem Chip.setAxis_hold (a : Axis) (x : AxisState) : (c.setAxis a x).hold = c.hold := rfl
@[simp] theorem Chip.setAxis_tickRegs (a : Axis) (x : AxisState) : (c.setAxis a x).tickRegs = c.tickRegs := rfl
@[simp] theorem Chip.setAxis_fresh (a : Axis) (x : AxisState) : (c.setAxis a x).fresh = c.fresh := rfl
@[simp] theorem Chip.setAxis_wall (a : Axis) (x : AxisState) : (c.setAxis a x).wall = c.wall := rfl
@[simp] theorem Chip.setAxis_now (a : Axis) (x : AxisState) : (c.setAxis a x).now = c.now := rfl
@[simp] theorem Chip.setAxis_free (a : Axis) (x : AxisState) : (c.setAxis a x).free = c.free := rfl
@[simp] theorem Chip.setAxis_armTick (a : Axis) (x : AxisState) : (c.setAxis a x).armTick = c.armTick := rfl
@[simp] theorem Chip.setAxis_pwrDue (a : Axis) (x : AxisState) : (c.setAxis a x).pwrDue = c.pwrDue := rfl
@[simp] theorem Chip.setAxis_legs (a : Axis) (x : AxisState) : (c.setAxis a x).legs = c.legs := rfl
@[simp] theorem Chip.setAxis_links (a : Axis) (x : AxisState) : (c.setAxis a x).links = c.links := rfl
@[simp] theorem Chip.setAxis_tbs (a : Axis) (x : AxisState) : (c.setAxis a x).tbs = c.tbs := rfl
@[simp] theorem Chip.setAxis_cues (a : Axis) (x : AxisState) : (c.setAxis a x).cues = c.cues := rfl
@[simp] theorem Chip.setAxis_slices (a : Axis) (x : AxisState) : (c.setAxis a x).slices = c.slices := rfl
@[simp] theorem Chip.setAxis_unders (a : Axis) (x : AxisState) : (c.setAxis a x).unders = c.unders := rfl
@[simp] theorem Chip.setAxis_rsvs (a : Axis) (x : AxisState) : (c.setAxis a x).rsvs = c.rsvs := rfl
@[simp] theorem Chip.setAxis_excPos (a : Axis) (x : AxisState) : (c.setAxis a x).excPos = c.excPos := rfl
@[simp] theorem Chip.setAxis_excTick (a : Axis) (x : AxisState) : (c.setAxis a x).excTick = c.excTick := rfl
@[simp] theorem Chip.setAxis_ports (a : Axis) (x : AxisState) : (c.setAxis a x).ports = c.ports := rfl
@[simp] theorem Chip.setAxis_engines (a : Axis) (x : AxisState) : (c.setAxis a x).engines = c.engines := rfl
@[simp] theorem Chip.setAxis_buses (a : Axis) (x : AxisState) : (c.setAxis a x).buses = c.buses := rfl
@[simp] theorem Chip.setAxis_hks (a : Axis) (x : AxisState) : (c.setAxis a x).hks = c.hks := rfl
@[simp] theorem Chip.setAxis_hkSettle (a : Axis) (x : AxisState) : (c.setAxis a x).hkSettle = c.hkSettle := rfl
@[simp] theorem Chip.setAxis_houseTick (a : Axis) (x : AxisState) : (c.setAxis a x).houseTick = c.houseTick := rfl
@[simp] theorem Chip.setAxis_roundTick (a : Axis) (x : AxisState) : (c.setAxis a x).roundTick = c.roundTick := rfl
@[simp] theorem Chip.setAxis_hkAge (a : Axis) (x : AxisState) : (c.setAxis a x).hkAge = c.hkAge := rfl
@[simp] theorem Chip.setAxis_hkUsed (a : Axis) (x : AxisState) : (c.setAxis a x).hkUsed = c.hkUsed := rfl
@[simp] theorem Chip.setAxis_xchRun (a : Axis) (x : AxisState) : (c.setAxis a x).xchRun = c.xchRun := rfl
@[simp] theorem Chip.setAxis_sensors (a : Axis) (x : AxisState) : (c.setAxis a x).sensors = c.sensors := rfl
@[simp] theorem Chip.setAxis_wms (a : Axis) (x : AxisState) : (c.setAxis a x).wms = c.wms := rfl
@[simp] theorem Chip.setAxis_faults (a : Axis) (x : AxisState) : (c.setAxis a x).faults = c.faults := rfl
@[simp] theorem Chip.setAxis_load (a : Axis) (x : AxisState) : (c.setAxis a x).load = c.load := rfl
@[simp] theorem Chip.setAxis_nvc (a : Axis) (x : AxisState) : (c.setAxis a x).nvc = c.nvc := rfl
@[simp] theorem Chip.setAxis_hp (a : Axis) (x : AxisState) : (c.setAxis a x).hp = c.hp := rfl
@[simp] theorem Chip.setAxis_can (a : Axis) (x : AxisState) : (c.setAxis a x).can = c.can := rfl
@[simp] theorem Chip.setAxis_rng (a : Axis) (x : AxisState) : (c.setAxis a x).rng = c.rng := rfl
@[simp] theorem Chip.setAxis_duty (a : Axis) (x : AxisState) : (c.setAxis a x).duty = c.duty := rfl
@[simp] theorem Chip.setAxis_reg (a : Axis) (x : AxisState) (j : Nat) : (c.setAxis a x).reg j = c.reg j := rfl
@[simp] theorem Chip.setAxis_get (a : Axis) (x : AxisState) (g : Field) : (c.setAxis a x).get g = c.get g := rfl
@[simp] theorem Chip.setAxis_flag (a : Axis) (x : AxisState) (g : Field) : (c.setAxis a x).flag g = c.flag g := rfl
@[simp] theorem Chip.axis_setAxis (a : Axis) (x : AxisState) : (c.setAxis a x).axis a = x := by
  simp [Chip.setAxis, Chip.axis]
theorem Chip.axis_setAxis_ne (a : Axis) (x : AxisState) {j : Axis} (h : j ≠ a) : (c.setAxis a x).axis j = c.axis j := by
  have h' : a.val ≠ j.val := fun e => h (Fin.ext e.symm)
  simp [Chip.setAxis, Chip.axis, h']
@[simp] theorem Chip.leg_setAxis (a : Axis) (x : AxisState) (j : Leg) : (c.setAxis a x).leg j = c.leg j := rfl
@[simp] theorem Chip.link_setAxis (a : Axis) (x : AxisState) (j : Die) : (c.setAxis a x).link j = c.link j := rfl
@[simp] theorem Chip.tb_setAxis (a : Axis) (x : AxisState) (j : Tb) : (c.setAxis a x).tb j = c.tb j := rfl
@[simp] theorem Chip.slice_setAxis (a : Axis) (x : AxisState) (j : SliceId) : (c.setAxis a x).slice j = c.slice j := rfl
@[simp] theorem Chip.under_setAxis (a : Axis) (x : AxisState) (j : UDie) : (c.setAxis a x).under j = c.under j := rfl
@[simp] theorem Chip.rsv_setAxis (a : Axis) (x : AxisState) (j : Fin 4) : (c.setAxis a x).rsv j = c.rsv j := rfl
@[simp] theorem Chip.port_setAxis (a : Axis) (x : AxisState) (j : Port) : (c.setAxis a x).port j = c.port j := rfl
@[simp] theorem Chip.engine_setAxis (a : Axis) (x : AxisState) (j : Region) : (c.setAxis a x).engine j = c.engine j := rfl
@[simp] theorem Chip.bus_setAxis (a : Axis) (x : AxisState) (j : Region) : (c.setAxis a x).bus j = c.bus j := rfl
@[simp] theorem Chip.hk_setAxis (a : Axis) (x : AxisState) (j : Region) : (c.setAxis a x).hk j = c.hk j := rfl
@[simp] theorem Chip.sensor_setAxis (a : Axis) (x : AxisState) (j : Fin 17) : (c.setAxis a x).sensor j = c.sensor j := rfl
@[simp] theorem Chip.wm_setAxis (a : Axis) (x : AxisState) (j : Fin 8) : (c.setAxis a x).wm j = c.wm j := rfl
/-! ### setEngine -/

@[simp] theorem Chip.setEngine_regs (e : Region) (x : Option Axis) : (c.setEngine e x).regs = c.regs := rfl
@[simp] theorem Chip.setEngine_hold (e : Region) (x : Option Axis) : (c.setEngine e x).hold = c.hold := rfl
@[simp] theorem Chip.setEngine_tickRegs (e : Region) (x : Option Axis) : (c.setEngine e x).tickRegs = c.tickRegs := rfl
@[simp] theorem Chip.setEngine_fresh (e : Region) (x : Option Axis) : (c.setEngine e x).fresh = c.fresh := rfl
@[simp] theorem Chip.setEngine_wall (e : Region) (x : Option Axis) : (c.setEngine e x).wall = c.wall := rfl
@[simp] theorem Chip.setEngine_now (e : Region) (x : Option Axis) : (c.setEngine e x).now = c.now := rfl
@[simp] theorem Chip.setEngine_free (e : Region) (x : Option Axis) : (c.setEngine e x).free = c.free := rfl
@[simp] theorem Chip.setEngine_armTick (e : Region) (x : Option Axis) : (c.setEngine e x).armTick = c.armTick := rfl
@[simp] theorem Chip.setEngine_pwrDue (e : Region) (x : Option Axis) : (c.setEngine e x).pwrDue = c.pwrDue := rfl
@[simp] theorem Chip.setEngine_legs (e : Region) (x : Option Axis) : (c.setEngine e x).legs = c.legs := rfl
@[simp] theorem Chip.setEngine_links (e : Region) (x : Option Axis) : (c.setEngine e x).links = c.links := rfl
@[simp] theorem Chip.setEngine_tbs (e : Region) (x : Option Axis) : (c.setEngine e x).tbs = c.tbs := rfl
@[simp] theorem Chip.setEngine_cues (e : Region) (x : Option Axis) : (c.setEngine e x).cues = c.cues := rfl
@[simp] theorem Chip.setEngine_slices (e : Region) (x : Option Axis) : (c.setEngine e x).slices = c.slices := rfl
@[simp] theorem Chip.setEngine_unders (e : Region) (x : Option Axis) : (c.setEngine e x).unders = c.unders := rfl
@[simp] theorem Chip.setEngine_rsvs (e : Region) (x : Option Axis) : (c.setEngine e x).rsvs = c.rsvs := rfl
@[simp] theorem Chip.setEngine_excPos (e : Region) (x : Option Axis) : (c.setEngine e x).excPos = c.excPos := rfl
@[simp] theorem Chip.setEngine_excTick (e : Region) (x : Option Axis) : (c.setEngine e x).excTick = c.excTick := rfl
@[simp] theorem Chip.setEngine_ports (e : Region) (x : Option Axis) : (c.setEngine e x).ports = c.ports := rfl
@[simp] theorem Chip.setEngine_axes (e : Region) (x : Option Axis) : (c.setEngine e x).axes = c.axes := rfl
@[simp] theorem Chip.setEngine_buses (e : Region) (x : Option Axis) : (c.setEngine e x).buses = c.buses := rfl
@[simp] theorem Chip.setEngine_hks (e : Region) (x : Option Axis) : (c.setEngine e x).hks = c.hks := rfl
@[simp] theorem Chip.setEngine_hkSettle (e : Region) (x : Option Axis) : (c.setEngine e x).hkSettle = c.hkSettle := rfl
@[simp] theorem Chip.setEngine_houseTick (e : Region) (x : Option Axis) : (c.setEngine e x).houseTick = c.houseTick := rfl
@[simp] theorem Chip.setEngine_roundTick (e : Region) (x : Option Axis) : (c.setEngine e x).roundTick = c.roundTick := rfl
@[simp] theorem Chip.setEngine_hkAge (e : Region) (x : Option Axis) : (c.setEngine e x).hkAge = c.hkAge := rfl
@[simp] theorem Chip.setEngine_hkUsed (e : Region) (x : Option Axis) : (c.setEngine e x).hkUsed = c.hkUsed := rfl
@[simp] theorem Chip.setEngine_xchRun (e : Region) (x : Option Axis) : (c.setEngine e x).xchRun = c.xchRun := rfl
@[simp] theorem Chip.setEngine_sensors (e : Region) (x : Option Axis) : (c.setEngine e x).sensors = c.sensors := rfl
@[simp] theorem Chip.setEngine_wms (e : Region) (x : Option Axis) : (c.setEngine e x).wms = c.wms := rfl
@[simp] theorem Chip.setEngine_faults (e : Region) (x : Option Axis) : (c.setEngine e x).faults = c.faults := rfl
@[simp] theorem Chip.setEngine_load (e : Region) (x : Option Axis) : (c.setEngine e x).load = c.load := rfl
@[simp] theorem Chip.setEngine_nvc (e : Region) (x : Option Axis) : (c.setEngine e x).nvc = c.nvc := rfl
@[simp] theorem Chip.setEngine_hp (e : Region) (x : Option Axis) : (c.setEngine e x).hp = c.hp := rfl
@[simp] theorem Chip.setEngine_can (e : Region) (x : Option Axis) : (c.setEngine e x).can = c.can := rfl
@[simp] theorem Chip.setEngine_rng (e : Region) (x : Option Axis) : (c.setEngine e x).rng = c.rng := rfl
@[simp] theorem Chip.setEngine_duty (e : Region) (x : Option Axis) : (c.setEngine e x).duty = c.duty := rfl
@[simp] theorem Chip.setEngine_reg (e : Region) (x : Option Axis) (j : Nat) : (c.setEngine e x).reg j = c.reg j := rfl
@[simp] theorem Chip.setEngine_get (e : Region) (x : Option Axis) (g : Field) : (c.setEngine e x).get g = c.get g := rfl
@[simp] theorem Chip.setEngine_flag (e : Region) (x : Option Axis) (g : Field) : (c.setEngine e x).flag g = c.flag g := rfl
@[simp] theorem Chip.engine_setEngine (e : Region) (x : Option Axis) : (c.setEngine e x).engine e = x := by
  simp [Chip.setEngine, Chip.engine]
theorem Chip.engine_setEngine_ne (e : Region) (x : Option Axis) {j : Region} (h : j ≠ e) : (c.setEngine e x).engine j = c.engine j := by
  have h' : e.val ≠ j.val := fun e => h (Fin.ext e.symm)
  simp [Chip.setEngine, Chip.engine, h']
@[simp] theorem Chip.leg_setEngine (e : Region) (x : Option Axis) (j : Leg) : (c.setEngine e x).leg j = c.leg j := rfl
@[simp] theorem Chip.link_setEngine (e : Region) (x : Option Axis) (j : Die) : (c.setEngine e x).link j = c.link j := rfl
@[simp] theorem Chip.tb_setEngine (e : Region) (x : Option Axis) (j : Tb) : (c.setEngine e x).tb j = c.tb j := rfl
@[simp] theorem Chip.slice_setEngine (e : Region) (x : Option Axis) (j : SliceId) : (c.setEngine e x).slice j = c.slice j := rfl
@[simp] theorem Chip.under_setEngine (e : Region) (x : Option Axis) (j : UDie) : (c.setEngine e x).under j = c.under j := rfl
@[simp] theorem Chip.rsv_setEngine (e : Region) (x : Option Axis) (j : Fin 4) : (c.setEngine e x).rsv j = c.rsv j := rfl
@[simp] theorem Chip.port_setEngine (e : Region) (x : Option Axis) (j : Port) : (c.setEngine e x).port j = c.port j := rfl
@[simp] theorem Chip.axis_setEngine (e : Region) (x : Option Axis) (j : Axis) : (c.setEngine e x).axis j = c.axis j := rfl
@[simp] theorem Chip.bus_setEngine (e : Region) (x : Option Axis) (j : Region) : (c.setEngine e x).bus j = c.bus j := rfl
@[simp] theorem Chip.hk_setEngine (e : Region) (x : Option Axis) (j : Region) : (c.setEngine e x).hk j = c.hk j := rfl
@[simp] theorem Chip.sensor_setEngine (e : Region) (x : Option Axis) (j : Fin 17) : (c.setEngine e x).sensor j = c.sensor j := rfl
@[simp] theorem Chip.wm_setEngine (e : Region) (x : Option Axis) (j : Fin 8) : (c.setEngine e x).wm j = c.wm j := rfl
/-! ### setBus -/

@[simp] theorem Chip.setBus_regs (r : Region) (x : BusState) : (c.setBus r x).regs = c.regs := rfl
@[simp] theorem Chip.setBus_hold (r : Region) (x : BusState) : (c.setBus r x).hold = c.hold := rfl
@[simp] theorem Chip.setBus_tickRegs (r : Region) (x : BusState) : (c.setBus r x).tickRegs = c.tickRegs := rfl
@[simp] theorem Chip.setBus_fresh (r : Region) (x : BusState) : (c.setBus r x).fresh = c.fresh := rfl
@[simp] theorem Chip.setBus_wall (r : Region) (x : BusState) : (c.setBus r x).wall = c.wall := rfl
@[simp] theorem Chip.setBus_now (r : Region) (x : BusState) : (c.setBus r x).now = c.now := rfl
@[simp] theorem Chip.setBus_free (r : Region) (x : BusState) : (c.setBus r x).free = c.free := rfl
@[simp] theorem Chip.setBus_armTick (r : Region) (x : BusState) : (c.setBus r x).armTick = c.armTick := rfl
@[simp] theorem Chip.setBus_pwrDue (r : Region) (x : BusState) : (c.setBus r x).pwrDue = c.pwrDue := rfl
@[simp] theorem Chip.setBus_legs (r : Region) (x : BusState) : (c.setBus r x).legs = c.legs := rfl
@[simp] theorem Chip.setBus_links (r : Region) (x : BusState) : (c.setBus r x).links = c.links := rfl
@[simp] theorem Chip.setBus_tbs (r : Region) (x : BusState) : (c.setBus r x).tbs = c.tbs := rfl
@[simp] theorem Chip.setBus_cues (r : Region) (x : BusState) : (c.setBus r x).cues = c.cues := rfl
@[simp] theorem Chip.setBus_slices (r : Region) (x : BusState) : (c.setBus r x).slices = c.slices := rfl
@[simp] theorem Chip.setBus_unders (r : Region) (x : BusState) : (c.setBus r x).unders = c.unders := rfl
@[simp] theorem Chip.setBus_rsvs (r : Region) (x : BusState) : (c.setBus r x).rsvs = c.rsvs := rfl
@[simp] theorem Chip.setBus_excPos (r : Region) (x : BusState) : (c.setBus r x).excPos = c.excPos := rfl
@[simp] theorem Chip.setBus_excTick (r : Region) (x : BusState) : (c.setBus r x).excTick = c.excTick := rfl
@[simp] theorem Chip.setBus_ports (r : Region) (x : BusState) : (c.setBus r x).ports = c.ports := rfl
@[simp] theorem Chip.setBus_axes (r : Region) (x : BusState) : (c.setBus r x).axes = c.axes := rfl
@[simp] theorem Chip.setBus_engines (r : Region) (x : BusState) : (c.setBus r x).engines = c.engines := rfl
@[simp] theorem Chip.setBus_hks (r : Region) (x : BusState) : (c.setBus r x).hks = c.hks := rfl
@[simp] theorem Chip.setBus_hkSettle (r : Region) (x : BusState) : (c.setBus r x).hkSettle = c.hkSettle := rfl
@[simp] theorem Chip.setBus_houseTick (r : Region) (x : BusState) : (c.setBus r x).houseTick = c.houseTick := rfl
@[simp] theorem Chip.setBus_roundTick (r : Region) (x : BusState) : (c.setBus r x).roundTick = c.roundTick := rfl
@[simp] theorem Chip.setBus_hkAge (r : Region) (x : BusState) : (c.setBus r x).hkAge = c.hkAge := rfl
@[simp] theorem Chip.setBus_hkUsed (r : Region) (x : BusState) : (c.setBus r x).hkUsed = c.hkUsed := rfl
@[simp] theorem Chip.setBus_xchRun (r : Region) (x : BusState) : (c.setBus r x).xchRun = c.xchRun := rfl
@[simp] theorem Chip.setBus_sensors (r : Region) (x : BusState) : (c.setBus r x).sensors = c.sensors := rfl
@[simp] theorem Chip.setBus_wms (r : Region) (x : BusState) : (c.setBus r x).wms = c.wms := rfl
@[simp] theorem Chip.setBus_faults (r : Region) (x : BusState) : (c.setBus r x).faults = c.faults := rfl
@[simp] theorem Chip.setBus_load (r : Region) (x : BusState) : (c.setBus r x).load = c.load := rfl
@[simp] theorem Chip.setBus_nvc (r : Region) (x : BusState) : (c.setBus r x).nvc = c.nvc := rfl
@[simp] theorem Chip.setBus_hp (r : Region) (x : BusState) : (c.setBus r x).hp = c.hp := rfl
@[simp] theorem Chip.setBus_can (r : Region) (x : BusState) : (c.setBus r x).can = c.can := rfl
@[simp] theorem Chip.setBus_rng (r : Region) (x : BusState) : (c.setBus r x).rng = c.rng := rfl
@[simp] theorem Chip.setBus_duty (r : Region) (x : BusState) : (c.setBus r x).duty = c.duty := rfl
@[simp] theorem Chip.setBus_reg (r : Region) (x : BusState) (j : Nat) : (c.setBus r x).reg j = c.reg j := rfl
@[simp] theorem Chip.setBus_get (r : Region) (x : BusState) (g : Field) : (c.setBus r x).get g = c.get g := rfl
@[simp] theorem Chip.setBus_flag (r : Region) (x : BusState) (g : Field) : (c.setBus r x).flag g = c.flag g := rfl
@[simp] theorem Chip.bus_setBus (r : Region) (x : BusState) : (c.setBus r x).bus r = x := by
  simp [Chip.setBus, Chip.bus]
theorem Chip.bus_setBus_ne (r : Region) (x : BusState) {j : Region} (h : j ≠ r) : (c.setBus r x).bus j = c.bus j := by
  have h' : r.val ≠ j.val := fun e => h (Fin.ext e.symm)
  simp [Chip.setBus, Chip.bus, h']
@[simp] theorem Chip.leg_setBus (r : Region) (x : BusState) (j : Leg) : (c.setBus r x).leg j = c.leg j := rfl
@[simp] theorem Chip.link_setBus (r : Region) (x : BusState) (j : Die) : (c.setBus r x).link j = c.link j := rfl
@[simp] theorem Chip.tb_setBus (r : Region) (x : BusState) (j : Tb) : (c.setBus r x).tb j = c.tb j := rfl
@[simp] theorem Chip.slice_setBus (r : Region) (x : BusState) (j : SliceId) : (c.setBus r x).slice j = c.slice j := rfl
@[simp] theorem Chip.under_setBus (r : Region) (x : BusState) (j : UDie) : (c.setBus r x).under j = c.under j := rfl
@[simp] theorem Chip.rsv_setBus (r : Region) (x : BusState) (j : Fin 4) : (c.setBus r x).rsv j = c.rsv j := rfl
@[simp] theorem Chip.port_setBus (r : Region) (x : BusState) (j : Port) : (c.setBus r x).port j = c.port j := rfl
@[simp] theorem Chip.axis_setBus (r : Region) (x : BusState) (j : Axis) : (c.setBus r x).axis j = c.axis j := rfl
@[simp] theorem Chip.engine_setBus (r : Region) (x : BusState) (j : Region) : (c.setBus r x).engine j = c.engine j := rfl
@[simp] theorem Chip.hk_setBus (r : Region) (x : BusState) (j : Region) : (c.setBus r x).hk j = c.hk j := rfl
@[simp] theorem Chip.sensor_setBus (r : Region) (x : BusState) (j : Fin 17) : (c.setBus r x).sensor j = c.sensor j := rfl
@[simp] theorem Chip.wm_setBus (r : Region) (x : BusState) (j : Fin 8) : (c.setBus r x).wm j = c.wm j := rfl
/-! ### setHk -/

@[simp] theorem Chip.setHk_regs (n : Region) (x : HkState) : (c.setHk n x).regs = c.regs := rfl
@[simp] theorem Chip.setHk_hold (n : Region) (x : HkState) : (c.setHk n x).hold = c.hold := rfl
@[simp] theorem Chip.setHk_tickRegs (n : Region) (x : HkState) : (c.setHk n x).tickRegs = c.tickRegs := rfl
@[simp] theorem Chip.setHk_fresh (n : Region) (x : HkState) : (c.setHk n x).fresh = c.fresh := rfl
@[simp] theorem Chip.setHk_wall (n : Region) (x : HkState) : (c.setHk n x).wall = c.wall := rfl
@[simp] theorem Chip.setHk_now (n : Region) (x : HkState) : (c.setHk n x).now = c.now := rfl
@[simp] theorem Chip.setHk_free (n : Region) (x : HkState) : (c.setHk n x).free = c.free := rfl
@[simp] theorem Chip.setHk_armTick (n : Region) (x : HkState) : (c.setHk n x).armTick = c.armTick := rfl
@[simp] theorem Chip.setHk_pwrDue (n : Region) (x : HkState) : (c.setHk n x).pwrDue = c.pwrDue := rfl
@[simp] theorem Chip.setHk_legs (n : Region) (x : HkState) : (c.setHk n x).legs = c.legs := rfl
@[simp] theorem Chip.setHk_links (n : Region) (x : HkState) : (c.setHk n x).links = c.links := rfl
@[simp] theorem Chip.setHk_tbs (n : Region) (x : HkState) : (c.setHk n x).tbs = c.tbs := rfl
@[simp] theorem Chip.setHk_cues (n : Region) (x : HkState) : (c.setHk n x).cues = c.cues := rfl
@[simp] theorem Chip.setHk_slices (n : Region) (x : HkState) : (c.setHk n x).slices = c.slices := rfl
@[simp] theorem Chip.setHk_unders (n : Region) (x : HkState) : (c.setHk n x).unders = c.unders := rfl
@[simp] theorem Chip.setHk_rsvs (n : Region) (x : HkState) : (c.setHk n x).rsvs = c.rsvs := rfl
@[simp] theorem Chip.setHk_excPos (n : Region) (x : HkState) : (c.setHk n x).excPos = c.excPos := rfl
@[simp] theorem Chip.setHk_excTick (n : Region) (x : HkState) : (c.setHk n x).excTick = c.excTick := rfl
@[simp] theorem Chip.setHk_ports (n : Region) (x : HkState) : (c.setHk n x).ports = c.ports := rfl
@[simp] theorem Chip.setHk_axes (n : Region) (x : HkState) : (c.setHk n x).axes = c.axes := rfl
@[simp] theorem Chip.setHk_engines (n : Region) (x : HkState) : (c.setHk n x).engines = c.engines := rfl
@[simp] theorem Chip.setHk_buses (n : Region) (x : HkState) : (c.setHk n x).buses = c.buses := rfl
@[simp] theorem Chip.setHk_hkSettle (n : Region) (x : HkState) : (c.setHk n x).hkSettle = c.hkSettle := rfl
@[simp] theorem Chip.setHk_houseTick (n : Region) (x : HkState) : (c.setHk n x).houseTick = c.houseTick := rfl
@[simp] theorem Chip.setHk_roundTick (n : Region) (x : HkState) : (c.setHk n x).roundTick = c.roundTick := rfl
@[simp] theorem Chip.setHk_hkAge (n : Region) (x : HkState) : (c.setHk n x).hkAge = c.hkAge := rfl
@[simp] theorem Chip.setHk_hkUsed (n : Region) (x : HkState) : (c.setHk n x).hkUsed = c.hkUsed := rfl
@[simp] theorem Chip.setHk_xchRun (n : Region) (x : HkState) : (c.setHk n x).xchRun = c.xchRun := rfl
@[simp] theorem Chip.setHk_sensors (n : Region) (x : HkState) : (c.setHk n x).sensors = c.sensors := rfl
@[simp] theorem Chip.setHk_wms (n : Region) (x : HkState) : (c.setHk n x).wms = c.wms := rfl
@[simp] theorem Chip.setHk_faults (n : Region) (x : HkState) : (c.setHk n x).faults = c.faults := rfl
@[simp] theorem Chip.setHk_load (n : Region) (x : HkState) : (c.setHk n x).load = c.load := rfl
@[simp] theorem Chip.setHk_nvc (n : Region) (x : HkState) : (c.setHk n x).nvc = c.nvc := rfl
@[simp] theorem Chip.setHk_hp (n : Region) (x : HkState) : (c.setHk n x).hp = c.hp := rfl
@[simp] theorem Chip.setHk_can (n : Region) (x : HkState) : (c.setHk n x).can = c.can := rfl
@[simp] theorem Chip.setHk_rng (n : Region) (x : HkState) : (c.setHk n x).rng = c.rng := rfl
@[simp] theorem Chip.setHk_duty (n : Region) (x : HkState) : (c.setHk n x).duty = c.duty := rfl
@[simp] theorem Chip.setHk_reg (n : Region) (x : HkState) (j : Nat) : (c.setHk n x).reg j = c.reg j := rfl
@[simp] theorem Chip.setHk_get (n : Region) (x : HkState) (g : Field) : (c.setHk n x).get g = c.get g := rfl
@[simp] theorem Chip.setHk_flag (n : Region) (x : HkState) (g : Field) : (c.setHk n x).flag g = c.flag g := rfl
@[simp] theorem Chip.hk_setHk (n : Region) (x : HkState) : (c.setHk n x).hk n = x := by
  simp [Chip.setHk, Chip.hk]
theorem Chip.hk_setHk_ne (n : Region) (x : HkState) {j : Region} (h : j ≠ n) : (c.setHk n x).hk j = c.hk j := by
  have h' : n.val ≠ j.val := fun e => h (Fin.ext e.symm)
  simp [Chip.setHk, Chip.hk, h']
@[simp] theorem Chip.leg_setHk (n : Region) (x : HkState) (j : Leg) : (c.setHk n x).leg j = c.leg j := rfl
@[simp] theorem Chip.link_setHk (n : Region) (x : HkState) (j : Die) : (c.setHk n x).link j = c.link j := rfl
@[simp] theorem Chip.tb_setHk (n : Region) (x : HkState) (j : Tb) : (c.setHk n x).tb j = c.tb j := rfl
@[simp] theorem Chip.slice_setHk (n : Region) (x : HkState) (j : SliceId) : (c.setHk n x).slice j = c.slice j := rfl
@[simp] theorem Chip.under_setHk (n : Region) (x : HkState) (j : UDie) : (c.setHk n x).under j = c.under j := rfl
@[simp] theorem Chip.rsv_setHk (n : Region) (x : HkState) (j : Fin 4) : (c.setHk n x).rsv j = c.rsv j := rfl
@[simp] theorem Chip.port_setHk (n : Region) (x : HkState) (j : Port) : (c.setHk n x).port j = c.port j := rfl
@[simp] theorem Chip.axis_setHk (n : Region) (x : HkState) (j : Axis) : (c.setHk n x).axis j = c.axis j := rfl
@[simp] theorem Chip.engine_setHk (n : Region) (x : HkState) (j : Region) : (c.setHk n x).engine j = c.engine j := rfl
@[simp] theorem Chip.bus_setHk (n : Region) (x : HkState) (j : Region) : (c.setHk n x).bus j = c.bus j := rfl
@[simp] theorem Chip.sensor_setHk (n : Region) (x : HkState) (j : Fin 17) : (c.setHk n x).sensor j = c.sensor j := rfl
@[simp] theorem Chip.wm_setHk (n : Region) (x : HkState) (j : Fin 8) : (c.setHk n x).wm j = c.wm j := rfl
/-! ### setSensor -/

@[simp] theorem Chip.setSensor_regs (n : Fin 17) (x : TsState) : (c.setSensor n x).regs = c.regs := rfl
@[simp] theorem Chip.setSensor_hold (n : Fin 17) (x : TsState) : (c.setSensor n x).hold = c.hold := rfl
@[simp] theorem Chip.setSensor_tickRegs (n : Fin 17) (x : TsState) : (c.setSensor n x).tickRegs = c.tickRegs := rfl
@[simp] theorem Chip.setSensor_fresh (n : Fin 17) (x : TsState) : (c.setSensor n x).fresh = c.fresh := rfl
@[simp] theorem Chip.setSensor_wall (n : Fin 17) (x : TsState) : (c.setSensor n x).wall = c.wall := rfl
@[simp] theorem Chip.setSensor_now (n : Fin 17) (x : TsState) : (c.setSensor n x).now = c.now := rfl
@[simp] theorem Chip.setSensor_free (n : Fin 17) (x : TsState) : (c.setSensor n x).free = c.free := rfl
@[simp] theorem Chip.setSensor_armTick (n : Fin 17) (x : TsState) : (c.setSensor n x).armTick = c.armTick := rfl
@[simp] theorem Chip.setSensor_pwrDue (n : Fin 17) (x : TsState) : (c.setSensor n x).pwrDue = c.pwrDue := rfl
@[simp] theorem Chip.setSensor_legs (n : Fin 17) (x : TsState) : (c.setSensor n x).legs = c.legs := rfl
@[simp] theorem Chip.setSensor_links (n : Fin 17) (x : TsState) : (c.setSensor n x).links = c.links := rfl
@[simp] theorem Chip.setSensor_tbs (n : Fin 17) (x : TsState) : (c.setSensor n x).tbs = c.tbs := rfl
@[simp] theorem Chip.setSensor_cues (n : Fin 17) (x : TsState) : (c.setSensor n x).cues = c.cues := rfl
@[simp] theorem Chip.setSensor_slices (n : Fin 17) (x : TsState) : (c.setSensor n x).slices = c.slices := rfl
@[simp] theorem Chip.setSensor_unders (n : Fin 17) (x : TsState) : (c.setSensor n x).unders = c.unders := rfl
@[simp] theorem Chip.setSensor_rsvs (n : Fin 17) (x : TsState) : (c.setSensor n x).rsvs = c.rsvs := rfl
@[simp] theorem Chip.setSensor_excPos (n : Fin 17) (x : TsState) : (c.setSensor n x).excPos = c.excPos := rfl
@[simp] theorem Chip.setSensor_excTick (n : Fin 17) (x : TsState) : (c.setSensor n x).excTick = c.excTick := rfl
@[simp] theorem Chip.setSensor_ports (n : Fin 17) (x : TsState) : (c.setSensor n x).ports = c.ports := rfl
@[simp] theorem Chip.setSensor_axes (n : Fin 17) (x : TsState) : (c.setSensor n x).axes = c.axes := rfl
@[simp] theorem Chip.setSensor_engines (n : Fin 17) (x : TsState) : (c.setSensor n x).engines = c.engines := rfl
@[simp] theorem Chip.setSensor_buses (n : Fin 17) (x : TsState) : (c.setSensor n x).buses = c.buses := rfl
@[simp] theorem Chip.setSensor_hks (n : Fin 17) (x : TsState) : (c.setSensor n x).hks = c.hks := rfl
@[simp] theorem Chip.setSensor_hkSettle (n : Fin 17) (x : TsState) : (c.setSensor n x).hkSettle = c.hkSettle := rfl
@[simp] theorem Chip.setSensor_houseTick (n : Fin 17) (x : TsState) : (c.setSensor n x).houseTick = c.houseTick := rfl
@[simp] theorem Chip.setSensor_roundTick (n : Fin 17) (x : TsState) : (c.setSensor n x).roundTick = c.roundTick := rfl
@[simp] theorem Chip.setSensor_hkAge (n : Fin 17) (x : TsState) : (c.setSensor n x).hkAge = c.hkAge := rfl
@[simp] theorem Chip.setSensor_hkUsed (n : Fin 17) (x : TsState) : (c.setSensor n x).hkUsed = c.hkUsed := rfl
@[simp] theorem Chip.setSensor_xchRun (n : Fin 17) (x : TsState) : (c.setSensor n x).xchRun = c.xchRun := rfl
@[simp] theorem Chip.setSensor_wms (n : Fin 17) (x : TsState) : (c.setSensor n x).wms = c.wms := rfl
@[simp] theorem Chip.setSensor_faults (n : Fin 17) (x : TsState) : (c.setSensor n x).faults = c.faults := rfl
@[simp] theorem Chip.setSensor_load (n : Fin 17) (x : TsState) : (c.setSensor n x).load = c.load := rfl
@[simp] theorem Chip.setSensor_nvc (n : Fin 17) (x : TsState) : (c.setSensor n x).nvc = c.nvc := rfl
@[simp] theorem Chip.setSensor_hp (n : Fin 17) (x : TsState) : (c.setSensor n x).hp = c.hp := rfl
@[simp] theorem Chip.setSensor_can (n : Fin 17) (x : TsState) : (c.setSensor n x).can = c.can := rfl
@[simp] theorem Chip.setSensor_rng (n : Fin 17) (x : TsState) : (c.setSensor n x).rng = c.rng := rfl
@[simp] theorem Chip.setSensor_duty (n : Fin 17) (x : TsState) : (c.setSensor n x).duty = c.duty := rfl
@[simp] theorem Chip.setSensor_reg (n : Fin 17) (x : TsState) (j : Nat) : (c.setSensor n x).reg j = c.reg j := rfl
@[simp] theorem Chip.setSensor_get (n : Fin 17) (x : TsState) (g : Field) : (c.setSensor n x).get g = c.get g := rfl
@[simp] theorem Chip.setSensor_flag (n : Fin 17) (x : TsState) (g : Field) : (c.setSensor n x).flag g = c.flag g := rfl
@[simp] theorem Chip.sensor_setSensor (n : Fin 17) (x : TsState) : (c.setSensor n x).sensor n = x := by
  simp [Chip.setSensor, Chip.sensor]
theorem Chip.sensor_setSensor_ne (n : Fin 17) (x : TsState) {j : Fin 17} (h : j ≠ n) : (c.setSensor n x).sensor j = c.sensor j := by
  have h' : n.val ≠ j.val := fun e => h (Fin.ext e.symm)
  simp [Chip.setSensor, Chip.sensor, h']
@[simp] theorem Chip.leg_setSensor (n : Fin 17) (x : TsState) (j : Leg) : (c.setSensor n x).leg j = c.leg j := rfl
@[simp] theorem Chip.link_setSensor (n : Fin 17) (x : TsState) (j : Die) : (c.setSensor n x).link j = c.link j := rfl
@[simp] theorem Chip.tb_setSensor (n : Fin 17) (x : TsState) (j : Tb) : (c.setSensor n x).tb j = c.tb j := rfl
@[simp] theorem Chip.slice_setSensor (n : Fin 17) (x : TsState) (j : SliceId) : (c.setSensor n x).slice j = c.slice j := rfl
@[simp] theorem Chip.under_setSensor (n : Fin 17) (x : TsState) (j : UDie) : (c.setSensor n x).under j = c.under j := rfl
@[simp] theorem Chip.rsv_setSensor (n : Fin 17) (x : TsState) (j : Fin 4) : (c.setSensor n x).rsv j = c.rsv j := rfl
@[simp] theorem Chip.port_setSensor (n : Fin 17) (x : TsState) (j : Port) : (c.setSensor n x).port j = c.port j := rfl
@[simp] theorem Chip.axis_setSensor (n : Fin 17) (x : TsState) (j : Axis) : (c.setSensor n x).axis j = c.axis j := rfl
@[simp] theorem Chip.engine_setSensor (n : Fin 17) (x : TsState) (j : Region) : (c.setSensor n x).engine j = c.engine j := rfl
@[simp] theorem Chip.bus_setSensor (n : Fin 17) (x : TsState) (j : Region) : (c.setSensor n x).bus j = c.bus j := rfl
@[simp] theorem Chip.hk_setSensor (n : Fin 17) (x : TsState) (j : Region) : (c.setSensor n x).hk j = c.hk j := rfl
@[simp] theorem Chip.wm_setSensor (n : Fin 17) (x : TsState) (j : Fin 8) : (c.setSensor n x).wm j = c.wm j := rfl
/-! ### setWm -/

@[simp] theorem Chip.setWm_regs (m : Fin 8) (x : WmState) : (c.setWm m x).regs = c.regs := rfl
@[simp] theorem Chip.setWm_hold (m : Fin 8) (x : WmState) : (c.setWm m x).hold = c.hold := rfl
@[simp] theorem Chip.setWm_tickRegs (m : Fin 8) (x : WmState) : (c.setWm m x).tickRegs = c.tickRegs := rfl
@[simp] theorem Chip.setWm_fresh (m : Fin 8) (x : WmState) : (c.setWm m x).fresh = c.fresh := rfl
@[simp] theorem Chip.setWm_wall (m : Fin 8) (x : WmState) : (c.setWm m x).wall = c.wall := rfl
@[simp] theorem Chip.setWm_now (m : Fin 8) (x : WmState) : (c.setWm m x).now = c.now := rfl
@[simp] theorem Chip.setWm_free (m : Fin 8) (x : WmState) : (c.setWm m x).free = c.free := rfl
@[simp] theorem Chip.setWm_armTick (m : Fin 8) (x : WmState) : (c.setWm m x).armTick = c.armTick := rfl
@[simp] theorem Chip.setWm_pwrDue (m : Fin 8) (x : WmState) : (c.setWm m x).pwrDue = c.pwrDue := rfl
@[simp] theorem Chip.setWm_legs (m : Fin 8) (x : WmState) : (c.setWm m x).legs = c.legs := rfl
@[simp] theorem Chip.setWm_links (m : Fin 8) (x : WmState) : (c.setWm m x).links = c.links := rfl
@[simp] theorem Chip.setWm_tbs (m : Fin 8) (x : WmState) : (c.setWm m x).tbs = c.tbs := rfl
@[simp] theorem Chip.setWm_cues (m : Fin 8) (x : WmState) : (c.setWm m x).cues = c.cues := rfl
@[simp] theorem Chip.setWm_slices (m : Fin 8) (x : WmState) : (c.setWm m x).slices = c.slices := rfl
@[simp] theorem Chip.setWm_unders (m : Fin 8) (x : WmState) : (c.setWm m x).unders = c.unders := rfl
@[simp] theorem Chip.setWm_rsvs (m : Fin 8) (x : WmState) : (c.setWm m x).rsvs = c.rsvs := rfl
@[simp] theorem Chip.setWm_excPos (m : Fin 8) (x : WmState) : (c.setWm m x).excPos = c.excPos := rfl
@[simp] theorem Chip.setWm_excTick (m : Fin 8) (x : WmState) : (c.setWm m x).excTick = c.excTick := rfl
@[simp] theorem Chip.setWm_ports (m : Fin 8) (x : WmState) : (c.setWm m x).ports = c.ports := rfl
@[simp] theorem Chip.setWm_axes (m : Fin 8) (x : WmState) : (c.setWm m x).axes = c.axes := rfl
@[simp] theorem Chip.setWm_engines (m : Fin 8) (x : WmState) : (c.setWm m x).engines = c.engines := rfl
@[simp] theorem Chip.setWm_buses (m : Fin 8) (x : WmState) : (c.setWm m x).buses = c.buses := rfl
@[simp] theorem Chip.setWm_hks (m : Fin 8) (x : WmState) : (c.setWm m x).hks = c.hks := rfl
@[simp] theorem Chip.setWm_hkSettle (m : Fin 8) (x : WmState) : (c.setWm m x).hkSettle = c.hkSettle := rfl
@[simp] theorem Chip.setWm_houseTick (m : Fin 8) (x : WmState) : (c.setWm m x).houseTick = c.houseTick := rfl
@[simp] theorem Chip.setWm_roundTick (m : Fin 8) (x : WmState) : (c.setWm m x).roundTick = c.roundTick := rfl
@[simp] theorem Chip.setWm_hkAge (m : Fin 8) (x : WmState) : (c.setWm m x).hkAge = c.hkAge := rfl
@[simp] theorem Chip.setWm_hkUsed (m : Fin 8) (x : WmState) : (c.setWm m x).hkUsed = c.hkUsed := rfl
@[simp] theorem Chip.setWm_xchRun (m : Fin 8) (x : WmState) : (c.setWm m x).xchRun = c.xchRun := rfl
@[simp] theorem Chip.setWm_sensors (m : Fin 8) (x : WmState) : (c.setWm m x).sensors = c.sensors := rfl
@[simp] theorem Chip.setWm_faults (m : Fin 8) (x : WmState) : (c.setWm m x).faults = c.faults := rfl
@[simp] theorem Chip.setWm_load (m : Fin 8) (x : WmState) : (c.setWm m x).load = c.load := rfl
@[simp] theorem Chip.setWm_nvc (m : Fin 8) (x : WmState) : (c.setWm m x).nvc = c.nvc := rfl
@[simp] theorem Chip.setWm_hp (m : Fin 8) (x : WmState) : (c.setWm m x).hp = c.hp := rfl
@[simp] theorem Chip.setWm_can (m : Fin 8) (x : WmState) : (c.setWm m x).can = c.can := rfl
@[simp] theorem Chip.setWm_rng (m : Fin 8) (x : WmState) : (c.setWm m x).rng = c.rng := rfl
@[simp] theorem Chip.setWm_duty (m : Fin 8) (x : WmState) : (c.setWm m x).duty = c.duty := rfl
@[simp] theorem Chip.setWm_reg (m : Fin 8) (x : WmState) (j : Nat) : (c.setWm m x).reg j = c.reg j := rfl
@[simp] theorem Chip.setWm_get (m : Fin 8) (x : WmState) (g : Field) : (c.setWm m x).get g = c.get g := rfl
@[simp] theorem Chip.setWm_flag (m : Fin 8) (x : WmState) (g : Field) : (c.setWm m x).flag g = c.flag g := rfl
@[simp] theorem Chip.wm_setWm (m : Fin 8) (x : WmState) : (c.setWm m x).wm m = x := by
  simp [Chip.setWm, Chip.wm]
theorem Chip.wm_setWm_ne (m : Fin 8) (x : WmState) {j : Fin 8} (h : j ≠ m) : (c.setWm m x).wm j = c.wm j := by
  have h' : m.val ≠ j.val := fun e => h (Fin.ext e.symm)
  simp [Chip.setWm, Chip.wm, h']
@[simp] theorem Chip.leg_setWm (m : Fin 8) (x : WmState) (j : Leg) : (c.setWm m x).leg j = c.leg j := rfl
@[simp] theorem Chip.link_setWm (m : Fin 8) (x : WmState) (j : Die) : (c.setWm m x).link j = c.link j := rfl
@[simp] theorem Chip.tb_setWm (m : Fin 8) (x : WmState) (j : Tb) : (c.setWm m x).tb j = c.tb j := rfl
@[simp] theorem Chip.slice_setWm (m : Fin 8) (x : WmState) (j : SliceId) : (c.setWm m x).slice j = c.slice j := rfl
@[simp] theorem Chip.under_setWm (m : Fin 8) (x : WmState) (j : UDie) : (c.setWm m x).under j = c.under j := rfl
@[simp] theorem Chip.rsv_setWm (m : Fin 8) (x : WmState) (j : Fin 4) : (c.setWm m x).rsv j = c.rsv j := rfl
@[simp] theorem Chip.port_setWm (m : Fin 8) (x : WmState) (j : Port) : (c.setWm m x).port j = c.port j := rfl
@[simp] theorem Chip.axis_setWm (m : Fin 8) (x : WmState) (j : Axis) : (c.setWm m x).axis j = c.axis j := rfl
@[simp] theorem Chip.engine_setWm (m : Fin 8) (x : WmState) (j : Region) : (c.setWm m x).engine j = c.engine j := rfl
@[simp] theorem Chip.bus_setWm (m : Fin 8) (x : WmState) (j : Region) : (c.setWm m x).bus j = c.bus j := rfl
@[simp] theorem Chip.hk_setWm (m : Fin 8) (x : WmState) (j : Region) : (c.setWm m x).hk j = c.hk j := rfl
@[simp] theorem Chip.sensor_setWm (m : Fin 8) (x : WmState) (j : Fin 17) : (c.setWm m x).sensor j = c.sensor j := rfl
/-! ### useFree -/

@[simp] theorem Chip.useFree_regs : (c.useFree).regs = c.regs := rfl
@[simp] theorem Chip.useFree_hold : (c.useFree).hold = c.hold := rfl
@[simp] theorem Chip.useFree_tickRegs : (c.useFree).tickRegs = c.tickRegs := rfl
@[simp] theorem Chip.useFree_fresh : (c.useFree).fresh = c.fresh := rfl
@[simp] theorem Chip.useFree_wall : (c.useFree).wall = c.wall := rfl
@[simp] theorem Chip.useFree_now : (c.useFree).now = c.now := rfl
@[simp] theorem Chip.useFree_armTick : (c.useFree).armTick = c.armTick := rfl
@[simp] theorem Chip.useFree_pwrDue : (c.useFree).pwrDue = c.pwrDue := rfl
@[simp] theorem Chip.useFree_legs : (c.useFree).legs = c.legs := rfl
@[simp] theorem Chip.useFree_links : (c.useFree).links = c.links := rfl
@[simp] theorem Chip.useFree_tbs : (c.useFree).tbs = c.tbs := rfl
@[simp] theorem Chip.useFree_cues : (c.useFree).cues = c.cues := rfl
@[simp] theorem Chip.useFree_slices : (c.useFree).slices = c.slices := rfl
@[simp] theorem Chip.useFree_unders : (c.useFree).unders = c.unders := rfl
@[simp] theorem Chip.useFree_rsvs : (c.useFree).rsvs = c.rsvs := rfl
@[simp] theorem Chip.useFree_excPos : (c.useFree).excPos = c.excPos := rfl
@[simp] theorem Chip.useFree_excTick : (c.useFree).excTick = c.excTick := rfl
@[simp] theorem Chip.useFree_ports : (c.useFree).ports = c.ports := rfl
@[simp] theorem Chip.useFree_axes : (c.useFree).axes = c.axes := rfl
@[simp] theorem Chip.useFree_engines : (c.useFree).engines = c.engines := rfl
@[simp] theorem Chip.useFree_buses : (c.useFree).buses = c.buses := rfl
@[simp] theorem Chip.useFree_hks : (c.useFree).hks = c.hks := rfl
@[simp] theorem Chip.useFree_hkSettle : (c.useFree).hkSettle = c.hkSettle := rfl
@[simp] theorem Chip.useFree_houseTick : (c.useFree).houseTick = c.houseTick := rfl
@[simp] theorem Chip.useFree_roundTick : (c.useFree).roundTick = c.roundTick := rfl
@[simp] theorem Chip.useFree_hkAge : (c.useFree).hkAge = c.hkAge := rfl
@[simp] theorem Chip.useFree_hkUsed : (c.useFree).hkUsed = c.hkUsed := rfl
@[simp] theorem Chip.useFree_xchRun : (c.useFree).xchRun = c.xchRun := rfl
@[simp] theorem Chip.useFree_sensors : (c.useFree).sensors = c.sensors := rfl
@[simp] theorem Chip.useFree_wms : (c.useFree).wms = c.wms := rfl
@[simp] theorem Chip.useFree_faults : (c.useFree).faults = c.faults := rfl
@[simp] theorem Chip.useFree_load : (c.useFree).load = c.load := rfl
@[simp] theorem Chip.useFree_nvc : (c.useFree).nvc = c.nvc := rfl
@[simp] theorem Chip.useFree_hp : (c.useFree).hp = c.hp := rfl
@[simp] theorem Chip.useFree_can : (c.useFree).can = c.can := rfl
@[simp] theorem Chip.useFree_rng : (c.useFree).rng = c.rng := rfl
@[simp] theorem Chip.useFree_duty : (c.useFree).duty = c.duty := rfl
@[simp] theorem Chip.useFree_reg (j : Nat) : (c.useFree).reg j = c.reg j := rfl
@[simp] theorem Chip.useFree_get (g : Field) : (c.useFree).get g = c.get g := rfl
@[simp] theorem Chip.useFree_flag (g : Field) : (c.useFree).flag g = c.flag g := rfl
@[simp] theorem Chip.leg_useFree (j : Leg) : (c.useFree).leg j = c.leg j := rfl
@[simp] theorem Chip.link_useFree (j : Die) : (c.useFree).link j = c.link j := rfl
@[simp] theorem Chip.tb_useFree (j : Tb) : (c.useFree).tb j = c.tb j := rfl
@[simp] theorem Chip.slice_useFree (j : SliceId) : (c.useFree).slice j = c.slice j := rfl
@[simp] theorem Chip.under_useFree (j : UDie) : (c.useFree).under j = c.under j := rfl
@[simp] theorem Chip.rsv_useFree (j : Fin 4) : (c.useFree).rsv j = c.rsv j := rfl
@[simp] theorem Chip.port_useFree (j : Port) : (c.useFree).port j = c.port j := rfl
@[simp] theorem Chip.axis_useFree (j : Axis) : (c.useFree).axis j = c.axis j := rfl
@[simp] theorem Chip.engine_useFree (j : Region) : (c.useFree).engine j = c.engine j := rfl
@[simp] theorem Chip.bus_useFree (j : Region) : (c.useFree).bus j = c.bus j := rfl
@[simp] theorem Chip.hk_useFree (j : Region) : (c.useFree).hk j = c.hk j := rfl
@[simp] theorem Chip.sensor_useFree (j : Fin 17) : (c.useFree).sensor j = c.sensor j := rfl
@[simp] theorem Chip.wm_useFree (j : Fin 8) : (c.useFree).wm j = c.wm j := rfl
/-! ### report -/

@[simp] theorem Chip.report_regs (src n code : Nat) (m : BitVec 8) (inj : Bool) : (c.report src n code m inj).regs = c.regs := by
  unfold Chip.report; split <;> rfl
@[simp] theorem Chip.report_hold (src n code : Nat) (m : BitVec 8) (inj : Bool) : (c.report src n code m inj).hold = c.hold := by
  unfold Chip.report; split <;> rfl
@[simp] theorem Chip.report_tickRegs (src n code : Nat) (m : BitVec 8) (inj : Bool) : (c.report src n code m inj).tickRegs = c.tickRegs := by
  unfold Chip.report; split <;> rfl
@[simp] theorem Chip.report_fresh (src n code : Nat) (m : BitVec 8) (inj : Bool) : (c.report src n code m inj).fresh = c.fresh := by
  unfold Chip.report; split <;> rfl
@[simp] theorem Chip.report_wall (src n code : Nat) (m : BitVec 8) (inj : Bool) : (c.report src n code m inj).wall = c.wall := by
  unfold Chip.report; split <;> rfl
@[simp] theorem Chip.report_now (src n code : Nat) (m : BitVec 8) (inj : Bool) : (c.report src n code m inj).now = c.now := by
  unfold Chip.report; split <;> rfl
@[simp] theorem Chip.report_free (src n code : Nat) (m : BitVec 8) (inj : Bool) : (c.report src n code m inj).free = c.free := by
  unfold Chip.report; split <;> rfl
@[simp] theorem Chip.report_armTick (src n code : Nat) (m : BitVec 8) (inj : Bool) : (c.report src n code m inj).armTick = c.armTick := by
  unfold Chip.report; split <;> rfl
@[simp] theorem Chip.report_pwrDue (src n code : Nat) (m : BitVec 8) (inj : Bool) : (c.report src n code m inj).pwrDue = c.pwrDue := by
  unfold Chip.report; split <;> rfl
@[simp] theorem Chip.report_legs (src n code : Nat) (m : BitVec 8) (inj : Bool) : (c.report src n code m inj).legs = c.legs := by
  unfold Chip.report; split <;> rfl
@[simp] theorem Chip.report_links (src n code : Nat) (m : BitVec 8) (inj : Bool) : (c.report src n code m inj).links = c.links := by
  unfold Chip.report; split <;> rfl
@[simp] theorem Chip.report_tbs (src n code : Nat) (m : BitVec 8) (inj : Bool) : (c.report src n code m inj).tbs = c.tbs := by
  unfold Chip.report; split <;> rfl
@[simp] theorem Chip.report_cues (src n code : Nat) (m : BitVec 8) (inj : Bool) : (c.report src n code m inj).cues = c.cues := by
  unfold Chip.report; split <;> rfl
@[simp] theorem Chip.report_slices (src n code : Nat) (m : BitVec 8) (inj : Bool) : (c.report src n code m inj).slices = c.slices := by
  unfold Chip.report; split <;> rfl
@[simp] theorem Chip.report_unders (src n code : Nat) (m : BitVec 8) (inj : Bool) : (c.report src n code m inj).unders = c.unders := by
  unfold Chip.report; split <;> rfl
@[simp] theorem Chip.report_rsvs (src n code : Nat) (m : BitVec 8) (inj : Bool) : (c.report src n code m inj).rsvs = c.rsvs := by
  unfold Chip.report; split <;> rfl
@[simp] theorem Chip.report_excPos (src n code : Nat) (m : BitVec 8) (inj : Bool) : (c.report src n code m inj).excPos = c.excPos := by
  unfold Chip.report; split <;> rfl
@[simp] theorem Chip.report_excTick (src n code : Nat) (m : BitVec 8) (inj : Bool) : (c.report src n code m inj).excTick = c.excTick := by
  unfold Chip.report; split <;> rfl
@[simp] theorem Chip.report_ports (src n code : Nat) (m : BitVec 8) (inj : Bool) : (c.report src n code m inj).ports = c.ports := by
  unfold Chip.report; split <;> rfl
@[simp] theorem Chip.report_axes (src n code : Nat) (m : BitVec 8) (inj : Bool) : (c.report src n code m inj).axes = c.axes := by
  unfold Chip.report; split <;> rfl
@[simp] theorem Chip.report_engines (src n code : Nat) (m : BitVec 8) (inj : Bool) : (c.report src n code m inj).engines = c.engines := by
  unfold Chip.report; split <;> rfl
@[simp] theorem Chip.report_buses (src n code : Nat) (m : BitVec 8) (inj : Bool) : (c.report src n code m inj).buses = c.buses := by
  unfold Chip.report; split <;> rfl
@[simp] theorem Chip.report_hks (src n code : Nat) (m : BitVec 8) (inj : Bool) : (c.report src n code m inj).hks = c.hks := by
  unfold Chip.report; split <;> rfl
@[simp] theorem Chip.report_hkSettle (src n code : Nat) (m : BitVec 8) (inj : Bool) : (c.report src n code m inj).hkSettle = c.hkSettle := by
  unfold Chip.report; split <;> rfl
@[simp] theorem Chip.report_houseTick (src n code : Nat) (m : BitVec 8) (inj : Bool) : (c.report src n code m inj).houseTick = c.houseTick := by
  unfold Chip.report; split <;> rfl
@[simp] theorem Chip.report_roundTick (src n code : Nat) (m : BitVec 8) (inj : Bool) : (c.report src n code m inj).roundTick = c.roundTick := by
  unfold Chip.report; split <;> rfl
@[simp] theorem Chip.report_hkAge (src n code : Nat) (m : BitVec 8) (inj : Bool) : (c.report src n code m inj).hkAge = c.hkAge := by
  unfold Chip.report; split <;> rfl
@[simp] theorem Chip.report_hkUsed (src n code : Nat) (m : BitVec 8) (inj : Bool) : (c.report src n code m inj).hkUsed = c.hkUsed := by
  unfold Chip.report; split <;> rfl
@[simp] theorem Chip.report_xchRun (src n code : Nat) (m : BitVec 8) (inj : Bool) : (c.report src n code m inj).xchRun = c.xchRun := by
  unfold Chip.report; split <;> rfl
@[simp] theorem Chip.report_sensors (src n code : Nat) (m : BitVec 8) (inj : Bool) : (c.report src n code m inj).sensors = c.sensors := by
  unfold Chip.report; split <;> rfl
@[simp] theorem Chip.report_wms (src n code : Nat) (m : BitVec 8) (inj : Bool) : (c.report src n code m inj).wms = c.wms := by
  unfold Chip.report; split <;> rfl
@[simp] theorem Chip.report_load (src n code : Nat) (m : BitVec 8) (inj : Bool) : (c.report src n code m inj).load = c.load := by
  unfold Chip.report; split <;> rfl
@[simp] theorem Chip.report_nvc (src n code : Nat) (m : BitVec 8) (inj : Bool) : (c.report src n code m inj).nvc = c.nvc := by
  unfold Chip.report; split <;> rfl
@[simp] theorem Chip.report_hp (src n code : Nat) (m : BitVec 8) (inj : Bool) : (c.report src n code m inj).hp = c.hp := by
  unfold Chip.report; split <;> rfl
@[simp] theorem Chip.report_can (src n code : Nat) (m : BitVec 8) (inj : Bool) : (c.report src n code m inj).can = c.can := by
  unfold Chip.report; split <;> rfl
@[simp] theorem Chip.report_rng (src n code : Nat) (m : BitVec 8) (inj : Bool) : (c.report src n code m inj).rng = c.rng := by
  unfold Chip.report; split <;> rfl
@[simp] theorem Chip.report_duty (src n code : Nat) (m : BitVec 8) (inj : Bool) : (c.report src n code m inj).duty = c.duty := by
  unfold Chip.report; split <;> rfl
@[simp] theorem Chip.report_reg (src n code : Nat) (m : BitVec 8) (inj : Bool) (j : Nat) : (c.report src n code m inj).reg j = c.reg j := by
  unfold Chip.report; split <;> rfl
@[simp] theorem Chip.report_get (src n code : Nat) (m : BitVec 8) (inj : Bool) (g : Field) : (c.report src n code m inj).get g = c.get g := by
  unfold Chip.report; split <;> rfl
@[simp] theorem Chip.report_flag (src n code : Nat) (m : BitVec 8) (inj : Bool) (g : Field) : (c.report src n code m inj).flag g = c.flag g := by
  unfold Chip.report; split <;> rfl
@[simp] theorem Chip.leg_report (src n code : Nat) (m : BitVec 8) (inj : Bool) (j : Leg) : (c.report src n code m inj).leg j = c.leg j := by
  unfold Chip.report; split <;> rfl
@[simp] theorem Chip.link_report (src n code : Nat) (m : BitVec 8) (inj : Bool) (j : Die) : (c.report src n code m inj).link j = c.link j := by
  unfold Chip.report; split <;> rfl
@[simp] theorem Chip.tb_report (src n code : Nat) (m : BitVec 8) (inj : Bool) (j : Tb) : (c.report src n code m inj).tb j = c.tb j := by
  unfold Chip.report; split <;> rfl
@[simp] theorem Chip.slice_report (src n code : Nat) (m : BitVec 8) (inj : Bool) (j : SliceId) : (c.report src n code m inj).slice j = c.slice j := by
  unfold Chip.report; split <;> rfl
@[simp] theorem Chip.under_report (src n code : Nat) (m : BitVec 8) (inj : Bool) (j : UDie) : (c.report src n code m inj).under j = c.under j := by
  unfold Chip.report; split <;> rfl
@[simp] theorem Chip.rsv_report (src n code : Nat) (m : BitVec 8) (inj : Bool) (j : Fin 4) : (c.report src n code m inj).rsv j = c.rsv j := by
  unfold Chip.report; split <;> rfl
@[simp] theorem Chip.port_report (src n code : Nat) (m : BitVec 8) (inj : Bool) (j : Port) : (c.report src n code m inj).port j = c.port j := by
  unfold Chip.report; split <;> rfl
@[simp] theorem Chip.axis_report (src n code : Nat) (m : BitVec 8) (inj : Bool) (j : Axis) : (c.report src n code m inj).axis j = c.axis j := by
  unfold Chip.report; split <;> rfl
@[simp] theorem Chip.engine_report (src n code : Nat) (m : BitVec 8) (inj : Bool) (j : Region) : (c.report src n code m inj).engine j = c.engine j := by
  unfold Chip.report; split <;> rfl
@[simp] theorem Chip.bus_report (src n code : Nat) (m : BitVec 8) (inj : Bool) (j : Region) : (c.report src n code m inj).bus j = c.bus j := by
  unfold Chip.report; split <;> rfl
@[simp] theorem Chip.hk_report (src n code : Nat) (m : BitVec 8) (inj : Bool) (j : Region) : (c.report src n code m inj).hk j = c.hk j := by
  unfold Chip.report; split <;> rfl
@[simp] theorem Chip.sensor_report (src n code : Nat) (m : BitVec 8) (inj : Bool) (j : Fin 17) : (c.report src n code m inj).sensor j = c.sensor j := by
  unfold Chip.report; split <;> rfl
@[simp] theorem Chip.wm_report (src n code : Nat) (m : BitVec 8) (inj : Bool) (j : Fin 8) : (c.report src n code m inj).wm j = c.wm j := by
  unfold Chip.report; split <;> rfl
/-! ### raise -/

@[simp] theorem Chip.raise_regs (src : Nat) : (c.raise src).regs = c.regs := rfl
@[simp] theorem Chip.raise_hold (src : Nat) : (c.raise src).hold = c.hold := rfl
@[simp] theorem Chip.raise_tickRegs (src : Nat) : (c.raise src).tickRegs = c.tickRegs := rfl
@[simp] theorem Chip.raise_fresh (src : Nat) : (c.raise src).fresh = c.fresh := rfl
@[simp] theorem Chip.raise_wall (src : Nat) : (c.raise src).wall = c.wall := rfl
@[simp] theorem Chip.raise_now (src : Nat) : (c.raise src).now = c.now := rfl
@[simp] theorem Chip.raise_free (src : Nat) : (c.raise src).free = c.free := rfl
@[simp] theorem Chip.raise_armTick (src : Nat) : (c.raise src).armTick = c.armTick := rfl
@[simp] theorem Chip.raise_pwrDue (src : Nat) : (c.raise src).pwrDue = c.pwrDue := rfl
@[simp] theorem Chip.raise_legs (src : Nat) : (c.raise src).legs = c.legs := rfl
@[simp] theorem Chip.raise_links (src : Nat) : (c.raise src).links = c.links := rfl
@[simp] theorem Chip.raise_tbs (src : Nat) : (c.raise src).tbs = c.tbs := rfl
@[simp] theorem Chip.raise_cues (src : Nat) : (c.raise src).cues = c.cues := rfl
@[simp] theorem Chip.raise_slices (src : Nat) : (c.raise src).slices = c.slices := rfl
@[simp] theorem Chip.raise_unders (src : Nat) : (c.raise src).unders = c.unders := rfl
@[simp] theorem Chip.raise_rsvs (src : Nat) : (c.raise src).rsvs = c.rsvs := rfl
@[simp] theorem Chip.raise_excPos (src : Nat) : (c.raise src).excPos = c.excPos := rfl
@[simp] theorem Chip.raise_excTick (src : Nat) : (c.raise src).excTick = c.excTick := rfl
@[simp] theorem Chip.raise_ports (src : Nat) : (c.raise src).ports = c.ports := rfl
@[simp] theorem Chip.raise_axes (src : Nat) : (c.raise src).axes = c.axes := rfl
@[simp] theorem Chip.raise_engines (src : Nat) : (c.raise src).engines = c.engines := rfl
@[simp] theorem Chip.raise_buses (src : Nat) : (c.raise src).buses = c.buses := rfl
@[simp] theorem Chip.raise_hks (src : Nat) : (c.raise src).hks = c.hks := rfl
@[simp] theorem Chip.raise_hkSettle (src : Nat) : (c.raise src).hkSettle = c.hkSettle := rfl
@[simp] theorem Chip.raise_houseTick (src : Nat) : (c.raise src).houseTick = c.houseTick := rfl
@[simp] theorem Chip.raise_roundTick (src : Nat) : (c.raise src).roundTick = c.roundTick := rfl
@[simp] theorem Chip.raise_hkAge (src : Nat) : (c.raise src).hkAge = c.hkAge := rfl
@[simp] theorem Chip.raise_hkUsed (src : Nat) : (c.raise src).hkUsed = c.hkUsed := rfl
@[simp] theorem Chip.raise_xchRun (src : Nat) : (c.raise src).xchRun = c.xchRun := rfl
@[simp] theorem Chip.raise_sensors (src : Nat) : (c.raise src).sensors = c.sensors := rfl
@[simp] theorem Chip.raise_wms (src : Nat) : (c.raise src).wms = c.wms := rfl
@[simp] theorem Chip.raise_load (src : Nat) : (c.raise src).load = c.load := rfl
@[simp] theorem Chip.raise_nvc (src : Nat) : (c.raise src).nvc = c.nvc := rfl
@[simp] theorem Chip.raise_hp (src : Nat) : (c.raise src).hp = c.hp := rfl
@[simp] theorem Chip.raise_can (src : Nat) : (c.raise src).can = c.can := rfl
@[simp] theorem Chip.raise_rng (src : Nat) : (c.raise src).rng = c.rng := rfl
@[simp] theorem Chip.raise_duty (src : Nat) : (c.raise src).duty = c.duty := rfl
@[simp] theorem Chip.raise_reg (src : Nat) (j : Nat) : (c.raise src).reg j = c.reg j := rfl
@[simp] theorem Chip.raise_get (src : Nat) (g : Field) : (c.raise src).get g = c.get g := rfl
@[simp] theorem Chip.raise_flag (src : Nat) (g : Field) : (c.raise src).flag g = c.flag g := rfl
@[simp] theorem Chip.leg_raise (src : Nat) (j : Leg) : (c.raise src).leg j = c.leg j := rfl
@[simp] theorem Chip.link_raise (src : Nat) (j : Die) : (c.raise src).link j = c.link j := rfl
@[simp] theorem Chip.tb_raise (src : Nat) (j : Tb) : (c.raise src).tb j = c.tb j := rfl
@[simp] theorem Chip.slice_raise (src : Nat) (j : SliceId) : (c.raise src).slice j = c.slice j := rfl
@[simp] theorem Chip.under_raise (src : Nat) (j : UDie) : (c.raise src).under j = c.under j := rfl
@[simp] theorem Chip.rsv_raise (src : Nat) (j : Fin 4) : (c.raise src).rsv j = c.rsv j := rfl
@[simp] theorem Chip.port_raise (src : Nat) (j : Port) : (c.raise src).port j = c.port j := rfl
@[simp] theorem Chip.axis_raise (src : Nat) (j : Axis) : (c.raise src).axis j = c.axis j := rfl
@[simp] theorem Chip.engine_raise (src : Nat) (j : Region) : (c.raise src).engine j = c.engine j := rfl
@[simp] theorem Chip.bus_raise (src : Nat) (j : Region) : (c.raise src).bus j = c.bus j := rfl
@[simp] theorem Chip.hk_raise (src : Nat) (j : Region) : (c.raise src).hk j = c.hk j := rfl
@[simp] theorem Chip.sensor_raise (src : Nat) (j : Fin 17) : (c.raise src).sensor j = c.sensor j := rfl
@[simp] theorem Chip.wm_raise (src : Nat) (j : Fin 8) : (c.raise src).wm j = c.wm j := rfl
/-! ### raiseIf -/

@[simp] theorem Chip.raiseIf_regs (b : Bool) (src : Nat) : (c.raiseIf b src).regs = c.regs := by cases b <;> rfl
@[simp] theorem Chip.raiseIf_hold (b : Bool) (src : Nat) : (c.raiseIf b src).hold = c.hold := by cases b <;> rfl
@[simp] theorem Chip.raiseIf_tickRegs (b : Bool) (src : Nat) : (c.raiseIf b src).tickRegs = c.tickRegs := by cases b <;> rfl
@[simp] theorem Chip.raiseIf_fresh (b : Bool) (src : Nat) : (c.raiseIf b src).fresh = c.fresh := by cases b <;> rfl
@[simp] theorem Chip.raiseIf_wall (b : Bool) (src : Nat) : (c.raiseIf b src).wall = c.wall := by cases b <;> rfl
@[simp] theorem Chip.raiseIf_now (b : Bool) (src : Nat) : (c.raiseIf b src).now = c.now := by cases b <;> rfl
@[simp] theorem Chip.raiseIf_free (b : Bool) (src : Nat) : (c.raiseIf b src).free = c.free := by cases b <;> rfl
@[simp] theorem Chip.raiseIf_armTick (b : Bool) (src : Nat) : (c.raiseIf b src).armTick = c.armTick := by cases b <;> rfl
@[simp] theorem Chip.raiseIf_pwrDue (b : Bool) (src : Nat) : (c.raiseIf b src).pwrDue = c.pwrDue := by cases b <;> rfl
@[simp] theorem Chip.raiseIf_legs (b : Bool) (src : Nat) : (c.raiseIf b src).legs = c.legs := by cases b <;> rfl
@[simp] theorem Chip.raiseIf_links (b : Bool) (src : Nat) : (c.raiseIf b src).links = c.links := by cases b <;> rfl
@[simp] theorem Chip.raiseIf_tbs (b : Bool) (src : Nat) : (c.raiseIf b src).tbs = c.tbs := by cases b <;> rfl
@[simp] theorem Chip.raiseIf_cues (b : Bool) (src : Nat) : (c.raiseIf b src).cues = c.cues := by cases b <;> rfl
@[simp] theorem Chip.raiseIf_slices (b : Bool) (src : Nat) : (c.raiseIf b src).slices = c.slices := by cases b <;> rfl
@[simp] theorem Chip.raiseIf_unders (b : Bool) (src : Nat) : (c.raiseIf b src).unders = c.unders := by cases b <;> rfl
@[simp] theorem Chip.raiseIf_rsvs (b : Bool) (src : Nat) : (c.raiseIf b src).rsvs = c.rsvs := by cases b <;> rfl
@[simp] theorem Chip.raiseIf_excPos (b : Bool) (src : Nat) : (c.raiseIf b src).excPos = c.excPos := by cases b <;> rfl
@[simp] theorem Chip.raiseIf_excTick (b : Bool) (src : Nat) : (c.raiseIf b src).excTick = c.excTick := by cases b <;> rfl
@[simp] theorem Chip.raiseIf_ports (b : Bool) (src : Nat) : (c.raiseIf b src).ports = c.ports := by cases b <;> rfl
@[simp] theorem Chip.raiseIf_axes (b : Bool) (src : Nat) : (c.raiseIf b src).axes = c.axes := by cases b <;> rfl
@[simp] theorem Chip.raiseIf_engines (b : Bool) (src : Nat) : (c.raiseIf b src).engines = c.engines := by cases b <;> rfl
@[simp] theorem Chip.raiseIf_buses (b : Bool) (src : Nat) : (c.raiseIf b src).buses = c.buses := by cases b <;> rfl
@[simp] theorem Chip.raiseIf_hks (b : Bool) (src : Nat) : (c.raiseIf b src).hks = c.hks := by cases b <;> rfl
@[simp] theorem Chip.raiseIf_hkSettle (b : Bool) (src : Nat) : (c.raiseIf b src).hkSettle = c.hkSettle := by cases b <;> rfl
@[simp] theorem Chip.raiseIf_houseTick (b : Bool) (src : Nat) : (c.raiseIf b src).houseTick = c.houseTick := by cases b <;> rfl
@[simp] theorem Chip.raiseIf_roundTick (b : Bool) (src : Nat) : (c.raiseIf b src).roundTick = c.roundTick := by cases b <;> rfl
@[simp] theorem Chip.raiseIf_hkAge (b : Bool) (src : Nat) : (c.raiseIf b src).hkAge = c.hkAge := by cases b <;> rfl
@[simp] theorem Chip.raiseIf_hkUsed (b : Bool) (src : Nat) : (c.raiseIf b src).hkUsed = c.hkUsed := by cases b <;> rfl
@[simp] theorem Chip.raiseIf_xchRun (b : Bool) (src : Nat) : (c.raiseIf b src).xchRun = c.xchRun := by cases b <;> rfl
@[simp] theorem Chip.raiseIf_sensors (b : Bool) (src : Nat) : (c.raiseIf b src).sensors = c.sensors := by cases b <;> rfl
@[simp] theorem Chip.raiseIf_wms (b : Bool) (src : Nat) : (c.raiseIf b src).wms = c.wms := by cases b <;> rfl
@[simp] theorem Chip.raiseIf_load (b : Bool) (src : Nat) : (c.raiseIf b src).load = c.load := by cases b <;> rfl
@[simp] theorem Chip.raiseIf_nvc (b : Bool) (src : Nat) : (c.raiseIf b src).nvc = c.nvc := by cases b <;> rfl
@[simp] theorem Chip.raiseIf_hp (b : Bool) (src : Nat) : (c.raiseIf b src).hp = c.hp := by cases b <;> rfl
@[simp] theorem Chip.raiseIf_can (b : Bool) (src : Nat) : (c.raiseIf b src).can = c.can := by cases b <;> rfl
@[simp] theorem Chip.raiseIf_rng (b : Bool) (src : Nat) : (c.raiseIf b src).rng = c.rng := by cases b <;> rfl
@[simp] theorem Chip.raiseIf_duty (b : Bool) (src : Nat) : (c.raiseIf b src).duty = c.duty := by cases b <;> rfl
@[simp] theorem Chip.raiseIf_reg (b : Bool) (src : Nat) (j : Nat) : (c.raiseIf b src).reg j = c.reg j := by cases b <;> rfl
@[simp] theorem Chip.raiseIf_get (b : Bool) (src : Nat) (g : Field) : (c.raiseIf b src).get g = c.get g := by cases b <;> rfl
@[simp] theorem Chip.raiseIf_flag (b : Bool) (src : Nat) (g : Field) : (c.raiseIf b src).flag g = c.flag g := by cases b <;> rfl
@[simp] theorem Chip.leg_raiseIf (b : Bool) (src : Nat) (j : Leg) : (c.raiseIf b src).leg j = c.leg j := by cases b <;> rfl
@[simp] theorem Chip.link_raiseIf (b : Bool) (src : Nat) (j : Die) : (c.raiseIf b src).link j = c.link j := by cases b <;> rfl
@[simp] theorem Chip.tb_raiseIf (b : Bool) (src : Nat) (j : Tb) : (c.raiseIf b src).tb j = c.tb j := by cases b <;> rfl
@[simp] theorem Chip.slice_raiseIf (b : Bool) (src : Nat) (j : SliceId) : (c.raiseIf b src).slice j = c.slice j := by cases b <;> rfl
@[simp] theorem Chip.under_raiseIf (b : Bool) (src : Nat) (j : UDie) : (c.raiseIf b src).under j = c.under j := by cases b <;> rfl
@[simp] theorem Chip.rsv_raiseIf (b : Bool) (src : Nat) (j : Fin 4) : (c.raiseIf b src).rsv j = c.rsv j := by cases b <;> rfl
@[simp] theorem Chip.port_raiseIf (b : Bool) (src : Nat) (j : Port) : (c.raiseIf b src).port j = c.port j := by cases b <;> rfl
@[simp] theorem Chip.axis_raiseIf (b : Bool) (src : Nat) (j : Axis) : (c.raiseIf b src).axis j = c.axis j := by cases b <;> rfl
@[simp] theorem Chip.engine_raiseIf (b : Bool) (src : Nat) (j : Region) : (c.raiseIf b src).engine j = c.engine j := by cases b <;> rfl
@[simp] theorem Chip.bus_raiseIf (b : Bool) (src : Nat) (j : Region) : (c.raiseIf b src).bus j = c.bus j := by cases b <;> rfl
@[simp] theorem Chip.hk_raiseIf (b : Bool) (src : Nat) (j : Region) : (c.raiseIf b src).hk j = c.hk j := by cases b <;> rfl
@[simp] theorem Chip.sensor_raiseIf (b : Bool) (src : Nat) (j : Fin 17) : (c.raiseIf b src).sensor j = c.sensor j := by cases b <;> rfl
@[simp] theorem Chip.wm_raiseIf (b : Bool) (src : Nat) (j : Fin 8) : (c.raiseIf b src).wm j = c.wm j := by cases b <;> rfl

end Sys2Proof.Machine
end

