-- ==== Sys2Proof/Laws/Frames.lean ====
section
/-! SUPPORT. Frames: how the words of Safety.lean follow an update, and what every command that acts on the volatile part
alone leaves. -/
namespace Sys2Proof.Machine

/-! ### Fields -/

theorem FieldsBut.refl (l : List Field) (c : Chip) : FieldsBut l c c := fun _ _ _ => rfl

theorem FieldsBut.trans {l : List Field} {a b c : Chip} (h : FieldsBut l a b) (k : FieldsBut l b c) : FieldsBut l a c :=
  fun g hg ha => (k g hg ha).trans (h g hg ha)

theorem FieldsBut.mono {l m : List Field} {a b : Chip} (h : FieldsBut l a b) (hl : ∀ f ∈ l, f ∈ m) : FieldsBut m a b :=
  fun g hg ha => h g hg fun f hf => ha f (hl f hf)

/-- A chip with the same register words has the same fields. -/
theorem FieldsBut.of_regs {l : List Field} {a b c : Chip} (h : FieldsBut l a b) (k : c.regs = b.regs) : FieldsBut l a c := by
  intro g hg ha
  rw [← h g hg ha]
  simp [Chip.get, Chip.reg, k]

/-- A field of the list may be put. -/
theorem FieldsBut.put {l : List Field} {a b : Chip} (h : FieldsBut l a b) (f : Field) (v : Nat) (hf : f.ok) (hl : f ∈ l) :
    FieldsBut l a (b.put f v) :=
  fun g hg ha => (b.get_put_apart g f v hg hf (ha f hl)).trans (h g hg ha)

theorem RegsBut.refl (l : List Nat) (c : Chip) : RegsBut l c c := fun _ _ => rfl

theorem RegsBut.trans {l : List Nat} {a b c : Chip} (h : RegsBut l a b) (k : RegsBut l b c) : RegsBut l a c :=
  fun x hx => (k x hx).trans (h x hx)

theorem RegsBut.of_regs {l : List Nat} {a b c : Chip} (h : RegsBut l a b) (k : c.regs = b.regs) : RegsBut l a c := by
  intro x hx
  rw [← h x hx]
  simp [Chip.reg, k]

/-- A register of the list may be set. -/
theorem RegsBut.setReg {l : List Nat} {a b : Chip} (h : RegsBut l a b) (x : Nat) (w : Word) (hx : x ∈ l) :
    RegsBut l a (b.setReg x w) :=
  fun y hy => (b.reg_setReg_ne w (fun e : y = x => hy (by rw [e]; exact hx))).trans (h y hy)

/-- A field of a register of the list may be put. -/
theorem RegsBut.put {l : List Nat} {a b : Chip} (h : RegsBut l a b) (f : Field) (v : Nat) (hx : f.addr ∈ l) :
    RegsBut l a (b.put f v) := h.setReg _ _ hx

/-- Each way to write a field of the list. -/
theorem FieldsBut.putF {l : List Field} {a b : Chip} (h : FieldsBut l a b) (f : Field) (v : Bool) (hf : f.ok) (hl : f ∈ l) :
    FieldsBut l a (b.putF f v) := h.put f _ hf hl
theorem FieldsBut.puts {l : List Field} {a b : Chip} (h : FieldsBut l a b) (f : Field) (v : Int) (hf : f.ok) (hl : f ∈ l) :
    FieldsBut l a (b.puts f v) := h.put f _ hf hl
theorem FieldsBut.mark {l : List Field} {a b : Chip} (h : FieldsBut l a b) (f : Field) (hf : f.ok) (hl : f ∈ l) :
    FieldsBut l a (b.mark f) := (h.put f 1 hf hl).of_regs rfl
theorem FieldsBut.markIf {l : List Field} {a b : Chip} (h : FieldsBut l a b) (v : Bool) (f : Field) (hf : f.ok) (hl : f ∈ l) :
    FieldsBut l a (b.markIf v f) := by
  cases v
  · exact h
  · exact h.mark f hf hl
theorem FieldsBut.bump {l : List Field} {a b : Chip} (h : FieldsBut l a b) (f : Field) (v : Nat) (hf : f.ok) (hl : f ∈ l) :
    FieldsBut l a (b.bump f v) := (h.put f _ hf hl).of_regs rfl
theorem FieldsBut.addWrap {l : List Field} {a b : Chip} (h : FieldsBut l a b) (f : Field) (v : Int) (hf : f.ok) (hl : f ∈ l) :
    FieldsBut l a (b.addWrap f v) := h.put f _ hf hl
theorem FieldsBut.putMax {l : List Field} {a b : Chip} (h : FieldsBut l a b) (f : Field) (v : Nat) (hf : f.ok) (hl : f ∈ l) :
    FieldsBut l a (b.putMax f v) := (h.put f _ hf hl).of_regs rfl

/-- One-bit fields as flags. -/
theorem Chip.flag_putF (c : Chip) (f : Field) (h : f.ok) (b : Bool) : (c.putF f b).flag f = b := by
  have : 1 < 2 ^ (f.hi + 1 - f.lo) := Nat.one_lt_two_pow (by have := h.1; omega)
  unfold Chip.flag Chip.putF
  rw [c.get_put f h]
  cases b
  · simp
  · rw [Bool.toNat_true, Nat.mod_eq_of_lt this]; rfl

/-- A field that holds the value put. -/
theorem Chip.get_put_lt (c : Chip) (f : Field) (h : f.ok) (v : Nat) (hv : v < 2 ^ (f.hi + 1 - f.lo)) :
    (c.put f v).get f = v := by
  rw [c.get_put f h, Nat.mod_eq_of_lt hv]

/-- A concrete field reads the number put, when it fits: `c.get_put_fit f v rfl`. -/
theorem Chip.get_put_fit (c : Chip) (f : Field) (v : Nat)
    (h : (Nat.ble f.lo f.hi && Nat.blt f.hi 32 && Nat.blt v (2 ^ (f.hi + 1 - f.lo))) = true) : (c.put f v).get f = v := by
  simp only [Bool.and_eq_true, Nat.blt, Nat.ble_eq] at h
  exact c.get_put_lt f ⟨h.1.1, h.1.2⟩ v h.2

/-- Another concrete field of the same register: `c.get_put_beside f g v rfl`. -/
theorem Chip.get_put_beside (c : Chip) (f g : Field) (v : Nat)
    (h : (Nat.ble f.lo f.hi && Nat.blt f.hi 32 && (Nat.ble g.lo g.hi && Nat.blt g.hi 32) &&
      (Nat.blt f.hi g.lo || Nat.blt g.hi f.lo)) = true) : (c.put g v).get f = c.get f := by
  rw [Bool.and_eq_true, Bool.and_eq_true] at h
  exact c.get_put_apart f g v (Field.ok_of _ h.1.1) (Field.ok_of _ h.1.2) (Field.apart_of _ _ h.2)

/-- A field never exceeds its width. -/
theorem Chip.get_lt (c : Chip) (f : Field) : c.get f < 2 ^ (f.hi + 1 - f.lo) := Nat.mod_lt _ (Nat.two_pow_pos _)

/-- A counter that holds at its largest value. -/
theorem Chip.get_bump (c : Chip) (f : Field) (h : f.ok) (n : Nat) : (c.bump f n).get f = min (c.get f + n) f.top := by
  have : 0 < 2 ^ (f.hi + 1 - f.lo) := Nat.two_pow_pos _
  exact c.get_put_lt f h _ (by unfold Field.top; omega)

/-! ### Commands on the volatile part -/

/-- A command on the volatile part leaves the fuses, the logbook and the queue. -/
theorem State.run_eq (s : State) (f : Chip → Chip) : s.run f = .next { s with chip := f s.chip } := rfl

/-- An accepted request of a running part takes effect and answers OK. -/
theorem Chip.ask_ok (c : Chip) (p : Path) (d : Bool) (f : Chip → Judged) (hc : c.carries p = true)
    (hg : c.gate d = .ok) : c.ask p d f = (f c).1.answer p (f c).2 := by
  simp [Chip.ask, hc, hg]

/-- A request none of whose conditions applies. -/
theorem Chip.request_ok (c : Chip) (l : List (Bool × Reason)) (f : Chip → Chip) (h : judge l = .ok) :
    c.request l f = (f c, .ok) := by
  simp [Chip.request, h]

/-- A refused request has no effect (R10). -/
theorem Chip.request_refused (c : Chip) (l : List (Bool × Reason)) (f : Chip → Chip) (h : judge l ≠ .ok) :
    c.request l f = (c, judge l) := by
  simp [Chip.request, h]

/-- No condition applies: no refusal. -/
theorem judge_ok (l : List (Bool × Reason)) (h : ∀ x ∈ l, x.1 = false) : judge l = .ok := by
  induction l with
  | nil => rfl
  | cons x l ih =>
    simp [judge, h x (by simp)]
    exact ih fun y hy => h y (by simp [hy])

@[simp] theorem Chip.answer_regs (c : Chip) (p : Path) (r : Reason) : (c.answer p r).regs = c.regs := by cases p <;> rfl
@[simp] theorem Chip.answer_reg (c : Chip) (p : Path) (r : Reason) (a : Nat) : (c.answer p r).reg a = c.reg a := by
  cases p <;> rfl
@[simp] theorem Chip.answer_get (c : Chip) (p : Path) (r : Reason) (f : Field) : (c.answer p r).get f = c.get f := by
  cases p <;> rfl
@[simp] theorem Chip.answer_flag (c : Chip) (p : Path) (r : Reason) (f : Field) : (c.answer p r).flag f = c.flag f := by
  cases p <;> rfl
@[simp] theorem Chip.answer_cues (c : Chip) (p : Path) (r : Reason) : (c.answer p r).cues = c.cues := by cases p <;> rfl
@[simp] theorem Chip.answer_axes (c : Chip) (p : Path) (r : Reason) : (c.answer p r).axes = c.axes := by cases p <;> rfl
@[simp] theorem Chip.answer_ports (c : Chip) (p : Path) (r : Reason) : (c.answer p r).ports = c.ports := by cases p <;> rfl
@[simp] theorem Chip.answer_faults (c : Chip) (p : Path) (r : Reason) : (c.answer p r).faults = c.faults := by cases p <;> rfl
@[simp] theorem Chip.answer_legs (c : Chip) (p : Path) (r : Reason) : (c.answer p r).legs = c.legs := by cases p <;> rfl
@[simp] theorem Chip.answer_nvc (c : Chip) (p : Path) (r : Reason) : (c.answer p r).nvc = c.nvc := by cases p <;> rfl
@[simp] theorem Chip.answer_load (c : Chip) (p : Path) (r : Reason) : (c.answer p r).load = c.load := by cases p <;> rfl

/-! ### Events -/

@[simp] theorem Chip.raise_events (c : Chip) (src : Nat) :
    (c.raise src).faults.events = c.faults.events ++ [⟨src, 1, 0, 0, false⟩] := rfl
theorem Chip.raiseIf_events (c : Chip) (b : Bool) (src : Nat) :
    (c.raiseIf b src).faults.events = c.faults.events ++ (if b then [⟨src, 1, 0, 0, false⟩] else []) := by
  cases b <;> simp [Chip.raiseIf]

end Sys2Proof.Machine
end

