-- ==== Sys2Proof/Laws/Image.lean ====
section
/-! SUPPORT. What admission answers, said of its checks: it reports a failure exactly when one of them fails (R307). -/
namespace Sys2Proof.Machine

/-- Folding never loses a failure once found. -/
theorem worse_keeps (l : List Check) (y : Reason × Nat) : ∃ z, l.foldl worse (some y) = some z := by
  induction l generalizing y with
  | nil => exact ⟨y, rfl⟩
  | cons x l ih =>
    have h : ∃ w, worse (some y) x = some w := by
      simp only [worse]
      split <;> try split
      all_goals exact ⟨_, rfl⟩
    obtain ⟨w, h⟩ := h
    simpa only [List.foldl_cons, h] using ih w

/-- A failing check makes admission report a failure. -/
theorem admission_fails {c : Chip} {x : Check} (hx : x ∈ c.checks) (h : x.1 = true) : ∃ z, c.admission = some z := by
  unfold Chip.admission
  generalize c.checks = l at hx
  suffices ∀ b, ∃ z, l.foldl worse b = some z from this none
  induction l with
  | nil => cases hx
  | cons y l ih =>
    intro b
    rcases List.mem_cons.mp hx with rfl | hx
    · have h' : ∃ w, worse b x = some w := by
        cases b with
        | none => exact ⟨x.2, by simp [worse, h]⟩
        | some v =>
          simp only [worse, h]
          split <;> try split
          all_goals exact ⟨_, rfl⟩
      obtain ⟨w, h'⟩ := h'
      simpa only [List.foldl_cons, h'] using worse_keeps l w
    · simpa only [List.foldl_cons] using ih hx (worse b y)

/-- Where every check passes, admission reports nothing. -/
theorem admission_passes {c : Chip} (h : ∀ x ∈ c.checks, x.1 = false) : c.admission = none := by
  unfold Chip.admission
  generalize c.checks = l at h
  induction l with
  | nil => rfl
  | cons y l ih =>
    have hy : worse none y = none := by simp [worse, h y (List.mem_cons_self ..)]
    simpa only [List.foldl_cons, hy] using ih fun x hx => h x (List.mem_cons_of_mem _ hx)

end Sys2Proof.Machine
end

