-- ==== Sys2Proof/WellFormed.lean ====
section
/-! DEFINITION. What a well-formed command is: what no wire, frame or measurement of the outside world can be otherwise.
The machine does not rest on it; an ill-formed command has the meaning its operands give it. -/
namespace Sys2Proof

/-- The data lengths of CAN (Table 14-2): up to 8 bytes, and for an FD frame the longer codes too. -/
def canLengthOk (fd : Bool) (n : Nat) : Bool := decide (n ≤ 8) || (fd && [12, 16, 20, 24, 32, 48, 64].contains n)

/-- A CAN frame: an 11-bit identifier without IDE, a length that has a code, and no FD remote frame (R344). -/
def CanFrame.ok (f : CanFrame) : Bool :=
  (f.ide || decide (f.id.toNat < 2048)) && canLengthOk f.fd f.data.length && !(f.fd && f.remote)

/-- A window's figures: each entry into the clamp takes a clock (R106); how many clocks the window has, the machine
knows. -/
def Window.ok (w : Window) : Bool := decide (w.clampEntries ≤ w.clampClocks)

/-- At most one reading for each place of the fuse array. -/
def readsOk (l : List OtpRead) : Bool := decide ((l.map (·.word)).Nodup)

/-- A report comes from a slice of its die; the fast bus current from D0 or D2 (Table 1-1). -/
def SliceReport.ok (d : Die) : SliceReport → Bool
  | .window k => min (k.val / 8) 4 == d.val
  | .fastCurrent _ => d.val % 2 == 0

/-- The well-formed commands. -/
def wellFormed : Instr → Bool
  | .windowCloseFrame d _ l => l.all fun k => min (k.val / 8) 4 == d.val
  | .sliceResultFrame d _ r => r.ok d
  | .windowClose _ w => w.own.ok && w.under.ok
  | .nresetRise l => readsOk l
  | .reset _ l => readsOk l
  | .lifecycleChange _ _ _ _ l => readsOk l
  | .sectionEnd l => l.length % 4 == 0 && decide (l.length ≤ 524288)
  | .imageEnd l => l.length == 0 || l.length == 32
  | .canFrameReceived f => f.ok
  | _ => true

end Sys2Proof
end

