-- ==== Sys2Proof/Tests/Slice0.lean ====
section
/-! SUPPORT. The model's own tests: an ill-formed term for each check of well-formedness, one step of a few commands against
what the spec says of it, and for each statement that has hypotheses states and operands that meet them. -/
namespace Sys2Proof.Tests

set_option Elab.async false
open Sys2Proof.Machine

/-! ### Small states -/

/-- `c` with the fields of `l` set. -/
def fields (l : List (Field × Nat)) (c : Chip) : Chip := l.foldl (fun c x => c.put x.1 x.2) c

/-- A configured part whose start sequence has ended, in power state `p` (0 DARK, 1 HOUSE, 2 STANDBY, 3 SHOW), with the fields
of `l` set. -/
def part (p : Nat) (l : List (Field × Nat)) : State :=
  let c : Chip := { load := { stage := .done } }
  let c := fields [(SYS_STATUS_BOOT, 0), (SYS_STATUS_PSTATE, p), (SYS_STATUS_CFG_OK, 1), (SYS_STATUS_LC, 0)] c
  { State.reset with chip := fields l c }

/-- The state with its chip changed. -/
def alter (s : State) (f : Chip → Chip) : State := { s with chip := f s.chip }

/-- A firing of `action` with `arg`, on timebase 3 in tick 9, of entry 7. -/
def firing (action arg : Nat) : Fire := ⟨7, BitVec.ofNat 64 ((action * 65536 + arg) * 2 ^ 32), 3, 9, 0, 1, 2, 5⟩

/-- The state with that firing due. -/
def fired (s : State) (action arg : Nat) : State := alter s fun c => { c with cues := { c.cues with fires := [firing action arg] } }

/-- An empty link frame of a type, with its CRC, and one whose CRC is wrong. -/
def okLink (type : BitVec 4) : LinkFrame := ⟨0, 0, crc16 (type ++ (0 : BitVec 4) ++ (0 : BitVec 40))⟩
def badLink (type : BitVec 4) : LinkFrame := { okLink type with crc := ~~~(okLink type).crc }

/-- A host-port frame with its CRC. -/
def hostFrame (cmd : BitVec 8) (addr : BitVec 24) (data : Word) : HostFrame :=
  let f : HostFrame := ⟨cmd, addr, data, 0, 72, false⟩
  { f with crc := crc8 (hostBits f) }

/-- A range-link frame of package `src` with its CRC. -/
def rangeFrame (src : BitVec 2) (type : BitVec 3) (payload : BitVec 64) : RngFrame :=
  let f : RngFrame := ⟨src, type, false, 0, 0, 0, payload, 0, false⟩
  { f with crc := rngSum f }

/-- A state with the state of one leg, slice, understudy, port, axis, bus or converter replaced, and with the tick set. -/
def leg (l : Leg) (x : LegState) (s : State) : State := alter s (·.setLeg l x)
def link (d : Die) (x : LinkState) (s : State) : State := alter s (·.setLink d x)
def slice (k : SliceId) (x : SliceState) (s : State) : State := alter s (·.setSlice k x)
def under (d : UDie) (x : UnderState) (s : State) : State := alter s (·.setUnder d x)
def port (p : Port) (x : PortState) (s : State) : State := alter s (·.setPort p x)
def axis (a : Axis) (x : AxisState) (s : State) : State := alter s (·.setAxis a x)
def bus (r : Region) (x : BusState) (s : State) : State := alter s (·.setBus r x)
def conv (n : Region) (x : HkState) (s : State) : State := alter s (·.setHk n x)
def tbase (n : Tb) (x : TbState) (s : State) : State := alter s (·.setTb n x)
def atTick (t : Nat) (s : State) : State := alter s fun c => { c with now := t, wall := t }

/-! ### Ill-formed commands, each refused by the check it fails -/


theorem test_wellFormed_accepts : wellFormed (.windowCloseFrame 1 (okLink 3) [8, 15]) = true := by decide
theorem test_wellFormed_windowCloseFrame : wellFormed (.windowCloseFrame 1 (okLink 3) [16]) = false := by decide
theorem test_wellFormed_sliceResultFrame : wellFormed (.sliceResultFrame 1 (okLink 4) (.fastCurrent 0)) = false := by decide
theorem test_wellFormed_sliceResultWindow : wellFormed (.sliceResultFrame 1 (okLink 4) (.window 3)) = false := by decide
theorem test_wellFormed_clampEntries : wellFormed (.windowClose 0 ⟨⟨0, 0, 1, 2⟩, ⟨0, 0, 0, 0⟩⟩) = false := by decide
theorem test_wellFormed_nresetRise :
    wellFormed (.nresetRise [⟨5, 0, 0, 0, false, false⟩, ⟨5, 1, 1, 1, false, false⟩]) = false := by decide
theorem test_wellFormed_reset :
    wellFormed (.reset .host [⟨5, 0, 0, 0, false, false⟩, ⟨5, 1, 1, 1, false, false⟩]) = false := by decide
theorem test_wellFormed_lifecycleChange :
    wellFormed (.lifecycleChange .host 0 false [] [⟨5, 0, 0, 0, false, false⟩, ⟨5, 1, 1, 1, false, false⟩]) = false := by
  decide
theorem test_wellFormed_sectionEnd : wellFormed (.sectionEnd [1]) = false := by decide
theorem test_wellFormed_imageEnd : wellFormed (.imageEnd [1, 2]) = false := by decide
theorem test_wellFormed_canId : wellFormed (.canFrameReceived ⟨false, 2048, false, false, []⟩) = false := by decide
theorem test_wellFormed_canLength : wellFormed (.canFrameReceived ⟨true, 2048, true, false, List.replicate 9 0⟩) = false := by
  decide
theorem test_wellFormed_canRemote : wellFormed (.canFrameReceived ⟨true, 2048, true, true, []⟩) = false := by decide

/-! ### States and operands that meet the hypotheses of the statements -/

theorem witness_LinkFrames :
    (let s := leg 23 { duties := [7, 8], fell := true } (part 2 [(LEG_DUTY_MODE 23, 1)])
     s.chip.linkTakes (dieOfLeg 23) false 1 (okLink 1) = true ∧ (s.chip.leg 23).duties = 7 :: [8] ∧ s.chip.legReact 23 = 0 ∧
      (s.chip.leg 23).refresh = none ∧ s.chip.legMode 23 = 1 ∧ (s.chip.leg 23).fell = true ∧
      (s.chip.leg 23).awaitDuty = false) ∧
    (let s := leg 0 { duties := [0x1FFFF], refresh := some 4, awaitDuty := true } State.reset
     s.chip.linkTakes (dieOfLeg 0) false 1 (okLink 1) = true ∧ (s.chip.leg 0).duties = 0x1FFFF :: [] ∧ s.chip.legReact 0 = 0 ∧
      (s.chip.leg 0).refresh.isSome = true) ∧
    (let s := leg 0 { duties := [0] } (alter State.reset fun c => { c with faults := { c.faults with fire := true } })
     (s.chip.leg 0).duties = 0 :: [] ∧ s.chip.legReact 0 = 3) ∧
    (let s := leg 5 { settings := [⟨some .low, some ⟨0, 7, 1, 6⟩, true⟩] } State.reset
     s.chip.linkTakes (dieOfLeg 5) false 2 (okLink 2) = true ∧
      (s.chip.leg 5).settings = ⟨some .low, some ⟨0, 7, 1, 6⟩, true⟩ :: []) ∧
    (let s := leg 5 { settings := [⟨none, none, true⟩] } (part 2 [(LEG_DUTY_MODE 5, 1)])
     (s.chip.leg 5).settings = ⟨none, none, true⟩ :: [] ∧ s.chip.legMode 5 ≠ 2) ∧
    State.reset.chip.linkTakes 3 true 5 (okLink 5) = true ∧ State.reset.chip.linkTakes 0 true 15 (okLink 15) = true ∧
    ((State.reset.chip.link 0).down = false ∧ State.reset.chip.injected 1 (linkUnit 0 true) = false ∧
      linkFrameOk (badLink 15) 15 = false ∧ ((State.reset.chip.link 0).dir true).fails[(badLink 15).seq.toNat] < 3) ∧
    (let s := link 0 { up := { fails := Vector.replicate 16 3 } } State.reset
     3 ≤ ((s.chip.link 0).dir true).fails[(badLink 15).seq.toNat]) ∧
    (((link 1 { up := { resend := [3, 0] } } State.reset).chip.link 1).dir true).resend = 3 :: [0] := by decide +kernel

/-- A leg in PWM mode, 10,000 ticks of period, 40 µs less 4 ns of duty, in tick `t` of the period. -/
def pwmLeg (on t : Nat) (x : LegState) : State :=
  atTick t (leg 0 x (part 2 [(LEG_DUTY_MODE 0, 1), (LEG_PERIOD_PERIOD 0, 10000), (LEG_DUTY_ON 0, on), (LEG_CFG_DT 0, 25)]))

theorem witness_LegEdges :
    (let s := pwmLeg 20000 2500 {}
     s.chip.legRuns 0 = true ∧ (s.chip.leg 0).rose = false ∧ s.chip.placeDue 0 (s.chip.risePlace 0 (s.chip.duty1 0)) = true ∧
      s.chip.noHigh 0 = false) ∧
    (let s := pwmLeg 20000 2499 {}
     s.chip.placeDue 0 (s.chip.risePlace 0 (s.chip.duty1 0)) = false) ∧
    (let s := pwmLeg 100 4987 {}
     s.chip.placeDue 0 (s.chip.risePlace 0 (s.chip.duty1 0)) = true ∧ s.chip.noHigh 0 = true) ∧
    (let s := pwmLeg 20000 7500 { rose := true, ghCmd := true }
     s.chip.legRuns 0 = true ∧ (s.chip.leg 0).fell = false ∧ s.chip.placeDue 0 (s.chip.fallPlace 0 (s.chip.duty1 0)) = true ∧
      s.chip.noLow 0 = false) ∧
    (let s := pwmLeg 39900 9988 { refresh := some 9999 }
     s.chip.placeDue 0 (s.chip.fallPlace 0 (s.chip.duty1 0)) = true ∧ s.chip.noLow 0 = true ∧
      (s.chip.leg 0).refresh.isSome = true) ∧
    (let s := pwmLeg 100 5012 {}
     s.chip.placeDue 0 (s.chip.fallPlace 0 (s.chip.duty1 0)) = true ∧ s.chip.noHigh 0 = true ∧ (s.chip.leg 0).ghCmd = false) ∧
    (let s := pwmLeg 20000 2600 { waiting := some .high, glBelow := true, glClear := 2600, glOff := some 2575 }
     (s.chip.leg 0).waiting = some .high ∧ (s.chip.leg 0).cmd (otherGate .high) = false ∧
      (s.chip.leg 0).below (otherGate .high) = true ∧ (s.chip.leg 0).clear (otherGate .high) ≤ s.chip.now ∧
      s.chip.deadEnd 0 (otherGate .high) ≤ s.chip.now) ∧
    (let s := pwmLeg 20000 2599 { waiting := some .high, glOff := some 2575 }
     s.chip.now < s.chip.deadEnd 0 (otherGate .high)) ∧
    (let s := pwmLeg 20000 2599 { waiting := some .low, ghClear := 2600 }
     s.chip.now < (s.chip.leg 0).clear (otherGate .low)) ∧
    ((leg 0 { ghBelow := false } State.reset).chip.leg 0).below .high = false := by decide +kernel

theorem witness_LegConditions :
    (let s := atTick 1250 (leg 3 { waiting := some .low, ghBelow := false } (part 2 [(LEG_CFG_HS_TO 3, 1250)]))
     (s.chip.leg 3).waiting = some .low ∧ (s.chip.leg 3).deadTick + s.chip.get (LEG_CFG_HS_TO 3) ≤ s.chip.now ∧
      (s.chip.leg 3).registeredBelow s.chip.now (otherGate .low) = false) ∧
    (atTick 249 (leg 3 { ghOn := true, ghEdge := some 0 } State.reset)).chip.stuckNow 3 .high = true ∧
    (atTick 248 (leg 3 { ghOn := true, ghEdge := some 0 } State.reset)).chip.stuckNow 3 .high = false ∧
    (let s := atTick 250 (leg 3 { ghCmd := true, ghOn := true, ghEdge := some 0, glCmd := true, glOn := true, glEdge := some 0 }
        (part 2 [(LEG_VDS_BLK 3, 1000), (LEG_TRIP_BLK 3, 250)]))
     (s.chip.leg 3).ghCmd = true ∧ (s.chip.leg 3).ghOn = true ∧
      s.chip.agedNs (s.chip.get (LEG_VDS_BLK 3)) (s.chip.leg 3).ghEdge = true ∧ (s.chip.leg 3).glCmd = true ∧
      (s.chip.leg 3).glOn = true ∧ s.chip.agedNs (s.chip.get (LEG_VDS_BLK 3)) (s.chip.leg 3).glEdge = true ∧
      s.chip.aged (s.chip.get (LEG_TRIP_BLK 3)) (s.chip.leg 3).ghEdge = true ∧
      s.chip.aged (s.chip.get (LEG_TRIP_BLK 3)) (s.chip.leg 3).glEdge = true) ∧
    (State.reset.chip.leg 3).cmd .high = false ∧
    (let s := pwmLeg 20000 2500 { glCmd := true }
     s.chip.legRuns 0 = true ∧ (s.chip.leg 0).rose = false ∧
      s.chip.placeDue 0 (s.chip.risePlace 0 (s.chip.duty1 0)) = true) ∧
    State.reset.chip.legConds 3 = 0 ∧
    (let s := leg 3 { owed := 1 } State.reset
     s.chip.legConds 3 ≠ 0 ∧ (0b100000 : BitVec 6).getLsbD 5 = true ∧ (0 : BitVec 6).getLsbD 5 = false ∧
      burstEven (burstOf (s.chip.legConds 3) ^^^ 0) = true ∧ (burstOf (s.chip.legConds 3) ^^^ 0).extractLsb' 1 4 = 1 ∧
      burstEven (burstOf (s.chip.legConds 3) ^^^ 0b000010) = false) ∧
    State.reset.chip.gateBad 3 = false := by decide +kernel

theorem witness_Bootstrap :
    (let s := part 2 [(LEG_BST_FORCE_REF 5, 1)]
     s.chip.isArmed = true ∧ (s.chip.leg 5).charging = false ∧ (s.chip.leg 5).ghOn = false ∧
      s.chip.flag (LEG_BST_FORCE_REF 5) = true ∧ s.chip.flag (LEG_STAT_BST_UV_LIVE 5) = false ∧
      (s.chip.link (dieOfLeg 5)).down = false) ∧
    (let s := pwmLeg 39800 9925 { refreshReq := some 9924 }
     (s.chip.leg 0).refreshReq = some 9924 ∧ s.chip.legRuns 0 = true ∧
      s.chip.period (axisOfLeg 0) - s.chip.sinceBoundary (axisOfLeg 0) = 75 ∧ 75 ≤ 50 + s.chip.deadTime 0 ∧
      9924 + 51 + s.chip.deadTime 0 ≤ s.chip.now + 75 ∧ (s.chip.leg 0).refresh = none ∧ s.chip.longLow 0 = false) ∧
    (pwmLeg 39599 9925 {}).chip.longLow 0 = true ∧
    (let s := atTick 5000 (axis 1 { chargeTick := some 2500, chargeTurn := 2 } (leg 5 { charging := true, pulses := 199 } (part 2 [])))
     (s.chip.leg 5).charging = true ∧ s.chip.isArmed = true ∧ s.chip.legReact 5 = 0 ∧ s.chip.legMode 5 = 0 ∧
      s.chip.flag (LEG_STAT_BST_OK 5) = false ∧ s.chip.chargeTurn 5 = true ∧
      s.chip.aged 2500 (s.chip.axis (axisOfLeg 5)).chargeTick = true ∧ 200 ≤ (s.chip.leg 5).pulses + 1) ∧
    ((leg 5 { charging := true, pulses := 198 } (part 2 [])).chip.leg 5).pulses + 1 < 200 := by decide +kernel


/-- An output port. -/
def outPort (p : Nat) : List (Field × Nat) := [(FP_CFG_EN p, 1), (FP_CFG_FUNC p, 4), (FP_CFG_DSUB p, 5)]

theorem witness_PortActions :
    let s := part 1 (outPort 31)
    ((fired s 1 31).chip.firesOf 7 1 = [firing 1 31] ∧ (fired s 1 31).chip.portIsOut (firePort (firing 1 31)).val = true) ∧
    ((fired s 2 31).chip.firesOf 7 2 = [firing 2 31] ∧ (fired s 2 31).chip.portIsOut (firePort (firing 2 31)).val = true) ∧
    ((fired s 3 63).chip.firesOf 7 3 = [firing 3 63] ∧ (fired s 3 63).chip.portIsOut (firePort (firing 3 63)).val = true) ∧
    (((port 31 { pulseEnd := some 1 } s).chip.port 31).pulseEnd = some 1 ∧ 1 ≤ s.chip.now + 1) := by decide +kernel

theorem witness_CueActions :
    let s := part 1 []
    (part 0 []).chip.inDark = true ∧
    ((fired s 1 4).chip.firesOf 7 1 = [firing 1 4] ∧ (fired s 1 4).chip.portIsOut (firePort (firing 1 4)).val = false) ∧
    ((fired s 8 15).chip.firesOf 7 8 = [firing 8 15] ∧ cueArg (firing 8 15).cue % 16 = 15) ∧
    (fired s 10 5).chip.firesOf 7 10 = [firing 10 5] ∧ (fired s 12 3).chip.firesOf 7 12 = [firing 12 3] ∧
    (s.chip.carries .host = true ∧ s.chip.booting = false ∧ s.chip.inDark = false) := by decide +kernel

theorem witness_CueEntries :
    let s := part 1 []
    let q := alter s fun c => { c with cues := { c.cues with skipq := [⟨1, 2, 3⟩], irqq := [⟨4, 5⟩] } }
    (s.chip.carries .host = true ∧ s.chip.booting = false ∧ s.chip.inDark = false) ∧
    (atTick 2 (fired s 1 4)).chip.cues.fires.find? (fun f => f.entry == 7 && decide (f.since + 2 ≤ 2)) = some (firing 1 4) ∧
    (∀ f ∈ (atTick 1 (fired s 1 4)).chip.cues.fires, (atTick 1 (fired s 1 4)).chip.now < f.since + 2) ∧
    judge (s.chip.settleSwaps.cueConds 16383 ((0x190A0000 : Word) ++ s.chip.cueHold .host)) = .range ∧
    judge (s.chip.settleSwaps.cueConds 16383 ((0x1B0A0000 : Word) ++ s.chip.cueHold .host)) = .ok ∧
    q.chip.cues.skipq = [⟨1, 2, 3⟩] ∧ q.chip.cues.irqq = [⟨4, 5⟩] := by decide +kernel

theorem witness_TimebasesTick :
    let s := part 1 [(CUE_TB_VMAX_VMAX 16, 0x1FFFFFFF)]
    let t (x : TbState) := tbase 16 x s
    s.chip.clockRuns = true ∧ s.chip.pwrDue = none ∧ State.reset.chip.clockRuns = false ∧
    (tbAxis 16 = none ∧ tbAxis 8 = some 0 ∧ (s.chip.axis 0).lane = [] ∧ (s.chip.axis 0).backDue = none) ∧
    ((t { lost := true }).chip.tb 16).lost = true ∧
    ((t { seeded := true }).chip.tb 16).seeded = true ∧ ((t { seeded := true }).chip.tb 16).jumpDue = true ∧
    ((t { seeded := true, jumpDue := false }).chip.tb 16).jumpDue = false ∧
    (t { seeded := true, jumpDue := false }).chip.vmax 16 ≤ 0x1FFFFFFF := by decide +kernel

/-- A window result on its way up. -/
def report : Report := ⟨{ count := 5, clocks := 2 }, 0, 4, 12, 0, 0, 0, 0, true, false⟩

theorem witness_WindowRequests :
    let s := part 2 [(SL_CFG_CLOSE 6, 2), (RSV_EXC_ENA, 1), (RSV_EXC_PER, 25000), (SL_CFG_EN 40, 1), (SL_CFG_EN 6, 1)]
    (s.chip.closeMode 6 = 2 ∧ ((atTick 12500 s).chip.slice 6).fixedFrom + ((atTick 12500 s).chip.slice 6).wlen ≤ 12500) ∧
    (((atTick 130040 (slice 40 { running := true } s)).chip.slice 40).running = true ∧
      ((atTick 130040 (slice 40 { running := true } s)).chip.slice 40).opened + 130040 ≤ 130040) ∧
    (atTick 12500 s).chip.excDue = true ∧ (atTick 12501 s).chip.excDue = false ∧
    s.chip.closeMode 7 ≠ 2 ∧ s.chip.linkTakes 0 false 3 (okLink 3) = true ∧ s.chip.linkTakes 0 true 4 (okLink 4) = true ∧
    ((fired s 4 40).chip.firesOf 7 4 = [firing 4 40] ∧ (fired s 4 40).chip.winAble (cueArg (firing 4 40).cue) = true) ∧
    ((fired s 4 1).chip.firesOf 7 4 = [firing 4 1] ∧ (fired s 4 1).chip.winAble (cueArg (firing 4 1).cue) = false) ∧
    (s.chip.carries .host = true ∧ s.chip.booting = false ∧ s.chip.inDark = false) ∧
    ((SL_WLEN_WLEN 6).read 256 = 256 ∧ (SL_WLEN_WLEN 6).read 130040 = 130040 ∧ (SL_WLEN_WLEN 6).read 255 < 256 ∧
      130040 < (SL_WLEN_WLEN 6).read 130041) ∧
    ((part 0 []).chip.carries .host = true ∧ (part 0 []).chip.booting = false ∧ (part 0 []).chip.inDark = true) ∧
    ((dieOfSlice 6).val = (0 : Die).val ∧ ((slice 6 { reports := [report] } s).chip.slice 6).reports = report :: []) ∧
    phaseAxis 6 = none ∧ phaseAxis 0 = some 0 ∧
    (2 * (0 : Region).val = (0 : Die).val ∧ s.chip.isArmed = true ∧
      (part 2 [(SL_CFG_EN (currSlice 0).val, 1)]).chip.sliceOn (currSlice 0) = true) := by decide +kernel

/-- A slice whose window may close now, 8 ticks after it opened. -/
def closing (k : SliceId) (x : SliceState) (s : State) : State := atTick 8 (slice k { x with running := true, reqSched := true } s)

theorem witness_WindowsAreBooked :
    ((closing 0 {} (part 2 [])).chip.closesAlone 0 ⟨2, 255, 0, 0⟩ ⟨0, 0, 0, 0⟩ ∧ dieOfSlice 0 ≠ 4) ∧
    ((closing 38 {} (part 2 [])).chip.closesAlone 38 ⟨-2, -65536, 1, 1⟩ ⟨0, 0, 0, 0⟩ ∧ dieOfSlice 38 = 4 ∧
      ((closing 38 {} (part 2 [])).chip.slice 38).reports = []) ∧
    (closing 7 { stopping := true } (part 2 [])).chip.closesAlone 7 ⟨0, 65791, 2, 1⟩ ⟨0, 0, 0, 0⟩ := by
  refine ⟨⟨?_, by decide⟩, ⟨?_, by decide +kernel, by decide +kernel⟩, ?_⟩ <;> unfold Chip.closesAlone <;> decide +kernel

theorem witness_Understudies :
    let s := part 2 [(US_CFG_ENA 7, 1), (SL_CFG_EN 0, 1), (US_CFG_CAL_MS 7, 1)]
    let t (st : Nat) (x : UnderState) := atTick 250000 (under 0 x (part 2 [(US_STAT_STEP 7, st), (US_CFG_CAL_MS 7, 1)]))
    (underIx 0 = 7) ∧
    (s.chip.flag (US_CFG_ENA (underIx 0)) = true ∧ s.chip.isArmed = true ∧ s.chip.flag (US_STAT_HALTED (underIx 0)) = false ∧
      (s.chip.under 0).roundFrom + s.chip.roundTicks 0 ≤ (atTick 250000000 s).chip.now) ∧
    (let x := slice 3 { opened := 250000 } (t 0 { turns := [(3, 250000), (4, 0)] })
     (x.chip.under 0).turns = (3, 250000) :: [(4, 0)] ∧ (x.chip.under 0).target = none ∧
      x.chip.flag (US_STAT_HALTED (underIx 0)) = false ∧ x.chip.isArmed = true ∧ 250000 ≤ x.chip.now ∧
      (x.chip.slice 3).opened = x.chip.now ∧ dieOfSlice 3 = (0 : UDie) ∧ isUnder 3 = false) ∧
    (((t 4 { target := some 3 }).chip.under 0).target = some 3 ∧
      0 + 250000 * (t 4 {}).chip.get (US_CFG_CAL_MS (underIx 0)) ≤ (t 4 {}).chip.now ∧ (t 4 {}).chip.turnAt 0 = 4 ∧
      (t 5 {}).chip.turnAt 0 = 5) ∧
    (zeroOk 0 = true ∧ gainOk 0x8000 = true ∧ gainOk 0 = false) ∧
    (let w := slice 0 { running := true } s
     (w.chip.slice 0).running = true ∧ isUnder 0 = false ∧ (w.chip.slice 0).gap = false ∧
      w.chip.flag (SL_STAT_PERM 0) = false ∧ w.chip.spare (dieOfSlice 0) = true ∧ (w.chip.under (dieOfSlice 0)).target = none) ∧
    (under 0 { failed := true } s).chip.spare (dieOfSlice 0) = false ∧
    (let w := slice 7 { running := true } s
     (w.chip.slice (underOf 0)).running = true ∧ (w.chip.under 0).settling = none ∧
      ∀ j, dieOfSlice j = 0 → w.chip.subNow j = false) ∧
    (let w := atTick 500 (under 4 { settling := some 32, settleFrom := some 0 } s)
     (w.chip.under 4).settling = some 32 ∧ (w.chip.under 4).settleFrom = some 0 ∧ 0 + 500 ≤ w.chip.now) := by decide +kernel


/-- An axis in SHOW, enabled, its legs' bootstraps charged and its region admitted. -/
def showAxis (l : List (Field × Nat)) : State :=
  part 3 ([(AX_COMCFG_EN 0, 1), (LEG_STAT_BST_OK 0, 1), (LEG_STAT_BST_OK 1, 1), (LEG_STAT_BST_OK 2, 1), (BUS_STAT_ADM 0, 2),
    (CUE_TB_STAT_STALE 0, 0), (CUE_TB_STAT_STALE 8, 0)] ++ l)

/-- A released slice with its snapshot. -/
def pend : Pend := { release := 5, snap := some {} }

theorem witness_PeriodsAndSnapshots :
    let s := axis 0 { run := { queue := [{ release := 5 }] } } (part 3 [(AX_COMCFG_EN 0, 1), (LEG_PERIOD_PERIOD 0, 10000)])
    (s.chip.inDark = false ∧ s.chip.sinceBoundary 0 = 0 ∧ (s.chip.axis 0).edgeTick ≠ some s.chip.now ∧
      s.chip.slicesRun 0 = true ∧ s.chip.arming = false) ∧
    (leg 2 { nextOn := some 0x1FFFF } s).chip.leg 2 = { nextOn := some 0x1FFFF } ∧
    ((part 3 []).chip.slicesRun 0 = false ∧ (part 0 []).chip.inDark = true ∧ (atTick 9999 s).chip.sinceBoundary 0 ≠ 0) ∧
    (dueSnap (s.chip.axis 0).run.queue = some { release := 5 } ∧ s.chip.resultsStand 0 = true) ∧
    (slice 0 { reqSched := true } s).chip.resultsStand 0 = false := by decide +kernel

theorem witness_EngineSchedule :
    let s := axis 1 { run := { queue := [pend] } } (part 3 [(AX_COMCFG_EN 1, 1), (LEG_PERIOD_PERIOD 0, 25000),
      (LEG_PERIOD_PERIOD 3, 10000)])
    let b := axis 0 { run := { queue := [{ pend with release := 100 }] } } s
    let r := atTick 20005 (axis 1 { run := { queue := [pend], started := true, ran := 2000 } } (alter s (·.setEngine 0 (some 1))))
    (regionOf 1 = 0 ∧ s.chip.ready 1 = true ∧ s.chip.earliest 0 = some 1 ∧ s.chip.rollsBack 0 = false ∧ s.chip.engine 0 = none ∧
      (s.chip.axis 1).run.started = false) ∧
    ((alter b (·.setEngine 0 (some 0))).chip.earliest 0 = some 1 ∧ (alter b (·.setEngine 0 (some 0))).chip.engine 0 = some 0 ∧
      b.chip.deadline 1 < b.chip.deadline 0) ∧
    State.reset.chip.earliest 0 = none ∧
    (r.chip.engine (regionOf 1) = some 1 ∧ (r.chip.axis 1).run.mismatched = false ∧ (r.chip.axis 1).run.queue = pend :: [] ∧
      pend.snap = some {} ∧ r.chip.now ≤ pend.release + 2 * r.chip.period 1 ∧ r.chip.chargedCost 1 0 ≤ r.chip.ranNow 1 ∧
      pend.release + 2 * r.chip.period 1 ≤ r.chip.now) ∧
    ((atTick 20004 r).chip.now < (atTick 20004 r).chip.deadline 1 ∧ (atTick 20006 r).chip.deadline 1 < (atTick 20006 r).chip.now) ∧
    (State.reset.chip.axis 0).run.queue = [] := by decide +kernel

theorem witness_Lockstep :
    let s (x : SliceRun) := atTick 4 (alter (axis 2 { run := x } (part 3 [])) (·.setEngine 0 (some 2)))
    ((s {}).chip.engine 0 = some 2 ∧ ((s {}).chip.axis 2).run.mismatched = false ∧
      ((s {}).chip.axis 2).run.retrying = false ∧ (s {}).chip.injected 2 0 = false) ∧
    (((s { mismatched := true }).chip.axis 2).run.mismatched = true ∧
      ((s { mismatched := true }).chip.axis 2).run.flagged + 4 ≤ (s { mismatched := true }).chip.now) ∧
    (regionOf 2 = 0 ∧ ((s { retrying := true }).chip.axis 2).run.retrying = true) := by decide +kernel

theorem witness_PositionSources :
    let s := tbase 0 { seeded := true } (showAxis [])
    let t := axis 0 { ofsAtLoss := true } (tbase 0 { seeded := true } (showAxis [(AX_SRCSTAT_SEC_OK 0, 1)]))
    let b := showAxis [(AX_SRCSTAT_ON_SEC 0, 1), (AX_SRCSTAT_PRI_OK 0, 1), (AX_SRCSTAT_OFS_OK 0, 1)]
    let l := axis 0 { staleBySec := true } (tbase 0 { lost := true } (showAxis [(AX_SRCSTAT_ON_SEC 0, 1), (AX_SRCSTAT_SEC_OK 0, 1)]))
    (t.chip.primaryGone 0 = true ∧ t.chip.flag (AX_SRCSTAT_SEC_OK 0) = true ∧ (t.chip.axis 0).ofsAtLoss = true) ∧
    (s.chip.primaryGone 0 = true ∧ (s.chip.flag (AX_SRCSTAT_SEC_OK 0) && (s.chip.axis 0).ofsAtLoss) = false) ∧
    (((atTick 2 (axis 0 { switchDue := some 2 } s)).chip.axis 0).switchDue = some 2 ∧ s.chip.modeOf 0 ≠ 5) ∧
    ((showAxis [(AX_MSTAT_MODE 0, 5), (AX_SRC_SEC 0, 5)]).chip.modeOf 0 = 5 ∧
      (showAxis [(AX_MSTAT_MODE 0, 5), (AX_SRC_SEC 0, 5)]).chip.srcType 0 true = 5) ∧
    (s.chip.axis 0).switchDue = none ∧ State.reset.chip.primaryGone 0 = false ∧
    (((tbase 0 { lost := true } b).chip.tb (tbmOf 0)).lost = true ∧
      (tbase 0 { lost := true } b).chip.flag (AX_SRCSTAT_PRI_OK 0) = true) ∧
    ((l.chip.tb (tbmOf 0)).lost = true ∧ l.chip.flag (AX_SRCSTAT_PRI_OK 0) = false ∧ (l.chip.axis 0).staleBySec = true ∧
      l.chip.onSec 0 = true ∧ l.chip.flag (AX_SRCSTAT_SEC_OK 0) = true) ∧
    (b.chip.tb (tbmOf 0)).lost = false ∧ b.chip.onSec 0 = true ∧ b.chip.flag (AX_SRCSTAT_PRI_OK 0) = true ∧
    b.chip.flag (AX_SRCSTAT_OFS_OK 0) = true ∧
    (s.chip.onSec 0 && s.chip.flag (AX_SRCSTAT_PRI_OK 0) && s.chip.flag (AX_SRCSTAT_OFS_OK 0)) = false := by decide +kernel

/-- A crossed cue of bank point 0, forward, at a place of its lane. -/
def crossed (place : Nat) : LaneFire := ⟨0, place, false, 0⟩

theorem witness_Commutation :
    let s := axis 0 { banked := true, lane := [crossed 0] } (showAxis [(AX_SOFT_SPAN 0, 0)])
    let g (x : Option Trans) (j : Nat) := axis 0 { banked := true, lane := [crossed j], driven := true, trans := x }
      (showAxis [(AX_SOFT_SPAN 0, 10), (AX_SOFT_STEPS 0, 2), (AX_SRCSTAT_SECTOR 0, 5)])
    let f := axis 0 { banked := true, lane := [crossed 0], obsGood := 9 }
      (showAxis [(AX_COMCFG_WAVE 0, 1), (AX_SRCSTAT_START 0, 3), (AX_PLAUS_PLAUS_N 0, 1)])
    let j (x : State) := tbase 8 { jumped := true } x
    let w := axis 0 { driven := true, banked := true } (showAxis [(AX_SOFT_SPAN 0, 60), (AX_SOFT_STEPS 0, 2)])
    let w := tbase 8 { jumped := true, val := w.chip.reg (AX_CUEPOS 0 0) } w
    (s.chip.pointDue 0 0 false = some (crossed 0) ∧ s.chip.laneRuns 0 = true ∧ s.chip.flag (AX_COMCFG_WAVE 0) = false ∧
      s.chip.softSteps 0 = 0) ∧
    ((g none 0).chip.pointDue 0 0 false = some (crossed 0) ∧ (g none 0).chip.laneRuns 0 = true ∧
      0 < (g none 0).chip.softSteps 0 ∧ (g none 0).chip.pulsed 0 = true ∧ ((g none 0).chip.axis 0).trans = none ∧
      nextTo ((g none 0).chip.get (AX_SRCSTAT_SECTOR 0)) 0 = true) ∧
    ((alter s (·.put (CUE_TB_STAT_STALE 8) 1)).chip.pointDue 0 0 false = some (crossed 0) ∧
      (alter s (·.put (CUE_TB_STAT_STALE 8) 1)).chip.laneRuns 0 = false) ∧
    (s.chip.pointDue 0 1 false = none ∧ s.chip.stepDue 0 = none) ∧
    (f.chip.pointDue 0 0 false = some (crossed 0) ∧ f.chip.laneRuns 0 = true ∧ f.chip.flag (AX_COMCFG_WAVE 0) = true ∧
      f.chip.startOf 0 = 3 ∧ f.chip.get (AX_PLAUS_PLAUS_N 0) ≤ (f.chip.axis 0).obsGood) ∧
    (let x : Trans := ⟨0, 1, false, 0, 0⟩
     (g (some x) 1).chip.stepDue 0 = some (crossed 1) ∧ (g (some x) 1).chip.laneRuns 0 = true ∧
      (g (some x) 1).chip.laneStep 0 false 1 = 1 ∧ x.step ≤ 1 ∧ 1 < (g (some x) 1).chip.softSteps 0 ∧
      (g (some x) 2).chip.stepDue 0 = some (crossed 2) ∧ x.step ≤ (g (some x) 2).chip.laneStep 0 false 2 ∧
      (g (some x) 2).chip.softSteps 0 ≤ (g (some x) 2).chip.laneStep 0 false 2) ∧
    (((j s).chip.tb (tbeOf 0)).jumped = true ∧ (j s).chip.axisOn 0 = true ∧ (j s).chip.isArmed = true ∧
      (j s).chip.sixStep 0 = true ∧ (j s).chip.startOf 0 ≠ 1 ∧ (j s).chip.startOf 0 ≠ 2 ∧ (j s).chip.windowAt 0 = none) ∧
    ((w.chip.tb (tbeOf 0)).jumped = true ∧ w.chip.sixStep 0 = true ∧ (w.chip.windowAt 0).isSome = true ∧
      w.chip.pulsed 0 = true) ∧ (s.chip.tb (tbeOf 0)).jumped = false := by decide +kernel

theorem witness_SensorlessStarts :
    let q : Vector (Int × Bool) 3 := Vector.replicate 3 (0, true)
    let d (l : List Int) (again ovr : Bool) := axis 0 { ipdDone := l, ipdWidth := 10, ipdTo := some 0, ipdCharge := q
                                                        ipdAgain := again, ipdOvr := ovr } (showAxis [(AX_SRCSTAT_START 0, 1), (AX_IPD_GAP 0, 0), (AX_IPD_THR 0, 5000)])
    let e := d (5000 :: List.replicate 10 0) false false
    let o (f0 t : Nat) := atTick t (showAxis [(AX_SRCSTAT_START 0, 2), (AX_OLS_F0 0, f0), (AX_OLS_FMAX 0, 100)])
    let z := showAxis [(AX_SRC_PRI 0, 0), (AX_SRC_SEC 0, 0)]
    (e.chip.startOf 0 = 1 ∧ (e.chip.axis 0).ipdOn = false ∧ (e.chip.axis 0).ipdTo = some 0 ∧
      0 + 2500 * e.chip.get (AX_IPD_GAP 0) ≤ e.chip.now ∧ e.chip.ipdStands 0 = true ∧ (e.chip.axis 0).ipdOvr = false ∧
      (e.chip.ipdResponse 0).2 = 0 ∧ (e.chip.axis 0).ipdDone ++ [0] = 5000 :: List.replicate 11 0 ∧
      (5000 :: List.replicate 11 (0 : Int)).length = 12 ∧ largest (5000 :: List.replicate 11 0) = 0 ∧
      e.chip.ipdThr 0 (bandOf 5000 (8000 * (e.chip.axis 0).ipdWidth)) = 5000) ∧
    (((d (4999 :: List.replicate 10 0) false false).chip.axis 0).ipdAgain = false ∧
      ((d (4999 :: List.replicate 10 0) true false).chip.axis 0).ipdAgain = true ∧
      largest (4999 :: List.replicate 11 0) = 0) ∧
    (let p := atTick 2500 (axis 0 { ipdOn := true, ipdWidth := 10 } (showAxis [(AX_SRCSTAT_START 0, 1)]))
     p.chip.startOf 0 = 1 ∧ (p.chip.axis 0).ipdOn = true ∧ (p.chip.axis 0).ipdDone.length = (0 : Fin 12).val ∧ (p.chip.axis 0).ipdFrom + 250 * (p.chip.axis 0).ipdWidth ≤ p.chip.now) ∧
    ((d [] false false).chip.startOf 0 = 1 ∧ ((d [] false false).chip.axis 0).ipdDone.length = (0 : Fin 12).val ∧
      (d [] false false).chip.ipdStands 0 = true) ∧ ((d [] false true).chip.axis 0).ipdOvr = true ∧
    ((d [] false true).chip.axis 0).ipdDone.length = (0 : Fin 12).val ∧
    ((o 10 5000000).chip.startOf 0 = 2 ∧ (o 10 5000000).chip.openLoopTop 0 = false ∧ (o 10 5000000).chip.openLoopDue 0 = true ∧
      (o 10 1).chip.openLoopDue 0 = false ∧ (o 100 1).chip.openLoopTop 0 = true ∧ z.chip.startOf 0 ≠ 2) ∧
    (((axis 0 { brakeHold := some 0 } z).chip.axis 0).brakeHold = some 0 ∧ 0 + 12500000 ≤ (atTick 12500000 z).chip.now) ∧
    (z.chip.pcRead 2 = true ∧ z.chip.hasSensorless (axisOfLeg 2) = false ∧ (part 1 []).chip.pcRead 2 = false) ∧
    ((showAxis [(AX_SRC_SEC 0, 5)]).chip.pcRead 2 = true ∧
      (showAxis [(AX_SRC_SEC 0, 5)]).chip.hasSensorless (axisOfLeg 2) = true) := by decide +kernel

theorem witness_AxisCommands :
    let s := showAxis [(AX_CRVCFG_EN 0, 1), (CUE_TB_STAT_STALE 16, 0), (AX_REV_REV_SPEED 0, 10), (AX_CATCH_CATCH_MAX 0, 100)]
    let m (k : Nat) := alter s (·.put (AX_MSTAT_MODE 0) k)
    let v := axis 0 { localDue := true } (alter s (·.put (AX_CFG_OWNER 0) 2))
    (s.chip.carries .host = true ∧ s.chip.booting = false ∧ s.chip.inDark = false) ∧ s.chip.owns .host 0 = true ∧
    (judge (s.chip.modeConds 0 1 false) = .ok ∧ s.chip.modeOf 0 ≠ 1 ∧ judge (s.chip.modeConds 0 4 false) = .ok ∧ s.chip.modeOf 0 ≠ 4) ∧
    (judge ((m 1).chip.modeConds 0 1 false) = .ok ∧ (m 1).chip.modeOf 0 = 1 ∧ (m 1).chip.reverses 0 1 false = false) ∧
    (judge ((m 1).chip.modeConds 0 1 true) = .ok ∧ (m 1).chip.reverses 0 1 true = true) ∧
    (judge ((m 5).chip.modeConds 0 5 false) = .ok ∧ (m 5).chip.modeOf 0 = 5) ∧
    (judge ((m 4).chip.modeConds 0 4 false) = .ok ∧ (m 4).chip.modeOf 0 = 4 ∧ ((m 4).chip.axis 0).gearSteps = []) ∧
    judge ((!s.chip.owns .can 0, .locked) :: s.chip.modeConds 0 2 false) = .locked ∧
    judge ((!(part 2 []).chip.owns .host 0, .locked) :: (part 2 []).chip.modeConds 0 4 false) = .state ∧
    ((v.chip.axis 0).localDue = true ∧ v.chip.get (AX_CFG_OWNER 0) = 2 ∧ judge (v.chip.modeConds 0 1 false) = .ok ∧
      v.chip.flag (AX_CFG_LDIR 0) = false ∧ v.chip.modeOf 0 ≠ 1) ∧
    (let b := alter v (·.put (AX_CRVCFG_EN 0) 0)
     (b.chip.axis 0).localDue = true ∧ judge (b.chip.modeConds 0 1 false) ≠ .ok) ∧ (s.chip.axis 0).localDue = false := by
  decide +kernel

theorem witness_AxisInputs :
    let s := atTick 1250000 (showAxis [(AX_CRVCFG_SRC 0, 0), (AX_CRVCFG_TIMEOUT 0, 5), (AX_MSTAT_MODE 0, 1)])
    let q := showAxis [(AX_MSTAT_MODE 0, 2), (CMP_CTRL_RUN 0, 1), (AX_REV_REV_SPEED 0, 10)]
    (s.chip.carries .host = true ∧ s.chip.booting = false ∧ s.chip.inDark = false) ∧ s.chip.get (AX_CRVCFG_SRC 0) = 0 ∧
    s.chip.get (AX_CRVCFG_SRC 0) ≠ 1 ∧
    (s.chip.modeOf 0 = 1 ∧ s.chip.get (AX_CRVCFG_SRC 0) ≤ 1 ∧ s.chip.get (AX_CRVCFG_TIMEOUT 0) ≠ 0 ∧
      (s.chip.axis 0).inputFrom + 250000 * s.chip.get (AX_CRVCFG_TIMEOUT 0) ≤ s.chip.now) ∧
    (showAxis [(AX_CRVCFG_TIMEOUT 0, 0)]).chip.get (AX_CRVCFG_TIMEOUT 0) = 0 ∧
    s.chip.owns .host 0 = true ∧ s.chip.owns .can 0 = false ∧
    (CMP_ACCEL_ACCEL 0).read 65535 = 65535 ∧ (CMP_ACCEL_ACCEL 0).read 0 = 0 ∧ (CMP_DECEL_DECEL 0).read 0 = 0 ∧
    q.chip.targetReverses 0 ((CMP_TARGET_TARGET 0).read 0xFFFF) = true ∧
    q.chip.targetReverses 0 ((CMP_TARGET_TARGET 0).read 0) = false ∧
    (q.chip.flag (CMP_CTRL_RUN 0) = true ∧ q.chip.reversalBad 0 = false) ∧
    (alter q (·.put (AX_SPEED_SPEED 0) 10)).chip.reversalBad 0 = true ∧
    ((alter q (·.put (CMP_CTRL_RUN 0) 0)).chip.flag (CMP_CTRL_RUN 0) = false ∧
      (alter q (·.put (CMP_CTRL_RUN 0) 0)).chip.targetReverses 0 ((CMP_TARGET_TARGET 0).read 0xFFFF) = true) := by decide +kernel

theorem witness_Setpoints :
    let s := showAxis [(AX_MSTAT_MODE 0, 3), (AX_STRSTAT_CREDITS 0, 1)]
    (s.chip.carries .host = true ∧ s.chip.booting = false ∧ s.chip.inDark = false) ∧ s.chip.setpointOf .host 0 1 = ⟨0, 1, false⟩ ∧
    judge (s.chip.setpointConds .host 0 1) = .ok ∧ judge (s.chip.setpointConds .can 0 1) = .locked ∧
    judge ((showAxis [(AX_MSTAT_MODE 0, 3), (AX_STRSTAT_CREDITS 0, 0)]).chip.setpointConds .host 0 1) = .credit := by
  decide +kernel

theorem witness_AxisCues :
    let s := showAxis [(AX_MSTAT_MODE 0, 3), (AX_STRCFG_GATED 0, 1)]
    let h := atTick 250000 (showAxis [(AX_MSTAT_MODE 0, 5), (AX_MSTAT_HOME 0, 1), (AX_HOME2_TO 0, 1)])
    let g := showAxis [(AX_MSTAT_MODE 0, 4)]
    ((fired s 7 8).chip.firesOf 7 7 = [firing 7 8] ∧ (fired s 7 8).chip.axisOn (fireAxis (firing 7 8)) = true) ∧
    ((fired s 11 0).chip.firesOf 7 11 = [firing 11 0] ∧ (fired s 11 0).chip.releaseAble (fireAxis (firing 11 0)) = true ∧
      (fired s 11 0).chip.flag (AX_MSTAT_HELD 0) = false) ∧
    ((fired s 11 7).chip.firesOf 7 11 = [firing 11 7] ∧ (fired s 11 7).chip.releaseAble (fireAxis (firing 11 7)) = false) ∧
    ((fired s 6 7).chip.firesOf 7 6 = [firing 6 7] ∧ (fired s 6 7).chip.axisOn (fireAxis (firing 6 7)) = false) ∧
    ((fired g 6 56).chip.firesOf 7 6 = [firing 6 56] ∧ (fired g 6 56).chip.axisOn (fireAxis (firing 6 56)) = true ∧
      (fired g 6 56).chip.modeOf 0 = 4 ∧ ((fired g 6 56).chip.axis 0).gearSteps = []) ∧
    ((fired s 6 56).chip.modeOf (fireAxis (firing 6 56)) ≠ 4) ∧
    (h.chip.modeOf 0 = 5 ∧ h.chip.get (AX_MSTAT_HOME 0) = 1 ∧
      (h.chip.axis 0).homeFrom + 250000 * h.chip.get (AX_HOME2_TO 0) ≤ h.chip.now) := by decide +kernel


/-- A lead of a group of the given function. -/
def lead (p func : Nat) (l : List (Field × Nat)) : State :=
  part 1 ([(FP_CFG_EN p, 1), (FP_CFG_FUNC p, func), (FP_CFG_LEAD p, p)] ++ l)

theorem witness_EdgesAreBooked :
    let s := port 0 { linesKnown := true } (lead 0 1 [(FP_STAT_PSTATE 0, 1), (FP_CPR_CPR 0, 4096)])
    let g (b : BitVec 3) := (s.chip.port 0).lines &&& s.chip.countMask 0 &&& b
    let f := lead 0 1 []
    (s.chip.portsRun = true ∧ s.chip.inputLead 0 = true ∧ (s.chip.port 0).linesKnown = true ∧
      ones ((s.chip.port 0).lines ^^^ s.chip.nextLines 0 1) = 1 ∧ s.chip.portState 0 = 1 ∧ s.chip.edgeLaw 0) ∧
    (s.chip.edgeStep 0 (g 7) (s.chip.nextLines 0 1 &&& s.chip.countMask 0)).isSome = true ∧
    s.chip.hallEdge 0 (g 7) (s.chip.nextLines 0 1 &&& s.chip.countMask 0) = false ∧
    (s.chip.port 0).anyEdge = false ∧ (s.chip.port 0).evHigh = false ∧
    (1 < ones ((s.chip.port 0).lines ^^^ s.chip.nextLines 0 3) ∧ s.chip.leads 0 2 = false) ∧
    (s.chip.port 0).lines = s.chip.nextLines 0 4 ∧
    ((f.chip.port 0).linesKnown = false ∧ f.chip.portsRun = true ∧ f.chip.inputLead 0 = true ∧
      f.chip.get (FP_IDX_MODE 0) = 0) := by
  unfold Chip.edgeLaw; decide +kernel

theorem witness_PortFrames :
    let s := lead 0 1 [(FP_IDX_MODE 0, 0), (FP_CFG_LEAD 2, 0)]
    let z := port 0 { lines := 3 } (lead 0 1 [(FP_IDX_MODE 0, 2), (FP_IDX_GATE 0, 3)])
    let d := lead 0 4 [(FP_CFG_DSUB 0, 2)]
    let i (t : Nat) := atTick t (port 0 { ssiBusy := true, ssiFails := 254, ssiLast := some 100 }
      (lead 0 3 [(FP_SSI_POSB 0, 12), (FP_SSI_STATB 0, 0), (FP_SSI_CRCW 0, 0), (FP_SSI_PER 0, 250), (FP_CPR_CPR 0, 4096)]))
    (s.chip.portsRun = true ∧ s.chip.leadOf 2 = 0 ∧ s.chip.leads 0 1 = true ∧ s.chip.get (FP_IDX_MODE 0) = 0) ∧
    (d.chip.leadOf 1 = 0 ∧ d.chip.pulseLead 0 = true) ∧
    (z.chip.get (FP_IDX_MODE 0) = 2 ∧ (z.chip.port 0).learned = false ∧ (z.chip.port 0).idxArmed = true ∧
      (z.chip.port 0).lines.getLsbD 0 = (z.chip.get (FP_IDX_GATE 0)).testBit 1 ∧
      (z.chip.port 0).lines.getLsbD 1 = (z.chip.get (FP_IDX_GATE 0)).testBit 0) ∧
    ((i 3000).chip.portsRun = true ∧ (i 3000).chip.leads 0 3 = true ∧ ((i 3000).chip.port 0).ssiBusy = true ∧
      (i 3000).chip.ssiLastBit 0 ≤ 3000 ∧
      (i 3250).chip.ssiLastBit 0 + 250 * (i 3250).chip.get (FP_SSI2_TO 0) ≤ (i 1000000).chip.now) ∧
    ((i 0).chip.ssiAccepts 0 ⟨true, 4000, 0, 0, true⟩ = true ∧ (i 0).chip.ssiAccepts 0 ⟨true, 0, 0, 0, false⟩ = false ∧
      ((i 0).chip.port 0).ssiLast = some 100 ∧ (s.chip.port 0).ssiLast = none ∧
      (i 0).chip.get (FP_SSI3_MAXSTEP 0) <
        (shortStep ((i 0).chip.get (FP_CPR_CPR 0)) 100 ((i 0).chip.ssiPos 0 ⟨true, 2000, 0, 0, true⟩)).natAbs) := by
  decide +kernel

theorem witness_DigitalInputs :
    let s := atTick 25000000 (port 5 { digLevel := true, digRun := 7, digQual := true } (lead 5 4 [(FP_CFG_DSUB 5, 3),
      (FP_STAT_LIM_TRIP 5, 1), (FP_STAT_CLRPEND 5, 1)]))
    let q := atTick 250000000 (lead 5 4 [(FP_CFG_DSUB 5, 1)])
    let w := port 5 { digRun := 7, digQual := true } (lead 5 4 [(FP_CFG_DSUB 5, 0), (BUS_ADM_EN 1, 1), (BUS_ADM_PRES_EN 1, 1),
      (BUS_ADM_PRES 1, 5), (BUS_STAT_ADM 1, 2)])
    (s.chip.portsRun = true ∧ s.chip.sampledInput 5 = true ∧ (true != s.chip.flag (FP_CFG_REV 5)) = true ∧
      (s.chip.port 5).digLevel = true ∧ 7 ≤ (s.chip.port 5).digRun ∧ s.chip.sampDue 5 = true ∧
      ∀ r : Region, s.chip.flag (BUS_ADM_EN r.val) = false) ∧
    (s.chip.flag (FP_STAT_LEVEL 5) ≠ true ∧ s.chip.isLimit 5 = true ∧ (s.chip.port 5).digQual = true) ∧
    ((s.chip.port 5).digLevel ≠ (false != s.chip.flag (FP_CFG_REV 5)) ∧ ∀ r : Region, s.chip.adm r ≠ 2) ∧
    (w.chip.portsRun = true ∧ w.chip.sampledInput 5 = true ∧ w.chip.sampDue 5 = true ∧
      (false != w.chip.flag (FP_CFG_REV 5)) = false ∧ (w.chip.port 5).digLevel = false ∧ 7 ≤ (w.chip.port 5).digRun ∧
      w.chip.flag (BUS_ADM_EN 1) = true ∧ w.chip.flag (BUS_ADM_PRES_EN 1) = true ∧ w.chip.get (BUS_ADM_PRES 1) = 5 ∧
      w.chip.adm 1 = 2) ∧
    (s.chip.flag (FP_STAT_LIM_TRIP 5) = true ∧ s.chip.flag (FP_STAT_CLRPEND 5) = true ∧ s.chip.flag (FP_STAT_LEVEL 5) = false ∧
      (s.chip.port 5).digTick + 250000 * s.chip.get (FP_DIG_REARM 5) ≤ s.chip.now) ∧
    (q.chip.leads 5 4 = true ∧ q.chip.get (FP_CFG_DSUB 5) = 1 ∧ q.chip.flag (FP_STAT_LIM_TRIP 5) = false ∧
      (q.chip.port 5).lastRise = none) ∧
    (s.chip.carries .host = true ∧ s.chip.booting = false ∧ s.chip.inDark = false) := by decide +kernel

theorem witness_PortStates :
    let s := atTick 1000000000 (lead 0 1 [(FP_CFG_LEAD 1, 0), (FP_CFG_ROLE 1, 1)])
    let h := atTick 100000 (port 0 { linesKnown := true } (lead 0 2 []))
    (s.chip.portsRun = true ∧ s.chip.pairIsInput 1 = true ∧ (s.chip.port 1).wireBad = false ∧ s.chip.leadOf 1 = 0) ∧
    ((port 1 { wireBad := true } s).chip.port 1).wireBad = true ∧
    (h.chip.leads 0 2 = true ∧ (h.chip.port 0).linesKnown = true ∧ codePlace 2 (h.chip.port 0).lines = none ∧
      h.chip.get (FP_CHK_TAGREE 0) ≤ h.chip.now + 1 - (h.chip.port 0).lastEdge ∧ (h.chip.port 0).hallHeld = false) ∧
    (s.chip.inputLead 0 = true ∧ s.chip.portState 0 = 0 ∧ s.chip.acquired 0 = true) ∧
    ((s.chip.carries .host = true ∧ s.chip.booting = false ∧ s.chip.inDark = false) ∧ s.chip.flag (FP_STAT_FAULTY 0) = false ∧
      s.chip.feedsMotion 0 = false) ∧
    (!s.chip.inputLead 31 || s.chip.flag (FP_STAT_FAULTY 31) || s.chip.feedsMotion 31) = true ∧
    ((lead 0 1 [(FP_STAT_PSTATE 0, 2)]).chip.portState 0 = 2 ∧ s.chip.portState 0 ≠ 2) := by decide +kernel

theorem witness_Emulation :
    let e := alter (lead 0 5 [(FP_EMU_SRC 0, 16), (CUE_TB_STAT_STALE 16, 0)]) (·.put64 (FP_OWED 0) (-1))
    let w := atTick 501 (port 0 { owes := [(0, 1)], anyEdge := true, lastEdge := 501 } e)
    (e.chip.emuLive 0 = true ∧ e.chip.owed 0 = -1 ∧ e.chip.emuSpaced 0 = true) ∧
    (w.chip.portsRun = true ∧ w.chip.leads 0 5 = true ∧ (∃ x ∈ (w.chip.port 0).owes, x.1 + 500 < w.chip.now)) ∧
    w.chip.emuSpaced 0 = false ∧ (lead 0 5 []).chip.owed 0 = 0 ∧
    ((fired e 9 0).chip.firesOf 7 9 = [firing 9 0] ∧ (fired e 9 0).chip.leads (firePort (firing 9 0)) 5 = true) ∧
    ((fired e 9 31).chip.firesOf 7 9 = [firing 9 31] ∧ (fired e 9 31).chip.leads (firePort (firing 9 31)) 5 = false) ∧
    (((port 0 { zPulse := some 1 } e).chip.port 0).zPulse = some 1 ∧ 1 ≤ e.chip.now + 1) := by
  decide +kernel


/-- STANDBY with the fast bus voltage of region 0 formed, V_ASC 60 V, V_CHOP 50 V, V_CUT 45 V, V_UV 30 V. -/
def busPart (l : List (Field × Nat)) : State :=
  part 2 ([(SL_CFG_EN 14, 1), (SL_CFG_EN 6, 1), (BUS_VTH_V_ASC 0, 120), (BUS_VTH_V_CHOP 0, 100), (BUS_STAT_VCUT_LIVE 0, 90),
    (BUS_VTH_V_UV 0, 60), (BUS_CHOP_EN 0, 1)] ++ l)

theorem witness_BusCascade :
    let s := busPart [(BUS_FAST_V 0, 4600)]
    s.chip.busRuns 0 = true ∧
    (s.chip.flag (BUS_STAT_CHOP_ON 0) = false ∧ s.chip.flag (BUS_CHOP_EN 0) = true ∧ s.chip.flag (BUS_STAT_CHOPF 0) = false ∧
      s.chip.faults.fire = false ∧ s.chip.volts (BUS_VTH_V_CHOP 0) ≤ 5000 ∧ (s.chip.bus 0).chopOff = none) ∧
    (busPart [(BUS_CHOP_EN 0, 0)]).chip.flag (BUS_CHOP_EN 0) = false ∧ s.chip.volts (BUS_STAT_VCUT_LIVE 0) ≤ 4500 ∧
    0 + s.chip.hyst 0 < s.chip.volts (BUS_STAT_VCUT_LIVE 0) ∧ 2999 < s.chip.volts (BUS_VTH_V_UV 0) ∧
    s.chip.volts (BUS_VTH_V_UV 0) + s.chip.hyst 0 < 4500 ∧ ¬s.chip.crossesAsc 0 5999 ∧ s.chip.crossesAsc 0 6000 := by
  unfold Chip.crossesAsc; decide +kernel

theorem witness_Chopper :
    let s := atTick 500 (bus 0 { chk := some (10, 5000) } (busPart [(BUS_STAT_CHOP_ON 0, 1), (BUS_CFG_CHOP_MIN 0, 2)]))
    s.chip.isArmed = true ∧ s.chip.sliceOn (currSlice 0) = true ∧ (s.chip.bus 0).chk = some (10, 5000) ∧
    (s.chip.bus 0).chkTick + 500 ≤ s.chip.now ∧ s.chip.flag (BUS_STAT_CHOP_ON 0) = true ∧
    (s.chip.bus 0).chopTick + 250 * s.chip.get (BUS_CFG_CHOP_MIN 0) ≤ s.chip.now ∧
    (atTick 499 s).chip.now < ((atTick 499 s).chip.bus 0).chkTick + 500 ∧ ((busPart []).chip.bus 0).chk = none := by
  decide +kernel

theorem witness_Admission :
    let s := busPart [(BUS_ADM_EN 0, 1), (BUS_ADM_PACKCH 0, 3), (HK_CH_EN 3, 1), (BUS_STAT_PACK_SEEN 0, 1)]
    let q := alter s (·.put (BUS_STAT_ADM 0) 1)
    let r := atTick 2500 (bus 0 { gate := 64 } (alter s (·.put (BUS_STAT_ADM 0) 2)))
    (s.chip.isArmed = true ∧ s.chip.flag (BUS_ADM_EN 0) = true ∧ s.chip.adm 0 = 0 ∧ s.chip.hkRuns = true ∧
      s.chip.channelOk (s.chip.get (BUS_ADM_PACKCH 0)) = true ∧ (s.chip.hk 0).running = none) ∧
    (q.chip.adm 0 = 1 ∧ (q.chip.bus 0).preClock + 4 ≤ (atTick 4 q).chip.now ∧
      (q.chip.bus 0).preTick + 250000 * q.chip.get (BUS_ADM3_PRE_TO 0) ≤ (atTick 1000000000 q).chip.now) ∧
    ((((q.chip.bus 0).vPack : Int) - (q.chip.get (BUS_FAST_V 0) : Int) * 10000000 * 131072).natAbs ≤
      q.chip.get (BUS_ADM2_DONE_V 0) * 100000000 * 131072) ∧
    (let n := bus 0 { vPack := 2000000000000000000 } q
     n.chip.get (BUS_ADM2_DONE_V 0) * 100000000 * 131072 <
      (((n.chip.bus 0).vPack : Int) - (n.chip.get (BUS_FAST_V 0) : Int) * 10000000 * 131072).natAbs) ∧
    (r.chip.adm 0 = 2 ∧ (r.chip.bus 0).gate = 64 ∧ (r.chip.bus 0).gateTick + 2500 ≤ r.chip.now ∧ s.chip.adm 0 ≠ 2) ∧
    ((s.chip.carries .host = true ∧ s.chip.booting = false ∧ s.chip.inDark = false) ∧
      s.chip.flag (BUS_STAT_PACK_SEEN 0) = true ∧
      (∀ a, regionOf a = 0 → s.chip.modeOf a = 0) ∧ (r.chip.adm 0 ≠ 0 ∧ r.chip.adm 0 ≠ 3)) ∧
    ((part 1 []).chip.isArmed = false ∧ (busPart [(AX_MSTAT_MODE 0, 1)]).chip.modeOf 0 ≠ 0) := by decide +kernel

theorem witness_ConversionRequests :
    let s := part 1 [(HK_SEL_CH 0, 45), (HK_CH_EN 45, 1), (HK_CFG_PINEDGE 0, 1), (HK_MODE_MODE, 1), (HK_CH_EN 16, 1),
      (HK_TMP_TYPE_EN 0, 1), (TMP_STAT_HOT 0, 1)]
    let b := conv 0 { running := some { ch := 1, cls := 3 }, inRound := true } s
    ((s.chip.carries .host = true ∧ s.chip.booting = false ∧ s.chip.inDark = false) ∧ s.chip.hkRuns = true ∧
      s.chip.channelOk (s.chip.hkSel 0) = true ∧ s.chip.hkMeets 0 2 = false ∧ b.chip.hkMeets 0 2 = true ∧
      b.chip.hkMeets 0 3 = true) ∧
    ((alter s (·.put SYS_STATUS_CFG_OK 0)).chip.hkRuns = false ∧
      (alter s (·.put (HK_SEL_CH 0) 28)).chip.channelOk ((alter s (·.put (HK_SEL_CH 0) 28)).chip.hkSel 0) = false) ∧
    ((s.chip.get (HK_CFG_PINEDGE 0)).testBit 0 = true ∧ (s.chip.get (HK_CFG_PINEDGE 0)).testBit 1 = false) ∧
    ((fired s 5 2).chip.firesOf 7 5 = [firing 5 2] ∧ fireConv (firing 5 2) = 0) ∧
    ((fired s 5 1).chip.firesOf 7 5 = [firing 5 1] ∧ (fired s 5 1).chip.hkStartAble (firing 5 1) = false) ∧
    ((s.chip.now - s.chip.houseTick) % (250000 * s.chip.get HK_MODE_ROUND) = 0 ∧ s.chip.roundTick ≠ some s.chip.now ∧
      ((atTick 1 s).chip.now - (atTick 1 s).chip.houseTick) % (250000 * (atTick 1 s).chip.get HK_MODE_ROUND) ≠ 0) ∧
    ((b.chip.hk 0).inRound = true ∧ (s.chip.hk 0).inRound = false ∧ (s.chip.hk 0).running = none ∧
      s.chip.roundList 0 = 16 :: [45] ∧ (s.chip.hk 0).urgent = [] ∧ (s.chip.hk 0).requeued = []) ∧
    (s.chip.flag HK_MODE_MODE = true ∧ (part 1 []).chip.flag HK_MODE_MODE = false ∧ s.chip.sensorOn 0 = true ∧
      s.chip.flag (TMP_STAT_HOT 0) = true ∧ s.chip.channelOk (channelOf 0) = true) := by decide +kernel

theorem witness_ConversionResults :
    let s := atTick 1266 (conv 0 { running := some { ch := 15, cls := 2, window := 16 } } (part 1 []))
    ((s.chip.hk 0).running = some { ch := 15, cls := 2, window := 16 } ∧ (15 : Nat) < 46 ∧ 0 + 1250 + 16 ≤ s.chip.now ∧
      (s.chip.hk 0).inRound = false) ∧
    ((part 1 []).chip.hkDone 0 = none ∧ ((part 1 []).chip.hk 0).running = none) ∧
    ((s.chip.carries .host = true ∧ s.chip.booting = false ∧ s.chip.inDark = false) ∧
      hkChBad 15 ((HK_CH_NPER 15).write ((HK_CH_WLEN 15).write 0 20000) 1) = false ∧
      hkChBad 16 ((HK_CH_NPER 16).write ((HK_CH_WLEN 16).write 0 16) 1) = false ∧
      hkChBad 45 ((HK_CH_NPER 45).write ((HK_CH_WLEN 45).write 0 15) 1) = true) := by decide +kernel

theorem witness_WindowMonitors :
    let s := part 0 [(WM_CFG_EN 7, 1), (WM_CFG_COND 7, 0), (WM_CFG_FILT 7, 2), (WM_STAT_ARMED 7, 1)]
    let q (x : WmState) : State := alter s (·.setWm 7 x)
    let hi := q { run := 1, level := true, qual := true, above := true }
    let lo := q { run := 1, level := false, qual := true }
    (s.chip.cfgOk = true ∧ s.chip.flag (WM_CFG_EN 7) = true) ∧
    (hi.chip.wmSees 7 0xFFFFFFFF 0xFFFFFFFF = true ∧ hi.chip.get (WM_CFG_FILT 7) ≤ hi.chip.wmRun 7 true ∧
      hi.chip.flag (WM_STAT_ARMED 7) = true ∧ hi.chip.flag (WM_STAT_LEVEL 7) = false) ∧
    (alter hi (·.put (WM_STAT_ARMED 7) 0)).chip.flag (WM_STAT_ARMED 7) = false ∧
    (lo.chip.wmSees 7 0 0 = false ∧ lo.chip.get (WM_CFG_FILT 7) ≤ lo.chip.wmRun 7 false) ∧
    s.chip.wmRun 7 (s.chip.wmSees 7 0 0) < s.chip.get (WM_CFG_FILT 7) ∧ State.reset.chip.cfgOk = false ∧
    (s.chip.carries .host = true ∧ s.chip.booting = false) := by decide +kernel


/-- One event of source 5. -/
def event : Event := ⟨5, 1, 0, 1, false⟩

theorem witness_CollectorTick :
    let s := alter (part 3 [(AX_COMCFG_EN 0, 1), (FLT_CFG_N 5, 2), (FLT_CFG_CODE 5, 4)]) fun c =>
      { c with faults := { c.faults with events := [event] } }
    let t := alter (alter s (·.put (FLT_SRC_WCNT 5) 1)) fun c => { c with faults := { c.faults with windows := [(5, 0)] } }
    let q := alter s fun c => { c with faults := { c.faults with latched := [⟨5, 2, 1⟩] } }
    (s.chip.clockRuns = true ∧ s.chip.faults.sampledTick ≠ some s.chip.now ∧ s.chip.faults.events = [event] ∧
      event.src < 0xFC) ∧
    (q.chip.severe event.src = true ∧ s.chip.severe event.src = false) ∧
    (s.chip.becomesSevere event = false ∧ t.chip.becomesSevere event = true) ∧
    (2 ≤ t.chip.effCode event ∧ (alter t (·.put (FLT_CFG_CODE 5) 0)).chip.effCode event < 2) ∧
    ((alter t (·.put RNG_CFG_EN 1)).chip.flag RNG_CFG_EN = true ∧ event.src ≠ 0xFB ∧ t.chip.rng.faultQ.length < 8 ∧
      t.chip.flag RNG_CFG_EN = false) ∧ State.reset.chip.clockRuns = false := by decide +kernel

theorem witness_CollectorChecks :
    let s := part 1 []
    let i := alter s fun c => { c with faults := { c.faults with inj := c.faults.inj.set 0 (some 4) } }
    let w (t : Nat) := atTick t (alter (part 1 [(FLT_CFG_T 5, 1)]) fun c => { c with faults := { c.faults with windows := [(5, 0)] } })
    ((w 250001).chip.windowOver 5 = true ∧ ∀ x ∈ (w 249999).chip.faults.windows, x.1 = 5 →
      (w 249999).chip.now < x.2 + 250000 * (w 249999).chip.get (FLT_CFG_T 5)) ∧
    (State.reset.chip.clockRuns = false ∧ s.chip.clockRuns = true ∧
      s.chip.now < s.chip.faults.beaconTick + 1 + 250 * s.chip.get BEACON_CTL_PULSE) ∧
    i.chip.injected 0 4 = true ∧ s.chip.injected 0 4 = false ∧
    (s.chip.carries .host = true ∧ s.chip.booting = false ∧ s.chip.inDark = false) ∧
    (s.chip.inStrike = false ∧ (4 : BitVec 4).toNat < injUnits 0 ∧ injUnits 0 ≤ (5 : BitVec 4).toNat ∧
      (s.chip.get FLT_INJS_ARMED).testBit 0 = false ∧
      ((alter s (·.put FLT_INJS_ARMED 1)).chip.get FLT_INJS_ARMED).testBit 0 = true) ∧
    (alter s (·.put SYS_STATUS_LC 3)).chip.inStrike = true := by decide +kernel

theorem witness_Clears :
    let s := alter (part 1 []) fun c => { c with faults := { c.faults with latched := [⟨0xFB, 2, 0⟩, ⟨5, 2, 1⟩] } }
    let n := alter s fun c => { c with faults := { c.faults with sampledTick := some 0, risen := [⟨5, 2, 1⟩] } }
    let r := alter s fun c => { c with rng := { c.rng with downLive := true } }
    (s.chip.carries .host = true ∧ s.chip.booting = false ∧ s.chip.inDark = false) ∧
    (s.chip.notClearable 5 = false ∧ s.chip.eventNow 5 = none ∧ s.chip.faults.sampledTick ≠ some s.chip.now) ∧
    (n.chip.notClearable 5 = false ∧ n.chip.faults.sampledTick = some n.chip.now ∧ ∃ y ∈ n.chip.faults.risen, y.src = 5) ∧
    (r.chip.notClearable 0xF9 = true ∧ s.chip.faults.latched.all (fun x => !s.chip.notClearable x.src) = true) ∧
    ((alter r fun c => { c with faults := { c.faults with latched := [⟨0xF9, 2, 0⟩] } }).chip.faults.latched.all
      (fun x => !r.chip.notClearable x.src) = false) ∧
    (s.chip.faults.firstTick ≠ some s.chip.now ∧ s.chip.faults.accNew = none) ∧
    (n.chip.faults.firstTick ≠ some n.chip.now ∧ winner n.chip.faults.risen = some ⟨5, 2, 1⟩) ∧
    (let f := alter s fun c => { c with faults := { c.faults with firstTick := some 0, accNew := some (0, 9, 4) } }
     f.chip.faults.firstTick = some f.chip.now ∧ f.chip.faults.accNew = some (f.chip.now, 9, 4)) := by decide +kernel

theorem witness_StartSequences :
    let s := part 1 []
    let h := part 1 [(SYS_STATUS_CFG_OK, 0)]
    let o : Option OtpOp := some ⟨1, 5, [], 0, 0⟩
    let busy (s : State) := alter s fun c => { c with nvc := { c.nvc with op := o } }
    (State.reset.chip.load.stage = .held ∧ s.chip.load.stage ≠ .held) ∧
    ((s.chip.carries .host = true ∧ s.chip.booting = false ∧ s.chip.inDark = false) ∧ s.chip.flag SYS_STATUS_LOG_BUSY = false ∧
      s.chip.nvc.op = none ∧ s.chip.mayLog = true ∧ (alter s (·.put LOG_STATUS_HOLD 1)).chip.mayLog = false ∧
      (alter s (·.put SYS_STATUS_LOG_BUSY 1)).chip.flag SYS_STATUS_LOG_BUSY = true ∧ (busy s).chip.nvc.op.isSome = true) ∧
    ((part 1 [(SYS_STATUS_BOOT, 1)]).chip.carries .host = true ∧ (part 1 [(SYS_STATUS_BOOT, 1)]).chip.booting = true) ∧
    ((part 0 []).chip.carries .host = true ∧ (part 0 []).chip.booting = false ∧ (part 0 []).chip.inDark = true) ∧
    ((h.chip.carries .host = true ∧ h.chip.booting = false ∧ h.chip.inDark = false) ∧ h.chip.inHouse = true ∧
      h.chip.cfgOk = false ∧ h.chip.inStrike = false ∧ h.chip.nvc.op = none ∧ s.chip.cfgOk = true ∧
      (busy h).chip.nvc.op.isSome = true) := by decide +kernel

/-- A loader that awaits an image. -/
def loading (f : LoadState → LoadState) : State :=
  alter State.reset fun c => { c with load := f { c.load with stage := .loading } }

/-- A header of one section of `n` bytes in all, for this device. -/
def header (n : Nat) : Header :=
  let h : Header := ⟨0x4E4B5242, 1, 1, BitVec.ofNat 32 n, State.reset.chip.reg SYS_ID, 0, 7, 0, 0⟩
  { h with hcrc := crc32 (headerFront h) }

/-- A register section of one record, and a filler of four bytes. -/
def regSection : Section := ⟨1, 0, 1, 8, 0, 0⟩
def fillSection : Section :=
  let h : Section := ⟨3, 0, 0, 4, 0, 0⟩
  { h with scrc := crc32 (sectionFront h ++ [0, 0, 0, 0]) }

/-- The header of another device. -/
def otherDevice : Header :=
  let h : Header := { header 56 with device := ~~~(header 56).device }
  { h with hcrc := crc32 (headerFront h) }

theorem witness_ImageHeaders :
    let s := loading id
    let i := alter s fun c => { c with faults := { c.faults with inj := c.faults.inj.set 3 (some 0) } }
    let q := loading fun l => { l with header := some (header 56), bytes := List.replicate 32 0 }
    (s.chip.awaitsHeader = true ∧ s.chip.injected 3 0 = false ∧ crc32 (headerFront (header 56)) = (header 56).hcrc ∧
      headerBad (header 56) = false ∧ s.chip.wrongDevice (header 56) = false ∧ s.chip.tooLong (header 56) = false) ∧
    q.chip.load.header.isSome = true ∧
    i.chip.injected 3 0 = true ∧ crc32 (headerFront { header 56 with serial := 8 }) ≠ (header 56).hcrc ∧
    headerBad (header 57) = true ∧
    (crc32 (headerFront otherDevice) = otherDevice.hcrc ∧ headerBad otherDevice = false ∧ s.chip.wrongDevice otherDevice = true) ∧
    (q.chip.awaitsSection (header 56) = true ∧ sectionBad regSection 32 (headerStop (header 56)) = false ∧
      sectionBad regSection 32 (headerStop (header 52)) = true) ∧
    (s.chip.load.stage = .loading ∧ s.chip.nvmSetting.any (!namesI2c ·) = false ∧ s.chip.load.retries < 2 ∧
      2 ≤ (loading fun l => { l with retries := 2 }).chip.load.retries) := by decide +kernel

/-- The slices as Tables 5-1 and 5-2 want them: each phase slice names its own axis, the resolver slices close by the excitation,
the auxiliary ones of the second region name an axis of it, and the bus voltage slices have their range. -/
def ownAxes : List (Field × Nat) :=
  allSlices.flatMap fun k => match phaseAxis k with
    | some a => [(SL_CFG_AXIS k.val, a.val)]
    | none => [(SL_CFG_AXIS k.val, 4 * (k.val / 16)), (SL_CFG_CLOSE k.val, if 32 ≤ k.val then 3 else 0),
        (SL_CFG_RANGE k.val, if k.val = 14 ∨ k.val = 30 then 2 else 0)]

/-- A loader whose image, of a header and one section, awaits its end. -/
def loaded : State :=
  alter (loading fun l => { l with header := some (header 52), sect := 1, bytes := List.replicate 52 0 }) (fields ownAxes)

/-- Every check of a list passes. -/
abbrev pass (l : List Check) : Prop := ∀ x ∈ l, x.1 = false

theorem pass_append {l m : List Check} (hl : pass l) (hm : pass m) : pass (l ++ m) := fun x hx =>
  (List.mem_append.mp hx).elim (hl x) (hm x)

theorem pass_parts {α : Type} (n : Nat) {l : List α} {f : α → List Check} (hl : pass ((l.take n).flatMap f))
    (hm : pass ((l.drop n).flatMap f)) : pass (l.flatMap f) := by
  rw [← List.take_append_drop n l, List.flatMap_append]
  exact pass_append hl hm

theorem loaded_ranges_low : pass ((rangeRows.take 40).flatMap loaded.chip.showResv.rangeChecks) :=
  pass_parts 12 (by decide +kernel) (by decide +kernel)

theorem loaded_ranges_high : pass ((rangeRows.drop 40).flatMap loaded.chip.showResv.rangeChecks) :=
  pass_parts 8 (by decide +kernel) (by decide +kernel)

theorem loaded_faults : pass loaded.chip.showResv.faultChecks := by decide +kernel

theorem loaded_axes_low : pass ((allAxes.take 4).flatMap loaded.chip.showResv.axisChecks) := by decide +kernel

theorem loaded_axes_high : pass ((allAxes.drop 4).flatMap loaded.chip.showResv.axisChecks) := by decide +kernel

theorem loaded_others : pass loaded.chip.showResv.tbChecks ∧ pass loaded.chip.showResv.periodChecks ∧
    pass loaded.chip.showResv.sliceChecks ∧ pass (allPorts.flatMap loaded.chip.showResv.portChecks) ∧
    pass loaded.chip.showResv.crossbarChecks ∧ pass (allRegions.flatMap loaded.chip.showResv.regionChecks) ∧
    pass loaded.chip.showResv.hkChecks ∧ pass loaded.chip.showResv.wmChecks ∧
    pass ((List.range 64).flatMap loaded.chip.showResv.canChecks) ∧ pass loaded.chip.showResv.cueChecks := by
  refine ⟨?_, ?_, ?_, ?_, ?_, ?_, ?_, ?_, ?_, ?_⟩ <;> decide +kernel

theorem witness_admitted :
    loaded.chip.awaitsTag (header 52) 0 = true ∧ loaded.chip.tagBad (header 52) [] = false ∧
    loaded.chip.showResv.admission = none := by
  refine ⟨by decide +kernel, by decide +kernel, admission_passes ?_⟩
  obtain ⟨tb, pd, sl, po, xb, rg, hk, wm, cn, cu⟩ := loaded_others
  exact pass_append (pass_append (pass_append (pass_append (pass_append (pass_append (pass_append (pass_append (pass_append
    (pass_append (pass_append (pass_append (pass_parts 40 loaded_ranges_low loaded_ranges_high) tb) pd) loaded_faults) sl) po)
    xb) (pass_parts 4 loaded_axes_low loaded_axes_high)) rg) hk) wm) cn) cu

theorem witness_notAdmitted :
    let s := loading fun l => { l with header := some (header 52), sect := 1, bytes := List.replicate 52 0 }
    s.chip.awaitsTag (header 52) 0 = true ∧ s.chip.tagBad (header 52) [] = false ∧
    ∃ z, s.chip.showResv.admission = some z := by
  refine ⟨by decide +kernel, by decide +kernel, admission_fails (x := rangeIf true (SL_CFG 3)) ?_ rfl⟩
  have h : rangeIf true (SL_CFG 3) ∈ (loading fun l => { l with
      header := some (header 52), sect := 1, bytes := List.replicate 52 0 }).chip.showResv.sliceChecks := by decide +kernel
  simp only [Chip.checks, List.mem_append]
  exact Or.inl (Or.inl (Or.inl (Or.inl (Or.inl (Or.inl (Or.inl (Or.inl (Or.inr h))))))))

theorem witness_ImageBodies :
    let s := loading fun l => { l with header := some (header 56), cur := some regSection, sect := 1, due := 1 }
    let c := loading fun l => { l with header := some (header 60), cur := some { regSection with type := 2 }, sect := 1, due := 1 }
    let e := loading fun l => { l with header := some (header 52), cur := some fillSection, sect := 1, bytes := List.replicate 48 0 }
    let f := alter e fun c => { c with load := { c.load with fail := some (.range, 4) } }
    let t := loading fun l => { l with header := some (header 52), sect := 1, bytes := List.replicate 52 0 }
    (s.chip.awaitsRecord regSection = true ∧ s.chip.load.fail = none ∧ imageWritable (AX_CFG 0) = true ∧
      cueWord (AX_CFG 0) = none ∧ (findRow (homeOf (AX_CFG 0))).isSome = true ∧ homeOf (AX_CFG 0) = AX_CFG 0 ∧
      deadWrite (AX_CFG 0) = false) ∧
    imageWritable 0 = false ∧ (imageWritable 0x100004 = true ∧ cueWord 0x100004 = some (0, true)) ∧
    (c.chip.awaitsRecord { regSection with type := 2 } = true ∧ cueShapeBad ((0x1B0A0000 : Word) ++ (0 : Word)) = false ∧
      c.chip.neighbour 16383 ((0x1B0A0000 : Word) ++ (0 : Word)) = none ∧
      (alter c (·.setCue 16382 ((0x1B0A0000 : Word) ++ (1 : Word)))).chip.neighbour 16383 ((0x1B0A0000 : Word) ++ (0 : Word)) = some 16382 ∧
      cueShapeBad ((0x190A0000 : Word) ++ (0 : Word)) = true) ∧
    (e.chip.awaitsEnd (header 52) fillSection 4 = true ∧ e.chip.sectionCrcOk fillSection [0, 0, 0, 0] = true ∧
      e.chip.load.fail = none ∧ f.chip.load.fail = some (.range, 4) ∧
      e.chip.sectionCrcOk fillSection [0, 0, 0, 1] = false ∧ e.chip.load.bytes.length + 4 = headerStop (header 52)) ∧
    (t.chip.awaitsTag (header 52) 0 = true ∧ t.chip.tagBad (header 52) [] = false) ∧
    (alter t fun c => { c with load := { c.load with keyDead := true } }).chip.tagBad (header 52) [] = true := by decide +kernel


/-- A part whose transition into power state `t` is due. -/
def entering (p t : Nat) (l : List (Field × Nat)) : State := alter (part p l) fun c => { c with pwrDue := some t }

theorem witness_PowerStates :
    let s (p : Nat) := part p []
    ((s 1).chip.carries .host = true ∧ (s 1).chip.booting = false ∧ (s 1).chip.inDark = false ∧ (s 1).chip.pstate = 1 ∧
      pwrPair 1 2 = true ∧ (s 1).chip.pwrBusy = false ∧ (s 1).chip.armState = false ∧ (s 1).chip.armWindow = false) ∧
    ((entering 1 2 []).chip.clockRuns = true ∧ (entering 1 2 []).chip.pwrDue = some 2 ∧ (entering 1 2 []).chip.pstate = 1) ∧
    ((entering 2 3 []).chip.clockRuns = true ∧ (entering 2 3 []).chip.pwrDue = some 3 ∧ (entering 2 3 []).chip.pstate = 2) ∧
    ((entering 3 2 []).chip.clockRuns = true ∧ (entering 3 2 []).chip.pwrDue = some 2 ∧ (entering 3 2 []).chip.pstate = 3) ∧
    ((entering 3 1 []).chip.clockRuns = true ∧ (entering 3 1 []).chip.pwrDue = some 1 ∧ (entering 3 1 []).chip.pstate = 3 ∧
      (entering 2 1 []).chip.pstate = 2) ∧
    ((s 0).chip.carries .host = true ∧ (s 0).chip.booting = false ∧ (s 0).chip.pstate = 0 ∧ (s 0).chip.pwrBusy = false) ∧
    (pwrPair 0 2 = false ∧ pwrPair 1 0 = true ∧ (part 1 [(SYS_STATUS_LC, 3)]).chip.armState = true ∧
      (part 1 [(SYS_STATUS_LOG_BUSY, 1)]).chip.pwrBusy = true ∧
      (part 1 [(HK_VAL_VALID 39, 1), (HK_VAL_CODE 39, 0)]).chip.armWindow = true) := by decide +kernel

theorem witness_DarkAndLifecycle :
    let s := part 1 [(SYS_STATUS_TRANS, 1)]
    let d := part 0 [(SYS_STATUS_TRANS, 1)]
    let h := part 1 []
    let b := part 1 [(SYS_STATUS_KEY, 1), (OTP_STATUS_LOCK, 2), (SYS_STATUS_LC, 1)]
    let k := part 1 [(SYS_STATUS_LC, 2)]
    let w (t : Nat) : Word := SYS_LCCMD_TARGET.write (SYS_LCCMD_CONFIRM.write 0 0xA55A) t
    (s.chip.inHouse = true ∧ s.chip.flag SYS_STATUS_TRANS = true ∧ s.chip.nvc.orderly = none ∧ s.chip.booting = false) ∧
    ((alter s fun c => { c with nvc := { c.nvc with orderly := some 0 } }).chip.nvc.orderly.isSome = true) ∧
    (d.chip.inDark = true ∧ d.chip.flag SYS_STATUS_TRANS = true ∧ h.chip.flag SYS_STATUS_TRANS = false) ∧
    (h.chip.carries .host = true ∧ h.chip.booting = false ∧ h.chip.inDark = false ∧
      judge (Chip.lcConds (w 1) false h.chip) = .ok) ∧
    (h.chip.inHouse = true ∧ SYS_LCCMD_CONFIRM.read 0 ≠ 0xA55A ∧ SYS_LCCMD_TARGET.read 0 ≠ 2) ∧
    (b.chip.flag SYS_STATUS_KEY = true ∧ (b.chip.get OTP_STATUS_LOCK).testBit 1 = true ∧ SYS_LCCMD_TARGET.read (w 2) = 2 ∧
      SYS_LCCMD_CONFIRM.read (w 2) = 0xA55A ∧ lcNext (b.chip.get SYS_STATUS_LC) 2 = true ∧
      h.chip.flag SYS_STATUS_KEY = false) ∧
    (k.chip.get SYS_STATUS_LC = 2 ∧ lcNext 2 3 = true ∧ SYS_LCCMD_TARGET.read (w 3) = 3 ∧ k.chip.load.strikeOk = false) ∧
    ((part 1 [(SYS_STATUS_LOG_BUSY, 1)]).chip.flag SYS_STATUS_LOG_BUSY = true ∧ h.chip.flag SYS_STATUS_LOG_BUSY = false ∧
      h.chip.nvc.op = none ∧ h.chip.windowLeft true = true) := by decide +kernel

/-- The state with an OTP operation under way. -/
def burning (o : OtpOp) (s : State) : State := alter s fun c => { c with nvc := { c.nvc with op := some o } }

theorem witness_OtpCommands :
    let s := part 1 [(OTP_STATUS_LOCK, 0)]
    let o : OtpOp := ⟨1, 16, [(16, 1)], 0, 0⟩
    (s.chip.carries .host = true ∧ s.chip.booting = false ∧ s.chip.inDark = false ∧ s.chip.inHouse = true ∧
      s.chip.flag SYS_STATUS_TRANS = false) ∧
    ((part 2 []).chip.inHouse = false ∧ argOk 1 1023 = true ∧ argOk 3 64 = false ∧ s.chip.otpTargetBad s.nv 2 16 = true) ∧
    (argOk 3 1 = true ∧ s.chip.otpLcBad 3 1 = false ∧ s.chip.otpTargetBad s.nv 3 1 = false ∧
      (burning o s).chip.nvc.op.isSome = true ∧ s.chip.nvc.op = none ∧ s.chip.windowLeft true = true ∧
      s.chip.windowLeft false = false) ∧
    (argOk 1 191 = true ∧ s.chip.otpLcBad 1 191 = false ∧ s.chip.otpTargetBad s.nv 1 191 = false) ∧
    (s.chip.otpLcBad 1 1023 = false ∧ s.chip.otpTargetBad s.nv 1 1023 = false ∧
      ((part 1 [(OTP_STATUS_LOCK, 8)]).chip.get OTP_STATUS_LOCK).testBit (otpArea 1023) = true) := by decide +kernel

theorem witness_OtpVerifies :
    let o : OtpOp := ⟨1, 16, [(16, 1)], 8, 8⟩
    let s := burning o (part 1 [])
    s.chip.nvc.op = some o ∧ o.todo = (16, 1) :: [] ∧ verifyPasses ⟨1, 1, 1, true, false⟩ 1 = true ∧
    verifyPasses ⟨1, 1, 0, true, false⟩ 1 = false ∧ 8 ≤ o.pulses ∧ (part 1 []).chip.nvc.op = none := by decide +kernel

theorem witness_Logbook :
    let x : LogRec := ⟨3, false, 5, 0, 0, 0⟩
    let s := alter (part 1 []) fun c => { c with nvc := { c.nvc with queue := [x], ring := 1023 } }
    let o (n : Nat) := alter s fun c => { c with nvc := { c.nvc with orderly := some n } }
    (s.chip.mayLog = true ∧ s.chip.nvc.queue = x :: [] ∧ s.chip.inDark = false ∧ s.chip.load.stage = .done) ∧
    ((alter s (·.put LOG_STATUS_HOLD 1)).chip.mayLog = false ∧ (o 0).chip.nvc.orderly = some 0 ∧ (o 0).chip.mayLog = true ∧
      (o 1).chip.nvc.orderly = some 1 ∧ s.chip.nvc.orderly = none ∧ (part 0 []).chip.inDark = true) := by decide +kernel

/-- A classic data frame with identifier 5. -/
def canFrame (data : List Byte) : CanFrame := ⟨false, 5, false, false, data⟩

/-- A part on CAN whose acceptance entry 63 takes identifier 5 as `kind`, with `f` received. -/
def canPart (kind : Nat) (f : CanFrame) (l : List (Field × Nat)) : State :=
  alter (part 1 ([(CAN_CFG_EN, 1), (CAN_ACC_W0_KIND 63, kind), (CAN_ACC_W0_ID 63, 5), (CAN_STAT_STATE, 0)] ++ l)) fun c =>
    { c with can := { c.can with rx := [(63, f)] } }

theorem witness_CanController :
    let f := canFrame [1]
    let s := canPart 6 f []
    let off := canPart 6 f [(CAN_STAT_STATE, 2), (CAN_CFG_AUTOREC, 1)]
    (s.chip.canOnBus = true ∧ f.remote = false ∧ f.fd = false ∧ s.chip.get CAN_STAT_REC ≤ 127 ∧ s.chip.canEntry f = some 63 ∧
      s.chip.can.rx.length < 16) ∧
    ((canPart 0 f []).chip.canEntry f = none ∧
      16 ≤ (alter s fun c => { c with can := { c.can with rx := List.replicate 16 (63, f) } }).chip.can.rx.length) ∧
    (s.chip.canRuns = true ∧ off.chip.canOnBus = false ∧ off.chip.canRuns = true ∧ off.chip.get CAN_STAT_STATE = 2 ∧
      off.chip.flag CAN_CFG_AUTOREC = true ∧ (canPart 6 f [(CAN_CFG_AUTOREC, 0)]).chip.flag CAN_CFG_AUTOREC = false ∧
      s.chip.can.recovering = false ∧ s.chip.get CAN_STAT_STATE ≠ 2) ∧
    (s.chip.can.rx.head? = some (63, f) ∧ s.chip.get (CAN_ACC_W0_KIND 63) = 6 ∧ s.chip.nodeOf f = none ∧
      nodeSlots.find? (fun i => !s.chip.flag (CAN_NODE_USED i.val)) = some 0) ∧
    (canPart 6 f [(CAN_NODE_USED 31, 1), (CAN_NODE_ID 31, 5)]).chip.nodeOf f = some 31 ∧
    (let t := canPart 6 f ((List.range 32).map fun i => (CAN_NODE_USED i, 1))
     t.chip.nodeOf f = none ∧ ∀ i : Fin 32, t.chip.flag (CAN_NODE_USED i.val) = true) ∧
    (let t := atTick 250000 (canPart 6 f [(CAN_NODE_USED 31, 1), (CAN_NODE_ENTRY_ENTRY 31, 63), (CAN_ACC_W3_TARGET 63, 1)])
     t.chip.flag (CAN_NODE_USED 31) = true ∧ t.chip.flag (CAN_NODE_LOST 31) = false ∧ t.chip.nodeOver 31 = true ∧
      (atTick 249999 t).chip.nodeOver 31 = false) ∧
    (s.chip.carries .can = true ∧ s.chip.booting = false ∧ s.chip.inDark = false ∧ s.chip.can.tx = [] ∧
      (canPart 6 f [(CAN_OWNHB_EN, 1)]).chip.flag CAN_OWNHB_EN = true ∧ s.chip.beatDue = true) ∧
    (alter s fun c => { c with can := { c.can with tx := [⟨5, false, false, []⟩] } }).chip.can.tx =
      ⟨5, false, false, []⟩ :: [] := by decide +kernel

theorem witness_CanRequests :
    let wide := canPart 2 { canFrame [] with fd := true } [(CAN_ACC_W3_WIDE 63, 1), (CAN_CFG_FDEN, 1)]
    (canPart 1 (canFrame [1, 2, 3, 4]) []).chip.canDue 1 63 (canFrame [1, 2, 3, 4]) ∧
    (canPart 1 (canFrame [1, 2, 3]) []).chip.canDue 1 63 (canFrame [1, 2, 3]) ∧
    (canPart 2 (canFrame []) []).chip.canDue 2 63 (canFrame []) ∧
    (canPart 2 (canFrame []) []).chip.can.tx.length < 8 ∧
    (canPart 2 (canFrame []) []).chip.flag (CAN_ACC_W3_WIDE 63) = false ∧
    (wide.chip.canDue 2 63 { canFrame [] with fd := true } ∧ wide.chip.flag (CAN_ACC_W3_WIDE 63) = true ∧
      wide.chip.can.tx.length < 8) ∧
    ((canPart 2 (canFrame []) [(CAN_ACC_W3_WIDE 63, 1)]).chip.canDue 2 63 (canFrame []) ∧ (canFrame []).fd = false) ∧
    (canPart 3 (canFrame []) []).chip.canDue 3 63 (canFrame []) ∧ (canPart 4 (canFrame []) []).chip.canDue 4 63 (canFrame []) ∧
    (canPart 5 (canFrame []) []).chip.canDue 5 63 (canFrame []) ∧
    8 ≤ (alter (canPart 2 (canFrame []) []) fun c => { c with can := { c.can with
      tx := List.replicate 8 ⟨5, false, false, []⟩ } }).chip.can.tx.length := by
  simp only [Chip.canDue]; decide +kernel

/-- A package of address 1 in a ring of two, whose link is in `state`. -/
def rangePart (state : Nat) (l : List (Field × Nat)) : State :=
  part 1 ([(RNG_CFG_EN, 1), (RNG_CFG_ADDR, 1), (RNG_CFG_NPKG, 2), (RNG_STAT_STATE, state)] ++ l)

theorem witness_RangeTraining :
    let s := rangePart 1 []
    let h := rangeFrame 0 1 0
    let late := atTick 2500000 s
    (s.chip.rngTrains = true ∧ rngOk h = true ∧ h.type = 1 ∧ (s.chip.hear h).rng.duplicate = false ∧
      (s.chip.hear h).rng.heard.length ≤ s.chip.get RNG_CFG_NPKG) ∧
    (let t := alter s fun c => { c with rng := { c.rng with heard := [⟨0, true, 3, 0⟩] } }
     (t.chip.hear h).rng.duplicate = true) ∧
    (let t := alter s fun c => { c with rng := { c.rng with heard := [⟨2, true, 3, 0⟩, ⟨3, true, 1, 0⟩] } }
     (t.chip.hear h).rng.duplicate = false ∧ s.chip.get RNG_CFG_NPKG < (t.chip.hear h).rng.heard.length) ∧
    (let t := alter s fun c => { c with rng := { c.rng with back := some 3, heard := [⟨2, true, 1, 0⟩] } }
     (t.chip.hear h).rng.duplicate = false ∧ (t.chip.hear h).rng.back = some (s.chip.get RNG_CFG_NPKG + 1) ∧
      (t.chip.hear h).keeper = some (2, 1) ∧ (t.chip.hear h).rng.heard.length = s.chip.get RNG_CFG_NPKG) ∧
    (let t := alter s fun c => { c with rng := { c.rng with back := some 3, heard := [⟨2, false, 1, 0⟩] } }
     (t.chip.hear h).keeper = none) ∧
    (s.chip.inHouse = true ∧ rngOk (rangeFrame 0 2 9) = true ∧ (rangeFrame 0 2 9).type = 2 ∧
      (rangeFrame 0 2 9).src ≠ s.chip.rngAddr) ∧
    (rangePart 2 []).chip.rngUp = true ∧ s.chip.rng.helloTick = none ∧ s.chip.now < s.chip.rng.trainFrom + 2500000 ∧
    (late.chip.rngTrains = true ∧ late.chip.rng.trainFrom + 2500000 ≤ late.chip.now ∧ late.chip.rng.back = none) ∧
    (s.chip.carries .host = true ∧ s.chip.booting = false ∧ s.chip.inDark = false ∧ s.chip.get RNG_STAT_STATE ≠ 2 ∧
      s.chip.rngOn = true ∧ (rangePart 2 []).chip.get RNG_STAT_STATE = 2) := by decide +kernel

theorem witness_RangeCycle :
    let s := rangePart 2 [(RNG_SUB_EN 3, 1), (RNG_SUB_RM 3, 0)]
    let r (n m : Nat) := alter s fun c => { c with rng := { c.rng with crcRun := n, skewRun := m } }
    (s.chip.rngTrains = false ∧ (rangePart 0 []).chip.rngTrains = false ∧ (rangePart 0 []).chip.rngUp = false) ∧
    (s.chip.rngUp = true ∧ rngOk { rangeFrame 0 0 0 with violation := true } = false ∧ s.chip.rng.crcRun < 3 ∧
      3 ≤ (r 3 0).chip.rng.crcRun ∧ (r 3 0).chip.rngUp = true) ∧
    (rngOk (rangeFrame 0 0 0) = true ∧ rngOk (rangeFrame 0 4 0) = true ∧ rngOk (rangeFrame 0 3 0) = true ∧
      rngOk (rangeFrame 0 5 0) = true ∧ (rangeFrame 0 3 0).src ≠ s.chip.rngAddr ∧ s.chip.subscribed = [(0, 19)]) ∧
    (s.chip.rng.skewRun < 2 ∧ 2 ≤ (r 0 2).chip.rng.skewRun ∧ 16 < (17 : Int).natAbs ∧ (-16 : Int).natAbs ≤ 16) ∧
    (rngOk (rangeFrame 1 3 0) = true ∧ rngOk (rangeFrame 1 5 0) = true ∧ (rangeFrame 1 3 0).src = s.chip.rngAddr) ∧
    (s.chip.rng.syncTick + 12000 ≤ (atTick 12000 s).chip.now ∧ (atTick 11999 s).chip.now < s.chip.rng.syncTick + 12000 ∧
      (rangePart 1 []).chip.rngUp = false) := by decide +kernel

theorem witness_RangeSlots :
    let s := atTick 2500 (rangePart 2 [(RNG_STAT_KEEPER, 1)])
    s.chip.rngUp = true ∧ (5 : Fin 8).val % 4 = s.chip.rngAddr.toNat ∧ s.chip.rng.startTick ≤ s.chip.wall ∧
    (s.chip.wall - s.chip.rng.startTick) % 4000 = 500 * (5 : Fin 8).val ∧ s.chip.rng.slotTick ≠ some s.chip.now ∧
    s.chip.rng.faultQ = [] ∧ s.chip.flag RNG_STAT_KEEPER = true ∧ (rangePart 2 []).chip.flag RNG_STAT_KEEPER = false ∧
    s.chip.published = 0 ∧
    (alter s fun c => { c with rng := { c.rng with faultQ := [⟨5, 2, 9⟩] } }).chip.rng.faultQ = ⟨5, 2, 9⟩ :: [] ∧
    (rangePart 2 [(RNG_PUB_EN0, 1)]).chip.published ≠ 0 ∧ (4 : Fin 8).val % 4 ≠ s.chip.rngAddr.toNat := by decide +kernel

theorem witness_HostFrames :
    let s := part 1 []
    State.reset.chip.load.stage = .held ∧ s.chip.load.stage ≠ .held ∧ ({ hostFrame 0 0 0 with early := true }).early = true ∧
    (({ hostFrame 0 0 0 with clocks := 71 }).clocks ≠ 72 ∧
      hostCrcOk { hostFrame 0 0 0 with crc := ~~~(hostFrame 0 0 0).crc } = false) ∧
    (hostOk (hostFrame 0 0 0) = true ∧ hostOk (hostFrame 3 0 0) = true ∧ hostOk (hostFrame 2 0x30 0) = true) := by decide +kernel

theorem witness_HostReads :
    let s := part 1 []
    let b := part 1 [(SYS_STATUS_BOOT, 1)]
    (s.chip.load.stage ≠ .held ∧ hostOk (hostFrame 1 (BitVec.ofNat 24 (WM_STAT 0)) 0) = true ∧ s.chip.readOpen (WM_STAT 0) = true ∧
      ∃ r, s.chip.plainRead .host r (WM_STAT 0)) ∧
    (cellsGet zeros s.chip.fresh (WM_STAT 0) = 0 ∧ cellsGet zeros (alter s (·.mark (WM_STAT_EVENTS 0))).chip.fresh (WM_STAT 0) ≠ 0) ∧
    (s.chip.readOpen HP_RDBUF = true ∧ s.chip.held .host HP_RDBUF = none) ∧
    (findRow 0x0A0A40 = none ∧ cueWord 0x0A0A40 = none ∧ s.chip.readOpen 0x0A0A40 = true) ∧ b.chip.booting = true := by
  refine ⟨⟨by decide +kernel, by decide +kernel, by decide +kernel, (findRow (WM_STAT 0)).get (by decide +kernel),
    by decide +kernel, (Option.some_get _).symm, by decide +kernel⟩, by decide +kernel⟩

theorem witness_RegisterWrites :
    let s := part 1 []
    (s.chip.carries .host = true ∧ s.chip.booting = false ∧ s.chip.inDark = false) ∧
    ((part 1 [(SYS_STATUS_BOOT, 1)]).chip.booting = true ∧ (part 0 []).chip.inDark = true ∧ writeOpen BEACON_CTL = false) ∧
    (SYS_PWR_TARGET.read 3 = 3 ∧ RNG_CMD_RETRAIN.read 1 = 1) ∧
    (∃ r, s.chip.plainRow s.nv .host r BEACON_CTL 1 ∧ r.rw ≠ 0) ∧
    (∃ r, s.chip.plainRow s.nv .host r SYS_ID 1 ∧ r.rw = 0 ∧ r.wo = 0 ∧ r.w1c = 0) ∧
    (findRow 0x0A0A40 = none ∧ cueWord 0x0A0A40 = none) := by
  refine ⟨by decide +kernel, by decide +kernel, by decide +kernel,
    ⟨(findRow BEACON_CTL).get (by decide +kernel), ⟨by decide +kernel, (Option.some_get _).symm, by decide +kernel⟩, by decide +kernel⟩,
    ⟨(findRow SYS_ID).get (by decide +kernel), ⟨by decide +kernel, (Option.some_get _).symm, by decide +kernel⟩, by decide +kernel⟩,
    by decide +kernel⟩

theorem witness_LogWindow :
    let s := part 1 []
    (s.chip.carries .host = true ∧ s.chip.booting = false ∧ s.chip.inDark = false) ∧ s.chip.load.stage ≠ .held ∧
    hostOk (hostFrame 1 0x037FFC 0) = true ∧ (hostFrame 1 0x037FFC 0).addr.toNat = 0x030000 + 32 * 1023 + 4 * 7 ∧
    s.chip.readOpen 0x037FFC = true ∧ s.chip.held .host 0x037FFC = none := by decide +kernel

theorem witness_StepRunsTheQueueHead : State.reset.pending = [] := rfl

theorem witness_FusesNeverClear : ∃ t, step { part 1 [] with pending := [.otpLock .host 3 false] } = .next t := ⟨_, rfl⟩

theorem witness_StoresStayCanonical :
    (part 1 []).nv.wf = true ∧ ∃ t, step { part 1 [] with pending := [.otpLock .host 3 false] } = .next t := ⟨by decide, _, rfl⟩

theorem witness_LowestReasonIsReported :
    (∀ x ∈ [(true, Reason.state), (true, .range)], x.2 ≠ .ok) ∧ ∃ x ∈ [(true, Reason.state), (true, .range)], x.1 = true := by
  decide

theorem witness_HomeNeedsASensor :
    let s := part 3 [(AX_SRC_PRI 0, 5)]
    (s.chip.carries .host = true ∧ s.chip.booting = false ∧ s.chip.inDark = false) ∧ s.chip.usesSensorless 0 = true := by
  decide +kernel

theorem witness_BeaconFollowsLevel :
    (part 1 []).chip.load.stage ≠ .held ∧ (part 1 []).chip.flag BEACON_CTL_PULSING = false ∧
    State.reset.chip.load.stage = .held := by decide +kernel

/-! ### One step against the spec's own figures -/

/-- The chip after a command. -/
def after (i : Instr) (s : State) : Chip := match exec i s with | .next t => t.chip | _ => s.chip

/-- A close of SL3 after 3,125 clocks from a fine code. -/
def closing3 (f : Int) : State := atTick 12500 (slice 3 { running := true, reqSched := true, fStart := f } (part 2 []))

/-- Table 5-3, window 2: 3,125 packets from fine code 179, r = 75.700 at the close (floor(256 r) = 19,379). -/
theorem test_windowClose_overRange :
    let c := after (.windowClose 3 ⟨⟨3125, 19379, 0, 0⟩, ⟨0, 0, 0, 0⟩⟩) (closing3 179)
    (c.slice 3).closed.count = 800076 ∧ (c.slice 3).closed.ovr = true ∧ (c.slice 3).excess = 19124 := by decide +kernel

/-- Table 5-3, window 3: 575 packets, f = 255 before and 179 at the close. -/
theorem test_windowClose_drains :
    let c := after (.windowClose 3 ⟨⟨575, 179, 0, 0⟩, ⟨0, 0, 0, 0⟩⟩) (closing3 255)
    (c.slice 3).closed.count = 147124 ∧ (c.slice 3).closed.ovr = false ∧ (c.slice 3).excess = 0 := by decide +kernel

/-- Table 6-3: an ABZ group with MIN_EDGE 5 at count 1,000, in SERVICE (1) or RECOVER (3). -/
def abz (state : Nat) (lines : BitVec 3) (count last now : Nat) : State :=
  alter (port 0 { lines := lines, linesKnown := true, anyEdge := true, lastEdge := last } (lead 0 1 [(FP_STAT_PSTATE 0, state), (FP_CPR_CPR 0, 4096),
    (FP_CHK_MIN_EDGE 0, 5), (FP_POS_COUNT 0, count)])) fun c => { c with now := now, wall := now }

/-- Table 6-3, tick 102: in SERVICE an edge 2 ticks after the last is an edge fault, in RECOVER it moves back. -/
theorem test_portEdge_spike :
    (after (.portEdge 0 0 0) (abz 1 1 1001 100 102)).get (FP_POS_COUNT 0) = 1001 ∧
    (after (.portEdge 0 0 0) (abz 1 1 1001 100 102)).get64 (FP_LEF 0) = 1 ∧
    (after (.portEdge 0 0 0) (abz 3 1 1001 100 102)).get (FP_POS_COUNT 0) = 1000 := by decide +kernel

/-- Table 6-3, tick 300: a joint change of A and B is two edge faults in SERVICE, two illegal edges in RECOVER. -/
theorem test_portEdge_joint :
    (after (.portEdge 0 2 0) (abz 1 1 1002 200 300)).get64 (FP_LEF 0) = 2 ∧
    (after (.portEdge 0 2 0) (abz 3 1 1001 200 300)).get64 (FP_LIL 0) = 2 ∧
    (after (.portEdge 0 2 0) (abz 3 1 1001 200 300)).get (FP_POS_COUNT 0) = 1001 := by decide +kernel

/-- Table 7-7: the gap after the twelfth pulse, at 330 °e, whose response is 12,190; the largest lies at 120 °e with a margin of
860, THR 400: open loop in sector 4. -/
theorem test_ipdPulse_detects :
    let l : List Int := [12220, 12300, 12450, 12760, 13040, 12810, 12480, 12310, 12230, 12195, 12180]
    let q : Vector (Int × Bool) 3 := #v[(9143, true), (-9142, true), (7, true)]
    let x : AxisState := { ipdDone := l, ipdWidth := 20, ipdTo := some 0, ipdCharge := q }
    let c := after (.ipdPulse 2 11 true) (atTick 25000 (axis 2 x (part 3
      [(AX_COMCFG_EN 2, 1), (AX_SRCSTAT_START 2, 1), (AX_IPD_THR 2, 400), (AX_IPD_GAP 2, 10)])))
    c.startOf 2 = 2 ∧ c.get (AX_SRCSTAT_SECTOR 2) = 4 := by decide +kernel

/-- Table 9-2, tick 50,537: the check expires, V_REGEN_CUT in force becomes V_CHOP. -/
theorem test_chopperCheckExpiry :
    let c := after (.chopperCheckExpiry 0) (atTick 50537 (bus 0 { chk := some (-200, 5600), chkTick := 50037 } (busPart [(BUS_STAT_CHOP_ON 0, 1),
      (BUS_VTH_V_CHOP 0, 112), (BUS_FAST_V 0, 5600)])))
    c.get (BUS_STAT_VCUT_LIVE 0) = 112 ∧ c.flag (BUS_STAT_CHOPF 0) = true ∧ c.flag (BUS_STAT_CUT 0) = true ∧
    c.flag (BUS_STAT_CHOP_ON 0) = false := by decide +kernel

/-- Table 11-5, tick 9,500,000: 0x8C reaches N = 3 with code 2 while 0x10 has code 4: 0x10 is captured. -/
theorem test_collector_arbitration :
    let s := alter (part 3 [(AX_COMCFG_EN 1, 1), (FLT_CFG_N 0x8C, 3), (FLT_CFG_CODE 0x8C, 2), (FLT_SRC_WCNT 0x8C, 2),
      (FLT_CFG_N 0x10, 1), (FLT_CFG_CODE 0x10, 4)]) fun c =>
        { c with now := 9500000, wall := 9500000, faults := { c.faults with
          windows := [(0x8C, 9450000)], events := [⟨0x8C, 1, 0, 0, false⟩, ⟨0x10, 1, 0, 0, false⟩] } }
    let c := after .faultCollectorTick s
    c.get FLT_FIRST_SRC = 0x10 ∧ c.get FLT_FIRST_CODE = 4 ∧ c.get FLT_FIRST_SAME_TICK = 1 ∧ c.severe 0x8C = true ∧
    c.modeOf 1 = 0 ∧ c.get (AX_MSTAT_REACTED 1) = 1 ∧ c.legReact 4 = 2 := by decide +kernel

/-- The example of R52: an IRQ at 0x0000_0800 is 6,144 counts from a PORT_SET at 0xFFFF_F000 and is refused with DENSITY. -/
theorem test_cueEntrySubmit_density :
    let s := part 1 (outPort 5 ++ [(CUE_TB_VMAX_VMAX 8, 2864), (CUE_TB_STAT_STALE 8, 0)])
    let s := alter s fun c => (c.setCue 10 ((0x43010005 : Word) ++ (0xFFFFF000 : Word))).setCueHold .host 0x800
    let c := after (.cueEntrySubmit .host 11 0x430A0000) s
    c.get CUE_STATUS_REASON = Reason.density.toNat ∧ c.cue 11 = 0 ∧ c.get CUE_NEIGHBOUR_ENTRY = 10 := by decide +kernel

/-- The example of R54: a cue on TB20 at 0x0001_0000 written in the tick 0x0001_0003 is BEHIND and admitted. -/
theorem test_cueEntrySubmit_behind :
    let s := alter (part 1 [(CUE_TB_CFG_RUN 20, 0), (CUE_TB_STAT_DIRN 20, 0)]) fun c =>
      ({ c with wall := 0x10003 }.setTb 20 { val := 0x10003 }).setCueHold .host 0x10000
    let c := after (.cueEntrySubmit .host 0 0xA30A0000) s
    c.get CUE_STATUS_REASON = 0 ∧ c.get CUE_STATUS_BEHIND = 1 := by decide +kernel

/-- The example of chapter 16: 0x0B_0D5C is not listed, and a read of it returns 0 and is one event of ACCESS. -/
theorem test_read_reserved :
    let c := after (.read (hostFrame 1 0x0B0D5C 0)) (part 1 [])
    c.hp.data = 0 ∧ c.faults.events = [⟨0xF2, 1, 0, 0, false⟩] ∧ c.get FLT_ACCA_ADDR = 0x0B0D5C := by decide +kernel

/-- The vote of R320 with nothing programmed: BUILD, no ambiguity, the tick at 0 and no image admitted. -/
theorem test_nresetRise :
    let c := after (.nresetRise []) State.reset
    c.get SYS_STATUS_LC = 0 ∧ c.wall = 0 ∧ c.cfgOk = false := by decide +kernel

/-- R30 and Table 2-1: TB20 holds the low word of the wall tick. -/
theorem test_timebaseSample_wall :
    let c := after (.timebaseSample []) (alter (part 1 []) fun c => { c with wall := 2 ^ 32 - 1 })
    c.wall = 2 ^ 32 ∧ (c.tb 20).val = 0 := by decide +kernel

/-- R212: a setpoint with no credit is refused with CREDIT; in OFF the lower code STATE wins (Table 0-3). -/
theorem test_setpointSubmit_reason :
    let s := showAxis [(AX_MSTAT_MODE 0, 3), (AX_STRSTAT_CREDITS 0, 0)]
    (after (.setpointSubmit .host 0 1) s).hp.reason = .credit ∧
    (after (.setpointSubmit .host 0 1) (alter s (·.put (AX_MSTAT_MODE 0) 0))).hp.reason = .state := by decide +kernel

/-- R110: a length is due at the close of the window in progress, and that window's successor carries SETL. -/
theorem test_windowClose_newLength :
    let s := atTick 300 (slice 6 { running := true, reqSched := true, lenDue := true } (part 2 [(SL_CFG_CLOSE 6, 2), (SL_WLEN_WLEN 6, 300)]))
    let c := after (.windowClose 6 ⟨⟨1, 0, 0, 0⟩, ⟨0, 0, 0, 0⟩⟩) s
    (c.slice 6).wlen = 300 ∧ (c.slice 6).settle = 1 ∧ (c.slice 6).lenDue = false := by decide +kernel

/-- R321, R326: OTP_LOCK of area 3 burns its byte in words 3 to 5, one word a verify. -/
theorem test_otpLock :
    let s := { part 1 [(OTP_STATUS_LOCK, 0)] with pending := [.otpLock .host 3 false, .otpVerify ⟨0xFF000000, 0xFF000000, 0xFF000000, true, false⟩] }
    (match core.run 2 s with
    | .next t => t.nv.fuse 3 == 0xFF000000 && t.nv.fuse 4 == 0 && t.chip.get OTP_STATUS_BUSY == 1
    | _ => false) = true := by decide +kernel

/-- R11: STATE before RANGE; the request has no other effect. -/
theorem test_home_sensorless :
    let s := showAxis [(AX_SRC_PRI 0, 5)]
    (after (.home .host 0 false) s).hp.reason = .state ∧ (after (.home .host 0 false) s).regs = s.chip.regs := by decide +kernel

/-- R153 to R155: the emulation steps one count per edge. -/
theorem test_emuEdge :
    let e := alter (lead 0 5 [(FP_EMU_SRC 0, 16), (CUE_TB_STAT_STALE 16, 0)]) (·.put64 (FP_OWED 0) (-1))
    (after (.emuEdge 0) e).get64 (FP_EMIT 0) = 2 ^ 64 - 1 ∧ (after (.emuEdge 0) e).owed 0 = 0 := by decide +kernel

/-- Table 10-6: TS3 with the limits 90 and 120 °C at 102, 104 and 114 °C. -/
theorem test_sensorDf :
    State.reset.chip.sensorDf 3 (16 * 102) = 2457 ∧ State.reset.chip.sensorDf 3 (16 * 104) = 2184 ∧
    State.reset.chip.sensorDf 3 (16 * 114) = 819 := by decide +kernel

/-- Table 8-5: the master steps from 999,700 to 1,000,300 and a cue at 1,000,000 changes the slot: +236 counts, 1 of 7 left. -/
theorem test_gearFire_splits :
    let f : Fire := ⟨0, BitVec.ofNat 64 1000000, 16, 9, 9, 999700, 1000300, 0⟩
    let x : AxisState := { gearRem0 := 1, gearSteps := [⟨9, 600, []⟩] }
    let s := axis 3 x (part 3 [(AX_GSLOT_NUM 3 0, 3), (AX_GSLOT_DEN 3 0, 2), (AX_GSLOT_NUM 3 1, 0xFFFB), (AX_GSLOT_DEN 3 1, 7)])
    (s.chip.gearFire 3 f 1).gearNow 3 = (236, 1, 1) := by decide +kernel

end Sys2Proof.Tests
end

section
/-! SUPPORT. What `judge` reports of the refusing conditions that a request meets (R11), and the statement about it. -/
namespace Sys2Proof.Machine

/-! ### The reason judged -/

/-- A condition that is not met is passed over. -/
@[simp] theorem judge_cons_false (r : Reason) (l : List (Bool × Reason)) : judge ((false, r) :: l) = judge l := by
  simp [judge]

/-- A condition that is met gives its reason unless a later one has a nonzero code no higher. -/
theorem judge_cons_true (r : Reason) (l : List (Bool × Reason)) :
    judge ((true, r) :: l) = if judge l = .ok ∨ r.toNat < (judge l).toNat then r else judge l := by
  simp [judge]

/-- A reason that refuses belongs to a condition that is met. -/
theorem judge_mem {l : List (Bool × Reason)} (h : judge l ≠ .ok) : (true, judge l) ∈ l := by
  induction l with
  | nil => exact absurd rfl h
  | cons x l ih =>
    match x with
    | (false, r) =>
      rw [judge_cons_false] at h ⊢
      exact List.mem_cons_of_mem _ (ih h)
    | (true, r) =>
      rw [judge_cons_true] at h ⊢
      split
      · exact List.mem_cons_self
      next later => exact List.mem_cons_of_mem _ (ih fun hok => later (.inl hok))

/-- One induction gives both halves: `judge` reads the code 0 of the rest of the list as no condition met there, so the bound
passes on only together with the refusal. -/
theorem judge_ne_ok_and_le_of_mem {l : List (Bool × Reason)} {r : Reason} (hl : ∀ x ∈ l, x.2 ≠ .ok) (h : (true, r) ∈ l) :
    judge l ≠ .ok ∧ (judge l).toNat ≤ r.toNat := by
  induction l with
  | nil => exact absurd h List.not_mem_nil
  | cons x l ih =>
    obtain ⟨hx, hl⟩ := List.forall_mem_cons.mp hl
    obtain rfl | hmem := List.mem_cons.mp h
    · rw [judge_cons_true]
      split
      · exact ⟨hx, le_rfl⟩
      next later => exact ⟨fun hok => later (.inl hok), not_lt.mp fun hlt => later (.inr hlt)⟩
    · obtain ⟨hne, hle⟩ := ih hl hmem
      match x with
      | (false, q) => exact judge_cons_false q l ▸ ⟨hne, hle⟩
      | (true, q) =>
        rw [judge_cons_true]
        split
        next lower => exact ⟨hx, (lower.resolve_left hne).le.trans hle⟩
        · exact ⟨hne, hle⟩

end Sys2Proof.Machine

open Sys2Proof.Machine

/-- Settles O58: what `judge` returns is one of the conditions met and no higher than any of them. -/
theorem lowestReasonIsReported : Obligations.LowestReasonIsReported := by
  intro c l f hl
  constructor
  · intro none_met
    exact c.request_ok l f (judge_ok l none_met)
  · rintro ⟨⟨_, r⟩, hr, rfl⟩
    have refused : judge l ≠ .ok := (judge_ne_ok_and_le_of_mem hl hr).1
    refine ⟨judge l, c.request_refused l f refused, refused, judge_mem refused, ?_⟩
    rintro ⟨_, q⟩ hq rfl
    exact (judge_ne_ok_and_le_of_mem hl hq).2
end

section
/-! SUPPORT. What driving an output port sets and leaves, and which firing a row of a port action carries out (R38, Table 2-3);
and the statement about the port actions. -/
namespace Sys2Proof.Machine

variable (c : Chip)

/-! ### A firing carried out alone -/

@[simp] theorem Chip.endFire_cues (f : Fire) :
    (c.endFire f).cues = { c.cues with fires := c.cues.fires.erase f } := rfl
@[simp] theorem Chip.endFire_regs (f : Fire) : (c.endFire f).regs = c.regs := rfl
@[simp] theorem Chip.port_endFire (f : Fire) (p : Port) : (c.endFire f).port p = c.port p := rfl
@[simp] theorem Chip.portIsOut_endFire (f : Fire) (p : Nat) : (c.endFire f).portIsOut p = c.portIsOut p := rfl

/-- A firing that waits alone for a row has the row's action. -/
theorem Chip.cueAction_of_firesOf {c : Chip} {k : EntryIx} {n : Nat} {f : Fire} (hf : c.firesOf k n = [f]) :
    cueAction f.cue = n := by
  unfold Chip.firesOf at hf
  split at hf
  next dark => cases hf
  next lit =>
    split at hf
    next none_waits => cases hf
    next g found =>
      have hgf : g = f := (List.append_eq_singleton_iff.mp hf).elim
        (fun h => List.singleton_inj.mp h.2) (fun h => absurd h.2 (List.cons_ne_nil g []))
      have hg := List.find?_some found
      simp only [Bool.and_eq_true, beq_iff_eq] at hg
      exact hgf ▸ hg.1.2

theorem Chip.fireCue_of_firesOf {c : Chip} {k : EntryIx} {n : Nat} {f : Fire} (hf : c.firesOf k n = [f]) :
    c.fireCue k n = c.carryOut f := by
  simp [Chip.fireCue, Chip.each, hf]

theorem Chip.carryOut_of_fireAble {c : Chip} {f : Fire} (h : (c.endFire f).fireAble f = true) :
    c.carryOut f = (c.endFire f).fireEffect f := if_pos h

/-! ### Driving an output port -/

theorem FP_STAT_LEVEL_ok (p : Nat) : (FP_STAT_LEVEL p).ok := Field.ok_of _ rfl

section
variable (p : Port) (high : Bool) (u : Option Nat)

@[simp] theorem Chip.driveOut_level : (c.driveOut p high u).get (FP_STAT_LEVEL p.val) = high.toNat :=
  c.get_put_lt _ (FP_STAT_LEVEL_ok p.val) _ high.toNat_lt
@[simp] theorem Chip.driveOut_pulseEnd : ((c.driveOut p high u).port p).pulseEnd = u := by
  simp [Chip.driveOut]
@[simp] theorem Chip.driveOut_cues : (c.driveOut p high u).cues = c.cues := rfl

theorem OnePort.driveOut {b c : Chip} {p : Port} (h : OnePort p b c) : OnePort p b (c.driveOut p high u) :=
  fun q hq => (Chip.port_setPort_ne _ p _ hq).trans (h q hq)

theorem FieldsBut.driveOut {b c : Chip} {p : Port} (h : FieldsBut [FP_STAT_LEVEL p.val] b c) :
    FieldsBut [FP_STAT_LEVEL p.val] b (c.driveOut p high u) :=
  (h.putF _ high (FP_STAT_LEVEL_ok p.val) List.mem_cons_self).of_regs rfl

end

/-! ### The port actions -/

/-- A port action whose port is an output takes effect (R39). -/
theorem Chip.carryOut_portFire {c : Chip} {f : Fire} (ha : cueAction f.cue = 1 ∨ cueAction f.cue = 2 ∨ cueAction f.cue = 3)
    (out : c.portIsOut (firePort f).val = true) : c.carryOut f = (c.endFire f).portFire f := by
  have able : (c.endFire f).fireAble f = (c.endFire f).portIsOut (firePort f).val := by
    rcases ha with ha | ha | ha <;> simp only [Chip.fireAble, ha]
  have effect : (c.endFire f).fireEffect f = (c.endFire f).portFire f := by
    rcases ha with ha | ha | ha <;> simp only [Chip.fireEffect, ha]
  rw [Chip.carryOut_of_fireAble (able.trans ((c.portIsOut_endFire f _).trans out)), effect]

theorem Chip.portFire_set {f : Fire} (ha : cueAction f.cue = 1) : c.portFire f = c.driveOut (firePort f) true none := by
  simp only [Chip.portFire, ha]

theorem Chip.portFire_clr {f : Fire} (ha : cueAction f.cue = 2) : c.portFire f = c.driveOut (firePort f) false none := by
  simp only [Chip.portFire, ha]

theorem Chip.portFire_pulse {f : Fire} (ha : cueAction f.cue = 3) :
    c.portFire f = c.driveOut (firePort f) true (some (c.now + cueArg f.cue / 32)) := by
  simp only [Chip.portFire, ha]

theorem Chip.portPulseEnd_due {c : Chip} {p : Port} {t : Nat} (running : (c.port p).pulseEnd = some t) (due : t ≤ c.now + 1) :
    c.portPulseEnd p = c.driveOut p false none := by
  simp only [Chip.portPulseEnd, running, if_pos due]

/-- A row of a port action that carries out one firing changes the level of the port, its pulse and the firing, and nothing
else. -/
theorem completes_portAction {i : Instr} {s : State} {k : EntryIx} {n : Nat} {f : Fire} (high : Bool) (u : Option Nat)
    (row : exec i s = s.run fun c => c.fireCue k n) (hf : s.chip.firesOf k n = [f]) (hn : n = 1 ∨ n = 2 ∨ n = 3)
    (out : s.chip.portIsOut (firePort f).val = true)
    (drives : cueAction f.cue = n → (s.chip.endFire f).portFire f = (s.chip.endFire f).driveOut (firePort f) high u) :
    Completes i s fun c =>
      c.get (FP_STAT_LEVEL (firePort f).val) = high.toNat ∧ (c.port (firePort f)).pulseEnd = u ∧ FiredOnly s f c ∧
      c = { s.chip with regs := c.regs, ports := c.ports, cues := c.cues } ∧
      FieldsBut [FP_STAT_LEVEL (firePort f).val] s.chip c ∧ OnePort (firePort f) s.chip c := by
  have ha : cueAction f.cue = n := Chip.cueAction_of_firesOf hf
  have fired : s.chip.fireCue k n = (s.chip.endFire f).driveOut (firePort f) high u := by
    rw [Chip.fireCue_of_firesOf hf, Chip.carryOut_portFire (ha ▸ hn) out, drives ha]
  have ended : FieldsBut [FP_STAT_LEVEL (firePort f).val] s.chip (s.chip.endFire f) :=
    (FieldsBut.refl _ s.chip).of_regs (s.chip.endFire_regs f)
  refine ⟨(s.chip.endFire f).driveOut (firePort f) high u, ?_, Chip.driveOut_level .., Chip.driveOut_pulseEnd ..,
    (Chip.driveOut_cues ..).trans (s.chip.endFire_cues f), rfl, ended.driveOut high u,
    OnePort.driveOut high u fun q _ => s.chip.port_endFire f q⟩
  rw [row, State.run_eq, fired]

/-- PORT_PULSE_END of a pulse whose width has run changes the level of the port and its pulse, and nothing else. -/
theorem completes_portPulseEnd {s : State} {p : Port} {t : Nat} (running : (s.chip.port p).pulseEnd = some t)
    (due : t ≤ s.chip.now + 1) :
    Completes (.portPulseEnd p) s fun c =>
      c.get (FP_STAT_LEVEL p.val) = 0 ∧ (c.port p).pulseEnd = none ∧
      c = { s.chip with regs := c.regs, ports := c.ports } ∧
      FieldsBut [FP_STAT_LEVEL p.val] s.chip c ∧ OnePort p s.chip c := by
  refine ⟨s.chip.driveOut p false none, ?_, Chip.driveOut_level .., Chip.driveOut_pulseEnd .., rfl,
    (FieldsBut.refl _ s.chip).driveOut false none, OnePort.driveOut false none fun _ _ => rfl⟩
  rw [show exec (.portPulseEnd p) s = s.run fun c => c.portPulseEnd p from rfl, State.run_eq,
    Chip.portPulseEnd_due running due]

end Sys2Proof.Machine

open Sys2Proof.Machine

/-- Settles O5: each action's one firing, and the end of a pulse, come to one `driveOut` of the port. -/
theorem portActions : Obligations.PortActions := by
  refine ⟨?set, ?clr, ?pulse, fun _ _ _ => completes_portPulseEnd⟩
  case set =>
    intro s k f hf out
    exact completes_portAction true none rfl hf (.inl rfl) out (Chip.portFire_set _)
  case clr =>
    intro s k f hf out
    exact completes_portAction false none rfl hf (.inr (.inl rfl)) out (Chip.portFire_clr _)
  case pulse =>
    intro s k f hf out
    exact completes_portAction true (some (s.chip.now + cueArg f.cue / 32)) rfl hf (.inr (.inr rfl)) out
      (Chip.portFire_pulse _)
end

section
/-! SUPPORT. What the fault collector leaves alone: commanding the legs sets no register, and the rest sets registers that do
not hold BEACON_CTL, or the PULSING bit beside LEVEL (R289, R290); and the statement about BEACON and LEVEL. -/
namespace Sys2Proof.Machine

variable (c : Chip)

/-! ### Frames over a list of operations -/

/-- What every operation of a list keeps, the list keeps. -/
theorem Chip.each_keeps {α : Type} {P : Chip → Prop} {c : Chip} {f : Chip → α → Chip} (l : List α) (hc : P c)
    (hf : ∀ d, P d → ∀ x ∈ l, P (f d x)) : P (c.each l f) :=
  List.foldlRecOn l f hc hf

/-- A field of a register that keeps its word keeps its value. -/
theorem RegsBut.get {l : List Nat} {b c : Chip} (h : RegsBut l b c) {g : Field} (hg : g.addr ∉ l) : c.get g = b.get g :=
  congrArg g.read (h g.addr hg)

theorem RegsBut.ite {l : List Nat} {a b c : Chip} {p : Prop} [Decidable p] (hb : RegsBut l a b) (hc : RegsBut l a c) :
    RegsBut l a (if p then b else c) := by
  split
  · exact hb
  · exact hc

theorem RegsBut.bump {l : List Nat} {a b : Chip} (h : RegsBut l a b) (f : Field) (n : Nat) (hx : f.addr ∈ l) :
    RegsBut l a (b.bump f n) := (h.put f _ hx).of_regs rfl

theorem RegsBut.mark {l : List Nat} {a b : Chip} (h : RegsBut l a b) (f : Field) (hx : f.addr ∈ l) :
    RegsBut l a (b.mark f) := (h.put f 1 hx).of_regs rfl

theorem RegsBut.markIf {l : List Nat} {a b : Chip} (h : RegsBut l a b) (v : Bool) (f : Field) (hx : f.addr ∈ l) :
    RegsBut l a (b.markIf v f) := by
  cases v
  · exact h
  · exact h.mark f hx

/-! ### Commanding the legs sets no register -/

@[simp] theorem Chip.each_regs {α : Type} {f : Chip → α → Chip} (l : List α) (hf : ∀ d x, (f d x).regs = d.regs) :
    (c.each l f).regs = c.regs :=
  Chip.each_keeps (P := fun d => d.regs = c.regs) l rfl fun d hd x _ => (hf d x).trans hd

@[simp] theorem Chip.askGate_regs (l : Leg) (g : Gate) : (c.askGate l g).regs = c.regs := by
  cases g <;> simp only [Chip.askGate, apply_ite Chip.regs, Chip.setLeg_regs, ite_self]

@[simp] theorem Chip.gates_regs (l : Leg) (g : Option Gate) : (c.gates l g).regs = c.regs := by
  cases g with
  | none => rfl
  | some g => simp only [Chip.gates, Chip.askGate_regs, Chip.setLeg_regs]

@[simp] theorem Chip.underLine_regs (l : Leg) (g : Option Gate) : (c.underLine l g).regs = c.regs := c.gates_regs l g

@[simp] theorem Chip.obeyLeg_regs (l : Leg) : (c.obeyLeg l).regs = c.regs := by
  unfold Chip.obeyLeg
  dsimp only
  split
  next no_line =>
    split
    next => rfl
    split
    next => exact c.gates_regs l none
    split
    next float => exact c.gates_regs l none
    next low => exact c.gates_regs l (some .low)
    next pwm => simp only [apply_ite Chip.regs, Chip.gates_regs, ite_self]
  next short => exact c.underLine_regs l (some .low)
  next off => exact c.underLine_regs l none

@[simp] theorem Chip.obeyLines_regs : c.obeyLines.regs = c.regs := c.each_regs allLegs Chip.obeyLeg_regs

@[simp] theorem Chip.sendSetting_regs (l : Leg) (g : LegSetting) : (c.sendSetting l g).regs = c.regs := by
  unfold Chip.sendSetting; split <;> rfl

@[simp] theorem Chip.sendDuty_regs (l : Leg) (on : BitVec 17) : (c.sendDuty l on).regs = c.regs := by
  unfold Chip.sendDuty; split <;> rfl

@[simp] theorem Chip.want_regs (l : Leg) (m : LegMode) (on : BitVec 17) (s : Option Slew) :
    (c.want l m on s).regs = c.regs := by
  simp only [Chip.want, apply_ite Chip.regs, Chip.sendDuty_regs, Chip.sendSetting_regs, Chip.setLeg_regs, ite_self]

@[simp] theorem Chip.floatAxis_regs (a : Axis) : (c.floatAxis a).regs = c.regs :=
  (Chip.setAxis_regs ..).trans (c.each_regs (legsOf a) fun d l => d.want_regs l .float 0 none)

@[simp] theorem Chip.each_newSeries_regs (now : Bool) (l : List Leg) :
    (c.each l fun c k => c.newSeries now k).regs = c.regs := c.each_regs l fun _ _ => rfl

/-! ### An axis that enters OFF, and a fire curtain -/

/-- The registers that an axis entering OFF sets: its modes, its stream's state and its start's state (R204). -/
def offRegs (a : Axis) : List Nat := [AX_MSTAT a.val, AX_STRSTAT a.val, AX_SRCSTAT a.val]

theorem AX_STRSTAT_mem_offRegs (a : Axis) : AX_STRSTAT a.val ∈ offRegs a := List.mem_cons_of_mem _ List.mem_cons_self

theorem AX_SRCSTAT_mem_offRegs (a : Axis) : AX_SRCSTAT a.val ∈ offRegs a :=
  List.mem_cons_of_mem _ (List.mem_cons_of_mem _ List.mem_cons_self)

theorem Chip.flushStream_regsBut (a : Axis) : RegsBut (offRegs a) c (c.flushStream a) :=
  ((((RegsBut.refl _ c).put (AX_STRSTAT_CREDITS a.val) 64 (AX_STRSTAT_mem_offRegs a)).put
    (AX_MSTAT_HELD a.val) 0 List.mem_cons_self).put (AX_MSTAT_PEND a.val) 0 List.mem_cons_self).of_regs rfl

theorem Chip.leaveMode_regsBut (a : Axis) (homeCode : Nat) : RegsBut (offRegs a) c (c.leaveMode a homeCode) := by
  have streamed : RegsBut (offRegs a) c (if c.modeOf a == 3 then c.flushStream a else c) :=
    (c.flushStream_regsBut a).ite (RegsBut.refl _ c)
  unfold Chip.leaveMode
  exact ((streamed.put (AX_MSTAT_HOME a.val) _ List.mem_cons_self).ite streamed).of_regs (Chip.setAxis_regs ..)

theorem Chip.enterOff_regsBut (a : Axis) (homeCode : Nat) : RegsBut (offRegs a) c (c.enterOff a homeCode) := by
  have left : RegsBut (offRegs a) c (((c.leaveMode a homeCode).put (AX_MSTAT_MODE a.val) 0).endStart a) :=
    (((c.leaveMode_regsBut a homeCode).put (AX_MSTAT_MODE a.val) 0 List.mem_cons_self).put (AX_SRCSTAT_START a.val) 0
      (AX_SRCSTAT_mem_offRegs a)).of_regs rfl
  unfold Chip.enterOff
  refine (RegsBut.refl _ c).ite (RegsBut.ite (left.of_regs ?_) (left.of_regs ?_))
  · exact (Chip.each_newSeries_regs ..).trans (Chip.setAxis_regs ..)
  · exact (Chip.floatAxis_regs ..).trans ((Chip.each_newSeries_regs ..).trans (Chip.setAxis_regs ..))

theorem Chip.reactOff_regsBut (a : Axis) : RegsBut (offRegs a) c (c.reactOff a) :=
  (c.enterOff_regsBut a 5).put (AX_MSTAT_REACTED a.val) 1 List.mem_cons_self

theorem Chip.chopStop_regsBut (r : Region) : RegsBut [BUS_STAT r.val] c (c.chopStop r) := by
  unfold Chip.chopStop
  split
  · exact ((RegsBut.refl _ c).put (BUS_STAT_CHOP_ON r.val) 0 List.mem_cons_self).of_regs rfl
  · exact RegsBut.refl _ c

/-! ### Counting, windows, records and the range's queue -/

theorem Chip.countEvent_regsBut (e : Event) : RegsBut [FLT_CNT e.src, FLT_SRC e.src] c (c.countEvent e) :=
  (((RegsBut.refl _ c).bump (FLT_CNT_EVENTS e.src) _ List.mem_cons_self).markIf _ (FLT_SRC_SAT e.src)
    (by simp [FLT_SRC_SAT])).markIf _ (FLT_SRC_INJ e.src) (by simp [FLT_SRC_INJ])

theorem Chip.closeWindow_regsBut (s : Nat) : RegsBut [FLT_SRC s] c (c.closeWindow s) :=
  ((RegsBut.refl _ c).put (FLT_SRC_WCNT s) 0 List.mem_cons_self).of_regs rfl

theorem Chip.countWindow_regsBut (s n : Nat) : RegsBut [FLT_SRC s] c (c.countWindow s n) := by
  unfold Chip.countWindow
  refine RegsBut.put ?_ (FLT_SRC_WCNT s) n List.mem_cons_self
  split
  · exact RegsBut.refl _ c
  · exact (c.closeWindow_regsBut s).of_regs rfl

theorem Chip.judgeSource_regsBut (x : Chip × List Latch) (e : Event) :
    RegsBut [FLT_SRC e.src] x.1 (Chip.judgeSource x e).1 := by
  unfold Chip.judgeSource
  dsimp only
  split
  next already => exact RegsBut.refl _ x.1
  split
  next severe => exact x.1.closeWindow_regsBut e.src
  next counted => exact x.1.countWindow_regsBut e.src _

theorem Chip.logArise_regsBut (type : Nat) (p4 p5 p6 : Word) : RegsBut [LOG_STATUS] c (c.logArise type p4 p5 p6) := by
  unfold Chip.logArise
  dsimp only
  split
  · exact (RegsBut.refl _ c).of_regs rfl
  split
  · exact ((RegsBut.refl _ c).put LOG_STATUS_PENDING _ List.mem_cons_self).of_regs rfl
  · exact ((RegsBut.refl _ c).bump LOG_STATUS_PLOST 1 List.mem_cons_self).of_regs rfl

theorem Chip.propagate_regsBut (x : Latch) : RegsBut [RNG_STAT] c (c.propagate x) := by
  have overflow : RegsBut [RNG_STAT] c (c.mark RNG_STAT_FQOVF) := (RegsBut.refl _ c).mark RNG_STAT_FQOVF List.mem_cons_self
  unfold Chip.propagate
  dsimp only
  split
  · exact RegsBut.refl _ c
  split
  · exact (RegsBut.refl _ c).of_regs rfl
  split
  · split
    · exact overflow.of_regs rfl
    · exact overflow
  · exact overflow

/-! ### LEVEL of BEACON_CTL -/

/-- The two chips have the same LEVEL. -/
def SameLevel (b c : Chip) : Prop := c.get BEACON_CTL_LEVEL = b.get BEACON_CTL_LEVEL

theorem SameLevel.refl : SameLevel c c := rfl

theorem SameLevel.trans {a b c : Chip} (h : SameLevel a b) (k : SameLevel b c) : SameLevel a c := Eq.trans k h

theorem SameLevel.of_regs {a b c : Chip} (h : SameLevel a b) (k : c.regs = b.regs) : SameLevel a c :=
  h.trans ((RegsBut.refl [] b).of_regs k |>.get List.not_mem_nil)

/-- The collector's own state holds no register. -/
theorem SameLevel.with_faults {a b : Chip} (h : SameLevel a b) (x : FaultState) : SameLevel a { b with faults := x } := h

/-- A change of other registers than BEACON_CTL leaves LEVEL. -/
theorem RegsBut.sameLevel {l : List Nat} {b c : Chip} (h : RegsBut l b c) (hl : BEACON_CTL ∉ l) : SameLevel b c := h.get hl

theorem SameLevel.ite {a b c : Chip} {p : Prop} [Decidable p] (hb : SameLevel a b) (hc : SameLevel a c) :
    SameLevel a (if p then b else c) := by
  split
  · exact hb
  · exact hc

/-- A list of operations that each leave LEVEL leaves it. -/
theorem SameLevel.each {α : Type} {f : Chip → α → Chip} (l : List α) (hf : ∀ d, ∀ x ∈ l, SameLevel d (f d x)) :
    SameLevel c (c.each l f) :=
  Chip.each_keeps l (SameLevel.refl c) fun d hd x hx => hd.trans (hf d x hx)

theorem SameLevel.beaconPulse : SameLevel c c.beaconPulse :=
  SameLevel.of_regs (c.get_put_beside BEACON_CTL_LEVEL BEACON_CTL_PULSING 1 rfl) rfl

theorem SameLevel.beaconEnd : SameLevel c c.beaconEnd := by
  unfold Chip.beaconEnd
  split
  · exact SameLevel.refl c
  · exact c.get_put_beside BEACON_CTL_LEVEL BEACON_CTL_PULSING 0 rfl

theorem SameLevel.reactOff (a : Axis) : SameLevel c (c.reactOff a) :=
  (c.reactOff_regsBut a).sameLevel (by
    simp only [offRegs, AX_MSTAT, AX_STRSTAT, AX_SRCSTAT, BEACON_CTL, List.mem_cons, List.not_mem_nil, or_false]
    omega)

theorem SameLevel.chopStop (r : Region) : SameLevel c (c.chopStop r) :=
  (c.chopStop_regsBut r).sameLevel (by
    simp only [BUS_STAT, BEACON_CTL, List.mem_cons, List.not_mem_nil, or_false]
    omega)

theorem SameLevel.fireOff : SameLevel c c.fireOff :=
  SameLevel.each c allRegions fun d r _ => (SameLevel.chopStop d r).of_regs rfl

/-- The words of the sources stand above BEACON_CTL. -/
theorem BEACON_CTL_not_mem_sourceRegs (s : Nat) : BEACON_CTL ∉ [FLT_CNT s, FLT_SRC s] := by
  simp only [FLT_CNT, FLT_SRC, BEACON_CTL, List.mem_cons, List.not_mem_nil, or_false]
  omega

theorem SameLevel.closeWindow (s : Nat) : SameLevel c (c.closeWindow s) :=
  (c.closeWindow_regsBut s).sameLevel (List.not_mem_of_not_mem_cons (BEACON_CTL_not_mem_sourceRegs s))

theorem SameLevel.windowExpiry (x : Src) : SameLevel c (c.windowExpiry x) := by
  unfold Chip.windowExpiry
  split
  · exact SameLevel.closeWindow c x.val
  · exact SameLevel.refl c

theorem SameLevel.sampleSource (x : Chip × List Latch) (e : Event) : SameLevel x.1 (Chip.sampleSource x e).1 := by
  have counted := (x.1.countEvent_regsBut e).sameLevel (BEACON_CTL_not_mem_sourceRegs e.src)
  have judged := (Chip.judgeSource_regsBut (x.1.countEvent e, x.2) e).sameLevel
    (List.not_mem_of_not_mem_cons (BEACON_CTL_not_mem_sourceRegs e.src))
  exact counted.trans judged

theorem SameLevel.react (x : Latch) : SameLevel c (c.react x) := by
  have off (d : Chip) : SameLevel d (if 2 ≤ x.code then d.each (axesIn x.mask) Chip.reactOff else d) :=
    (SameLevel.each d _ fun e a _ => SameLevel.reactOff e a).ite (SameLevel.refl d)
  have fire (d : Chip) : SameLevel d (if x.code = 6 then d.fireOff else d) := (SameLevel.fireOff d).ite (SameLevel.refl d)
  unfold Chip.react
  exact (((SameLevel.refl c).with_faults _).trans (off _)).trans (fire _)

theorem SameLevel.logArise (type : Nat) (p4 p5 p6 : Word) : SameLevel c (c.logArise type p4 p5 p6) :=
  (c.logArise_regsBut type p4 p5 p6).sameLevel (by decide)

theorem SameLevel.propagate (x : Latch) : SameLevel c (c.propagate x) := (c.propagate_regsBut x).sameLevel (by decide)

/-- The words of the first capture stand in FLT_FIRST, FLT_FIRSTT and the eight words FLT_STVEC below BEACON_CTL. -/
theorem SameLevel.fillFirst (l : List Latch) : SameLevel c (c.fillFirst l) := by
  have vector (d : Chip) (v : List Nat) :
      SameLevel d (d.each (List.range 8) fun c k => c.setReg (FLT_STVEC k) (sourceWord v k)) :=
    SameLevel.each d _ fun e k hk => e.get_setReg_ne BEACON_CTL_LEVEL _ (by
      have : k < 8 := List.mem_range.mp hk
      simp only [FLT_STVEC, BEACON_CTL_LEVEL, BEACON_CTL]
      omega)
  have words (w : Word) (t : Int) : SameLevel c ((c.setReg FLT_FIRST w).put64 FLT_FIRSTT t) :=
    RegsBut.sameLevel (l := [FLT_FIRST, FLT_FIRSTT, FLT_FIRSTT + 4])
      ((((RegsBut.refl _ c).setReg _ _ (by simp)).setReg _ _ (by simp)).setReg _ _ (by simp)) (by decide)
  unfold Chip.fillFirst
  split
  next none_severe => exact SameLevel.refl c
  next w _ =>
    exact ((((words _ _).trans (vector _ _)).with_faults _).trans (SameLevel.beaconPulse _)).trans (SameLevel.logArise ..)

theorem SameLevel.capture1 (l : List Latch) : SameLevel c (c.capture1 l) := by
  have noted : SameLevel c (c.put FLT_FIRST_OVF 1) := c.get_put_ne BEACON_CTL_LEVEL FLT_FIRST_OVF 1 (by decide)
  unfold Chip.capture1
  exact (SameLevel.refl c).ite (((noted.trans (SameLevel.beaconPulse _)).ite noted).ite (SameLevel.fillFirst c l))

theorem SameLevel.takeSevere (l : List Latch) : SameLevel c (c.takeSevere l) := by
  have reacted : SameLevel c (c.each l Chip.react) := SameLevel.each c l fun d x _ => SameLevel.react d x
  have captured := reacted.trans (SameLevel.capture1 _ l)
  have queued := captured.trans (SameLevel.each _ l fun d x _ => SameLevel.propagate d x)
  unfold Chip.takeSevere
  exact queued.with_faults _

theorem SameLevel.sampleAll (l : List Event) (x : Chip × List Latch) : SameLevel x.1 (l.foldl Chip.sampleSource x).1 := by
  induction l generalizing x with
  | nil => exact SameLevel.refl x.1
  | cons e l ih => exact (SameLevel.sampleSource x e).trans (ih _)

/-- The collector never changes LEVEL (R290). -/
theorem SameLevel.collect : SameLevel c c.collect := by
  have sampled := SameLevel.sampleAll c.tickEvents (c, [])
  have taken (d : Chip) (l : List Latch) (b : Bool) (h : SameLevel c d) :
      SameLevel c (if b then (d.takeSevere l).obeyLines else d.takeSevere l) :=
    have severe := h.trans (SameLevel.takeSevere d l)
    (severe.of_regs (Chip.obeyLines_regs _)).ite severe
  unfold Chip.collect
  exact (SameLevel.refl c).ite (taken _ _ _ (sampled.with_faults _))

/-! ### The pin -/

theorem Chip.beaconLow_held {c : Chip} (held : c.load.stage = .held) : c.beaconLow = false := by
  simp [Chip.beaconLow, held]

theorem Chip.beaconLow_of_not_pulsing {c : Chip} (up : c.load.stage ≠ .held) (quiet : c.flag BEACON_CTL_PULSING = false) :
    c.beaconLow = c.flag BEACON_CTL_LEVEL := by
  simp [Chip.beaconLow, up, quiet]

end Sys2Proof.Machine

open Sys2Proof.Machine

/-- Settles O60: outside a pulse the pin is LEVEL by its definition, and each of the collector's rows leaves LEVEL alone: a
sampling, a severity window's end, a pulse's end. -/
theorem beaconFollowsLevel : Obligations.BeaconFollowsLevel := by
  refine ⟨fun _ => Chip.beaconLow_of_not_pulsing, by decide +kernel, ?never_changes, fun _ => Chip.beaconLow_held⟩
  intro s x i hi
  simp only [List.mem_cons, List.not_mem_nil, or_false] at hi
  rcases hi with rfl | rfl | rfl
  · exact ⟨_, rfl, SameLevel.collect s.chip⟩
  · exact ⟨_, rfl, SameLevel.windowExpiry s.chip x⟩
  · exact ⟨_, rfl, SameLevel.beaconEnd s.chip⟩
end

section
/-! SUPPORT. When a request is refused, and with STATE: a condition of the lowest code decides (R11); and the statement about
HOME with a sensorless source. -/
namespace Sys2Proof.Machine

/-! ### A refused request -/

/-- STATE has the lowest nonzero code (Table 0-3): where it applies it is reported, whatever else does. -/
theorem judge_eq_state {l : List (Bool × Reason)} (hl : ∀ x ∈ l, x.2 ≠ .ok) (h : (true, .state) ∈ l) : judge l = .state := by
  obtain ⟨refused, lowest⟩ := judge_ne_ok_and_le_of_mem hl h
  generalize judge l = r at refused lowest ⊢
  cases r with
  | ok => exact absurd rfl refused
  | state => rfl
  | _ => exact absurd lowest (by decide)

/-- A part that serves the path judges a request by the request's own rules. -/
theorem Chip.ask_of_serves {c : Chip} {p : Path} (h : c.serves p) (inDark : Bool) (f : Chip → Judged) :
    c.ask p inDark f = (f c).1.answer p (f c).2 := by
  obtain ⟨carried, awake, lit⟩ := h
  exact c.ask_ok p inDark f carried (by simp [Chip.gate, awake, lit])

/-- A request that its own rules refuse without effect is refused by the part (R10). -/
theorem refuses_of_ask {i : Instr} {p : Path} {s : State} {f : Chip → Judged} {r : Reason} (row : exec i s = s.ask p f)
    (serving : s.chip.serves p) (judged : f s.chip = (s.chip, r)) : Refuses i p s r := by
  unfold Refuses
  rw [row, State.ask, State.run_eq, Chip.ask_of_serves serving, judged]

/-! ### A mode command that meets a STATE condition -/

section
variable (c : Chip) (p : Path) (a : Axis) (mode : Nat) (back : Bool) (slot : Nat)

theorem Chip.modeConds_ne_ok : ∀ x ∈ c.modeConds a mode back, x.2 ≠ .ok := by
  simp [Chip.modeConds]

theorem Chip.command_state {c : Chip} {a : Axis} {mode : Nat} {back : Bool} (bad : c.modeState a mode back = true) :
    c.command p a mode back slot = (c, .state) := by
  have met : (true, Reason.state) ∈ c.modeConds a mode back := bad ▸ List.mem_cons_self
  have lowest : judge ((!c.owns p a, .locked) :: c.modeConds a mode back) = .state :=
    judge_eq_state (List.forall_mem_cons.mpr ⟨Reason.noConfusion, c.modeConds_ne_ok a mode back⟩)
      (List.mem_cons_of_mem _ met)
  unfold Chip.command
  rw [Chip.request_refused _ _ _ (lowest ▸ Reason.noConfusion), lowest]

/-- HOME has a STATE condition of its own: the source in use is sensorless (R366). -/
theorem Chip.modeState_home {c : Chip} {a : Axis} (sensorless : c.usesSensorless a = true) : c.modeState a 5 back = true := by
  simp [Chip.modeState, sensorless]

end

end Sys2Proof.Machine

open Sys2Proof.Machine

/-- Settles O59: the sensorless source meets the STATE condition of HOME, and no other reason has a lower code. -/
theorem homeNeedsASensor : Obligations.HomeNeedsASensor := by
  intro s p a back serving sensorless
  exact refuses_of_ask rfl serving (Chip.command_state p 0 (Chip.modeState_home back sensorless))
end

section
/-! SUPPORT. Which row, view and operation an address names, plain register accesses and READ frames in general; and the
statement about the LOG window (R332, R376). -/
namespace Sys2Proof.Machine

/-! ### What an address names -/

section
variable {n base stride a : Nat}

theorem instAt_of_lt (h : a < base) : instAt n base stride a = none := by
  unfold instAt
  split
  · exact if_neg fun named => Nat.not_le.mpr h named.1
  · rfl

theorem instAt_of_le (hs : 0 < stride) (h : base + n * stride ≤ a) : instAt n base stride a = none := by
  have past : n ≤ (a - base) / stride := (Nat.le_div_iff_mul_le hs).mpr (by omega)
  exact dif_neg (Nat.not_lt.mpr past)

theorem instAt_of_eq (hs : 0 < stride) (k : Fin n) (h : a = base + k.val * stride) : instAt n base stride a = some k := by
  subst h
  have index : (base + k.val * stride - base) / stride = k.val := by
    rw [Nat.add_sub_cancel_left, Nat.mul_div_cancel _ hs]
  have aligned : base ≤ base + k.val * stride ∧ (base + k.val * stride - base) % stride = 0 := by
    rw [Nat.add_sub_cancel_left, Nat.mul_mod_left]
    exact ⟨Nat.le_add_right .., rfl⟩
  unfold instAt
  rw [dif_pos (index.trans_lt k.isLt), if_pos aligned]
  exact congrArg some (Fin.ext index)

/-- A row of the address map lists no address outside its span. -/
theorem RegRow.holds_of_outside {r : RegRow} (hs : 0 < r.stride) (h : a < r.base ∨ r.base + r.count * r.stride ≤ a) :
    r.holds a = false := by
  rcases h with below | above
  · simp [RegRow.holds, Nat.not_le.mpr below]
  · have past : r.count ≤ (a - r.base) / r.stride := (Nat.le_div_iff_mul_le hs).mpr (by omega)
    simp [RegRow.holds, Nat.not_lt.mpr past]

theorem viewAt_cons_none {f : Nat → Word} {l : List (Nat × Nat × Nat × (Nat → Word))} (h : instAt n base stride a = none) :
    viewAt a ((n, base, stride, f) :: l) = viewAt a l := by
  simp only [viewAt, h]

theorem viewAt_cons_some {f : Nat → Word} {l : List (Nat × Nat × Nat × (Nat → Word))} {k : Fin n}
    (h : instAt n base stride a = some k) : viewAt a ((n, base, stride, f) :: l) = some (f k.val) := by
  simp only [viewAt, h]

theorem opAt_of_lt (l : List (Nat × (Fin n → Judged))) (h : ∀ x ∈ l, a < x.1) : opAt stride a l = none := by
  induction l with
  | nil => rfl
  | cons x l ih =>
    obtain ⟨hx, hl⟩ := List.forall_mem_cons.mp h
    simp only [opAt, instAt_of_lt hx, ih hl]

end

/-! ### Plain accesses -/

section
variable {c : Chip} {nv : NonVolatile} {p : Path} {r : RegRow} {a : Nat} {w : Word}

/-- The registers that stand once and whose writes have rows of their own. -/
def onceRegs : List Nat :=
  [SYS_PWR, SYS_CMD, FLT_FIRST, FLT_CLR, FLT_INJ, FLT_ACC, OTP_CMD, CAN_CMD, CAN_NODECMD, RNG_CMD, WAKE_CMD, CUE_SWITCH]

theorem Chip.oneOps_of_not_mem (h : a ∉ onceRegs) : c.oneOps nv p w a = none := by
  simp only [onceRegs, List.mem_cons, List.not_mem_nil, or_false, not_or] at h
  simp only [Chip.oneOps, h, if_false]

/-- Below the axis blocks no write has a row of an axis register. -/
theorem Chip.axisOps_of_lt (h : a < 0x080000) : c.axisOps p w a = none := by
  refine opAt_of_lt _ ?_
  simp only [List.forall_mem_cons, AX_CMD, CMP_CTRL, CMP_TARGET, CMP_ACCEL, CMP_DECEL, AX_SPLO, AX_SPHI, AX_CIN, AX_SRCCMD,
    List.not_mem_nil, false_imp_iff, implies_true, and_true]
  omega

/-- Below the slices no write has a row of a slice, port, bus or converter register. -/
theorem Chip.unitOps_of_lt (h : a < 0x0A0000) : c.unitOps w a = none := by
  unfold Chip.unitOps
  rw [opAt_of_lt, opAt_of_lt, opAt_of_lt, opAt_of_lt, opAt_of_lt]
  · rfl
  all_goals
    simp only [List.forall_mem_cons, SL_WLEN, FP_CMD, BUS_CMD, HK_SEL, HK_CMD, HK_CH, List.not_mem_nil, false_imp_iff,
      implies_true, and_true]
    omega

/-- A write with no row of its own is judged by the fields of its register (R9). -/
theorem Chip.writeReg_of_plainRow (h : c.plainRow nv p r a w) : Chip.writeReg nv p a w c = c.plainWrite r a w := by
  obtain ⟨not_cue, row, -, one, axis, unit⟩ := h
  simp [Chip.writeReg, not_cue, row, one, axis, unit]

/-- A register without a field that a write changes refuses it (R8). -/
theorem Chip.plainWrite_locked (hrw : r.rw = 0) (hwo : r.wo = 0) (hw1c : r.w1c = 0) : c.plainWrite r a w = (c, .locked) := by
  have refused : judge [(r.rw == 0 && r.wo == 0 && r.w1c == 0, Reason.locked)] = .locked := by
    simp [hrw, hwo, hw1c, judge]
  have not_ok : judge [(r.rw == 0 && r.wo == 0 && r.w1c == 0, Reason.locked)] ≠ .ok := by simp [refused]
  exact (c.request_refused _ _ not_ok).trans (congrArg (c, ·) refused)

/-- A plain write that its register's fields refuse is refused by the part. -/
theorem refuses_registerWrite {s : State} {a : BitVec 24} (serving : s.chip.serves p) (reset : a.toNat ≠ SYS_CMD)
    (row : s.chip.plainRow s.nv p r a.toNat w) (hrw : r.rw = 0) (hwo : r.wo = 0) (hw1c : r.w1c = 0) :
    Refuses (.registerWrite p a w) p s .locked := by
  have judged : Chip.writeReg s.nv p a.toNat w s.chip = (s.chip, .locked) :=
    (Chip.writeReg_of_plainRow row).trans (Chip.plainWrite_locked hrw hwo hw1c)
  obtain ⟨-, -, lifecycle, -⟩ := row
  unfold Refuses
  rw [show exec (.registerWrite p a w) s = .next (s.writeReg p a.toNat w) from rfl, State.writeReg,
    if_neg fun h => reset h.1, if_neg lifecycle, Chip.ask_of_serves serving, judged]

/-- A register that holds no high word and has no RC field reads as it stands and stays (R5, R6). -/
theorem Chip.readRow_of_single (unheld : c.held p a = none) (load : instAt 2 (FE_LOAD 0) 0x8000 a = none)
    (single : r.pair = false) (hrc : r.rc = 0) : c.readRow nv p r a = (c, c.shown nv a) := by
  unfold Chip.readRow
  rw [unheld, load, single, hrc]
  rfl

/-- A plain read of a register without RC fields shows its word and changes nothing (R6). -/
theorem Chip.readReg_of_plainRead (h : c.plainRead p r a) (hrc : r.rc = 0) :
    Chip.readReg nv p a c = (c, c.shown nv a) := by
  obtain ⟨not_cue, row, single, unheld, not_skip, not_irq, drawn, returned, load⟩ := h
  have kept : c.readRow nv p r a = (c, c.shown nv a) := Chip.readRow_of_single unheld load single hrc
  rw [← kept]
  unfold Chip.readReg
  rw [not_cue, row]
  dsimp only
  rw [if_neg not_skip, if_neg not_irq, drawn, returned]

end

/-! ### READ frames -/

/-- The frame's own state makes no read less plain. -/
theorem Chip.plainRead.framing {c : Chip} {p : Path} {r : RegRow} {a : Nat} (h : c.plainRead p r a) (cmd : BitVec 8) :
    (c.framing cmd).plainRead p r a := h

/-- A good READ frame of a part that is not held is a read on the chip that `framing` describes (R341). -/
theorem State.hostFrame_read {s : State} {f : HostFrame} (up : s.chip.load.stage ≠ .held) (good : hostOk f = true)
    (read : f.cmd = 1) : s.hostFrame f = ({ s with chip := s.chip.framing f.cmd } : State).readReg .host f.addr.toNat := by
  simp only [hostOk, Bool.and_eq_true, Bool.not_eq_true', beq_iff_eq] at good
  obtain ⟨⟨whole, length⟩, crc⟩ := good
  simp [State.hostFrame, State.hostRun, up, whole, length, crc, read, Chip.hpEnd, Chip.hpClean, Chip.framing]

/-- A read that is executed gives its value to the path (R299, R315). -/
theorem Chip.askReg_of_readReg {c d : Chip} {nv : NonVolatile} {p : Path} {a : Nat} {v : Word} (carried : c.carries p = true)
    (opened : c.readOpen a = true) (h : Chip.readReg nv p a c = (d, v)) :
    Chip.askReg nv p a c = (d.give p v).answer p .ok := by
  simp [Chip.askReg, carried, opened, h]

/-- HP_RDBUF takes the value that the host reads. -/
theorem Chip.reg_give_host (c : Chip) (v : Word) : (c.give .host v).reg HP_RDBUF = v := c.reg_setReg HP_RDBUF v

/-- A READ that a plain read answers gives the host the word that the register shows in the frame, and raises no event. -/
theorem completes_read_of_plainRead {s : State} {f : HostFrame} {r : RegRow} (up : s.chip.load.stage ≠ .held)
    (good : hostOk f = true) (read : f.cmd = 1) (opened : s.chip.readOpen f.addr.toNat = true)
    (row : s.chip.plainRead .host r f.addr.toNat) (hrc : r.rc = 0) {v : Word}
    (shown : (s.chip.framing f.cmd).shown s.nv f.addr.toNat = v) :
    Completes (.read f) s fun c =>
      c.hp.reason = .ok ∧ c.hp.data = v ∧ c.reg HP_RDBUF = v ∧ c.faults = s.chip.faults := by
  have shows := Chip.readReg_of_plainRead (nv := s.nv) (row.framing f.cmd) hrc
  rw [shown] at shows
  have carried : (s.chip.framing f.cmd).carries .host = true := bne_iff_ne.mpr up
  have answered := Chip.askReg_of_readReg carried opened shows
  refine ⟨((s.chip.framing f.cmd).give .host v).answer .host .ok, ?_, rfl, rfl, ?_, rfl⟩
  · rw [show exec (.read f) s = .next (s.hostFrame f) from rfl, State.hostFrame_read up good read, State.readReg, answered]
  · rw [Chip.answer_reg, Chip.reg_give_host]

/-! ### The LOG window -/

/-- The row of the LOG window: no field of it takes a write (R376). -/
def logWindowRow : RegRow :=
  { base := 0x030000, stride := 0x4, count := 8192, stride2 := 0x4, count2 := 1, reset := fun _ => 0x0, ro := 0xFFFFFFFF }

section
variable (k : Fin 8192)

/-- R376 gives the window these bounds. -/
theorem LOG_WINDOW_bounds : 0x030000 ≤ LOG_WINDOW k.val ∧ LOG_WINDOW k.val < 0x038000 := by
  unfold LOG_WINDOW
  omega

theorem cueWord_LOG_WINDOW : cueWord (LOG_WINDOW k.val) = none := by
  have := LOG_WINDOW_bounds k
  exact if_neg (by omega)

/-- The other rows of its block list no word of the LOG window. -/
theorem findRow_LOG_WINDOW : findRow (LOG_WINDOW k.val) = some logWindowRow := by
  obtain ⟨low, high⟩ := LOG_WINDOW_bounds k
  have block : rowsAt (LOG_WINDOW k.val) = otpRows.dropLast ++ [logWindowRow] := by
    unfold rowsAt
    rw [if_neg (by omega), if_neg (by omega), if_pos (by omega)]
    rfl
  have outside : ∀ r ∈ otpRows.dropLast,
      0 < r.stride ∧ (0x038000 ≤ r.base ∨ r.base + r.count * r.stride ≤ 0x030000) := by decide
  have others : otpRows.dropLast.find? (fun r => r.holds (LOG_WINDOW k.val)) = none := by
    refine List.find?_eq_none.mpr fun r hr => ?_
    obtain ⟨hs, apart⟩ := outside r hr
    rw [RegRow.holds_of_outside hs (by omega)]
    exact Bool.false_ne_true
  have own : logWindowRow.holds (LOG_WINDOW k.val) = true := by
    simp [RegRow.holds, logWindowRow, LOG_WINDOW]
  rw [findRow, block, List.find?_append, others, Option.none_or]
  exact List.find?_cons_of_pos own

/-- A word of the LOG window is the logbook's, record after record (R332). -/
theorem Chip.shown_LOG_WINDOW (c : Chip) (nv : NonVolatile) : c.shown nv (LOG_WINDOW k.val) = cellsGet zeros nv.log k.val := by
  obtain ⟨low, high⟩ := LOG_WINDOW_bounds k
  have alive : c.deadRead (LOG_WINDOW k.val) = false := by
    unfold Chip.deadRead
    rw [decide_eq_false (by omega)]
    rfl
  have status : instAt 1 FLT_STATUS 4 (LOG_WINDOW k.val) = none := instAt_of_le (by decide) (by unfold FLT_STATUS; omega)
  have severe : instAt 8 (FLT_SEV 0) 4 (LOG_WINDOW k.val) = none := instAt_of_le (by decide) (by unfold FLT_SEV; omega)
  have live : instAt 8 (FLT_LIVE 0) 4 (LOG_WINDOW k.val) = none := instAt_of_le (by decide) (by unfold FLT_LIVE; omega)
  have source : instAt 256 (FLT_SRC 0) 16 (LOG_WINDOW k.val) = none := instAt_of_le (by decide) (by unfold FLT_SRC; omega)
  have window : instAt 8192 (LOG_WINDOW 0) 4 (LOG_WINDOW k.val) = some k :=
    instAt_of_eq (by decide) k (by unfold LOG_WINDOW; omega)
  have viewed : viewAt (LOG_WINDOW k.val) (c.views nv) = some (cellsGet zeros nv.log k.val) := by
    rw [Chip.views, viewAt_cons_none status, viewAt_cons_none severe, viewAt_cons_none live, viewAt_cons_none source,
      viewAt_cons_some window]
  unfold Chip.shown
  rw [alive, viewed]
  rfl

theorem Chip.plainRow_LOG_WINDOW (c : Chip) (nv : NonVolatile) (p : Path) (w : Word) :
    c.plainRow nv p logWindowRow (LOG_WINDOW k.val) w := by
  obtain ⟨low, high⟩ := LOG_WINDOW_bounds k
  refine ⟨cueWord_LOG_WINDOW k, findRow_LOG_WINDOW k, ?_, ?_, Chip.axisOps_of_lt (by omega), Chip.unitOps_of_lt (by omega)⟩
  · unfold SYS_LCCMD; omega
  · have apart : ∀ x ∈ onceRegs, x < 0x030000 ∨ 0x038000 ≤ x := by decide
    exact Chip.oneOps_of_not_mem fun once => by
      have := apart _ once
      omega

theorem Chip.plainRead_LOG_WINDOW {c : Chip} {p : Path} (unheld : c.held p (LOG_WINDOW k.val) = none) :
    c.plainRead p logWindowRow (LOG_WINDOW k.val) := by
  obtain ⟨low, high⟩ := LOG_WINDOW_bounds k
  exact ⟨cueWord_LOG_WINDOW k, findRow_LOG_WINDOW k, rfl, unheld, by unfold CUE_SKIPQ; omega, by unfold CUE_IRQQ; omega,
    instAt_of_lt (by unfold BUS_DRAWN; omega), instAt_of_lt (by unfold BUS_RET; omega),
    instAt_of_lt (by unfold FE_LOAD; omega)⟩

end

/-- The place of word `j` of record `r` in the LOG window. -/
def logIndex (r : Fin 1024) (j : Fin 8) : Fin 8192 := ⟨8 * r.val + j.val, by omega⟩

theorem address_eq_LOG_WINDOW (r : Fin 1024) (j : Fin 8) :
    0x030000 + 32 * r.val + 4 * j.val = LOG_WINDOW (logIndex r j).val := by
  simp only [LOG_WINDOW, logIndex]
  omega

end Sys2Proof.Machine

open Sys2Proof.Machine

/-- Settles O52: the window's row has no field that a write changes, and its view is the logbook. -/
theorem logWindow : Obligations.LogWindow := by
  constructor
  case left =>
    intro s p r j w serving
    have address : (BitVec.ofNat 24 (0x030000 + 32 * r.val + 4 * j.val)).toNat = LOG_WINDOW (logIndex r j).val := by
      rw [← address_eq_LOG_WINDOW, BitVec.toNat_ofNat, Nat.mod_eq_of_lt (by omega)]
    have low := (LOG_WINDOW_bounds (logIndex r j)).1
    refine refuses_registerWrite serving ?_ (address ▸ Chip.plainRow_LOG_WINDOW (logIndex r j) s.chip s.nv p w) rfl rfl rfl
    rw [address]
    unfold SYS_CMD
    omega
  case right =>
    intro s f r j address up good read opened unheld
    rw [address_eq_LOG_WINDOW] at address
    have word : (s.chip.framing f.cmd).shown s.nv f.addr.toNat = s.nv.logWord r.val j.val :=
      address ▸ Chip.shown_LOG_WINDOW (logIndex r j) (s.chip.framing f.cmd) s.nv
    have plain := Chip.plainRead_LOG_WINDOW (logIndex r j) (address ▸ unheld)
    exact completes_read_of_plainRead up good read opened (address ▸ plain) rfl word
end

section
/-! SUPPORT. What a command leaves of the queue, the fuses and the logbook: every operation that writes either of them keeps
the queue, sets fuse bits only from 0 to 1 (R321), and keeps the canonical form; and the statements about the block as a
whole. -/
namespace Sys2Proof.Machine

/-! ### What the block writes of its fuses and its logbook -/

/-- The fuses and the logbook have gone on as the part may write them: no fuse bit has returned to 0, and both are still
canonical. -/
def NonVolatile.Grows (a b : NonVolatile) : Prop := FusesKept a b ∧ (a.wf = true → b.wf = true)

theorem NonVolatile.Grows.refl (a : NonVolatile) : a.Grows a := ⟨fun _ => BitVec.and_self, id⟩

theorem NonVolatile.Grows.trans {a b d : NonVolatile} (h : a.Grows b) (k : b.Grows d) : a.Grows d := by
  refine ⟨fun i => ?_, fun w => k.2 (h.2 w)⟩
  have hb : a.fuse i &&& b.fuse i = a.fuse i := h.1 i
  have hd : b.fuse i &&& d.fuse i = b.fuse i := k.1 i
  calc a.fuse i &&& d.fuse i = a.fuse i &&& (b.fuse i &&& d.fuse i) := by rw [← BitVec.and_assoc, hb]
    _ = a.fuse i := by rw [hd, hb]

/-- The queue is as it was, and the fuses and the logbook have gone on. -/
def Keeps (s t : State) : Prop := t.pending = s.pending ∧ s.nv.Grows t.nv

theorem Keeps.of_nv {s t : State} (hq : t.pending = s.pending) (hn : s.nv.Grows t.nv) : Keeps s t := ⟨hq, hn⟩

/-- A change of the volatile part alone. -/
theorem Keeps.chip (s : State) (c : Chip) : Keeps s { s with chip := c } := .of_nv rfl (.refl s.nv)

theorem Keeps.refl (s : State) : Keeps s s := .chip s s.chip

theorem Keeps.trans {s t u : State} (h : Keeps s t) (k : Keeps t u) : Keeps s u :=
  .of_nv (k.1.trans h.1) (NonVolatile.Grows.trans h.2 k.2)

/-- What follows in the volatile part changes nothing of it. -/
theorem Keeps.then_chip {s t : State} (h : Keeps s t) (c : Chip) : Keeps s { t with chip := c } := h.trans (.chip t c)

theorem Keeps.ite {s t u : State} {p : Prop} [Decidable p] (ht : Keeps s t) (hu : Keeps s u) :
    Keeps s (if p then t else u) := by
  split
  · exact ht
  · exact hu

/-- A pulse only sets bits of its word (R321). -/
theorem NonVolatile.Grows.blow (nv : NonVolatile) (k : Nat) (bits : Word) : nv.Grows (nv.blow k bits) := by
  constructor
  · intro i
    by_cases h : i = k
    · subst h
      rw [show (nv.blow i bits).fuse i = nv.fuse i ||| bits from cellsGet_set_same ..]
      ext j
      simp +contextual
    · rw [show (nv.blow k bits).fuse i = nv.fuse i from cellsGet_set_ne _ _ _ h]
      exact BitVec.and_self
  · intro canonical
    obtain ⟨fuses, log⟩ := Bool.and_eq_true_iff.mp canonical
    exact Bool.and_eq_true_iff.mpr ⟨cellsWf_set _ _ _ _ fuses, log⟩

/-- Writing words of the logbook leaves the fuses. -/
theorem NonVolatile.Grows.putWords (nv : NonVolatile) (k : Nat) (l : List Word) : nv.Grows (nv.putWords k l) := by
  induction l generalizing nv k with
  | nil => exact .refl nv
  | cons w l ih =>
    have first : nv.Grows { nv with log := cellsSet zeros nv.log k w } := by
      refine ⟨fun _ => BitVec.and_self, fun canonical => ?_⟩
      obtain ⟨fuses, log⟩ := Bool.and_eq_true_iff.mp canonical
      exact Bool.and_eq_true_iff.mpr ⟨fuses, cellsWf_set _ _ _ _ log⟩
    exact first.trans (ih _ (k + 1))

/-- The wiped logbook is canonical (R319). -/
theorem NonVolatile.Grows.wiped (nv : NonVolatile) : nv.Grows { nv with log := [] } :=
  ⟨fun _ => BitVec.and_self, fun canonical => by
    obtain ⟨fuses, -⟩ := Bool.and_eq_true_iff.mp canonical
    exact Bool.and_eq_true_iff.mpr ⟨fuses, rfl⟩⟩

/-! ### Pulses -/

theorem pulseStep_grows (nv : NonVolatile) (o : OtpOp) (v : Verify) : nv.Grows (pulseStep nv o v).1 := by
  unfold pulseStep
  split
  next => exact .refl nv
  next k t rest _ =>
    have blown := NonVolatile.Grows.blow nv k (v.normal &&& t)
    dsimp only
    split
    next => exact blown
    split
    next => split <;> exact blown
    split <;> exact blown

theorem grows_blowAll (l : List (Nat × Word)) (nv : NonVolatile) : nv.Grows (l.foldl (fun nv x => nv.blow x.1 x.2) nv) := by
  induction l generalizing nv with
  | nil => exact .refl nv
  | cons x l ih => exact (NonVolatile.Grows.blow nv x.1 x.2).trans (ih _)

theorem burn_grows (l : List Verify) (nv : NonVolatile) (o : OtpOp) : nv.Grows (burn nv o l) := by
  induction l generalizing nv o with
  | nil => exact grows_blowAll o.todo nv
  | cons v l ih =>
    have pulsed := pulseStep_grows nv o v
    unfold burn
    split
    next found => exact (by simpa [found] using pulsed : nv.Grows _).trans (ih _ _)
    next found => simpa [found] using pulsed

theorem State.otpVerify_keeps (s : State) (v : Verify) : Keeps s (s.otpVerify v) := by
  unfold State.otpVerify
  split
  next => exact .refl s
  next o _ =>
    have pulsed := pulseStep_grows s.nv o v
    dsimp only
    split <;> exact .of_nv rfl pulsed

/-! ### The logbook -/

theorem State.writeFails_keeps (s : State) (r : Nat) : Keeps s (s.writeFails r) := .of_nv rfl (.putWords ..)

theorem State.writeRecord_keeps (s : State) (ok : Bool) : Keeps s (s.writeRecord ok) := by
  unfold State.writeRecord
  dsimp only
  split
  next => exact .refl s
  next =>
    split
    · exact .of_nv rfl (.putWords ..)
    · exact (s.writeFails_keeps _).then_chip _

theorem State.writeQueue_keeps (ok : Bool) (n : Nat) (s : State) : Keeps s (s.writeQueue ok n) := by
  induction n generalizing s with
  | zero => exact .refl s
  | succ n ih => exact (s.writeRecord_keeps ok).trans (ih _)

theorem State.pendingFlush_keeps (s : State) (ok : Bool) : Keeps s (s.pendingFlush ok) :=
  Keeps.ite (.refl s) ((Keeps.chip s _).trans (State.writeQueue_keeps ..))

theorem State.writeSlot_keeps (s : State) (j : Nat) (ok : Bool) : Keeps s (s.writeSlot j ok) :=
  Keeps.ite (.of_nv rfl (.putWords ..)) (s.writeFails_keeps _)

theorem State.checkpoint_keeps (s : State) (ok : Bool) : Keeps s (s.checkpoint ok) :=
  Keeps.ite ((s.writeSlot_keeps _ ok).then_chip _) (.refl s)

theorem State.writeSlots_keeps (l : List Nat) (s : State) : Keeps s (s.writeSlots l) := by
  induction l generalizing s with
  | nil => exact .refl s
  | cons j l ih => exact (s.writeSlot_keeps j true).trans (ih _)

theorem State.closeBook_keeps (s : State) (cause : Nat) : Keeps s (s.closeBook cause) :=
  (((s.writeSlots_keeps (List.range 136)).then_chip _).trans (State.writeQueue_keeps ..)).then_chip _

/-! ### Starts, resets and life-cycle changes -/

theorem State.start_keeps (s : State) (rcause : Nat) (keep : Bool) (reads : List OtpRead) :
    Keeps s (s.start rcause keep reads) := .chip s _

theorem State.nresetRise_keeps (s : State) (reads : List OtpRead) : Keeps s (s.nresetRise reads) :=
  Keeps.ite (s.start_keeps ..) (.refl s)

theorem State.orderlyCheckpoint_keeps (s : State) : Keeps s s.orderlyCheckpoint := by
  unfold State.orderlyCheckpoint
  split
  next => exact .refl s
  next cause _ =>
    have closed := s.closeBook_keeps cause
    exact Keeps.ite (.refl s) (Keeps.ite (closed.trans (State.start_keeps ..)) closed)

theorem State.reset1_keeps (s : State) (reads : List OtpRead) : Keeps s (s.reset1 reads) :=
  (Keeps.chip s _).trans (State.orderlyCheckpoint_keeps _)

theorem State.judged_keeps (s : State) (p : Path) (inDark : Bool) (conds : Chip → List (Bool × Reason)) {f : State → State}
    (hf : Keeps s (f s)) : Keeps s (s.judged p inDark conds f) :=
  Keeps.ite (.refl s) ((Keeps.ite hf (.refl s)).then_chip _)

theorem State.wipeLog_keeps (s : State) (old new : Nat) : Keeps s (s.wipeLog old new) := by
  have wiped (c : Chip) : Keeps s { s with chip := c, nv := { s.nv with log := [] } } := .of_nv rfl (.wiped s.nv)
  exact (wiped (s.chip.logArise 7 (BitVec.ofNat 32 old) (BitVec.ofNat 32 new) 0)).trans (State.writeQueue_keeps ..)

theorem State.lifecycle_keeps (s : State) (target : Nat) (copies : List Verify) (reads : List OtpRead) :
    Keeps s (s.lifecycle target copies reads) := by
  have closed := (Keeps.chip s (s.chip.logBusy true)).trans (State.closeBook_keeps _ 2)
  have burnt := closed.trans (.of_nv (t := { State.closeBook _ 2 with nv := burn _ _ copies }) rfl (burn_grows copies _
    ⟨0, 0, (State.closeBook { s with chip := s.chip.logBusy true } 2).nv.lcTodo target, 0, 0⟩))
  exact (Keeps.ite (burnt.trans (State.wipeLog_keeps ..)) burnt).trans (State.start_keeps ..)

theorem State.lccmd_keeps (s : State) (p : Path) (data : Word) (left : Bool) (copies : List Verify) (reads : List OtpRead) :
    Keeps s (s.lccmd p data left copies reads) := s.judged_keeps p _ _ (s.lifecycle_keeps ..)

/-! ### Register accesses -/

theorem State.writeReg_keeps (s : State) (p : Path) (a : Nat) (w : Word) : Keeps s (s.writeReg p a w) :=
  Keeps.ite (s.judged_keeps p _ _ (s.reset1_keeps [])) <|
    Keeps.ite ((Keeps.chip s _).trans (State.lccmd_keeps ..)) (.chip s _)

theorem State.hostRun_keeps (s : State) (f : HostFrame) : Keeps s (s.hostRun f) := by
  unfold State.hostRun
  dsimp only
  split
  next nop => exact .chip s _
  next read => exact .chip s _
  next write => exact (Keeps.chip s _).trans (State.writeReg_keeps ..)
  next other => exact .chip s _

theorem State.hostFrame_keeps (s : State) (f : HostFrame) : Keeps s (s.hostFrame f) := by
  unfold State.hostFrame
  exact Keeps.ite (.refl s) <| Keeps.ite (.chip s _) <| Keeps.ite (.chip s _) <| Keeps.ite (.chip s _) <|
    (Keeps.chip s _).trans (State.hostRun_keeps ..)

theorem State.canWrite_keeps (s : State) : Keeps s s.canWrite := by
  unfold State.canWrite
  split
  next => exact .refl s
  next => exact Keeps.ite (.chip s _) (((Keeps.chip s _).trans (State.writeReg_keeps ..)).then_chip _)

/-- CAN_READ acts on the volatile part alone. -/
theorem State.canRead_eq (s : State) : ∃ c, s.canRead = { s with chip := c } := by
  unfold State.canRead
  split
  next => exact ⟨s.chip, rfl⟩
  next =>
    dsimp only
    split <;> exact ⟨_, rfl⟩

/-! ### Every command -/

/-- Every command answers a next state and keeps what a command must keep of the queue, the fuses and the logbook. -/
theorem exec_keeps (i : Instr) (s : State) : ∃ t, exec i s = .next t ∧ Keeps s t := by
  cases i
  case nop f => exact ⟨_, rfl, s.hostFrame_keeps f⟩
  case read f => exact ⟨_, rfl, s.hostFrame_keeps f⟩
  case write f => exact ⟨_, rfl, s.hostFrame_keeps f⟩
  case hpRdbufRead f => exact ⟨_, rfl, s.hostFrame_keeps f⟩
  case registerWrite p a w => exact ⟨_, rfl, s.writeReg_keeps p _ w⟩
  case canWrite => exact ⟨_, rfl, s.canWrite_keeps⟩
  case canRead =>
    obtain ⟨c, hc⟩ := s.canRead_eq
    exact ⟨s.canRead, rfl, hc ▸ .chip s c⟩
  case nresetRise reads => exact ⟨_, rfl, s.nresetRise_keeps reads⟩
  case otpVerify v => exact ⟨_, rfl, s.otpVerify_keeps v⟩
  case logRecordWrite a b => exact ⟨_, rfl, Keeps.ite (s.writeRecord_keeps _) (.refl s)⟩
  case pendingFlush a b => exact ⟨_, rfl, s.pendingFlush_keeps _⟩
  case checkpointSlot a b => exact ⟨_, rfl, s.checkpoint_keeps _⟩
  case orderlyCheckpoint => exact ⟨_, rfl, s.orderlyCheckpoint_keeps⟩
  case reset p reads => exact ⟨_, rfl, s.judged_keeps p _ _ (s.reset1_keeps reads)⟩
  case lifecycleChange => exact ⟨_, rfl, s.lccmd_keeps ..⟩
  all_goals exact ⟨_, rfl, .chip s _⟩

theorem nresetRise_nv (s : State) (reads : List OtpRead) : (s.nresetRise reads).nv = s.nv := by
  unfold State.nresetRise
  split <;> rfl

end Sys2Proof.Machine

open Sys2Proof.Machine

/-- Settles O54: all commands but those listed act on the volatile part alone, and the listed ones keep the queue. -/
theorem everyCommandAnswers : Obligations.EveryCommandAnswers := by
  intro i s
  obtain ⟨t, runs, kept⟩ := exec_keeps i s
  refine ⟨t, runs, kept.1, ?_⟩
  cases i
  case nop | read | write | hpRdbufRead | registerWrite | canWrite | otpVerify | logRecordWrite | pendingFlush | checkpointSlot
    | orderlyCheckpoint | reset | lifecycleChange => trivial
  case nresetRise reads =>
    cases runs
    exact nresetRise_nv s reads
  case canRead =>
    cases runs
    obtain ⟨c, hc⟩ := s.canRead_eq
    exact hc ▸ rfl
  all_goals
    cases runs
    rfl

/-- A step keeps what its command keeps. -/
theorem step_keeps {s t : State} (h : step s = .next t) : s.nv.Grows t.nv := by
  unfold step at h
  split at h
  next idle =>
    cases h
    exact (Keeps.refl s).2
  next i rest _ =>
    obtain ⟨u, runs, kept⟩ := exec_keeps i { s with pending := rest }
    cases runs.symm.trans h
    exact kept.2

/-- Settles O55: every command sets fuse bits only from 0 to 1, by pulses that add bits to a word. -/
theorem fusesNeverClear : Obligations.FusesNeverClear := fun _ _ h => (step_keeps h).1

/-- Settles O56: every write of the fuse array and of the logbook goes through the canonical write of a sparse array. -/
theorem storesStayCanonical : Obligations.StoresStayCanonical := fun _ _ canonical h => (step_keeps h).2 canonical

/-- Settles O53: both clauses are the two arms of `step`. -/
theorem stepRunsTheQueueHead : Obligations.StepRunsTheQueueHead := by
  refine ⟨fun _ _ _ => rfl, fun s idle => ?_⟩
  unfold step
  rw [idle]

/-- Settles O57: reset lists no register word, and no hidden state but the ports' high impedance. -/
theorem resetState : Obligations.ResetState := by
  have fallen : State.reset.chip.nresetFall = State.reset.chip := by decide +kernel
  refine ⟨rfl, fun _ => rfl, rfl, by decide +kernel, rfl, rfl, by decide +kernel, by decide +kernel, by decide +kernel,
    by decide +kernel, by decide +kernel, ?_⟩
  exact congrArg (fun c => Host.Outcome.next { State.reset with chip := c }) fallen
end

section
-- One proof after the other: a side goal that `Only` settles by `decide` waits for the kernel, on a thread of its own.
set_option Elab.async false
/-! SUPPORT. Which parts of the volatile state an operation changes: a frame over the parts of `Chip`, which operations in
a row share, and from which the frame of a statement follows. -/
namespace Sys2Proof.Machine

/-- The parts of the volatile state: its fields. -/
inductive Part where
  | regs | hold | tickRegs | fresh | wall | now | free | armTick | pwrDue | legs | links | tbs | cues | slices | unders
  | rsvs | excPos | excTick | ports | axes | engines | buses | hks | hkSettle | houseTick | roundTick | hkAge | hkUsed |
  xchRun | sensors | wms | faults | load | nvc | hp | can | rng | duty
  deriving DecidableEq

/-- The part is the same in both. -/
def Chip.Same (b c : Chip) : Part → Prop
  | .regs => c.regs = b.regs
  | .hold => c.hold = b.hold
  | .tickRegs => c.tickRegs = b.tickRegs
  | .fresh => c.fresh = b.fresh
  | .wall => c.wall = b.wall
  | .now => c.now = b.now
  | .free => c.free = b.free
  | .armTick => c.armTick = b.armTick
  | .pwrDue => c.pwrDue = b.pwrDue
  | .legs => c.legs = b.legs
  | .links => c.links = b.links
  | .tbs => c.tbs = b.tbs
  | .cues => c.cues = b.cues
  | .slices => c.slices = b.slices
  | .unders => c.unders = b.unders
  | .rsvs => c.rsvs = b.rsvs
  | .excPos => c.excPos = b.excPos
  | .excTick => c.excTick = b.excTick
  | .ports => c.ports = b.ports
  | .axes => c.axes = b.axes
  | .engines => c.engines = b.engines
  | .buses => c.buses = b.buses
  | .hks => c.hks = b.hks
  | .hkSettle => c.hkSettle = b.hkSettle
  | .houseTick => c.houseTick = b.houseTick
  | .roundTick => c.roundTick = b.roundTick
  | .hkAge => c.hkAge = b.hkAge
  | .hkUsed => c.hkUsed = b.hkUsed
  | .xchRun => c.xchRun = b.xchRun
  | .sensors => c.sensors = b.sensors
  | .wms => c.wms = b.wms
  | .faults => c.faults = b.faults
  | .load => c.load = b.load
  | .nvc => c.nvc = b.nvc
  | .hp => c.hp = b.hp
  | .can => c.can = b.can
  | .rng => c.rng = b.rng
  | .duty => c.duty = b.duty

/-- No part but those of `l` differs. -/
structure Only (l : List Part) (b c : Chip) : Prop where
  same : ∀ p, p ∉ l → b.Same c p

/-- The parts of `l` from `c`, the others from `b`. -/
def Chip.mix (l : List Part) (b c : Chip) : Chip :=
  { regs := if .regs ∈ l then c.regs else b.regs, hold := if .hold ∈ l then c.hold else b.hold, tickRegs := if .tickRegs
    ∈ l then c.tickRegs else b.tickRegs, fresh := if .fresh ∈ l then c.fresh else b.fresh, wall := if .wall ∈ l then
    c.wall else b.wall, now := if .now ∈ l then c.now else b.now, free := if .free ∈ l then c.free else b.free, armTick
    := if .armTick ∈ l then c.armTick else b.armTick, pwrDue := if .pwrDue ∈ l then c.pwrDue else b.pwrDue, legs := if
    .legs ∈ l then c.legs else b.legs, links := if .links ∈ l then c.links else b.links, tbs := if .tbs ∈ l then c.tbs
    else b.tbs, cues := if .cues ∈ l then c.cues else b.cues, slices := if .slices ∈ l then c.slices else b.slices,
    unders := if .unders ∈ l then c.unders else b.unders, rsvs := if .rsvs ∈ l then c.rsvs else b.rsvs, excPos := if
    .excPos ∈ l then c.excPos else b.excPos, excTick := if .excTick ∈ l then c.excTick else b.excTick, ports := if
    .ports ∈ l then c.ports else b.ports, axes := if .axes ∈ l then c.axes else b.axes, engines := if .engines ∈ l then
    c.engines else b.engines, buses := if .buses ∈ l then c.buses else b.buses, hks := if .hks ∈ l then c.hks else
    b.hks, hkSettle := if .hkSettle ∈ l then c.hkSettle else b.hkSettle, houseTick := if .houseTick ∈ l then c.houseTick
    else b.houseTick, roundTick := if .roundTick ∈ l then c.roundTick else b.roundTick, hkAge := if .hkAge ∈ l then
    c.hkAge else b.hkAge, hkUsed := if .hkUsed ∈ l then c.hkUsed else b.hkUsed, xchRun := if .xchRun ∈ l then c.xchRun
    else b.xchRun, sensors := if .sensors ∈ l then c.sensors else b.sensors, wms := if .wms ∈ l then c.wms else b.wms,
    faults := if .faults ∈ l then c.faults else b.faults, load := if .load ∈ l then c.load else b.load, nvc := if .nvc ∈
    l then c.nvc else b.nvc, hp := if .hp ∈ l then c.hp else b.hp, can := if .can ∈ l then c.can else b.can, rng := if
    .rng ∈ l then c.rng else b.rng, duty := if .duty ∈ l then c.duty else b.duty }

theorem Chip.Same.refl (c : Chip) (p : Part) : c.Same c p := by cases p <;> rfl

theorem Chip.Same.trans {a b c : Chip} {p : Part} (h : a.Same b p) (k : b.Same c p) : a.Same c p := by
  cases p <;> exact Eq.trans k h

/-- What an update writes out as the parts of `l` alone changes no other part: `Only.of_mix rfl`. -/
theorem Only.of_mix {l : List Part} {b c : Chip} (h : c = Chip.mix l b c) : Only l b c := by
  refine ⟨fun p hp => ?_⟩
  rw [h]
  cases p <;> exact if_neg hp

/-- Where no part but those of `l` differs, the whole is told by those parts. -/
theorem Only.eq {l : List Part} {b c : Chip} (h : Only l b c) : c = Chip.mix l b c := by
  have part {α : Type} {p : Part} {x y : α} (same : p ∉ l → y = x) : y = if p ∈ l then y else x := by
    split
    next => rfl
    next out => exact same out
  unfold Chip.mix
  rw [← part (h.same .regs), ← part (h.same .hold), ← part (h.same .tickRegs), ← part (h.same .fresh), ← part (h.same .wall), ← part (h.same .now), ←
    part (h.same .free), ← part (h.same .armTick), ← part (h.same .pwrDue), ← part (h.same .legs), ← part (h.same .links), ← part (h.same .tbs), ←
    part (h.same .cues), ← part (h.same .slices), ← part (h.same .unders), ← part (h.same .rsvs), ← part (h.same .excPos), ← part (h.same .excTick), ←
    part (h.same .ports), ← part (h.same .axes), ← part (h.same .engines), ← part (h.same .buses), ← part (h.same .hks), ← part (h.same .hkSettle), ←
    part (h.same .houseTick), ← part (h.same .roundTick), ← part (h.same .hkAge), ← part (h.same .hkUsed), ← part (h.same .xchRun), ← part (h.same .sensors), ← part (h.same .wms), ← part (h.same .faults), ← part (h.same .load), ← part (h.same .nvc), ← part (h.same .hp), ← part (h.same .can),
    ← part (h.same .rng), ← part (h.same .duty)]

theorem Only.refl (l : List Part) (c : Chip) : Only l c c := ⟨fun p _ => Chip.Same.refl c p⟩

theorem Only.trans {l : List Part} {a b c : Chip} (h : Only l a b) (k : Only l b c) : Only l a c :=
  ⟨fun p hp => (h.same p hp).trans (k.same p hp)⟩

theorem Only.mono {l m : List Part} {b c : Chip} (h : Only m b c) (hl : m ⊆ l := by decide) : Only l b c :=
  ⟨fun p hp => h.same p fun hm => hp (hl hm)⟩

/-- An operation that changes parts of the list goes on from one that does. -/
theorem Only.then {l m : List Part} {a b c : Chip} (h : Only l a b) (k : Only m b c) (hm : m ⊆ l := by decide) : Only l a c :=
  h.trans (k.mono hm)

theorem Only.ite {l : List Part} {a b c : Chip} {p : Prop} [Decidable p] (hb : Only l a b) (hc : Only l a c) :
    Only l a (if p then b else c) := by
  split
  · exact hb
  · exact hc

/-- What every operation of a list leaves, the list leaves. -/
theorem Only.each {α : Type} {l : List Part} {f : Chip → α → Chip} (c : Chip) (xs : List α) (hf : ∀ d, ∀ x ∈ xs, Only l d (f d x)) :
    Only l c (c.each xs f) :=
  Chip.each_keeps xs (.refl l c) fun d hd x hx => hd.trans (hf d x hx)

/-! ### What an unchanged part shows -/

section
variable {l : List Part} {b c : Chip}

theorem Only.leg (h : Only l b c) (j : Leg) (hl : Part.legs ∉ l := by decide) : c.leg j = b.leg j :=
  congrArg (fun v : Vector _ _ => v[j]) (h.same .legs hl)
theorem Only.link (h : Only l b c) (j : Die) (hl : Part.links ∉ l := by decide) : c.link j = b.link j :=
  congrArg (fun v : Vector _ _ => v[j]) (h.same .links hl)
theorem Only.tb (h : Only l b c) (j : Tb) (hl : Part.tbs ∉ l := by decide) : c.tb j = b.tb j :=
  congrArg (fun v : Vector _ _ => v[j]) (h.same .tbs hl)
theorem Only.slice (h : Only l b c) (j : SliceId) (hl : Part.slices ∉ l := by decide) : c.slice j = b.slice j :=
  congrArg (fun v : Vector _ _ => v[j]) (h.same .slices hl)
theorem Only.under (h : Only l b c) (j : UDie) (hl : Part.unders ∉ l := by decide) : c.under j = b.under j :=
  congrArg (fun v : Vector _ _ => v[j]) (h.same .unders hl)
theorem Only.rsv (h : Only l b c) (j : Fin 4) (hl : Part.rsvs ∉ l := by decide) : c.rsv j = b.rsv j :=
  congrArg (fun v : Vector _ _ => v[j]) (h.same .rsvs hl)
theorem Only.port (h : Only l b c) (j : Port) (hl : Part.ports ∉ l := by decide) : c.port j = b.port j :=
  congrArg (fun v : Vector _ _ => v[j]) (h.same .ports hl)
theorem Only.axis (h : Only l b c) (j : Axis) (hl : Part.axes ∉ l := by decide) : c.axis j = b.axis j :=
  congrArg (fun v : Vector _ _ => v[j]) (h.same .axes hl)
theorem Only.engine (h : Only l b c) (j : Region) (hl : Part.engines ∉ l := by decide) : c.engine j = b.engine j :=
  congrArg (fun v : Vector _ _ => v[j]) (h.same .engines hl)
theorem Only.bus (h : Only l b c) (j : Region) (hl : Part.buses ∉ l := by decide) : c.bus j = b.bus j :=
  congrArg (fun v : Vector _ _ => v[j]) (h.same .buses hl)
theorem Only.hk (h : Only l b c) (j : Region) (hl : Part.hks ∉ l := by decide) : c.hk j = b.hk j :=
  congrArg (fun v : Vector _ _ => v[j]) (h.same .hks hl)
theorem Only.sensor (h : Only l b c) (j : Fin 17) (hl : Part.sensors ∉ l := by decide) : c.sensor j = b.sensor j :=
  congrArg (fun v : Vector _ _ => v[j]) (h.same .sensors hl)
theorem Only.wm (h : Only l b c) (j : Fin 8) (hl : Part.wms ∉ l := by decide) : c.wm j = b.wm j :=
  congrArg (fun v : Vector _ _ => v[j]) (h.same .wms hl)
theorem Only.reg (h : Only l b c) (a : Nat) (hl : Part.regs ∉ l := by decide) : c.reg a = b.reg a :=
  congrArg (cellsGet regReset · a) (h.same .regs hl)
theorem Only.get (h : Only l b c) (f : Field) (hl : Part.regs ∉ l := by decide) : c.get f = b.get f :=
  congrArg f.read (h.reg f.addr hl)
theorem Only.flag (h : Only l b c) (f : Field) (hl : Part.regs ∉ l := by decide) : c.flag f = b.flag f :=
  congrArg (· != 0) (h.get f hl)
theorem Only.fieldsBut (h : Only l b c) (m : List Field) (hl : Part.regs ∉ l := by decide) : FieldsBut m b c :=
  fun g _ _ => h.get g hl
theorem Only.oneLeg (h : Only l b c) (k : Leg) (hl : Part.legs ∉ l := by decide) : OneLeg k b c := fun j _ => h.leg j hl
theorem Only.oneAxis (h : Only l b c) (k : Axis) (hl : Part.axes ∉ l := by decide) : OneAxis k b c := fun j _ => h.axis j hl
theorem Only.onePort (h : Only l b c) (k : Port) (hl : Part.ports ∉ l := by decide) : OnePort k b c := fun j _ => h.port j hl

end

/-! ### The basic updates -/

section
variable (c : Chip)

theorem Only.setReg (a : Nat) (w : Word) : Only [.regs] c (c.setReg a w) := .of_mix rfl
theorem Only.put (f : Field) (v : Nat) : Only [.regs] c (c.put f v) := .of_mix rfl
theorem Only.putF (f : Field) (b : Bool) : Only [.regs] c (c.putF f b) := .of_mix rfl
theorem Only.puts (f : Field) (i : Int) : Only [.regs] c (c.puts f i) := .of_mix rfl
theorem Only.addWrap (f : Field) (i : Int) : Only [.regs] c (c.addWrap f i) := .of_mix rfl
theorem Only.put64 (a : Nat) (i : Int) : Only [.regs] c (c.put64 a i) := .of_mix rfl
theorem Only.add64 (a : Nat) (i : Int) : Only [.regs] c (c.add64 a i) := .of_mix rfl
theorem Only.mark (f : Field) : Only [.regs, .fresh] c (c.mark f) := .of_mix rfl
theorem Only.bump (f : Field) (n : Nat) : Only [.regs, .fresh] c (c.bump f n) := .of_mix rfl
theorem Only.putMax (f : Field) (v : Nat) : Only [.regs, .fresh] c (c.putMax f v) := .of_mix rfl
theorem Only.setLeg (l : Leg) (x : LegState) : Only [.legs] c (c.setLeg l x) := .of_mix rfl
theorem Only.setLink (d : Die) (x : LinkState) : Only [.links] c (c.setLink d x) := .of_mix rfl
theorem Only.setTb (n : Tb) (x : TbState) : Only [.tbs] c (c.setTb n x) := .of_mix rfl
theorem Only.setSlice (k : SliceId) (x : SliceState) : Only [.slices] c (c.setSlice k x) := .of_mix rfl
theorem Only.setUnder (d : UDie) (x : UnderState) : Only [.unders] c (c.setUnder d x) := .of_mix rfl
theorem Only.setRsv (m : Fin 4) (x : RsvState) : Only [.rsvs] c (c.setRsv m x) := .of_mix rfl
theorem Only.setPort (p : Port) (x : PortState) : Only [.ports] c (c.setPort p x) := .of_mix rfl
theorem Only.setAxis (a : Axis) (x : AxisState) : Only [.axes] c (c.setAxis a x) := .of_mix rfl
theorem Only.setEngine (e : Region) (x : Option Axis) : Only [.engines] c (c.setEngine e x) := .of_mix rfl
theorem Only.setBus (r : Region) (x : BusState) : Only [.buses] c (c.setBus r x) := .of_mix rfl
theorem Only.setHk (n : Region) (x : HkState) : Only [.hks] c (c.setHk n x) := .of_mix rfl
theorem Only.setSensor (n : Fin 17) (x : TsState) : Only [.sensors] c (c.setSensor n x) := .of_mix rfl
theorem Only.setWm (m : Fin 8) (x : WmState) : Only [.wms] c (c.setWm m x) := .of_mix rfl
theorem Only.useFree : Only [.free] c c.useFree := .of_mix rfl
theorem Only.raise (s : Nat) : Only [.faults] c (c.raise s) := .of_mix rfl
theorem Only.markIf (b : Bool) (f : Field) : Only [.regs, .fresh] c (c.markIf b f) := by
  cases b
  · exact .refl _ c
  · exact .mark c f
theorem Only.report (src n code : Nat) (mask : BitVec 8) (inj : Bool) : Only [.faults] c (c.report src n code mask inj) :=
  Only.ite (.refl _ c) (.of_mix rfl)
theorem Only.raiseIf (b : Bool) (src : Nat) : Only [.faults] c (c.raiseIf b src) := by
  cases b
  · exact .refl _ c
  · exact .raise c src

end

end Sys2Proof.Machine
end

section
-- One proof after the other: a side goal that `Only` settles by `decide` waits for the kernel, on a thread of its own.
set_option Elab.async false
/-! SUPPORT. Rows on the volatile part in general, the gates of a leg, and the edges and the handshake of a leg; and the
statement about them (R75, R76, R79, R92). -/
namespace Sys2Proof.Machine

/-! ### Rows on the volatile part -/

/-- A row that changes nothing leaves the state. -/
theorem idles_of_run {i : Instr} {s : State} (f : Chip → Chip) (row : exec i s = s.run f) (h : f s.chip = s.chip) :
    exec i s = .next s := by
  rw [row, State.run_eq, h]

/-- A row completes with what its operation leaves. -/
theorem completes_of_run {i : Instr} {s : State} {P : Chip → Prop} {d : Chip} (f : Chip → Chip)
    (row : exec i s = s.run f) (h : f s.chip = d) (hp : P d) : Completes i s P :=
  ⟨d, by rw [row, State.run_eq, h], hp⟩

/-! ### The state of one leg -/

@[simp] theorem Chip.setLeg_setLeg (c : Chip) (l : Leg) (x y : LegState) : (c.setLeg l x).setLeg l y = c.setLeg l y := by
  simp [Chip.setLeg]

/-- A part that keeps its other legs. -/
theorem OneLeg.refl (l : Leg) (c : Chip) : OneLeg l c c := fun _ _ => rfl

theorem OneLeg.setLeg {b c : Chip} {l : Leg} (h : OneLeg l b c) (x : LegState) : OneLeg l b (c.setLeg l x) :=
  fun k hk => (Chip.leg_setLeg_ne c l x hk).trans (h k hk)

/-- The operation changes the state of leg `l` and nothing else. -/
def LegAt (l : Leg) (b c : Chip) : Prop := ∃ x, c = b.setLeg l x

theorem LegAt.setLeg (l : Leg) (c : Chip) (x : LegState) : LegAt l c (c.setLeg l x) := ⟨x, rfl⟩

theorem LegAt.trans {l : Leg} {a b c : Chip} (h : LegAt l a b) (k : LegAt l b c) : LegAt l a c := by
  obtain ⟨x, rfl⟩ := h
  obtain ⟨y, rfl⟩ := k
  exact ⟨y, a.setLeg_setLeg l x y⟩

theorem LegAt.ite {l : Leg} {a b c : Chip} {p : Prop} [Decidable p] (hb : LegAt l a b) (hc : LegAt l a c) :
    LegAt l a (if p then b else c) := by
  split
  · exact hb
  · exact hc

/-- The state of the leg that such an operation leaves says all that it does. -/
theorem LegAt.eq {l : Leg} {b c : Chip} (h : LegAt l b c) : c = b.setLeg l (c.leg l) := by
  obtain ⟨x, rfl⟩ := h
  rw [Chip.leg_setLeg]

theorem LegAt.only {l : Leg} {b c : Chip} (h : LegAt l b c) : Only [.legs] b c := by
  obtain ⟨x, rfl⟩ := h
  exact .setLeg ..

theorem LegAt.frame {l : Leg} {b c : Chip} (h : LegAt l b c) : OneLeg l b c ∧ c = { b with legs := c.legs } := by
  obtain ⟨x, rfl⟩ := h
  exact ⟨(OneLeg.refl l b).setLeg x, rfl⟩

/-! ### Gates -/

section
variable (x : LegState) (now : Nat)

@[simp] theorem otherGate_otherGate (g : Gate) : otherGate (otherGate g) = g := by cases g <;> rfl

/-- A gate turned off is neither commanded on nor on. -/
theorem LegState.turnOff_off (g : Gate) : (x.turnOff now g).cmd g = false ∧ (x.turnOff now g).on g = false := by
  unfold LegState.turnOff
  split
  next idle => simpa using idle
  next => cases g <;> exact ⟨rfl, rfl⟩

/-- The tick of a turn-off command is kept. -/
theorem LegState.turnOff_tick {g : Gate} (h : x.cmd g = true) : (x.turnOff now g).off g = some now := by
  unfold LegState.turnOff
  rw [if_neg (by simp [h])]
  cases g <;> rfl

theorem LegState.turnOff_other (g : Gate) :
    (x.turnOff now g).cmd (otherGate g) = x.cmd (otherGate g) ∧ (x.turnOff now g).on (otherGate g) = x.on (otherGate g) := by
  unfold LegState.turnOff
  split
  next => exact ⟨rfl, rfl⟩
  next => cases g <;> exact ⟨rfl, rfl⟩

/-- Turning a gate off leaves all but the gate. -/
theorem LegState.turnOff_eq (g : Gate) : x.turnOff now g =
    { x with
      ghCmd := (x.turnOff now g).ghCmd, glCmd := (x.turnOff now g).glCmd, ghOn := (x.turnOff now g).ghOn
      glOn := (x.turnOff now g).glOn, ghOff := (x.turnOff now g).ghOff, glOff := (x.turnOff now g).glOff
      ghEdge := (x.turnOff now g).ghEdge, glEdge := (x.turnOff now g).glEdge } := by
  unfold LegState.turnOff
  split
  next => rfl
  next => cases g <;> rfl

end

section
variable (c : Chip) (l : Leg)

theorem LegAt.askGate (g : Gate) : LegAt l c (c.askGate l g) := by
  unfold Chip.askGate
  exact LegAt.ite (.setLeg ..) (.setLeg ..)

theorem LegAt.gates (g : Option Gate) : LegAt l c (c.gates l g) := by
  cases g with
  | none => exact .setLeg ..
  | some g => exact (LegAt.setLeg ..).trans (LegAt.askGate ..)

/-- What only asking the gates of a leg changes: its gates, their ticks, and the wait for the handshake. -/
def GatesOnly (x y : LegState) : Prop :=
  y = { x with
    ghCmd := y.ghCmd, glCmd := y.glCmd, ghOn := y.ghOn, glOn := y.glOn, ghOff := y.ghOff, glOff := y.glOff
    ghEdge := y.ghEdge, glEdge := y.glEdge, waiting := y.waiting, deadTick := y.deadTick }

theorem GatesOnly.refl (x : LegState) : GatesOnly x x := rfl

theorem GatesOnly.trans {x y z : LegState} (h : GatesOnly x y) (k : GatesOnly y z) : GatesOnly x z := by
  unfold GatesOnly at *
  rw [k, h]

theorem GatesOnly.turnOff (x : LegState) (now : Nat) (g : Gate) : GatesOnly x (x.turnOff now g) := by
  unfold GatesOnly LegState.turnOff
  split
  next => rfl
  next => cases g <;> rfl

theorem Chip.askGate_only (g : Gate) : GatesOnly (c.leg l) ((c.askGate l g).leg l) := by
  unfold Chip.askGate
  cases g <;> dsimp only <;> split <;> rw [Chip.leg_setLeg] <;> rfl

theorem Chip.gates_only (g : Option Gate) : GatesOnly (c.leg l) ((c.gates l g).leg l) := by
  cases g with
  | none =>
    have off := (GatesOnly.turnOff (c.leg l) c.now .high).trans (GatesOnly.turnOff _ c.now .low)
    rw [Chip.gates, Chip.leg_setLeg]
    exact off.trans rfl
  | some g =>
    have off := GatesOnly.turnOff (c.leg l) c.now (otherGate g)
    refine GatesOnly.trans ?_ (Chip.askGate_only _ l g)
    rw [Chip.leg_setLeg]
    exact off.trans rfl

/-- A gate that is asked for is commanded on and its complement stays; one that is not on waits. -/
theorem Chip.askGate_cmd (g : Gate) :
    ((c.askGate l g).leg l).cmd g = true ∧
    ((c.askGate l g).leg l).cmd (otherGate g) = (c.leg l).cmd (otherGate g) ∧
    ((c.askGate l g).leg l).on = (c.leg l).on ∧ ((c.askGate l g).leg l).off = (c.leg l).off ∧
    ((c.leg l).on g = false → ((c.askGate l g).leg l).waiting = some g) := by
  cases g <;> simp only [Chip.askGate] <;> split <;> rw [Chip.leg_setLeg] <;>
    refine ⟨rfl, rfl, rfl, rfl, fun off => ?_⟩ <;> simp_all [LegState.on]

/-- Commanding one gate on turns its complement off, and the gate waits for the handshake unless it is on. -/
theorem Chip.gates_some (g : Gate) :
    ((c.gates l (some g)).leg l).cmd g = true ∧ ((c.gates l (some g)).leg l).cmd (otherGate g) = false ∧
    ((c.gates l (some g)).leg l).on (otherGate g) = false ∧
    ((c.leg l).cmd (otherGate g) = true → ((c.gates l (some g)).leg l).off (otherGate g) = some c.now) ∧
    ((c.leg l).on g = false → ((c.gates l (some g)).leg l).waiting = some g) := by
  have turned := (c.leg l).turnOff_off c.now (otherGate g)
  have kept := (c.leg l).turnOff_other c.now (otherGate g)
  have tick := (c.leg l).turnOff_tick c.now (g := otherGate g)
  rw [otherGate_otherGate] at kept
  generalize hy : (c.leg l).turnOff c.now (otherGate g) = y at turned kept tick
  simp only [Chip.gates, hy]
  generalize (if y.waiting == some g then some g else none) = w
  obtain ⟨asked, comp, on, off, waits⟩ := (c.setLeg l { y with waiting := w }).askGate_cmd l g
  rw [Chip.leg_setLeg] at comp on off waits
  refine ⟨asked, ?_, ?_, fun h => ?_, fun h => waits ?_⟩
  · exact comp.trans (by cases g <;> exact turned.1)
  · rw [on]
    cases g <;> exact turned.2
  · rw [off]
    cases g <;> exact tick h
  · cases g <;> exact kept.2.trans h

/-- Commanding both gates off leaves neither on nor waiting. -/
theorem Chip.gates_none (g : Gate) :
    ((c.gates l none).leg l).cmd g = false ∧ ((c.gates l none).leg l).on g = false ∧
    ((c.gates l none).leg l).waiting = none := by
  have low := (((c.leg l).turnOff c.now .high).turnOff_off c.now .low)
  have high := (((c.leg l).turnOff c.now .high).turnOff_other c.now .low)
  have off := (c.leg l).turnOff_off c.now .high
  rw [Chip.gates, Chip.leg_setLeg]
  cases g
  case high => exact ⟨high.1.trans off.1, high.2.trans off.2, rfl⟩
  case low => exact ⟨low.1, low.2, rfl⟩

end

/-! ### The commanded edges (R76) -/

section
variable {c : Chip} {l : Leg}

/-- The commanded rise of a leg that runs, in its tick, with a high interval that is not dropped. -/
theorem Chip.rise_eq (runs : c.legRuns l = true) (first : (c.leg l).rose = false)
    (due : c.placeDue l (c.risePlace l (c.duty1 l)) = true) (high : c.noHigh l = false) :
    c.rise l .none = if (c.leg l).refresh.isSome then c.setLeg l { c.leg l with rose := true }
      else (c.setLeg l { c.leg l with rose := true }).gates l (some .high) := by
  simp [Chip.rise, runs, first, due, high, Chip.commandGate]

/-- The commanded fall of a leg that runs, in its tick, where no interval is dropped. -/
theorem Chip.fall_eq (runs : c.legRuns l = true) (first : (c.leg l).fell = false)
    (due : c.placeDue l (c.fallPlace l (c.duty1 l)) = true) (low : c.noLow l = false)
    (high : c.noHigh l = false ∨ (c.leg l).ghCmd = true) :
    c.fall l .none = if (c.leg l).refresh.isSome then c.setLeg l { c.leg l with rose := true, fell := true }
      else (c.setLeg l { c.leg l with rose := true, fell := true }).gates l (some .low) := by
  have kept : (c.noHigh l && !(c.leg l).ghCmd) = false := by
    rcases high with h | h <;> simp [h]
  simp [Chip.fall, runs, first, due, low, kept, Chip.commandGate]

/-- What an edge in PWM mode leaves of its leg, which it marks as `x`: while a refresh runs only the mark, otherwise gate `g`
commanded on and its complement off. -/
def Edge (l : Leg) (g : Gate) (x : LegState) (b c : Chip) : Prop :=
  ((b.leg l).refresh.isSome = true → c.leg l = x) ∧
  ((b.leg l).refresh = none → (c.leg l).cmd g = true ∧ (c.leg l).cmd (otherGate g) = false ∧
    ((b.leg l).cmd (otherGate g) = true → (c.leg l).on (otherGate g) = false ∧ (c.leg l).off (otherGate g) = some b.now) ∧
    ((b.leg l).on g = false → (c.leg l).waiting = some g)) ∧
  GatesOnly x (c.leg l) ∧ LegAt l b c

theorem Edge.intro {g : Gate} {x : LegState} (cmd : x.cmd = (c.leg l).cmd) (on : x.on = (c.leg l).on) :
    Edge l g x c (if (c.leg l).refresh.isSome then c.setLeg l x else (c.setLeg l x).gates l (some g)) := by
  split
  next refreshing =>
    refine ⟨fun _ => c.leg_setLeg l x, fun h => ?_, ?_, .setLeg ..⟩
    · simp [h] at refreshing
    · rw [Chip.leg_setLeg]
      exact .refl x
  next quiet =>
    obtain ⟨asked, comp, off, tick, waits⟩ := (c.setLeg l x).gates_some l g
    have only := (c.setLeg l x).gates_only l (some g)
    rw [Chip.leg_setLeg] at tick waits only
    rw [cmd] at tick
    rw [on] at waits
    exact ⟨fun h => absurd h quiet, fun _ => ⟨asked, comp, fun h => ⟨off, tick h⟩, waits⟩, only,
      (LegAt.setLeg l c x).trans (LegAt.gates ..)⟩

end

/-! ### The handshake (R79) -/

section
variable {c : Chip} {l : Leg} {g : Gate}

/-- The gate `g` of the leg turned on in tick `now`. -/
def LegState.turnedOn (x : LegState) (now : Nat) (g : Gate) : LegState :=
  match g with
  | .high => { x with waiting := none, ghOn := true, ghEdge := some now }
  | .low => { x with waiting := none, glOn := true, glEdge := some now }

theorem LegState.turnedOn_gate (x : LegState) (now : Nat) (g : Gate) :
    (x.turnedOn now g).waiting = none ∧ (x.turnedOn now g).on g = true ∧ (x.turnedOn now g).edge g = some now ∧
    (x.turnedOn now g).on (otherGate g) = x.on (otherGate g) := by
  cases g <;> exact ⟨rfl, rfl, rfl, rfl⟩

/-- A gate whose handshake is complete turns on, and its wait is shown. -/
theorem Chip.turnOn_eq (may : c.mayTurnOn l g = true) :
    c.turnOn l g = (c.setLeg l ((c.leg l).turnedOn c.now g)).putMax (LEG_CNT_HSWAIT_MAX l.val)
      (c.now - max (c.leg l).deadTick (c.deadEnd l (otherGate g))) := by
  unfold Chip.turnOn
  rw [if_pos may]
  cases g <;> rfl

/-- No gate turns on before its complement is off, registered below since the tick before, and the dead time is over. -/
theorem Chip.turnOn_idle (h : (c.leg l).cmd (otherGate g) = true ∨ (c.leg l).below (otherGate g) = false ∨
    c.now < (c.leg l).clear (otherGate g) ∨ c.now < c.deadEnd l (otherGate g)) : c.turnOn l g = c := by
  have not_yet : c.mayTurnOn l g = false := by
    rcases h with h | h | h | h <;> simp [Chip.mayTurnOn, h]
  simp [Chip.turnOn, not_yet]

/-- The level of gate `g` after a crossing in tick `now`. -/
def LegState.crossed (x : LegState) (now : Nat) (g : Gate) (above : Bool) : LegState :=
  match g with
  | .high => { x with ghBelow := !above, ghClear := now + 2 }
  | .low => { x with glBelow := !above, glClear := now + 2 }

theorem LegState.crossed_gate (x : LegState) (now : Nat) (g : Gate) (above : Bool) :
    (x.crossed now g above).below g = !above ∧ (x.crossed now g above).clear g = now + 2 := by
  cases g <;> exact ⟨rfl, rfl⟩

theorem Chip.crossing_eq {above : Bool} (h : (c.leg l).below g = above) :
    c.crossing l g above = (c.setLeg l ((c.leg l).crossed c.now g above)).putF (LEG_STAT_GATE_LIVE l.val)
      (c.flag (LEG_STAT_GATE_LIVE l.val) && (c.setLeg l ((c.leg l).crossed c.now g above)).gateBad l) := by
  unfold Chip.crossing
  rw [if_neg (by simp [h])]
  cases g <;> rfl

/-- The cause of GATE lies in the gates and the timer of the handshake, not in the condition's own bits. -/
theorem Chip.gateBad_put (c : Chip) (l : Leg) (f : Field) (v : Nat) (h : f.addr = LEG_STAT l.val) :
    (c.put f v).gateBad l = c.gateBad l := by
  have timer : (c.put f v).get (LEG_CFG_HS_TO l.val) = c.get (LEG_CFG_HS_TO l.val) :=
    c.get_put_ne _ _ _ (by rw [h]; simp [LEG_CFG_HS_TO, LEG_CFG, LEG_STAT])
  unfold Chip.gateBad
  rw [timer]
  rfl

end

end Sys2Proof.Machine

open Sys2Proof.Machine

/-- Settles O2: both edges are one request for a gate, and the handshake's rows are equations of their own. -/
theorem legEdges : Obligations.LegEdges := by
  refine ⟨⟨?rise, ?fall⟩, ?turnOn, ?early, ?crossing⟩
  case rise =>
    intro s l runs first due
    refine ⟨fun dropped => idles_of_run (·.rise l .none) rfl (by simp [Chip.rise, dropped]), fun high => ?_⟩
    obtain ⟨marked, gates, only, at_leg⟩ := Edge.intro (c := s.chip) (l := l) (g := .high)
      (x := { s.chip.leg l with rose := true }) rfl rfl
    exact completes_of_run (·.rise l .none) rfl (Chip.rise_eq runs first due high) ⟨congrArg LegState.rose only, marked, gates, at_leg.frame⟩
  case fall =>
    intro s l runs first due
    refine ⟨fun dropped => idles_of_run (·.fall l .none) rfl ?_, fun low high => ?_⟩
    · rcases dropped with h | ⟨h, k⟩
      · simp [Chip.fall, h]
      · simp [Chip.fall, h, k]
    · obtain ⟨marked, gates, only, at_leg⟩ := Edge.intro (c := s.chip) (l := l) (g := .low)
        (x := { s.chip.leg l with rose := true, fell := true }) rfl rfl
      refine completes_of_run (·.fall l .none) rfl (Chip.fall_eq runs first due low high) ⟨congrArg LegState.fell only, marked, ?_, at_leg.frame⟩
      intro quiet
      obtain ⟨on, off, rest⟩ := gates quiet
      exact ⟨off, on, rest⟩
  case turnOn =>
    intro s l g waits comp below clear dead
    have may : s.chip.mayTurnOn l g = true := by simp [Chip.mayTurnOn, waits, comp, below, clear, dead]
    obtain ⟨waiting, on, edge, other⟩ := (s.chip.leg l).turnedOn_gate s.chip.now g
    refine completes_of_run (·.turnOn l g) rfl (Chip.turnOn_eq may) ?_
    rw [Chip.leg_putMax, Chip.leg_setLeg]
    exact ⟨waiting, on, edge, other,
      ((FieldsBut.refl _ s.chip).of_regs rfl).putMax _ _ (Field.ok_of _ rfl) List.mem_cons_self,
      (OneLeg.refl l s.chip).setLeg _, rfl⟩
  case early =>
    intro s l g h
    exact idles_of_run (·.turnOn l g) rfl (Chip.turnOn_idle h)
  case crossing =>
    intro s l g above h
    obtain ⟨below, clear⟩ := (s.chip.leg l).crossed_gate s.chip.now g above
    refine completes_of_run (·.crossing l g above) rfl (Chip.crossing_eq h) ?_
    rw [Chip.leg_putF, Chip.leg_setLeg]
    refine ⟨below, clear, ?_, ((FieldsBut.refl _ s.chip).of_regs rfl).putF _ _ (Field.ok_of _ rfl) List.mem_cons_self,
      (OneLeg.refl l s.chip).setLeg _, rfl⟩
    rw [Chip.flag_putF _ _ (Field.ok_of _ rfl), Chip.putF, Chip.gateBad_put _ _ _ _ rfl, Bool.and_eq_true]
end

section
-- One proof after the other: a side goal that `Only` settles by `decide` waits for the kernel, on a thread of its own.
set_option Elab.async false
/-! SUPPORT. The conditions of a leg and its bursts on the fault line; and the statement about them (R80 to R82, R90 to
R94). -/
namespace Sys2Proof.Machine

variable {c : Chip} {l : Leg}

/-! ### Events beside the rest -/

theorem Chip.raiseIf_faults (c : Chip) (b : Bool) (src : Nat) :
    (c.raiseIf b src).faults =
      { c.faults with events := c.faults.events ++ if b then [⟨src, 1, 0, 0, false⟩] else [] } := by
  cases b <;> simp [Chip.raiseIf, Chip.raise, Chip.report]

theorem Chip.each_raiseIf_none (c : Chip) {new : Nat → Bool} (src : Nat → Nat) (l : List Nat) (h : ∀ j ∈ l, new j = false) :
    c.each l (fun d j => d.raiseIf (new j) (src j)) = c :=
  Chip.each_keeps (P := fun d => d = c) l rfl fun d hd j hj => by
    rw [h j hj]
    exact hd

/-! ### Raising a condition (R90 to R93) -/

theorem LegCondition.legCond (c : Chip) (l : Leg) (sticky live : Field) (j : Nat) (hs : sticky.ok) (hl : live.ok)
    (ha : sticky.apart live) : LegCondition l sticky live j c (c.legCond l sticky live j) := by
  have one (f : Field) (hf : f.ok) : 1 % 2 ^ (f.hi + 1 - f.lo) = 1 :=
    Nat.mod_eq_of_lt (Nat.one_lt_two_pow (by have := hf.1; omega))
  have fields : FieldsBut [sticky, live] c (c.legCond l sticky live j) :=
    ((((FieldsBut.refl _ c).of_regs (by rfl)).mark sticky hs List.mem_cons_self).put live 1 hl (by simp)).of_regs
      (Chip.raiseIf_regs ..)
  refine ⟨?sticky, ?live, ?faults, ?leg, ?others, fields, ?frame⟩
  case sticky =>
    rw [Chip.legCond, Chip.raiseIf_get, Chip.get_put_apart _ _ _ _ hs hl ha, Chip.mark, Chip.noteFresh_get,
      Chip.get_put _ _ hs, one sticky hs]
  case live => rw [Chip.legCond, Chip.raiseIf_get, Chip.get_put _ _ hl, one live hl]
  case faults =>
    rw [Chip.legCond, Chip.raiseIf_faults]
    cases h : c.flag live <;> simp [h]
  case leg => rw [Chip.legCond, Chip.leg_raiseIf, Chip.leg_put, Chip.leg_mark, Chip.leg_setLeg]
  case others =>
    intro k hk
    rw [Chip.legCond, Chip.leg_raiseIf, Chip.leg_put, Chip.leg_mark, Chip.leg_setLeg_ne _ _ _ hk]
  case frame =>
    exact (((((Only.refl [.regs, .fresh, .legs, .faults] c).then (.setLeg ..)).then (.mark _ sticky)).then
      (.put _ live 1)).then (.raiseIf ..)).eq

/-- Both on-requests together keep both gates off, with XCMD (R81). -/
theorem Chip.rise_both (runs : c.legRuns l = true) (first : (c.leg l).rose = false)
    (due : c.placeDue l (c.risePlace l (c.duty1 l)) = true) :
    c.rise l .both = (c.setLeg l { c.leg l with rose := true }).xcmd l := by
  simp [Chip.rise, runs, first, due, Chip.commandGate]

/-! ### Bursts (R93, R94) -/

theorem burstOf_start (w : BitVec 4) : (burstOf w).getLsbD 5 = true := by
  revert w
  decide

theorem burstOf_conds (w : BitVec 4) : (burstOf w ^^^ 0).extractLsb' 1 4 = w := by
  revert w
  decide

theorem burst_start {w : BitVec 4} {err : BitVec 6} : (burstOf w ^^^ err).getLsbD 5 = !err.getLsbD 5 := by
  rw [BitVec.getLsbD_xor, burstOf_start, Bool.true_xor]

/-- A burst carries no condition but those active and those not yet carried. -/
theorem Chip.legConds_bit (c : Chip) (l : Leg) (j : Nat) (hj : j ∈ [0, 1, 2, 3]) :
    (c.legConds l).getLsbD (3 - j) = ((c.leg l).owed.getLsbD (3 - j) || c.legActive l j) := by
  unfold Chip.legConds
  generalize (c.leg l).owed = w
  simp only [List.foldl_cons, List.foldl_nil]
  simp only [List.mem_cons, List.not_mem_nil, or_false] at hj
  rcases hj with rfl | rfl | rfl | rfl <;>
    generalize c.legActive l 0 = p <;> generalize c.legActive l 1 = q <;> generalize c.legActive l 2 = r <;>
    generalize c.legActive l 3 = t <;> revert w p q r t <;> decide

/-- What the C-die sees of the leg once it has taken the conditions `w` of a burst (R93). -/
def LegState.seeing (x : LegState) (w : BitVec 4) : LegState :=
  { x with
    owed := 0
    seen := (x.seen ||| w) &&& ~~~(x.seen &&& ~~~w &&& x.missed)
    missed := x.seen &&& ~~~w &&& ~~~x.missed }

theorem Chip.burstTaken_only (c : Chip) (l : Leg) (w : BitVec 4) :
    Only [.faults] (c.setLeg l ((c.leg l).seeing w)) (c.burstTaken l w) :=
  Only.each _ _ fun d _ _ => .raiseIf d _ _

/-- A burst as it was sent tells the C-die nothing that was not counted at the leg. -/
theorem Chip.burstTaken_sent (c : Chip) (l : Leg) :
    c.burstTaken l (c.legConds l) = c.setLeg l ((c.leg l).seeing (c.legConds l)) := by
  refine Chip.each_raiseIf_none (c.setLeg l ((c.leg l).seeing (c.legConds l))) _ _ fun j hj => ?_
  rw [c.legConds_bit l j hj]
  cases (c.leg l).owed.getLsbD (3 - j) <;> cases c.legActive l j <;> simp

theorem Chip.leg_burstTaken (c : Chip) (l : Leg) (w : BitVec 4) : (c.burstTaken l w).leg l = (c.leg l).seeing w := by
  rw [(c.burstTaken_only l w).leg l, Chip.leg_setLeg]

theorem OneLeg.burstTaken (c : Chip) (l : Leg) (w : BitVec 4) : OneLeg l c (c.burstTaken l w) := by
  intro k hk
  rw [(c.burstTaken_only l w).leg k, c.leg_setLeg_ne l _ hk]

theorem Only.burstTaken (c : Chip) (l : Leg) (w : BitVec 4) : Only [.legs, .faults] c (c.burstTaken l w) :=
  (Only.setLeg c l _).mono.then (c.burstTaken_only l w)

theorem LegState.seeing_all (x : LegState) : x.seeing 15 = { x with owed := 0, seen := 15, missed := 0 } := by
  have all : ∀ a b : BitVec 4, (a ||| 15) &&& ~~~(a &&& ~~~15 &&& b) = 15 ∧ a &&& ~~~15 &&& ~~~b = 0 := by decide
  unfold LegState.seeing
  rw [(all x.seen x.missed).1, (all x.seen x.missed).2]

theorem Chip.burst_taken {err : BitVec 6} (active : c.legConds l ≠ 0) (start : err.getLsbD 5 = false)
    (even : burstEven (burstOf (c.legConds l) ^^^ err) = true) :
    c.burst l err = c.burstTaken l ((burstOf (c.legConds l) ^^^ err).extractLsb' 1 4) := by
  rw [Chip.burst, if_neg active, burst_start, start, if_neg (by decide), if_pos even]

theorem Chip.burst_odd {err : BitVec 6} (active : c.legConds l ≠ 0) (start : err.getLsbD 5 = false)
    (odd : burstEven (burstOf (c.legConds l) ^^^ err) = false) :
    c.burst l err = ((c.burstTaken l 15).mark (LEG_STAT_BURST_ERR l.val)).raise (srcLink (dieOfLeg l)) := by
  rw [Chip.burst, if_neg active, burst_start, start, if_neg (by decide), if_neg (by rw [odd]; decide)]

/-! ### Silence (R93) -/

/-- A field cleared if `b`. -/
def Chip.clearIf (c : Chip) (b : Bool) (f : Field) : Chip := if b then c.put f 0 else c

theorem Chip.get_clearIf (c : Chip) (b : Bool) (f : Field) (hf : f.ok) :
    (c.clearIf b f).get f = if b then 0 else c.get f := by
  cases b
  · rfl
  · exact (c.get_put f hf 0).trans (Nat.zero_mod _)

/-- Another concrete field of the same register stays. -/
theorem Chip.get_clearIf_beside (c : Chip) (b : Bool) (f g : Field)
    (h : (Nat.ble f.lo f.hi && Nat.blt f.hi 32 && (Nat.ble g.lo g.hi && Nat.blt g.hi 32) &&
      (Nat.blt f.hi g.lo || Nat.blt g.hi f.lo)) = true) : (c.clearIf b g).get f = c.get f := by
  cases b
  · rfl
  · exact c.get_put_beside f g 0 h

theorem Only.clearIf (c : Chip) (b : Bool) (f : Field) : Only [.regs] c (c.clearIf b f) := by
  cases b
  · exact .refl _ c
  · exact .put c f 0

theorem FieldsBut.clearIf {m : List Field} {a d : Chip} (h : FieldsBut m a d) (b : Bool) (f : Field) (hf : f.ok)
    (hm : f ∈ m) : FieldsBut m a (d.clearIf b f) := by
  cases b
  · exact h
  · exact h.put f 0 hf hm

/-- The conditions that silence ends: GATE stays while its cause lasts (R92). -/
def Chip.ending (c : Chip) (l : Leg) (conds : BitVec 4) : BitVec 4 := if c.gateBad l then conds &&& 13 else conds

/-- The live bits of the conditions in `w` clear. -/
def Chip.endConds (c : Chip) (l : Leg) (w : BitVec 4) : Chip :=
  ((((c.clearIf (w.getLsbD 3) (LEG_STAT_VDS_HS_LIVE l.val)).clearIf (w.getLsbD 3) (LEG_STAT_VDS_LS_LIVE l.val)).clearIf
    (w.getLsbD 2) (LEG_STAT_BST_UV_LIVE l.val)).clearIf (w.getLsbD 1) (LEG_STAT_GATE_LIVE l.val)).clearIf
    (w.getLsbD 0) (LEG_STAT_TRIP_LIVE l.val)

/-- The live bits that silence clears. -/
def liveFields (l : Leg) : List Field :=
  [LEG_STAT_TRIP_LIVE l.val, LEG_STAT_GATE_LIVE l.val, LEG_STAT_BST_UV_LIVE l.val, LEG_STAT_VDS_HS_LIVE l.val,
    LEG_STAT_VDS_LS_LIVE l.val]

theorem Chip.burstSilence_eq (c : Chip) (l : Leg) (conds : BitVec 4) :
    c.burstSilence l conds = (c.setLeg l { c.leg l with
      seen := (c.leg l).seen &&& ~~~c.ending l conds, missed := (c.leg l).missed &&& ~~~c.ending l conds
      owed := (c.leg l).owed &&& ~~~c.ending l conds }).endConds l (c.ending l conds) := rfl

theorem Only.endConds (c : Chip) (l : Leg) (w : BitVec 4) : Only [.regs] c (c.endConds l w) :=
  ((((Only.clearIf c _ _).then (.clearIf ..)).then (.clearIf ..)).then (.clearIf ..)).then (.clearIf ..)

theorem FieldsBut.endConds (c : Chip) (l : Leg) (w : BitVec 4) : FieldsBut (liveFields l) c (c.endConds l w) :=
  (((((FieldsBut.refl _ c).clearIf _ _ (Field.ok_of _ rfl) (by simp [liveFields])).clearIf _ _ (Field.ok_of _ rfl)
    (by simp [liveFields])).clearIf _ _ (Field.ok_of _ rfl) (by simp [liveFields])).clearIf _ _ (Field.ok_of _ rfl)
    (by simp [liveFields])).clearIf _ _ (Field.ok_of _ rfl) (by simp [liveFields])

/-- Each live bit reads 0 where its condition is among those that end, and stays otherwise. -/
theorem Chip.get_endConds (c : Chip) (l : Leg) (w : BitVec 4) :
    (c.endConds l w).get (LEG_STAT_TRIP_LIVE l.val) =
      (if w.getLsbD 0 then 0 else c.get (LEG_STAT_TRIP_LIVE l.val)) ∧
    (c.endConds l w).get (LEG_STAT_GATE_LIVE l.val) =
      (if w.getLsbD 1 then 0 else c.get (LEG_STAT_GATE_LIVE l.val)) ∧
    (c.endConds l w).get (LEG_STAT_BST_UV_LIVE l.val) =
      (if w.getLsbD 2 then 0 else c.get (LEG_STAT_BST_UV_LIVE l.val)) ∧
    (c.endConds l w).get (LEG_STAT_VDS_HS_LIVE l.val) =
      (if w.getLsbD 3 then 0 else c.get (LEG_STAT_VDS_HS_LIVE l.val)) ∧
    (c.endConds l w).get (LEG_STAT_VDS_LS_LIVE l.val) =
      (if w.getLsbD 3 then 0 else c.get (LEG_STAT_VDS_LS_LIVE l.val)) := by
  unfold Chip.endConds
  refine ⟨?trip, ?gate, ?bst, ?high, ?low⟩
  case trip =>
    rw [Chip.get_clearIf _ _ _ (Field.ok_of _ rfl), Chip.get_clearIf_beside _ _ _ _ rfl, Chip.get_clearIf_beside _ _ _ _ rfl,
      Chip.get_clearIf_beside _ _ _ _ rfl, Chip.get_clearIf_beside _ _ _ _ rfl]
  case gate =>
    rw [Chip.get_clearIf_beside _ _ _ _ rfl, Chip.get_clearIf _ _ _ (Field.ok_of _ rfl), Chip.get_clearIf_beside _ _ _ _ rfl,
      Chip.get_clearIf_beside _ _ _ _ rfl, Chip.get_clearIf_beside _ _ _ _ rfl]
  case bst =>
    rw [Chip.get_clearIf_beside _ _ _ _ rfl, Chip.get_clearIf_beside _ _ _ _ rfl, Chip.get_clearIf _ _ _ (Field.ok_of _ rfl),
      Chip.get_clearIf_beside _ _ _ _ rfl, Chip.get_clearIf_beside _ _ _ _ rfl]
  case high =>
    rw [Chip.get_clearIf_beside _ _ _ _ rfl, Chip.get_clearIf_beside _ _ _ _ rfl, Chip.get_clearIf_beside _ _ _ _ rfl,
      Chip.get_clearIf_beside _ _ _ _ rfl, Chip.get_clearIf _ _ _ (Field.ok_of _ rfl)]
  case low =>
    rw [Chip.get_clearIf_beside _ _ _ _ rfl, Chip.get_clearIf_beside _ _ _ _ rfl, Chip.get_clearIf_beside _ _ _ _ rfl,
      Chip.get_clearIf _ _ _ (Field.ok_of _ rfl), Chip.get_clearIf_beside _ _ _ _ rfl]

theorem Chip.ending_bit (c : Chip) (l : Leg) (conds : BitVec 4) :
    (c.ending l conds).getLsbD 0 = conds.getLsbD 0 ∧ (c.ending l conds).getLsbD 2 = conds.getLsbD 2 ∧
    (c.ending l conds).getLsbD 3 = conds.getLsbD 3 ∧
    (c.gateBad l = false → c.ending l conds = conds) ∧ (c.gateBad l = true → (c.ending l conds).getLsbD 1 = false) := by
  have masked : ∀ w : BitVec 4, (w &&& 13).getLsbD 0 = w.getLsbD 0 ∧ (w &&& 13).getLsbD 2 = w.getLsbD 2 ∧
      (w &&& 13).getLsbD 3 = w.getLsbD 3 ∧ (w &&& 13).getLsbD 1 = false := by decide
  obtain ⟨b0, b2, b3, b1⟩ := masked conds
  unfold Chip.ending
  cases c.gateBad l
  · exact ⟨rfl, rfl, rfl, fun _ => rfl, Bool.noConfusion⟩
  · exact ⟨b0, b2, b3, Bool.noConfusion, fun _ => b1⟩

end Sys2Proof.Machine

open Sys2Proof.Machine

/-- Settles O3: every condition is one `legCond`, a burst is what the C-die sees of it, and silence clears live bits. -/
theorem legConditions : Obligations.LegConditions := by
  refine ⟨⟨?timeout, ?stuck, ?vdsHigh, ?vdsLow, ?vdsOff, ?trip, ?both⟩, ?none, ?lost, ?taken, ?odd, ?silence⟩
  case timeout =>
    intro s l g waits late above
    refine completes_of_run (·.handshakeTimeout l g) rfl (if_pos (by simp [waits, late, above])) ?_
    exact .legCond _ _ _ _ _ (Field.ok_of _ rfl) (Field.ok_of _ rfl) (Field.apart_of _ _ rfl)
  case stuck =>
    intro s l g stuck
    refine completes_of_run (·.gateStuck l g) rfl (if_pos stuck) ?_
    exact .legCond _ _ _ _ _ (Field.ok_of _ rfl) (Field.ok_of _ rfl) (Field.apart_of _ _ rfl)
  case vdsHigh =>
    intro s l cmd on aged
    refine completes_of_run (·.vds l .high) rfl (if_pos (by simp [LegState.cmd, LegState.on, LegState.edge, cmd, on, aged])) ?_
    exact .legCond _ _ _ _ _ (Field.ok_of _ rfl) (Field.ok_of _ rfl) (Field.apart_of _ _ rfl)
  case vdsLow =>
    intro s l cmd on aged
    refine completes_of_run (·.vds l .low) rfl (if_pos (by simp [LegState.cmd, LegState.on, LegState.edge, cmd, on, aged])) ?_
    exact .legCond _ _ _ _ _ (Field.ok_of _ rfl) (Field.ok_of _ rfl) (Field.apart_of _ _ rfl)
  case vdsOff =>
    intro s l g off
    exact idles_of_run (·.vds l g) rfl (if_neg (by simp [off]))
  case trip =>
    intro s l high low
    refine completes_of_run (·.trip l) rfl (if_pos (by simp [high, low])) ?_
    exact .legCond _ _ _ _ _ (Field.ok_of _ rfl) (Field.ok_of _ rfl) (Field.apart_of _ _ rfl)
  case both =>
    intro s l runs first due
    have kept : LegAt l s.chip (((s.chip.setLeg l { s.chip.leg l with rose := true }).gates l none)) :=
      (LegAt.setLeg ..).trans (LegAt.gates ..)
    obtain ⟨y, hy⟩ := kept
    have high := (s.chip.setLeg l { s.chip.leg l with rose := true }).gates_none l .high
    have low := (s.chip.setLeg l { s.chip.leg l with rose := true }).gates_none l .low
    rw [hy, Chip.leg_setLeg] at high low
    refine completes_of_run (·.rise l .both) rfl ((Chip.rise_both runs first due).trans (by rw [Chip.xcmd, hy])) ?_
    obtain ⟨sticky, live, -, leg, others, fields, frame⟩ := LegCondition.legCond
      ((s.chip.setLeg l y).setLeg l { (s.chip.setLeg l y).leg l with ghCmd := true, glCmd := true }) l (LEG_STAT_XCMD l.val)
      (LEG_STAT_GATE_LIVE l.val) 2 (Field.ok_of _ rfl) (Field.ok_of _ rfl) (Field.apart_of _ _ rfl)
    refine ⟨sticky, live, ?_, ?_, ?_, fun _ => ?_, fun _ => ?_, fields, ?_, ?_⟩
    · rw [Chip.gateCond, leg]; simp
    · rw [Chip.gateCond, leg]; simp
    · rw [Chip.gateCond, leg]; simpa using high.2.2
    · rw [Chip.gateCond, leg]; rw [Chip.leg_setLeg, Chip.leg_setLeg]; exact high.2.1
    · rw [Chip.gateCond, leg]; rw [Chip.leg_setLeg, Chip.leg_setLeg]; exact low.2.1
    · exact fun k hk => (others k hk).trans (((OneLeg.refl l s.chip).setLeg y).setLeg _ k hk)
    · exact ((((Only.refl [.regs, .fresh, .legs, .faults] s.chip).then (.setLeg ..)).then (.setLeg ..)).trans
        (.of_mix frame)).eq
  case none =>
    intro s l err inactive
    exact idles_of_run (·.burst l err) rfl (if_pos inactive)
  case lost =>
    intro s l err active start
    refine completes_of_run (·.burst l err) rfl (d := s.chip.setLeg l { s.chip.leg l with owed := 0 }) ?_
      ⟨s.chip.leg_setLeg l _, (OneLeg.refl l s.chip).setLeg _, rfl⟩
    show s.chip.burst l err = _
    rw [Chip.burst, if_neg active, burst_start, start, if_pos (by decide)]
  case taken =>
    intro s l err w active start even carried
    refine completes_of_run (·.burst l err) rfl (Chip.burst_taken active start even) ?_
    rw [carried]
    refine ⟨s.chip.leg_burstTaken l w, ?_, OneLeg.burstTaken s.chip l w, (Only.burstTaken s.chip l w).eq⟩
    rintro rfl
    rw [burstOf_conds] at carried
    rw [← carried, Chip.burstTaken_sent]
    exact ⟨rfl, rfl⟩
  case odd =>
    intro s l err active start odd
    refine completes_of_run (·.burst l err) rfl (Chip.burst_odd active start odd) ?_
    refine ⟨?_, (Chip.get_put_fit _ _ _ rfl : Chip.get (Chip.put _ _ 1) _ = 1), ?_, ?_, ?_, ?_⟩
    · rw [Chip.leg_raise, Chip.leg_mark, Chip.leg_burstTaken, LegState.seeing_all]
    · rw [Chip.raise_events, List.getLast?_concat]
    · refine ((FieldsBut.of_regs (.refl _ s.chip) ?_).mark _ (Field.ok_of _ rfl) List.mem_cons_self).of_regs rfl
      exact (Only.burstTaken s.chip l 15).same .regs (by decide)
    · exact OneLeg.burstTaken s.chip l 15
    · exact ((((Only.refl [.regs, .fresh, .legs, .faults] s.chip).then (.burstTaken ..)).then (.mark ..)).then
        (.raise ..)).eq
  case silence =>
    intro s l conds
    refine completes_of_run (·.burstSilence l conds) rfl (s.chip.burstSilence_eq l conds) ?_
    generalize hd : s.chip.setLeg l _ = d
    obtain ⟨b0, b2, b3, good, bad⟩ := s.chip.ending_bit l conds
    obtain ⟨trip, gate, bst, high, low⟩ := d.get_endConds l (s.chip.ending l conds)
    have leg := (Only.endConds d l (s.chip.ending l conds)).leg
    refine ⟨fun h => ?_, fun h => ?_, fun h k => ?_, fun h => ?_, fun h => ?_, fun h => ⟨?_, ?_⟩, ?_, ?_, ?_⟩
    · rw [leg, ← hd, Chip.leg_setLeg, good h]
    · rw [trip, if_pos (b0.trans h)]
    · rw [gate, good k, if_pos h]
    · rw [gate, bad h, ← hd]; rfl
    · rw [bst, if_pos (b2.trans h)]
    · rw [high, if_pos (b3.trans h)]
    · rw [low, if_pos (b3.trans h)]
    · exact ((FieldsBut.refl _ s.chip).of_regs (hd ▸ rfl)).trans (FieldsBut.endConds d l _)
    · intro k hk
      rw [leg, ← hd]
      exact s.chip.leg_setLeg_ne l _ hk
    · exact (((Only.refl [.regs, .legs] s.chip).then (hd ▸ Only.setLeg ..)).then (.endConds d l _)).eq
end

section
-- One proof after the other: a side goal that `Only` settles by `decide` waits for the kernel, on a thread of its own.
set_option Elab.async false
/-! SUPPORT. The bootstrap of a leg: its monitor, refreshes and charging pulses; and the statement about them (R85 to R88). -/
namespace Sys2Proof.Machine

variable (c : Chip) (l : Leg)

/-! ### Settings on their way to a leg -/

theorem LegAt.sendSetting (g : LegSetting) : LegAt l c (c.sendSetting l g) := by
  unfold Chip.sendSetting
  exact LegAt.ite ⟨c.leg l, by simp [Chip.setLeg, Chip.leg]⟩ (.setLeg ..)

/-- A link that is up takes the setting; only the settings on their way change. -/
theorem Chip.leg_sendSetting (g : LegSetting) : (c.sendSetting l g).leg l =
    { c.leg l with settings := if (c.link (dieOfLeg l)).down then (c.leg l).settings else (c.leg l).settings ++ [g] } := by
  unfold Chip.sendSetting
  split
  next => rfl
  next => rw [Chip.leg_setLeg]

/-! ### BST_UV (R85, R87) -/

/-- The chip with BST_UV raised at leg `l` and BST_OK cleared. -/
def Chip.bstRaised : Chip :=
  (c.legCond l (LEG_STAT_BST_UV l.val) (LEG_STAT_BST_UV_LIVE l.val) 1).put (LEG_STAT_BST_OK l.val) 0

/-- A refresh request is on its way where FORCE_REF asks for it at a new condition. -/
theorem Chip.bstLow_eq : c.bstLow l =
    if c.flag (LEG_BST_FORCE_REF l.val) && !c.flag (LEG_STAT_BST_UV_LIVE l.val) then
      (c.bstRaised l).sendSetting l ⟨none, none, true⟩
    else c.bstRaised l := rfl

/-- Raising BST_UV clears BST_OK, counts one event when it was not active, and may put one setting on its way. -/
structure BstRaised (b d : Chip) : Prop where
  ok : d.get (LEG_STAT_BST_OK l.val) = 0
  uv : d.get (LEG_STAT_BST_UV l.val) = 1
  live : d.get (LEG_STAT_BST_UV_LIVE l.val) = 1
  faults : d.faults = { b.faults with events := b.faults.events ++
    (if b.flag (LEG_STAT_BST_UV_LIVE l.val) then [] else [⟨srcLeg l 1, 1, 0, 0, false⟩]) }
  leg : d.leg l = { b.leg l with owed := (b.leg l).owed ||| (8#4 >>> 1), settings := (d.leg l).settings }
  others : OneLeg l b d
  fields : FieldsBut [LEG_STAT_BST_OK l.val, LEG_STAT_BST_UV l.val, LEG_STAT_BST_UV_LIVE l.val] b d
  only : Only [.regs, .fresh, .legs, .faults] b d

theorem BstRaised.bstRaised : BstRaised l c (c.bstRaised l) := by
  obtain ⟨sticky, live, faults, leg, others, fields, frame⟩ := LegCondition.legCond c l (LEG_STAT_BST_UV l.val)
    (LEG_STAT_BST_UV_LIVE l.val) 1 (Field.ok_of _ rfl) (Field.ok_of _ rfl) (Field.apart_of _ _ rfl)
  exact {
    ok := Chip.get_put_fit _ _ _ rfl
    uv := (Chip.get_put_beside _ _ _ _ rfl).trans sticky
    live := (Chip.get_put_beside _ _ _ _ rfl).trans live
    faults := faults
    leg := leg.trans (by rw [Chip.bstRaised, Chip.leg_put, leg])
    others := others
    fields := (fields.mono (by simp)).put _ _ (Field.ok_of _ rfl) (by simp)
    only := (Only.of_mix frame).then (.put ..) }

theorem BstRaised.setting {b d : Chip} (h : BstRaised l b d) (g : LegSetting) : BstRaised l b (d.sendSetting l g) := by
  have sent := LegAt.sendSetting d l g
  have others : OneLeg l d (d.sendSetting l g) := sent.frame.1
  exact {
    ok := (sent.only.get _).trans h.ok
    uv := (sent.only.get _).trans h.uv
    live := (sent.only.get _).trans h.live
    faults := Eq.trans (sent.only.same .faults (by decide)) h.faults
    leg := by rw [Chip.leg_sendSetting, h.leg]
    others := fun k hk => (others k hk).trans (h.others k hk)
    fields := h.fields.trans (sent.only.fieldsBut _)
    only := h.only.then sent.only }

theorem BstRaised.bstLow : BstRaised l c (c.bstLow l) := by
  rw [c.bstLow_eq l]
  split
  · exact (BstRaised.bstRaised c l).setting l _
  · exact .bstRaised c l

/-- The request goes down a link that is up (R87). -/
theorem Chip.bstLow_settings (force : c.flag (LEG_BST_FORCE_REF l.val) = true)
    (fresh : c.flag (LEG_STAT_BST_UV_LIVE l.val) = false) (up : (c.link (dieOfLeg l)).down = false) :
    ((c.bstLow l).leg l).settings = (c.leg l).settings ++ [⟨none, none, true⟩] := by
  have raised := BstRaised.bstRaised c l
  have link : (c.bstRaised l).link (dieOfLeg l) = c.link (dieOfLeg l) := raised.only.link _
  rw [c.bstLow_eq l, force, fresh, Bool.not_false, Bool.and_true, if_pos rfl, Chip.leg_sendSetting, link, up]
  have leg : ((c.bstRaised l).leg l).settings = (c.leg l).settings := by
    rw [Chip.bstRaised, Chip.leg_put, Chip.legCond, Chip.leg_raiseIf, Chip.leg_put, Chip.leg_mark, Chip.leg_setLeg]
  simp [leg]

theorem Chip.bstUv_eq (armed : c.isArmed = true) (series : (c.leg l).charging = false) (off : (c.leg l).ghOn = false) :
    c.bstUv l = c.bstLow l := by
  simp [Chip.bstUv, armed, series, off]

/-! ### Refreshes and charging pulses (R86 to R88) -/

/-- A pulse of GL that is counted: GH is commanded off and GL on, and the count of refreshes goes up. -/
def Chip.lowPulse : Chip := (c.gates l (some .low)).bump (LEG_CNT_REFRESH l.val) 1

theorem Chip.lowPulse_leg : ((c.lowPulse l).leg l).ghCmd = false ∧ ((c.lowPulse l).leg l).glCmd = true ∧
    GatesOnly (c.leg l) ((c.lowPulse l).leg l) := by
  obtain ⟨on, off, -⟩ := c.gates_some l .low
  exact ⟨off, on, c.gates_only l (some .low)⟩

theorem Chip.lowPulse_count :
    (c.lowPulse l).get (LEG_CNT_REFRESH l.val) = min (c.get (LEG_CNT_REFRESH l.val) + 1) (LEG_CNT_REFRESH l.val).top := by
  rw [Chip.lowPulse, Chip.get_bump _ _ (Field.ok_of _ rfl), (LegAt.gates c l _).only.get]

theorem OneLeg.lowPulse : OneLeg l c (c.lowPulse l) := (LegAt.gates c l _).frame.1

theorem FieldsBut.lowPulse : FieldsBut [LEG_CNT_REFRESH l.val] c (c.lowPulse l) :=
  ((LegAt.gates c l _).only.fieldsBut _).bump _ _ (Field.ok_of _ rfl) List.mem_cons_self

theorem Only.lowPulse : Only [.regs, .fresh, .legs] c (c.lowPulse l) :=
  ((Only.refl _ c).then (LegAt.gates ..).only).then (.bump ..)

theorem Chip.forcedRefresh_eq {c : Chip} {l : Leg} {t n : Nat} (requested : (c.leg l).refreshReq = some t)
    (runs : c.legRuns l = true) (ahead : c.period (axisOfLeg l) - c.sinceBoundary (axisOfLeg l) = n)
    (near : n ≤ 50 + c.deadTime l) (early : t + 51 + c.deadTime l ≤ c.now + n) :
    c.forcedRefresh l = (c.setLeg l { c.leg l with refreshReq := none }).insertRefresh l n := by
  simp [Chip.forcedRefresh, requested, runs, ahead, near, early]

/-- An inserted refresh, where none runs and the period's own low interval is too short. -/
theorem Chip.insertRefresh_eq {c : Chip} {l : Leg} (n : Nat) (short : c.longLow l = false) (quiet : (c.leg l).refresh = none) :
    c.insertRefresh l n = (c.lowPulse l).setLeg l { (c.lowPulse l).leg l with refresh := some (c.now + n + 50) } := by
  simp [Chip.insertRefresh, short, quiet, Chip.beginRefresh, Chip.lowPulse]

/-- A charging pulse, with its turn and its count, before what its last one brings. -/
def Chip.charged : Chip :=
  let x := c.leg l
  let a := axisOfLeg l
  let last := decide (200 ≤ x.pulses + 1)
  let d := (c.lowPulse l).setLeg l
    { (c.lowPulse l).leg l with
      pulses := x.pulses + 1, charging := !last, exhausted := last, pulse := some ((c.lowPulse l).now + 100) }
  d.setAxis a { d.axis a with chargeTurn := (l.val + 1) % 3, chargeTick := some d.now }

theorem Chip.chargingPulse_eq {c : Chip} {l : Leg} (series : (c.leg l).charging = true) (armed : c.isArmed = true)
    (free : c.legReact l = 0) (float : c.legMode l = 0) (low : c.flag (LEG_STAT_BST_OK l.val) = false)
    (turn : c.chargeTurn l = true) (aged : c.aged 2500 (c.axis (axisOfLeg l)).chargeTick = true) :
    c.chargingPulse l = if 200 ≤ (c.leg l).pulses + 1 then (c.charged l).bstLow l else c.charged l := by
  unfold Chip.chargingPulse
  rw [if_pos (by simp [series, armed, free, float, low, turn, aged])]
  simp only [decide_eq_true_eq]
  rfl

theorem Only.charged : Only [.regs, .fresh, .legs, .axes] c (c.charged l) :=
  (((Only.refl _ c).then (.lowPulse ..)).then (.setLeg ..)).then (.setAxis ..)

/-- The leg after a charging pulse, which only changes the gates, the series and the pulse. -/
theorem Chip.charged_leg :
    ((c.charged l).leg l).pulses = (c.leg l).pulses + 1 ∧
    ((c.charged l).leg l).charging = !decide (200 ≤ (c.leg l).pulses + 1) ∧
    ((c.charged l).leg l).pulse = some (c.now + 100) ∧ ((c.charged l).leg l).glCmd = true ∧
    ((c.charged l).leg l).ghCmd = false := by
  obtain ⟨off, on, -⟩ := c.lowPulse_leg l
  have now : (c.lowPulse l).now = c.now := (Only.lowPulse c l).same .now (by decide)
  simp only [Chip.charged, Chip.leg_setAxis, Chip.leg_setLeg, now]
  exact ⟨trivial, trivial, trivial, on, off⟩

theorem OneLeg.charged : OneLeg l c (c.charged l) := (OneLeg.lowPulse c l).setLeg _

theorem OneAxis.charged : OneAxis (axisOfLeg l) c (c.charged l) := fun a ha => by
  rw [Chip.charged, Chip.axis_setAxis_ne _ _ _ ha, Chip.axis_setLeg]
  exact (Only.lowPulse c l).axis a

theorem FieldsBut.charged : FieldsBut [LEG_CNT_REFRESH l.val] c (c.charged l) :=
  (FieldsBut.lowPulse c l).of_regs rfl

theorem Chip.charged_count :
    (c.charged l).get (LEG_CNT_REFRESH l.val) = min (c.get (LEG_CNT_REFRESH l.val) + 1) (LEG_CNT_REFRESH l.val).top :=
  c.lowPulse_count l

/-- The count of refreshes stands beside the conditions. -/
theorem BstRaised.count {l : Leg} {b d : Chip} (h : BstRaised l b d) :
    d.get (LEG_CNT_REFRESH l.val) = b.get (LEG_CNT_REFRESH l.val) := by
  refine h.fields _ (Field.ok_of _ rfl) fun f hf => .inl ?_
  simp only [List.mem_cons, List.not_mem_nil, or_false] at hf
  rcases hf with rfl | rfl | rfl <;> simp [LEG_CNT_REFRESH, LEG_CNT, LEG_STAT_BST_OK, LEG_STAT_BST_UV, LEG_STAT_BST_UV_LIVE, LEG_STAT]

end Sys2Proof.Machine

open Sys2Proof.Machine

/-- Settles O4: BST_UV is one condition with its request, a refresh and a charging pulse are one counted pulse of GL. -/
theorem bootstrap : Obligations.Bootstrap := by
  refine ⟨?uv, ?ok, ?refresh, ?pulse⟩
  case uv =>
    intro s l armed series off
    have raised := BstRaised.bstLow s.chip l
    exact completes_of_run (·.bstUv l) rfl (s.chip.bstUv_eq l armed series off) ⟨raised.ok, raised.uv, raised.live,
      raised.faults, s.chip.bstLow_settings l, raised.fields, raised.others, raised.only.eq⟩
  case ok =>
    intro s l armed
    refine completes_of_run (·.bstOk l) rfl (if_pos armed) ?_
    rw [Chip.setLeg_get, Chip.setLeg_get]
    refine ⟨(Chip.get_put_beside _ _ _ _ rfl).trans (Chip.get_put_fit _ _ _ rfl), Chip.get_put_fit _ _ _ rfl, ?_, ?_, ?_,
      fun k hk => Chip.leg_setLeg_ne _ l _ hk, rfl⟩
    · rw [Chip.leg_setLeg]
    · rw [Chip.leg_setLeg]
    · exact (((FieldsBut.refl _ s.chip).put _ _ (Field.ok_of _ rfl) (by simp)).put _ _ (Field.ok_of _ rfl) (by simp)).of_regs rfl
  case refresh =>
    intro s l t n requested runs ahead near early quiet
    refine completes_of_run (·.forcedRefresh l) rfl (Chip.forcedRefresh_eq requested runs ahead near early) ?_
    generalize hd : s.chip.setLeg l { s.chip.leg l with refreshReq := none } = d
    have leg : d.leg l = { s.chip.leg l with refreshReq := none } := hd ▸ Chip.leg_setLeg ..
    have still : (d.leg l).refresh = none := by rw [leg]; exact quiet
    have at_leg : LegAt l s.chip d := ⟨_, hd.symm⟩
    have now : d.now = s.chip.now := at_leg.only.same .now (by decide)
    have longLow : d.longLow l = s.chip.longLow l := by
      unfold Chip.longLow Chip.period Chip.duty1
      rw [at_leg.only.get, at_leg.only.get]
    cases long : s.chip.longLow l
    case true =>
      have kept : d.insertRefresh l n = d := if_pos (by simp [longLow, long])
      rw [kept]
      exact ⟨by rw [leg], fun _ => ⟨still, at_leg.only.same .regs (by decide)⟩, Bool.noConfusion, at_leg.only.fieldsBut _,
        at_leg.frame.1, (at_leg.only.mono : Only [.regs, .fresh, .legs] s.chip d).eq⟩
    case false =>
      obtain ⟨off, on, gates⟩ := d.lowPulse_leg l
      rw [Chip.insertRefresh_eq n (longLow.trans long) still, now]
      refine ⟨?_, Bool.noConfusion, fun _ => ⟨?_, ?_, ?_, ?_⟩, ?_, ?_, ?_⟩
      · rw [Chip.leg_setLeg]
        exact (congrArg LegState.refreshReq gates).trans (by rw [leg])
      · rw [Chip.leg_setLeg]
      · rw [Chip.leg_setLeg]
        exact off
      · rw [Chip.leg_setLeg]
        exact on
      · rw [Chip.setLeg_get, Chip.lowPulse_count, at_leg.only.get]
      · exact ((at_leg.only.fieldsBut _).trans (FieldsBut.lowPulse d l)).of_regs rfl
      · have others : OneLeg l s.chip (d.lowPulse l) := fun k hk =>
          (OneLeg.lowPulse d l k hk).trans (at_leg.frame.1 k hk)
        exact others.setLeg _
      · exact ((((Only.refl [.regs, .fresh, .legs] s.chip).then at_leg.only).then (.lowPulse d l)).then (.setLeg ..)).eq
  case pulse =>
    intro s l series armed free float low turn aged
    refine completes_of_run (·.chargingPulse l) rfl (Chip.chargingPulse_eq series armed free float low turn aged) ?_
    obtain ⟨pulses, charging, pulse, on, off⟩ := s.chip.charged_leg l
    have count := s.chip.charged_count l
    have goes_on : ((s.chip.charged l).leg l).charging = true ↔ (s.chip.leg l).pulses + 1 < 200 := by
      rw [charging, Bool.not_eq_true', decide_eq_false_iff_not, Nat.not_le]
    split
    next last =>
      have raised := BstRaised.bstLow (s.chip.charged l) l
      rw [raised.leg, raised.count]
      refine ⟨pulses, goes_on, pulse, on, off, count, fun _ => raised.uv, fun more => absurd last (Nat.not_le.mpr more), ?_, ?_, ?_⟩
      · exact fun k hk => (raised.others k hk).trans (OneLeg.charged s.chip l k hk)
      · exact fun a ha => (raised.only.axis a).trans (OneAxis.charged s.chip l a ha)
      · exact (((Only.refl [.regs, .fresh, .legs, .axes, .faults] s.chip).then (.charged ..)).then raised.only).eq
    next more =>
      exact ⟨pulses, goes_on, pulse, on, off, count, fun last => absurd last more, fun _ => ⟨(Only.charged s.chip l).same .faults (by decide), .charged _ _⟩, .charged _ _, .charged _ _,
        ((Only.refl [.regs, .fresh, .legs, .axes, .faults] s.chip).then (.charged ..)).eq⟩
end

section
-- One proof after the other: a side goal that `Only` settles by `decide` waits for the kernel, on a thread of its own.
set_option Elab.async false
/-! SUPPORT. Events that only join those reported, the loss of a sensor and of a link, axes that a shutdown takes to OFF, the
duties and settings that reach a leg; and the statement about the frames of the inter-die links (R19 to R21, R77, R78, R84). -/
namespace Sys2Proof.Machine

/-! ### Events that join those reported -/

/-- The events reported so far stand at the front of those of `c`. -/
def Appends (b c : Chip) : Prop := b.faults.events <+: c.faults.events

theorem Appends.refl (c : Chip) : Appends c c := List.prefix_rfl

theorem Appends.of_events {b c : Chip} (h : c.faults.events = b.faults.events) : Appends b c := by
  rw [Appends, h]

theorem Appends.trans {a b c : Chip} (h : Appends a b) (k : Appends b c) : Appends a c := List.IsPrefix.trans h k

theorem Only.appends {l : List Part} {b c : Chip} (h : Only l b c) (hl : Part.faults ∉ l := by decide) : Appends b c := by
  have faults : c.faults = b.faults := h.same .faults hl
  unfold Appends
  rw [faults]

theorem Appends.report (c : Chip) (src n code : Nat) (mask : BitVec 8) (inj : Bool) : Appends c (c.report src n code mask inj) := by
  unfold Chip.report
  split
  · exact .refl c
  · exact List.prefix_append ..

theorem Appends.raise (c : Chip) (src : Nat) : Appends c (c.raise src) := .report c src 1 0 0 false

theorem Appends.raiseIf (c : Chip) (b : Bool) (src : Nat) : Appends c (c.raiseIf b src) := by
  cases b
  · exact .refl c
  · exact .raise c src

theorem Appends.ite {a b c : Chip} {p : Prop} [Decidable p] (hb : Appends a b) (hc : Appends a c) :
    Appends a (if p then b else c) := by
  split
  · exact hb
  · exact hc

theorem Appends.each {α : Type} {f : Chip → α → Chip} (c : Chip) (xs : List α) (hf : ∀ d, ∀ x ∈ xs, Appends d (f d x)) :
    Appends c (c.each xs f) :=
  Chip.each_keeps xs (.refl c) fun d hd x hx => hd.trans (hf d x hx)

/-- The first event after those of `b` is the one that `c` has brought. -/
theorem Appends.take {b c d : Chip} {x : Event} (h : c.faults.events = b.faults.events ++ [x]) (k : Appends c d) :
    d.faults.events.take (b.faults.events.length + 1) = b.faults.events ++ [x] := by
  have front := List.prefix_iff_eq_take.mp k
  rw [h, List.length_append, List.length_singleton] at front
  exact front.symm

/-! ### Sensors (R261 to R265) -/

section
variable (c : Chip)

theorem Only.logArise (type : Nat) (p4 p5 p6 : Word) : Only [.regs, .fresh, .nvc] c (c.logArise type p4 p5 p6) := by
  unfold Chip.logArise
  dsimp only
  split
  next => exact .of_mix rfl
  split
  next => exact .of_mix rfl
  next => exact .of_mix rfl

theorem Only.judgeHot (s : Sensor) (t : Int) : Only [.regs] c (c.judgeHot s t) :=
  Only.ite (.put ..) (Only.ite (.put ..) (Only.ite (.put ..) (.refl ..)))

theorem Only.judgePack (s : Sensor) (failed : Bool) : Only [.regs, .faults] c (c.judgePack s failed) :=
  Only.each c _ fun d _ _ => Only.ite (((Only.refl _ d).then (.putF ..)).then (.raiseIf ..)) (.refl _ d)

theorem Only.derate (a : Axis) : Only [.regs] c (c.derate a) :=
  Only.ite (.putF ..) (((Only.putF c _ _).then (.put ..)).then (.put ..))

theorem Only.derateAll : Only [.regs] c c.derateAll := Only.each c _ fun d a _ => .derate d a

/-- What judging a sensor changes. -/
def sensorParts : List Part := [.regs, .fresh, .sensors, .faults, .nvc]

theorem Only.judgeShutdown (s : Sensor) (t : Int) : Only sensorParts c (c.judgeShutdown s t) := by
  unfold Chip.judgeShutdown
  dsimp only
  refine Only.ite (Only.ite ((Only.put ..).mono) (.refl ..)) (Only.ite ?_ (.refl ..))
  refine Only.then (Only.then (Only.then (m := [.faults]) (.refl _ c) (.of_mix rfl)) (.put ..)) (.report ..) |>.then (.logArise ..)

theorem Only.sensorJudged (s : Sensor) (f : Bool) : Only sensorParts c (c.sensorJudged s f) :=
  ((((((Only.refl _ c).then (.puts ..)).then (.setSensor ..)).then (.judgeHot ..)).then (.judgePack ..)).then (.derateAll _)).then
    (.judgeShutdown ..)

theorem Only.sensorFails (s : Sensor) : Only sensorParts c (c.sensorFails s) :=
  Only.ite (.sensorJudged ..) ((((Only.refl _ c).then (.put ..)).then (.raise ..)).then (.sensorJudged ..))

theorem Only.sensorLost (s : Sensor) : Only sensorParts c (c.sensorLost s) :=
  Only.ite (((Only.refl _ c).then (.setSensor ..)).then (.sensorFails ..)) (.refl ..)

theorem Appends.judgeShutdown (s : Sensor) (t : Int) : Appends c (c.judgeShutdown s t) := by
  unfold Chip.judgeShutdown
  dsimp only
  refine Appends.ite (Appends.ite (Only.appends (.put ..)) (.refl c)) (Appends.ite ?_ (.refl c))
  refine Appends.trans ?_ (Only.logArise ..).appends
  refine Appends.trans ?_ (.report ..)
  exact .of_events rfl

theorem Appends.sensorJudged (s : Sensor) (f : Bool) : Appends c (c.sensorJudged s f) := by
  have packs (d : Chip) : Appends d (d.judgePack s f) := Appends.each d _ fun e r _ =>
    Appends.ite ((Only.putF e _ _).appends.trans (.raiseIf ..)) (.refl e)
  unfold Chip.sensorJudged
  dsimp only
  refine Appends.trans ?_ (.judgeShutdown ..)
  refine Appends.trans ?_ (Only.derateAll _).appends
  refine Appends.trans ?_ (packs _)
  refine Appends.trans ?_ (Only.judgeHot ..).appends
  exact .of_events rfl

theorem Appends.sensorLost (s : Sensor) : Appends c (c.sensorLost s) := by
  have fails (d : Chip) : Appends d (d.sensorFails s) :=
    Appends.ite (.sensorJudged ..) (((Only.put d _ _).appends.trans (.raise ..)).trans (.sensorJudged ..))
  exact Appends.ite ((Only.setSensor c s _).appends.trans (fails _)) (.refl c)

end

/-! ### What the legs are asked, and axes that enter OFF -/

section
variable (c : Chip)

theorem Only.sendSetting (l : Leg) (g : LegSetting) : Only [.legs] c (c.sendSetting l g) := (LegAt.sendSetting c l g).only

theorem LegAt.sendDuty (l : Leg) (on : BitVec 17) : LegAt l c (c.sendDuty l on) := by
  unfold Chip.sendDuty
  exact LegAt.ite ⟨c.leg l, by simp [Chip.setLeg, Chip.leg]⟩ (.setLeg ..)

theorem LegAt.refl (l : Leg) : LegAt l c c := ⟨c.leg l, by simp [Chip.setLeg, Chip.leg]⟩

theorem LegAt.want (l : Leg) (m : LegMode) (on : BitVec 17) (s : Option Slew) : LegAt l c (c.want l m on s) := by
  unfold Chip.want
  dsimp only
  have asked (d : Chip) (b : Bool) (g : LegSetting) : LegAt l d (if b then d else d.sendSetting l g) :=
    LegAt.ite (.refl ..) (.sendSetting ..)
  refine LegAt.ite ?_ (LegAt.trans ?_ (.sendDuty ..)) <;> exact (LegAt.setLeg ..).trans (asked _ _ _)

theorem Only.floatAxis (a : Axis) : Only [.legs, .axes] c (c.floatAxis a) :=
  Only.then ((Only.each c _ fun d l _ => (LegAt.want d l .float 0 none).only).mono) (.setAxis ..)

theorem Only.newSeries (now : Bool) (l : Leg) : Only [.legs] c (c.newSeries now l) := .setLeg ..

theorem Only.flushStream (a : Axis) : Only [.regs, .axes] c (c.flushStream a) :=
  ((((Only.refl _ c).then (.put ..)).then (.put ..)).then (.put ..)).then (.setAxis ..)

theorem Only.leaveMode (a : Axis) (homeCode : Nat) : Only [.regs, .axes] c (c.leaveMode a homeCode) := by
  unfold Chip.leaveMode
  dsimp only
  split <;> split
  · exact ((Only.flushStream c a).then (.put ..)).then (.setAxis ..)
  · exact (Only.flushStream c a).then (.setAxis ..)
  · exact ((Only.refl [.regs, .axes] c).then (.put ..)).then (.setAxis ..)
  · exact (Only.refl [.regs, .axes] c).then (.setAxis ..)

theorem Only.endStart (a : Axis) : Only [.regs, .axes] c (c.endStart a) := .of_mix rfl

theorem Only.enterOff (a : Axis) (homeCode : Nat) : Only [.regs, .legs, .axes] c (c.enterOff a homeCode) := by
  have entered (d : Chip) : Only [.legs] d (d.each (legsOf a) fun d l => d.newSeries false l) :=
    Only.each d _ fun e l _ => .newSeries e false l
  have left : Only [.regs, .legs, .axes] c (((c.leaveMode a homeCode).put (AX_MSTAT_MODE a.val) 0).endStart a) :=
    (((Only.refl _ c).then (.leaveMode c a homeCode)).then (.put ..)).then (.endStart ..)
  unfold Chip.enterOff
  dsimp only
  split
  next => exact .refl _ c
  split
  next => exact (left.then (.setAxis ..)).then (entered _)
  next => exact ((left.then (.setAxis ..)).then (entered _)).then (.floatAxis ..)

theorem Only.reactOff (a : Axis) : Only [.regs, .legs, .axes] c (c.reactOff a) :=
  (Only.enterOff c a 5).then (.put ..)

theorem LegAt.obeyLeg (l : Leg) : LegAt l c (c.obeyLeg l) := by
  have under (g : Option Gate) : LegAt l c (c.underLine l g) := (LegAt.gates ..).trans (.setLeg ..)
  unfold Chip.obeyLeg
  dsimp only
  split
  next free =>
    refine LegAt.ite (.refl ..) (LegAt.ite (.gates ..) ?_)
    split
    · exact .gates ..
    · exact .gates ..
    · exact LegAt.ite (.refl ..) (.gates ..)
  next short => exact under _
  next off => exact under _

theorem Only.obeyLines : Only [.legs] c c.obeyLines := Only.each c _ fun d l _ => (LegAt.obeyLeg d l).only

/-- A shutdown's acts change registers, legs and axes. -/
theorem Only.shutdownActs (b : Chip) : Only [.regs, .legs, .axes] c (c.shutdownActs b) :=
  Only.ite (.refl ..) (Only.then (Only.each c _ fun d a _ => .reactOff d a) (.obeyLines _))

theorem Chip.shutdownActs_same {b c : Chip} (h : c.faults.shutdown = b.faults.shutdown) : c.shutdownActs b = c := if_pos h

end

/-! ### The link (R19 to R21) -/

section
variable {c : Chip} {d : Die} {up : Bool}

@[simp] theorem LinkState.dir_setDir (k : LinkState) (up : Bool) (x : LinkDir) : (k.setDir up x).dir up = x := by
  cases up <;> rfl
@[simp] theorem LinkState.dir_setDir_not (k : LinkState) (up : Bool) (x : LinkDir) : (k.setDir up x).dir (!up) = k.dir !up := by
  cases up <;> rfl
@[simp] theorem LinkState.dir_setDir_of_not (k : LinkState) (up : Bool) (x : LinkDir) : (k.setDir (!up) x).dir up = k.dir up := by
  cases up <;> rfl
@[simp] theorem LinkState.setDir_down (k : LinkState) (up : Bool) (x : LinkDir) : (k.setDir up x).down = k.down := by
  cases up <;> rfl

theorem OneLink.refl (d : Die) (c : Chip) : OneLink d c c := fun _ _ => rfl

theorem OneLink.setLink {b c : Chip} {d : Die} (h : OneLink d b c) (x : LinkState) : OneLink d b (c.setLink d x) :=
  fun e he => (Chip.link_setLink_ne c d x he).trans (h e he)

theorem Only.oneLink {l : List Part} {b c : Chip} (h : Only l b c) (d : Die) (hl : Part.links ∉ l := by decide) : OneLink d b c :=
  fun e _ => h.link e hl

theorem OneLink.trans {a b c : Chip} {d : Die} (h : OneLink d a b) (k : OneLink d b c) : OneLink d a c :=
  fun e he => (k e he).trans (h e he)

theorem OneLeg.trans {a b c : Chip} {l : Leg} (h : OneLeg l a b) (k : OneLeg l b c) : OneLeg l a c :=
  fun e he => (k e he).trans (h e he)

/-- The link of die `d` after a frame with a valid CRC and this SEQ. -/
def LinkState.heard (k : LinkState) (up : Bool) (seq : BitVec 4) : LinkState :=
  k.setDir up { k.dir up with fails := (k.dir up).fails.set seq.toNat 0, lastSeq := seq }

/-- A frame that is taken has its effect on the link as it has heard the frame; without a new shutdown nothing follows. -/
theorem Chip.frame_eq {type : BitVec 4} {f : LinkFrame} {eff : Chip → Chip} (takes : c.linkTakes d up type f = true)
    (quiet : (eff (c.setLink d ((c.link d).heard up f.seq))).faults.shutdown = c.faults.shutdown) :
    c.frame d up type f eff = eff (c.setLink d ((c.link d).heard up f.seq)) := by
  simp only [Chip.linkTakes, Bool.and_eq_true, Bool.not_eq_true'] at takes
  obtain ⟨⟨alive, unarmed⟩, good⟩ := takes
  have received : c.linkRx d up type f eff = eff (c.setLink d ((c.link d).heard up f.seq)) := by
    simp [Chip.linkRx, alive, unarmed, good, LinkState.heard]
  rw [Chip.frame, received, Chip.shutdownActs_same quiet]

end

end Sys2Proof.Machine
end

section
-- One proof after the other: a side goal that `Only` settles by `decide` waits for the kernel, on a thread of its own.
set_option Elab.async false
/-! SUPPORT. The frames of the inter-die links: what a duty and a setting do to their leg, and a failed CRC; and the statement
about them (R19 to R21, R77, R78, R84). -/
namespace Sys2Proof.Machine

/-! ### The governing line -/

/-- The line that governs a leg lies in the collector, the engines, the axes and the bus, not in the leg's registers. -/
theorem Chip.legReact_same {b c : Chip} (l : Leg) (faults : c.faults = b.faults)
    (regs : ∀ g : Field, g.addr < 0x090000 ∨ 0x0C0000 ≤ g.addr → c.get g = b.get g) : c.legReact l = b.legReact l := by
  have halt (a : Axis) : c.halted a = b.halted a := by
    unfold Chip.halted
    rw [regs _ (.inr (by simp only [FE_STATUS_HALT, FE_STATUS]; omega))]
  have enabled (a : Axis) : c.axisOn a = b.axisOn a := by
    unfold Chip.axisOn Chip.flag
    rw [regs _ (.inl (by have := a.isLt; simp only [AX_COMCFG_EN, AX_COMCFG]; omega))]
  have bus (r : Region) : c.flag (BUS_STAT_SHORT r.val) = b.flag (BUS_STAT_SHORT r.val) := by
    unfold Chip.flag
    rw [regs _ (.inr (by simp only [BUS_STAT_SHORT, BUS_STAT]; omega))]
  unfold Chip.legReact Chip.curtain Chip.short Chip.reacted Chip.shutdownOn
  rw [faults, halt, enabled, bus]

theorem Only.legReact {l : List Part} {b c : Chip} (h : Only l b c) (k : Leg) (hf : Part.faults ∉ l := by decide)
    (hr : Part.regs ∉ l := by decide) : c.legReact k = b.legReact k :=
  Chip.legReact_same k (h.same .faults hf) fun g _ => h.get g hr

theorem Chip.legReact_put (c : Chip) (l : Leg) (f : Field) (v : Nat) (low : 0x090000 ≤ f.addr) (high : f.addr < 0x0C0000) :
    (c.put f v).legReact l = c.legReact l :=
  Chip.legReact_same l rfl fun g hg => c.get_put_ne g f v (by omega)

/-- What a leg obeys leaves the duties and settings on their way, and where no line governs all but its gates. -/
theorem Chip.obeyLeg_only {c : Chip} {l : Leg} (free : c.legReact l = 0) : GatesOnly (c.leg l) ((c.obeyLeg l).leg l) := by
  have only (g : Option Gate) : GatesOnly (c.leg l) ((c.gates l g).leg l) := c.gates_only l g
  unfold Chip.obeyLeg
  dsimp only
  split
  next =>
    split
    next => exact .refl _
    next =>
      split
      next => exact only _
      next =>
        split
        next => exact only _
        next => exact only _
        next =>
          split
          next => exact .refl _
          next => exact only _
  next line => exact absurd (free.symm.trans line) (by decide)
  next line _ => exact absurd free line

theorem GatesOnly.kept {x y : LegState} (h : GatesOnly x y) : y.duties = x.duties ∧ y.settings = x.settings ∧
    y.nextOn = x.nextOn ∧ y.awaitDuty = x.awaitDuty := by
  unfold GatesOnly at h
  rw [h]
  exact ⟨rfl, rfl, rfl, rfl⟩

theorem Chip.obeyLeg_queues (c : Chip) (l : Leg) : ((c.obeyLeg l).leg l).duties = (c.leg l).duties ∧
    ((c.obeyLeg l).leg l).settings = (c.leg l).settings := by
  have under (g : Option Gate) : ((c.underLine l g).leg l).duties = (c.leg l).duties ∧
      ((c.underLine l g).leg l).settings = (c.leg l).settings := by
    obtain ⟨duties, settings, -⟩ := (c.gates_only l g).kept
    unfold Chip.underLine
    rw [Chip.leg_setLeg]
    exact ⟨duties, settings⟩
  by_cases free : c.legReact l = 0
  · obtain ⟨duties, settings, -⟩ := (Chip.obeyLeg_only free).kept
    exact ⟨duties, settings⟩
  · unfold Chip.obeyLeg
    dsimp only
    split
    next h => exact absurd h free
    next => exact under _
    next => exact under _

/-! ### A duty reaches its leg (R22, R77) -/

section
variable {c : Chip} {l : Leg} {on : BitVec 17}

theorem Chip.dutyArrived_under (line : c.legReact l ≠ 0) : c.dutyArrived l on = c := by
  simp [Chip.dutyArrived, line]

theorem Chip.dutyArrived_held (free : c.legReact l = 0) (refreshing : (c.leg l).refresh.isSome = true) :
    c.dutyArrived l on = c.setLeg l { c.leg l with heldOn := some on } := by
  simp [Chip.dutyArrived, free, refreshing]

theorem Chip.dutyArrived_latched (free : c.legReact l = 0) (quiet : (c.leg l).refresh = none) :
    c.dutyArrived l on = (c.latchDuty l on).obeyLeg l := by
  simp [Chip.dutyArrived, free, quiet]

/-- After the fall a duty waits for the next period. -/
theorem Chip.latchDuty_late (pwm : c.legMode l = 1) (fell : (c.leg l).fell = true) (runs : (c.leg l).awaitDuty = false) :
    c.latchDuty l on = c.setLeg l
      { c.leg l with nextOn := some (BitVec.ofNat 17 (min on.toNat (4 * c.period (axisOfLeg l)))) } := by
  simp [Chip.latchDuty, pwm, fell, runs]

/-- Otherwise it is set at once, and a leg that awaited it runs again. -/
theorem Chip.latchDuty_now (now : ((c.legMode l == 1) && (c.leg l).fell && !(c.leg l).awaitDuty) = false) :
    ∃ x : LegState, x.awaitDuty = false ∧ x.duties = (c.leg l).duties ∧
      c.latchDuty l on = (c.put (LEG_DUTY_ON l.val) (min on.toNat (4 * c.period (axisOfLeg l)))).setLeg l x := by
  unfold Chip.latchDuty
  dsimp only
  cases waits : (c.leg l).awaitDuty
  · have now' : ¬((c.legMode l == 1 && (c.leg l).fell) = true) := by simpa [waits] using now
    simp only [Bool.false_eq_true, if_false, if_neg now']
    refine ⟨_, ?_, ?_, rfl⟩
    · exact waits
    · rfl
  · simp only [if_true, Bool.and_false, Bool.false_eq_true, if_false]
    refine ⟨_, ?_, ?_, rfl⟩
    · rfl
    · rfl

theorem Chip.latchDuty_cases (c : Chip) (l : Leg) (on : BitVec 17) :
    (∃ x : LegState, c.latchDuty l on = c.setLeg l x ∧ x.duties = (c.leg l).duties) ∨
    ∃ x : LegState, x.duties = (c.leg l).duties ∧
      c.latchDuty l on = (c.put (LEG_DUTY_ON l.val) (min on.toNat (4 * c.period (axisOfLeg l)))).setLeg l x := by
  cases now : (c.legMode l == 1) && (c.leg l).fell && !(c.leg l).awaitDuty
  · obtain ⟨x, -, duties, latched⟩ := Chip.latchDuty_now (on := on) now
    exact .inr ⟨x, duties, latched⟩
  · simp only [Bool.and_eq_true, beq_iff_eq, Bool.not_eq_true'] at now
    obtain ⟨⟨pwm, fell⟩, runs⟩ := now
    exact .inl ⟨_, Chip.latchDuty_late pwm fell runs, rfl⟩

/-- What a duty may change at all: its register, and its leg, whose duties on their way stay. -/
structure DutyFrame (l : Leg) (b c : Chip) : Prop where
  duties : (c.leg l).duties = (b.leg l).duties
  fields : FieldsBut [LEG_DUTY_ON l.val] b c
  others : OneLeg l b c
  only : Only [.regs, .legs] b c

theorem DutyFrame.obeyed {b c : Chip} (h : DutyFrame l b c) : DutyFrame l b (c.obeyLeg l) where
  duties := (c.obeyLeg_queues l).1.trans h.duties
  fields := h.fields.of_regs (Chip.obeyLeg_regs ..)
  others := h.others.trans (LegAt.obeyLeg c l).frame.1
  only := h.only.then (LegAt.obeyLeg c l).only

theorem DutyFrame.setLeg {x : LegState} (h : x.duties = (c.leg l).duties) : DutyFrame l c (c.setLeg l x) where
  duties := by rw [Chip.leg_setLeg, h]
  fields := (Only.setLeg c l x).fieldsBut _
  others := (OneLeg.refl l c).setLeg x
  only := (Only.setLeg c l x).mono

theorem DutyFrame.latchDuty (c : Chip) (l : Leg) (on : BitVec 17) : DutyFrame l c (c.latchDuty l on) := by
  rcases c.latchDuty_cases l on with ⟨x, latched, duties⟩ | ⟨x, duties, latched⟩
  · rw [latched]
    exact .setLeg duties
  · rw [latched]
    exact {
      duties := by rw [Chip.leg_setLeg, duties]
      fields := ((FieldsBut.refl _ c).put _ _ (Field.ok_of _ rfl) List.mem_cons_self).of_regs rfl
      others := (OneLeg.refl l c).setLeg x
      only := ((Only.refl _ c).then (.put ..)).then (.setLeg ..) }

theorem DutyFrame.dutyArrived (c : Chip) (l : Leg) (on : BitVec 17) : DutyFrame l c (c.dutyArrived l on) := by
  by_cases free : c.legReact l = 0
  · cases held : (c.leg l).refresh with
    | none =>
      rw [Chip.dutyArrived_latched free held]
      exact (DutyFrame.latchDuty c l on).obeyed
    | some t =>
      rw [Chip.dutyArrived_held free (by simp [held])]
      exact .setLeg rfl
  · rw [Chip.dutyArrived_under free]
    exact ⟨rfl, .refl _ c, .refl l c, .refl _ c⟩

/-- A duty that is set at once stands in the register, and the leg awaits none. -/
theorem Chip.dutyArrived_now (free : c.legReact l = 0) (quiet : (c.leg l).refresh = none)
    (now : ((c.legMode l == 1) && (c.leg l).fell && !(c.leg l).awaitDuty) = false) :
    (c.dutyArrived l on).get (LEG_DUTY_ON l.val) = min on.toNat (4 * c.period (axisOfLeg l)) ∧
    ((c.dutyArrived l on).leg l).awaitDuty = false := by
  obtain ⟨x, runs, -, latched⟩ := Chip.latchDuty_now (on := on) now
  rw [Chip.dutyArrived_latched free quiet, latched]
  have line : ((c.put (LEG_DUTY_ON l.val) (min on.toNat (4 * c.period (axisOfLeg l)))).setLeg l x).legReact l = 0 := by
    rw [(Only.setLeg ..).legReact, Chip.legReact_put _ _ _ _ (by simp only [LEG_DUTY_ON, LEG_DUTY]; omega)
      (by have := l.isLt; simp only [LEG_DUTY_ON, LEG_DUTY]; omega), free]
  obtain ⟨-, -, -, awaits⟩ := (Chip.obeyLeg_only line).kept
  rw [(LegAt.obeyLeg ..).only.get, Chip.setLeg_get, Chip.get_put_lt _ _ (Field.ok_of _ rfl) _ (by
    have := on.isLt
    simp only [LEG_DUTY_ON]
    omega)]
  rw [Chip.leg_setLeg] at awaits
  exact ⟨rfl, awaits.trans runs⟩

/-- A duty that comes after the fall waits. -/
theorem Chip.dutyArrived_late (free : c.legReact l = 0) (quiet : (c.leg l).refresh = none) (pwm : c.legMode l = 1)
    (fell : (c.leg l).fell = true) (runs : (c.leg l).awaitDuty = false) :
    ((c.dutyArrived l on).leg l).nextOn = some (BitVec.ofNat 17 (min on.toNat (4 * c.period (axisOfLeg l)))) ∧
    (c.dutyArrived l on).regs = c.regs := by
  rw [Chip.dutyArrived_latched free quiet, Chip.latchDuty_late pwm fell runs]
  obtain ⟨-, -, next, -⟩ := (Chip.obeyLeg_only (c := c.setLeg l
    { c.leg l with nextOn := some (BitVec.ofNat 17 (min on.toNat (4 * c.period (axisOfLeg l)))) }) (l := l)
    (((Only.setLeg ..).legReact l).trans free)).kept
  rw [Chip.leg_setLeg] at next
  exact ⟨next, Chip.obeyLeg_regs ..⟩

end

/-! ### A setting reaches its leg (R78, R84) -/

section
variable (c : Chip) (l : Leg)

/-- The live slew steps of a leg. -/
def liveSlew (l : Leg) : List Field :=
  [LEG_SLEW_LIVE_HS_ON l.val, LEG_SLEW_LIVE_HS_OFF l.val, LEG_SLEW_LIVE_LS_ON l.val, LEG_SLEW_LIVE_LS_OFF l.val]

/-- The four live steps stand as the slew names them. -/
def LiveSlew (c : Chip) (l : Leg) (x : Slew) : Prop :=
  c.get (LEG_SLEW_LIVE_HS_ON l.val) = x.hsOn.val ∧ c.get (LEG_SLEW_LIVE_HS_OFF l.val) = x.hsOff.val ∧
  c.get (LEG_SLEW_LIVE_LS_ON l.val) = x.lsOn.val ∧ c.get (LEG_SLEW_LIVE_LS_OFF l.val) = x.lsOff.val

theorem LiveSlew.setSlew (x : Slew) : LiveSlew (c.setSlew l x) l x := by
  have fits (d : Chip) (f : Field) (hf : f.ok) (width : f.hi = f.lo + 2) (v : Fin 8) : (d.put f v.val).get f = v.val :=
    d.get_put_lt f hf _ (by rw [width, show f.lo + 2 + 1 - f.lo = 3 by omega]; exact v.isLt)
  refine ⟨?_, ?_, ?_, fits _ _ (Field.ok_of _ rfl) rfl _⟩
  · rw [Chip.setSlew, Chip.get_put_beside _ _ _ _ rfl, Chip.get_put_beside _ _ _ _ rfl, Chip.get_put_beside _ _ _ _ rfl]
    exact fits _ _ (Field.ok_of _ rfl) rfl _
  · rw [Chip.setSlew, Chip.get_put_beside _ _ _ _ rfl, Chip.get_put_beside _ _ _ _ rfl]
    exact fits _ _ (Field.ok_of _ rfl) rfl _
  · rw [Chip.setSlew, Chip.get_put_beside _ _ _ _ rfl]
    exact fits _ _ (Field.ok_of _ rfl) rfl _

theorem FieldsBut.setSlew (x : Slew) : FieldsBut (liveSlew l) c (c.setSlew l x) :=
  ((((FieldsBut.refl _ c).put _ _ (Field.ok_of _ rfl) (by simp [liveSlew])).put _ _ (Field.ok_of _ rfl) (by simp [liveSlew])).put
    _ _ (Field.ok_of _ rfl) (by simp [liveSlew])).put _ _ (Field.ok_of _ rfl) (by simp [liveSlew])

theorem Only.setSlew (x : Slew) : Only [.regs] c (c.setSlew l x) := .of_mix rfl

/-- Taking a mode changes the mode's field and the leg, whose settings on their way stay. -/
theorem Chip.setLegMode_mode (m : LegMode) : (c.setLegMode l m).legMode l = legModeCode m := by
  unfold Chip.legMode Chip.setLegMode
  dsimp only
  rw [(LegAt.obeyLeg ..).only.get, Chip.setLeg_get]
  cases m <;> exact Chip.get_put_fit _ _ _ rfl

theorem FieldsBut.setLegMode (m : LegMode) : FieldsBut [LEG_DUTY_MODE l.val] c (c.setLegMode l m) :=
  (((FieldsBut.refl _ c).put _ _ (Field.ok_of _ rfl) List.mem_cons_self).of_regs rfl).of_regs (Chip.obeyLeg_regs ..)

theorem Only.setLegMode (m : LegMode) : Only [.regs, .legs] c (c.setLegMode l m) :=
  (((Only.refl _ c).then (.put ..)).then (.setLeg ..)).then (LegAt.obeyLeg ..).only

theorem OneLeg.setLegMode (m : LegMode) : OneLeg l c (c.setLegMode l m) := by
  have shown : OneLeg l c (c.put (LEG_DUTY_MODE l.val) (legModeCode m)) := fun _ _ => rfl
  unfold Chip.setLegMode
  dsimp only
  exact (shown.setLeg _).trans (LegAt.obeyLeg _ l).frame.1

theorem Chip.setLegMode_settings (m : LegMode) : ((c.setLegMode l m).leg l).settings = (c.leg l).settings := by
  unfold Chip.setLegMode
  dsimp only
  rw [(Chip.obeyLeg_queues ..).2, Chip.leg_setLeg]

theorem LegAt.askRefresh : LegAt l c (c.askRefresh l) := LegAt.ite (.refl ..) (.setLeg ..)

theorem Chip.askRefresh_settings : ((c.askRefresh l).leg l).settings = (c.leg l).settings := by
  unfold Chip.askRefresh
  split
  next => rfl
  next => rw [Chip.leg_setLeg]

theorem Chip.askRefresh_noted (h : c.legMode l ≠ 2) : ((c.askRefresh l).leg l).refreshReq = some c.now := by
  rw [Chip.askRefresh, if_neg (by simpa using h), Chip.leg_setLeg]

/-- What a setting leaves: the settings on their way, and everything but the leg and its fields. -/
structure SettingTaken (l : Leg) (m : List Field) (b c : Chip) : Prop where
  settings : (c.leg l).settings = (b.leg l).settings
  fields : FieldsBut m b c
  others : OneLeg l b c
  only : Only [.regs, .legs] b c

variable {c} {l}

theorem SettingTaken.refl (m : List Field) (c : Chip) : SettingTaken l m c c := ⟨rfl, .refl m c, .refl l c, .refl _ c⟩

theorem SettingTaken.trans {m : List Field} {a b c : Chip} (h : SettingTaken l m a b) (k : SettingTaken l m b c) :
    SettingTaken l m a c :=
  ⟨k.settings.trans h.settings, h.fields.trans k.fields, h.others.trans k.others, h.only.trans k.only⟩

theorem SettingTaken.slewed {m : List Field} (hm : ∀ f ∈ liveSlew l, f ∈ m) (x : Slew) :
    SettingTaken l m c (c.setSlew l x) :=
  ⟨rfl, (FieldsBut.setSlew c l x).mono hm, fun _ _ => rfl, (Only.setSlew c l x).mono⟩

theorem SettingTaken.moded {m : List Field} (hm : LEG_DUTY_MODE l.val ∈ m) (x : LegMode) :
    SettingTaken l m c (c.setLegMode l x) :=
  ⟨c.setLegMode_settings l x, (FieldsBut.setLegMode c l x).mono (by simpa using hm), .setLegMode c l x, .setLegMode c l x⟩

theorem SettingTaken.refreshed {m : List Field} : SettingTaken l m c (c.askRefresh l) :=
  ⟨c.askRefresh_settings l, (LegAt.askRefresh c l).only.fieldsBut _, (LegAt.askRefresh c l).frame.1,
    (LegAt.askRefresh c l).only.mono⟩

end

section
variable (c : Chip) (l : Leg)

/-- The slew part, the mode part and the refresh part of a setting. -/
def Chip.takeSlew (g : LegSetting) : Chip := match g.slew with | some x => c.setSlew l x | none => c
def Chip.takeMode (g : LegSetting) : Chip := match g.mode with | some m => c.setLegMode l m | none => c

theorem Chip.legSet_eq (g : LegSetting) : c.legSet l g =
    if g.refresh then ((c.takeSlew l g).takeMode l g).askRefresh l else (c.takeSlew l g).takeMode l g := by
  unfold Chip.legSet Chip.takeMode Chip.takeSlew
  rfl

/-- The fields that a setting may write. -/
def settingFields (l : Leg) (g : LegSetting) : List Field :=
  LEG_DUTY_MODE l.val :: if g.slew.isSome then liveSlew l else []

theorem SettingTaken.legSet (g : LegSetting) : SettingTaken l (settingFields l g) c (c.legSet l g) := by
  have slewed : SettingTaken l (settingFields l g) c (c.takeSlew l g) := by
    unfold Chip.takeSlew
    cases h : g.slew with
    | none => exact .refl _ c
    | some x => exact .slewed (by simp +contextual [settingFields, h]) x
  have moded : SettingTaken l (settingFields l g) c ((c.takeSlew l g).takeMode l g) := by
    refine slewed.trans ?_
    unfold Chip.takeMode
    cases g.mode with
    | none => exact .refl _ _
    | some m => exact .moded List.mem_cons_self m
  rw [c.legSet_eq l g]
  split
  · exact moded.trans .refreshed
  · exact moded

theorem Chip.legSet_get (g : LegSetting) (f : Field) : (c.legSet l g).get f = ((c.takeSlew l g).takeMode l g).get f := by
  rw [c.legSet_eq l g]
  split
  · exact (LegAt.askRefresh ..).only.get f
  · rfl

theorem Chip.legSet_mode (g : LegSetting) (m : LegMode) (h : g.mode = some m) : (c.legSet l g).legMode l = legModeCode m := by
  rw [Chip.legMode, Chip.legSet_get, Chip.takeMode, h]
  exact Chip.setLegMode_mode ..

theorem Chip.legSet_sameMode (g : LegSetting) (h : g.mode = none) : (c.legSet l g).legMode l = c.legMode l := by
  rw [Chip.legMode, Chip.legSet_get, Chip.takeMode, h, Chip.takeSlew]
  cases g.slew with
  | none => rfl
  | some x =>
    refine FieldsBut.setSlew c l x _ (Field.ok_of _ rfl) fun f hf => .inl ?_
    simp only [liveSlew, List.mem_cons, List.not_mem_nil, or_false] at hf
    rcases hf with rfl | rfl | rfl | rfl <;>
      simp only [LEG_DUTY_MODE, LEG_DUTY, LEG_SLEW_LIVE_HS_ON, LEG_SLEW_LIVE_HS_OFF, LEG_SLEW_LIVE_LS_ON, LEG_SLEW_LIVE_LS_OFF,
        LEG_SLEW] <;> omega

theorem Chip.legSet_slew (g : LegSetting) (x : Slew) (h : g.slew = some x) : LiveSlew (c.legSet l g) l x := by
  have kept (d : Chip) (f : Field) (hf : f.addr = LEG_SLEW l.val) (ok : f.ok) : (d.takeMode l g).get f = d.get f := by
    unfold Chip.takeMode
    cases g.mode with
    | none => rfl
    | some m =>
      refine FieldsBut.setLegMode d l m f ok fun k hk => .inl ?_
      simp only [List.mem_singleton] at hk
      rw [hk, hf]
      simp only [LEG_DUTY_MODE, LEG_DUTY, LEG_SLEW]
      omega
  obtain ⟨hsOn, hsOff, lsOn, lsOff⟩ := LiveSlew.setSlew c l x
  have slewed : c.takeSlew l g = c.setSlew l x := by rw [Chip.takeSlew, h]
  have shown (f : Field) (hf : f.addr = LEG_SLEW l.val) (ok : f.ok) : (c.legSet l g).get f = (c.setSlew l x).get f := by
    rw [Chip.legSet_get, kept _ f hf ok, slewed]
  exact ⟨(shown _ rfl (Field.ok_of _ rfl)).trans hsOn, (shown _ rfl (Field.ok_of _ rfl)).trans hsOff,
    (shown _ rfl (Field.ok_of _ rfl)).trans lsOn, (shown _ rfl (Field.ok_of _ rfl)).trans lsOff⟩

theorem Chip.legSet_refresh (g : LegSetting) (h : g.refresh = true) (mode : (c.legSet l g).legMode l ≠ 2) :
    ((c.legSet l g).leg l).refreshReq = some c.now := by
  rw [Chip.legMode, Chip.legSet_get] at mode
  rw [c.legSet_eq l g, if_pos h, Chip.askRefresh_noted _ _ mode]
  have slewed : (c.takeSlew l g).now = c.now := by
    unfold Chip.takeSlew
    cases g.slew <;> rfl
  unfold Chip.takeMode
  cases g.mode with
  | none => rw [slewed]
  | some m => exact congrArg some (Eq.trans ((Only.setLegMode (c.takeSlew l g) l m).same .now (by decide)) slewed)

end

end Sys2Proof.Machine
end

section
-- One proof after the other: a side goal that `Only` settles by `decide` waits for the kernel, on a thread of its own.
set_option Elab.async false
/-! SUPPORT. Frames that fail and links that are lost; and the statement about the frames of the inter-die links. -/
namespace Sys2Proof.Machine

section
variable (c : Chip) (d : Die)

theorem Chip.dutyCarried_eq {c : Chip} {l : Leg} {on : BitVec 17} {rest : List (BitVec 17)}
    (next : (c.leg l).duties = on :: rest) :
    c.dutyCarried l on = (c.setLeg l { c.leg l with duties := rest }).dutyArrived l on := by
  simp [Chip.dutyCarried, next]

theorem Chip.settingCarried_eq {c : Chip} {l : Leg} {g : LegSetting} {rest : List LegSetting}
    (next : (c.leg l).settings = g :: rest) :
    c.settingCarried l .none = (c.setLeg l { c.leg l with settings := rest }).legSet l g := by
  simp [Chip.settingCarried, next]

/-! ### The loss of a link (R21, R261) -/

@[simp] theorem LinkState.dir_down (k : LinkState) (up b : Bool) : ({ k with down := b } : LinkState).dir up = k.dir up := by
  cases up <;> rfl

theorem Only.linkLost : Only sensorParts c (c.linkLost d) :=
  ((Only.refl _ c).then (.raise ..)).then (.sensorLost ..)

theorem Chip.linkLost_events : Appends (c.raise (srcLink d)) (c.linkLost d) := .sensorLost ..

theorem Appends.shutdownActs (b : Chip) : Appends c (c.shutdownActs b) := (Only.shutdownActs c b).appends

/-- The acts of a shutdown leave the collector, the links, and without a new shutdown the legs. -/
theorem Chip.shutdownActs_legs {b c : Chip} (legs : c.legs = b.legs)
    (h : (c.shutdownActs b).faults.shutdown = b.faults.shutdown) : (c.shutdownActs b).legs = b.legs := by
  have faults : (c.shutdownActs b).faults = c.faults := (Only.shutdownActs c b).same .faults (by decide)
  rw [faults] at h
  rw [Chip.shutdownActs_same h, legs]

/-- The link of die `d` after a frame with a wrong CRC: `n` failures of its SEQ. -/
def LinkState.failed (k : LinkState) (up : Bool) (seq : BitVec 4) : LinkState :=
  { k.setDir up { k.dir up with
      fails := (k.dir up).fails.set seq.toNat ((k.dir up).fails[seq.toNat] + 1)
      nackDue := (k.dir up).nackDue ++ [seq] } with
    down := k.down || decide (4 ≤ (k.dir up).fails[seq.toNat] + 1) }

/-- The chip once a frame has failed, before the link is lost. -/
def Chip.noted (c : Chip) (d : Die) (up : Bool) (seq : BitVec 4) : Chip :=
  (c.setLink d ((c.link d).failed up seq)).raise (srcLink d)

theorem Chip.linkBad_eq {c : Chip} {d : Die} (up : Bool) (seq : BitVec 4) (alive : (c.link d).down = false) :
    c.linkBad d up seq false = if decide (4 ≤ ((c.link d).dir up).fails[seq.toNat] + 1) then (c.noted d up seq).linkLost d
      else c.noted d up seq := by
  simp [Chip.linkBad, alive, Chip.noted, LinkState.failed, Chip.raise]

theorem Only.linkBad {up : Bool} {seq : BitVec 4} (alive : (c.link d).down = false) :
    Only (.links :: sensorParts) c (c.linkBad d up seq false) ∧ (c.linkBad d up seq false).link d = (c.link d).failed up seq ∧
    OneLink d c (c.linkBad d up seq false) ∧ Appends (c.noted d up seq) (c.linkBad d up seq false) ∧
    (((c.link d).dir up).fails[seq.toNat] < 3 → c.linkBad d up seq false = c.noted d up seq) := by
  have noted : Only (.links :: sensorParts) c (c.noted d up seq) := ((Only.refl _ c).then (.setLink ..)).then (.raise ..)
  have link : (c.noted d up seq).link d = (c.link d).failed up seq := Chip.link_setLink ..
  have others : OneLink d c (c.noted d up seq) := (OneLink.refl d c).setLink _
  rw [Chip.linkBad_eq up seq alive]
  split
  next lost =>
    have four : 4 ≤ ((c.link d).dir up).fails[seq.toNat] + 1 := of_decide_eq_true lost
    have gone := Only.linkLost (c.noted d up seq) d
    exact ⟨noted.then gone, (gone.link d).trans link, others.trans (gone.oneLink d),
      (Appends.raise _ _).trans (Chip.linkLost_events ..), fun few => absurd few (by omega)⟩
  next => exact ⟨noted, link, others, .refl _, fun _ => rfl⟩

theorem Chip.frame_bad {c : Chip} {d : Die} {up : Bool} {type : BitVec 4} {f : LinkFrame} {eff : Chip → Chip}
    (alive : (c.link d).down = false) (unarmed : c.injected 1 (linkUnit d up) = false) (bad : linkFrameOk f type = false) :
    c.frame d up type f eff = (c.linkBad d up f.seq false).shutdownActs c := by
  simp [Chip.frame, Chip.linkRx, alive, unarmed, bad]

theorem Chip.linkTimeout_eq {c : Chip} {d : Die} (alive : (c.link d).down = false) :
    c.linkTimeout d = (c.setLink d { c.link d with down := true }).linkLost d := by
  simp [Chip.linkTimeout, alive]

theorem Chip.retransmit_eq {c : Chip} {d : Die} {up : Bool} {q : BitVec 4} {rest : List (BitVec 4)}
    (alive : (c.link d).down = false) (owed : ((c.link d).dir up).resend = q :: rest) :
    c.retransmit d up = c.setLink d ((c.link d).setDir up
      { (c.link d).dir up with resend := rest, resent := ((c.link d).dir up).resent + 1 }) := by
  simp [Chip.retransmit, alive, owed]

/-- An acknowledge changes the direction that it speaks of. -/
theorem Chip.acknowledged_eq (up nack : Bool) (q : BitVec 4) : ∃ x : LinkDir,
    x.resend = (if nack then ((c.link d).dir !up).resend ++ [q] else ((c.link d).dir !up).resend.filter (· != q)) ∧
    c.acknowledged d up nack q = c.setLink d ((c.link d).setDir (!up) x) := by
  unfold Chip.acknowledged
  cases nack
  · exact ⟨_, rfl, rfl⟩
  · exact ⟨_, rfl, rfl⟩

end

end Sys2Proof.Machine

open Sys2Proof.Machine

/-- Settles O1: a frame that is taken acts on the state that has heard it; one that fails and a timeout leave their event first
among the new ones, and no leg changes without a new shutdown. -/
theorem linkFrames : Obligations.LinkFrames := by
  refine ⟨⟨?duty, ?setting, ?status, ?acknowledge⟩, ?bad, ?timeout, ?retransmit⟩
  case duty =>
    intro s l f on rest takes next
    generalize heard : s.chip.setLink (dieOfLeg l) ((s.chip.link (dieOfLeg l)).heard false f.seq) = b
    generalize taken : b.setLeg l { b.leg l with duties := rest } = d
    have only_b : Only [.links] s.chip b := heard ▸ .setLink ..
    have leg_b : b.leg l = s.chip.leg l := only_b.leg l
    have only_d : Only [.links, .legs] s.chip d := taken ▸ (only_b.mono.then (.setLeg ..))
    have leg : d.leg l = { s.chip.leg l with duties := rest } := by rw [← taken, Chip.leg_setLeg, leg_b]
    have regs : d.regs = s.chip.regs := only_d.same .regs (by decide)
    have react : d.legReact l = s.chip.legReact l := only_d.legReact l
    have mode : d.legMode l = s.chip.legMode l := only_d.get _
    have period : d.period (axisOfLeg l) = s.chip.period (axisOfLeg l) := only_d.get _
    have effect : b.dutyCarried l on = d.dutyArrived l on := by rw [Chip.dutyCarried_eq (leg_b ▸ next), taken]
    have frame := DutyFrame.dutyArrived d l on
    have only : Only [.regs, .links, .legs] s.chip (d.dutyArrived l on) := only_d.mono.then frame.only
    have quiet : (b.dutyCarried l on).faults.shutdown = s.chip.faults.shutdown := by
      rw [effect]
      exact congrArg FaultState.shutdown (only.same .faults (by decide))
    refine completes_of_run (fun c => c.frame (dieOfLeg l) false 1 f (·.dutyCarried l on)) rfl
      ((Chip.frame_eq takes (heard ▸ quiet)).trans (heard ▸ effect)) ⟨?_, ?_, ?_, ?_, ?_, ?_, ?_, ?_, ?_⟩
    · rw [frame.duties, leg]
    · intro free quiet now
      have := Chip.dutyArrived_now (on := on) (react.trans free) (by rw [leg, quiet]) (by rw [mode, leg]; exact now)
      rwa [period] at this
    · intro free quiet pwm fell runs
      have := Chip.dutyArrived_late (on := on) (react.trans free) (by rw [leg, quiet]) (mode.trans pwm) (by rw [leg, fell])
        (by rw [leg, runs])
      rwa [period, regs] at this
    · intro free refreshing
      rw [Chip.dutyArrived_held (react.trans free) (by rw [leg]; exact refreshing), Chip.leg_setLeg, leg]
      exact ⟨rfl, regs⟩
    · intro line
      rw [Chip.dutyArrived_under (by rwa [react])]
      exact ⟨leg, regs⟩
    · exact (only_d.fieldsBut _).trans frame.fields
    · exact OneLeg.trans (taken ▸ (only_b.oneLeg l).setLeg _) frame.others
    · exact OneLink.trans (heard ▸ (OneLink.refl _ s.chip).setLink _) (OneLink.trans (taken ▸ (Only.setLeg ..).oneLink _) (frame.only.oneLink _))
    · exact only.eq
  case setting =>
    intro s l f g rest takes next
    generalize heard : s.chip.setLink (dieOfLeg l) ((s.chip.link (dieOfLeg l)).heard false f.seq) = b
    generalize taken : b.setLeg l { b.leg l with settings := rest } = d
    have only_b : Only [.links] s.chip b := heard ▸ .setLink ..
    have leg_b : b.leg l = s.chip.leg l := only_b.leg l
    have only_d : Only [.links, .legs] s.chip d := taken ▸ (only_b.mono.then (.setLeg ..))
    have leg : d.leg l = { s.chip.leg l with settings := rest } := by rw [← taken, Chip.leg_setLeg, leg_b]
    have effect : b.settingCarried l .none = d.legSet l g := by rw [Chip.settingCarried_eq (leg_b ▸ next), taken]
    have frame := SettingTaken.legSet d l g
    have only : Only [.regs, .links, .legs] s.chip (d.legSet l g) := only_d.mono.then frame.only
    have quiet : (b.settingCarried l .none).faults.shutdown = s.chip.faults.shutdown := by
      rw [effect]
      exact congrArg FaultState.shutdown (only.same .faults (by decide))
    refine completes_of_run (fun c => c.frame (dieOfLeg l) false 2 f (·.settingCarried l .none)) rfl
      ((Chip.frame_eq takes (heard ▸ quiet)).trans (heard ▸ effect)) ⟨?_, ?_, ?_, ?_, ?_, ?_, ?_, ?_, ?_, ?_⟩
    · rw [frame.settings, leg]
    · exact fun m h => d.legSet_mode l g m h
    · exact fun h => (d.legSet_sameMode l g h).trans (only_d.get _)
    · exact fun x h => d.legSet_slew l g x h
    · intro none
      refine (only_d.fieldsBut _).trans (frame.fields.mono ?_)
      simp [settingFields, none]
    · intro asked mode
      rw [d.legSet_refresh l g asked mode]
      exact congrArg some (only_d.same .now (by decide))
    · refine (only_d.fieldsBut _).trans (frame.fields.mono fun x hx => ?_)
      rcases List.mem_cons.mp hx with rfl | hx
      · exact List.mem_cons_self
      · split at hx
        · exact List.mem_cons_of_mem _ hx
        · exact absurd hx List.not_mem_nil
    · exact OneLeg.trans (taken ▸ (only_b.oneLeg l).setLeg _) frame.others
    · exact OneLink.trans (heard ▸ (OneLink.refl _ s.chip).setLink _) (OneLink.trans (taken ▸ (Only.setLeg ..).oneLink _) (frame.only.oneLink _))
    · exact only.eq
  case status =>
    intro s l f gh gl bst takes
    exact completes_of_run (fun c => c.frame (dieOfLeg l) true 5 f (·.legReported l gh gl bst)) rfl (Chip.frame_eq takes rfl)
      ⟨Chip.leg_setLeg .., (OneLeg.refl l s.chip).setLeg _, (OneLink.refl _ s.chip).setLink _, rfl⟩
  case acknowledge =>
    intro s d up nack f q takes
    generalize heard : s.chip.setLink d ((s.chip.link d).heard up f.seq) = b
    have link : b.link d = (s.chip.link d).heard up f.seq := by rw [← heard, Chip.link_setLink]
    obtain ⟨x, resend, acked⟩ := b.acknowledged_eq d up nack q
    have quiet : (b.acknowledged d up nack q).faults.shutdown = s.chip.faults.shutdown := by
      rw [acked, ← heard]
      rfl
    refine completes_of_run (fun c => c.frame d up 15 f (·.acknowledged d up nack q)) rfl
      ((Chip.frame_eq takes (heard ▸ quiet)).trans (heard ▸ acked)) ⟨?_, ?_, ?_, ?_, ?_⟩
    · rw [Chip.link_setLink, LinkState.dir_setDir, resend, link, LinkState.heard, LinkState.dir_setDir_not]
    · rw [Chip.link_setLink, LinkState.dir_setDir_of_not, Chip.link_setLink, LinkState.heard, LinkState.dir_setDir]
    · rw [Chip.link_setLink, LinkState.dir_setDir_of_not, Chip.link_setLink, LinkState.heard, LinkState.dir_setDir]
    · exact ((OneLink.refl d s.chip).setLink _).setLink _
    · rfl
  case bad =>
    intro s d up nack f q alive unarmed bad
    obtain ⟨only, link, others, events, few⟩ := Only.linkBad s.chip d (up := up) (seq := f.seq) alive
    generalize hb : s.chip.linkBad d up f.seq false = b at only link others events few
    have acts := Only.shutdownActs b s.chip
    have after : (b.shutdownActs s.chip).link d = (s.chip.link d).failed up f.seq := (acts.link d).trans link
    refine completes_of_run (fun c => c.frame d up 15 f (·.acknowledged d up nack q)) rfl
      ((Chip.frame_bad alive unarmed bad).trans (congrArg (Chip.shutdownActs · s.chip) hb)) ?_
    rw [after]
    refine ⟨?_, ?_, ?_, ?_, ?_, ?_, ?_⟩
    · rw [LinkState.failed, LinkState.dir_down, LinkState.dir_setDir]
    · rw [LinkState.failed, LinkState.dir_down, LinkState.dir_setDir]
    · simp [LinkState.failed, alive]
    · exact Appends.take (Chip.raise_events ..) (events.trans (.shutdownActs b s.chip))
    · intro h
      have still : (s.chip.noted d up f.seq).faults.shutdown = s.chip.faults.shutdown := rfl
      rw [few h, Chip.shutdownActs_same still]
      rfl
    · exact Chip.shutdownActs_legs (only.same .legs (by decide))
    · exact others.trans (acts.oneLink d)
  case timeout =>
    intro s d alive
    have lost := Only.linkLost (s.chip.setLink d { s.chip.link d with down := true }) d
    generalize hb : (s.chip.setLink d { s.chip.link d with down := true }).linkLost d = b at lost
    have acts := Only.shutdownActs b s.chip
    refine completes_of_run (fun c => (c.linkTimeout d).shutdownActs c) rfl
      (congrArg (Chip.shutdownActs · s.chip) ((Chip.linkTimeout_eq alive).trans hb)) ⟨?_, ?_, ?_, ?_⟩
    · rw [acts.link, lost.link, Chip.link_setLink]
    · refine Appends.take (Chip.raise_events (s.chip.setLink d { s.chip.link d with down := true }) (srcLink d)) ?_
      exact Appends.trans (hb ▸ Chip.linkLost_events ..) (.shutdownActs b s.chip)
    · exact Chip.shutdownActs_legs (lost.same .legs (by decide))
    · exact OneLink.trans ((OneLink.refl d s.chip).setLink _) (OneLink.trans (lost.oneLink d) (acts.oneLink d))
  case retransmit =>
    intro s d up q rest alive owed
    refine completes_of_run (·.retransmit d up) rfl (Chip.retransmit_eq alive owed) ⟨?_, ?_, (OneLink.refl d s.chip).setLink _, rfl⟩
    · rw [Chip.link_setLink, LinkState.dir_setDir]
    · rw [Chip.link_setLink, LinkState.dir_setDir]
end

section
-- One proof after the other: a side goal that `Only` settles by `decide` waits for the kernel, on a thread of its own.
set_option Elab.async false
/-! SUPPORT. Requests that are granted or refused, the firings of cues in general, and the axis inputs, setpoints and cues of
an axis; and the statements about them (R193, R201, R205, R209, R210, R212, R214, R220, R225). -/
namespace Sys2Proof.Machine

/-! ### Requests -/

/-- A request that its own rules accept is granted by a part that serves its path. -/
theorem grants_of_ask {i : Instr} {p : Path} {s : State} {f : Chip → Judged} {d : Chip} {P : Chip → Prop}
    (row : exec i s = s.ask p f) (serving : s.chip.serves p) (judged : f s.chip = (d, .ok)) (hp : P d) : Grants i p s P :=
  ⟨d, by rw [row, State.ask, State.run_eq, Chip.ask_of_serves serving, judged], hp⟩

/-- A request none of whose refusing conditions is met. -/
theorem grants_of_request {i : Instr} {p : Path} {s : State} {l : List (Bool × Reason)} {f : Chip → Chip} {P : Chip → Prop}
    (row : exec i s = s.ask p fun c => c.request l f) (serving : s.chip.serves p) (clear : judge l = .ok) (hp : P (f s.chip)) :
    Grants i p s P :=
  grants_of_ask row serving (s.chip.request_ok l f clear) hp

/-- A request with a refusing condition. -/
theorem refuses_of_request {i : Instr} {p : Path} {s : State} {r : Reason} {f : Chip → Judged} {l : List (Bool × Reason)}
    {g : Chip → Chip} (row : exec i s = s.ask p f) (serving : s.chip.serves p) (judged : f s.chip = s.chip.request l g)
    (bad : judge l = r) (refused : r ≠ .ok) : Refuses i p s r := by
  subst bad
  exact refuses_of_ask row serving (judged.trans (s.chip.request_refused l g refused))

/-! ### Words put as they were read -/

theorem Field.read_lt (f : Field) (w : Word) : f.read w < 2 ^ (f.hi + 1 - f.lo) := Nat.mod_lt _ (Nat.two_pow_pos _)

/-- A field that takes its part of a word reads it. -/
theorem Chip.get_put_read (c : Chip) (f : Field) (hf : f.ok) (w : Word) : (c.put f (f.read w)).get f = f.read w :=
  c.get_put_lt f hf _ (f.read_lt w)

/-- Putting fields one after the other changes those fields. -/
theorem FieldsBut.puts2 (c : Chip) (f g : Field) (v w : Nat) (hf : f.ok) (hg : g.ok) :
    FieldsBut [f, g] c ((c.put f v).put g w) :=
  ((FieldsBut.refl _ c).put f v hf List.mem_cons_self).put g w hg (by simp)

/-! ### The state of one axis -/

theorem OneAxis.refl (a : Axis) (c : Chip) : OneAxis a c c := fun _ _ => rfl

@[simp] theorem Chip.setAxis_setAxis (c : Chip) (a : Axis) (x y : AxisState) : (c.setAxis a x).setAxis a y = c.setAxis a y := by
  simp [Chip.setAxis]

theorem OneAxis.setAxis {b c : Chip} {a : Axis} (h : OneAxis a b c) (x : AxisState) : OneAxis a b (c.setAxis a x) :=
  fun k hk => (Chip.axis_setAxis_ne c a x hk).trans (h k hk)

theorem OneAxis.trans {a : Axis} {b c d : Chip} (h : OneAxis a b c) (k : OneAxis a c d) : OneAxis a b d :=
  fun e he => (k e he).trans (h e he)

/-! ### Firings -/

/-- The one firing of a row whose target can take it has its effect. -/
theorem completes_of_fire {i : Instr} {s : State} {k : EntryIx} {n : Nat} {f : Fire} {d : Chip} {P : Chip → Prop}
    (row : exec i s = s.run fun c => c.fireCue k n) (hf : s.chip.firesOf k n = [f])
    (able : cueAction f.cue = n → (s.chip.endFire f).fireAble f = true)
    (effect : cueAction f.cue = n → (s.chip.endFire f).fireEffect f = d) (hp : P d) : Completes i s P := by
  have action : cueAction f.cue = n := Chip.cueAction_of_firesOf hf
  refine completes_of_run (·.fireCue k n) row ?_ hp
  rw [Chip.fireCue_of_firesOf hf, Chip.carryOut_of_fireAble (able action), effect action]

/-- The one firing of a row whose target cannot take it sets NOOP of its timebase (R39). -/
theorem completes_noop {i : Instr} {s : State} {k : EntryIx} {n : Nat} {f : Fire}
    (row : exec i s = s.run fun c => c.fireCue k n) (hf : s.chip.firesOf k n = [f])
    (unable : cueAction f.cue = n → (s.chip.endFire f).fireAble f = false) :
    Completes i s fun c =>
      c.get (CUE_TB_STAT_NOOP f.tb) = 1 ∧ FiredOnly s f c ∧
      c = { s.chip with regs := c.regs, fresh := c.fresh, cues := c.cues } ∧ FieldsBut [CUE_TB_STAT_NOOP f.tb] s.chip c := by
  have fired : s.chip.fireCue k n = (s.chip.endFire f).noop f := by
    rw [Chip.fireCue_of_firesOf hf, Chip.carryOut, unable (Chip.cueAction_of_firesOf hf)]
    rfl
  refine completes_of_run (·.fireCue k n) row fired ⟨?_, rfl, rfl, ?_⟩
  · rw [Chip.noop, Chip.mark, Chip.noteFresh_get]
    exact Chip.get_put_fit _ _ _ rfl
  · exact FieldsBut.mark ((FieldsBut.refl _ s.chip).of_regs rfl) _ (Field.ok_of _ rfl) List.mem_cons_self

theorem Only.endFire (c : Chip) (f : Fire) : Only [.cues] c (c.endFire f) := .of_mix rfl

/-! ### The curve input and the compatibility block (R187, R205, R209, R210) -/

/-- The refusing conditions of a new target. -/
def Chip.targetConds (c : Chip) (p : Path) (a : Axis) (v : Nat) : List (Bool × Reason) :=
  [(!c.owns p a, .locked), (c.targetReverses a v && c.flag (CMP_CTRL_RUN a.val) && c.reversalBad a, .wrongDir)]

theorem Chip.writeCmpTarget_eq (c : Chip) (p : Path) (a : Axis) (w : Word) : c.writeCmpTarget p a w =
    c.request (c.targetConds p a ((CMP_TARGET_TARGET a.val).read w)) fun c =>
      let d := c.put (CMP_TARGET_TARGET a.val) ((CMP_TARGET_TARGET a.val).read w)
      let back := decide (signed 16 ((CMP_TARGET_TARGET a.val).read w) < 0)
      if !c.targetReverses a ((CMP_TARGET_TARGET a.val).read w) then d
      else if c.flag (CMP_CTRL_RUN a.val) then d.reverse a back else d.putF (AX_MSTAT_DIR a.val) back := rfl

/-- A target that reverses names the direction that is not commanded. -/
theorem Chip.targetReverses_dir {c : Chip} {a : Axis} {v : Nat} (h : c.targetReverses a v = true) :
    decide (signed 16 v < 0) = !c.flag (AX_MSTAT_DIR a.val) := by
  simp only [Chip.targetReverses, Bool.and_eq_true, bne_iff_ne] at h
  exact Bool.eq_not_of_ne h.2

section
variable (c : Chip) (a : Axis) (back : Bool)

/-- A reversal: the direction, START 5 and the axis, whose reference begins at 0. -/
theorem Chip.reverse_eq : ∃ x : AxisState, x.ref = 0 ∧ c.reverse a back =
    ((c.putF (AX_MSTAT_DIR a.val) back).put (AX_SRCSTAT_START a.val) 5).setAxis a x := by
  refine ⟨{ c.axis a with
    planTick := c.now, plan := some .brake, ref := 0, entries := (c.axis a).entries + 1 }, rfl, ?_⟩
  have put_setAxis (d : Chip) (x : AxisState) (f : Field) (v : Nat) : (d.setAxis a x).put f v = (d.put f v).setAxis a x := rfl
  simp only [Chip.reverse, Chip.planStart, Chip.setStart, put_setAxis, Chip.setAxis_setAxis, Chip.axis_setAxis]
  rfl

theorem Chip.reverse_startOf : (c.reverse a back).startOf a = 5 := by
  obtain ⟨x, -, h⟩ := c.reverse_eq a back
  rw [h, Chip.startOf, Chip.setAxis_get]
  exact Chip.get_put_fit _ _ _ rfl

theorem Chip.reverse_dir : (c.reverse a back).flag (AX_MSTAT_DIR a.val) = back := by
  obtain ⟨x, -, h⟩ := c.reverse_eq a back
  have apart : AX_MSTAT a.val ≠ AX_SRCSTAT a.val := by simp only [AX_MSTAT, AX_SRCSTAT]; omega
  have dir := Chip.flag_putF c (AX_MSTAT_DIR a.val) (Field.ok_of _ rfl) back
  unfold Chip.flag at dir ⊢
  rw [h, Chip.setAxis_get, Chip.get_put_ne _ _ _ _ apart, dir]

end

/-! ### Setpoints (R212) -/

theorem Chip.spHold_setAxis (c : Chip) (p : Path) (a : Axis) (x : AxisState) :
    (c.setAxis a x).spHold p a = match p with | .host => x.spHost | .can => x.spCan := by
  cases p <;> simp [Chip.spHold]

/-! ### GEAR_SLOT (R225) -/

section
variable (c : Chip) (a : Axis)

theorem Chip.gearCut_at (slot : Nat) : ∃ x : AxisState, c.gearCut a slot = c.setAxis a x ∧
    x.gearStored = (c.axis a).gearStored ∧ ((c.axis a).gearSteps = [] → x.gearSteps = [] ∧ x.gearSlot0 = slot) := by
  unfold Chip.gearCut
  dsimp only
  split
  next none => exact ⟨_, rfl, rfl, fun h => ⟨h, rfl⟩⟩
  next g last =>
    refine ⟨_, rfl, rfl, fun h => ?_⟩
    simp [h] at last

theorem Chip.gearFire_at (f : Fire) (slot : Nat) : ∃ x : AxisState, c.gearFire a f slot = c.setAxis a x ∧
    x.gearStored = (c.axis a).gearStored ∧ ((c.axis a).gearSteps = [] → x.gearSteps = [] ∧ x.gearSlot0 = slot) := by
  unfold Chip.gearFire
  dsimp only
  split
  next some =>
    refine ⟨_, rfl, rfl, fun h => ?_⟩
    simp [h] at some
  next => exact c.gearCut_at a slot

end

/-- What showing the accumulator leaves of the slot. -/
theorem Chip.showGear_slot {c : Chip} {a : Axis} {slot : Nat} (unkept : (c.axis a).gearSteps = [])
    (now : (c.axis a).gearSlot0 = slot) (small : slot < 8) : (c.showGear a).get (AX_MSTAT_SLOT a.val) = slot := by
  have apart : AX_MSTAT a.val ≠ AX_GREM a.val := by simp only [AX_MSTAT, AX_GREM]; omega
  have live : (c.gearNow a).2.2 = slot := by simp [Chip.gearNow, unkept, now]
  rw [Chip.showGear, Chip.setAxis_get, Chip.get_put_ne _ _ _ _ apart, live,
    Chip.get_put_lt _ _ (Field.ok_of _ rfl) _ (by simpa [AX_MSTAT_SLOT] using small)]

/-- The axis in GEAR takes the slot as `d` has stored it. -/
def Chip.gearTurn (d : Chip) (a : Axis) (f : Fire) (slot : Nat) : Chip :=
  ((d.gearFire a f slot).showGear a).put (AX_PTGT_TARGET a.val) (((d.gearFire a f slot).showGear a).axis a).target.toNat

/-- The axis has stored the slot that a GEAR_SLOT cue names. -/
def Chip.storeGear (c : Chip) (f : Fire) : Chip :=
  c.setAxis (fireAxis f) { c.axis (fireAxis f) with gearStored := cueArg f.cue / 8 % 8 }

theorem Chip.gearSlot_eq (c : Chip) (f : Fire) : c.gearSlot f =
    if c.modeOf (fireAxis f) == 4 then (c.storeGear f).gearTurn (fireAxis f) f (cueArg f.cue / 8 % 8) else c.storeGear f := rfl

theorem Chip.storeGear_axis (c : Chip) (f : Fire) : (c.storeGear f).axis (fireAxis f) =
    { c.axis (fireAxis f) with gearStored := cueArg f.cue / 8 % 8 } := Chip.axis_setAxis ..

theorem Only.storeGear (c : Chip) (f : Fire) : Only [.axes] c (c.storeGear f) := .setAxis ..

theorem OneAxis.storeGear (c : Chip) (f : Fire) : OneAxis (fireAxis f) c (c.storeGear f) := (OneAxis.refl _ c).setAxis _

/-- What a slot change leaves: the stored slot, the other axes, and every field but the three that show the accumulator. -/
structure GearTurned (a : Axis) (b c : Chip) : Prop where
  stored : (c.axis a).gearStored = (b.axis a).gearStored
  others : OneAxis a b c
  fields : FieldsBut [AX_MSTAT_SLOT a.val, AX_GREM_REM a.val, AX_PTGT_TARGET a.val] b c
  only : Only [.regs, .axes] b c

theorem GearTurned.showGear (c : Chip) (a : Axis) : GearTurned a c (c.showGear a) where
  stored := by rw [Chip.showGear, Chip.axis_setAxis]
  others := (show OneAxis a c ((c.put (AX_MSTAT_SLOT a.val) (c.gearNow a).2.2).put (AX_GREM_REM a.val) (c.gearNow a).2.1) from
    fun _ _ => rfl).setAxis _
  fields := (((FieldsBut.refl _ c).put _ _ (Field.ok_of _ rfl) (by simp)).put _ _ (Field.ok_of _ rfl) (by simp)).of_regs rfl
  only := (((Only.refl _ c).then (.put ..)).then (.put ..)).then (.setAxis ..)

theorem GearTurned.gearFire (d : Chip) (a : Axis) (f : Fire) (slot : Nat) : GearTurned a d (d.gearFire a f slot) := by
  obtain ⟨x, fired, stored, -⟩ := d.gearFire_at a f slot
  rw [fired]
  exact ⟨by rw [Chip.axis_setAxis, stored], (OneAxis.refl a d).setAxis x, (Only.setAxis d a x).fieldsBut _, (Only.setAxis d a x).mono⟩

theorem GearTurned.put {a : Axis} {b c : Chip} (h : GearTurned a b c) (v : Nat) : GearTurned a b (c.put (AX_PTGT_TARGET a.val) v) :=
  ⟨h.stored, h.others, h.fields.put _ _ (Field.ok_of _ rfl) (by simp), h.only.then (.put ..)⟩

theorem GearTurned.trans {a : Axis} {b c d : Chip} (h : GearTurned a b c) (k : GearTurned a c d) : GearTurned a b d :=
  ⟨k.stored.trans h.stored, h.others.trans k.others, h.fields.trans k.fields, h.only.trans k.only⟩

theorem GearTurned.gearTurn (d : Chip) (a : Axis) (f : Fire) (slot : Nat) : GearTurned a d (d.gearTurn a f slot) :=
  ((GearTurned.gearFire d a f slot).trans (.showGear _ a)).put _

theorem Chip.gearTurn_slot {d : Chip} {a : Axis} (f : Fire) {slot : Nat} (unkept : (d.axis a).gearSteps = []) (small : slot < 8) :
    (d.gearTurn a f slot).get (AX_MSTAT_SLOT a.val) = slot := by
  obtain ⟨x, fired, -, fresh⟩ := d.gearFire_at a f slot
  obtain ⟨steps, now⟩ := fresh unkept
  have apart : AX_MSTAT a.val ≠ AX_PTGT a.val := by simp only [AX_MSTAT, AX_PTGT]; omega
  rw [Chip.gearTurn, Chip.get_put_ne _ _ _ _ apart, fired]
  exact Chip.showGear_slot (by rw [Chip.axis_setAxis, steps]) (by rw [Chip.axis_setAxis, now]) small

end Sys2Proof.Machine

open Sys2Proof.Machine

/-- Settles O20. -/
theorem setpoints : Obligations.Setpoints := by
  refine ⟨?low, ?submit, ?refused⟩
  case low =>
    intro s p a v serving
    cases p with
    | host =>
      refine grants_of_ask (d := s.chip.setAxis a { s.chip.axis a with spHost := v }) rfl serving rfl ⟨Chip.spHold_setAxis .., ?_, by rw [Chip.axis_setAxis], (OneAxis.refl a s.chip).setAxis _, rfl⟩
      intro q hq
      cases q with
      | host => exact absurd rfl hq
      | can => exact Chip.spHold_setAxis ..
    | can =>
      refine grants_of_ask (d := s.chip.setAxis a { s.chip.axis a with spCan := v }) rfl serving rfl ⟨Chip.spHold_setAxis .., ?_, by rw [Chip.axis_setAxis], (OneAxis.refl a s.chip).setAxis _, rfl⟩
      intro q hq
      cases q with
      | can => exact absurd rfl hq
      | host => exact Chip.spHold_setAxis ..
  case submit =>
    rintro s p a v x serving rfl clear
    refine grants_of_ask rfl serving (s.chip.request_ok _ _ clear) ⟨?_, ?_, ?_, (OneAxis.refl a s.chip).setAxis _, ?_, rfl⟩
    · rw [Chip.axis_setAxis]
      rfl
    · rw [Chip.setAxis_get, Chip.get_put_beside _ _ _ _ rfl, Chip.get_put_lt _ _ (Field.ok_of _ rfl)]
      exact Nat.lt_of_le_of_lt (Nat.sub_le ..) (Chip.get_lt ..)
    · rw [Chip.setAxis_get, Chip.get_put_lt _ _ (Field.ok_of _ rfl)]
      exact Field.read_lt (AX_SPHI_TAG a.val) v
    · exact (FieldsBut.puts2 s.chip _ _ _ _ (Field.ok_of _ rfl) (Field.ok_of _ rfl)).of_regs rfl
  case refused =>
    intro s p a v r serving bad refused
    exact refuses_of_request rfl serving rfl bad refused

/-- Settles O19: each write is one request, whose conditions are judged in turn. -/
theorem axisInputs : Obligations.AxisInputs := by
  refine ⟨⟨?cin, ?cinLocked, ?timeout, ?early⟩, ?ctrl, ?ramp, ?target, ?reverses, ?locked, ?rampLocked⟩
  case cin =>
    intro s p a v serving src
    refine grants_of_ask rfl serving (s.chip.request_ok _ _ ?_)
      ⟨?_, ?_, Chip.axis_setAxis .., (OneAxis.refl a s.chip).setAxis _, ?_, rfl⟩
    · cases p <;> exact congrArg (fun b => judge [(b, .locked)]) (bne_eq_false_iff_eq.mpr src)
    · have apart : AX_CIN a.val ≠ AX_MSTAT a.val := by simp only [AX_CIN, AX_MSTAT]; omega
      rw [Chip.setAxis_get, Chip.get_put_ne _ _ _ _ apart, Chip.get_put_lt _ _ (Field.ok_of _ rfl)]
      exact v.isLt
    · rw [Chip.setAxis_get]
      exact Chip.get_put_fit _ _ _ rfl
    · exact (FieldsBut.puts2 s.chip _ _ _ _ (Field.ok_of _ rfl) (Field.ok_of _ rfl)).of_regs rfl
  case cinLocked =>
    intro s p a v serving src
    refine refuses_of_request rfl serving rfl ?_ (by decide)
    cases p <;> exact congrArg (fun b => judge [(b, .locked)]) (bne_iff_ne.mpr src)
  case timeout =>
    intro s a mode src set late
    refine completes_of_run (·.cinTimeout a) rfl (d := (s.chip.put (AX_MSTAT_INFAIL a.val) 1).setAxis a { s.chip.axis a with inputDead := true }) ?_
      ⟨?_, Chip.axis_setAxis .., (OneAxis.refl a s.chip).setAxis _, ?_, rfl⟩
    · simp [Chip.cinTimeout, mode, src, set, late]
    · rw [Chip.setAxis_get]
      exact Chip.get_put_fit _ _ _ rfl
    · exact ((FieldsBut.refl _ s.chip).put _ _ (Field.ok_of _ rfl) List.mem_cons_self).of_regs rfl
  case early =>
    intro s a h
    refine idles_of_run (·.cinTimeout a) rfl ?_
    rcases h with h | h | h | h
    · simp [Chip.cinTimeout, h]
    · simp [Chip.cinTimeout, Nat.not_le.mpr h]
    · simp [Chip.cinTimeout, h]
    · simp [Chip.cinTimeout, Nat.not_le.mpr h]
  case ctrl =>
    intro s p a v serving owner
    refine grants_of_ask rfl serving (s.chip.request_ok _ _ ?_) ⟨?_, ?_, rfl⟩
    · rw [owner]
      rfl
    · exact s.chip.get_put_read _ (Field.ok_of _ rfl) v
    · exact (FieldsBut.refl _ s.chip).put _ _ (Field.ok_of _ rfl) List.mem_cons_self
  case ramp =>
    intro s p a v f i hi serving owner
    have row : f.ok ∧ exec i s = s.ask p fun c => c.writeRamp p a f v := by
      simp only [List.mem_cons, List.not_mem_nil, or_false, Prod.mk.injEq] at hi
      rcases hi with ⟨rfl, rfl⟩ | ⟨rfl, rfl⟩ <;> exact ⟨Field.ok_of _ rfl, rfl⟩
    obtain ⟨ok, row⟩ := row
    refine ⟨fun nonzero => ?_, fun zero => ?_⟩
    · refine grants_of_ask row serving (s.chip.request_ok _ _ ?_) ⟨?_, ?_, rfl⟩
      · rw [owner, beq_false_of_ne nonzero]
        rfl
      · exact s.chip.get_put_read f ok v
      · exact (FieldsBut.refl _ s.chip).put _ _ ok List.mem_cons_self
    · refine refuses_of_request row serving rfl ?_ (by decide)
      rw [owner, zero]
      rfl
  case target =>
    intro s p a v serving owner keeps
    refine grants_of_ask rfl serving ((s.chip.writeCmpTarget_eq p a v).trans (s.chip.request_ok _ _ ?_)) ?_
    · rw [Chip.targetConds, owner, keeps]
      rfl
    · dsimp only
      rw [if_pos (by simp [keeps])]
      exact ⟨s.chip.get_put_read _ (Field.ok_of _ rfl) v,
        (FieldsBut.refl _ s.chip).put _ _ (Field.ok_of _ rfl) List.mem_cons_self, rfl⟩
  case reverses =>
    intro s p a v serving owner reverses
    have dir := Chip.targetReverses_dir reverses
    have target := s.chip.get_put_read (CMP_TARGET_TARGET a.val) (Field.ok_of _ rfl) v
    have apart : CMP_TARGET a.val ≠ AX_MSTAT a.val := by simp only [CMP_TARGET, AX_MSTAT]; omega
    have aparts : CMP_TARGET a.val ≠ AX_SRCSTAT a.val := by simp only [CMP_TARGET, AX_SRCSTAT]; omega
    refine ⟨fun runs fast => ?_, fun runs slow => ?_, fun rests => ?_⟩
    · refine refuses_of_request rfl serving (s.chip.writeCmpTarget_eq p a v) ?_ (by decide)
      rw [Chip.targetConds, owner, reverses, runs, fast]
      rfl
    · refine grants_of_ask rfl serving ((s.chip.writeCmpTarget_eq p a v).trans (s.chip.request_ok _ _ ?_)) ?_
      · rw [Chip.targetConds, owner, reverses, runs, slow]
        rfl
      · dsimp only
        rw [if_neg (by simp [reverses]), if_pos runs, dir]
        refine ⟨?_, Chip.reverse_startOf .., Chip.reverse_dir .., ?_⟩
        · obtain ⟨x, -, h⟩ := (s.chip.put (CMP_TARGET_TARGET a.val) ((CMP_TARGET_TARGET a.val).read v)).reverse_eq a
            (!s.chip.flag (AX_MSTAT_DIR a.val))
          rw [h, Chip.setAxis_get, Chip.get_put_ne _ _ _ _ aparts, Chip.putF, Chip.get_put_ne _ _ _ _ apart, target]
        · obtain ⟨x, ref, h⟩ := (s.chip.put (CMP_TARGET_TARGET a.val) ((CMP_TARGET_TARGET a.val).read v)).reverse_eq a
            (!s.chip.flag (AX_MSTAT_DIR a.val))
          rw [h]
          refine ⟨by rw [Chip.axis_setAxis, ref], (OneAxis.refl a s.chip).setAxis _, ?_, rfl⟩
          exact ((((FieldsBut.refl _ s.chip).put _ _ (Field.ok_of _ rfl) List.mem_cons_self).putF _ _ (Field.ok_of _ rfl)
            (by simp)).put _ _ (Field.ok_of _ rfl) (by simp)).of_regs rfl
    · refine grants_of_ask rfl serving ((s.chip.writeCmpTarget_eq p a v).trans (s.chip.request_ok _ _ ?_)) ?_
      · rw [Chip.targetConds, owner, rests, Bool.and_false]
        rfl
      · dsimp only
        rw [if_neg (by simp [reverses]), if_neg (by simp [rests]), dir]
        refine ⟨?_, Chip.flag_putF _ _ (Field.ok_of _ rfl) _, ?_, rfl⟩
        · rw [Chip.putF, Chip.get_put_ne _ _ _ _ apart, target]
        · exact ((FieldsBut.refl _ s.chip).put _ _ (Field.ok_of _ rfl) List.mem_cons_self).putF _ _ (Field.ok_of _ rfl) (by simp)
  case locked =>
    intro s p a v i hi serving stranger
    simp only [List.mem_cons, List.not_mem_nil, or_false] at hi
    rcases hi with rfl | rfl
    · refine refuses_of_request rfl serving rfl ?_ (by decide)
      rw [stranger]
      rfl
    · refine refuses_of_request rfl serving (s.chip.writeCmpTarget_eq p a v) ?_ (by decide)
      rw [Chip.targetConds, stranger]
      cases s.chip.targetReverses a ((CMP_TARGET_TARGET a.val).read v) && s.chip.flag (CMP_CTRL_RUN a.val) &&
        s.chip.reversalBad a <;> rfl
  case rampLocked =>
    intro s p a v f i hi serving stranger
    have row : exec i s = s.ask p fun c => c.writeRamp p a f v := by
      simp only [List.mem_cons, List.not_mem_nil, or_false, Prod.mk.injEq] at hi
      rcases hi with ⟨rfl, rfl⟩ | ⟨rfl, rfl⟩ <;> rfl
    refine refuses_of_request row serving rfl ?_ (by split <;> decide)
    rw [stranger]
    by_cases zero : f.read v = 0
    · rw [zero]
      rfl
    · rw [beq_false_of_ne zero, if_neg zero]
      rfl

/-- Settles O21. -/
theorem axisCues : Obligations.AxisCues := by
  refine ⟨?advSet, ?release, ?held, ?noop, ?gear, ?homing⟩
  case advSet =>
    intro s k f hf on
    refine completes_of_fire rfl hf (fun action => ?_) (fun action => ?_)
      (d := (s.chip.endFire f).setAxis (fireAxis f) { s.chip.axis (fireAxis f) with advSel := cueArg f.cue / 8 % 2 == 1 })
      ⟨Chip.axis_setAxis .., (OneAxis.refl _ s.chip).setAxis _, rfl, rfl⟩
    · simp only [Chip.fireAble, action]
      exact on
    · simp only [Chip.fireEffect, action]
      rfl
  case release =>
    intro s k f hf able
    have fires (d : Chip) (hd : (s.chip.endFire f).release (fireAxis f) = d) : cueAction f.cue = 11 → (s.chip.endFire f).fireEffect f = d := by
      intro action
      simp only [Chip.fireEffect, action, hd]
    have held : (s.chip.endFire f).flag (AX_MSTAT_HELD (fireAxis f).val) = s.chip.flag (AX_MSTAT_HELD (fireAxis f).val) := rfl
    have ended (l : List Field) : FieldsBut l s.chip (s.chip.endFire f) := (Only.endFire s.chip f).fieldsBut l
    refine completes_of_fire rfl hf (fun action => ?_) (fires _ rfl) ?_
    · simp only [Chip.fireAble, action]
      exact able
    · unfold Chip.release
      rw [held]
      cases h : s.chip.flag (AX_MSTAT_HELD (fireAxis f).val)
      · simp only [Bool.false_eq_true, if_false]
        refine ⟨?_, fun _ => Chip.get_put_fit _ _ _ rfl, (ended _).put _ _ (Field.ok_of _ rfl) List.mem_cons_self, rfl, rfl⟩
        refine (Chip.get_put_beside _ _ _ _ rfl).trans (Eq.trans ((Only.endFire s.chip f).get _) ?_)
        simpa [Chip.flag] using h
      · simp only [if_true]
        exact ⟨Chip.get_put_fit _ _ _ rfl, fun no => absurd no (by decide),
          (ended _).put _ _ (Field.ok_of _ rfl) List.mem_cons_self, rfl, rfl⟩
  case held =>
    intro s k f hf unable
    refine completes_noop rfl hf fun action => ?_
    simp only [Chip.fireAble, action]
    exact unable
  case noop =>
    intro s k f n i hi hf off
    simp only [List.mem_cons, List.not_mem_nil, or_false, Prod.mk.injEq] at hi
    rcases hi with ⟨rfl, rfl⟩ | ⟨rfl, rfl⟩
    · refine completes_noop rfl hf fun action => ?_
      simp only [Chip.fireAble, action]
      exact off
    · refine completes_noop rfl hf fun action => ?_
      simp only [Chip.fireAble, action]
      exact off
  case gear =>
    intro s k f hf on
    refine completes_of_fire rfl hf (fun action => ?_) (fun action => ?_) (d := (s.chip.endFire f).gearSlot f) ?_
    · simp only [Chip.fireAble, action]
      exact on
    · simp only [Chip.fireEffect, action]
    · rw [Chip.gearSlot_eq]
      have mode : (s.chip.endFire f).modeOf (fireAxis f) = s.chip.modeOf (fireAxis f) := (Only.endFire s.chip f).get _
      have stored := (s.chip.endFire f).storeGear_axis f
      have others : OneAxis (fireAxis f) s.chip ((s.chip.endFire f).storeGear f) := OneAxis.storeGear (s.chip.endFire f) f
      have only : Only [.axes, .cues] s.chip ((s.chip.endFire f).storeGear f) :=
        (Only.endFire s.chip f).mono.then (.storeGear ..)
      have fired : FiredOnly s f ((s.chip.endFire f).storeGear f) := rfl
      generalize (s.chip.endFire f).storeGear f = b at stored others only fired
      rw [mode]
      by_cases gear : s.chip.modeOf (fireAxis f) = 4
      · have turned := GearTurned.gearTurn b (fireAxis f) f (cueArg f.cue / 8 % 8)
        rw [if_pos (by simp [gear])]
        refine ⟨turned.stored.trans (congrArg AxisState.gearStored stored), others.trans turned.others, ?_, fun no => absurd gear no, fun _ unkept => ?_,
          (only.fieldsBut _).trans turned.fields, (only.mono.then turned.only : Only [.regs, .axes, .cues] _ _).eq⟩
        · exact Eq.trans (turned.only.same .cues (by decide)) fired
        · exact Chip.gearTurn_slot f ((congrArg AxisState.gearSteps stored).trans unkept) (Nat.mod_lt _ (by decide))
      · rw [if_neg (by simpa using gear)]
        exact ⟨congrArg AxisState.gearStored stored, others, fired, fun _ => only.same .regs (by decide), fun yes => absurd yes gear, only.fieldsBut _,
          (only.mono : Only [.regs, .axes, .cues] _ _).eq⟩
  case homing =>
    intro s a mode home late
    refine completes_of_run (·.homingTimeout a) rfl (d := s.chip.setAxis a { s.chip.axis a with homeLate := true }) ?_
      ⟨Chip.axis_setAxis .., (OneAxis.refl a s.chip).setAxis _, rfl⟩
    simp [Chip.homingTimeout, mode, home, late]
end

section
-- One proof after the other: a side goal that `Only` settles by `decide` waits for the kernel, on a thread of its own.
set_option Elab.async false
/-! SUPPORT. Host-port frames, plain reads and writes of registers, and access errors; and the statements about them (R4 to R9,
R12, R291, R338 to R343, R372). -/
namespace Sys2Proof.Machine

/-- A bit that an event sets reads 1. -/
theorem Chip.get_mark (c : Chip) (f : Field) (hf : f.ok) : (c.mark f).get f = 1 := by
  rw [Chip.mark, Chip.noteFresh_get, Chip.get_put _ _ hf,
    Nat.mod_eq_of_lt (Nat.one_lt_two_pow (by have := hf.1; omega))]

/-! ### Frames -/

section
variable {s : State} {f : HostFrame}

/-- The chip with the answer of its frame on HSDO and the frame counted. -/
def Chip.answered (c : Chip) (cmd : BitVec 8) (out : HpOut) : Chip := ({ c with hp := { c.hp with out := out } } : Chip).hpEnd cmd

theorem State.hostFrame_held (held : s.chip.load.stage = .held) : s.hostFrame f = s := by
  simp [State.hostFrame, held]

theorem State.hostFrame_early (up : s.chip.load.stage ≠ .held) (early : f.early = true) :
    s.hostFrame f = { s with chip := (s.chip.answered f.cmd hpHigh).hpDiscard } := by
  simp [State.hostFrame, up, early, Chip.answered]

theorem State.hostFrame_bad (up : s.chip.load.stage ≠ .held) (whole : f.early = false)
    (bad : f.clocks ≠ 72 ∨ hostCrcOk f = false) : s.hostFrame f =
      { s with chip := (s.chip.answered f.cmd s.chip.hpAnswer).hpBad (if f.clocks = 72 then HP_STAT_CRC else HP_STAT_LENGTH) } := by
  by_cases length : f.clocks = 72
  · have crc : hostCrcOk f = false := bad.resolve_left (not_not_intro length)
    simp [State.hostFrame, up, whole, length, crc, Chip.answered]
  · simp [State.hostFrame, up, whole, length, Chip.answered]

theorem State.hostFrame_good (up : s.chip.load.stage ≠ .held) (good : hostOk f = true) :
    s.hostFrame f = ({ s with chip := s.chip.answered f.cmd s.chip.hpAnswer } : State).hostRun f := by
  simp only [hostOk, Bool.and_eq_true, Bool.not_eq_true', beq_iff_eq] at good
  obtain ⟨⟨whole, length⟩, crc⟩ := good
  simp [State.hostFrame, up, whole, length, crc, Chip.answered]

theorem State.hostRun_nop (s : State) (nop : f.cmd = 0) : s.hostRun f = { s with chip := s.chip.hpClean } := by
  simp [State.hostRun, nop]

theorem State.hostRun_unknown (s : State) (big : 3 ≤ f.cmd.toNat) :
    s.hostRun f = { s with chip := s.chip.hpClean.answer .host .range } := by
  unfold State.hostRun
  split
  next h => omega
  next h => omega
  next h => omega
  next => rfl

theorem State.hostRun_write (s : State) (write : f.cmd = 2) :
    s.hostRun f = ({ s with chip := s.chip.hpClean } : State).writeReg .host f.addr.toNat f.data := by
  simp [State.hostRun, write]

theorem Chip.hpTimeout_eq {c : Chip} (up : c.load.stage ≠ .held) : c.hpTimeout =
    ((((({ c with hp := { c.hp with out := c.hpAnswer } } : Chip).mark HP_STAT_TIMEOUT).raise 0xF5).hpDiscard).hpEnd
      (c.freeVal.truncate 8)).useFree := by
  simp only [Chip.hpTimeout, if_neg (show ¬(c.load.stage == .held) = true by simpa using up)]
  rfl

end

/-! ### Access errors (R291) -/

/-- The word that FLT_ACC takes from an access error. -/
def accessWord (master : Nat) (write : Bool) (cause : Nat) : Word :=
  FLT_ACC_CAUSE.write (FLT_ACC_TYPE.write (FLT_ACC_MASTER.write (FLT_ACC_VALID.write 0 1) master) write.toNat) cause

theorem accessWord_fields {master cause : Nat} (write : Bool) (hm : master < 8) (hc : cause < 4) :
    FLT_ACC_VALID.read (accessWord master write cause) = 1 ∧ FLT_ACC_OVF.read (accessWord master write cause) = 0 ∧
    FLT_ACC_MASTER.read (accessWord master write cause) = master ∧
    FLT_ACC_TYPE.read (accessWord master write cause) = write.toNat ∧
    FLT_ACC_CAUSE.read (accessWord master write cause) = cause := by
  have other (f g : Field) (hf : f.ok) (hg : g.ok) (apart : f.hi < g.lo ∨ g.hi < f.lo) (w : Word) (v : Nat) :
      f.read (g.write w v) = f.read w := f.read_write_apart g hf hg apart w v
  have type := write.toNat_lt
  refine ⟨?_, ?_, ?_, ?_, ?_⟩
  · rw [accessWord, other _ _ (Field.ok_of _ rfl) (Field.ok_of _ rfl) (by decide), other _ _ (Field.ok_of _ rfl) (Field.ok_of _ rfl) (by decide),
      other _ _ (Field.ok_of _ rfl) (Field.ok_of _ rfl) (by decide), Field.read_write _ (Field.ok_of _ rfl)]
    rfl
  · rw [accessWord, other _ _ (Field.ok_of _ rfl) (Field.ok_of _ rfl) (by decide), other _ _ (Field.ok_of _ rfl) (Field.ok_of _ rfl) (by decide),
      other _ _ (Field.ok_of _ rfl) (Field.ok_of _ rfl) (by decide), other _ _ (Field.ok_of _ rfl) (Field.ok_of _ rfl) (by decide)]
    rfl
  · rw [accessWord, other _ _ (Field.ok_of _ rfl) (Field.ok_of _ rfl) (by decide), other _ _ (Field.ok_of _ rfl) (Field.ok_of _ rfl) (by decide),
      Field.read_write _ (Field.ok_of _ rfl)]
    exact Nat.mod_eq_of_lt hm
  · rw [accessWord, other _ _ (Field.ok_of _ rfl) (Field.ok_of _ rfl) (by decide), Field.read_write _ (Field.ok_of _ rfl)]
    exact Nat.mod_eq_of_lt type
  · rw [accessWord, Field.read_write _ (Field.ok_of _ rfl)]
    exact Nat.mod_eq_of_lt hc

theorem wrapTo_natCast (w n : Nat) : wrapTo w (n : Int) = n % 2 ^ w := by
  rw [wrapTo, show (2 : Int) ^ w = ((2 ^ w : Nat) : Int) by push_cast; rfl, ← Int.natCast_emod, Int.toNat_natCast]

/-- A 64-bit quantity reads as it was put, wrapped. -/
theorem Chip.get64_put64 (c : Chip) (a : Nat) (i : Int) : (c.put64 a i).get64 a = wrapTo 64 i := by
  have bound : wrapTo 64 i < 2 ^ 64 := by
    unfold wrapTo
    have := Int.emod_lt_of_pos i (show (0 : Int) < 2 ^ 64 by decide)
    omega
  simp only [Chip.get64, Chip.put64]
  rw [Chip.reg_setReg_ne _ _ (show a ≠ a + 4 by omega), Chip.reg_setReg, Chip.reg_setReg, BitVec.toNat_ofNat, BitVec.toNat_ofNat]
  omega

theorem Chip.reg_put64_ne (c : Chip) (i : Int) {a b : Nat} (low : b ≠ a) (high : b ≠ a + 4) : (c.put64 a i).reg b = c.reg b := by
  simp only [Chip.put64]
  rw [Chip.reg_setReg_ne _ _ high, Chip.reg_setReg_ne _ _ low]

theorem Chip.get64_congr {b c : Chip} {a : Nat} (low : c.reg a = b.reg a) (high : c.reg (a + 4) = b.reg (a + 4)) :
    c.get64 a = b.get64 a := by
  rw [Chip.get64, Chip.get64, low, high]

section
variable (c : Chip) (master : Nat) (write : Bool) (cause a : Nat)

theorem Chip.accessError_eq : c.accessError master write cause a =
    if c.flag FLT_ACC_VALID then ((c.raise 0xF2).noteAccess (accessWord master write cause) a).put FLT_ACC_OVF 1
    else ((c.raise 0xF2).noteAccess (accessWord master write cause) a).fillAccess (accessWord master write cause) a := rfl

theorem Only.noteAccess (w : Word) : Only [.faults] c (c.noteAccess w a) := .of_mix rfl

theorem Only.accessError : Only [.regs, .faults] c (c.accessError master write cause a) := by
  have noted : Only [.regs, .faults] c ((c.raise 0xF2).noteAccess (accessWord master write cause) a) :=
    ((Only.refl _ c).then (.raise ..)).then (.noteAccess ..)
  rw [Chip.accessError_eq]
  exact Only.ite (noted.then (.put ..)) (((noted.then (.setReg ..)).then (.put ..)).then (.put64 ..))

/-- The registers of the access record. -/
def accessRegs : List Nat := [FLT_ACC, FLT_ACCA, FLT_ACCT, FLT_ACCTH]

theorem RegsBut.accessError : RegsBut accessRegs c (c.accessError master write cause a) := by
  have noted : RegsBut accessRegs c ((c.raise 0xF2).noteAccess (accessWord master write cause) a) := fun _ _ => rfl
  rw [Chip.accessError_eq]
  refine RegsBut.ite (noted.put _ _ (by decide)) ?_
  exact (((noted.setReg _ _ (by decide)).put _ _ (by decide)).setReg _ _ (by decide)).setReg _ _ (by decide)

theorem AccessNoted.accessError (hm : master < 8) (hc : cause < 4) (ha : a < 2 ^ 24) :
    AccessNoted master write cause a c (c.accessError master write cause a) := by
  refine ⟨?_, fun empty => ?_, fun full => ?_⟩
  · rw [Chip.accessError_eq]
    split
    · rfl
    · rfl
  · rw [Chip.accessError_eq, if_neg (by simp [empty])]
    generalize hd : (c.raise 0xF2).noteAccess (accessWord master write cause) a = d
    have wall : d.wall = c.wall := hd ▸ rfl
    have acc (f : Field) (hf : f.addr = FLT_ACC) : (d.fillAccess (accessWord master write cause) a).get f =
        f.read (accessWord master write cause) := by
      unfold Chip.get Chip.fillAccess
      rw [hf, Chip.reg_put64_ne _ _ (by decide) (by decide), Chip.reg_put_ne _ _ _ (by decide), Chip.reg_setReg]
    obtain ⟨valid, ovf, own, type, why⟩ := accessWord_fields write hm hc
    refine ⟨(acc _ rfl).trans valid, (acc _ rfl).trans ovf, (acc _ rfl).trans own, (acc _ rfl).trans type, (acc _ rfl).trans why, ?_, ?_⟩
    · unfold Chip.get Chip.fillAccess
      rw [Chip.reg_put64_ne _ _ (by decide) (by decide)]
      exact Chip.get_put_lt _ FLT_ACCA_ADDR (Field.ok_of _ rfl) a ha
    · rw [Chip.fillAccess, Chip.get64_put64, wrapTo_natCast, wall]
  · rw [Chip.accessError_eq, if_pos full]
    exact ⟨Chip.get_put_fit _ _ _ rfl, Chip.get_put_beside _ _ _ _ rfl, Chip.reg_put_ne _ _ _ (by decide),
      Chip.get64_congr (Chip.reg_put_ne _ _ _ (by decide)) (Chip.reg_put_ne _ _ _ (by decide))⟩

end

/-- What else changes beside the access record leaves it noted. -/
theorem AccessNoted.beside {master cause a : Nat} {write : Bool} {b c d : Chip} (h : AccessNoted master write cause a b c)
    (faults : d.faults = c.faults) (regs : ∀ x ∈ accessRegs, d.reg x = c.reg x) : AccessNoted master write cause a b d := by
  have get (f : Field) (hf : f.addr ∈ accessRegs) : d.get f = c.get f := congrArg f.read (regs _ hf)
  have tick : d.get64 FLT_ACCT = c.get64 FLT_ACCT := Chip.get64_congr (regs _ (by decide)) (regs _ (by decide))
  obtain ⟨events, empty, full⟩ := h
  refine ⟨by rw [faults, events], fun none => ?_, fun some => ?_⟩
  · rw [get _ (by decide), get _ (by decide), get _ (by decide), get _ (by decide), get _ (by decide), get _ (by decide), tick]
    exact empty none
  · rw [get _ (by decide), get _ (by decide), regs _ (by decide), tick]
    exact full some

theorem Only.give (c : Chip) (v : Word) : Only [.regs, .hp] c (c.give .host v) := .of_mix rfl
theorem Only.answerHost (c : Chip) (r : Reason) : Only [.hp] c (c.answer .host r) := .of_mix rfl
theorem Only.framing (c : Chip) (cmd : BitVec 8) : Only [.hp] c (c.framing cmd) := .of_mix rfl

/-! ### Reads (R5 to R7) -/

section
variable {c : Chip} {nv : NonVolatile} {p : Path} {r : RegRow} {a : Nat}

/-- What a plain read leaves and returns: RC fields clear but for what this tick has added, which the value lacks. -/
def Chip.plainShown (c : Chip) (nv : NonVolatile) (r : RegRow) (a : Nat) : Chip × Word :=
  if BitVec.ofNat 32 r.rc = 0 then (c, c.shown nv a)
  else (c.clearRead a (BitVec.ofNat 32 r.rc), c.withoutFresh a (BitVec.ofNat 32 r.rc) (c.shown nv a))

theorem Chip.readReg_eq_plainShown (h : c.plainRead p r a) : Chip.readReg nv p a c = c.plainShown nv r a := by
  obtain ⟨not_cue, row, single, unheld, not_skip, not_irq, drawn, returned, load⟩ := h
  unfold Chip.readReg
  rw [not_cue, row]
  dsimp only
  rw [if_neg not_skip, if_neg not_irq, drawn, returned]
  dsimp only
  unfold Chip.readRow
  rw [unheld, load, single]
  rfl

variable (c nv r a)

theorem Chip.plainShown_value (new : Word) (hn : cellsGet zeros c.fresh a &&& BitVec.ofNat 32 r.rc = new) :
    (new = 0 → (c.plainShown nv r a).2 = c.shown nv a) ∧
    (new ≠ 0 → (c.plainShown nv r a).2 = (c.shown nv a &&& ~~~BitVec.ofNat 32 r.rc) |||
      (cellsGet regReset c.tickRegs a &&& BitVec.ofNat 32 r.rc)) := by
  unfold Chip.plainShown
  split
  next none =>
    refine ⟨fun _ => rfl, fun some => absurd ?_ some⟩
    rw [← hn, none]
    exact BitVec.and_zero
  next some =>
    refine ⟨fun nothing => ?_, fun something => ?_⟩
    · exact if_pos (hn.trans nothing)
    · exact if_neg (hn.trans_ne something)

theorem Chip.plainShown_reg : (c.plainShown nv r a).1.reg a =
    (c.reg a &&& ~~~BitVec.ofNat 32 r.rc) ||| (cellsGet zeros c.fresh a &&& BitVec.ofNat 32 r.rc) := by
  unfold Chip.plainShown
  split
  next none =>
    have whole (x y : Word) : x = (x &&& ~~~0#32) ||| (y &&& 0#32) := by
      rw [BitVec.not_zero, BitVec.and_allOnes, BitVec.and_zero, BitVec.or_zero]
    rw [none]
    exact whole ..
  next => exact Chip.reg_setReg ..

theorem RegsBut.plainShown : RegsBut [a] c (c.plainShown nv r a).1 := by
  unfold Chip.plainShown
  split
  next => exact .refl _ c
  next => exact ((RegsBut.refl _ c).setReg a _ List.mem_cons_self).of_regs rfl

theorem Only.plainShown : Only [.regs, .tickRegs] c (c.plainShown nv r a).1 := by
  unfold Chip.plainShown
  split
  next => exact .refl _ c
  next => exact .of_mix rfl

end

section
variable (c : Chip) (cmd : BitVec 8)

theorem Chip.ownCause_framing (s : Nat) : (c.framing cmd).ownCause s = c.ownCause s := by
  have leg (l : Leg) (j : Nat) : (c.framing cmd).legCause l j = c.legCause l j := rfl
  have port (p : Port) : (c.framing cmd).portCause p = c.portCause p := rfl
  have region (r : Region) (k : Nat) : (c.framing cmd).regionCause r k = c.regionCause r k := rfl
  have thermal : (c.framing cmd).thermalCause s = c.thermalCause s := rfl
  have supply (d : Nat) : (c.framing cmd).supplyCause d = c.supplyCause d := rfl
  have die : (c.framing cmd).dieCause s = c.dieCause s := by
    unfold Chip.dieCause
    simp only [supply, thermal]
  have flag (f : Field) : (c.framing cmd).flag f = c.flag f := rfl
  have rng : (c.framing cmd).rng = c.rng := rfl
  unfold Chip.ownCause
  simp only [leg, port, region, die, thermal, flag, rng]

theorem Chip.live_framing : (c.framing cmd).live = c.live := by
  funext s
  have fire : (c.framing cmd).fireCause s = c.fireCause s := rfl
  unfold Chip.live Chip.cause
  rw [Chip.ownCause_framing, fire]
  rfl

theorem Chip.sourceShown_framing : (c.framing cmd).sourceShown = c.sourceShown := by
  funext s
  unfold Chip.sourceShown
  rw [Chip.live_framing]
  rfl
/-- What a register shows does not depend on the host port's own state. -/

theorem Chip.shown_framing (nv : NonVolatile) (a : Nat) :
    (c.framing cmd).shown nv a = c.shown nv a := by
  have views : (c.framing cmd).views nv = c.views nv := by
    have status : (c.framing cmd).faultStatus = c.faultStatus := rfl
    have severe : (c.framing cmd).severe = c.severe := rfl
    have reg (b : Nat) : (c.framing cmd).reg b = c.reg b := rfl
    have get (f : Field) : (c.framing cmd).get f = c.get f := rfl
    have react (l : Leg) : (c.framing cmd).legReact l = c.legReact l := rfl
    have under (k : SliceId) : (c.framing cmd).underCfg k = c.underCfg k := rfl
    have cost (e : Region) (k : Fin 4) : (c.framing cmd).costShown e k = c.costShown e k := rfl
    have free (k : Nat) : (c.framing cmd).cueFree k = c.cueFree k := rfl
    have tb (n : Tb) (high : Bool) : (c.framing cmd).tbShown n high = c.tbShown n high := rfl
    unfold Chip.views
    simp only [status, severe, Chip.sourceShown_framing, Chip.live_framing, reg, get, react, under, cost, free, tb]
  have alive : (c.framing cmd).deadRead a = c.deadRead a := rfl
  have own : (c.framing cmd).reg (homeOf a) = c.reg (homeOf a) := rfl
  unfold Chip.shown
  rw [views, alive, own]

end

/-- HP_RDBUF shows its own word. -/
theorem Chip.shown_HP_RDBUF (c : Chip) (nv : NonVolatile) : c.shown nv HP_RDBUF = c.reg HP_RDBUF := by
  have unviewed : viewAt HP_RDBUF (c.views nv) = none := by
    unfold Chip.views
    simp only [viewAt, show instAt 1 FLT_STATUS 4 HP_RDBUF = none from rfl, show instAt 8 (FLT_SEV 0) 4 HP_RDBUF = none from rfl,
      show instAt 8 (FLT_LIVE 0) 4 HP_RDBUF = none from rfl, show instAt 256 (FLT_SRC 0) 16 HP_RDBUF = none from rfl,
      show instAt 8192 (LOG_WINDOW 0) 4 HP_RDBUF = none from rfl, show instAt 64 (OTP_WORD 128) 4 HP_RDBUF = none from rfl,
      show instAt 24 (LEG_PERIOD 0) 0x100 HP_RDBUF = none from rfl, show instAt 24 (LEG_DUTY 0) 0x100 HP_RDBUF = none from rfl,
      show instAt 41 (SL_CFG 0) 0x40 HP_RDBUF = none from rfl, show instAt 4 (FE_AX_COST 0 0) 0x20 HP_RDBUF = none from rfl,
      show instAt 4 (FE_AX_COST 1 0) 0x20 HP_RDBUF = none from rfl, show instAt 1 CUE_FREE 4 HP_RDBUF = none from rfl,
      show instAt 21 (CUE_TB_VAL 0) 0x20 HP_RDBUF = none from rfl, show instAt 21 (CUE_TB_VALH 0) 0x20 HP_RDBUF = none from rfl]
  have alive : c.deadRead HP_RDBUF = false := rfl
  have home : homeOf HP_RDBUF = HP_RDBUF := by decide
  unfold Chip.shown
  rw [alive, unviewed, home]
  rfl

/-- The row of HP_RDBUF: all its bits are read only. -/
def rdbufRow : RegRow :=
  { base := 0x040008, stride := 0x4, count := 1, stride2 := 0x4, count2 := 1, reset := fun _ => 0x0, ro := 0xFFFFFFFF }

theorem findRow_HP_RDBUF : findRow HP_RDBUF = some rdbufRow := rfl

theorem Chip.plainRead_HP_RDBUF {c : Chip} (unheld : c.held .host HP_RDBUF = none) : c.plainRead .host rdbufRow HP_RDBUF :=
  ⟨rfl, findRow_HP_RDBUF, rfl, unheld, by decide, by decide, rfl, rfl, rfl⟩

/-! ### Writes (R6, R8, R9) -/

section
variable {c : Chip} {nv : NonVolatile} {p : Path} {r : RegRow} {a : Nat} {w : Word}

/-- What a plain write leaves: RW fields take the data, W1C bits with a 1 clear. -/
def Chip.plainWritten (c : Chip) (r : RegRow) (a : Nat) (w : Word) : Chip :=
  (c.writeMask a (BitVec.ofNat 32 r.rw) w).clearOnes a (BitVec.ofNat 32 r.w1c) w

theorem Chip.plainWrite_ok (h : r.rw ≠ 0 ∨ r.wo ≠ 0 ∨ r.w1c ≠ 0) : c.plainWrite r a w = (c.plainWritten r a w, .ok) := by
  refine c.request_ok _ _ ?_
  have some : (r.rw == 0 && r.wo == 0 && r.w1c == 0) = false := by
    rcases h with h | h | h <;> simp [h]
  rw [some]
  rfl

theorem Chip.plainWritten_bit (i : Nat) (hi : i < 32) : ((c.plainWritten r a w).reg a).getLsbD i =
    ((if r.rw.testBit i then w.getLsbD i else (c.reg a).getLsbD i) &&
      !(r.w1c.testBit i && w.getLsbD i && !(cellsGet zeros c.fresh a).getLsbD i)) := by
  have fresh : (c.writeMask a (BitVec.ofNat 32 r.rw) w).fresh = c.fresh := rfl
  rw [Chip.plainWritten, Chip.clearOnes, Chip.reg_setReg, fresh, Chip.writeMask, Chip.reg_setReg]
  simp only [BitVec.getLsbD_and, BitVec.getLsbD_or, BitVec.getLsbD_not, BitVec.getLsbD_ofNat, hi, decide_true, Bool.true_and]
  cases r.rw.testBit i <;> cases w.getLsbD i <;> simp

theorem Chip.ask_congr {f g : Chip → Judged} (inDark : Bool) (h : f c = g c) : c.ask p inDark f = c.ask p inDark g := by
  rw [Chip.ask, Chip.ask, h]

/-- A request that the part does not execute now is refused for that, unless its own reason is lower. -/
theorem Chip.ask_gated {f : Chip → Judged} {inDark : Bool} {g : Reason} (carried : c.carries p = true)
    (gated : c.gate inDark = g) (shut : g ≠ .ok) : c.ask p inDark f = c.answer p (g.under (f c).2) := by
  simp [Chip.ask, carried, gated, shut]

/-- A register that stands in a plain row has no row of its own, RESET and the life cycle among them. -/
theorem State.writeReg_of_plainRow {s : State} (row : s.chip.plainRow s.nv p r a w) :
    s.writeReg p a w = { s with chip := s.chip.ask p (writeOpen a) (·.plainWrite r a w) } := by
  have plain := Chip.writeReg_of_plainRow row
  obtain ⟨-, -, lifecycle, one, -⟩ := row
  have reset : a ≠ SYS_CMD := by
    rintro rfl
    cases one
  rw [State.writeReg, if_neg fun h => reset h.1, if_neg lifecycle, Chip.ask_congr (g := (·.plainWrite r a w)) _ plain]

end

end Sys2Proof.Machine

open Sys2Proof.Machine

/-- Settles O49: what a frame does follows from its length, its CRC and its CMD. -/
theorem hostFrames : Obligations.HostFrames := by
  refine ⟨fun s f i hi => ?frames, ?timeout, ?held⟩
  case frames =>
    have row : exec i s = .next (s.hostFrame f) := by
      simp only [List.mem_cons, List.not_mem_nil, or_false] at hi
      rcases hi with rfl | rfl | rfl | rfl <;> rfl
    have ends {d : Chip} {P : Chip → Prop} (framed : s.hostFrame f = { s with chip := d }) (hp : P d) : Completes i s P :=
      ⟨d, row.trans (congrArg Host.Outcome.next framed), hp⟩
    refine ⟨fun held => ?_, fun up early => ?_, fun up whole bad => ?_, fun up good other => ?_, fun up good write => ?_⟩
    · rw [row, State.hostFrame_held held]
    · exact ends (State.hostFrame_early up early) ⟨⟨rfl, rfl, rfl⟩, rfl, rfl, rfl, rfl⟩
    · refine ends (State.hostFrame_bad up whole bad) ?_
      have shown : (if f.clocks = 72 then HP_STAT_CRC else HP_STAT_LENGTH).ok := by split <;> exact Field.ok_of _ rfl
      generalize (if f.clocks = 72 then HP_STAT_CRC else HP_STAT_LENGTH) = x at shown
      refine ⟨⟨rfl, rfl, rfl⟩, rfl, rfl, rfl, ?_, rfl, ?_, rfl⟩
      · exact Chip.get_mark (s.chip.answered f.cmd s.chip.hpAnswer) x shown
      · exact (FieldsBut.mark ((FieldsBut.refl _ s.chip).of_regs rfl) x shown List.mem_cons_self).of_regs rfl
    · by_cases nop : f.cmd = 0
      · refine ends (by rw [State.hostFrame_good up good, State.hostRun_nop _ nop]) ⟨⟨rfl, rfl, rfl⟩, ?_, rfl, rfl, rfl⟩
        rw [if_pos nop]
        rfl
      · refine ends (by rw [State.hostFrame_good up good, State.hostRun_unknown _ (other.resolve_left nop)])
          ⟨⟨rfl, rfl, rfl⟩, ?_, rfl, rfl, rfl⟩
        rw [if_neg nop]
        rfl
    · rw [row, State.hostFrame_good up good, State.hostRun_write _ write]
      rfl
  case timeout =>
    intro s up
    refine completes_of_run Chip.hpTimeout rfl (Chip.hpTimeout_eq up) ⟨rfl, rfl, rfl, rfl, rfl, ?_, rfl, ?_, rfl⟩
    · exact Chip.get_put_fit _ _ _ rfl
    · exact (FieldsBut.mark ((FieldsBut.refl _ s.chip).of_regs rfl) _ (Field.ok_of _ rfl) List.mem_cons_self).of_regs rfl
  case held =>
    intro s held
    exact idles_of_run Chip.hpTimeout rfl (by simp [Chip.hpTimeout, held])

/-- Settles O50: a plain read, the buffer's own among them, an address without a register, and the BUSY of a start. -/
theorem hostReads : Obligations.HostReads := by
  intro s f i hi up good read
  have row : exec i s = .next (({ s with chip := s.chip.framing f.cmd } : State).readReg .host f.addr.toNat) := by
    rw [← State.hostFrame_read up good read]
    simp only [List.mem_cons, List.not_mem_nil, or_false] at hi
    rcases hi with rfl | rfl <;> rfl
  have carried : (s.chip.framing f.cmd).carries .host = true := bne_iff_ne.mpr up
  have ends {d : Chip} {v : BitVec 32} {P : Chip → Prop} (opened : s.chip.readOpen f.addr.toNat = true)
      (shown : Chip.readReg s.nv .host f.addr.toNat (s.chip.framing f.cmd) = (d, v)) (hp : P ((d.give .host v).answer .host .ok)) :
      Completes i s P :=
    ⟨(d.give .host v).answer .host .ok, by rw [row, State.readReg, Chip.askReg_of_readReg carried opened shown], hp⟩
  refine ⟨fun r plain opened => ?_, fun at_buffer opened unheld => ?_, fun nowhere no_cue opened => ?_, fun booting high => ?_⟩
  · have shown := Chip.readReg_eq_plainShown (nv := s.nv) (plain.framing f.cmd)
    have value := (s.chip.framing f.cmd).plainShown_value s.nv r f.addr.toNat _ rfl
    have reg := (s.chip.framing f.cmd).plainShown_reg s.nv r f.addr.toNat
    have regs := RegsBut.plainShown (s.chip.framing f.cmd) s.nv r f.addr.toNat
    have only := Only.plainShown (s.chip.framing f.cmd) s.nv r f.addr.toNat
    rw [Chip.shown_framing] at value
    generalize hd : (s.chip.framing f.cmd).plainShown s.nv r f.addr.toNat = x at shown value reg regs only
    obtain ⟨d, v⟩ := x
    have hp : d.hp = (s.chip.framing f.cmd).hp := only.same .hp (by decide)
    refine ends opened shown ?_
    intro rc new
    refine ⟨⟨congrArg HpState.cmd hp, congrArg HpState.frames hp, congrArg HpState.out hp⟩, rfl, ?_, value.1, value.2, fun apart => ?_, ?_, ?_⟩
    · rw [Chip.answer_reg, Chip.reg_give_host]
      rfl
    · rw [Chip.answer_reg]
      exact (d.reg_setReg_ne v apart).trans reg
    · intro b hb
      simp only [List.mem_cons, List.not_mem_nil, or_false, not_or] at hb
      rw [Chip.answer_reg]
      exact (d.reg_setReg_ne v hb.2).trans (regs b (by simpa using hb.1))
    · exact ((((Only.refl [.regs, .tickRegs, .hp] s.chip).then (.framing ..)).then only).then (.give ..)).then (.answerHost ..) |>.eq
  · have plain : (s.chip.framing f.cmd).plainRead .host rdbufRow HP_RDBUF := Chip.plainRead_HP_RDBUF unheld
    have shown : Chip.readReg s.nv .host f.addr.toNat (s.chip.framing f.cmd) = (s.chip.framing f.cmd, s.chip.reg HP_RDBUF) := by
      rw [at_buffer, Chip.readReg_of_plainRead plain rfl, Chip.shown_HP_RDBUF]
      rfl
    refine ends (at_buffer ▸ opened) shown ⟨rfl, ?_, rfl⟩
    rw [Chip.answer_reg, Chip.reg_give_host]
  · have shown : Chip.readReg s.nv .host f.addr.toNat (s.chip.framing f.cmd) =
        ((s.chip.framing f.cmd).badAccess .host false f.addr.toNat, 0) := by
      unfold Chip.readReg
      rw [no_cue, nowhere]
    have noted : AccessNoted 0 false (if f.addr.toNat % 4 = 0 then 0 else 1) f.addr.toNat (s.chip.framing f.cmd)
        ((s.chip.framing f.cmd).badAccess .host false f.addr.toNat) :=
      AccessNoted.accessError _ _ _ _ _ (by decide) (by split <;> decide) f.addr.isLt
    have regs : RegsBut accessRegs (s.chip.framing f.cmd) ((s.chip.framing f.cmd).badAccess .host false f.addr.toNat) :=
      RegsBut.accessError _ _ _ _ _
    have only : Only [.regs, .faults] (s.chip.framing f.cmd) ((s.chip.framing f.cmd).badAccess .host false f.addr.toNat) :=
      Only.accessError ..
    generalize (s.chip.framing f.cmd).badAccess .host false f.addr.toNat = d at shown noted regs only
    have hp : d.hp = (s.chip.framing f.cmd).hp := only.same .hp (by decide)
    refine ends opened shown ⟨⟨congrArg HpState.cmd hp, congrArg HpState.frames hp, congrArg HpState.out hp⟩, rfl, rfl, ?_, ?_, ?_, ?_⟩
    · rw [Chip.answer_reg, Chip.reg_give_host]
    · refine noted.beside rfl fun x hx => ?_
      have apart : x ≠ HP_RDBUF := by
        rintro rfl
        exact absurd hx (by decide)
      rw [Chip.answer_reg]
      exact d.reg_setReg_ne 0 apart
    · intro b hb
      simp only [List.mem_cons, List.not_mem_nil, or_false, not_or] at hb
      obtain ⟨acc, acca, acct, accth, buffer⟩ := hb
      rw [Chip.answer_reg]
      exact (d.reg_setReg_ne 0 buffer).trans (regs b (by simp [accessRegs, acc, acca, acct, accth]))
    · exact ((((Only.refl [.regs, .faults, .hp] s.chip).then (.framing ..)).then only).then (.give ..)).then (.answerHost ..) |>.eq
  · have closed : (s.chip.framing f.cmd).readOpen f.addr.toNat = false := by
      have boots : (s.chip.framing f.cmd).booting = true := booting
      simp [Chip.readOpen, boots, high]
    have boots : (s.chip.framing f.cmd).booting = true := booting
    refine ⟨((s.chip.framing f.cmd).blank .host).answer .host .busy, ?_, ⟨rfl, rfl, rfl⟩, rfl, rfl, rfl⟩
    rw [row, State.readReg]
    simp [Chip.askReg, carried, closed, boots]

/-- Settles O51. -/
theorem registerWrites : Obligations.RegisterWrites := by
  refine ⟨?closed, ?named, fun s p a w serving => ⟨?plain, ?locked, ?nowhere⟩⟩
  case closed =>
    intro s p a w r carried row fields
    have judged := Chip.plainWrite_ok (c := s.chip) (r := r) (a := a.toNat) (w := w) fields
    have written : exec (.registerWrite p a w) s = .next { s with
        chip := s.chip.ask p (writeOpen a.toNat) (·.plainWrite r a.toNat w) } :=
      congrArg Host.Outcome.next (State.writeReg_of_plainRow row)
    refine ⟨fun booting => ?_, fun awake dark shut => ?_⟩
    · unfold Refuses
      rw [written, Chip.ask_gated carried (g := .busy) (by simp [Chip.gate, booting]) (by decide), judged]
      rfl
    · unfold Refuses
      rw [written, Chip.ask_gated carried (g := .state) (by simp [Chip.gate, awake, dark, shut]) (by decide), judged]
      rfl
  case named =>
    intro s p w i t hi
    refine ⟨fun target => ?_, fun retrain => ?_⟩
    · have row : exec i s = s.run fun c => c.ask p true fun c => c.sysPwr t := by
        simp only [List.mem_cons, List.not_mem_nil, or_false, Prod.mk.injEq] at hi
        rcases hi with ⟨rfl, rfl⟩ | ⟨rfl, rfl⟩ | ⟨rfl, rfl⟩ | ⟨rfl, rfl⟩ <;> rfl
      have judged : Chip.writeReg s.nv p SYS_PWR w s.chip = s.chip.sysPwr t := by
        rw [← target]
        rfl
      have written : s.writeReg p SYS_PWR w = { s with chip := s.chip.ask p true fun c => c.sysPwr t } := by
        rw [State.writeReg, if_neg fun h => absurd h.1 (by decide), if_neg (by decide), Chip.ask_congr (g := fun c => c.sysPwr t) _ judged]
        rfl
      exact (congrArg Host.Outcome.next written).trans row.symm
    · have judged : Chip.writeReg s.nv p RNG_CMD w s.chip = s.chip.retrain := by
        have asks : Chip.writeReg s.nv p RNG_CMD w s.chip =
            if RNG_CMD_RETRAIN.read w = 1 then s.chip.retrain else s.chip.pass := rfl
        rw [asks, if_pos retrain]
      have written : s.writeReg p RNG_CMD w = { s with chip := s.chip.ask p false Chip.retrain } := by
        rw [State.writeReg, if_neg fun h => absurd h.1 (by decide), if_neg (by decide), Chip.ask_congr (g := Chip.retrain) _ judged]
        rfl
      exact congrArg Host.Outcome.next written
  case plain =>
    intro r row fields
    refine ⟨s.chip.plainWritten r a.toNat w, ?_, fun i hi => Chip.plainWritten_bit i hi, ?_, rfl⟩
    · refine congrArg Host.Outcome.next ((State.writeReg_of_plainRow row).trans ?_)
      rw [Chip.ask_of_serves serving, Chip.plainWrite_ok fields]
    · exact ((RegsBut.refl _ s.chip).setReg _ _ List.mem_cons_self).setReg _ _ List.mem_cons_self
  case locked =>
    intro r row hrw hwo hw1c
    refine refuses_registerWrite serving ?_ row hrw hwo hw1c
    obtain ⟨-, -, -, one, -⟩ := row
    intro reset
    rw [reset] at one
    cases one
  case nowhere =>
    intro nowhere no_cue
    have somewhere (x : Nat) (hx : (findRow x).isSome = true) : a.toNat ≠ x := by
      rintro rfl
      rw [nowhere] at hx
      cases hx
    have judged : Chip.writeReg s.nv p a.toNat w s.chip = (s.chip.badAccess p true a.toNat, .ok) := by
      unfold Chip.writeReg
      rw [no_cue, nowhere]
    refine ⟨s.chip.badAccess p true a.toNat, ?_, ?_, RegsBut.accessError _ _ _ _ _, (Only.accessError ..).eq⟩
    · refine congrArg Host.Outcome.next ?_
      rw [State.writeReg, if_neg fun h => somewhere _ rfl h.1, if_neg (somewhere _ rfl), Chip.ask_of_serves serving, judged]
    · cases p with
      | host => exact AccessNoted.accessError _ _ _ _ _ (by decide) (by split <;> decide) a.isLt
      | can => exact AccessNoted.accessError _ _ _ _ _ (by decide) (by split <;> decide) a.isLt
end

section
-- One proof after the other: a side goal that `Only` settles by `decide` waits for the kernel, on a thread of its own.
set_option Elab.async false
/-! SUPPORT. Axes that enter OFF one after the other, the chopper, and the over-voltage cascade of a bus; and the statements about
them (R231 to R239). -/
namespace Sys2Proof.Machine

/-! ### Lists of operations -/

/-- What one operation of a list brings about and every operation keeps, the list brings about. -/
theorem Chip.each_brings {α : Type} {P : Chip → Prop} {f : Chip → α → Chip} {x : α} (c : Chip) (xs : List α) (hx : x ∈ xs)
    (brings : ∀ d, P (f d x)) (keeps : ∀ d, P d → ∀ y ∈ xs, P (f d y)) : P (c.each xs f) := by
  obtain ⟨before, after, rfl⟩ := List.append_of_mem hx
  have split : c.each (before ++ x :: after) f = (f (c.each before f) x).each after f := by
    simp [Chip.each, List.foldl_append]
  rw [split]
  exact Chip.each_keeps after (brings _) fun d hd y hy => keeps d hd y (by simp [hy])

/-! ### Axes entering OFF by a reaction (R204, R283) -/

section
variable (c : Chip) (a : Axis)

/-- No register of one axis's modes, stream and start is another's. -/
theorem offRegs_disjoint {a b : Axis} (h : b ≠ a) {x : Nat} (hx : x ∈ offRegs a) : x ∉ offRegs b := by
  have apart : b.val ≠ a.val := fun e => h (Fin.ext e)
  have := a.isLt
  have := b.isLt
  simp only [offRegs, AX_MSTAT, AX_STRSTAT, AX_SRCSTAT, List.mem_cons, List.not_mem_nil, or_false] at hx ⊢
  omega

theorem offRegs_low {a : Axis} {x : Nat} (hx : x ∈ offRegs a) : 0x080000 ≤ x ∧ x < 0x090000 := by
  have := a.isLt
  simp only [offRegs, AX_MSTAT, AX_STRSTAT, AX_SRCSTAT, List.mem_cons, List.not_mem_nil, or_false] at hx
  omega

theorem AX_COMCFG_not_mem_offRegs (a b : Axis) : AX_COMCFG a.val ∉ offRegs b := by
  have := a.isLt
  have := b.isLt
  simp only [offRegs, AX_MSTAT, AX_STRSTAT, AX_SRCSTAT, AX_COMCFG, List.mem_cons, List.not_mem_nil, or_false]
  omega

/-- The same words of all registers give the same fields. -/
theorem Chip.get_of_regs {b c : Chip} (h : c.regs = b.regs) (f : Field) : c.get f = b.get f :=
  congrArg (fun w => f.read (cellsGet regReset w f.addr)) h

/-- An axis in OFF shows mode 0. -/
theorem Chip.enterOff_mode (homeCode : Nat) : (c.enterOff a homeCode).modeOf a = 0 := by
  unfold Chip.enterOff
  dsimp only
  split
  next off => simpa using off
  next =>
    have shown : (((c.leaveMode a homeCode).put (AX_MSTAT_MODE a.val) 0).endStart a).get (AX_MSTAT_MODE a.val) = 0 := by
      have apart : AX_MSTAT a.val ≠ AX_SRCSTAT a.val := by simp only [AX_MSTAT, AX_SRCSTAT]; omega
      have kept (d : Chip) : (d.endStart a).get (AX_MSTAT_MODE a.val) = d.get (AX_MSTAT_MODE a.val) := by
        simp only [Chip.endStart, Chip.setStart, Chip.setAxis_get]
        exact d.get_put_ne _ _ _ apart
      rw [kept]
      exact Chip.get_put_fit _ _ _ rfl
    have series (d : Chip) (x : AxisState) : ((d.setAxis a x).each (legsOf a) fun e l => e.newSeries false l).get (AX_MSTAT_MODE a.val) =
        d.get (AX_MSTAT_MODE a.val) := Chip.get_of_regs ((Chip.each_newSeries_regs ..).trans (Chip.setAxis_regs ..)) _
    unfold Chip.modeOf
    split
    next => rw [series, shown]
    next => rw [Chip.get_of_regs (Chip.floatAxis_regs ..), series, shown]

theorem Chip.reactOff_mode : (c.reactOff a).modeOf a = 0 ∧ (c.reactOff a).get (AX_MSTAT_REACTED a.val) = 1 :=
  ⟨(Chip.get_put_beside _ _ _ _ rfl).trans (c.enterOff_mode a 5), Chip.get_put_fit _ _ _ rfl⟩

/-- Axes that enter OFF by a reaction set registers of theirs alone. -/
theorem Chip.each_reactOff_reg (xs : List Axis) {x : Nat} (hx : ∀ b ∈ xs, x ∉ offRegs b) : (c.each xs Chip.reactOff).reg x = c.reg x :=
  Chip.each_keeps (P := fun d => d.reg x = c.reg x) xs rfl fun d hd b hb => (d.reactOff_regsBut b x (hx b hb)).trans hd

/-- Each axis of a list that enters OFF by a reaction is then in OFF with REACTED. -/
theorem Chip.each_reactOff_mode (xs : List Axis) (ha : a ∈ xs) :
    (c.each xs Chip.reactOff).modeOf a = 0 ∧ (c.each xs Chip.reactOff).get (AX_MSTAT_REACTED a.val) = 1 := by
  refine Chip.each_brings (P := fun d => d.modeOf a = 0 ∧ d.get (AX_MSTAT_REACTED a.val) = 1) c xs ha (·.reactOff_mode a) ?_
  intro d hd b _
  by_cases hb : b = a
  · exact hb ▸ d.reactOff_mode b
  · have kept : (d.reactOff b).reg (AX_MSTAT a.val) = d.reg (AX_MSTAT a.val) :=
      d.reactOff_regsBut b _ (offRegs_disjoint hb List.mem_cons_self)
    exact ⟨(congrArg (AX_MSTAT_MODE a.val).read kept).trans hd.1, (congrArg (AX_MSTAT_REACTED a.val).read kept).trans hd.2⟩

end

/-- A source that is raised is one event more. -/
theorem Raised.raise {b c : Chip} {src : Nat} (h : c.faults = b.faults) : Raised src b (c.raise src) := by
  rw [Raised, ← h]
  rfl

/-! ### The state of one bus -/

theorem OneBus.refl (r : Region) (c : Chip) : OneBus r c c := fun _ _ => rfl

theorem OneBus.setBus {b c : Chip} {r : Region} (h : OneBus r b c) (x : BusState) : OneBus r b (c.setBus r x) :=
  fun k hk => (Chip.bus_setBus_ne c r x hk).trans (h k hk)

theorem OneBus.trans {r : Region} {b c d : Chip} (h : OneBus r b c) (k : OneBus r c d) : OneBus r b d :=
  fun e he => (k e he).trans (h e he)

theorem Only.oneBus {l : List Part} {b c : Chip} (h : Only l b c) (r : Region) (hl : Part.buses ∉ l := by decide) : OneBus r b c :=
  fun q _ => h.bus q hl

/-- A field of BUS_VTH or BUS_FAST shares no bit with one of BUS_STAT. -/
theorem apart_BUS_STAT {r : Nat} {f g : Field} (hf : f.addr = BUS_VTH r ∨ f.addr = BUS_FAST r ∨ f.addr = BUS_CHOP r ∨ f.addr = BUS_CFG r)
    (hg : g.addr = BUS_STAT r) : f.apart g := by
  refine .inl ?_
  rw [hg]
  simp only [BUS_VTH, BUS_FAST, BUS_CHOP, BUS_CFG] at hf
  simp only [BUS_STAT]
  omega

/-! ### The chopper (R231 to R234) -/

/-- What the chopper's operations change: fields of `l` and the bus. -/
structure BusAt (r : Region) (l : List Field) (b c : Chip) : Prop where
  fields : FieldsBut l b c
  others : OneBus r b c
  only : Only [.regs, .buses] b c

section
variable (c : Chip) (r : Region) (v : Nat)

theorem BusAt.refl (l : List Field) : BusAt r l c c := ⟨.refl l c, .refl r c, .refl _ c⟩

theorem BusAt.trans {r : Region} {l : List Field} {b c d : Chip} (h : BusAt r l b c) (k : BusAt r l c d) : BusAt r l b d :=
  ⟨h.fields.trans k.fields, h.others.trans k.others, h.only.trans k.only⟩

theorem BusAt.mono {r : Region} {l m : List Field} {b c : Chip} (h : BusAt r l b c) (hl : ∀ f ∈ l, f ∈ m) : BusAt r m b c :=
  ⟨h.fields.mono hl, h.others, h.only⟩

theorem BusAt.put {l : List Field} (f : Field) (hf : f.ok) (hl : f ∈ l) : BusAt r l c (c.put f v) :=
  ⟨(FieldsBut.refl l c).put f v hf hl, (Only.put c f v).oneBus r, (Only.put c f v).mono⟩

theorem BusAt.setBus (l : List Field) (x : BusState) : BusAt r l c (c.setBus r x) :=
  ⟨(Only.setBus c r x).fieldsBut l, (OneBus.refl r c).setBus x, (Only.setBus c r x).mono⟩

theorem BusAt.chopStop : BusAt r [BUS_STAT_CHOP_ON r.val] c (c.chopStop r) := by
  unfold Chip.chopStop
  split
  · exact (BusAt.put c r 0 _ (Field.ok_of _ rfl) List.mem_cons_self).trans (.setBus ..)
  · exact .refl ..

theorem BusAt.chopOn : BusAt r [BUS_STAT_CHOP_ON r.val] c (c.chopOn r v) :=
  (BusAt.put c r 1 _ (Field.ok_of _ rfl) List.mem_cons_self).trans (.setBus ..)

theorem BusAt.judgeChop : BusAt r [BUS_STAT_CHOP_ON r.val] c (c.judgeChop r v) := by
  unfold Chip.judgeChop
  split
  · split
    · exact .chopStop c r
    · exact .refl ..
  · split
    · exact .chopOn c r v
    · exact .refl ..

/-- A chopper that is turned off is off, and a turn-off has its tick. -/
theorem Chip.chopStop_off : (c.chopStop r).flag (BUS_STAT_CHOP_ON r.val) = false ∧
    (c.flag (BUS_STAT_CHOP_ON r.val) = true → ((c.chopStop r).bus r).chopOff = some c.now) := by
  unfold Chip.chopStop
  split
  next =>
    refine ⟨?_, fun _ => by rw [Chip.bus_setBus]⟩
    have off : (c.put (BUS_STAT_CHOP_ON r.val) 0).get (BUS_STAT_CHOP_ON r.val) = 0 := Chip.get_put_fit _ _ _ rfl
    simp [Chip.flag, off]
  next off => exact ⟨by simpa using off, fun on => absurd on off⟩

theorem Chip.chopOn_on : (c.chopOn r v).flag (BUS_STAT_CHOP_ON r.val) = true ∧ ((c.chopOn r v).bus r).minDone = false ∧
    ((∀ t, (c.bus r).chopOff = some t → t + 500 ≤ c.now) → ((c.chopOn r v).bus r).chkTick = c.now ∧
      ((c.chopOn r v).bus r).chk = some (c.gets (BUS_FAST_I r.val), v)) := by
  have on : (c.put (BUS_STAT_CHOP_ON r.val) 1).get (BUS_STAT_CHOP_ON r.val) = 1 := Chip.get_put_fit _ _ _ rfl
  unfold Chip.chopOn
  simp only [Chip.bus_setBus]
  refine ⟨by simp [Chip.flag, on], trivial, fun old => ?_⟩
  cases off : (c.bus r).chopOff with
  | none => simp
  | some t =>
    have aged : ¬ c.now - t < 500 := by have := old t off; omega
    simp [aged]

/-- At the end of the minimum on time the chopper is judged as the voltage stands. -/
theorem Chip.chopMin_eq {c : Chip} {r : Region} (on : c.flag (BUS_STAT_CHOP_ON r.val) = true)
    (late : (c.bus r).chopTick + 250 * c.get (BUS_CFG_CHOP_MIN r.val) ≤ c.now) :
    c.chopMin r = if c.get (BUS_FAST_V r.val) + c.hyst r < c.volts (BUS_VTH_V_CHOP r.val) then
        (c.setBus r { c.bus r with minDone := true }).chopStop r
      else c.setBus r { c.bus r with minDone := true } := by
  have same : (c.setBus r { c.bus r with minDone := true }).flag (BUS_STAT_CHOP_ON r.val) = true := on
  have volts : (c.setBus r { c.bus r with minDone := true }).volts (BUS_VTH_V_CHOP r.val) = c.volts (BUS_VTH_V_CHOP r.val) := rfl
  have hyst : (c.setBus r { c.bus r with minDone := true }).hyst r = c.hyst r := rfl
  simp [Chip.chopMin, on, late, Chip.judgeChop, same, volts, hyst]

/-- The chip once the chopper's failure is marked: it is off, and no check is open. -/
def Chip.chopOut (c : Chip) (r : Region) : Chip :=
  ((c.chopStop r).put (BUS_STAT_CHOPF r.val) 1).setBus r { (c.chopStop r).bus r with chk := none }

/-- Its threshold is in force then, before regeneration is judged. -/
def Chip.chopMarked (c : Chip) (r : Region) : Chip :=
  (c.chopOut r).put (BUS_STAT_VCUT_LIVE r.val) ((c.chopOut r).get (BUS_VTH_V_CHOP r.val))

theorem Chip.chopFails_eq {c : Chip} {r : Region} (opened : (c.bus r).chk.isSome = true) (late : (c.bus r).chkTick + 500 ≤ c.now) :
    c.chopFails r = (if (c.chopMarked r).volts (BUS_VTH_V_CHOP r.val) ≤ (c.chopMarked r).get (BUS_FAST_V r.val) then
      (c.chopMarked r).put (BUS_STAT_CUT r.val) 1 else c.chopMarked r).raise (srcRegion r 1) := by
  unfold Chip.chopFails
  rw [if_neg (by simp [Option.isNone_iff_eq_none, Option.isSome_iff_ne_none.mp opened, Nat.not_lt.mpr late])]
  rfl

theorem BusAt.chopOut : BusAt r [BUS_STAT_CHOP_ON r.val, BUS_STAT_CHOPF r.val] c (c.chopOut r) :=
  (((BusAt.chopStop c r).mono (by simp)).trans (.put _ r _ _ (Field.ok_of _ rfl) (by simp))).trans (.setBus ..)

theorem BusAt.chopMarked : BusAt r [BUS_STAT_CHOP_ON r.val, BUS_STAT_CHOPF r.val, BUS_STAT_VCUT_LIVE r.val] c (c.chopMarked r) :=
  ((BusAt.chopOut c r).mono (by simp)).trans (.put _ r _ _ (Field.ok_of _ rfl) (by simp))

end

theorem BusAt.kept {r : Region} {l : List Field} {b c : Chip} (h : BusAt r l b c) (hl : ∀ f ∈ l, f.addr = BUS_STAT r.val) {f : Field}
    (ok : f.ok) (hf : f.addr = BUS_VTH r.val ∨ f.addr = BUS_FAST r.val ∨ f.addr = BUS_CHOP r.val ∨ f.addr = BUS_CFG r.val) :
    c.get f = b.get f := h.fields f ok fun g hg => apart_BUS_STAT hf (hl g hg)

/-- A flag that is apart from the field put keeps its value. -/
theorem Chip.flag_of_get {b c : Chip} {f : Field} (h : c.get f = b.get f) : c.flag f = b.flag f := congrArg (· != 0) h

theorem Chip.flag_one {c : Chip} {f : Field} (h : c.get f = 1) : c.flag f = true := congrArg (· != 0) h

theorem Chip.flag_zero {c : Chip} {f : Field} (h : c.get f = 0) : c.flag f = false := congrArg (· != 0) h

theorem Chip.chopOut_shown (c : Chip) (r : Region) :
    (c.chopOut r).flag (BUS_STAT_CHOP_ON r.val) = false ∧ (c.chopOut r).get (BUS_STAT_CHOPF r.val) = 1 ∧
    ((c.chopOut r).bus r).chk = none ∧
    (c.flag (BUS_STAT_CHOP_ON r.val) = true → ((c.chopOut r).bus r).chopOff = some c.now) := by
  obtain ⟨off, tick⟩ := c.chopStop_off r
  have bus : (c.chopOut r).bus r = { (c.chopStop r).bus r with chk := none } := Chip.bus_setBus ..
  refine ⟨(Chip.flag_of_get ?_).trans off, ?_, by rw [bus], fun on => ?_⟩
  · exact (Chip.setBus_get ..).trans (Chip.get_put_beside _ _ _ _ rfl)
  · exact (Chip.setBus_get ..).trans (Chip.get_put_fit _ _ _ rfl)
  · rw [bus]
    exact tick on

/-- A failed chopper is off and marked, no check is open, and V_CHOP is the threshold in force. -/
theorem Chip.chopMarked_shown (c : Chip) (r : Region) :
    (c.chopMarked r).flag (BUS_STAT_CHOP_ON r.val) = false ∧ (c.chopMarked r).get (BUS_STAT_CHOPF r.val) = 1 ∧
    (c.chopMarked r).get (BUS_STAT_VCUT_LIVE r.val) = c.get (BUS_VTH_V_CHOP r.val) ∧ ((c.chopMarked r).bus r).chk = none ∧
    (c.flag (BUS_STAT_CHOP_ON r.val) = true → ((c.chopMarked r).bus r).chopOff = some c.now) := by
  obtain ⟨off, failed, closed, tick⟩ := c.chopOut_shown r
  have volts : (c.chopOut r).get (BUS_VTH_V_CHOP r.val) = c.get (BUS_VTH_V_CHOP r.val) :=
    (BusAt.chopOut c r).kept (by simp [BUS_STAT_CHOP_ON, BUS_STAT_CHOPF]) (Field.ok_of _ rfl) (.inl rfl)
  refine ⟨(Chip.flag_of_get (Chip.get_put_beside _ _ _ _ rfl)).trans off, (Chip.get_put_beside _ _ _ _ rfl).trans failed, ?_, ?_, fun on => ?_⟩
  · rw [Chip.chopMarked, volts]
    exact Chip.get_put_lt _ (BUS_STAT_VCUT_LIVE r.val) (Field.ok_of _ rfl) _ (c.get_lt (BUS_VTH_V_CHOP r.val))
  · rw [Chip.chopMarked, Chip.bus_put, closed]
  · rw [Chip.chopMarked, Chip.bus_put, tick on]

/-- A fast current report while its slice runs: it is shown, and closes the check that it passes. -/
theorem Chip.fastCurrent_eq {c : Chip} {r : Region} {i : Int} (armed : c.isArmed = true) (on : c.sliceOn (currSlice r) = true) :
    ∃ x : BusState, c.fastCurrent r i = (c.puts (BUS_FAST_I r.val) i).setBus r x ∧
      ∀ i0 v0, (c.bus r).chk = some (i0, v0) →
        x.chk = if c.now ≤ (c.bus r).chkTick + 500 ∧ c.chopPasses r i0 v0 i = true then none else some (i0, v0) := by
  have same (d : Chip) : d.setBus r (d.bus r) = d := by simp [Chip.setBus, Chip.bus]
  have passes (i0 : Int) (v0 : Nat) : (c.puts (BUS_FAST_I r.val) i).chopPasses r i0 v0 i = c.chopPasses r i0 v0 i := by
    have factor : (c.puts (BUS_FAST_I r.val) i).get (BUS_CHOP_CHKF r.val) = c.get (BUS_CHOP_CHKF r.val) :=
      c.get_put_ne _ _ _ (by simp only [BUS_CHOP_CHKF, BUS_CHOP, BUS_FAST_I, BUS_FAST]; omega)
    have ohms : (c.puts (BUS_FAST_I r.val) i).get (BUS_CHOP_RBRK r.val) = c.get (BUS_CHOP_RBRK r.val) :=
      c.get_put_ne _ _ _ (by simp only [BUS_CHOP_RBRK, BUS_CHOP, BUS_FAST_I, BUS_FAST]; omega)
    rw [Chip.chopPasses, Chip.chopPasses, factor, ohms]
  unfold Chip.fastCurrent
  rw [armed, on, Bool.and_self, if_pos rfl]
  dsimp only
  rw [Chip.bus_puts]
  cases opened : (c.bus r).chk with
  | none => exact ⟨_, (same _).symm, fun _ _ h => by cases h⟩
  | some x =>
    obtain ⟨i0, v0⟩ := x
    dsimp only
    rw [passes, Chip.puts_now]
    by_cases pass : c.now ≤ (c.bus r).chkTick + 500 ∧ c.chopPasses r i0 v0 i = true
    · refine ⟨_, if_pos (by simpa using pass), fun _ _ h => ?_⟩
      cases h
      rw [if_pos pass]
    · refine ⟨_, (if_neg (by simpa using pass)).trans (same _).symm, fun _ _ h => ?_⟩
      cases h
      rw [if_neg pass]
      exact opened

/-- A number of a field's width in two's complement is put as it stands. -/
theorem wrapTo_toInt {w : Nat} (i : BitVec w) : wrapTo w i.toInt = i.toNat := by
  have shown := BitVec.toNat_ofInt (n := w) i.toInt
  rw [BitVec.ofInt_toInt] at shown
  rw [shown, wrapTo]
  norm_cast

end Sys2Proof.Machine

open Sys2Proof.Machine

/-- Settles O28. -/
theorem chopper : Obligations.Chopper := by
  refine ⟨?report, ?expiry, ?early, ?minimum⟩
  case report =>
    intro s r i armed on
    obtain ⟨x, shown, check⟩ := Chip.fastCurrent_eq (i := i.toInt) armed on
    refine completes_of_run (·.fastCurrent r i.toInt) rfl shown ⟨?_, ?_, (OneBus.refl r s.chip).setBus x, ?_, rfl⟩
    · have fits : wrapTo 16 i.toInt = i.toNat := wrapTo_toInt i
      rw [Chip.setBus_get, Chip.puts]
      exact (Chip.get_put_lt _ _ (Field.ok_of _ rfl) _ (fits ▸ i.isLt)).trans fits
    · rw [Chip.bus_setBus]
      exact check
    · exact ((FieldsBut.refl _ s.chip).puts _ _ (Field.ok_of _ rfl) List.mem_cons_self).of_regs rfl
  case expiry =>
    intro s r opened late
    have marked := BusAt.chopMarked s.chip r
    obtain ⟨off, failed, cut, closed, tick⟩ := s.chip.chopMarked_shown r
    have stat : ∀ f ∈ [BUS_STAT_CHOP_ON r.val, BUS_STAT_CHOPF r.val, BUS_STAT_VCUT_LIVE r.val], f.addr = BUS_STAT r.val := by
      simp [BUS_STAT_CHOP_ON, BUS_STAT_CHOPF, BUS_STAT_VCUT_LIVE]
    have vth : (s.chip.chopMarked r).volts (BUS_VTH_V_CHOP r.val) = s.chip.volts (BUS_VTH_V_CHOP r.val) :=
      congrArg (50 * ·) (marked.kept stat (Field.ok_of _ rfl) (.inl rfl))
    have fast : (s.chip.chopMarked r).get (BUS_FAST_V r.val) = s.chip.get (BUS_FAST_V r.val) :=
      marked.kept stat (Field.ok_of _ rfl) (.inr (.inl rfl))
    have frame : ∀ f ∈ [BUS_STAT_CHOP_ON r.val, BUS_STAT_CHOPF r.val, BUS_STAT_VCUT_LIVE r.val],
        f ∈ [BUS_STAT_CHOP_ON r.val, BUS_STAT_CHOPF r.val, BUS_STAT_VCUT_LIVE r.val, BUS_STAT_CUT r.val] := by simp
    have faults : (s.chip.chopMarked r).faults = s.chip.faults := marked.only.same .faults (by decide)
    have wide := marked.mono frame
    have eq := Chip.chopFails_eq opened late
    rw [vth, fast] at eq
    generalize s.chip.chopMarked r = d at eq off failed cut closed tick faults wide
    refine completes_of_run (·.chopFails r) rfl eq ?_
    rw [Chip.raise_flag, Chip.raise_flag, Chip.raise_get, Chip.raise_flag, Chip.bus_raise]
    have raised {e : Chip} (h : BusAt r [BUS_STAT_CHOP_ON r.val, BUS_STAT_CHOPF r.val, BUS_STAT_VCUT_LIVE r.val, BUS_STAT_CUT r.val]
        s.chip e) : Raised (srcRegion r 1) s.chip (e.raise (srcRegion r 1)) ∧ OneBus r s.chip (e.raise (srcRegion r 1)) ∧
        FieldsBut [BUS_STAT_CHOP_ON r.val, BUS_STAT_CHOPF r.val, BUS_STAT_VCUT_LIVE r.val, BUS_STAT_CUT r.val] s.chip
          (e.raise (srcRegion r 1)) ∧ Only [.regs, .buses, .faults] s.chip (e.raise (srcRegion r 1)) :=
      ⟨Raised.raise (h.only.same .faults (by decide)), h.others.trans ((Only.raise ..).oneBus r), h.fields.of_regs (Chip.raise_regs ..),
        (h.only.mono : Only [.regs, .buses, .faults] _ _).then (.raise ..)⟩
    split
    next =>
      obtain ⟨event, others, fields, only⟩ := raised (wide.trans (.put d r 1 (BUS_STAT_CUT r.val) (Field.ok_of _ rfl) (by simp)))
      refine ⟨?_, ?_, ?_, fun _ => ?_, ?_, fun on => ?_, event, others, fields, only.eq⟩
      · exact (Chip.flag_of_get (Chip.get_put_beside _ _ _ _ rfl)).trans off
      · exact Chip.flag_one ((Chip.get_put_beside _ _ _ _ rfl).trans failed)
      · exact (Chip.get_put_beside _ _ _ _ rfl).trans cut
      · exact Chip.flag_one (Chip.get_put_fit _ _ _ rfl)
      · rw [Chip.bus_put, closed]
      · rw [Chip.bus_put, tick on]
    next high =>
      obtain ⟨event, others, fields, only⟩ := raised wide
      exact ⟨off, Chip.flag_one failed, cut, fun low => absurd low high, closed, tick, event, others, fields, only.eq⟩
  case early =>
    intro s r h
    refine idles_of_run (·.chopFails r) rfl ?_
    rcases h with h | h <;> simp [Chip.chopFails, h]
  case minimum =>
    intro s r on late
    have marked := BusAt.setBus s.chip r [BUS_STAT_CHOP_ON r.val] { s.chip.bus r with minDone := true }
    refine completes_of_run (·.chopMin r) rfl (Chip.chopMin_eq on late) ?_
    split
    next low =>
      have stopped := BusAt.chopStop (s.chip.setBus r { s.chip.bus r with minDone := true }) r
      obtain ⟨off, -⟩ := (s.chip.setBus r { s.chip.bus r with minDone := true }).chopStop_off r
      refine ⟨?_, ?_, (marked.trans stopped).others, (marked.trans stopped).fields, (marked.trans stopped).only.eq⟩
      · rw [off]
        exact ⟨fun no => absurd no (by decide), fun high => absurd low (by omega)⟩
      · unfold Chip.chopStop
        split <;> simp
    next high =>
      refine ⟨?_, ?_, marked.others, marked.fields, rfl⟩
      · exact ⟨fun _ => by omega, fun _ => on⟩
      · rw [Chip.bus_setBus]
end

section
-- One proof after the other: a side goal that `Only` settles by `decide` waits for the kernel, on a thread of its own.
set_option Elab.async false
/-! SUPPORT. The over-voltage cascade of a bus, stage by stage; and the statement about it (R231, R235, R237, R239). -/
namespace Sys2Proof.Machine

section
variable (c : Chip) (r : Region) (v old : Nat)

/-! ### The stages -/

theorem BusAt.judgeCut : BusAt r [BUS_STAT_CUT r.val] c (c.judgeCut r v) := by
  unfold Chip.judgeCut
  dsimp only
  split
  · exact .put c r 1 _ (Field.ok_of _ rfl) List.mem_cons_self
  · split
    · exact .put c r 0 _ (Field.ok_of _ rfl) List.mem_cons_self
    · exact .refl ..

theorem Only.judgeCut : Only [.regs] c (c.judgeCut r v) := by
  unfold Chip.judgeCut
  dsimp only
  exact Only.ite (.put ..) (Only.ite (.put ..) (.refl ..))

theorem Appends.judgeUv : Appends c (c.judgeUv r v) := by
  unfold Chip.judgeUv
  dsimp only
  split
  · exact Appends.ite (Only.appends (.put ..)) (.refl c)
  · exact Appends.ite ((Only.appends (.put ..)).trans (.raise ..)) (.refl c)

theorem Chip.judgeCut_cut : (c.volts (BUS_STAT_VCUT_LIVE r.val) ≤ v → (c.judgeCut r v).flag (BUS_STAT_CUT r.val) = true) ∧
    (v + c.hyst r < c.volts (BUS_STAT_VCUT_LIVE r.val) → (c.judgeCut r v).flag (BUS_STAT_CUT r.val) = false) := by
  refine ⟨fun high => ?_, fun low => ?_⟩
  · rw [Chip.judgeCut, if_pos high]
    exact Chip.flag_one (Chip.get_put_fit _ _ _ rfl)
  · rw [Chip.judgeCut, if_neg (by omega), if_pos low]
    exact Chip.flag_zero (Chip.get_put_fit _ _ _ rfl)

/-- A chopper that may turn on does so at its threshold. -/
theorem Chip.judgeChop_on {c : Chip} {r : Region} {v : Nat} (off : c.flag (BUS_STAT_CHOP_ON r.val) = false)
    (enabled : c.flag (BUS_CHOP_EN r.val) = true) (sound : c.flag (BUS_STAT_CHOPF r.val) = false) (cold : c.faults.fire = false)
    (high : c.volts (BUS_VTH_V_CHOP r.val) ≤ v) : c.judgeChop r v = c.chopOn r v := by
  simp [Chip.judgeChop, off, enabled, sound, cold, high]

theorem Chip.judgeChop_disabled {c : Chip} {r : Region} (v : Nat) (off : c.flag (BUS_STAT_CHOP_ON r.val) = false)
    (disabled : c.flag (BUS_CHOP_EN r.val) = false) : c.judgeChop r v = c := by
  simp [Chip.judgeChop, off, disabled]

/-- The event of an under-voltage that begins. -/
def uvEvents (c : Chip) (r : Region) (v : Nat) : List Event :=
  if c.flag (BUS_STAT_UV r.val) = false ∧ v < c.volts (BUS_VTH_V_UV r.val) then [⟨srcRegion r 2, 1, 0, 0, false⟩] else []

theorem Chip.judgeUv_faults : (c.judgeUv r v).faults = { c.faults with events := c.faults.events ++ uvEvents c r v } := by
  have none (x : FaultState) : x = { x with events := x.events ++ [] } := by rw [List.append_nil]
  unfold Chip.judgeUv uvEvents
  dsimp only
  split
  next under =>
    have quiet : ¬ (c.flag (BUS_STAT_UV r.val) = false ∧ v < c.volts (BUS_VTH_V_UV r.val)) := by simp [under]
    rw [if_neg quiet]
    split <;> exact none _
  next over_ =>
    have clear : c.flag (BUS_STAT_UV r.val) = false := by simpa using over_
    split
    next low => simp only [clear, low, and_self, if_true]; rfl
    next high => simp only [clear, high, and_false, if_false]; exact none _

theorem Only.judgeUv : Only [.regs, .faults] c (c.judgeUv r v) := by
  unfold Chip.judgeUv
  dsimp only
  split
  · exact Only.ite ((Only.put ..).mono) (.refl ..)
  · exact Only.ite (((Only.refl _ c).then (.put ..)).then (.raise ..)) (.refl ..)

theorem FieldsBut.judgeUv : FieldsBut [BUS_STAT_UV r.val] c (c.judgeUv r v) := by
  have put (n : Nat) : FieldsBut [BUS_STAT_UV r.val] c (c.put (BUS_STAT_UV r.val) n) :=
    (FieldsBut.refl _ c).put _ n (Field.ok_of _ rfl) List.mem_cons_self
  unfold Chip.judgeUv
  dsimp only
  split
  · split
    · exact put 0
    · exact FieldsBut.refl _ _
  · split
    · exact (put 1).of_regs (Chip.raise_regs ..)
    · exact FieldsBut.refl _ _

theorem RegsBut.judgeUv : RegsBut [BUS_STAT r.val] c (c.judgeUv r v) := by
  have put (n : Nat) : RegsBut [BUS_STAT r.val] c (c.put (BUS_STAT_UV r.val) n) :=
    (RegsBut.refl _ c).put _ n List.mem_cons_self
  unfold Chip.judgeUv
  dsimp only
  split
  · split
    · exact put 0
    · exact RegsBut.refl _ _
  · split
    · exact (put 1).of_regs (Chip.raise_regs ..)
    · exact RegsBut.refl _ _

theorem Chip.judgeUv_uv : (v < c.volts (BUS_VTH_V_UV r.val) → (c.judgeUv r v).flag (BUS_STAT_UV r.val) = true) ∧
    (c.volts (BUS_VTH_V_UV r.val) + c.hyst r < v → (c.judgeUv r v).flag (BUS_STAT_UV r.val) = false) := by
  have one : (c.put (BUS_STAT_UV r.val) 1).flag (BUS_STAT_UV r.val) = true := Chip.flag_one (Chip.get_put_fit _ _ _ rfl)
  have zero : (c.put (BUS_STAT_UV r.val) 0).flag (BUS_STAT_UV r.val) = false := Chip.flag_zero (Chip.get_put_fit _ _ _ rfl)
  unfold Chip.judgeUv
  dsimp only
  refine ⟨fun low => ?_, fun high => ?_⟩
  · split
    next under =>
      split
      · omega
      · exact under
    next => simp only [Chip.raise_flag, one]
  · split
    next => exact zero
    next clear =>
      split
      · omega
      · simpa using clear

/-! ### The active short (R237) -/

theorem Only.assertShort : Only [.regs, .legs, .axes, .faults] c (c.assertShort r) := by
  unfold Chip.assertShort
  dsimp only
  have noted : Only [.regs, .legs, .axes, .faults] c ((c.put (BUS_STAT_SHORT r.val) 1).raise (srcRegion r 0)) :=
    ((Only.refl _ c).then (.put ..)).then (.raise ..)
  exact (noted.then (Only.each _ _ fun d a _ => .reactOff d a)).then (.obeyLines _)

/-- The chip once the short is shown and its event reported. -/
def Chip.shortNoted (c : Chip) (r : Region) : Chip := (c.put (BUS_STAT_SHORT r.val) 1).raise (srcRegion r 0)

theorem Chip.assertShort_eq : c.assertShort r =
    ((c.shortNoted r).each ((axesOfRegion r).filter (c.shortNoted r).axisOn) Chip.reactOff).obeyLines := rfl

theorem Chip.assertShort_reg {x : Nat} (hx : ∀ a, regionOf a = r → x ∉ offRegs a) :
    (c.assertShort r).reg x = (c.shortNoted r).reg x := by
  have words : (c.assertShort r).regs = ((c.shortNoted r).each ((axesOfRegion r).filter (c.shortNoted r).axisOn) Chip.reactOff).regs :=
    Chip.obeyLines_regs _
  refine (congrArg (cellsGet regReset · x) words).trans (Chip.each_reactOff_reg _ _ fun b hb => hx b ?_)
  have region := (List.mem_filter.mp (List.mem_filter.mp hb).1).2
  simpa using region

theorem Chip.assertShort_axis {a : Axis} (region : regionOf a = r) (on : (c.shortNoted r).axisOn a = true) :
    (c.assertShort r).modeOf a = 0 ∧ (c.assertShort r).get (AX_MSTAT_REACTED a.val) = 1 := by
  have words : (c.assertShort r).regs = ((c.shortNoted r).each ((axesOfRegion r).filter (c.shortNoted r).axisOn) Chip.reactOff).regs :=
    Chip.obeyLines_regs _
  have listed : a ∈ (axesOfRegion r).filter (c.shortNoted r).axisOn := by
    have all : ∀ b, b ∈ allAxes := by decide
    exact List.mem_filter.mpr ⟨List.mem_filter.mpr ⟨all a, by simpa using region⟩, on⟩
  obtain ⟨mode, reacted⟩ := Chip.each_reactOff_mode (c.shortNoted r) a _ listed
  exact ⟨(Chip.get_of_regs words _).trans mode, (Chip.get_of_regs words _).trans reacted⟩

theorem Appends.assertShort : Appends (c.shortNoted r) (c.assertShort r) :=
  (Appends.each _ _ fun d a _ => Only.appends (.reactOff d a)).trans (Only.appends (.obeyLines _))

/-- A register above the axis blocks is touched by an active short at most in its SHORT bit. -/
theorem Chip.judgeShort_get {f : Field} (ok : f.ok) (high : 0x090000 ≤ f.addr) (apart : f.apart (BUS_STAT_SHORT r.val)) :
    (c.judgeShort r old v).get f = c.get f := by
  unfold Chip.judgeShort
  dsimp only
  split
  next =>
    have words := c.assertShort_reg r (x := f.addr) fun a _ hx => absurd (offRegs_low hx).2 (by omega)
    rw [Chip.get, words]
    exact Chip.get_put_apart c f _ 1 ok (Field.ok_of _ rfl) apart
  next => rfl

theorem Only.judgeShort : Only [.regs, .legs, .axes, .faults] c (c.judgeShort r old v) :=
  Only.ite (.assertShort c r) (.refl ..)

end

/-! ### The stages together -/

/-- The fields that the chopper's and the cut's stages change. -/
def cascadeFields (r : Region) : List Field := [BUS_FAST_V r.val, BUS_STAT_CHOP_ON r.val, BUS_STAT_CUT r.val]

/-- What the other stages read of the bus, they find as it was. -/
theorem cascade_apart (r : Region) : ∀ f ∈ [BUS_CHOP_EN r.val, BUS_STAT_CHOPF r.val, BUS_VTH_V_CHOP r.val, BUS_CFG_HYST r.val,
    BUS_STAT_VCUT_LIVE r.val, BUS_STAT_UV r.val, BUS_VTH_V_UV r.val, BUS_VTH_V_ASC r.val, BUS_FAST_I r.val, BUS_STAT_SHORT r.val],
    f.ok ∧ ∀ g ∈ cascadeFields r, f.apart g := by
  simp [cascadeFields, Field.ok, Field.apart, BUS_CHOP_EN, BUS_STAT_CHOPF, BUS_VTH_V_CHOP, BUS_CFG_HYST, BUS_STAT_VCUT_LIVE, BUS_STAT_UV,
    BUS_VTH_V_UV, BUS_VTH_V_ASC, BUS_FAST_I, BUS_STAT_SHORT, BUS_FAST_V, BUS_STAT_CHOP_ON, BUS_STAT_CUT, BUS_CHOP, BUS_STAT, BUS_VTH,
    BUS_CFG, BUS_FAST]

/-- The fields that the under-voltage reads lie beside the SHORT bit. -/
theorem uv_apart (r : Region) : ∀ f ∈ [BUS_VTH_V_UV r.val, BUS_CFG_HYST r.val, BUS_STAT_UV r.val],
    f.ok ∧ 0x090000 ≤ f.addr ∧ f.apart (BUS_STAT_SHORT r.val) := by
  simp [Field.ok, Field.apart, BUS_STAT_UV, BUS_VTH_V_UV, BUS_STAT_SHORT, BUS_STAT, BUS_VTH, BUS_CFG_HYST, BUS_CFG]
  omega

/-- What the chopper's and the cut's stages change lies beside the SHORT and the UV bit. -/
theorem cascadeFields_apart (r : Region) : ∀ f ∈ cascadeFields r,
    f.ok ∧ 0x090000 ≤ f.addr ∧ f.apart (BUS_STAT_SHORT r.val) ∧ f.apart (BUS_STAT_UV r.val) := by
  simp [cascadeFields, Field.ok, Field.apart, BUS_STAT_UV, BUS_STAT_SHORT, BUS_FAST_V, BUS_STAT_CHOP_ON, BUS_STAT_CUT, BUS_STAT, BUS_FAST]
  omega

/-- The fields of the axes lie beside them too. -/
theorem low_apart {f : Field} (low : f.addr < 0x090000) (r : Region) : (∀ g ∈ cascadeFields r, f.apart g) ∧
    f.addr ≠ BUS_STAT r.val := by
  simp only [cascadeFields, Field.apart, List.forall_mem_cons, BUS_FAST_V, BUS_STAT_CHOP_ON, BUS_STAT_CUT, BUS_STAT, BUS_FAST,
    List.not_mem_nil]
  refine ⟨⟨.inl ?_, .inl ?_, .inl ?_, fun _ => False.elim⟩, ?_⟩ <;> omega

section
variable (c : Chip) (r : Region) (v : Nat)

/-- The fast voltage is shown; the chopper is judged; the cut is judged. -/
def Chip.busShown : Chip := c.put (BUS_FAST_V r.val) v
def Chip.busChopped : Chip := (c.busShown r v).judgeChop r v
def Chip.busCut : Chip := (c.busChopped r v).judgeCut r v

theorem Chip.busVoltage_eq {c : Chip} {r : Region} (v : Nat) (runs : c.busRuns r = true) :
    c.busVoltage r v = ((c.busCut r v).judgeShort r (c.get (BUS_FAST_V r.val)) v).judgeUv r v := by
  rw [Chip.busVoltage, if_pos runs]
  rfl

theorem BusAt.busShown : BusAt r (cascadeFields r) c (c.busShown r v) := .put c r v _ (Field.ok_of _ rfl) List.mem_cons_self
theorem BusAt.busChopped : BusAt r (cascadeFields r) c (c.busChopped r v) :=
  (BusAt.busShown c r v).trans ((BusAt.judgeChop ..).mono (by simp [cascadeFields]))
theorem BusAt.busCut : BusAt r (cascadeFields r) c (c.busCut r v) :=
  (BusAt.busChopped c r v).trans ((BusAt.judgeCut ..).mono (by simp [cascadeFields]))

/-- A field that the cascade only reads is found as it was. -/
theorem BusAt.reads {c d : Chip} {r : Region} (h : BusAt r (cascadeFields r) c d) (f : Field)
    (hf : f ∈ [BUS_CHOP_EN r.val, BUS_STAT_CHOPF r.val, BUS_VTH_V_CHOP r.val, BUS_CFG_HYST r.val, BUS_STAT_VCUT_LIVE r.val,
      BUS_STAT_UV r.val, BUS_VTH_V_UV r.val, BUS_VTH_V_ASC r.val, BUS_FAST_I r.val, BUS_STAT_SHORT r.val]) : d.get f = c.get f :=
  h.fields f (cascade_apart r f hf).1 (cascade_apart r f hf).2

/-- What the chopper's and the cut's stages have set, the short and the under-voltage leave. -/
theorem Chip.busVoltage_get {c : Chip} {r : Region} {v : Nat} (runs : c.busRuns r = true) {f : Field} (ok : f.ok) (high : 0x090000 ≤ f.addr)
    (short : f.apart (BUS_STAT_SHORT r.val)) (uv : f.apart (BUS_STAT_UV r.val)) :
    (c.busVoltage r v).get f = (c.busCut r v).get f := by
  rw [Chip.busVoltage_eq v runs]
  exact (FieldsBut.judgeUv _ r v f ok (by simpa using uv)).trans (Chip.judgeShort_get _ r v _ ok high short)

theorem Chip.busVoltage_bus {c : Chip} {r : Region} {v : Nat} (runs : c.busRuns r = true) (q : Region) :
    (c.busVoltage r v).bus q = (c.busCut r v).bus q := by
  rw [Chip.busVoltage_eq v runs]
  exact ((Only.judgeUv ..).bus q).trans ((Only.judgeShort ..).bus q)

/-- Without an upward crossing of V_ASC no short is asserted. -/
theorem Chip.judgeShort_idle {c d : Chip} {r : Region} {v : Nat} (h : ¬ c.crossesAsc r v)
    (same : d.get (BUS_VTH_V_ASC r.val) = c.get (BUS_VTH_V_ASC r.val)) :
    d.judgeShort r (c.get (BUS_FAST_V r.val)) v = d := by
  have volts : d.volts (BUS_VTH_V_ASC r.val) = c.volts (BUS_VTH_V_ASC r.val) := congrArg (50 * ·) same
  rw [Chip.judgeShort, volts]
  refine if_neg fun crossing => h ?_
  simpa [Chip.crossesAsc] using crossing

theorem Chip.judgeShort_asserts {c d : Chip} {r : Region} {v : Nat} (h : c.crossesAsc r v)
    (same : d.get (BUS_VTH_V_ASC r.val) = c.get (BUS_VTH_V_ASC r.val)) :
    d.judgeShort r (c.get (BUS_FAST_V r.val)) v = d.assertShort r := by
  have volts : d.volts (BUS_VTH_V_ASC r.val) = c.volts (BUS_VTH_V_ASC r.val) := congrArg (50 * ·) same
  rw [Chip.judgeShort, volts]
  refine if_pos ?_
  simpa [Chip.crossesAsc] using h

/-! ### What each stage shows -/

theorem Chip.busCut_fastVoltage (w : BitVec 16) : (c.busCut r w.toNat).get (BUS_FAST_V r.val) = w.toNat := by
  have apart {g : Field} (hg : g.addr = BUS_STAT r.val) : ∀ f ∈ [g], (BUS_FAST_V r.val).apart f :=
    List.forall_mem_singleton.mpr (apart_BUS_STAT (.inr (.inl rfl)) hg)
  have shown : (c.busShown r w.toNat).get (BUS_FAST_V r.val) = w.toNat := Chip.get_put_lt c _ (Field.ok_of _ rfl) _ w.isLt
  have chopped := (BusAt.judgeChop (c.busShown r w.toNat) r w.toNat).fields _ (Field.ok_of (BUS_FAST_V r.val) rfl) (apart rfl)
  exact ((BusAt.judgeCut ..).fields _ (Field.ok_of _ rfl) (apart rfl)).trans (chopped.trans shown)

theorem Chip.busShown_chopOn : (c.busShown r v).flag (BUS_STAT_CHOP_ON r.val) = c.flag (BUS_STAT_CHOP_ON r.val) := by
  refine Chip.flag_of_get (Chip.get_put_ne c _ (BUS_FAST_V r.val) v ?_)
  simp only [BUS_STAT_CHOP_ON, BUS_STAT, BUS_FAST_V, BUS_FAST]
  omega

/-- The judgement of the cut leaves the chopper. -/
theorem Chip.busCut_chopOn : (c.busCut r v).flag (BUS_STAT_CHOP_ON r.val) = (c.busChopped r v).flag (BUS_STAT_CHOP_ON r.val) :=
  Chip.flag_of_get ((BusAt.judgeCut ..).fields _ (Field.ok_of _ rfl) (List.forall_mem_singleton.mpr (Field.apart_of _ _ rfl)))

theorem BusAt.reads_flag {c d : Chip} {r : Region} (h : BusAt r (cascadeFields r) c d) (f : Field)
    (hf : f ∈ [BUS_CHOP_EN r.val, BUS_STAT_CHOPF r.val, BUS_VTH_V_CHOP r.val, BUS_CFG_HYST r.val, BUS_STAT_VCUT_LIVE r.val,
      BUS_STAT_UV r.val, BUS_VTH_V_UV r.val, BUS_VTH_V_ASC r.val, BUS_FAST_I r.val, BUS_STAT_SHORT r.val]) : d.flag f = c.flag f :=
  Chip.flag_of_get (h.reads f hf)

theorem Chip.busCut_turnsOn {c : Chip} {r : Region} {v : Nat} (off : c.flag (BUS_STAT_CHOP_ON r.val) = false)
    (enabled : c.flag (BUS_CHOP_EN r.val) = true) (sound : c.flag (BUS_STAT_CHOPF r.val) = false) (cold : c.faults.fire = false)
    (high : c.volts (BUS_VTH_V_CHOP r.val) ≤ v) :
    (c.busCut r v).flag (BUS_STAT_CHOP_ON r.val) = true ∧ ((c.busCut r v).bus r).minDone = false ∧
    ((∀ t, (c.bus r).chopOff = some t → t + 500 ≤ c.now) → ((c.busCut r v).bus r).chkTick = c.now ∧
      ((c.busCut r v).bus r).chk = some (c.gets (BUS_FAST_I r.val), v)) := by
  have shown := BusAt.busShown c r v
  have chop : c.busChopped r v = (c.busShown r v).chopOn r v :=
    Chip.judgeChop_on ((c.busShown_chopOn r v).trans off) ((shown.reads_flag _ (by simp)).trans enabled)
      ((shown.reads_flag _ (by simp)).trans sound) cold (by rw [Chip.volts, shown.reads _ (by simp)]; exact high)
  have current : (c.busShown r v).gets (BUS_FAST_I r.val) = c.gets (BUS_FAST_I r.val) := by
    rw [Chip.gets, Chip.gets, shown.reads _ (by simp)]
  obtain ⟨on, fresh, opened⟩ := (c.busShown r v).chopOn_on r v
  rw [← chop, current] at opened
  rw [Chip.busCut_chopOn, Chip.busCut, (Only.judgeCut ..).bus r, chop]
  exact ⟨on, fresh, chop ▸ opened⟩

theorem Chip.busCut_staysOff {c : Chip} {r : Region} (v : Nat) (disabled : c.flag (BUS_CHOP_EN r.val) = false)
    (off : c.flag (BUS_STAT_CHOP_ON r.val) = false) : (c.busCut r v).flag (BUS_STAT_CHOP_ON r.val) = false := by
  have stays : (c.busShown r v).flag (BUS_STAT_CHOP_ON r.val) = false := (c.busShown_chopOn r v).trans off
  rw [Chip.busCut_chopOn, Chip.busChopped,
    Chip.judgeChop_disabled _ stays (((BusAt.busShown c r v).reads_flag _ (by simp)).trans disabled), stays]

theorem Chip.busCut_cut : (c.volts (BUS_STAT_VCUT_LIVE r.val) ≤ v → (c.busCut r v).flag (BUS_STAT_CUT r.val) = true) ∧
    (v + c.hyst r < c.volts (BUS_STAT_VCUT_LIVE r.val) → (c.busCut r v).flag (BUS_STAT_CUT r.val) = false) := by
  have chopped := BusAt.busChopped c r v
  have judged := (c.busChopped r v).judgeCut_cut r v
  rwa [Chip.volts, Chip.hyst, chopped.reads _ (by simp), chopped.reads _ (by simp)] at judged

/-- The chip as the under-voltage finds it. -/
def Chip.busShorted : Chip := (c.busCut r v).judgeShort r (c.get (BUS_FAST_V r.val)) v

theorem Chip.busShorted_get {f : Field} (hf : f ∈ [BUS_VTH_V_UV r.val, BUS_CFG_HYST r.val, BUS_STAT_UV r.val]) :
    (c.busShorted r v).get f = c.get f := by
  obtain ⟨ok, high, short⟩ := uv_apart r f hf
  refine (Chip.judgeShort_get _ r v _ ok high short).trans ((BusAt.busCut c r v).reads f ?_)
  simp only [List.mem_cons, List.not_mem_nil, or_false] at hf ⊢
  tauto

theorem Chip.busVoltage_uv {c : Chip} {r : Region} (v : Nat) (runs : c.busRuns r = true) :
    (v < c.volts (BUS_VTH_V_UV r.val) → (c.busVoltage r v).flag (BUS_STAT_UV r.val) = true) ∧
    (c.volts (BUS_VTH_V_UV r.val) + c.hyst r < v → (c.busVoltage r v).flag (BUS_STAT_UV r.val) = false) := by
  have judged := (c.busShorted r v).judgeUv_uv r v
  rw [Chip.volts, Chip.hyst, c.busShorted_get r v (by simp), c.busShorted_get r v (by simp)] at judged
  rw [Chip.busVoltage_eq v runs]
  exact judged

/-- Without a short, the under-voltage alone is left to judge. -/
theorem Chip.busVoltage_idle {c : Chip} {r : Region} {v : Nat} (runs : c.busRuns r = true) (h : ¬ c.crossesAsc r v) :
    c.busVoltage r v = (c.busCut r v).judgeUv r v := by
  rw [Chip.busVoltage_eq v runs, Chip.judgeShort_idle h ((BusAt.busCut c r v).reads _ (by simp))]

theorem Chip.busCut_uvEvents : uvEvents (c.busCut r v) r v = uvEvents c r v := by
  have cut := BusAt.busCut c r v
  rw [uvEvents, uvEvents, cut.reads_flag _ (by simp), Chip.volts, cut.reads _ (by simp)]
  rfl

theorem FieldsBut.busVoltage {c : Chip} {r : Region} {v : Nat} (runs : c.busRuns r = true) (h : ¬ c.crossesAsc r v) :
    FieldsBut [BUS_FAST_V r.val, BUS_STAT_CHOP_ON r.val, BUS_STAT_CUT r.val, BUS_STAT_UV r.val] c (c.busVoltage r v) := by
  rw [Chip.busVoltage_idle runs h]
  have uv := (FieldsBut.judgeUv (c.busCut r v) r v).mono
    (m := [BUS_FAST_V r.val, BUS_STAT_CHOP_ON r.val, BUS_STAT_CUT r.val, BUS_STAT_UV r.val]) (by simp)
  exact ((BusAt.busCut c r v).fields.mono (by simp [cascadeFields])).trans uv

theorem Chip.busVoltage_short {c : Chip} {r : Region} {v : Nat} (runs : c.busRuns r = true) (h : c.crossesAsc r v) :
    c.busVoltage r v = ((c.busCut r v).assertShort r).judgeUv r v := by
  rw [Chip.busVoltage_eq v runs, Chip.judgeShort_asserts h ((BusAt.busCut c r v).reads _ (by simp))]

/-! ### A short that is asserted -/

/-- What stands below the bus blocks is as before where the short takes hold. -/
theorem Chip.shortNoted_low {f : Field} (ok : f.ok) (low : f.addr < 0x090000) :
    ((c.busCut r v).shortNoted r).get f = c.get f := by
  obtain ⟨apart, other⟩ := low_apart low r
  rw [Chip.shortNoted, Chip.raise_get, Chip.get_put_ne _ f (BUS_STAT_SHORT r.val) 1 other]
  exact (BusAt.busCut c r v).fields f ok apart

/-- What stands below the bus blocks, but for what the axes that enter OFF set, is as before. -/
theorem Chip.shorted_low {f : Field} (ok : f.ok) (low : f.addr < 0x090000) (out : ∀ a, regionOf a = r → f.addr ∉ offRegs a) :
    (((c.busCut r v).assertShort r).judgeUv r v).get f = c.get f := by
  rw [Chip.get, RegsBut.judgeUv _ r v f.addr (by simpa using (low_apart low r).2), Chip.assertShort_reg _ r out]
  exact c.shortNoted_low r v ok low

theorem Chip.shorted_short : (((c.busCut r v).assertShort r).judgeUv r v).flag (BUS_STAT_SHORT r.val) = true := by
  have kept : (((c.busCut r v).assertShort r).judgeUv r v).get (BUS_STAT_SHORT r.val) = ((c.busCut r v).assertShort r).get _ :=
    FieldsBut.judgeUv _ r v _ (Field.ok_of _ rfl) (List.forall_mem_singleton.mpr (Field.apart_of _ _ rfl))
  have high : ∀ a, regionOf a = r → BUS_STAT r.val ∉ offRegs a := fun a _ hx => by
    have := (offRegs_low hx).2
    simp only [BUS_STAT] at this
    omega
  refine Chip.flag_one (kept.trans ?_)
  rw [Chip.get, show (BUS_STAT_SHORT r.val).addr = BUS_STAT r.val from rfl, Chip.assertShort_reg _ r high]
  exact Chip.get_put_fit (c.busCut r v) (BUS_STAT_SHORT r.val) 1 rfl

theorem axis_low {a : Axis} {x : Nat} (hx : x = AX_MSTAT a.val ∨ x = AX_COMCFG a.val) : x < 0x090000 := by
  have := a.isLt
  simp only [AX_MSTAT, AX_COMCFG] at hx
  omega

theorem Chip.shorted_off {a : Axis} (region : regionOf a = r) (on : c.axisOn a = true) :
    (((c.busCut r v).assertShort r).judgeUv r v).modeOf a = 0 ∧
    (((c.busCut r v).assertShort r).judgeUv r v).get (AX_MSTAT_REACTED a.val) = 1 := by
  have alive : ((c.busCut r v).shortNoted r).axisOn a = true :=
    (Chip.flag_of_get (c.shortNoted_low r v (Field.ok_of _ rfl) (axis_low (.inr rfl)))).trans on
  have kept (f : Field) (hf : f.addr = AX_MSTAT a.val) :
      (((c.busCut r v).assertShort r).judgeUv r v).get f = ((c.busCut r v).assertShort r).get f := by
    rw [Chip.get, RegsBut.judgeUv _ r v f.addr (by simpa using (low_apart (axis_low (.inl hf)) r).2)]
    rfl
  obtain ⟨mode, reacted⟩ := (c.busCut r v).assertShort_axis r region alive
  exact ⟨(kept _ rfl).trans mode, (kept _ rfl).trans reacted⟩

end

end Sys2Proof.Machine

open Sys2Proof.Machine

/-- Settles O27: each stage of the cascade is a lemma, and the short and the under-voltage leave what the chopper and the cut have
set. -/
theorem busCascade : Obligations.BusCascade := by
  refine ⟨?cascade, ?short⟩
  case cascade =>
    intro s r v runs
    have shows (f : Field) (hf : f ∈ cascadeFields r) : (s.chip.busVoltage r v.toNat).get f = (s.chip.busCut r v.toNat).get f :=
      have ⟨ok, high, short, uv⟩ := cascadeFields_apart r f hf
      Chip.busVoltage_get runs ok high short uv
    have chopOn := Chip.flag_of_get (shows (BUS_STAT_CHOP_ON r.val) (by simp [cascadeFields]))
    have cut := Chip.flag_of_get (shows (BUS_STAT_CUT r.val) (by simp [cascadeFields]))
    refine completes_of_run (·.busVoltage r v.toNat) rfl rfl ⟨?_, ?_, ?_, ?_, ?_, ?_, ?_, fun noShort => ?_⟩
    · exact (shows _ List.mem_cons_self).trans (Chip.busCut_fastVoltage ..)
    · intro off enabled sound cold high
      rw [chopOn, Chip.busVoltage_bus runs]
      exact Chip.busCut_turnsOn off enabled sound cold high
    · exact fun disabled off => chopOn.trans (Chip.busCut_staysOff _ disabled off)
    · exact fun high => cut.trans ((s.chip.busCut_cut r v.toNat).1 high)
    · exact fun low => cut.trans ((s.chip.busCut_cut r v.toNat).2 low)
    · exact (Chip.busVoltage_uv v.toNat runs).1
    · exact (Chip.busVoltage_uv v.toNat runs).2
    · have reached := BusAt.busCut s.chip r v.toNat
      have uv := Only.judgeUv (s.chip.busCut r v.toNat) r v.toNat
      refine ⟨?_, ?_, .busVoltage runs noShort, ?_⟩
      · rw [Chip.busVoltage_idle runs noShort, Chip.judgeUv_faults, show (s.chip.busCut r v.toNat).faults = s.chip.faults from reached.only.same .faults (by decide), Chip.busCut_uvEvents]
        rfl
      · rw [Chip.busVoltage_idle runs noShort]
        exact reached.others.trans (uv.oneBus r)
      · rw [Chip.busVoltage_idle runs noShort]
        exact ((reached.only.mono (by decide) : Only [.regs, .buses, .faults] _ _).trans (uv.mono (by decide))).eq
  case short =>
    intro s r v runs crosses
    refine completes_of_run (·.busVoltage r v.toNat) rfl rfl ?_
    rw [Chip.busVoltage_short runs crosses]
    have short := s.chip.shorted_short r v.toNat
    refine ⟨short, fun a region on => ?_, ?_, fun a region => ?_⟩
    · obtain ⟨mode, reacted⟩ := s.chip.shorted_off r v.toNat region on
      have alive := s.chip.shorted_low r v.toNat (Field.ok_of (AX_COMCFG_EN a.val) rfl) (axis_low (.inr rfl))
        fun b _ => AX_COMCFG_not_mem_offRegs a b
      refine ⟨mode, reacted, ?_⟩
      rw [Chip.short, region, short, Chip.axisOn, Chip.flag_of_get alive, show s.chip.flag (AX_COMCFG_EN a.val) = true from on]
      simp
    · have before : (s.chip.busCut r v.toNat).faults = s.chip.faults := (BusAt.busCut s.chip r v.toNat).only.same .faults (by decide)
      have noted : ((s.chip.busCut r v.toNat).shortNoted r).faults.events =
          s.chip.faults.events ++ [⟨srcRegion r 0, 1, 0, 0, false⟩] := by
        rw [← before]
        rfl
      exact Appends.take noted ((Appends.assertShort _ r).trans (Appends.judgeUv ..))
    · refine s.chip.shorted_low r v.toNat (Field.ok_of (AX_MSTAT_MODE a.val) rfl) (axis_low (.inl rfl)) fun b hb => ?_
      have own : AX_MSTAT a.val ∈ offRegs a := List.mem_cons_self
      exact offRegs_disjoint (fun e : b = a => region (by rw [← e, hb])) own
end

section
-- One proof after the other: a side goal that `Only` settles by `decide` waits for the kernel, on a thread of its own.
set_option Elab.async false
/-! SUPPORT. A state in which the lag of an emulation outlives the debt; and the refutation of the statement about it (R153 to R155). -/
namespace Sys2Proof.Machine

/-- What a completed run is said to leave holds of what its operation leaves. -/
theorem of_completes_run {i : Instr} {s : State} {P : Chip → Prop} (f : Chip → Chip) (row : exec i s = s.run f)
    (h : Completes i s P) : P (f s.chip) := by
  obtain ⟨c, run, hp⟩ := h
  rw [row, State.run_eq] at run
  have same : f s.chip = c := congrArg State.chip (Host.Outcome.next.inj run)
  exact same ▸ hp

/-- Emulation 0 owes one count, and its list still names five of tick 0: neither the debt nor the list bounds the other in a
state. EMU_LAG is set, and 1,000 ticks have passed. -/
def lagged : State :=
  let c : Chip := { load := { stage := .done } }
  let c := [(SYS_STATUS_BOOT, 0), (SYS_STATUS_PSTATE, 1), (SYS_STATUS_CFG_OK, 1), (FP_CFG_EN 0, 1), (FP_CFG_FUNC 0, 5),
    (FP_CFG_ROLE 0, 0), (FP_EMU_SRC 0, 16), (CUE_TB_STAT_STALE 16, 0), (FP_STAT_EMU_LAG 0, 1)].foldl (fun c x => c.put x.1 x.2) c
  let c := c.put64 (FP_OWED 0) 1
  { State.reset with chip := { c.setPort 0 { c.port 0 with owes := [(0, 5)] } with now := 1000 } }

theorem lagged_owes : lagged.chip.emuLive 0 = true ∧ lagged.chip.owed 0 = 1 ∧ lagged.chip.emuSpaced 0 = true := by decide +kernel

/-- The edge emits the last owed count, and four old ones stay in the list. -/
theorem lagged_lag : (lagged.chip.emuEdge 0).get (FP_STAT_EMU_LAG 0) = 1 := by decide +kernel

end Sys2Proof.Machine

open Sys2Proof.Machine

/-- Refutes O26: an edge that emits the last count of the debt does not end the lag while the list of owed counts holds another
old one, and no hypothesis ties the list to the debt. -/
theorem not_emulation : ¬ Obligations.Emulation := by
  intro h
  obtain ⟨live, owed, spaced⟩ := lagged_owes
  have unit : (1 : Int) = if (1 : Int) < 0 then -1 else 1 := by decide
  rw [← owed] at unit
  have ends := (of_completes_run (·.emuEdge 0) rfl (h.1 lagged 0 _ live (by rw [owed]; decide) unit spaced)).2.2.1 rfl
  exact absurd (ends.symm.trans lagged_lag) (by decide)
end

section
-- One proof after the other: a side goal that `Only` settles by `decide` waits for the kernel, on a thread of its own.
set_option Elab.async false
/-! SUPPORT. What a package sends in its own slots (R358 to R360), and the statement about it. -/
namespace Sys2Proof.Machine

section
variable (c : Chip) (slot : Fin 8)

theorem Chip.slotDue_iff : c.slotDue slot.val = true ↔ c.rngUp = true ∧ slot.val % 4 = c.rngAddr.toNat ∧ c.rng.startTick ≤ c.wall ∧
    (c.wall - c.rng.startTick) % 4000 = 500 * slot.val ∧ c.rng.slotTick ≠ some c.now := by
  have small := slot.isLt
  have phase (before : c.rng.startTick ≤ c.wall) : c.sinceSlot slot.val = 0 ↔ (c.wall - c.rng.startTick) % 4000 = 500 * slot.val := by
    unfold Chip.sinceSlot
    omega
  simp only [Chip.slotDue, Bool.and_eq_true, beq_iff_eq, decide_eq_true_eq, bne_iff_ne, and_assoc]
  constructor
  · rintro ⟨up, own, before, since, fresh⟩
    exact ⟨up, own, before, (phase before).mp since, fresh⟩
  · rintro ⟨up, own, before, since, fresh⟩
    exact ⟨up, own, before, (phase before).mpr since, fresh⟩

/-- A frame that the package builds and sends is one of its own. -/
theorem RangeSent.rngFrame {b c : Chip} {type slot : BitVec 3} {payload : BitVec 64} (stale : BitVec 2)
    (h : c.rng.sent = some (b.rngFrame type stale slot payload)) : RangeSent type slot payload b c :=
  ⟨_, h, rfl, rfl, rfl, rfl, rfl, rfl, rfl, rfl⟩

/-- The chip that has begun its slot in this tick, and sent `f`. -/
def Chip.slotSent (c : Chip) (f : RngFrame) : Chip := { c with rng := { c.rng with slotTick := some c.now, sent := some f } }

section
variable {c : Chip} {slot : Fin 8} (due : c.slotDue slot.val = true)
include due

/-- A FAULT that waits goes first. -/
theorem Chip.slotStart_fault {m : FaultMsg} {l : List FaultMsg} (q : c.rng.faultQ = m :: l) : c.slotStart slot =
    { c.slotSent (c.faultOut (BitVec.ofNat 3 slot.val) m) with
      rng := { (c.slotSent (c.faultOut (BitVec.ofNat 3 slot.val) m)).rng with faultQ := l } } := by
  simp only [Chip.slotStart, due, q, Bool.not_true]
  rfl

theorem Chip.slotStart_sync (q : c.rng.faultQ = []) (keeper : c.flag RNG_STAT_KEEPER = true) (low : slot.val < 4) :
    c.slotStart slot = c.slotSent (c.syncOut (BitVec.ofNat 3 slot.val)) := by
  have turn : (c.flag RNG_STAT_KEEPER && decide (slot.val < 4)) = true := by simp [keeper, low]
  simp only [Chip.slotStart, due, Bool.not_true]
  rw [if_neg Bool.false_ne_true]
  split
  next waits => exact absurd (q.symm.trans waits) (by simp)
  next => exact if_pos turn

theorem Chip.slotStart_own (q : c.rng.faultQ = []) (other : c.flag RNG_STAT_KEEPER = false ∨ 4 ≤ slot.val) : c.slotStart slot =
    c.slotSent (if c.published != 0 then c.posOut (BitVec.ofNat 3 slot.val)
      else c.rngFrame 0 0 (BitVec.ofNat 3 slot.val) (c.statusWord.zeroExtend 64)) := by
  have turn : ¬ (c.flag RNG_STAT_KEEPER && decide (slot.val < 4)) = true := by
    simp only [Bool.and_eq_true, decide_eq_true_eq]
    rintro ⟨keeper, low⟩
    rcases other with none | high
    · exact absurd (none.symm.trans keeper) (by decide)
    · omega
  simp only [Chip.slotStart, due, Bool.not_true]
  rw [if_neg Bool.false_ne_true]
  split
  next waits => exact absurd (q.symm.trans waits) (by simp)
  next =>
    refine (if_neg turn).trans ?_
    split
    next publishes => exact congrArg c.slotSent (if_pos publishes).symm
    next silent => exact congrArg c.slotSent (if_neg silent).symm

end

end
end Sys2Proof.Machine

open Sys2Proof.Machine

/-- Settles O48: the slot that is due sends the frame of the highest priority, and one that is not sends nothing. -/
theorem rangeSlots : Obligations.RangeSlots := by
  intro s slot
  refine ⟨fun up own before phase fresh => ?_, fun not_due => ?_⟩
  · have due : s.chip.slotDue slot.val = true := (s.chip.slotDue_iff slot).mpr ⟨up, own, before, phase, fresh⟩
    cases q : s.chip.rng.faultQ with
    | cons m l =>
      refine completes_of_run (·.slotStart slot) rfl (Chip.slotStart_fault due q) ⟨?_, fun h => absurd h (by simp), fun h => absurd h (by simp), fun h => absurd h (by simp), rfl⟩
      intro m' l' same
      obtain ⟨rfl, rfl⟩ := List.cons.inj same
      exact ⟨.rngFrame 0 rfl, rfl⟩
    | nil =>
      by_cases keeps : s.chip.flag RNG_STAT_KEEPER = true ∧ slot.val < 4
      · obtain ⟨keeper, low⟩ := keeps
        have not_own : ¬ (s.chip.flag RNG_STAT_KEEPER = false ∨ 4 ≤ slot.val) := by simp [keeper, low]
        exact completes_of_run (·.slotStart slot) rfl (Chip.slotStart_sync due q keeper low)
          ⟨fun _ _ h => absurd h (by simp), fun _ _ _ => .rngFrame 0 rfl, fun _ h => absurd h not_own, fun _ h => absurd h not_own, rfl⟩
      · have other : s.chip.flag RNG_STAT_KEEPER = false ∨ 4 ≤ slot.val := by
          rw [← Bool.not_eq_true, ← Nat.not_lt]
          exact not_and_or.mp keeps
        refine completes_of_run (·.slotStart slot) rfl (Chip.slotStart_own due q other)
          ⟨fun _ _ h => absurd h (by simp), fun _ keeper low => absurd ⟨keeper, low⟩ keeps, fun _ _ publishes => ?_, fun _ _ silent => ?_, rfl⟩
        · rw [if_pos (bne_iff_ne.mpr publishes)]
          exact .rngFrame _ rfl
        · rw [if_neg (by simp [silent])]
          exact .rngFrame _ rfl
  · refine idles_of_run (·.slotStart slot) rfl ?_
    have idle : s.chip.slotDue slot.val = false := by
      rw [Bool.eq_false_iff, ne_eq, Chip.slotDue_iff]
      rintro ⟨up, own, before, phase, fresh⟩
      rcases not_due with down | other | early | late | done
      · exact absurd (down.symm.trans up) (by decide)
      · exact other own
      · omega
      · exact late phase
      · exact fresh done
    rw [Chip.slotStart]
    simp [idle]
end

section
-- One proof after the other: a side goal that `Only` settles by `decide` waits for the kernel, on a thread of its own.
set_option Elab.async false
/-! SUPPORT. How an OTP_CMD write is judged (R326, R327, Table 13-3); and the statement about it. -/
namespace Sys2Proof.Machine

theorem Reason.toNat_injective {r q : Reason} (h : r.toNat = q.toNat) : r = q := by
  have all : ∀ r q : Reason, r.toNat = q.toNat → r = q := by
    intro r q
    cases r <;> cases q <;> decide
  exact all r q h

/-- A condition that is met gives its reason where no later one has a lower code. -/
theorem judge_head {r : Reason} {l : List (Bool × Reason)} (h : ∀ x ∈ l, r.toNat ≤ x.2.toNat) : judge ((true, r) :: l) = r := by
  rw [judge_cons_true]
  split
  next => rfl
  next high =>
    obtain ⟨refused, low⟩ := not_or.mp high
    exact Reason.toNat_injective (Nat.le_antisymm (Nat.not_lt.mp low) (h _ (judge_mem refused)))

/-- A request whose own rules say STATE is refused with STATE also in a start sequence and in DARK. -/
theorem refuses_state {i : Instr} {p : Path} {s : State} {f : Chip → Judged} {l : List (Bool × Reason)} {g : Chip → Chip}
    (row : exec i s = s.ask p f) (carried : s.chip.carries p = true) (judged : f s.chip = s.chip.request l g)
    (bad : judge l = .state) : Refuses i p s .state := by
  have own : f s.chip = (s.chip, .state) := by
    rw [judged, s.chip.request_refused l g (by rw [bad]; decide), bad]
  have under (q : Reason) (hq : q ≠ .ok) : q.under .state = .state :=
    judge_eq_state (by simp [hq]) (by simp)
  have asked : s.chip.ask p false f = s.chip.answer p .state := by
    unfold Chip.ask
    rw [if_neg (by simp [carried]), own]
    split
    next => rfl
    next gated => rw [under _ gated]
  rw [Refuses, row, State.ask, State.run_eq, asked]

/-- The four operations of OTP_CMD are one request. -/
theorem otpCmd_rows {p : Path} {x : BitVec 10} {left : Bool} {i : Instr} {op : Nat}
    (h : (i, op) ∈ [(Instr.prog p x left, 1), (.repulse p x left, 2), (.redirect p x left, 3), (.otpLock p x left, 4)]) (s : State) :
    exec i s = s.ask p (Chip.otpCmd s.nv op x.toNat true left) := by
  simp only [List.mem_cons, Prod.mk.injEq, List.not_mem_nil, or_false] at h
  rcases h with ⟨rfl, rfl⟩ | ⟨rfl, rfl⟩ | ⟨rfl, rfl⟩ | ⟨rfl, rfl⟩ <;> rfl

end Sys2Proof.Machine

open Sys2Proof.Machine

/-- Settles O41: the conditions of Table 13-3 stand in the order of their codes, so the first that is met gives the reason. -/
theorem otpCommands : Obligations.OtpCommands := by
  intro s p x left i op listed
  have row := otpCmd_rows listed s
  have ranks : ∀ y ∈ s.chip.otpConds s.nv op x.toNat true left, y.2 ≠ .ok := by simp [Chip.otpConds]
  refine ⟨fun carried bad => ?_, fun serving inTable bad => ?_, fun serving house still => ⟨fun outside => ?_, fun inTable cycle target => ?_⟩⟩
  · refine refuses_state row carried rfl (judge_eq_state ranks ?_)
    simp only [Chip.otpConds, List.mem_cons, Prod.mk.injEq]
    left
    rcases bad with bad | bad | bad <;> simp [bad]
  · refine refuses_state row serving.1 rfl (judge_eq_state ranks ?_)
    simp only [Chip.otpConds, inTable, List.mem_cons, Prod.mk.injEq]
    rcases bad with bad | bad <;> simp [bad]
  · refine refuses_of_request row serving rfl (?_ : judge _ = .range) (by decide)
    simp only [Chip.otpConds, house, serving.2.1, still, outside, Bool.not_true, Bool.false_and, Bool.or_false, judge_cons_false,
      Bool.not_false, Bool.or_true, Bool.and_false]
    exact judge_head (by simp [Reason.toNat])
  · have free : judge (s.chip.otpConds s.nv op x.toNat true left) = judge [
        (op == 1 && decide (136 ≤ x.toNat) && decide (x.toNat < 192), .range),
        (op == 1 && (s.chip.get OTP_STATUS_LOCK).testBit (otpArea x.toNat), .locked), (s.chip.nvc.op.isSome, .busy),
        (s.chip.windowLeft left, .window)] := by
      simp [Chip.otpConds, house, serving.2.1, still, inTable, cycle, target]
    have key_iff : (op == 1 && decide (136 ≤ x.toNat) && decide (x.toNat < 192)) = true ↔ op = 1 ∧ 136 ≤ x.toNat ∧ x.toNat < 192 := by
      simp [and_assoc]
    have lock_iff : (op == 1 && (s.chip.get OTP_STATUS_LOCK).testBit (otpArea x.toNat)) = true ↔
        op = 1 ∧ (s.chip.get OTP_STATUS_LOCK).testBit (otpArea x.toNat) = true := by simp
    intro key locked
    refine ⟨fun isKey => ?_, fun noKey isLocked => ?_, fun noKey unlocked busy => ?_, fun noKey unlocked idle gone => ?_,
      fun noKey unlocked idle within => ?_⟩
    · refine refuses_of_request row serving rfl (free.trans ?_) (by decide)
      rw [key_iff.mpr isKey]
      exact judge_head (by simp [Reason.toNat])
    · refine refuses_of_request row serving rfl (free.trans ?_) (by decide)
      rw [Bool.eq_false_iff.mpr (mt key_iff.mp noKey), lock_iff.mpr isLocked, judge_cons_false]
      exact judge_head (by simp [Reason.toNat])
    · refine refuses_of_request row serving rfl (free.trans ?_) (by decide)
      rw [Bool.eq_false_iff.mpr (mt key_iff.mp noKey), Bool.eq_false_iff.mpr (mt lock_iff.mp unlocked), busy, judge_cons_false,
        judge_cons_false]
      exact judge_head (by simp [Reason.toNat])
    · refine refuses_of_request row serving rfl (free.trans ?_) (by decide)
      rw [Bool.eq_false_iff.mpr (mt key_iff.mp noKey), Bool.eq_false_iff.mpr (mt lock_iff.mp unlocked), idle, gone]
      rfl
    · have clear : judge (s.chip.otpConds s.nv op x.toNat true left) = .ok := by
        rw [free, Bool.eq_false_iff.mpr (mt key_iff.mp noKey), Bool.eq_false_iff.mpr (mt lock_iff.mp unlocked), idle, within]
        rfl
      refine grants_of_ask row serving (s.chip.request_ok _ _ clear) ⟨Chip.get_put_fit s.chip OTP_STATUS_BUSY 1 rfl, rfl, ?_, rfl⟩
      exact ((FieldsBut.refl _ s.chip).put _ _ (Field.ok_of _ rfl) List.mem_cons_self).of_regs rfl
end

section
-- One proof after the other: a side goal that `Only` settles by `decide` waits for the kernel, on a thread of its own.
set_option Elab.async false
/-! SUPPORT. A pulse and its verify (R321, R328), and the end of an operation; and the statement about them. -/
namespace Sys2Proof.Machine

@[simp] theorem NonVolatile.fuse_blow (nv : NonVolatile) (k : Nat) (w : Word) : (nv.blow k w).fuse k = nv.fuse k ||| w := cellsGet_set_same ..

theorem NonVolatile.fuse_blow_ne (nv : NonVolatile) (w : Word) {j k : Nat} (h : j ≠ k) : (nv.blow k w).fuse j = nv.fuse j :=
  cellsGet_set_ne _ _ _ h

section
variable (nv : NonVolatile) {o : OtpOp} {v : Verify} {k : Nat} {w : Word} {rest : List (Nat × Word)} (todo : o.todo = (k, w) :: rest)
include todo

theorem pulseStep_fuses : (pulseStep nv o v).1 = nv.blow k (v.normal &&& w) := by
  rw [pulseStep, todo]
  dsimp only
  split
  · rfl
  · split
    · split <;> rfl
    · split <;> rfl

theorem pulseStep_left (left : v.windowLeft = true) :
    (pulseStep nv o v).2 = ({ o with pulses := o.pulses + 1, total := o.total + 1 }, some 3) := by
  rw [pulseStep, todo]
  simp only [left, if_true]

theorem pulseStep_last (within : v.windowLeft = false) (good : verifyPasses v w = true) (last : rest = []) :
    (pulseStep nv o v).2 = ({ o with pulses := o.pulses + 1, total := o.total + 1 }, some 1) := by
  rw [pulseStep, todo]
  simp [within, good, last]

theorem pulseStep_next (within : v.windowLeft = false) (good : verifyPasses v w = true) (more : rest ≠ []) :
    (pulseStep nv o v).2 = ({ o with todo := rest, pulses := 0, total := o.total + 1 }, none) := by
  rw [pulseStep, todo]
  simp [within, good, more]

theorem pulseStep_again (within : v.windowLeft = false) (bad : verifyPasses v w = false) (few : o.pulses < 8) :
    (pulseStep nv o v).2 = ({ o with pulses := o.pulses + 1, total := o.total + 1 }, none) := by
  have again : ¬ 9 ≤ o.pulses + 1 := by omega
  rw [pulseStep, todo]
  simp [within, bad, again]

theorem pulseStep_fails (within : v.windowLeft = false) (bad : verifyPasses v w = false) (all : 8 ≤ o.pulses) :
    (pulseStep nv o v).2 = ({ o with pulses := o.pulses + 1, total := o.total + 1 }, some 2) := by
  have ninth : 9 ≤ o.pulses + 1 := by omega
  rw [pulseStep, todo]
  simp [within, bad, ninth]

end

section
variable (c : Chip)

theorem Chip.logArise_op (type : Nat) (p4 p5 p6 : Word) : (c.logArise type p4 p5 p6).nvc.op = c.nvc.op := by
  unfold Chip.logArise
  dsimp only
  split
  · rfl
  · split <;> rfl

/-- Whether a record may be written is read in two registers. -/
theorem RegsBut.mayLog {l : List Nat} {b c : Chip} (h : RegsBut l b c) (hl : SYS_STATUS ∉ l ∧ LOG_STATUS ∉ l) :
    c.mayLog = b.mayLog := by
  rw [Chip.mayLog, Chip.mayLog, Chip.inDark, Chip.inDark, h.get (g := SYS_STATUS_PSTATE) hl.1,
    Chip.flag_of_get (h.get (g := LOG_STATUS_HOLD) hl.2)]

/-- A record that arises while records may be written waits behind the others. -/
theorem Chip.logArise_queue (may : c.mayLog = true) (type : Nat) (p4 p5 p6 : Word) :
    (c.logArise type p4 p5 p6).nvc.queue = c.nvc.queue ++ [⟨type, false, c.wall, p4, p5, p6⟩] := by
  rw [Chip.logArise, if_pos may]

/-- The chip as an operation that ends with `r` leaves it before its record. -/
def Chip.otpShown (r : Nat) : Chip :=
  { ((c.put OTP_STATUS_BUSY 0).put OTP_STATUS_RESULT r).raiseIf (r == 2) 0xF3 with nvc := { c.nvc with op := none } }

theorem Chip.otpEnd_eq (o : OtpOp) (r : Nat) : c.otpEnd o r = (c.otpShown r).logArise 8
    (packFields [(OTP_CMD_OP, o.op), (OTP_CMD_ARG, o.arg)]) (BitVec.ofNat 32 r) (BitVec.ofNat 32 o.total) := by
  rw [Chip.otpEnd, Chip.otpShown]
  cases r == 2 <;> rfl

theorem Chip.otpShown_regs (r : Nat) : (c.otpShown r).regs = ((c.put OTP_STATUS_BUSY 0).put OTP_STATUS_RESULT r).regs := by
  rw [Chip.otpShown]
  cases r == 2 <;> rfl

theorem Only.otpShown (r : Nat) : Only [.regs, .faults, .nvc] c (c.otpShown r) := by
  have noted : Only [.regs, .faults, .nvc] c (((c.put OTP_STATUS_BUSY 0).put OTP_STATUS_RESULT r).raiseIf (r == 2) 0xF3) :=
    (((Only.refl _ c).then (.put ..)).then (.put ..)).then (.raiseIf ..)
  exact noted.then (m := [.nvc]) (.of_mix rfl)

theorem Only.otpEnd (o : OtpOp) (r : Nat) : Only [.regs, .fresh, .faults, .nvc] c (c.otpEnd o r) := by
  rw [Chip.otpEnd_eq]
  exact ((Only.otpShown c r).mono).then (.logArise ..)

theorem RegsBut.otpEnd (o : OtpOp) (r : Nat) : RegsBut [OTP_STATUS, LOG_STATUS] c (c.otpEnd o r) := by
  have shown : RegsBut [OTP_STATUS, LOG_STATUS] c (c.otpShown r) :=
    (((RegsBut.refl _ c).put OTP_STATUS_BUSY 0 List.mem_cons_self).put OTP_STATUS_RESULT r List.mem_cons_self).of_regs (c.otpShown_regs r)
  rw [Chip.otpEnd_eq]
  exact shown.trans fun x hx => Chip.logArise_regsBut _ _ _ _ _ x fun h => hx (List.mem_cons_of_mem _ h)

theorem Chip.otpEnd_faults (o : OtpOp) (r : Nat) : (c.otpEnd o r).faults = (c.raiseIf (r == 2) 0xF3).faults := by
  rw [Chip.otpEnd_eq]
  refine Eq.trans ((Only.logArise (c.otpShown r) _ _ _ _).same .faults (by decide)) ?_
  rw [Chip.otpShown]
  cases r == 2 <;> rfl

/-- An operation that ends shows its result and brings its record. -/
theorem OtpEnded.otpEnd (o : OtpOp) {r : Nat} (hr : r < 4) : OtpEnded r c (c.otpEnd o r) := by
  have log := Chip.logArise_regsBut (c.otpShown r) 8 (packFields [(OTP_CMD_OP, o.op), (OTP_CMD_ARG, o.arg)]) (BitVec.ofNat 32 r)
    (BitVec.ofNat 32 o.total)
  rw [Chip.otpEnd_eq]
  refine ⟨Chip.logArise_op .., (log.get (by decide)).trans ?_, (log.get (by decide)).trans ?_, fun may => ?_⟩
  · rw [Chip.get_of_regs (c.otpShown_regs r)]
    exact (Chip.get_put_beside _ _ _ _ rfl).trans (Chip.get_put_fit c OTP_STATUS_BUSY 0 rfl)
  · rw [Chip.get_of_regs (c.otpShown_regs r)]
    exact Chip.get_put_lt _ OTP_STATUS_RESULT (Field.ok_of _ rfl) r (hr.trans_le (by decide))
  · have may' : (c.otpShown r).mayLog = true := by
      have shown : RegsBut [OTP_STATUS] (c.put OTP_STATUS_BUSY 0) (c.otpShown r) :=
        ((RegsBut.refl _ (c.put OTP_STATUS_BUSY 0)).put OTP_STATUS_RESULT r List.mem_cons_self).of_regs (c.otpShown_regs r)
      have before : RegsBut [OTP_STATUS] c (c.put OTP_STATUS_BUSY 0) := (RegsBut.refl _ c).put OTP_STATUS_BUSY 0 List.mem_cons_self
      exact ((before.trans shown).mayLog (by decide)).trans may
    refine ⟨_, Chip.logArise_queue _ may' .., rfl, ?_, rfl⟩
    exact (Only.otpShown c r).same .wall (by decide)

end

/-- The pulses that are shown touch neither the record nor the result. -/
theorem OtpEnded.beside {r n : Nat} {b c : Chip} (h : OtpEnded r (b.put OTP_STATUS_PULSES n) c) : OtpEnded r b c := by
  obtain ⟨op, busy, result, record⟩ := h
  refine ⟨op, busy, result, fun may => record ?_⟩
  exact (((RegsBut.refl [OTP_STATUS] b).put OTP_STATUS_PULSES n List.mem_cons_self).mayLog (by decide)).trans may

section
variable {s : State} {v : Verify} {o q : OtpOp} {n : NonVolatile} (busy : s.chip.nvc.op = some o)
include busy

/-- The pulses that the verify shows. -/
def pulsesShown (o q : OtpOp) : Nat := if q.pulses = 0 then o.pulses + 1 else q.pulses

theorem exec_otpVerify_ends {r : Nat} (step : pulseStep s.nv o v = (n, q, some r)) : exec (.otpVerify v) s =
    .next { s with nv := n, chip := (s.chip.put OTP_STATUS_PULSES (pulsesShown o q)).otpEnd q r } := by
  change Host.Outcome.next (s.otpVerify v) = _
  rw [State.otpVerify, busy]
  simp only [step]
  rfl

theorem exec_otpVerify_goes (step : pulseStep s.nv o v = (n, q, none)) : exec (.otpVerify v) s =
    .next { s with nv := n, chip := { s.chip.put OTP_STATUS_PULSES (pulsesShown o q) with nvc := { s.chip.nvc with op := some q } } } := by
  change Host.Outcome.next (s.otpVerify v) = _
  rw [State.otpVerify, busy]
  simp only [step]
  rfl

end

end Sys2Proof.Machine

open Sys2Proof.Machine

/-- Settles O42: a pulse burns its bits whatever its verify says, which either ends the operation or lets it go on. -/
theorem otpVerifies : Obligations.OtpVerifies := by
  refine ⟨fun s v o k w rest busy todo => ?_, fun s v idle => ?_⟩
  case refine_2 =>
    change Host.Outcome.next (s.otpVerify v) = _
    rw [State.otpVerify, idle]
  have pair {x : OtpOp × Option Nat} (h : (pulseStep s.nv o v).2 = x) : pulseStep s.nv o v = (s.nv.blow k (v.normal &&& w), x) := by
    rw [← h, ← pulseStep_fuses s.nv todo]
  have burns := s.nv.fuse_blow k (v.normal &&& w)
  have stays : ∀ j, j ≠ k → (s.nv.blow k (v.normal &&& w)).fuse j = s.nv.fuse j := fun j hj => s.nv.fuse_blow_ne _ hj
  have regs (n : Nat) : RegsBut [OTP_STATUS, LOG_STATUS] s.chip (s.chip.put OTP_STATUS_PULSES n) :=
    (RegsBut.refl _ s.chip).put OTP_STATUS_PULSES n List.mem_cons_self
  have endRegs (n r : Nat) (q : OtpOp) := (regs n).trans (RegsBut.otpEnd (s.chip.put OTP_STATUS_PULSES n) q r)
  have endEq (n r : Nat) (q : OtpOp) : ((s.chip.put OTP_STATUS_PULSES n).otpEnd q r) = _ :=
    (((Only.put s.chip OTP_STATUS_PULSES n).mono).trans (Only.otpEnd (s.chip.put OTP_STATUS_PULSES n) q r)).eq
  have endFaults (n r : Nat) (q : OtpOp) := (s.chip.put OTP_STATUS_PULSES n).otpEnd_faults q r
  rcases Bool.eq_false_or_eq_true v.windowLeft with left | within
  · refine ⟨_, exec_otpVerify_ends busy (pair (pulseStep_left s.nv todo left)), rfl, rfl, burns, stays,
      fun _ => (OtpEnded.otpEnd _ _ (by decide)).beside, ?_, ?_, ?_, ?_, fun _ => endFaults _ _ _, endRegs _ _ _, endEq _ _ _⟩ <;> simp [left]
  rcases Bool.eq_false_or_eq_true (verifyPasses v w) with good | bad
  · by_cases last : rest = []
    · refine ⟨_, exec_otpVerify_ends busy (pair (pulseStep_last s.nv todo within good last)), rfl, rfl, burns, stays,
        ?_, fun _ _ _ => (OtpEnded.otpEnd _ _ (by decide)).beside, ?_, ?_, ?_, fun _ => endFaults _ _ _, endRegs _ _ _, endEq _ _ _⟩ <;>
        simp [within, good, last]
    · refine ⟨_, exec_otpVerify_goes busy (pair (pulseStep_next s.nv todo within good last)), rfl, rfl, burns, stays,
        ?_, ?_, fun _ _ _ => rfl, ?_, ?_, fun _ => rfl, (regs _).of_regs rfl, rfl⟩ <;> simp [within, good, last]
  · by_cases few : o.pulses < 8
    · refine ⟨_, exec_otpVerify_goes busy (pair (pulseStep_again s.nv todo within bad few)), rfl, rfl, burns, stays,
        ?_, ?_, ?_, fun _ _ _ => rfl, ?_, fun _ => rfl, (regs _).of_regs rfl, rfl⟩
      · simp [within]
      · simp [bad]
      · simp [bad]
      · exact fun _ _ all => absurd few (Nat.not_lt.mpr all)
    · refine ⟨_, exec_otpVerify_ends busy (pair (pulseStep_fails s.nv todo within bad (Nat.not_lt.mp few))), rfl, rfl, burns, stays,
        ?_, ?_, ?_, ?_, fun _ _ _ => ⟨(OtpEnded.otpEnd _ _ (by decide)).beside, endFaults _ _ _⟩, ?_, endRegs _ _ _, endEq _ _ _⟩
      · simp [within]
      · simp [bad]
      · simp [bad]
      · exact fun _ _ h => absurd h few
      · simp [within, bad, few]
end

section
-- One proof after the other: a side goal that `Only` settles by `decide` waits for the kernel, on a thread of its own.
set_option Elab.async false
/-! SUPPORT. The window monitors: a sample, a qualified condition, an event (R266 to R268, R270); and the statement about them. -/
namespace Sys2Proof.Machine

/-- The registers of monitor `m` that its samples and events change, and the one of nWAKE. -/
def wmRegs (m : Fin 8) : List Nat :=
  [WM_STAT m.val, WM_CAP m.val, WM_CAPH m.val, WM_CAPV m.val, WM_CAPS m.val, WAKE_CMD]

theorem wmRegs_apart (m : Fin 8) : WM_CFG m.val ∉ wmRegs m ∧ SYS_STATUS ∉ wmRegs m := by
  have := m.isLt
  simp only [wmRegs, WM_CFG, WM_STAT, WM_CAP, WM_CAPH, WM_CAPV, WM_CAPS, WAKE_CMD, SYS_STATUS, List.mem_cons, List.not_mem_nil, or_false]
  omega

section
variable (c : Chip) (m : Fin 8)

/-! ### The stages of an event (R268) -/

def Chip.wmCounted : Chip := c.bump (WM_STAT_EVENTS m.val) 1
def Chip.wmCaptured : Chip := if c.flag (WM_CFG_CAP m.val) && !c.inDark then c.wmCapture m else c
def Chip.wmFlagged : Chip := c.markIf (c.flag (WM_CFG_IRQ m.val)) (WM_STAT_IRQ m.val)
def Chip.wmWoken : Chip := if c.flag (WM_CFG_WAKE m.val) then c.wake.mark (WM_STAT_WOKE m.val) else c

theorem Chip.wmEvent_eq : c.wmEvent m = ((((c.wmCounted m).wmCaptured m).wmFlagged m).wmWoken m).raiseIf
    (((((c.wmCounted m).wmCaptured m).wmFlagged m).wmWoken m).flag (WM_CFG_FLT m.val)) 0xEE := rfl

theorem RegsBut.wmCapture : RegsBut (wmRegs m) c (c.wmCapture m) := by
  have tick : RegsBut (wmRegs m) c (c.putTick (WM_CAP m.val) c.wall) :=
    ((RegsBut.refl _ c).setReg _ _ (by simp [wmRegs])).setReg _ _ (by simp [wmRegs, WM_CAP, WM_CAPH]; omega)
  exact ((tick.put (WM_CAPV_VALUE m.val) _ (by simp [wmRegs, WM_CAPV_VALUE])).mark _ (by simp [wmRegs, WM_CAPS_FULL])).markIf _ _
    (by simp [wmRegs, WM_CAPS_OVF])

theorem RegsBut.wmCounted : RegsBut (wmRegs m) c (c.wmCounted m) := (RegsBut.refl _ c).bump _ _ List.mem_cons_self
theorem RegsBut.wmCaptured : RegsBut (wmRegs m) c (c.wmCaptured m) := RegsBut.ite (.wmCapture c m) (RegsBut.refl _ c)
theorem RegsBut.wmFlagged : RegsBut (wmRegs m) c (c.wmFlagged m) := (RegsBut.refl _ c).markIf _ _ List.mem_cons_self
theorem RegsBut.wmWoken : RegsBut (wmRegs m) c (c.wmWoken m) :=
  RegsBut.ite (((RegsBut.refl _ c).put WAKE_CMD_NWAKE 1 (by simp [wmRegs, WAKE_CMD_NWAKE])).mark _ List.mem_cons_self) (RegsBut.refl _ c)

/-- What a stage leaves of the fields of WM_STAT, and of the capture. -/
theorem Chip.wmCaptured_stat {f : Field} (hf : f.addr = WM_STAT m.val) : (c.wmCaptured m).get f = c.get f := by
  have far (x : Nat) (hx : x = WM_CAP m.val ∨ x = WM_CAP m.val + 4 ∨ x = WM_CAPV m.val ∨ x = WM_CAPS m.val) : WM_STAT m.val ≠ x := by
    simp only [WM_STAT, WM_CAP, WM_CAPV, WM_CAPS] at hx ⊢
    omega
  have kept : RegsBut [WM_CAP m.val, WM_CAP m.val + 4, WM_CAPV m.val, WM_CAPS m.val] c (c.wmCaptured m) := by
    refine RegsBut.ite ?_ (RegsBut.refl _ c)
    have tick : RegsBut [WM_CAP m.val, WM_CAP m.val + 4, WM_CAPV m.val, WM_CAPS m.val] c (c.putTick (WM_CAP m.val) c.wall) :=
      ((RegsBut.refl _ c).setReg _ _ (by simp)).setReg _ _ (by simp)
    exact ((tick.put (WM_CAPV_VALUE m.val) _ (by simp [WM_CAPV_VALUE])).mark _ (by simp [WM_CAPS_FULL])).markIf _ _
      (by simp [WM_CAPS_OVF])
  refine kept.get ?_
  rw [hf]
  simpa using ⟨far _ (by simp), far _ (by simp), far _ (by simp), far _ (by simp)⟩

theorem FieldsBut.wmFlagged : FieldsBut [WM_STAT_IRQ m.val] c (c.wmFlagged m) :=
  (FieldsBut.refl _ c).markIf _ _ (Field.ok_of _ rfl) List.mem_cons_self

theorem FieldsBut.wmWoken : FieldsBut [WAKE_CMD_NWAKE, WM_STAT_WOKE m.val] c (c.wmWoken m) := by
  unfold Chip.wmWoken
  split
  · exact ((FieldsBut.refl _ c).put WAKE_CMD_NWAKE 1 (Field.ok_of _ rfl) List.mem_cons_self).mark _ (Field.ok_of _ rfl) (by simp)
  · exact FieldsBut.refl _ c

/-- The registers of a monitor lie below WAKE_CMD. -/
theorem wm_apart_wake {f : Field} (hf : f.addr = WM_STAT m.val ∨ f.addr = WM_CAPS m.val) : f.apart WAKE_CMD_NWAKE := by
  have := m.isLt
  refine .inl ?_
  simp only [WM_STAT, WM_CAPS, WAKE_CMD_NWAKE, WAKE_CMD] at hf ⊢
  omega

/-! ### What an event leaves -/

/-- The configuration of a monitor and the power state are read alike at every stage. -/
theorem Chip.wmStages_cfg {f : Field} (hf : f.addr = WM_CFG m.val ∨ f.addr = SYS_STATUS) :
    (c.wmCounted m).get f = c.get f ∧ ((c.wmCounted m).wmCaptured m).get f = c.get f ∧
    (((c.wmCounted m).wmCaptured m).wmFlagged m).get f = c.get f ∧
    ((((c.wmCounted m).wmCaptured m).wmFlagged m).wmWoken m).get f = c.get f := by
  have out : f.addr ∉ wmRegs m := by
    rcases hf with h | h <;> rw [h]
    · exact (wmRegs_apart m).1
    · exact (wmRegs_apart m).2
  have counted := RegsBut.wmCounted c m
  have captured := counted.trans (RegsBut.wmCaptured _ m)
  have flagged := captured.trans (RegsBut.wmFlagged _ m)
  exact ⟨counted.get out, captured.get out, flagged.get out, (flagged.trans (RegsBut.wmWoken _ m)).get out⟩

theorem RegsBut.wmEvent : RegsBut (wmRegs m) c (c.wmEvent m) := by
  rw [Chip.wmEvent_eq]
  exact ((((RegsBut.wmCounted c m).trans (RegsBut.wmCaptured _ m)).trans (RegsBut.wmFlagged _ m)).trans (RegsBut.wmWoken _ m)).of_regs
    (Chip.raiseIf_regs ..)

theorem Only.wmStages : Only [.regs, .fresh] c ((((c.wmCounted m).wmCaptured m).wmFlagged m).wmWoken m) := by
  have capture (d : Chip) : Only [.regs, .fresh] d (d.wmCapture m) :=
    ((((Only.refl _ d).then (.put64 ..)).then (.put ..)).then (.mark ..)).then (.markIf ..)
  have captured : Only [.regs, .fresh] c ((c.wmCounted m).wmCaptured m) :=
    (Only.bump ..).trans (Only.ite (capture _) (.refl ..))
  exact (captured.then (.markIf ..)).trans (Only.ite (((Only.refl _ _).then (.put ..)).then (.mark ..)) (.refl ..))

theorem Only.wmEvent : Only [.regs, .fresh, .faults] c (c.wmEvent m) := by
  rw [Chip.wmEvent_eq]
  exact ((Only.wmStages c m).mono).then (.raiseIf ..)

theorem Chip.wmEvent_stat {f : Field} (hf : f.addr = WM_STAT m.val) (ok : f.ok) (irq : f.apart (WM_STAT_IRQ m.val))
    (woke : f.apart (WM_STAT_WOKE m.val)) : (c.wmEvent m).get f = (c.wmCounted m).get f := by
  rw [Chip.wmEvent_eq, Chip.raiseIf_get, FieldsBut.wmWoken _ m f ok (by simpa using ⟨wm_apart_wake m (.inl hf), woke⟩),
    FieldsBut.wmFlagged _ m f ok (by simpa using irq), Chip.wmCaptured_stat _ m hf]

theorem Chip.wmEvent_kept {f : Field} (hf : f.addr = WM_STAT m.val) (ok : f.ok) (events : f.apart (WM_STAT_EVENTS m.val))
    (irq : f.apart (WM_STAT_IRQ m.val)) (woke : f.apart (WM_STAT_WOKE m.val)) : (c.wmEvent m).get f = c.get f :=
  (c.wmEvent_stat m hf ok irq woke).trans
    ((FieldsBut.refl [WM_STAT_EVENTS m.val] c).bump _ 1 (Field.ok_of _ rfl) List.mem_cons_self f ok (by simpa using events))

theorem Chip.wmEvent_events : (c.wmEvent m).get (WM_STAT_EVENTS m.val) = min (c.get (WM_STAT_EVENTS m.val) + 1) 65535 :=
  (c.wmEvent_stat m rfl (Field.ok_of _ rfl) (Field.apart_of _ _ rfl) (Field.apart_of _ _ rfl)).trans
    (c.get_bump _ (Field.ok_of _ rfl) 1)

theorem Chip.wmEvent_irq (irq : c.flag (WM_CFG_IRQ m.val) = true) : (c.wmEvent m).flag (WM_STAT_IRQ m.val) = true := by
  have asked : ((c.wmCounted m).wmCaptured m).flag (WM_CFG_IRQ m.val) = true :=
    (Chip.flag_of_get (c.wmStages_cfg m (.inl rfl)).2.1).trans irq
  have marked : (((c.wmCounted m).wmCaptured m).wmFlagged m).get (WM_STAT_IRQ m.val) = 1 := by
    rw [Chip.wmFlagged, asked]
    exact Chip.get_mark _ _ (Field.ok_of _ rfl)
  refine Chip.flag_one ?_
  rw [Chip.wmEvent_eq, Chip.raiseIf_get, FieldsBut.wmWoken _ m _ (Field.ok_of _ rfl)
    (by simpa using ⟨wm_apart_wake m (.inl rfl), Field.apart_of _ _ rfl⟩), marked]

theorem Chip.wmEvent_wake (wake : c.flag (WM_CFG_WAKE m.val) = true) :
    (c.wmEvent m).flag (WM_STAT_WOKE m.val) = true ∧ (c.wmEvent m).nWake = true := by
  have asked : (((c.wmCounted m).wmCaptured m).wmFlagged m).flag (WM_CFG_WAKE m.val) = true :=
    (Chip.flag_of_get (c.wmStages_cfg m (.inl rfl)).2.2.1).trans wake
  rw [Chip.nWake, Chip.wmEvent_eq, Chip.raiseIf_flag, Chip.raiseIf_flag, Chip.wmWoken, if_pos asked]
  refine ⟨Chip.flag_one (Chip.get_mark _ _ (Field.ok_of _ rfl)), Chip.flag_one ?_⟩
  have other : WAKE_CMD_NWAKE.addr ≠ (WM_STAT_WOKE m.val).addr := by
    have := m.isLt
    simp only [WAKE_CMD_NWAKE, WAKE_CMD, WM_STAT_WOKE, WM_STAT]
    omega
  rw [Chip.mark, Chip.noteFresh_get, Chip.get_put_ne _ _ _ _ other]
  exact Chip.get_put_fit _ WAKE_CMD_NWAKE 1 rfl

/-- The capture with its tick and its value. -/
def Chip.wmValued : Chip :=
  (c.putTick (WM_CAP m.val) c.wall).put (WM_CAPV_VALUE m.val) (c.tbVal (tbOf (c.get (WM_CFG_TB m.val)))).toNat

theorem Chip.wmCapture_shows : (c.wmCapture m).get64 (WM_CAP m.val) = c.wall % 2 ^ 64 ∧ (c.wmCapture m).get (WM_CAPS_FULL m.val) = 1 := by
  have later : RegsBut [WM_CAPV m.val, WM_CAPS m.val] (c.putTick (WM_CAP m.val) c.wall) (c.wmCapture m) :=
    (((RegsBut.refl _ _).put (WM_CAPV_VALUE m.val) _ List.mem_cons_self).mark _ (by simp [WM_CAPS_FULL])).markIf _ _
      (by simp [WM_CAPS_OVF])
  refine ⟨?_, ?_⟩
  · have low : (c.wmCapture m).reg (WM_CAP m.val) = (c.putTick (WM_CAP m.val) c.wall).reg _ :=
      later _ (by simp [WM_CAP, WM_CAPV, WM_CAPS])
    have high : (c.wmCapture m).reg (WM_CAP m.val + 4) = (c.putTick (WM_CAP m.val) c.wall).reg _ :=
      later _ (by simp [WM_CAP, WM_CAPV, WM_CAPS]; omega)
    rw [Chip.get64_congr low high, Chip.putTick, Chip.get64_put64]
    exact wrapTo_natCast 64 c.wall
  · have marked : ((c.wmValued m).mark (WM_CAPS_FULL m.val)).get (WM_CAPS_FULL m.val) = 1 := Chip.get_mark _ _ (Field.ok_of _ rfl)
    have kept := (FieldsBut.refl [WM_CAPS_OVF m.val] ((c.wmValued m).mark (WM_CAPS_FULL m.val))).markIf (c.stillSet (WM_CAPS_FULL m.val)) _
      (Field.ok_of _ rfl) List.mem_cons_self (WM_CAPS_FULL m.val) (Field.ok_of _ rfl) (by simpa using Field.apart_of _ _ rfl)
    exact kept.trans marked

theorem Chip.wmEvent_cap (cap : c.flag (WM_CFG_CAP m.val) = true) (lit : c.inDark = false) :
    (c.wmEvent m).get64 (WM_CAP m.val) = c.wall % 2 ^ 64 ∧ (c.wmEvent m).get (WM_CAPS_FULL m.val) = 1 := by
  have asked : (c.wmCounted m).flag (WM_CFG_CAP m.val) = true := (Chip.flag_of_get (c.wmStages_cfg m (.inl rfl)).1).trans cap
  have power : (c.wmCounted m).inDark = false := by
    rw [Chip.inDark, (c.wmStages_cfg m (f := SYS_STATUS_PSTATE) (.inr rfl)).1]
    exact lit
  have captured : (c.wmCounted m).wmCaptured m = (c.wmCounted m).wmCapture m := by
    rw [Chip.wmCaptured, if_pos (by simp [asked, power])]
  have later : RegsBut [WM_STAT m.val, WAKE_CMD] ((c.wmCounted m).wmCapture m) (c.wmEvent m) := by
    rw [Chip.wmEvent_eq, captured]
    have flagged : RegsBut [WM_STAT m.val, WAKE_CMD] ((c.wmCounted m).wmCapture m) (((c.wmCounted m).wmCapture m).wmFlagged m) :=
      (RegsBut.refl _ _).markIf _ _ List.mem_cons_self
    refine RegsBut.of_regs (flagged.trans (RegsBut.ite ?_ (RegsBut.refl _ _))) (Chip.raiseIf_regs ..)
    exact ((RegsBut.refl _ _).put WAKE_CMD_NWAKE 1 (by simp [WAKE_CMD_NWAKE])).mark _ List.mem_cons_self
  have out (x : Nat) (hx : x = WM_CAP m.val ∨ x = WM_CAP m.val + 4 ∨ x = WM_CAPS m.val) : x ∉ [WM_STAT m.val, WAKE_CMD] := by
    have := m.isLt
    simp only [WM_CAP, WM_CAPS, WM_STAT, WAKE_CMD, List.mem_cons, List.not_mem_nil, or_false] at hx ⊢
    omega
  obtain ⟨tick, full⟩ := (c.wmCounted m).wmCapture_shows m
  exact ⟨(Chip.get64_congr (later _ (out _ (by simp))) (later _ (out _ (by simp)))).trans tick,
    (later.get (out _ (.inr (.inr rfl)))).trans full⟩

theorem Chip.wmEvent_faults : (c.wmEvent m).faults = { c.faults with events := c.faults.events ++
    (if c.flag (WM_CFG_FLT m.val) then [⟨0xEE, 1, 0, 0, false⟩] else []) } := by
  have same : ((((c.wmCounted m).wmCaptured m).wmFlagged m).wmWoken m).faults = c.faults := (Only.wmStages c m).same .faults (by decide)
  rw [Chip.wmEvent_eq, Chip.raiseIf_faults, Chip.flag_of_get (c.wmStages_cfg m (.inl rfl)).2.2.2, same]

/-! ### Samples (R266, R267) -/

/-- The monitor after a sample whose comparators show `x`. -/
def Chip.wmSeen (x : WmState) : Chip :=
  let v := wmCond (c.get (WM_CFG_COND m.val)) x.above x.below
  c.setWm m { x with run := c.wmRun m v, level := v, qual := true }

theorem Chip.wmSample_eq {c : Chip} {m : Fin 8} (hi lo : Word) (ok : c.cfgOk = true) (on : c.flag (WM_CFG_EN m.val) = true) :
    c.wmSample m hi lo = if c.get (WM_CFG_FILT m.val) ≤ c.wmRun m (c.wmSees m hi lo) then
      (c.wmSeen m (c.wmCompare m hi.toNat lo.toNat)).wmQualified m (c.wmSees m hi lo)
      else c.wmSeen m (c.wmCompare m hi.toNat lo.toNat) := by
  have runs (v : Bool) : (if v == (c.wm m).level && (c.wm m).qual then min ((c.wm m).run + 1) 255 else 1) = c.wmRun m v := by
    rw [Chip.wmRun]
    simp only [Bool.and_eq_true, beq_iff_eq]
  rw [Chip.wmSample, if_neg (by simp [ok, on])]
  dsimp only
  rw [show (c.wmCompare m hi.toNat lo.toNat).level = (c.wm m).level from rfl,
    show (c.wmCompare m hi.toNat lo.toNat).qual = (c.wm m).qual from rfl,
    show (c.wmCompare m hi.toNat lo.toNat).run = (c.wm m).run from rfl, runs]
  rfl

end

/-! ### Qualified samples -/

/-- A monitor whose condition is judged `v` and which is armed or disarmed: inactive and armed, or active and disarmed before its
event. -/
def Chip.wmJudged (c : Chip) (m : Fin 8) (hi lo : Word) (v : Bool) : Chip :=
  ((c.wmSeen m (c.wmCompare m hi.toNat lo.toNat)).putF (WM_STAT_LEVEL m.val) v).put (WM_STAT_ARMED m.val) (!v).toNat

section
variable (c : Chip) (m : Fin 8) (hi lo : Word) (v : Bool)

theorem FieldsBut.wmJudged : FieldsBut [WM_STAT_LEVEL m.val, WM_STAT_ARMED m.val] c (c.wmJudged m hi lo v) :=
  (((FieldsBut.refl _ c).of_regs (c := c.wmSeen m _) rfl).putF _ v (Field.ok_of _ rfl) List.mem_cons_self).put _ _
    (Field.ok_of _ rfl) (by simp)

theorem RegsBut.wmJudged : RegsBut (wmRegs m) c (c.wmJudged m hi lo v) :=
  (((RegsBut.refl _ c).of_regs (c := c.wmSeen m _) rfl).put (WM_STAT_LEVEL m.val) v.toNat List.mem_cons_self).put (WM_STAT_ARMED m.val) (!v).toNat
    List.mem_cons_self

theorem Only.wmJudged : Only [.regs, .wms] c (c.wmJudged m hi lo v) := by
  have seen : Only [.regs, .wms] c (c.wmSeen m (c.wmCompare m hi.toNat lo.toNat)) := (Only.setWm ..).mono
  exact (seen.then (.putF ..)).then (.put ..)

theorem Chip.wmJudged_cfg {f : Field} (hf : f.addr = WM_CFG m.val ∨ f.addr = SYS_STATUS) : (c.wmJudged m hi lo v).get f = c.get f := by
  refine (RegsBut.wmJudged c m hi lo v).get ?_
  rcases hf with h | h <;> rw [h]
  · exact (wmRegs_apart m).1
  · exact (wmRegs_apart m).2

theorem Chip.wmJudged_shows : (c.wmJudged m hi lo v).flag (WM_STAT_ARMED m.val) = !v ∧ (c.wmJudged m hi lo v).flag (WM_STAT_LEVEL m.val) = v ∧
    (c.wmJudged m hi lo v).get (WM_STAT_EVENTS m.val) = c.get (WM_STAT_EVENTS m.val) := by
  have level (d : Chip) : ((d.putF (WM_STAT_LEVEL m.val) v).put (WM_STAT_ARMED m.val) (!v).toNat).flag (WM_STAT_LEVEL m.val) = v := by
    refine (Chip.flag_of_get (Chip.get_put_beside _ _ _ _ rfl)).trans ?_
    cases v
    · exact Chip.flag_zero (Chip.get_put_fit d (WM_STAT_LEVEL m.val) 0 rfl)
    · exact Chip.flag_one (Chip.get_put_fit d (WM_STAT_LEVEL m.val) 1 rfl)
  have armed (d : Chip) : (d.put (WM_STAT_ARMED m.val) (!v).toNat).flag (WM_STAT_ARMED m.val) = !v := by
    cases v
    · exact Chip.flag_one (Chip.get_put_fit d (WM_STAT_ARMED m.val) 1 rfl)
    · exact Chip.flag_zero (Chip.get_put_fit d (WM_STAT_ARMED m.val) 0 rfl)
  refine ⟨armed _, level _, ?_⟩
  exact FieldsBut.wmJudged c m hi lo v _ (Field.ok_of _ rfl) (by simpa using ⟨Field.apart_of _ _ rfl, Field.apart_of _ _ rfl⟩)

end

section
variable {c : Chip} {m : Fin 8}

theorem Chip.wmQualified_event (armed : c.flag (WM_STAT_ARMED m.val) = true) (was : c.flag (WM_STAT_LEVEL m.val) = false) :
    c.wmQualified m true = ((c.putF (WM_STAT_LEVEL m.val) true).put (WM_STAT_ARMED m.val) 0).wmEvent m := by
  simp [Chip.wmQualified, armed, was]

theorem Chip.wmQualified_quiet (h : c.flag (WM_STAT_ARMED m.val) = false ∨ c.flag (WM_STAT_LEVEL m.val) = true) :
    c.wmQualified m true = c.putF (WM_STAT_LEVEL m.val) true := by
  rcases h with h | h <;> simp [Chip.wmQualified, h]

theorem Chip.wmQualified_arms : c.wmQualified m false = (c.putF (WM_STAT_LEVEL m.val) false).put (WM_STAT_ARMED m.val) 1 := rfl

end

end Sys2Proof.Machine

open Sys2Proof.Machine

/-- Settles O32: a sample sets the monitor's run; a qualified one sets LEVEL, and arms the monitor or is an event. -/
theorem windowMonitors : Obligations.WindowMonitors := by
  refine ⟨?event, ?quiet, ?arms, ?short, ?idle, ?ack⟩
  case event =>
    intro s m hi lo ok on sees filt armed was
    have seen := Only.setWm s.chip m
    have run : s.chip.wmSample m hi lo = (s.chip.wmJudged m hi lo true).wmEvent m := by
      rw [Chip.wmSample_eq hi lo ok on, sees, if_pos filt]
      exact Chip.wmQualified_event armed was
    have cfg (f : Field) (hf : f.addr = WM_CFG m.val ∨ f.addr = SYS_STATUS) := s.chip.wmJudged_cfg m hi lo true hf
    refine completes_of_run (·.wmSample m hi lo) rfl run ⟨?_, ?_, ?_, fun irq => ?_, fun wake => ?_, fun cap lit => ?_, ?_, ?_, ?_⟩
    · exact (Chip.flag_of_get (Chip.wmEvent_kept _ m rfl (Field.ok_of _ rfl) (Field.apart_of _ _ rfl) (Field.apart_of _ _ rfl)
        (Field.apart_of _ _ rfl))).trans (s.chip.wmJudged_shows m hi lo true).1
    · exact (Chip.flag_of_get (Chip.wmEvent_kept _ m rfl (Field.ok_of _ rfl) (Field.apart_of _ _ rfl) (Field.apart_of _ _ rfl)
        (Field.apart_of _ _ rfl))).trans (s.chip.wmJudged_shows m hi lo true).2.1
    · rw [Chip.wmEvent_events, (s.chip.wmJudged_shows m hi lo true).2.2]
    · have flag := Chip.wmEvent_irq _ m ((Chip.flag_of_get (cfg _ (.inl rfl))).trans irq)
      refine ⟨flag, ?_⟩
      rw [Chip.nInt, Bool.or_eq_true, Bool.or_eq_true, List.any_eq_true]
      exact .inl (.inr ⟨m.val, List.mem_range.mpr m.isLt, flag⟩)
    · exact Chip.wmEvent_wake _ m ((Chip.flag_of_get (cfg _ (.inl rfl))).trans wake)
    · refine Chip.wmEvent_cap _ m ((Chip.flag_of_get (cfg _ (.inl rfl))).trans cap) ?_
      rw [Chip.inDark, cfg SYS_STATUS_PSTATE (.inr rfl)]
      exact lit
    · rw [Chip.wmEvent_faults, Chip.flag_of_get (cfg _ (.inl rfl)), (Only.wmJudged s.chip m hi lo true).same .faults (by decide)]
    · exact (RegsBut.wmJudged s.chip m hi lo true).trans (RegsBut.wmEvent _ m)
    · exact (((Only.wmJudged s.chip m hi lo true).mono : Only [.regs, .fresh, .wms, .faults] _ _).trans ((Only.wmEvent _ m).mono)).eq
  case quiet =>
    intro s m hi lo ok on sees filt no
    have run : s.chip.wmSample m hi lo = (s.chip.wmSeen m (s.chip.wmCompare m hi.toNat lo.toNat)).putF (WM_STAT_LEVEL m.val) true := by
      rw [Chip.wmSample_eq hi lo ok on, sees, if_pos filt]
      exact Chip.wmQualified_quiet no
    refine completes_of_run (·.wmSample m hi lo) rfl run ⟨Chip.flag_one (Chip.get_put_fit _ _ _ rfl), ?_, rfl⟩
    exact ((FieldsBut.refl _ s.chip).of_regs (c := s.chip.wmSeen m _) rfl).putF _ true (Field.ok_of _ rfl) List.mem_cons_self
  case arms =>
    intro s m hi lo ok on sees filt
    have run : s.chip.wmSample m hi lo = s.chip.wmJudged m hi lo false := by
      rw [Chip.wmSample_eq hi lo ok on, sees, if_pos filt]
      exact Chip.wmQualified_arms
    obtain ⟨armed, level, -⟩ := s.chip.wmJudged_shows m hi lo false
    refine completes_of_run (·.wmSample m hi lo) rfl run ⟨armed, level, ?_, (Only.wmJudged s.chip m hi lo false).eq⟩
    exact (FieldsBut.wmJudged s.chip m hi lo false).mono (by simp [or_comm])
  case short =>
    intro s m hi lo ok on few
    refine completes_of_run (·.wmSample m hi lo) rfl ((Chip.wmSample_eq hi lo ok on).trans (if_neg (Nat.not_le.mpr few))) ⟨?_, ?_, rfl⟩
    · rw [Chip.wmSeen, Chip.wm_setWm]
      rfl
    · exact fun q hq => Chip.wm_setWm_ne _ _ _ hq
  case idle =>
    intro s m hi lo off
    refine idles_of_run (·.wmSample m hi lo) rfl ?_
    rcases off with off | off <;> simp [Chip.wmSample, off]
  case ack =>
    intro s p carried awake
    have gate : s.chip.gate true = .ok := by simp [Chip.gate, awake]
    have run : exec (.wakeAck p) s = .next { s with chip := (s.chip.put WAKE_CMD_NWAKE 0).answer p .ok } := by
      change Host.Outcome.next { s with chip := s.chip.ask p true Chip.wakeAck } = _
      rw [s.chip.ask_ok p true Chip.wakeAck carried gate]
      rfl
    exact ⟨_, run, Chip.flag_zero (Chip.get_put_fit s.chip WAKE_CMD_NWAKE 0 rfl),
      (FieldsBut.refl _ s.chip).put _ _ (Field.ok_of _ rfl) List.mem_cons_self, rfl⟩
end

section
-- One proof after the other: a side goal that `Only` settles by `decide` waits for the kernel, on a thread of its own.
set_option Elab.async false
/-! SUPPORT. Words packed from fields; a lockstep mismatch and the re-execution (R68, R69); and the statement about them. -/
namespace Sys2Proof.Machine

/-! ### Words packed from fields -/

/-- The bits of a field stand apart from those of another, in a word that holds both. -/
def Field.beside (f g : Field) : Bool := Nat.blt f.hi g.lo || Nat.blt g.hi f.lo

/-- The fields of `l` are ranges of bits, each beside every later one: `rfl` for concrete fields. -/
def packOk : List (Field × Nat) → Bool
  | [] => true
  | x :: l => (Nat.ble x.1.lo x.1.hi && Nat.blt x.1.hi 32) && l.all (fun y => x.1.beside y.1) && packOk l

theorem Field.beside_iff {f g : Field} : f.beside g = true ↔ f.hi < g.lo ∨ g.hi < f.lo := by
  simp [Field.beside, Nat.blt]

theorem packOk_cons {x : Field × Nat} {l : List (Field × Nat)} (h : packOk (x :: l) = true) :
    x.1.ok ∧ (∀ y ∈ l, x.1.hi < y.1.lo ∨ y.1.hi < x.1.lo) ∧ packOk l = true := by
  simp only [packOk, Bool.and_eq_true, List.all_eq_true, Nat.blt, Nat.ble_eq] at h
  obtain ⟨⟨⟨low, high⟩, beside⟩, rest⟩ := h
  exact ⟨⟨low, high⟩, fun y hy => Field.beside_iff.mp (beside y hy), rest⟩

theorem packOk_mem {l : List (Field × Nat)} (h : packOk l = true) {x : Field × Nat} (hx : x ∈ l) : x.1.ok := by
  induction l with
  | nil => exact absurd hx List.not_mem_nil
  | cons y l ih =>
    obtain ⟨ok, -, rest⟩ := packOk_cons h
    rcases List.mem_cons.mp hx with rfl | hx
    · exact ok
    · exact ih rest hx

/-- A field that stands beside all that are packed reads as it was. -/
theorem Field.read_foldl_write {f : Field} (hf : f.ok) {l : List (Field × Nat)} (h : packOk l = true)
    (out : ∀ y ∈ l, f.hi < y.1.lo ∨ y.1.hi < f.lo) (w : Word) : f.read (l.foldl (fun w x => x.1.write w x.2) w) = f.read w := by
  induction l generalizing w with
  | nil => rfl
  | cons y l ih =>
    obtain ⟨ok, -, rest⟩ := packOk_cons h
    obtain ⟨here, there⟩ := List.forall_mem_cons.mp out
    exact (ih rest there _).trans (f.read_write_apart y.1 hf ok here w y.2)

/-- A field that is packed reads its value, at its width. -/
theorem Field.read_packFields {f : Field} {v : Nat} {l : List (Field × Nat)} (h : packOk l = true) (hm : (f, v) ∈ l)
    (hv : v < 2 ^ (f.hi + 1 - f.lo)) : f.read (packFields l) = v := by
  suffices ∀ w, f.read (l.foldl (fun w x => x.1.write w x.2) w) = v from this 0
  induction l with
  | nil => exact absurd hm List.not_mem_nil
  | cons y l ih =>
    intro w
    obtain ⟨ok, beside, rest⟩ := packOk_cons h
    rcases List.mem_cons.mp hm with rfl | hm
    · exact (Field.read_foldl_write ok rest beside _).trans ((f.read_write ok w v).trans (Nat.mod_eq_of_lt hv))
    · exact ih rest hm _

/-- A field that is not packed reads 0. -/
theorem Field.read_packFields_out {f : Field} {l : List (Field × Nat)} (h : packOk ((f, 0) :: l) = true) :
    f.read (packFields l) = 0 := by
  obtain ⟨ok, beside, rest⟩ := packOk_cons h
  refine (Field.read_foldl_write ok rest beside 0).trans ?_
  simp [Field.read]

theorem Chip.get_put64_ne (c : Chip) (i : Int) {f : Field} {a : Nat} (low : f.addr ≠ a) (high : f.addr ≠ a + 4) :
    (c.put64 a i).get f = c.get f := congrArg f.read (c.reg_put64_ne i low high)

/-! ### The record of a mismatch -/

/-- A checker that is disarmed has its bit of FLT_INJS cleared, and nothing else changes. -/
theorem Chip.disarm_reg_ne (c : Chip) (k : Fin 4) {x : Nat} (hx : x ≠ FLT_INJS) : (c.disarm k).reg x = c.reg x :=
  c.reg_put_ne FLT_INJS_ARMED _ hx

theorem RegsBut.disarm (c : Chip) (k : Fin 4) : RegsBut [FLT_INJS] c (c.disarm k) :=
  fun _ hx => c.disarm_reg_ne k fun e => hx (by rw [e]; exact List.mem_cons_self)

theorem Only.disarm (c : Chip) (k : Fin 4) : Only [.regs, .faults] c (c.disarm k) := .of_mix rfl

theorem Chip.disarm_faults (c : Chip) (k : Fin 4) : (c.disarm k).faults = { c.faults with inj := c.faults.inj.set k none } := rfl

section
variable (c : Chip) (e : Region) (a : Axis) (n : BitVec 10) (persist : Bool)

theorem Only.recordMismatch : Only [.regs, .fresh] c (c.recordMismatch e a n persist) :=
  (((Only.refl _ c).then (.setReg ..)).then (.mark ..)).then (.put64 ..)

theorem RegsBut.recordMismatch : RegsBut [FE_MMREC e.val, FE_MMTICK e.val, FE_MMTICKH e.val] c (c.recordMismatch e a n persist) := by
  have noted : RegsBut [FE_MMREC e.val, FE_MMTICK e.val, FE_MMTICKH e.val] c ((c.setReg (FE_MMREC e.val) (packFields
      [(FE_MMREC_PERSIST e.val, persist.toNat), (FE_MMREC_AXIS e.val, localOf a), (FE_MMREC_CYCLE e.val, n.toNat)])).mark
      (FE_MMREC_VALID e.val)) := ((RegsBut.refl _ c).setReg _ _ List.mem_cons_self).mark _ List.mem_cons_self
  exact (noted.setReg _ _ (by simp)).setReg _ _ (by simp [FE_MMTICK, FE_MMTICKH]; omega)

/-- The record's word, before it is marked valid. -/
theorem Chip.recordMismatch_get {f : Field} {v : Nat} (hf : f.addr = FE_MMREC e.val) (beside : f.beside (FE_MMREC_VALID e.val) = true)
    (hm : (f, v) ∈ [(FE_MMREC_PERSIST e.val, persist.toNat), (FE_MMREC_AXIS e.val, localOf a), (FE_MMREC_CYCLE e.val, n.toNat)])
    (hv : v < 2 ^ (f.hi + 1 - f.lo)) : (c.recordMismatch e a n persist).get f = v := by
  have ok : packOk [(FE_MMREC_PERSIST e.val, persist.toNat), (FE_MMREC_AXIS e.val, localOf a), (FE_MMREC_CYCLE e.val, n.toNat)] = true := rfl
  have far : f.addr ≠ FE_MMTICK e.val ∧ f.addr ≠ FE_MMTICK e.val + 4 := by
    rw [hf]
    simp only [FE_MMREC, FE_MMTICK]
    omega
  have apart : f.apart (FE_MMREC_VALID e.val) := .inr (Field.beside_iff.mp beside)
  rw [Chip.recordMismatch, Chip.get_put64_ne _ _ far.1 far.2, Chip.mark, Chip.noteFresh_get,
    Chip.get_put_apart _ f _ 1 (packOk_mem ok hm) (Field.ok_of _ rfl) apart, Chip.get, hf, Chip.reg_setReg]
  exact Field.read_packFields ok hm hv

theorem Chip.recordMismatch_valid : (c.recordMismatch e a n persist).get (FE_MMREC_VALID e.val) = 1 := by
  have far : (FE_MMREC_VALID e.val).addr ≠ FE_MMTICK e.val ∧ (FE_MMREC_VALID e.val).addr ≠ FE_MMTICK e.val + 4 := by
    simp only [FE_MMREC_VALID, FE_MMREC, FE_MMTICK]
    omega
  rw [Chip.recordMismatch, Chip.get_put64_ne _ _ far.1 far.2]
  exact Chip.get_mark _ _ (Field.ok_of _ rfl)

theorem Chip.recordMismatch_tick : (c.recordMismatch e a n persist).get64 (FE_MMTICK e.val) = c.wall % 2 ^ 64 :=
  (Chip.get64_put64 ..).trans (wrapTo_natCast 64 c.wall)

theorem localOf_lt : localOf a < 4 := Nat.mod_lt _ (by decide)

/-! ### The first mismatch -/

/-- An injection that made the check fail is disarmed. -/
def Chip.mismatchNoted : Chip :=
  if c.injected 2 e.val then (c.recordMismatch e a n false).disarm 2 else c.recordMismatch e a n false

/-- The working copy is discarded, and the event is reported. -/
def Chip.mismatchFirst : Chip :=
  ((c.mismatchNoted e a n).setAxis a { c.axis a with
    run := { (c.axis a).run with mismatched := true, flagged := c.now } }).report (0xE6 + 3 * e.val) 1 0 (axisMask [a])
    (c.injected 2 e.val)

theorem Chip.mismatchFirst_regs : (c.mismatchFirst e a n).regs = (c.mismatchNoted e a n).regs := Chip.report_regs ..

theorem Chip.mismatchFirst_faults : (c.mismatchFirst e a n).faults = { (c.mismatchNoted e a n).faults with
    events := (c.mismatchNoted e a n).faults.events ++ [⟨0xE6 + 3 * e.val, 1, 0, axisMask [a], c.injected 2 e.val⟩] } := by
  rw [Chip.mismatchFirst, Chip.report, if_neg (by decide)]
  rfl

theorem Chip.mismatch_first {c : Chip} {e : Region} {a : Axis} (n : BitVec 10) (owner : c.engine e = some a)
    (fresh : (c.axis a).run.mismatched = false) (first : (c.axis a).run.retrying = false) :
    c.mismatch e n = c.mismatchFirst e a n := by
  have now : (c.mismatchNoted e a n).now = c.now := by
    rw [Chip.mismatchNoted]
    split <;> rfl
  rw [Chip.mismatchFirst, Chip.mismatch, owner]
  simp only [fresh, first, Bool.false_eq_true, if_false]
  rw [← Chip.mismatchNoted, now]

theorem Only.mismatchNoted : Only [.regs, .fresh, .faults] c (c.mismatchNoted e a n) := by
  refine Only.ite ?_ ((Only.recordMismatch ..).mono)
  exact (Only.recordMismatch c e a n false).mono.then (.disarm ..)

theorem RegsBut.mismatchNoted : RegsBut [FE_MMREC e.val, FE_MMTICK e.val, FE_MMTICKH e.val, FLT_INJS] c (c.mismatchNoted e a n) := by
  have recorded : RegsBut [FE_MMREC e.val, FE_MMTICK e.val, FE_MMTICKH e.val, FLT_INJS] c (c.recordMismatch e a n false) :=
    fun x hx => RegsBut.recordMismatch c e a n false x fun h => hx (by simp only [List.mem_cons] at h ⊢; tauto)
  refine RegsBut.ite ?_ recorded
  exact recorded.trans fun x hx => RegsBut.disarm _ 2 x fun h => hx (by simp only [List.mem_cons] at h ⊢; tauto)

/-- What stands in the record is no matter of the injection. -/
theorem Chip.mismatchNoted_reg {x : Nat} (hx : x ≠ FLT_INJS) : (c.mismatchNoted e a n).reg x = (c.recordMismatch e a n false).reg x := by
  rw [Chip.mismatchNoted]
  split
  · exact Chip.disarm_reg_ne _ 2 hx
  · rfl

theorem Chip.mismatchNoted_events : (c.mismatchNoted e a n).faults.events = c.faults.events := by
  have same : (c.recordMismatch e a n false).faults = c.faults := (Only.recordMismatch c e a n false).same .faults (by decide)
  rw [Chip.mismatchNoted]
  split
  · rw [Chip.disarm_faults, same]
  · rw [same]

theorem Chip.mismatchNoted_faults : ∃ x, (c.mismatchNoted e a n).faults = { c.faults with inj := x } := by
  have same : (c.recordMismatch e a n false).faults = c.faults := (Only.recordMismatch c e a n false).same .faults (by decide)
  rw [Chip.mismatchNoted]
  split
  · exact ⟨_, by rw [Chip.disarm_faults, same]⟩
  · exact ⟨_, same⟩

theorem Chip.mismatchNoted_injected : (c.mismatchNoted e a n).injected 2 e.val = false := by
  have same : (c.recordMismatch e a n false).faults = c.faults := (Only.recordMismatch c e a n false).same .faults (by decide)
  rw [Chip.mismatchNoted]
  split
  next => simp [Chip.disarm_faults, Chip.injected]
  next clear =>
    rw [Chip.injected, same]
    simpa [Chip.injected] using clear

end

/-! ### The halt after the second (R69) -/

section
variable (c : Chip) (a : Axis)

/-- A bit that is added to a field is set in it. -/
theorem Chip.put_or_bit {f : Field} (hf : f.ok) {k : Nat} (hk : k < f.hi + 1 - f.lo) (d : Chip) :
    ((d.put f (c.get f ||| 2 ^ k)).get f).testBit k = true := by
  have fits : c.get f ||| 2 ^ k < 2 ^ (f.hi + 1 - f.lo) := Nat.or_lt_two_pow (f.read_lt _) (Nat.pow_lt_pow_right (by decide) hk)
  rw [Chip.get_put_lt d f hf _ fits]
  simp

theorem Only.dropRun : Only [.regs, .axes, .engines] c (c.dropRun a) := by
  unfold Chip.dropRun
  dsimp only
  have put : Only [.regs, .axes, .engines] c ((c.setAxis a { c.axis a with run := {} }).put (FE_STATUS_RETRY (regionOf a).val)
      ((c.setAxis a { c.axis a with run := {} }).get (FE_STATUS_RETRY (regionOf a).val) &&& (15 - 2 ^ localOf a))) :=
    ((Only.refl _ c).then (.setAxis ..)).then (.put ..)
  exact Only.ite (put.then (.setEngine ..)) put

theorem Chip.dropRun_engine (owner : c.engine (regionOf a) = some a) : (c.dropRun a).engine (regionOf a) = none := by
  unfold Chip.dropRun
  dsimp only
  rw [if_pos (by simpa using owner), Chip.engine_setEngine]

/-- The chip whose axis is noted as halted. -/
def Chip.haltNoted : Chip :=
  (c.dropRun a).put (FE_STATUS_HALT (regionOf a).val) (c.get (FE_STATUS_HALT (regionOf a).val) ||| 2 ^ localOf a)

theorem Chip.haltAxis_eq : c.haltAxis a = (((c.haltNoted a).reactOff a).showActive (regionOf a)).obeyLines := rfl

theorem Only.haltNoted : Only [.regs, .axes, .engines] c (c.haltNoted a) := (Only.dropRun c a).then (.put ..)

theorem Only.showActive (e : Region) : Only [.regs] c (c.showActive e) := .put ..

theorem Only.haltAxis : Only [.regs, .legs, .axes, .engines] c (c.haltAxis a) := by
  rw [Chip.haltAxis_eq]
  exact ((((Only.haltNoted c a).mono : Only [.regs, .legs, .axes, .engines] c _).then (.reactOff ..)).then (.showActive ..)).then (.obeyLines _)

/-- Registers beyond those of the engine and of the axis. -/
theorem RegsBut.haltAxis : RegsBut (FE_STATUS (regionOf a).val :: offRegs a) c (c.haltAxis a) := by
  have dropped : RegsBut (FE_STATUS (regionOf a).val :: offRegs a) c (c.dropRun a) := by
    unfold Chip.dropRun
    dsimp only
    have put := ((RegsBut.refl (FE_STATUS (regionOf a).val :: offRegs a) c).of_regs (c := c.setAxis a { c.axis a with run := {} }) rfl).put
      (FE_STATUS_RETRY (regionOf a).val) ((c.setAxis a { c.axis a with run := {} }).get (FE_STATUS_RETRY (regionOf a).val) &&&
        (15 - 2 ^ localOf a)) List.mem_cons_self
    exact RegsBut.ite (put.of_regs rfl) put
  have noted : RegsBut (FE_STATUS (regionOf a).val :: offRegs a) c (c.haltNoted a) :=
    dropped.put (FE_STATUS_HALT (regionOf a).val) _ List.mem_cons_self
  have off : RegsBut (FE_STATUS (regionOf a).val :: offRegs a) (c.haltNoted a) ((c.haltNoted a).reactOff a) :=
    fun x hx => Chip.reactOff_regsBut _ a x fun h => hx (List.mem_cons_of_mem _ h)
  rw [Chip.haltAxis_eq]
  exact ((noted.trans off).put (FE_STATUS_ACTIVE (regionOf a).val) _ List.mem_cons_self).of_regs (Chip.obeyLines_regs _)

/-- The engines' registers lie above those of the axes. -/
theorem engine_high {e : Region} {b : Axis} {x : Nat} (hx : x = FE_STATUS e.val ∨ x = FE_MMREC e.val) : x ∉ offRegs b := fun h => by
  have := (offRegs_low h).2
  simp only [FE_STATUS, FE_MMREC] at hx
  omega

theorem Chip.haltAxis_halted : (c.haltAxis a).halted a = true := by
  have kept : (c.haltAxis a).get (FE_STATUS_HALT (regionOf a).val) = (c.haltNoted a).get (FE_STATUS_HALT (regionOf a).val) := by
    rw [Chip.haltAxis_eq, Chip.get_of_regs (Chip.obeyLines_regs _), Chip.showActive, Chip.get_put_beside _ _ _ _ rfl]
    exact RegsBut.get (Chip.reactOff_regsBut _ a) (engine_high (.inl rfl))
  rw [Chip.halted, kept]
  exact c.put_or_bit (Field.ok_of (FE_STATUS_HALT (regionOf a).val) rfl) (localOf_lt a) (c.dropRun a)

theorem Chip.haltAxis_mode : (c.haltAxis a).modeOf a = 0 := by
  have other : (AX_MSTAT_MODE a.val).addr ≠ (FE_STATUS_ACTIVE (regionOf a).val).addr := by
    have := a.isLt
    simp only [AX_MSTAT_MODE, AX_MSTAT, FE_STATUS_ACTIVE, FE_STATUS]
    omega
  rw [Chip.modeOf, Chip.haltAxis_eq, Chip.get_of_regs (Chip.obeyLines_regs _), Chip.showActive, Chip.get_put_ne _ _ _ _ other]
  exact ((c.haltNoted a).reactOff_mode a).1

theorem Chip.haltAxis_engine (owner : c.engine (regionOf a) = some a) : (c.haltAxis a).engine (regionOf a) = none := by
  have noted : (c.haltNoted a).engine (regionOf a) = none := c.dropRun_engine a owner
  rw [Chip.haltAxis_eq]
  exact ((((Only.reactOff ..).mono : Only [.regs, .legs, .axes] _ _).then (.showActive ..)).then (.obeyLines _)).engine (regionOf a) |>.trans noted

/-- A mismatch in a re-execution is recorded as persistent, and halts the axis with its event. -/
theorem Chip.mismatch_second {c : Chip} {e : Region} {a : Axis} (n : BitVec 10) (owner : c.engine e = some a)
    (fresh : (c.axis a).run.mismatched = false) (second : (c.axis a).run.retrying = true) :
    c.mismatch e n = ((c.recordMismatch e a n true).haltAxis a).report (0xE7 + 3 * e.val) 1 4 (axisMask [a]) false := by
  rw [Chip.mismatch, owner]
  simp only [fresh, second, Bool.false_eq_true, if_false, if_true]

theorem Chip.reexecute_eq {c : Chip} {e : Region} {a : Axis} (owner : c.engine e = some a) (mismatched : (c.axis a).run.mismatched = true)
    (due : (c.axis a).run.flagged + 4 ≤ c.now) :
    c.reexecute e = (c.setAxis a { c.axis a with
        run := { (c.axis a).run with mismatched := false, retrying := true, ran := 0, since := c.now } }).put (FE_STATUS_RETRY e.val)
        (c.get (FE_STATUS_RETRY e.val) ||| 2 ^ localOf a) := by
  rw [Chip.reexecute, owner]
  simp only [mismatched, due, decide_true, Bool.and_self, if_true]

end

end Sys2Proof.Machine

open Sys2Proof.Machine

/-- Settles O14: a first mismatch is recorded, one in a re-execution is recorded and halts its axis. -/
theorem lockstep : Obligations.Lockstep := by
  refine ⟨?first, ?again, ?second⟩
  case first =>
    intro s e a n owner fresh first
    have noted := Only.mismatchNoted s.chip e a n
    have regs := RegsBut.mismatchNoted s.chip e a n
    have record (f : Field) (hf : f.addr = FE_MMREC e.val) : (s.chip.mismatchFirst e a n).get f = (s.chip.recordMismatch e a n false).get f := by
      rw [Chip.get_of_regs (Chip.mismatchFirst_regs ..), Chip.get, s.chip.mismatchNoted_reg e a n (by rw [hf]; simp only [FE_MMREC, FLT_INJS]; omega)]
      rfl
    have tick : (s.chip.mismatchFirst e a n).get64 (FE_MMTICK e.val) = (s.chip.recordMismatch e a n false).get64 (FE_MMTICK e.val) := by
      refine Chip.get64_congr ?_ ?_ <;>
        rw [show (s.chip.mismatchFirst e a n).reg _ = (s.chip.mismatchNoted e a n).reg _ from congrArg (cellsGet regReset · _) (Chip.mismatchFirst_regs ..), s.chip.mismatchNoted_reg e a n (by simp only [FE_MMTICK, FLT_INJS]; omega)]
    refine completes_of_run (·.mismatch e n) rfl (Chip.mismatch_first n owner fresh first) ⟨?_, ?_, ?_, ?_, ?_, ?_, ?_, ?_, ?_, ?_, ?_, ?_, ?_⟩
    · rw [Chip.mismatchFirst, Chip.axis_report, Chip.axis_setAxis]
    · exact (record _ rfl).trans (Chip.recordMismatch_valid ..)
    · exact (record _ rfl).trans (Chip.recordMismatch_get s.chip e a n false rfl rfl List.mem_cons_self (Nat.two_pow_pos _))
    · exact (record _ rfl).trans (Chip.recordMismatch_get s.chip e a n false rfl rfl (by simp) (localOf_lt a))
    · exact (record _ rfl).trans (Chip.recordMismatch_get s.chip e a n false rfl rfl (by simp) n.isLt)
    · exact tick.trans (Chip.recordMismatch_tick ..)
    · rw [Chip.mismatchFirst_faults, Chip.mismatchNoted_events]
    · rw [Chip.injected, Chip.mismatchFirst_faults]
      exact Chip.mismatchNoted_injected ..
    · have kept : ∃ x, (s.chip.mismatchNoted e a n).faults = { s.chip.faults with inj := x } := s.chip.mismatchNoted_faults e a n
      obtain ⟨x, kept⟩ := kept
      rw [Chip.mismatchFirst_faults, kept]
    · exact fun x hx => (Chip.axis_report ..).trans ((Chip.axis_setAxis_ne _ _ _ hx).trans (noted.axis x))
    · exact regs.of_regs (Chip.mismatchFirst_regs ..)
    · intro clean
      have same : s.chip.mismatchNoted e a n = s.chip.recordMismatch e a n false := if_neg (by simp [clean])
      have far : FLT_INJS ∉ [FE_MMREC e.val, FE_MMTICK e.val, FE_MMTICKH e.val] := by
        simp only [FE_MMREC, FE_MMTICK, FE_MMTICKH, FLT_INJS, List.mem_cons, List.not_mem_nil, or_false]
        omega
      refine ⟨?_, ?_⟩
      · refine Eq.trans (congrArg (cellsGet regReset · _) (Chip.mismatchFirst_regs ..)) ?_
        rw [same]
        exact RegsBut.recordMismatch s.chip e a n false _ far
      · rw [Chip.mismatchFirst_faults, same, (Only.recordMismatch s.chip e a n false).same .faults (by decide)]
    · have whole : Only [.regs, .fresh, .axes, .faults] s.chip (s.chip.mismatchFirst e a n) :=
        ((noted.mono : Only [.regs, .fresh, .axes, .faults] _ _).then (.setAxis ..)).then (.report ..)
      exact whole.eq
  case again =>
    intro s e a owner mismatched due
    refine completes_of_run (·.reexecute e) rfl (Chip.reexecute_eq owner mismatched due) ⟨?_, ?_, ?_, ?_, rfl⟩
    · rw [Chip.axis_put, Chip.axis_setAxis]
    · exact s.chip.put_or_bit (Field.ok_of (FE_STATUS_RETRY e.val) rfl) (localOf_lt a) _
    · exact (OneAxis.refl a s.chip).setAxis _
    · exact ((FieldsBut.refl _ s.chip).of_regs rfl).put _ _ (Field.ok_of _ rfl) List.mem_cons_self
  case second =>
    intro s e a n owner region fresh second
    subst region
    have recorded := Only.recordMismatch s.chip (regionOf a) a n true
    have halted := Only.haltAxis (s.chip.recordMismatch (regionOf a) a n true) a
    refine completes_of_run (·.mismatch (regionOf a) n) rfl (Chip.mismatch_second n owner fresh second) ⟨?_, ?_, ?_, ?_, ?_⟩
    · rw [Chip.halted, Chip.report_get]
      exact Chip.haltAxis_halted ..
    · rw [Chip.modeOf, Chip.report_get]
      exact Chip.haltAxis_mode ..
    · rw [Chip.report_get, RegsBut.get (RegsBut.haltAxis _ a) (by
        refine fun h => (List.mem_cons.mp h).elim (fun same => ?_) (engine_high (.inr rfl))
        simp only [FE_MMREC_PERSIST, FE_MMREC, FE_STATUS] at same
        omega)]
      exact Chip.recordMismatch_get s.chip _ a n true rfl rfl List.mem_cons_self (Nat.lt_of_sub_eq_succ rfl)
    · rw [Chip.engine_report]
      exact Chip.haltAxis_engine _ a (recorded.engine _ |>.trans owner)
    · have before : ((s.chip.recordMismatch (regionOf a) a n true).haltAxis a).faults = s.chip.faults :=
        Eq.trans (halted.same .faults (by decide)) (recorded.same .faults (by decide))
      rw [Chip.report, if_neg (by decide), before]
end

section
-- One proof after the other: a side goal that `Only` settles by `decide` waits for the kernel, on a thread of its own.
set_option Elab.async false
/-! SUPPORT. The checkers between ticks: severity windows, the BEACON pulse, the clock, test words, injection (R277, R289, R290,
R292, R293); and the statement about them. -/
namespace Sys2Proof.Machine

theorem injMask_testBit : ∀ k j : Fin 4, (15 - 2 ^ k.val).testBit j.val = decide (j ≠ k) := by decide

section
variable (c : Chip)

/-- A window that is over ends as its sampling says. -/
theorem Chip.windowOver_eq_false {s : Nat} (h : ∀ w ∈ c.faults.windows, w.1 = s → c.now < w.2 + 250000 * c.get (FLT_CFG_T s)) :
    c.windowOver s = false := by
  rw [Chip.windowOver, List.any_eq_false]
  intro w hw
  simp only [Bool.and_eq_true, beq_iff_eq, decide_eq_true_eq, not_and, Nat.not_lt]
  intro source
  have := h w hw source
  have := (c.faults.sampledTick == some c.now).toNat_lt
  omega

/-- The bit of a checker that is disarmed is 0, and no other bit of FLT_INJS changes. -/
theorem Chip.disarm_armed (k j : Fin 4) :
    ((c.disarm k).get FLT_INJS_ARMED).testBit j.val = (decide (j ≠ k) && (c.get FLT_INJS_ARMED).testBit j.val) := by
  have mask : c.get FLT_INJS_ARMED &&& (15 - 2 ^ k.val) < 2 ^ (FLT_INJS_ARMED.hi + 1 - FLT_INJS_ARMED.lo) :=
    Nat.and_lt_two_pow _ (by revert k; decide)
  have shown : (c.disarm k).get FLT_INJS_ARMED = c.get FLT_INJS_ARMED &&& (15 - 2 ^ k.val) :=
    c.get_put_lt FLT_INJS_ARMED (Field.ok_of _ rfl) _ mask
  rw [shown, Nat.testBit_and, injMask_testBit, Bool.and_comm]

/-- The chip in which `checker` is armed for `unit`. -/
def Chip.armedFor (k : Fin 4) (unit : Nat) : Chip :=
  { c.put FLT_INJS_ARMED (c.get FLT_INJS_ARMED ||| 2 ^ k.val) with
    faults := { c.faults with inj := setAt c.faults.inj k.val (some unit) } }

theorem Chip.inject_eq (k : Fin 4) (unit : Nat) : c.inject (BitVec.ofNat 4 k.val).toNat unit =
    c.request [(c.inDark || c.inStrike, .state), (decide (injUnits k.val ≤ unit), .range),
      ((c.get FLT_INJS_ARMED).testBit k.val, .busy)] (·.armedFor k unit) := by
  have index : (BitVec.ofNat 4 k.val).toNat = k.val := by
    revert k
    decide
  rw [Chip.inject, index]
  rfl

theorem Chip.armedFor_armed (k j : Fin 4) (unit : Nat) :
    ((c.armedFor k unit).get FLT_INJS_ARMED).testBit j.val = (decide (j = k) || (c.get FLT_INJS_ARMED).testBit j.val) := by
  have fits : c.get FLT_INJS_ARMED ||| 2 ^ k.val < 2 ^ (FLT_INJS_ARMED.hi + 1 - FLT_INJS_ARMED.lo) :=
    Nat.or_lt_two_pow (FLT_INJS_ARMED.read_lt _) (Nat.pow_lt_pow_right (by decide) k.isLt)
  have shown : (c.armedFor k unit).get FLT_INJS_ARMED = c.get FLT_INJS_ARMED ||| 2 ^ k.val :=
    c.get_put_lt FLT_INJS_ARMED (Field.ok_of _ rfl) _ fits
  have bit : (2 ^ k.val).testBit j.val = decide (j = k) := by
    rw [Nat.testBit_two_pow]
    simp [Fin.ext_iff, eq_comm]
  rw [shown, Nat.testBit_or, bit, Bool.or_comm]

theorem Chip.armedFor_inj (k : Fin 4) (unit : Nat) : (c.armedFor k unit).faults.inj = c.faults.inj.set k.val (some unit) := by
  rw [Chip.armedFor, setAt, dif_pos k.isLt]

end
end Sys2Proof.Machine

open Sys2Proof.Machine

/-- Settles O34: each checker's row acts on its own field and on its own part of the collector's state. -/
theorem collectorChecks : Obligations.CollectorChecks := by
  refine ⟨⟨?expiry, ?open_, ?pulse, ?pulsing, ?clock, ?still, ?word, ?passes⟩, ?inject⟩
  case expiry =>
    intro s x over_
    refine completes_of_run (·.windowExpiry x) rfl (if_pos over_) ⟨Chip.get_put_fit s.chip (FLT_SRC_WCNT x.val) 0 rfl, ?_, rfl⟩
    exact ((FieldsBut.refl _ s.chip).put (FLT_SRC_WCNT x.val) 0 (Field.ok_of _ rfl) List.mem_cons_self).of_regs rfl
  case open_ =>
    intro s x counting
    exact idles_of_run (·.windowExpiry x) rfl (if_neg (by rw [s.chip.windowOver_eq_false counting]; decide))
  case pulse =>
    intro s ends
    have run : s.chip.beaconEnd = s.chip.put BEACON_CTL_PULSING 0 := by
      refine if_neg ?_
      rw [Bool.and_eq_true, decide_eq_true_eq]
      rintro ⟨runs, early⟩
      rcases ends with stopped | late
      · exact absurd (stopped.symm.trans runs) (by decide)
      · omega
    have off : (s.chip.put BEACON_CTL_PULSING 0).flag BEACON_CTL_PULSING = false :=
      Chip.flag_zero (Chip.get_put_fit s.chip BEACON_CTL_PULSING 0 rfl)
    refine completes_of_run Chip.beaconEnd rfl run ⟨off, (FieldsBut.refl _ s.chip).put _ _ (Field.ok_of _ rfl) List.mem_cons_self,
      fun up => ?_, rfl⟩
    have level : (s.chip.put BEACON_CTL_PULSING 0).flag BEACON_CTL_LEVEL = s.chip.flag BEACON_CTL_LEVEL :=
      Chip.flag_of_get (Chip.get_put_beside _ _ _ _ rfl)
    have stage : ((s.chip.put BEACON_CTL_PULSING 0).load.stage != .held) = true := bne_iff_ne.mpr up
    rw [Chip.beaconLow, stage, off, level]
    rfl
  case pulsing =>
    intro s runs early
    exact idles_of_run Chip.beaconEnd rfl (if_pos (by rw [runs]; exact decide_eq_true early))
  case clock =>
    intro s runs
    refine completes_of_run (fun c => c.raiseIf c.clockRuns 0xE5) rfl (d := s.chip.raise 0xE5) ?_ ⟨.raise rfl, rfl⟩
    rw [runs]
    rfl
  case still =>
    intro s stopped
    refine idles_of_run (fun c => c.raiseIf c.clockRuns 0xE5) rfl ?_
    rw [stopped]
    rfl
  case word =>
    intro s u runs armed
    refine completes_of_run (·.testWord u) rfl (if_pos (by rw [runs, armed]; rfl)) ⟨?_, ?_, ?_, ?_, ?_⟩
    · rw [Chip.disarm_faults]
      rfl
    · rw [Chip.injected, Chip.disarm_faults]
      simp
    · exact (Chip.disarm_armed _ 0 0).trans (by simp)
    · exact ((FieldsBut.refl _ s.chip).of_regs (c := s.chip.report 0xF0 1 0 0 true) rfl).trans
        (((FieldsBut.refl _ _).put FLT_INJS_ARMED _ (Field.ok_of _ rfl) List.mem_cons_self).of_regs rfl)
    · exact (((Only.report s.chip 0xF0 1 0 0 true).mono : Only [.regs, .faults] _ _).then (.disarm _ 0)).eq
  case passes =>
    intro s u clear
    exact idles_of_run (·.testWord u) rfl (if_neg (by rw [clear]; simp))
  case inject =>
    intro s p k u serving
    have lit := serving.2.2
    have conds := s.chip.inject_eq k u.toNat
    refine ⟨fun normal inUnits unarmed => ?_, fun strike => ?_, fun normal outside => ?_, fun normal inUnits busy => ?_⟩
    · have clear : judge [(s.chip.inDark || s.chip.inStrike, .state), (decide (injUnits k.val ≤ u.toNat), .range),
          ((s.chip.get FLT_INJS_ARMED).testBit k.val, .busy)] = .ok := by
        rw [lit, normal, unarmed, decide_eq_false (Nat.not_le.mpr inUnits)]
        rfl
      refine grants_of_ask (f := (·.inject (BitVec.ofNat 4 k.val).toNat u.toNat)) rfl serving
        (conds.trans (s.chip.request_ok _ _ clear)) ⟨?_, ?_, fun j hj => ⟨?_, ?_⟩, ?_, ?_⟩
      · rw [Chip.injected, Chip.armedFor_inj]
        simp
      · rw [Chip.armedFor_armed]
        simp
      · rw [Chip.armedFor_inj]
        have apart : k.val ≠ j.val := fun e => hj (Fin.ext e.symm)
        simp [apart]
      · rw [Chip.armedFor_armed]
        simp [hj]
      · exact ((FieldsBut.refl _ s.chip).put FLT_INJS_ARMED _ (Field.ok_of _ rfl) List.mem_cons_self).of_regs rfl
      · rfl
    · refine refuses_of_request (f := (·.inject (BitVec.ofNat 4 k.val).toNat u.toNat)) rfl serving conds ?_ (r := .state) (by decide)
      rw [strike, Bool.or_true]
      exact judge_head (by simp [Reason.toNat])
    · refine refuses_of_request (f := (·.inject (BitVec.ofNat 4 k.val).toNat u.toNat)) rfl serving conds ?_ (r := .range) (by decide)
      rw [lit, normal, decide_eq_true outside, Bool.or_false, judge_cons_false]
      exact judge_head (by simp [Reason.toNat])
    · refine refuses_of_request (f := (·.inject (BitVec.ofNat 4 k.val).toNat u.toNat)) rfl serving conds ?_ (r := .busy) (by decide)
      rw [lit, normal, decide_eq_false (Nat.not_le.mpr inUnits), busy]
      rfl
end

section
-- One proof after the other: a side goal that `Only` settles by `decide` waits for the kernel, on a thread of its own.
set_option Elab.async false
/-! SUPPORT. The housekeeping converters: a conversion begins, a request is taken or meets its like, a round begins (R248 to R257);
and the statement about requests. -/
namespace Sys2Proof.Machine

/-! ### The state of one converter -/

theorem OneConv.refl (n : Region) (c : Chip) : OneConv n c c := fun _ _ => rfl

theorem OneConv.trans {n : Region} {b c d : Chip} (h : OneConv n b c) (k : OneConv n c d) : OneConv n b d :=
  fun e he => (k e he).trans (h e he)

theorem OneConv.setHk {b c : Chip} {n : Region} (h : OneConv n b c) (x : HkState) : OneConv n b (c.setHk n x) :=
  fun k hk => (Chip.hk_setHk_ne c n x hk).trans (h k hk)

theorem Only.oneConv {l : List Part} {b c : Chip} (h : Only l b c) (n : Region) (hl : Part.hks ∉ l := by decide) : OneConv n b c :=
  fun q _ => h.hk q hl

section
variable (c : Chip) (n : Region) (ch cls : Nat)

/-! ### A conversion begins (R251) -/

/-- The conversion that begins. -/
def Chip.hkStarted (queued : Bool) : HkReq := ⟨ch, cls, c.hkSettle.contains ch, c.now, queued, c.get (HK_CH_RNG ch), c.hkWindow ch⟩

/-- HK_STAT shows the conversion. -/
def Chip.hkShown : Chip := ((c.put (HK_STAT_BUSY n.val) 1).put (HK_STAT_CLASS n.val) cls).put (HK_STAT_CH n.val) ch

theorem Only.hkShown : Only [.regs] c (c.hkShown n ch cls) := (((Only.refl _ c).then (.put ..)).then (.put ..)).then (.put ..)

theorem Chip.hkBegin_eq (queued : Bool) : c.hkBegin n ch cls queued =
    { (c.hkShown n ch cls).setHk n { c.hk n with running := some (c.hkStarted ch cls queued) } with
      hkSettle := c.hkSettle.filter (· != ch) } := by
  have shown := Only.hkShown c n ch cls
  have settle : (c.hkShown n ch cls).hkSettle = c.hkSettle := shown.same .hkSettle (by decide)
  rw [← settle, ← shown.hk n]
  rfl

theorem Chip.hkBegin_regs (queued : Bool) : (c.hkBegin n ch cls queued).regs = (c.hkShown n ch cls).regs := by
  rw [Chip.hkBegin_eq]
  generalize c.hkShown n ch cls = d
  rfl

theorem Chip.hkBegin_hks (queued : Bool) : (c.hkBegin n ch cls queued).hks =
    ((c.hkShown n ch cls).setHk n { c.hk n with running := some (c.hkStarted ch cls queued) }).hks := by
  rw [Chip.hkBegin_eq]

theorem Chip.hkBegin_hk (queued : Bool) (k : Region) : (c.hkBegin n ch cls queued).hk k =
    ((c.hkShown n ch cls).setHk n { c.hk n with running := some (c.hkStarted ch cls queued) }).hk k :=
  congrArg (fun v : Vector HkState 2 => v[k]) (c.hkBegin_hks n ch cls queued)

theorem Only.hkBegin (queued : Bool) : Only [.regs, .hks, .hkSettle] c (c.hkBegin n ch cls queued) := by
  have settled (d : Chip) (l : List Nat) : Only [.hkSettle] d { d with hkSettle := l } := .of_mix rfl
  rw [Chip.hkBegin_eq]
  exact (((Only.hkShown c n ch cls).mono : Only [.regs, .hks, .hkSettle] _ _).then (.setHk ..)).then (settled ..)

theorem FieldsBut.hkBegin (queued : Bool) :
    FieldsBut [HK_STAT_BUSY n.val, HK_STAT_CLASS n.val, HK_STAT_CH n.val] c (c.hkBegin n ch cls queued) := by
  have shown : FieldsBut [HK_STAT_BUSY n.val, HK_STAT_CLASS n.val, HK_STAT_CH n.val] c (c.hkShown n ch cls) :=
    (((FieldsBut.refl _ c).put _ _ (Field.ok_of _ rfl) List.mem_cons_self).put _ _ (Field.ok_of _ rfl) (by simp)).put _ _
      (Field.ok_of _ rfl) (by simp)
  exact shown.of_regs (c.hkBegin_regs ..)

theorem RegsBut.hkBegin (queued : Bool) : RegsBut [HK_STAT n.val] c (c.hkBegin n ch cls queued) := by
  have shown : RegsBut [HK_STAT n.val] c (c.hkShown n ch cls) :=
    (((RegsBut.refl _ c).put (HK_STAT_BUSY n.val) _ List.mem_cons_self).put (HK_STAT_CLASS n.val) _ List.mem_cons_self).put
      (HK_STAT_CH n.val) _ List.mem_cons_self
  exact shown.of_regs (c.hkBegin_regs ..)

theorem OneConv.hkBegin (queued : Bool) : OneConv n c (c.hkBegin n ch cls queued) := by
  intro k hk
  rw [Chip.hkBegin_hk]
  exact ((Only.hkShown c n ch cls).oneConv n).setHk _ k hk

theorem Chip.hk_hkBegin (queued : Bool) :
    (c.hkBegin n ch cls queued).hk n = { c.hk n with running := some (c.hkStarted ch cls queued) } := by
  rw [Chip.hkBegin_hk, Chip.hk_setHk]

theorem Chip.hkBegin_stat (queued : Bool) (hc : cls < 4) : (c.hkBegin n ch cls queued).get (HK_STAT_BUSY n.val) = 1 ∧
    (c.hkBegin n ch cls queued).get (HK_STAT_CLASS n.val) = cls ∧ (c.hkBegin n ch cls queued).get (HK_STAT_CH n.val) = ch % 64 := by
  simp only [Chip.get_of_regs (c.hkBegin_regs n ch cls queued)]
  refine ⟨?_, ?_, Chip.get_put _ _ (Field.ok_of _ rfl) _⟩
  · rw [Chip.hkShown, Chip.get_put_beside _ _ _ _ rfl, Chip.get_put_beside _ _ _ _ rfl]
    exact Chip.get_put_fit c _ 1 rfl
  · rw [Chip.hkShown, Chip.get_put_beside _ _ _ _ rfl]
    exact Chip.get_put_lt _ _ (Field.ok_of _ rfl) _ hc

/-! ### A request is taken (R253) -/

theorem Only.hkPutBack : Only [.hks, .hkSettle] c (c.hkPutBack n) := by
  unfold Chip.hkPutBack
  dsimp only
  split
  · exact .refl ..
  next r _ =>
    have back (x : HkState) : Only [.hks, .hkSettle] c (c.setHk n x) := (Only.setHk ..).mono
    exact Only.ite ((back _).then (m := [.hkSettle]) (.of_mix rfl)) (back _)

theorem OneConv.hkPutBack : OneConv n c (c.hkPutBack n) := by
  unfold Chip.hkPutBack
  dsimp only
  split
  · exact OneConv.refl n c
  · split
    · exact (OneConv.refl n c).setHk _
    · exact (OneConv.refl n c).setHk _

/-- The converter is free for a request, an aborted conversion being counted. -/
def Chip.hkFreed : Chip := if !c.hkIdle n then (c.hkPutBack n).bump (HK_CNT_ABORTS n.val) 1 else c.hkPutBack n

theorem Chip.hkTake_eq : c.hkTake n ch cls = (c.hkFreed n).hkBegin n ch cls false := rfl

theorem Only.hkFreed : Only [.regs, .fresh, .hks, .hkSettle] c (c.hkFreed n) := by
  have back : Only [.regs, .fresh, .hks, .hkSettle] c (c.hkPutBack n) := (Only.hkPutBack c n).mono
  exact Only.ite (back.then (.bump ..)) back

theorem OneConv.hkFreed : OneConv n c (c.hkFreed n) := by
  unfold Chip.hkFreed
  split
  · exact (OneConv.hkPutBack c n).trans ((Only.bump ..).oneConv n)
  · exact .hkPutBack c n

theorem FieldsBut.hkFreed : FieldsBut [HK_CNT_ABORTS n.val] c (c.hkFreed n) := by
  have back := (Only.hkPutBack c n).fieldsBut [HK_CNT_ABORTS n.val]
  unfold Chip.hkFreed
  split
  · exact back.bump _ 1 (Field.ok_of _ rfl) List.mem_cons_self
  · exact back

theorem RegsBut.hkFreed : RegsBut [HK_CNT n.val] c (c.hkFreed n) := by
  have back : RegsBut [HK_CNT n.val] c (c.hkPutBack n) := fun x _ => (Only.hkPutBack c n).reg x
  exact RegsBut.ite (back.bump (HK_CNT_ABORTS n.val) 1 List.mem_cons_self) back

theorem Chip.hkFreed_aborts : (c.hkFreed n).get (HK_CNT_ABORTS n.val) =
    if c.hkIdle n then c.get (HK_CNT_ABORTS n.val) else min (c.get (HK_CNT_ABORTS n.val) + 1) 65535 := by
  unfold Chip.hkFreed
  cases c.hkIdle n
  · exact (Chip.get_bump _ _ (Field.ok_of _ rfl) 1).trans (by rw [(Only.hkPutBack c n).get]; rfl)
  · exact (Only.hkPutBack c n).get _

/-- The counters of a converter lie below its channels' settings and above the periods. -/
theorem hkSettings_apart {x : Nat} (hx : (∃ k, x = HK_CH k) ∨ ∃ k, k < 24 ∧ x = LEG_PERIOD k) : x ∉ [HK_CNT n.val] := by
  have := n.isLt
  rcases hx with ⟨k, rfl⟩ | ⟨k, hk, rfl⟩ <;> simp only [HK_CH, LEG_PERIOD, HK_CNT, List.mem_singleton] <;> omega

theorem RegsBut.hkWindow {b c : Chip} {l : List Nat} (h : RegsBut l b c) (hl : ∀ x, ((∃ k, x = HK_CH k) ∨ ∃ k, k < 24 ∧ x = LEG_PERIOD k) → x ∉ l)
    (ch : Nat) : c.hkWindow ch = b.hkWindow ch := by
  have setting (f : Field) (hf : f.addr = HK_CH ch) : c.get f = b.get f := h.get (hl _ (.inl ⟨ch, hf⟩))
  have period (a : Axis) : c.period a = b.period a :=
    h.get (g := LEG_PERIOD_PERIOD (3 * a.val)) (hl _ (.inr ⟨3 * a.val, by omega, rfl⟩))
  simp only [Chip.hkWindow, Chip.flag, setting (HK_CH_WMODE ch) rfl, setting (HK_CH_NPER ch) rfl, setting (HK_CH_WLEN ch) rfl,
    setting (HK_CH_WAXIS ch) rfl, period]
  rfl

theorem Only.hkTake : Only [.regs, .fresh, .hks, .hkSettle] c (c.hkTake n ch cls) := by
  rw [Chip.hkTake_eq]
  exact (Only.hkFreed c n).then (.hkBegin ..)

theorem ConversionBegins.hkTake (hc : cls < 4) : ConversionBegins n ch cls c (c.hkTake n ch cls) := by
  have freed := FieldsBut.hkFreed c n
  have settings := RegsBut.hkFreed c n
  obtain ⟨busy, class_, channel⟩ := (c.hkFreed n).hkBegin_stat n ch cls false hc
  rw [Chip.hkTake_eq]
  refine ⟨⟨(c.hkFreed n).hkStarted ch cls false, by rw [Chip.hk_hkBegin], rfl, rfl, ?_, ?_, ?_⟩, busy, class_, channel, ?_, ?_, ?_⟩
  · exact (Only.hkFreed c n).same .now (by decide)
  · exact settings.get (hkSettings_apart n (.inl ⟨ch, rfl⟩))
  · exact settings.hkWindow (fun _ => hkSettings_apart n) ch
  · refine Eq.trans (FieldsBut.hkBegin _ n ch cls false _ (Field.ok_of _ rfl) ?_) (c.hkFreed_aborts n)
    have far : (HK_CNT_ABORTS n.val).addr ≠ HK_STAT n.val := by
      simp only [HK_CNT_ABORTS, HK_CNT, HK_STAT]
      omega
    simpa using ⟨.inl far, .inl far, .inl far⟩
  · exact (OneConv.hkFreed c n).trans (OneConv.hkBegin _ n ch cls false)
  · exact (freed.mono (by simp)).trans ((FieldsBut.hkBegin _ n ch cls false).mono (by simp))

/-! ### A request taken, or ignored as a flagged overrun (R252) -/

/-- The overrun that a pin's or a cue's request leaves. -/
def Chip.hkOverrun : Chip :=
  (c.bump (HK_CNT_OVERRUN n.val) 1).setHk n { (c.bump (HK_CNT_OVERRUN n.val) 1).hk n with overrun := true }

theorem Chip.hkAsk_taken (h : c.hkMeets n cls = false) : c.hkAsk n cls = c.hkTake n (c.hkSel n) cls := if_neg (by simp [h])

theorem Chip.hkAsk_overrun (h : c.hkMeets n cls = true) : c.hkAsk n cls = c.hkOverrun n := if_pos h

theorem Only.hkOverrun : Only [.regs, .fresh, .hks] c (c.hkOverrun n) :=
  ((Only.bump c _ 1).mono : Only [.regs, .fresh, .hks] _ _).then (.setHk ..)

theorem OneConv.hkOverrun : OneConv n c (c.hkOverrun n) := ((Only.bump c _ 1).oneConv n).setHk _

theorem Chip.hkOverrun_shows : (c.hkOverrun n).get (HK_CNT_OVERRUN n.val) = min (c.get (HK_CNT_OVERRUN n.val) + 1) 65535 ∧
    (c.hkOverrun n).hk n = { c.hk n with overrun := true } ∧ FieldsBut [HK_CNT_OVERRUN n.val] c (c.hkOverrun n) := by
  refine ⟨?_, ?_, ?_⟩
  · rw [Chip.hkOverrun, Chip.setHk_get]
    exact Chip.get_bump c _ (Field.ok_of _ rfl) 1
  · rw [Chip.hkOverrun, Chip.hk_setHk, Chip.hk_bump]
  · exact ((FieldsBut.refl _ c).bump _ 1 (Field.ok_of _ rfl) List.mem_cons_self).of_regs rfl

theorem Only.hkAsk : Only [.regs, .fresh, .hks, .hkSettle] c (c.hkAsk n cls) := by
  cases h : c.hkMeets n cls
  · rw [c.hkAsk_taken n cls h]
    exact .hkTake ..
  · rw [c.hkAsk_overrun n cls h]
    exact (Only.hkOverrun ..).mono

theorem OneConv.hkTake : OneConv n c (c.hkTake n ch cls) := by
  rw [Chip.hkTake_eq]
  exact (OneConv.hkFreed c n).trans (OneConv.hkBegin _ n ch cls false)

theorem OneConv.hkAsk : OneConv n c (c.hkAsk n cls) := by
  cases h : c.hkMeets n cls
  · rw [c.hkAsk_taken n cls h]
    exact OneConv.hkTake c n _ cls
  · rw [c.hkAsk_overrun n cls h]
    exact OneConv.hkOverrun c n

/-- What a pin's or a cue's request comes to. -/
theorem Chip.hkAsk_asks (hc : cls < 4) :
    (c.hkMeets n cls = false → ConversionBegins n (c.hkSel n) cls c (c.hkAsk n cls)) ∧
    (c.hkMeets n cls = true → (c.hkAsk n cls).get (HK_CNT_OVERRUN n.val) = min (c.get (HK_CNT_OVERRUN n.val) + 1) 65535 ∧
      (c.hkAsk n cls).hk n = { c.hk n with overrun := true } ∧ FieldsBut [HK_CNT_OVERRUN n.val] c (c.hkAsk n cls)) := by
  refine ⟨fun free => ?_, fun meets => ?_⟩
  · rw [c.hkAsk_taken n cls free]
    exact .hkTake c n _ cls hc
  · rw [c.hkAsk_overrun n cls meets]
    exact c.hkOverrun_shows n

/-! ### Rounds (R256) -/

/-- With nothing running and nothing queued before it, the round's first channel begins. -/
theorem Chip.hkNext_round {l : List Nat} (idle : (c.hk n).running = none) (urgent : (c.hk n).urgent = []) (requeued : (c.hk n).requeued = [])
    (round : (c.hk n).round = ch :: l) : c.hkNext n = (c.setHk n { c.hk n with round := l }).hkBegin n ch 1 true := by
  rw [Chip.hkNext]
  simp only [idle, Option.isSome_none, Bool.false_eq_true, if_false, urgent, requeued, round]

/-- The next conversion of a converter: one of its queues gives it, or HK_STAT shows that nothing runs. -/
theorem Chip.hkNext_cases {P : Chip → Prop} (same : P c)
    (begins : ∀ (x : HkState) ch cls, x.inRound = (c.hk n).inRound → x.lateRound = (c.hk n).lateRound →
      P ((c.setHk n x).hkBegin n ch cls true))
    (rests : P (((c.put (HK_STAT_BUSY n.val) 0).put (HK_STAT_CLASS n.val) 0).put (HK_STAT_CH n.val) 0)) : P (c.hkNext n) := by
  unfold Chip.hkNext
  dsimp only
  split
  · exact same
  · split
    · exact begins _ _ _ rfl rfl
    · exact begins _ _ _ rfl rfl
    · exact begins _ _ _ rfl rfl
    · exact rests

/-- What the rows of a round leave alone. -/
structure RoundFrame (n : Region) (b c : Chip) : Prop where
  only : Only [.regs, .fresh, .hks, .hkSettle] b c
  others : OneConv n b c
  regs : RegsBut [HK_STAT n.val] b c

theorem RoundFrame.trans {n : Region} {b c d : Chip} (h : RoundFrame n b c) (k : RoundFrame n c d) : RoundFrame n b d :=
  ⟨h.only.trans k.only, h.others.trans k.others, h.regs.trans k.regs⟩

theorem RoundFrame.setHk (x : HkState) : RoundFrame n c (c.setHk n x) :=
  ⟨(Only.setHk ..).mono, (OneConv.refl n c).setHk x, (RegsBut.refl _ c).of_regs rfl⟩

theorem RoundFrame.hkBegin (queued : Bool) : RoundFrame n c (c.hkBegin n ch cls queued) :=
  ⟨(Only.hkBegin ..).mono, OneConv.hkBegin c n ch cls queued, RegsBut.hkBegin c n ch cls queued⟩

theorem RoundFrame.hkNext : RoundFrame n c (c.hkNext n) := by
  have rests : Only [.regs] c (((c.put (HK_STAT_BUSY n.val) 0).put (HK_STAT_CLASS n.val) 0).put (HK_STAT_CH n.val) 0) :=
    (((Only.refl _ c).then (.put ..)).then (.put ..)).then (.put ..)
  refine c.hkNext_cases n ⟨.refl .., OneConv.refl n c, RegsBut.refl _ c⟩ (fun x ch cls _ _ => ?_) ⟨rests.mono, rests.oneConv n, ?_⟩
  · exact (RoundFrame.setHk c n x).trans (.hkBegin ..)
  · exact (((RegsBut.refl _ c).put (HK_STAT_BUSY n.val) _ List.mem_cons_self).put (HK_STAT_CLASS n.val) _ List.mem_cons_self).put
      (HK_STAT_CH n.val) _ List.mem_cons_self

theorem Chip.hkNext_inRound : ((c.hkNext n).hk n).inRound = (c.hk n).inRound := by
  refine c.hkNext_cases (P := fun d => (d.hk n).inRound = (c.hk n).inRound) n rfl (fun x ch cls same _ => ?_) ?_
  · rw [Chip.hk_hkBegin, Chip.hk_setHk]
    exact same
  · rw [Chip.hk_put, Chip.hk_put, Chip.hk_put]

/-- The round of converter `n` begins, or is late. -/
structure RoundBegun (n : Region) (b c : Chip) : Prop where
  late : (b.hk n).inRound = true → (c.hk n).lateRound = true ∧ c.flag (HK_STAT_ROUND_LATE n.val) = true
  begun : (b.hk n).inRound = false → (c.hk n).inRound = !(b.roundList n).isEmpty
  first : ∀ ch l, (b.hk n).inRound = false → (b.hk n).running = none → (b.hk n).urgent = [] → (b.hk n).requeued = [] →
    b.roundList n = ch :: l → (∃ q, (c.hk n).running = some q ∧ q.ch = ch ∧ q.cls = 1) ∧ (c.hk n).round = l

theorem Chip.hkRound_late (inRound : (c.hk n).inRound = true) : c.hkRound n =
    (c.mark (HK_STAT_ROUND_LATE n.val)).setHk n { c.hk n with lateRound := true } := by
  simp [Chip.hkRound, inRound]

theorem Chip.hkRound_begins (inRound : (c.hk n).inRound = false) : c.hkRound n =
    (c.setHk n { c.hk n with inRound := !(c.roundList n).isEmpty, round := c.roundList n }).hkNext n := by
  simp [Chip.hkRound, inRound]

theorem RoundFrame.hkRound : RoundFrame n c (c.hkRound n) := by
  cases h : (c.hk n).inRound
  · rw [c.hkRound_begins n h]
    exact (RoundFrame.setHk c n _).trans (.hkNext ..)
  · rw [c.hkRound_late n h]
    have marked : RoundFrame n c (c.mark (HK_STAT_ROUND_LATE n.val)) :=
      ⟨(Only.mark ..).mono, (Only.mark ..).oneConv n, (RegsBut.refl _ c).mark _ List.mem_cons_self⟩
    exact marked.trans (.setHk ..)

theorem RoundBegun.hkRound : RoundBegun n c (c.hkRound n) := by
  refine ⟨fun inRound => ?_, fun inRound => ?_, fun ch l inRound idle urgent requeued round => ?_⟩
  · rw [c.hkRound_late n inRound, Chip.hk_setHk]
    refine ⟨rfl, Chip.flag_one ?_⟩
    rw [Chip.setHk_get]
    exact Chip.get_mark _ _ (Field.ok_of _ rfl)
  · rw [c.hkRound_begins n inRound, Chip.hkNext_inRound, Chip.hk_setHk]
  · rw [c.hkRound_begins n inRound, Chip.hkNext_round (l := l) (ch := ch)]
    · rw [Chip.hk_hkBegin, Chip.hk_setHk]
      exact ⟨⟨_, rfl, rfl, rfl⟩, by simp⟩
    all_goals
      rw [Chip.hk_setHk]
      assumption

/-- The list of a round is read in registers that no round changes. -/
theorem RegsBut.roundList {b c : Chip} {m : Region} (h : RegsBut [HK_STAT m.val] b c) (n : Region) : c.roundList n = b.roundList n := by
  have reads (f : Field) (hf : (∃ k, f.addr = HK_CH k) ∨ f.addr = HK_MODE) : c.get f = b.get f := by
    refine h.get ?_
    have := m.isLt
    rcases hf with ⟨k, e⟩ | e <;> rw [e] <;> simp only [HK_CH, HK_MODE, HK_STAT, List.mem_singleton] <;> omega
  have enabled (ch : Nat) : c.channelOk ch = b.channelOk ch := by
    rw [Chip.channelOk, Chip.channelOk, Chip.flag_of_get (reads (HK_CH_EN ch) (.inl ⟨ch, rfl⟩))]
  have owner (ch : Nat) : c.convOf ch = b.convOf ch := by
    rw [Chip.convOf]
    simp only [reads (HK_CH_CONV ch) (.inl ⟨ch, rfl⟩)]
    rfl
  simp only [Chip.roundList, enabled, owner, reads HK_MODE_XCH (.inr rfl)]

theorem RoundBegun.of_same {n : Region} {a b c d : Chip} (h : RoundBegun n b c) (hk : b.hk n = a.hk n) (list : b.roundList n = a.roundList n)
    (hk' : d.hk n = c.hk n) (flag : d.flag (HK_STAT_ROUND_LATE n.val) = c.flag (HK_STAT_ROUND_LATE n.val)) : RoundBegun n a d := by
  obtain ⟨late, begun, first⟩ := h
  rw [hk] at late
  rw [hk, list] at begun
  rw [hk, list] at first
  refine ⟨?_, ?_, ?_⟩
  · rw [hk', flag]
    exact late
  · rw [hk']
    exact begun
  · rw [hk']
    exact first

/-- Both converters begin their rounds. -/
theorem RoundBegun.both : RoundBegun n c ((c.hkRound 0).hkRound 1) := by
  have zero := RoundFrame.hkRound c 0
  have one := RoundFrame.hkRound (c.hkRound 0) 1
  match n with
  | 0 =>
    refine (RoundBegun.hkRound c 0).of_same rfl rfl (one.others 0 (by decide)) (Chip.flag_of_get (one.regs.get ?_))
    decide
  | 1 => exact (RoundBegun.hkRound (c.hkRound 0) 1).of_same (zero.others 1 (by decide)) (zero.regs.roundList 1) rfl rfl

/-! ### HOT sensors (R257) -/

/-- Channel `ch` waits as an urgent request of converter `n`, or is converted as one. -/
def Served (n : Region) (ch : Nat) (c : Chip) : Prop :=
  ch ∈ (c.hk n).urgent ∨ ∃ q, (c.hk n).running = some q ∧ q.ch = ch ∧ q.cls = 3

theorem Served.of_hk {n : Region} {ch : Nat} {b c : Chip} (h : Served n ch b) (same : c.hk n = b.hk n) : Served n ch c := by
  rw [Served, same]
  exact h

/-- An urgent conversion that is put back waits, and so does every other. -/
theorem Served.hkPutBack {n : Region} {x : Nat} {c : Chip} (h : Served n x c) : x ∈ ((c.hkPutBack n).hk n).urgent := by
  have mark (d : Chip) (l : List Nat) (p : Prop) [Decidable p] : (if p then { d with hkSettle := l } else d).hk n = d.hk n := by
    split <;> rfl
  unfold Chip.hkPutBack
  dsimp only
  split
  next idle =>
    rcases h with waits | ⟨q, running, -⟩
    · exact waits
    · exact absurd (idle.symm.trans running) (by simp)
  next r running =>
    rw [mark, Chip.hk_setHk]
    rcases h with waits | ⟨q, running', channel, class_⟩
    · split
      · exact List.mem_cons_of_mem _ waits
      · exact waits
    · obtain rfl : r = q := Option.some.inj (running.symm.trans running')
      rw [if_pos class_, channel]
      exact List.mem_cons_self

/-- A request that is taken leaves the urgent ones where they were served. -/
theorem Served.hkTake {n m : Region} {x : Nat} {c : Chip} (h : Served n x c) (ch cls : Nat) : Served n x (c.hkTake m ch cls) := by
  by_cases same : n = m
  · subst same
    have freed : x ∈ ((c.hkFreed n).hk n).urgent := by
      unfold Chip.hkFreed
      split
      · rw [Chip.hk_bump]
        exact h.hkPutBack
      · exact h.hkPutBack
    rw [Chip.hkTake_eq]
    exact .inl (by rw [Chip.hk_hkBegin]; exact freed)
  · exact h.of_hk (OneConv.hkTake c m ch cls n same)

theorem Served.internalUrgent {n m : Region} {x : Nat} {c : Chip} (h : Served n x c) (ch : Nat) : Served n x (c.internalUrgent m ch) := by
  unfold Chip.internalUrgent
  split
  · exact h
  · split
    · by_cases same : n = m
      · subst same
        rcases h with waits | running
        · exact .inl (by rw [Chip.hk_setHk]; exact List.mem_append_left _ waits)
        · exact .inr (by rw [Chip.hk_setHk]; exact running)
      · exact h.of_hk (Chip.hk_setHk_ne _ _ _ same)
    · exact h.hkTake ch 3

/-- An urgent request of a channel that may be converted is served. -/
theorem Chip.internalUrgent_served (runs : c.hkRuns = true) (ok : c.channelOk ch = true) : Served n ch (c.internalUrgent n ch) := by
  rw [Chip.internalUrgent, if_neg (by simp [runs, ok])]
  split
  · exact .inl (by rw [Chip.hk_setHk]; simp)
  · obtain ⟨⟨q, running, channel, class_, -⟩, -⟩ := ConversionBegins.hkTake c n ch 3 (by decide)
    exact .inr ⟨q, running, channel, class_⟩

/-- The registers that urgent requests change. -/
def urgentRegs : List Nat := [HK_STAT 0, HK_STAT 1, HK_CNT 0, HK_CNT 1]

theorem urgentRegs_apart {x : Nat} (hx : (∃ k, x = HK_CH k) ∨ x = SYS_STATUS) : x ∉ urgentRegs := by
  rcases hx with ⟨k, rfl⟩ | rfl
  · simp only [urgentRegs, HK_CH, HK_STAT, HK_CNT, List.mem_cons, List.not_mem_nil, or_false]
    omega
  · decide

theorem RegsBut.hkTake : RegsBut [HK_CNT n.val, HK_STAT n.val] c (c.hkTake n ch cls) := by
  have freed : RegsBut [HK_CNT n.val, HK_STAT n.val] c (c.hkFreed n) := fun x hx => RegsBut.hkFreed c n x fun h => hx (by
    rw [List.mem_singleton.mp h]
    exact List.mem_cons_self)
  have begun : RegsBut [HK_CNT n.val, HK_STAT n.val] (c.hkFreed n) ((c.hkFreed n).hkBegin n ch cls false) := fun x hx =>
    RegsBut.hkBegin _ n ch cls false x fun h => hx (List.mem_cons_of_mem _ h)
  rw [Chip.hkTake_eq]
  exact freed.trans begun

theorem RegsBut.internalUrgent : RegsBut urgentRegs c (c.internalUrgent n ch) := by
  unfold Chip.internalUrgent
  refine RegsBut.ite (RegsBut.refl _ c) (RegsBut.ite ((RegsBut.refl _ c).of_regs rfl) fun x hx => RegsBut.hkTake c n ch 3 x fun h => hx ?_)
  match n with
  | 0 => exact (by decide : [HK_CNT 0, HK_STAT 0] ⊆ urgentRegs) h
  | 1 => exact (by decide : [HK_CNT 1, HK_STAT 1] ⊆ urgentRegs) h

theorem Only.internalUrgent : Only [.regs, .fresh, .hks, .hkSettle] c (c.internalUrgent n ch) := by
  unfold Chip.internalUrgent
  exact Only.ite (.refl ..) (Only.ite ((Only.setHk ..).mono) (.hkTake ..))

/-- Whether conversions run, which channels may be converted and who owns them stands in other registers. -/
theorem RegsBut.channels {b c : Chip} (h : RegsBut urgentRegs b c) (ch : Nat) :
    c.hkRuns = b.hkRuns ∧ c.channelOk ch = b.channelOk ch ∧ c.convOf ch = b.convOf ch := by
  have reads (f : Field) (hf : (∃ k, f.addr = HK_CH k) ∨ f.addr = SYS_STATUS) : c.get f = b.get f := h.get (urgentRegs_apart hf)
  refine ⟨?_, ?_, ?_⟩
  · rw [Chip.hkRuns, Chip.hkRuns, Chip.inDark, Chip.inDark, Chip.cfgOk, Chip.cfgOk, reads SYS_STATUS_PSTATE (.inr rfl),
      Chip.flag_of_get (reads SYS_STATUS_CFG_OK (.inr rfl))]
  · rw [Chip.channelOk, Chip.channelOk, Chip.flag_of_get (reads (HK_CH_EN ch) (.inl ⟨ch, rfl⟩))]
  · rw [Chip.convOf]
    simp only [reads (HK_CH_CONV ch) (.inl ⟨ch, rfl⟩)]
    rfl

/-- The sensors that are HOT. -/
def Chip.hotSensors : List Sensor := allSensors.filter fun s => c.sensorOn s && c.flag (TMP_STAT_HOT s.val)

theorem Chip.mem_hotSensors {x : Sensor} (on : c.sensorOn x = true) (hot : c.flag (TMP_STAT_HOT x.val) = true) : x ∈ c.hotSensors := by
  have all : ∀ y : Sensor, y ∈ allSensors := by decide
  exact List.mem_filter.mpr ⟨all x, by rw [on, hot]; rfl⟩

/-- The urgent request of a sensor. -/
def Chip.hotUrgent (c : Chip) (s : Sensor) : Chip := c.internalUrgent (c.convOf (channelOf s)) (channelOf s)

theorem RegsBut.hotUrgent : RegsBut urgentRegs c (c.each c.hotSensors Chip.hotUrgent) :=
  Chip.each_keeps (P := RegsBut urgentRegs c) _ (RegsBut.refl _ c) fun d hd _ _ => hd.trans (RegsBut.internalUrgent d _ _)

theorem Only.hotUrgent : Only [.regs, .fresh, .hks, .hkSettle] c (c.each c.hotSensors Chip.hotUrgent) :=
  Only.each _ _ fun _ _ _ => .internalUrgent ..

/-- Each HOT sensor whose channel may be converted is served, and the others' requests leave it so. -/
theorem Chip.hotUrgent_served (runs : c.hkRuns = true) {x : Sensor} (hx : x ∈ c.hotSensors) (ok : c.channelOk (channelOf x) = true) :
    Served (c.convOf (channelOf x)) (channelOf x) (c.each c.hotSensors Chip.hotUrgent) := by
  refine Chip.each_brings (P := fun d => RegsBut urgentRegs c d → Served (c.convOf (channelOf x)) (channelOf x) d) c _ hx
    (fun d after => ?_) (fun d served y _ after => ?_) (RegsBut.hotUrgent c)
  · have before : RegsBut urgentRegs c d := fun a ha => (RegsBut.internalUrgent d _ _ a ha).symm.trans (after a ha)
    obtain ⟨runs', ok', owner⟩ := before.channels (channelOf x)
    rw [← owner]
    exact d.internalUrgent_served _ _ (runs'.trans runs) (ok'.trans ok)
  · have before : RegsBut urgentRegs c d := fun a ha => (RegsBut.internalUrgent d _ _ a ha).symm.trans (after a ha)
    exact (served before).internalUrgent _

end
end Sys2Proof.Machine

open Sys2Proof.Machine

/-- Settles O30: each request comes to one taking of its converter, or to what meets it. -/
theorem conversionRequests : Obligations.ConversionRequests := by
  refine ⟨?host, ⟨?edge, ?unselected, ?cue, ?noop⟩, ⟨?round, ?early, ?adaptive, ?fixed⟩⟩
  case host =>
    intro s p n cls i listed serving
    have row : exec i s = s.ask p (·.hkCommand n cls) ∧ cls < 4 := by
      simp only [List.mem_cons, Prod.mk.injEq, List.not_mem_nil, or_false] at listed
      rcases listed with ⟨rfl, rfl⟩ | ⟨rfl, rfl⟩
      · exact ⟨rfl, by decide⟩
      · exact ⟨rfl, by decide⟩
    obtain ⟨row, small⟩ := row
    refine ⟨fun runs ok free => ?_, fun stopped => ?_, fun runs bad => ?_, fun runs ok meets => ?_⟩
    · have clear : judge [(!s.chip.hkRuns, .state), (!s.chip.channelOk (s.chip.hkSel n), .range), (s.chip.hkMeets n cls, .busy)] = .ok := by
        rw [runs, ok, free]
        rfl
      exact grants_of_ask row serving (s.chip.request_ok _ _ clear)
        ⟨.hkTake s.chip n _ cls small, (Only.hkTake s.chip n (s.chip.hkSel n) cls).eq⟩
    · refine refuses_of_request row serving rfl (?_ : judge _ = .state) (by decide)
      rw [stopped]
      exact judge_head (by simp [Reason.toNat])
    · refine refuses_of_request row serving rfl (?_ : judge _ = .range) (by decide)
      rw [runs, bad, Bool.not_true, judge_cons_false]
      exact judge_head (by simp [Reason.toNat])
    · refine refuses_of_request row serving rfl (?_ : judge _ = .busy) (by decide)
      rw [runs, ok, meets]
      rfl
  case edge =>
    intro s n rising runs ok selected
    have run : s.chip.hkEdge n rising = s.chip.hkAsk n 2 := if_pos (by rw [runs, selected, ok]; rfl)
    obtain ⟨taken, overrun⟩ := s.chip.hkAsk_asks n 2 (by decide)
    exact completes_of_run (·.hkEdge n rising) rfl run ⟨taken, overrun, OneConv.hkAsk s.chip n 2, (Only.hkAsk s.chip n 2).eq⟩
  case unselected =>
    intro s n rising unselected
    exact idles_of_run (·.hkEdge n rising) rfl (if_neg (by rw [unselected]; simp))
  case cue =>
    intro s k f n cls fires conv class_ runs ok
    have small : cls < 4 := by
      rw [class_]
      split <;> decide
    obtain ⟨taken, overrun⟩ := (s.chip.endFire f).hkAsk_asks n cls small
    have only := Only.hkAsk (s.chip.endFire f) n cls
    refine completes_of_fire rfl fires (fun action => ?_) (d := (s.chip.endFire f).hkAsk n cls) (fun action => ?_)
      ⟨only.same .cues (by decide), taken, overrun, OneConv.hkAsk (s.chip.endFire f) n cls, ?_⟩
    · rw [Chip.fireAble, action]
      change ((s.chip.endFire f).hkRuns && (s.chip.endFire f).channelOk ((s.chip.endFire f).hkSel (fireConv f))) = true
      rw [conv]
      exact Bool.and_eq_true_iff.mpr ⟨runs, ok⟩
    · rw [Chip.fireEffect, action, ← conv, class_]
      rfl
    · exact (((Only.endFire s.chip f).mono : Only [.regs, .fresh, .hks, .hkSettle, .cues] _ _).trans only.mono).eq
  case noop =>
    intro s k f fires unable
    refine completes_noop rfl fires fun action => ?_
    rw [Chip.fireAble, action]
    exact unable
  case round =>
    intro s runs due fresh
    have begun (n) := RoundBegun.both s.chip n
    have zero := RoundFrame.hkRound s.chip 0
    have one := RoundFrame.hkRound (s.chip.hkRound 0) 1
    have only := zero.only.trans one.only
    have regs : RegsBut [HK_STAT 0, HK_STAT 1] s.chip ((s.chip.hkRound 0).hkRound 1) := fun x hx =>
      (one.regs x fun h => hx (by rw [List.mem_singleton.mp h]; exact List.mem_cons_of_mem _ List.mem_cons_self)).trans
        (zero.regs x fun h => hx (by rw [List.mem_singleton.mp h]; exact List.mem_cons_self))
    have run : s.chip.hkRoundStart = { (s.chip.hkRound 0).hkRound 1 with roundTick := some s.chip.now } := by
      refine if_pos ?_
      simp [Chip.roundDue, runs, due, fresh]
    generalize (s.chip.hkRound 0).hkRound 1 = d at begun only regs run
    have ticked : Only [.roundTick] d { d with roundTick := some s.chip.now } := .of_mix rfl
    refine completes_of_run Chip.hkRoundStart rfl run ⟨fun n => (begun n).late, fun n => (begun n).begun,
      fun n ch l => (begun n).first ch l, regs, ?_⟩
    exact ((only.mono : Only [.regs, .fresh, .hks, .hkSettle, .roundTick] _ _).trans ticked.mono).eq
  case early =>
    intro s early
    refine idles_of_run Chip.hkRoundStart rfl (if_neg ?_)
    rcases early with stopped | early
    · simp [Chip.roundDue, stopped]
    · simp [Chip.roundDue, early]
  case adaptive =>
    intro s runs mode
    have run : s.chip.adaptive = s.chip.each (s.chip.hotSensors) Chip.hotUrgent := if_pos (by rw [runs, mode]; rfl)
    refine completes_of_run Chip.adaptive rfl run ⟨fun x on hot ok => ?_, RegsBut.hotUrgent s.chip, (Only.hotUrgent s.chip).eq⟩
    exact s.chip.hotUrgent_served runs (s.chip.mem_hotSensors on hot) ok
  case fixed =>
    intro s fixed
    exact idles_of_run Chip.adaptive rfl (if_neg (by rw [fixed]; simp))
end

section
-- One proof after the other: a side goal that `Only` settles by `decide` waits for the kernel, on a thread of its own.
set_option Elab.async false
/-! SUPPORT. Admission of a pack and the ride ledgers (R240 to R246); and the statement about them. -/
namespace Sys2Proof.Machine

section
variable (c : Chip) (r : Region)

/-! ### Precharge (R242) -/

theorem Only.faults {l : List Part} {b c : Chip} (h : Only l b c) (hl : Part.faults ∉ l := by decide) : c.faults = b.faults := h.same .faults hl

theorem Chip.adm_put {v : Nat} (hv : v < 4) : (c.put (BUS_STAT_ADM r.val) v).adm r = v :=
  Chip.get_put_lt c _ (Field.ok_of _ rfl) v (hv.trans_le (Nat.le_of_eq rfl))

/-- The chip after a modulator clock of precharge, before the pack's voltage is judged. -/
def Chip.ramped : Chip :=
  let b := c.bus r
  let i := min (100000 * c.get (BUS_ADM2_IPRE r.val)) (b.iRef + 16 * c.get (BUS_ADM2_IRAMP r.val))
  let d := ((b.vPack : Int) * c.get (BUS_ADM_CBUS r.val) - b.vRef * 131072).sign
  c.setBus r { b with iRef := i, vRef := b.vRef + d * i * 16, preClock := c.now }

theorem Only.ramped : Only [.buses] c (c.ramped r) := .setBus ..

theorem Chip.bus_ramped : ((c.ramped r).bus r).iRef =
      min (100000 * c.get (BUS_ADM2_IPRE r.val)) ((c.bus r).iRef + 16 * c.get (BUS_ADM2_IRAMP r.val)) ∧
    ((c.ramped r).bus r).preClock = c.now := by
  rw [Chip.ramped, Chip.bus_setBus]
  exact ⟨rfl, rfl⟩

/-- What separates the pack's voltage from the bus voltage. -/
def Chip.packGap : Nat := (((c.bus r).vPack : Int) - (c.get (BUS_FAST_V r.val) : Int) * 10000000 * 131072).natAbs

/-- The chip with the pack's admission shown and counted. -/
def Chip.admitShown : Chip := (c.put (BUS_STAT_ADM r.val) 2).bump (BUS_SWAPS_ADMITS r.val) 1

theorem Chip.admitted_eq : c.admitted r = (c.admitShown r).setBus r
    { c.bus r with gate := if c.faults.fire then 0 else 64, gateTick := c.now, rmvRun := 0, vStart := c.get (BUS_FAST_V r.val) } := rfl

theorem Only.admitShown : Only [.regs, .fresh] c (c.admitShown r) := ((Only.put c _ 2).mono : Only [.regs, .fresh] _ _).then (.bump ..)

theorem Chip.admitShown_shows : (c.admitShown r).adm r = 2 ∧
    (c.admitShown r).get (BUS_SWAPS_ADMITS r.val) = min (c.get (BUS_SWAPS_ADMITS r.val) + 1) 65535 ∧
    FieldsBut [BUS_STAT_ADM r.val, BUS_SWAPS_ADMITS r.val] c (c.admitShown r) := by
  have far : (BUS_STAT_ADM r.val).apart (BUS_SWAPS_ADMITS r.val) := by
    refine .inl ?_
    simp only [BUS_STAT_ADM, BUS_STAT, BUS_SWAPS_ADMITS, BUS_SWAPS]
    omega
  refine ⟨?_, ?_, ?_⟩
  · refine ((FieldsBut.refl [BUS_SWAPS_ADMITS r.val] (c.put (BUS_STAT_ADM r.val) 2)).bump _ 1 (Field.ok_of _ rfl) List.mem_cons_self _
      (Field.ok_of _ rfl) (by simpa using far)).trans ?_
    exact c.adm_put r (by decide)
  · refine (Chip.get_bump _ _ (Field.ok_of _ rfl) 1).trans ?_
    rw [Chip.get_put_apart _ _ _ _ (Field.ok_of _ rfl) (Field.ok_of _ rfl) (far.imp Ne.symm Or.symm)]
    rfl
  · exact ((FieldsBut.refl _ c).put _ _ (Field.ok_of _ rfl) List.mem_cons_self).bump _ 1 (Field.ok_of _ rfl) (by simp)

section
variable {c : Chip} {r : Region} (begun : c.adm r = 1) (due : (c.bus r).preClock + 4 ≤ c.now)
include begun due

theorem Chip.precharge_done (near : c.packGap r ≤ c.get (BUS_ADM2_DONE_V r.val) * 100000000 * 131072) :
    c.precharge r = (c.ramped r).admitted r := by
  have clocked : ¬ ((c.adm r != 1 || decide (c.now < (c.bus r).preClock + 4)) = true) := by
    simp [begun, due]
  rw [Chip.precharge, if_neg clocked]
  exact if_pos near

/-- While the voltages differ, the gate stays below fully on. -/
theorem Chip.precharge_goes (far : c.get (BUS_ADM2_DONE_V r.val) * 100000000 * 131072 < c.packGap r) :
    ∃ (d : Chip) (g : Nat), g < 64 ∧ Only [.free] (c.ramped r) d ∧
      c.precharge r = d.setBus r { (c.ramped r).bus r with gate := g } := by
  have clocked : ¬ ((c.adm r != 1 || decide (c.now < (c.bus r).preClock + 4)) = true) := by
    simp [begun, due]
  have run : c.precharge r = if (c.ramped r).faults.fire || (decide (((c.bus r).vPack : Int) <
      (c.get (BUS_FAST_V r.val) : Int) * 10000000 * 131072) && (c.ramped r).flag (BUS_STAT_TFORBID r.val)) then
      (c.ramped r).setBus r { (c.ramped r).bus r with gate := 0 }
      else ((c.ramped r).useFree).setBus r { (c.ramped r).bus r with gate := (c.ramped r).freeVal.toNat % 64 } := by
    rw [Chip.precharge, if_neg clocked]
    exact if_neg (Nat.not_le.mpr far)
  rw [run]
  split
  · exact ⟨_, 0, by decide, .refl .., rfl⟩
  · exact ⟨_, _, Nat.mod_lt _ (by decide), .useFree _, rfl⟩

end

theorem OneBus.of_put (f : Field) (v : Nat) : OneBus r c (c.put f v) := fun _ _ => Chip.bus_put ..

theorem Only.beginPrecharge : Only [.regs, .buses] c (c.beginPrecharge r) := ((Only.refl _ c).then (.put ..)).then (.setBus ..)

theorem Only.admOff : Only [.regs, .buses] c (c.admOff r) := ((Only.refl _ c).then (.put ..)).then (.setBus ..)

theorem mem_axesOfRegion {r : Region} {a : Axis} : a ∈ axesOfRegion r ↔ regionOf a = r := by
  rw [axesOfRegion, List.mem_filter, beq_iff_eq]
  exact and_iff_right (List.mem_finRange a)

/-! ### The reads of the ride ledgers (R5, R7, R246) -/

/-- A read that is executed. -/
theorem yields_of_askRead {i : Instr} {p : Path} {s : State} {f : Chip → Chip × Word} {d : Chip} {v : Word} {P : Chip → Prop}
    (row : exec i s = s.askRead p f) (serving : s.chip.serves p) (read : f s.chip = (d, v)) (hp : P d) : Yields i p s v P := by
  obtain ⟨carried, awake, lit⟩ := serving
  refine ⟨d, ?_, hp⟩
  rw [row, State.askRead, State.run_eq, Chip.askRead]
  simp only [carried, awake, lit, read, Bool.not_true, Bool.false_eq_true, if_false]

/-- The snapshot that a path holds is the one it took. -/
theorem Chip.held_holdHigh (p : Path) (a : Nat) (w : Word) : (c.holdHigh p a w).held p a = some w := by
  have key : cellsGet zeros (c.holdHigh p a w).hold (holdKey p a) = (1#1 ++ w : BitVec 33) := cellsGet_set_same ..
  have top : (1#1 ++ w : BitVec 33).getLsbD 32 = true := by
    rw [BitVec.getLsbD_append]
    simp
  have low : (1#1 ++ w : BitVec 33).truncate 32 = w := by
    refine BitVec.eq_of_getLsbD_eq fun i hi => ?_
    rw [BitVec.truncate_eq_setWidth, BitVec.getLsbD_setWidth, BitVec.getLsbD_append]
    simp [hi]
  simp only [Chip.held, key, top, low, if_true]

end
end Sys2Proof.Machine

open Sys2Proof.Machine

/-- Settles O29: precharge by its two outcomes at a modulator clock, the commands by their refusing conditions, the ledger read
by what `put64` stores. -/
theorem admission : Obligations.Admission := by
  refine ⟨⟨?pack, ?precharge, ?timeout, ?gate, ?short⟩, ?commands, ?ledger⟩
  case pack =>
    intro s r armed enabled opened runs ok idle
    have free : s.chip.hkIdle r = true := by
      rw [Chip.hkIdle, idle]
    have run : s.chip.packDetection r = s.chip.hkBegin r (s.chip.get (BUS_ADM_PACKCH r.val)) 3 false := by
      have freed : s.chip.hkFreed r = s.chip := by
        rw [Chip.hkFreed, if_neg (by simp [free]), Chip.hkPutBack]
        simp only [idle]
      rw [Chip.packDetection, if_pos (by simp [armed, enabled, opened]), Chip.internalUrgent, if_neg (by simp [runs, ok]),
        if_neg (by simp [Chip.hkClass, free]), Chip.hkTake_eq, freed]
    obtain ⟨busy, class_, -⟩ := s.chip.hkBegin_stat r (s.chip.get (BUS_ADM_PACKCH r.val)) 3 false (by decide)
    refine completes_of_run (·.packDetection r) rfl run ⟨⟨_, by rw [Chip.hk_hkBegin], rfl, rfl⟩, Chip.flag_one busy, class_,
      FieldsBut.hkBegin s.chip r _ 3 false, (Only.hkBegin s.chip r _ 3 false).eq⟩
  case precharge =>
    intro s r begun due
    have ramp := s.chip.bus_ramped r
    have ramped := Only.ramped s.chip r
    have others : OneBus r s.chip (s.chip.ramped r) := (OneBus.refl r s.chip).setBus _
    rcases Nat.lt_or_ge (s.chip.get (BUS_ADM2_DONE_V r.val) * 100000000 * 131072) (s.chip.packGap r) with far | near
    · obtain ⟨d, g, small, free, run⟩ := Chip.precharge_goes begun due far
      have adm : (d.setBus r { (s.chip.ramped r).bus r with gate := g }).adm r = 1 := (free.get _).trans begun
      have frame := ((ramped.mono : Only [.regs, .fresh, .buses, .free] _ _).trans free.mono).then
        (.setBus d r { (s.chip.ramped r).bus r with gate := g })
      refine completes_of_run (·.precharge r) rfl run ⟨?_, ?_, fun near => absurd near (Nat.not_le.mpr far), fun _ => ⟨adm, ?_⟩,
        (others.trans (free.oneBus r)).setBus _, ?_, frame.eq⟩
      · rw [Chip.bus_setBus]
        exact ramp.1
      · rw [Chip.bus_setBus]
        exact ramp.2
      · rw [Chip.bus_setBus]
        exact small
      · exact (((ramped.mono : Only [.buses, .free] _ _).trans free.mono).fieldsBut _).of_regs rfl
    · have run := (Chip.precharge_done begun due near).trans (Chip.admitted_eq ..)
      obtain ⟨shown, counted, fields⟩ := (s.chip.ramped r).admitShown_shows r
      have frame := Only.admitShown (s.chip.ramped r) r
      refine completes_of_run (·.precharge r) rfl run ⟨?_, ?_, fun _ => ⟨(Chip.setBus_get ..).trans shown, (Chip.setBus_get ..).trans ?_, ?_⟩,
        fun far => absurd near (Nat.not_le.mpr far),
        (others.trans (frame.oneBus r)).setBus _, ?_, ?_⟩
      · rw [Chip.bus_setBus]
        exact ramp.1
      · rw [Chip.bus_setBus]
        exact ramp.2
      · rw [counted, ramped.get]
      · rw [Chip.bus_setBus]
        have faults := ((ramped.mono : Only [.regs, .fresh, .buses] _ _).trans frame.mono).faults
        exact congrArg (fun f : FaultState => if f.fire then 0 else 64) faults
      · exact ((ramped.fieldsBut _).trans fields).of_regs rfl
      · exact (((ramped.mono : Only [.regs, .fresh, .buses, .free] _ _).trans frame.mono).then (.setBus ..)).eq
  case timeout =>
    intro s r begun late
    refine completes_of_run (·.prechargeTimeout r) rfl (if_pos ⟨begun, late⟩) ⟨?_, ?_, .raise rfl, ?_, ?_, rfl⟩
    · rw [Chip.adm, Chip.raise_get, Chip.setBus_get]
      exact s.chip.adm_put r (by decide)
    · rw [Chip.bus_raise, Chip.bus_setBus]
    · exact fun q hq => (Chip.bus_raise ..).trans ((Chip.bus_setBus_ne _ _ _ hq).trans (Chip.bus_put ..))
    · exact ((FieldsBut.refl _ s.chip).put _ _ (Field.ok_of _ rfl) List.mem_cons_self).of_regs rfl
  case gate =>
    intro s r admitted on late
    have run : s.chip.admGate r = s.chip.raise (srcRegion r 6) := by
      simp [Chip.admGate, admitted, on, late, Chip.raiseIf]
    exact completes_of_run (·.admGate r) rfl run ⟨.raise rfl, rfl⟩
  case short =>
    intro s r idle
    refine idles_of_run (·.admGate r) rfl ?_
    rcases idle with other | early
    · simp [Chip.admGate, other, Chip.raiseIf]
    · simp [Chip.admGate, early, Chip.raiseIf]
  case commands =>
    intro s p r serving
    refine ⟨fun armed enabled closed seen => ?_, fun bad => ?_, fun armed enabled off => ?_, fun bad => ?_⟩
    · have clear : judge [(!s.chip.isArmed || !s.chip.flag (BUS_ADM_EN r.val) || !(s.chip.adm r == 0 || s.chip.adm r == 3) ||
          !s.chip.flag (BUS_STAT_PACK_SEEN r.val), .state)] = .ok := by
        rcases closed with h | h <;> simp [judge, armed, enabled, h, seen]
      refine grants_of_ask (f := (·.busAdmit r)) (d := s.chip.beginPrecharge r) rfl serving (s.chip.request_ok _ _ clear) ⟨?_, ?_, ?_, ?_, ?_, ?_⟩
      · exact (Chip.setBus_get ..).trans (s.chip.adm_put r (by decide))
      · rw [Chip.beginPrecharge, Chip.bus_setBus]
      · rw [Chip.beginPrecharge, Chip.bus_setBus]
      · exact (OneBus.of_put s.chip r _ 1).setBus _
      · exact ((FieldsBut.refl _ s.chip).put _ _ (Field.ok_of _ rfl) List.mem_cons_self).of_regs rfl
      · exact (Only.beginPrecharge s.chip r).eq
    · refine refuses_of_request rfl serving rfl ?_ (by decide)
      rcases bad with h | h | h | h <;> simp [judge, h]
    · have clear : (axesOfRegion r).all (s.chip.modeOf · == 0) = true :=
        List.all_eq_true.mpr fun a ha => beq_iff_eq.mpr (off a (mem_axesOfRegion.mp ha))
      have free : judge [(!s.chip.isArmed || !s.chip.flag (BUS_ADM_EN r.val) || !(axesOfRegion r).all (s.chip.modeOf · == 0), .state)] = .ok := by
        simp [judge, armed, enabled, clear]
      refine grants_of_ask (f := (·.admOpen r)) (d := s.chip.admOff r) rfl serving (s.chip.request_ok _ _ free) ⟨?_, ?_, ?_, ?_, ?_⟩
      · exact (Chip.setBus_get ..).trans (s.chip.adm_put r (by decide))
      · rw [Chip.admOff, Chip.bus_setBus]
      · exact (OneBus.of_put s.chip r _ 0).setBus _
      · exact ((FieldsBut.refl _ s.chip).put _ _ (Field.ok_of _ rfl) List.mem_cons_self).of_regs rfl
      · exact (Only.admOff s.chip r).eq
    · refine refuses_of_request rfl serving rfl ?_ (by decide)
      rcases bad with h | h | ⟨a, here, h⟩
      · simp [judge, h]
      · simp [judge, h]
      · have busy : (axesOfRegion r).all (s.chip.modeOf · == 0) = false := by
          refine List.all_eq_false.mpr ⟨a, mem_axesOfRegion.mpr here, ?_⟩
          simpa using h
        simp [judge, busy]
  case ledger =>
    intro s p r ret a v serving ha hv
    subst ha
    subst hv
    refine yields_of_askRead (f := (·.rideRead p r ret)) rfl serving rfl ⟨?_, Chip.held_holdHigh .., ?_, rfl⟩
    · refine (Chip.get64_put64 ..).trans (wrapTo_natCast ..)
    · intro x hx
      exact Chip.reg_put64_ne _ _ (by simp_all) (by simp_all)
end

section
-- One proof after the other: a side goal that `Only` settles by `decide` waits for the kernel, on a thread of its own.
set_option Elab.async false
/-! SUPPORT. The end of a conversion (R249 to R251, R255): what it stores, and what everything that reads it leaves; and the statement
about it. -/
namespace Sys2Proof.Machine

/-! ### Registers that hold a property -/

/-- The registers with the property `P` are as before. -/
structure RegsOf (P : Nat → Prop) (b c : Chip) : Prop where
  reg : ∀ x, P x → c.reg x = b.reg x

theorem RegsOf.refl (P : Nat → Prop) (c : Chip) : RegsOf P c c := ⟨fun _ _ => rfl⟩

theorem RegsOf.trans {P : Nat → Prop} {b c d : Chip} (h : RegsOf P b c) (k : RegsOf P c d) : RegsOf P b d :=
  ⟨fun x hx => (k.reg x hx).trans (h.reg x hx)⟩

theorem RegsOf.of_regs {P : Nat → Prop} {b c : Chip} (h : c.regs = b.regs) : RegsOf P b c := ⟨fun x _ => congrArg (cellsGet regReset · x) h⟩

theorem RegsOf.of_regsBut {P : Nat → Prop} {l : List Nat} {b c : Chip} (h : RegsBut l b c) (hl : ∀ x ∈ l, ¬ P x) : RegsOf P b c :=
  ⟨fun x hx => h x fun hm => hl x hm hx⟩

theorem RegsOf.get {P : Nat → Prop} {b c : Chip} (h : RegsOf P b c) (f : Field) (hf : P f.addr) : c.get f = b.get f :=
  congrArg f.read (h.reg f.addr hf)

theorem RegsOf.put {P : Nat → Prop} {b c : Chip} (h : RegsOf P b c) (f : Field) (v : Nat) (hf : ¬ P f.addr) : RegsOf P b (c.put f v) :=
  ⟨fun x hx => (Chip.reg_put_ne _ _ _ fun he => hf (he ▸ hx)).trans (h.reg x hx)⟩

theorem RegsOf.ite {P : Nat → Prop} {b c d : Chip} {p : Prop} [Decidable p] (hc : RegsOf P b c) (hd : RegsOf P b d) :
    RegsOf P b (if p then c else d) := by
  split
  · exact hc
  · exact hd

theorem RegsOf.each {α : Type} {P : Nat → Prop} {f : Chip → α → Chip} (c : Chip) (xs : List α) (hf : ∀ d, ∀ x ∈ xs, RegsOf P d (f d x)) :
    RegsOf P c (c.each xs f) :=
  Chip.each_keeps xs (.refl P c) fun d hd x hx => hd.trans (hf d x hx)

/-- Where the results of conversions stand (Tables 10-8, 10-9). -/
def IsResult (x : Nat) : Prop := x = HK_RES 0 ∨ x = HK_RES 1 ∨ (0x0E0400 ≤ x ∧ x < 0x0E0800)

theorem wrapTo_lt (w : Nat) (i : Int) : wrapTo w i < 2 ^ w := by
  have pos : (0 : Int) < 2 ^ w := by positivity
  have low := Int.emod_nonneg i pos.ne'
  have high := Int.emod_lt_of_pos i pos
  rw [wrapTo, ← Int.ofNat_lt, Int.toNat_of_nonneg low]
  exact_mod_cast high

section
variable (c : Chip) (s : Sensor)

/-! ### What follows from a sensor's reading -/

theorem not_isResult_tmp {x k : Nat} (hx : x = TMP_STAT k ∨ x = TMP_DF k ∨ x = LOG_STATUS ∨ x = 0x0D0040 ∨ x = 0x0D8040) : ¬ IsResult x := by
  simp only [IsResult, HK_RES, TMP_STAT, TMP_DF, LOG_STATUS] at *
  omega

theorem not_isResult_low {x : Nat} (hx : x < 0x0E0000) : ¬ IsResult x := by
  simp only [IsResult, HK_RES]
  omega

theorem not_isResult_busStat (r : Region) : ¬ IsResult (BUS_STAT r.val) :=
  not_isResult_low (by simp only [BUS_STAT]; omega)

theorem not_isResult_hkStat (n : Region) : ¬ IsResult (HK_STAT n.val) := by
  simp only [IsResult, HK_RES, HK_STAT]
  omega

theorem RegsOf.judgeHot (t : Int) : RegsOf IsResult c (c.judgeHot s t) := by
  have hot (v : Nat) : RegsOf IsResult c (c.put (TMP_STAT_HOT s.val) v) := (RegsOf.refl _ c).put _ v (not_isResult_tmp (k := s.val) (.inl rfl))
  exact .ite (hot 0) (.ite (hot 1) (.ite (hot 0) (.refl _ c)))

theorem RegsOf.judgePack (failed : Bool) : RegsOf IsResult c (c.judgePack s failed) :=
  .each c _ fun d r _ => .ite (((RegsOf.refl _ d).put _ _ (not_isResult_busStat r)).trans (.of_regs (Chip.raiseIf_regs ..))) (.refl _ d)

theorem RegsOf.derate (a : Axis) : RegsOf IsResult c (c.derate a) := by
  have noted : RegsOf IsResult c (c.putF (TMP_DF_SUBST a.val) ((c.sensorsOf a).any fun s => c.flag (TMP_STAT_FAIL s.val))) :=
    (RegsOf.refl _ c).put _ _ (not_isResult_tmp (k := a.val) (.inr (.inl rfl)))
  refine .ite noted ((noted.put _ _ ?_).put _ _ ?_) <;> exact not_isResult_tmp (k := a.val) (.inr (.inl rfl))

theorem RegsOf.derateAll : RegsOf IsResult c c.derateAll := .each c allAxes fun d a _ => .derate d a

theorem RegsOf.judgeShutdown (t : Int) : RegsOf IsResult c (c.judgeShutdown s t) := by
  have sd (d : Chip) (v : Nat) : RegsOf IsResult d (d.put (TMP_STAT_SD s.val) v) :=
    (RegsOf.refl _ d).put _ v (not_isResult_tmp (k := s.val) (.inl rfl))
  have acts (d : Chip) (m t : Word) : RegsOf IsResult d (((d.put (TMP_STAT_SD s.val) 1).report (sensorSrc s) 1 4 0 false).logArise 6 m t 0) := by
    refine ((sd d 1).trans (.of_regs (Chip.report_regs _ (sensorSrc s) 1 4 0 false))).trans (.of_regsBut (Chip.logArise_regsBut _ 6 m t 0) fun x hx => ?_)
    rw [List.mem_singleton.mp hx]
    exact not_isResult_low (by decide)
  refine .ite (.ite (sd c 0) (.refl _ c)) (.ite (RegsOf.trans ?_ (acts _ _ _)) (.refl _ c))
  exact .of_regs rfl

/-- The chip with a sensor's value and factor. -/
def Chip.sensorValued : Chip :=
  (c.puts (TMP_STAT_T s.val) (c.sensorValue s)).setSensor s { c.sensor s with df := c.sensorDf s (c.sensorValue s) }

theorem RegsOf.setSensor (x : TsState) : RegsOf IsResult c (c.setSensor s x) := .of_regs rfl

theorem RegsOf.sensorJudged (failed : Bool) : RegsOf IsResult c (c.sensorJudged s failed) := by
  have shown := ((RegsOf.refl IsResult c).put (TMP_STAT_T s.val) (wrapTo 16 (c.sensorValue s)) (not_isResult_tmp (k := s.val) (.inl rfl)))
  have valued : RegsOf IsResult c (c.sensorValued s) := shown.trans (.setSensor ..)
  have judged := ((valued.trans (.judgeHot _ s (c.sensorValue s))).trans (.judgePack _ s failed)).trans (.derateAll _)
  exact judged.trans (.judgeShutdown _ s (c.sensorValue s))

theorem RegsOf.sensorFails : RegsOf IsResult c (c.sensorFails s) :=
  .ite (.sensorJudged ..) ((((RegsOf.refl _ c).put (TMP_STAT_FAIL s.val) 1 (not_isResult_tmp (k := s.val) (.inl rfl))).trans (.of_regs (Chip.raise_regs ..))).trans (.sensorJudged ..))

theorem RegsOf.sensorReading (valid : Bool) (t : Int) : RegsOf IsResult c (c.sensorReading s valid t) := by
  unfold Chip.sensorReading
  dsimp only
  split
  · exact .refl _ c
  split
  · refine RegsOf.trans (.ite ?_ (.setSensor ..)) (.sensorJudged ..)
    exact (RegsOf.setSensor ..).put (TMP_STAT_FAIL s.val) 0 (not_isResult_tmp (k := s.val) (.inl rfl))
  · exact .ite ((RegsOf.setSensor ..).trans (.sensorFails ..)) (.setSensor ..)

theorem RegsOf.judgeLog (ok : Bool) (t : Int) : RegsOf IsResult c (c.judgeLog s ok t) :=
  .ite ((RegsOf.refl _ c).put _ 1 (not_isResult_low (by decide))) (.refl _ c)

theorem RegsOf.shutdownActs (b : Chip) : RegsOf IsResult c (c.shutdownActs b) := by
  refine .ite (.refl _ c) (RegsOf.trans (.each c _ fun d a _ => ?_) (.of_regs (Chip.obeyLines_regs _)))
  exact .of_regsBut (Chip.reactOff_regsBut d a) fun x hx => not_isResult_low (by have := offRegs_low hx; omega)

theorem Only.divFree (n d : Int) : Only [.free] c (c.divFree n d).1 := by
  unfold Chip.divFree
  split
  · exact .refl ..
  · exact .useFree c

/-- The temperature that a reading shows is computed without a register. -/
theorem Only.tempOf (code sense : Int) : Only [.free] c (c.tempOf s code sense).1 := by
  have kelvins (n d : Int) : Only [.free] c (c.sixteenths n d).1 := by
    unfold Chip.sixteenths
    split
    · exact .refl ..
    · exact .divFree ..
  unfold Chip.tempOf
  split
  · exact .refl ..
  split
  · unfold Chip.ntcTemp
    dsimp only
    split
    · exact .useFree c
    · exact kelvins ..
  · unfold Chip.diodeTemp
    dsimp only
    split
    · exact .useFree c
    · exact kelvins ..

theorem RegsOf.hkSensor (x : Reading) (sense : Int) (bad : Bool) : RegsOf IsResult c (c.hkSensor x sense bad) := by
  unfold Chip.hkSensor
  split
  · exact .refl _ c
  next s _ =>
    refine .ite (.refl _ c) ?_
    have computed : RegsOf IsResult c (c.tempOf s x.code sense).1 := .of_regs ((Only.tempOf c s x.code sense).same .regs (by decide))
    exact ((computed.trans (.sensorReading ..)).trans (.judgeLog ..)).trans (.shutdownActs ..)

theorem RegsOf.hkSupply (x : Reading) : RegsOf IsResult c (c.hkSupply x) := by
  unfold Chip.hkSupply
  split
  · exact .refl _ c
  · exact .of_regs (Chip.raiseIf_regs ..)

/-! ### A reading of a pack (R241) -/

section
variable (r : Region)

theorem Only.packReading (v : Nat) : Only [.regs, .buses] c (c.packReading r v) := by
  have kept := (Only.setBus c r { c.bus r with vPack := v }).mono (l := [.regs, .buses])
  unfold Chip.packReading
  dsimp only
  split
  · exact kept
  split
  · exact kept.then (.setBus ..)
  split
  · exact kept.then (.setBus ..)
  · exact .ite (((kept.then (.put ..)).then (.setBus ..)).then (.beginPrecharge ..)) ((kept.then (.put ..)).then (.setBus ..))

theorem RegsBut.packReading (v : Nat) : RegsBut [BUS_STAT r.val] c (c.packReading r v) := by
  have kept : RegsBut [BUS_STAT r.val] c (c.setBus r { c.bus r with vPack := v }) := (RegsBut.refl _ c).of_regs rfl
  unfold Chip.packReading
  dsimp only
  split
  · exact kept
  split
  · exact kept.of_regs rfl
  split
  · exact kept.of_regs rfl
  · have seen (x : BusState) : RegsBut [BUS_STAT r.val] c (((c.setBus r { c.bus r with vPack := v }).put (BUS_STAT_PACK_SEEN r.val) 1).setBus r x) :=
      (kept.put (BUS_STAT_PACK_SEEN r.val) 1 List.mem_cons_self).of_regs rfl
    exact .ite (((seen _).put (BUS_STAT_ADM r.val) 1 List.mem_cons_self).of_regs rfl) (seen _)

theorem Only.hkPack (x : Reading) (rng : Nat) : Only [.regs, .buses] c (c.hkPack x rng) :=
  .each c _ fun _ _ _ => .ite (.packReading ..) (.refl ..)

theorem RegsBut.hkPack (x : Reading) (rng : Nat) : RegsBut [BUS_STAT 0, BUS_STAT 1] c (c.hkPack x rng) := by
  refine Chip.each_keeps _ (RegsBut.refl _ c) fun d kept r hr => RegsBut.trans kept (RegsBut.ite ?_ (RegsBut.refl _ d))
  intro y hy
  refine RegsBut.packReading d r _ y fun hm => hy ?_
  rw [List.mem_singleton.mp hm]
  obtain h | h : r.val = 0 ∨ r.val = 1 := by omega
  · rw [h]
    exact List.mem_cons_self
  · rw [h]
    exact List.mem_cons_of_mem _ List.mem_cons_self

end

/-! ### The stages of the end of a conversion -/

section
variable (n : Region) (x : Reading)

theorem Only.hkUse : Only [.hkUsed, .hkAge] c (c.hkUse n x) := .ite (.refl ..) (.of_mix rfl)

theorem Only.hkXch : Only [.hks] c (c.hkXch n x) := .ite (.setHk ..) (.refl ..)

theorem Chip.hkDone_eq {q : HkReq} (running : (c.hk n).running = some q) (late : q.since + 1250 + q.window ≤ c.now) : c.hkDone n = some q := by
  rw [Chip.hkDone, running, Option.filter_some, if_pos (decide_eq_true late)]

theorem RegsOf.hkNext : RegsOf IsResult c (c.hkNext n) :=
  .of_regsBut (RoundFrame.hkNext c n).regs fun _ hx => List.mem_singleton.mp hx ▸ not_isResult_hkStat n

theorem RegsOf.hkRound : RegsOf IsResult c (c.hkRound n) :=
  .of_regsBut (RoundFrame.hkRound c n).regs fun _ hx => List.mem_singleton.mp hx ▸ not_isResult_hkStat n

theorem RegsOf.roundEnd : RegsOf IsResult c (c.roundEnd n) := by
  have checked (d : Chip) : RegsOf IsResult d d.crossCheck := by
    unfold Chip.crossCheck
    split
    · exact .ite (.of_regs rfl) (.ite (.of_regs (Chip.raise_regs ..)) (.of_regs rfl))
    · exact .of_regs rfl
  have aged (d : Chip) (xs : List Nat) :
      RegsOf IsResult d (d.each xs fun c ch => { c with hkAge := setAt c.hkAge ch (c.hkAge.toList.getD ch 0 + 1) }) :=
    .each d xs fun _ _ _ => .of_regs rfl
  unfold Chip.roundEnd
  dsimp only
  split
  · exact .refl _ c
  · have ended := (RegsOf.of_regs (P := IsResult) (Chip.setHk_regs c n { c.hk n with inRound := false, lateRound := false })).trans (aged _ (Chip.owned (c.setHk n { c.hk n with inRound := false, lateRound := false }) n))
    have crossed := ended.trans (RegsOf.ite (p := n = 1) (checked _) (.refl _ _))
    exact .ite (crossed.trans (.hkRound ..)) crossed

/-- The chip with the result stored. -/
def Chip.hkStored (raw : Int) (q : HkReq) : Chip :=
  (c.setHk n { c.hk n with running := none }).hkStore n ⟨q.ch, q.cls, c.hkCorrect q.ch raw, rawOver raw, q.setl⟩

/-- What takes a stored result. -/
def Chip.hkConsumed (sense : Int) (bad : Bool) (rng : Nat) : Chip :=
  ((((((c.hkUse n x).hkSensor x sense bad).hkSupply x).hkPack x rng).hkXch n x).roundEnd n).hkNext n

theorem RegsOf.hkConsumed (sense : Int) (bad : Bool) (rng : Nat) : RegsOf IsResult c (c.hkConsumed n x sense bad rng) := by
  have used : RegsOf IsResult c (c.hkUse n x) := .of_regs ((Only.hkUse c n x).same .regs (by decide))
  have pack (d : Chip) : RegsOf IsResult d (d.hkPack x rng) := .of_regsBut (RegsBut.hkPack d x rng) (by
    intro y hy
    exact not_isResult_low (by simp only [List.mem_cons, List.not_mem_nil, or_false, BUS_STAT] at hy; omega))
  have xch (d : Chip) : RegsOf IsResult d (d.hkXch n x) := .of_regs ((Only.hkXch d n x).same .regs (by decide))
  exact ((((((used.trans (.hkSensor _ x sense bad)).trans (.hkSupply _ x)).trans (pack _)).trans (xch _)).trans (.roundEnd _ n)).trans (.hkNext _ n))

theorem Chip.hkEnd_eq {q : HkReq} (done : c.hkDone n = some q) (raw sense : Int) (bad : Bool) :
    c.hkEnd n raw sense bad =
      (c.hkStored n raw q).hkConsumed n ⟨q.ch, q.cls, c.hkCorrect q.ch raw, rawOver raw, q.setl⟩ sense bad q.rng := by
  unfold Chip.hkEnd
  rw [done]
  rfl

/-! ### What is stored (Tables 10-8, 10-9) -/

/-- The word of HK_RES before NEW. -/
def hkResWord (i : Nat) (overrun : Bool) : Word :=
  packFields [(HK_RES_OVR i, x.ovr.toNat), (HK_RES_SETL i, x.setl.toNat), (HK_RES_OVRN i, overrun.toNat), (HK_RES_URG i, (x.cls == 3).toNat),
    (HK_RES_CH i, x.ch), (HK_RES_CODE i, wrapTo 19 x.code)]

/-- The word of HK_VAL. -/
def hkValWord : Word :=
  packFields [(HK_VAL_VALID x.ch, 1), (HK_VAL_OVR x.ch, x.ovr.toNat), (HK_VAL_SETL x.ch, x.setl.toNat), (HK_VAL_CODE x.ch, wrapTo 19 x.code)]

theorem Chip.hkStore_regs : (c.hkStore n x).regs =
    (((c.setReg (HK_RES n.val) (hkResWord x n.val (c.hk n).overrun)).mark (HK_RES_NEW n.val)).setReg (HK_VAL x.ch) (hkValWord x)).regs := rfl

/-- A register after the result is stored. -/
theorem Chip.hkStore_reg (a : Nat) : (c.hkStore n x).reg a =
    (((c.setReg (HK_RES n.val) (hkResWord x n.val (c.hk n).overrun)).mark (HK_RES_NEW n.val)).setReg (HK_VAL x.ch) (hkValWord x)).reg a :=
  congrArg (cellsGet regReset · a) (c.hkStore_regs n x)

theorem RegsBut.hkStore : RegsBut [HK_RES n.val, HK_VAL x.ch] c (c.hkStore n x) :=
  ((((RegsBut.refl _ c).setReg _ _ List.mem_cons_self).mark _ List.mem_cons_self).setReg _ _ (by simp)).of_regs (c.hkStore_regs n x)

theorem Only.hkStore : Only [.regs, .fresh, .hks] c (c.hkStore n x) :=
  ((((Only.refl _ c).then (.setReg ..)).then (.mark ..)).then (.setReg ..)).then (.setHk ..)

theorem Chip.hkStore_hk : (c.hkStore n x).hk n = { c.hk n with overrun := false } := by
  have noted : Only [.regs, .fresh] c ((c.setReg (HK_RES n.val) (hkResWord x n.val (c.hk n).overrun)).mark (HK_RES_NEW n.val)) :=
    ((Only.refl _ c).then (.setReg ..)).then (.mark ..)
  exact (Chip.hk_setHk ..).trans (congrArg (fun h : HkState => { h with overrun := false }) (noted.hk n))

theorem Chip.hkStored_hk (raw : Int) (q : HkReq) : (c.hkStored n raw q).hk n = { c.hk n with running := none, overrun := false } := by
  rw [Chip.hkStored, Chip.hkStore_hk, Chip.hk_setHk]

variable {x}

section
variable (hx : x.ch < 46)
include hx

theorem hkVal_ne_hkRes : HK_RES n.val ≠ HK_VAL x.ch := by
  simp only [HK_RES, HK_VAL]
  omega

theorem Chip.hkStore_new : (c.hkStore n x).get (HK_RES_NEW n.val) = 1 := by
  rw [Chip.get, Chip.hkStore_reg, show (HK_RES_NEW n.val).addr = HK_RES n.val from rfl, Chip.reg_setReg_ne _ _ (hkVal_ne_hkRes n hx)]
  exact Chip.get_mark _ _ (Field.ok_of _ rfl)

/-- The fields of HK_RES beside NEW are those of the word stored. -/
theorem Chip.hkStore_res {f : Field} {v : Nat} (hf : f.addr = HK_RES n.val) (beside : f.beside (HK_RES_NEW n.val) = true)
    (hm : (f, v) ∈ [(HK_RES_OVR n.val, x.ovr.toNat), (HK_RES_SETL n.val, x.setl.toNat), (HK_RES_OVRN n.val, (c.hk n).overrun.toNat),
      (HK_RES_URG n.val, (x.cls == 3).toNat), (HK_RES_CH n.val, x.ch), (HK_RES_CODE n.val, wrapTo 19 x.code)])
    (hv : v < 2 ^ (f.hi + 1 - f.lo)) : (c.hkStore n x).get f = v := by
  have ok : packOk [(HK_RES_OVR n.val, x.ovr.toNat), (HK_RES_SETL n.val, x.setl.toNat), (HK_RES_OVRN n.val, (c.hk n).overrun.toNat),
      (HK_RES_URG n.val, (x.cls == 3).toNat), (HK_RES_CH n.val, x.ch), (HK_RES_CODE n.val, wrapTo 19 x.code)] = true := rfl
  have apart : f.apart (HK_RES_NEW n.val) := .inr (Field.beside_iff.mp beside)
  have stored : (c.hkStore n x).get f = ((c.setReg (HK_RES n.val) (hkResWord x n.val (c.hk n).overrun)).mark (HK_RES_NEW n.val)).get f := by
    rw [Chip.get, Chip.get, Chip.hkStore_reg, hf, Chip.reg_setReg_ne _ _ (hkVal_ne_hkRes n hx)]
  rw [stored, Chip.mark, Chip.noteFresh_get, Chip.get_put_apart _ f _ 1 (packOk_mem ok hm) (Field.ok_of _ rfl) apart, Chip.get, hf,
    Chip.reg_setReg]
  exact Field.read_packFields ok hm hv

end

/-- The fields of HK_VAL are those of the word stored. -/
theorem Chip.hkStore_val {f : Field} {v : Nat} (hf : f.addr = HK_VAL x.ch)
    (hm : (f, v) ∈ [(HK_VAL_VALID x.ch, 1), (HK_VAL_OVR x.ch, x.ovr.toNat), (HK_VAL_SETL x.ch, x.setl.toNat),
      (HK_VAL_CODE x.ch, wrapTo 19 x.code)])
    (hv : v < 2 ^ (f.hi + 1 - f.lo)) : (c.hkStore n x).get f = v := by
  rw [Chip.get, Chip.hkStore_reg, hf, Chip.reg_setReg]
  exact Field.read_packFields rfl hm hv

theorem isResult_res : IsResult (HK_RES n.val) := by
  simp only [IsResult, HK_RES]
  omega

theorem isResult_val {ch : Nat} (h : ch < 46) : IsResult (HK_VAL ch) := by
  simp only [IsResult, HK_VAL]
  omega

end

/-! ### A channel with no sensor, no supply and no round (Table 10-1) -/

section
variable (n : Region) {x : Reading}

theorem Chip.hkConsumed_plain (sense : Int) (bad : Bool) (rng : Nat) (low : x.ch < 16) (alone : (c.hk n).inRound = false) :
    c.hkConsumed n x sense bad rng = (((c.hkUse n x).hkPack x rng).hkXch n x).hkNext n := by
  have sensor (d : Chip) : d.hkSensor x sense bad = d := by
    have none : sensorOf x.ch = none := by
      rw [sensorOf, dif_neg (by omega), dif_neg (by omega)]
    rw [Chip.hkSensor, none]
  have supply (d : Chip) : d.hkSupply x = d := if_pos (by simp; omega)
  have ended (d : Chip) (h : (d.hk n).inRound = false) : d.roundEnd n = d := by
    rw [Chip.roundEnd]
    exact if_pos (by simp [h])
  have still : ((((c.hkUse n x).hkPack x rng).hkXch n x).hk n).inRound = false := by
    have same : ((c.hkUse n x).hkPack x rng).hk n = c.hk n := (((Only.hkUse c n x).mono : Only [.hkUsed, .hkAge, .regs, .buses] _ _).then (.hkPack ..)).hk n
    rw [Chip.hkXch]
    split
    · rw [Chip.hk_setHk]
      exact (congrArg HkState.inRound same).trans alone
    · exact (congrArg HkState.inRound same).trans alone
  rw [Chip.hkConsumed, sensor, supply, ended _ still]

theorem RegsBut.hkConsumed_plain (sense : Int) (bad : Bool) (rng : Nat) (low : x.ch < 16) (alone : (c.hk n).inRound = false) :
    RegsBut [HK_STAT n.val, BUS_STAT 0, BUS_STAT 1] c (c.hkConsumed n x sense bad rng) := by
  rw [c.hkConsumed_plain n sense bad rng low alone]
  have used : RegsBut [BUS_STAT 0, BUS_STAT 1] c (((c.hkUse n x).hkPack x rng).hkXch n x) :=
    (((RegsBut.refl _ c).of_regs ((Only.hkUse c n x).same .regs (by decide))).trans (RegsBut.hkPack _ x rng)).of_regs
      ((Only.hkXch _ n x).same .regs (by decide))
  exact RegsBut.trans (fun y hy => used y fun h => hy (List.mem_cons_of_mem _ h))
    fun y hy => (RoundFrame.hkNext _ n).regs y fun h => hy (List.mem_singleton.mp h ▸ List.mem_cons_self)

theorem Only.hkConsumed_plain (sense : Int) (bad : Bool) (rng : Nat) (low : x.ch < 16) (alone : (c.hk n).inRound = false) :
    Only [.regs, .fresh, .hks, .hkSettle, .hkUsed, .hkAge, .buses] c (c.hkConsumed n x sense bad rng) := by
  rw [c.hkConsumed_plain n sense bad rng low alone]
  exact ((((Only.refl _ c).then (.hkUse ..)).then (.hkPack ..)).then (.hkXch ..)).then (RoundFrame.hkNext ..).only

end

/-! ### The settings of a channel (R255) -/

/-- A write that leaves every written bit as it was leaves the word. -/
theorem writeMask_same {a d m : Word} (h : (a ^^^ d) &&& m = 0) : (a &&& ~~~m) ||| (d &&& m) = a := by
  refine BitVec.eq_of_getLsbD_eq fun i hi => ?_
  have bit : ((a ^^^ d) &&& m).getLsbD i = false := by
    rw [h]
    exact BitVec.getLsbD_zero
  simp only [BitVec.getLsbD_and, BitVec.getLsbD_xor] at bit
  simp only [BitVec.getLsbD_or, BitVec.getLsbD_and, BitVec.getLsbD_not, hi, decide_true, Bool.true_and]
  revert bit
  cases a.getLsbD i <;> cases d.getLsbD i <;> cases m.getLsbD i <;> decide

/-- The chip with a channel's settings written. -/
def Chip.hkChWritten (ch : Nat) (data : Word) : Chip :=
  let changed := (c.reg (HK_CH ch) ^^^ data) &&& hkChMask != 0
  let c := c.writeMask (HK_CH ch) hkChMask data
  if changed && !c.hkSettle.contains ch then { c with hkSettle := c.hkSettle ++ [ch] } else c

theorem Chip.hkChWritten_regs (ch : Nat) (data : Word) : (c.hkChWritten ch data).regs = (c.writeMask (HK_CH ch) hkChMask data).regs := by
  unfold Chip.hkChWritten
  dsimp only
  split <;> rfl

theorem Chip.hkChWritten_reg (ch : Nat) (data : Word) :
    (c.hkChWritten ch data).reg (HK_CH ch) = (c.reg (HK_CH ch) &&& ~~~hkChMask) ||| (data &&& hkChMask) :=
  (congrArg (cellsGet regReset · (HK_CH ch)) (c.hkChWritten_regs ch data)).trans (Chip.reg_setReg ..)

theorem Only.hkChWritten (ch : Nat) (data : Word) : Only [.regs, .hkSettle] c (c.hkChWritten ch data) := by
  have written : Only [.regs, .hkSettle] c (c.writeMask (HK_CH ch) hkChMask data) := (Only.setReg ..).mono
  unfold Chip.hkChWritten
  dsimp only
  split
  · exact written.trans (.of_mix rfl)
  · exact written

theorem Chip.hkChWritten_settle {ch : Nat} {data : Word} (h : (c.hkChWritten ch data).reg (HK_CH ch) ≠ c.reg (HK_CH ch)) :
    ch ∈ (c.hkChWritten ch data).hkSettle := by
  have changed : ((c.reg (HK_CH ch) ^^^ data) &&& hkChMask != 0) = true := by
    rw [bne_iff_ne]
    exact fun same => h ((c.hkChWritten_reg ch data).trans (writeMask_same same))
  unfold Chip.hkChWritten
  dsimp only
  rw [changed, Bool.true_and]
  split
  · exact List.mem_append_right _ (List.mem_singleton_self ch)
  next known => simpa using known

end
end Sys2Proof.Machine

open Sys2Proof.Machine

/-- Settles O31: what is stored stays through everything that takes it; a channel below 16 has no sensor and no supply. -/
theorem conversionResults : Obligations.ConversionResults := by
  refine ⟨⟨?ends, ?waits, ?early⟩, ?settings⟩
  case ends =>
    intro s n q raw sense bad running low late
    have done := s.chip.hkDone_eq n running late
    have kept := RegsOf.hkConsumed (s.chip.hkStored n raw q) n ⟨q.ch, q.cls, s.chip.hkCorrect q.ch raw, rawOver raw, q.setl⟩ sense bad q.rng
    have res {f : Field} (hf : f.addr = HK_RES n.val) := kept.get f (hf ▸ isResult_res n)
    have val {f : Field} (hf : f.addr = HK_VAL q.ch) := kept.get f (hf ▸ isResult_val low)
    have overrun : ((s.chip.setHk n { s.chip.hk n with running := none }).hk n).overrun = (s.chip.hk n).overrun := by
      rw [Chip.hk_setHk]
    have code : wrapTo 19 (s.chip.hkCorrect q.ch raw) < 2 ^ 19 := wrapTo_lt ..
    have bit (b : Bool) : b.toNat < 2 ^ 1 := by
      cases b <;> decide
    have flag {f : Field} {b : Bool} {c : Chip} (h : c.get f = b.toNat) : c.flag f = b := by
      rw [Chip.flag, h]
      cases b <;> rfl
    refine completes_of_run (·.hkEnd n raw sense bad) rfl (s.chip.hkEnd_eq n done raw sense bad)
      ⟨?_, ?_, ?_, ?_, ?_, ?_, ?_, ?_, ?_, ?_, ?_⟩
    · exact (res rfl).trans (Chip.hkStore_new _ n low)
    · exact (res rfl).trans (Chip.hkStore_res _ n low rfl rfl (by simp) code)
    · exact flag ((res rfl).trans (Chip.hkStore_res _ n low rfl rfl (by simp) (bit _)))
    · exact flag ((res rfl).trans (Chip.hkStore_res _ n low rfl rfl (by simp) (bit _)))
    · exact flag ((res rfl).trans ((Chip.hkStore_res _ n low rfl rfl (by simp) (bit _)).trans (congrArg Bool.toNat overrun)))
    · exact (res rfl).trans (Chip.hkStore_res _ n low rfl rfl (by simp) (show q.ch < 2 ^ 6 by omega))
    · exact flag ((res rfl).trans (Chip.hkStore_res _ n low rfl rfl (by simp) (bit _)))
    · exact (val rfl).trans (Chip.hkStore_val _ n rfl (by simp) (show 1 < 2 ^ 1 by decide))
    · exact (val rfl).trans (Chip.hkStore_val _ n rfl (by simp) code)
    · intro ch hc other
      refine (kept.reg _ (isResult_val hc)).trans (RegsBut.hkStore _ n _ _ ?_)
      simp only [List.mem_cons, List.not_mem_nil, or_false, HK_VAL, HK_RES]
      omega
    · intro plain alone
      have still : ((s.chip.hkStored n raw q).hk n).inRound = false := (congrArg HkState.inRound (s.chip.hkStored_hk n raw q)).trans alone
      have stored : Only [.regs, .fresh, .hks] s.chip (s.chip.hkStored n raw q) := ((Only.setHk ..).mono).trans (.hkStore ..)
      refine ⟨fun y hy => ?_, ((stored.mono).trans (Only.hkConsumed_plain _ n sense bad q.rng plain still)).eq⟩
      refine (RegsBut.hkConsumed_plain _ n sense bad q.rng plain still y fun h => hy ?_).trans (RegsBut.hkStore _ n _ y fun h => hy ?_)
      · exact List.mem_cons_of_mem _ (List.mem_cons_of_mem _ h)
      · simp only [List.mem_cons, List.not_mem_nil, or_false] at h ⊢
        tauto
  case waits =>
    intro s n raw sense bad idle
    refine idles_of_run (·.hkEnd n raw sense bad) rfl ?_
    rw [Chip.hkEnd, idle]
  case early =>
    intro s n early
    rw [Chip.hkDone, Option.filter_eq_none_iff]
    intro q running
    simpa using early q running
  case settings =>
    intro s p ch v serving
    refine ⟨fun low good => ?_, fun bad => ?_, fun high good => ?_⟩
    · have clear : judge [(decide (15 < ch.val), .locked), (hkChBad ch.val v, .range)] = .ok := by
        simp [judge, good, Nat.not_lt.mpr low]
      exact grants_of_ask (f := (·.writeHkCh ch.val v)) (d := s.chip.hkChWritten ch.val v) rfl serving (s.chip.request_ok _ _ clear)
        ⟨s.chip.hkChWritten_reg ch.val v, s.chip.hkChWritten_settle,
          ((RegsBut.refl _ s.chip).setReg _ _ List.mem_cons_self).of_regs (s.chip.hkChWritten_regs ch.val v),
          (Only.hkChWritten s.chip ch.val v).eq⟩
    · refine refuses_of_request (f := (·.writeHkCh ch.val v)) rfl serving rfl ?_ (by decide)
      by_cases high : 15 < ch.val <;> simp [judge, bad, high, Reason.toNat]
    · refine refuses_of_request (f := (·.writeHkCh ch.val v)) rfl serving rfl ?_ (by decide)
      simp [judge, good, high]
end

section
-- One proof after the other: a side goal that `Only` settles by `decide` waits for the kernel, on a thread of its own.
set_option Elab.async false
/-! SUPPORT. Samples of a digital input, its qualified level and edges, and the removal of a pack (R148 to R151, R243); and the
statement about them. -/
namespace Sys2Proof.Machine

theorem OnePort.refl (p : Port) (c : Chip) : OnePort p c c := fun _ _ => rfl

theorem OnePort.setPort {b c : Chip} {p : Port} (h : OnePort p b c) (x : PortState) : OnePort p b (c.setPort p x) :=
  fun q hq => (Chip.port_setPort_ne c p x hq).trans (h q hq)

theorem OnePort.trans {b c d : Chip} {p : Port} (h : OnePort p b c) (k : OnePort p c d) : OnePort p b d :=
  fun q hq => (k q hq).trans (h q hq)

/-- An operation on a port: of the volatile state, the fields of the list and the port's own state. -/
structure PortAt (p : Port) (l : List Field) (b c : Chip) : Prop where
  only : Only [.regs, .fresh, .ports] b c
  one : OnePort p b c
  fields : FieldsBut l b c

section
variable {p : Port} {l : List Field}

theorem PortAt.refl (c : Chip) : PortAt p l c c := ⟨.refl _ c, OnePort.refl p c, FieldsBut.refl l c⟩

theorem PortAt.trans {b c d : Chip} (h : PortAt p l b c) (k : PortAt p l c d) : PortAt p l b d :=
  ⟨h.only.trans k.only, h.one.trans k.one, h.fields.trans k.fields⟩

theorem PortAt.mono {m : List Field} {b c : Chip} (h : PortAt p l b c) (hl : ∀ f ∈ l, f ∈ m) : PortAt p m b c :=
  ⟨h.only, h.one, h.fields.mono hl⟩

theorem PortAt.put (c : Chip) (f : Field) (v : Nat) (ok : f.ok) (hf : f ∈ l) : PortAt p l c (c.put f v) :=
  ⟨(Only.put c f v).mono, (Only.put c f v).onePort p, (FieldsBut.refl l c).put f v ok hf⟩

theorem PortAt.bump (c : Chip) (f : Field) (n : Nat) (ok : f.ok) (hf : f ∈ l) : PortAt p l c (c.bump f n) :=
  ⟨(Only.bump c f n).mono, (Only.bump c f n).onePort p, (FieldsBut.refl l c).bump f n ok hf⟩

theorem PortAt.setPort (c : Chip) (x : PortState) : PortAt p l c (c.setPort p x) :=
  ⟨(Only.setPort c p x).mono, (OnePort.refl p c).setPort x, (FieldsBut.refl l c).of_regs rfl⟩

theorem PortAt.ite {b c d : Chip} {q : Prop} [Decidable q] (hc : PortAt p l b c) (hd : PortAt p l b d) :
    PortAt p l b (if q then c else d) := by
  split
  · exact hc
  · exact hd

end

/-! ### A qualified edge (R148, R149, R151) -/

section
variable (c : Chip) (p : Port) (v : Bool)

/-- The fields that a sample of a digital input may change. -/
def digitalFields : List Field := [FP_STAT_LEVEL p.val, FP_STAT_LIM_TRIP p.val, FP_EVT_EVENTS p.val, FP_FREQ_PERIOD p.val]

/-- The level and the event of an edge. -/
def Chip.edgeNoted : Chip :=
  let d := (c.putF (FP_STAT_LEVEL p.val) v).portEvent p
  d.setPort p { d.port p with digTick := d.now }

/-- The trip of a limit's active edge. -/
def Chip.edgeTripped : Chip := if c.isLimit p && v then c.put (FP_STAT_LIM_TRIP p.val) 1 else c

/-- The period that a rise ends. -/
def Chip.edgeTimed : Chip :=
  if v && c.get (FP_CFG_DSUB p.val) == 1 then
    let d := match (c.port p).lastRise with | some t => c.put (FP_FREQ_PERIOD p.val) (c.now - t) | none => c
    d.setPort p { d.port p with lastRise := some d.now }
  else c

theorem Chip.qualifiedEdge_eq : c.qualifiedEdge p v = ((c.edgeNoted p v).edgeTripped p v).edgeTimed p v := rfl

theorem PortAt.edgeNoted : PortAt p [FP_STAT_LEVEL p.val, FP_EVT_EVENTS p.val] c (c.edgeNoted p v) :=
  ((PortAt.put c (FP_STAT_LEVEL p.val) _ (Field.ok_of _ rfl) (by simp)).trans
    (.bump _ (FP_EVT_EVENTS p.val) 1 (Field.ok_of _ rfl) (by simp))).trans (.setPort ..)

theorem PortAt.edgeTripped : PortAt p [FP_STAT_LIM_TRIP p.val] c (c.edgeTripped p v) :=
  .ite (.put c _ 1 (Field.ok_of _ rfl) List.mem_cons_self) (.refl c)

theorem PortAt.edgeTimed : PortAt p [FP_FREQ_PERIOD p.val] c (c.edgeTimed p v) := by
  unfold Chip.edgeTimed
  dsimp only
  split
  · split
    · exact (PortAt.put c _ _ (Field.ok_of _ rfl) List.mem_cons_self).trans (.setPort ..)
    · exact .setPort ..
  · exact .refl c

theorem PortAt.qualifiedEdge : PortAt p (digitalFields p) c (c.qualifiedEdge p v) := by
  rw [Chip.qualifiedEdge_eq]
  exact (((PortAt.edgeNoted c p v).mono (by simp [digitalFields])).trans ((PortAt.edgeTripped _ p v).mono (by simp [digitalFields]))).trans
    ((PortAt.edgeTimed _ p v).mono (by simp [digitalFields]))

theorem apart_frequency {f : Field} (hf : f.addr = FP_STAT p.val ∨ f.addr = FP_EVT p.val ∨ f.addr = FP_CFG p.val) :
    f.apart (FP_FREQ_PERIOD p.val) := by
  refine .inl ?_
  simp only [FP_STAT, FP_EVT, FP_CFG, FP_FREQ_PERIOD, FP_FREQ] at *
  omega

theorem Chip.edgeTimed_get {f : Field} (ok : f.ok) (hf : f.addr = FP_STAT p.val ∨ f.addr = FP_EVT p.val ∨ f.addr = FP_CFG p.val) :
    (c.edgeTimed p v).get f = c.get f :=
  (PortAt.edgeTimed c p v).fields f ok (by simpa using apart_frequency p hf)

theorem Chip.edgeTripped_get {f : Field} (ok : f.ok) (hf : f.apart (FP_STAT_LIM_TRIP p.val)) : (c.edgeTripped p v).get f = c.get f :=
  (PortAt.edgeTripped c p v).fields f ok (by simpa using hf)

theorem Chip.edgeTimed_digQual : ((c.edgeTimed p v).port p).digQual = (c.port p).digQual := by
  unfold Chip.edgeTimed
  dsimp only
  split
  · rw [Chip.port_setPort]
    split
    next t _ =>
      show ((c.put (FP_FREQ_PERIOD p.val) (c.now - t)).port p).digQual = _
      rw [Chip.port_put]
    next => rfl
  · rfl

theorem Chip.qualifiedEdge_digQual : ((c.qualifiedEdge p v).port p).digQual = (c.port p).digQual := by
  have noted : ((c.putF (FP_STAT_LEVEL p.val) v).portEvent p).port p = c.port p :=
    (((Only.putF ..).mono : Only [.regs, .fresh] c (c.putF (FP_STAT_LEVEL p.val) v)).then (.bump _ (FP_EVT_EVENTS p.val) 1)).port p
  have tripped (d : Chip) : (d.edgeTripped p v).port p = d.port p :=
    (Only.ite (Only.put ..) (.refl ..) : Only [.regs] d (d.edgeTripped p v)).port p
  rw [Chip.qualifiedEdge_eq, Chip.edgeTimed_digQual, tripped, Chip.edgeNoted, Chip.port_setPort]
  show (((c.putF (FP_STAT_LEVEL p.val) v).portEvent p).port p).digQual = _
  rw [noted]

theorem Chip.qualifiedEdge_level : (c.qualifiedEdge p v).flag (FP_STAT_LEVEL p.val) = v := by
  have level : (c.qualifiedEdge p v).get (FP_STAT_LEVEL p.val) = v.toNat := by
    rw [Chip.qualifiedEdge_eq, Chip.edgeTimed_get _ p v (Field.ok_of _ rfl) (.inl rfl),
      Chip.edgeTripped_get _ p v (Field.ok_of _ rfl) (Field.apart_of _ _ rfl), Chip.edgeNoted, Chip.setPort_get, Chip.portEvent]
    refine ((FieldsBut.refl [FP_EVT_EVENTS p.val] (c.putF (FP_STAT_LEVEL p.val) v)).bump _ 1 (Field.ok_of _ rfl) List.mem_cons_self
      (FP_STAT_LEVEL p.val) (Field.ok_of _ rfl) (by simpa using .inl (by simp [FP_STAT_LEVEL, FP_STAT, FP_EVT_EVENTS, FP_EVT]))).trans ?_
    exact Chip.get_put_lt c _ (Field.ok_of _ rfl) _ v.toNat_lt
  rw [Chip.flag, level]
  cases v <;> rfl

theorem Chip.qualifiedEdge_events : (c.qualifiedEdge p v).get (FP_EVT_EVENTS p.val) = min (c.get (FP_EVT_EVENTS p.val) + 1) (2 ^ 32 - 1) := by
  have other : (FP_EVT_EVENTS p.val).addr ≠ FP_STAT p.val := by
    simp only [FP_EVT_EVENTS, FP_EVT, FP_STAT]
    omega
  rw [Chip.qualifiedEdge_eq, Chip.edgeTimed_get _ p v (Field.ok_of _ rfl) (.inr (.inl rfl)),
    Chip.edgeTripped_get _ p v (Field.ok_of _ rfl) (.inl other), Chip.edgeNoted, Chip.setPort_get]
  refine (Chip.get_bump _ _ (Field.ok_of _ rfl) 1).trans ?_
  rw [show (c.putF (FP_STAT_LEVEL p.val) v).get (FP_EVT_EVENTS p.val) = c.get (FP_EVT_EVENTS p.val) from Chip.get_put_ne c _ _ _ other]
  rfl

/-- A port is a limit by its configuration. -/
theorem Chip.isLimit_of_fields {b c : Chip} {l : List Field} (h : FieldsBut l b c) (hl : ∀ f ∈ l, f.addr ≠ FP_CFG p.val) : c.isLimit p = b.isLimit p := by
  have same {f : Field} (ok : f.ok) (hf : f.addr = FP_CFG p.val) : c.get f = b.get f :=
    h f ok fun g hg => .inl fun e => hl g hg (e.symm.trans hf)
  simp only [Chip.isLimit, Chip.leads, Chip.flag, same (Field.ok_of (FP_CFG_EN p.val) rfl) rfl, same (Field.ok_of (FP_CFG_FUNC p.val) rfl) rfl,
    same (Field.ok_of (FP_CFG_ROLE p.val) rfl) rfl, same (Field.ok_of (FP_CFG_DSUB p.val) rfl) rfl]

theorem Chip.qualifiedEdge_trip : (c.qualifiedEdge p v).flag (FP_STAT_LIM_TRIP p.val) =
    (c.flag (FP_STAT_LIM_TRIP p.val) || (c.isLimit p && v)) := by
  have limit : (c.edgeNoted p v).isLimit p = c.isLimit p := by
    refine Chip.isLimit_of_fields p (PortAt.edgeNoted c p v).fields fun f hf => ?_
    simp only [List.mem_cons, List.not_mem_nil, or_false] at hf
    rcases hf with rfl | rfl <;> simp only [FP_STAT_LEVEL, FP_STAT, FP_EVT_EVENTS, FP_EVT, FP_CFG] <;> omega
  have before : (c.edgeNoted p v).get (FP_STAT_LIM_TRIP p.val) = c.get (FP_STAT_LIM_TRIP p.val) := by
    refine (PortAt.edgeNoted c p v).fields _ (Field.ok_of _ rfl) ?_
    intro g hg
    simp only [List.mem_cons, List.not_mem_nil, or_false] at hg
    rcases hg with rfl | rfl
    · exact Field.apart_of _ _ rfl
    · refine .inl ?_
      simp only [FP_STAT_LIM_TRIP, FP_STAT, FP_EVT_EVENTS, FP_EVT]
      omega
  rw [Chip.qualifiedEdge_eq, Chip.flag_of_get (Chip.edgeTimed_get _ p v (Field.ok_of _ rfl) (.inl rfl)), Chip.edgeTripped, limit]
  split
  next trips => rw [trips, Bool.or_true, Chip.flag_one (Chip.get_put_fit _ _ 1 rfl)]
  next rests => rw [Bool.not_eq_true] at rests; rw [rests, Bool.or_false, Chip.flag_of_get before]

/-! ### One sample (R148) -/

/-- The chip with a sample's level and run noted. -/
def Chip.digSampled : Chip :=
  c.setPort p { c.port p with
    digLevel := v, digRun := if v == (c.port p).digLevel then min ((c.port p).digRun + 1) 8 else 1, sampTick := some c.now }

theorem PortAt.digSampled {l : List Field} : PortAt p l c (c.digSampled p v) := .setPort ..

/-- The first qualified level. -/
def Chip.digFirst : Chip :=
  (c.putF (FP_STAT_LEVEL p.val) v).setPort p { c.port p with digQual := true, digTick := c.now }

theorem PortAt.digFirst : PortAt p (digitalFields p) c (c.digFirst p v) :=
  (PortAt.put c (FP_STAT_LEVEL p.val) _ (Field.ok_of _ rfl) (by simp [digitalFields])).trans (.setPort ..)

end

section
variable {c : Chip} {p : Port} {raw v : Bool} (runs : c.portsRun = true) (sampled : c.sampledInput p = true) (due : c.sampDue p = true)
  (level : (raw != c.flag (FP_CFG_REV p.val)) = v)
include runs sampled due level

theorem Chip.digital_short (few : (c.port p).digRun < 7 ∨ (c.port p).digLevel ≠ v) : c.digital p raw = c.digSampled p v := by
  have n : (if v == (c.port p).digLevel then min ((c.port p).digRun + 1) 8 else 1) < 8 := by
    split
    next same =>
      rcases few with few | other
      · omega
      · exact absurd (beq_iff_eq.mp same).symm other
    next => decide
  rw [Chip.digital, if_neg (by simp [runs, sampled, due])]
  simp only [level]
  exact if_pos n

theorem Chip.digital_qualifies (same : (c.port p).digLevel = v) (many : 7 ≤ (c.port p).digRun) : c.digital p raw =
    if !(c.port p).digQual then (c.digSampled p v).digFirst p v
    else if (c.digSampled p v).flag (FP_STAT_LEVEL p.val) = v then c.digSampled p v else (c.digSampled p v).qualifiedEdge p v := by
  have n : ¬ (if v == (c.port p).digLevel then min ((c.port p).digRun + 1) 8 else 1) < 8 := by
    rw [same, beq_self_eq_true, if_pos rfl]
    omega
  rw [Chip.digital, if_neg (by simp [runs, sampled, due])]
  simp only [level]
  exact if_neg n

end

/-- What a sample that qualifies the level `v` shows. -/
structure Qualified (p : Port) (v : Bool) (b c : Chip) : Prop where
  frame : PortAt p (digitalFields p) b c
  level : c.flag (FP_STAT_LEVEL p.val) = v
  qualified : (c.port p).digQual = true
  first : (b.port p).digQual = false → c.get (FP_EVT_EVENTS p.val) = b.get (FP_EVT_EVENTS p.val) ∧
    c.flag (FP_STAT_LIM_TRIP p.val) = b.flag (FP_STAT_LIM_TRIP p.val)
  edge : (b.port p).digQual = true → b.flag (FP_STAT_LEVEL p.val) ≠ v →
    c.get (FP_EVT_EVENTS p.val) = min (b.get (FP_EVT_EVENTS p.val) + 1) (2 ^ 32 - 1) ∧
    c.flag (FP_STAT_LIM_TRIP p.val) = (b.flag (FP_STAT_LIM_TRIP p.val) || (b.isLimit p && v))

theorem Chip.digFirst_get (c : Chip) (p : Port) (v : Bool) {f : Field} (ok : f.ok) (hf : f.apart (FP_STAT_LEVEL p.val)) :
    (c.digFirst p v).get f = c.get f :=
  (Chip.setPort_get ..).trans (Chip.get_put_apart _ _ _ _ ok (Field.ok_of _ rfl) hf)

theorem Qualified.digital {c : Chip} {p : Port} {raw v : Bool} (runs : c.portsRun = true) (sampled : c.sampledInput p = true)
    (due : c.sampDue p = true) (level : (raw != c.flag (FP_CFG_REV p.val)) = v) (same : (c.port p).digLevel = v)
    (many : 7 ≤ (c.port p).digRun) : Qualified p v c (c.digital p raw) := by
  have seen : PortAt p (digitalFields p) c (c.digSampled p v) := .digSampled c p v
  have still : ((c.digSampled p v).port p).digQual = (c.port p).digQual := by
    rw [Chip.digSampled, Chip.port_setPort]
  rw [Chip.digital_qualifies runs sampled due level same many]
  cases known : (c.port p).digQual
  · rw [if_pos (by decide)]
    refine ⟨seen.trans (.digFirst ..), ?_, ?_, fun _ => ⟨?_, ?_⟩, fun h => absurd (known.symm.trans h) (by decide)⟩
    · have shown : ((c.digSampled p v).digFirst p v).get (FP_STAT_LEVEL p.val) = v.toNat :=
        (Chip.setPort_get ..).trans (Chip.get_put_lt _ _ (Field.ok_of _ rfl) _ v.toNat_lt)
      rw [Chip.flag, shown]
      cases v <;> rfl
    · rw [Chip.digFirst, Chip.port_setPort]
    · exact Chip.digFirst_get _ p v (Field.ok_of _ rfl) (.inl (by simp only [FP_EVT_EVENTS, FP_EVT, FP_STAT_LEVEL, FP_STAT]; omega))
    · exact Chip.flag_of_get (Chip.digFirst_get _ p v (Field.ok_of _ rfl) (Field.apart_of _ _ rfl))
  · rw [if_neg (by decide)]
    split
    next shown =>
      exact ⟨seen, shown, still.trans known, fun h => absurd (known.symm.trans h) (by decide), fun _ other => absurd shown other⟩
    next =>
      exact ⟨seen.trans (.qualifiedEdge ..), Chip.qualifiedEdge_level .., (Chip.qualifiedEdge_digQual ..).trans (still.trans known),
        fun h => absurd (known.symm.trans h) (by decide), fun _ _ => ⟨Chip.qualifiedEdge_events .., Chip.qualifiedEdge_trip ..⟩⟩

/-! ### The removal of a pack (R243) -/

section
variable (c : Chip) (r : Region) (p : Port)

/-- What an operation on the pack of a region leaves alone. -/
structure PackFrame (r : Region) (b c : Chip) : Prop where
  only : Only [.regs, .fresh, .buses, .faults] b c
  regs : RegsBut [BUS_STAT r.val, BUS_SWAPS r.val] b c
  one : OneBus r b c
  events : Appends b c

theorem PackFrame.presence : PackFrame r c (c.presence r p) := by
  have opened : Only [.regs, .fresh, .buses] c ((((c.admOff r).put (BUS_STAT_PACK_SEEN r.val) 0)).bump (BUS_SWAPS_REMOVALS r.val) 1) :=
    (((Only.admOff c r).mono : Only [.regs, .fresh, .buses] _ _).then (.put ..)).then (.bump ..)
  have removed : PackFrame r c (c.packRemoved r) := by
    refine ⟨(opened.mono).then (.raise ..), ?_, ?_, opened.appends.trans (.raise ..)⟩
    · exact ((((((RegsBut.refl _ c).put (BUS_STAT_ADM r.val) 0 List.mem_cons_self).of_regs rfl).put (BUS_STAT_PACK_SEEN r.val) 0
        List.mem_cons_self).bump (BUS_SWAPS_REMOVALS r.val) 1 (by simp [BUS_SWAPS_REMOVALS])).of_regs rfl)
    · exact (((((OneBus.of_put c r _ 0).setBus _).trans (OneBus.of_put _ r (BUS_STAT_PACK_SEEN r.val) 0)).trans
        ((Only.bump _ (BUS_SWAPS_REMOVALS r.val) 1).oneBus r)).trans ((Only.raise _ (srcRegion r 4)).oneBus r))
  unfold Chip.presence
  split
  · exact removed
  · exact ⟨.refl _ c, RegsBut.refl _ c, OneBus.refl r c, .refl c⟩

/-- The presence port tells that the pack of `r` is gone. -/
structure PackGone : Prop where
  enabled : c.flag (BUS_ADM_EN r.val) = true
  presence : c.flag (BUS_ADM_PRES_EN r.val) = true
  port : c.get (BUS_ADM_PRES r.val) = p.val
  admitted : c.adm r = 2
  qualified : (c.port p).digQual = true
  inactive : c.flag (FP_STAT_LEVEL p.val) = false

/-- What a removal shows. -/
structure PackRemoved (n : Nat) : Prop where
  opened : c.adm r = 0
  unseen : c.get (BUS_STAT_PACK_SEEN r.val) = 0
  gate : (c.bus r).gate = 0
  removals : c.get (BUS_SWAPS_REMOVALS r.val) = min (n + 1) 65535
  event : ⟨srcRegion r 4, 1, 0, 0, false⟩ ∈ c.faults.events

variable {c r p}

theorem Chip.presence_idle (h : ¬ PackGone c r p) : c.presence r p = c := by
  refine if_neg fun cond => h ?_
  simp only [Bool.and_eq_true, beq_iff_eq, Bool.not_eq_true'] at cond
  obtain ⟨⟨⟨⟨⟨enabled, presence⟩, port⟩, admitted⟩, qualified⟩, inactive⟩ := cond
  exact ⟨enabled, presence, port, admitted, qualified, inactive⟩

theorem Chip.presence_removes (h : PackGone c r p) : c.presence r p = c.packRemoved r :=
  if_pos (by simp [h.enabled, h.presence, h.port, h.admitted, h.qualified, h.inactive])

theorem PackRemoved.packRemoved (c : Chip) (r : Region) : PackRemoved (c.packRemoved r) r (c.get (BUS_SWAPS_REMOVALS r.val)) := by
  have other : (BUS_SWAPS_REMOVALS r.val).addr ≠ BUS_STAT r.val := by
    simp only [BUS_SWAPS_REMOVALS, BUS_SWAPS, BUS_STAT]
    omega
  have kept {f : Field} (ok : f.ok) (hf : f.addr = BUS_STAT r.val) :
      (c.packRemoved r).get f = ((c.admOff r).put (BUS_STAT_PACK_SEEN r.val) 0).get f := by
    rw [Chip.packRemoved, Chip.raise_get]
    refine ((FieldsBut.refl [BUS_SWAPS_REMOVALS r.val] _).bump _ 1 (Field.ok_of _ rfl) List.mem_cons_self f ok ?_)
    simpa using .inl (hf ▸ other.symm)
  have opened : (c.admOff r).get (BUS_STAT_ADM r.val) = 0 := (Chip.setBus_get ..).trans (c.adm_put r (by decide))
  refine ⟨?_, ?_, ?_, ?_, ?_⟩
  · refine (kept (Field.ok_of (BUS_STAT_ADM r.val) rfl) rfl).trans ?_
    rw [Chip.get_put_beside _ _ _ _ rfl]
    exact opened
  · exact (kept (Field.ok_of (BUS_STAT_PACK_SEEN r.val) rfl) rfl).trans (Chip.get_put_fit _ _ 0 rfl)
  · have same : (c.packRemoved r).bus r = (c.admOff r).bus r :=
      (((((Only.put ..).mono : Only [.regs, .fresh] (c.admOff r) ((c.admOff r).put (BUS_STAT_PACK_SEEN r.val) 0)).then
        (.bump _ (BUS_SWAPS_REMOVALS r.val) 1)).mono : Only [.regs, .fresh, .faults] _ _).then (.raise _ (srcRegion r 4))).bus r
    rw [same, Chip.admOff, Chip.bus_setBus]
  · rw [Chip.packRemoved, Chip.raise_get]
    refine (Chip.get_bump _ _ (Field.ok_of _ rfl) 1).trans ?_
    rw [Chip.get_put_ne _ _ (BUS_STAT_PACK_SEEN r.val) _ other]
    have same : (c.admOff r).get (BUS_SWAPS_REMOVALS r.val) = c.get (BUS_SWAPS_REMOVALS r.val) :=
      (Chip.setBus_get ..).trans (Chip.get_put_ne c _ (BUS_STAT_ADM r.val) _ other)
    rw [same]
    rfl
  · rw [Chip.packRemoved, Chip.raise_events]
    exact List.mem_append_right _ (List.mem_singleton_self _)

theorem PackFrame.gets {q : Region} {b c : Chip} (h : PackFrame q b c) (hq : r ≠ q) {f : Field}
    (hf : f.addr = BUS_STAT r.val ∨ f.addr = BUS_SWAPS r.val ∨ f.addr = BUS_ADM r.val ∨ f.addr = FP_STAT p.val) : c.get f = b.get f := by
  have apart : r.val ≠ q.val := fun e => hq (Fin.ext e)
  refine h.regs.get ?_
  simp only [List.mem_cons, List.not_mem_nil, or_false, BUS_STAT, BUS_SWAPS, BUS_ADM, FP_STAT] at *
  omega

theorem PackGone.of_frame {q : Region} {b c : Chip} (gone : PackGone b r p) (h : PackFrame q b c) (hq : r ≠ q) : PackGone c r p := by
  have same {f : Field} := PackFrame.gets (p := p) (f := f) h hq
  refine ⟨?_, ?_, ?_, ?_, ?_, ?_⟩
  · exact (Chip.flag_of_get (same (f := BUS_ADM_EN r.val) (.inr (.inr (.inl rfl))))).trans gone.enabled
  · exact (Chip.flag_of_get (same (f := BUS_ADM_PRES_EN r.val) (.inr (.inr (.inl rfl))))).trans gone.presence
  · exact (same (f := BUS_ADM_PRES r.val) (.inr (.inr (.inl rfl)))).trans gone.port
  · exact (same (f := BUS_STAT_ADM r.val) (.inl rfl)).trans gone.admitted
  · exact (congrArg PortState.digQual (h.only.port p)).trans gone.qualified
  · exact (Chip.flag_of_get (same (f := FP_STAT_LEVEL p.val) (.inr (.inr (.inr rfl))))).trans gone.inactive

theorem PackRemoved.of_frame {q : Region} {b c : Chip} {n : Nat} (removed : PackRemoved b r n) (h : PackFrame q b c) (hq : r ≠ q) :
    PackRemoved c r n := by
  have same {f : Field} := PackFrame.gets (p := 0) (f := f) h hq
  refine ⟨?_, ?_, ?_, ?_, ?_⟩
  · exact (same (f := BUS_STAT_ADM r.val) (.inl rfl)).trans removed.opened
  · exact (same (f := BUS_STAT_PACK_SEEN r.val) (.inl rfl)).trans removed.unseen
  · exact (congrArg BusState.gate (h.one r hq)).trans removed.gate
  · exact (same (f := BUS_SWAPS_REMOVALS r.val) (.inr (.inl rfl))).trans removed.removals
  · exact List.IsPrefix.subset h.events removed.event

/-- What the presence ports tell after a sample. -/
def Chip.presences (c : Chip) (p : Port) : Chip := c.each allRegions fun c r => c.presence r p

theorem Chip.presences_eq (c : Chip) (p : Port) : c.presences p = (c.presence 0 p).presence 1 p := rfl

theorem Chip.presences_idle (h : ∀ r, ¬ PackGone c r p) : c.presences p = c := by
  rw [Chip.presences_eq, Chip.presence_idle (h 0), Chip.presence_idle (h 1)]

theorem PackRemoved.presences (gone : PackGone c r p) : PackRemoved (c.presences p) r (c.get (BUS_SWAPS_REMOVALS r.val)) := by
  rw [Chip.presences_eq]
  obtain rfl | rfl := (Fin.forall_fin_two (p := fun r => r = 0 ∨ r = 1)).mpr ⟨.inl rfl, .inr rfl⟩ r
  · rw [Chip.presence_removes gone]
    exact (PackRemoved.packRemoved c 0).of_frame (.presence _ 1 p) (by decide)
  · have frame := PackFrame.presence c 0 p
    rw [Chip.presence_removes (gone.of_frame frame (by decide)), ← PackFrame.gets (p := p) frame (f := BUS_SWAPS_REMOVALS (1 : Region).val) (r := 1) (by decide) (.inr (.inl rfl))]
    exact PackRemoved.packRemoved _ 1

end

/-- The fields of a digital sample are no bus's. -/
theorem PortAt.bus_get {p : Port} {b c : Chip} (h : PortAt p (digitalFields p) b c) {f : Field} (ok : f.ok) (hf : 0x0D0000 ≤ f.addr) :
    c.get f = b.get f := by
  refine h.fields f ok fun g hg => .inl ?_
  simp only [digitalFields, List.mem_cons, List.not_mem_nil, or_false] at hg
  rcases hg with rfl | rfl | rfl | rfl <;>
    simp only [FP_STAT_LEVEL, FP_STAT_LIM_TRIP, FP_STAT, FP_EVT_EVENTS, FP_EVT, FP_FREQ_PERIOD, FP_FREQ] <;> omega

end Sys2Proof.Machine

open Sys2Proof.Machine

/-- Settles O24: a sample by what qualifies, an edge by its stages, and what the presence port tells afterwards. -/
theorem digitalInputs : Obligations.DigitalInputs := by
  refine ⟨?qualifies, ?short, ?removal, ?rearm, ?frequency, ?clears, ?refused⟩
  case qualifies =>
    intro s p raw v runs sampled level same many due present
    have shows := Qualified.digital runs sampled due level same many
    have bus {f : Field} (ok : f.ok) (hf : 0x0D0000 ≤ f.addr) := shows.frame.bus_get ok hf
    have quiet (r : Sys2Proof.Region) : ¬ PackGone (s.chip.digital p raw) r p := fun gone => by
      have high : 0x0D0000 ≤ BUS_ADM r.val ∧ 0x0D0000 ≤ BUS_STAT r.val := by
        simp only [BUS_ADM, BUS_STAT]
        omega
      rcases present r ((Chip.flag_of_get (bus (Field.ok_of (BUS_ADM_EN r.val) rfl) high.1)).symm.trans gone.enabled)
        ((Chip.flag_of_get (bus (Field.ok_of (BUS_ADM_PRES_EN r.val) rfl) high.1)).symm.trans gone.presence)
        ((bus (Field.ok_of (BUS_ADM_PRES r.val) rfl) high.1).symm.trans gone.port) with other | active
      · exact other ((bus (Field.ok_of (BUS_STAT_ADM r.val) rfl) high.2).symm.trans gone.admitted)
      · exact absurd (gone.inactive.symm.trans (shows.level.trans active)) (by decide)
    exact completes_of_run (fun c => (c.digital p raw).presences p) rfl (Chip.presences_idle quiet)
      ⟨shows.level, shows.qualified, shows.first, shows.edge, shows.frame.fields, shows.frame.one, shows.frame.only.eq⟩
  case short =>
    intro s p raw runs sampled due few idle
    have run := Chip.digital_short runs sampled due rfl few
    have frame := PortAt.digSampled s.chip p (raw != s.chip.flag (FP_CFG_REV p.val)) (l := digitalFields p)
    have quiet (r : Sys2Proof.Region) : ¬ PackGone (s.chip.digital p raw) r p := fun gone => by
      rw [run] at gone
      exact idle r ((frame.bus_get (Field.ok_of (BUS_STAT_ADM r.val) rfl) (by simp only [BUS_STAT_ADM, BUS_STAT]; omega)).symm.trans gone.admitted)
    refine completes_of_run (fun c => (c.digital p raw).presences p) rfl ((Chip.presences_idle quiet).trans run) ⟨?_, frame.one, rfl⟩
    rw [Chip.digSampled, Chip.port_setPort]
  case removal =>
    intro s p raw r runs sampled due level same many enabled presence port admitted
    have shows := Qualified.digital runs sampled due level same many
    have high : 0x0D0000 ≤ BUS_ADM r.val ∧ 0x0D0000 ≤ BUS_STAT r.val ∧ 0x0D0000 ≤ BUS_SWAPS r.val := by
      simp only [BUS_ADM, BUS_STAT, BUS_SWAPS]
      omega
    have bus {f : Field} (ok : f.ok) (hf : 0x0D0000 ≤ f.addr) := shows.frame.bus_get ok hf
    have gone : PackGone (s.chip.digital p raw) r p :=
      ⟨(Chip.flag_of_get (bus (Field.ok_of (BUS_ADM_EN r.val) rfl) high.1)).trans enabled,
        (Chip.flag_of_get (bus (Field.ok_of (BUS_ADM_PRES_EN r.val) rfl) high.1)).trans presence,
        (bus (Field.ok_of (BUS_ADM_PRES r.val) rfl) high.1).trans port,
        (bus (Field.ok_of (BUS_STAT_ADM r.val) rfl) high.2.1).trans admitted, shows.qualified, shows.level⟩
    have removed := PackRemoved.presences gone
    refine completes_of_run (fun c => (c.digital p raw).presences p) rfl rfl
      ⟨removed.opened, removed.unseen, removed.gate, removed.removals.trans ?_, removed.event⟩
    rw [bus (Field.ok_of (BUS_SWAPS_REMOVALS r.val) rfl) high.2.2]
  case rearm =>
    intro s p runs limit trip pend qualified inactive late
    have run : s.chip.limitRearm p = (s.chip.put (FP_STAT_LIM_TRIP p.val) 0).put (FP_STAT_CLRPEND p.val) 0 :=
      if_pos (by simp [Chip.quiet, runs, limit, trip, pend, qualified, inactive, late])
    refine completes_of_run (·.limitRearm p) rfl run ⟨?_, Chip.get_put_fit _ _ 0 rfl, ?_, rfl⟩
    · rw [Chip.get_put_beside _ _ _ _ rfl]
      exact Chip.get_put_fit _ _ 0 rfl
    · exact ((FieldsBut.refl _ s.chip).put _ _ (Field.ok_of _ rfl) List.mem_cons_self).put _ _ (Field.ok_of _ rfl) (by simp)
  case frequency =>
    intro s p runs leads dsub late
    have quiet : s.chip.noRise p = true := by
      rw [Chip.noRise]
      split
      next t h => exact decide_eq_true (late t h)
      next => rfl
    exact completes_of_run (·.freqTimeout p) rfl (if_pos (by simp [runs, leads, dsub, quiet]))
      ⟨Chip.get_put_fit _ _ 0 rfl, (FieldsBut.refl _ s.chip).put _ _ (Field.ok_of _ rfl) List.mem_cons_self, rfl⟩
  case clears =>
    intro s path p serving trip
    have clear : judge [(!s.chip.flag (FP_STAT_LIM_TRIP p.val), .state)] = .ok := by
      simp [judge, trip]
    exact grants_of_ask (f := (·.limClr p)) rfl serving (s.chip.request_ok _ _ clear)
      ⟨Chip.get_put_fit _ _ 1 rfl, (FieldsBut.refl _ s.chip).put _ _ (Field.ok_of _ rfl) List.mem_cons_self, rfl⟩
  case refused =>
    intro s path p serving trip
    exact refuses_of_request (f := (·.limClr p)) rfl serving rfl (by simp [judge, trip]) (by decide)
end

section
-- One proof after the other: a side goal that `Only` settles by `decide` waits for the kernel, on a thread of its own.
set_option Elab.async false
/-! SUPPORT. The timebases and their sources: what feeding, losing and regaining them, judging the sources of an axis and changing a
port's state leave alone (R28 to R33, R130, R158 to R168). -/
namespace Sys2Proof.Machine

/-! ### Reported events -/

/-- Of the fault collector, only events have joined those reported. -/
def Reports (b c : Chip) : Prop := ∃ l, c.faults = { b.faults with events := b.faults.events ++ l }

theorem Reports.of_faults {b c : Chip} (h : c.faults = b.faults) : Reports b c :=
  ⟨[], by rw [h, List.append_nil]⟩

theorem Reports.refl (c : Chip) : Reports c c := .of_faults rfl

theorem Only.reports {l : List Part} {b c : Chip} (h : Only l b c) (hl : Part.faults ∉ l := by decide) : Reports b c :=
  .of_faults (h.same .faults hl)

theorem Reports.trans {b c d : Chip} (h : Reports b c) (k : Reports c d) : Reports b d := by
  obtain ⟨l, hl⟩ := h
  obtain ⟨m, hm⟩ := k
  exact ⟨l ++ m, by rw [hm, hl, List.append_assoc]⟩

theorem Reports.raise (c : Chip) (src : Nat) : Reports c (c.raise src) := ⟨_, rfl⟩

theorem Reports.ite {b c d : Chip} {p : Prop} [Decidable p] (hc : Reports b c) (hd : Reports b d) : Reports b (if p then c else d) := by
  split
  · exact hc
  · exact hd

theorem Reports.each {α : Type} {f : Chip → α → Chip} (c : Chip) (xs : List α) (hf : ∀ d, ∀ x ∈ xs, Reports d (f d x)) :
    Reports c (c.each xs f) :=
  Chip.each_keeps xs (.refl c) fun d hd x hx => hd.trans (hf d x hx)

/-! ### Timebases -/

section
variable (c : Chip) (n : Tb) (a : Axis) (p : Port)

theorem Only.feed (v : BitVec 32) (motion : Bool) : Only [.tbs] c (c.feed n v motion) := .of_mix rfl
theorem Only.jumpNext : Only [.tbs] c (c.jumpNext n) := .of_mix rfl
theorem Only.loseTb : Only [.tbs] c (c.loseTb n) := .of_mix rfl
theorem Only.regainTb : Only [.tbs] c (c.regainTb n) := .of_mix rfl

theorem Only.feedMaster (motion : Bool) : Only [.regs, .fresh, .tbs] c (c.feedMaster p n motion) := by
  unfold Chip.feedMaster
  dsimp only
  split
  · exact .refl ..
  split
  · exact ((Only.markIf ..).mono).then (.feed ..)
  · exact (Only.feed ..).mono

theorem Only.feedAxis (motion : Bool) : Only [.tbs] c (c.feedAxis a motion) := by
  unfold Chip.feedAxis
  dsimp only
  split
  · exact .refl ..
  split
  · exact .ite ((Only.feed ..).trans (.feed ..)) (.refl ..)
  · exact .ite ((Only.feed ..).trans (.feed ..)) (.refl ..)

theorem Only.rebase : Only [.tbs] c (c.rebase a) :=
  (Only.feedAxis c a false).trans (.each _ _ fun _ _ _ => .ite (.refl ..) (.jumpNext ..))

theorem Only.loseAxis : Only [.tbs] c (c.loseAxis a) := (Only.loseTb ..).trans (.loseTb ..)

theorem Only.regainAxis : Only [.tbs] c (c.regainAxis a) := ((Only.regainTb ..).trans (.regainTb ..)).trans (.feedAxis ..)

/-! ### The sources of an axis (R164 to R168) -/

theorem Only.staleByLoss (sec : Bool) : Only [.tbs, .axes, .faults] c (c.staleByLoss a sec) :=
  (((Only.loseAxis c a).mono : Only [.tbs, .axes, .faults] _ _).then (.setAxis ..)).then (.raise ..)

/-- The axis with the validity of its sources shown, before what a loss brings. -/
def Chip.sourcesShown : Chip :=
  let x := c.axis a
  let pri := c.srcValid a false
  let sec := c.srcValid a true
  let wasP := c.flag (AX_SRCSTAT_PRI_OK a.val)
  let wasS := c.flag (AX_SRCSTAT_SEC_OK a.val)
  let ofs := c.flag (AX_SRCSTAT_OFS_OK a.val)
  let gone := (wasP && !pri) || (wasS && !sec)
  let start := pri && sec && !(wasP && wasS)
  (((c.putF (AX_SRCSTAT_PRI_OK a.val) pri).putF (AX_SRCSTAT_SEC_OK a.val) sec).putF
    (AX_SRCSTAT_OFS_OK a.val) (ofs && !gone && !start)).setAxis a { x with
      ofsAtLoss := if gone then ofs else x.ofsAtLoss
      learning := x.learning || start
      inBand := if gone || start then 0 else x.inBand
      outBand := if gone || start then 0 else x.outBand }

theorem Only.sourcesShown : Only [.regs, .axes] c (c.sourcesShown a) :=
  ((((Only.refl _ c).then (.putF ..)).then (.putF ..)).then (.putF ..)).then (.setAxis ..)

theorem RegsBut.sourcesShown : RegsBut [AX_SRCSTAT a.val] c (c.sourcesShown a) :=
  ((((RegsBut.refl _ c).put (AX_SRCSTAT_PRI_OK a.val) _ List.mem_cons_self).put (AX_SRCSTAT_SEC_OK a.val) _ List.mem_cons_self).put
    (AX_SRCSTAT_OFS_OK a.val) _ List.mem_cons_self).of_regs rfl

/-- Judging the sources shows them, and what a loss brings is that the timebases become STALE. -/
theorem Chip.refreshSources_cases {P : Chip → Prop} (shown : P (c.sourcesShown a)) (lost : ∀ sec, P ((c.sourcesShown a).staleByLoss a sec)) :
    P (c.refreshSources a) := by
  have eq : c.refreshSources a =
      if (c.sourcesShown a).onSec a && c.flag (AX_SRCSTAT_SEC_OK a.val) && !c.srcValid a true then (c.sourcesShown a).staleByLoss a true
      else if (c.axis a).switchDue.isSome && !c.srcValid a true then (c.sourcesShown a).staleByLoss a false
      else c.sourcesShown a := rfl
  rw [eq]
  split
  · exact lost true
  split
  · exact lost false
  · exact shown

theorem Only.refreshSources : Only [.regs, .tbs, .axes, .faults] c (c.refreshSources a) := by
  have shown : Only [.regs, .tbs, .axes, .faults] c (c.sourcesShown a) := (Only.sourcesShown c a).mono
  exact c.refreshSources_cases a shown fun sec => shown.then (.staleByLoss ..)

theorem RegsBut.refreshSources : RegsBut [AX_SRCSTAT a.val] c (c.refreshSources a) := by
  have shown := RegsBut.sourcesShown c a
  exact c.refreshSources_cases a shown fun sec => shown.of_regs ((Only.staleByLoss _ a sec).same .regs (by decide))

theorem Reports.staleByLoss (sec : Bool) : Reports c (c.staleByLoss a sec) :=
  ((((Only.loseAxis c a).mono : Only [.tbs, .axes] _ _).then (.setAxis ..)).reports).trans (.raise ..)

theorem Reports.refreshSources : Reports c (c.refreshSources a) := by
  have shown := (Only.sourcesShown c a).reports
  exact c.refreshSources_cases a shown fun sec => shown.trans (.staleByLoss ..)

/-! ### Delivery and the states of a port (R130, R133) -/

/-- The registers that show what a port's group delivers. -/
def Delivered (x : Nat) : Prop := (∃ n : Tb, x = CUE_TB_STAT n.val) ∨ (∃ a : Axis, x = AX_SRCSTAT a.val) ∨ ∃ p : Port, x = FP_STAT p.val

theorem RegsOf.feedMaster (motion : Bool) : RegsOf (fun x => ¬ Delivered x) c (c.feedMaster p n motion) := by
  unfold Chip.feedMaster
  dsimp only
  split
  · exact .refl ..
  split
  · refine RegsOf.trans (RegsOf.of_regsBut ((RegsBut.refl [CUE_TB_STAT n.val] c).markIf _ _ List.mem_cons_self) fun x hx => not_not_intro ?_)
      (.of_regs ((Only.feed ..).same .regs (by decide)))
    exact .inl ⟨n, List.mem_singleton.mp hx⟩
  · exact .of_regs ((Only.feed ..).same .regs (by decide))

theorem Only.deliver (motion : Bool) : Only [.regs, .fresh, .tbs] c (c.deliver p motion) := by
  have master : Only [.regs, .fresh, .tbs] c (match c.masterOf p with | some n => c.feedMaster p n motion | none => c) := by
    split
    · exact .feedMaster ..
    · exact .refl ..
  exact .ite (master.trans (.each _ _ fun _ _ _ => (Only.feedAxis ..).mono)) master

theorem RegsOf.deliver (motion : Bool) : RegsOf (fun x => ¬ Delivered x) c (c.deliver p motion) := by
  have master : RegsOf (fun x => ¬ Delivered x) c (match c.masterOf p with | some n => c.feedMaster p n motion | none => c) := by
    split
    · exact .feedMaster ..
    · exact .refl ..
  exact .ite (master.trans (.each _ _ fun _ _ _ => .of_regs ((Only.feedAxis ..).same .regs (by decide)))) master

theorem Only.deliverJump : Only [.regs, .fresh, .tbs] c (c.deliverJump p) := by
  have fed := Only.deliver c p false
  unfold Chip.deliverJump
  dsimp only
  split
  · exact fed
  · refine Only.trans (fed.trans ?_) (.each _ _ fun _ _ _ => ((Only.jumpNext ..).trans (.jumpNext ..)).mono)
    split
    · exact (Only.jumpNext ..).mono
    · exact .refl ..

theorem RegsOf.deliverJump : RegsOf (fun x => ¬ Delivered x) c (c.deliverJump p) := by
  have fed := RegsOf.deliver c p false
  unfold Chip.deliverJump
  dsimp only
  split
  · exact fed
  · refine RegsOf.trans (fed.trans ?_) (.each _ _ fun _ _ _ => .of_regs (((Only.jumpNext ..).trans (.jumpNext ..)).same .regs (by decide)))
    split
    · exact .of_regs ((Only.jumpNext ..).same .regs (by decide))
    · exact .refl ..

/-- What the change of a port's state brings to the master that it feeds. -/
def Chip.masterTold (st was : Nat) : Chip :=
  match c.masterOf p with
  | none => c
  | some n =>
    if st = 1 then
      let x := c.tb n
      let c := if x.uStarted then c else c.setTb n { x with uStarted := true, unwrapped := c.get (FP_POS_COUNT p.val) }
      (c.regainTb n).feedMaster p n false
    else if was = 1 then c.loseTb n else c

/-- The chip after the axes of a port have judged their sources. -/
def Chip.stateShown (st : Nat) : Chip :=
  let d := (c.put (FP_STAT_PSTATE p.val) st).masterTold p st (c.portState p)
  d.each (d.axesOfPort p) Chip.refreshSources

theorem Chip.setPortState_eq (st : Nat) : c.setPortState p st =
    if st = 1 then (c.stateShown p st).each ((c.stateShown p st).axesOfPort p) fun c a => c.feedAxis a false else c.stateShown p st := rfl

theorem Only.masterTold (st was : Nat) : Only [.regs, .fresh, .tbs] c (c.masterTold p st was) := by
  unfold Chip.masterTold
  split
  · exact .refl ..
  next n _ =>
    have started : Only [.regs, .fresh, .tbs] c (if (c.tb n).uStarted then c else
        c.setTb n { c.tb n with uStarted := true, unwrapped := c.get (FP_POS_COUNT p.val) }) := .ite (.refl ..) ((Only.setTb ..).mono)
    exact .ite ((started.then (.regainTb ..)).then (.feedMaster ..)) (.ite ((Only.loseTb ..).mono) (.refl ..))

theorem RegsOf.masterTold (st was : Nat) : RegsOf (fun x => ¬ Delivered x) c (c.masterTold p st was) := by
  unfold Chip.masterTold
  split
  · exact .refl ..
  next n _ =>
    have started : Only [.tbs] c (if (c.tb n).uStarted then c else
        c.setTb n { c.tb n with uStarted := true, unwrapped := c.get (FP_POS_COUNT p.val) }) := .ite (.refl ..) (.setTb ..)
    have regained := RegsOf.of_regs (P := fun x => ¬ Delivered x) ((started.trans (.regainTb _ n)).same .regs (by decide))
    exact .ite (regained.trans (.feedMaster ..)) (.ite (.of_regs ((Only.loseTb ..).same .regs (by decide))) (.refl ..))

/-- What a port's state brings to its consumers. -/
def stateParts : List Part := [.regs, .fresh, .tbs, .axes, .faults]

theorem Only.stateShown (st : Nat) : Only stateParts c (c.stateShown p st) :=
  (((Only.refl _ c).then (.put ..)).then (.masterTold ..)).trans (.each _ _ fun _ _ _ => (Only.refreshSources ..).mono)

theorem RegsOf.stateShown (st : Nat) : RegsOf (fun x => ¬ Delivered x) c (c.stateShown p st) := by
  have told : RegsOf (fun x => ¬ Delivered x) c ((c.put (FP_STAT_PSTATE p.val) st).masterTold p st (c.portState p)) :=
    ((RegsOf.refl _ c).put (FP_STAT_PSTATE p.val) st (not_not_intro (.inr (.inr ⟨p, rfl⟩)))).trans (.masterTold ..)
  refine told.trans (.each _ _ fun d a _ => .of_regsBut (RegsBut.refreshSources d a) fun x hx => not_not_intro ?_)
  exact .inr (.inl ⟨a, List.mem_singleton.mp hx⟩)

theorem Reports.stateShown (st : Nat) : Reports c (c.stateShown p st) := by
  have told : Only [.regs, .fresh, .tbs] c ((c.put (FP_STAT_PSTATE p.val) st).masterTold p st (c.portState p)) :=
    ((Only.refl _ c).then (.put ..)).then (.masterTold ..)
  exact told.reports.trans (.each _ _ fun d a _ => .refreshSources d a)

theorem Only.setPortState (st : Nat) : Only stateParts c (c.setPortState p st) := by
  rw [Chip.setPortState_eq]
  exact .ite ((Only.stateShown c p st).trans (.each _ _ fun _ _ _ => (Only.feedAxis ..).mono)) (.stateShown ..)

theorem RegsOf.setPortState (st : Nat) : RegsOf (fun x => ¬ Delivered x) c (c.setPortState p st) := by
  rw [Chip.setPortState_eq]
  exact .ite ((RegsOf.stateShown c p st).trans (.each _ _ fun _ _ _ => .of_regs ((Only.feedAxis ..).same .regs (by decide)))) (.stateShown ..)

theorem Reports.setPortState (st : Nat) : Reports c (c.setPortState p st) := by
  rw [Chip.setPortState_eq]
  have fed (d : Chip) (xs : List Axis) : Only [.tbs] d (d.each xs fun c a => c.feedAxis a false) := .each _ _ fun _ _ _ => .feedAxis ..
  exact .ite ((Reports.stateShown c p st).trans (fed _ _).reports) (.stateShown ..)

end
end Sys2Proof.Machine
end

section
-- One proof after the other: a side goal that `Only` settles by `decide` waits for the kernel, on a thread of its own.
set_option Elab.async false
/-! SUPPORT. What a clear of the fault collector does to its sources, to the first capture and to the access record (R285 to R295);
and the statement about it. -/
namespace Sys2Proof.Machine

/-! ### Legs under a curtain (R22, R96) -/

section
variable (c : Chip) (l : Leg)

/-- Under a curtain a leg that obeys is off. -/
theorem Chip.obeyLeg_off (curtain : 2 ≤ c.legReact l) : ((c.obeyLeg l).leg l).ghOn = false ∧ ((c.obeyLeg l).leg l).glOn = false := by
  have gates : ((c.gates l none).leg l).ghOn = false ∧ ((c.gates l none).leg l).glOn = false :=
    ⟨(c.gates_none l .high).2.1, (c.gates_none l .low).2.1⟩
  have run : c.obeyLeg l = c.underLine l none := by
    rw [Chip.obeyLeg]
    obtain ⟨n, hn⟩ := Nat.exists_eq_add_of_le curtain
    rw [hn, Nat.add_comm]
    rfl
  rw [run, Chip.underLine, Chip.leg_setLeg]
  exact gates

theorem Chip.obeyLines_off (curtain : 2 ≤ c.obeyLines.legReact l) :
    (c.obeyLines.leg l).ghOn = false ∧ (c.obeyLines.leg l).glOn = false := by
  refine Chip.each_brings (P := fun d => 2 ≤ d.legReact l → (d.leg l).ghOn = false ∧ (d.leg l).glOn = false) c allLegs
    (List.mem_finRange l) (fun d h => ?_) (fun d hd k _ h => ?_) curtain
  · rw [(LegAt.obeyLeg d l).only.legReact l] at h
    exact d.obeyLeg_off l h
  · rw [(LegAt.obeyLeg d k).only.legReact l] at h
    by_cases e : k = l
    · subst e
      exact d.obeyLeg_off k h
    · rw [(LegAt.obeyLeg d k).frame.1 l (Ne.symm e)]
      exact hd h

end

/-! ### A source is cleared (R294, R295) -/

section
variable (c : Chip) (s : Nat)

/-- What clearing sources leaves alone. -/
structure Clearing (b c : Chip) : Prop where
  only : Only [.regs, .fresh, .tbs, .axes, .faults, .ports, .buses, .free] b c
  latched : c.faults.latched.Sublist b.faults.latched
  fire : c.faults.fire = b.faults.fire
  inj : c.faults.inj = b.faults.inj
  sampled : c.faults.sampledTick = b.faults.sampledTick

theorem Clearing.refl : Clearing c c := ⟨.refl .., List.Sublist.refl _, rfl, rfl, rfl⟩

theorem Clearing.trans {b c d : Chip} (h : Clearing b c) (k : Clearing c d) : Clearing b d :=
  ⟨h.only.trans k.only, k.latched.trans h.latched, k.fire.trans h.fire, k.inj.trans h.inj, k.sampled.trans h.sampled⟩

/-- What a clear does in the source's own chapter: the latches, the fire latch, injections and windows stay. -/
structure OwnCleared (b c : Chip) : Prop where
  only : Only [.regs, .fresh, .tbs, .axes, .faults, .ports, .buses, .free] b c
  regs : RegsOf (fun x => x < 0x020000) b c
  faults : c.faults = { b.faults with events := c.faults.events, shutdown := c.faults.shutdown }

theorem Reports.kept {b c : Chip} (h : Reports b c) : c.faults = { b.faults with events := c.faults.events, shutdown := c.faults.shutdown } := by
  obtain ⟨l, hl⟩ := h
  rw [hl]

theorem delivered_high {x : Nat} (h : Delivered x) : ¬ x < 0x020000 := by
  rcases h with ⟨n, rfl⟩ | ⟨a, rfl⟩ | ⟨p, rfl⟩
  · simp only [CUE_TB_STAT]
    omega
  · simp only [AX_SRCSTAT]
    omega
  · simp only [FP_STAT]
    omega

theorem RegsOf.low {b c : Chip} (h : RegsOf (fun x => ¬ Delivered x) b c) : RegsOf (fun x => x < 0x020000) b c :=
  ⟨fun x hx => h.reg x fun d => delivered_high d hx⟩

theorem OwnCleared.recovered (p : Port) : OwnCleared c (c.recovered p) := by
  have fine : Only [.regs, .ports] c ((c.put (FP_STAT_FAULTY p.val) 0).setPort p { (c.put (FP_STAT_FAULTY p.val) 0).port p with ssiFails := 0 }) :=
    ((Only.refl _ c).then (.put ..)).then (.setPort ..)
  have low : RegsOf (fun x => x < 0x020000) c ((c.put (FP_STAT_FAULTY p.val) 0).setPort p { (c.put (FP_STAT_FAULTY p.val) 0).port p with ssiFails := 0 }) :=
    ((RegsOf.refl _ c).put (FP_STAT_FAULTY p.val) 0 (delivered_high (.inr (.inr ⟨p, rfl⟩)))).trans (.of_regs rfl)
  unfold Chip.recovered
  dsimp only
  split
  · exact ⟨((fine.mono).then (Only.setPortState _ p 1)).then (.deliverJump ..),
      (low.trans (RegsOf.setPortState _ p 1).low).trans (RegsOf.deliverJump _ p).low,
      ((fine.reports.trans (Reports.setPortState _ p 1)).trans (Only.deliverJump _ p).reports).kept⟩
  · exact ⟨fine.mono, low, fine.reports.kept⟩

theorem OwnCleared.put (f : Field) (v : Nat) (high : 0x020000 ≤ f.addr) : OwnCleared c (c.put f v) :=
  ⟨(Only.put c f v).mono, (RegsOf.refl _ c).put f v (Nat.not_lt.mpr high), rfl⟩

theorem OwnCleared.trans {b c d : Chip} (h : OwnCleared b c) (k : OwnCleared c d) : OwnCleared b d :=
  ⟨h.only.trans k.only, h.regs.trans k.regs, by rw [k.faults, h.faults]⟩

theorem OwnCleared.refl : OwnCleared c c := ⟨.refl .., .refl _ c, rfl⟩

theorem OwnCleared.of_buses {b c : Chip} (h : Only [.buses] b c) : OwnCleared b c :=
  ⟨h.mono, .of_regs (h.same .regs (by decide)), h.reports.kept⟩

theorem OwnCleared.chopCleared (r : Region) : OwnCleared c (c.chopCleared r) := by
  have high {f : Field} (hf : f.addr = BUS_STAT r.val) : 0x020000 ≤ f.addr := by
    simp only [hf, BUS_STAT]
    omega
  have cut (d : Chip) (v : Nat) : OwnCleared d (d.judgeCut r v) := by
    unfold Chip.judgeCut
    dsimp only
    split
    · exact .put d (BUS_STAT_CUT r.val) 1 (high rfl)
    split
    · exact .put d (BUS_STAT_CUT r.val) 0 (high rfl)
    · exact .refl d
  have restore (d : Chip) : OwnCleared d (d.restoreCut r) := .put d (BUS_STAT_VCUT_LIVE r.val) _ (high rfl)
  unfold Chip.chopCleared
  dsimp only
  split
  · have restored := ((OwnCleared.put c (BUS_STAT_CHOPF r.val) 0 (high rfl)).trans
      (.of_buses (Only.setBus _ r { c.bus r with chopOff := none }))).trans (restore _)
    split
    · exact restored.trans (cut _ _)
    · exact restored
  · exact .refl c

theorem OwnCleared.clearedOwn : OwnCleared c (c.clearedOwn s) := by
  unfold Chip.clearedOwn
  split
  · dsimp only
    split
    · exact .recovered ..
    · exact .refl c
  split
  · exact .put c _ 0 (by decide)
  · exact .put c _ 0 (by decide)
  · exact .chopCleared ..
  · exact .chopCleared ..
  · exact ⟨.of_mix rfl, .of_regs rfl, rfl⟩

theorem Clearing.of_own {b c : Chip} (h : OwnCleared b c) : Clearing b c := by
  refine ⟨h.only, ?_, ?_, ?_, ?_⟩ <;> rw [h.faults]

/-- The chip in which a source is neither latched nor has a window. -/
def Chip.released : Chip :=
  let d := c.closeWindow s
  { d with faults := { d.faults with latched := d.faults.latched.filter (·.src != s) } }

theorem Chip.releaseSource_eq (quiet : c.eventNow s = none) : c.releaseSource s = c.released s := by
  rw [Chip.releaseSource, quiet]
  rfl

theorem Clearing.released : Clearing c (c.released s) :=
  ⟨((Only.put c (FLT_SRC_WCNT s) 0).mono).trans (.of_mix rfl), List.filter_sublist, rfl, rfl, rfl⟩

/-- The source's latch stays as a severe event of this tick has brought it. -/
theorem Chip.clearSource_risen (high : s < 0xFC) (sampled : c.faults.sampledTick = some c.now) (risen : ∃ y ∈ c.faults.risen, y.src = s) :
    c.clearSource s = c.clearedOwn s := by
  have fresh : (c.faults.sampledTick == some c.now && c.faults.risen.any (·.src == s)) = true := by
    obtain ⟨y, hy, src⟩ := risen
    rw [sampled, beq_self_eq_true, Bool.true_and, List.any_eq_true]
    exact ⟨y, hy, beq_iff_eq.mpr src⟩
  rw [Chip.clearSource, if_neg (by omega)]
  simp only [fresh, if_true]

theorem Chip.clearSource_quiet (high : s < 0xFC) (quiet : c.eventNow s = none)
    (calm : c.faults.sampledTick = some c.now → ∀ y ∈ c.faults.risen, y.src ≠ s) : c.clearSource s = (c.released s).clearedOwn s := by
  have stale : (c.faults.sampledTick == some c.now && c.faults.risen.any (·.src == s)) = false := by
    rw [Bool.and_eq_false_iff, List.any_eq_false]
    by_cases sampled : c.faults.sampledTick = some c.now
    · exact .inr fun y hy => by simpa using calm sampled y hy
    · exact .inl (beq_eq_false_iff_ne.mpr sampled)
  rw [Chip.clearSource, if_neg (by omega)]
  simp only [stale, Bool.false_eq_true, if_false, c.releaseSource_eq s quiet]

/-- What the accepted clear of a source whose events are not of this tick leaves and shows. -/
structure SourceCleared (b c : Chip) : Prop where
  clearing : Clearing b c
  latched : c.faults.latched = b.faults.latched.filter (·.src != s)
  windows : c.faults.windows = b.faults.windows.filter (·.1 != s)
  count : c.get (FLT_SRC_WCNT s) = 0

theorem SourceCleared.cleared (high : s < 0xFC) : SourceCleared s c ((c.released s).clearedOwn s) := by
  have own := OwnCleared.clearedOwn (c.released s) s
  refine ⟨(Clearing.released c s).trans (.of_own own), by rw [own.faults]; rfl, by rw [own.faults]; rfl, ?_⟩
  have low : (FLT_SRC_WCNT s).addr < 0x020000 := by
    simp only [FLT_SRC_WCNT, FLT_SRC]
    omega
  exact (own.regs.get _ low).trans (Chip.get_put_fit c (FLT_SRC_WCNT s) 0 rfl)

end

/-! ### The legs and axes afterwards (R22, R284) -/

section
variable (b c : Chip)

theorem Only.localAgain : Only [.axes] c (Chip.localAgain b c) := .each _ _ fun _ _ _ => .ite (.setAxis ..) (.refl ..)

theorem Only.afterClear : Only [.legs, .axes] c (Chip.localAgain b c.obeyLines) :=
  ((Only.obeyLines c).mono : Only [.legs, .axes] _ _).then (.localAgain ..)

theorem Chip.afterClear_off (l : Leg) (curtain : 2 ≤ (Chip.localAgain b c.obeyLines).legReact l) :
    ((Chip.localAgain b c.obeyLines).leg l).ghOn = false ∧ ((Chip.localAgain b c.obeyLines).leg l).glOn = false := by
  have again := Only.localAgain b c.obeyLines
  rw [again.legReact l] at curtain
  rw [again.leg l]
  exact c.obeyLines_off l curtain

end

/-! ### All sources (R295) -/

section
variable (c : Chip) (l : List Nat)

theorem Chip.eventNow_none (s : Nat) (h : c.faults.sampledTick ≠ some c.now) : c.eventNow s = none :=
  if_neg (by simpa using h)

theorem Clearing.clearSource (s : Nat) (quiet : c.faults.sampledTick ≠ some c.now) : Clearing c (c.clearSource s) := by
  by_cases high : s < 0xFC
  · rw [c.clearSource_quiet s high (c.eventNow_none s quiet) fun h => absurd h quiet]
    exact (SourceCleared.cleared c s high).clearing
  · rw [Chip.clearSource, if_pos (by omega)]
    exact .refl c

/-- No source of the tick is sampled: the collector has not sampled it yet. -/
theorem Clearing.quiet {b c : Chip} (h : Clearing b c) (quiet : b.faults.sampledTick ≠ some b.now) : c.faults.sampledTick ≠ some c.now := by
  rw [h.sampled, h.only.same .now (by decide)]
  exact quiet

theorem Clearing.clearSources (quiet : c.faults.sampledTick ≠ some c.now) : Clearing c (c.each l Chip.clearSource) :=
  Chip.each_keeps l (.refl c) fun d hd x _ => hd.trans (.clearSource d x (hd.quiet quiet))

theorem Chip.clearSources_latched (quiet : c.faults.sampledTick ≠ some c.now) {s : Nat} (hs : s ∈ l) (high : s < 0xFC) :
    ∀ x ∈ (c.each l Chip.clearSource).faults.latched, x.src ≠ s := by
  induction l generalizing c with
  | nil => exact absurd hs List.not_mem_nil
  | cons y l ih =>
    have still := (Clearing.clearSource c y quiet).quiet quiet
    rcases List.mem_cons.mp hs with rfl | hs
    · intro x hx
      have own := SourceCleared.cleared c s high
      have mem := (Clearing.clearSources (c.clearSource s) l still).latched.subset hx
      rw [c.clearSource_quiet s high (c.eventNow_none s quiet) fun h => absurd h quiet, own.latched, List.mem_filter] at mem
      simpa using mem.2
    · exact ih (c.clearSource y) still hs

end

/-! ### The first capture and the access record (R286 to R291) -/

section
variable (c : Chip)

/-- The registers of the first capture. -/
def firstRegs : List Nat := [FLT_FIRST, FLT_FIRSTT, FLT_FIRSTTH, FLT_STVEC 0, FLT_STVEC 1, FLT_STVEC 2, FLT_STVEC 3, FLT_STVEC 4,
  FLT_STVEC 5, FLT_STVEC 6, FLT_STVEC 7]

theorem stvec_mem {k : Nat} (hk : k < 8) : FLT_STVEC k ∈ firstRegs := by
  interval_cases k <;> decide

/-- Words put to the vectors of sources. -/
def Chip.stvecs (g : Nat → Word) : Chip := c.each (List.range 8) fun c k => c.setReg (FLT_STVEC k) (g k)

theorem Only.stvecs (g : Nat → Word) : Only [.regs] c (c.stvecs g) := .each _ _ fun _ _ _ => .setReg ..

theorem Chip.stvecs_reg_ne (g : Nat → Word) {x : Nat} (hx : ∀ k, k < 8 → x ≠ FLT_STVEC k) : (c.stvecs g).reg x = c.reg x :=
  Chip.each_keeps (P := fun d => d.reg x = c.reg x) (List.range 8) rfl fun d hd k hk =>
    (d.reg_setReg_ne (g k) (hx k (List.mem_range.mp hk))).trans hd

theorem Chip.stvecs_reg (g : Nat → Word) {k : Nat} (hk : k < 8) : (c.stvecs g).reg (FLT_STVEC k) = g k := by
  refine Chip.each_brings (P := fun d => d.reg (FLT_STVEC k) = g k) c (List.range 8) (List.mem_range.mpr hk) (fun d => d.reg_setReg ..)
    fun d hd j _ => ?_
  by_cases e : j = k
  · rw [e]
    exact d.reg_setReg ..
  · refine (d.reg_setReg_ne (g j) ?_).trans hd
    simp only [FLT_STVEC]
    omega

theorem Chip.emptyFirst_eq : c.emptyFirst = ((c.setReg FLT_FIRST 0).put64 FLT_FIRSTT 0).stvecs fun _ => 0 := rfl

theorem Only.emptyFirst : Only [.regs] c c.emptyFirst := (((Only.refl _ c).then (.setReg ..)).then (.put64 ..)).then (.stvecs ..)

theorem RegsBut.emptyFirst : RegsBut firstRegs c c.emptyFirst := by
  intro x hx
  have far : x ≠ FLT_FIRST ∧ x ≠ FLT_FIRSTT ∧ x ≠ FLT_FIRSTT + 4 :=
    ⟨fun e => hx (e ▸ List.mem_cons_self), fun e => hx (e ▸ by decide), fun e => hx (e ▸ by decide)⟩
  rw [Chip.emptyFirst_eq, Chip.stvecs_reg_ne (x := x) _ _ fun k hk e => hx (e ▸ stvec_mem hk), Chip.reg_put64_ne _ _ far.2.1 far.2.2,
    Chip.reg_setReg_ne _ _ far.1]

/-- A register of the capture that is no vector. -/
theorem stvec_apart {x : Nat} (hx : x = FLT_FIRST ∨ x = FLT_FIRSTT ∨ x = FLT_FIRSTT + 4 ∨ x = LOG_STATUS) : ∀ k, k < 8 → x ≠ FLT_STVEC k := by
  intro k hk
  simp only [FLT_FIRST, FLT_FIRSTT, FLT_STVEC, LOG_STATUS] at *
  omega

theorem Chip.stvecs_get64 (g : Nat → Word) : (c.stvecs g).get64 FLT_FIRSTT = c.get64 FLT_FIRSTT :=
  Chip.get64_congr (c.stvecs_reg_ne g (stvec_apart (by simp))) (c.stvecs_reg_ne g (stvec_apart (by simp)))

theorem Chip.emptyFirst_first : c.emptyFirst.reg FLT_FIRST = 0 := by
  rw [Chip.emptyFirst_eq, Chip.stvecs_reg_ne _ _ (stvec_apart (by simp)), Chip.reg_put64_ne _ _ (by decide) (by decide), Chip.reg_setReg]

theorem Chip.emptyFirst_tick : c.emptyFirst.get64 FLT_FIRSTT = 0 := by
  rw [Chip.emptyFirst_eq, Chip.stvecs_get64, Chip.get64_put64]
  rfl

/-- The word of a first capture. -/
def firstWord (w : Latch) (same : Bool) : Word :=
  packFields [(FLT_FIRST_VALID, 1), (FLT_FIRST_SAME_TICK, same.toNat), (FLT_FIRST_CODE, w.code), (FLT_FIRST_SRC, w.src)]

/-- The chip with the capture's registers filled. -/
def Chip.firstShown (w : Latch) (l : List Latch) : Chip :=
  let same := decide (1 < l.length)
  let v := if same then l.map (·.src) else []
  ((c.setReg FLT_FIRST (firstWord w same)).put64 FLT_FIRSTT c.wall).stvecs (sourceWord v)

/-- The chip with a capture shown, before BEACON and the logbook tell of it. -/
def Chip.firstNoted (w : Latch) (l : List Latch) : Chip :=
  { c.firstShown w l with faults := { (c.firstShown w l).faults with firstTick := some (c.firstShown w l).now } }

theorem Chip.firstNoted_reg (w : Latch) (l : List Latch) (x : Nat) : (c.firstNoted w l).reg x = (c.firstShown w l).reg x := by
  generalize h : c.firstShown w l = d
  rw [Chip.firstNoted, h]
  rfl

theorem Chip.beaconPulse_reg {x : Nat} (hx : x ≠ BEACON_CTL) : c.beaconPulse.reg x = c.reg x :=
  Chip.reg_put_ne c BEACON_CTL_PULSING 1 hx

theorem Chip.fillFirst_eq {w : Latch} {l : List Latch} (won : winner l = some w) : c.fillFirst l =
    (c.firstNoted w l).beaconPulse.logArise 5 (BitVec.ofNat 32 (w.src + 256 * w.code + 2048 * (decide (1 < l.length)).toNat))
      (sourceWord (if decide (1 < l.length) then l.map (·.src) else []) 0) 0 := by
  unfold Chip.fillFirst
  rw [won]
  rfl

theorem Chip.fillFirst_reg {w : Latch} {l : List Latch} (won : winner l = some w) {x : Nat} (hx : x ≠ BEACON_CTL ∧ x ≠ LOG_STATUS) :
    (c.fillFirst l).reg x = (c.firstShown w l).reg x := by
  rw [c.fillFirst_eq won, Chip.logArise_regsBut _ 5 _ _ _ x (by simpa using hx.2)]
  exact ((c.firstNoted w l).beaconPulse_reg hx.1).trans (c.firstNoted_reg w l x)

theorem Chip.firstShown_tick (w : Latch) (l : List Latch) : (c.firstShown w l).get64 FLT_FIRSTT = c.wall % 2 ^ 64 := by
  rw [Chip.firstShown, Chip.stvecs_get64, Chip.get64_put64]
  exact wrapTo_natCast 64 c.wall

theorem Chip.firstShown_get (w : Latch) (l : List Latch) {f : Field} (hf : f.addr = FLT_FIRST) :
    (c.firstShown w l).get f = f.read (firstWord w (decide (1 < l.length))) := by
  rw [Chip.get, hf, Chip.firstShown, Chip.stvecs_reg_ne _ _ (stvec_apart (by simp)), Chip.reg_put64_ne _ _ (by decide) (by decide),
    Chip.reg_setReg]

end

section
variable (c : Chip)

theorem Chip.firstClear_eq (other : c.faults.firstTick ≠ some c.now) : c.firstClear =
    (if c.faults.sampledTick == some c.now then c.emptyFirst.fillFirst c.faults.risen else c.emptyFirst, .ok) := by
  rw [Chip.firstClear]
  simp only [beq_eq_false_iff_ne.mpr other, Bool.false_eq_true, if_false]

/-- The access record emptied. -/
def Chip.accEmptied : Chip := ((c.setReg FLT_ACC 0).setReg FLT_ACCA 0).put64 FLT_ACCT 0

theorem Only.accEmptied : Only [.regs] c c.accEmptied := (((Only.refl _ c).then (.setReg ..)).then (.setReg ..)).then (.put64 ..)

theorem Chip.accClear_eq : c.accClear =
    (match c.faults.accNew with
      | some (t, w, a) => if t = c.now then c.accEmptied.fillAccess w a else c.accEmptied
      | none => c.accEmptied, .ok) := rfl

theorem Only.fillAccess (w : Word) (a : Nat) : Only [.regs] c (c.fillAccess w a) :=
  (((Only.refl _ c).then (.setReg ..)).then (.put ..)).then (.put64 ..)

theorem Only.clearAll (l : List Nat) : Only [.legs, .axes] (c.each l Chip.clearSource) (c.clearAll l) := .afterClear ..

theorem Chip.fltClrAll_eq : c.fltClrAll false = c.request
    [(c.inDark || (c.faults.latched.map (·.src)).any c.notClearable, .state), (false, .range)]
    fun d => d.clearAll (c.faults.latched.map (·.src)) := by
  unfold Chip.fltClrAll
  rfl

end

end Sys2Proof.Machine

open Sys2Proof.Machine

/-- Settles O35: a clear releases its sources one after the other, and leaves the collector otherwise as their chapters do. -/
theorem clears : Obligations.Clears := by
  refine ⟨?one, ?risen, ?persists, ?all, ?refused, ?first, ?fresh, ?anew, ?access, ?accessed⟩
  case one =>
    intro s p x serving high clearable quiet calm
    have clear : judge [(s.chip.inDark || (decide (x.val < 0xFC) && s.chip.notClearable x.val), .state)] = .ok := by
      simp [judge, clearable, serving.2.2]
    have own := SourceCleared.cleared s.chip x.val high
    have run : s.chip.clearAll [x.val] = Chip.localAgain s.chip ((s.chip.released x.val).clearedOwn x.val).obeyLines := by
      rw [← s.chip.clearSource_quiet x.val high quiet calm]
      rfl
    have after := Only.afterClear s.chip ((s.chip.released x.val).clearedOwn x.val)
    refine grants_of_ask (f := (·.fltClr x.val)) rfl serving (s.chip.request_ok _ _ clear) ?_
    rw [run]
    refine ⟨?_, ?_, ?_, ?_, ?_, ?_, fun l curtain => Chip.afterClear_off _ _ l curtain, ?_, ?_, ?_⟩
    · rw [after.faults]
      exact own.latched
    · rw [Chip.severe, after.faults, own.latched, List.any_eq_false]
      intro y hy
      simpa using (List.mem_filter.mp hy).2
    · exact (after.get _).trans own.count
    · rw [Chip.windowOpen, after.faults, own.windows, List.any_eq_false]
      intro y hy
      have other : y.1 ≠ x.val := by simpa using (List.mem_filter.mp hy).2
      simp [other]
    · rw [after.faults]
      exact own.clearing.fire
    · rw [after.faults]
      exact own.clearing.inj
    · exact (own.clearing.only.same .wall (by decide)).trans (after.same .wall (by decide))
    · exact (own.clearing.only.same .cues (by decide)).trans (after.same .cues (by decide))
    · exact (own.clearing.only.same .slices (by decide)).trans (after.same .slices (by decide))
  case risen =>
    intro s p x serving high clearable sampled risen
    have clear : judge [(s.chip.inDark || (decide (x.val < 0xFC) && s.chip.notClearable x.val), .state)] = .ok := by
      simp [judge, clearable, serving.2.2]
    have own := OwnCleared.clearedOwn s.chip x.val
    have run : s.chip.clearAll [x.val] = Chip.localAgain s.chip (s.chip.clearedOwn x.val).obeyLines := by
      rw [← s.chip.clearSource_risen x.val high sampled risen]
      rfl
    have after := Only.afterClear s.chip (s.chip.clearedOwn x.val)
    refine grants_of_ask (f := (·.fltClr x.val)) rfl serving (s.chip.request_ok _ _ clear) ?_
    rw [run, after.faults, own.faults]
    exact ⟨rfl, rfl⟩
  case persists =>
    intro s p x serving high persists
    exact refuses_of_request (f := (·.fltClr x.val)) rfl serving rfl (by simp [judge, persists, high]) (by decide)
  case all =>
    intro s p serving clearable quiet
    have none : (s.chip.faults.latched.map (·.src)).any s.chip.notClearable = false := by
      rw [List.any_eq_false]
      intro y hy
      obtain ⟨z, hz, rfl⟩ := List.mem_map.mp hy
      simpa using List.all_eq_true.mp clearable z hz
    have clear : judge [(s.chip.inDark || (s.chip.faults.latched.map (·.src)).any s.chip.notClearable, .state), (false, .range)] = .ok := by
      simp [judge, none, serving.2.2]
    have own := Clearing.clearSources s.chip (s.chip.faults.latched.map (·.src)) quiet
    have after := Only.clearAll s.chip (s.chip.faults.latched.map (·.src))
    have judged : s.chip.fltClrAll false = (s.chip.clearAll (s.chip.faults.latched.map (·.src)), .ok) :=
      s.chip.fltClrAll_eq.trans (s.chip.request_ok _ _ clear)
    refine grants_of_ask (f := (·.fltClrAll false)) rfl serving judged ⟨fun x hx => ?_, ?_, ?_, ?_, ?_⟩
    · rw [after.faults] at hx
      by_contra low
      exact s.chip.clearSources_latched _ quiet (List.mem_map.mpr ⟨x, own.latched.subset hx, rfl⟩) (by omega) x hx rfl
    · rw [after.faults]
      exact own.fire
    · exact (own.only.same .wall (by decide)).trans (after.same .wall (by decide))
    · exact (own.only.same .cues (by decide)).trans (after.same .cues (by decide))
    · exact (own.only.same .slices (by decide)).trans (after.same .slices (by decide))
  case refused =>
    intro s p serving persists
    have some : (s.chip.faults.latched.map (·.src)).any s.chip.notClearable = true := by
      obtain ⟨x, hx, bad⟩ := List.all_eq_false.mp persists
      exact List.any_eq_true.mpr ⟨x.src, List.mem_map.mpr ⟨x, hx, rfl⟩, by simpa using bad⟩
    exact refuses_of_request (f := (·.fltClrAll false)) rfl serving s.chip.fltClrAll_eq (by simp [judge, some]) (by decide)
  case first =>
    intro s p serving other calm
    have run : s.chip.firstClear = (s.chip.emptyFirst, .ok) := by
      rw [s.chip.firstClear_eq other]
      rcases calm with unsampled | none
      · rw [if_neg (by simpa using unsampled)]
      · rw [none]
        exact congrArg (·, Reason.ok) (ite_self _)
    exact grants_of_ask (f := (·.firstClear)) rfl serving run ⟨s.chip.emptyFirst_first, s.chip.emptyFirst_tick,
      fun k hk => Chip.stvecs_reg _ _ hk, RegsBut.emptyFirst s.chip, (Only.emptyFirst s.chip).eq⟩
  case fresh =>
    intro s p serving same
    have run : s.chip.firstClear = (s.chip, .ok) := by
      rw [Chip.firstClear]
      simp only [same, beq_self_eq_true, if_true]
    exact grants_of_ask (f := (·.firstClear)) rfl serving run rfl
  case anew =>
    intro s p w serving other sampled won
    have run : s.chip.firstClear = (s.chip.emptyFirst.fillFirst s.chip.faults.risen, .ok) := by
      rw [s.chip.firstClear_eq other, if_pos (by simpa using sampled)]
    have shown {f : Field} (hf : f.addr = FLT_FIRST) :
        (s.chip.emptyFirst.fillFirst s.chip.faults.risen).get f = f.read (firstWord w (decide (1 < s.chip.faults.risen.length))) := by
      rw [← s.chip.emptyFirst.firstShown_get w s.chip.faults.risen hf, Chip.get, Chip.get, hf,
        s.chip.emptyFirst.fillFirst_reg won (by decide)]
    refine grants_of_ask (f := (·.firstClear)) rfl serving run ⟨?_, ?_, ?_⟩
    · exact (shown rfl).trans (Field.read_packFields rfl (by simp) (by decide))
    · exact (shown rfl).trans (FLT_FIRST_SRC.read_write (Field.ok_of _ rfl) _ w.src)
    · rw [Chip.get64_congr (s.chip.emptyFirst.fillFirst_reg won (by decide)) (s.chip.emptyFirst.fillFirst_reg won (by decide)),
        Chip.firstShown_tick, (Only.emptyFirst s.chip).same .wall (by decide)]
  case access =>
    intro s p serving old
    have run : s.chip.accClear = (s.chip.accEmptied, .ok) := by
      rw [Chip.accClear_eq]
      split
      next t w a h => rw [if_neg (old t w a h)]
      next => rfl
    refine grants_of_ask (f := (·.accClear)) rfl serving run ⟨?_, ?_, ?_, fun x hx => ?_, (Only.accEmptied s.chip).eq⟩
    · rw [Chip.accEmptied, Chip.reg_put64_ne _ _ (by decide) (by decide), Chip.reg_setReg_ne _ _ (by decide), Chip.reg_setReg]
    · rw [Chip.accEmptied, Chip.reg_put64_ne _ _ (by decide) (by decide), Chip.reg_setReg]
    · rw [Chip.accEmptied, Chip.get64_put64]
      rfl
    · simp only [List.mem_cons, List.not_mem_nil, or_false, not_or] at hx
      obtain ⟨acc, addr, low, high⟩ := hx
      rw [Chip.accEmptied, Chip.reg_put64_ne _ _ low high, Chip.reg_setReg_ne _ _ addr, Chip.reg_setReg_ne _ _ acc]
  case accessed =>
    intro s p w a serving new
    have run : s.chip.accClear = (s.chip.accEmptied.fillAccess w a, .ok) := by
      rw [Chip.accClear_eq, new]
      simp only [if_true]
    refine grants_of_ask (f := (·.accClear)) rfl serving run ⟨?_, ?_, ?_, ((Only.accEmptied s.chip).trans (.fillAccess ..)).eq⟩
    · rw [Chip.fillAccess, Chip.reg_put64_ne _ _ (by decide) (by decide), Chip.reg_put_ne _ _ _ (by decide), Chip.reg_setReg]
    · rw [Chip.fillAccess, Chip.get_put64_ne _ _ (by decide) (by decide)]
      exact Chip.get_put _ _ (Field.ok_of _ rfl) _
    · rw [Chip.fillAccess, Chip.get64_put64, wrapTo_natCast, (Only.accEmptied s.chip).same .wall (by decide)]
end

section
-- One proof after the other: a side goal that `Only` settles by `decide` waits for the kernel, on a thread of its own.
set_option Elab.async false
/-! SUPPORT. What a port's state shows to its consumers, the faults of a port, and the statement about port states (R128 to R133,
R156). -/
namespace Sys2Proof.Machine

/-! ### The fields of the consumers -/

theorem consumer_addr : ∀ f ∈ consumerFields, f.addr < 0x0B0000 ∨ 0x0C0000 ≤ f.addr := by decide

/-- A field of a port is no consumer's. -/
theorem apart_consumer {f g : Field} (hf : 0x0B0000 ≤ f.addr ∧ f.addr < 0x0C0000) (hg : g ∈ consumerFields) : f.apart g := by
  have := consumer_addr g hg
  exact .inl (by omega)

theorem consumer_source (a : Axis) {f : Field}
    (hf : f ∈ [AX_SRCSTAT_PRI_OK a.val, AX_SRCSTAT_SEC_OK a.val, AX_SRCSTAT_OFS_OK a.val]) : f ∈ consumerFields :=
  List.mem_append_left _ (List.mem_flatMap.mpr ⟨a, List.mem_finRange a, hf⟩)

theorem consumer_limit {n : Tb} (low : 16 ≤ n.val) (high : n.val < 20) : CUE_TB_STAT_LIMIT n.val ∈ consumerFields := by
  refine List.mem_append_right _ (List.mem_map_of_mem ?_)
  simp only [List.mem_cons, List.not_mem_nil, or_false]
  omega

section
variable (c : Chip) (a : Axis) (p : Port) (st : Nat)

theorem FieldsBut.each {α : Type} {l : List Field} {f : Chip → α → Chip} (xs : List α) (hf : ∀ d, ∀ x ∈ xs, FieldsBut l d (f d x)) :
    FieldsBut l c (c.each xs f) :=
  Chip.each_keeps xs (FieldsBut.refl l c) fun d hd x hx => FieldsBut.trans hd (hf d x hx)

theorem FieldsBut.sourcesShown : FieldsBut consumerFields c (c.sourcesShown a) :=
  ((((FieldsBut.refl _ c).putF _ _ (Field.ok_of _ rfl) (consumer_source a (by simp))).putF _ _ (Field.ok_of _ rfl)
    (consumer_source a (by simp))).putF _ _ (Field.ok_of _ rfl) (consumer_source a (by simp))).of_regs rfl

theorem FieldsBut.refreshSources : FieldsBut consumerFields c (c.refreshSources a) := by
  have shown := FieldsBut.sourcesShown c a
  exact c.refreshSources_cases a shown fun sec => shown.of_regs ((Only.staleByLoss _ a sec).same .regs (by decide))

/-- A master is one of the timebases 16 to 19 (Table 6-6). -/
theorem Chip.masterOf_range {n : Tb} (h : c.masterOf p = some n) : 16 ≤ n.val ∧ n.val < 20 := by
  unfold Chip.masterOf at h
  dsimp only at h
  split at h
  next range =>
    simp only [Bool.and_eq_true, decide_eq_true_eq, and_assoc] at range
    obtain rfl := Option.some.inj h
    rw [tbOf, dif_pos (by omega)]
    exact range.2
  next => cases h

theorem FieldsBut.feedMaster {n : Tb} (range : 16 ≤ n.val ∧ n.val < 20) (motion : Bool) :
    FieldsBut consumerFields c (c.feedMaster p n motion) := by
  unfold Chip.feedMaster
  dsimp only
  split
  · exact FieldsBut.refl _ c
  split
  · exact ((FieldsBut.refl _ c).markIf _ _ (Field.ok_of _ rfl) (consumer_limit range.1 range.2)).of_regs
      ((Only.feed _ n _ motion).same .regs (by decide))
  · exact (FieldsBut.refl _ c).of_regs ((Only.feed _ n _ motion).same .regs (by decide))

theorem FieldsBut.masterTold (was : Nat) : FieldsBut consumerFields c (c.masterTold p st was) := by
  unfold Chip.masterTold
  split
  · exact FieldsBut.refl _ c
  next n told =>
    have started : Only [.tbs] c (if (c.tb n).uStarted then c else
        c.setTb n { c.tb n with uStarted := true, unwrapped := c.get (FP_POS_COUNT p.val) }) := .ite (.refl ..) (.setTb ..)
    have lost := Only.loseTb c n
    split
    · exact ((started.then (.regainTb _ n)).fieldsBut _).trans (FieldsBut.feedMaster _ p (c.masterOf_range p told) false)
    split
    · exact lost.fieldsBut _
    · exact FieldsBut.refl _ c

/-- The fields that a change of a port's state may show. -/
def stateFields : List Field := FP_STAT_PSTATE p.val :: consumerFields

theorem FieldsBut.stateShown : FieldsBut (stateFields p) c (c.stateShown p st) := by
  have put := (FieldsBut.refl (stateFields p) c).put (FP_STAT_PSTATE p.val) st (Field.ok_of _ rfl) List.mem_cons_self
  have told := (FieldsBut.masterTold (c.put (FP_STAT_PSTATE p.val) st) p st (c.portState p)).mono (m := stateFields p)
    fun f hf => List.mem_cons_of_mem _ hf
  refine (put.trans told).trans (FieldsBut.each _ _ fun d a _ => ?_)
  exact (FieldsBut.refreshSources d a).mono fun f hf => List.mem_cons_of_mem _ hf

theorem FieldsBut.setPortState : FieldsBut (stateFields p) c (c.setPortState p st) := by
  have shown := FieldsBut.stateShown c p st
  rw [Chip.setPortState_eq]
  split
  · exact shown.trans (FieldsBut.each _ _ fun d a _ => (Only.feedAxis d a false).fieldsBut _)
  · exact shown

/-! ### A port enters a state -/

theorem FP_STAT_range : 0x0B0000 ≤ FP_STAT p.val ∧ FP_STAT p.val < 0x0C0000 := by
  simp only [FP_STAT]
  omega

theorem FP_CFG_range : 0x0B0000 ≤ FP_CFG p.val ∧ FP_CFG p.val < 0x0C0000 := by
  simp only [FP_CFG]
  omega

/-- Another field of a port's status stays when the port's state changes. -/
theorem Chip.setPortState_get {f : Field} (ok : f.ok) (hf : f.addr = FP_STAT p.val) (apart : f.beside (FP_STAT_PSTATE p.val) = true) :
    (c.setPortState p st).get f = c.get f := by
  have range := FP_STAT_range p
  refine FieldsBut.setPortState c p st f ok fun g hg => ?_
  obtain rfl | consumer := List.mem_cons.mp hg
  · exact .inr (Field.beside_iff.mp apart)
  · exact apart_consumer (hf ▸ range) consumer

theorem Chip.setPortState_state (small : st < 4) : (c.setPortState p st).portState p = st := by
  have own : FP_STAT p.val ∉ (allAxes.map fun a => AX_SRCSTAT a.val) := by
    simp only [FP_STAT, AX_SRCSTAT, List.mem_map, not_exists, not_and]
    omega
  have range := FP_STAT_range p
  have ok : (FP_STAT_PSTATE p.val).ok := Field.ok_of _ rfl
  have told (d : Chip) (was : Nat) : (d.masterTold p st was).get (FP_STAT_PSTATE p.val) = d.get (FP_STAT_PSTATE p.val) :=
    FieldsBut.masterTold d p st was _ ok fun g hg => apart_consumer range hg
  have judged (d : Chip) (xs : List Axis) : (d.each xs Chip.refreshSources).get (FP_STAT_PSTATE p.val) = d.get (FP_STAT_PSTATE p.val) :=
    FieldsBut.each d xs (fun d a _ => FieldsBut.refreshSources d a) _ ok fun g hg => apart_consumer range hg
  have shown : (c.stateShown p st).portState p = st := by
    rw [Chip.portState, Chip.stateShown, judged, told]
    exact Chip.get_put_lt _ _ ok _ small
  rw [Chip.setPortState_eq]
  split
  · exact ((Only.each _ _ fun d a _ => Only.feedAxis d a false).get _).trans shown
  · exact shown

/-! ### Faults of a port -/

/-- A flag of a port's status, but FAULTY. -/
structure FaultFlag (flag : Field) : Prop where
  ok : flag.ok
  here : flag.addr = FP_STAT p.val
  state : flag.beside (FP_STAT_PSTATE p.val) = true
  faulty : flag.beside (FP_STAT_FAULTY p.val) = true

theorem Only.makeFaulty : Only stateParts c (c.makeFaulty p) :=
  .ite ((Only.put ..).mono) (((Only.put ..).mono : Only stateParts _ _).trans (.setPortState ..))

theorem Only.portFault (flag : Field) : Only stateParts c (c.portFault p flag) :=
  (((Only.refl _ c).then (.mark ..)).then (.raise ..)).trans (.makeFaulty ..)

theorem Reports.makeFaulty : Reports c (c.makeFaulty p) :=
  .ite (.of_faults rfl) ((Reports.of_faults rfl : Reports c (c.put _ 1)).trans (.setPortState ..))

theorem Chip.makeFaulty_cases {P : Chip → Prop} (stays : c.portState p = 2 ∨ c.portState p = 3 → P (c.put (FP_STAT_FAULTY p.val) 1))
    (recovers : c.portState p ≠ 2 → P ((c.put (FP_STAT_FAULTY p.val) 1).setPortState p 3)) : P (c.makeFaulty p) := by
  have same : (c.put (FP_STAT_FAULTY p.val) 1).portState p = c.portState p := Chip.get_put_beside _ _ _ _ rfl
  unfold Chip.makeFaulty
  dsimp only
  rw [same]
  split
  next h => exact stays (by simpa using h)
  next h => exact recovers fun h2 => h (by simp [h2])

theorem FieldsBut.makeFaulty : FieldsBut (FP_STAT_FAULTY p.val :: stateFields p) c (c.makeFaulty p) := by
  have put := (FieldsBut.refl (FP_STAT_FAULTY p.val :: stateFields p) c).put (FP_STAT_FAULTY p.val) 1 (Field.ok_of _ rfl) List.mem_cons_self
  exact c.makeFaulty_cases p (fun _ => put) fun _ => put.trans ((FieldsBut.setPortState _ p 3).mono fun f hf => List.mem_cons_of_mem _ hf)

theorem Chip.makeFaulty_faulty : (c.makeFaulty p).get (FP_STAT_FAULTY p.val) = 1 := by
  have put : (c.put (FP_STAT_FAULTY p.val) 1).get (FP_STAT_FAULTY p.val) = 1 := Chip.get_put_fit _ _ 1 rfl
  exact c.makeFaulty_cases p (P := fun d => d.get (FP_STAT_FAULTY p.val) = 1) (fun _ => put) fun _ =>
    (Chip.setPortState_get _ p 3 (Field.ok_of _ rfl) rfl rfl).trans put

theorem Chip.makeFaulty_state : (c.makeFaulty p).portState p = if c.portState p = 2 then 2 else 3 := by
  have same : (c.put (FP_STAT_FAULTY p.val) 1).portState p = c.portState p := Chip.get_put_beside _ _ _ _ rfl
  refine c.makeFaulty_cases p (P := fun d => d.portState p = if c.portState p = 2 then 2 else 3) (fun h => same.trans ?_) fun h =>
    (Chip.setPortState_state _ p 3 (by decide)).trans (if_neg h).symm
  split
  next two => exact two
  next not2 => exact h.resolve_left not2

theorem Chip.makeFaulty_flag {flag : Field} (hf : FaultFlag p flag) : (c.makeFaulty p).get flag = c.get flag := by
  have put : (c.put (FP_STAT_FAULTY p.val) 1).get flag = c.get flag :=
    Chip.get_put_apart c flag _ 1 hf.ok (Field.ok_of _ rfl) (.inr (Field.beside_iff.mp hf.faulty))
  exact c.makeFaulty_cases p (P := fun d => d.get flag = c.get flag) (fun _ => put) fun _ =>
    (Chip.setPortState_get _ p 3 hf.ok hf.here hf.state).trans put

theorem FieldsBut.portFault {flag : Field} (ok : flag.ok) :
    FieldsBut (flag :: FP_STAT_FAULTY p.val :: stateFields p) c (c.portFault p flag) := by
  have marked := (FieldsBut.refl (flag :: FP_STAT_FAULTY p.val :: stateFields p) c).mark flag ok List.mem_cons_self
  have raised := (Only.raise (c.mark flag) (srcPort p)).fieldsBut (flag :: FP_STAT_FAULTY p.val :: stateFields p)
  exact (marked.trans raised).trans ((FieldsBut.makeFaulty _ p).mono fun f hf => List.mem_cons_of_mem _ hf)

theorem PortFaulted.portFault {flag : Field} (hf : FaultFlag p flag) : PortFaulted p flag c (c.portFault p flag) := by
  have state : ((c.mark flag).raise (srcPort p)).portState p = c.portState p :=
    Chip.get_put_apart c _ flag 1 (Field.ok_of _ rfl) hf.ok (.inr ((Field.beside_iff.mp hf.state).symm))
  refine ⟨(Chip.makeFaulty_flag _ p hf).trans (c.get_mark flag hf.ok), Chip.makeFaulty_faulty _ p, ?_, ?_⟩
  · exact (Chip.makeFaulty_state _ p).trans (by rw [state])
  · obtain ⟨l, hl⟩ := Reports.makeFaulty ((c.mark flag).raise (srcPort p)) p
    have events : (c.portFault p flag).faults.events = (c.faults.events ++ [⟨srcPort p, 1, 0, 0, false⟩]) ++ l := congrArg FaultState.events hl
    rw [events, List.take_left' (by simp)]

end

/-- What comes before a fault of a port, without an event and in the same state of the port, does not show. -/
theorem PortFaulted.of_base {p : Port} {flag : Field} {b c d : Chip} (h : PortFaulted p flag c d) (state : c.portState p = b.portState p)
    (faults : c.faults = b.faults) : PortFaulted p flag b d := by
  rw [PortFaulted, state, faults] at h
  exact h

theorem FaultFlag.of_stat {p : Port} {flag : Field} (h : flag = FP_STAT_WIRE p.val ∨ flag = FP_STAT_HALLC p.val) : FaultFlag p flag := by
  rcases h with rfl | rfl <;> exact ⟨Field.ok_of _ rfl, rfl, rfl, rfl⟩

/-- The port of a failed wire, before its lead is faulty. -/
def Chip.wireShown (c : Chip) (p : Port) : Chip := (c.setPort p { c.port p with wireBad := true }).mark (FP_STAT_WIRE p.val)

theorem Chip.wireShown_stat (c : Chip) (p : Port) {f : Field} (ok : f.ok) (hf : f.beside (FP_STAT_WIRE p.val) = true) :
    (c.wireShown p).get f = c.get f :=
  Chip.get_put_apart c f _ 1 ok (Field.ok_of _ rfl) (.inr (Field.beside_iff.mp hf))

theorem Chip.wireShown_wire (c : Chip) (p : Port) : (c.wireShown p).get (FP_STAT_WIRE p.val) = 1 := Chip.get_mark _ _ (Field.ok_of _ rfl)

/-- The fault of a lead leaves the member's own WIRE bit. -/
theorem Chip.portFault_wire {c : Chip} (p l : Port) (shown : c.get (FP_STAT_WIRE p.val) = 1) :
    (c.portFault l (FP_STAT_WIRE l.val)).get (FP_STAT_WIRE p.val) = 1 := by
  by_cases same : p = l
  · subst same
    exact (PortFaulted.portFault c p (FaultFlag.of_stat (.inl rfl))).1
  · have apart : FP_STAT p.val ≠ FP_STAT l.val := fun h => same (Fin.ext (by simp only [FP_STAT] at h; omega))
    refine (FieldsBut.portFault c l (Field.ok_of (FP_STAT_WIRE l.val) rfl) _ (Field.ok_of _ rfl) fun g hg => ?_).trans shown
    simp only [stateFields, List.mem_cons] at hg
    rcases hg with rfl | rfl | rfl | consumer
    · exact .inl apart
    · exact .inl apart
    · exact .inl apart
    · exact apart_consumer (FP_STAT_range p) consumer

theorem Only.acquire (c : Chip) (p : Port) : Only (.ports :: stateParts) c (c.acquire p) :=
  ((Only.setPort ..).mono : Only (.ports :: stateParts) _ _).then (.setPortState ..)

end Sys2Proof.Machine

open Sys2Proof.Machine

/-- Settles O25: the fault of a port by its stages, and each change of state by the frame of `setPortState`. -/
theorem portStates : Obligations.PortStates := by
  refine ⟨⟨?wire, ?again, ?hall⟩, ?acquired, ?testOn, ?notTested, ?testOff, ?notOff⟩
  case wire =>
    intro s p l runs input good lead
    have only : Only [.ports, .regs, .fresh] s.chip (s.chip.wireShown p) := ((Only.refl _ s.chip).then (.setPort ..)).then (.mark ..)
    have leadOf : (s.chip.wireShown p).leadOf p = l := by
      rw [← lead]
      exact congrArg portOf (Chip.wireShown_stat s.chip p (Field.ok_of (FP_CFG_LEAD p.val) rfl) rfl)
    have run : s.chip.wireCheckFail p = (s.chip.wireShown p).portFault l (FP_STAT_WIRE l.val) := by
      rw [← leadOf]
      exact if_neg (by simp [runs, input, good])
    have state : (s.chip.wireShown p).portState l = s.chip.portState l :=
      Chip.wireShown_stat s.chip p (Field.ok_of (FP_STAT_PSTATE l.val) rfl) rfl
    have faulted := (PortFaulted.portFault (s.chip.wireShown p) l (FaultFlag.of_stat (.inl rfl))).of_base state (only.same .faults (by decide))
    have tail := Only.portFault (s.chip.wireShown p) l (FP_STAT_WIRE l.val)
    have whole : Only [.regs, .fresh, .ports, .tbs, .axes, .faults] s.chip ((s.chip.wireShown p).portFault l (FP_STAT_WIRE l.val)) :=
      (only.mono : Only [.regs, .fresh, .ports, .tbs, .axes, .faults] _ _).then tail
    refine completes_of_run (·.wireCheckFail p) rfl run ⟨Chip.portFault_wire p l (s.chip.wireShown_wire p), faulted, ?_, fun q hq => ?_, ?_, whole.eq⟩
    · rw [tail.port p]
      exact congrArg PortState.wireBad (Chip.port_setPort ..)
    · exact (tail.port q).trans (Chip.port_setPort_ne _ _ _ hq)
    · have shown : FieldsBut ([FP_STAT_WIRE p.val, FP_STAT_WIRE l.val, FP_STAT_FAULTY l.val, FP_STAT_PSTATE l.val] ++ consumerFields)
          s.chip (s.chip.wireShown p) :=
        FieldsBut.mark ((FieldsBut.refl _ s.chip).of_regs rfl) _ (Field.ok_of _ rfl) List.mem_cons_self
      exact shown.trans ((FieldsBut.portFault _ l (Field.ok_of (FP_STAT_WIRE l.val) rfl)).mono fun f hf => List.mem_cons_of_mem _ hf)
  case again =>
    intro s p bad
    exact idles_of_run (·.wireCheckFail p) rfl (if_pos (by simp [bad]))
  case hall =>
    intro s p runs hall known none late fresh
    let b := s.chip.setPort p { s.chip.port p with hallHeld := true }
    have run : s.chip.hallTimeout p = b.portFault p (FP_STAT_HALLC p.val) :=
      if_pos (by simp [Chip.hallBad, runs, hall, known, none, late, fresh])
    have faulted := (PortFaulted.portFault b p (FaultFlag.of_stat (.inr rfl))).of_base (b := s.chip) rfl rfl
    have tail := Only.portFault b p (FP_STAT_HALLC p.val)
    have whole : Only [.regs, .fresh, .ports, .tbs, .axes, .faults] s.chip (b.portFault p (FP_STAT_HALLC p.val)) :=
      ((Only.setPort ..).mono : Only [.regs, .fresh, .ports, .tbs, .axes, .faults] _ _).then tail
    refine completes_of_run (·.hallTimeout p) rfl run ⟨faulted, ?_, fun q hq => ?_, ?_, whole.eq⟩
    · rw [tail.port p]
      exact congrArg PortState.hallHeld (Chip.port_setPort ..)
    · exact (tail.port q).trans (Chip.port_setPort_ne _ _ _ hq)
    · exact FieldsBut.portFault b p (Field.ok_of (FP_STAT_HALLC p.val) rfl)
  case acquired =>
    intro s p runs lead state acquired
    let d := s.chip.setPortState p 1
    have only := Only.setPortState s.chip p 1
    have fields := FieldsBut.setPortState s.chip p 1
    have limit : d.isLimit p = s.chip.isLimit p := Chip.isLimit_of_fields p fields fun g hg => by
      obtain rfl | consumer := List.mem_cons.mp hg
      · simp [FP_STAT_PSTATE, FP_STAT, FP_CFG]
      · have := consumer_addr g consumer
        have := FP_CFG_range p
        omega
    have level : d.flag (FP_STAT_LEVEL p.val) = s.chip.flag (FP_STAT_LEVEL p.val) :=
      Chip.flag_of_get (Chip.setPortState_get s.chip p 1 (Field.ok_of _ rfl) rfl rfl)
    have trip : d.flag (FP_STAT_LIM_TRIP p.val) = s.chip.flag (FP_STAT_LIM_TRIP p.val) :=
      Chip.flag_of_get (Chip.setPortState_get s.chip p 1 (Field.ok_of _ rfl) rfl rfl)
    have run : s.chip.acquireComplete p =
        if s.chip.isLimit p && (s.chip.port p).digQual && s.chip.flag (FP_STAT_LEVEL p.val) then d.put (FP_STAT_LIM_TRIP p.val) 1 else d := by
      rw [← limit, ← only.port p, ← level]
      exact if_pos (by simp [runs, lead, state, acquired])
    have shown : FieldsBut ([FP_STAT_PSTATE p.val, FP_STAT_LIM_TRIP p.val] ++ consumerFields) s.chip d := fields.mono fun f hf => by
      obtain rfl | consumer := List.mem_cons.mp hf
      · exact List.mem_cons_self
      · exact List.mem_append_right _ consumer
    refine completes_of_run (·.acquireComplete p) rfl run ?_
    split
    next found =>
      refine ⟨?_, ?_, shown.put _ _ (Field.ok_of _ rfl) (by simp), (only.then (.put ..)).eq⟩
      · exact (Chip.get_put_beside _ _ _ _ rfl).trans (Chip.setPortState_state s.chip p 1 (by decide))
      · rw [found, Bool.or_true]
        exact Chip.flag_one (Chip.get_put_fit _ _ 1 rfl)
    next absent =>
      refine ⟨Chip.setPortState_state s.chip p 1 (by decide), ?_, shown, only.eq⟩
      rw [Bool.eq_false_iff.mpr absent, Bool.or_false]
      exact trip
  case testOn =>
    intro s path p serving lead faulty motion
    have clear : judge [(!s.chip.inputLead p || s.chip.flag (FP_STAT_FAULTY p.val) || s.chip.feedsMotion p, .state)] = .ok := by
      simp [judge, lead, faulty, motion]
    exact grants_of_ask (f := (·.testOn p)) rfl serving (s.chip.request_ok _ _ clear)
      ⟨Chip.setPortState_state _ p 2 (by decide), FieldsBut.setPortState s.chip p 2, (Only.setPortState s.chip p 2).eq⟩
  case notTested =>
    intro s path p serving bad
    exact refuses_of_request (f := (·.testOn p)) rfl serving rfl (by simp [judge, bad]) (by decide)
  case testOff =>
    intro s path p serving lead state
    have clear : judge [(!s.chip.inputLead p || s.chip.portState p != 2, .state)] = .ok := by
      simp [judge, lead, state]
    let b := s.chip.setPort p { s.chip.port p with learned := false, ssiGood := 0, acqTick := s.chip.now }
    have tail : Only stateParts b (s.chip.acquire p) := Only.setPortState b p 0
    refine grants_of_ask (f := (·.testOff p)) rfl serving (s.chip.request_ok _ _ clear)
      ⟨Chip.setPortState_state b p 0 (by decide), ?_, fun q hq => ?_, FieldsBut.setPortState b p 0, (Only.acquire s.chip p).eq⟩
    · rw [tail.port p]
      exact congrArg PortState.learned (Chip.port_setPort ..)
    · exact (tail.port q).trans (Chip.port_setPort_ne _ _ _ hq)
  case notOff =>
    intro s path p serving bad
    refine refuses_of_request (f := (·.testOff p)) rfl serving rfl (r := .state) ?_ (by decide)
    rcases bad with bad | bad <;> simp [judge, bad]
end

section
-- One proof after the other: a side goal that `Only` settles by `decide` waits for the kernel, on a thread of its own.
set_option Elab.async false
/-! SUPPORT. What feeding, losing and regaining the timebases of an axis leaves of them, a switch-over that ends homing, and the
statement about position sources (R166 to R169). -/
namespace Sys2Proof.Machine

/-! ### The values of the timebases -/

/-- Every timebase has its value. -/
def SameValues (b c : Chip) : Prop := ∀ n, (c.tb n).val = (b.tb n).val

/-- Every timebase has its value, and a source as far as it had one; a jump is due where it was. -/
structure SourcesStand (b c : Chip) : Prop where
  values : SameValues b c
  lost : ∀ n, (c.tb n).lost = (b.tb n).lost
  jumps : ∀ n, (c.tb n).jumpDue = (b.tb n).jumpDue

theorem tbe_ne_tbm (a : Axis) : tbeOf a ≠ tbmOf a := fun h => by
  have := congrArg Fin.val h
  simp only [tbeOf, tbmOf] at this
  omega

section
variable (c : Chip) (a : Axis) (n : Tb)

theorem SameValues.refl : SameValues c c := fun _ => rfl

theorem SameValues.trans {b c d : Chip} (h : SameValues b c) (k : SameValues c d) : SameValues b d := fun n => (k n).trans (h n)

/-- A timebase that keeps its value keeps all values. -/
theorem SameValues.setTb {x : TbState} (h : x.val = (c.tb n).val) : SameValues c (c.setTb n x) := fun k => by
  by_cases same : k = n
  · rw [same, Chip.tb_setTb, h]
  · rw [Chip.tb_setTb_ne _ _ _ same]

theorem Only.sameValues {l : List Part} {b c : Chip} (h : Only l b c) (hl : Part.tbs ∉ l := by decide) : SameValues b c :=
  fun n => congrArg TbState.val (h.tb n hl)

theorem SourcesStand.refl : SourcesStand c c := ⟨.refl c, fun _ => rfl, fun _ => rfl⟩

theorem SourcesStand.trans {b c d : Chip} (h : SourcesStand b c) (k : SourcesStand c d) : SourcesStand b d :=
  ⟨h.values.trans k.values, fun n => (k.lost n).trans (h.lost n), fun n => (k.jumps n).trans (h.jumps n)⟩

theorem SourcesStand.feed (v : BitVec 32) (motion : Bool) : SourcesStand c (c.feed n v motion) := by
  have one (k : Tb) : ((c.feed n v motion).tb k).val = (c.tb k).val ∧ ((c.feed n v motion).tb k).lost = (c.tb k).lost ∧
      ((c.feed n v motion).tb k).jumpDue = (c.tb k).jumpDue := by
    unfold Chip.feed
    by_cases same : k = n
    · rw [same, Chip.tb_setTb]
      exact ⟨rfl, rfl, rfl⟩
    · rw [Chip.tb_setTb_ne _ _ _ same]
      exact ⟨rfl, rfl, rfl⟩
  exact ⟨fun k => (one k).1, fun k => (one k).2.1, fun k => (one k).2.2⟩

theorem SourcesStand.feedAxis (motion : Bool) : SourcesStand c (c.feedAxis a motion) := by
  have both (v w : BitVec 32) : SourcesStand c ((c.feed (tbmOf a) v motion).feed (tbeOf a) w motion) := (SourcesStand.feed ..).trans (.feed ..)
  unfold Chip.feedAxis
  dsimp only
  split
  · exact .refl c
  split
  · split
    · exact both _ _
    · exact .refl c
  split
  · exact both _ _
  · exact .refl c

theorem SameValues.rebase : SameValues c (c.rebase a) := by
  refine (SourcesStand.feedAxis c a false).values.trans ?_
  refine Chip.each_keeps (P := SameValues (c.feedAxis a false)) _ (.refl _) fun d hd n _ => ?_
  split
  · exact hd
  · exact hd.trans (SameValues.setTb d n rfl)

theorem SameValues.loseTb : SameValues c (c.loseTb n) := .setTb c n rfl

theorem SameValues.regainTb : SameValues c (c.regainTb n) := .setTb c n rfl

theorem SameValues.loseAxis : SameValues c (c.loseAxis a) := (SameValues.loseTb c (tbmOf a)).trans (.loseTb _ (tbeOf a))

/-- The timebases of an axis that loses them, and no other, are lost. -/
theorem Chip.loseAxis_lost : ((c.loseAxis a).tb (tbmOf a)).lost = true ∧ ((c.loseAxis a).tb (tbeOf a)).lost = true := by
  unfold Chip.loseAxis Chip.loseTb
  rw [Chip.tb_setTb, Chip.tb_setTb_ne _ _ _ (tbe_ne_tbm a).symm, Chip.tb_setTb]
  exact ⟨rfl, rfl⟩

theorem Chip.loseAxis_others {n : Tb} (hm : n ≠ tbmOf a) (he : n ≠ tbeOf a) : (c.loseAxis a).tb n = c.tb n := by
  unfold Chip.loseAxis Chip.loseTb
  rw [Chip.tb_setTb_ne _ _ _ he, Chip.tb_setTb_ne _ _ _ hm]

/-- What an axis's timebases are once they have resumed (R168). -/
structure Resumed (b c : Chip) : Prop where
  mech : (c.tb (tbmOf a)).lost = false
  elec : (c.tb (tbeOf a)).lost = false
  mechJump : (c.tb (tbmOf a)).jumpDue = true
  elecJump : (c.tb (tbeOf a)).jumpDue = true
  values : SameValues b c

theorem Resumed.regainAxis : Resumed a c (c.regainAxis a) := by
  have fed := SourcesStand.feedAxis ((c.regainTb (tbmOf a)).regainTb (tbeOf a)) a false
  have mech : ((c.regainTb (tbmOf a)).regainTb (tbeOf a)).tb (tbmOf a) = { c.tb (tbmOf a) with lost := false, jumpDue := true } := by
    unfold Chip.regainTb
    rw [Chip.tb_setTb_ne _ _ _ (tbe_ne_tbm a).symm, Chip.tb_setTb]
  have elec : ((c.regainTb (tbmOf a)).regainTb (tbeOf a)).tb (tbeOf a) = { c.tb (tbeOf a) with lost := false, jumpDue := true } := by
    unfold Chip.regainTb
    rw [Chip.tb_setTb, Chip.tb_setTb_ne _ _ _ (tbe_ne_tbm a)]
  refine ⟨(fed.lost _).trans ?_, (fed.lost _).trans ?_, (fed.jumps _).trans ?_, (fed.jumps _).trans ?_, SameValues.trans ?_ fed.values⟩
  · rw [mech]
  · rw [elec]
  · rw [mech]
  · rw [elec]
  · exact (SameValues.regainTb c (tbmOf a)).trans (.regainTb _ (tbeOf a))

theorem Resumed.of_base {b c d : Chip} (h : Resumed a c d) (values : SameValues b c) : Resumed a b d :=
  ⟨h.mech, h.elec, h.mechJump, h.elecJump, values.trans h.values⟩

/-! ### What a switch-over has set, homing's end leaves (R167, R367) -/

/-- The switch-over of the axis and what it shows are the same. -/
structure SwitchKept (b c : Chip) : Prop where
  due : (c.axis a).switchDue = (b.axis a).switchDue
  tick : (c.axis a).switchTick = (b.axis a).switchTick
  ofs : (c.axis a).heldOfs = (b.axis a).heldOfs
  onSec : c.get (AX_SRCSTAT_ON_SEC a.val) = b.get (AX_SRCSTAT_ON_SEC a.val)
  count : c.get (AX_SRCSTAT_SWITCHES a.val) = b.get (AX_SRCSTAT_SWITCHES a.val)

theorem SwitchKept.trans {b c d : Chip} (h : SwitchKept a b c) (k : SwitchKept a c d) : SwitchKept a b d :=
  ⟨k.due.trans h.due, k.tick.trans h.tick, k.ofs.trans h.ofs, k.onSec.trans h.onSec, k.count.trans h.count⟩

theorem SwitchKept.refl : SwitchKept a c c := ⟨rfl, rfl, rfl, rfl, rfl⟩

theorem SwitchKept.of_only {l : List Part} {b c : Chip} (h : Only l b c) (hl : Part.axes ∉ l ∧ Part.regs ∉ l := by decide) : SwitchKept a b c :=
  ⟨congrArg AxisState.switchDue (h.axis a hl.1), congrArg AxisState.switchTick (h.axis a hl.1), congrArg AxisState.heldOfs (h.axis a hl.1),
    h.get _ hl.2, h.get _ hl.2⟩

theorem SwitchKept.setAxis {x : AxisState} (due : x.switchDue = (c.axis a).switchDue) (tick : x.switchTick = (c.axis a).switchTick)
    (ofs : x.heldOfs = (c.axis a).heldOfs) : SwitchKept a c (c.setAxis a x) := by
  refine ⟨?_, ?_, ?_, Chip.setAxis_get .., Chip.setAxis_get ..⟩
  · rw [Chip.axis_setAxis, due]
  · rw [Chip.axis_setAxis, tick]
  · rw [Chip.axis_setAxis, ofs]

theorem SwitchKept.put {f : Field} (v : Nat) (ok : f.ok) (apart : (AX_SRCSTAT_ON_SEC a.val).apart f ∧ (AX_SRCSTAT_SWITCHES a.val).apart f) :
    SwitchKept a c (c.put f v) :=
  ⟨rfl, rfl, rfl, c.get_put_apart _ f v (Field.ok_of _ rfl) ok apart.1, c.get_put_apart _ f v (Field.ok_of _ rfl) ok apart.2⟩

theorem SwitchKept.ite {p : Prop} [Decidable p] {b d e : Chip} (hd : SwitchKept a b d) (he : SwitchKept a b e) :
    SwitchKept a b (if p then d else e) := by
  split
  · exact hd
  · exact he

/-- Fields of an axis's modes and stream stand in other registers than its sources. -/
theorem SwitchKept.putMode {f : Field} (v : Nat) (ok : f.ok) (hf : f.addr = AX_MSTAT a.val ∨ f.addr = AX_STRSTAT a.val) : SwitchKept a c (c.put f v) := by
  have apart : AX_SRCSTAT a.val ≠ f.addr := by
    simp only [AX_MSTAT, AX_STRSTAT] at hf
    simp only [AX_SRCSTAT]
    omega
  exact .put c a v ok ⟨.inl apart, .inl apart⟩

theorem SwitchKept.flushStream : SwitchKept a c (c.flushStream a) :=
  (((SwitchKept.putMode c a (f := AX_STRSTAT_CREDITS a.val) _ (Field.ok_of _ rfl) (.inr rfl)).trans
    _ (.putMode _ a (f := AX_MSTAT_HELD a.val) _ (Field.ok_of _ rfl) (.inl rfl))).trans
    _ (.putMode _ a (f := AX_MSTAT_PEND a.val) _ (Field.ok_of _ rfl) (.inl rfl))).trans _ (.setAxis _ a rfl rfl rfl)

theorem SwitchKept.leaveMode (homeCode : Nat) : SwitchKept a c (c.leaveMode a homeCode) := by
  have streamed : SwitchKept a c (if c.modeOf a == 3 then c.flushStream a else c) := .ite a (.flushStream c a) (.refl c a)
  have homed (d : Chip) (p : Prop) [Decidable p] (v : Nat) : SwitchKept a d (if p then d.put (AX_MSTAT_HOME a.val) v else d) :=
    .ite a (.putMode d a v (Field.ok_of _ rfl) (.inl rfl)) (.refl d a)
  exact (streamed.trans _ (homed ..)).trans _ (.setAxis _ a rfl rfl rfl)

theorem SwitchKept.setStart (st : Nat) (p : Option StartPlan) : SwitchKept a c (c.setStart a st p) :=
  (SwitchKept.put c a (f := AX_SRCSTAT_START a.val) st (Field.ok_of _ rfl) ⟨Field.apart_of _ _ rfl, Field.apart_of _ _ rfl⟩).trans
    _ (.setAxis _ a rfl rfl rfl)

theorem SwitchKept.endStart : SwitchKept a c (c.endStart a) := (SwitchKept.setStart c a 0 none).trans _ (.setAxis _ a rfl rfl rfl)

theorem SwitchKept.floatAxis : SwitchKept a c (c.floatAxis a) := by
  have asked : Only [.legs] c (c.each (legsOf a) fun c l => c.want l .float 0 none) :=
    .each c _ fun d l _ => (LegAt.want d l .float 0 none).only.mono
  have shown (d : Chip) : SwitchKept a d (d.setAxis a { d.axis a with driven := false, trans := none }) := .setAxis d a rfl rfl rfl
  exact (SwitchKept.of_only a asked).trans _ (shown _)

theorem SwitchKept.enterOff (homeCode : Nat) : SwitchKept a c (c.enterOff a homeCode) := by
  have series (d : Chip) : SwitchKept a d (d.each (legsOf a) fun d l => d.newSeries false l) :=
    .of_only a (Only.each d _ fun e l _ => Only.newSeries e false l)
  have left : SwitchKept a c (((c.leaveMode a homeCode).put (AX_MSTAT_MODE a.val) 0).endStart a) :=
    ((SwitchKept.leaveMode c a homeCode).trans _ (.putMode _ a (f := AX_MSTAT_MODE a.val) 0 (Field.ok_of _ rfl) (.inl rfl))).trans _ (.endStart _ a)
  unfold Chip.enterOff
  dsimp only
  refine .ite a (.refl c a) (.ite a ?_ ?_)
  · refine (left.trans _ ?_).trans _ (series _)
    exact .setAxis _ a rfl rfl rfl
  · refine ((left.trans _ ?_).trans _ (series _)).trans _ (.floatAxis _ a)
    exact .setAxis _ a rfl rfl rfl

/-! ### The switch-over (R167) -/

/-- The axis with the secondary in use, before its timebases follow it. -/
def Chip.switchSet : Chip :=
  let x := c.axis a
  ((c.setAxis a { x with
    switchDue := none, switchTick := some c.now, heldOfs := c.reg (AX_SECOFS a.val)
    heldMech := (c.tb (tbmOf a)).val - x.homeShift - c.srcMech a true }).putF (AX_SRCSTAT_ON_SEC a.val) true).bump (AX_SRCSTAT_SWITCHES a.val) 1

/-- The axis once its timebases follow the secondary. -/
def Chip.switchMade : Chip := ((c.switchSet a).rebase a).switchNoted a

theorem Chip.switchOver_eq (now : c.switchNow a = true) : c.switchOver a = c.switchMade a :=
  if_neg (by simp [now])

theorem Only.switchSet : Only [.regs, .fresh, .axes] c (c.switchSet a) :=
  ((((Only.refl _ c).then (.setAxis ..)).then (.putF ..)).then (.bump ..))

theorem Only.switchNoted : Only [.axes] c (c.switchNoted a) := .setAxis ..

theorem SwitchKept.switchNoted : SwitchKept a c (c.switchNoted a) := .setAxis c a rfl rfl rfl

theorem OneAxis.switchNoted : OneAxis a c (c.switchNoted a) := fun _ hk => Chip.axis_setAxis_ne c a _ hk

theorem Only.switchFollowed : Only [.tbs, .axes] c ((c.rebase a).switchNoted a) := ((Only.rebase c a).mono : Only [.tbs, .axes] _ _).then (.switchNoted ..)

theorem Only.switchMade : Only [.regs, .fresh, .tbs, .axes] c (c.switchMade a) :=
  ((Only.switchSet c a).mono : Only [.regs, .fresh, .tbs, .axes] _ _).then (.switchFollowed ..)

theorem FieldsBut.switchMade : FieldsBut [AX_SRCSTAT_ON_SEC a.val, AX_SRCSTAT_SWITCHES a.val] c (c.switchMade a) := by
  have set : FieldsBut [AX_SRCSTAT_ON_SEC a.val, AX_SRCSTAT_SWITCHES a.val] c (c.switchSet a) :=
    (((FieldsBut.refl _ c).of_regs (Chip.setAxis_regs ..)).putF (AX_SRCSTAT_ON_SEC a.val) true (Field.ok_of _ rfl) List.mem_cons_self).bump
      (AX_SRCSTAT_SWITCHES a.val) 1 (Field.ok_of _ rfl) (by simp)
  exact set.trans ((Only.switchFollowed (c.switchSet a) a).fieldsBut _)

theorem SwitchKept.switchMade : SwitchKept a (c.switchSet a) (c.switchMade a) :=
  (SwitchKept.of_only a (Only.rebase (c.switchSet a) a)).trans _ (.switchNoted _ a)

theorem SameValues.switchMade : SameValues c (c.switchMade a) :=
  ((Only.switchSet c a).sameValues.trans (.rebase _ a)).trans (Only.switchNoted _ a).sameValues

theorem OneAxis.switchMade : OneAxis a c (c.switchMade a) := by
  have set : OneAxis a c (c.switchSet a) := fun k hk => Chip.axis_setAxis_ne c a _ hk
  exact (set.trans ((Only.rebase (c.switchSet a) a).oneAxis a)).trans (OneAxis.switchNoted _ a)

theorem Chip.switchSet_shown : (c.switchSet a).get (AX_SRCSTAT_ON_SEC a.val) = 1 ∧
    (c.switchSet a).get (AX_SRCSTAT_SWITCHES a.val) = min (c.get (AX_SRCSTAT_SWITCHES a.val) + 1) 65535 := by
  constructor
  · rw [Chip.switchSet, Chip.bump, Chip.noteFresh_get]
    refine (Chip.get_put_beside _ _ _ _ rfl).trans ?_
    exact Chip.get_put_fit _ _ 1 rfl
  · rw [Chip.switchSet, Chip.get_bump _ _ (Field.ok_of _ rfl), Chip.putF, Chip.get_put_beside _ _ _ _ rfl, Chip.setAxis_get]
    rfl

/-- Homing goes on after a switch-over, or ends because the secondary is sensorless. -/
theorem Chip.switchMade_ends : (c.switchMade a).switchEndsHome a =
    if c.modeOf a == 5 && c.srcType a true == 5 then (c.switchMade a).enterOff a 5 else c.switchMade a := by
  have fields := FieldsBut.switchMade c a
  have other {f : Field} (ok : f.ok) (hf : f.addr ≠ AX_SRCSTAT a.val) : (c.switchMade a).get f = c.get f := by
    refine fields f ok fun g hg => .inl ?_
    simp only [List.mem_cons, List.not_mem_nil, or_false] at hg
    rcases hg with rfl | rfl <;> exact hf
  have mode : (c.switchMade a).modeOf a = c.modeOf a := other (Field.ok_of _ rfl) (by
    simp only [AX_MSTAT_MODE, AX_MSTAT, AX_SRCSTAT]
    omega)
  have type : (c.switchMade a).srcType a true = c.srcType a true := other (Field.ok_of (AX_SRC_SEC a.val) rfl) (by
    simp only [AX_SRC_SEC, AX_SRC, AX_SRCSTAT]
    omega)
  have onSec : (c.switchMade a).onSec a = true := Chip.flag_one ((SwitchKept.switchMade c a).onSec.trans (c.switchSet_shown a).1)
  rw [Chip.switchEndsHome, mode, Chip.usesSensorless, onSec, type]

end

end Sys2Proof.Machine

open Sys2Proof.Machine

/-- Settles O15: the loss and the ways back by what they leave of the timebases, the switch-over by its two stages. -/
theorem positionSources : Obligations.PositionSources := by
  refine ⟨⟨?prepared, ?stale, ?switched, ?early, ?answered⟩, ?primary, ?secondary, ?following, ?back, ?refused⟩
  case prepared =>
    intro s a gone valid learned
    have run : s.chip.primaryLoss a = s.chip.setAxis a { s.chip.axis a with switchDue := some (s.chip.now + 2) } := by
      simp [Chip.primaryLoss, gone, valid, learned]
    exact completes_of_run (·.primaryLoss a) rfl run ⟨Chip.axis_setAxis .., fun k hk => Chip.axis_setAxis_ne _ _ _ hk, rfl⟩
  case stale =>
    intro s a gone unable
    have run : s.chip.primaryLoss a = s.chip.staleByLoss a false := by
      simp only [Chip.primaryLoss, gone, unable, Bool.not_true, Bool.false_eq_true, if_false]
    have lost := s.chip.loseAxis_lost a
    have axis (k : Sys2Proof.Axis) : (s.chip.loseAxis a).axis k = s.chip.axis k := (Only.loseAxis s.chip a).axis k
    refine completes_of_run (·.primaryLoss a) rfl run ⟨lost.1, lost.2, SameValues.loseAxis s.chip a, ?_, rfl, fun k hk => ?_,
      fun n hm he => s.chip.loseAxis_others a hm he, ?_⟩
    · refine (Chip.axis_setAxis ..).trans ?_
      rw [axis a]
    · exact (Chip.axis_setAxis_ne _ _ _ hk).trans (axis k)
    · exact (Only.staleByLoss s.chip a false).eq
  case switched =>
    intro s a t due come
    have now : s.chip.switchNow a = true := by
      rw [Chip.switchNow, due]
      exact decide_eq_true come
    let d := s.chip.switchMade a
    have run : (if s.chip.switchNow a then (s.chip.switchOver a).switchEndsHome a else s.chip) =
        if s.chip.modeOf a == 5 && s.chip.srcType a true == 5 then d.enterOff a 5 else d := by
      rw [if_pos now, Chip.switchOver_eq _ _ now, Chip.switchMade_ends]
    have kept : SwitchKept a (s.chip.switchSet a) (if s.chip.modeOf a == 5 && s.chip.srcType a true == 5 then d.enterOff a 5 else d) := by
      refine .ite a ?_ (.switchMade s.chip a)
      exact (SwitchKept.switchMade s.chip a).trans _ (.enterOff _ a 5)
    have axis : (s.chip.switchSet a).axis a = _ := Chip.axis_setAxis s.chip a _
    have shown := s.chip.switchSet_shown a
    refine completes_of_run (fun c => if c.switchNow a then (c.switchOver a).switchEndsHome a else c) rfl run
      ⟨kept.onSec.trans shown.1, kept.count.trans shown.2, kept.due.trans (congrArg AxisState.switchDue axis),
        kept.tick.trans (congrArg AxisState.switchTick axis), kept.ofs.trans (congrArg AxisState.heldOfs axis), ?_, fun homing sensorless => ?_, fun other => ?_⟩
    · have made := SameValues.switchMade s.chip a
      split
      · exact made.trans (Only.enterOff d a 5).sameValues
      · exact made
    · rw [if_pos (by simp [homing, sensorless])]
      exact d.enterOff_mode a 5
    · rw [if_neg (by simp [other])]
      exact ⟨congrArg AxisState.switched (Chip.axis_setAxis ((s.chip.switchSet a).rebase a) a _), FieldsBut.switchMade s.chip a, OneAxis.switchMade s.chip a,
        (Only.switchMade s.chip a).eq⟩
  case early =>
    intro s a idle
    have early : s.chip.switchNow a = false := by
      unfold Chip.switchNow
      rcases idle with none | ⟨t, due, later⟩
      · rw [none]
      · rw [due]
        exact decide_eq_false (by omega)
    exact idles_of_run (fun c => if c.switchNow a then (c.switchOver a).switchEndsHome a else c) rfl (if_neg (by simp [early]))
  case answered =>
    intro s a gone
    exact idles_of_run (·.primaryLoss a) rfl (if_pos (by simp [gone]))
  case primary =>
    intro s a lost valid
    let b := (s.chip.putF (AX_SRCSTAT_ON_SEC a.val) false).setAxis a { s.chip.axis a with staleBySec := false }
    have run : s.chip.sourceResume a = b.regainAxis a := by
      simp only [Chip.sourceResume, lost, valid, Bool.not_true, Bool.false_eq_true, if_false, if_true]
      rfl
    have before : Only [.regs, .axes] s.chip b := ((Only.refl _ s.chip).then (.putF ..)).then (.setAxis ..)
    have only := Only.regainAxis b a
    have resumed := (Resumed.regainAxis b a).of_base a before.sameValues
    refine completes_of_run (·.sourceResume a) rfl run ⟨?_, resumed.mech, resumed.elec, resumed.mechJump, resumed.elecJump, ?_, resumed.values, fun k hk => ?_, ?_,
      (((before.mono : Only [.regs, .tbs, .axes] _ _).then only).eq)⟩
    · exact (only.get _).trans (Chip.get_put_fit _ _ 0 rfl)
    · rw [only.axis a, Chip.axis_setAxis]
    · exact (only.axis k).trans (Chip.axis_setAxis_ne _ _ _ hk)
    · have put : FieldsBut [AX_SRCSTAT_ON_SEC a.val] s.chip b :=
        ((FieldsBut.refl _ s.chip).putF (AX_SRCSTAT_ON_SEC a.val) false (Field.ok_of _ rfl) List.mem_cons_self).of_regs (Chip.setAxis_regs ..)
      exact put.trans (only.fieldsBut _)
  case secondary =>
    intro s a lost invalid stale onSec valid
    let b := s.chip.setAxis a { s.chip.axis a with staleBySec := false }
    have run : s.chip.sourceResume a = b.regainAxis a := by
      simp only [Chip.sourceResume, lost, invalid, stale, onSec, valid, Bool.not_true, Bool.false_eq_true, if_false, Bool.and_self, if_true]
      rfl
    have before : Only [.axes] s.chip b := .setAxis ..
    have only := Only.regainAxis b a
    have resumed := (Resumed.regainAxis b a).of_base a before.sameValues
    refine completes_of_run (·.sourceResume a) rfl run ⟨resumed.mech, resumed.elec, resumed.mechJump, resumed.elecJump, ?_, resumed.values, fun k hk => ?_,
      (((before.mono : Only [.tbs, .axes] _ _).then only).eq)⟩
    · rw [only.axis a, Chip.axis_setAxis]
    · exact (only.axis k).trans (Chip.axis_setAxis_ne _ _ _ hk)
  case following =>
    intro s a standing
    exact idles_of_run (·.sourceResume a) rfl (if_pos (by simp [standing]))
  case back =>
    intro s p a serving onSec valid learned
    have clear : judge [(!(s.chip.onSec a && s.chip.flag (AX_SRCSTAT_PRI_OK a.val) && s.chip.flag (AX_SRCSTAT_OFS_OK a.val)), .state)] = .ok := by
      simp [judge, onSec, valid, learned]
    exact grants_of_ask (f := (·.back a)) rfl serving (s.chip.request_ok _ _ clear)
      ⟨Chip.axis_setAxis .., fun k hk => Chip.axis_setAxis_ne _ _ _ hk, rfl⟩
  case refused =>
    intro s p a serving bad
    exact refuses_of_request (f := (·.back a)) rfl serving rfl (by simp [judge, bad]) (by decide)
end

section
-- One proof after the other: a side goal that `Only` settles by `decide` waits for the kernel, on a thread of its own.
set_option Elab.async false
/-! SUPPORT. Swaps of acts, captures and the queues of the cue sheet; and the statements about cue actions and cue entries (R33 to
R56, R377). -/
namespace Sys2Proof.Machine

/-! ### Swaps of acts (R43 to R45) -/

/-- The timebases of `l` have swapped for the requests of tick `t`, and no other timebase has changed. -/
structure SwapsMade (l : List Tb) (t : Nat) (b c : Chip) : Prop where
  swapped : Swapped l t b c
  marked : ∀ n ∈ l, (c.tb n).swapTick = some t
  others : ∀ n, n ∉ l → c.tb n = b.tb n

section
variable (c : Chip) (n : Tb) (t : Nat)

theorem CUE_TB_CFG_ne {m n : Tb} (h : m ≠ n) : CUE_TB_CFG m.val ≠ CUE_TB_CFG n.val := fun e => by
  simp only [CUE_TB_CFG] at e
  exact h (Fin.ext (by omega))

theorem Chip.swapActs_run (new : (c.tb n).swapTick ≠ some t) : (c.swapActs t n).runAct n.val = 1 - c.runAct n.val := by
  have fit : 1 - c.runAct n.val < 2 ^ ((CUE_TB_CFG_RUN n.val).hi + 1 - (CUE_TB_CFG_RUN n.val).lo) := Nat.lt_of_le_of_lt (Nat.sub_le ..) Nat.one_lt_two
  rw [Chip.swapActs, if_neg (by simpa using new)]
  exact c.get_put_lt _ (Field.ok_of _ rfl) _ fit

theorem Chip.swapActs_other {m : Tb} (h : m ≠ n) : (c.swapActs t n).runAct m.val = c.runAct m.val ∧ (c.swapActs t n).tb m = c.tb m := by
  unfold Chip.swapActs
  split
  · exact ⟨rfl, rfl⟩
  · exact ⟨c.get_put_ne _ _ _ (CUE_TB_CFG_ne h), Chip.tb_setTb_ne (c.put _ _) n _ h⟩

theorem Chip.swapActs_marked : ((c.swapActs t n).tb n).swapTick = some t := by
  unfold Chip.swapActs
  split
  next h => simpa using h
  next => exact congrArg TbState.swapTick (Chip.tb_setTb (c.put _ _) n _)

theorem Chip.swapActs_cues : (c.swapActs t n).cues = { c.cues with disarmed := (c.swapActs t n).cues.disarmed } := by
  unfold Chip.swapActs
  split <;> rfl

theorem Chip.swapActs_frame : c.swapActs t n = { c with
    regs := (c.swapActs t n).regs, tbs := (c.swapActs t n).tbs, cues := (c.swapActs t n).cues } := by
  unfold Chip.swapActs
  split <;> rfl

theorem FieldsBut.swapActs : FieldsBut [CUE_TB_CFG_RUN n.val] c (c.swapActs t n) := by
  unfold Chip.swapActs
  split
  · exact FieldsBut.refl _ c
  · exact ((FieldsBut.refl _ c).put _ _ (Field.ok_of _ rfl) List.mem_cons_self).of_regs rfl

end

theorem SwapsMade.nil (t : Nat) (b : Chip) : SwapsMade [] t b b :=
  ⟨⟨fun _ h => absurd h List.not_mem_nil, fun _ _ => rfl, rfl, rfl, fun _ _ _ => rfl⟩, fun _ h => absurd h List.not_mem_nil, fun _ _ => rfl⟩

/-- One more swap: of a timebase that has not swapped for the tick, or of one that has, which has no effect. -/
theorem SwapsMade.swapActs {l : List Tb} {t : Nat} {b c : Chip} (h : SwapsMade l t b c) (n : Tb) : SwapsMade (l ++ [n]) t b (c.swapActs t n) := by
  obtain ⟨⟨run, kept, cues, frame, fields⟩, marked, others⟩ := h
  have mem {m : Tb} : m ∈ l ++ [n] ↔ m ∈ l ∨ m = n := by simp
  refine ⟨⟨fun m hm new => ?_, fun m hm => ?_, ?_, ?_, fun g ok apart => ?_⟩, fun m hm => ?_, fun m hm => ?_⟩
  · by_cases same : m = n
    · subst same
      by_cases done : m ∈ l
      · rw [Chip.swapActs, if_pos (by simp [marked m done])]
        exact run m done new
      · have tb := others m done
        rw [Chip.swapActs_run c m t (by rw [tb]; exact new), kept m (.inl done)]
    · rw [(Chip.swapActs_other c n t same).1]
      exact run m ((mem.mp hm).resolve_right same) new
  · by_cases same : m = n
    · subst same
      have old : (b.tb m).swapTick = some t := hm.resolve_left fun out => out (mem.mpr (.inr rfl))
      have set : (c.tb m).swapTick = some t := by
        by_cases done : m ∈ l
        · exact marked m done
        · rw [others m done, old]
      rw [Chip.swapActs, if_pos (by simp [set])]
      exact kept m (.inr old)
    · rw [(Chip.swapActs_other c n t same).1]
      exact kept m (hm.imp_left fun out hl => out (mem.mpr (.inl hl)))
  · rw [Chip.swapActs_cues, cues]
  · rw [Chip.swapActs_frame, frame]
  · rw [FieldsBut.swapActs c n t g ok fun f hf => by rw [List.mem_singleton.mp hf]; exact apart n (mem.mpr (.inr rfl))]
    exact fields g ok fun m hm => apart m (mem.mpr (.inl hm))
  · by_cases same : m = n
    · rw [same]
      exact c.swapActs_marked n t
    · rw [(Chip.swapActs_other c n t same).2]
      exact marked m ((mem.mp hm).resolve_right same)
  · obtain ⟨out, other⟩ := not_or.mp (mem.not.mp hm)
    rw [(Chip.swapActs_other c n t other).2, others m out]

/-- Swaps of the timebases of a list, one after the other, in the tick in which `b` stands. -/
theorem SwapsMade.each {l xs : List Tb} {t : Nat} {b c : Chip} {f : Chip → Tb → Chip} (h : SwapsMade l t b c)
    (hf : ∀ d : Chip, d.now = b.now → ∀ n, f d n = d.swapActs t n) : SwapsMade (l ++ xs) t b (c.each xs f) := by
  induction xs generalizing l c with
  | nil =>
    rw [List.append_nil]
    exact h
  | cons n xs ih =>
    have now : c.now = b.now := by
      rw [h.swapped.2.2.2.1]
    have step : c.each (n :: xs) f = (c.swapActs t n).each xs f := by
      rw [← hf c now n]
      rfl
    rw [step, List.append_cons]
    exact ih (h.swapActs n)

theorem Swapped.each (xs : List Tb) (t : Nat) (b : Chip) {f : Chip → Tb → Chip} (hf : ∀ d : Chip, d.now = b.now → ∀ n, f d n = d.swapActs t n) :
    Swapped xs t b (b.each xs f) := ((SwapsMade.nil t b).each hf).swapped

theorem Only.swapActs (c : Chip) (t : Nat) (n : Tb) : Only [.regs, .tbs, .cues] c (c.swapActs t n) :=
  .ite (.refl ..) (.of_mix rfl)

theorem Only.switchFire (c : Chip) (f : Fire) : Only [.regs, .tbs, .cues] c (c.switchFire f) := .each _ _ fun _ _ _ => .swapActs ..

theorem Only.settleSwaps (c : Chip) : Only [.regs, .tbs, .cues] c c.settleSwaps := by
  have swapped : Only [.regs, .tbs, .cues] c (c.each (c.cues.fires.filter fun f => cueAction f.cue == 12) Chip.switchFire) :=
    .each _ _ fun _ _ _ => .switchFire ..
  exact swapped.trans (.of_mix rfl)

/-! ### Firings -/

/-- The firing that waits alone for a row is of the row's entry. -/
theorem Chip.entry_of_firesOf {c : Chip} {k : EntryIx} {n : Nat} {f : Fire} (hf : c.firesOf k n = [f]) : f.entry = k.val := by
  unfold Chip.firesOf at hf
  split at hf
  next => cases hf
  next =>
    split at hf
    next => cases hf
    next g found =>
      have same : g = f := (List.append_eq_singleton_iff.mp hf).elim (fun h => List.singleton_inj.mp h.2) fun h => absurd h.2 (List.cons_ne_nil g [])
      have hg := List.find?_some found
      simp only [Bool.and_eq_true, beq_iff_eq] at hg
      exact same ▸ hg.1.1

/-- A capture, an interrupt and a swap can always take place. -/
theorem Chip.fireAble_own {c : Chip} {f : Fire} (h : cueAction f.cue = 8 ∨ cueAction f.cue = 10 ∨ cueAction f.cue = 12) : c.fireAble f = true := by
  unfold Chip.fireAble
  rcases h with h | h | h <;> rw [h] <;> rfl

theorem Chip.firesOf_dark {c : Chip} (dark : c.inDark = true) (k : EntryIx) (n : Nat) : c.firesOf k n = [] := if_pos dark

/-- A row of an action runs the firings that wait for it. -/
theorem fireRows {k : EntryIx} {n : Nat} {i : Instr}
    (row : (n, i) ∈ [(1, Instr.portSet k), (2, .portClr k), (3, .portPulse k), (4, .winClose k), (5, .hkStart k), (6, .gearSlot k),
      (7, .advSet k), (8, .capture k), (9, .emuIndex k), (10, .irq k), (11, .release k), (12, .actSwitch k)]) (s : State) :
    exec i s = s.run fun c => c.fireCue k n := by
  simp only [List.mem_cons, List.not_mem_nil, or_false, Prod.mk.injEq] at row
  rcases row with ⟨rfl, rfl⟩ | ⟨rfl, rfl⟩ | ⟨rfl, rfl⟩ | ⟨rfl, rfl⟩ | ⟨rfl, rfl⟩ | ⟨rfl, rfl⟩ | ⟨rfl, rfl⟩ | ⟨rfl, rfl⟩ | ⟨rfl, rfl⟩ |
    ⟨rfl, rfl⟩ | ⟨rfl, rfl⟩ | ⟨rfl, rfl⟩ <;> rfl

/-! ### Captures (R56) -/

section
variable (c : Chip) (n tick : Nat) (value : Word)

theorem Chip.flag_markIf (f : Field) (b : Bool) (ok : f.ok) : (c.markIf b f).flag f = (b || c.flag f) := by
  cases b
  · rfl
  · exact Chip.flag_one (c.get_mark f ok)

theorem Chip.get_markIf_beside {f g : Field} (b : Bool) (okf : f.ok) (okg : g.ok) (beside : f.beside g = true) : (c.markIf b g).get f = c.get f := by
  cases b
  · rfl
  · exact c.get_put_apart f g 1 okf okg (.inr (Field.beside_iff.mp beside))

/-- The tick and the value of a capture stand in its slot. -/
def Chip.captureTaken : Chip := (c.putTick (CUE_CAP_TICK n) tick).put (CUE_CAP_VALUE_VALUE n) value.toNat

/-- The slot's state is shown. -/
def Chip.captureShown (full : Bool) (tb entry : Nat) : Chip :=
  ((((c.mark (CUE_CAP_STAT_FULL n)).markIf full (CUE_CAP_STAT_OVF n)).put (CUE_CAP_STAT_TB n) tb).put (CUE_CAP_STAT_ENTRY n) entry)

theorem Chip.capture_eq (f : Fire) : c.capture f =
    (c.captureTaken (cueArg f.cue % 16) f.tick f.named).captureShown (cueArg f.cue % 16) (c.stillSet (CUE_CAP_STAT_FULL (cueArg f.cue % 16)))
      (cueArg f.cue / 256 % 32) f.entry := rfl

theorem Only.captureTaken : Only [.regs] c (c.captureTaken n tick value) := ((Only.refl _ c).then (.put64 ..)).then (.put ..)

theorem Only.captureShown (full : Bool) (tb entry : Nat) : Only [.regs, .fresh] c (c.captureShown n full tb entry) :=
  ((((Only.refl _ c).then (.mark ..)).then (.markIf ..)).then (.put ..)).then (.put ..)

theorem RegsBut.captureTaken : RegsBut [CUE_CAP_TICK n, CUE_CAP_TICKH n, CUE_CAP_VALUE n] c (c.captureTaken n tick value) := by
  refine RegsBut.put (RegsBut.setReg (RegsBut.setReg (RegsBut.refl _ c) _ _ List.mem_cons_self) _ _ ?_) (CUE_CAP_VALUE_VALUE n) _ ?_
  · simp only [CUE_CAP_TICK, CUE_CAP_TICKH, List.mem_cons]
    omega
  · simp [CUE_CAP_VALUE_VALUE]

theorem RegsBut.captureShown (full : Bool) (tb entry : Nat) : RegsBut [CUE_CAP_STAT n] c (c.captureShown n full tb entry) :=
  ((((RegsBut.refl _ c).mark (CUE_CAP_STAT_FULL n) List.mem_cons_self).markIf full (CUE_CAP_STAT_OVF n) List.mem_cons_self).put
    (CUE_CAP_STAT_TB n) tb List.mem_cons_self).put (CUE_CAP_STAT_ENTRY n) entry List.mem_cons_self

/-- The status register of a slot is neither its tick nor its value. -/
theorem CUE_CAP_STAT_not_mem : CUE_CAP_STAT n ∉ [CUE_CAP_TICK n, CUE_CAP_TICKH n, CUE_CAP_VALUE n] := by
  simp [CUE_CAP_STAT, CUE_CAP_TICK, CUE_CAP_TICKH, CUE_CAP_VALUE]

theorem Chip.captureTaken_tick : (c.captureTaken n tick value).get (CUE_CAP_TICK_TICK_LO n) = tick % 2 ^ 32 ∧
    (c.captureTaken n tick value).get (CUE_CAP_TICKH_TICK_HI n) = tick / 2 ^ 32 % 2 ^ 32 ∧
    (c.captureTaken n tick value).get (CUE_CAP_VALUE_VALUE n) = value.toNat := by
  have high : CUE_CAP_TICKH n = CUE_CAP_TICK n + 4 := by
    simp only [CUE_CAP_TICKH, CUE_CAP_TICK]
    omega
  have low : CUE_CAP_TICK n ≠ CUE_CAP_TICK n + 4 := by omega
  have full (f : Field) (w : Word) (lo : f.lo = 0) (hi : f.hi = 31) : f.read w = w.toNat := by
    rw [Field.read, lo, hi]
    exact (congrArg (· % 2 ^ 32) (Nat.shiftRight_zero)).trans (Nat.mod_eq_of_lt w.isLt)
  refine ⟨?_, ?_, ?_⟩
  · rw [Chip.captureTaken, Chip.get_put_ne _ _ _ _ (by simp [CUE_CAP_TICK_TICK_LO, CUE_CAP_TICK, CUE_CAP_VALUE_VALUE, CUE_CAP_VALUE]), Chip.get,
      full _ _ rfl rfl, Chip.putTick, Chip.put64]
    rw [show (CUE_CAP_TICK_TICK_LO n).addr = CUE_CAP_TICK n from rfl, Chip.reg_setReg_ne _ _ low, Chip.reg_setReg, BitVec.toNat_ofNat, wrapTo_natCast]
    omega
  · rw [Chip.captureTaken, Chip.get_put_ne _ _ _ _ (by simp [CUE_CAP_TICKH_TICK_HI, CUE_CAP_TICKH, CUE_CAP_VALUE_VALUE, CUE_CAP_VALUE]), Chip.get,
      full _ _ rfl rfl, Chip.putTick, Chip.put64]
    rw [show (CUE_CAP_TICKH_TICK_HI n).addr = CUE_CAP_TICK n + 4 from high, Chip.reg_setReg, BitVec.toNat_ofNat, wrapTo_natCast]
    omega
  · exact Chip.get_put_lt _ _ (Field.ok_of _ rfl) _ value.isLt

theorem Chip.captureShown_get (full : Bool) {tb entry : Nat} (htb : tb < 32) (hentry : entry < 16384) :
    (c.captureShown n full tb entry).get (CUE_CAP_STAT_FULL n) = 1 ∧
    (c.captureShown n full tb entry).flag (CUE_CAP_STAT_OVF n) = (full || c.flag (CUE_CAP_STAT_OVF n)) ∧
    (c.captureShown n full tb entry).get (CUE_CAP_STAT_TB n) = tb ∧ (c.captureShown n full tb entry).get (CUE_CAP_STAT_ENTRY n) = entry := by
  unfold Chip.captureShown
  refine ⟨?_, ?_, ?_, ?_⟩
  · rw [Chip.get_put_beside _ _ _ _ rfl, Chip.get_put_beside _ _ _ _ rfl, Chip.get_markIf_beside _ _ (Field.ok_of _ rfl) (Field.ok_of _ rfl) rfl]
    exact Chip.get_mark _ _ (Field.ok_of _ rfl)
  · refine (Chip.flag_of_get ((Chip.get_put_beside _ _ _ _ rfl).trans (Chip.get_put_beside _ _ _ _ rfl))).trans ?_
    rw [Chip.flag_markIf _ _ _ (Field.ok_of _ rfl)]
    exact congrArg (full || ·) (Chip.flag_of_get (c.get_put_apart _ _ 1 (Field.ok_of _ rfl) (Field.ok_of _ rfl) (Field.apart_of _ _ rfl)))
  · rw [Chip.get_put_beside _ _ _ _ rfl]
    exact Chip.get_put_lt _ _ (Field.ok_of _ rfl) _ htb
  · exact Chip.get_put_lt _ _ (Field.ok_of _ rfl) _ hentry

/-- The firing `f` has been captured in slot `n` (Table 2-3, R56). -/
structure Captured (n : Nat) (f : Fire) (b c : Chip) : Prop where
  low : c.get (CUE_CAP_TICK_TICK_LO n) = f.tick % 2 ^ 32
  high : c.get (CUE_CAP_TICKH_TICK_HI n) = f.tick / 2 ^ 32 % 2 ^ 32
  value : c.get (CUE_CAP_VALUE_VALUE n) = f.named.toNat
  full : c.get (CUE_CAP_STAT_FULL n) = 1
  ovf : c.flag (CUE_CAP_STAT_OVF n) = (b.stillSet (CUE_CAP_STAT_FULL n) || b.flag (CUE_CAP_STAT_OVF n))
  tb : c.get (CUE_CAP_STAT_TB n) = cueArg f.cue / 256 % 32
  entry : c.get (CUE_CAP_STAT_ENTRY n) = f.entry
  only : Only [.regs, .fresh] b c
  regs : RegsBut [CUE_CAP_TICK n, CUE_CAP_TICKH n, CUE_CAP_VALUE n, CUE_CAP_STAT n] b c

theorem Chip.captured (f : Fire) (hentry : f.entry < 16384) : Captured (cueArg f.cue % 16) f c (c.capture f) := by
  rw [Chip.capture_eq]
  generalize cueArg f.cue % 16 = n
  have taken := c.captureTaken_tick n f.tick f.named
  have before := RegsBut.captureTaken c n f.tick f.named
  have first := Only.captureTaken c n f.tick f.named
  generalize c.captureTaken n f.tick f.named = b at taken before first ⊢
  have shown := b.captureShown_get n (c.stillSet (CUE_CAP_STAT_FULL n)) (Nat.mod_lt (cueArg f.cue / 256) (by decide : 0 < 32)) hentry
  have after := RegsBut.captureShown b n (c.stillSet (CUE_CAP_STAT_FULL n)) (cueArg f.cue / 256 % 32) f.entry
  have second := Only.captureShown b n (c.stillSet (CUE_CAP_STAT_FULL n)) (cueArg f.cue / 256 % 32) f.entry
  have other {g : Field} (hg : g.addr ≠ CUE_CAP_STAT n) : _ = b.get g := after.get (g := g) fun h => hg (List.mem_singleton.mp h)
  refine ⟨(other ?_).trans taken.1, (other ?_).trans taken.2.1, (other ?_).trans taken.2.2, shown.1, ?_, shown.2.2.1, shown.2.2.2,
    (first.mono : Only [.regs, .fresh] _ _).trans second, fun x hx => ?_⟩
  · simp [CUE_CAP_TICK_TICK_LO, CUE_CAP_TICK, CUE_CAP_STAT]
  · simp [CUE_CAP_TICKH_TICK_HI, CUE_CAP_TICKH, CUE_CAP_STAT]
  · simp [CUE_CAP_VALUE_VALUE, CUE_CAP_VALUE, CUE_CAP_STAT]
  · rw [shown.2.1, Chip.flag_of_get (before.get (g := CUE_CAP_STAT_OVF n) (CUE_CAP_STAT_not_mem n))]
  · exact (after x fun h => hx (by simp only [List.mem_cons, List.not_mem_nil, or_false] at h ⊢; tauto)).trans
      (before x fun h => hx (by simp only [List.mem_cons, List.not_mem_nil, or_false] at h ⊢; tauto))

end

end Sys2Proof.Machine

open Sys2Proof.Machine

/-- Settles O6: a row by the firings that wait for it, and swaps by the list of the timebases that they name. -/
theorem cueActions : Obligations.CueActions := by
  refine ⟨⟨?rows, ?noops⟩, ⟨?capture, ?irq⟩, ?switch, ?write⟩
  case rows =>
    intro s k n i row
    refine ⟨fun dark => ?_, fun l waits => ?_⟩
    · exact idles_of_run (·.fireCue k n) (fireRows row s) (by rw [Chip.fireCue, Chip.firesOf_dark dark]; rfl)
    · rw [fireRows row s, State.run_eq, Chip.fireCue, waits]
      rfl
  case noops =>
    intro s k f n i row waits noOut
    have port : n = 1 ∨ n = 2 ∨ n = 3 := by
      simp only [List.mem_cons, List.not_mem_nil, or_false, Prod.mk.injEq] at row
      omega
    have mem : (n, i) ∈ [(1, Sys2Proof.Instr.portSet k), (2, .portClr k), (3, .portPulse k), (4, .winClose k), (5, .hkStart k), (6, .gearSlot k),
        (7, .advSet k), (8, .capture k), (9, .emuIndex k), (10, .irq k), (11, .release k), (12, .actSwitch k)] := by
      simp only [List.mem_cons, List.not_mem_nil, or_false] at row ⊢
      tauto
    refine completes_noop (fireRows mem s) waits fun action => ?_
    unfold Chip.fireAble
    rw [action]
    rcases port with rfl | rfl | rfl <;> exact noOut
  case capture =>
    intro s k f n waits slot
    subst slot
    have entry : f.entry = k.val := Chip.entry_of_firesOf waits
    have shown := (s.chip.endFire f).captured f (entry ▸ k.isLt)
    exact completes_of_fire rfl waits (fun action => Chip.fireAble_own (.inl action)) (fun action => by rw [Chip.fireEffect, action]; rfl)
      ⟨shown.low, shown.high, shown.value, shown.full, shown.ovf, shown.tb, shown.entry.trans entry, shown.only.same .cues (by decide),
        (((Only.endFire s.chip f).mono : Only [.regs, .fresh, .cues] _ _).then shown.only).eq, shown.regs⟩
  case irq =>
    intro s k f waits
    have entry : f.entry = k.val := Chip.entry_of_firesOf waits
    refine completes_of_fire rfl waits (fun action => Chip.fireAble_own (.inr (.inl action)))
      (fun action => by rw [Chip.fireEffect, action]) ?_
    simp only [Chip.irqFire, Chip.pushIrq, Chip.endFire_cues, entry]
    by_cases room : s.chip.cues.irqq.length < 32
    · rw [if_pos room, if_pos room, decide_eq_false (by omega), Bool.or_false]
      rfl
    · rw [if_neg room, if_neg room, decide_eq_true (by omega), Bool.or_true]
      rfl
  case switch =>
    intro s k f waits
    exact completes_of_fire rfl waits (fun action => Chip.fireAble_own (.inr (.inr action)))
      (fun action => by rw [Chip.fireEffect, action]; rfl)
      (Swapped.each _ f.since (s.chip.endFire f) fun _ _ _ => rfl)
  case write =>
    intro s p mask serving
    exact grants_of_ask (f := (·.cueSwitch mask)) rfl serving rfl
      (Swapped.each _ s.chip.now s.chip.settleSwaps fun d now n => by rw [now, (Only.settleSwaps s.chip).same .now (by decide)])

end

section
-- One proof after the other: a side goal that `Only` settles by `decide` waits for the kernel, on a thread of its own.
set_option Elab.async false
/-! SUPPORT. The writes, skips and queues of the cue sheet, and the statement about cue entries (R34, R42, R50, R55, R377). -/
namespace Sys2Proof.Machine

section
variable (c : Chip)

/-! ### The sheet and its queues -/

theorem Chip.cue_setCue (k : Nat) (w : BitVec 64) : (c.setCue k w).cue k = w := cellsGet_set_same zeros c.cues.sheet k w

theorem Chip.cue_setCue_ne {k j : Nat} (w : BitVec 64) (h : j ≠ k) : (c.setCue k w).cue j = c.cue j :=
  cellsGet_set_ne zeros c.cues.sheet w h

theorem Chip.cue_of_sheet {b c : Chip} (h : c.cues.sheet = b.cues.sheet) (k : Nat) : c.cue k = b.cue k := congrArg (cellsGet zeros · k) h

/-- The sheet stands when a swap is made. -/
theorem Chip.settleSwaps_sheet : c.settleSwaps.cues.sheet = c.cues.sheet := by
  have one (d : Chip) (t : Nat) (n : Tb) : (d.swapActs t n).cues.sheet = d.cues.sheet := by
    rw [d.swapActs_cues]
  have fired (d : Chip) (f : Fire) : (d.switchFire f).cues.sheet = d.cues.sheet :=
    Chip.each_keeps (P := fun e : Chip => e.cues.sheet = d.cues.sheet) _ rfl fun e he n _ => (one e f.since n).trans he
  exact Chip.each_keeps (P := fun e : Chip => e.cues.sheet = c.cues.sheet) _ rfl fun e he f _ => (fired e f).trans he

theorem Chip.pushSkip_eq (r : SkipRec) : c.pushSkip r = { c with cues := { c.cues with
    skipq := if c.cues.skipq.length < 16 then c.cues.skipq ++ [r] else c.cues.skipq
    skipLost := c.cues.skipLost || decide (16 ≤ c.cues.skipq.length) } } := by
  unfold Chip.pushSkip
  by_cases room : c.cues.skipq.length < 16
  · rw [if_pos room, if_pos room, decide_eq_false (by omega), Bool.or_false]
  · rw [if_neg room, if_neg room, decide_eq_true (by omega), Bool.or_true]

/-! ### A judged entry (R42) -/

theorem Reason.toNat_lt (r : Reason) : r.toNat < 16 := by cases r <;> decide

/-- The sheet takes an accepted entry. -/
def Chip.cueTaken (k : Nat) (w : BitVec 64) (r : Reason) : Chip :=
  if r = .ok then (c.setCue k w).putF CUE_STATUS_BEHIND (cueAction w != 0 && c.behind w) else c

/-- The outcome is shown. -/
def Chip.cueOutcome (p : Path) (k near : Nat) (r : Reason) : Chip :=
  ((((c.put CUE_STATUS_REASON r.toNat).putF CUE_STATUS_SRC (p == .can)).put CUE_STATUS_ENTRY k).putF CUE_NEIGHBOUR_VALID (r == .density)).put
    CUE_NEIGHBOUR_ENTRY near

theorem Chip.judgeCue_eq (p : Path) (k : Nat) (w : BitVec 64) : ∃ near, c.judgeCue p k w =
    ((c.cueTaken k w (judge (c.cueConds k w))).cueOutcome p k near (judge (c.cueConds k w)), judge (c.cueConds k w)) := ⟨_, rfl⟩

theorem Only.cueTaken (k : Nat) (w : BitVec 64) (r : Reason) : Only [.regs, .cues] c (c.cueTaken k w r) :=
  .ite ((Only.of_mix rfl : Only [.regs, .cues] c (c.setCue k w)).then (.putF ..)) (.refl ..)

theorem Only.cueOutcome (p : Path) (k near : Nat) (r : Reason) : Only [.regs] c (c.cueOutcome p k near r) :=
  (((((Only.refl _ c).then (.put ..)).then (.putF ..)).then (.put ..)).then (.putF ..)).then (.put ..)

theorem RegsBut.cueTaken (k : Nat) (w : BitVec 64) (r : Reason) : RegsBut [CUE_STATUS, CUE_NEIGHBOUR] c (c.cueTaken k w r) :=
  RegsBut.ite (((RegsBut.refl _ c).of_regs rfl).put CUE_STATUS_BEHIND _ List.mem_cons_self) (RegsBut.refl _ c)

theorem RegsBut.cueOutcome (p : Path) (k near : Nat) (r : Reason) : RegsBut [CUE_STATUS, CUE_NEIGHBOUR] c (c.cueOutcome p k near r) :=
  (((((RegsBut.refl _ c).put CUE_STATUS_REASON _ List.mem_cons_self).put CUE_STATUS_SRC _ List.mem_cons_self).put
    CUE_STATUS_ENTRY _ List.mem_cons_self).put CUE_NEIGHBOUR_VALID _ (by simp [CUE_NEIGHBOUR_VALID])).put CUE_NEIGHBOUR_ENTRY _
      (by simp [CUE_NEIGHBOUR_ENTRY])

theorem Chip.cueTaken_cue (k : Nat) (w : BitVec 64) (r : Reason) : (r = .ok → (c.cueTaken k w r).cue k = w) ∧
    (r ≠ .ok → (c.cueTaken k w r).cues = c.cues) ∧ ∀ j, j ≠ k → (c.cueTaken k w r).cue j = c.cue j := by
  unfold Chip.cueTaken
  split
  next ok => exact ⟨fun _ => c.cue_setCue k w, fun bad => absurd ok bad, fun j hj => c.cue_setCue_ne w hj⟩
  next bad => exact ⟨fun ok => absurd ok bad, fun _ => rfl, fun _ _ => rfl⟩

theorem Chip.cueOutcome_get (p : Path) {k : Nat} (near : Nat) (r : Reason) (hk : k < 16384) :
    (c.cueOutcome p k near r).get CUE_STATUS_REASON = r.toNat ∧ (c.cueOutcome p k near r).get CUE_STATUS_ENTRY = k ∧
    (c.cueOutcome p k near r).flag CUE_STATUS_SRC = (p == .can) ∧ (c.cueOutcome p k near r).flag CUE_NEIGHBOUR_VALID = (r == .density) := by
  have other (d : Chip) {f : Field} (hf : f.addr = CUE_STATUS) :
      ((d.putF CUE_NEIGHBOUR_VALID (r == .density)).put CUE_NEIGHBOUR_ENTRY near).get f = d.get f := by
    have far : f.addr ≠ CUE_NEIGHBOUR := by rw [hf]; decide
    rw [Chip.get_put_ne _ f CUE_NEIGHBOUR_ENTRY _ far, Chip.putF, Chip.get_put_ne _ f CUE_NEIGHBOUR_VALID _ far]
  have flag (d : Chip) (f : Field) (b : Bool) (one : 1 < 2 ^ (f.hi + 1 - f.lo)) (ok : f.ok) : (d.putF f b).flag f = b := by
    cases b
    · exact Chip.flag_zero (d.get_put_lt f ok 0 (by omega))
    · exact Chip.flag_one (d.get_put_lt f ok 1 one)
  unfold Chip.cueOutcome
  refine ⟨(other _ rfl).trans ?_, (other _ rfl).trans ?_, (Chip.flag_of_get (other _ rfl)).trans ?_, ?_⟩
  · rw [Chip.get_put_beside _ _ _ _ rfl, Chip.putF, Chip.get_put_beside _ _ _ _ rfl]
    exact Chip.get_put_lt _ _ (Field.ok_of _ rfl) _ r.toNat_lt
  · exact Chip.get_put_lt _ _ (Field.ok_of _ rfl) _ hk
  · exact (Chip.flag_of_get (Chip.get_put_beside _ _ _ _ rfl)).trans (flag _ CUE_STATUS_SRC _ (by decide) (Field.ok_of _ rfl))
  · exact (Chip.flag_of_get (Chip.get_put_beside _ _ _ _ rfl)).trans (flag _ CUE_NEIGHBOUR_VALID _ (by decide) (Field.ok_of _ rfl))

end

/-! ### Packed records (R55) -/

/-- A field that is packed reads its value at its width. -/
theorem Field.read_packFields_mod {f : Field} {v : Nat} {l : List (Field × Nat)} (h : packOk l = true) (hm : (f, v) ∈ l) :
    f.read (packFields l) = v % 2 ^ (f.hi + 1 - f.lo) := by
  suffices ∀ w, f.read (l.foldl (fun w x => x.1.write w x.2) w) = v % 2 ^ (f.hi + 1 - f.lo) from this 0
  induction l with
  | nil => exact absurd hm List.not_mem_nil
  | cons y l ih =>
    intro w
    obtain ⟨ok, beside, rest⟩ := packOk_cons h
    rcases List.mem_cons.mp hm with rfl | hm
    · exact (Field.read_foldl_write ok rest beside _).trans (f.read_write ok w v)
    · exact ih rest hm _

theorem Chip.popSkip_cons {c : Chip} {r : SkipRec} {l : List SkipRec} (queue : c.cues.skipq = r :: l) : c.popSkip =
    ({ c.put CUE_SKIPT_TICK r.tick with cues := { c.cues with skipq := l, skipLost := false } },
      packFields [(CUE_SKIPQ_VALID, 1), (CUE_SKIPQ_OVF, c.cues.skipLost.toNat), (CUE_SKIPQ_TB, r.tb), (CUE_SKIPQ_ENTRY, r.entry)]) := by
  rw [Chip.popSkip, queue]

theorem Chip.popIrq_cons {c : Chip} {r : IrqRec} {l : List IrqRec} (queue : c.cues.irqq = r :: l) : c.popIrq =
    ({ c with cues := { c.cues with irqq := l, irqLost := false } },
      packFields [(CUE_IRQQ_VALID, 1), (CUE_IRQQ_OVF, c.cues.irqLost.toNat), (CUE_IRQQ_ENTRY, r.entry), (CUE_IRQQ_TAG, r.tag)]) := by
  rw [Chip.popIrq, queue]

end Sys2Proof.Machine

open Sys2Proof.Machine

/-- Settles O7: an entry by its judgement after the swaps, a skip by its three steps, and each queue by its oldest record. -/
theorem cueEntries : Obligations.CueEntries := by
  refine ⟨⟨?lower, ?submit⟩, ⟨?young, ?skips⟩, ?skipq, ?irqq, ?reads, ?lost⟩
  case lower =>
    intro s p k v serving
    refine grants_of_ask (f := (·.cueLower p v)) rfl serving rfl ?_
    cases p
    · refine ⟨rfl, rfl, fun q hq => ?_⟩
      cases q
      · exact absurd rfl hq
      · rfl
    · refine ⟨rfl, rfl, fun q hq => ?_⟩
      cases q
      · rfl
      · exact absurd rfl hq
  case submit =>
    intro s p k v r b serving settled judged
    obtain ⟨near, written⟩ := b.judgeCue_eq p k.val (v ++ s.chip.cueHold p)
    rw [judged] at written
    have stored := b.cueTaken_cue k.val (v ++ s.chip.cueHold p) r
    have shown := (b.cueTaken k.val (v ++ s.chip.cueHold p) r).cueOutcome_get p near r k.isLt
    have regs := (RegsBut.cueTaken b k.val (v ++ s.chip.cueHold p) r).trans (RegsBut.cueOutcome _ p k.val near r)
    have outcome := Only.cueOutcome (b.cueTaken k.val (v ++ s.chip.cueHold p) r) p k.val near r
    have only : Only [.regs, .cues] b _ := (Only.cueTaken b k.val (v ++ s.chip.cueHold p) r).then outcome
    have cues := outcome.same .cues (by decide)
    have sheet (j : Nat) := Chip.cue_of_sheet (congrArg CueState.sheet cues) j
    refine ⟨_, ?_, fun ok => (sheet _).trans (stored.1 ok), fun bad => Eq.trans cues (stored.2.1 bad), fun j hj => (sheet j).trans ((stored.2.2 j hj).trans ?_),
      shown.1, shown.2.1, shown.2.2.1, shown.2.2.2, only.eq, regs⟩
    · have row : exec (.cueEntrySubmit p k v) s = s.ask p fun c => c.cueWrite p k.val (v ++ c.cueHold p) := rfl
      rw [row, State.ask, State.run_eq, Chip.ask_of_serves serving, Chip.cueWrite, settled, written]
    · rw [← settled]
      exact Chip.cue_of_sheet s.chip.settleSwaps_sheet j
  case young =>
    intro s k young
    have none : s.chip.cues.fires.find? (fun f => f.entry == k.val && decide (f.since + 2 ≤ s.chip.now)) = none := by
      refine List.find?_eq_none.mpr fun f hf late => ?_
      simp only [Bool.and_eq_true, beq_iff_eq, decide_eq_true_eq] at late
      have := young f hf late.1
      omega
    refine idles_of_run (·.cueSkip k false) rfl ?_
    rw [Chip.cueSkip, none]
    rfl
  case skips =>
    intro s k f late
    have run : s.chip.cueSkip k false = (((s.chip.endFire f).bump (CUE_TB_SKIP_SKIPS f.tb) 1).pushSkip ⟨k.val, f.tb, f.tick⟩).raise 0xEF := by
      rw [Chip.cueSkip, late]
      rfl
    rw [Chip.pushSkip_eq] at run
    refine completes_of_run (·.cueSkip k false) rfl run ⟨?_, rfl, rfl, rfl, ?_⟩
    · exact Chip.get_bump (s.chip.endFire f) _ (Field.ok_of _ rfl) 1
    · exact (FieldsBut.bump ((FieldsBut.refl _ s.chip).of_regs (s.chip.endFire_regs f)) _ 1 (Field.ok_of _ rfl) List.mem_cons_self).of_regs rfl
  case skipq =>
    intro s p r l serving queue
    refine ⟨_, yields_of_askRead (f := Chip.popSkip) rfl serving (Chip.popSkip_cons queue) ⟨rfl, ?_, ?_, ?_, ?_, ?_, ?_⟩⟩
    · exact Chip.get_put s.chip CUE_SKIPT_TICK (Field.ok_of _ rfl) r.tick
    · exact ((RegsBut.refl _ s.chip).put CUE_SKIPT_TICK _ List.mem_cons_self).of_regs rfl
    · exact Field.read_packFields rfl List.mem_cons_self (by decide)
    · exact Field.read_packFields rfl (by simp) s.chip.cues.skipLost.toNat_lt
    · exact Field.read_packFields_mod rfl (by simp)
    · exact Field.read_packFields_mod rfl (by simp)
  case irqq =>
    intro s p r l serving queue
    refine ⟨_, yields_of_askRead (f := Chip.popIrq) rfl serving (Chip.popIrq_cons queue) ⟨rfl, ?_, ?_, ?_, ?_⟩⟩
    · exact Field.read_packFields rfl List.mem_cons_self (by decide)
    · exact Field.read_packFields rfl (by simp) s.chip.cues.irqLost.toNat_lt
    · exact Field.read_packFields_mod rfl (by simp)
    · exact Field.read_packFields_mod rfl (by simp)
  case reads =>
    intro s p k upper serving
    exact yields_of_askRead (f := (·.cueRead k.val upper false)) rfl serving rfl rfl
  case lost =>
    intro s p k upper serving
    have read : s.chip.cueRead k.val upper true = (((s.chip.setCue k.val 0).pushSkip ⟨k.val, 0x1F, s.chip.wall⟩).raise 0xF0, 0) := rfl
    rw [Chip.pushSkip_eq] at read
    exact yields_of_askRead (f := (·.cueRead k.val upper true)) rfl serving read
      ⟨s.chip.cue_setCue k.val 0, fun j hj => s.chip.cue_setCue_ne 0 hj, rfl, rfl, rfl, rfl, rfl⟩

end

section
-- One proof after the other: a side goal that `Only` settles by `decide` waits for the kernel, on a thread of its own.
set_option Elab.async false
/-! SUPPORT. The range link: the subscribed timebases, the link that goes down, and a frame that is received (R355 to R361). -/
namespace Sys2Proof.Machine

section
variable (c : Chip)

/-! ### The subscribed timebases (R359) -/

theorem Chip.subscribed_congr {b c : Chip} (h : ∀ m, m < 4 → c.reg (RNG_SUB m) = b.reg (RNG_SUB m)) : c.subscribed = b.subscribed := by
  have enabled (m : Nat) (hm : m ∈ List.range 4) : c.flag (RNG_SUB_EN m) = b.flag (RNG_SUB_EN m) :=
    congrArg (fun w => (RNG_SUB_EN m).read w != 0) (h m (List.mem_range.mp hm))
  unfold Chip.subscribed
  rw [List.filter_congr enabled]
  refine List.map_congr_left fun m hm => ?_
  have range := List.mem_range.mp (List.mem_of_mem_filter hm)
  exact congrArg (fun w => ((RNG_SUB_RM m).read w, tbOf (16 + m))) (h m range)

/-- No register of the link's state is one of its subscriptions. -/
theorem RNG_SUB_low {m : Nat} (h : m < 4) : RNG_SUB m < RNG_CMD ∧ RNG_CFG < RNG_SUB m := by
  simp only [RNG_SUB, RNG_CMD, RNG_CFG]
  omega

theorem RegsBut.subscribed {b c : Chip} {l : List Nat} (h : RegsBut l b c) (hl : ∀ x ∈ l, RNG_CMD ≤ x) : c.subscribed = b.subscribed :=
  Chip.subscribed_congr fun m hm => h _ fun hx => by
    have := hl _ hx
    have := (RNG_SUB_low hm).1
    omega

/-- Two subscriptions of one timebase are one. -/
theorem subscribed_inj {x y : Nat × Tb} (hx : x ∈ c.subscribed) (hy : y ∈ c.subscribed) (same : x.2 = y.2) : x = y := by
  simp only [Chip.subscribed, List.mem_map, List.mem_filter, List.mem_range] at hx hy
  obtain ⟨m, ⟨hm, -⟩, rfl⟩ := hx
  obtain ⟨n, ⟨hn, -⟩, rfl⟩ := hy
  have index {i : Nat} (hi : i < 4) : (tbOf (16 + i)).val = 16 + i := by
    rw [tbOf, dif_pos (by omega)]
  have := congrArg Fin.val same
  simp only [index hm, index hn] at this
  obtain rfl : m = n := by omega
  rfl

theorem Only.rngLose : Only [.tbs] c c.rngLose := .each _ _ fun _ _ _ => .loseTb ..

theorem Chip.loseTb_tb (n : Tb) : (c.loseTb n).tb n = { c.tb n with lost := true } := Chip.tb_setTb ..

theorem Chip.loseTb_tb_ne {n m : Tb} (h : m ≠ n) : (c.loseTb n).tb m = c.tb m := Chip.tb_setTb_ne _ _ _ h

/-- Every subscribed timebase is lost, and no other changes. -/
theorem Chip.rngLose_tb : (∀ x ∈ c.subscribed, (c.rngLose.tb x.2).lost = true) ∧
    ∀ n, (∀ x ∈ c.subscribed, x.2 ≠ n) → c.rngLose.tb n = c.tb n := by
  constructor
  · intro x hx
    refine Chip.each_brings (P := fun d : Chip => (d.tb x.2).lost = true) c _ hx (fun d => congrArg TbState.lost (d.loseTb_tb x.2)) fun d hd y _ => ?_
    by_cases same : x.2 = y.2
    · rw [same]
      exact congrArg TbState.lost (d.loseTb_tb y.2)
    · rw [Chip.loseTb_tb_ne _ same]
      exact hd
  · intro n other
    refine Chip.each_keeps (P := fun d : Chip => d.tb n = c.tb n) _ rfl fun d hd y hy => ?_
    exact (Chip.loseTb_tb_ne _ (other y hy).symm).trans hd

/-! ### The link goes down (R356, R361) -/

/-- The link's state shows it idle for `cause`. -/
def Chip.idleShown (cause : Nat) : Chip := (c.put RNG_STAT_STATE 3).put RNG_STAT_CAUSE cause

theorem FieldsBut.idleShown (cause : Nat) : FieldsBut [RNG_STAT_STATE, RNG_STAT_CAUSE] c (c.idleShown cause) :=
  ((FieldsBut.refl _ c).put RNG_STAT_STATE 3 (Field.ok_of _ rfl) List.mem_cons_self).put RNG_STAT_CAUSE cause (Field.ok_of _ rfl) (by simp)

theorem RegsBut.idleShown (cause : Nat) : RegsBut [RNG_STAT] c (c.idleShown cause) :=
  ((RegsBut.refl _ c).put RNG_STAT_STATE 3 List.mem_cons_self).put RNG_STAT_CAUSE cause List.mem_cons_self

theorem Chip.idleShown_get {cause : Nat} (h : cause < 8) : (c.idleShown cause).get RNG_STAT_STATE = 3 ∧ (c.idleShown cause).get RNG_STAT_CAUSE = cause := by
  refine ⟨(Chip.get_put_beside _ _ _ _ rfl).trans (Chip.get_put_fit _ _ 3 rfl), ?_⟩
  exact Chip.get_put_lt _ RNG_STAT_CAUSE (Field.ok_of _ rfl) cause h

/-- The link itself is idle. -/
def Chip.idleRested : Chip := { c with rng := { c.rng with sev := Vector.replicate 4 false, crcRun := 0, skewRun := 0 } }

theorem Chip.rngIdle_eq (cause : Nat) : c.rngIdle cause = (c.idleShown cause).rngLose.idleRested := rfl

theorem Only.idleRested : Only [.rng] c c.idleRested := .of_mix rfl

theorem Only.idleShown (cause : Nat) : Only [.regs] c (c.idleShown cause) := ((Only.refl _ c).then (.put ..)).then (.put ..)

theorem Only.idleTail (cause : Nat) : Only [.tbs, .rng] (c.idleShown cause) (c.rngIdle cause) :=
  ((Only.rngLose (c.idleShown cause)).mono : Only [.tbs, .rng] _ _).then (.idleRested ..)

theorem Only.rngIdle (cause : Nat) : Only [.regs, .tbs, .rng] c (c.rngIdle cause) :=
  ((Only.idleShown c cause).mono : Only [.regs, .tbs, .rng] _ _).then (.idleTail ..)

theorem FieldsBut.rngIdle (cause : Nat) : FieldsBut [RNG_STAT_STATE, RNG_STAT_CAUSE] c (c.rngIdle cause) :=
  (FieldsBut.idleShown c cause).trans ((Only.idleTail c cause).fieldsBut _)

theorem Chip.rngIdle_rng (cause : Nat) : (c.rngIdle cause).rng = { c.rng with sev := Vector.replicate 4 false, crcRun := 0, skewRun := 0 } := by
  have kept : (c.idleShown cause).rngLose.rng = c.rng := (Only.rngLose (c.idleShown cause)).same .rng (by decide)
  rw [Chip.rngIdle_eq, Chip.idleRested, kept]

/-- What comes before in the link alone, or shown of it, does not matter to the link that goes down. -/
theorem RangeIdle.rngIdle {b c : Chip} {cause : Nat} (h : cause < 8) (before : Only [.regs, .rng, .faults] b c) (subs : c.subscribed = b.subscribed) :
    RangeIdle cause b (c.rngIdle cause) := by
  have shown := c.idleShown_get h
  have tail := Only.idleTail c cause
  have same : (c.idleShown cause).subscribed = b.subscribed :=
    ((RegsBut.idleShown c cause).subscribed (fun x hx => List.mem_singleton.mp hx ▸ by decide)).trans subs
  have lost := (c.idleShown cause).rngLose_tb
  rw [same] at lost
  have rng := c.rngIdle_rng cause
  refine ⟨(tail.get _).trans shown.1, (tail.get _).trans shown.2, lost.1, fun n other => (lost.2 n other).trans (before.tb n), fun i => ?_, ?_, ?_⟩
  · rw [rng]
    exact Vector.getElem_replicate ..
  · rw [rng]
  · exact ((before.mono : Only [.regs, .tbs, .rng, .faults] _ _).then (.rngIdle ..)).eq

theorem RangeIdle.of_down {b c : Chip} {cause : Nat} (h : RangeIdle cause b c) (src : Nat) :
    RangeIdle cause b { c.raise src with rng := { c.rng with downLive := true } } := by
  obtain ⟨state, shown, lost, others, sev, run, frame⟩ := h
  refine ⟨state, shown, lost, others, sev, run, ?_⟩
  rw [frame]
  rfl

theorem Chip.rngDown_eq {c : Chip} (up : c.get RNG_STAT_STATE = 2) (cause : Nat) : c.rngDown cause =
    { (c.rngIdle cause).raise 0xF9 with rng := { (c.rngIdle cause).rng with downLive := true } } := by
  rw [Chip.rngDown, if_neg (by simp [up])]
  rfl

theorem Chip.rngUp_state {c : Chip} (up : c.rngUp = true) : c.get RNG_STAT_STATE = 2 := by
  simp only [Chip.rngUp, Bool.and_eq_true, beq_iff_eq] at up
  exact up.2

theorem Chip.rngTrains_state {c : Chip} (trains : c.rngTrains = true) : c.get RNG_STAT_STATE = 1 := by
  simp only [Chip.rngTrains, Bool.and_eq_true, beq_iff_eq] at trains
  exact trains.2

theorem Chip.not_up_of_trains {c : Chip} (trains : c.rngTrains = true) : c.rngUp = false := by
  rw [Chip.rngUp, Chip.rngTrains_state trains]
  simp

theorem Chip.not_trains_of_up {c : Chip} (up : c.rngUp = true) : c.rngTrains = false := by
  rw [Chip.rngTrains, Chip.rngUp_state up]
  simp

/-! ### A frame is received (R355, R358, R360) -/

/-- What is forwarded of a good frame. -/
def Chip.rngForwarded (f : RngFrame) : Option RngFrame := (c.forward f).rng.forwarded

/-- The chip as the effect of a good frame finds it. -/
def Chip.rngTaken (f : RngFrame) : Chip := { c with rng := { c.rng with
  forwarded := c.rngForwarded f, crcRun := 0
  sev := if c.rngUp && f.src != c.rngAddr then setAt c.rng.sev f.src.toNat f.sev else c.rng.sev } }

theorem Chip.forward_eq (f : RngFrame) : c.forward f = { c with rng := { c.rng with forwarded := c.rngForwarded f } } := by
  unfold Chip.rngForwarded Chip.forward
  split <;> rfl

theorem Chip.rngRx_good {c : Chip} {type : BitVec 3} {f : RngFrame} (eff : Chip → Chip) (live : c.rngTrains = true ∨ c.rngUp = true)
    (ok : rngOk f = true) (same : f.type = type) : c.rngRx type f eff = eff (c.rngTaken f) := by
  have on : (c.rngTrains || c.rngUp) = true := by simpa using live
  rw [Chip.rngRx, on, ok, same, Chip.forward_eq]
  simp only [Bool.not_true, bne_self_eq_false, Bool.false_eq_true, if_false]
  rfl

theorem Only.rngTaken (f : RngFrame) : Only [.rng] c (c.rngTaken f) := .of_mix rfl

theorem setAt_getD (v : Vector Bool 4) (i : Nat) (x : Bool) (h : i < 4) : (setAt v i x).toList.getD i false = x := by
  rw [setAt, dif_pos h, List.getD_eq_getElem _ _ (by simpa using h)]
  simp

theorem RangeHeard.rngTaken (f : RngFrame) : RangeHeard f c (c.rngTaken f) := by
  refine ⟨rfl, fun own => ?_, fun other => ⟨?_, fun up => ?_⟩⟩
  · show c.rngForwarded f = _
    rw [Chip.rngForwarded, Chip.forward, if_pos own]
  · show ∃ g, c.rngForwarded f = some g ∧ _
    rw [Chip.rngForwarded, Chip.forward, if_neg other]
    refine ⟨_, rfl, ?_⟩
    split <;> exact ⟨rfl, rfl, rfl⟩
  · show (if c.rngUp && f.src != c.rngAddr then setAt c.rng.sev f.src.toNat f.sev else c.rng.sev).toList.getD _ _ = _
    rw [if_pos (by simp [up, other])]
    exact setAt_getD _ _ _ f.src.isLt

/-- What a frame's effect keeps of the reception, the statement sees. -/
theorem RangeHeard.of_rng {b c d : Chip} {f : RngFrame} (h : RangeHeard f b c) (run : d.rng.crcRun = c.rng.crcRun)
    (forwarded : d.rng.forwarded = c.rng.forwarded) (sev : d.rng.sev = c.rng.sev) : RangeHeard f b d := by
  rw [RangeHeard, run, forwarded, sev]
  exact h

end
end Sys2Proof.Machine
end

section
-- One proof after the other: a side goal that `Only` settles by `decide` waits for the kernel, on a thread of its own.
set_option Elab.async false
/-! SUPPORT. The HELLOs of a training ring and its keeper, and the statement about the training of the range link (R356, R357). -/
namespace Sys2Proof.Machine

section
variable (c : Chip) (f : RngFrame)

/-! ### HELLOs -/

theorem Only.hear : Only [.rng] c (c.hear f) := .ite (.of_mix rfl) (.of_mix rfl)

/-- The chip that has joined the HELLO to those heard. -/
def Chip.helloJoined : Chip := { c with rng := { (c.rngTaken f).rng with
  heard := (c.hear f).rng.heard, back := (c.hear f).rng.back, duplicate := (c.hear f).rng.duplicate } }

theorem Chip.hear_taken : (c.rngTaken f).hear f = c.helloJoined f := by
  unfold Chip.helloJoined Chip.hear
  by_cases own : f.src = c.rngAddr
  · rw [if_pos own]
    exact if_pos own
  · rw [if_neg own]
    exact if_neg own

theorem Only.helloJoined : Only [.rng] c (c.helloJoined f) := .of_mix rfl

theorem RangeHeard.helloJoined : RangeHeard f c (c.helloJoined f) := (RangeHeard.rngTaken c f).of_rng rfl rfl rfl

theorem Chip.keeper_congr {b c : Chip} (heard : c.rng.heard = b.rng.heard) (regs : c.regs = b.regs) : c.keeper = b.keeper := by
  unfold Chip.keeper Chip.rngAddr
  rw [heard, Chip.get_of_regs regs RNG_CFG_ADDR, Chip.flag_of_get (Chip.get_of_regs regs RNG_CFG_KEEPER_OK)]

theorem Chip.unpublished_congr {b c : Chip} (heard : c.rng.heard = b.rng.heard) (regs : c.regs = b.regs) : c.unpublished = b.unpublished := by
  have subs : c.subscribed = b.subscribed := Chip.subscribed_congr fun m _ => congrArg (cellsGet regReset · (RNG_SUB m)) regs
  unfold Chip.unpublished Chip.published Chip.rngAddr
  rw [heard, subs, Chip.get_of_regs regs RNG_CFG_ADDR, Chip.flag_of_get (Chip.get_of_regs regs RNG_PUB_EN0),
    Chip.flag_of_get (Chip.get_of_regs regs RNG_PUB_EN1)]

theorem Chip.helloJoined_keeper : (c.helloJoined f).keeper = (c.hear f).keeper :=
  Chip.keeper_congr rfl ((Only.hear c f).same .regs (by decide)).symm

theorem Chip.helloJoined_unpublished : (c.helloJoined f).unpublished = (c.hear f).unpublished :=
  Chip.unpublished_congr rfl ((Only.hear c f).same .regs (by decide)).symm

/-- What a HELLO does in training, by what has been heard with it. -/
theorem Chip.hello_taken {c : Chip} (trains : c.rngTrains = true) : (c.rngTaken f).hello f =
    if (c.hear f).rng.duplicate then (c.helloJoined f).rngIdle 1
    else if c.get RNG_CFG_NPKG < (c.hear f).rng.heard.length then (c.helloJoined f).rngIdle 2
    else if (c.hear f).rng.back == some (c.get RNG_CFG_NPKG + 1) && (c.hear f).rng.heard.length == c.get RNG_CFG_NPKG then
      (c.helloJoined f).closeRing
    else c.helloJoined f := by
  have still : (c.rngTaken f).rngTrains = true := trains
  rw [Chip.hello, still, Chip.hear_taken]
  rfl

/-! ### The ring closes -/

section
variable (a : BitVec 2) (hops : Nat)

/-- The keeper of the ring is shown. -/
def Chip.keeperShown : Chip := ((c.put RNG_STAT_KADDR a.toNat).put RNG_STAT_HOPS hops).putF RNG_STAT_NOPUB c.unpublished

/-- The keeper has measured the ring delay. -/
def Chip.keeperMeasured : Chip := ((c.put RNG_STAT_KEEPER 1).put RNG_STAT_RT c.freeVal.toNat).useFree

/-- The wall tick at which the keeper lets cycle 0 begin. -/
def Chip.keeperTick : Nat := c.wall + (c.freeVal.truncate 32 : BitVec 32).toNat

/-- The keeper sends START, and its cycle begins. -/
def Chip.keeperStarts : Chip :=
  ((c.useFree.put RNG_STAT_STATE 2).rngSend (c.rngFrame 2 0 0 (BitVec.ofNat 64 c.keeperTick))).rngBegin c.keeperTick

theorem Chip.closeRing_none {c : Chip} (h : c.keeper = none) : c.closeRing = c.rngIdle 3 := by
  rw [Chip.closeRing, h]

theorem Chip.closeRing_eq (h : c.keeper = some (a, hops)) : c.closeRing =
    if a != (c.keeperShown a hops).rngAddr then c.keeperShown a hops else (c.keeperShown a hops).keeperMeasured.keeperStarts := by
  rw [Chip.closeRing, h]
  rfl

theorem Only.keeperShown : Only [.regs] c (c.keeperShown a hops) := (((Only.refl _ c).then (.put ..)).then (.put ..)).then (.putF ..)

theorem RegsBut.keeperShown : RegsBut [RNG_STAT] c (c.keeperShown a hops) :=
  (((RegsBut.refl _ c).put RNG_STAT_KADDR _ List.mem_cons_self).put RNG_STAT_HOPS _ List.mem_cons_self).put RNG_STAT_NOPUB _ List.mem_cons_self

theorem Only.keeperMeasured : Only [.regs, .free] c c.keeperMeasured := (((Only.refl _ c).then (.put ..)).then (.put ..)).then (.useFree ..)

theorem RegsBut.keeperMeasured : RegsBut [RNG_STAT] c c.keeperMeasured :=
  (((RegsBut.refl _ c).put RNG_STAT_KEEPER 1 List.mem_cons_self).put RNG_STAT_RT _ List.mem_cons_self).of_regs rfl

theorem Only.keeperStarts : Only [.regs, .free, .rng] c c.keeperStarts := .of_mix rfl

theorem Chip.keeperStarts_regs : c.keeperStarts.regs = (c.put RNG_STAT_STATE 2).regs := rfl

theorem RegsBut.keeperStarts : RegsBut [RNG_STAT] c c.keeperStarts :=
  ((RegsBut.refl _ c).put RNG_STAT_STATE 2 List.mem_cons_self).of_regs rfl

theorem Chip.keeperShown_kaddr : (c.keeperShown a hops).get RNG_STAT_KADDR = a.toNat := by
  rw [Chip.keeperShown, Chip.putF, Chip.get_put_beside _ _ _ _ rfl, Chip.get_put_beside _ _ _ _ rfl]
  exact Chip.get_put_lt _ RNG_STAT_KADDR (Field.ok_of _ rfl) _ a.isLt

theorem Chip.keeperShown_state : (c.keeperShown a hops).get RNG_STAT_STATE = c.get RNG_STAT_STATE := by
  rw [Chip.keeperShown, Chip.putF, Chip.get_put_beside _ _ _ _ rfl, Chip.get_put_beside _ _ _ _ rfl, Chip.get_put_beside _ _ _ _ rfl]

theorem Chip.keeperShown_nopub : (c.keeperShown a hops).flag RNG_STAT_NOPUB = c.unpublished := by
  unfold Chip.keeperShown Chip.putF
  cases c.unpublished
  · exact Chip.flag_zero (Chip.get_put_fit _ _ 0 rfl)
  · exact Chip.flag_one (Chip.get_put_fit _ _ 1 rfl)

/-- The keeper's own state does not show in what it measures and begins, but for STATE, KEEPER and RT. -/
theorem Chip.keeperStarts_get {g : Field} (beside : g.beside RNG_STAT_STATE = true ∧ g.beside RNG_STAT_RT = true ∧ g.beside RNG_STAT_KEEPER = true)
    (ok : g.ok) : c.keeperMeasured.keeperStarts.get g = c.get g := by
  rw [Chip.get_of_regs (Chip.keeperStarts_regs _), Chip.get_put_apart _ _ _ _ ok (Field.ok_of _ rfl) (.inr (Field.beside_iff.mp beside.1)),
    Chip.keeperMeasured, Chip.useFree_get, Chip.get_put_apart _ _ _ _ ok (Field.ok_of _ rfl) (.inr (Field.beside_iff.mp beside.2.1)),
    Chip.get_put_apart _ _ _ _ ok (Field.ok_of _ rfl) (.inr (Field.beside_iff.mp beside.2.2))]

theorem Chip.keeperStarts_state : c.keeperMeasured.keeperStarts.get RNG_STAT_STATE = 2 :=
  (Chip.get_of_regs (Chip.keeperStarts_regs _) _).trans (Chip.get_put_fit _ _ 2 rfl)

theorem Chip.keeperStarts_keeper : c.keeperMeasured.keeperStarts.flag RNG_STAT_KEEPER = true := by
  refine Chip.flag_one ?_
  rw [Chip.get_of_regs (Chip.keeperStarts_regs _), Chip.get_put_beside _ _ _ _ rfl, Chip.keeperMeasured, Chip.useFree_get,
    Chip.get_put_beside _ _ _ _ rfl]
  exact Chip.get_put_fit _ _ 1 rfl

/-- A change of the link's state alone leaves whether the link is active, and this package's address. -/
theorem RegsBut.rngOn {b c : Chip} {l : List Nat} (h : RegsBut l b c) (hl : RNG_CFG ∉ l ∧ SYS_STATUS ∉ l := by decide) : c.rngOn = b.rngOn := by
  have active : c.flag RNG_CFG_EN = b.flag RNG_CFG_EN := Chip.flag_of_get (h.get (g := RNG_CFG_EN) hl.1)
  have ready : c.cfgOk = b.cfgOk := Chip.flag_of_get (h.get (g := SYS_STATUS_CFG_OK) hl.2)
  have dark : c.inDark = b.inDark := congrArg (· == 0) (h.get (g := SYS_STATUS_PSTATE) hl.2)
  rw [Chip.rngOn, active, ready, dark]
  rfl

theorem Chip.rngOn_of_trains {c : Chip} (trains : c.rngTrains = true) : c.rngOn = true := by
  rw [Chip.rngTrains, Bool.and_eq_true] at trains
  exact trains.1

theorem RegsBut.rngAddr {b c : Chip} (h : RegsBut [RNG_STAT] b c) : c.rngAddr = b.rngAddr :=
  congrArg (BitVec.ofNat 2) (h.get (g := RNG_CFG_ADDR) (by decide))

end

/-! ### Training begins and starts the cycle (R356, R357) -/

/-- The link's state shows that it trains. -/
def Chip.trainShown : Chip := c.setReg RNG_STAT (packFields [(RNG_STAT_STATE, 1), (RNG_STAT_FQOVF, c.get RNG_STAT_FQOVF)])

theorem Chip.rngTrain_eq : c.rngTrain = { c.trainShown.rngLose with rng := { c.rng with
    heard := [], back := none, duplicate := false, crcRun := 0, skewRun := 0, trainFrom := c.now, helloTick := none } } := rfl

theorem RegsBut.trainShown : RegsBut [RNG_STAT] c c.trainShown := (RegsBut.refl _ c).setReg _ _ List.mem_cons_self

theorem Only.rngTrain : Only [.regs, .tbs, .rng] c c.rngTrain := by
  have lost : Only [.regs, .tbs, .rng] c c.trainShown.rngLose :=
    ((Only.setReg ..).mono : Only [.regs, .tbs, .rng] c c.trainShown).then (.rngLose ..)
  exact lost.trans (.of_mix rfl)

theorem Chip.rngTrain_regs : c.rngTrain.regs = c.trainShown.regs := (Only.rngLose c.trainShown).same .regs (by decide)

theorem RegsBut.rngTrain : RegsBut [RNG_STAT] c c.rngTrain := (RegsBut.trainShown c).of_regs c.rngTrain_regs

theorem Chip.rngTrain_trains {c : Chip} (on : c.rngOn = true) : c.rngTrain.rngTrains = true := by
  have state : c.rngTrain.get RNG_STAT_STATE = 1 := by
    rw [Chip.get_of_regs c.rngTrain_regs, Chip.trainShown]
    exact (Chip.get_setReg c RNG_STAT_STATE _).trans (Field.read_packFields rfl List.mem_cons_self (by decide))
  rw [Chip.rngTrains, (RegsBut.rngTrain c).rngOn, on, state]
  rfl

/-- A follower loads the keeper's tick, and its cycle begins. -/
def Chip.startTaken : Chip :=
  let b := ((c.useFree.put RNG_STAT_STATE 2).put RNG_STAT_KADDR f.src.toNat).put (CUE_TB_STAT_JUMP 20) 1
  ({ b.jumpNext 20 with wall := ((f.payload.toNat : Int) + (c.freeVal.truncate 32 : BitVec 32).toInt).toNat } : Chip).rngBegin f.payload.toNat

theorem Chip.startCycle_eq {c : Chip} (trains : c.rngTrains = true) (house : c.inHouse = true) (other : f.src ≠ c.rngAddr) :
    c.startCycle f = c.startTaken f := if_neg (by simp [trains, house, other])

theorem Only.startTaken : Only [.regs, .rng, .tbs, .free, .wall] c (c.startTaken f) := .of_mix rfl

theorem Chip.startTaken_regs : (c.startTaken f).regs =
    (((c.put RNG_STAT_STATE 2).put RNG_STAT_KADDR f.src.toNat).put (CUE_TB_STAT_JUMP 20) 1).regs := rfl

theorem FieldsBut.startTaken : FieldsBut [RNG_STAT_STATE, RNG_STAT_KADDR, CUE_TB_STAT_JUMP 20] c (c.startTaken f) :=
  ((((FieldsBut.refl _ c).put RNG_STAT_STATE 2 (Field.ok_of _ rfl) List.mem_cons_self).put RNG_STAT_KADDR _ (Field.ok_of _ rfl) (by simp)).put
    (CUE_TB_STAT_JUMP 20) 1 (Field.ok_of _ rfl) (by simp)).of_regs (c.startTaken_regs f)

theorem RegsBut.startTaken : RegsBut [RNG_STAT, CUE_TB_STAT 20] c (c.startTaken f) :=
  ((((RegsBut.refl _ c).put RNG_STAT_STATE 2 List.mem_cons_self).put RNG_STAT_KADDR _ List.mem_cons_self).put
    (CUE_TB_STAT_JUMP 20) 1 (by simp [CUE_TB_STAT_JUMP])).of_regs (c.startTaken_regs f)

theorem Chip.startTaken_get : (c.startTaken f).get RNG_STAT_STATE = 2 ∧ (c.startTaken f).get RNG_STAT_KADDR = f.src.toNat ∧
    (c.startTaken f).get (CUE_TB_STAT_JUMP 20) = 1 := by
  have regs := Chip.get_of_regs (c.startTaken_regs f)
  refine ⟨(regs _).trans ?_, (regs _).trans ?_, (regs _).trans (Chip.get_put_fit _ _ 1 rfl)⟩
  · rw [Chip.get_put_ne _ _ _ _ (by decide), Chip.get_put_beside _ _ _ _ rfl]
    exact Chip.get_put_fit _ _ 2 rfl
  · rw [Chip.get_put_ne _ _ _ _ (by decide)]
    exact Chip.get_put_lt _ RNG_STAT_KADDR (Field.ok_of _ rfl) _ f.src.isLt

end
end Sys2Proof.Machine

open Sys2Proof.Machine

/-- Settles O46: a HELLO by what has been heard with it, the ring that closes by its keeper, and the ends of training. -/
theorem rangeTraining : Obligations.RangeTraining := by
  refine ⟨?hello, ?late, ?start, ?noStart, ?sends, ?waits, ?trains, ?fails, ?retrain, ?refused⟩
  case hello =>
    intro s f trains ok type h n closed
    have only := Only.helloJoined s.chip f
    have idle {cause : Nat} (hc : cause < 8) : RangeIdle cause s.chip ((s.chip.helloJoined f).rngIdle cause) :=
      .rngIdle hc only.mono rfl
    have closes (once : (s.chip.hear f).rng.duplicate = false)
        (done : (s.chip.hear f).rng.back = some (s.chip.get RNG_CFG_NPKG + 1) ∧ (s.chip.hear f).rng.heard.length = s.chip.get RNG_CFG_NPKG) :
        (s.chip.rngTaken f).hello f = (s.chip.helloJoined f).closeRing := by
      rw [Chip.hello_taken f trains, if_neg (by simp [once]), if_neg (by omega), if_pos (by simp [done])]
    refine completes_of_run (fun c => c.rngRx 1 f fun c => c.hello f) rfl (Chip.rngRx_good _ (.inl trains) ok type) ⟨fun twice => ?_, fun once many => ?_, fun once few opened => ?_,
      fun once done none => ?_, fun a hops once done keeper => ?_⟩
    · rw [Chip.hello_taken f trains, if_pos twice]
      exact idle (by decide)
    · rw [Chip.hello_taken f trains, if_neg (by simpa using once), if_pos many]
      exact idle (by decide)
    · have still : ¬ ((s.chip.hear f).rng.back == some (s.chip.get RNG_CFG_NPKG + 1) &&
          (s.chip.hear f).rng.heard.length == s.chip.get RNG_CFG_NPKG) = true := by
        simpa [closed] using opened
      rw [Chip.hello_taken f trains, if_neg (by simpa using once), if_neg (Nat.not_lt.mpr few), if_neg still]
      exact ⟨rfl, rfl, .helloJoined s.chip f, only.eq⟩
    · rw [closes once done, Chip.closeRing_none ((Chip.helloJoined_keeper ..).trans none)]
      exact idle (by decide)
    · rw [closes once done, Chip.closeRing_eq _ _ _ ((Chip.helloJoined_keeper ..).trans keeper)]
      have shown := RegsBut.keeperShown (s.chip.helloJoined f) a hops
      have kaddr := (s.chip.helloJoined f).keeperShown_kaddr a hops
      have nopub := ((s.chip.helloJoined f).keeperShown_nopub a hops).trans (s.chip.helloJoined_unpublished f)
      have first := Only.keeperShown (s.chip.helloJoined f) a hops
      have state := ((s.chip.helloJoined f).keeperShown_state a hops).trans (Chip.rngTrains_state trains)
      generalize (s.chip.helloJoined f).keeperShown a hops = b at shown kaddr nopub first state ⊢
      have base : RegsBut [RNG_STAT] s.chip b := fun x hx => (shown x hx).trans (only.reg x)
      have whole : Only [.regs, .rng, .free] s.chip b := (only.mono : Only [.regs, .rng, .free] _ _).then first
      rw [base.rngAddr]
      by_cases own : a = s.chip.rngAddr
      · rw [if_neg (by simp [own])]
        have regs : RegsBut [RNG_STAT] s.chip b.keeperMeasured.keeperStarts := (base.trans (.keeperMeasured b)).trans (.keeperStarts _)
        have up : b.keeperMeasured.keeperStarts.rngUp = true := by
          rw [Chip.rngUp, regs.rngOn, b.keeperStarts_state, Chip.rngOn_of_trains trains]
          rfl
        refine ⟨(b.keeperStarts_get ⟨rfl, rfl, rfl⟩ (Field.ok_of _ rfl)).trans kaddr,
          (Chip.flag_of_get (b.keeperStarts_get ⟨rfl, rfl, rfl⟩ (Field.ok_of RNG_STAT_NOPUB rfl))).trans nopub, fun other => absurd own other,
          fun _ => ⟨up, b.keeperStarts_keeper, rfl, _, rfl, rfl, ?_, rfl⟩, regs, ?_⟩
        · exact ((RegsBut.keeperMeasured b).rngAddr.trans base.rngAddr).trans own.symm
        · exact ((whole.then (.keeperMeasured b)).then (.keeperStarts _)).eq
      · rw [if_pos (by simpa using own)]
        exact ⟨kaddr, nopub, fun _ => state, fun same => absurd same own, base, whole.eq⟩
  case late =>
    intro s f up ok type
    have idle : (s.chip.rngTaken f).hello f = s.chip.rngTaken f := if_pos (by
      rw [show (s.chip.rngTaken f).rngTrains = s.chip.rngTrains from rfl, Chip.not_trains_of_up up]
      rfl)
    exact completes_of_run (fun c => c.rngRx 1 f fun c => c.hello f) rfl ((Chip.rngRx_good _ (.inr up) ok type).trans idle)
      ⟨.rngTaken s.chip f, rfl⟩
  case start =>
    intro s f trains house ok type other
    have run := (Chip.rngRx_good (fun c => c.startCycle f) (.inl trains) ok type).trans
      (Chip.startCycle_eq (c := s.chip.rngTaken f) f trains house other)
    have before := Only.rngTaken s.chip f
    have get := (s.chip.rngTaken f).startTaken_get f
    have fields := FieldsBut.startTaken (s.chip.rngTaken f) f
    refine completes_of_run (fun c => c.rngRx 2 f fun c => c.startCycle f) rfl run ⟨?_, get.2.1, rfl, rfl, rfl, rfl, get.2.2, ?_,
      (before.fieldsBut _).trans fields, ((before.mono : Only [.regs, .rng, .tbs, .free, .wall] _ _).then (.startTaken ..)).eq⟩
    · rw [Chip.rngUp, (RegsBut.startTaken (s.chip.rngTaken f) f).rngOn, get.1, Bool.and_eq_true]
      exact ⟨Chip.rngOn_of_trains trains, rfl⟩
    · exact congrArg TbState.jumpDue (Chip.tb_setTb ..)
  case noStart =>
    intro s f ok type idle
    have live : s.chip.rngTrains = true ∨ s.chip.rngUp = true := idle.elim .inr fun h => .inl h.1
    have still : (s.chip.rngTaken f).startCycle f = s.chip.rngTaken f := by
      refine if_pos ?_
      rw [show (s.chip.rngTaken f).rngTrains = s.chip.rngTrains from rfl, show (s.chip.rngTaken f).inHouse = s.chip.inHouse from rfl,
        show (s.chip.rngTaken f).rngAddr = s.chip.rngAddr from rfl]
      rcases idle with up | ⟨-, out | own⟩
      · simp [Chip.not_trains_of_up up]
      · simp [out]
      · simp [own]
    exact completes_of_run (fun c => c.rngRx 2 f fun c => c.startCycle f) rfl ((Chip.rngRx_good _ live ok type).trans still)
      ⟨.rngTaken s.chip f, rfl⟩
  case sends =>
    intro s trains due
    have late : (match s.chip.rng.helloTick with | some t => decide (t + 12500 ≤ s.chip.now) | none => true) = true := by
      split
      next t h => exact decide_eq_true (due t h)
      next => rfl
    exact completes_of_run Chip.helloSend rfl (if_pos (by rw [trains, Bool.true_and]; exact late)) ⟨.rngFrame 0 rfl, rfl⟩
  case waits =>
    intro s t idle
    refine idles_of_run Chip.helloSend rfl (if_neg ?_)
    rcases idle with off | ⟨sent, early⟩
    · simp [off]
    · rw [sent]
      simp [early]
  case trains =>
    intro s early
    refine idles_of_run Chip.trainingTimeout rfl (if_pos ?_)
    rcases early with off | early
    · simp [off]
    · simp [early]
  case fails =>
    intro s trains late
    have run : s.chip.trainingTimeout = match s.chip.rng.back with
        | none => s.chip.rngIdle 4
        | some h => s.chip.rngIdle (if h != s.chip.rng.heard.length + 1 then 1 else if s.chip.rng.heard.length != s.chip.get RNG_CFG_NPKG then 2 else 4) :=
      if_neg (by simpa [trains] using late)
    have idle {cause : Nat} (hc : cause < 8) : RangeIdle cause s.chip (s.chip.rngIdle cause) := .rngIdle hc (.refl ..) rfl
    refine completes_of_run Chip.trainingTimeout rfl run ⟨fun none => ?_, fun h back far => ?_, fun back other => ?_, fun back same => ?_, ?_⟩
    · rw [none]
      exact idle (by decide)
    · rw [back]
      simp only [bne_iff_ne, far, ne_eq, not_false_eq_true, if_true]
      exact idle (by decide)
    · rw [back]
      simp only [bne_self_eq_false, bne_iff_ne, other, ne_eq, not_false_eq_true, if_true, Bool.false_eq_true, if_false]
      exact idle (by decide)
    · rw [back]
      simp only [bne_self_eq_false, same, Bool.false_eq_true, if_false]
      exact idle (by decide)
    · split
      · exact (Only.rngIdle s.chip _).same .faults (by decide)
      · exact (Only.rngIdle s.chip _).same .faults (by decide)
  case retrain =>
    intro s p serving house down on
    have clear : judge [(!s.chip.inHouse || s.chip.get RNG_STAT_STATE == 2 || !s.chip.rngOn, .state)] = .ok := by
      simp [judge, house, down, on]
    have lost := s.chip.trainShown.rngLose_tb.1
    rw [(RegsBut.trainShown s.chip).subscribed (fun x hx => List.mem_singleton.mp hx ▸ by decide)] at lost
    exact grants_of_ask (f := Chip.retrain) rfl serving (s.chip.request_ok _ _ clear)
      ⟨Chip.rngTrain_trains on, rfl, rfl, rfl, rfl, rfl, lost, .rngTrain s.chip, (Only.rngTrain s.chip).eq⟩
  case refused =>
    intro s p serving bad
    refine refuses_of_request (f := Chip.retrain) rfl serving rfl (r := .state) ?_ (by decide)
    rcases bad with bad | bad | bad <;> simp [judge, bad]
end

section
-- One proof after the other: a side goal that `Only` settles by `decide` waits for the kernel, on a thread of its own.
set_option Elab.async false
/-! SUPPORT. Bad frames, positions and errors of the range link's cycle, and the statement about the cycle (R354 to R361, R368). -/
namespace Sys2Proof.Machine

section
variable (c : Chip) (f : RngFrame)

/-! ### Bad frames (R355) -/

/-- The chip after a bad frame: forwarded as it came, counted, one event of RNG_CRC. -/
def Chip.rngBad : Chip := { c.raise 0xFA with rng := { c.rng with
  crcRun := c.rng.crcRun + 1
  forwarded := if f.src = c.rngAddr then c.rng.forwarded else some f } }

theorem Chip.forward_bad {c : Chip} {f : RngFrame} (bad : rngOk f = false) : c.forward f =
    { c with rng := { c.rng with forwarded := if f.src = c.rngAddr then c.rng.forwarded else some f } } := by
  unfold Chip.forward
  rw [bad, Bool.and_false, Bool.false_and]
  split <;> rfl

theorem Chip.rngRx_bad {c : Chip} {f : RngFrame} (type : BitVec 3) (eff : Chip → Chip) (live : c.rngTrains = true ∨ c.rngUp = true)
    (bad : rngOk f = false) : c.rngRx type f eff = if 4 ≤ c.rng.crcRun + 1 then (c.rngBad f).rngDown 6 else c.rngBad f := by
  have on : (c.rngTrains || c.rngUp) = true := by simpa using live
  rw [Chip.rngRx, on, bad, Chip.forward_bad bad]
  rfl

theorem Chip.rngRx_off {c : Chip} (type : BitVec 3) (eff : Chip → Chip) (idle : c.rngTrains = false) (down : c.rngUp = false) :
    c.rngRx type f eff = c := if_pos (by simp [idle, down])

theorem Chip.rngRx_other {c : Chip} {f : RngFrame} {type : BitVec 3} (eff : Chip → Chip) (ok : rngOk f = true) (other : f.type ≠ type) :
    c.rngRx type f eff = c := by
  rw [Chip.rngRx, ok]
  split
  · rfl
  · rw [Bool.not_true, if_neg Bool.false_ne_true]
    exact if_pos (by simpa using other)

/-- The rows of the range link's frames. -/
theorem rangeFrameRow {f : RngFrame} {err : Int} {i : Instr} {type : BitVec 3}
    (row : (i, type) ∈ [(Instr.statusFrame f, 0), (.helloFrame f, 1), (.startFrame f, 2), (.syncFrame f err, 3), (.posFrame f, 4),
      (.faultFrame f, 5)]) : ∃ eff : Chip → Chip, ∀ s : State, exec i s = s.run fun c => c.rngRx type f eff := by
  simp only [List.mem_cons, List.not_mem_nil, or_false, Prod.mk.injEq] at row
  rcases row with ⟨rfl, rfl⟩ | ⟨rfl, rfl⟩ | ⟨rfl, rfl⟩ | ⟨rfl, rfl⟩ | ⟨rfl, rfl⟩ | ⟨rfl, rfl⟩ <;> exact ⟨_, fun _ => rfl⟩

theorem RangeDown.rngDown {b c : Chip} {cause : Nat} (h : cause < 8) (before : Only [.rng, .faults] b c) (up : c.get RNG_STAT_STATE = 2) :
    RangeDown cause b (c.rngDown cause) := by
  have idle := RangeIdle.rngIdle h before.mono (Chip.subscribed_congr fun m _ => before.reg (RNG_SUB m))
  rw [Chip.rngDown_eq up]
  exact ⟨idle.of_down 0xF9, ((before.fieldsBut _).trans (FieldsBut.rngIdle c cause)).of_regs rfl, rfl⟩

theorem Raised.rngDown {b c : Chip} (cause : Nat) (faults : c.faults = b.faults) (up : c.get RNG_STAT_STATE = 2) : Raised 0xF9 b (c.rngDown cause) := by
  have kept : (c.rngIdle cause).faults = b.faults := Eq.trans ((Only.rngIdle c cause).same .faults (by decide)) faults
  rw [Chip.rngDown_eq up, Raised, ← kept]
  rfl

/-! ### Positions (R359, R368) -/

section
variable (n : Tb) (v : BitVec 32) (stale : Bool) (age : Nat)

theorem Only.takeMaster : Only [.tbs] c (c.takeMaster n v stale age) := by
  have regained : Only [.tbs] c (if (c.tb n).lost then c.regainTb n else c) := .ite (.regainTb ..) (.refl ..)
  exact .ite (.loseTb ..) ((regained.trans (.feed ..)).trans (.setTb ..))

theorem Chip.feed_tb_ne {m : Tb} (motion : Bool) (h : m ≠ n) : (c.feed n v motion).tb m = c.tb m := Chip.tb_setTb_ne _ _ _ h

theorem Chip.feed_tb (motion : Bool) : ((c.feed n v motion).tb n).src = v ∧ ((c.feed n v motion).tb n).seeded = true ∧
    ((c.feed n v motion).tb n).lost = (c.tb n).lost ∧ ((c.feed n v motion).tb n).jumpDue = (c.tb n).jumpDue := by
  unfold Chip.feed
  rw [Chip.tb_setTb]
  exact ⟨rfl, rfl, rfl, rfl⟩

theorem Chip.takeMaster_ne {m : Tb} (h : m ≠ n) : (c.takeMaster n v stale age).tb m = c.tb m := by
  have regained : (if (c.tb n).lost then c.regainTb n else c).tb m = c.tb m := by
    split
    · exact Chip.tb_setTb_ne _ _ _ h
    · rfl
  unfold Chip.takeMaster
  split
  · exact c.loseTb_tb_ne h
  · exact (Chip.tb_setTb_ne _ _ _ h).trans ((Chip.feed_tb_ne _ n v true h).trans regained)

/-- What a subscribed timebase takes of a position. -/
structure PosTaken (b c : TbState) : Prop where
  lost : stale = true → c = { b with lost := true }
  taken : stale = false → c.src = v ∧ c.lost = false ∧ c.ext = c.speed * (age : Int) ∧ c.seeded = true ∧ (b.lost = true → c.jumpDue = true)

theorem PosTaken.takeMaster : PosTaken v stale age (c.tb n) ((c.takeMaster n v stale age).tb n) := by
  refine ⟨fun set => ?_, fun clear => ?_⟩
  · rw [Chip.takeMaster, if_pos set]
    exact c.loseTb_tb n
  · rw [Chip.takeMaster, if_neg (by simp [clear])]
    dsimp only
    rw [Chip.tb_setTb]
    have fed := Chip.feed_tb (if (c.tb n).lost then c.regainTb n else c) n v true
    obtain ⟨src, seeded, lost, jump⟩ := fed
    refine ⟨src, lost.trans ?_, rfl, seeded, fun gone => jump.trans ?_⟩
    · split
      · exact congrArg TbState.lost (Chip.tb_setTb ..)
      next held => simpa using held
    · rw [if_pos gone]
      exact congrArg TbState.jumpDue (Chip.tb_setTb ..)

end

/-- One subscription's part of a position. -/
def Chip.posOne (x : Nat × Tb) : Chip :=
  if x.1 / 2 != f.src.toNat then c
  else c.takeMaster x.2 ((f.payload >>> (32 * (x.1 % 2))).truncate 32) (f.stale.getLsbD (x.1 % 2)) (c.sinceSlot f.slot.toNat)

theorem Only.posOne (x : Nat × Tb) : Only [.tbs] c (c.posOne f x) := .ite (.refl ..) (.takeMaster ..)

theorem Chip.posOne_ne {x : Nat × Tb} {m : Tb} (h : x.2 ≠ m) : (c.posOne f x).tb m = c.tb m := by
  unfold Chip.posOne
  split
  · rfl
  · exact Chip.takeMaster_ne _ _ _ _ _ h.symm

/-- What one operation of a list without repetition does to what the others leave, the list does. -/
theorem Chip.each_once {α β : Type} {Q : Chip → Prop} {p : Chip → β} {g : Chip → α → Chip} {xs : List α} {x : α} (c : Chip)
    (once : xs.Nodup) (hx : x ∈ xs) (base : Q c) (stays : ∀ d, Q d → ∀ y ∈ xs, Q (g d y)) (keeps : ∀ d, ∀ y ∈ xs, y ≠ x → p (g d y) = p d) :
    ∃ d, Q d ∧ p d = p c ∧ p (c.each xs g) = p (g d x) := by
  obtain ⟨before, after, rfl⟩ := List.append_of_mem hx
  have split : c.each (before ++ x :: after) g = (g (c.each before g) x).each after g := by
    simp only [Chip.each, List.foldl_append, List.foldl_cons]
  have apart := (List.nodup_append.mp once).2.2
  have fresh := (List.nodup_cons.mp (List.nodup_append.mp once).2.1).1
  refine ⟨c.each before g, ?_, ?_, ?_⟩
  · exact Chip.each_keeps before base fun d hd y hy => stays d hd y (List.mem_append_left _ hy)
  · exact Chip.each_keeps (P := fun d => p d = p c) before rfl fun d hd y hy =>
      (keeps d y (List.mem_append_left _ hy) (apart y hy x List.mem_cons_self)).trans hd
  · rw [split]
    exact Chip.each_keeps (P := fun d => p d = p (g (c.each before g) x)) after rfl fun d hd y hy =>
      (keeps d y (List.mem_append_right _ (List.mem_cons_of_mem _ hy)) fun same => fresh (same ▸ hy)).trans hd

theorem Chip.subscribed_nodup : c.subscribed.Nodup := by
  refine List.Nodup.map_on (fun m hm n hn same => ?_) (List.nodup_range.filter _)
  have low := List.mem_range.mp (List.mem_of_mem_filter hm)
  have low' := List.mem_range.mp (List.mem_of_mem_filter hn)
  have index := congrArg (fun x : Nat × Tb => x.2.val) same
  simp only [tbOf] at index
  rw [dif_pos (by omega), dif_pos (by omega)] at index
  simpa using index

theorem Only.pos : Only [.tbs] c (c.pos f) := .ite (.refl ..) (.each _ _ fun d x _ => .posOne d f x)

theorem Chip.pos_up {c : Chip} (up : c.rngUp = true) : c.pos f = c.each c.subscribed fun c x => c.posOne f x := if_neg (by simp [up])

/-! ### Errors of the cycle (R357, R361) -/

/-- The error and the ring delay are shown. -/
def Chip.skewShown (err : Int) : Chip := (c.puts RNG_SKEW_ERR err).put RNG_STAT_RT (f.payload >>> 48).toNat

/-- The chip that has noted the error of a SYNC. -/
def Chip.synced (err : Int) : Chip := { c.skewShown f err with rng := { c.rng with
  syncTick := c.now, skewRun := if 16 < err.natAbs then c.rng.skewRun + 1 else 0 } }

theorem Chip.sync_eq {c : Chip} {f : RngFrame} (up : c.rngUp = true) (other : f.src ≠ c.rngAddr) (err : Int) : c.sync f err =
    if 3 ≤ (if 16 < err.natAbs then c.rng.skewRun + 1 else 0) then (c.synced f err).rngDown 7 else c.synced f err :=
  if_neg (by
    show ¬ (!c.rngUp || f.src == c.rngAddr) = true
    simp [up, other])

theorem Only.synced (err : Int) : Only [.regs, .rng] c (c.synced f err) := .of_mix rfl

theorem FieldsBut.synced (err : Int) : FieldsBut [RNG_SKEW_ERR, RNG_STAT_RT] c (c.synced f err) :=
  (((FieldsBut.refl _ c).puts RNG_SKEW_ERR err (Field.ok_of _ rfl) List.mem_cons_self).put RNG_STAT_RT _ (Field.ok_of _ rfl) (by simp)).of_regs rfl

theorem Chip.synced_get (err : Int) : (c.synced f err).get RNG_SKEW_ERR = wrapTo (RNG_SKEW_ERR.hi + 1 - RNG_SKEW_ERR.lo) err ∧
    (c.synced f err).get RNG_STAT_RT = (f.payload >>> 48).toNat ∧ (c.synced f err).get RNG_STAT_STATE = c.get RNG_STAT_STATE := by
  have regs : (c.synced f err).regs = (c.skewShown f err).regs := rfl
  have high : (f.payload >>> 48).toNat < 2 ^ 16 := by
    rw [BitVec.toNat_ushiftRight, Nat.shiftRight_eq_div_pow]
    omega
  refine ⟨(Chip.get_of_regs regs _).trans ?_, (Chip.get_of_regs regs _).trans (Chip.get_put_lt _ RNG_STAT_RT (Field.ok_of _ rfl) _ high),
    (Chip.get_of_regs regs _).trans ?_⟩
  · rw [Chip.skewShown, Chip.get_put_ne _ _ _ _ (by decide)]
    exact Chip.get_put_lt _ RNG_SKEW_ERR (Field.ok_of _ rfl) _ (wrapTo_lt _ _)
  · rw [Chip.skewShown, Chip.get_put_beside _ _ _ _ rfl]
    exact Chip.get_put_ne _ _ _ _ (by decide)

theorem Chip.subscribed_synced (err : Int) : (c.synced f err).subscribed = c.subscribed := by
  have regs : RegsBut [RNG_SKEW, RNG_STAT] c (c.synced f err) :=
    (((RegsBut.refl _ c).put RNG_SKEW_ERR _ List.mem_cons_self).put RNG_STAT_RT _ (by simp [RNG_STAT_RT])).of_regs rfl
  refine regs.subscribed fun x hx => ?_
  simp only [List.mem_cons, List.not_mem_nil, or_false] at hx
  rcases hx with rfl | rfl <;> decide

end
end Sys2Proof.Machine

open Sys2Proof.Machine

/-- Settles O47: bad frames by their count, and each good frame of the cycle by its effect on what the reception leaves. -/
theorem rangeCycle : Obligations.RangeCycle := by
  refine ⟨?bad, ?status, ?pos, ?sync, ?fault, ?own, ?silent, ?heard⟩
  case bad =>
    intro s f err i type row
    obtain ⟨eff, run⟩ := rangeFrameRow row
    refine ⟨fun idle down => idles_of_run (fun c => c.rngRx type f eff) (run s) (Chip.rngRx_off f _ _ idle down),
      fun ok other => idles_of_run (fun c => c.rngRx type f eff) (run s) (Chip.rngRx_other _ ok other), fun live bad few => ?_, fun up bad many => ?_⟩
    · have stays : (if 4 ≤ s.chip.rng.crcRun + 1 then (s.chip.rngBad f).rngDown 6 else s.chip.rngBad f) = s.chip.rngBad f := by
        split
        next many =>
          have down : s.chip.rngUp = false := few.resolve_left (by omega)
          have trains : s.chip.rngTrains = true := live.resolve_right (by simp [down])
          exact if_pos (by
            show (s.chip.get RNG_STAT_STATE != 2) = true
            rw [Chip.rngTrains_state trains]
            rfl)
        next => rfl
      exact completes_of_run (fun c => c.rngRx type f eff) (run s) ((Chip.rngRx_bad type eff live bad).trans stays) ⟨rfl, rfl⟩
    · have state : (s.chip.rngBad f).get RNG_STAT_STATE = 2 := Chip.rngUp_state up
      have down := (Chip.rngRx_bad type eff (.inr up) bad).trans (if_pos (by omega))
      have raised := Raised.rngDown (b := s.chip.rngBad f) 6 rfl state
      refine completes_of_run (fun c => c.rngRx type f eff) (run s) down ⟨.rngDown (by decide) (.of_mix rfl) state, ?_⟩
      exact (congrArg FaultState.events raised).trans (List.append_assoc ..)
  case status =>
    intro s f live ok type
    exact completes_of_run (fun c => c.rngRx 0 f id) rfl (Chip.rngRx_good _ live.symm ok type) ⟨.rngTaken s.chip f, rfl⟩
  case pos =>
    intro s f up ok type
    have up' : (s.chip.rngTaken f).rngUp = true := up
    have run := (Chip.rngRx_good (fun c => c.pos f) (.inr up) ok type).trans (Chip.pos_up f up')
    have only : Only [.tbs] (s.chip.rngTaken f) ((s.chip.rngTaken f).each (s.chip.rngTaken f).subscribed fun c x => c.posOne f x) :=
      .each _ _ fun d x _ => .posOne d f x
    have rng := only.same .rng (by decide)
    refine completes_of_run (fun c => c.rngRx 4 f fun c => c.pos f) rfl run ⟨(RangeHeard.rngTaken s.chip f).of_rng (congrArg RngState.crcRun rng)
      (congrArg RngState.forwarded rng) (congrArg RngState.sev rng), fun x hx own => ?_, fun n other => ?_,
      (((Only.rngTaken s.chip f).mono : Only [.rng, .tbs] _ _).then only).eq⟩
    · obtain ⟨d, still, same, last⟩ := Chip.each_once (Q := Only [.tbs] (s.chip.rngTaken f)) (p := (·.tb x.2)) (s.chip.rngTaken f)
        (s.chip.rngTaken f).subscribed_nodup hx (g := fun c x => c.posOne f x) (.refl ..) (fun d hd y _ => hd.trans (.posOne d f y))
        fun d y hy ne => d.posOne_ne f fun h => ne (subscribed_inj s.chip hy hx h)
      have since : d.sinceSlot f.slot.toNat = s.chip.sinceSlot f.slot.toNat := by
        rw [Chip.sinceSlot, still.same .wall (by decide), still.same .rng (by decide)]
        rfl
      have taken := PosTaken.takeMaster d x.2 ((f.payload >>> (32 * (x.1 % 2))).truncate 32) (f.stale.getLsbD (x.1 % 2)) (d.sinceSlot f.slot.toNat)
      have one : d.posOne f x = d.takeMaster x.2 ((f.payload >>> (32 * (x.1 % 2))).truncate 32) (f.stale.getLsbD (x.1 % 2)) (d.sinceSlot f.slot.toNat) :=
        if_neg (by simp [own])
      rw [← one, ← last, same, since] at taken
      exact ⟨taken.lost, taken.taken⟩
    · refine Chip.each_keeps (P := fun d : Chip => d.tb n = s.chip.tb n) _ rfl fun d hd y hy => ?_
      by_cases here : y.2 = n
      · exact (congrArg (·.tb n) (if_pos (by simpa using other y hy here) : d.posOne f y = d)).trans hd
      · exact (d.posOne_ne f here).trans hd
  case sync =>
    intro s f err up ok type other
    let b := s.chip.rngTaken f
    have run := (Chip.rngRx_good (fun c => c.sync f err) (.inr up) ok type).trans (Chip.sync_eq (c := b) up other err)
    have get := b.synced_get f err
    have only : Only [.regs, .rng] s.chip (b.synced f err) := ((Only.rngTaken s.chip f).mono : Only [.regs, .rng] _ _).then (.synced ..)
    have fields : FieldsBut [RNG_SKEW_ERR, RNG_STAT_RT] s.chip (b.synced f err) := ((Only.rngTaken s.chip f).fieldsBut _).trans (.synced b f err)
    have state : (b.synced f err).get RNG_STAT_STATE = 2 := get.2.2.trans (Chip.rngUp_state up)
    have kept {g : Field} (ok : g.ok) (hs : g.apart RNG_STAT_STATE) (hc : g.apart RNG_STAT_CAUSE) :
        (if 3 ≤ (if 16 < err.natAbs then b.rng.skewRun + 1 else 0) then (b.synced f err).rngDown 7 else b.synced f err).get g = (b.synced f err).get g := by
      by_cases third : 3 ≤ (if 16 < err.natAbs then b.rng.skewRun + 1 else 0)
      · rw [if_pos third]
        refine (RangeDown.rngDown (cause := 7) (by decide) (.refl _ (b.synced f err)) state).2.1 g ok fun h hh => ?_
        simp only [List.mem_cons, List.not_mem_nil, or_false] at hh
        rcases hh with rfl | rfl
        · exact hs
        · exact hc
      · rw [if_neg third]
    have below (h : err.natAbs ≤ 16 ∨ s.chip.rng.skewRun < 2) : ¬ 3 ≤ (if 16 < err.natAbs then b.rng.skewRun + 1 else 0) := by
      have same : b.rng.skewRun = s.chip.rng.skewRun := rfl
      split <;> omega
    refine completes_of_run (fun c => c.rngRx 3 f fun c => c.sync f err) rfl run ⟨?_, ?_, fun large few => ?_, fun small => ?_, fun few => ?_, fun few => ?_,
      fun large many => ?_⟩
    · exact (kept (Field.ok_of RNG_SKEW_ERR rfl) (Or.inl (by decide)) (Or.inl (by decide))).trans get.1
    · exact (kept (Field.ok_of RNG_STAT_RT rfl) (Field.apart_of _ _ rfl) (Field.apart_of _ _ rfl)).trans get.2.1
    · rw [if_neg (below (.inr few))]
      exact if_pos large
    · rw [if_neg (below (.inl small))]
      exact if_neg (by omega)
    · rw [if_neg (below few)]
      exact ⟨(RangeHeard.rngTaken s.chip f).of_rng rfl rfl rfl, fields, only.eq⟩
    · rw [if_neg (below few)]
      rfl
    · have third : 3 ≤ (if 16 < err.natAbs then b.rng.skewRun + 1 else 0) := by
        have same : b.rng.skewRun = s.chip.rng.skewRun := rfl
        rw [if_pos large]
        omega
      rw [if_pos third]
      have idle : RangeIdle 7 s.chip ((b.synced f err).rngIdle 7) :=
        .rngIdle (by decide) only.mono (b.subscribed_synced f err)
      refine ⟨?_, .rngDown 7 rfl state, ?_⟩
      · rw [Chip.rngDown_eq state]
        exact idle.of_down 0xF9
      · rw [Chip.rngDown_eq state]
  case fault =>
    intro s f up ok type other
    have effect : (s.chip.rngTaken f).remoteFault f = (s.chip.rngTaken f).report 0xFB 1 (f.payload.extractLsb' 8 3).toNat 0xFF false :=
      if_neg (by
        show ¬ (!s.chip.rngUp || f.src == s.chip.rngAddr) = true
        simp [up, other])
    exact completes_of_run (fun c => c.rngRx 5 f fun c => c.remoteFault f) rfl ((Chip.rngRx_good _ (.inr up) ok type).trans effect)
      ⟨(RangeHeard.rngTaken s.chip f).of_rng rfl rfl rfl, rfl, rfl⟩
  case own =>
    intro s f err up ok own
    have back : (!s.chip.rngUp || f.src == s.chip.rngAddr) = true := by simp [own]
    refine ⟨fun type => ?_, fun type => ?_⟩
    · have effect : (s.chip.rngTaken f).sync f err =
          { s.chip.rngTaken f with rng := { (s.chip.rngTaken f).rng with syncTick := s.chip.now } } := if_pos back
      exact completes_of_run (fun c => c.rngRx 3 f fun c => c.sync f err) rfl ((Chip.rngRx_good _ (.inr up) ok type).trans effect)
        ⟨(RangeHeard.rngTaken s.chip f).of_rng rfl rfl rfl, rfl, rfl⟩
    · have effect : (s.chip.rngTaken f).remoteFault f = s.chip.rngTaken f := if_pos back
      exact completes_of_run (fun c => c.rngRx 5 f fun c => c.remoteFault f) rfl ((Chip.rngRx_good _ (.inr up) ok type).trans effect)
        ⟨.rngTaken s.chip f, rfl⟩
  case silent =>
    intro s up late
    have state := Chip.rngUp_state up
    exact completes_of_run Chip.syncTimeout rfl (if_pos (by simp [up, late])) ⟨.rngDown (by decide) (.refl ..) state, .rngDown 5 rfl state⟩
  case heard =>
    intro s idle
    refine idles_of_run Chip.syncTimeout rfl (if_neg ?_)
    rcases idle with down | early
    · simp [down]
    · simp [early]
end

section
-- One proof after the other: a side goal that `Only` settles by `decide` waits for the kernel, on a thread of its own.
set_option Elab.async false
/-! SUPPORT. What a tick does besides sampling: axes, legs and buses change neither the timebases nor the cue sheet's registers;
and the statement about one tick of the wall clock and of the timebases (R2, R28 to R33). -/
namespace Sys2Proof.Machine

/-! ### Work of a tick that the timebases do not feel -/

/-- The parts that axes, legs, cues, ports and buses may change in a tick. -/
def workParts : List Part := [.regs, .fresh, .free, .legs, .cues, .ports, .axes, .buses, .faults]

/-- Work of a tick beside the timebases: the registers of the cue sheet and of what stands above them stay, and every return to
a primary is due as it was. -/
structure TickWork (b c : Chip) : Prop where
  only : Only workParts b c
  high : RegsOf (0x120000 ≤ ·) b c
  back : ∀ a, (c.axis a).backDue = (b.axis a).backDue

section
variable {b c d : Chip}

theorem TickWork.refl (c : Chip) : TickWork c c := ⟨.refl _ c, .refl _ c, fun _ => rfl⟩

theorem TickWork.trans (h : TickWork b c) (k : TickWork c d) : TickWork b d :=
  ⟨h.only.trans k.only, h.high.trans k.high, fun a => (k.back a).trans (h.back a)⟩

theorem TickWork.ite {p : Prop} [Decidable p] (hc : TickWork b c) (hd : TickWork b d) : TickWork b (if p then c else d) := by
  split
  · exact hc
  · exact hd

theorem TickWork.each {α : Type} {f : Chip → α → Chip} (c : Chip) (xs : List α) (hf : ∀ d, ∀ x ∈ xs, TickWork d (f d x)) :
    TickWork c (c.each xs f) :=
  Chip.each_keeps xs (.refl c) fun d hd x hx => hd.trans (hf d x hx)

/-- Work on parts other than registers and axes. -/
theorem TickWork.of_only {l : List Part} (h : Only l b c) (hl : l ⊆ workParts ∧ Part.regs ∉ l ∧ Part.axes ∉ l := by decide) : TickWork b c :=
  ⟨h.mono hl.1, .of_regs (h.same .regs hl.2.1), fun a => congrArg AxisState.backDue (h.axis a hl.2.2)⟩

theorem TickWork.put (h : TickWork b c) (f : Field) (v : Nat) (low : f.addr < 0x120000) : TickWork b (c.put f v) :=
  ⟨h.only.then (.put ..), h.high.put f v (Nat.not_le.mpr low), h.back⟩

theorem TickWork.noteFresh (h : TickWork b c) (f : Field) (v : Nat) : TickWork b (c.noteFresh f v) :=
  ⟨h.only.then (Only.of_mix rfl : Only [.fresh] _ _), h.high.trans (.of_regs rfl), h.back⟩

theorem TickWork.bump (h : TickWork b c) (f : Field) (n : Nat) (low : f.addr < 0x120000) : TickWork b (c.bump f n) :=
  (h.put f _ low).noteFresh f _

theorem TickWork.mark (h : TickWork b c) (f : Field) (low : f.addr < 0x120000) : TickWork b (c.mark f) := (h.put f _ low).noteFresh f _

theorem TickWork.markIf (h : TickWork b c) (x : Bool) (f : Field) (low : f.addr < 0x120000) : TickWork b (c.markIf x f) := by
  cases x
  · exact h
  · exact h.mark f low

theorem TickWork.setAxis (h : TickWork b c) (a : Axis) (x : AxisState) (due : x.backDue = (c.axis a).backDue) : TickWork b (c.setAxis a x) := by
  refine ⟨h.only.then (.setAxis ..), h.high.trans (.of_regs rfl), fun k => (?_ : _ = (c.axis k).backDue).trans (h.back k)⟩
  by_cases same : k = a
  · rw [same, Chip.axis_setAxis, due]
  · rw [Chip.axis_setAxis_ne _ _ _ same]

theorem TickWork.also {l : List Part} (h : TickWork b c) (k : Only l c d)
    (hl : l ⊆ workParts ∧ Part.regs ∉ l ∧ Part.axes ∉ l := by decide) : TickWork b d := h.trans (.of_only k hl)

theorem TickWork.raise (h : TickWork b c) (s : Nat) : TickWork b (c.raise s) := h.also (.raise ..)

theorem TickWork.want (h : TickWork b c) (l : Leg) (m : LegMode) (on : BitVec 17) (s : Option Slew) : TickWork b (c.want l m on s) :=
  h.also (LegAt.want c l m on s).only

theorem TickWork.divFree (h : TickWork b c) (n e : Int) : TickWork b (c.divFree n e).1 := h.also (.divFree ..)

end

/-- A register of an axis stands below the cue sheet. -/
theorem axisReg_low (a : Axis) {x k : Nat} (h : x = k + a.val * 0x1000) (hk : k < 0x0A0000 := by decide) : x < 0x120000 := by omega

theorem legReg_low (l : Leg) {x k : Nat} (h : x = k + l.val * 0x100) (hk : k < 0x0A0000 := by decide) : x < 0x120000 := by omega

theorem busReg_low (r : Region) {x k : Nat} (h : x = k + r.val * 0x8000) (hk : k < 0x0E0000 := by decide) : x < 0x120000 := by omega

theorem portReg_low (p : Port) {x k : Nat} (h : x = k + p.val * 0x100) (hk : k < 0x0E0000 := by decide) : x < 0x120000 := by omega

section
variable (c : Chip) (a : Axis)

/-! ### Axes -/

theorem TickWork.floatAxis {b : Chip} (h : TickWork b c) : TickWork b (c.floatAxis a) := by
  have asked : Only [.legs] c (c.each (legsOf a) fun c l => c.want l .float 0 none) :=
    .each c _ fun d l _ => (LegAt.want d l .float 0 none).only.mono
  have shown {d : Chip} (k : TickWork b d) : TickWork b (d.setAxis a { d.axis a with driven := false, trans := none }) := k.setAxis a _ rfl
  exact shown (h.also asked)

theorem TickWork.noteSector {b : Chip} (h : TickWork b c) (s : Nat) : TickWork b (c.noteSector a s) :=
  (h.put _ _ (axisReg_low a rfl)).setAxis a _ rfl

theorem TickWork.toSector {b : Chip} (h : TickWork b c) (s : Nat) : TickWork b (c.toSector a s) := by
  have noted := TickWork.noteSector c a h s
  unfold Chip.toSector
  split
  exact ((noted.want ..).want ..).want ..

theorem TickWork.takeSector {b : Chip} (h : TickWork b c) (s : Nat) : TickWork b (c.takeSector a s) :=
  .ite (.toSector c a h s) (.noteSector c a h s)

theorem TickWork.softStep {b : Chip} (h : TickWork b c) (s i : Nat) : TickWork b (c.softStep a s i) := by
  have shares (m n p q : Int) : TickWork b ((c.divFree m n).1.divFree p q).1 := (h.divFree ..).divFree ..
  unfold Chip.softStep
  dsimp only
  split
  · exact (((shares ..).want ..).want ..).want ..
  · exact (((shares ..).want ..).want ..).want ..

theorem TickWork.toTrans {b : Chip} (h : TickWork b c) (x : Trans) (i : Nat) : TickWork b (c.toTrans a x i) :=
  (TickWork.softStep c a h x.sector i).setAxis a _ rfl

theorem TickWork.commutate {b : Chip} (h : TickWork b c) (s k : Nat) (backward : Bool) : TickWork b (c.commutate a s k backward) := by
  have past : TickWork b (match (c.axis a).trans with | some x => c.takeSector a x.sector | none => c) := by
    split
    · exact .takeSector c a h _
    · exact h
  exact .ite (.takeSector _ a past _) (.toTrans _ a past ..)

theorem TickWork.atPoint {b : Chip} (h : TickWork b c) (k : Nat) (back : Bool) : TickWork b (c.atPoint a k back) :=
  .ite ((TickWork.takeSector c a h _).setAxis a _ rfl) (.commutate c a h ..)

theorem TickWork.laneAct {b : Chip} (h : TickWork b c) (f : LaneFire) : TickWork b (c.laneAct a f) := by
  have taken : TickWork b (c.setAxis a { c.axis a with lane := (c.axis a).lane.erase f }) := h.setAxis a _ rfl
  unfold Chip.laneAct
  dsimp only
  refine .ite taken (.ite (.atPoint _ a taken ..) ?_)
  split
  · exact taken
  · exact .ite taken (.ite (.toTrans _ a taken ..) (.takeSector _ a taken _))

theorem TickWork.settleLane : TickWork c (c.settleLane a) := .each c _ fun d f _ => .laneAct d a (.refl d) f

theorem TickWork.servoIndex : TickWork c (c.servoIndex a) :=
  .ite (((TickWork.refl c).put _ _ (axisReg_low a rfl)).setAxis a _ rfl) (.refl c)

theorem TickWork.flushStream {b : Chip} (h : TickWork b c) : TickWork b (c.flushStream a) :=
  (((h.put _ _ (axisReg_low a rfl)).put _ _ (axisReg_low a rfl)).put _ _ (axisReg_low a rfl)).setAxis a _ rfl

theorem TickWork.leaveMode {b : Chip} (h : TickWork b c) (homeCode : Nat) : TickWork b (c.leaveMode a homeCode) := by
  have streamed : TickWork b (if c.modeOf a == 3 then c.flushStream a else c) := .ite (.flushStream c a h) h
  have homed {d : Chip} (k : TickWork b d) (p : Prop) [Decidable p] (v : Nat) :
      TickWork b (if p then d.put (AX_MSTAT_HOME a.val) v else d) := .ite (k.put _ _ (axisReg_low a rfl)) k
  exact (homed streamed _ _).setAxis a _ rfl

theorem TickWork.setStart {b : Chip} (h : TickWork b c) (st : Nat) (p : Option StartPlan) : TickWork b (c.setStart a st p) :=
  (h.put _ _ (axisReg_low a rfl)).setAxis a _ rfl

theorem TickWork.endStart {b : Chip} (h : TickWork b c) : TickWork b (c.endStart a) :=
  (TickWork.setStart c a h 0 none).setAxis a _ rfl

theorem TickWork.enterOff {b : Chip} (h : TickWork b c) (homeCode : Nat) : TickWork b (c.enterOff a homeCode) := by
  have left : TickWork b (((c.leaveMode a homeCode).put (AX_MSTAT_MODE a.val) 0).endStart a) :=
    .endStart _ a ((TickWork.leaveMode c a h homeCode).put _ _ (axisReg_low a rfl))
  have series {d : Chip} (k : TickWork b d) : TickWork b (d.each (legsOf a) fun d l => d.newSeries false l) :=
    k.also (Only.each d _ fun e l _ => Only.newSeries e false l)
  have entered {d : Chip} (k : TickWork b d) : TickWork b (d.setAxis a { d.axis a with
      entered := true, entries := (d.axis a).entries + 1, localDue := false, wasStale := false, orderly := false }) := k.setAxis a _ rfl
  exact .ite h (.ite (series (entered left)) (.floatAxis _ a (series (entered left))))

theorem TickWork.staleReaction {b : Chip} (h : TickWork b c) : TickWork b (c.staleReaction a) := by
  have waits {d : Chip} (k : TickWork b d) : TickWork b (d.setAxis a { d.axis a with wasStale := true }) := k.setAxis a _ rfl
  have floats : TickWork b ((c.floatAxis a).endStart a) := .endStart _ a (.floatAxis c a h)
  unfold Chip.staleReaction
  split
  · exact h
  · exact .ite h (waits floats)
  · exact .ite h (waits floats)
  · exact .enterOff c a h 5

theorem TickWork.revSoft {b : Chip} (h : TickWork b c) : TickWork b (c.revSoft a) :=
  .ite ((TickWork.takeSector c a h _).mark _ (axisReg_low a rfl)) h

theorem TickWork.settleGear {b : Chip} (h : TickWork b c) : TickWork b (c.settleGear a) := by
  unfold Chip.settleGear
  dsimp only
  split
  · exact h.setAxis a _ rfl
  · exact h

theorem TickWork.gearStep {b : Chip} (h : TickWork b c) (d : Int) (jump : Bool) : TickWork b (c.gearStep a d jump) := by
  have kept : TickWork b ((c.settleGear a).setAxis a { (c.settleGear a).axis a with
      gearSteps := ((c.settleGear a).axis a).gearSteps ++ [⟨(c.settleGear a).now, d, []⟩] }) := (TickWork.settleGear c a h).setAxis a _ rfl
  have shown := kept.markIf jump (AX_MSTAT_GJUMP a.val) (axisReg_low a rfl)
  exact (((shown.put _ _ (axisReg_low a rfl)).put _ _ (axisReg_low a rfl)).setAxis a _ rfl)

theorem TickWork.axisTick (b : Chip) : TickWork c (Chip.axisTick b c a) := by
  have stale : TickWork c (if c.axisStale a && !b.axisStale a then c.staleReaction a else c) :=
    .ite (.staleReaction c a (.refl c)) (.refl c)
  have turned {d : Chip} (k : TickWork c d) (p : Prop) [Decidable p] : TickWork c (if p then d.revSoft a else d) :=
    .ite (.revSoft d a k) k
  exact .ite (.gearStep _ a (turned stale _) ..) (turned stale _)

/-! ### Legs and buses -/

theorem TickWork.gates {b : Chip} (h : TickWork b c) (l : Leg) (g : Option Gate) : TickWork b (c.gates l g) := h.also (LegAt.gates c l g).only

theorem TickWork.setLeg {b : Chip} (h : TickWork b c) (l : Leg) (x : LegState) : TickWork b (c.setLeg l x) := h.also (.setLeg ..)

theorem TickWork.latchDuty {b : Chip} (h : TickWork b c) (l : Leg) (on : BitVec 17) : TickWork b (c.latchDuty l on) := by
  rcases c.latchDuty_cases l on with ⟨x, latched, -⟩ | ⟨x, -, latched⟩
  · rw [latched]
    exact .setLeg c h l x
  · rw [latched]
    exact .setLeg _ (h.put _ _ (legReg_low l rfl)) l x

theorem TickWork.endRefresh {b : Chip} (h : TickWork b c) (l : Leg) : TickWork b (c.endRefresh l) := by
  have ended : TickWork b (c.setLeg l { c.leg l with refresh := none, heldOn := none }) := .setLeg c h l _
  have rises {d : Chip} (k : TickWork b d) (p : Prop) [Decidable p] : TickWork b (if p then d.gates l (some .high) else d) :=
    .ite (.gates d k l _) k
  unfold Chip.endRefresh
  dsimp only
  split
  · exact .latchDuty _ (rises ended _) l _
  · exact rises ended _

theorem TickWork.legTick (l : Leg) : TickWork c (c.legTick l) := by
  have begun (t : Nat) : TickWork c (c.beginRefresh l t) :=
    .setLeg _ ((TickWork.gates c (.refl c) l (some .low)).bump (LEG_CNT_REFRESH l.val) 1 (legReg_low l rfl)) l _
  unfold Chip.legTick
  dsimp only
  split
  · exact .ite (.setLeg _ (.gates c (.refl c) l none) l _) (.refl c)
  · exact .ite (.endRefresh c (.refl c) l) (.refl c)
  · exact .ite (.ite (.refl c) (begun _)) (.refl c)

theorem TickWork.busTick (r : Region) : TickWork c (c.busTick r) := by
  have timed : TickWork c (if c.flag (BUS_STAT_CHOP_ON r.val) then c.bump (BUS_CHOPT_TICKS r.val) 1 else c) :=
    .ite ((TickWork.refl c).bump _ _ (busReg_low r rfl)) (.refl c)
  exact ((timed.divFree ..).put _ _ (busReg_low r rfl)).also (.setBus ..)

theorem TickWork.loseEntries (l : List EntryIx) : TickWork c (c.loseEntries l) := by
  have pushed (d : Chip) (r : SkipRec) : Only [.cues] d (d.pushSkip r) := .ite (.of_mix rfl) (.of_mix rfl)
  have lost (d : Chip) (k : Nat) : TickWork d (d.cueEccLoss k) :=
    ((TickWork.of_only (Only.of_mix rfl : Only [.cues] d (d.setCue k 0))).also (pushed ..)).raise _
  exact .ite (.each c l fun d k _ => lost d k.val) (.refl c)

end

end Sys2Proof.Machine
end

section
-- One proof after the other: a side goal that `Only` settles by `decide` waits for the kernel, on a thread of its own.
set_option Elab.async false
/-! SUPPORT. The sample of one timebase in a tick, and what the rest of the tick leaves of it; and the statement about one tick of
the wall clock and of the timebases (R2, R28 to R33). -/
namespace Sys2Proof.Machine

/-! ### One timebase, while others are sampled -/

/-- Timebase `n` waits for its sample, or shows it, as before: its value and source, VMAX, STALE and JUMP. -/
structure TbHolds (n : Tb) (b c : Chip) : Prop where
  val : (c.tb n).val = (b.tb n).val
  src : (c.tb n).src = (b.tb n).src
  lost : (c.tb n).lost = (b.tb n).lost
  seeded : (c.tb n).seeded = (b.tb n).seeded
  due : (c.tb n).jumpDue = (b.tb n).jumpDue
  vmax : c.get (CUE_TB_VMAX_VMAX n.val) = b.get (CUE_TB_VMAX_VMAX n.val)
  stale : c.get (CUE_TB_STAT_STALE n.val) = b.get (CUE_TB_STAT_STALE n.val)
  jump : c.get (CUE_TB_STAT_JUMP n.val) = b.get (CUE_TB_STAT_JUMP n.val)

/-- The fields of timebase `n` that a tick's other work leaves. -/
def tbFields (n : Tb) : List Field := [CUE_TB_VMAX_VMAX n.val, CUE_TB_STAT_STALE n.val, CUE_TB_STAT_JUMP n.val]

section
variable (n : Tb) {b c d : Chip}

theorem TbHolds.refl (c : Chip) : TbHolds n c c := ⟨rfl, rfl, rfl, rfl, rfl, rfl, rfl, rfl⟩

theorem TbHolds.trans {n : Tb} (h : TbHolds n b c) (k : TbHolds n c d) : TbHolds n b d :=
  ⟨k.val.trans h.val, k.src.trans h.src, k.lost.trans h.lost, k.seeded.trans h.seeded, k.due.trans h.due, k.vmax.trans h.vmax,
    k.stale.trans h.stale, k.jump.trans h.jump⟩

theorem TbHolds.of_same (tb : c.tb n = b.tb n) (fields : ∀ f ∈ tbFields n, c.get f = b.get f) : TbHolds n b c :=
  ⟨congrArg _ tb, congrArg _ tb, congrArg _ tb, congrArg _ tb, congrArg _ tb, fields _ (by simp [tbFields]), fields _ (by simp [tbFields]),
    fields _ (by simp [tbFields])⟩

theorem TbHolds.ite {n : Tb} {p : Prop} [Decidable p] (hc : TbHolds n b c) (hd : TbHolds n b d) : TbHolds n b (if p then c else d) := by
  split
  · exact hc
  · exact hd

/-- The registers of the timebases. -/
theorem tbFields_addr {f : Field} (hf : f ∈ tbFields n) : f.addr = CUE_TB_VMAX n.val ∨ f.addr = CUE_TB_STAT n.val := by
  simp only [tbFields, List.mem_cons, List.not_mem_nil, or_false] at hf
  rcases hf with rfl | rfl | rfl
  · exact .inl rfl
  · exact .inr rfl
  · exact .inr rfl

theorem TbHolds.of_work (h : TickWork b c) : TbHolds n b c := by
  refine .of_same n (h.only.tb n) fun f hf => h.high.get f ?_
  rcases tbFields_addr n hf with at_ | at_ <;> simp only [at_, CUE_TB_VMAX, CUE_TB_STAT] <;> omega

theorem TbHolds.setTb (m : Tb) {x : TbState} (h : TbHolds n b c) (other : n ≠ m) : TbHolds n b (c.setTb m x) :=
  h.trans (.of_same n (Chip.tb_setTb_ne c m x other) fun _ _ => rfl)

end

/-- What the sample of timebase `m` changes: the timebase and its status, and the work of a tick. -/
structure TbSampled (m : Tb) (b c : Chip) : Prop where
  only : Only (.tbs :: workParts) b c
  high : RegsOf (fun x => 0x120000 ≤ x ∧ x ≠ CUE_TB_STAT m.val) b c
  others : ∀ n, n ≠ m → c.tb n = b.tb n

section
variable {m : Tb} {b c d : Chip}

theorem TbSampled.refl (m : Tb) (c : Chip) : TbSampled m c c := ⟨.refl _ c, .refl _ c, fun _ _ => rfl⟩

theorem TbSampled.work (h : TbSampled m b c) (k : TickWork c d) : TbSampled m b d :=
  ⟨h.only.trans (k.only.mono), h.high.trans ⟨fun x hx => k.high.reg x hx.1⟩, fun n hn => (k.only.tb n).trans (h.others n hn)⟩

theorem TbSampled.setTb (h : TbSampled m b c) (x : TbState) : TbSampled m b (c.setTb m x) :=
  ⟨h.only.then (.setTb ..), h.high.trans (.of_regs rfl), fun n hn => (Chip.tb_setTb_ne c m x hn).trans (h.others n hn)⟩

theorem TbSampled.put (h : TbSampled m b c) {f : Field} (v : Nat) (own : f.addr = CUE_TB_STAT m.val) : TbSampled m b (c.put f v) :=
  ⟨h.only.then (.put ..), h.high.put f v fun hx => hx.2 own, h.others⟩

theorem TbSampled.noteFresh (h : TbSampled m b c) (f : Field) (v : Nat) : TbSampled m b (c.noteFresh f v) :=
  ⟨h.only.then (Only.of_mix rfl : Only [.fresh] _ _), h.high.trans (.of_regs rfl), h.others⟩

theorem TbSampled.mark (h : TbSampled m b c) {f : Field} (own : f.addr = CUE_TB_STAT m.val) : TbSampled m b (c.mark f) := (h.put _ own).noteFresh ..

theorem TbSampled.markIf (h : TbSampled m b c) (x : Bool) {f : Field} (own : f.addr = CUE_TB_STAT m.val) : TbSampled m b (c.markIf x f) := by
  cases x
  · exact h
  · exact h.mark own

theorem TbSampled.ite {p : Prop} [Decidable p] (hc : TbSampled m b c) (hd : TbSampled m b d) : TbSampled m b (if p then c else d) := by
  split
  · exact hc
  · exact hd

/-- The sample of one timebase leaves another one as it is. -/
theorem TbSampled.holds (h : TbSampled m b c) {n : Tb} (other : n ≠ m) : TbHolds n b c := by
  have apart : n.val ≠ m.val := fun e => other (Fin.ext e)
  refine .of_same n (h.others n other) fun f hf => h.high.get f ?_
  rcases tbFields_addr n hf with at_ | at_ <;> simp only [at_, CUE_TB_VMAX, CUE_TB_STAT] <;> omega

end

section
variable (c : Chip) (n : Tb)

/-! ### The sample of one timebase (R28 to R33) -/

theorem Only.rearm : Only [.cues] c (c.rearm n) := .of_mix rfl

theorem TickWork.emuMove (p : Port) (d : Int) : TickWork c (c.emuMove p d) := by
  have moved (x : PortState) (e : Chip) (h : TickWork c e) : TickWork c (e.setPort p x) := h.also (.setPort ..)
  have owed {e : Chip} (h : TickWork c e) (i : Int) : TickWork c (e.add64 (FP_OWED p.val) i) := by
    refine h.trans ⟨(Only.add64 ..).mono, ⟨fun x hx => ?_⟩, fun _ => rfl⟩
    have apart : x ≠ FP_OWED p.val ∧ x ≠ FP_OWED p.val + 4 := by simp only [FP_OWED]; omega
    exact Chip.reg_put64_ne _ _ apart.1 apart.2
  have ends {e : Chip} (h : TickWork c e) : TickWork c (e.lagEnds p) := .ite h (h.put _ _ (portReg_low p rfl))
  exact ends (owed (moved _ _ (moved _ _ (.refl c))) _)

theorem TickWork.emuMoves (d : Int) : TickWork c (c.each (c.emusOf n) fun c p => c.emuMove p d) := .each c _ fun e p _ => .emuMove e p d

theorem TickWork.estimate : TickWork c (c.estimate n).1 := by
  unfold Chip.estimate
  split
  · exact .refl c
  · exact .of_only (.useFree c)

theorem TbSampled.judgeSpeed (e : Int) : TbSampled n c (c.judgeSpeed n e) := by
  have marked : TbSampled n c ((c.setTb n { c.tb n with speed := e, lagging := decide (c.vmax n.val < e.natAbs) }).markIf
      (decide (c.vmax n.val < e.natAbs)) (CUE_TB_STAT_OVS n.val)) := ((TbSampled.refl n c).setTb _).markIf _ rfl
  unfold Chip.judgeSpeed
  dsimp only
  split
  · exact marked.work (.of_only (.raiseIf ..))
  · exact marked

theorem Chip.judgeSpeed_tb (e : Int) : (c.judgeSpeed n e).tb n = { c.tb n with speed := e, lagging := decide (c.vmax n.val < e.natAbs) } := by
  unfold Chip.judgeSpeed
  dsimp only
  split <;> simp only [Chip.tb_raiseIf, Chip.tb_markIf, Chip.tb_setTb]

/-- The timebase with its source's speed of this tick judged. -/
def Chip.judged : Chip := (c.estimate n).1.judgeSpeed n (c.estimate n).2

theorem Chip.sampleTb_lost (h : n.val ≠ 20) (lost : (c.tb n).lost = true) : c.sampleTb n = c.holdTb n :=
  (if_neg h).trans (if_pos (by simp [lost]))

theorem Chip.sampleTb_waits (h : n.val ≠ 20) (unseeded : (c.tb n).seeded = false) : c.sampleTb n = c.holdTb n :=
  (if_neg h).trans (if_pos (by simp [unseeded]))

theorem Chip.sampleTb_goes (h : n.val ≠ 20) (lost : (c.tb n).lost = false) (seeded : (c.tb n).seeded = true) :
    c.sampleTb n = if (c.tb n).jumpDue then (c.judged n).jumpTb n else (c.judged n).moveTb n (c.estimate n).2 :=
  (if_neg h).trans (if_neg (by simp [lost, seeded]))

theorem TbSampled.judged : TbSampled n c (c.judged n) := by
  have guessed := TickWork.estimate c n
  obtain ⟨only, high, others⟩ := TbSampled.judgeSpeed (c.estimate n).1 n (c.estimate n).2
  exact ⟨(guessed.only.mono).trans only, RegsOf.trans ⟨fun x hx => guessed.high.reg x hx.1⟩ high,
    fun k hk => (others k hk).trans (guessed.only.tb k)⟩

theorem Chip.judged_tb : ∃ x y, (c.judged n).tb n = { c.tb n with speed := x, lagging := y } :=
  ⟨_, _, by rw [Chip.judged, Chip.judgeSpeed_tb, (TickWork.estimate c n).only.tb n]⟩

theorem TbSampled.jumpTb : TbSampled n c (c.jumpTb n) :=
  (((((TbSampled.refl n c).setTb _).mark rfl).put 0 rfl).work (.emuMoves _ n _)).work (.of_only (.rearm ..))

theorem TbSampled.moveTb (e : Int) : TbSampled n c (c.moveTb n e) := by
  have turned {d : Chip} (h : TbSampled n c d) (p : Prop) [Decidable p] (x : Bool) :
      TbSampled n c (if p then d else d.putF (CUE_TB_STAT_DIRN n.val) x) := .ite h (h.put _ rfl)
  exact (turned ((TbSampled.refl n c).setTb _) _ _).work (.emuMoves _ n _)

theorem TbSampled.holdTb : TbSampled n c (c.holdTb n) := ((TbSampled.refl n c).put 1 rfl).setTb _

theorem TbSampled.sampleTb : TbSampled n c (c.sampleTb n) := by
  by_cases last : n.val = 20
  · have same : n = 20 := Fin.ext last
    subst same
    have jumps : TbSampled 20 c (((c.markIf (c.tb 20).seeded (CUE_TB_STAT_JUMP 20)).setTb 20 { c.tb 20 with
        prev := BitVec.ofNat 32 c.wall, val := BitVec.ofNat 32 c.wall, jumpDue := false, seeded := true }).rearm 20) :=
      (((TbSampled.refl 20 c).markIf _ rfl).setTb _).work (.of_only (.rearm ..))
    exact .ite jumps ((TbSampled.refl 20 c).setTb _)
  · by_cases lost : (c.tb n).lost = true
    · rw [c.sampleTb_lost n last lost]
      exact .holdTb c n
    by_cases seeded : (c.tb n).seeded = true
    · rw [c.sampleTb_goes n last (by simpa using lost) seeded]
      have first := TbSampled.judged c n
      have go {e : Chip} (k : TbSampled n (c.judged n) e) : TbSampled n c e :=
        ⟨first.only.trans k.only, first.high.trans k.high, fun m hm => (k.others m hm).trans (first.others m hm)⟩
      exact .ite (go (.jumpTb ..)) (go (.moveTb ..))
    · rw [c.sampleTb_waits n last (by simpa using seeded)]
      exact .holdTb c n

/-! ### What the sample shows -/

theorem Chip.holdTb_val : ((c.holdTb n).tb n).val = (c.tb n).val := by
  unfold Chip.holdTb
  rw [Chip.tb_setTb]

theorem Chip.holdTb_stale : (c.holdTb n).get (CUE_TB_STAT_STALE n.val) = 1 := (Chip.setTb_get ..).trans (Chip.get_put_fit _ _ _ rfl)

/-- After a jump: the source's value, JUMP set, STALE cleared (R32). -/
theorem Chip.jumpTb_shows : ((c.jumpTb n).tb n).val = (c.tb n).src ∧ (c.jumpTb n).get (CUE_TB_STAT_JUMP n.val) = 1 ∧
    (c.jumpTb n).get (CUE_TB_STAT_STALE n.val) = 0 := by
  have rest {d : Chip} (k : Int) : TbHolds n d ((d.each (d.emusOf n) fun d p => d.emuMove p k).rearm n) :=
    .of_work n ((TickWork.emuMoves d n k).also (.rearm ..))
  have shown {d : Chip} (v : (d.tb n).val = (c.tb n).src) :
      ((((d.mark (CUE_TB_STAT_JUMP n.val)).put (CUE_TB_STAT_STALE n.val) 0).tb n).val = (c.tb n).src) ∧
      ((d.mark (CUE_TB_STAT_JUMP n.val)).put (CUE_TB_STAT_STALE n.val) 0).get (CUE_TB_STAT_JUMP n.val) = 1 ∧
      ((d.mark (CUE_TB_STAT_JUMP n.val)).put (CUE_TB_STAT_STALE n.val) 0).get (CUE_TB_STAT_STALE n.val) = 0 :=
    ⟨v, (Chip.get_put_beside _ _ _ _ rfl).trans (Chip.get_mark _ _ (Field.ok_of _ rfl)), Chip.get_put_fit _ _ _ rfl⟩
  obtain ⟨val, jump, stale⟩ := shown (d := c.setTb n { c.tb n with
    val := (c.tb n).src, prev := (c.tb n).src, ext := 0, jumpDue := false, holding := false, jumped := true, stepJump := true })
    (congrArg TbState.val (Chip.tb_setTb ..))
  exact ⟨(rest _).val.trans val, (rest _).jump.trans jump, (rest _).stale.trans stale⟩

theorem clampTo_natAbs (v : Nat) (i : Int) : (clampTo (-(v : Int)) v i).natAbs ≤ v := by
  unfold clampTo
  split
  · omega
  · split <;> omega

theorem Chip.tbStep_natAbs (ext : Int) : (c.tbStep n ext).natAbs ≤ c.vmax n.val := by
  have either (p : Prop) [Decidable p] (i : Int) : (if p then 0 else clampTo (-(c.vmax n.val : Int)) (c.vmax n.val) i).natAbs ≤ c.vmax n.val := by
    split
    · exact Nat.zero_le _
    · exact clampTo_natAbs ..
  exact either ..

theorem toInt_add_ofInt_sub (v : BitVec 32) {i : Int} (h : i.natAbs ≤ 0x1FFFFFFF) : ((v + BitVec.ofInt 32 i) - v).toInt = i := by
  rw [BitVec.add_comm, BitVec.add_sub_cancel, BitVec.toInt_ofInt, Int.bmod_def]
  omega

/-- A moving timebase moves by VMAX at most (R29). -/
theorem Chip.moveTb_bound (e : Int) (fits : c.vmax n.val ≤ 0x1FFFFFFF) :
    (((c.moveTb n e).tb n).val - (c.tb n).val).toInt.natAbs ≤ c.vmax n.val := by
  have step := c.tbStep_natAbs n ((c.tb n).ext + e)
  have turned (d : Chip) (p : Prop) [Decidable p] (x : Bool) : (if p then d else d.putF (CUE_TB_STAT_DIRN n.val) x).tb n = d.tb n := by
    split <;> rfl
  have val : ((c.moveTb n e).tb n).val = (c.tb n).val + BitVec.ofInt 32 (c.tbStep n ((c.tb n).ext + e)) := by
    refine (TbHolds.of_work n (TickWork.emuMoves _ n _)).val.trans ?_
    rw [turned, Chip.tb_setTb]
  rw [val, toInt_add_ofInt_sub _ (Nat.le_trans step fits)]
  exact step

theorem Chip.sampleWall_val : (c.sampleWall.tb 20).val = BitVec.ofNat 32 c.wall := by
  unfold Chip.sampleWall
  dsimp only
  split
  · exact congrArg TbState.val (Chip.tb_setTb ..)
  · exact congrArg TbState.val (Chip.tb_setTb ..)

/-- The sample of timebase `n` from state `b`, as `c` shows it (R29, R32, R33). -/
structure Sample (n : Tb) (b c : Chip) : Prop where
  wall : n.val = 20 → (c.tb n).val = BitVec.ofNat 32 b.wall
  held : n.val ≠ 20 → (b.tb n).lost = true → (c.tb n).val = (b.tb n).val ∧ c.get (CUE_TB_STAT_STALE n.val) = 1
  jumped : n.val ≠ 20 → (b.tb n).lost = false → (b.tb n).seeded = true → (b.tb n).jumpDue = true →
    (c.tb n).val = (b.tb n).src ∧ c.get (CUE_TB_STAT_JUMP n.val) = 1 ∧ c.get (CUE_TB_STAT_STALE n.val) = 0
  moved : n.val ≠ 20 → (b.tb n).lost = false → (b.tb n).seeded = true → (b.tb n).jumpDue = false → b.vmax n.val ≤ 0x1FFFFFFF →
    ((c.tb n).val - (b.tb n).val).toInt.natAbs ≤ b.vmax n.val

theorem Chip.vmax_of_get {b c : Chip} {n : Tb} (h : c.get (CUE_TB_VMAX_VMAX n.val) = b.get (CUE_TB_VMAX_VMAX n.val)) :
    c.vmax n.val = b.vmax n.val := by
  unfold Chip.vmax
  rw [h]

theorem Sample.sampleTb : Sample n c (c.sampleTb n) := by
  have judgedVal : ((c.judged n).tb n).val = (c.tb n).val ∧ ((c.judged n).tb n).src = (c.tb n).src := by
    obtain ⟨x, y, tb⟩ := c.judged_tb n
    rw [tb]
    exact ⟨rfl, rfl⟩
  refine ⟨fun last => ?_, fun other lost => ?_, fun other lost seeded due => ?_, fun other lost seeded due fits => ?_⟩
  · have same : n = 20 := Fin.ext last
    subst same
    exact c.sampleWall_val
  · rw [c.sampleTb_lost n other lost]
    exact ⟨c.holdTb_val n, c.holdTb_stale n⟩
  · rw [c.sampleTb_goes n other lost seeded, if_pos due]
    obtain ⟨val, shown⟩ := (c.judged n).jumpTb_shows n
    exact ⟨val.trans judgedVal.2, shown⟩
  · have vmax : (c.judged n).vmax n.val = c.vmax n.val :=
      Chip.vmax_of_get ((TbSampled.judged c n).high.get _
        ⟨by show 0x120000 ≤ CUE_TB_VMAX n.val; simp only [CUE_TB_VMAX]; omega, by show CUE_TB_VMAX n.val ≠ _; simp only [CUE_TB_VMAX, CUE_TB_STAT]; omega⟩)
    have bound := (c.judged n).moveTb_bound n (c.estimate n).2 (vmax ▸ fits)
    rw [judgedVal.1, vmax] at bound
    rw [c.sampleTb_goes n other lost seeded, if_neg (by simp [due])]
    exact bound

/-- A sample taken later shows the same from where the timebase waited as before. -/
theorem Sample.of_holds {n : Tb} {a b c d : Chip} (h : Sample n b c) (before : TbHolds n a b) (wall : b.wall = a.wall) (after : TbHolds n c d) :
    Sample n a d := by
  have vmax := Chip.vmax_of_get before.vmax
  refine ⟨fun last => ?_, fun other lost => ?_, fun other lost seeded due => ?_, fun other lost seeded due fits => ?_⟩
  · rw [after.val, h.wall last, wall]
  · obtain ⟨val, stale⟩ := h.held other (before.lost.trans lost)
    exact ⟨after.val.trans (val.trans before.val), after.stale.trans stale⟩
  · obtain ⟨val, jump, stale⟩ := h.jumped other (before.lost.trans lost) (before.seeded.trans seeded) (before.due.trans due)
    exact ⟨after.val.trans (val.trans before.src), after.jump.trans jump, after.stale.trans stale⟩
  · have bound := h.moved other (before.lost.trans lost) (before.seeded.trans seeded) (before.due.trans due) (vmax ▸ fits)
    rw [after.val, ← before.val, ← vmax]
    exact bound

end

/-! ### The tick around the samples -/

/-- The scanners change the cue sheet's own state and the counts of suppressed crossings, and of a timebase nothing else. -/
structure TickScan (b c : Chip) : Prop where
  only : Only workParts b c
  holds : ∀ n, TbHolds n b c

section
variable {b c d : Chip}

theorem TickScan.refl (c : Chip) : TickScan c c := ⟨.refl _ c, fun n => .refl n c⟩

theorem TickScan.trans (h : TickScan b c) (k : TickScan c d) : TickScan b d := ⟨h.only.trans k.only, fun n => (h.holds n).trans (k.holds n)⟩

theorem TickScan.of_work (h : TickWork b c) : TickScan b c := ⟨h.only, fun n => .of_work n h⟩

theorem TickScan.work (h : TickScan b c) (k : TickWork c d) : TickScan b d := h.trans (.of_work k)

theorem TickScan.ite {p : Prop} [Decidable p] (hc : TickScan b c) (hd : TickScan b d) : TickScan b (if p then c else d) := by
  split
  · exact hc
  · exact hd

theorem TickScan.each {α : Type} {f : Chip → α → Chip} (c : Chip) (xs : List α) (hf : ∀ d, ∀ x ∈ xs, TickScan d (f d x)) :
    TickScan c (c.each xs f) :=
  Chip.each_keeps xs (.refl c) fun d hd x hx => hd.trans (hf d x hx)

/-- A suppressed crossing is counted. -/
theorem TickScan.supp (c : Chip) (m : Tb) : TickScan c (c.bump (CUE_TB_STAT_SUPP m.val) 1) := by
  refine ⟨(Only.bump ..).mono, fun n => .of_same n rfl fun f hf => c.get_put_apart f _ _ ?_ (Field.ok_of _ rfl) ?_⟩
  all_goals
    simp only [tbFields, List.mem_cons, List.not_mem_nil, or_false] at hf
  · rcases hf with rfl | rfl | rfl <;> exact Field.ok_of _ rfl
  · by_cases same : n = m
    · subst same
      rcases hf with rfl | rfl | rfl
      · exact .inl (by show CUE_TB_VMAX n.val ≠ CUE_TB_STAT n.val; simp only [CUE_TB_VMAX, CUE_TB_STAT]; omega)
      · exact Field.apart_of _ _ rfl
      · exact Field.apart_of _ _ rfl
    · have apart : n.val ≠ m.val := fun e => same (Fin.ext e)
      refine .inl ?_
      rcases hf with rfl | rfl | rfl
      · show CUE_TB_VMAX n.val ≠ CUE_TB_STAT m.val
        simp only [CUE_TB_VMAX, CUE_TB_STAT]
        omega
      · show CUE_TB_STAT n.val ≠ CUE_TB_STAT m.val
        simp only [CUE_TB_STAT]
        omega
      · show CUE_TB_STAT n.val ≠ CUE_TB_STAT m.val
        simp only [CUE_TB_STAT]
        omega

end

section
variable (c : Chip)

theorem TickScan.scanLane (a : Axis) (k j : Nat) : TickScan c (c.scanLane a k j) := by
  have marked {d : Chip} (h : TickScan c d) (x : Bool) (id : Nat) :
      TickScan c (d.setAxis a { d.axis a with laneOff := markIndex (d.axis a).laneOff id x }) :=
    h.work ((TickWork.refl d).setAxis a _ rfl)
  have crossed {d : Chip} (h : TickScan c d) (f : LaneFire) : TickScan c (d.setAxis a { d.axis a with lane := (d.axis a).lane ++ [f] }) :=
    h.work ((TickWork.refl d).setAxis a _ rfl)
  have counted (p : Prop) [Decidable p] : TickScan c (if p then c.bump (CUE_TB_STAT_SUPP (tbeOf a).val) 1 else c) :=
    .ite (.supp c _) (.refl c)
  unfold Chip.scanLane
  dsimp only
  exact .ite (marked (.refl c) _ _) (.ite (.ite (crossed (marked (.refl c) _ _) _) (marked (.refl c) _ _))
    (.ite (marked (counted _) _ _) (counted _)))

theorem TickScan.scanBank (a : Axis) : TickScan c (c.scanBank a) :=
  .ite (.refl c) (.each c _ fun d k _ => .each d _ fun e j _ => .scanLane e a k j)

theorem TickScan.scanCue (n : Tb) (x : Nat × BitVec 64) : TickScan c (c.scanCue n x) := by
  have cues {d e : Chip} (h : TickScan c d) (k : Only [.cues] d e) : TickScan c e := h.work (.of_only k)
  have counted (p : Prop) [Decidable p] : TickScan c (if p then c.bump (CUE_TB_STAT_SUPP n.val) 1 else c) := .ite (.supp c _) (.refl c)
  unfold Chip.scanCue
  dsimp only
  exact .ite (.refl c) (.ite (cues (.refl c) (.of_mix rfl)) (.ite (cues (counted _) (.of_mix rfl)) (counted _)))

theorem TickScan.scanCues : TickScan c c.scanCues :=
  .ite (.refl c) (.each c _ fun d _ _ => .each d _ fun e n _ => .each e _ fun f x _ => .scanCue f n x)

/-- What follows the samples in a tick (R46 to R50, R86, R224, R235). -/
theorem TickScan.tickRuns (b : Chip) (l : List EntryIx) : TickScan c
    (((((c.each allAxes fun c a => (Chip.axisTick b c a).scanBank a).each allLegs Chip.legTick).loseEntries l).scanCues).each allRegions Chip.busTick) := by
  have axes : TickScan c (c.each allAxes fun c a => (Chip.axisTick b c a).scanBank a) :=
    .each c _ fun d a _ => (TickScan.of_work (.axisTick d a b)).trans (.scanBank _ a)
  have legs {d : Chip} : TickWork d (d.each allLegs Chip.legTick) := .each d _ fun e l _ => .legTick e l
  have buses {d : Chip} : TickWork d (d.each allRegions Chip.busTick) := .each d _ fun e r _ => .busTick e r
  exact ((((axes.work legs).work (.loseEntries _ l)).trans (.scanCues _)).work buses)

/-- All timebases are sampled, each once. -/
theorem Sample.moveTbs (n : Tb) : Sample n c c.moveTbs ∧ Only (.tbs :: workParts) c c.moveTbs := by
  have stepped (d : Chip) (m k : Tb) : TbHolds k d (d.setTb m { d.tb m with stepJump := false }) := by
    by_cases same : k = m
    · subst same
      refine ⟨?_, ?_, ?_, ?_, ?_, rfl, rfl, rfl⟩ <;> rw [Chip.tb_setTb]
    · exact (TbHolds.refl k d).setTb k m same
  have one (d : Chip) (m : Tb) : Only (.tbs :: workParts) d ((d.setTb m { d.tb m with stepJump := false }).sampleTb m) :=
    ((Only.setTb ..).mono).trans (TbSampled.sampleTb _ m).only
  have other (d : Chip) {m : Tb} (h : n ≠ m) : TbHolds n d ((d.setTb m { d.tb m with stepJump := false }).sampleTb m) :=
    (stepped d m n).trans ((TbSampled.sampleTb _ m).holds h)
  obtain ⟨before, after, all⟩ := List.append_of_mem (List.mem_finRange n)
  have once : (before ++ n :: after).Nodup := all ▸ List.nodup_finRange 21
  have apart := (List.nodup_append.mp once).2.2
  have fresh := (List.nodup_cons.mp (List.nodup_append.mp once).2.1).1
  have first : TbHolds n c (c.each before fun c n => (c.setTb n { c.tb n with stepJump := false }).sampleTb n) :=
    Chip.each_keeps (P := TbHolds n c) before (.refl n c) fun d hd m hm =>
      hd.trans (other d fun e => apart m hm n List.mem_cons_self e.symm)
  have last (d : Chip) : TbHolds n d (d.each after fun c n => (c.setTb n { c.tb n with stepJump := false }).sampleTb n) :=
    Chip.each_keeps (P := TbHolds n d) after (.refl n d) fun e he m hm => he.trans (other e fun same => fresh (same ▸ hm))
  have wall : (c.each before fun c n => (c.setTb n { c.tb n with stepJump := false }).sampleTb n).wall = c.wall :=
    (Only.each c before fun d m _ => one d m).same .wall (by decide)
  refine ⟨?_, .each c _ fun d m _ => one d m⟩
  have shape : c.moveTbs = (((c.each before fun c n => (c.setTb n { c.tb n with stepJump := false }).sampleTb n).setTb n
      { (c.each before fun c n => (c.setTb n { c.tb n with stepJump := false }).sampleTb n).tb n with stepJump := false }).sampleTb n).each after
        fun c n => (c.setTb n { c.tb n with stepJump := false }).sampleTb n := by
    rw [Chip.moveTbs, allTbs, all]
    simp only [Chip.each, List.foldl_append, List.foldl_cons]
  rw [shape]
  exact (Sample.sampleTb _ n).of_holds (first.trans (stepped _ n n)) wall (last _)

end

/-! ### What the ticks before have left (R43, R47, R169) -/

section
variable (c : Chip)

theorem TbHolds.swapActs (n m : Tb) (t : Nat) : TbHolds n c (c.swapActs t m) := by
  have put : TbHolds n c (c.put (CUE_TB_CFG_RUN m.val) (1 - c.runAct m.val)) := by
    refine .of_same n rfl fun f hf => c.get_put_ne _ _ _ ?_
    show f.addr ≠ CUE_TB_CFG m.val
    rcases tbFields_addr n hf with at_ | at_ <;> simp only [at_, CUE_TB_VMAX, CUE_TB_STAT, CUE_TB_CFG] <;> omega
  have set (d : Chip) (x : Option Nat) : TbHolds n d (d.setTb m { d.tb m with swapTick := x }) := by
    by_cases same : n = m
    · subst same
      refine ⟨?_, ?_, ?_, ?_, ?_, rfl, rfl, rfl⟩ <;> rw [Chip.tb_setTb]
    · exact (TbHolds.refl n d).setTb n m same
  have turned (d : Chip) : TbHolds n d (d.rearm m) := .of_same n ((Only.rearm d m).tb n) fun _ _ => rfl
  exact .ite (.refl n c) ((put.trans (set _ _)).trans (turned _))

theorem TbHolds.settleSwaps (n : Tb) : TbHolds n c c.settleSwaps := by
  have swapped : TbHolds n c (c.each (c.cues.fires.filter fun f => cueAction f.cue == 12) Chip.switchFire) :=
    Chip.each_keeps (P := TbHolds n c) _ (.refl n c) fun d hd f _ =>
      Chip.each_keeps (P := TbHolds n c) _ hd fun e he m _ => he.trans (.swapActs e n m f.since)
  exact swapped.trans (.of_same n rfl fun _ _ => rfl)

/-- The sources of other axes stay when one takes its timebases anew. -/
theorem TbHolds.rebase (n : Tb) (a : Axis) (hm : n ≠ tbmOf a) (he : n ≠ tbeOf a) : TbHolds n c (c.rebase a) := by
  have fed {b d : Chip} (h : TbHolds n b d) (m : Tb) (v : BitVec 32) (ne : n ≠ m) : TbHolds n b (d.feed m v false) := h.setTb n m ne
  have axis : TbHolds n c (c.feedAxis a false) := by
    unfold Chip.feedAxis
    dsimp only
    exact .ite (.refl n c) (.ite (.ite (fed (fed (.refl n c) _ _ hm) _ _ he) (.refl n c))
      (.ite (fed (fed (.refl n c) _ _ hm) _ _ he) (.refl n c)))
  refine axis.trans (Chip.each_keeps (P := TbHolds n (c.feedAxis a false)) _ (.refl n _) fun d hd m hm' => ?_)
  have ne : n ≠ m := by
    simp only [List.mem_cons, List.not_mem_nil, or_false] at hm'
    rcases hm' with rfl | rfl
    · exact hm
    · exact he
  exact .ite hd (hd.setTb n m ne)

/-- Only the timebases of axis `a` may move, and no other axis's return to its primary is touched. -/
structure OwnTbs (a : Axis) (b c : Chip) : Prop where
  only : Only (.tbs :: workParts) b c
  holds : ∀ n, n ≠ tbmOf a → n ≠ tbeOf a → TbHolds n b c
  backs : ∀ k, k ≠ a → (c.axis k).backDue = (b.axis k).backDue

theorem OwnTbs.refl (a : Axis) : OwnTbs a c c := ⟨.refl _ c, fun n _ _ => .refl n c, fun _ _ => rfl⟩

theorem OwnTbs.trans {a : Axis} {b c d : Chip} (h : OwnTbs a b c) (k : OwnTbs a c d) : OwnTbs a b d :=
  ⟨h.only.trans k.only, fun n hm he => (h.holds n hm he).trans (k.holds n hm he), fun x ne => (k.backs x ne).trans (h.backs x ne)⟩

theorem OwnTbs.of_work (a : Axis) {b c : Chip} (h : TickWork b c) : OwnTbs a b c :=
  ⟨h.only.mono, fun n _ _ => .of_work n h, fun k _ => h.back k⟩

theorem OwnTbs.rebase (a : Axis) : OwnTbs a c (c.rebase a) :=
  ⟨(Only.rebase c a).mono, fun n hm he => .rebase c n a hm he, fun k _ => congrArg AxisState.backDue ((Only.rebase c a).axis k)⟩

theorem OwnTbs.taken (a : Axis) : OwnTbs a c (c.setAxis a { c.axis a with backDue := none }) :=
  ⟨(Only.setAxis ..).mono, fun n _ _ => .of_same n rfl fun _ _ => rfl, fun _ ne => congrArg AxisState.backDue (Chip.axis_setAxis_ne _ _ _ ne)⟩

theorem OwnTbs.ite {a : Axis} {b c d : Chip} {p : Prop} [Decidable p] (hc : OwnTbs a b c) (hd : OwnTbs a b d) : OwnTbs a b (if p then c else d) := by
  split
  · exact hc
  · exact hd

theorem TickWork.noted (a : Axis) : TickWork c ((c.switchNoted a).switchEndsHome a) := by
  have first : TickWork c (c.switchNoted a) := (TickWork.refl c).setAxis a _ rfl
  exact .ite (.enterOff _ a first 5) first

/-- A due return to the primary (R169). -/
theorem OwnTbs.backNow (a : Axis) : OwnTbs a c (c.backNow a) := by
  have shown (d : Chip) : OwnTbs a d (d.putF (AX_SRCSTAT_ON_SEC a.val) false) := .of_work a ((TickWork.refl d).put _ _ (axisReg_low a rfl))
  have returned {d : Chip} (h : OwnTbs a c d) : OwnTbs a c ((((d.putF (AX_SRCSTAT_ON_SEC a.val) false).rebase a).switchNoted a).switchEndsHome a) :=
    ((h.trans (shown d)).trans (.rebase _ a)).trans (.of_work a (.noted _ a))
  unfold Chip.backNow
  split
  · exact .refl c a
  · exact .ite (.refl c a) (.ite (returned (.taken c a)) (.taken c a))

/-- What earlier ticks have left to the axes leaves a timebase whose axis has no return due. -/
theorem TbHolds.axesDue (n : Tb) (quiet : c.quietTb n) :
    TbHolds n c (c.each allAxes Chip.axisDue) ∧ Only (.tbs :: workParts) c (c.each allAxes Chip.axisDue) := by
  have early (d : Chip) (a : Axis) : TickWork d ((d.servoIndex a).settleLane a) := (TickWork.servoIndex d a).trans (.settleLane _ a)
  have only (d : Chip) (a : Axis) : Only (.tbs :: workParts) d (d.axisDue a) :=
    ((early d a).only.mono).trans (OwnTbs.backNow _ a).only
  refine ⟨?_, .each c _ fun d a _ => only d a⟩
  refine (Chip.each_keeps (P := fun d => TbHolds n c d ∧ ∀ a, tbAxis n = some a → (d.axis a).backDue = none) allAxes
    ⟨.refl n c, fun a own => (quiet a own).2⟩ fun d hd a _ => ?_).1
  obtain ⟨holds, noBack⟩ := hd
  have worked := early d a
  obtain ⟨-, leaves, backs⟩ := OwnTbs.backNow ((d.servoIndex a).settleLane a) a
  by_cases own : tbAxis n = some a
  · have none_ : (((d.servoIndex a).settleLane a).axis a).backDue = none := (worked.back a).trans (noBack a own)
    have idle : d.axisDue a = (d.servoIndex a).settleLane a := by
      rw [Chip.axisDue, Chip.backNow, none_]
    rw [idle]
    exact ⟨holds.trans (.of_work n worked), fun k hk => (worked.back k).trans (noBack k hk)⟩
  · have ne : n ≠ tbmOf a ∧ n ≠ tbeOf a := by
      constructor
      · rintro rfl
        exact own ((if_pos (by show a.val < 16; omega)).trans (congrArg some (Fin.ext (Nat.mod_eq_of_lt a.isLt))))
      · rintro rfl
        exact own ((if_pos (by show 8 + a.val < 16; omega)).trans (congrArg some (Fin.ext (by show (8 + a.val) % 8 = a.val; omega))))
    refine ⟨(holds.trans (.of_work n worked)).trans (leaves n ne.1 ne.2), fun k hk => ?_⟩
    have other : k ≠ a := fun e => own (e ▸ hk)
    exact (backs k other).trans ((worked.back k).trans (noBack k hk))

/-- The parts that a tick may change. -/
def tickParts : List Part := .wall :: .now :: .tickRegs :: .tbs :: workParts

/-- One tick without a transition of power: each timebase that nothing else moves takes its sample. -/
theorem Chip.tick_samples (l : List EntryIx) (runs : c.clockRuns = true) (still : c.pwrDue = none) :
    Only tickParts c (c.tick l) ∧ (c.tick l).wall = c.wall + 1 ∧ (c.tick l).now = c.now + 1 ∧
      ∀ n, c.quietTb n → ∃ d : Chip, d.wall = c.wall + 1 ∧ TbHolds n c d ∧ Sample n d (c.tick l) := by
  have swaps := Only.settleSwaps c
  have noMove : c.settleSwaps.nextTick.pwrSettle = c.settleSwaps.nextTick := by
    have none_ : c.settleSwaps.nextTick.pwrDue = none := Eq.trans (swaps.same .pwrDue (by decide)) still
    rw [Chip.pwrSettle, none_]
  have ticks : c.tick l = c.settleSwaps.nextTick.tickRuns l := by
    rw [Chip.tick, if_neg (by simp [runs]), noMove]
  have next : Only tickParts c c.settleSwaps.nextTick := (swaps.mono).then (Only.of_mix rfl : Only [.wall, .now, .tickRegs, .fresh] _ _)
  have wall : c.settleSwaps.nextTick.wall = c.wall + 1 := congrArg (· + 1) (swaps.same .wall (by decide))
  have now : c.settleSwaps.nextTick.now = c.now + 1 := congrArg (· + 1) (swaps.same .now (by decide))
  have began (n : Tb) : TbHolds n c c.settleSwaps.nextTick := (TbHolds.settleSwaps c n).trans (.of_same n rfl fun _ _ => rfl)
  have axes (a : Axis) : c.settleSwaps.nextTick.axis a = c.axis a := swaps.axis a
  rw [ticks]
  generalize c.settleSwaps.nextTick = b at *
  have due : Only (.tbs :: workParts) b (b.each allAxes Chip.axisDue) := .each b _ fun d a _ =>
    (((TickWork.servoIndex d a).trans (.settleLane _ a)).only.mono).trans (OwnTbs.backNow _ a).only
  have rest := TickScan.tickRuns (b.each allAxes Chip.axisDue).moveTbs (b.each allAxes Chip.axisDue) l
  have sampled := (Sample.moveTbs (b.each allAxes Chip.axisDue) 20).2
  have run : Only (.tbs :: workParts) b (b.tickRuns l) := (due.trans sampled).trans (rest.only.mono)
  refine ⟨next.trans (run.mono), Eq.trans (run.same .wall (by decide)) wall, Eq.trans (run.same .now (by decide)) now, fun n quiet => ?_⟩
  have waits : b.quietTb n := fun a own => by
    rw [axes a]
    exact quiet a own
  have sample := (Sample.moveTbs (b.each allAxes Chip.axisDue) n).1.of_holds (.refl n _) rfl (rest.holds n)
  exact ⟨b.each allAxes Chip.axisDue, Eq.trans (due.same .wall (by decide)) wall, (began n).trans (TbHolds.axesDue b n waits).1, sample⟩

/-- TB20 has no axis. -/
theorem Chip.quietTb_wall : c.quietTb 20 := fun _ own => by cases own

end

end Sys2Proof.Machine

open Sys2Proof.Machine

/-- Settles O8: every timebase is sampled once in a tick, and what surrounds the samples leaves them. -/
theorem timebasesTick : Obligations.TimebasesTick := by
  refine ⟨fun s l runs still => ?_, fun s l stands => ?_⟩
  · obtain ⟨only, wall, now, samples⟩ := s.chip.tick_samples l runs still
    refine completes_of_run (fun c => c.tick l) rfl rfl ⟨wall, now, ?_, fun n other quiet lost => ?_, fun n other quiet lost seeded due => ?_,
      fun n other quiet lost seeded due fits => ?_, only.same .nvc (by decide), only.same .hp (by decide), only.same .can (by decide),
      only.same .rng (by decide), only.same .load (by decide), only.same .hks (by decide), only.same .slices (by decide)⟩
    · obtain ⟨d, dWall, -, sample⟩ := samples 20 s.chip.quietTb_wall
      rw [sample.wall rfl, dWall]
    · obtain ⟨d, -, holds, sample⟩ := samples n quiet
      obtain ⟨val, stale⟩ := sample.held other (holds.lost.trans lost)
      exact ⟨val.trans holds.val, Chip.flag_one stale⟩
    · obtain ⟨d, -, holds, sample⟩ := samples n quiet
      obtain ⟨val, jump, stale⟩ := sample.jumped other (holds.lost.trans lost) (holds.seeded.trans seeded) (holds.due.trans due)
      exact ⟨val.trans holds.src, jump, Chip.flag_zero stale⟩
    · obtain ⟨d, -, holds, sample⟩ := samples n quiet
      have vmax := Chip.vmax_of_get holds.vmax
      have bound := sample.moved other (holds.lost.trans lost) (holds.seeded.trans seeded) (holds.due.trans due) (vmax ▸ fits)
      rw [holds.val, vmax] at bound
      exact bound
  · exact idles_of_run (fun c => c.tick l) rfl (if_pos (by simp [stands]))
end

section
-- One proof after the other: a side goal that `Only` settles by `decide` waits for the kernel, on a thread of its own.
set_option Elab.async false
/-! SUPPORT. The edge ledgers of a group through a tick in which its counting lines change; and the statement about booked edges
(R134 to R139). -/
namespace Sys2Proof.Machine

/-! ### The ledgers of the ports -/

/-- Where the ledgers of edges stand: LMF, LMB, LEF, LIL and LTOT of every port. -/
def IsLedger (x : Nat) : Prop :=
  0x0B0000 ≤ x ∧ x < 0x0B2000 ∧ (0x20 ≤ x % 0x100 ∧ x % 0x100 < 0x40 ∨ 0x48 ≤ x % 0x100 ∧ x % 0x100 < 0x50)

/-- The ledgers of port `p` that divide its total. -/
def ledgers (p : Port) : List Nat := [FP_LMF p.val, FP_LMB p.val, FP_LEF p.val, FP_LIL p.val]

theorem RegsOf.mono {P Q : Nat → Prop} {b c : Chip} (h : RegsOf P b c) (hQ : ∀ x, Q x → P x) : RegsOf Q b c := ⟨fun x hx => h.reg x (hQ x hx)⟩

theorem IsLedger.not_delivered {x : Nat} (h : IsLedger x) : ¬ Delivered x := by
  rintro (⟨n, rfl⟩ | ⟨a, rfl⟩ | ⟨p, rfl⟩)
  · simp only [IsLedger, CUE_TB_STAT] at h
    omega
  · simp only [IsLedger, AX_SRCSTAT] at h
    omega
  · simp only [IsLedger, FP_STAT] at h
    omega

theorem isLedger_total (p : Port) : IsLedger (FP_LTOT p.val) ∧ IsLedger (FP_LTOT p.val + 4) := by
  simp only [IsLedger, FP_LTOT]
  omega

theorem isLedger_of_mem {p : Port} {a : Nat} (h : a ∈ ledgers p) : IsLedger a ∧ IsLedger (a + 4) := by
  simp only [ledgers, List.mem_cons, List.not_mem_nil, or_false, FP_LMF, FP_LMB, FP_LEF, FP_LIL] at h
  simp only [IsLedger]
  omega

/-- Unchanged ledgers read the same. -/
theorem RegsOf.get64 {b c : Chip} (h : RegsOf IsLedger b c) {a : Nat} (ha : IsLedger a ∧ IsLedger (a + 4)) : c.get64 a = b.get64 a :=
  Chip.get64_congr (h.reg a ha.1) (h.reg (a + 4) ha.2)

theorem RegsOf.edgeLaw {b c : Chip} (h : RegsOf IsLedger b c) (p : Port) (law : b.edgeLaw p) : c.edgeLaw p := by
  have same {a : Nat} (ha : a ∈ ledgers p) : c.get64 a = b.get64 a := h.get64 (isLedger_of_mem ha)
  unfold Chip.edgeLaw at law ⊢
  rw [h.get64 (isLedger_total p), same (a := FP_LMF p.val) (by simp [ledgers]), same (a := FP_LMB p.val) (by simp [ledgers]),
    same (a := FP_LEF p.val) (by simp [ledgers]), same (a := FP_LIL p.val) (by simp [ledgers])]
  exact law

section
variable (c : Chip) (p : Port) (n : Nat)

theorem Chip.add64_get64 (a : Nat) : (c.add64 a n).get64 a = (c.get64 a + n) % 2 ^ 64 := by
  rw [Chip.add64, Chip.get64_put64]
  exact wrapTo_natCast 64 (c.get64 a + n)

theorem Chip.add64_get64_ne {a k : Nat} (apart : k ≠ a ∧ k ≠ a + 4 ∧ k + 4 ≠ a) (i : Int) : (c.add64 a i).get64 k = c.get64 k :=
  Chip.get64_congr (Chip.reg_put64_ne _ _ apart.1 apart.2.1) (Chip.reg_put64_ne _ _ apart.2.2 fun e => apart.1 (Nat.add_right_cancel e))

/-- The chip with `n` edges in the total and in one ledger. -/
def Chip.entered (a : Nat) : Chip := (c.add64 (FP_LTOT p.val) n).add64 a n

theorem Chip.entered_total {a : Nat} (ha : a ∈ ledgers p) :
    (c.entered p n a).get64 (FP_LTOT p.val) = (c.get64 (FP_LTOT p.val) + n) % 2 ^ 64 := by
  have apart : FP_LTOT p.val ≠ a ∧ FP_LTOT p.val ≠ a + 4 ∧ FP_LTOT p.val + 4 ≠ a := by
    simp only [ledgers, List.mem_cons, List.not_mem_nil, or_false, FP_LMF, FP_LMB, FP_LEF, FP_LIL] at ha
    simp only [FP_LTOT]
    omega
  exact (Chip.add64_get64_ne _ apart _).trans (c.add64_get64 n _)

theorem Chip.entered_ledger {a k : Nat} (ha : a ∈ ledgers p) (hk : k ∈ ledgers p) :
    (c.entered p n a).get64 k = if k = a then (c.get64 k + n) % 2 ^ 64 else c.get64 k := by
  have apart : k ≠ FP_LTOT p.val ∧ k ≠ FP_LTOT p.val + 4 ∧ k + 4 ≠ FP_LTOT p.val := by
    simp only [ledgers, List.mem_cons, List.not_mem_nil, or_false, FP_LMF, FP_LMB, FP_LEF, FP_LIL] at hk
    simp only [FP_LTOT]
    omega
  have total := c.add64_get64_ne apart n
  split
  next same =>
    subst same
    exact (Chip.add64_get64 _ n k).trans (by rw [total])
  next other =>
    have apart : k ≠ a ∧ k ≠ a + 4 ∧ k + 4 ≠ a := by
      simp only [ledgers, List.mem_cons, List.not_mem_nil, or_false, FP_LMF, FP_LMB, FP_LEF, FP_LIL] at ha hk
      omega
    exact (Chip.add64_get64_ne _ apart _).trans total

/-- What enters the total and one ledger keeps the law of the ledgers (R139). -/
theorem Chip.entered_law {a : Nat} (ha : a ∈ ledgers p) (law : c.edgeLaw p) : (c.entered p n a).edgeLaw p := by
  have entry {k : Nat} (hk : k ∈ ledgers p) := c.entered_ledger p n ha hk
  have four : a = FP_LMF p.val ∨ a = FP_LMB p.val ∨ a = FP_LEF p.val ∨ a = FP_LIL p.val := by simpa [ledgers] using ha
  unfold Chip.edgeLaw at law ⊢
  rw [c.entered_total p n ha, entry (k := FP_LMF p.val) (by simp [ledgers]), entry (k := FP_LMB p.val) (by simp [ledgers]),
    entry (k := FP_LEF p.val) (by simp [ledgers]), entry (k := FP_LIL p.val) (by simp [ledgers])]
  rcases four with rfl | rfl | rfl | rfl <;>
    simp only [FP_LMF, FP_LMB, FP_LEF, FP_LIL, Nat.add_right_cancel_iff, Nat.reduceEqDiff, ↓reduceIte] at law ⊢ <;> omega

/-- Registers beside the total and the ledger. -/
theorem Chip.entered_reg {a x : Nat} (apart : x ≠ FP_LTOT p.val ∧ x ≠ FP_LTOT p.val + 4 ∧ x ≠ a ∧ x ≠ a + 4) :
    (c.entered p n a).reg x = c.reg x :=
  (Chip.reg_put64_ne _ _ apart.2.2.1 apart.2.2.2).trans (Chip.reg_put64_ne _ _ apart.1 apart.2.1)

theorem Chip.entered_others {a : Nat} (ha : a ∈ ledgers p) {q : Port} (other : q ≠ p) :
    (c.entered p n a).get64 (FP_LTOT q.val) = c.get64 (FP_LTOT q.val) := by
  have ne : q.val ≠ p.val := fun e => other (Fin.ext e)
  simp only [ledgers, List.mem_cons, List.not_mem_nil, or_false, FP_LMF, FP_LMB, FP_LEF, FP_LIL] at ha
  refine Chip.get64_congr (c.entered_reg p n ?_) (c.entered_reg p n ?_) <;> (simp only [FP_LTOT]; omega)

theorem Only.entered (a : Nat) : Only [.regs] c (c.entered p n a) := (Only.add64 ..).trans (.add64 ..)

/-! ### Booking (R134 to R138) -/

/-- The count and the turns after a move by `d`. -/
def Chip.counted (d : Int) : Chip :=
  let cpr : Int := c.get (FP_CPR_CPR p.val)
  let v := (c.get (FP_POS_COUNT p.val) : Int) + d
  (c.put (FP_POS_COUNT p.val) (v % cpr).toNat).addWrap (FP_REV_REV p.val) (v / cpr)

/-- A move changes the count, and besides it the unwrapped count of a master at most. -/
theorem Chip.moveCount_cases (d : Int) : c.moveCount p d = c.counted p d ∨ ∃ n x, c.moveCount p d = (c.counted p d).setTb n x := by
  have shape : c.moveCount p d = match (c.counted p d).masterOf p with
    | some n => if ((c.counted p d).tb n).uStarted then
        (c.counted p d).setTb n { (c.counted p d).tb n with unwrapped := ((c.counted p d).tb n).unwrapped + d } else c.counted p d
    | none => c.counted p d := rfl
  rw [shape]
  split
  · split
    · exact .inr ⟨_, _, rfl⟩
    · exact .inl rfl
  · exact .inl rfl

theorem Only.counted (d : Int) : Only [.regs] c (c.counted p d) := (Only.put ..).trans (.addWrap ..)

theorem RegsBut.counted (d : Int) : RegsBut [FP_POS p.val, FP_REV p.val] c (c.counted p d) :=
  ((RegsBut.refl [FP_POS p.val, FP_REV p.val] c).put (FP_POS_COUNT p.val) _ List.mem_cons_self).put (FP_REV_REV p.val) _
    (List.mem_cons_of_mem _ List.mem_cons_self)

theorem Chip.counted_count (d : Int) : (c.counted p d).get (FP_POS_COUNT p.val) =
    (((c.get (FP_POS_COUNT p.val) : Int) + d) % (c.get (FP_CPR_CPR p.val) : Int)).toNat % 2 ^ 24 := by
  have apart : (FP_POS_COUNT p.val).addr ≠ (FP_REV_REV p.val).addr := by
    show FP_POS p.val ≠ FP_REV p.val
    simp only [FP_POS, FP_REV]
    omega
  exact (Chip.get_put_ne _ _ _ _ apart).trans (c.get_put (FP_POS_COUNT p.val) (Field.ok_of _ rfl) _)

theorem Only.moveCount (d : Int) : Only [.regs, .tbs] c (c.moveCount p d) := by
  have counted : Only [.regs, .tbs] c (c.counted p d) := (Only.counted c p d).mono
  rcases c.moveCount_cases p d with same | ⟨n, x, moved⟩
  · rw [same]
    exact counted
  · rw [moved]
    exact counted.then (.setTb ..)

theorem Chip.moveCount_regs (d : Int) : (c.moveCount p d).regs = (c.counted p d).regs := by
  rcases c.moveCount_cases p d with same | ⟨n, x, moved⟩
  · rw [same]
  · rw [moved, Chip.setTb_regs]

theorem RegsBut.moveCount (d : Int) : RegsBut [FP_POS p.val, FP_REV p.val] c (c.moveCount p d) :=
  (RegsBut.counted c p d).of_regs (c.moveCount_regs p d)

theorem Chip.moveCount_count (d : Int) : (c.moveCount p d).get (FP_POS_COUNT p.val) =
    (((c.get (FP_POS_COUNT p.val) : Int) + d) % (c.get (FP_CPR_CPR p.val) : Int)).toNat % 2 ^ 24 :=
  (Chip.get_of_regs (c.moveCount_regs p d) _).trans (c.counted_count p d)

theorem Only.noteHallEdge (b : Chip) (d : Int) : Only [.axes] c (c.noteHallEdge b p d) := .each c _ fun _ _ _ => .setAxis ..

/-- The parts that booking, delivery and the index may change. -/
def edgeParts : List Part := [.regs, .fresh, .tbs, .axes, .faults, .ports]

/-- The ways in which the edges of a tick are booked. -/
theorem Chip.bookEdges_cases {P : Chip → Prop} (old new : BitVec 3)
    (motion : ∀ d, n = 1 → P ((c.add64 (FP_LTOT p.val) n).bookMotion p d))
    (illegal : P ((c.add64 (FP_LTOT p.val) n).bookIllegal p n)) (fault : P ((c.add64 (FP_LTOT p.val) n).bookFault p n)) :
    P (c.bookEdges p old new n) := by
  unfold Chip.bookEdges
  dsimp only
  split
  · split
    next h =>
      have one : n = 1 := by
        simp only [Bool.and_eq_true, decide_eq_true_eq] at h
        exact h.1
      rw [one] at illegal ⊢
      exact illegal
    · split
      next d _ =>
        split
        next h =>
          simp only [Bool.and_eq_true, decide_eq_true_eq] at h
          exact motion d h.1
        · exact fault
      · exact fault
  · split
    next d _ =>
      split
      next h => exact motion d h
      · exact illegal
    · exact illegal

/-- Edges are booked in the total and in one ledger, and the port's lines stay until they are taken. -/
structure Booked (b c : Chip) : Prop where
  only : Only edgeParts b c
  entered : ∃ a ∈ ledgers p, RegsOf IsLedger (b.entered p n a) c

theorem not_isLedger {x : Nat} (h : x = FP_POS p.val ∨ x = FP_REV p.val ∨ x = FP_STAT p.val ∨ x = FP_IDXDEV p.val ∨ x = FP_IDXPOS p.val ∨
    x = FP_LIC p.val ∨ x = FP_LIC p.val + 4) : ¬ IsLedger x := by
  simp only [FP_POS, FP_REV, FP_STAT, FP_IDXDEV, FP_IDXPOS, FP_LIC] at h
  simp only [IsLedger]
  omega

theorem RegsOf.moveCount (d : Int) : RegsOf IsLedger c (c.moveCount p d) := by
  refine .of_regsBut (RegsBut.moveCount c p d) fun x hx => not_isLedger p ?_
  simp only [List.mem_cons, List.not_mem_nil, or_false] at hx
  omega

theorem Only.bookMotion (d : Int) : Only [.regs, .tbs, .axes] c (c.bookMotion p d) :=
  ((((Only.add64 ..).mono : Only [.regs, .tbs, .axes] _ _).then (.moveCount ..)).then (.noteHallEdge ..))

theorem RegsOf.bookMotion (d : Int) : RegsOf IsLedger (c.add64 (if d < 0 then FP_LMB p.val else FP_LMF p.val) 1) (c.bookMotion p d) :=
  (RegsOf.moveCount _ p d).trans (.of_regs ((Only.noteHallEdge _ p c d).same .regs (by decide)))

theorem Only.bookIllegal : Only [.regs, .fresh, .ports] c (c.bookIllegal p n) :=
  (((Only.add64 ..).mono : Only [.regs, .fresh, .ports] _ _).then (.mark ..)).then (.setPort ..)

theorem RegsOf.bookIllegal : RegsOf IsLedger (c.add64 (FP_LIL p.val) n) (c.bookIllegal p n) :=
  ((RegsOf.refl IsLedger _).put (FP_STAT_ILLEGAL p.val) _ (not_isLedger p (.inr (.inr (.inl rfl))))).trans (.of_regs rfl)

theorem Only.bookFault : Only [.regs, .fresh, .faults] c (c.bookFault p n) :=
  (((Only.add64 ..).mono : Only [.regs, .fresh, .faults] _ _).then (.mark ..)).then (.report ..)

theorem RegsOf.bookFault : RegsOf IsLedger (c.add64 (FP_LEF p.val) n) (c.bookFault p n) :=
  ((RegsOf.refl IsLedger _).put (FP_STAT_EDGE p.val) _ (not_isLedger p (.inr (.inr (.inl rfl))))).trans
    (.of_regs ((Only.report ..).same .regs (by decide)))

theorem Booked.bookEdges (old new : BitVec 3) : Booked p n c (c.bookEdges p old new n) := by
  have total : Only edgeParts c (c.add64 (FP_LTOT p.val) n) := (Only.add64 ..).mono
  refine c.bookEdges_cases p n (P := Booked p n c) old new (fun d one => ?_) ?_ ?_
  · refine ⟨total.then (.bookMotion _ p d), if d < 0 then FP_LMB p.val else FP_LMF p.val, ?_, ?_⟩
    · split <;> simp [ledgers]
    · subst one
      exact .bookMotion ..
  · exact ⟨total.then (.bookIllegal _ p n), FP_LIL p.val, by simp [ledgers], .bookIllegal ..⟩
  · exact ⟨total.then (.bookFault _ p n), FP_LEF p.val, by simp [ledgers], .bookFault ..⟩

end

end Sys2Proof.Machine
end

section
-- One proof after the other: a side goal that `Only` settles by `decide` waits for the kernel, on a thread of its own.
set_option Elab.async false
/-! SUPPORT. The delivery and the index after booked edges, and the statement about booked edges (R134 to R143). -/
namespace Sys2Proof.Machine

section
variable (c : Chip) (p : Port)

/-! ### Delivery and the index (R130, R141, R142) -/

/-- The lines of a port as booking finds them: their levels, their latest edge and what is known of them. -/
structure LinesKept (b c : Chip) : Prop where
  lines : (c.port p).lines = (b.port p).lines
  known : (c.port p).linesKnown = (b.port p).linesKnown
  edge : (c.port p).lastEdge = (b.port p).lastEdge

theorem LinesKept.refl : LinesKept p c c := ⟨rfl, rfl, rfl⟩

theorem LinesKept.trans {p : Port} {b c d : Chip} (h : LinesKept p b c) (k : LinesKept p c d) : LinesKept p b d :=
  ⟨k.lines.trans h.lines, k.known.trans h.known, k.edge.trans h.edge⟩

theorem LinesKept.of_only {l : List Part} {b c : Chip} (h : Only l b c) (hl : Part.ports ∉ l := by decide) : LinesKept p b c :=
  ⟨congrArg PortState.lines (h.port p hl), congrArg PortState.linesKnown (h.port p hl), congrArg PortState.lastEdge (h.port p hl)⟩

theorem LinesKept.setPort {x : PortState} (lines : x.lines = (c.port p).lines) (known : x.linesKnown = (c.port p).linesKnown)
    (edge : x.lastEdge = (c.port p).lastEdge) : LinesKept p c (c.setPort p x) := by
  refine ⟨?_, ?_, ?_⟩ <;> rw [Chip.port_setPort] <;> assumption

theorem RegsBut.deliver (motion : Bool) : RegsBut ([16, 17, 18, 19].map CUE_TB_STAT) c (c.deliver p motion) := by
  have fed (n : Tb) (h : c.masterOf p = some n) : RegsBut ([16, 17, 18, 19].map CUE_TB_STAT) c (c.feedMaster p n motion) := by
    obtain ⟨low, high⟩ := c.masterOf_range p h
    have own : CUE_TB_STAT n.val ∈ [16, 17, 18, 19].map CUE_TB_STAT := by
      have : n.val = 16 ∨ n.val = 17 ∨ n.val = 18 ∨ n.val = 19 := by omega
      rcases this with e | e | e | e <;> rw [e] <;> simp
    unfold Chip.feedMaster
    dsimp only
    split
    · exact RegsBut.refl _ c
    split
    · exact ((RegsBut.refl _ c).markIf _ _ own).of_regs ((Only.feed ..).same .regs (by decide))
    · exact (RegsBut.refl _ c).of_regs ((Only.feed ..).same .regs (by decide))
  have master : RegsBut ([16, 17, 18, 19].map CUE_TB_STAT) c (match c.masterOf p with | some n => c.feedMaster p n motion | none => c) := by
    split
    next n h => exact fed n h
    next => exact RegsBut.refl _ c
  have axes (d : Chip) (l : List Axis) : Only [.tbs] d (d.each l fun c a => c.feedAxis a motion) := .each _ _ fun _ _ _ => .feedAxis ..
  have told {d : Chip} (h : RegsBut ([16, 17, 18, 19].map CUE_TB_STAT) c d) : RegsBut ([16, 17, 18, 19].map CUE_TB_STAT) c
      (if d.portState p = 1 then d.each (d.axesOfPort p) fun c a => c.feedAxis a motion else d) := by
    split
    · exact h.of_regs ((axes _ _).same .regs (by decide))
    · exact h
  exact told master

/-- What a port's fault leaves: no ledger is touched, and no port. -/
theorem RegsOf.portFault {flag : Field} (here : flag.addr = FP_STAT p.val) : RegsOf IsLedger c (c.portFault p flag) := by
  have stat : ¬ IsLedger (FP_STAT p.val) := not_isLedger p (.inr (.inr (.inl rfl)))
  have marked : RegsOf IsLedger c ((c.mark flag).raise (srcPort p)) :=
    ((RegsOf.refl IsLedger c).put flag _ (here ▸ stat)).trans (.of_regs rfl)
  have faulty : RegsOf IsLedger c (((c.mark flag).raise (srcPort p)).put (FP_STAT_FAULTY p.val) 1) := marked.put _ 1 stat
  unfold Chip.portFault
  exact Chip.makeFaulty_cases _ p (P := RegsOf IsLedger c) (fun _ => faulty)
    fun _ => faulty.trans ((RegsOf.setPortState _ p 3).mono fun x hx => hx.not_delivered)

/-- What an index event may change (R141, R142). -/
structure IndexFrame (b c : Chip) : Prop where
  only : Only edgeParts b c
  ledgers : RegsOf IsLedger b c
  lines : LinesKept p b c

theorem IndexFrame.refl : IndexFrame p c c := ⟨.refl _ c, .refl _ c, .refl c p⟩

theorem IndexFrame.trans {p : Port} {b c d : Chip} (h : IndexFrame p b c) (k : IndexFrame p c d) : IndexFrame p b d :=
  ⟨h.only.trans k.only, h.ledgers.trans k.ledgers, h.lines.trans k.lines⟩

theorem IndexFrame.setPort {x : PortState} (lines : x.lines = (c.port p).lines) (known : x.linesKnown = (c.port p).linesKnown)
    (edge : x.lastEdge = (c.port p).lastEdge) : IndexFrame p c (c.setPort p x) :=
  ⟨(Only.setPort ..).mono, .of_regs rfl, .setPort c p lines known edge⟩

theorem IndexFrame.put {f : Field} (v : Nat) (out : ¬ IsLedger f.addr) : IndexFrame p c (c.put f v) :=
  ⟨(Only.put ..).mono, (RegsOf.refl _ c).put f v out, .of_only p (Only.put c f v)⟩

theorem IndexFrame.add64 (i : Int) : IndexFrame p c (c.add64 (FP_LIC p.val) i) := by
  refine ⟨(Only.add64 ..).mono, ⟨fun x hx => ?_⟩, .of_only p (Only.add64 ..)⟩
  refine Chip.reg_put64_ne _ _ (fun e => ?_) fun e => ?_
  · exact not_isLedger p (.inr (.inr (.inr (.inr (.inr (.inl e)))))) hx
  · exact not_isLedger p (.inr (.inr (.inr (.inr (.inr (.inr e)))))) hx

theorem IndexFrame.mark {f : Field} (out : ¬ IsLedger f.addr) : IndexFrame p c (c.mark f) :=
  ⟨(Only.mark ..).mono, ((RegsOf.refl _ c).put f _ out).trans (.of_regs rfl), .of_only p (Only.mark ..)⟩

theorem IndexFrame.moveCount (d : Int) : IndexFrame p c (c.moveCount p d) :=
  ⟨(Only.moveCount ..).mono, .moveCount c p d, .of_only p (Only.moveCount ..)⟩

theorem IndexFrame.deliver (motion : Bool) : IndexFrame p c (c.deliver p motion) :=
  ⟨(Only.deliver ..).mono, (RegsOf.deliver c p motion).mono fun x hx => hx.not_delivered, .of_only p (Only.deliver ..)⟩

theorem IndexFrame.deliverJump : IndexFrame p c (c.deliverJump p) :=
  ⟨(Only.deliverJump ..).mono, (RegsOf.deliverJump c p).mono fun x hx => hx.not_delivered, .of_only p (Only.deliverJump ..)⟩

theorem IndexFrame.portFault {flag : Field} (here : flag.addr = FP_STAT p.val) : IndexFrame p c (c.portFault p flag) :=
  ⟨(Only.portFault ..).mono, .portFault c p here, .of_only p (Only.portFault ..)⟩

theorem IndexFrame.indexCheck : IndexFrame p c (c.indexCheck p) := by
  have shown (d : Int) : IndexFrame p c ((c.puts (FP_IDXDEV_DEV p.val) d).mark (FP_IDXDEV_VALID p.val)) :=
    (IndexFrame.put c p _ (not_isLedger p (.inr (.inr (.inr (.inl rfl)))))).trans
      (.mark _ p (not_isLedger p (.inr (.inr (.inr (.inl rfl))))))
  unfold Chip.indexCheck
  dsimp only
  split
  · exact .refl c p
  split
  · exact ((IndexFrame.moveCount c p _).trans (.add64 _ p _)).trans (.deliverJump _ p)
  · exact (shown _).trans (.portFault _ p rfl)

theorem IndexFrame.indexEvent : IndexFrame p c (c.indexEvent p) := by
  have disarmed (d : Chip) : IndexFrame p d (d.setPort p { d.port p with idxArmed := false }) := .setPort d p rfl rfl rfl
  have learned (d : Chip) (v : Nat) : IndexFrame p d ((d.put (FP_IDXPOS_IDXPOS p.val) v).setPort p { d.port p with learned := true }) :=
    (IndexFrame.put d p v (not_isLedger p (.inr (.inr (.inr (.inr (.inl rfl))))))).trans (.setPort _ p rfl rfl rfl)
  unfold Chip.indexEvent
  dsimp only
  split
  · split
    · exact disarmed c
    · split
      · exact (disarmed c).trans (.indexCheck _ p)
      · exact (disarmed c).trans (learned _ _)
    · exact (disarmed c).trans (.indexCheck _ p)
  · exact .refl c p

/-- No index event while the event line is low (R141). -/
theorem Chip.indexEvent_low (low : (c.port p).evHigh = false) : c.indexEvent p = c := if_neg (by simp [low])

/-! ### The sample of the wires (R128) -/

/-- A sample of the wires changes of each port its wire check at most. -/
structure WiresSampled (b c : Chip) : Prop where
  only : Only [.ports] b c
  port : ∀ q, ∃ w t, c.port q = { b.port q with wireBad := w, wireOkTick := t }

theorem WiresSampled.wireSample (wires : BitVec 3) : WiresSampled c (c.wireSample p wires) := by
  refine Chip.each_keeps (P := WiresSampled c) _ ⟨.refl _ c, fun q => ⟨_, _, rfl⟩⟩ fun d hd m _ => ?_
  dsimp only
  split
  · refine ⟨hd.only.then (.setPort ..), fun q => ?_⟩
    obtain ⟨w, t, same⟩ := hd.port q
    by_cases here : q = m
    · subst here
      refine ⟨false, d.now, ?_⟩
      rw [Chip.port_setPort, same]
    · refine ⟨w, t, ?_⟩
      rw [Chip.port_setPort_ne _ _ _ here, same]
  · exact hd

/-! ### A tick of a group (R134 to R139) -/

/-- The chip with the edges of a tick booked, from the wires' sample `b` on. -/
def Chip.tickBooked (b : Chip) (lines : BitVec 3) : Chip :=
  b.bookEdges p ((c.port p).lines &&& c.countMask p) (c.nextLines p lines &&& c.countMask p) (ones ((c.port p).lines ^^^ c.nextLines p lines))

/-- The group's lines are taken. -/
def Chip.linesTaken (b : Chip) (new : BitVec 3) : Chip :=
  c.setPort p { c.port p with
    lines := new, lastEdge := b.now, anyEdge := true
    hallHeld := (c.port p).hallHeld && (codePlace 2 (new &&& b.countMask p)).isNone }

theorem Chip.portEdge_first (lines wires : BitVec 3) (runs : c.portsRun = true) (lead : c.inputLead p = true)
    (known : (c.port p).linesKnown = false) : c.portEdge p lines wires = (c.wireSample p wires).firstSample p lines := by
  refine (if_neg (by simp [runs, lead])).trans ?_
  exact if_pos (by simp [known])

theorem Chip.portEdge_still (lines wires : BitVec 3) (runs : c.portsRun = true) (lead : c.inputLead p = true)
    (known : (c.port p).linesKnown = true) (none_ : ones ((c.port p).lines ^^^ c.nextLines p lines) = 0) :
    c.portEdge p lines wires = c.wireSample p wires := by
  refine (if_neg (by simp [runs, lead])).trans ?_
  exact (if_neg (by simp [known])).trans (if_pos none_)

theorem Chip.portEdge_books (lines wires : BitVec 3) (runs : c.portsRun = true) (lead : c.inputLead p = true)
    (known : (c.port p).linesKnown = true) (some_ : ones ((c.port p).lines ^^^ c.nextLines p lines) ≠ 0)
    (now : (c.tickBooked p (c.wireSample p wires) lines).now = c.now) :
    c.portEdge p lines wires = (((c.tickBooked p (c.wireSample p wires) lines).linesTaken p c (c.nextLines p lines)).deliver p true).indexEvent p := by
  refine (if_neg (by simp [runs, lead])).trans ?_
  refine (if_neg (by simp [known])).trans ((if_neg some_).trans ?_)
  unfold Chip.linesTaken
  rw [← now]
  rfl

/-! ### What booking shows -/

variable {c p} in
/-- Booking finds the group as the statement reads it: a sample of the wires touches none of what it looks at. -/
theorem WiresSampled.step {w : Chip} (h : WiresSampled c w) (old new : BitVec 3) :
    w.edgeStep p old new = c.edgeStep p old new ∧ w.hallEdge p old new = c.hallEdge p old new ∧ w.portState p = c.portState p ∧
      (w.port p).anyEdge = (c.port p).anyEdge ∧ (w.port p).lastEdge = (c.port p).lastEdge ∧ (w.port p).evHigh = (c.port p).evHigh := by
  obtain ⟨x, t, same⟩ := h.port p
  have regs : w.regs = c.regs := h.only.same .regs (by decide)
  have now : w.now = c.now := h.only.same .now (by decide)
  rw [same]
  refine ⟨?_, ?_, Chip.get_of_regs regs _, rfl, rfl, rfl⟩
  · unfold Chip.edgeStep Chip.pulseLead Chip.leads Chip.signedStep Chip.flag Chip.get Chip.reg
    rw [regs, now, same]
  · unfold Chip.hallEdge Chip.leads Chip.flag Chip.get Chip.reg
    rw [regs]

/-- The total of the edges tells nothing of a Hall code. -/
theorem Chip.hallEdge_total (i : Int) (old new : BitVec 3) : (c.add64 (FP_LTOT p.val) i).hallEdge p old new = c.hallEdge p old new := by
  have cfg : (c.add64 (FP_LTOT p.val) i).reg (FP_CFG p.val) = c.reg (FP_CFG p.val) := by
    refine Chip.reg_put64_ne _ _ ?_ ?_ <;> (simp only [FP_CFG, FP_LTOT]; omega)
  have get (f : Field) (hf : f.addr = FP_CFG p.val) : (c.add64 (FP_LTOT p.val) i).get f = c.get f := by
    rw [Chip.get, Chip.get, hf, cfg]
  unfold Chip.hallEdge Chip.leads Chip.flag
  rw [get (FP_CFG_EN p.val) rfl, get (FP_CFG_FUNC p.val) rfl, get (FP_CFG_ROLE p.val) rfl]

/-- In SERVICE a single step in time is booked as motion (R135). -/
theorem Chip.bookEdges_motion {old new : BitVec 3} {d : Int} (service : c.portState p = 1) (step : c.edgeStep p old new = some d)
    (valid : c.hallEdge p old new = false)
    (inTime : (c.port p).anyEdge = true → c.get (FP_CHK_MIN_EDGE p.val) ≤ c.now - (c.port p).lastEdge) :
    c.bookEdges p old new 1 = (c.add64 (FP_LTOT p.val) (1 : Nat)).bookMotion p d := by
  have long : (!(c.port p).anyEdge || decide (c.get (FP_CHK_MIN_EDGE p.val) ≤ c.now - (c.port p).lastEdge)) = true := by
    cases any : (c.port p).anyEdge
    · rfl
    · simpa using inTime any
  unfold Chip.bookEdges
  dsimp only
  rw [if_pos (by simp [service]), if_neg (by simp [Chip.hallEdge_total, valid]), step]
  exact if_pos (by simp only [long]; rfl)

/-- In SERVICE several edges at once, or edges that make no step, are edge faults (R135). -/
theorem Chip.bookEdges_fault {old new : BitVec 3} {n : Nat} (service : c.portState p = 1)
    (fault : 1 < n ∨ (c.hallEdge p old new = false ∧ c.edgeStep p old new = none)) :
    c.bookEdges p old new n = (c.add64 (FP_LTOT p.val) n).bookFault p n := by
  unfold Chip.bookEdges
  dsimp only
  rw [if_pos (by simp [service])]
  rcases fault with many | ⟨valid, none_⟩
  · have ne : (n == 1) = false := by simp only [beq_eq_false_iff_ne]; omega
    have ne' : decide (n = 1) = false := by simp only [decide_eq_false_iff_not]; omega
    rw [if_neg (by simp [ne'])]
    split
    · exact if_neg (by simp [ne'])
    · rfl
  · rw [if_neg (by simp [Chip.hallEdge_total, valid]), none_]

/-- What a group's taken lines and their delivery leave besides ports, timebases and axes. -/
theorem Chip.delivered_reg (b : Chip) (new : BitVec 3) {x : Nat} (hx : x ∉ [16, 17, 18, 19].map CUE_TB_STAT) :
    ((c.linesTaken p b new).deliver p true).reg x = c.reg x := RegsBut.deliver (c.linesTaken p b new) p true x hx

theorem Only.linesDelivered (b : Chip) (new : BitVec 3) : Only [.regs, .fresh, .tbs, .ports] c ((c.linesTaken p b new).deliver p true) :=
  ((Only.setPort ..).mono : Only [.regs, .fresh, .tbs, .ports] _ _).then (.deliver ..)

/-- While the event line is low, the delivery ends the tick of a group. -/
theorem Chip.linesTaken_low (b : Chip) (new : BitVec 3) (low : (c.port p).evHigh = false) :
    ((c.linesTaken p b new).deliver p true).indexEvent p = (c.linesTaken p b new).deliver p true := by
  refine Chip.indexEvent_low _ p ?_
  rw [(Only.deliver (c.linesTaken p b new) p true).port p, Chip.linesTaken, Chip.port_setPort]
  exact low

/-- Edges of a tick, booked, taken and delivered (R135 to R139). -/
structure TickBooked (n : Nat) (new : BitVec 3) (b c : Chip) : Prop where
  total : c.get64 (FP_LTOT p.val) = (b.get64 (FP_LTOT p.val) + n) % 2 ^ 64
  law : b.edgeLaw p → c.edgeLaw p
  lines : (c.port p).lines = new
  edge : (c.port p).lastEdge = b.now
  others : ∀ q, q ≠ p → c.get64 (FP_LTOT q.val) = b.get64 (FP_LTOT q.val)

theorem TickBooked.portEdge {w : Chip} (h : WiresSampled c w) (lines : BitVec 3) :
    TickBooked p (ones ((c.port p).lines ^^^ c.nextLines p lines)) (c.nextLines p lines) c
      ((((c.tickBooked p w lines).linesTaken p c (c.nextLines p lines)).deliver p true).indexEvent p) := by
  obtain ⟨-, a, ha, ledgers⟩ := Booked.bookEdges w p (ones ((c.port p).lines ^^^ c.nextLines p lines)) ((c.port p).lines &&& c.countMask p)
    (c.nextLines p lines &&& c.countMask p)
  have tail := (IndexFrame.deliver ((c.tickBooked p w lines).linesTaken p c (c.nextLines p lines)) p true).trans (.indexEvent _ p)
  have first : RegsOf IsLedger c w := .of_regs (h.only.same .regs (by decide))
  have all : RegsOf IsLedger (w.entered p (ones ((c.port p).lines ^^^ c.nextLines p lines)) a)
      ((((c.tickBooked p w lines).linesTaken p c (c.nextLines p lines)).deliver p true).indexEvent p) :=
    (ledgers.trans (d := (c.tickBooked p w lines).linesTaken p c (c.nextLines p lines)) (.of_regs rfl)).trans tail.ledgers
  refine ⟨?_, fun law => all.edgeLaw p (w.entered_law p _ ha (first.edgeLaw p law)), ?_, ?_, fun q other => ?_⟩
  · rw [all.get64 (isLedger_total p), w.entered_total p _ ha, first.get64 (isLedger_total p)]
  · rw [tail.lines.lines, Chip.linesTaken, Chip.port_setPort]
  · rw [tail.lines.edge, Chip.linesTaken, Chip.port_setPort]
  · rw [all.get64 (isLedger_total q), w.entered_others p _ ha other, first.get64 (isLedger_total q)]

/-- The count and the status of a port are no ledgers, and no status of a timebase. -/
theorem feedback_low {x : Nat} (h : x = FP_POS p.val ∨ x = FP_CPR p.val) : x ∉ [16, 17, 18, 19].map CUE_TB_STAT ∧
    ∀ a ∈ ledgers p, x ≠ FP_LTOT p.val ∧ x ≠ FP_LTOT p.val + 4 ∧ x ≠ a ∧ x ≠ a + 4 := by
  simp only [FP_POS, FP_CPR] at h
  refine ⟨?_, fun a ha => ?_⟩
  · simp only [List.map_cons, List.map_nil, List.mem_cons, List.not_mem_nil, or_false, CUE_TB_STAT]
    omega
  · simp only [ledgers, List.mem_cons, List.not_mem_nil, or_false, FP_LMF, FP_LMB, FP_LEF, FP_LIL] at ha
    simp only [FP_LTOT]
    omega

theorem status_low {x : Nat} (h : x = FP_POS p.val ∨ x = FP_CPR p.val ∨ x = FP_STAT p.val) : x ∉ [16, 17, 18, 19].map CUE_TB_STAT := by
  simp only [FP_POS, FP_CPR, FP_STAT] at h
  simp only [List.map_cons, List.map_nil, List.mem_cons, List.not_mem_nil, or_false, CUE_TB_STAT]
  omega

/-- The first sample takes the lines, without an index event where the index is off (R127, R143). -/
theorem Chip.firstSample_taken (lines : BitVec 3) (mode : c.get (FP_IDX_MODE p.val) = 0) :
    Only [.ports] c (c.firstSample p lines) ∧ ((c.firstSample p lines).port p).lines = c.sampledLines p lines ∧
      ((c.firstSample p lines).port p).linesKnown = true := by
  have event (d : Chip) (same : d.get (FP_IDX_MODE p.val) = 0) : Only [.ports] d (d.indexEvent p) ∧
      ((d.indexEvent p).port p).lines = (d.port p).lines ∧ ((d.indexEvent p).port p).linesKnown = (d.port p).linesKnown := by
    have only : Only [.ports] d (d.setPort p { d.port p with idxArmed := false }) := .setPort ..
    have shown : LinesKept p d (d.setPort p { d.port p with idxArmed := false }) := .setPort d p rfl rfl rfl
    have mode : (d.setPort p { d.port p with idxArmed := false }).get (FP_IDX_MODE p.val) = 0 := same
    unfold Chip.indexEvent
    dsimp only
    split
    · rw [mode]
      exact ⟨only, shown.lines, shown.known⟩
    · exact ⟨.refl _ d, rfl, rfl⟩
  have set (x : PortState) (hx : x.lines = c.sampledLines p lines) (hk : x.linesKnown = true) : Only [.ports] c (c.setPort p x) ∧
      ((c.setPort p x).port p).lines = c.sampledLines p lines ∧ ((c.setPort p x).port p).linesKnown = true := by
    refine ⟨.setPort .., ?_, ?_⟩ <;> (rw [Chip.port_setPort]; assumption)
  unfold Chip.firstSample
  dsimp only
  split
  · obtain ⟨only, taken, known⟩ := event (c.setPort p { c.port p with
      lines := c.sampledLines p lines, linesKnown := true, lastEdge := c.now, hallHeld := false
      evHigh := lines.getLsbD 2, idxArmed := (c.port p).idxArmed || !lines.getLsbD 2 }) mode
    obtain ⟨first, lines_, known_⟩ := set { c.port p with
      lines := c.sampledLines p lines, linesKnown := true, lastEdge := c.now, hallHeld := false
      evHigh := lines.getLsbD 2, idxArmed := (c.port p).idxArmed || !lines.getLsbD 2 } rfl rfl
    exact ⟨first.trans only, taken.trans lines_, known.trans known_⟩
  split
  · exact set _ rfl rfl
  · exact set _ rfl rfl

/-- Motion shows in the count, and in its own ledger, and in nothing else of the registers (R135, R140). -/
theorem Chip.bookMotion_shows (d : Int) :
    let b := c.entered p 1 (if d < 0 then FP_LMB p.val else FP_LMF p.val)
    ((c.add64 (FP_LTOT p.val) (1 : Nat)).bookMotion p d).get (FP_POS_COUNT p.val) =
        (((b.get (FP_POS_COUNT p.val) : Int) + d) % (b.get (FP_CPR_CPR p.val) : Int)).toNat % 2 ^ 24 ∧
      RegsBut [FP_POS p.val, FP_REV p.val] b ((c.add64 (FP_LTOT p.val) (1 : Nat)).bookMotion p d) := by
  have regs := (Only.noteHallEdge ((c.entered p 1 (if d < 0 then FP_LMB p.val else FP_LMF p.val)).moveCount p d) p (c.add64 (FP_LTOT p.val) (1 : Nat))
    d).same .regs (by decide)
  refine ⟨(Chip.get_of_regs regs _).trans (Chip.moveCount_count ..), ?_⟩
  exact (RegsBut.moveCount _ p d).of_regs regs

end

end Sys2Proof.Machine

open Sys2Proof.Machine

/-- Settles O22: the edges of a tick are booked in the total and in one ledger, and what follows them touches no ledger. -/
theorem edgesAreBooked : Obligations.EdgesAreBooked := by
  refine ⟨?booked, ?motion, ?fault, ?still, ?first⟩
  case booked =>
    intro s p lines wires n runs lead known count some_
    subst count
    have sampled := WiresSampled.wireSample s.chip p wires
    have now : (s.chip.tickBooked p (s.chip.wireSample p wires) lines).now = s.chip.now :=
      Eq.trans ((Booked.bookEdges ..).only.same .now (by decide)) (sampled.only.same .now (by decide))
    obtain ⟨total, law, taken, edge, others⟩ := TickBooked.portEdge s.chip p sampled lines
    exact completes_of_run (·.portEdge p lines wires) rfl
      (s.chip.portEdge_books p lines wires runs lead known (Nat.pos_iff_ne_zero.mp some_) now) ⟨total, law, taken, edge, others⟩
  case motion =>
    intro s p lines wires d runs lead known one service step valid inTime low
    have sampled := WiresSampled.wireSample s.chip p wires
    have run := s.chip.portEdge_books p lines wires runs lead known (by rw [one]; decide)
      (Eq.trans ((Booked.bookEdges ..).only.same .now (by decide)) (sampled.only.same .now (by decide)))
    obtain ⟨sameStep, sameHall, state, any, edge, event⟩ := sampled.step (p := p) ((s.chip.port p).lines &&& s.chip.countMask p)
      (s.chip.nextLines p lines &&& s.chip.countMask p)
    generalize s.chip.wireSample p wires = w at *
    have booked : s.chip.tickBooked p w lines = (w.add64 (FP_LTOT p.val) (1 : Nat)).bookMotion p d := by
      rw [Chip.tickBooked, one]
      refine w.bookEdges_motion p (state.trans service) (sameStep.trans step) (sameHall.trans valid) fun edges => ?_
      rw [sampled.only.get, edge, show w.now = s.chip.now from sampled.only.same .now (by decide)]
      exact inTime (any ▸ edges)
    have moved : Only [.regs, .tbs, .axes] w ((w.add64 (FP_LTOT p.val) (1 : Nat)).bookMotion p d) :=
      ((Only.add64 ..).mono : Only [.regs, .tbs, .axes] _ _).trans (.bookMotion ..)
    obtain ⟨count, beside⟩ := w.bookMotion_shows p d
    rw [booked, Chip.linesTaken_low _ _ _ _ (by rw [moved.port p, event, low])] at run
    have ha : (if d < 0 then FP_LMB p.val else FP_LMF p.val) ∈ ledgers p := by split <;> simp [ledgers]
    have delivered := Only.linesDelivered ((w.add64 (FP_LTOT p.val) (1 : Nat)).bookMotion p d) p s.chip (s.chip.nextLines p lines)
    have ledgers : RegsOf IsLedger (w.entered p 1 (if d < 0 then FP_LMB p.val else FP_LMF p.val))
        ((((w.add64 (FP_LTOT p.val) (1 : Nat)).bookMotion p d).linesTaken p s.chip (s.chip.nextLines p lines)).deliver p true) :=
      ((RegsOf.bookMotion ..).trans (d := ((w.add64 (FP_LTOT p.val) (1 : Nat)).bookMotion p d).linesTaken p s.chip (s.chip.nextLines p lines))
        (.of_regs rfl)).trans (IndexFrame.deliver _ p true).ledgers
    have whole : Only [.regs, .fresh, .tbs, .ports, .axes] s.chip
        ((((w.add64 (FP_LTOT p.val) (1 : Nat)).bookMotion p d).linesTaken p s.chip (s.chip.nextLines p lines)).deliver p true) :=
      ((sampled.only.mono : Only [.regs, .fresh, .tbs, .ports, .axes] _ _).then moved).then delivered
    refine completes_of_run (·.portEdge p lines wires) rfl run ⟨?_, ?_, whole.same .faults (by decide), fun x hx => ?_, whole.eq⟩
    · have pos : (FP_POS_COUNT p.val).addr ∉ [16, 17, 18, 19].map CUE_TB_STAT := (feedback_low p (.inl rfl)).1
      have same (f : Field) (hf : f.addr = FP_POS p.val ∨ f.addr = FP_CPR p.val) :
          (w.entered p 1 (if d < 0 then FP_LMB p.val else FP_LMF p.val)).get f = s.chip.get f :=
        (congrArg f.read (w.entered_reg p 1 ((feedback_low p hf).2 _ ha))).trans (sampled.only.get f)
      refine (congrArg (FP_POS_COUNT p.val).read (Chip.delivered_reg _ p s.chip (s.chip.nextLines p lines) pos)).trans (count.trans ?_)
      rw [same (FP_POS_COUNT p.val) (.inl rfl), same (FP_CPR_CPR p.val) (.inr rfl)]
    · rw [ledgers.get64 (isLedger_of_mem ha), w.entered_ledger p 1 ha ha, if_pos rfl]
      exact congrArg (fun v => (v + 1) % 2 ^ 64) (Chip.get64_congr (sampled.only.reg _) (sampled.only.reg _))
    · obtain ⟨own, cues⟩ := not_or.mp (List.mem_append.not.mp hx)
      simp only [List.mem_cons, List.not_mem_nil, or_false, not_or] at own
      have apart : x ≠ FP_LTOT p.val ∧ x ≠ FP_LTOT p.val + 4 ∧ x ≠ (if d < 0 then FP_LMB p.val else FP_LMF p.val) ∧
          x ≠ (if d < 0 then FP_LMB p.val else FP_LMF p.val) + 4 := by
        simp only [FP_LTOT, FP_LTOTH, FP_LMF, FP_LMFH, FP_LMB, FP_LMBH] at own ⊢
        split <;> omega
      have out : x ∉ [FP_POS p.val, FP_REV p.val] := by simp [own]
      rw [Chip.delivered_reg _ p s.chip _ cues, beside x out, w.entered_reg p 1 apart, sampled.only.reg x]
  case fault =>
    intro s p lines wires n runs lead known count some_ service low fault
    have sampled := WiresSampled.wireSample s.chip p wires
    have run := s.chip.portEdge_books p lines wires runs lead known (by rw [count]; omega)
      (Eq.trans ((Booked.bookEdges ..).only.same .now (by decide)) (sampled.only.same .now (by decide)))
    obtain ⟨sameStep, sameHall, state, -, -, event⟩ := sampled.step (p := p) ((s.chip.port p).lines &&& s.chip.countMask p)
      (s.chip.nextLines p lines &&& s.chip.countMask p)
    generalize s.chip.wireSample p wires = w at *
    have booked : s.chip.tickBooked p w lines = (w.add64 (FP_LTOT p.val) n).bookFault p n := by
      rw [Chip.tickBooked, count]
      refine w.bookEdges_fault p (state.trans service) ?_
      rcases fault with many | ⟨noHall, none_⟩
      · exact .inl many
      · exact .inr ⟨sameHall.trans (by simp [Chip.hallEdge, noHall]), sameStep.trans none_⟩
    have faulted : Only [.regs, .fresh, .faults] w ((w.add64 (FP_LTOT p.val) n).bookFault p n) :=
      ((Only.add64 ..).mono : Only [.regs, .fresh, .faults] _ _).trans (.bookFault ..)
    rw [booked, Chip.linesTaken_low _ _ _ _ (by rw [faulted.port p, event, low])] at run
    have ha : FP_LEF p.val ∈ ledgers p := by simp [ledgers]
    have ledgers : RegsOf IsLedger (w.entered p n (FP_LEF p.val))
        ((((w.add64 (FP_LTOT p.val) n).bookFault p n).linesTaken p s.chip (s.chip.nextLines p lines)).deliver p true) :=
      ((RegsOf.bookFault ..).trans (d := ((w.add64 (FP_LTOT p.val) n).bookFault p n).linesTaken p s.chip (s.chip.nextLines p lines))
        (.of_regs rfl)).trans (IndexFrame.deliver _ p true).ledgers
    have delivered (f : Field) (hf : f.addr = FP_POS p.val ∨ f.addr = FP_CPR p.val ∨ f.addr = FP_STAT p.val) :
        ((((w.add64 (FP_LTOT p.val) n).bookFault p n).linesTaken p s.chip (s.chip.nextLines p lines)).deliver p true).get f =
        ((w.entered p n (FP_LEF p.val)).mark (FP_STAT_EDGE p.val)).get f :=
      (congrArg f.read (Chip.delivered_reg _ p s.chip _ (status_low p hf))).trans ((Only.report ..).get f)
    refine completes_of_run (·.portEdge p lines wires) rfl run ⟨?_, ?_, ?_, ?_⟩
    · rw [ledgers.get64 (isLedger_of_mem ha), w.entered_ledger p n ha ha, if_pos rfl]
      exact congrArg (fun v => (v + n) % 2 ^ 64) (Chip.get64_congr (sampled.only.reg _) (sampled.only.reg _))
    · exact (delivered _ (.inr (.inr rfl))).trans (Chip.get_mark _ _ (Field.ok_of _ rfl))
    · have apart : (FP_POS_COUNT p.val).addr ≠ (FP_STAT_EDGE p.val).addr := by
        show FP_POS p.val ≠ FP_STAT p.val
        simp only [FP_POS, FP_STAT]
        omega
      refine (delivered _ (.inl rfl)).trans ((Chip.get_put_ne _ _ _ 1 apart).trans ?_)
      exact (congrArg (FP_POS_COUNT p.val).read (w.entered_reg p n ((feedback_low p (.inl rfl)).2 _ ha))).trans (sampled.only.get _)
    · refine Eq.trans ((Only.linesDelivered _ p s.chip (s.chip.nextLines p lines)).same .faults (by decide)) ?_
      refine (congrArg Chip.faults (if_neg (by omega) : Chip.report _ (srcPort p) n 0 0 false = _)).trans ?_
      have faults : (w.entered p n (FP_LEF p.val)).faults = s.chip.faults :=
        Eq.trans ((Only.entered ..).same .faults (by decide)) (sampled.only.same .faults (by decide))
      exact congrArg (fun f : FaultState => { f with events := f.events ++ [(⟨srcPort p, n, 0, 0, false⟩ : Event)] }) faults
  case still =>
    intro s p lines wires runs lead known same
    have sampled := WiresSampled.wireSample s.chip p wires
    have none_ : ones ((s.chip.port p).lines ^^^ s.chip.nextLines p lines) = 0 := by
      rw [← same, BitVec.xor_self]
      rfl
    refine completes_of_run (·.portEdge p lines wires) rfl (s.chip.portEdge_still p lines wires runs lead known none_)
      ⟨sampled.only.eq, fun q => ?_⟩
    obtain ⟨w, t, port⟩ := sampled.port q
    rw [port]
  case first =>
    intro s p lines wires runs lead unknown mode
    have sampled := WiresSampled.wireSample s.chip p wires
    have run := s.chip.portEdge_first p lines wires runs lead unknown
    obtain ⟨w, t, port⟩ := sampled.port p
    have next : (s.chip.wireSample p wires).sampledLines p lines = s.chip.nextLines p lines := by
      unfold Chip.sampledLines Chip.nextLines Chip.countMask Chip.get Chip.reg
      rw [port, sampled.only.same .regs (by decide)]
    have mode' : (s.chip.wireSample p wires).get (FP_IDX_MODE p.val) = 0 := (sampled.only.get _).trans mode
    generalize s.chip.wireSample p wires = b at *
    obtain ⟨only, taken, known⟩ := b.firstSample_taken p lines mode'
    exact completes_of_run (·.portEdge p lines wires) rfl run ⟨(sampled.only.trans only).eq, taken.trans next, known⟩
end

section
-- One proof after the other: a side goal that `Only` settles by `decide` waits for the kernel, on a thread of its own.
set_option Elab.async false
/-! SUPPORT. The reply to a judged CAN frame; and the statement about the requests that frames carry (R345, R347, Table 14-2). -/
namespace Sys2Proof.Machine

section
variable (c : Chip)

/-- A frame that is due is at the head for its kind. -/
theorem Chip.canHead_due {c : Chip} {kind k : Nat} {f : CanFrame} (h : c.canDue kind k f) : c.canHead kind = some (k, f) := by
  obtain ⟨runs, head, own⟩ := h
  unfold Chip.canHead
  split
  next empty =>
    rw [empty] at head
    cases head
  next x l queue =>
    rw [queue] at head
    cases head
    exact if_pos (by simp [runs, own])

/-- A judged frame is answered as R347 says. -/
theorem Replied.canReply (k : Nat) (f : CanFrame) (r : Reason) (rest : List Byte) : Replied k f r rest c (c.canReply k f r rest) := by
  unfold Chip.canReply
  dsimp only
  refine ⟨fun runs reply room => ?_, fun runs reply full => ?_, fun silent => ?_⟩
  · rw [if_neg (by simp [runs, reply]), if_neg (by simp [Chip.canFull, room])]
    refine ⟨_, rfl, ?_, rfl, rfl, rfl⟩
    rw [BitVec.toNat_ofNat]
    exact Nat.mod_eq_of_lt (Field.read_lt (CAN_ACC_W2_RID k) _)
  · rw [if_neg (by simp [runs, reply]), if_pos (by simp [Chip.canFull, full])]
    exact ⟨Chip.get_bump _ _ (Field.ok_of _ rfl) _, FieldsBut.bump (FieldsBut.refl _ c) _ _ (Field.ok_of _ rfl) List.mem_cons_self, rfl⟩
  · refine if_pos ?_
    rcases silent with off | no
    · simp [off]
    · simp [no]

/-- The frame at the head is judged and answered. -/
theorem Chip.canAsk_due {kind k : Nat} {x : CanFrame} (h : c.canDue kind k x) (ok : CanFrame → Bool) (f : Nat → CanFrame → Chip → Judged)
    (tail : Chip → CanFrame → Reason → List Byte) :
    let j := if ok x then f k x c.canPop else (c.canPop, .range)
    c.canAsk kind ok f tail = (j.1.answer .can j.2).canReply k x j.2 (tail (j.1.answer .can j.2) x j.2) := by
  unfold Chip.canAsk
  rw [Chip.canHead_due h]

theorem Chip.canFetch_narrow (nv : NonVolatile) (k : Nat) (narrow : c.flag (CAN_ACC_W3_WIDE k) = false) :
    Chip.canFetch nv k c = ((Chip.readReg nv .can (c.canTarget k) c).1.setReg CAN_RDBUF (Chip.readReg nv .can (c.canTarget k) c).2).setReg
      CAN_RDBUFH 0 := by
  unfold Chip.canFetch
  dsimp only
  rw [narrow]
  rfl

theorem Chip.canFetch_wide (nv : NonVolatile) (k : Nat) (wide : c.flag (CAN_ACC_W3_WIDE k) = true) :
    Chip.canFetch nv k c =
      ((Chip.readReg nv .can (c.canTarget k + 4) (Chip.readReg nv .can (c.canTarget k) c).1).1.setReg CAN_RDBUF
        (Chip.readReg nv .can (c.canTarget k) c).2).setReg CAN_RDBUFH
        (Chip.readReg nv .can (c.canTarget k + 4) (Chip.readReg nv .can (c.canTarget k) c).1).2 := by
  unfold Chip.canFetch
  dsimp only
  rw [wide]
  rfl

/-- The two words of a read stand in its registers. -/
theorem Chip.reg_rdbufs (low high : Word) : ((c.setReg CAN_RDBUF low).setReg CAN_RDBUFH high).reg CAN_RDBUF = low ∧
    ((c.setReg CAN_RDBUF low).setReg CAN_RDBUFH high).reg CAN_RDBUFH = high :=
  ⟨(Chip.reg_setReg_ne _ _ (by decide)).trans (Chip.reg_setReg ..), Chip.reg_setReg ..⟩

end

/-- A read that the transmit queue has room for, and whose frame fits, is executed. -/
theorem State.canRead_ok {s : State} {k : Nat} {f : CanFrame} (h : s.chip.canDue 2 k f) (room : s.chip.can.tx.length < 8)
    (fits : s.chip.flag (CAN_ACC_W3_WIDE k) = true → f.fd = true) :
    s.canRead = { s with chip := ((Chip.canFetch s.nv k s.chip.canPop).canReply k f .ok
        (zeroBytes 3 ++ (bytesOf 4 ((Chip.canFetch s.nv k s.chip.canPop).reg CAN_RDBUF).toNat ++
          (if s.chip.flag (CAN_ACC_W3_WIDE k) then bytesOf 4 ((Chip.canFetch s.nv k s.chip.canPop).reg CAN_RDBUFH).toNat else [])))) } := by
  have clear : judge [(s.chip.flag (CAN_ACC_W3_WIDE k) && !f.fd, .range), (s.chip.canPop.canFull, .busy)] = .ok := by
    have space : s.chip.canPop.canFull = false := decide_eq_false (Nat.not_le.mpr room)
    have form : (s.chip.flag (CAN_ACC_W3_WIDE k) && !f.fd) = false := by
      cases wide : s.chip.flag (CAN_ACC_W3_WIDE k)
      · rfl
      · simp [fits wide]
    rw [space, form]
    rfl
  unfold State.canRead
  rw [Chip.canHead_due h]
  exact if_pos clear

/-- A read that is refused has no effect (R10). -/
theorem State.canRead_refused {s : State} {k : Nat} {f : CanFrame} {r : Reason} (h : s.chip.canDue 2 k f)
    (bad : judge [(s.chip.flag (CAN_ACC_W3_WIDE k) && !f.fd, .range), (s.chip.canPop.canFull, .busy)] = r) (ne : r ≠ .ok) :
    s.canRead = { s with chip := s.chip.canPop.canReply k f r (zeroBytes (if s.chip.flag (CAN_ACC_W3_WIDE k) && f.fd then 11 else 7)) } := by
  subst bad
  unfold State.canRead
  rw [Chip.canHead_due h]
  exact if_neg ne

end Sys2Proof.Machine

open Sys2Proof.Machine

/-- Settles O45: each row judges the frame at the head, and `canReply` answers it. -/
theorem canRequests : Obligations.CanRequests := by
  refine ⟨?write, ?short, ?read, ?wide, ?narrow, ?full, ?setpoint, ?cue, ?curve⟩
  case write =>
    intro s k f due long
    refine ⟨s.canWrite, rfl, s.canWrite_keeps.1, ?_⟩
    dsimp only
    unfold State.canWrite
    rw [Chip.canHead_due due]
    dsimp only
    rw [if_neg (Nat.not_lt.mpr long)]
    exact ⟨rfl, .canReply ..⟩
  case short =>
    intro s k f due short
    refine ⟨s.chip.canPop.canReply k f .range (zeroBytes 7), congrArg Host.Outcome.next ?_, .canReply ..⟩
    unfold State.canWrite
    rw [Chip.canHead_due due]
    exact if_pos short
  case read =>
    intro s k f due room narrow
    have fetched := Chip.canFetch_narrow s.chip.canPop s.nv k narrow
    have run := State.canRead_ok due room (by simp [narrow])
    refine ⟨_, congrArg Host.Outcome.next run, ?_⟩
    rw [narrow, fetched, (Chip.reg_rdbufs _ _ _).1]
    exact Replied.canReply ..
  case wide =>
    intro s k f due room wide fd
    have fetched := Chip.canFetch_wide s.chip.canPop s.nv k wide
    have run := State.canRead_ok due room fun _ => fd
    refine ⟨_, congrArg Host.Outcome.next run, ?_⟩
    rw [wide, fetched, (Chip.reg_rdbufs _ _ _).1, (Chip.reg_rdbufs _ _ _).2]
    exact Replied.canReply ..
  case narrow =>
    intro s k f due wide classic
    have bad : judge [(s.chip.flag (CAN_ACC_W3_WIDE k) && !f.fd, .range), (s.chip.canPop.canFull, .busy)] = .range := by
      rw [wide, classic]
      cases s.chip.canPop.canFull <;> rfl
    have run := State.canRead_refused due bad (by decide)
    rw [classic, Bool.and_false] at run
    exact ⟨_, congrArg Host.Outcome.next run, .canReply ..⟩
  case full =>
    intro s k f due full fits
    have space : s.chip.canPop.canFull = true := decide_eq_true full
    have form : (s.chip.flag (CAN_ACC_W3_WIDE k) && !f.fd) = false := by
      cases wide : s.chip.flag (CAN_ACC_W3_WIDE k)
      · rfl
      · simp [fits wide]
    have bad : judge [(s.chip.flag (CAN_ACC_W3_WIDE k) && !f.fd, .range), (s.chip.canPop.canFull, .busy)] = .busy := by
      rw [form, space]
      rfl
    exact ⟨_, congrArg Host.Outcome.next (State.canRead_refused due bad (by decide)), .canReply ..⟩
  case setpoint =>
    intro s k f due
    have head := Chip.canHead_due due
    have shape : s.chip.canSetpoint = s.chip.canAsk 3 (fun x => decide (7 ≤ x.data.length))
        (fun _ x c => c.setpoint .can (s.chip.canAxis k) ⟨BitVec.ofNat 32 (canNum x 0 4), canNum x 4 2, (canNum x 6 1).testBit 0⟩)
        fun c x _ => bytesOf 2 (canNum x 4 2) ++ bytesOf 1 (c.get (AX_STRSTAT_CREDITS (s.chip.canAxis k).val)) ++ zeroBytes 4 := by
      unfold Chip.canSetpoint
      rw [head]
    have run := shape.trans (Chip.canAsk_due s.chip due ..)
    simp only [decide_eq_true_eq] at run
    exact completes_of_run Chip.canSetpoint rfl run (.canReply ..)
  case cue =>
    intro s k f due
    exact completes_of_run Chip.canCueWrite rfl (Chip.canAsk_due s.chip due ..) (.canReply ..)
  case curve =>
    intro s k f due
    have run : s.chip.canCurveInput = _ := Chip.canAsk_due s.chip due ..
    simp only [decide_eq_true_eq] at run
    exact completes_of_run Chip.canCurveInput rfl run (.canReply ..)
end

section
-- One proof after the other: a side goal that `Only` settles by `decide` waits for the kernel, on a thread of its own.
set_option Elab.async false
/-! SUPPORT. The state of the CAN controller, its queue of frames and its list of nodes; and the statement about them (R344 to
R349). -/
namespace Sys2Proof.Machine

section
variable (c : Chip)

/-! ### The error states (R344) -/

/-- The error counters decide the state, and nothing else changes. -/
structure ErrorState (b c : Chip) : Prop where
  ok : c.canStateOk
  tec : c.get CAN_STAT_TEC = b.get CAN_STAT_TEC
  rec_ : c.get CAN_STAT_REC = b.get CAN_STAT_REC
  fields : FieldsBut [CAN_STAT_STATE] b c
  regs : RegsBut [CAN_STAT] b c
  only : Only [.regs] b c

theorem ErrorState.canErrorState : ErrorState c c.canErrorState := by
  have tec (v : Nat) : (c.put CAN_STAT_STATE v).get CAN_STAT_TEC = c.get CAN_STAT_TEC := Chip.get_put_beside _ _ _ _ rfl
  have rec_ (v : Nat) : (c.put CAN_STAT_STATE v).get CAN_STAT_REC = c.get CAN_STAT_REC := Chip.get_put_beside _ _ _ _ rfl
  refine ⟨?_, tec _, rec_ _, (FieldsBut.refl _ c).put _ _ (Field.ok_of _ rfl) List.mem_cons_self,
    (RegsBut.refl _ c).put _ _ List.mem_cons_self, .put ..⟩
  unfold Chip.canStateOk Chip.canErrorState
  rw [tec, rec_, Chip.get_put_lt _ _ (Field.ok_of _ rfl) _ (by split <;> decide)]

/-- The state that follows from counters in other words. -/
theorem Chip.canStateOk_congr {b c : Chip} (h : b.canStateOk) (same : ∀ f : Field, f.addr = CAN_STAT → c.get f = b.get f) : c.canStateOk := by
  unfold Chip.canStateOk at h ⊢
  rw [same CAN_STAT_STATE rfl, same CAN_STAT_TEC rfl, same CAN_STAT_REC rfl, h]

/-- A frame has been sent. -/
structure SentOk (b c : Chip) : Prop where
  tec : c.get CAN_STAT_TEC = b.get CAN_STAT_TEC - 1
  ok : c.canStateOk
  fields : FieldsBut [CAN_STAT_TEC, CAN_STAT_STATE] b c
  only : Only [.regs] b c

theorem SentOk.canSentOk : SentOk c c.canSentOk := by
  have fits : c.get CAN_STAT_TEC - 1 < 2 ^ (CAN_STAT_TEC.hi + 1 - CAN_STAT_TEC.lo) :=
    Nat.lt_of_le_of_lt (Nat.sub_le ..) (Field.read_lt CAN_STAT_TEC _)
  have judged := ErrorState.canErrorState (c.put CAN_STAT_TEC (c.get CAN_STAT_TEC - 1))
  refine ⟨judged.tec.trans (Chip.get_put_lt _ _ (Field.ok_of _ rfl) _ fits), judged.ok, ?_, (Only.put ..).trans judged.only⟩
  exact ((FieldsBut.refl _ c).put _ _ (Field.ok_of _ rfl) List.mem_cons_self).trans (judged.fields.mono (by simp))

/-- A frame has been received without an error while REC is 127 or less. -/
structure GotOk (b c : Chip) : Prop where
  rec_ : c.get CAN_STAT_REC = b.get CAN_STAT_REC - 1
  ok : c.canStateOk
  regs : RegsBut [CAN_STAT] b c
  only : Only [.regs] b c

theorem GotOk.canGotOk (low : c.get CAN_STAT_REC ≤ 127) : GotOk c c.canGotOk := by
  have fits : c.get CAN_STAT_REC - 1 < 2 ^ (CAN_STAT_REC.hi + 1 - CAN_STAT_REC.lo) :=
    Nat.lt_of_le_of_lt (Nat.sub_le ..) (Field.read_lt CAN_STAT_REC _)
  have judged := ErrorState.canErrorState (c.put CAN_STAT_REC (c.get CAN_STAT_REC - 1))
  have run : c.canGotOk = (c.put CAN_STAT_REC (c.get CAN_STAT_REC - 1)).canErrorState := if_pos low
  rw [run]
  refine ⟨judged.rec_.trans (Chip.get_put_lt _ _ (Field.ok_of _ rfl) _ fits), judged.ok, ?_, (Only.put ..).trans judged.only⟩
  exact ((RegsBut.refl [CAN_STAT] c).put CAN_STAT_REC _ List.mem_cons_self).trans judged.regs

/-! ### Entries and nodes (R345, R348) -/

/-- The acceptance entries and the nodes stand beside the controller's status. -/
theorem acc_ne_stat (k : Nat) : CAN_ACC_W0 k ∉ [CAN_STAT] ∧ CAN_ACC_W1 k ∉ [CAN_STAT] := by
  simp only [List.mem_singleton, CAN_ACC_W0, CAN_ACC_W1, CAN_STAT]
  omega

theorem node_ne_stat (j : Nat) : CAN_NODE j ≠ CAN_STAT ∧ CAN_NODE_ENTRY j ≠ CAN_STAT := by
  simp only [CAN_NODE, CAN_NODE_ENTRY, CAN_STAT]
  omega

theorem Chip.canEntry_congr {b c : Chip} (h : RegsBut [CAN_STAT] b c) (f : CanFrame) : c.canEntry f = b.canEntry f := by
  have matches_ (k : Nat) : c.canMatches f k = b.canMatches f k := by
    unfold Chip.canMatches Chip.flag Chip.get
    rw [show c.reg (CAN_ACC_W0_KIND k).addr = _ from h _ (acc_ne_stat k).1, show c.reg (CAN_ACC_W1_IDE k).addr = _ from h _ (acc_ne_stat k).2,
      show c.reg (CAN_ACC_W0_ID k).addr = _ from h _ (acc_ne_stat k).1, show c.reg (CAN_ACC_W1_MASK k).addr = _ from h _ (acc_ne_stat k).2]
  unfold Chip.canEntry
  rw [funext matches_]

theorem Chip.nodeOf_congr {b c : Chip} (h : RegsBut [CAN_STAT] b c) (f : CanFrame) : c.nodeOf f = b.nodeOf f := by
  have same (j : Fin 32) : c.reg (CAN_NODE j.val) = b.reg (CAN_NODE j.val) := h _ (by simp [(node_ne_stat j.val).1])
  unfold Chip.nodeOf Chip.flag Chip.get
  refine congrArg (fun p => nodeSlots.find? p) (funext fun j => ?_)
  rw [show c.reg (CAN_NODE_USED j.val).addr = _ from same j, show c.reg (CAN_NODE_IDE j.val).addr = _ from same j,
    show c.reg (CAN_NODE_ID j.val).addr = _ from same j]
  rfl

/-- A frame restarts the timer of the node that sent it, where its entry supervises nodes (R348). -/
theorem Chip.nodeHeard_eq (k : Nat) (f : CanFrame) : ∃ l : Vector Nat 32, c.nodeHeard k f = { c with can := { c.can with nodeTicks := l } } ∧
    ∀ j : Fin 32, l[j] = if c.get (CAN_ACC_W0_KIND k) = 6 ∧ c.nodeOf f = some j then c.now else c.can.nodeTicks[j] := by
  by_cases known : c.get (CAN_ACC_W0_KIND k) = 6 ∧ (c.nodeOf f).isSome = true
  · obtain ⟨kind, some_⟩ := known
    obtain ⟨i, own⟩ := Option.isSome_iff_exists.mp some_
    refine ⟨c.can.nodeTicks.set i c.now, ?_, fun j => ?_⟩
    · unfold Chip.nodeHeard
      rw [kind, own]
      rfl
    · rw [kind, own]
      by_cases same : i = j
      · subst same
        simp
      · have ne : i.val ≠ j.val := fun e => same (Fin.ext e)
        rw [if_neg (by simp [same])]
        exact Vector.getElem_set_ne _ _ ne
  · refine ⟨c.can.nodeTicks, ?_, fun j => ?_⟩
    · unfold Chip.nodeHeard
      split
      next kind own => exact absurd ⟨kind, by simp [own]⟩ known
      next => rfl
    · refine (if_neg fun h => known ⟨h.1, by simp [h.2]⟩).symm

/-- Where the head of the queue is due, the row works on the queue without it. -/
theorem Chip.heartbeat_due {c : Chip} {k : Nat} {f : CanFrame} (h : c.canDue 6 k f) : c.heartbeat = c.canPop.nodeFrame k f := by
  unfold Chip.heartbeat
  rw [Chip.canHead_due h]

/-- Whether the list of nodes is full shows in CAN_STAT (R348). -/
def Chip.fullShown : Chip := c.putF CAN_STAT_FULL (nodeSlots.all fun j => c.flag (CAN_NODE_USED j.val))

theorem Chip.nodeFrame_known {k : Nat} {f : CanFrame} {j : Fin 32} (h : c.nodeOf f = some j) :
    c.nodeFrame k f = (c.put (CAN_NODE_LOST j.val) 0).fullShown := by
  unfold Chip.nodeFrame
  rw [h]
  rfl

theorem Chip.nodeTimer_reg (j : Fin 32) (x : Nat) : (c.nodeTimer j).reg x = c.reg x := rfl

/-- The word of a new node. -/
@[irreducible] def nodeWord (f : CanFrame) (j : Fin 32) : Word :=
  packFields [(CAN_NODE_USED j.val, 1), (CAN_NODE_IDE j.val, f.ide.toNat), (CAN_NODE_ID j.val, f.id.toNat)]

/-- A new node takes a slot. -/
def Chip.nodeTaken (k : Nat) (f : CanFrame) (j : Fin 32) : Chip :=
  ((c.setReg (CAN_NODE j.val) (nodeWord f j)).put (CAN_NODE_ENTRY_ENTRY j.val) k).nodeTimer j

theorem Chip.nodeFrame_new {k : Nat} {f : CanFrame} {j : Fin 32} (h : c.nodeOf f = none)
    (free : nodeSlots.find? (fun i => !c.flag (CAN_NODE_USED i.val)) = some j) : c.nodeFrame k f = (c.nodeTaken k f j).fullShown := by
  unfold Chip.nodeFrame
  rw [h, free]
  unfold Chip.nodeTaken nodeWord
  rfl

theorem Chip.nodeFrame_full {k : Nat} {f : CanFrame} (h : c.nodeOf f = none)
    (full : nodeSlots.find? (fun i => !c.flag (CAN_NODE_USED i.val)) = none) : c.nodeFrame k f = c.fullShown := by
  unfold Chip.nodeFrame
  rw [h, full]
  rfl

theorem RegsBut.fullShown : RegsBut [CAN_STAT] c c.fullShown := (RegsBut.refl [CAN_STAT] c).put CAN_STAT_FULL _ List.mem_cons_self

theorem Only.fullShown : Only [.regs] c c.fullShown := .put ..

/-- A node's own fields stay when the list is shown. -/
theorem Chip.fullShown_get {f : Field} {j : Fin 32} (h : f.addr = CAN_NODE j.val ∨ f.addr = CAN_NODE_ENTRY j.val) : c.fullShown.get f = c.get f := by
  refine Chip.get_put_ne _ _ _ _ ?_
  rcases h with e | e
  · exact e ▸ (node_ne_stat j.val).1
  · exact e ▸ (node_ne_stat j.val).2

/-- A slot with its word and its entry. -/
theorem Chip.slotTaken_regs (k : Nat) (w : Word) (j : Fin 32) :
    ((c.setReg (CAN_NODE j.val) w).put (CAN_NODE_ENTRY_ENTRY j.val) k).reg (CAN_NODE j.val) = w ∧
    ((c.setReg (CAN_NODE j.val) w).put (CAN_NODE_ENTRY_ENTRY j.val) k).get (CAN_NODE_ENTRY_ENTRY j.val) = k % 64 ∧
    RegsBut [CAN_NODE j.val, CAN_NODE_ENTRY j.val] c ((c.setReg (CAN_NODE j.val) w).put (CAN_NODE_ENTRY_ENTRY j.val) k) := by
  have apart : CAN_NODE j.val ≠ CAN_NODE_ENTRY j.val := by
    simp only [CAN_NODE, CAN_NODE_ENTRY]
    omega
  refine ⟨(Chip.reg_put_ne _ (CAN_NODE_ENTRY_ENTRY j.val) _ apart).trans (Chip.reg_setReg ..),
    Chip.get_put _ (CAN_NODE_ENTRY_ENTRY j.val) (Field.ok_of _ rfl) k, fun x hx => ?_⟩
  simp only [List.mem_cons, List.not_mem_nil, or_false, not_or] at hx
  exact (Chip.reg_put_ne _ (CAN_NODE_ENTRY_ENTRY j.val) _ hx.2).trans (Chip.reg_setReg_ne _ _ hx.1)

theorem nodeWord_fields (f : CanFrame) (j : Fin 32) : (CAN_NODE_USED j.val).read (nodeWord f j) = 1 ∧
    (CAN_NODE_IDE j.val).read (nodeWord f j) = f.ide.toNat ∧ (CAN_NODE_ID j.val).read (nodeWord f j) = f.id.toNat ∧
    (CAN_NODE_LOST j.val).read (nodeWord f j) = 0 := by
  have ok : packOk [(CAN_NODE_USED j.val, 1), (CAN_NODE_IDE j.val, f.ide.toNat), (CAN_NODE_ID j.val, f.id.toNat)] = true := rfl
  have one : f.ide.toNat < 2 := Bool.toNat_lt f.ide
  unfold nodeWord
  exact ⟨Field.read_packFields ok (by simp) (show 1 < 2 ^ 1 by decide), Field.read_packFields ok (by simp) one,
    Field.read_packFields ok (by simp) f.id.isLt, Field.read_packFields_out (f := CAN_NODE_LOST j.val) rfl⟩

theorem Chip.nodeTaken_reg (k : Nat) (f : CanFrame) (j : Fin 32) (x : Nat) : (c.nodeTaken k f j).reg x =
    ((c.setReg (CAN_NODE j.val) (nodeWord f j)).put (CAN_NODE_ENTRY_ENTRY j.val) k).reg x := by
  unfold Chip.nodeTaken
  exact Chip.nodeTimer_reg ..

/-- The freed slot of a node names nobody (R348). -/
theorem Chip.nodeOf_used {c : Chip} {f : CanFrame} {j : Fin 32} (h : c.nodeOf f = some j) : c.flag (CAN_NODE_USED j.val) = true := by
  have found := List.find?_some h
  simp only [Bool.and_eq_true] at found
  exact found.1.1

end

end Sys2Proof.Machine

open Sys2Proof.Machine

/-- Settles O44: each row by the counters, the queue or the list of nodes that it changes. -/
theorem canController : Obligations.CanController := by
  refine ⟨⟨?received, ?ignored, ?transmitter, ?receiver, ?off, ?noBus, ?rec_, ?noRec, ?recovery, ?noRecovery⟩,
    ?known, ?new, ?full, ?timeout, ?noTimeout, ?forget, ?send, ?noSend, ?beat, ?noBeat⟩
  case received =>
    intro s f runs data fd low
    obtain ⟨rec_, ok, regs, only⟩ := GotOk.canGotOk s.chip low
    have entry := Chip.canEntry_congr regs f
    have stat (g : Field) : g.addr = CAN_STAT → g.addr ≠ CAN_CNT := fun e => e ▸ (by decide)
    have run : s.chip.canReceive f = match s.chip.canGotOk.canEntry f with
        | none => s.chip.canGotOk
        | some k =>
          if s.chip.canGotOk.can.rx.length < 16 then
            ({ s.chip.canGotOk with can := { s.chip.canGotOk.can with rx := s.chip.canGotOk.can.rx ++ [(k, f)] } } : Chip).nodeHeard k f
          else (s.chip.canGotOk.bump CAN_CNT_RXOVF 1).raise 0xF8 := by
      refine (if_neg ?_).trans rfl
      cases e : f.fd
      · simp [runs, data]
      · simp [runs, data, fd e]
    rw [entry] at run
    have can : s.chip.canGotOk.can = s.chip.can := only.same .can (by decide)
    have faults : s.chip.canGotOk.faults = s.chip.faults := only.same .faults (by decide)
    have now : s.chip.canGotOk.now = s.chip.now := only.same .now (by decide)
    have rxovf : s.chip.canGotOk.get CAN_CNT_RXOVF = s.chip.get CAN_CNT_RXOVF := congrArg CAN_CNT_RXOVF.read (regs CAN_CNT (by decide))
    have kind (k : Nat) : s.chip.canGotOk.get (CAN_ACC_W0_KIND k) = s.chip.get (CAN_ACC_W0_KIND k) :=
      congrArg (CAN_ACC_W0_KIND k).read (regs _ (acc_ne_stat k).1)
    have node := Chip.nodeOf_congr regs f
    generalize s.chip.canGotOk = b at *
    cases none_ : s.chip.canEntry f with
    | none =>
      rw [none_] at run
      refine completes_of_run (fun c => c.canReceive f) rfl run ⟨rec_, ok, fun _ => ⟨can, faults, regs⟩, fun k h => (by cases h), fun k h => (by cases h), ?_⟩
      exact (only.mono : Only [.regs, .fresh, .can, .faults] _ _).eq
    | some k =>
      rw [none_] at run
      by_cases room : s.chip.can.rx.length < 16
      · obtain ⟨l, heard, ticks⟩ := Chip.nodeHeard_eq { b with can := { b.can with rx := b.can.rx ++ [(k, f)] } } k f
        have run' := run.trans ((if_pos (can ▸ room)).trans heard)
        refine completes_of_run (fun c => c.canReceive f) rfl run' ⟨rec_, ok, fun h => (by cases h), fun j h _ => ?_, fun j h full => ?_, ?_⟩
        · cases h
          refine ⟨by show CanState.mk .. = _; rw [can], fun j => ?_, faults, regs⟩
          refine (ticks j).trans ?_
          rw [← kind k, ← node, ← now, ← can]
          rfl
        · exact absurd room (Nat.not_lt.mpr full)
        · exact ((only.mono : Only [.regs, .fresh, .can, .faults] _ _).then (Only.of_mix rfl : Only [.can] _ _)).eq
      · have run' := run.trans (if_neg (can ▸ room))
        refine completes_of_run (fun c => c.canReceive f) rfl run' ⟨?_, ?_, fun h => (by cases h), fun j _ less => absurd less room, fun j h full => ?_, ?_⟩
        · exact (Chip.get_put_ne _ _ _ _ (by decide)).trans rec_
        · exact Chip.canStateOk_congr ok fun g hg => Chip.get_put_ne _ _ _ _ (stat g hg)
        · refine ⟨can, ?_, ?_, ?_⟩
          · rw [Raised, ← faults]
            rfl
          · exact (Chip.get_bump _ _ (Field.ok_of _ rfl) _).trans (by rw [rxovf])
          · exact (RegsBut.trans (fun x hx => regs x fun h => hx (by simp_all)) ((RegsBut.refl [CAN_STAT, CAN_CNT] b).put CAN_CNT_RXOVF _ (by simp [CAN_CNT_RXOVF]))).of_regs rfl
        · exact (((only.mono : Only [.regs, .fresh, .can, .faults] _ _).then (.bump ..)).then (.raise ..)).eq
  case ignored =>
    intro s f h
    refine idles_of_run (fun c => c.canReceive f) rfl (if_pos ?_)
    rcases h with off | remote | ⟨fd, no⟩
    · simp [off]
    · simp [remote]
    · simp [fd, no]
  case transmitter =>
    intro s runs
    have run : s.chip.canBusError .transmitter = (s.chip.bump CAN_STAT_TEC 8).canErrorState := if_neg (by simp [runs])
    have judged := ErrorState.canErrorState (s.chip.bump CAN_STAT_TEC 8)
    have bumped : FieldsBut [CAN_STAT_TEC, CAN_STAT_STATE] s.chip (s.chip.bump CAN_STAT_TEC 8) :=
      (FieldsBut.refl _ s.chip).bump _ _ (Field.ok_of _ rfl) List.mem_cons_self
    refine completes_of_run (fun c => c.canBusError .transmitter) rfl run
      ⟨judged.tec.trans (Chip.get_bump _ _ (Field.ok_of _ rfl) _), judged.ok, bumped.trans (judged.fields.mono (by simp)), ?_⟩
    exact (((Only.bump ..).mono : Only [.regs, .fresh] _ _).then judged.only).eq
  case receiver =>
    intro s runs
    have run : s.chip.canBusError .receiver =
        ((s.chip.bump CAN_STAT_REC (if s.chip.freeVal.getLsbD 0 then 8 else 1)).useFree).canErrorState := if_neg (by simp [runs])
    have judged := ErrorState.canErrorState ((s.chip.bump CAN_STAT_REC (if s.chip.freeVal.getLsbD 0 then 8 else 1)).useFree)
    have shown (n : Nat) : ((s.chip.bump CAN_STAT_REC n).useFree).get CAN_STAT_REC = min (s.chip.get CAN_STAT_REC + n) 255 :=
      Chip.get_bump _ _ (Field.ok_of _ rfl) _
    have bumped (n : Nat) : FieldsBut [CAN_STAT_REC, CAN_STAT_STATE] s.chip ((s.chip.bump CAN_STAT_REC n).useFree) :=
      ((FieldsBut.refl _ s.chip).bump CAN_STAT_REC _ (Field.ok_of _ rfl) List.mem_cons_self).of_regs rfl
    refine completes_of_run (fun c => c.canBusError .receiver) rfl run
      ⟨?_, judged.ok, (bumped _).trans (judged.fields.mono (by simp)), ?_⟩
    · rw [judged.rec_, shown]
      split
      · exact .inr rfl
      · exact .inl rfl
    · exact ((((Only.bump ..).mono : Only [.regs, .fresh, .free] _ _).then (.useFree _)).then judged.only).eq
  case off =>
    intro s runs
    have run : s.chip.busOff = { (s.chip.put CAN_STAT_STATE 2).raise 0xF6 with can := { s.chip.can with recovering := false } } :=
      if_pos runs
    exact completes_of_run Chip.busOff rfl run ⟨Chip.get_put_fit s.chip CAN_STAT_STATE 2 rfl, rfl,
      ((FieldsBut.refl _ s.chip).put CAN_STAT_STATE 2 (Field.ok_of _ rfl) List.mem_cons_self).of_regs rfl, rfl⟩
  case noBus =>
    intro s role off
    exact ⟨idles_of_run (fun c => c.canBusError role) rfl (if_pos (by simp [off])), idles_of_run Chip.busOff rfl (if_neg (by simp [off]))⟩
  case rec_ =>
    intro s p serving off
    have clear : judge [(s.chip.get CAN_STAT_STATE != 2, .state)] = .ok := by simp [judge, off]
    exact grants_of_ask (f := Chip.canRec) rfl serving (s.chip.request_ok _ _ clear) rfl
  case noRec =>
    intro s p serving on
    exact refuses_of_request (f := Chip.canRec) rfl serving rfl (by simp [judge, on]) (by decide)
  case recovery =>
    intro s runs off may
    have run : s.chip.busOffRecovery = { ((s.chip.put CAN_STAT_STATE 0).put CAN_STAT_TEC 0).put CAN_STAT_REC 0 with
        can := { s.chip.can with recovering := false } } := if_pos (by
      rcases may with auto | asked
      · simp [runs, off, auto]
      · simp [runs, off, asked])
    refine completes_of_run Chip.busOffRecovery rfl run ⟨?_, ?_, Chip.get_put_fit _ _ _ rfl, ?_, rfl⟩
    · exact (Chip.get_put_beside _ CAN_STAT_STATE CAN_STAT_REC _ rfl).trans
        ((Chip.get_put_beside _ CAN_STAT_STATE CAN_STAT_TEC _ rfl).trans (Chip.get_put_fit s.chip _ _ rfl))
    · exact (Chip.get_put_beside _ CAN_STAT_TEC CAN_STAT_REC _ rfl).trans (Chip.get_put_fit _ CAN_STAT_TEC _ rfl)
    · exact ((((FieldsBut.refl [CAN_STAT_STATE, CAN_STAT_TEC, CAN_STAT_REC] s.chip).put CAN_STAT_STATE 0 (Field.ok_of _ rfl) (by simp)).put
        CAN_STAT_TEC 0 (Field.ok_of _ rfl) (by simp)).put CAN_STAT_REC 0 (Field.ok_of _ rfl) (by simp)).of_regs rfl
  case noRecovery =>
    intro s auto asked
    exact idles_of_run Chip.busOffRecovery rfl (if_neg (by simp [auto, asked]))
  case known =>
    intro s k j f due known
    have run := (Chip.heartbeat_due due).trans (Chip.nodeFrame_known s.chip.canPop (k := k) known)
    refine completes_of_run Chip.heartbeat rfl run ⟨?_, ?_, ?_⟩
    · exact (Chip.fullShown_get _ (j := j) (.inl rfl)).trans (Chip.get_put_fit _ _ _ rfl)
    · have put : RegsBut [CAN_NODE j.val, CAN_STAT] s.chip (s.chip.canPop.put (CAN_NODE_LOST j.val) 0) :=
        ((RegsBut.refl [CAN_NODE j.val, CAN_STAT] s.chip).of_regs rfl).put (CAN_NODE_LOST j.val) 0 List.mem_cons_self
      exact put.put CAN_STAT_FULL _ (List.mem_cons_of_mem _ List.mem_cons_self)
    · rfl
  case new =>
    intro s k j f due unknown free
    have run := (Chip.heartbeat_due due).trans (Chip.nodeFrame_new s.chip.canPop (k := k) unknown free)
    obtain ⟨word, entry, regs⟩ := s.chip.canPop.slotTaken_regs k (nodeWord f j) j
    obtain ⟨used, ide, id, lost⟩ := nodeWord_fields f j
    have field (g : Field) (hg : g.addr = CAN_NODE j.val) : (s.chip.canPop.nodeTaken k f j).fullShown.get g = g.read (nodeWord f j) := by
      refine (Chip.fullShown_get _ (.inl hg)).trans ?_
      rw [Chip.get, hg, Chip.nodeTaken_reg, word]
    refine completes_of_run Chip.heartbeat rfl run ⟨?_, ?_, ?_, ?_, ?_, ?_, ?_, rfl⟩
    · exact Chip.flag_one ((field _ rfl).trans used)
    · exact (field _ rfl).trans id
    · refine (congrArg (· != 0) ((field (CAN_NODE_IDE j.val) rfl).trans ide)).trans ?_
      cases f.ide <;> rfl
    · exact Chip.flag_zero ((field _ rfl).trans lost)
    · refine (Chip.fullShown_get _ (.inr rfl)).trans ((congrArg (CAN_NODE_ENTRY_ENTRY j.val).read ?_).trans entry)
      exact Chip.nodeTaken_reg ..
    · have taken : RegsBut [CAN_NODE j.val, CAN_NODE_ENTRY j.val, CAN_STAT] s.chip (s.chip.canPop.nodeTaken k f j) := fun x hx =>
        (Chip.nodeTaken_reg ..).trans <| regs x fun h => hx (by simp only [List.mem_cons, List.not_mem_nil, or_false] at h ⊢; omega)
      exact taken.put CAN_STAT_FULL _ (by simp [CAN_STAT_FULL])
    · exact (((((Only.of_mix rfl : Only [.can] s.chip s.chip.canPop).mono : Only [.regs, .can] _ _).then (.setReg ..)).then (.put ..)).trans
        (Only.of_mix rfl : Only [.regs, .can] _ (s.chip.canPop.nodeTaken k f j)) |>.then (.fullShown _)).eq
  case full =>
    intro s k f due unknown full
    have none_ : nodeSlots.find? (fun i => !s.chip.flag (CAN_NODE_USED i.val)) = none := List.find?_eq_none.mpr fun i _ => by simp [full i]
    have run := (Chip.heartbeat_due due).trans (Chip.nodeFrame_full s.chip.canPop (k := k) unknown none_)
    have all : (nodeSlots.all fun j => s.chip.canPop.flag (CAN_NODE_USED j.val)) = true := List.all_eq_true.mpr fun i _ => full i
    refine completes_of_run Chip.heartbeat rfl run ⟨?_, ?_, rfl⟩
    · refine Chip.flag_one (Chip.get_put_fit _ _ _ ?_ |>.trans ?_)
      · rw [all]
        rfl
      · rw [all]
        rfl
    · exact ((FieldsBut.refl [CAN_STAT_FULL] s.chip).of_regs rfl).put _ _ (Field.ok_of _ rfl) List.mem_cons_self
  case timeout =>
    intro s j runs used present late
    have run : s.chip.nodeTimeout j = (s.chip.put (CAN_NODE_LOST j.val) 1).raise 0xF7 := if_pos (by simp [runs, used, present, late])
    exact completes_of_run (fun c => c.nodeTimeout j) rfl run ⟨Chip.flag_one (Chip.get_put_fit s.chip (CAN_NODE_LOST j.val) 1 rfl), rfl,
      ((FieldsBut.refl _ s.chip).put (CAN_NODE_LOST j.val) 1 (Field.ok_of _ rfl) List.mem_cons_self).of_regs rfl, rfl⟩
  case noTimeout =>
    intro s j h
    refine idles_of_run (fun c => c.nodeTimeout j) rfl (if_neg ?_)
    rcases h with off | free | lost | young
    · simp [off]
    · simp [free]
    · simp [lost]
    · simp [young]
  case forget =>
    intro s p j serving
    have apart : CAN_NODE j.val ≠ CAN_NODE_ENTRY j.val ∧ CAN_NODE j.val ≠ CAN_STAT := by
      simp only [CAN_NODE, CAN_NODE_ENTRY, CAN_STAT]
      omega
    have word : (((s.chip.setReg (CAN_NODE j.val) 0).setReg (CAN_NODE_ENTRY j.val) 0).put CAN_STAT_FULL 0).reg (CAN_NODE j.val) = 0 :=
      (Chip.reg_put_ne _ CAN_STAT_FULL _ apart.2).trans ((Chip.reg_setReg_ne _ _ apart.1).trans (Chip.reg_setReg ..))
    have free : (((s.chip.setReg (CAN_NODE j.val) 0).setReg (CAN_NODE_ENTRY j.val) 0).put CAN_STAT_FULL 0).flag (CAN_NODE_USED j.val) = false :=
      Chip.flag_zero ((congrArg (CAN_NODE_USED j.val).read word).trans (by simp [Field.read, CAN_NODE_USED]))
    refine grants_of_ask (f := fun c => c.canForget j.val) rfl serving rfl
      ⟨free, Chip.flag_zero (Chip.get_put_fit _ _ _ rfl), fun f own => ?_, fun x hx => ?_, rfl⟩
    · exact Bool.false_ne_true (free.symm.trans (Chip.nodeOf_used own))
    · simp only [List.mem_cons, List.not_mem_nil, or_false, not_or] at hx
      exact (Chip.reg_put_ne _ CAN_STAT_FULL _ hx.2.2).trans ((Chip.reg_setReg_ne _ _ hx.2.1).trans (Chip.reg_setReg_ne _ _ hx.1))
  case send =>
    intro s x l runs queue
    obtain ⟨tec, ok, fields, only⟩ := SentOk.canSentOk s.chip
    have can : s.chip.canSentOk.can = s.chip.can := only.same .can (by decide)
    have run : s.chip.canReplySend = { s.chip.canSentOk with can := { s.chip.canSentOk.can with tx := l, sent := some x } } := by
      unfold Chip.canReplySend
      rw [queue]
      exact if_pos runs
    refine completes_of_run Chip.canReplySend rfl run ⟨?_, tec, ok, fields.of_regs rfl, ?_⟩
    · show CanState.mk .. = _
      rw [can]
    · exact ((only.mono : Only [.regs, .can] _ _).then (Only.of_mix rfl : Only [.can] _ _)).eq
  case noSend =>
    intro s empty
    refine idles_of_run Chip.canReplySend rfl ?_
    unfold Chip.canReplySend
    rw [empty]
  case beat =>
    intro s runs on due
    obtain ⟨tec, ok, fields, only⟩ := SentOk.canSentOk s.chip
    have can : s.chip.canSentOk.can = s.chip.can := only.same .can (by decide)
    have run : s.chip.ownHeartbeat = { s.chip.canSentOk with can := { s.chip.canSentOk.can with
        sent := some ⟨BitVec.ofNat 29 (s.chip.get CAN_OWNHB_ID), s.chip.flag CAN_OWNHB_IDE, false, bytesOf 2 s.chip.statusWord.toNat⟩,
        beatTick := some s.chip.canSentOk.now } } := if_pos (by simp [runs, on, due])
    refine completes_of_run Chip.ownHeartbeat rfl run ⟨⟨⟨BitVec.ofNat 29 (s.chip.get CAN_OWNHB_ID), s.chip.flag CAN_OWNHB_IDE, false,
      bytesOf 2 s.chip.statusWord.toNat⟩, ?_, ?_, rfl, rfl, rfl⟩, tec, ok, fields.of_regs rfl, ?_⟩
    · show CanState.mk .. = _
      rw [can, show s.chip.canSentOk.now = s.chip.now from only.same .now (by decide)]
    · rw [BitVec.toNat_ofNat]
      exact Nat.mod_eq_of_lt (Field.read_lt CAN_OWNHB_ID _)
    · exact ((only.mono : Only [.regs, .can] _ _).then (Only.of_mix rfl : Only [.can] _ _)).eq
  case noBeat =>
    intro s h
    refine idles_of_run Chip.ownHeartbeat rfl (if_neg ?_)
    rcases h with off | no | early
    · simp [off]
    · simp [no]
    · simp [early]
end

section
-- One proof after the other: a side goal that `Only` settles by `decide` waits for the kernel, on a thread of its own.
set_option Elab.async false
/-! SUPPORT. What an axis asks of its legs: sectors and steps of transitions; and the statement about commutation (R170 to R174,
R191). -/
namespace Sys2Proof.Machine

section
variable (c : Chip) (a : Axis) (l : Leg)

/-! ### A leg is asked (R59, R174) -/

theorem Chip.sendSetting_wants (g : LegSetting) : ((c.sendSetting l g).leg l).wantMode = (c.leg l).wantMode := by
  rw [Chip.leg_sendSetting]

theorem Chip.sendDuty_wants (on : BitVec 17) : ((c.sendDuty l on).leg l).wantMode = (c.leg l).wantMode := by
  unfold Chip.sendDuty
  split
  · rfl
  · rw [Chip.leg_setLeg]

/-- The leg is asked for the mode. -/
theorem Chip.want_mode (m : LegMode) (on : BitVec 17) (s : Option Slew) : ((c.want l m on s).leg l).wantMode = m := by
  have set (x : LegState) (hx : x.wantMode = m) : ((c.setLeg l x).leg l).wantMode = m := by rw [Chip.leg_setLeg, hx]
  have asked {d : Chip} (h : (d.leg l).wantMode = m) (b : Bool) (g : LegSetting) :
      ((if b then d else d.sendSetting l g).leg l).wantMode = m := by
    split
    · exact h
    · exact (d.sendSetting_wants l g).trans h
  have sent {d : Chip} (h : (d.leg l).wantMode = m) (p : Prop) [Decidable p] : ((if p then d else d.sendDuty l on).leg l).wantMode = m := by
    split
    · exact h
    · exact (d.sendDuty_wants l on).trans h
  exact sent (asked (set _ rfl) _ _) _

theorem Chip.want_other (m : LegMode) (on : BitVec 17) (s : Option Slew) {k : Leg} (h : k ≠ l) : (c.want l m on s).leg k = c.leg k :=
  (LegAt.want c l m on s).frame.1 k h

theorem Only.want (m : LegMode) (on : BitVec 17) (s : Option Slew) : Only [.legs] c (c.want l m on s) := (LegAt.want c l m on s).only

/-- The legs of an axis may have been asked, and nothing else changes but a free choice. -/
structure Asked (b c : Chip) : Prop where
  only : Only [.legs, .free] b c
  others : ∀ l, l ∉ legsOf a → c.leg l = b.leg l

theorem legOf_mem (ph : Fin 3) : legOf a ph ∈ legsOf a := by
  unfold legsOf
  match ph with
  | 0 => simp
  | 1 => simp
  | 2 => simp

theorem legOf_inj {a : Axis} {p q : Fin 3} (h : p ≠ q) : legOf a p ≠ legOf a q := fun e => h (Fin.ext (by
  have := congrArg Fin.val e
  simp only [legOf] at this
  omega))

theorem Asked.refl : Asked a c c := ⟨.refl _ c, fun _ _ => rfl⟩

theorem Asked.want {a : Axis} {b c : Chip} (h : Asked a b c) (ph : Fin 3) (m : LegMode) (on : BitVec 17) (s : Option Slew) :
    Asked a b (c.want (legOf a ph) m on s) :=
  ⟨h.only.then (.want ..), fun k hk => (c.want_other _ m on s fun e => hk (by rw [e]; exact legOf_mem a ph)).trans (h.others k hk)⟩

theorem Asked.divFree {a : Axis} {b c : Chip} (h : Asked a b c) (n d : Int) : Asked a b (c.divFree n d).1 :=
  ⟨h.only.then (.divFree ..), fun k hk => ((Only.divFree c n d).leg k).trans (h.others k hk)⟩

theorem Asked.softStep (s i : Nat) : Asked a c (c.softStep a s i) := by
  have shares (m n p q : Int) : Asked a c ((c.divFree m n).1.divFree p q).1 := ((Asked.refl c a).divFree ..).divFree ..
  unfold Chip.softStep
  dsimp only
  split
  · exact (((shares ..).want ..).want ..).want ..
  · exact (((shares ..).want ..).want ..).want ..

/-! ### Sectors (R170) -/

theorem sectorLegs_apart (s : Nat) : (sectorLegs s).1 ≠ (sectorLegs s).2.1 ∧ (sectorLegs s).1 ≠ (sectorLegs s).2.2 ∧
    (sectorLegs s).2.1 ≠ (sectorLegs s).2.2 := by
  unfold sectorLegs
  split <;> decide

/-- A sector has come into force (R170): what shows, and what is asked of the legs where duties drive them. -/
structure InSector (sec : Nat) (b c : Chip) : Prop where
  shown : sec < 8 → c.get (AX_SRCSTAT_SECTOR a.val) = sec
  axis : c.axis a = { b.axis a with trans := none }
  drives : b.pulsed a = true → (c.leg (legOf a (sectorLegs sec).1)).wantMode = .pwm ∧
    (c.leg (legOf a (sectorLegs sec).2.1)).wantMode = .low ∧ (c.leg (legOf a (sectorLegs sec).2.2)).wantMode = .float
  idle : b.pulsed a = false → c.legs = b.legs
  others : OneAxis a b c
  fields : FieldsBut [AX_SRCSTAT_SECTOR a.val] b c
  legs : ∀ l, l ∉ legsOf a → c.leg l = b.leg l
  only : Only [.regs, .legs, .axes] b c

theorem Chip.noteSector_axis (s : Nat) : (c.noteSector a s).axis a = { c.axis a with trans := none } := by
  unfold Chip.noteSector
  rw [Chip.axis_setAxis]

theorem Chip.noteSector_shows (s : Nat) : (s < 8 → (c.noteSector a s).get (AX_SRCSTAT_SECTOR a.val) = s) ∧
    FieldsBut [AX_SRCSTAT_SECTOR a.val] c (c.noteSector a s) ∧ OneAxis a c (c.noteSector a s) ∧ Only [.regs, .axes] c (c.noteSector a s) := by
  refine ⟨fun small => ?_, ?_, ?_, ?_⟩
  · exact (Chip.setAxis_get ..).trans (Chip.get_put_lt c _ (Field.ok_of _ rfl) s small)
  · exact ((FieldsBut.refl _ c).put _ _ (Field.ok_of _ rfl) List.mem_cons_self).of_regs rfl
  · exact fun k hk => (Chip.axis_setAxis_ne _ _ _ hk)
  · exact ((Only.put ..).mono : Only [.regs, .axes] _ _).then (.setAxis ..)

theorem Chip.toSector_eq (s : Nat) : c.toSector a s =
    (((c.noteSector a s).want (legOf a (sectorLegs s).1) .pwm c.duty[a] none).want (legOf a (sectorLegs s).2.1) .low 0 none).want
      (legOf a (sectorLegs s).2.2) .float 0 none := rfl

theorem InSector.takeSector (sec : Nat) : InSector a sec c (c.takeSector a sec) := by
  obtain ⟨shown, fields, others, only⟩ := c.noteSector_shows a sec
  have axis := c.noteSector_axis a sec
  unfold Chip.takeSector
  split
  next pulsed =>
    obtain ⟨pl, pf, lf⟩ := sectorLegs_apart sec
    have asked : Asked a (c.noteSector a sec) (c.toSector a sec) := by
      rw [Chip.toSector_eq]
      exact (((Asked.refl _ a).want ..).want ..).want ..
    have legs : Only [.legs] (c.noteSector a sec) (c.toSector a sec) := by
      rw [Chip.toSector_eq]
      exact ((Only.want ..).trans (.want ..)).trans (.want ..)
    refine ⟨fun small => (legs.get _).trans (shown small), (legs.axis a).trans axis, fun _ => ?_, fun idle => absurd pulsed (by simp [idle]),
      others.trans (legs.oneAxis a), fields.trans (legs.fieldsBut _), fun k hk => (asked.others k hk).trans (only.leg k), (only.mono).then legs⟩
    rw [Chip.toSector_eq]
    refine ⟨?_, ?_, Chip.want_mode ..⟩
    · rw [Chip.want_other _ _ _ _ _ (legOf_inj pf), Chip.want_other _ _ _ _ _ (legOf_inj pl), Chip.want_mode]
    · rw [Chip.want_other _ _ _ _ _ (legOf_inj lf), Chip.want_mode]
  next idle =>
    exact ⟨shown, axis, fun pulsed => absurd pulsed idle, fun _ => only.same .legs (by decide), others, fields, fun k _ => only.leg k, only.mono⟩

/-- Duties drive the legs as before. -/
theorem InSector.pulsed {a : Axis} {sec : Nat} {b c : Chip} (h : InSector a sec b c) : c.pulsed a = b.pulsed a := by
  have driven : (c.axis a).driven = (b.axis a).driven := by rw [h.axis]
  cases was : b.pulsed a
  · have legs (k : Leg) : c.leg k = b.leg k := congrArg (fun v : Vector _ _ => v[k]) (h.idle was)
    rw [← was]
    unfold Chip.pulsed
    rw [driven]
    refine congrArg (fun p => (b.axis a).driven && !p) (congrArg (legsOf a).all (funext fun k => ?_))
    rw [legs k]
  · have on : (b.axis a).driven = true := by
      unfold Chip.pulsed at was
      exact (Bool.and_eq_true_iff.mp was).1
    have high : (legsOf a).all (fun k => (c.leg k).wantMode == .low) = false := by
      refine Bool.eq_false_iff.mpr fun all => ?_
      have low := List.all_eq_true.mp all _ (legOf_mem a (sectorLegs sec).1)
      rw [(h.drives was).1] at low
      exact absurd low (by decide)
    unfold Chip.pulsed
    rw [driven, on, high]
    rfl

theorem InSector.trans {a : Axis} {x y : Nat} {b c d : Chip} (h : InSector a x b c) (k : InSector a y c d) : InSector a y b d :=
  ⟨k.shown, by rw [k.axis, h.axis], fun pulsed => k.drives (h.pulsed.trans pulsed), fun idle => (k.idle (h.pulsed.trans idle)).trans (h.idle idle),
    h.others.trans k.others, h.fields.trans k.fields, fun j hj => (k.legs j hj).trans (h.legs j hj), h.only.trans k.only⟩

theorem InSector.taken {a : Axis} {sec : Nat} {b c : Chip} (h : InSector a sec b c) (small : sec < 8) : SectorTaken a sec b c :=
  ⟨h.shown small, by rw [h.axis], h.drives, h.idle, h.others, h.fields, h.legs, h.only.eq⟩

/-- What an axis notes of itself before it takes a sector leaves the sector taken. -/
theorem InSector.of_axis {a : Axis} {sec : Nat} {b c : Chip} {x : AxisState} (h : InSector a sec (b.setAxis a x) c)
    (driven : x.driven = (b.axis a).driven) (small : sec < 8) : SectorTaken a sec b c := by
  have same : (b.setAxis a x).pulsed a = b.pulsed a := by
    unfold Chip.pulsed
    rw [Chip.axis_setAxis, driven]
    rfl
  exact ⟨h.shown small, by rw [h.axis], fun pulsed => h.drives (same.trans pulsed), fun idle => h.idle (same.trans idle),
    ((OneAxis.refl a b).setAxis x).trans h.others, h.fields, h.legs, (((Only.setAxis ..).mono : Only [.regs, .legs, .axes] _ _).trans h.only).eq⟩

theorem sectorAt_lt (x : BitVec 32) : sectorAt x < 6 := by
  have bound (l : List Nat) : ∀ m, m < 6 → (∀ k ∈ l, k < 6) → l.foldl max m < 6 := by
    induction l with
    | nil => exact fun m hm _ => hm
    | cons k l ih => exact fun m hm hl => ih _ (Nat.max_lt.mpr ⟨hm, hl k List.mem_cons_self⟩) fun j hj => hl j (List.mem_cons_of_mem _ hj)
  unfold sectorAt
  generalize hl : List.filter _ [1, 2, 3, 4, 5] = l
  have small : ∀ k ∈ l, k < 6 := fun k hk => by
    rw [← hl] at hk
    have := (List.mem_filter.mp hk).1
    simp only [List.mem_cons, List.not_mem_nil, or_false] at this
    omega
  cases l with
  | nil => decide
  | cons k l => exact bound _ 0 (by decide) small

theorem Chip.sectorOf_lt (θ : BitVec 32) : c.sectorOf a θ < 8 := by
  unfold Chip.sectorOf
  dsimp only
  split
  · exact Nat.lt_of_lt_of_le (Nat.mod_lt _ (by decide)) (by decide)
  · exact Nat.lt_of_lt_of_le (sectorAt_lt _) (by decide)

end

end Sys2Proof.Machine
end

section
-- One proof after the other: a side goal that `Only` settles by `decide` waits for the kernel, on a thread of its own.
set_option Elab.async false
/-! SUPPORT. Crossed lane cues; and the statement about commutation (R171 to R174, R191). -/
namespace Sys2Proof.Machine

section
variable (c : Chip) (a : Axis) (f : LaneFire)

/-! ### A crossed lane cue (R171, R174) -/

/-- The lane cue is taken off the queue. -/
def Chip.laneLeft : Chip := c.setAxis a { c.axis a with lane := (c.axis a).lane.erase f }

theorem Chip.laneLeft_axis : (c.laneLeft a f).axis a = { c.axis a with lane := (c.axis a).lane.erase f } := Chip.axis_setAxis ..

theorem Chip.laneLeft_pulsed : (c.laneLeft a f).pulsed a = c.pulsed a := by
  unfold Chip.pulsed
  rw [Chip.laneLeft_axis]
  rfl

theorem Chip.laneLeft_sixStep : (c.laneLeft a f).sixStep a = c.sixStep a := by
  unfold Chip.sixStep
  rw [Chip.laneLeft_axis]
  rfl

theorem Chip.laneLeft_runs : (c.laneLeft a f).laneRuns a = c.laneRuns a := by
  unfold Chip.laneRuns
  rw [Chip.laneLeft_axis, Chip.laneLeft_sixStep]
  rfl

theorem Chip.laneLeft_others : OneAxis a c (c.laneLeft a f) := fun _ hk => Chip.axis_setAxis_ne _ _ _ hk

theorem Chip.laneAct_idle (stopped : c.laneRuns a = false) : c.laneAct a f = c.laneLeft a f :=
  if_pos (show (!(c.laneLeft a f).laneRuns a) = true by rw [Chip.laneLeft_runs, stopped]; rfl)

theorem Chip.laneAct_point (runs : c.laneRuns a = true) (first : c.laneStep a f.back f.place = 0) :
    c.laneAct a f = (c.laneLeft a f).atPoint a f.point f.back :=
  (if_neg (show ¬ (!(c.laneLeft a f).laneRuns a) = true by rw [Chip.laneLeft_runs, runs]; decide)).trans (if_pos first)

/-- A later cue of the transition in progress is its next step, or its end (R174). -/
theorem Chip.laneAct_step {x : Trans} (runs : c.laneRuns a = true) (later : c.laneStep a f.back f.place ≠ 0)
    (during : (c.axis a).trans = some x) (point : x.point = f.point) (back : x.back = f.back)
    (due : x.step ≤ c.laneStep a f.back f.place) :
    c.laneAct a f = if c.laneStep a f.back f.place < c.softSteps a then (c.laneLeft a f).toTrans a x (c.laneStep a f.back f.place)
      else (c.laneLeft a f).takeSector a x.sector := by
  have still : ((c.laneLeft a f).axis a).trans = some x := by rw [Chip.laneLeft_axis]; exact during
  have own : ¬ (x.point != f.point || x.back != f.back || decide (c.laneStep a f.back f.place < x.step)) = true := by
    rw [point, back, bne_self_eq_false, bne_self_eq_false, Bool.false_or, Bool.false_or, decide_eq_true_iff]
    exact Nat.not_lt.mpr due
  refine ((if_neg (show ¬ (!(c.laneLeft a f).laneRuns a) = true by rw [Chip.laneLeft_runs, runs]; decide)).trans (if_neg later)).trans ?_
  refine Eq.trans (b := match ((c.laneLeft a f).axis a).trans with
    | none => c.laneLeft a f
    | some y => if y.point != f.point || y.back != f.back || decide (c.laneStep a f.back f.place < y.step) then c.laneLeft a f
      else if c.laneStep a f.back f.place < c.softSteps a then (c.laneLeft a f).toTrans a y (c.laneStep a f.back f.place)
      else (c.laneLeft a f).takeSector a y.sector) rfl ?_
  rw [still]
  exact if_neg own

/-- The cue that `find?` answers is one of its point and direction that begins a commutation. -/
theorem Chip.pointDue_some {k : Fin 6} {back : Bool} (due : c.pointDue a k back = some f) :
    f.point = k.val ∧ f.back = back ∧ c.laneStep a f.back f.place = 0 := by
  have := List.find?_some due
  simp only [Bool.and_eq_true, beq_iff_eq] at this
  exact ⟨this.1.1, this.1.2, this.2⟩

theorem Chip.stepDue_some (due : c.stepDue a = some f) : c.laneStep a f.back f.place ≠ 0 := by
  have := List.find?_some due
  simpa using this

theorem Chip.commutationPoint_due {k : Fin 6} {back : Bool} (due : c.pointDue a k back = some f) :
    c.commutationPoint a k back = c.laneAct a f := by
  unfold Chip.commutationPoint
  rw [show List.find? _ _ = some f from due]

theorem Chip.commutationPoint_none {k : Fin 6} {back : Bool} (due : c.pointDue a k back = none) : c.commutationPoint a k back = c := by
  unfold Chip.commutationPoint
  rw [show List.find? _ _ = none from due]

theorem Chip.transitionStep_due (due : c.stepDue a = some f) : c.transitionStep a = c.laneAct a f := by
  unfold Chip.transitionStep
  rw [show List.find? _ _ = some f from due]

theorem Chip.transitionStep_none (due : c.stepDue a = none) : c.transitionStep a = c := by
  unfold Chip.transitionStep
  rw [show List.find? _ _ = none from due]

/-! ### Transitions (R174) -/

/-- A step of a transition has been made: the transition that is noted, and legs of the axis that may be asked. -/
structure InTrans (x : Trans) (b c : Chip) : Prop where
  noted : (c.axis a).trans = some x
  others : OneAxis a b c
  legs : ∀ l, l ∉ legsOf a → c.leg l = b.leg l
  only : Only [.legs, .axes, .free] b c

theorem InTrans.toTrans (x : Trans) (i : Nat) : InTrans a { x with step := i + 1 } c (c.toTrans a x i) := by
  have asked := Asked.softStep c a x.sector i
  refine ⟨congrArg AxisState.trans (Chip.axis_setAxis ..), ?_, fun l hl => asked.others l hl, ?_⟩
  · exact fun k hk => (Chip.axis_setAxis_ne _ _ _ hk).trans (asked.only.axis k)
  · exact (asked.only.mono : Only [.legs, .axes, .free] _ _).then (.setAxis ..)

theorem Chip.laneLeft_only : Only [.axes] c (c.laneLeft a f) := .setAxis ..

theorem InTrans.of_left {x : Trans} {c : Chip} {f : LaneFire} {d : Chip} (h : InTrans a x (c.laneLeft a f) d) : InTrans a x c d :=
  ⟨h.noted, (c.laneLeft_others a f).trans h.others, h.legs, ((c.laneLeft_only a f).mono : Only [.legs, .axes, .free] _ _).trans h.only⟩

theorem torqued_point (neg back : Bool) (k : Nat) (small : k < 6) :
    (if neg then ((if back then (k + 5) % 6 else k) + 3) % 6 else if back then (k + 5) % 6 else k) =
      ((if back then k + 5 else k) + if neg then 3 else 0) % 6 := by
  cases neg <;> cases back <;> simp only [Bool.false_eq_true, if_true, if_false] <;> omega

/-- The sector that a point gives, for the torque sign of the axis (R170, R171). -/
theorem Chip.laneLeft_torqued (k : Fin 6) (back : Bool) : (c.laneLeft a f).torqued a (if back then (k.val + 5) % 6 else k.val) =
    ((if back then k.val + 5 else k.val) + if (c.axis a).negTorque then 3 else 0) % 6 := by
  unfold Chip.torqued
  rw [Chip.laneLeft_axis]
  exact torqued_point _ _ _ k.isLt

/-- A point of an axis that does not change over commutates (R171, R191). -/
theorem Chip.atPoint_commutates (k : Nat) (back : Bool) (six : c.flag (AX_COMCFG_WAVE a.val) = false) :
    c.atPoint a k back = c.commutate a (c.torqued a (if back then (k + 5) % 6 else k)) k back := by
  unfold Chip.atPoint
  dsimp only
  rw [six]
  rfl

/-- The cue of point `k` begins a commutation into its sector (R171). -/
theorem Chip.laneAct_commutates {k : Fin 6} (point : f.point = k.val) (runs : c.laneRuns a = true) (first : c.laneStep a f.back f.place = 0)
    (six : c.flag (AX_COMCFG_WAVE a.val) = false) : c.laneAct a f = (c.laneLeft a f).commutate a
      (((if f.back then k.val + 5 else k.val) + if (c.axis a).negTorque then 3 else 0) % 6) k.val f.back := by
  rw [Chip.laneAct_point _ _ _ runs first, point, Chip.atPoint_commutates (c.laneLeft a f) a _ _ six, Chip.laneLeft_torqued]

/-- The axis changes over (R191). -/
theorem Chip.atPoint_changes (k : Nat) (back : Bool) (foc : c.flag (AX_COMCFG_WAVE a.val) = true) (closed : c.startOf a = 3)
    (agreed : c.get (AX_PLAUS_PLAUS_N a.val) ≤ (c.axis a).obsGood) :
    let d := c.takeSector a (c.torqued a (if back then (k + 5) % 6 else k))
    c.atPoint a k back = d.setAxis a { d.axis a with focOn := true, focNew := true } := by
  unfold Chip.atPoint
  dsimp only
  rw [foc, closed, decide_eq_true agreed]
  rfl

/-- A transition that the last point began is at its end (R173). -/
def Chip.lastEnds : Chip := match (c.axis a).trans with | some x => c.takeSector a x.sector | none => c

theorem Chip.commutate_eq (s k : Nat) (back : Bool) : c.commutate a s k back =
    if (c.lastEnds a).softSteps a = 0 || !(c.lastEnds a).pulsed a || !nextTo ((c.lastEnds a).get (AX_SRCSTAT_SECTOR a.val)) s then
      (c.lastEnds a).takeSector a s
    else (c.lastEnds a).toTrans a ⟨s, 0, back, k, (c.lastEnds a).reg (AX_CUEPOS a.val k)⟩ 0 := rfl

theorem Chip.lastEnds_none (h : (c.axis a).trans = none) : c.lastEnds a = c := by
  unfold Chip.lastEnds
  rw [h]

/-- A hard change takes the sector, whether or not a transition was in progress (R173, R174). -/
theorem InSector.commutate (s k : Nat) (back : Bool) (hard : c.softSteps a = 0) : InSector a s c (c.commutate a s k back) := by
  rw [Chip.commutate_eq]
  cases during : (c.axis a).trans with
  | none =>
    rw [c.lastEnds_none a during, hard]
    exact InSector.takeSector c a s
  | some x =>
    have ended : InSector a x.sector c (c.lastEnds a) := by
      unfold Chip.lastEnds
      rw [during]
      exact InSector.takeSector c a x.sector
    have still : (c.lastEnds a).softSteps a = 0 := by
      have away : AX_SOFT a.val ≠ AX_SRCSTAT a.val := by simp only [AX_SOFT, AX_SRCSTAT]; omega
      have span := ended.fields (AX_SOFT_SPAN a.val) (Field.ok_of _ rfl) (List.forall_mem_singleton.mpr (.inl away))
      have steps := ended.fields (AX_SOFT_STEPS a.val) (Field.ok_of _ rfl) (List.forall_mem_singleton.mpr (.inl away))
      unfold Chip.softSteps
      rw [span, steps]
      exact hard
    rw [still]
    exact ended.trans (InSector.takeSector _ a s)

/-! ### A jump of the electrical timebase (R172) -/

/-- The jump is taken note of. -/
def Chip.jumpSeen : Chip := c.setTb (tbeOf a) { c.tb (tbeOf a) with jumped := false }

theorem Chip.jumpSeen_val : ((c.jumpSeen a).tb (tbeOf a)).val = (c.tb (tbeOf a)).val := by
  unfold Chip.jumpSeen
  rw [Chip.tb_setTb]

theorem Chip.jumpSeen_theta : (c.jumpSeen a).theta a = c.theta a := by
  unfold Chip.theta
  rw [Chip.jumpSeen_val]
  rfl

theorem Chip.jumpSeen_window : (c.jumpSeen a).windowAt a = c.windowAt a := by
  unfold Chip.windowAt
  rw [Chip.jumpSeen_val]
  rfl

/-- The new value gives sector and step. -/
def Chip.reapplied : Chip := match c.windowAt a with
  | some x =>
    let d := c.takeSector a (c.torqued a (if x.back then (x.sector + 1) % 6 else (x.sector + 5) % 6))
    if d.pulsed a then d.toTrans a { x with sector := d.torqued a x.sector } x.step else d.takeSector a (d.torqued a x.sector)
  | none => c.takeSector a (c.sectorOf a (c.theta a))

theorem Chip.reapplied_outside (outside : c.windowAt a = none) :
    c.reapplied a = c.takeSector a (c.sectorOf a (c.theta a)) := by
  unfold Chip.reapplied
  rw [outside]

theorem Chip.reapplied_inside {x : Trans} {d : Chip} {n : Nat} (within : c.windowAt a = some x)
    (took : c.takeSector a (c.torqued a (if x.back then (x.sector + 1) % 6 else (x.sector + 5) % 6)) = d)
    (pulsed : d.pulsed a = true) (turned : d.torqued a x.sector = n) : c.reapplied a = d.toTrans a { x with sector := n } x.step := by
  unfold Chip.reapplied
  rw [within]
  dsimp only
  rw [took, if_pos pulsed, turned]

theorem Chip.sectorReapply_eq (jumped : (c.tb (tbeOf a)).jumped = true) (on : c.axisOn a = true) (armed : c.isArmed = true)
    (six : c.sixStep a = true) (still : c.startOf a ≠ 1) (closed : c.startOf a ≠ 2) :
    c.sectorReapply a = (c.jumpSeen a).reapplied a := by
  have follows : ¬ (!(c.jumpSeen a).axisOn a || !(c.jumpSeen a).isArmed || !(c.jumpSeen a).sixStep a || (c.jumpSeen a).startOf a == 1 ||
      (c.jumpSeen a).startOf a == 2) = true := by
    rw [show (c.jumpSeen a).axisOn a = true from on, show (c.jumpSeen a).isArmed = true from armed,
      show (c.jumpSeen a).sixStep a = true from six, show (c.jumpSeen a).startOf a = c.startOf a from rfl]
    simp [still, closed]
  have there : ¬ (!(c.tb (tbeOf a)).jumped) = true := by rw [jumped]; decide
  exact (if_neg there).trans (if_neg follows)

theorem InSector.torqued {a : Axis} {sec : Nat} {b c : Chip} (h : InSector a sec b c) (s : Nat) : c.torqued a s = b.torqued a s := by
  unfold Chip.torqued
  rw [h.axis]

theorem Only.jumpSeen : Only [.tbs] c (c.jumpSeen a) := .setTb ..

/-- After a jump into a transition window, the sector before it and then the step are taken. -/
theorem InSector.inside {c : Chip} {a : Axis} {sec : Nat} {x : Trans} {d e : Chip} (took : InSector a sec (c.jumpSeen a) d) (made : InTrans a x d e) :
    (e.axis a).trans = some x ∧ (e.tb (tbeOf a)).jumped = false ∧ OneAxis a c e ∧ FieldsBut [AX_SRCSTAT_SECTOR a.val] c e ∧
      e = { c with regs := e.regs, tbs := e.tbs, legs := e.legs, axes := e.axes, free := e.free } := by
  have seen : Only [.regs, .tbs, .legs, .axes, .free] c (c.jumpSeen a) := (Only.jumpSeen c a).mono
  have heard : ((c.jumpSeen a).tb (tbeOf a)).jumped = false := congrArg TbState.jumped (Chip.tb_setTb ..)
  refine ⟨made.noted, ?_, ?_, ?_, ((seen.then took.only).then made.only).eq⟩
  · exact (congrArg TbState.jumped ((made.only.tb _).trans (took.only.tb _))).trans heard
  · exact took.others.trans made.others
  · exact took.fields.trans (made.only.fieldsBut _)

end

end Sys2Proof.Machine

open Sys2Proof.Machine

/-- Settles O16: each row acts on the lane cue that was crossed, taken off the queue, or on the new value of a jumped timebase. -/
theorem commutation : Obligations.Commutation := by
  refine ⟨?hard, ?soft, ?stopped, ?quiet, ?foc, ?step, ?last, ?noStep, ?follows, ?inside, ?noJump⟩
  case hard =>
    rintro s a k back f sec due runs six none sum
    obtain ⟨point, rfl, first⟩ := Chip.pointDue_some _ _ _ due
    have act := (Chip.laneAct_commutates s.chip a f point runs first six).trans (congrArg (fun n => Chip.commutate _ a n k.val f.back) sum.symm)
    have took := InSector.commutate (s.chip.laneLeft a f) a sec k.val f.back none
    refine completes_of_run (·.commutationPoint a k f.back) rfl ((Chip.commutationPoint_due _ _ _ due).trans act) ⟨took.of_axis rfl ?_, ?_⟩
    · rw [sum]
      exact Nat.lt_of_lt_of_le (Nat.mod_lt _ (by decide)) (by decide)
    · rw [took.axis, Chip.laneLeft_axis]
  case soft =>
    rintro s a k back f sec due runs six some pulsed rest sum near
    obtain ⟨point, rfl, first⟩ := Chip.pointDue_some _ _ _ due
    have act := (Chip.laneAct_commutates s.chip a f point runs first six).trans (congrArg (fun n => Chip.commutate _ a n k.val f.back) sum.symm)
    have ended : (s.chip.laneLeft a f).lastEnds a = s.chip.laneLeft a f := Chip.lastEnds_none _ _ (by rw [Chip.laneLeft_axis]; exact rest)
    have soft : ¬ (decide ((s.chip.laneLeft a f).softSteps a = 0) || !(s.chip.laneLeft a f).pulsed a ||
        !nextTo ((s.chip.laneLeft a f).get (AX_SRCSTAT_SECTOR a.val)) sec) = true := by
      rw [Chip.laneLeft_pulsed, pulsed, show (s.chip.laneLeft a f).get _ = s.chip.get _ from rfl, near,
        decide_eq_false (show ¬ (s.chip.laneLeft a f).softSteps a = 0 from Nat.ne_of_gt some)]
      decide
    rw [Chip.commutate_eq, ended, if_neg soft] at act
    refine completes_of_run (·.commutationPoint a k f.back) rfl ((Chip.commutationPoint_due _ _ _ due).trans act) ?_
    obtain ⟨noted, others, legs, only⟩ := (InTrans.toTrans (s.chip.laneLeft a f) a ⟨sec, 0, f.back, k.val, s.chip.reg (AX_CUEPOS a.val k.val)⟩ 0).of_left
    exact ⟨noted, others, legs, only.eq⟩
  case stopped =>
    intro s a k back f due stopped
    refine completes_of_run (·.commutationPoint a k back) rfl ((Chip.commutationPoint_due _ _ _ due).trans (Chip.laneAct_idle _ _ _ stopped)) ?_
    exact ⟨Chip.laneLeft_axis .., Chip.laneLeft_others _ a f, (Chip.laneLeft_only _ a f).eq⟩
  case quiet => exact fun s a k back due => idles_of_run (·.commutationPoint a k back) rfl (Chip.commutationPoint_none _ _ due)
  case foc =>
    rintro s a k back f due runs foc closed agreed
    obtain ⟨point, rfl, first⟩ := Chip.pointDue_some _ _ _ due
    have took (sec : Nat) := InSector.takeSector (s.chip.laneLeft a f) a sec
    refine completes_of_run (·.commutationPoint a k f.back) rfl (((Chip.commutationPoint_due _ _ _ due).trans (Chip.laneAct_point _ _ _ runs first)).trans
      (Chip.atPoint_changes (s.chip.laneLeft a f) a f.point f.back foc closed ?_)) ?_
    · rw [Chip.laneLeft_axis]
      exact agreed
    · refine ⟨congrArg AxisState.focOn (Chip.axis_setAxis ..), congrArg AxisState.focNew (Chip.axis_setAxis ..),
        (congrArg AxisState.trans (Chip.axis_setAxis ..)).trans (congrArg AxisState.trans (took _).axis), ?_⟩
      exact (Chip.laneLeft_others _ a f).trans ((took _).others.setAxis _)
  case step =>
    intro s a f x i due runs during point back hi low high
    have act := Chip.laneAct_step s.chip a f runs (Chip.stepDue_some _ _ _ due) during point back (hi ▸ low)
    rw [hi, if_pos high] at act
    refine completes_of_run (·.transitionStep a) rfl ((Chip.transitionStep_due _ _ _ due).trans act) ?_
    obtain ⟨noted, others, legs, only⟩ := (InTrans.toTrans (s.chip.laneLeft a f) a x i).of_left
    exact ⟨noted, others, legs, only.eq⟩
  case last =>
    intro s a f x due runs during point back small low high
    have act := Chip.laneAct_step s.chip a f runs (Chip.stepDue_some _ _ _ due) during point back low
    rw [if_neg (Nat.not_lt.mpr high)] at act
    refine completes_of_run (·.transitionStep a) rfl ((Chip.transitionStep_due _ _ _ due).trans act) ?_
    exact (InSector.takeSector (s.chip.laneLeft a f) a x.sector).of_axis rfl (Nat.lt_of_lt_of_le small (by decide))
  case noStep => exact fun s a due => idles_of_run (·.transitionStep a) rfl (Chip.transitionStep_none _ _ due)
  case follows =>
    intro s a jumped on armed six still closed outside
    have act := (Chip.sectorReapply_eq s.chip a jumped on armed six still closed).trans
      (Chip.reapplied_outside _ a ((Chip.jumpSeen_window ..).trans outside))
    rw [Chip.jumpSeen_theta] at act
    exact completes_of_run (·.sectorReapply a) rfl act ((InSector.takeSector (s.chip.jumpSeen a) a _).taken (Chip.sectorOf_lt ..))
  case inside =>
    intro s a x jumped on armed six still closed within pulsed
    have took := InSector.takeSector (s.chip.jumpSeen a) a ((s.chip.jumpSeen a).torqued a (if x.back then (x.sector + 1) % 6 else (x.sector + 5) % 6))
    generalize named : Chip.takeSector (s.chip.jumpSeen a) a _ = d at took
    have act := (Chip.sectorReapply_eq s.chip a jumped on armed six still closed).trans
      (Chip.reapplied_inside _ a ((Chip.jumpSeen_window ..).trans within) named (took.pulsed.trans pulsed) (took.torqued _))
    exact completes_of_run (·.sectorReapply a) rfl act (took.inside (InTrans.toTrans d a { x with sector := s.chip.torqued a x.sector } x.step))
  case noJump =>
    intro s a still
    refine idles_of_run (·.sectorReapply a) rfl (if_pos ?_)
    rw [still]
    rfl
end

section
-- One proof after the other: a side goal that `Only` settles by `decide` waits for the kernel, on a thread of its own.
set_option Elab.async false
/-! SUPPORT. A state in which a start trains the threshold of a band that no axis has, whose place is that of a captured crossing; and the
refutation of the statement about sensorless starts (R190, R196, R269). -/
namespace Sys2Proof.Machine

/-- The direction of detection that agrees with an angle (R196). -/
def directionOf (e : BitVec 32) : Nat := e.toNat * 12 / 2 ^ 32

theorem directionOf_agrees (e : BitVec 32) : (e - ipdAngle (directionOf e)).toInt.natAbs ≤ 2 ^ 32 / 12 := by
  have small := e.isLt
  have angle : (ipdAngle (directionOf e)).toNat = e.toNat * 12 / 2 ^ 32 * 2 ^ 32 / 12 := by
    unfold ipdAngle directionOf
    rw [BitVec.toNat_ofNat]
    omega
  have below : (e - ipdAngle (directionOf e)).toNat = e.toNat - e.toNat * 12 / 2 ^ 32 * 2 ^ 32 / 12 := by
    rw [BitVec.toNat_sub, angle]
    omega
  rw [BitVec.toInt_eq_toNat_of_lt (by omega), below]
  omega

theorem Only.pcEvent (c : Chip) (l : Leg) (rise : Bool) : Only [.regs, .fresh] c (c.pcEvent l rise) := by
  have taken (full : Bool) (θ : Nat) : Only [.regs, .fresh] c (((((c.put (PC_CAP_TICK l.val) c.wall).mark (PC_CAPS_FULL l.val)).markIf full
      (PC_CAPS_OVF l.val)).putF (PC_CAPS_RISE l.val) rise).put (PC_CAPS_THETA l.val) θ) :=
    (((((Only.refl _ c).then (.put ..)).then (.mark ..)).then (.markIf ..)).then (.putF ..)).then (.put ..)
  have noted {d : Chip} (h : Only [.regs, .fresh] c d) (b : Bool) (f : Field) (w : Bool) :
      Only [.regs, .fresh] c (if w then (d.markIf b f).wake else d.markIf b f) := .ite ((h.then (.markIf ..)).then (.put ..)) (h.then (.markIf ..))
  unfold Chip.pcEvent
  dsimp only
  split
  · exact noted (taken _ _) _ _ _
  · exact noted (.refl _ c) _ _ _

/-- An estimate that qualifies at an angle `e`, which agrees with the detected one or not (R190, R196). -/
def Chip.qualifiesAt (c : Chip) (a : Axis) (e : BitVec 32) (agree : Bool) : Chip :=
  let c := ((c.takeEstimate a e).putF (AX_SRCSTAT_QUAL a.val) true).refreshSources a
  if c.startOf a = 2 then
    let c := (c.setStart a 3 none).setAxis a { (c.setStart a 3 none).axis a with focOn := false, obsGood := 0 }
    let c := if agree then c.keepMargin a else c
    if c.usesSensorless a then c.regainAxis a else c
  else if c.usesSensorless a && (c.axis a).orderly && (c.tb (tbmOf a)).lost then
    (c.setAxis a { c.axis a with orderly := false }).regainAxis a
  else if (c.tb (tbmOf a)).lost then c
  else c.feedAxis a false

theorem Chip.estimateQualifies_at (c : Chip) (a : Axis) :
    c.estimateQualifies a = c.freeWord.1.qualifiesAt a c.freeWord.2 (c.freeWord.1.ipdAgrees a c.freeWord.2) := rfl

/-- The axis after its first crossing, which has no prediction. -/
def Chip.firstCrossing (c : Chip) (a : Axis) (θ : BitVec 32) : Chip :=
  c.setAxis a { c.axis a with crossRow := 0, missRow := 0, crossTick := some c.now, crossAngle := θ }

theorem Chip.firstCrossing_direction (c : Chip) (a : Axis) (θ : BitVec 32) :
    ((c.firstCrossing a θ).freeWord.1.axis a).ipdDir = (c.axis a).ipdDir := by
  have judged : (c.firstCrossing a θ).axis a = { c.axis a with crossRow := 0, missRow := 0, crossTick := some c.now, crossAngle := θ } :=
    Chip.axis_setAxis ..
  exact (congrArg AxisState.ipdDir judged).trans rfl

theorem Chip.judgeCrossing_first (c : Chip) (a : Axis) (p speed : Nat) (θ : BitVec 32) (close : Bool) (first : (c.axis a).crossTick = none)
    (fresh : (c.firstCrossing a θ).flag (AX_SRCSTAT_QUAL a.val) = false) (row : (c.firstCrossing a θ).get (AX_BEMF_QUALN a.val) = 0)
    (slow : (c.firstCrossing a θ).get (AX_BEMF_QUAL_SPEED a.val) = 0) (six : (c.firstCrossing a θ).sixStep a = true) :
    c.judgeCrossing a p speed θ close = (c.firstCrossing a θ).estimateQualifies a := by
  have judged : c.judgeCrossing a p speed θ close =
      if (c.firstCrossing a θ).flag (AX_SRCSTAT_QUAL a.val) then (c.firstCrossing a θ).takeObserver a
      else if (c.firstCrossing a θ).get (AX_BEMF_QUALN a.val) ≤ 0 && decide ((c.firstCrossing a θ).get (AX_BEMF_QUAL_SPEED a.val) ≤ speed) &&
        ((c.firstCrossing a θ).sixStep a || close) then (c.firstCrossing a θ).estimateQualifies a else c.firstCrossing a θ := by
    unfold Chip.judgeCrossing
    dsimp only
    rw [first]
    rfl
  rw [judged, fresh, row, slow, six, decide_eq_true (Nat.zero_le _)]
  rfl

/-- Axis 0 in open loop on its sensorless source, all its legs floating. It keeps eight margins of a band whose threshold would stand
where the first captured crossing does: nothing in a state bounds the band. The direction detected agrees with the angle to come. -/
def opened : State :=
  let c : Chip := { load := { stage := .done } }
  let c := [(SYS_STATUS_BOOT, 0), (SYS_STATUS_PSTATE, 2), (SYS_STATUS_CFG_OK, 1), (AX_COMCFG_EN 0, 1), (AX_SRC_PRI 0, 5),
    (AX_SRCSTAT_START 0, 2), (AX_BEMF_QUALN 0, 0), (AX_BEMF_QUAL_SPEED 0, 0), (AX_IPD_THR 0, 0), (PC_CAPEN_EN, 1)].foldl (fun c x => c.put x.1 x.2) c
  { State.reset with chip := c.setAxis 0 { c.axis 0 with
      margins := List.replicate 8 (98704, 0), ipdBand := 98704, ipdDir := directionOf ((Config.freeValue 4).truncate 32) } }

/-- The chip once the crossing is captured. -/
def crossingRead : Chip := opened.chip.pcEvent 0 true

/-- The crossing's angle is the third free word, the predicted interval the first, the estimate's speed the second. -/
def crossingWord : Fin 3 → BitVec 32
  | 0 => crossingRead.freeWord.2
  | 1 => crossingRead.useFree.freeWord.2
  | 2 => crossingRead.useFree.useFree.freeWord.2

/-- The chip as the crossing is judged. -/
def crossingAsked : Chip := crossingRead.useFree.useFree.useFree.useFree

/-- The first crossing has been judged. -/
def crossingJudged : Chip := crossingAsked.firstCrossing 0 (crossingWord 2)

theorem opened_reads : opened.chip.pcRead 0 = true ∧ crossingRead.hasSensorless (axisOfLeg 0) = true ∧
    opened.chip.hasSensorless (axisOfLeg 0) = true ∧ (opened.chip.get PC_CAPEN_EN).testBit 0 = true ∧ opened.chip.wall = 0 := by decide +kernel

theorem opened_unqualified : crossingJudged.flag (AX_SRCSTAT_QUAL 0) = false ∧ crossingJudged.get (AX_BEMF_QUALN 0) = 0 ∧
    crossingJudged.get (AX_BEMF_QUAL_SPEED 0) = 0 ∧ crossingJudged.sixStep 0 = true ∧ (crossingAsked.axis 0).crossTick = none := by decide +kernel

theorem opened_judged (p speed : Nat) (close : Bool) :
    crossingAsked.judgeCrossing 0 p speed (crossingWord 2) close = crossingJudged.estimateQualifies 0 := by
  obtain ⟨fresh, row, slow, six, first⟩ := opened_unqualified
  exact Chip.judgeCrossing_first _ 0 p speed _ close first fresh row slow six

theorem opened_crosses : opened.chip.zeroCrossing 0 true = crossingJudged.estimateQualifies 0 := by
  obtain ⟨reads, sensorless, _, _, _⟩ := opened_reads
  refine ((if_neg (by rw [reads]; decide)).trans (if_neg ?_)).trans (opened_judged _ _ _)
  rw [show opened.chip.pcEvent 0 true = crossingRead from rfl, sensorless]
  decide

theorem opened_agrees : crossingJudged.freeWord.1.ipdAgrees 0 crossingJudged.freeWord.2 = true := by
  have read : crossingJudged.free = 4 := by decide +kernel
  have word : crossingJudged.freeWord.2 = (Config.freeValue 4).truncate 32 := congrArg (fun n => (Config.freeValue n).truncate 32) read
  have set : (opened.chip.axis 0).ipdDir = directionOf ((Config.freeValue 4).truncate 32) := congrArg AxisState.ipdDir (Chip.axis_setAxis ..)
  have reads (d : Chip) : Only [.free] d d.useFree.useFree.useFree.useFree := .of_mix rfl
  have only : Only [.regs, .fresh, .free] opened.chip crossingAsked :=
    ((Only.pcEvent opened.chip 0 true).mono : Only [.regs, .fresh, .free] _ _).then (reads crossingRead)
  have asked := (congrArg AxisState.ipdDir (only.axis 0)).trans set
  have direction : (crossingJudged.freeWord.1.axis 0).ipdDir = directionOf ((Config.freeValue 4).truncate 32) :=
    (Chip.firstCrossing_direction crossingAsked 0 (crossingWord 2)).trans asked
  unfold Chip.ipdAgrees
  rw [word, direction]
  exact decide_eq_true (directionOf_agrees _)

/-- Training the threshold marks the place of the captured crossing. -/
theorem opened_trains : (crossingJudged.freeWord.1.qualifiesAt 0 crossingJudged.freeWord.2 true).get (PC_CAP_TICK 0) = 2 ^ 31 := by decide +kernel

end Sys2Proof.Machine

open Sys2Proof.Machine

/-- Refutes O17: a crossing that qualifies an open-loop start trains the threshold of the band of its margins, and no hypothesis
bounds the band, so that the threshold may stand where the crossing was captured. -/
theorem not_sensorlessStarts : ¬ Obligations.SensorlessStarts := by
  intro h
  obtain ⟨reads, _, sensorless, enabled, wall⟩ := opened_reads
  have captured := ((of_completes_run (·.zeroCrossing 0 true) rfl (h.2.2.2.1 opened 0 true reads sensorless)).2.2 enabled).1
  have shown : (opened.chip.zeroCrossing 0 true).get (PC_CAP_TICK 0) = 2 ^ 31 := by
    rw [opened_crosses, Chip.estimateQualifies_at, opened_agrees]
    exact opened_trains
  have tick := captured.symm.trans shown
  rw [wall] at tick
  exact absurd tick (by decide)
end

section
/-! SUPPORT. A part in which a sine slice closes its half-cycle while the cosine slice of its resolver has delivered its own. -/
namespace Sys2Proof.Machine

/-- Slice 32, the sine of resolver 0, has its scheduled close before it, and slice 33, the cosine, has an interval that nothing
has taken yet; the excitation is in its negative half-cycle. -/
def halfPaired : State :=
  let c : Chip := { load := { stage := .done }, now := 8, wall := 8, excPos := false }
  let c := [(SYS_STATUS_BOOT, 0), (SYS_STATUS_PSTATE, 2), (SYS_STATUS_CFG_OK, 1)].foldl (fun c x => c.put x.1 x.2) c
  { State.reset with chip := (c.setSlice 32 { running := true, reqSched := true }).setSlice 33 { fresh := true } }

/-- A window without packets. -/
def emptyWindow : Window := ⟨0, 0, 0, 0⟩

theorem halfPaired_closes : halfPaired.chip.closesAlone 32 emptyWindow emptyWindow := by
  unfold Chip.closesAlone
  decide +kernel

theorem halfPaired_fresh : (halfPaired.chip.slice 33).fresh = true := by decide +kernel

/-- R122: the resolver takes the half-cycle from both of its slices. -/
theorem halfPaired_taken : ((halfPaired.chip.windowClose 32 emptyWindow emptyWindow).slice 33).fresh = false := by decide +kernel

end Sys2Proof.Machine

open Sys2Proof.Machine

/-- Refutes O10: the first clause leaves every slice but the one that closes as it was, and the close of a resolver's sine slice
also takes the interval of its cosine slice. -/
theorem not_windowsAreBooked : ¬ Obligations.WindowsAreBooked := by
  intro h
  have booked := of_completes_run (·.windowClose 32 emptyWindow emptyWindow) rfl
    (h.1 halfPaired 32 emptyWindow emptyWindow halfPaired_closes)
  obtain ⟨_, _, _, _, _, _, _, others, _⟩ := booked
  have kept : ((halfPaired.chip.windowClose 32 emptyWindow emptyWindow).slice 33).fresh = true :=
    (congrArg SliceState.fresh (others 33 (by decide))).trans halfPaired_fresh
  rw [halfPaired_taken] at kept
  exact absurd kept (by decide)
end

section
set_option Elab.async false
/-! SUPPORT. A loader whose axis 0 shows a secondary source in use, which its image does not name: its incremental group begins
as the configuration locks. -/
namespace Sys2Proof.Machine

/-- The header of an image of one section, in 52 bytes. -/
def shortHeader : Header := ⟨0x4E4B5242, 1, 1, 52, State.reset.chip.reg SYS_ID, 0, 7, 0, 0⟩

/-- The slices as Tables 5-1 and 5-2 want them: each phase slice names its own axis, the resolver slices close by the excitation,
the auxiliary ones of the second region name an axis of it, and the bus voltage slices have their range. -/
def tableSlices : List (Field × Nat) :=
  allSlices.flatMap fun k => match phaseAxis k with
    | some a => [(SL_CFG_AXIS k.val, a.val)]
    | none => [(SL_CFG_AXIS k.val, 4 * (k.val / 16)), (SL_CFG_CLOSE k.val, if 32 ≤ k.val then 3 else 0),
        (SL_CFG_RANGE k.val, if k = voltSlice 0 ∨ k = voltSlice 1 then 2 else 0)]

/-- An image that enables axis 0 with an incremental group as its only source awaits its end, on a part whose axis 0 still shows
a secondary source in use. -/
def leftOnSecondary : State :=
  let c : Chip := { load := { stage := .loading, header := some shortHeader, sect := 1, bytes := List.replicate 52 0 } }
  let l := [(AX_COMCFG_EN 0, 1), (AX_SRC_PRI 0, 2), (FP_CFG_EN 0, 1), (FP_CFG_FUNC 0, 1), (FP_CFG_DEST 0, 8), (SL_CFG_EN 0, 1),
    (SL_CFG_EN 1, 1), (SL_CFG_EN 2, 1), (SL_CFG_EN 14, 1), (AX_SRCSTAT_ON_SEC 0, 1), (AX_SRCSTAT_SEC_OK 0, 1)]
  { State.reset with chip := (tableSlices ++ l).foldl (fun c x => c.put x.1 x.2) c }

/-- Every check of a list passes. -/
abbrev Passed (l : List Check) : Prop := ∀ x ∈ l, x.1 = false

theorem Passed.append {l m : List Check} (hl : Passed l) (hm : Passed m) : Passed (l ++ m) := fun x hx =>
  (List.mem_append.mp hx).elim (hl x) (hm x)

theorem Passed.parts {α : Type} (n : Nat) {l : List α} {f : α → List Check} (hl : Passed ((l.take n).flatMap f))
    (hm : Passed ((l.drop n).flatMap f)) : Passed (l.flatMap f) := by
  rw [← List.take_append_drop n l, List.flatMap_append]
  exact hl.append hm

theorem leftOnSecondary_ranges : Passed (rangeRows.flatMap leftOnSecondary.chip.showResv.rangeChecks) :=
  .parts 40 (.parts 12 (by decide +kernel) (by decide +kernel)) (.parts 8 (by decide +kernel) (by decide +kernel))

theorem leftOnSecondary_faults : Passed leftOnSecondary.chip.showResv.faultChecks := by decide +kernel

theorem leftOnSecondary_slices : Passed leftOnSecondary.chip.showResv.sliceChecks := by decide +kernel

theorem leftOnSecondary_ports : Passed (allPorts.flatMap leftOnSecondary.chip.showResv.portChecks) ∧
    Passed leftOnSecondary.chip.showResv.crossbarChecks := ⟨by decide +kernel, by decide +kernel⟩

theorem leftOnSecondary_axes : Passed (allAxes.flatMap leftOnSecondary.chip.showResv.axisChecks) :=
  .parts 4 (by decide +kernel) (by decide +kernel)

theorem leftOnSecondary_others : Passed leftOnSecondary.chip.showResv.tbChecks ∧
    Passed leftOnSecondary.chip.showResv.periodChecks ∧
    Passed (allRegions.flatMap leftOnSecondary.chip.showResv.regionChecks) ∧ Passed leftOnSecondary.chip.showResv.hkChecks ∧
    Passed leftOnSecondary.chip.showResv.wmChecks ∧
    Passed ((List.range 64).flatMap leftOnSecondary.chip.showResv.canChecks) ∧
    Passed leftOnSecondary.chip.showResv.cueChecks := by
  refine ⟨?_, ?_, ?_, ?_, ?_, ?_, ?_⟩ <;> decide +kernel

/-- Every check of R307 passes. -/
theorem leftOnSecondary_admitted : leftOnSecondary.chip.showResv.admission = none := by
  obtain ⟨tb, periods, regions, hk, monitors, can, cues⟩ := leftOnSecondary_others
  obtain ⟨ports, crossbar⟩ := leftOnSecondary_ports
  have drives := (((leftOnSecondary_ranges.append tb).append periods).append leftOnSecondary_faults).append leftOnSecondary_slices
  have feedback := ((drives.append ports).append crossbar).append leftOnSecondary_axes
  exact admission_passes ((((feedback.append regions).append hk).append monitors).append can |>.append cues)

theorem leftOnSecondary_awaits : leftOnSecondary.chip.awaitsTag shortHeader 0 = true ∧
    leftOnSecondary.chip.tagBad shortHeader [] = false ∧ leftOnSecondary.chip.load.header = some shortHeader := by decide +kernel

theorem leftOnSecondary_sensors : ∀ i : Sensor, leftOnSecondary.chip.flag (TMP_STAT_FAIL i.val) = false := by decide +kernel

/-- R169: the group that begins tells axis 0 that its source in use is lost. -/
theorem leftOnSecondary_loses : (leftOnSecondary.chip.showResv.lockImage shortHeader).faults ≠ leftOnSecondary.chip.faults := by
  decide +kernel

/-- The image is admitted, so that its end locks the configuration. -/
theorem leftOnSecondary_locks : leftOnSecondary.chip.imageEnd [] = leftOnSecondary.chip.showResv.lockImage shortHeader := by
  obtain ⟨_, untagged, opened⟩ := leftOnSecondary_awaits
  have waits : (leftOnSecondary.chip.load.stage != .loading || leftOnSecondary.chip.load.cur.isSome ||
      leftOnSecondary.chip.load.sect != shortHeader.nsect.toNat ||
      ([] : List Byte).length != (if headerTagged shortHeader then 32 else 0)) = false := by decide +kernel
  simp only [Chip.imageEnd, opened, waits, untagged, leftOnSecondary_admitted, Bool.false_eq_true, if_false]

end Sys2Proof.Machine

open Sys2Proof.Machine

/-- Refutes O38: the last clause leaves the collector as it was at the lock of an admitted image, and an input group that begins
raises the source of an axis that shows a secondary source in use. -/
theorem not_imageBodies : ¬ Obligations.ImageBodies := by
  intro h
  obtain ⟨awaits, untagged, _⟩ := leftOnSecondary_awaits
  have locked := of_completes_run (·.imageEnd []) rfl
    ((h.2 leftOnSecondary shortHeader [] awaits).2.2 untagged leftOnSecondary_admitted)
  obtain ⟨_, _, _, _, _, _, _, _, _, _, _, _, _, _, _, quiet⟩ := locked
  have kept := (quiet leftOnSecondary_sensors).2.2
  rw [leftOnSecondary_locks] at kept
  exact leftOnSecondary_loses kept
end

section
-- One proof after the other: a side goal that `Only` settles by `decide` waits for the kernel, on a thread of its own.
set_option Elab.async false
/-! SUPPORT. What entering a mode, repeating it and entering OFF do to an axis; and the statement about the commands of an axis
(R187, R201 to R204, R215, R218, R223). -/
namespace Sys2Proof.Machine

/-! ### Operations on one axis beside the mode it shows -/

/-- The registers that the entry into a mode may set. -/
def entryRegs (a : Axis) : List Nat := [AX_MSTAT a.val, AX_SRCSTAT a.val, AX_STRSTAT a.val, AX_SPC a.val, AX_GREM a.val]

/-- What a stage of an entry leaves: the mode, the direction and REACTED that the axis shows, its entry, the other axes, and every
part and register but those of the entry. -/
structure EntryStage (a : Axis) (b c : Chip) : Prop where
  kept : ∀ f ∈ [AX_MSTAT_MODE a.val, AX_MSTAT_DIR a.val, AX_MSTAT_REACTED a.val], c.get f = b.get f
  entered : (c.axis a).entered = (b.axis a).entered
  entries : (c.axis a).entries = (b.axis a).entries
  due : (c.axis a).localDue = (b.axis a).localDue
  others : OneAxis a b c
  regs : RegsBut (entryRegs a) b c
  only : Only [.regs, .axes] b c

section
variable (c : Chip) (a : Axis)

theorem EntryStage.refl : EntryStage a c c := ⟨fun _ _ => rfl, rfl, rfl, rfl, .refl a c, .refl _ c, .refl _ c⟩

variable {c a}

theorem EntryStage.trans {b d : Chip} (h : EntryStage a b c) (k : EntryStage a c d) : EntryStage a b d :=
  ⟨fun f hf => (k.kept f hf).trans (h.kept f hf), k.entered.trans h.entered, k.entries.trans h.entries, k.due.trans h.due,
    h.others.trans k.others, h.regs.trans k.regs, h.only.trans k.only⟩

theorem EntryStage.ite {b d : Chip} {p : Prop} [Decidable p] (h : EntryStage a b c) (k : EntryStage a b d) :
    EntryStage a b (if p then c else d) := by
  split
  · exact h
  · exact k

/-- A field of another register of the entry. -/
theorem EntryStage.put {b : Chip} (h : EntryStage a b c) (f : Field) (v : Nat) (other : f.addr ≠ AX_MSTAT a.val)
    (hf : f.addr ∈ entryRegs a) : EntryStage a b (c.put f v) := by
  refine ⟨fun g hg => (Chip.get_put_ne c g f v ?_).trans (h.kept g hg), h.entered, h.entries, h.due, h.others, h.regs.put f v hf,
    h.only.then (.put ..)⟩
  simp only [List.mem_cons, List.not_mem_nil, or_false] at hg
  obtain rfl | rfl | rfl := hg <;> exact other.symm

/-- A field of AX_MSTAT that lies beside MODE, DIR and REACTED. -/
theorem EntryStage.putBeside {b : Chip} (h : EntryStage a b c) (f : Field) (v : Nat) (hf : f.addr ∈ entryRegs a) (ok : f.ok)
    (apart : ∀ g ∈ [AX_MSTAT_MODE a.val, AX_MSTAT_DIR a.val, AX_MSTAT_REACTED a.val], g.apart f) :
    EntryStage a b (c.put f v) := by
  refine ⟨fun g hg => (Chip.get_put_apart c g f v ?_ ok (apart g hg)).trans (h.kept g hg), h.entered, h.entries, h.due, h.others,
    h.regs.put f v hf, h.only.then (.put ..)⟩
  simp only [List.mem_cons, List.not_mem_nil, or_false] at hg
  obtain rfl | rfl | rfl := hg <;> exact Field.ok_of _ rfl

theorem EntryStage.setAxis {b : Chip} (h : EntryStage a b c) (x : AxisState) (entered : x.entered = (c.axis a).entered)
    (entries : x.entries = (c.axis a).entries) (due : x.localDue = (c.axis a).localDue) : EntryStage a b (c.setAxis a x) := by
  refine ⟨h.kept, ?_, ?_, ?_, h.others.setAxis x, h.regs.of_regs rfl, h.only.then (.setAxis ..)⟩ <;> rw [Chip.axis_setAxis]
  · exact entered.trans h.entered
  · exact entries.trans h.entries
  · exact due.trans h.due

theorem entryRegs_start (a : Axis) : AX_SRCSTAT a.val ∈ entryRegs a := by simp [entryRegs]
theorem entryRegs_stream (a : Axis) : AX_STRSTAT a.val ∈ entryRegs a := by simp [entryRegs]

theorem AX_SRCSTAT_ne_AX_MSTAT (a : Nat) : AX_SRCSTAT a ≠ AX_MSTAT a := by simp only [AX_SRCSTAT, AX_MSTAT]; omega
theorem AX_STRSTAT_ne_AX_MSTAT (a : Nat) : AX_STRSTAT a ≠ AX_MSTAT a := by simp only [AX_STRSTAT, AX_MSTAT]; omega

theorem EntryStage.putHome (h : EntryStage a b c) (v : Nat) : EntryStage a b (c.put (AX_MSTAT_HOME a.val) v) :=
  h.putBeside _ v List.mem_cons_self (Field.ok_of _ rfl) (by simp [Field.apart, AX_MSTAT_MODE, AX_MSTAT_DIR, AX_MSTAT_REACTED, AX_MSTAT_HOME])

theorem EntryStage.flushStream (c : Chip) (a : Axis) : EntryStage a c (c.flushStream a) := by
  have credits := (EntryStage.refl c a).put (AX_STRSTAT_CREDITS a.val) 64 (AX_STRSTAT_ne_AX_MSTAT _) (entryRegs_stream a)
  have held := credits.putBeside (AX_MSTAT_HELD a.val) 0 List.mem_cons_self (Field.ok_of _ rfl)
    (by simp [Field.apart, AX_MSTAT_MODE, AX_MSTAT_DIR, AX_MSTAT_REACTED, AX_MSTAT_HELD])
  have pend := held.putBeside (AX_MSTAT_PEND a.val) 0 List.mem_cons_self (Field.ok_of _ rfl)
    (by simp [Field.apart, AX_MSTAT_MODE, AX_MSTAT_DIR, AX_MSTAT_REACTED, AX_MSTAT_PEND])
  exact pend.setAxis _ rfl rfl rfl

theorem EntryStage.leaveMode (c : Chip) (a : Axis) (homeCode : Nat) : EntryStage a c (c.leaveMode a homeCode) := by
  have streamed : EntryStage a c (if c.modeOf a == 3 then c.flushStream a else c) := .ite (.flushStream c a) (.refl c a)
  exact (EntryStage.ite (streamed.putHome _) streamed).setAxis _ rfl rfl rfl

theorem EntryStage.setStart (h : EntryStage a b c) (st : Nat) (p : Option StartPlan) : EntryStage a b (c.setStart a st p) :=
  (h.put (AX_SRCSTAT_START a.val) st (AX_SRCSTAT_ne_AX_MSTAT _) (entryRegs_start a)).setAxis _ rfl rfl rfl

theorem EntryStage.endStart (h : EntryStage a b c) : EntryStage a b (c.endStart a) := (h.setStart 0 none).setAxis _ rfl rfl rfl

theorem EntryStage.planStart (h : EntryStage a b c) (p : StartPlan) : EntryStage a b (c.planStart a p) := by
  have planned : EntryStage a b (c.setAxis a { c.axis a with planTick := c.now }) := h.setAxis _ rfl rfl rfl
  cases p <;> exact planned.setStart _ _

theorem EntryStage.enterStream (h : EntryStage a b c) : EntryStage a b (c.enterStream a) := by
  have flushed := h.trans (.flushStream c a)
  exact (flushed.put (AX_SPC_P a.val) 0 (by simp only [AX_SPC_P, AX_SPC, AX_MSTAT]; omega) (by simp [entryRegs, AX_SPC_P])).setAxis _ rfl rfl rfl

theorem EntryStage.enterGear (h : EntryStage a b c) (slot : Nat) : EntryStage a b (c.enterGear a slot) := by
  have shown := h.putBeside (AX_MSTAT_SLOT a.val) slot List.mem_cons_self (Field.ok_of _ rfl)
    (by simp [Field.apart, AX_MSTAT_MODE, AX_MSTAT_DIR, AX_MSTAT_REACTED, AX_MSTAT_SLOT])
  exact (shown.put (AX_GREM_REM a.val) 0 (by simp only [AX_GREM_REM, AX_GREM, AX_MSTAT]; omega) (by simp [entryRegs, AX_GREM_REM])).setAxis
    _ rfl rfl rfl

theorem EntryStage.beginMode (h : EntryStage a b c) (mode slot : Nat) : EntryStage a b (c.beginMode a mode slot) := by
  unfold Chip.beginMode
  split
  next stream => exact h.enterStream
  next gear => exact h.enterGear slot
  next home => exact (h.putHome 1).setAxis _ rfl rfl rfl
  next curve => exact h.setAxis _ rfl rfl rfl
  next => exact h

end

/-! ### Entering a mode (R203, R204) -/

section
variable (c : Chip) (a : Axis) (mode : Nat) (back : Bool)

/-- The mode, the direction and REACTED, as an entry puts them once the mode in force is left. -/
def Chip.modePut : Chip :=
  (((c.leaveMode a 5).put (AX_MSTAT_MODE a.val) mode).putF (AX_MSTAT_DIR a.val) (c.takenDir a mode back)).put (AX_MSTAT_REACTED a.val) 0

/-- The entry itself. -/
def Chip.modeShown : Chip :=
  let d := c.modePut a mode back
  let keep := usesPos (c.modeOf a) && usesPos mode && !(c.axis a).takeTarget
  d.setAxis a { d.axis a with
    entered := true, entries := (d.axis a).entries + 1, localDue := false, takeTarget := usesPos mode && !keep, ref := 0,
    wasStale := (d.axis a).wasStale && !(c.modeOf a == 0), orderly := (d.axis a).orderly && !(c.modeOf a == 0) }

/-- The start that an entry plans. -/
def Chip.startMade : Chip :=
  let d := c.modeShown a mode back
  if mode = 1 then d.endStart a
  else if c.modeOf a == 0 then d.planStart a (c.startPlan a (c.takenDir a mode back)).2
  else if c.reverses a mode back then d.planStart a .brake
  else d

theorem Chip.enterMode_eq (slot : Nat) : c.enterMode a mode back slot = (c.startMade a mode back).beginMode a mode slot := rfl

theorem EntryStage.startMade : EntryStage a (c.modeShown a mode back) (c.startMade a mode back) :=
  .ite (EntryStage.endStart (.refl _ a)) (.ite (.planStart (.refl _ a) _) (.ite (.planStart (.refl _ a) _) (.refl _ a)))

theorem EntryStage.enterMode (slot : Nat) : EntryStage a (c.modeShown a mode back) (c.enterMode a mode back slot) :=
  (EntryStage.startMade c a mode back).beginMode mode slot

theorem Chip.modePut_axes : (c.modePut a mode back).axes = (c.leaveMode a 5).axes := rfl

theorem Chip.modePut_axis (x : Axis) : (c.modePut a mode back).axis x = (c.leaveMode a 5).axis x :=
  congrArg (fun v : Vector AxisState 8 => v[x]) (c.modePut_axes a mode back)

theorem RegsBut.modePut : RegsBut (entryRegs a) c (c.modePut a mode back) := by
  have left := (EntryStage.leaveMode c a 5).regs
  have mode := left.put (AX_MSTAT_MODE a.val) mode List.mem_cons_self
  exact (mode.put (AX_MSTAT_DIR a.val) _ List.mem_cons_self).put (AX_MSTAT_REACTED a.val) 0 List.mem_cons_self

theorem Only.modePut : Only [.regs, .axes] c (c.modePut a mode back) :=
  (((EntryStage.leaveMode c a 5).only.then (.put ..)).then (.putF ..)).then (.put ..)

/-- The fields put read as they were put. -/
theorem Chip.modePut_shows (small : mode < 8) : (c.modePut a mode back).modeOf a = mode ∧
    (c.modePut a mode back).flag (AX_MSTAT_DIR a.val) = c.takenDir a mode back ∧
    (c.modePut a mode back).get (AX_MSTAT_REACTED a.val) = 0 := by
  unfold Chip.modePut
  refine ⟨?_, ?_, Chip.get_put_fit _ _ _ rfl⟩
  · exact (Chip.get_put_beside _ _ _ _ rfl).trans ((Chip.get_put_beside _ _ _ _ rfl).trans
      (Chip.get_put_lt _ _ (Field.ok_of _ rfl) _ (by simpa [AX_MSTAT_MODE] using small)))
  · exact (congrArg (· != 0) (Chip.get_put_beside _ (AX_MSTAT_DIR a.val) _ _ rfl)).trans (Chip.flag_putF _ _ (Field.ok_of _ rfl) _)

/-- What an entry shows. -/
theorem Entered.modeShown (small : mode < 8) : Entered a mode (c.takenDir a mode back) c (c.modeShown a mode back) := by
  obtain ⟨shown, dir, reacted⟩ := c.modePut_shows a mode back small
  have left := EntryStage.leaveMode c a 5
  have axis : OneAxis a c (c.modePut a mode back) := fun x hx => (c.modePut_axis a mode back x).trans (left.others x hx)
  unfold Chip.modeShown Entered
  dsimp only
  refine ⟨(Chip.setAxis_get ..).trans shown, (congrArg (· != 0) (Chip.setAxis_get ..)).trans dir, (Chip.setAxis_get ..).trans reacted,
    ?_, ?_, axis.setAxis _, (RegsBut.modePut c a mode back).of_regs (Chip.setAxis_regs ..),
    ((Only.modePut c a mode back).then (.setAxis ..)).eq⟩
  · rw [Chip.axis_setAxis]
  · rw [Chip.axis_setAxis, Chip.modePut_axis, left.entries]

/-- A stage of the entry leaves what the entry has shown. -/
theorem Entered.stage {b c d : Chip} {a : Axis} {mode : Nat} {back : Bool} (h : Entered a mode back b c) (k : EntryStage a c d) :
    Entered a mode back b d := by
  obtain ⟨shown, dir, reacted, entered, entries, others, regs, only⟩ := h
  refine ⟨(k.kept _ (by simp)).trans shown, (congrArg (· != 0) (k.kept _ (by simp))).trans dir, (k.kept _ (by simp)).trans reacted,
    k.entered.trans entered, k.entries.trans entries, others.trans k.others, regs.trans k.regs, ?_⟩
  have both : Only [.regs, .axes] b c := .of_mix only
  exact (both.trans k.only).eq

theorem Entered.enterMode (slot : Nat) (small : mode < 8) :
    Entered a mode (c.takenDir a mode back) c (c.enterMode a mode back slot) :=
  (Entered.modeShown c a mode back small).stage (.enterMode c a mode back slot)

end

/-! ### Repeating the mode in force (R187, R203, R218) -/

section
variable (c : Chip) (a : Axis) (mode : Nat) (back : Bool)

/-- The direction that a command takes does not hang on REACTED, where it names one. -/
theorem Chip.takenDir_reacted (v : Nat) (named : (c.namedDir a mode back).isSome = true) :
    (c.put (AX_MSTAT_REACTED a.val) v).takenDir a mode back = c.takenDir a mode back := by
  have same : (c.put (AX_MSTAT_REACTED a.val) v).namedDir a mode back = c.namedDir a mode back := by
    have target : (c.put (AX_MSTAT_REACTED a.val) v).get (CMP_TARGET_TARGET a.val) = c.get (CMP_TARGET_TARGET a.val) :=
      Chip.get_put_ne _ _ _ _ (by simp only [CMP_TARGET_TARGET, CMP_TARGET, AX_MSTAT_REACTED, AX_MSTAT]; omega)
    unfold Chip.namedDir Chip.gets
    rw [target]
  obtain ⟨d, hd⟩ := Option.isSome_iff_exists.mp named
  unfold Chip.takenDir
  rw [same, hd, Option.getD_some, Option.getD_some]

/-- A command that repeats a mode other than GEAR clears REACTED, and brakes the axis where it reverses. -/
def Chip.repeatTaken : Chip :=
  if c.reverses a mode back then (c.put (AX_MSTAT_REACTED a.val) 0).reverse a (c.takenDir a mode back)
  else c.put (AX_MSTAT_REACTED a.val) 0

/-- HOME starts anew. -/
def Chip.homeAnew : Chip :=
  (c.put (AX_MSTAT_HOME a.val) 1).setAxis a { c.axis a with
    stallFrom := none, homeLate := false, homeFrom := c.now, entries := (c.axis a).entries + 1 }

theorem Chip.repeatMode_eq (slot : Nat) (other : mode ≠ 4) : c.repeatMode a mode back slot =
    if mode = 5 then (c.repeatTaken a mode back).homeAnew a else c.repeatTaken a mode back := by
  have taken : (if c.reverses a mode back then (c.put (AX_MSTAT_REACTED a.val) 0).reverse a
      ((c.put (AX_MSTAT_REACTED a.val) 0).takenDir a mode back) else c.put (AX_MSTAT_REACTED a.val) 0) = c.repeatTaken a mode back := by
    unfold Chip.repeatTaken
    split
    next rev =>
      simp only [Chip.reverses, Bool.and_eq_true] at rev
      rw [c.takenDir_reacted a mode back 0 rev.1.2]
    next => rfl
  unfold Chip.repeatMode
  dsimp only
  rw [taken]
  split
  next gear => exact absurd rfl other
  next home => rfl
  next plain => exact (if_neg plain).symm

/-- The fields that a command which repeats the mode in force may change (GEAR apart). -/
def repeatFields (a : Axis) : List Field :=
  [AX_MSTAT_REACTED a.val, AX_MSTAT_DIR a.val, AX_SRCSTAT_START a.val, AX_MSTAT_HOME a.val]

theorem FieldsBut.repeatTaken : FieldsBut (repeatFields a) c (c.repeatTaken a mode back) := by
  have cleared := (FieldsBut.refl (repeatFields a) c).put (AX_MSTAT_REACTED a.val) 0 (Field.ok_of _ rfl) List.mem_cons_self
  unfold Chip.repeatTaken
  split
  next rev =>
    obtain ⟨x, -, reversed⟩ := (c.put (AX_MSTAT_REACTED a.val) 0).reverse_eq a (c.takenDir a mode back)
    rw [reversed]
    exact ((cleared.putF (AX_MSTAT_DIR a.val) _ (Field.ok_of _ rfl) (by simp [repeatFields])).put (AX_SRCSTAT_START a.val) 5
      (Field.ok_of _ rfl) (by simp [repeatFields])).of_regs (Chip.setAxis_regs ..)
  next => exact cleared

theorem OneAxis.repeatTaken : OneAxis a c (c.repeatTaken a mode back) := by
  unfold Chip.repeatTaken
  split
  next rev =>
    obtain ⟨x, -, reversed⟩ := (c.put (AX_MSTAT_REACTED a.val) 0).reverse_eq a (c.takenDir a mode back)
    rw [reversed]
    exact OneAxis.setAxis (fun _ _ => rfl) x
  next => exact fun _ _ => rfl

theorem Only.reverse : Only [.regs, .axes] c (c.reverse a back) := by
  obtain ⟨x, -, reversed⟩ := c.reverse_eq a back
  rw [reversed]
  exact (((Only.refl _ c).then (.putF ..)).then (.put ..)).then (.setAxis ..)

theorem Only.repeatTaken : Only [.regs, .axes] c (c.repeatTaken a mode back) := by
  have cleared : Only [.regs, .axes] c (c.put (AX_MSTAT_REACTED a.val) 0) := (Only.refl _ c).then (.put ..)
  exact Only.ite (cleared.then (.reverse ..)) cleared

theorem Chip.repeatTaken_reacted : (c.repeatTaken a mode back).get (AX_MSTAT_REACTED a.val) = 0 := by
  have cleared : (c.put (AX_MSTAT_REACTED a.val) 0).get (AX_MSTAT_REACTED a.val) = 0 := Chip.get_put_fit _ _ _ rfl
  unfold Chip.repeatTaken
  split
  next rev =>
    obtain ⟨x, -, reversed⟩ := (c.put (AX_MSTAT_REACTED a.val) 0).reverse_eq a (c.takenDir a mode back)
    rw [reversed, Chip.setAxis_get, Chip.get_put_ne _ _ _ _ (AX_SRCSTAT_ne_AX_MSTAT _).symm]
    exact (Chip.get_put_beside _ _ _ _ rfl).trans cleared
  next => exact cleared

/-- A reversal that a repeated command asks for (R187). -/
theorem Chip.repeatTaken_reverses (rev : c.reverses a mode back = true) :
    (c.repeatTaken a mode back).flag (AX_MSTAT_DIR a.val) = c.takenDir a mode back ∧ (c.repeatTaken a mode back).startOf a = 5 ∧
    ((c.repeatTaken a mode back).axis a).ref = 0 := by
  rw [Chip.repeatTaken, if_pos rev]
  obtain ⟨x, stopped, reversed⟩ := (c.put (AX_MSTAT_REACTED a.val) 0).reverse_eq a (c.takenDir a mode back)
  refine ⟨Chip.reverse_dir .., Chip.reverse_startOf .., ?_⟩
  rw [reversed, Chip.axis_setAxis, stopped]

theorem FieldsBut.homeAnew : FieldsBut (repeatFields a) c (c.homeAnew a) :=
  ((FieldsBut.refl _ c).put (AX_MSTAT_HOME a.val) 1 (Field.ok_of _ rfl) (by simp [repeatFields])).of_regs (Chip.setAxis_regs ..)

theorem OneAxis.homeAnew : OneAxis a c (c.homeAnew a) := OneAxis.setAxis (c := c.put (AX_MSTAT_HOME a.val) 1) (fun _ _ => rfl) _

theorem Only.homeAnew : Only [.regs, .axes] c (c.homeAnew a) := ((Only.refl _ c).then (.put ..)).then (.setAxis ..)

theorem Chip.homeAnew_axis : (c.homeAnew a).axis a = { c.axis a with
    stallFrom := none, homeLate := false, homeFrom := c.now, entries := (c.axis a).entries + 1 } := Chip.axis_setAxis ..

theorem Chip.homeAnew_home : (c.homeAnew a).get (AX_MSTAT_HOME a.val) = 1 := (Chip.setAxis_get ..).trans (Chip.get_put_fit _ _ _ rfl)

/-- What HOME that starts anew leaves of AX_MSTAT beside HOME, and of the start. -/
theorem Chip.homeAnew_kept : (c.homeAnew a).get (AX_MSTAT_REACTED a.val) = c.get (AX_MSTAT_REACTED a.val) ∧
    (c.homeAnew a).flag (AX_MSTAT_DIR a.val) = c.flag (AX_MSTAT_DIR a.val) ∧ (c.homeAnew a).startOf a = c.startOf a := by
  refine ⟨(Chip.setAxis_get ..).trans (Chip.get_put_beside _ _ _ _ rfl),
    congrArg (· != 0) ((Chip.setAxis_get ..).trans (Chip.get_put_beside _ _ _ _ rfl)),
    (Chip.setAxis_get ..).trans (Chip.get_put_ne _ _ _ _ (AX_SRCSTAT_ne_AX_MSTAT _))⟩

end

/-! ### GEAR (R223) -/

section
variable (c : Chip) (a : Axis) (slot : Nat)

theorem Chip.get_put_slot (v : Nat) : (c.put (AX_MSTAT_SLOT a.val) v).get (AX_MSTAT_SLOT a.val) = v % 8 :=
  Chip.get_put c (AX_MSTAT_SLOT a.val) (Field.ok_of _ rfl) v

/-- An entry into GEAR shows its slot and no remainder. -/
theorem Chip.enterMode_gear (back : Bool) : (c.enterMode a 4 back slot).get (AX_MSTAT_SLOT a.val) = slot % 8 ∧
    (c.enterMode a 4 back slot).get (AX_GREM_REM a.val) = 0 := by
  have entered : c.enterMode a 4 back slot = (c.startMade a 4 back).enterGear a slot := rfl
  have apart : AX_MSTAT a.val ≠ AX_GREM a.val := by simp only [AX_MSTAT, AX_GREM]; omega
  rw [entered, Chip.enterGear, Chip.setAxis_get, Chip.setAxis_get]
  exact ⟨(Chip.get_put_ne _ _ _ _ apart).trans (Chip.get_put_slot ..), Chip.get_put_fit _ _ _ rfl⟩

/-- A command that repeats GEAR. -/
def Chip.gearRepeated : Chip :=
  (((c.put (AX_MSTAT_REACTED a.val) 0).setAxis a { c.axis a with gearStored := slot }).gearCut a slot).showGear a

theorem Chip.repeatMode_gear : c.repeatMode a 4 false slot = c.gearRepeated a slot := by
  have unnamed : c.reverses a 4 false = false := by simp [Chip.reverses, Chip.namedDir]
  unfold Chip.repeatMode
  dsimp only
  rw [unnamed]
  rfl

/-- A slot and a remainder that are shown. -/
theorem Chip.slotShown (v w : Nat) (x : AxisState) (d : Chip)
    (shown : d = ((c.put (AX_MSTAT_SLOT a.val) v).put (AX_GREM_REM a.val) w).setAxis a x) :
    d.get (AX_MSTAT_REACTED a.val) = c.get (AX_MSTAT_REACTED a.val) ∧ d.modeOf a = c.modeOf a ∧
    d.get (AX_MSTAT_SLOT a.val) = v % 8 := by
  have apart : AX_MSTAT a.val ≠ AX_GREM a.val := by simp only [AX_MSTAT, AX_GREM]; omega
  subst shown
  exact ⟨(Chip.setAxis_get ..).trans ((Chip.get_put_ne _ _ _ _ apart).trans (Chip.get_put_beside _ _ _ _ rfl)),
    (Chip.setAxis_get ..).trans ((Chip.get_put_ne _ _ _ _ apart).trans (Chip.get_put_beside _ _ _ _ rfl)),
    (Chip.setAxis_get ..).trans ((Chip.get_put_ne _ _ _ _ apart).trans (Chip.get_put_slot ..))⟩

/-- Showing the accumulator changes the slot and the remainder, and the axis. -/
theorem Chip.showGear_shows : (c.showGear a).get (AX_MSTAT_REACTED a.val) = c.get (AX_MSTAT_REACTED a.val) ∧
    (c.showGear a).modeOf a = c.modeOf a ∧ (c.showGear a).get (AX_MSTAT_SLOT a.val) = (c.gearNow a).2.2 % 8 :=
  c.slotShown a _ (c.gearNow a).2.1 { c.axis a with target := (c.gearNow a).1 } _ rfl

theorem FieldsBut.showGear : FieldsBut [AX_MSTAT_SLOT a.val, AX_GREM_REM a.val] c (c.showGear a) := by
  unfold Chip.showGear
  exact (((FieldsBut.refl _ c).put (AX_MSTAT_SLOT a.val) _ (Field.ok_of _ rfl) (by simp)).put (AX_GREM_REM a.val) _
    (Field.ok_of _ rfl) (by simp)).of_regs (Chip.setAxis_regs ..)

/-- REACTED cleared, and an axis that takes a slot. -/
theorem Chip.gearRepeated_at : ∃ x : AxisState, ((c.axis a).gearSteps = [] → x.gearSteps = [] ∧ x.gearSlot0 = slot) ∧
    c.gearRepeated a slot = ((c.put (AX_MSTAT_REACTED a.val) 0).setAxis a x).showGear a := by
  obtain ⟨x, cut, -, fresh⟩ := ((c.put (AX_MSTAT_REACTED a.val) 0).setAxis a { c.axis a with gearStored := slot }).gearCut_at a slot
  rw [Chip.axis_setAxis] at fresh
  refine ⟨x, fresh, ?_⟩
  rw [Chip.gearRepeated, cut, Chip.setAxis_setAxis]

/-- What a command that repeats GEAR leaves. -/
theorem Chip.gearRepeated_frame : OneAxis a c (c.gearRepeated a slot) ∧
    FieldsBut [AX_MSTAT_REACTED a.val, AX_MSTAT_SLOT a.val, AX_GREM_REM a.val] c (c.gearRepeated a slot) ∧
    Only [.regs, .axes] c (c.gearRepeated a slot) := by
  obtain ⟨x, -, turned⟩ := c.gearRepeated_at a slot
  rw [turned]
  have cleared : OneAxis a c (c.put (AX_MSTAT_REACTED a.val) 0) := (Only.put ..).oneAxis a
  have fields := ((FieldsBut.refl [AX_MSTAT_REACTED a.val, AX_MSTAT_SLOT a.val, AX_GREM_REM a.val] c).put
    (AX_MSTAT_REACTED a.val) 0 (Field.ok_of _ rfl) (by simp)).of_regs (Chip.setAxis_regs _ a x)
  have only : Only [.regs, .axes] c ((c.put (AX_MSTAT_REACTED a.val) 0).setAxis a x) :=
    ((Only.refl _ c).then (.put ..)).then (.setAxis ..)
  exact ⟨(cleared.setAxis x).trans (GearTurned.showGear _ a).others, fields.trans ((FieldsBut.showGear _ a).mono (by simp)),
    only.trans (GearTurned.showGear _ a).only⟩

/-- What a command that repeats GEAR shows; the slot, where no master step is kept. -/
theorem Chip.gearRepeated_shows : (c.gearRepeated a slot).get (AX_MSTAT_REACTED a.val) = 0 ∧
    (c.gearRepeated a slot).modeOf a = c.modeOf a ∧
    ((c.axis a).gearSteps = [] → (c.gearRepeated a slot).get (AX_MSTAT_SLOT a.val) = slot % 8) := by
  obtain ⟨x, fresh, turned⟩ := c.gearRepeated_at a slot
  obtain ⟨reacted, mode, live⟩ := ((c.put (AX_MSTAT_REACTED a.val) 0).setAxis a x).showGear_shows a
  rw [turned]
  have set (f : Field) : ((c.put (AX_MSTAT_REACTED a.val) 0).setAxis a x).get f = (c.put (AX_MSTAT_REACTED a.val) 0).get f :=
    Chip.setAxis_get ..
  unfold Chip.modeOf at mode ⊢
  rw [set] at reacted mode
  refine ⟨reacted.trans (Chip.get_put_fit _ _ _ rfl), mode.trans (Chip.get_put_beside _ _ _ _ rfl), fun unkept => live.trans ?_⟩
  obtain ⟨steps, now⟩ := fresh unkept
  have governs : (((c.put (AX_MSTAT_REACTED a.val) 0).setAxis a x).gearNow a).2.2 = slot := by
    rw [Chip.gearNow, Chip.axis_setAxis, steps]
    exact now
  rw [governs]

end

/-! ### Commands that are accepted -/

section
variable {c : Chip} {p : Path} {a : Axis}

theorem Chip.command_ok (c : Chip) {mode : Nat} {back : Bool} {slot : Nat} (owner : c.owns p a = true)
    (clear : judge (c.modeConds a mode back) = .ok) : c.command p a mode back slot =
      (if c.modeOf a == mode then c.repeatMode a mode back slot else c.enterMode a mode back slot, .ok) :=
  c.request_ok _ _ (by rw [owner, Bool.not_true, judge_cons_false, clear])

/-- An accepted GEAR command stores its slot (R223). -/
theorem Chip.commandGear_ok {keep : Bool} {slot : Nat} {d : Chip}
    (accepted : c.command p a 4 false (c.gearChoice a keep slot) = (d, .ok)) :
    c.commandGear p a keep slot = (d.setAxis a { d.axis a with gearStored := c.gearChoice a keep slot }, .ok) := by
  unfold Chip.commandGear
  dsimp only
  rw [accepted]
  rfl

/-- The entry of a locally owned axis into CURVE, once it is accepted. -/
def Chip.localTaken (c : Chip) (a : Axis) (back : Bool) : Chip :=
  if c.modeOf a == 1 then c.setAxis a { c.axis a with localDue := false } else c.enterMode a 1 back 0

theorem Chip.localCurve_eq (c : Chip) (a : Axis) : c.localCurve a =
    if (c.axis a).localDue && c.get (AX_CFG_OWNER a.val) == 2 then
      (c.request (c.modeConds a 1 (c.flag (AX_CFG_LDIR a.val))) fun c' => c'.localTaken a (c.flag (AX_CFG_LDIR a.val))).1
    else c := rfl

/-- An entry into CURVE that waits (R204). -/
theorem Chip.localCurve_due (c : Chip) (waits : (c.axis a).localDue = true) (owner : c.get (AX_CFG_OWNER a.val) = 2) :
    c.localCurve a =
      (c.request (c.modeConds a 1 (c.flag (AX_CFG_LDIR a.val))) fun c' => c'.localTaken a (c.flag (AX_CFG_LDIR a.val))).1 := by
  rw [Chip.localCurve_eq, waits, owner]
  rfl

theorem Chip.modeShown_due (c : Chip) (a : Axis) (mode : Nat) (back : Bool) : ((c.modeShown a mode back).axis a).localDue = false := by
  rw [Chip.modeShown, Chip.axis_setAxis]

end

/-! ### OFF (R202, R204, R215) -/

section
variable (c : Chip) (a : Axis)

/-- Where the legs of the axis take what is asked of each, the other legs stay. -/
theorem Chip.each_legs_others {f : Chip → Leg → Chip} (hf : ∀ d l, LegAt l d (f d l)) (xs : List Leg) {k : Leg} (hk : k ∉ xs) :
    (c.each xs f).leg k = c.leg k :=
  Chip.each_keeps (P := fun d => d.leg k = c.leg k) xs rfl fun d hd l hl =>
    ((hf d l).frame.1 k fun e => hk (e ▸ hl)).trans hd

/-- An axis that enters OFF leaves the legs of the others. -/
theorem Chip.enterOff_legs (homeCode : Nat) {k : Leg} (hk : k ∉ legsOf a) : (c.enterOff a homeCode).leg k = c.leg k := by
  have left : Only [.regs, .axes] c (((c.leaveMode a homeCode).put (AX_MSTAT_MODE a.val) 0).endStart a) :=
    (((Only.refl _ c).then (.leaveMode c a homeCode)).then (.put ..)).then (.endStart ..)
  have series (d : Chip) : (d.each (legsOf a) fun d l => d.newSeries false l).leg k = d.leg k :=
    d.each_legs_others (fun e l => ⟨_, rfl⟩) _ hk
  have floats (d : Chip) : (d.floatAxis a).leg k = d.leg k :=
    (Only.setAxis _ a _).leg k |>.trans (d.each_legs_others (fun e l => .want e l .float 0 none) _ hk)
  unfold Chip.enterOff
  dsimp only
  split
  next => rfl
  split
  next => exact (series _).trans ((left.then (Only.setAxis ..) : Only [.regs, .axes] c _).leg k)
  next => exact (floats _).trans ((series _).trans ((left.then (Only.setAxis ..) : Only [.regs, .axes] c _).leg k))

/-- What a stage of OFF leaves, once the stream is flushed: the FIFO, the credits and the other axes. -/
structure OffStage (a : Axis) (b c : Chip) : Prop where
  fifo : (c.axis a).fifo = (b.axis a).fifo
  credits : c.get (AX_STRSTAT_CREDITS a.val) = b.get (AX_STRSTAT_CREDITS a.val)
  others : OneAxis a b c

theorem OffStage.refl : OffStage a c c := ⟨rfl, rfl, .refl a c⟩

variable {c a}

theorem OffStage.put {b : Chip} (h : OffStage a b c) (f : Field) (v : Nat) (other : f.addr ≠ AX_STRSTAT a.val) :
    OffStage a b (c.put f v) := ⟨h.fifo, (Chip.get_put_ne _ _ _ _ other.symm).trans h.credits, h.others⟩

theorem OffStage.setAxis {b : Chip} (h : OffStage a b c) (x : AxisState) (fifo : x.fifo = (c.axis a).fifo) :
    OffStage a b (c.setAxis a x) :=
  ⟨by rw [Chip.axis_setAxis, fifo, h.fifo], (Chip.setAxis_get ..).trans h.credits, h.others.setAxis x⟩

theorem OffStage.only {b d : Chip} (h : OffStage a b c) (k : Only [.legs] c d) : OffStage a b d :=
  ⟨(congrArg AxisState.fifo (k.axis a)).trans h.fifo, (k.get _).trans h.credits, fun x hx => (k.axis x).trans (h.others x hx)⟩

theorem OffStage.ite {b d : Chip} {p : Prop} [Decidable p] (h : OffStage a b c) (k : OffStage a b d) :
    OffStage a b (if p then c else d) := by
  split
  · exact h
  · exact k

theorem OffStage.endStart {b : Chip} (h : OffStage a b c) : OffStage a b (c.endStart a) := by
  have started := h.put (AX_SRCSTAT_START a.val) 0 (by simp only [AX_SRCSTAT_START, AX_SRCSTAT, AX_STRSTAT]; omega)
  have ended : OffStage a b (c.setStart a 0 none) := started.setAxis _ rfl
  exact ended.setAxis _ rfl

theorem OffStage.floatAxis {b : Chip} (h : OffStage a b c) : OffStage a b (c.floatAxis a) := by
  have asked : Only [.legs] c (c.each (legsOf a) fun c l => c.want l .float 0 none) :=
    .each c _ fun d l _ => (LegAt.want d l .float 0 none).only
  exact (h.only asked).setAxis _ rfl

variable (c a)

/-- The stream that the mode left behind is flushed. -/
def Chip.streamLeft : Chip := if c.modeOf a == 3 then c.flushStream a else c

theorem OffStage.leaveMode (homeCode : Nat) : OffStage a (c.streamLeft a) (c.leaveMode a homeCode) := by
  have home (v : Nat) : OffStage a (c.streamLeft a) ((c.streamLeft a).put (AX_MSTAT_HOME a.val) v) :=
    (OffStage.refl _ a).put _ v (AX_STRSTAT_ne_AX_MSTAT _).symm
  exact (OffStage.ite (home _) (.refl _ a)).setAxis _ rfl

/-- An axis that enters OFF from another mode, stage by stage. -/
theorem OffStage.enterOff (homeCode : Nat) (on : c.modeOf a ≠ 0) : OffStage a (c.streamLeft a) (c.enterOff a homeCode) := by
  have left : OffStage a (c.streamLeft a) (((c.leaveMode a homeCode).put (AX_MSTAT_MODE a.val) 0).endStart a) :=
    ((OffStage.leaveMode c a homeCode).put _ 0 (AX_STRSTAT_ne_AX_MSTAT _).symm).endStart
  have series {d : Chip} (h : OffStage a (c.streamLeft a) d) :
      OffStage a (c.streamLeft a) (d.each (legsOf a) fun d l => d.newSeries false l) :=
    h.only (Only.each d _ fun e l _ => Only.newSeries e false l)
  unfold Chip.enterOff
  dsimp only
  split
  next off => exact absurd (by simpa using off) on
  split
  next =>
    refine series (left.setAxis _ ?_)
    rfl
  next =>
    refine (series (left.setAxis _ ?_)).floatAxis
    rfl

theorem OneAxis.streamLeft : OneAxis a c (c.streamLeft a) := by
  unfold Chip.streamLeft
  split
  · exact (EntryStage.flushStream c a).others
  · exact .refl a c

theorem OneAxis.enterOff (homeCode : Nat) : OneAxis a c (c.enterOff a homeCode) := by
  by_cases on : c.modeOf a = 0
  · rw [Chip.enterOff, if_pos (by simpa using on)]
    exact .refl a c
  · exact (OneAxis.streamLeft c a).trans (OffStage.enterOff c a homeCode on).others

/-- A stream that is left has its credits back and an empty FIFO (R215). -/
theorem Chip.enterOff_stream (homeCode : Nat) (stream : c.modeOf a = 3) :
    (c.enterOff a homeCode).get (AX_STRSTAT_CREDITS a.val) = 64 ∧ ((c.enterOff a homeCode).axis a).fifo = [] := by
  have stage := OffStage.enterOff c a homeCode (by omega)
  have flushed : c.streamLeft a = c.flushStream a := if_pos (by simpa using stream)
  rw [flushed] at stage
  refine ⟨stage.credits.trans ?_, stage.fifo.trans ?_⟩ <;> unfold Chip.flushStream
  case refine_2 => rw [Chip.axis_setAxis]
  rw [Chip.setAxis_get, Chip.get_put_ne _ _ _ _ (AX_STRSTAT_ne_AX_MSTAT _), Chip.get_put_ne _ _ _ _ (AX_STRSTAT_ne_AX_MSTAT _)]
  exact Chip.get_put_fit _ _ _ rfl

end
end Sys2Proof.Machine

open Sys2Proof.Machine

/-- Settles O18. -/
theorem axisCommands : Obligations.AxisCommands := by
  refine ⟨?command, ?gear, ?gearAgain, ?gearRefused, ?off, ?localEntry, ?localWaits, ?notLocal⟩
  case command =>
    intro s p a back b mode i listed serving
    obtain ⟨row, small, other⟩ : exec i s = (s.ask p fun c => c.command p a mode b 0) ∧ mode < 8 ∧ mode ≠ 4 := by
      simp only [List.mem_cons, List.not_mem_nil, or_false, Prod.mk.injEq] at listed
      obtain ⟨rfl, rfl, rfl⟩ | ⟨rfl, rfl, rfl⟩ | ⟨rfl, rfl, rfl⟩ | ⟨rfl, rfl, rfl⟩ | ⟨rfl, rfl, rfl⟩ := listed <;>
        exact ⟨rfl, by decide, by decide⟩
    have grants {P : Chip → Prop} (owner : s.chip.owns p a = true) (clear : judge (s.chip.modeConds a mode b) = .ok)
        (hp : P (if s.chip.modeOf a == mode then s.chip.repeatMode a mode b 0 else s.chip.enterMode a mode b 0)) : Grants i p s P := by
      refine grants_of_ask row serving (Chip.request_ok _ _ _ ?_) hp
      rw [owner, Bool.not_true, judge_cons_false, clear]
    have again {P : Chip → Prop} (owner : s.chip.owns p a = true) (clear : judge (s.chip.modeConds a mode b) = .ok)
        (same : s.chip.modeOf a = mode)
        (hp : P (if mode = 5 then (s.chip.repeatTaken a mode b).homeAnew a else s.chip.repeatTaken a mode b)) : Grants i p s P := by
      refine grants owner clear ?_
      rw [if_pos (by simpa using same), Chip.repeatMode_eq _ _ _ _ _ other]
      exact hp
    have taken := Only.repeatTaken s.chip a mode b
    refine ⟨?enters, ?repeats, ?turns, ?homes, ?refuses⟩
    case enters =>
      intro owner clear new
      refine grants owner clear ?_
      rw [if_neg (by simpa using new)]
      exact Entered.enterMode s.chip a mode b 0 small
    case repeats =>
      intro owner clear same plain straight
      refine again owner clear same ?_
      have cleared : s.chip.repeatTaken a mode b = s.chip.put (AX_MSTAT_REACTED a.val) 0 := if_neg (by simp [straight])
      rw [if_neg plain, cleared]
      exact ⟨Chip.get_put_fit _ _ _ rfl, (FieldsBut.refl _ _).put _ 0 (Field.ok_of _ rfl) List.mem_cons_self, (Only.put ..).eq⟩
    case turns =>
      intro owner clear same rev
      obtain ⟨dir, start, stopped⟩ := s.chip.repeatTaken_reverses a mode b rev
      refine again owner clear same ?_
      split
      next home =>
        obtain ⟨reacted, kept, started⟩ := (s.chip.repeatTaken a mode b).homeAnew_kept a
        exact ⟨reacted.trans (Chip.repeatTaken_reacted ..), kept.trans dir, started.trans start,
          (congrArg AxisState.ref (Chip.homeAnew_axis ..)).trans stopped, (OneAxis.repeatTaken _ a mode b).trans (.homeAnew _ a),
          (FieldsBut.repeatTaken _ a mode b).trans (.homeAnew _ a), (taken.trans (.homeAnew ..)).eq⟩
      next => exact ⟨Chip.repeatTaken_reacted .., dir, start, stopped, .repeatTaken _ a mode b, .repeatTaken _ a mode b, taken.eq⟩
    case homes =>
      intro owner clear same home
      refine again owner clear same ?_
      rw [if_pos home]
      obtain ⟨reacted, -, -⟩ := (s.chip.repeatTaken a mode b).homeAnew_kept a
      have axis := (s.chip.repeatTaken a mode b).homeAnew_axis a
      exact ⟨reacted.trans (Chip.repeatTaken_reacted ..), Chip.homeAnew_home ..,
        (congrArg AxisState.homeFrom axis).trans (taken.same .now (by decide)), congrArg AxisState.homeLate axis,
        congrArg AxisState.stallFrom axis, (OneAxis.repeatTaken _ a mode b).trans (.homeAnew _ a),
        (FieldsBut.repeatTaken _ a mode b).trans (.homeAnew _ a), (taken.trans (.homeAnew ..)).eq⟩
    case refuses =>
      intro r bad refused
      exact refuses_of_request row serving rfl bad refused
  case gear =>
    intro s p a keep slot serving owner clear new
    have accepted : (s.chip.command p a 4 false (s.chip.gearChoice a keep slot.val)) =
        (s.chip.enterMode a 4 false (s.chip.gearChoice a keep slot.val), .ok) := by
      rw [s.chip.command_ok owner clear, if_neg (by simpa using new)]
    have entered := Entered.enterMode s.chip a 4 false (s.chip.gearChoice a keep slot.val) (by decide)
    obtain ⟨shown, remainder⟩ := s.chip.enterMode_gear a (s.chip.gearChoice a keep slot.val) false
    refine grants_of_ask rfl serving (Chip.commandGear_ok accepted) ⟨entered.stage ((EntryStage.refl _ a).setAxis _ rfl rfl rfl),
      (Chip.setAxis_get ..).trans shown, (Chip.setAxis_get ..).trans remainder, ?_⟩
    rw [Chip.axis_setAxis]
    rfl
  case gearAgain =>
    intro s p a keep slot serving owner clear same
    have accepted : (s.chip.command p a 4 false (s.chip.gearChoice a keep slot.val)) =
        (s.chip.gearRepeated a (s.chip.gearChoice a keep slot.val), .ok) := by
      rw [s.chip.command_ok owner clear, if_pos (by simpa using same), Chip.repeatMode_gear]
    obtain ⟨reacted, mode, live⟩ := s.chip.gearRepeated_shows a (s.chip.gearChoice a keep slot.val)
    obtain ⟨others, fields, only⟩ := s.chip.gearRepeated_frame a (s.chip.gearChoice a keep slot.val)
    refine grants_of_ask rfl serving (Chip.commandGear_ok accepted) ⟨(Chip.setAxis_get ..).trans (mode.trans same),
      (Chip.setAxis_get ..).trans reacted, ?_, fun unkept => (Chip.setAxis_get ..).trans (live unkept), others.setAxis _,
      fields.of_regs (Chip.setAxis_regs ..), (only.then (.setAxis ..)).eq⟩
    rw [Chip.axis_setAxis]
    rfl
  case gearRefused =>
    intro s p a keep slot r serving bad refused
    subst bad
    refine refuses_of_ask rfl serving ?_
    have judged := s.chip.request_refused _ (fun c => if c.modeOf a == 4 then c.repeatMode a 4 false (s.chip.gearChoice a keep slot.val)
      else c.enterMode a 4 false (s.chip.gearChoice a keep slot.val)) refused
    unfold Chip.commandGear Chip.command
    dsimp only
    rw [judged, if_neg refused]
  case off =>
    intro s p a serving
    have kept (f : Field) (h : AX_STRSTAT a.val = f.addr) (v : Nat) : ((s.chip.enterOff a 5).put (AX_MSTAT_REACTED a.val) v).get f =
        (s.chip.enterOff a 5).get f := Chip.get_put_ne _ _ _ _ (h ▸ AX_STRSTAT_ne_AX_MSTAT _)
    refine grants_of_request (l := []) rfl serving rfl ⟨?mode, Chip.get_put_fit _ _ _ rfl, ?stream, OneAxis.enterOff _ a 5, ?legs, ?regs, ?only⟩
    case mode => exact (Chip.get_put_beside _ _ _ _ rfl).trans (s.chip.enterOff_mode a 5)
    case stream =>
      intro stream
      obtain ⟨credits, fifo⟩ := s.chip.enterOff_stream a 5 stream
      exact ⟨(kept _ rfl 0).trans credits, fifo⟩
    case legs => exact fun l hl => s.chip.enterOff_legs a 5 hl
    case regs =>
      intro x hx
      refine ((s.chip.enterOff_regsBut a 5).put (AX_MSTAT_REACTED a.val) 0 List.mem_cons_self) x fun hm => hx ?_
      simp only [offRegs, List.mem_cons, List.not_mem_nil, or_false] at hm ⊢
      tauto
    case only => exact ((Only.enterOff s.chip a 5).then (.put ..)).eq
  case localEntry =>
    intro s a back waits owner named clear new
    have entered : s.chip.localCurve a = s.chip.enterMode a 1 back 0 := by
      rw [s.chip.localCurve_due waits owner, named, s.chip.request_ok _ _ clear]
      exact if_neg (by simpa using new)
    refine completes_of_run (·.localCurve a) rfl entered ⟨Entered.enterMode s.chip a 1 back 0 (by decide), ?_⟩
    exact (EntryStage.enterMode s.chip a 1 back 0).due.trans (Chip.modeShown_due ..)
  case localWaits =>
    intro s a back waits owner named bad
    refine idles_of_run (·.localCurve a) rfl ?_
    rw [s.chip.localCurve_due waits owner, named, s.chip.request_refused _ _ bad]
  case notLocal =>
    intro s a waits
    refine idles_of_run (·.localCurve a) rfl (if_neg ?_)
    simp only [Bool.and_eq_true, beq_iff_eq, not_and_or, Bool.not_eq_true]
    exact waits
end

section
-- One proof after the other: a side goal that `Only` settles by `decide` waits for the kernel, on a thread of its own.
set_option Elab.async false
/-! SUPPORT. Close requests of a list of slices, the period boundary of a leg, and the release of a slice; and the statement about
period boundaries and snapshots (R57, R58, R74, R77, R86, R99). -/
namespace Sys2Proof.Machine

/-! ### Close requests -/

/-- One slice changed as `g` says. -/
def Chip.touch (g : SliceState → SliceState) (c : Chip) (k : SliceId) : Chip := c.setSlice k (g (c.slice k))

/-- What is done again changes nothing more. -/
theorem Chip.each_touch {g : SliceState → SliceState} (c : Chip) (l : List SliceId) (again : ∀ x, g (g x) = g x) (k : SliceId) :
    (c.each l (Chip.touch g)).slice k = if k ∈ l then g (c.slice k) else c.slice k := by
  induction l generalizing c with
  | nil => simp [Chip.each]
  | cons j l ih =>
    have step : c.each (j :: l) (Chip.touch g) = (c.touch g j).each l (Chip.touch g) := rfl
    rw [step, ih]
    by_cases same : k = j
    · subst same
      have now : (c.touch g k).slice k = g (c.slice k) := Chip.slice_setSlice ..
      rw [now, again, if_pos List.mem_cons_self]
      exact ite_self _
    · have kept : (c.touch g j).slice k = c.slice k := Chip.slice_setSlice_ne c j _ same
      simp only [kept, List.mem_cons, same, false_or]

theorem Only.each_touch (g : SliceState → SliceState) (c : Chip) (l : List SliceId) : Only [.slices] c (c.each l (Chip.touch g)) :=
  .each c l fun _ _ _ => .setSlice ..

section
variable {f : SliceState → SliceState}

/-- One slice asked, where it runs. -/
def Chip.askSlice (f : SliceState → SliceState) (c : Chip) (k : SliceId) : Chip :=
  if (c.slice k).running then c.setSlice k (f (c.slice k)) else c

theorem Chip.askSlice_eq (c : Chip) (k : SliceId) : c.askSlice f k = c.touch (fun x => if x.running then f x else x) k := by
  have self : c.setSlice k (c.slice k) = c := by simp [Chip.setSlice, Chip.slice]
  unfold Chip.askSlice Chip.touch
  split
  next runs => exact congrArg (c.setSlice k) (if_pos runs).symm
  next rests => exact (self.symm.trans (congrArg (c.setSlice k) (if_neg rests).symm))

/-- A request asked twice is asked once. -/
theorem Requested.each (c : Chip) (l : List SliceId) (again : ∀ x, f (f x) = f x) (runs : ∀ x, (f x).running = x.running) :
    Requested l f c (c.each l (Chip.askSlice f)) := by
  have twice (x : SliceState) : (if (if x.running then f x else x).running then f (if x.running then f x else x)
      else if x.running then f x else x) = if x.running then f x else x := by
    by_cases hx : x.running = true
    · simp only [hx, if_true, runs, again]
    · simp only [hx, if_false, Bool.false_eq_true]
  have asked := c.each_touch l (g := fun x => if x.running then f x else x) twice
  have same : Chip.askSlice f = Chip.touch fun x => if x.running then f x else x := funext fun d => funext d.askSlice_eq
  rw [same]
  exact ⟨fun k hk => (asked k).trans (if_pos hk), fun k hk => (asked k).trans (if_neg hk)⟩

theorem Only.each_askSlice (c : Chip) (l : List SliceId) : Only [.slices] c (c.each l (Chip.askSlice f)) :=
  .each c l fun _ _ _ => .ite (.setSlice ..) (.refl ..)

end

/-- What a step before leaves of the slices and one after, a request keeps. -/
theorem Requested.around {l : List SliceId} {f : SliceState → SliceState} {a b c d : Chip} (h : Requested l f b c)
    (before : b.slices = a.slices) (after : d.slices = c.slices) : Requested l f a d := by
  have was (k : SliceId) : b.slice k = a.slice k := congrArg (fun v : Vector SliceState 41 => v[k]) before
  have now (k : SliceId) : d.slice k = c.slice k := congrArg (fun v : Vector SliceState 41 => v[k]) after
  refine ⟨fun k hk => ?_, fun k hk => ?_⟩
  · rw [now, h.1 k hk, was]
  · rw [now, h.2 k hk, was]

theorem Chip.askSched_eq (c : Chip) (k : SliceId) : c.askSched k = c.askSlice (fun x => { x with reqSched := true }) k := rfl

/-! ### The period boundary of a leg (R76, R77, R86) -/

/-- What the period boundary of a leg leaves. -/
structure LegTurned (l : Leg) (b c : Chip) : Prop where
  others : OneLeg l b c
  fields : FieldsBut [LEG_DUTY_ON l.val, LEG_CNT_REFRESH l.val] b c
  only : Only [.regs, .fresh, .legs] b c

section
variable (c : Chip) (l : Leg)

theorem LegTurned.refl : LegTurned l c c := ⟨.refl l c, .refl _ c, .refl _ c⟩

variable {c l}

theorem LegTurned.trans {b d : Chip} (h : LegTurned l b c) (k : LegTurned l c d) : LegTurned l b d :=
  ⟨fun j hj => (k.others j hj).trans (h.others j hj), h.fields.trans k.fields, h.only.trans k.only⟩

theorem LegTurned.ite {b d : Chip} {p : Prop} [Decidable p] (h : LegTurned l b c) (k : LegTurned l b d) :
    LegTurned l b (if p then c else d) := by
  split
  · exact h
  · exact k

theorem LegTurned.at {b : Chip} (h : LegAt l b c) : LegTurned l b c :=
  ⟨h.frame.1, h.only.fieldsBut _, h.only.mono⟩

theorem LegTurned.insertRefresh (c : Chip) (l : Leg) (n : Nat) : LegTurned l c (c.insertRefresh l n) := by
  have pulsed : LegTurned l c (c.lowPulse l) := ⟨.lowPulse c l, (FieldsBut.lowPulse c l).mono (by simp), .lowPulse c l⟩
  exact .ite (.refl c l) (pulsed.trans (.at (.setLeg ..)))

/-- A waiting duty applies. -/
def Chip.dutyTaken (c : Chip) (l : Leg) (next : Option (BitVec 17)) : Chip :=
  match next with | some d => c.put (LEG_DUTY_ON l.val) d.toNat | none => c

theorem LegTurned.dutyTaken (c : Chip) (l : Leg) (next : Option (BitVec 17)) : LegTurned l c (c.dutyTaken l next) := by
  cases next with
  | none => exact .refl c l
  | some d => exact ⟨fun _ _ => rfl, (FieldsBut.refl _ c).put _ _ (Field.ok_of _ rfl) List.mem_cons_self, (Only.put ..).mono⟩

variable (c l) (charge : Bool)

/-- The period that ended counts toward a refresh. -/
def Chip.fullPeriods : Nat := if c.legRuns l && c.fullDuty l then (c.leg l).refCount + 1 else 0

/-- The refresh that is due is inserted. -/
def Chip.periodEnded : Chip :=
  if decide (0 < c.fullPeriods l) && decide (c.get (LEG_BST_REF_K l.val) ≤ c.fullPeriods l) then c.insertRefresh l 0 else c

/-- The new period begins. -/
def Chip.periodBegun : Chip :=
  let x := c.leg l
  let due := decide (0 < c.fullPeriods l) && decide (c.get (LEG_BST_REF_K l.val) ≤ c.fullPeriods l)
  let start := charge && !c.flag (LEG_STAT_BST_OK l.val) && !x.charging && !x.exhausted
  let d := (c.periodEnded l).dutyTaken l x.nextOn
  d.setLeg l { d.leg l with
    rose := false, fell := false, nextOn := none
    refCount := if due then 0 else c.fullPeriods l
    charging := x.charging || start, pulses := if start then 0 else x.pulses }

theorem Chip.legBoundary_eq : c.legBoundary charge l =
    if (c.periodBegun l charge).legRuns l && (c.periodBegun l charge).noHigh l && ((c.periodBegun l charge).leg l).refresh.isNone then
      (c.periodBegun l charge).gates l (some .low)
    else c.periodBegun l charge := rfl

theorem LegTurned.periodBegun : LegTurned l c (c.periodBegun l charge) := by
  have ended : LegTurned l c (c.periodEnded l) := .ite (.insertRefresh c l 0) (.refl c l)
  exact (ended.trans (.dutyTaken _ l _)).trans (.at (.setLeg ..))

theorem LegTurned.legBoundary : LegTurned l c (c.legBoundary charge l) := by
  rw [Chip.legBoundary_eq]
  have begun := LegTurned.periodBegun c l charge
  exact .ite (begun.trans (.at (.gates ..))) begun

/-- What a new period shows of its leg (R77). -/
theorem Chip.periodBegun_shows : ((c.periodBegun l charge).leg l).fell = false ∧ ((c.periodBegun l charge).leg l).nextOn = none ∧
    ∀ d, (c.leg l).nextOn = some d → (c.periodBegun l charge).get (LEG_DUTY_ON l.val) = d.toNat := by
  unfold Chip.periodBegun
  dsimp only
  refine ⟨by rw [Chip.leg_setLeg], by rw [Chip.leg_setLeg], fun d waits => ?_⟩
  rw [Chip.setLeg_get, waits]
  exact Chip.get_put_lt _ _ (Field.ok_of _ rfl) _ d.isLt

theorem Chip.legBoundary_shows : ((c.legBoundary charge l).leg l).fell = false ∧ ((c.legBoundary charge l).leg l).nextOn = none ∧
    ∀ d, (c.leg l).nextOn = some d → (c.legBoundary charge l).get (LEG_DUTY_ON l.val) = d.toNat := by
  obtain ⟨fell, next, duty⟩ := c.periodBegun_shows l charge
  rw [Chip.legBoundary_eq]
  split
  next low =>
    have gates := (c.periodBegun l charge).gates_only l (some .low)
    rw [gates]
    exact ⟨fell, next, fun d waits => ((LegAt.gates ..).only.get _).trans (duty d waits)⟩
  next => exact ⟨fell, next, duty⟩

end

/-! ### The legs of an axis -/

/-- An operation of a list without repetition comes between those before and those after. -/
theorem Chip.each_split {α : Type} (c : Chip) (f : Chip → α → Chip) {xs : List α} (once : xs.Nodup) {x : α} (hx : x ∈ xs) :
    ∃ before after, x ∉ before ∧ x ∉ after ∧ before ⊆ xs ∧ after ⊆ xs ∧
      c.each xs f = (f (c.each before f) x).each after f := by
  obtain ⟨before, after, rfl⟩ := List.append_of_mem hx
  rw [List.nodup_middle] at once
  obtain ⟨out, -⟩ := List.nodup_cons.mp once
  rw [List.mem_append, not_or] at out
  exact ⟨before, after, out.1, out.2, by simp, by simp, by simp [Chip.each, List.foldl_append]⟩

theorem legsOf_nodup (a : Axis) : (legsOf a).Nodup := by
  simp [legsOf, legOf]

section
variable (c : Chip) (charge : Bool)

/-- The boundaries of other legs keep a leg and its duty. -/
theorem Chip.each_legBoundary_kept (xs : List Leg) {l : Leg} (hl : l ∉ xs) :
    (c.each xs fun d l => d.legBoundary charge l).leg l = c.leg l ∧
    (c.each xs fun d l => d.legBoundary charge l).get (LEG_DUTY_ON l.val) = c.get (LEG_DUTY_ON l.val) := by
  refine Chip.each_keeps (P := fun d => d.leg l = c.leg l ∧ d.get (LEG_DUTY_ON l.val) = c.get (LEG_DUTY_ON l.val)) xs ⟨rfl, rfl⟩ ?_
  intro d kept j hj
  have turned := LegTurned.legBoundary d j charge
  have apart : l ≠ j := fun e => hl (e ▸ hj)
  have num : l.val ≠ j.val := fun e => apart (Fin.ext e)
  refine ⟨(turned.others l apart).trans kept.1, (turned.fields _ (Field.ok_of _ rfl) ?_).trans kept.2⟩
  simp only [List.forall_mem_cons, List.not_mem_nil, false_imp_iff, implies_true, and_true]
  exact ⟨.inl (by simp only [LEG_DUTY_ON, LEG_DUTY]; omega), .inl (by simp only [LEG_DUTY_ON, LEG_DUTY, LEG_CNT_REFRESH, LEG_CNT]; omega)⟩

/-- The period boundaries of the legs of an axis. -/
def Chip.legsTurned (a : Axis) : Chip := c.each (legsOf a) fun d l => d.legBoundary charge l

theorem Only.legsTurned (a : Axis) : Only [.regs, .fresh, .legs] c (c.legsTurned charge a) :=
  .each c _ fun d l _ => (LegTurned.legBoundary d l charge).only

theorem Chip.legsTurned_others (a : Axis) {l : Leg} (hl : l ∉ legsOf a) : (c.legsTurned charge a).leg l = c.leg l :=
  (c.each_legBoundary_kept charge _ hl).1

theorem FieldsBut.legsTurned (a : Axis) : FieldsBut ((legsOf a).map (fun l => LEG_DUTY_ON l.val) ++
    (legsOf a).map fun l => LEG_CNT_REFRESH l.val) c (c.legsTurned charge a) := by
  refine FieldsBut.each c _ fun d l hl => (LegTurned.legBoundary d l charge).fields.mono ?_
  intro f hf
  simp only [List.mem_cons, List.not_mem_nil, or_false] at hf
  obtain rfl | rfl := hf
  · exact List.mem_append_left _ (List.mem_map.mpr ⟨l, hl, rfl⟩)
  · exact List.mem_append_right _ (List.mem_map.mpr ⟨l, hl, rfl⟩)

/-- What the new period shows of a leg. -/
theorem Chip.legsTurned_shows (a : Axis) {l : Leg} (hl : l ∈ legsOf a) : ((c.legsTurned charge a).leg l).fell = false ∧
    ((c.legsTurned charge a).leg l).nextOn = none ∧
    ∀ d, (c.leg l).nextOn = some d → (c.legsTurned charge a).get (LEG_DUTY_ON l.val) = d.toNat := by
  obtain ⟨before, after, out, beyond, -, -, split⟩ := c.each_split (fun d l => d.legBoundary charge l) (legsOf_nodup a) hl
  obtain ⟨was, -⟩ := c.each_legBoundary_kept charge before out
  obtain ⟨now, duty⟩ := ((c.each before fun d l => d.legBoundary charge l).legBoundary charge l).each_legBoundary_kept charge after beyond
  obtain ⟨fell, next, taken⟩ := (c.each before fun d l => d.legBoundary charge l).legBoundary_shows l charge
  unfold Chip.legsTurned
  rw [split, now, duty]
  exact ⟨fell, next, fun d waits => taken d (was ▸ waits)⟩

end

/-! ### The release of a slice (R57, R58, R211 to R214) -/

/-- The fields of an axis's stream that a release may set. -/
def servoFields (a : Axis) : List Field :=
  [AX_STRSTAT_UNDER a.val, AX_STRCNT_UNDERRUNS a.val, AX_MSTAT_PEND a.val, AX_MSTAT_HELD a.val]

/-- What the bookkeeping of a servo period leaves: the slices under way and the boundary of the axis, and the other axes. -/
structure ServoStage (a : Axis) (b c : Chip) : Prop where
  run : (c.axis a).run = (b.axis a).run
  edge : (c.axis a).edgeTick = (b.axis a).edgeTick
  others : OneAxis a b c
  fields : FieldsBut (servoFields a) b c
  only : Only [.regs, .fresh, .axes] b c

section
variable (c : Chip) (a : Axis)

theorem ServoStage.refl : ServoStage a c c := ⟨rfl, rfl, .refl a c, .refl _ c, .refl _ c⟩

variable {c a}

theorem ServoStage.setAxis {b : Chip} (h : ServoStage a b c) (x : AxisState) (run : x.run = (c.axis a).run)
    (edge : x.edgeTick = (c.axis a).edgeTick) : ServoStage a b (c.setAxis a x) :=
  ⟨by rw [Chip.axis_setAxis, run, h.run], by rw [Chip.axis_setAxis, edge, h.edge], h.others.setAxis x,
    h.fields.of_regs (Chip.setAxis_regs ..), h.only.then (.setAxis ..)⟩

theorem ServoStage.put {b : Chip} (h : ServoStage a b c) (f : Field) (v : Nat) (ok : f.ok) (hf : f ∈ servoFields a) :
    ServoStage a b (c.put f v) := ⟨h.run, h.edge, h.others, h.fields.put f v ok hf, h.only.then (.put ..)⟩

theorem ServoStage.newServo {b : Chip} (h : ServoStage a b c) : ServoStage a b (c.newServo a) := by
  have begun (x : AxisState) (run : x.run = (c.axis a).run) (edge : x.edgeTick = (c.axis a).edgeTick) :
      ServoStage a b (((c.setAxis a x).mark (AX_STRSTAT_UNDER a.val)).bump (AX_STRCNT_UNDERRUNS a.val) 1) := by
    obtain ⟨run, edge, others, fields, only⟩ := h.setAxis x run edge
    exact ⟨run, edge, others, (fields.mark _ (Field.ok_of _ rfl) (by simp [servoFields])).bump _ _ (Field.ok_of _ rfl) (by simp [servoFields]),
      (only.then (.mark ..)).then (.bump ..)⟩
  unfold Chip.newServo
  dsimp only
  split
  · exact begun _ rfl rfl
  · exact h.setAxis _ rfl rfl

variable (c a)

theorem ServoStage.servo : ServoStage a c (c.servo a).1 := by
  have same := ServoStage.refl c a
  unfold Chip.servo
  dsimp only
  split
  next => exact same
  split
  next => exact same.setAxis _ rfl rfl
  split
  next => exact same
  split
  next =>
    split
    next => exact (same.put (AX_MSTAT_PEND a.val) 0 (Field.ok_of _ rfl) (by simp [servoFields])).newServo
    next => exact (same.put (AX_MSTAT_HELD a.val) 1 (Field.ok_of _ rfl) (by simp [servoFields])).setAxis _ rfl rfl
  next => exact same.newServo

/-- The slice that a release puts behind those before it. -/
def Chip.freshSlice : Pend :=
  let d := (c.servo a).1
  { release := d.now, df := d.get (TMP_DF_DF a.val), opened := d.windowFrom a, v0 := d.windowTb a
    v1 := (d.tb (tbeOf a)).val, period := (d.axis a).period, j := (c.servo a).2 }

theorem Chip.releaseSlice_eq : c.releaseSlice a =
    if !c.slicesRun a || c.arming then c
    else (c.servo a).1.setAxis a { (c.servo a).1.axis a with
      run := { ((c.servo a).1.axis a).run with queue := ((c.servo a).1.axis a).run.queue ++ [c.freshSlice a] } } := rfl

theorem Chip.releaseSlice_runs (runs : c.slicesRun a = true) (armed : c.arming = false) : c.releaseSlice a =
    (c.servo a).1.setAxis a { (c.servo a).1.axis a with
      run := { ((c.servo a).1.axis a).run with queue := ((c.servo a).1.axis a).run.queue ++ [c.freshSlice a] } } := by
  rw [Chip.releaseSlice_eq, runs, armed]
  rfl

theorem Chip.releaseSlice_rests (h : c.slicesRun a = false ∨ c.arming = true) : c.releaseSlice a = c := by
  rw [Chip.releaseSlice_eq]
  obtain rests | arms := h
  · rw [rests]; rfl
  · rw [arms, Bool.or_true]; rfl

/-- What a release shows of its slice (R58, R263). -/
theorem Chip.freshSlice_shows : (c.freshSlice a).release = c.now ∧ (c.freshSlice a).df = c.get (TMP_DF_DF a.val) ∧
    (c.freshSlice a).v1 = (c.tb (tbeOf a)).val ∧ (c.freshSlice a).snap = none := by
  have stage := ServoStage.servo c a
  refine ⟨stage.only.same .now (by decide), stage.fields _ (Field.ok_of _ rfl) ?_, congrArg TbState.val (stage.only.tb _), rfl⟩
  simp only [servoFields, List.forall_mem_cons, List.not_mem_nil, false_imp_iff, implies_true, and_true]
  refine ⟨?_, ?_, ?_, ?_⟩ <;> left
  · simp only [TMP_DF_DF, TMP_DF, AX_STRSTAT_UNDER, AX_STRSTAT]; omega
  · simp only [TMP_DF_DF, TMP_DF, AX_STRCNT_UNDERRUNS, AX_STRCNT]; omega
  · simp only [TMP_DF_DF, TMP_DF, AX_MSTAT_PEND, AX_MSTAT]; omega
  · simp only [TMP_DF_DF, TMP_DF, AX_MSTAT_HELD, AX_MSTAT]; omega

end

/-! ### The period boundary of an axis (R57, R74, R99) -/

section
variable (c : Chip) (a : Axis)

theorem Chip.legsTurned_get (charge : Bool) {f : Field} (ok : f.ok)
    (apart : ∀ l : Leg, f.addr ≠ LEG_DUTY l.val ∧ f.addr ≠ LEG_CNT l.val) : (c.legsTurned charge a).get f = c.get f := by
  refine FieldsBut.legsTurned c charge a f ok fun g hg => .inl ?_
  simp only [List.mem_append, List.mem_map] at hg
  obtain ⟨l, -, rfl⟩ | ⟨l, -, rfl⟩ := hg
  · exact (apart l).1
  · exact (apart l).2

/-- The BOUNDARY slices that name the axis. -/
def Chip.boundarySlices : List SliceId :=
  allSlices.filter fun k => c.closeMode k == 0 && c.get (SL_CFG_AXIS k.val) == a.val && !isUnder k

theorem Chip.boundarySlices_legsTurned (charge : Bool) : (c.legsTurned charge a).boundarySlices a = c.boundarySlices a := by
  have apart (k : SliceId) (l : Leg) : SL_CFG k.val ≠ LEG_DUTY l.val ∧ SL_CFG k.val ≠ LEG_CNT l.val := by
    simp only [SL_CFG, LEG_DUTY, LEG_CNT]
    omega
  have close (k : SliceId) : (c.legsTurned charge a).closeMode k = c.closeMode k :=
    c.legsTurned_get a charge (Field.ok_of _ rfl) (apart k)
  have axis (k : SliceId) : (c.legsTurned charge a).get (SL_CFG_AXIS k.val) = c.get (SL_CFG_AXIS k.val) :=
    c.legsTurned_get a charge (Field.ok_of _ rfl) (apart k)
  unfold Chip.boundarySlices
  simp only [close, axis]

/-- The legs have turned, the BOUNDARY slices are asked to close, and the SSI groups that the axis triggers are told. -/
def Chip.boundaryTold (charge : Bool) : Chip :=
  let c := c.legsTurned charge a
  let c := c.each (c.boundarySlices a) Chip.askSched
  c.each (allPorts.filter fun p => c.leads p 3 && c.get (FP_SSI3_TRIGAX p.val) == a.val) Chip.ssiTrigger

/-- Legs in OFF charge at the boundary (R89). -/
def Chip.charges : Bool := c.isArmed && c.axisOn a && c.modeOf a == 0

/-- The boundary but for its own tick and timebase. -/
def Chip.boundaryReleased : Chip := (c.boundaryTold a (c.charges a)).releaseSlice a

theorem Chip.pwmBoundary_eq (due : c.boundaryDue a = true) : c.pwmBoundary a =
    (c.boundaryReleased a).setAxis a { (c.boundaryReleased a).axis a with
      edgeTick := some (c.boundaryReleased a).now, edgeTb := ((c.boundaryReleased a).tb (tbeOf a)).val } := by
  unfold Chip.pwmBoundary
  rw [due]
  rfl

theorem Only.ssiTrigger (p : Port) : Only [.ports] c (c.ssiTrigger p) := Only.ite (.setPort ..) (.setPort ..)

/-- What is told after the legs have turned leaves all but slices and ports. -/
theorem Only.boundaryTold_turned (charge : Bool) : Only [.slices, .ports] (c.legsTurned charge a) (c.boundaryTold a charge) :=
  Only.then ((Only.each_askSlice (f := fun x => { x with reqSched := true }) ..).mono) (.each _ _ fun d p _ => .ssiTrigger d p)

theorem Only.boundaryTold (charge : Bool) : Only [.regs, .fresh, .legs, .slices, .ports] c (c.boundaryTold a charge) :=
  Only.then ((Only.legsTurned c charge a).mono) (.boundaryTold_turned c a charge)

theorem Requested.boundaryTold (charge : Bool) :
    Requested (c.boundarySlices a) (fun x => { x with reqSched := true }) c (c.boundaryTold a charge) := by
  have asked := Requested.each (f := fun x => { x with reqSched := true }) (c.legsTurned charge a)
    ((c.legsTurned charge a).boundarySlices a) (fun _ => rfl) fun _ => rfl
  rw [Chip.boundarySlices_legsTurned] at asked
  refine asked.around ((Only.legsTurned c charge a).same .slices (by decide)) ?_
  unfold Chip.boundaryTold
  dsimp only
  rw [Chip.boundarySlices_legsTurned]
  exact (Only.each (l := [.ports]) _ _ fun d p _ => Only.ssiTrigger d p).same .slices (by decide)

/-- A slice is released as the axis stood. -/
theorem Chip.releaseSlice_frame : OneAxis a c (c.releaseSlice a) ∧ FieldsBut (servoFields a) c (c.releaseSlice a) ∧
    Only [.regs, .fresh, .axes] c (c.releaseSlice a) := by
  have stage := ServoStage.servo c a
  rw [Chip.releaseSlice_eq]
  split
  · exact ⟨.refl a c, .refl _ c, .refl _ c⟩
  · exact ⟨stage.others.setAxis _, stage.fields.of_regs (Chip.setAxis_regs ..), stage.only.then (.setAxis ..)⟩

/-- What the boundary has told so far keeps the registers but those of duties and refreshes. -/
theorem Chip.boundaryTold_get (charge : Bool) {f : Field} (ok : f.ok)
    (apart : ∀ l : Leg, f.addr ≠ LEG_DUTY l.val ∧ f.addr ≠ LEG_CNT l.val) : (c.boundaryTold a charge).get f = c.get f :=
  ((Only.boundaryTold_turned c a charge).get f).trans (c.legsTurned_get a charge ok apart)

theorem Chip.boundaryTold_slicesRun (charge : Bool) : (c.boundaryTold a charge).slicesRun a = c.slicesRun a := by
  have state : (c.boundaryTold a charge).get SYS_STATUS_PSTATE = c.get SYS_STATUS_PSTATE :=
    c.boundaryTold_get a charge (Field.ok_of _ rfl) fun l => by simp only [SYS_STATUS_PSTATE, SYS_STATUS, LEG_DUTY, LEG_CNT]; omega
  have on : (c.boundaryTold a charge).get (AX_COMCFG_EN a.val) = c.get (AX_COMCFG_EN a.val) :=
    c.boundaryTold_get a charge (Field.ok_of _ rfl) fun l => by simp only [AX_COMCFG_EN, AX_COMCFG, LEG_DUTY, LEG_CNT]; omega
  have halt : (c.boundaryTold a charge).get (FE_STATUS_HALT (regionOf a).val) = c.get (FE_STATUS_HALT (regionOf a).val) :=
    c.boundaryTold_get a charge (Field.ok_of _ rfl) fun l => by simp only [FE_STATUS_HALT, FE_STATUS, LEG_DUTY, LEG_CNT]; omega
  simp only [Chip.slicesRun, Chip.isArmed, Chip.inStandby, Chip.inShow, Chip.axisOn, Chip.flag, Chip.halted, state, on, halt]

theorem Chip.boundaryTold_arming (charge : Bool) : (c.boundaryTold a charge).arming = c.arming := by
  have only := Only.boundaryTold c a charge
  unfold Chip.arming
  rw [only.same .armTick (by decide), only.same .now (by decide)]

/-- The legs and their duties, as a boundary leaves them. -/
theorem Chip.boundaryReleased_shows {l : Leg} (hl : l ∈ legsOf a) :
    ((c.boundaryReleased a).leg l).fell = false ∧ ((c.boundaryReleased a).leg l).nextOn = none ∧
    ∀ d, (c.leg l).nextOn = some d → (c.boundaryReleased a).get (LEG_DUTY_ON l.val) = d.toNat := by
  obtain ⟨fell, next, duty⟩ := c.legsTurned_shows (c.charges a) a hl
  obtain ⟨-, fields, only⟩ := (c.boundaryTold a (c.charges a)).releaseSlice_frame a
  have told := Only.boundaryTold_turned c a (c.charges a)
  rw [Chip.boundaryReleased, only.leg l, told.leg l]
  refine ⟨fell, next, fun d waits => (fields _ (Field.ok_of _ rfl) ?_).trans ((told.get _).trans (duty d waits))⟩
  simp only [servoFields, List.forall_mem_cons, List.not_mem_nil, false_imp_iff, implies_true, and_true]
  refine ⟨?_, ?_, ?_, ?_⟩ <;> left
  · simp only [LEG_DUTY_ON, LEG_DUTY, AX_STRSTAT_UNDER, AX_STRSTAT]; omega
  · simp only [LEG_DUTY_ON, LEG_DUTY, AX_STRCNT_UNDERRUNS, AX_STRCNT]; omega
  · simp only [LEG_DUTY_ON, LEG_DUTY, AX_MSTAT_PEND, AX_MSTAT]; omega
  · simp only [LEG_DUTY_ON, LEG_DUTY, AX_MSTAT_HELD, AX_MSTAT]; omega

/-- The slice that a boundary releases. -/
theorem Chip.boundaryReleased_slice (runs : c.slicesRun a = true) (armed : c.arming = false) :
    ∃ p, ((c.boundaryReleased a).axis a).run = { (c.axis a).run with queue := (c.axis a).run.queue ++ [p] } ∧
      p.release = c.now ∧ p.df = c.get (TMP_DF_DF a.val) ∧ p.v1 = (c.tb (tbeOf a)).val ∧ p.snap = none := by
  have only := Only.boundaryTold c a (c.charges a)
  obtain ⟨release, df, v1, snap⟩ := (c.boundaryTold a (c.charges a)).freshSlice_shows a
  have stage := ServoStage.servo (c.boundaryTold a (c.charges a)) a
  have factor : (c.boundaryTold a (c.charges a)).get (TMP_DF_DF a.val) = c.get (TMP_DF_DF a.val) :=
    c.boundaryTold_get a (c.charges a) (Field.ok_of _ rfl) fun l => by simp only [TMP_DF_DF, TMP_DF, LEG_DUTY, LEG_CNT]; omega
  refine ⟨(c.boundaryTold a (c.charges a)).freshSlice a, ?_, release.trans (only.same .now (by decide)), df.trans factor,
    v1.trans (congrArg TbState.val (only.tb _)), snap⟩
  rw [Chip.boundaryReleased, Chip.releaseSlice_runs _ _ ((c.boundaryTold_slicesRun a (c.charges a)).trans runs) ((c.boundaryTold_arming a (c.charges a)).trans armed),
    Chip.axis_setAxis, stage.run, only.axis a]

/-- Where no slice runs, the boundary leaves the axis. -/
theorem Chip.boundaryReleased_rests (h : c.slicesRun a = false ∨ c.arming = true) : (c.boundaryReleased a).axis a = c.axis a := by
  have rests : (c.boundaryTold a (c.charges a)).slicesRun a = false ∨ (c.boundaryTold a (c.charges a)).arming = true := by
    rwa [Chip.boundaryTold_slicesRun, Chip.boundaryTold_arming]
  rw [Chip.boundaryReleased, Chip.releaseSlice_rests _ _ rests]
  exact (Only.boundaryTold c a (c.charges a)).axis a

/-- What a boundary leaves. -/
theorem Chip.boundaryReleased_frame : OneAxis a c (c.boundaryReleased a) ∧
    (∀ l, l ∉ legsOf a → (c.boundaryReleased a).leg l = c.leg l) ∧
    FieldsBut (servoFields a ++ (legsOf a).map (fun l => LEG_DUTY_ON l.val) ++ (legsOf a).map fun l => LEG_CNT_REFRESH l.val) c
      (c.boundaryReleased a) ∧
    Only [.regs, .fresh, .legs, .slices, .ports, .axes] c (c.boundaryReleased a) ∧
    Requested (c.boundarySlices a) (fun x => { x with reqSched := true }) c (c.boundaryReleased a) := by
  have told := Only.boundaryTold_turned c a (c.charges a)
  have before := Only.boundaryTold c a (c.charges a)
  obtain ⟨others, fields, only⟩ := (c.boundaryTold a (c.charges a)).releaseSlice_frame a
  refine ⟨?_, fun l hl => ?_, ?_, (Only.mono before).then only, ?_⟩
  · exact (before.oneAxis a).trans others
  · exact (only.leg l).trans ((told.leg l).trans (c.legsTurned_others (c.charges a) a hl))
  · have turned := (FieldsBut.legsTurned c (c.charges a) a).trans (told.fieldsBut _)
    refine (turned.mono ?_).trans (fields.mono ?_) <;> simp +contextual
  · exact (Requested.boundaryTold c a (c.charges a)).around rfl (only.same .slices (by decide))

end

/-! ### The snapshot of a slice (R58) -/

section
variable (c : Chip) (a : Axis)

/-- What the entry snapshot takes leaves. -/
structure EntryTaken (a : Axis) (b c : Chip) : Prop where
  run : (c.axis a).run = (b.axis a).run
  entered : (c.axis a).entered = (b.axis a).entered
  others : OneAxis a b c
  fields : FieldsBut [AX_MSTAT_SLOT a.val, AX_GREM_REM a.val] b c
  only : Only [.regs, .axes] b c

theorem EntryTaken.refl : EntryTaken a c c := ⟨rfl, rfl, .refl a c, .refl _ c, .refl _ c⟩

variable {c a}

theorem EntryTaken.setAxis {b : Chip} (h : EntryTaken a b c) (x : AxisState) (run : x.run = (c.axis a).run)
    (entered : x.entered = (c.axis a).entered) : EntryTaken a b (c.setAxis a x) :=
  ⟨by rw [Chip.axis_setAxis, run, h.run], by rw [Chip.axis_setAxis, entered, h.entered], h.others.setAxis x,
    h.fields.of_regs (Chip.setAxis_regs ..), h.only.then (.setAxis ..)⟩

theorem Chip.showGear_axis (c : Chip) (a : Axis) : ∃ t, (c.showGear a).axis a = { c.axis a with target := t } :=
  ⟨_, Chip.axis_setAxis ..⟩

theorem EntryTaken.showGear {b : Chip} (h : EntryTaken a b c) : EntryTaken a b (c.showGear a) := by
  have shown := GearTurned.showGear c a
  obtain ⟨t, axis⟩ := c.showGear_axis a
  exact ⟨by rw [axis, h.run], by rw [axis, h.entered], h.others.trans shown.others, h.fields.trans (.showGear c a),
    h.only.trans shown.only⟩

theorem EntryTaken.ite {b d : Chip} {p : Prop} [Decidable p] (h : EntryTaken a b c) (k : EntryTaken a b d) :
    EntryTaken a b (if p then c else d) := by
  split
  · exact h
  · exact k

theorem EntryTaken.entryTarget (c : Chip) (a : Axis) : EntryTaken a c (c.entryTarget a) := by
  have begun {d : Chip} (h : EntryTaken a c d) : EntryTaken a c
      (if d.modeOf a == 3 && !(d.axis a).begun then d.setAxis a { d.axis a with begun := true, period := 0, spdCount := 1 } else d) :=
    .ite (h.setAxis _ rfl rfl) h
  have taken (x : AxisState) (run : x.run = (c.axis a).run) (entered : x.entered = (c.axis a).entered) : EntryTaken a c
      (if (c.setAxis a x).modeOf a = 4 then (c.setAxis a x).showGear a else c.setAxis a x) :=
    have set : EntryTaken a c (c.setAxis a x) := (EntryTaken.refl c a).setAxis x run entered
    .ite set.showGear set
  unfold Chip.entryTarget
  dsimp only
  split
  · exact begun (taken _ rfl rfl)
  · exact begun (.refl c a)

/-! ### What the snapshot holds -/

variable (c a)

/-- The slice that takes its snapshot; the first of a stream begins its period. -/
def Chip.snapPend (p : Pend) : Pend := if c.modeOf a == 3 && !(c.axis a).begun then { p with period := 0, j := 0 } else p

/-- The chip as the snapshot is taken. -/
def Chip.snapChip : Chip := (c.entryTarget a).freeWord.1

/-- The snapshot. -/
def Chip.snapShot (p : Pend) : Snapshot :=
  let input := (c.entryTarget a).curveInput a
  (c.snapChip a).snapOf a (c.snapPend a p) (c.axis a).takeTarget
    (if input.1 < 65536 then input.1 else (c.entryTarget a).freeWord.2.toNat % 65536) input.2

/-- The axis once its slice has its snapshot. -/
def Chip.snapAxis (p : Pend) : AxisState :=
  let y := (c.snapChip a).axis a
  { y with
    entered := false, switched := false, applied := if (c.snapShot a p).head.isSome then (c.snapShot a p).head else y.applied
    run := { y.run with queue := takeSnap (c.snapPend a p) (c.snapShot a p) y.run.queue } }

theorem Chip.snapshot_eq {p : Pend} (stands : c.resultsStand a = true) (due : dueSnap (c.axis a).run.queue = some p) :
    c.snapshot a = (c.snapChip a).setAxis a (c.snapAxis a p) := by
  unfold Chip.snapshot
  rw [stands, due]
  rfl

theorem Chip.snapshot_idle (h : c.resultsStand a = false ∨ dueSnap (c.axis a).run.queue = none) : c.snapshot a = c := by
  unfold Chip.snapshot
  obtain waits | none := h
  · rw [waits]; rfl
  · rw [none]
    split <;> rfl

/-- What the snapshot's chip leaves. -/
theorem Chip.snapChip_frame : OneAxis a c (c.snapChip a) ∧ FieldsBut [AX_MSTAT_SLOT a.val, AX_GREM_REM a.val] c (c.snapChip a) ∧
    Only [.regs, .axes, .free] c (c.snapChip a) ∧ ((c.snapChip a).axis a).run = (c.axis a).run ∧
    ((c.snapChip a).axis a).entered = (c.axis a).entered := by
  have taken := EntryTaken.entryTarget c a
  have free : Only [.free] (c.entryTarget a) (c.snapChip a) := .of_mix rfl
  have axis := free.axis a
  exact ⟨taken.others.trans (free.oneAxis a), taken.fields.trans (free.fieldsBut _), (Only.mono taken.only).then free,
    (congrArg AxisState.run axis).trans taken.run, (congrArg AxisState.entered axis).trans taken.entered⟩

theorem Chip.snapPend_eq (p : Pend) : c.snapPend a p = { p with period := (c.snapPend a p).period, j := (c.snapPend a p).j } := by
  unfold Chip.snapPend
  split <;> rfl

/-- A field of another register, or one of AX_MSTAT beside SLOT. -/
theorem Chip.snapChip_get {f : Field} (ok : f.ok) (slot : f.apart (AX_MSTAT_SLOT a.val)) (rem : f.addr ≠ AX_GREM a.val) :
    (c.snapChip a).get f = c.get f := by
  obtain ⟨-, fields, -⟩ := c.snapChip_frame a
  refine fields f ok ?_
  simp only [List.forall_mem_cons, List.not_mem_nil, false_imp_iff, implies_true, and_true]
  exact ⟨slot, .inl rem⟩

theorem Chip.snapChip_flag {f : Field} (ok : f.ok) (slot : f.apart (AX_MSTAT_SLOT a.val)) (rem : f.addr ≠ AX_GREM a.val) :
    (c.snapChip a).flag f = c.flag f := congrArg (· != 0) (c.snapChip_get a ok slot rem)

/-- What the snapshot holds of its axis (R58). -/
theorem Chip.snapShot_axis (p : Pend) : (c.snapShot a p).tick = c.now ∧ (c.snapShot a p).mode = c.modeOf a ∧
    (c.snapShot a p).entered = (c.axis a).entered ∧ (c.snapShot a p).tbm = c.tbVal (tbmOf a) ∧
    (c.snapShot a p).tbe = c.tbVal (tbeOf a) ∧ (c.snapShot a p).stale = c.axisStale a ∧
    (c.snapShot a p).dir = c.flag (AX_MSTAT_DIR a.val) := by
  obtain ⟨-, -, only, -, entered⟩ := c.snapChip_frame a
  have timebase (n : Tb) : (c.snapChip a).tbVal n = c.tbVal n := by
    unfold Chip.tbVal
    rw [only.same .wall (by decide), only.tb n]
  refine ⟨only.same .now (by decide), ?_, entered, timebase _, timebase _, ?_, ?_⟩
  · exact c.snapChip_get a (Field.ok_of _ rfl) (Field.apart_of _ _ rfl)
      (by simp only [AX_MSTAT_MODE, AX_MSTAT, AX_GREM]; omega)
  · exact c.snapChip_flag a (Field.ok_of _ rfl) (.inl (by simp only [CUE_TB_STAT_STALE, CUE_TB_STAT, AX_MSTAT_SLOT, AX_MSTAT, tbmOf]; omega))
      (by simp only [CUE_TB_STAT_STALE, CUE_TB_STAT, AX_GREM, tbmOf]; omega)
  · exact c.snapChip_flag a (Field.ok_of _ rfl) (Field.apart_of _ _ rfl)
      (by simp only [AX_MSTAT_DIR, AX_MSTAT, AX_GREM]; omega)

/-- What the snapshot holds of the compatibility commands, and the phase results. -/
theorem Chip.snapShot_commands (p : Pend) : (c.snapShot a p).run = c.flag (CMP_CTRL_RUN a.val) ∧
    (c.snapShot a p).cmpTarget = c.gets (CMP_TARGET_TARGET a.val) ∧ (c.snapShot a p).accel = c.get (CMP_ACCEL_ACCEL a.val) ∧
    (c.snapShot a p).decel = c.get (CMP_DECEL_DECEL a.val) ∧ (c.snapShot a p).u = (c.slice (sliceOfLeg (legOf a 0))).last ∧
    (c.snapShot a p).v = (c.slice (sliceOfLeg (legOf a 1))).last ∧ (c.snapShot a p).w = (c.slice (sliceOfLeg (legOf a 2))).last := by
  obtain ⟨-, -, only, -⟩ := c.snapChip_frame a
  refine ⟨?_, ?_, ?_, ?_, congrArg SliceState.last (only.slice _), congrArg SliceState.last (only.slice _),
    congrArg SliceState.last (only.slice _)⟩
  · exact c.snapChip_flag a (Field.ok_of _ rfl) (.inl (by simp only [CMP_CTRL_RUN, CMP_CTRL, AX_MSTAT_SLOT, AX_MSTAT]; omega))
      (by simp only [CMP_CTRL_RUN, CMP_CTRL, AX_GREM]; omega)
  · exact congrArg (signed _) (c.snapChip_get a (Field.ok_of _ rfl)
      (.inl (by simp only [CMP_TARGET_TARGET, CMP_TARGET, AX_MSTAT_SLOT, AX_MSTAT]; omega))
      (by simp only [CMP_TARGET_TARGET, CMP_TARGET, AX_GREM]; omega))
  · exact c.snapChip_get a (Field.ok_of _ rfl) (.inl (by simp only [CMP_ACCEL_ACCEL, CMP_ACCEL, AX_MSTAT_SLOT, AX_MSTAT]; omega))
      (by simp only [CMP_ACCEL_ACCEL, CMP_ACCEL, AX_GREM]; omega)
  · exact c.snapChip_get a (Field.ok_of _ rfl) (.inl (by simp only [CMP_DECEL_DECEL, CMP_DECEL, AX_MSTAT_SLOT, AX_MSTAT]; omega))
      (by simp only [CMP_DECEL_DECEL, CMP_DECEL, AX_GREM]; omega)

end
end Sys2Proof.Machine

open Sys2Proof.Machine

/-- Settles O12. -/
theorem periodsAndSnapshots : Obligations.PeriodsAndSnapshots := by
  refine ⟨⟨?boundary, ?noBoundary⟩, ?snapshot, ?noSnapshot⟩
  case boundary =>
    intro s a lit first new
    have due : s.chip.boundaryDue a = true := by simp [Chip.boundaryDue, lit, first, new]
    obtain ⟨others, otherLegs, fields, only, asked⟩ := s.chip.boundaryReleased_frame a
    have tick : some (s.chip.boundaryReleased a).now = some s.chip.now := congrArg some (only.same .now (by decide))
    refine completes_of_run (·.pwmBoundary a) rfl (s.chip.pwmBoundary_eq a due)
      ⟨fun l hl => ?legs, asked.around rfl rfl, fun runs armed => ?released, fun rests => ?rests, ?tick, others.setAxis _, otherLegs,
        fields.of_regs (Chip.setAxis_regs ..), (only.then (.setAxis ..)).eq⟩
    case legs =>
      obtain ⟨fell, next, duty⟩ := s.chip.boundaryReleased_shows a hl
      exact ⟨fell, next, fun d waits => (Chip.setAxis_get ..).trans (duty d waits)⟩
    case released =>
      rw [Chip.axis_setAxis]
      exact s.chip.boundaryReleased_slice a runs armed
    case rests => rw [Chip.axis_setAxis, s.chip.boundaryReleased_rests a rests, tick, only.tb]
    case tick => rw [Chip.axis_setAxis, tick]
  case noBoundary =>
    intro s a h
    refine idles_of_run (·.pwmBoundary a) rfl (if_pos ?_)
    obtain dark | between := h
    · simp [Chip.boundaryDue, dark]
    · simp [Chip.boundaryDue, between]
  case snapshot =>
    intro s a p due stands
    obtain ⟨others, fields, only, run, -⟩ := s.chip.snapChip_frame a
    obtain ⟨tick, mode, entered, tbm, tbe, stale, dir⟩ := s.chip.snapShot_axis a p
    obtain ⟨go, target, accel, decel, u, v, w⟩ := s.chip.snapShot_commands a p
    refine completes_of_run (·.snapshot a) rfl (s.chip.snapshot_eq a stands due)
      ⟨⟨s.chip.snapPend a p, s.chip.snapShot a p, ?_, s.chip.snapPend_eq a p, tick, mode, entered, tbm, tbe, stale, dir, go, target,
        accel, decel, u, v, w⟩, ?_, ?_, others.setAxis _, fields.of_regs (Chip.setAxis_regs ..), (only.then (.setAxis ..)).eq⟩
    · rw [Chip.axis_setAxis, Chip.snapAxis, run]
    · rw [Chip.axis_setAxis, Chip.snapAxis]
    · rw [Chip.axis_setAxis, Chip.snapAxis]
  case noSnapshot =>
    intro s a h
    exact idles_of_run (·.snapshot a) rfl (s.chip.snapshot_idle a h)
end

section
-- One proof after the other: a side goal that `Only` settles by `decide` waits for the kernel, on a thread of its own.
set_option Elab.async false
/-! SUPPORT. Closes by cue and by frame, and what a window's report shows at the C-die; and the statement about the requests for
a close (R99 to R110, R121, R228). -/
namespace Sys2Proof.Machine

/-! ### Closes of several slices -/

/-- A request by cue. -/
def cueAsked (x : SliceState) : SliceState := { x with reqCue := true, frameDue := false }

section
variable (c : Chip)

theorem Chip.askCue_eq (k : SliceId) : c.askCue k = c.each (c.closing k) (Chip.askSlice cueAsked) := rfl

theorem Chip.askSlice_gap {f : SliceState → SliceState} (keeps : ∀ x, (f x).gap = x.gap) (k j : SliceId) :
    ((c.askSlice f k).slice j).gap = (c.slice j).gap := by
  unfold Chip.askSlice
  split
  · by_cases same : j = k
    · rw [same, Chip.slice_setSlice, keeps]
    · rw [Chip.slice_setSlice_ne _ _ _ same]
  · rfl

theorem Chip.each_askSlice_gap {f : SliceState → SliceState} (keeps : ∀ x, (f x).gap = x.gap) (l : List SliceId) (j : SliceId) :
    ((c.each l (Chip.askSlice f)).slice j).gap = (c.slice j).gap :=
  Chip.each_keeps (P := fun d => (d.slice j).gap = (c.slice j).gap) l rfl fun d hd k _ => (d.askSlice_gap keeps k j).trans hd

/-- Which slices close together hangs on the gaps alone. -/
theorem Chip.closing_of_gaps {b c : Chip} (gaps : ∀ j, (c.slice j).gap = (b.slice j).gap) (k : SliceId) :
    c.closing k = b.closing k := by
  unfold Chip.closing
  simp only [gaps]

/-- Closes by cue, one after the other, are requests of all the slices that close with them. -/
theorem Chip.each_askCue (l : List SliceId) : c.each l Chip.askCue = c.each (l.flatMap c.closing) (Chip.askSlice cueAsked) := by
  induction l generalizing c with
  | nil => rfl
  | cons k l ih =>
    have step : c.each (k :: l) Chip.askCue = (c.askCue k).each l Chip.askCue := rfl
    have gaps (j : SliceId) : ((c.askCue k).slice j).gap = (c.slice j).gap := c.each_askSlice_gap (f := cueAsked) (fun _ => rfl) _ j
    have closing : (c.askCue k).closing = c.closing := funext (Chip.closing_of_gaps gaps)
    rw [step, ih, closing, List.flatMap_cons, Chip.askCue_eq]
    simp [Chip.each, List.foldl_append]

/-- A slice of the C-die closes alone. -/
theorem Chip.closing_of_cdie {k : SliceId} (home : dieOfSlice k = 4) : c.closing k = [k] := by
  have none : phaseAxis k = none := by
    have h : (dieOfSlice k).val = 4 := congrArg Fin.val home
    exact dif_neg fun lower => by simp only [dieOfSlice] at h; omega
  have alone : closesWith k = [k] := by unfold closesWith; rw [none]
  unfold Chip.closing
  rw [alone, ite_self]

/-! ### WIN_CLOSE (R39, R100) -/

theorem Chip.winClose_slice (k : SliceId) : (c.winClose k).slice k =
    if dieOfSlice k = 4 then (if (c.slice k).running then cueAsked (c.slice k) else c.slice k) else { c.slice k with frameDue := true } := by
  unfold Chip.winClose
  split
  next home =>
    rw [Chip.askCue_eq, c.closing_of_cdie home]
    exact (Requested.each (f := cueAsked) c [k] (fun _ => rfl) fun _ => rfl).1 k List.mem_cons_self
  next => exact Chip.slice_setSlice ..

theorem Chip.winClose_ne (k : SliceId) {j : SliceId} (h : j ≠ k) : (c.winClose k).slice j = c.slice j := by
  unfold Chip.winClose
  split
  next home =>
    rw [Chip.askCue_eq, c.closing_of_cdie home]
    exact (Requested.each (f := cueAsked) c [k] (fun _ => rfl) fun _ => rfl).2 j (by simpa using h)
  next => exact Chip.slice_setSlice_ne _ _ _ h

theorem Only.askCue (k : SliceId) : Only [.slices] c (c.askCue k) := by
  rw [Chip.askCue_eq]
  exact .each_askSlice ..

theorem Only.winClose (k : SliceId) : Only [.slices] c (c.winClose k) := Only.ite (.askCue ..) (.setSlice ..)

/-- Operations each on a slice of its own, in a row. -/
theorem Chip.each_own {f : Chip → SliceId → Chip} (own : ∀ d k j, j ≠ k → (f d k).slice j = d.slice j) {xs : List SliceId}
    (once : xs.Nodup) {k : SliceId} (hk : k ∈ xs) : ∃ d, d.slice k = c.slice k ∧ (c.each xs f).slice k = (f d k).slice k := by
  obtain ⟨before, after, out, beyond, -, -, split⟩ := c.each_split f once hk
  have kept (e : Chip) (l : List SliceId) (hl : k ∉ l) : (e.each l f).slice k = e.slice k :=
    Chip.each_keeps (P := fun d => d.slice k = e.slice k) l rfl fun d hd j hj => (own d j k fun eq => hl (eq ▸ hj)).trans hd
  exact ⟨c.each before f, kept c before out, by rw [split, kept _ after beyond]⟩

theorem Chip.each_own_out {f : Chip → SliceId → Chip} (own : ∀ d k j, j ≠ k → (f d k).slice j = d.slice j) {xs : List SliceId}
    {k : SliceId} (hk : k ∉ xs) : (c.each xs f).slice k = c.slice k :=
  Chip.each_keeps (P := fun d => d.slice k = c.slice k) xs rfl fun d hd j hj => (own d j k fun eq => hk (eq ▸ hj)).trans hd

theorem slicesOfAxis_nodup : ∀ a, (slicesOfAxis a).Nodup := by decide

theorem winTargets_nodup (arg : Nat) : (winTargets arg).Nodup := by
  unfold winTargets
  split
  · exact List.nodup_singleton _
  · exact slicesOfAxis_nodup _

/-- What the closes of a firing do to a slice that it names. -/
theorem Chip.winFire_slice (f : Fire) {j : SliceId} (hj : j ∈ winTargets (cueArg f.cue)) : (c.winFire f).slice j =
    if dieOfSlice j = 4 then (if (c.slice j).running then cueAsked (c.slice j) else c.slice j) else { c.slice j with frameDue := true } := by
  obtain ⟨d, same, last⟩ := c.each_own (f := Chip.winClose) (fun d k j h => d.winClose_ne k h) (winTargets_nodup (cueArg f.cue)) hj
  rw [Chip.winFire, last, Chip.winClose_slice, same]

theorem Only.winFire (f : Fire) : Only [.slices] c (c.winFire f) := .each c _ fun d k _ => .winClose d k

theorem Chip.winAble_endFire (f g : Fire) : (c.endFire g).winAble (cueArg f.cue) = c.winAble (cueArg f.cue) := rfl

/-! ### The resolvers' half-cycles (R121, R122) -/

/-- The excitation passes the boundary. -/
def Chip.excPassed : Chip :=
  let pos := c.excPlace == 0
  let c := if pos then c.addWrap RSV_CYC_CYCLES 1 else c
  { c with excPos := pos, excTick := some c.now }

theorem Chip.excHalf_eq (due : c.excDue = true) : c.excHalf =
    c.excPassed.each (allSlices.filter fun k => (rsvOfSlice k).isSome) (Chip.askSlice fun x => { x with reqSched := true }) := by
  unfold Chip.excHalf
  rw [due]
  rfl

theorem Chip.addWrap_get {f : Field} (ok : f.ok) (n : Nat) : (c.addWrap f n).get f = (c.get f + n) % (f.top + 1) := by
  have width : 0 < 2 ^ (f.hi + 1 - f.lo) := Nat.two_pow_pos _
  have top : f.top + 1 = 2 ^ (f.hi + 1 - f.lo) := by unfold Field.top; omega
  have wrapped : wrapTo (f.hi + 1 - f.lo) ((c.get f : Int) + n) = (c.get f + n) % 2 ^ (f.hi + 1 - f.lo) := by
    unfold wrapTo
    exact_mod_cast Int.toNat_natCast _
  unfold Chip.addWrap Chip.puts
  rw [Chip.get_put _ _ ok, wrapped, Nat.mod_mod, top]

theorem Chip.excPassed_cycles : c.excPassed.get RSV_CYC_CYCLES =
    (c.get RSV_CYC_CYCLES + (if c.excPlace = 0 then 1 else 0)) % (RSV_CYC_CYCLES.top + 1) := by
  have small := c.get_lt RSV_CYC_CYCLES
  by_cases first : c.excPlace = 0
  · have passed : c.excPassed.get RSV_CYC_CYCLES = (c.addWrap RSV_CYC_CYCLES 1).get RSV_CYC_CYCLES := by
      unfold Chip.excPassed
      rw [first]
      rfl
    rw [passed, if_pos first]
    exact c.addWrap_get (Field.ok_of _ rfl) 1
  · have passed : c.excPassed.get RSV_CYC_CYCLES = c.get RSV_CYC_CYCLES := by
      unfold Chip.excPassed
      dsimp only
      rw [if_neg (by simpa using first)]
      rfl
    rw [passed, if_neg first]
    exact (Nat.mod_eq_of_lt small).symm

theorem Chip.excPassed_frame : FieldsBut [RSV_CYC_CYCLES] c c.excPassed ∧ Only [.regs, .excPos, .excTick] c c.excPassed ∧
    c.excPassed.excPos = (c.excPlace == 0) ∧ c.excPassed.excTick = some c.now := by
  have cycles : FieldsBut [RSV_CYC_CYCLES] c (c.addWrap RSV_CYC_CYCLES 1) :=
    (FieldsBut.refl _ c).addWrap _ 1 (Field.ok_of _ rfl) List.mem_cons_self
  unfold Chip.excPassed
  dsimp only
  split
  · exact ⟨cycles.of_regs rfl, .of_mix rfl, rfl, rfl⟩
  · exact ⟨(FieldsBut.refl _ c).of_regs rfl, .of_mix rfl, rfl, rfl⟩

end

/-! ### A report at the C-die (R102 to R107) -/

/-- The registers of a slice in which its reports stand. -/
def reportRegs (k : SliceId) : List Nat :=
  [SL_RES k.val, SL_RLEN k.val, SL_LEDGER k.val, SL_LEDGERH k.val, SL_EXCESS k.val, SL_CLAMP k.val, SL_STAT k.val, SL_GAP k.val]

/-- No two registers of a slice share an address. -/
theorem reportRegs_nodup (k : SliceId) : (reportRegs k).Nodup := by
  simp only [reportRegs, SL_RES, SL_RLEN, SL_LEDGER, SL_LEDGERH, SL_EXCESS, SL_CLAMP, SL_STAT, SL_GAP, List.nodup_cons, List.mem_cons,
    List.not_mem_nil, or_false, List.nodup_nil, not_or, not_false_eq_true, and_true]
  omega

/-- The fields of SL_RES for a result. -/
def resFields (k : SliceId) (r : Result) (cause : Nat) : List (Field × Nat) :=
  [(SL_RES_OVR k.val, r.ovr.toNat), (SL_RES_SETL k.val, r.setl.toNat), (SL_RES_SUB k.val, r.sub.toNat),
   (SL_RES_CHK k.val, r.chk.toNat), (SL_RES_CLS k.val, cause), (SL_RES_COUNT k.val, wrapTo 24 r.count)]

section
variable (c : Chip) (k : SliceId)

/-- SL_RES holds the result. -/
def Chip.resShown (r : Result) (cause : Nat) : Chip := c.setReg (SL_RES k.val) (packFields (resFields k r cause))

theorem Chip.putResult_eq (r : Result) (cause : Nat) :
    c.putResult k r cause = ((c.resShown k r cause).put (SL_RLEN_LEN k.val) r.clocks).addWrap (SL_RLEN_SEQ k.val) 1 := rfl

theorem SL_RES_ne_SL_RLEN : SL_RES k.val ≠ SL_RLEN k.val := by simp only [SL_RES, SL_RLEN]; omega

theorem Chip.putResult_frame (r : Result) (cause : Nat) :
    RegsBut [SL_RES k.val, SL_RLEN k.val] c (c.putResult k r cause) ∧ Only [.regs] c (c.putResult k r cause) := by
  rw [Chip.putResult_eq]
  refine ⟨?_, (((Only.setReg ..).trans (.put ..)).trans (.addWrap ..))⟩
  exact (((RegsBut.refl _ c).setReg _ _ List.mem_cons_self).put (SL_RLEN_LEN k.val) _ (by simp [SL_RLEN_LEN])).put (SL_RLEN_SEQ k.val) _
    (by simp [SL_RLEN_SEQ])

/-- A field of SL_RES shows its value. -/
theorem Chip.putResult_res (r : Result) (cause : Nat) {f : Field} {v : Nat} (hf : f.addr = SL_RES k.val)
    (hm : (f, v) ∈ resFields k r cause) : (c.putResult k r cause).get f = v % 2 ^ (f.hi + 1 - f.lo) := by
  have other : f.addr ≠ SL_RLEN k.val := hf ▸ SL_RES_ne_SL_RLEN k
  have packed : (c.resShown k r cause).get f = f.read (packFields (resFields k r cause)) := by
    unfold Chip.resShown Chip.get
    rw [hf, Chip.reg_setReg]
  rw [Chip.putResult_eq]
  exact (Chip.get_put_ne _ _ _ _ other).trans ((Chip.get_put_ne _ _ _ _ other).trans (packed.trans (Field.read_packFields_mod rfl hm)))

theorem Chip.putResult_flag (r : Result) (cause : Nat) {f : Field} {b : Bool} (hf : f.addr = SL_RES k.val) (bit : f.hi = f.lo)
    (hm : (f, b.toNat) ∈ resFields k r cause) : (c.putResult k r cause).flag f = b := by
  unfold Chip.flag
  rw [c.putResult_res k r cause hf hm, bit, Nat.add_sub_cancel_left]
  cases b <;> rfl

theorem Chip.putResult_count (r : Result) (cause : Nat) : (c.putResult k r cause).get (SL_RES_COUNT k.val) = wrapTo 24 r.count := by
  have shown := c.putResult_res k r cause (f := SL_RES_COUNT k.val) rfl (v := wrapTo 24 r.count) (by simp [resFields])
  have small : wrapTo 24 r.count < 2 ^ 24 := wrapTo_lt 24 r.count
  rw [shown]
  generalize wrapTo 24 r.count = v at small
  exact Nat.mod_eq_of_lt small

theorem Chip.get_put_top (f : Field) (ok : f.ok) (v : Nat) : (c.put f v).get f = v % (f.top + 1) := by
  have width : 0 < 2 ^ (f.hi + 1 - f.lo) := Nat.two_pow_pos _
  have top : f.top + 1 = 2 ^ (f.hi + 1 - f.lo) := by unfold Field.top; omega
  rw [Chip.get_put _ _ ok, top]

/-- SL_RLEN shows the clocks and the next number. -/
theorem Chip.putResult_len (r : Result) (cause : Nat) :
    (c.putResult k r cause).get (SL_RLEN_LEN k.val) = r.clocks % ((SL_RLEN_LEN k.val).top + 1) ∧
    (c.putResult k r cause).get (SL_RLEN_SEQ k.val) = (c.get (SL_RLEN_SEQ k.val) + 1) % ((SL_RLEN_SEQ k.val).top + 1) := by
  have shown : (c.resShown k r cause).get (SL_RLEN_SEQ k.val) = c.get (SL_RLEN_SEQ k.val) :=
    Chip.get_setReg_ne _ _ _ (SL_RES_ne_SL_RLEN k).symm
  have seq : ((c.resShown k r cause).put (SL_RLEN_LEN k.val) r.clocks).get (SL_RLEN_SEQ k.val) = c.get (SL_RLEN_SEQ k.val) :=
    (Chip.get_put_beside _ _ _ _ rfl).trans shown
  rw [Chip.putResult_eq]
  refine ⟨(Chip.get_put_beside _ _ _ _ rfl).trans (Chip.get_put_top _ (SL_RLEN_LEN k.val) (Field.ok_of _ rfl) _), ?_⟩
  have next := ((c.resShown k r cause).put (SL_RLEN_LEN k.val) r.clocks).addWrap_get (f := SL_RLEN_SEQ k.val) (Field.ok_of _ rfl) 1
  rwa [seq] at next

/-- The ledger takes the count modulo 2^48 (R107). -/
theorem Chip.bookLedger_shows (n : Int) : (c.bookLedger k n).ledger k = wrapTo 48 ((c.ledger k : Int) + n) := by
  have small := wrapTo_lt 48 ((c.ledger k : Int) + n)
  generalize hv : wrapTo 48 ((c.ledger k : Int) + n) = v at small
  have apart : SL_LEDGER k.val ≠ SL_LEDGERH k.val := by simp only [SL_LEDGER, SL_LEDGERH]; omega
  have low : (c.bookLedger k n).get (SL_LEDGER_LEDGER_LO k.val) = v % 2 ^ 32 := by
    unfold Chip.bookLedger
    rw [hv]
    exact (Chip.get_put_ne _ _ _ _ apart).trans (Chip.get_put c (SL_LEDGER_LEDGER_LO k.val) (Field.ok_of _ rfl) v)
  have high : (c.bookLedger k n).get (SL_LEDGERH_LEDGER_HI k.val) = v / 2 ^ 32 := by
    unfold Chip.bookLedger
    rw [hv]
    have fits : v / 2 ^ 32 < 2 ^ 16 := by omega
    exact Chip.get_put_lt _ (SL_LEDGERH_LEDGER_HI k.val) (Field.ok_of _ rfl) _ fits
  unfold Chip.ledger at low high ⊢
  rw [low, high]
  omega

theorem Chip.bookLedger_frame (n : Int) :
    RegsBut [SL_LEDGER k.val, SL_LEDGERH k.val] c (c.bookLedger k n) ∧ Only [.regs] c (c.bookLedger k n) :=
  ⟨((RegsBut.refl _ c).put (SL_LEDGER_LEDGER_LO k.val) _ List.mem_cons_self).put (SL_LEDGERH_LEDGER_HI k.val) _ (by simp [SL_LEDGERH_LEDGER_HI]),
    (Only.put ..).trans (.put ..)⟩

theorem Chip.bookClamp_unclamped (r : Report) (none : r.clampEntries = 0) :
    c.bookClamp k r = c.bump (SL_CLAMP_CLOCKS k.val) r.clampClocks := if_pos none

theorem Chip.bookClamp_clamped (r : Report) (some : r.clampEntries ≠ 0) : c.bookClamp k r =
    ((c.bump (SL_CLAMP_CLOCKS k.val) r.clampClocks).mark (SL_STAT_CLAMP k.val)).report (srcSlice k) r.clampEntries 0 0 false :=
  if_neg some

theorem SL_STAT_not_mem : SL_STAT k.val ∉ [SL_CLAMP k.val] := by
  simp only [SL_STAT, SL_CLAMP, List.mem_singleton]
  omega

theorem SL_CLAMP_not_mem : SL_CLAMP k.val ∉ [SL_STAT k.val] := by
  simp only [SL_STAT, SL_CLAMP, List.mem_singleton]
  omega

/-- The entries of a window that was clamped set CLAMP and are one event (R106). -/
theorem Chip.clampTold (n : Nat) (some : n ≠ 0) :
    ((c.mark (SL_STAT_CLAMP k.val)).report (srcSlice k) n 0 0 false).get (SL_CLAMP_CLOCKS k.val) = c.get (SL_CLAMP_CLOCKS k.val) ∧
    ((c.mark (SL_STAT_CLAMP k.val)).report (srcSlice k) n 0 0 false).get (SL_STAT_CLAMP k.val) = 1 ∧
    Appends c ((c.mark (SL_STAT_CLAMP k.val)).report (srcSlice k) n 0 0 false) ∧
    ⟨srcSlice k, n, 0, 0, false⟩ ∈ ((c.mark (SL_STAT_CLAMP k.val)).report (srcSlice k) n 0 0 false).faults.events := by
  have only := Only.report (c.mark (SL_STAT_CLAMP k.val)) (srcSlice k) n 0 0 false
  have kept : (c.mark (SL_STAT_CLAMP k.val)).get (SL_CLAMP_CLOCKS k.val) = c.get (SL_CLAMP_CLOCKS k.val) :=
    ((RegsBut.refl [SL_STAT k.val] c).mark (SL_STAT_CLAMP k.val) List.mem_cons_self).get (SL_CLAMP_not_mem k)
  have set : (c.mark (SL_STAT_CLAMP k.val)).get (SL_STAT_CLAMP k.val) = 1 := by
    rw [Chip.mark, Chip.noteFresh_get]
    exact Chip.get_put_fit _ _ _ rfl
  have told : ((c.mark (SL_STAT_CLAMP k.val)).report (srcSlice k) n 0 0 false).faults.events =
      (c.mark (SL_STAT_CLAMP k.val)).faults.events ++ [⟨srcSlice k, n, 0, 0, false⟩] := by rw [Chip.report, if_neg some]
  exact ⟨(only.get _).trans kept, (only.get _).trans set, (Only.mark ..).appends.trans (.report ..), by rw [told]; simp⟩

/-- Clamp clocks and entries of a window (R106). -/
theorem Chip.bookClamp_shows (r : Report) :
    (c.bookClamp k r).get (SL_CLAMP_CLOCKS k.val) = min (c.get (SL_CLAMP_CLOCKS k.val) + r.clampClocks) (SL_CLAMP_CLOCKS k.val).top ∧
    (c.bookClamp k r).flag (SL_STAT_CLAMP k.val) = (c.flag (SL_STAT_CLAMP k.val) || r.clampEntries != 0) ∧
    Appends c (c.bookClamp k r) ∧
    (r.clampEntries ≠ 0 → ⟨srcSlice k, r.clampEntries, 0, 0, false⟩ ∈ (c.bookClamp k r).faults.events) := by
  have clocks := c.get_bump (SL_CLAMP_CLOCKS k.val) (Field.ok_of _ rfl) r.clampClocks
  have stat : (c.bump (SL_CLAMP_CLOCKS k.val) r.clampClocks).get (SL_STAT_CLAMP k.val) = c.get (SL_STAT_CLAMP k.val) :=
    ((RegsBut.refl [SL_CLAMP k.val] c).bump (SL_CLAMP_CLOCKS k.val) r.clampClocks List.mem_cons_self).get (SL_STAT_not_mem k)
  have bumped : Appends c (c.bump (SL_CLAMP_CLOCKS k.val) r.clampClocks) := (Only.bump ..).appends
  by_cases some : r.clampEntries = 0
  · rw [c.bookClamp_unclamped k r some, some, Chip.flag, stat]
    exact ⟨clocks, (Bool.or_false _).symm, bumped, fun h => absurd rfl h⟩
  · obtain ⟨kept, set, appends, told⟩ := (c.bump (SL_CLAMP_CLOCKS k.val) r.clampClocks).clampTold k r.clampEntries some
    rw [c.bookClamp_clamped k r some, bne_iff_ne.mpr some, Bool.or_true]
    exact ⟨kept.trans clocks, congrArg (· != 0) set, bumped.trans appends, fun _ => told⟩

theorem Chip.bookClamp_frame (r : Report) :
    RegsBut [SL_CLAMP k.val, SL_STAT k.val] c (c.bookClamp k r) ∧ Only [.regs, .fresh, .faults] c (c.bookClamp k r) := by
  have bumped : RegsBut [SL_CLAMP k.val, SL_STAT k.val] c (c.bump (SL_CLAMP_CLOCKS k.val) r.clampClocks) :=
    (RegsBut.refl _ c).bump (SL_CLAMP_CLOCKS k.val) _ List.mem_cons_self
  have only : Only [.regs, .fresh, .faults] c (c.bump (SL_CLAMP_CLOCKS k.val) r.clampClocks) := (Only.bump ..).mono
  have marked := bumped.mark (SL_STAT_CLAMP k.val) (by simp [SL_STAT_CLAMP])
  have told := Only.report ((c.bump (SL_CLAMP_CLOCKS k.val) r.clampClocks).mark (SL_STAT_CLAMP k.val)) (srcSlice k) r.clampEntries 0 0 false
  exact ⟨RegsBut.ite bumped (marked.of_regs (told.same .regs (by decide))), .ite only ((only.then (.mark ..)).then told)⟩

/-- The clocks of a gap (R118). -/
def Chip.bookGap (r : Report) : Chip := if r.gapClocks = 0 then c else c.bump (SL_GAP_CLOCKS k.val) r.gapClocks

theorem Chip.bookGap_frame (r : Report) : RegsBut [SL_GAP k.val] c (c.bookGap k r) ∧ Only [.regs, .fresh] c (c.bookGap k r) :=
  ⟨RegsBut.ite (RegsBut.refl _ c) ((RegsBut.refl _ c).bump (SL_GAP_CLOCKS k.val) _ List.mem_cons_self),
    .ite (.refl _ c) (.bump ..)⟩

theorem Chip.bookGap_shows (r : Report) :
    (c.bookGap k r).get (SL_GAP_CLOCKS k.val) = min (c.get (SL_GAP_CLOCKS k.val) + r.gapClocks) (SL_GAP_CLOCKS k.val).top := by
  have small := c.get_lt (SL_GAP_CLOCKS k.val)
  have bumped := c.get_bump (SL_GAP_CLOCKS k.val) (Field.ok_of _ rfl) r.gapClocks
  unfold Chip.bookGap
  split
  next none =>
    rw [none, Nat.add_zero]
    unfold Field.top
    exact (Nat.min_eq_left (Nat.le_sub_one_of_lt small)).symm
  next some => exact bumped

theorem Chip.putExcess_shows (n : Int) : (c.puts (SL_EXCESS_EXCESS k.val) n).get (SL_EXCESS_EXCESS k.val) =
    wrapTo ((SL_EXCESS_EXCESS k.val).hi + 1 - (SL_EXCESS_EXCESS k.val).lo) n := by
  have small := wrapTo_lt ((SL_EXCESS_EXCESS k.val).hi + 1 - (SL_EXCESS_EXCESS k.val).lo) n
  unfold Chip.puts
  exact Chip.get_put_lt c (SL_EXCESS_EXCESS k.val) (Field.ok_of _ rfl) _ small

end

theorem RegsBut.mono {l m : List Nat} {b c : Chip} (h : RegsBut l b c) (hl : l ⊆ m) : RegsBut m b c :=
  fun x hx => h x fun hm => hx (hl hm)

section
variable (c : Chip) (k : SliceId) (r : Report)

/-- The count, its ledger and its excess, as a report brings them. -/
def Chip.countBooked : Chip := ((c.putResult k r.res r.cause).bookLedger k r.res.count).puts (SL_EXCESS_EXCESS k.val) r.excess

/-- A report stands in the registers. -/
def Chip.reportBooked : Chip := ((c.countBooked k r).bookClamp k r).bookGap k r

theorem Chip.takeReport_eq : c.takeReport k r = (c.reportBooked k r).setSlice k { (c.reportBooked k r).slice k with
    cur := if r.sched || r.stop then {} else (c.slice k).cur.join r.res
    last := if r.sched then (c.slice k).cur.join r.res else (c.slice k).last
    fresh := (c.slice k).fresh || r.sched } := rfl

/-- The registers that a result, its ledger and its excess take. -/
def countRegs (k : SliceId) : List Nat := [SL_RES k.val, SL_RLEN k.val, SL_LEDGER k.val, SL_LEDGERH k.val, SL_EXCESS k.val]

theorem Chip.countBooked_frame : RegsBut (countRegs k) c (c.countBooked k r) ∧ Only [.regs] c (c.countBooked k r) := by
  obtain ⟨put, only⟩ := c.putResult_frame k r.res r.cause
  obtain ⟨booked, onlyToo⟩ := (c.putResult k r.res r.cause).bookLedger_frame k r.res.count
  have both : RegsBut (countRegs k) c ((c.putResult k r.res r.cause).bookLedger k r.res.count) :=
    (put.mono (by simp [countRegs])).trans (booked.mono (by simp [countRegs]))
  exact ⟨both.put (SL_EXCESS_EXCESS k.val) _ (by simp [countRegs, SL_EXCESS_EXCESS]), (only.trans onlyToo).trans (.puts ..)⟩

/-- What a report shows of its count. -/
theorem Chip.countBooked_shows : (c.countBooked k r).get (SL_RES_COUNT k.val) = wrapTo 24 r.res.count ∧
    (c.countBooked k r).get (SL_RES_CLS k.val) = r.cause % 4 ∧
    (c.countBooked k r).flag (SL_RES_OVR k.val) = r.res.ovr ∧ (c.countBooked k r).flag (SL_RES_SETL k.val) = r.res.setl ∧
    (c.countBooked k r).flag (SL_RES_SUB k.val) = r.res.sub ∧ (c.countBooked k r).flag (SL_RES_CHK k.val) = r.res.chk ∧
    (c.countBooked k r).get (SL_RLEN_LEN k.val) = r.res.clocks % ((SL_RLEN_LEN k.val).top + 1) ∧
    (c.countBooked k r).get (SL_RLEN_SEQ k.val) = (c.get (SL_RLEN_SEQ k.val) + 1) % ((SL_RLEN_SEQ k.val).top + 1) ∧
    (c.countBooked k r).ledger k = wrapTo 48 ((c.ledger k : Int) + r.res.count) ∧
    (c.countBooked k r).get (SL_EXCESS_EXCESS k.val) =
      wrapTo ((SL_EXCESS_EXCESS k.val).hi + 1 - (SL_EXCESS_EXCESS k.val).lo) r.excess := by
  obtain ⟨booked, -⟩ := (c.putResult k r.res r.cause).bookLedger_frame k r.res.count
  obtain ⟨before, -⟩ := c.putResult_frame k r.res r.cause
  have excess : RegsBut [SL_EXCESS k.val] ((c.putResult k r.res r.cause).bookLedger k r.res.count) (c.countBooked k r) :=
    (RegsBut.refl _ _).put (SL_EXCESS_EXCESS k.val) _ List.mem_cons_self
  have kept {f : Field} (h : f.addr = SL_RES k.val ∨ f.addr = SL_RLEN k.val) :
      (c.countBooked k r).get f = (c.putResult k r.res r.cause).get f := by
    refine (excess.get ?_).trans (booked.get ?_) <;>
      simp only [SL_RES, SL_RLEN, SL_LEDGER, SL_LEDGERH, SL_EXCESS, List.mem_cons, List.not_mem_nil, or_false] at h ⊢ <;> omega
  have low : SL_LEDGER k.val ∉ [SL_EXCESS k.val] ∧ SL_LEDGERH k.val ∉ [SL_EXCESS k.val] := by
    simp only [SL_LEDGER, SL_LEDGERH, SL_EXCESS, List.mem_cons, List.not_mem_nil, or_false]; omega
  have first : SL_LEDGER k.val ∉ [SL_RES k.val, SL_RLEN k.val] ∧ SL_LEDGERH k.val ∉ [SL_RES k.val, SL_RLEN k.val] := by
    simp only [SL_LEDGER, SL_LEDGERH, SL_RES, SL_RLEN, List.mem_cons, List.not_mem_nil, or_false]; omega
  have ledger : (c.countBooked k r).ledger k = ((c.putResult k r.res r.cause).bookLedger k r.res.count).ledger k := by
    unfold Chip.ledger
    rw [excess.get (g := SL_LEDGER_LEDGER_LO k.val) low.1, excess.get (g := SL_LEDGERH_LEDGER_HI k.val) low.2]
  have was : (c.putResult k r.res r.cause).ledger k = c.ledger k := by
    unfold Chip.ledger
    rw [before.get (g := SL_LEDGER_LEDGER_LO k.val) first.1, before.get (g := SL_LEDGERH_LEDGER_HI k.val) first.2]
  obtain ⟨len, seq⟩ := c.putResult_len k r.res r.cause
  refine ⟨(kept (.inl rfl)).trans (c.putResult_count k r.res r.cause), (kept (.inl rfl)).trans (c.putResult_res k r.res r.cause rfl (by simp [resFields])),
    ?_, ?_, ?_, ?_, (kept (.inr rfl)).trans len, (kept (.inr rfl)).trans seq, ?_, Chip.putExcess_shows ..⟩
  · exact (congrArg (· != 0) (kept (.inl rfl))).trans (c.putResult_flag k r.res r.cause rfl rfl (by simp [resFields]))
  · exact (congrArg (· != 0) (kept (.inl rfl))).trans (c.putResult_flag k r.res r.cause rfl rfl (by simp [resFields]))
  · exact (congrArg (· != 0) (kept (.inl rfl))).trans (c.putResult_flag k r.res r.cause rfl rfl (by simp [resFields]))
  · exact (congrArg (· != 0) (kept (.inl rfl))).trans (c.putResult_flag k r.res r.cause rfl rfl (by simp [resFields]))
  · rw [ledger, Chip.bookLedger_shows, was]

theorem Chip.reportBooked_frame : RegsBut (reportRegs k) c (c.reportBooked k r) ∧ Only [.regs, .fresh, .faults] c (c.reportBooked k r) := by
  obtain ⟨count, counted⟩ := c.countBooked_frame k r
  obtain ⟨clamp, clamped⟩ := (c.countBooked k r).bookClamp_frame k r
  obtain ⟨gap, gapped⟩ := ((c.countBooked k r).bookClamp k r).bookGap_frame k r
  refine ⟨((count.mono ?_).trans (clamp.mono ?_)).trans (gap.mono ?_), ((counted.mono).then clamped).then gapped⟩ <;>
    simp [countRegs, reportRegs]

/-- What a report shows, once it stands. -/
theorem ReportShown.reportBooked : ReportShown k r c (c.reportBooked k r) := by
  obtain ⟨res, cls, ovr, setl, sub, chk, len, seq, ledger, excess⟩ := c.countBooked_shows k r
  obtain ⟨count, counted⟩ := c.countBooked_frame k r
  obtain ⟨clamp, -⟩ := (c.countBooked k r).bookClamp_frame k r
  obtain ⟨gap, gapped⟩ := ((c.countBooked k r).bookClamp k r).bookGap_frame k r
  obtain ⟨clocks, flag, appends, told⟩ := (c.countBooked k r).bookClamp_shows k r
  have after : RegsBut [SL_CLAMP k.val, SL_STAT k.val, SL_GAP k.val] (c.countBooked k r) (c.reportBooked k r) :=
    (clamp.mono (by simp)).trans (gap.mono (by simp))
  have first {f : Field} (h : f.addr ∈ countRegs k) : (c.reportBooked k r).get f = (c.countBooked k r).get f := by
    refine after.get ?_
    simp only [countRegs, SL_RES, SL_RLEN, SL_LEDGER, SL_LEDGERH, SL_EXCESS, SL_CLAMP, SL_STAT, SL_GAP, List.mem_cons, List.not_mem_nil,
      or_false] at h ⊢
    omega
  have second {f : Field} (h : f.addr = SL_CLAMP k.val ∨ f.addr = SL_STAT k.val) :
      (c.reportBooked k r).get f = ((c.countBooked k r).bookClamp k r).get f ∧ (c.countBooked k r).get f = c.get f := by
    refine ⟨gap.get ?_, count.get ?_⟩ <;>
      simp only [countRegs, SL_RES, SL_RLEN, SL_LEDGER, SL_LEDGERH, SL_EXCESS, SL_CLAMP, SL_STAT, SL_GAP, List.mem_cons, List.not_mem_nil,
        or_false] at h ⊢ <;> omega
  have third : ((c.countBooked k r).bookClamp k r).get (SL_GAP_CLOCKS k.val) = c.get (SL_GAP_CLOCKS k.val) := by
    refine (clamp.get ?_).trans (count.get ?_) <;>
      simp only [countRegs, SL_GAP_CLOCKS, SL_RES, SL_RLEN, SL_LEDGER, SL_LEDGERH, SL_EXCESS, SL_CLAMP, SL_STAT, SL_GAP, List.mem_cons,
        List.not_mem_nil, or_false] <;> omega
  have events : (c.reportBooked k r).faults.events = ((c.countBooked k r).bookClamp k r).faults.events :=
    congrArg FaultState.events (gapped.same .faults (by decide))
  have ledgers : (c.reportBooked k r).ledger k = (c.countBooked k r).ledger k := by
    unfold Chip.ledger
    rw [first (f := SL_LEDGER_LEDGER_LO k.val) (by simp [countRegs, SL_LEDGER_LEDGER_LO]),
      first (f := SL_LEDGERH_LEDGER_HI k.val) (by simp [countRegs, SL_LEDGERH_LEDGER_HI])]
  have flagged {f : Field} (h : f.addr ∈ countRegs k) : (c.reportBooked k r).flag f = (c.countBooked k r).flag f :=
    congrArg (· != 0) (first h)
  have res_mem : SL_RES k.val ∈ countRegs k := List.mem_cons_self
  have len_mem : SL_RLEN k.val ∈ countRegs k := by simp [countRegs]
  have excess_mem : SL_EXCESS k.val ∈ countRegs k := by simp [countRegs]
  obtain ⟨clamped, unclamped⟩ := second (f := SL_CLAMP_CLOCKS k.val) (.inl rfl)
  obtain ⟨shown, was⟩ := second (f := SL_STAT_CLAMP k.val) (.inr rfl)
  refine ⟨(first res_mem).trans res, (first res_mem).trans cls, (flagged res_mem).trans ovr, (flagged res_mem).trans setl,
    (flagged res_mem).trans sub, (flagged res_mem).trans chk, (first len_mem).trans len, (first len_mem).trans seq, ledgers.trans ledger,
    (first excess_mem).trans excess, ?_, ?_, ?_, ?_, ?_⟩
  · rw [clamped, clocks, unclamped]
  · exact (Chip.bookGap_shows ..).trans (by rw [third])
  · have before : (c.countBooked k r).flag (SL_STAT_CLAMP k.val) = c.flag (SL_STAT_CLAMP k.val) := congrArg (· != 0) was
    exact (congrArg (· != 0) shown).trans (flag.trans (by rw [before]))
  · rw [events]
    have counted' : (c.countBooked k r).faults = c.faults := counted.same .faults (by decide)
    exact (le_of_eq (by rw [counted'])).trans appends.length_le
  · rw [events]
    exact told

end

/-- What reads a report leaves of it, with the events so far. -/
structure ReportKept (k : SliceId) (b c : Chip) : Prop where
  regs : ∀ x, 0x0A0000 ≤ x → x < 0x0B0000 → c.reg x = b.reg x
  events : Appends b c
  reports : ∀ j, (c.slice j).reports = (b.slice j).reports
  links : c.links = b.links
  quiet : c.faults.shutdown = b.faults.shutdown

theorem reportRegs_low {k : SliceId} {x : Nat} (hx : x ∈ reportRegs k) : 0x0A0000 ≤ x ∧ x < 0x0B0000 := by
  simp only [reportRegs, SL_RES, SL_RLEN, SL_LEDGER, SL_LEDGERH, SL_EXCESS, SL_CLAMP, SL_STAT, SL_GAP, List.mem_cons, List.not_mem_nil,
    or_false] at hx
  omega

section
variable {b c d : Chip} {k : SliceId} {r : Report}

theorem ReportKept.get (h : ReportKept k b c) {f : Field} (hf : f.addr ∈ reportRegs k) : c.get f = b.get f :=
  congrArg f.read (h.regs _ (reportRegs_low hf).1 (reportRegs_low hf).2)

/-- A report that stands stays shown. -/
theorem ReportShown.kept (h : ReportShown k r b c) (kept : ReportKept k c d) : ReportShown k r b d := by
  obtain ⟨res, cls, ovr, setl, sub, chk, len, seq, ledger, excess, clamp, gap, flag, more, told⟩ := h
  have get {f : Field} (hf : f.addr ∈ reportRegs k) : d.get f = c.get f := kept.get hf
  have flagged {f : Field} (hf : f.addr ∈ reportRegs k) : d.flag f = c.flag f := congrArg (· != 0) (get hf)
  have ledgers : d.ledger k = c.ledger k := by
    unfold Chip.ledger
    rw [get (f := SL_LEDGER_LEDGER_LO k.val) (by simp [reportRegs, SL_LEDGER_LEDGER_LO]),
      get (f := SL_LEDGERH_LEDGER_HI k.val) (by simp [reportRegs, SL_LEDGERH_LEDGER_HI])]
  have res_mem : SL_RES k.val ∈ reportRegs k := List.mem_cons_self
  have len_mem : SL_RLEN k.val ∈ reportRegs k := by simp [reportRegs]
  have excess_mem : SL_EXCESS k.val ∈ reportRegs k := by simp [reportRegs]
  have clamp_mem : SL_CLAMP k.val ∈ reportRegs k := by simp [reportRegs]
  have stat_mem : SL_STAT k.val ∈ reportRegs k := by simp [reportRegs]
  have gap_mem : SL_GAP k.val ∈ reportRegs k := by simp [reportRegs]
  exact ⟨(get res_mem).trans res, (get res_mem).trans cls, (flagged res_mem).trans ovr, (flagged res_mem).trans setl,
    (flagged res_mem).trans sub, (flagged res_mem).trans chk, (get len_mem).trans len, (get len_mem).trans seq, ledgers.trans ledger,
    (get excess_mem).trans excess, (get clamp_mem).trans clamp, (get gap_mem).trans gap, (flagged stat_mem).trans flag,
    more.trans kept.events.length_le, fun clamped => kept.events.subset (told clamped)⟩

/-- A report is shown against the registers and the events before it. -/
theorem ReportShown.since (h : ReportShown k r b c) {a : Chip} (regs : b.regs = a.regs) (faults : b.faults = a.faults) :
    ReportShown k r a c := by
  have get (f : Field) : b.get f = a.get f := Chip.get_of_regs regs f
  have ledger : b.ledger k = a.ledger k := by unfold Chip.ledger; rw [get, get]
  unfold ReportShown Chip.flag at h ⊢
  rwa [ledger, get, get, get, get, faults] at h

theorem ReportKept.refl : ReportKept k c c := ⟨fun _ _ _ => rfl, .refl c, fun _ => rfl, rfl, rfl⟩

theorem ReportKept.trans (h : ReportKept k b c) (g : ReportKept k c d) : ReportKept k b d :=
  ⟨fun x low high => (g.regs x low high).trans (h.regs x low high), h.events.trans g.events,
    fun j => (g.reports j).trans (h.reports j), g.links.trans h.links, g.quiet.trans h.quiet⟩

theorem ReportKept.ite {p : Prop} [Decidable p] (h : ReportKept k b c) (g : ReportKept k b d) : ReportKept k b (if p then c else d) := by
  split
  · exact h
  · exact g

/-- What changes no register, event, slice or link. -/
theorem ReportKept.of_only {l : List Part} (h : Only l b c)
    (out : Part.regs ∉ l ∧ Part.faults ∉ l ∧ Part.slices ∉ l ∧ Part.links ∉ l := by decide) : ReportKept k b c :=
  ⟨fun x _ _ => h.reg x out.1, h.appends out.2.1, fun j => congrArg SliceState.reports (h.slice j out.2.2.1), h.same .links out.2.2.2,
    congrArg FaultState.shutdown (h.same .faults out.2.1)⟩

theorem Chip.report_shutdown (c : Chip) (src n code : Nat) (m : BitVec 8) (inj : Bool) :
    (c.report src n code m inj).faults.shutdown = c.faults.shutdown := by
  unfold Chip.report
  split <;> rfl

theorem Only.quiet {l : List Part} (h : Only l b c) (out : Part.faults ∉ l := by decide) : c.faults.shutdown = b.faults.shutdown :=
  congrArg FaultState.shutdown (h.same .faults out)

/-- What sets registers outside the block, and may report events. -/
theorem ReportKept.of_regs {l : List Nat} (h : RegsBut l b c) (low : ∀ x ∈ l, x < 0x0A0000 ∨ 0x0B0000 ≤ x) (events : Appends b c)
    (slices : c.slices = b.slices) (links : c.links = b.links) (quiet : c.faults.shutdown = b.faults.shutdown) : ReportKept k b c := by
  refine ⟨fun x hl hh => h x fun hx => ?_, events, fun j => ?_, links, quiet⟩
  · obtain lower | upper := low x hx <;> omega
  · exact congrArg (fun v : Vector SliceState 41 => v[j].reports) slices

end

/-! ### What reads a report (R103, R120, R227, R243, R246) -/

section
variable (c : Chip) (k : SliceId) (rep : Report)

/-- The Kirchhoff judgement of an axis, and the charges of its position detection. -/
structure KirchStage (a : Axis) (k : SliceId) (b c : Chip) : Prop where
  regs : RegsBut [AX_KIRCHS a.val] b c
  others : OneAxis a b c
  only : Only [.regs, .fresh, .slices, .axes, .faults] b c
  kept : ReportKept k b c

theorem KirchStage.refl (a : Axis) : KirchStage a k c c := ⟨.refl _ c, .refl a c, .refl _ c, .refl⟩

variable {c k}

theorem KirchStage.trans {a : Axis} {b d : Chip} (h : KirchStage a k b c) (g : KirchStage a k c d) : KirchStage a k b d :=
  ⟨h.regs.trans g.regs, h.others.trans g.others, h.only.trans g.only, h.kept.trans g.kept⟩

theorem KirchStage.ite {a : Axis} {b d : Chip} {p : Prop} [Decidable p] (h : KirchStage a k b c) (g : KirchStage a k b d) :
    KirchStage a k b (if p then c else d) := by
  split
  · exact h
  · exact g

theorem KirchStage.setAxis (c : Chip) (a : Axis) (x : AxisState) : KirchStage a k c (c.setAxis a x) :=
  ⟨(RegsBut.refl _ c).of_regs (Chip.setAxis_regs ..), (OneAxis.refl a c).setAxis x, (Only.setAxis ..).mono, .of_only (Only.setAxis ..)⟩

theorem AX_KIRCHS_high (a : Axis) : ∀ x ∈ [AX_KIRCHS a.val], x < 0x0A0000 ∨ 0x0B0000 ≤ x := by
  intro x hx
  rw [List.mem_singleton] at hx
  subst hx
  left
  simp only [AX_KIRCHS]
  omega

theorem KirchStage.bump (c : Chip) (a : Axis) : KirchStage a k c (c.bump (AX_KIRCHS_FAILS a.val) 1) := by
  have regs := (RegsBut.refl [AX_KIRCHS a.val] c).bump (AX_KIRCHS_FAILS a.val) 1 List.mem_cons_self
  have only := Only.bump c (AX_KIRCHS_FAILS a.val) 1
  exact ⟨regs, only.oneAxis a, only.mono, .of_regs regs (AX_KIRCHS_high a) only.appends (only.same .slices (by decide)) (only.same .links (by decide)) only.quiet⟩

theorem KirchStage.raise (c : Chip) (a : Axis) (src : Nat) : KirchStage a k c (c.raise src) := by
  have only := Only.raise c src
  have regs : RegsBut [AX_KIRCHS a.val] c (c.raise src) := (RegsBut.refl _ c).of_regs (only.same .regs (by decide))
  exact ⟨regs, only.oneAxis a, only.mono, .of_regs regs (AX_KIRCHS_high a) (.raise c src) (only.same .slices (by decide)) (only.same .links (by decide))
    (Chip.report_shutdown ..)⟩

theorem KirchStage.kirchhoff (c : Chip) (a : Axis) : KirchStage a k c (c.kirchhoff a) := by
  have counted := KirchStage.bump (k := k) c a
  have judged (x y : AxisState) (p : Prop) [Decidable p] : KirchStage a k (c.bump (AX_KIRCHS_FAILS a.val) 1)
      (if p then ((c.bump (AX_KIRCHS_FAILS a.val) 1).setAxis a x).raise (srcAxis a 0) else (c.bump (AX_KIRCHS_FAILS a.val) 1).setAxis a y) :=
    .ite ((KirchStage.setAxis _ a x).trans (.raise ..)) (.setAxis ..)
  unfold Chip.kirchhoff
  dsimp only
  split
  · exact .setAxis ..
  · exact counted.trans (judged ..)

/-- The intervals of an axis are taken. -/
theorem KirchStage.taken (c : Chip) (a : Axis) :
    KirchStage a k c (c.each (slicesOfAxis a) (Chip.touch fun x => { x with fresh := false })) := by
  have touched := c.each_touch (slicesOfAxis a) (g := fun x => { x with fresh := false }) fun _ => rfl
  have only := Only.each_touch (fun x => { x with fresh := false }) c (slicesOfAxis a)
  refine ⟨(RegsBut.refl _ c).of_regs (only.same .regs (by decide)), only.oneAxis a, only.mono, fun x _ _ => only.reg x, only.appends,
    fun j => ?_, only.same .links (by decide), only.quiet⟩
  rw [touched]
  split <;> rfl

theorem KirchStage.kirchCheck (c : Chip) {a : Axis} (phase : phaseAxis k = some a) : KirchStage a k c (c.kirchCheck k) := by
  unfold Chip.kirchCheck
  rw [phase]
  exact .ite ((KirchStage.taken c a).trans (.kirchhoff _ a)) (.refl c k a)

theorem KirchStage.ipdTake (c : Chip) (rep : Report) {a : Axis} (phase : phaseAxis k = some a) : KirchStage a k c (c.ipdTake k rep) := by
  unfold Chip.ipdTake
  rw [phase]
  exact .ite (.refl c k a) (.setAxis ..)

/-! ### The bus -/

theorem RegsBut.put64 {l : List Nat} {b c : Chip} (h : RegsBut l b c) (a : Nat) (i : Int) (first : a ∈ l) (second : a + 4 ∈ l) :
    RegsBut l b (c.put64 a i) :=
  (h.setReg a (BitVec.ofNat 32 (wrapTo 64 i)) first).setReg (a + 4) (BitVec.ofNat 32 (wrapTo 64 i / 2 ^ 32)) second

theorem Chip.addRide_regs (c : Chip) (a n : Nat) : (c.addRide a n).regs = (c.add64 a n).regs := rfl

theorem Only.setFresh (c : Chip) (x : Cells 32) : Only [.fresh] c { c with fresh := x } := .of_mix rfl

theorem ReportKept.addRide (c : Chip) (a n : Nat) (high : 0x0D0000 ≤ a) : ReportKept k c (c.addRide a n) := by
  have only : Only [.regs, .fresh] c (c.addRide a n) := ((Only.refl _ c).then (.put64 ..)).then (.setFresh ..)
  have regs : RegsBut [a, a + 4] c (c.addRide a n) :=
    ((RegsBut.refl [a, a + 4] c).put64 a _ List.mem_cons_self (by simp)).of_regs (Chip.addRide_regs ..)
  refine .of_regs regs ?_ only.appends (only.same .slices (by decide)) (only.same .links (by decide)) only.quiet
  simp only [List.forall_mem_cons, List.not_mem_nil, false_imp_iff, implies_true, and_true]
  omega

theorem ReportKept.rideBook (c : Chip) (r : Region) (n : Int) : ReportKept k c (c.rideBook r n) :=
  .ite (.addRide c _ _ (by simp only [BUS_DRAWN]; omega)) (.addRide c _ _ (by simp only [BUS_RET]; omega))

theorem ReportKept.setBus (c : Chip) (r : Region) (x : BusState) : ReportKept k c (c.setBus r x) := .of_only (Only.setBus ..)

/-- A field outside the slices' block is put. -/
theorem ReportKept.put (c : Chip) (f : Field) (n : Nat) (high : 0x0B0000 ≤ f.addr) : ReportKept k c (c.put f n) := by
  have only := Only.put c f n
  refine .of_regs ((RegsBut.refl [f.addr] c).put f n List.mem_cons_self) ?_ only.appends (only.same .slices (by decide))
    (only.same .links (by decide)) only.quiet
  simp only [List.forall_mem_cons, List.not_mem_nil, false_imp_iff, implies_true, and_true]
  exact .inr high

/-- A counter outside the slices' block counts. -/
theorem ReportKept.bump (c : Chip) (f : Field) (n : Nat) (high : 0x0B0000 ≤ f.addr) : ReportKept k c (c.bump f n) := by
  have only := Only.bump c f n
  refine .of_regs ((RegsBut.refl [f.addr] c).bump f n List.mem_cons_self) ?_ only.appends (only.same .slices (by decide))
    (only.same .links (by decide)) only.quiet
  simp only [List.forall_mem_cons, List.not_mem_nil, false_imp_iff, implies_true, and_true]
  exact .inr high

theorem ReportKept.raise (c : Chip) (src : Nat) : ReportKept k c (c.raise src) := by
  have only := Only.raise c src
  exact .of_regs ((RegsBut.refl [] c).of_regs (only.same .regs (by decide))) (fun _ h => nomatch h) (.raise c src)
    (only.same .slices (by decide)) (only.same .links (by decide)) (Chip.report_shutdown ..)

theorem ReportKept.admOff (c : Chip) (r : Region) : ReportKept k c (c.admOff r) :=
  (ReportKept.put c (BUS_STAT_ADM r.val) 0 (by simp only [BUS_STAT_ADM, BUS_STAT]; omega)).trans (.setBus ..)

theorem ReportKept.packRemoved (c : Chip) (r : Region) : ReportKept k c (c.packRemoved r) :=
  (((ReportKept.admOff c r).trans (.put _ (BUS_STAT_PACK_SEEN r.val) 0 (by simp only [BUS_STAT_PACK_SEEN, BUS_STAT]; omega))).trans
    (.bump _ (BUS_SWAPS_REMOVALS r.val) 1 (by simp only [BUS_SWAPS_REMOVALS, BUS_SWAPS]; omega))).trans (.raise _ (srcRegion r 4))

theorem ReportKept.judgeRemoval (c : Chip) (r : Region) (n : Int) (clocks : Nat) (fall : Int) :
    ReportKept k c (c.judgeRemoval r n clocks fall) := by
  unfold Chip.judgeRemoval
  split
  · exact .refl
  split
  · exact .ite (.packRemoved c r) (.setBus ..)
  · exact .setBus ..

theorem ReportKept.busInterval (c : Chip) (r : Region) (n : Int) (clocks : Nat) : ReportKept k c (c.busInterval r n clocks) :=
  ((ReportKept.rideBook c r n).trans (.setBus ..)).trans (.judgeRemoval ..)

theorem ReportKept.busCheck (c : Chip) (rep : Report) (whole : Result) : ReportKept k c (c.busCheck k rep whole) := by
  refine Chip.each_keeps (P := fun d => ReportKept k c d) _ .refl fun d kept r _ => kept.trans ?_
  split
  · exact .ite (.busInterval ..) (.ite (.rideBook ..) .refl)
  · exact .ite (.rideBook ..) (.busInterval ..)

/-! ### A report is delivered -/

/-- A slice of a D-die is no resolver's. -/
theorem Chip.rsvCheck_of_ddie (c : Chip) (low : k.val < 32) : c.rsvCheck k = c := by
  have none : rsvOfSlice k = none := dif_neg fun h => by omega
  unfold Chip.rsvCheck
  rw [none]

/-- A phase slice is no bus's. -/
theorem Chip.busCheck_of_phase (c : Chip) (rep : Report) (whole : Result) {a : Axis} (phase : phaseAxis k = some a) :
    c.busCheck k rep whole = c := by
  have bound : k.val % 8 < 6 := by
    unfold phaseAxis at phase
    split at phase
    next h => exact h.2
    next => cases phase
  have none : allRegions.filter (currSlice · == k) = [] := by
    refine List.filter_eq_nil_iff.mpr fun r _ eq => ?_
    have same : 6 + 16 * r.val = k.val := congrArg Fin.val (beq_iff_eq.mp eq)
    omega
  unfold Chip.busCheck
  rw [none]
  rfl

/-- The reading of a report, when it stands. -/
def Chip.reportRead (c : Chip) (k : SliceId) (rep : Report) (whole : Result) : Chip :=
  (((c.ipdTake k rep).kirchCheck k).rsvCheck k).busCheck k rep whole

theorem Chip.deliverReport_cons {c : Chip} {l : List Report} (waits : (c.slice k).reports = rep :: l) : c.deliverReport k =
    ((c.setSlice k { c.slice k with reports := l }).takeReport k rep).reportRead k rep ((c.slice k).cur.join rep.res) := by
  unfold Chip.deliverReport
  rw [waits]
  rfl

theorem Chip.ipdTake_none (c : Chip) (rep : Report) (none : phaseAxis k = none) : c.ipdTake k rep = c := by
  unfold Chip.ipdTake
  rw [none]

theorem Chip.kirchCheck_none (c : Chip) (none : phaseAxis k = none) : c.kirchCheck k = c := by
  unfold Chip.kirchCheck
  rw [none]

/-- What reads the report of a D-die slice keeps it. -/
theorem ReportKept.reportRead (c : Chip) (rep : Report) (whole : Result) (low : k.val < 32) :
    ReportKept k c (c.reportRead k rep whole) := by
  unfold Chip.reportRead
  rw [Chip.rsvCheck_of_ddie _ low]
  refine ReportKept.trans ?_ (.busCheck ..)
  cases phase : phaseAxis k with
  | none => rw [Chip.ipdTake_none c rep phase, Chip.kirchCheck_none c phase]; exact .refl
  | some a => exact ((KirchStage.ipdTake c rep phase).trans (.kirchCheck _ phase)).kept

/-- The report of a phase slice goes to its axis alone. -/
theorem KirchStage.reportRead (c : Chip) (rep : Report) (whole : Result) (low : k.val < 32) {a : Axis} (phase : phaseAxis k = some a) :
    KirchStage a k c (c.reportRead k rep whole) := by
  unfold Chip.reportRead
  rw [Chip.rsvCheck_of_ddie _ low, Chip.busCheck_of_phase _ _ _ phase]
  exact (KirchStage.ipdTake c rep phase).trans (.kirchCheck _ phase)

end

/-! ### The rows -/

theorem Reason.state_under (own : Reason) : Reason.state.under own = .state := by cases own <;> rfl

/-- A request that DARK does not execute gives STATE there (R315). -/
theorem refuses_of_dark {i : Instr} {p : Path} {s : State} {f : Chip → Judged} (row : exec i s = s.ask p f)
    (carries : s.chip.carries p = true) (awake : s.chip.booting = false) (dark : s.chip.inDark = true) : Refuses i p s .state := by
  have gate : s.chip.gate false = .state := by simp [Chip.gate, awake, dark]
  have asked : s.chip.ask p false f = s.chip.answer p .state := by
    rw [Chip.ask, carries, gate, Reason.state_under]
    rfl
  unfold Refuses
  rw [row, State.ask, State.run_eq, asked]

section
variable {s : State} {k : SliceId}

/-- The end of a fixed window (R99, R110). -/
theorem fixedWindowExpiry_requests (fixed : s.chip.closeMode k = 2) (past : (s.chip.slice k).fixedFrom + (s.chip.slice k).wlen ≤ s.chip.now) :
    Completes (.fixedWindowExpiry k) s fun c =>
      c.slice k = { s.chip.slice k with
        fixedFrom := (s.chip.slice k).fixedFrom + (s.chip.slice k).wlen
        reqSched := (s.chip.slice k).reqSched || (s.chip.slice k).running } ∧
      OneSlice k s.chip c ∧ c = { s.chip with slices := c.slices } := by
  have row : s.chip.fixedExpiry k = (s.chip.setSlice k { s.chip.slice k with
      fixedFrom := (s.chip.slice k).fixedFrom + (s.chip.slice k).wlen }).askSched k := if_pos ⟨fixed, past⟩
  generalize moved : s.chip.setSlice k { s.chip.slice k with
    fixedFrom := (s.chip.slice k).fixedFrom + (s.chip.slice k).wlen } = d at row
  have now : d.slice k = { s.chip.slice k with fixedFrom := (s.chip.slice k).fixedFrom + (s.chip.slice k).wlen } := by
    rw [← moved, Chip.slice_setSlice]
  have other (j : SliceId) (h : j ≠ k) : d.slice j = s.chip.slice j := by rw [← moved, Chip.slice_setSlice_ne _ _ _ h]
  have only : Only [.slices] s.chip d := moved ▸ .setSlice ..
  have asked : Requested [k] (fun x => { x with reqSched := true }) d (d.askSched k) :=
    Requested.each (f := fun x => { x with reqSched := true }) d [k] (fun _ => rfl) fun _ => rfl
  have taken : Only [.slices] d (d.askSched k) := Only.each_askSlice (f := fun x => { x with reqSched := true }) d [k]
  refine completes_of_run (·.fixedExpiry k) rfl row ⟨?_, fun j h => ?_, (only.trans taken).eq⟩
  · rw [asked.1 k List.mem_cons_self, now]
    cases (s.chip.slice k).running
    · exact congrArg (fun b => { s.chip.slice k with fixedFrom := (s.chip.slice k).fixedFrom + (s.chip.slice k).wlen, reqSched := b })
        (Bool.or_false _).symm
    · exact congrArg (fun b => { s.chip.slice k with fixedFrom := (s.chip.slice k).fixedFrom + (s.chip.slice k).wlen, reqSched := b })
        (Bool.or_true _).symm
  · exact (asked.2 j (by simpa using h)).trans (other j h)

/-- The limit of a window (R110). -/
theorem windowLimit_requests (runs : (s.chip.slice k).running = true) (past : (s.chip.slice k).opened + 130040 ≤ s.chip.now) :
    Completes (.windowLimit k) s fun c =>
      (∀ j, c.slice j = if j ∈ s.chip.closing k then { s.chip.slice j with reqLimit := true } else s.chip.slice j) ∧
      c = { s.chip with slices := c.slices } := by
  have row : s.chip.windowLimit k = s.chip.each (s.chip.closing k) (Chip.touch fun x => { x with reqLimit := true }) := by
    unfold Chip.windowLimit
    rw [runs, decide_eq_true past]
    rfl
  exact completes_of_run (·.windowLimit k) rfl row
    ⟨s.chip.each_touch (g := fun x => { x with reqLimit := true }) _ fun _ => rfl, (Only.each_touch _ _ _).eq⟩

/-- A half-cycle boundary of the resolvers (R121). -/
theorem excHalfCycle_requests (due : s.chip.excDue = true) :
    Completes .excHalfCycle s fun c =>
      c.excPos = (s.chip.excPlace == 0) ∧ c.excTick = some s.chip.now ∧
      Requested (allSlices.filter fun k => (rsvOfSlice k).isSome) (fun x => { x with reqSched := true }) s.chip c ∧
      c.get (RSV_CYC_CYCLES) = (s.chip.get RSV_CYC_CYCLES + (if s.chip.excPlace = 0 then 1 else 0)) % (RSV_CYC_CYCLES.top + 1) ∧
      FieldsBut [RSV_CYC_CYCLES] s.chip c ∧
      c = { s.chip with regs := c.regs, excPos := c.excPos, excTick := c.excTick, slices := c.slices } := by
  obtain ⟨fields, only, pos, tick⟩ := s.chip.excPassed_frame
  have cycles := s.chip.excPassed_cycles
  have asked := Requested.each (f := fun x => { x with reqSched := true }) s.chip.excPassed
    (allSlices.filter fun k => (rsvOfSlice k).isSome) (fun _ => rfl) fun _ => rfl
  have taken := Only.each_askSlice (f := fun x => { x with reqSched := true }) s.chip.excPassed
    (allSlices.filter fun k => (rsvOfSlice k).isSome)
  have row := s.chip.excHalf_eq due
  generalize s.chip.excPassed.each (allSlices.filter fun k => (rsvOfSlice k).isSome)
    (Chip.askSlice fun x => { x with reqSched := true }) = d at row asked taken
  generalize s.chip.excPassed = b at fields only pos tick asked taken cycles
  have posKept : d.excPos = b.excPos := taken.same .excPos (by decide)
  have tickKept : d.excTick = b.excTick := taken.same .excTick (by decide)
  refine completes_of_run Chip.excHalf rfl row ⟨?_, ?_, ?_, ?_, ?_, ?_⟩
  · exact posKept.trans pos
  · exact tickKept.trans tick
  · have before : b.slices = s.chip.slices := only.same .slices (by decide)
    exact asked.around before rfl
  · exact (taken.get _).trans cycles
  · exact fields.of_regs (taken.same .regs (by decide))
  · exact ((only.mono : Only [.regs, .excPos, .excTick, .slices] _ _).then taken).eq

/-- A window-close frame (R100). -/
theorem windowCloseFrame_requests {d : Die} {f : LinkFrame} {l : List SliceId} (takes : s.chip.linkTakes d false 3 f = true) :
    Completes (.windowCloseFrame d f l) s fun c =>
      Requested ((l.filter fun k => (dieOfSlice k).val == d.val && (s.chip.slice k).frameDue).flatMap s.chip.closing)
        (fun x => { x with reqCue := true, frameDue := false }) s.chip c ∧
      c = { s.chip with slices := c.slices, links := c.links } ∧ OneLink d s.chip c := by
  let heard := s.chip.setLink d ((s.chip.link d).heard false f.seq)
  have row : heard.winFrame d l = heard.each ((l.filter fun k => (dieOfSlice k).val == d.val && (s.chip.slice k).frameDue).flatMap
      s.chip.closing) (Chip.askSlice cueAsked) := heard.each_askCue _
  have taken := Only.each_askSlice (f := cueAsked) heard ((l.filter fun k => (dieOfSlice k).val == d.val && (s.chip.slice k).frameDue).flatMap
      s.chip.closing)
  have quiet : (heard.winFrame d l).faults.shutdown = s.chip.faults.shutdown :=
    congrArg FaultState.shutdown ((row ▸ taken).same .faults (by decide))
  have only : Only [.slices, .links] s.chip (heard.winFrame d l) := row ▸ ((Only.setLink ..).mono.then taken)
  refine completes_of_run (fun c => c.frame d false 3 f fun c => c.winFrame d l) rfl (Chip.frame_eq takes quiet) ⟨?_, only.eq, fun e he => ?_⟩
  · exact row ▸ (Requested.each (f := cueAsked) heard _ (fun _ => rfl) fun _ => rfl).around rfl rfl
  · have same : (heard.winFrame d l).link e = heard.link e :=
      congrArg (fun v : Vector LinkState 4 => v[e]) ((row ▸ taken).same .links (by decide))
    exact same.trans (Chip.link_setLink_ne _ _ _ he)

end

section
variable {s : State}

/-- A WIN_CLOSE that can act (R39, R100). -/
theorem winClose_acts {k : EntryIx} {f : Fire} (fires : s.chip.firesOf k 4 = [f]) (able : s.chip.winAble (cueArg f.cue) = true) :
    Completes (.winClose k) s fun c =>
      (∀ j ∈ winTargets (cueArg f.cue),
        if dieOfSlice j = 4 then (s.chip.slice j).running = true → (c.slice j).reqCue = true
        else (c.slice j).frameDue = true) ∧
      (∀ j, j ∉ winTargets (cueArg f.cue) → c.slice j = s.chip.slice j) ∧ FiredOnly s f c ∧
      c = { s.chip with slices := c.slices, cues := c.cues } := by
  have ended := Only.endFire s.chip f
  have fired := Only.winFire (s.chip.endFire f) f
  refine completes_of_fire rfl fires (fun action => ?_) (fun action => ?_) ⟨fun j hj => ?_, fun j hj => ?_, ?_,
    ((ended.mono : Only [.slices, .cues] _ _).then fired).eq⟩
  · rw [Chip.fireAble, action]
    exact able
  · rw [Chip.fireEffect, action]
    rfl
  · rw [(s.chip.endFire f).winFire_slice f hj, ended.slice j (by decide)]
    split
    · intro runs
      rw [if_pos runs]
      rfl
    · rfl
  · exact ((s.chip.endFire f).each_own_out (f := Chip.winClose) (fun d k j h => d.winClose_ne k h) hj).trans (ended.slice j (by decide))
  · exact fired.same .cues (by decide)

/-- A WIN_CLOSE that cannot act is noted (R39). -/
theorem winClose_noop {k : EntryIx} {f : Fire} (fires : s.chip.firesOf k 4 = [f]) (unable : s.chip.winAble (cueArg f.cue) = false) :
    Completes (.winClose k) s fun c =>
      c.get (CUE_TB_STAT_NOOP f.tb) = 1 ∧ FiredOnly s f c ∧
      c = { s.chip with regs := c.regs, fresh := c.fresh, cues := c.cues } ∧ FieldsBut [CUE_TB_STAT_NOOP f.tb] s.chip c :=
  completes_noop rfl fires fun action => by
    rw [Chip.fireAble, action]
    exact unable

variable {p : Path} {k : SliceId} {v : Word}

/-- A length in range is taken (R110). -/
theorem slWlenWrite_taken (serving : s.chip.serves p) (fixed : s.chip.closeMode k = 2) (least : 256 ≤ (SL_WLEN_WLEN k.val).read v)
    (most : (SL_WLEN_WLEN k.val).read v ≤ 130040) :
    Grants (.slWlenWrite p k v) p s fun c =>
      c.get (SL_WLEN_WLEN k.val) = (SL_WLEN_WLEN k.val).read v ∧ c.slice k = { s.chip.slice k with lenDue := true } ∧
      FieldsBut [SL_WLEN_WLEN k.val] s.chip c ∧ c = { s.chip with regs := c.regs, slices := c.slices } ∧
      OneSlice k s.chip c := by
  have free : judge (s.chip.wlenConds k v) = .ok := by
    simp [Chip.wlenConds, fixed, judge, Nat.not_lt.mpr least, Nat.not_lt.mpr most]
  have fits := Field.read_lt (SL_WLEN_WLEN k.val) v
  refine grants_of_request (f := fun c => (c.put (SL_WLEN_WLEN k.val) ((SL_WLEN_WLEN k.val).read v)).setSlice k
    { c.slice k with lenDue := true }) rfl serving free ?_
  generalize (SL_WLEN_WLEN k.val).read v = n at fits
  have wok : (SL_WLEN_WLEN k.val).ok := Field.ok_of _ rfl
  have put := Only.put s.chip (SL_WLEN_WLEN k.val) n
  have set (x : SliceState) := Only.setSlice (s.chip.put (SL_WLEN_WLEN k.val) n) k x
  refine ⟨?_, Chip.slice_setSlice .., ?_, ((put.mono : Only [.regs, .slices] _ _).then (set _)).eq, fun j h => ?_⟩
  · exact ((set _).get _).trans (Chip.get_put_lt _ _ wok _ fits)
  · exact ((FieldsBut.refl _ s.chip).put _ n wok List.mem_cons_self).of_regs (Chip.setSlice_regs ..)
  · exact (Chip.slice_setSlice_ne _ _ _ h).trans (put.slice j (by decide))

/-- Outside FIXED mode a length is refused. -/
theorem slWlenWrite_state (serving : s.chip.serves p) (other : s.chip.closeMode k ≠ 2) : Refuses (.slWlenWrite p k v) p s .state :=
  refuses_of_request rfl serving rfl (judge_eq_state (by simp [Chip.wlenConds]) (by simp [Chip.wlenConds, other])) (by decide)

/-- A length out of range is refused. -/
theorem slWlenWrite_range (serving : s.chip.serves p) (fixed : s.chip.closeMode k = 2)
    (out : (SL_WLEN_WLEN k.val).read v < 256 ∨ 130040 < (SL_WLEN_WLEN k.val).read v) : Refuses (.slWlenWrite p k v) p s .range := by
  refine refuses_of_request rfl serving rfl ?_ (by decide)
  simp [Chip.wlenConds, fixed, judge, out]

/-! ### Slice-result frames (R102 to R107, R228) -/

theorem Chip.reportBooked_quiet (c : Chip) (k : SliceId) (r : Report) : (c.reportBooked k r).faults.shutdown = c.faults.shutdown := by
  have counted := (c.countBooked_frame k r).2.quiet
  have gapped := ((c.countBooked k r).bookClamp k r).bookGap_frame k r
  have bumped := (Only.bump (c.countBooked k r) (SL_CLAMP_CLOCKS k.val) r.clampClocks).quiet
  refine gapped.2.quiet.trans (Eq.trans ?_ counted)
  by_cases none : r.clampEntries = 0
  · rw [Chip.bookClamp_unclamped _ _ _ none]
    exact bumped
  · rw [Chip.bookClamp_clamped _ _ _ none]
    exact (Chip.report_shutdown ..).trans ((Only.mark ..).quiet.trans bumped)

/-- A report that stands is shown in any state with the same registers and events. -/
theorem ReportShown.until {b c d : Chip} {k : SliceId} {r : Report} (h : ReportShown k r b c) (regs : d.regs = c.regs)
    (faults : d.faults = c.faults) : ReportShown k r b d := by
  have get (f : Field) : d.get f = c.get f := Chip.get_of_regs regs f
  have ledger : d.ledger k = c.ledger k := by unfold Chip.ledger; rw [get, get]
  unfold ReportShown Chip.flag at h ⊢
  simpa only [ledger, get, faults] using h

/-- The report of a slice is taken from those that wait. -/
def Chip.reportTaken (c : Chip) (k : SliceId) (r : Report) (l : List Report) : Chip :=
  (c.setSlice k { c.slice k with reports := l }).takeReport k r

theorem Chip.reportTaken_shows (c : Chip) (k : SliceId) (r : Report) (l : List Report) :
    ReportShown k r c (c.reportTaken k r l) ∧ ((c.reportTaken k r l).slice k).reports = l ∧
    RegsBut (reportRegs k) c (c.reportTaken k r l) ∧ Only [.regs, .fresh, .faults, .slices] c (c.reportTaken k r l) ∧
    (c.reportTaken k r l).faults.shutdown = c.faults.shutdown := by
  unfold Chip.reportTaken
  generalize takenIs : c.setSlice k { c.slice k with reports := l } = b
  have taken : Only [.slices] c b := takenIs ▸ .setSlice ..
  have left : (b.slice k).reports = l := by rw [← takenIs, Chip.slice_setSlice]
  obtain ⟨regs, only⟩ := b.reportBooked_frame k r
  have shown : ReportShown k r b (b.reportBooked k r) := .reportBooked b k r
  have still : (b.reportBooked k r).faults.shutdown = b.faults.shutdown := b.reportBooked_quiet k r
  rw [Chip.takeReport_eq]
  generalize b.reportBooked k r = e at regs only shown still
  generalize hx : { e.slice k with
    cur := if r.sched || r.stop then {} else (b.slice k).cur.join r.res
    last := if r.sched then (b.slice k).cur.join r.res else (b.slice k).last
    fresh := (b.slice k).fresh || r.sched } = x
  have set : Only [.slices] e (e.setSlice k x) := .setSlice ..
  have same : x.reports = l := hx ▸ (congrArg SliceState.reports (only.slice k (by decide))).trans left
  refine ⟨?_, (congrArg SliceState.reports (Chip.slice_setSlice ..)).trans same, ?_, ?_, ?_⟩
  · exact (shown.since (taken.same .regs (by decide)) (taken.same .faults (by decide))).until (set.same .regs (by decide))
      (set.same .faults (by decide))
  · exact ((RegsBut.refl _ c).of_regs (taken.same .regs (by decide))).trans (regs.of_regs (set.same .regs (by decide)))
  · exact ((taken.mono : Only [.regs, .fresh, .faults, .slices] c b).then only).then set
  · exact set.quiet.trans (still.trans taken.quiet)

theorem sliceResultFrame_reports {d : Die} {f : LinkFrame} {r : Report} {l : List Report} (takes : s.chip.linkTakes d true 4 f = true)
    (home : (dieOfSlice k).val = d.val) (waits : (s.chip.slice k).reports = r :: l) :
    Completes (.sliceResultFrame d f (.window k)) s fun c =>
      (c.slice k).reports = l ∧ ReportShown k r s.chip c ∧ OneLink d s.chip c ∧
      (∀ a, phaseAxis k = some a →
        RegsBut ([SL_RES k.val, SL_RLEN k.val, SL_LEDGER k.val, SL_LEDGERH k.val, SL_EXCESS k.val, SL_CLAMP k.val,
          SL_STAT k.val, SL_GAP k.val, AX_KIRCHS a.val]) s.chip c ∧ OneAxis a s.chip c ∧
        c = { s.chip with regs := c.regs, fresh := c.fresh, slices := c.slices, axes := c.axes, links := c.links
                          faults := c.faults }) := by
  have low : k.val < 32 := by
    have := d.isLt
    simp only [dieOfSlice] at home
    omega
  generalize heardIs : s.chip.setLink d ((s.chip.link d).heard true f.seq) = b
  have heard : Only [.links] s.chip b := heardIs ▸ .setLink ..
  have oneLink : OneLink d s.chip b := fun e he => heardIs ▸ Chip.link_setLink_ne _ _ _ he
  have waiting : (b.slice k).reports = r :: l := (congrArg SliceState.reports (heard.slice k (by decide))).trans waits
  generalize joined : (b.slice k).cur.join r.res = whole
  have row : b.sliceReported d (.window k) = (b.reportTaken k r l).reportRead k r whole :=
    joined ▸ (if_pos home).trans (Chip.deliverReport_cons _ waiting)
  obtain ⟨shown, left, regs, only, still⟩ := b.reportTaken_shows k r l
  have read := ReportKept.reportRead (b.reportTaken k r l) r whole low
  have links : ((b.reportTaken k r l).reportRead k r whole).links = b.links := read.links.trans (only.same .links (by decide))
  have stage (a : Axis) (phase : phaseAxis k = some a) := KirchStage.reportRead (b.reportTaken k r l) r whole low phase
  generalize (b.reportTaken k r l).reportRead k r whole = e at row read links stage
  have quiet : (b.sliceReported d (.window k)).faults.shutdown = s.chip.faults.shutdown :=
    (row ▸ read.quiet.trans still).trans heard.quiet
  subst heardIs
  refine completes_of_run (fun c => c.frame d true 4 f fun c => c.sliceReported d (.window k)) rfl ((Chip.frame_eq takes quiet).trans row)
    ⟨(read.reports k).trans left, ?_, ?_, fun a phase => ?_⟩
  · exact (shown.since (heard.same .regs (by decide)) (heard.same .faults (by decide))).kept read
  · exact fun x hx => (congrArg (fun v : Vector LinkState 4 => v[x]) links).trans (oneLink x hx)
  · obtain ⟨touched, axes, parts, -⟩ := stage a phase
    refine ⟨?_, fun x hx => (axes x hx).trans ((only.axis x (by decide)).trans (heard.axis x (by decide))), ?_⟩
    · exact ((RegsBut.refl _ s.chip).of_regs (heard.same .regs (by decide))).trans
        ((regs.mono (by simp [reportRegs])).trans (touched.mono (by simp)))
    · exact (((heard.mono : Only [.regs, .fresh, .slices, .axes, .links, .faults] _ _).then only).then parts).eq

/-- The fast current of a region whose bus slice is enabled. -/
theorem Chip.fastCurrent_shows (c : Chip) (r : Region) (i : Int) (armed : c.isArmed = true) (on : c.sliceOn (currSlice r) = true) :
    (c.fastCurrent r i).get (BUS_FAST_I r.val) = wrapTo 16 i ∧ FieldsBut [BUS_FAST_I r.val] c (c.fastCurrent r i) ∧
    Only [.regs, .buses] c (c.fastCurrent r i) ∧ OneBus r c (c.fastCurrent r i) := by
  have ok : (BUS_FAST_I r.val).ok := Field.ok_of _ rfl
  have value : (c.puts (BUS_FAST_I r.val) i).get (BUS_FAST_I r.val) = wrapTo 16 i := by
    have small := wrapTo_lt 16 i
    have whole : c.puts (BUS_FAST_I r.val) i = c.put (BUS_FAST_I r.val) (wrapTo 16 i) := rfl
    rw [whole]
    exact Chip.get_put_lt c _ ok _ small
  have fields := (FieldsBut.refl [BUS_FAST_I r.val] c).puts (BUS_FAST_I r.val) i ok List.mem_cons_self
  have put := Only.puts c (BUS_FAST_I r.val) i
  have plain : (c.puts (BUS_FAST_I r.val) i).get (BUS_FAST_I r.val) = wrapTo 16 i ∧
      FieldsBut [BUS_FAST_I r.val] c (c.puts (BUS_FAST_I r.val) i) ∧
      Only [.regs, .buses] c (c.puts (BUS_FAST_I r.val) i) ∧ OneBus r c (c.puts (BUS_FAST_I r.val) i) :=
    ⟨value, fields, put.mono, fun q _ => put.bus q (by decide)⟩
  generalize shownIs : c.puts (BUS_FAST_I r.val) i = d at value fields put plain
  have checked (x : BusState) : (d.setBus r x).get (BUS_FAST_I r.val) = wrapTo 16 i ∧ FieldsBut [BUS_FAST_I r.val] c (d.setBus r x) ∧
      Only [.regs, .buses] c (d.setBus r x) ∧ OneBus r c (d.setBus r x) := by
    refine ⟨((Only.setBus d r x).get _).trans value, fields.of_regs (Chip.setBus_regs ..), (put.mono : Only [.regs, .buses] c d).then (.setBus ..),
      fun q h => (Chip.bus_setBus_ne _ _ _ h).trans (put.bus q (by decide))⟩
  unfold Chip.fastCurrent
  rw [armed, on, shownIs]
  rw [if_pos (Bool.and_self true)]
  dsimp only
  split
  · split
    · exact checked _
    · exact plain
  · exact plain

/-- The region of a link's die. -/
theorem regionsOfDie {d : Die} {r : Region} (home : 2 * r.val = d.val) : (allRegions.filter fun q => 2 * q.val == d.val) = [r] := by
  have alone : ∀ r : Region, (allRegions.filter fun q => 2 * q.val == 2 * r.val) = [r] := by decide
  rw [← home]
  exact alone r

theorem sliceResultFrame_fast {d : Die} {f : LinkFrame} {r : Region} {i : Int} (takes : s.chip.linkTakes d true 4 f = true)
    (home : 2 * r.val = d.val) (armed : s.chip.isArmed = true) (on : s.chip.sliceOn (currSlice r) = true) :
    Completes (.sliceResultFrame d f (.fastCurrent i)) s fun c =>
      c.get (BUS_FAST_I r.val) = wrapTo 16 i ∧ FieldsBut [BUS_FAST_I r.val] s.chip c ∧
      c = { s.chip with regs := c.regs, buses := c.buses, links := c.links } ∧
      OneBus r s.chip c ∧ OneLink d s.chip c := by
  generalize heardIs : s.chip.setLink d ((s.chip.link d).heard true f.seq) = b
  have heard : Only [.links] s.chip b := heardIs ▸ .setLink ..
  have oneLink : OneLink d s.chip b := fun e he => heardIs ▸ Chip.link_setLink_ne _ _ _ he
  have row : b.sliceReported d (.fastCurrent i) = b.fastCurrent r i := by
    unfold Chip.sliceReported
    rw [regionsOfDie home]
    rfl
  have armedYet : b.isArmed = true := heardIs ▸ armed
  have onYet : b.sliceOn (currSlice r) = true := heardIs ▸ on
  obtain ⟨value, fields, only, oneBus⟩ := b.fastCurrent_shows r i armedYet onYet
  generalize b.fastCurrent r i = e at row value fields only oneBus
  have quiet : (b.sliceReported d (.fastCurrent i)).faults.shutdown = s.chip.faults.shutdown :=
    (row ▸ only.quiet).trans heard.quiet
  subst heardIs
  refine completes_of_run (fun c => c.frame d true 4 f fun c => c.sliceReported d (.fastCurrent i)) rfl ((Chip.frame_eq takes quiet).trans row)
    ⟨value, ?_, ?_, fun q h => (oneBus q h).trans (heard.bus q (by decide)), fun x hx => (only.link x (by decide)).trans (oneLink x hx)⟩
  · exact ((FieldsBut.refl _ s.chip).of_regs (heard.same .regs (by decide))).trans fields
  · exact ((heard.mono : Only [.regs, .buses, .links] _ _).then only).eq

end

end Sys2Proof.Machine

open Sys2Proof.Machine

/-- Settles O9: each request is one update of the slices that close together, and what reads a report keeps the registers in which
it stands. -/
theorem windowRequests : Obligations.WindowRequests := by
  unfold Obligations.WindowRequests
  refine ⟨⟨?_, ?_, ?_, ?_⟩, ⟨?_, ?_⟩, ⟨?_, ?_, ?_, ?_⟩, ?_, ?_⟩
  · exact fun _ _ fixed past => fixedWindowExpiry_requests fixed past
  · exact fun _ _ runs past => windowLimit_requests runs past
  · exact fun _ due => excHalfCycle_requests due
  · exact fun _ _ _ _ takes => windowCloseFrame_requests takes
  · exact fun _ _ _ fires able => winClose_acts fires able
  · exact fun _ _ _ fires unable => winClose_noop fires unable
  · exact fun _ _ _ _ serving fixed least most => slWlenWrite_taken serving fixed least most
  · exact fun _ _ _ _ serving other => slWlenWrite_state serving other
  · exact fun _ _ _ _ serving fixed out => slWlenWrite_range serving fixed out
  · exact fun _ _ _ _ carries awake dark => refuses_of_dark rfl carries awake dark
  · exact fun _ _ _ _ _ _ takes home waits => sliceResultFrame_reports takes home waits
  · exact fun _ _ _ _ _ takes home armed on => sliceResultFrame_fast takes home armed on
end

section
-- One proof after the other: a side goal that `Only` settles by `decide` waits for the kernel, on a thread of its own.
set_option Elab.async false
/-! SUPPORT. The gap windows of a slice and what a failed check begins; the understudy's round, turns and calibration; and the
statement about them (R111 to R119). -/
namespace Sys2Proof.Machine

/-! ### Gap windows (R118, R120) -/

theorem mem_closesWith : ∀ k : SliceId, k ∈ closesWith k := by decide

theorem closesWith_nodup : ∀ k : SliceId, (closesWith k).Nodup := by decide

theorem sliceOf_val (k : SliceId) : sliceOf k.val = k := dif_pos k.isLt

theorem dieOfSlice_underOf : ∀ d : UDie, dieOfSlice (underOf d) = d := by decide

theorem isUnder_underOf : ∀ d : UDie, isUnder (underOf d) = true := by decide

section
variable (c : Chip) (k : SliceId)

/-- The fields that show gaps. -/
def gapFields (k : SliceId) : List Field :=
  (closesWith k).map (fun j => SL_STAT_RECON j.val) ++ (phaseAxis k).toList.map fun a => AX_KIRCHS_SUSP a.val

theorem gapFields_ok {f : Field} (hf : f ∈ gapFields k) : f.ok := by
  simp only [gapFields, List.mem_append, List.mem_map] at hf
  obtain ⟨j, -, rfl⟩ | ⟨a, -, rfl⟩ := hf <;> exact Field.ok_of _ rfl

theorem gapFields_regs {f : Field} (hf : f ∈ gapFields k) : f.addr ∈ gapRegs k := by
  simp only [gapFields, gapRegs, List.mem_append, List.mem_map] at hf ⊢
  obtain ⟨j, hj, rfl⟩ | ⟨a, ha, rfl⟩ := hf
  · exact .inl ⟨j, hj, rfl⟩
  · exact .inr ⟨a, ha, rfl⟩

/-- The slice is booked by reconstruction. -/
def Chip.isRecon (m : SliceId) : Bool := (c.slice m).gap && c.reconOk m

/-- RECON of the slices that close together. -/
def Chip.reconShown : Chip := c.each (closesWith k) fun d m => d.putF (SL_STAT_RECON m.val) (c.isRecon m)

theorem Chip.showGaps_none (none : phaseAxis k = none) : c.showGaps k = c.reconShown k := by
  unfold Chip.showGaps
  rw [none]
  rfl

theorem Chip.showGaps_some {a : Axis} (phase : phaseAxis k = some a) :
    c.showGaps k = (c.reconShown k).putF (AX_KIRCHS_SUSP a.val) ((closesWith k).any c.isRecon) := by
  unfold Chip.showGaps
  rw [phase]
  rfl

theorem Chip.reconShown_frame : FieldsBut (gapFields k) c (c.reconShown k) ∧ RegsBut (gapRegs k) c (c.reconShown k) ∧
    Only [.regs] c (c.reconShown k) := by
  have mem {m : SliceId} (hm : m ∈ closesWith k) : SL_STAT_RECON m.val ∈ gapFields k :=
    List.mem_append_left _ (List.mem_map.mpr ⟨m, hm, rfl⟩)
  refine ⟨Chip.each_keeps (P := FieldsBut (gapFields k) c) _ (.refl _ c) fun d hd m hm => hd.putF _ _ (gapFields_ok k (mem hm)) (mem hm),
    Chip.each_keeps (P := RegsBut (gapRegs k) c) _ (.refl _ c) fun d hd m hm => ?_, .each c _ fun _ _ _ => .putF ..⟩
  exact hd.put (SL_STAT_RECON m.val) _ (gapFields_regs k (mem hm))

theorem Chip.showGaps_frame : FieldsBut (gapFields k) c (c.showGaps k) ∧ RegsBut (gapRegs k) c (c.showGaps k) ∧
    Only [.regs] c (c.showGaps k) := by
  obtain ⟨fields, regs, only⟩ := c.reconShown_frame k
  cases phase : phaseAxis k with
  | none =>
    rw [c.showGaps_none k phase]
    exact ⟨fields, regs, only⟩
  | some a =>
    have mem : AX_KIRCHS_SUSP a.val ∈ gapFields k := by simp [gapFields, phase]
    rw [c.showGaps_some k phase]
    exact ⟨fields.putF _ _ (Field.ok_of _ rfl) mem, regs.put (AX_KIRCHS_SUSP a.val) _ (gapFields_regs k mem), only.trans (.putF ..)⟩

theorem SL_STAT_inj {j k : Nat} (h : SL_STAT j = SL_STAT k) : j = k := by
  simp only [SL_STAT] at h
  omega

/-- RECON shows for the slice whether it is booked by reconstruction. -/
theorem Chip.showGaps_recon : (c.showGaps k).flag (SL_STAT_RECON k.val) = c.isRecon k := by
  have ok : (SL_STAT_RECON k.val).ok := Field.ok_of _ rfl
  have shown : (c.reconShown k).flag (SL_STAT_RECON k.val) = c.isRecon k := by
    obtain ⟨before, after, out, beyond, -, -, split⟩ :=
      c.each_split (fun d m => d.putF (SL_STAT_RECON m.val) (c.isRecon m)) (closesWith_nodup k) (mem_closesWith k)
    have kept (d : Chip) : (d.each after fun d m => d.putF (SL_STAT_RECON m.val) (c.isRecon m)).get (SL_STAT_RECON k.val) =
        d.get (SL_STAT_RECON k.val) :=
      Chip.each_keeps (P := fun e => e.get (SL_STAT_RECON k.val) = d.get (SL_STAT_RECON k.val)) after rfl fun e he m hm =>
        (e.get_put_ne (SL_STAT_RECON k.val) (SL_STAT_RECON m.val) _ fun eq => beyond (Fin.ext (SL_STAT_inj eq) ▸ hm)).trans he
    unfold Chip.reconShown
    rw [split]
    exact (congrArg (· != 0) (kept _)).trans (Chip.flag_putF _ _ ok _)
  cases phase : phaseAxis k with
  | none => rw [c.showGaps_none k phase, shown]
  | some a =>
    have apart : SL_STAT k.val ≠ AX_KIRCHS a.val := by simp only [SL_STAT, AX_KIRCHS]; omega
    rw [c.showGaps_some k phase]
    exact (congrArg (· != 0) (Chip.get_put_ne _ _ _ _ apart)).trans shown

end

/-! ### A forced close, and the gap behind it (R117, R118) -/

/-- A forced close is asked for. -/
def forcedAsked (x : SliceState) : SliceState := { x with reqForced := true }

section
variable (c : Chip) (k : SliceId)

theorem Chip.askForced_eq (l : List SliceId) : c.each l Chip.askForced = c.each l (Chip.askSlice forcedAsked) := rfl

/-- Forced closes of the slices that close with `k`. -/
def Chip.forced : Chip := c.each (closesWith k) (Chip.askSlice forcedAsked)

theorem Chip.forced_slices : Requested (closesWith k) forcedAsked c (c.forced k) ∧ Only [.slices] c (c.forced k) :=
  ⟨.each (f := forcedAsked) c _ (fun _ => rfl) fun _ => rfl, .each_askSlice ..⟩

theorem Chip.forced_gap (j : SliceId) : ((c.forced k).slice j).gap = (c.slice j).gap :=
  c.each_askSlice_gap (f := forcedAsked) (fun _ => rfl) _ j

/-- The windows of the slice form a gap from the forced closes on. -/
def Chip.gapped : Chip := (c.forced k).setSlice k { (c.forced k).slice k with gap := true }

theorem Chip.noSpare_eq : c.noSpare k = (c.gapped k).showGaps k := rfl

/-- What the windows of a gap leave of the slices. -/
theorem Chip.gapped_slices : ((c.gapped k).slice k).gap = true ∧
    (∀ j ∈ closesWith k, (c.slice j).running = true → ((c.gapped k).slice j).reqForced = true) ∧
    (∀ j, j ∉ closesWith k → (c.gapped k).slice j = c.slice j) ∧
    (∀ j, j ≠ k → ((c.gapped k).slice j).gap = (c.slice j).gap) ∧ Only [.slices] c (c.gapped k) := by
  obtain ⟨⟨asked, rest⟩, only⟩ := c.forced_slices k
  have forced {j : SliceId} (hj : j ∈ closesWith k) (runs : (c.slice j).running = true) : ((c.forced k).slice j).reqForced = true := by
    rw [asked j hj, if_pos runs]
    rfl
  have other {j : SliceId} (h : j ≠ k) : (c.gapped k).slice j = (c.forced k).slice j := Chip.slice_setSlice_ne _ _ _ h
  refine ⟨congrArg SliceState.gap (Chip.slice_setSlice ..), fun j hj runs => ?_, fun j hj => ?_, fun j h => ?_, only.trans (.setSlice ..)⟩
  · by_cases same : j = k
    · subst same
      exact (congrArg SliceState.reqForced (Chip.slice_setSlice ..)).trans (forced hj runs)
    · rw [other same]
      exact forced hj runs
  · rw [other fun eq => hj (by rw [eq]; exact mem_closesWith k), rest j hj]
  · rw [other h, Chip.forced_gap]

/-- Whether a gap is reconstructed hangs on its mates. -/
theorem Chip.reconOk_of_mates {b c : Chip} {k : SliceId} (mates : ∀ j ∈ mates k, c.whole j = b.whole j) : c.reconOk k = b.reconOk k := by
  unfold Chip.reconOk
  congr 1
  rw [Bool.eq_iff_iff, List.all_eq_true, List.all_eq_true]
  exact forall₂_congr fun j hj => by rw [mates j hj]

/-- A working slice without a spare (R119). -/
theorem Chip.noSpare_frame : ((c.noSpare k).slice k).gap = true ∧
    (∀ j ∈ closesWith k, (c.slice j).running = true → ((c.noSpare k).slice j).reqForced = true) ∧
    (∀ j, j ∉ closesWith k → (c.noSpare k).slice j = c.slice j) ∧
    (c.noSpare k).flag (SL_STAT_RECON k.val) = c.reconOk k ∧
    FieldsBut (gapFields k) c (c.noSpare k) ∧ RegsBut (gapRegs k) c (c.noSpare k) ∧ Only [.regs, .slices] c (c.noSpare k) := by
  obtain ⟨gap, forced, rest, gaps, only⟩ := c.gapped_slices k
  obtain ⟨fields, regs, parts⟩ := (c.gapped k).showGaps_frame k
  have recon := (c.gapped k).showGaps_recon k
  have same : (c.gapped k).reconOk k = c.reconOk k := by
    refine Chip.reconOk_of_mates fun j hj => ?_
    have other : j ≠ k := by simpa using (List.mem_filter.mp hj).2
    unfold Chip.whole
    rw [gaps j other, Chip.flag_of_get (only.get (SL_STAT_PERM j.val))]
  have slices (j : SliceId) : (c.noSpare k).slice j = (c.gapped k).slice j := parts.slice j (by decide)
  rw [Chip.isRecon, gap, Bool.true_and, same] at recon
  refine ⟨(congrArg SliceState.gap (slices k)).trans gap, fun j hj runs => (congrArg SliceState.reqForced (slices j)).trans (forced j hj runs),
    fun j hj => (slices j).trans (rest j hj), recon, ?_, ?_, ?_⟩
  · exact ((FieldsBut.refl _ c).of_regs (only.same .regs (by decide))).trans fields
  · exact ((RegsBut.refl _ c).of_regs (only.same .regs (by decide))).trans regs
  · exact (only.mono : Only [.regs, .slices] _ _).then parts

end

/-! ### A failed check (R117, R119, R123) -/

theorem SL_STAT_ne_US_STAT (j k : Nat) : SL_STAT j ≠ US_STAT k := by
  simp only [SL_STAT, US_STAT]
  omega

/-- The fields of US_STAT and of PERM lie beside those that show gaps. -/
theorem gapFields_apart {f g : Field} {k : SliceId} (hf : 0x0A0000 ≤ f.addr) (bits : (∀ j, f.addr ≠ SL_STAT j) ∨ f.hi < 29 ∨ 29 < f.lo)
    (hg : g ∈ gapFields k) : f.apart g := by
  simp only [gapFields, List.mem_append, List.mem_map] at hg
  obtain ⟨j, -, rfl⟩ | ⟨a, -, rfl⟩ := hg
  · exact bits.imp_left fun h => h j.val
  · left
    simp only [AX_KIRCHS_SUSP, AX_KIRCHS]
    omega

theorem checkBit_home (k : SliceId) (x : SliceCheck) : (checkBit k x).addr = SL_STAT k.val := by cases x <;> rfl

theorem checkBit_ok (k : SliceId) (x : SliceCheck) : (checkBit k x).ok := by cases x <;> exact Field.ok_of _ rfl

theorem checkBit_low (k : SliceId) (x : SliceCheck) : (checkBit k x).hi < 29 := by
  cases x
  · exact (by decide : 0 < 29)
  · exact (by decide : 1 < 29)
  · exact (by decide : 2 < 29)

section
variable (c : Chip) (k : SliceId) (bit : Field)

/-- The bit of a failed check, and its event. -/
def Chip.checkFailed : Chip := (c.mark bit).raise (srcSlice k)

theorem Chip.checkFailed_frame (x : SliceCheck) : (c.checkFailed k (checkBit k x)).get (checkBit k x) = 1 ∧
    FieldsBut [checkBit k x] c (c.checkFailed k (checkBit k x)) ∧ RegsBut [SL_STAT k.val] c (c.checkFailed k (checkBit k x)) ∧
    Raised (srcSlice k) c (c.checkFailed k (checkBit k x)) ∧
    Only [.regs, .fresh, .faults] c (c.checkFailed k (checkBit k x)) := by
  have ok := checkBit_ok k x
  have home := checkBit_home k x
  have one : 1 < 2 ^ ((checkBit k x).hi + 1 - (checkBit k x).lo) := by cases x <;> exact (by decide : 1 < 2 ^ 1)
  generalize checkBit k x = bit at ok home one
  have raised := Only.raise (c.mark bit) (srcSlice k)
  have marked := Only.mark c bit
  refine ⟨?_, ?_, ?_, ?_, (marked.mono : Only [.regs, .fresh, .faults] _ _).then raised⟩
  · exact (raised.get _).trans ((Chip.noteFresh_get ..).trans (Chip.get_put_lt c bit ok 1 one))
  · exact ((FieldsBut.refl _ c).mark bit ok List.mem_cons_self).of_regs (raised.same .regs (by decide))
  · exact ((RegsBut.refl _ c).mark bit (by simp [home])).of_regs (raised.same .regs (by decide))
  · rfl

theorem Chip.sliceFails_eq : c.sliceFails k bit =
    if isUnder k then (c.checkFailed k bit).underFails (dieOfSlice k)
    else if (c.checkFailed k bit).flag (SL_STAT_PERM k.val) || ((c.checkFailed k bit).slice k).gap then c.checkFailed k bit
    else if (c.checkFailed k bit).spare (dieOfSlice k) then (c.checkFailed k bit).replace k
    else (c.checkFailed k bit).noSpare k := rfl

/-- The state of a working slice, and of a spare for it, is as it was before the check failed. -/
theorem Chip.checkFailed_spare (x : SliceCheck) :
    (c.checkFailed k (checkBit k x)).flag (SL_STAT_PERM k.val) = c.flag (SL_STAT_PERM k.val) ∧
    (c.checkFailed k (checkBit k x)).spare (dieOfSlice k) = c.spare (dieOfSlice k) ∧
    (c.checkFailed k (checkBit k x)).reconOk k = c.reconOk k ∧
    (∀ d, (c.checkFailed k (checkBit k x)).under d = c.under d) ∧
    (∀ j, (c.checkFailed k (checkBit k x)).slice j = c.slice j) := by
  obtain ⟨-, fields, regs, -, only⟩ := c.checkFailed_frame k x
  have permOk (j : Nat) : (SL_STAT_PERM j).ok := Field.ok_of _ rfl
  have perm (j : Nat) : (c.checkFailed k (checkBit k x)).get (SL_STAT_PERM j) = c.get (SL_STAT_PERM j) := by
    refine fields _ (permOk j) fun f hf => ?_
    rw [List.mem_singleton] at hf
    subst hf
    cases x <;> exact Field.apart_of _ _ rfl
  have under := fun d => only.under d (by decide)
  have slice := fun j => only.slice j (by decide)
  refine ⟨Chip.flag_of_get (perm _), ?_, Chip.reconOk_of_mates fun j _ => ?_, under, slice⟩
  · unfold Chip.spare
    rw [under, Chip.flag_of_get (regs.get (g := US_STAT_PERM (underIx (dieOfSlice k))) fun h => SL_STAT_ne_US_STAT _ _ (List.mem_singleton.mp h).symm)]
  · unfold Chip.whole
    rw [slice, Chip.flag_of_get (perm _)]

/-- The marks of a permanent replacement (R117). -/
def Chip.replaceMarked : Chip :=
  ((((c.put (SL_STAT_PERM k.val) 1).put (US_STAT_PERM (underIx (dieOfSlice k))) 1).put (US_STAT_HALTED (underIx (dieOfSlice k))) 1).put
    (US_STAT_TARGET (underIx (dieOfSlice k))) k.val).put (US_STAT_STEP (underIx (dieOfSlice k))) 0

/-- The understudy of a replacement, before its settle windows. -/
def UnderState.replaces (u : UnderState) (k : SliceId) : UnderState :=
  { u.idle with turns := [], settling := some k.val, settleFrom := none, settled := false }

theorem Chip.replace_eq (none : (c.under (dieOfSlice k)).target = none) : c.replace k =
    ((c.replaceMarked k).setUnder (dieOfSlice k) ((c.under (dieOfSlice k)).replaces k)).noSpare k := by
  unfold Chip.replace
  dsimp only
  rw [none]
  rfl

theorem Chip.replaceMarked_frame : (c.replaceMarked k).get (SL_STAT_PERM k.val) = 1 ∧
    (c.replaceMarked k).get (US_STAT_PERM (underIx (dieOfSlice k))) = 1 ∧
    (c.replaceMarked k).get (US_STAT_HALTED (underIx (dieOfSlice k))) = 1 ∧
    (c.replaceMarked k).get (US_STAT_TARGET (underIx (dieOfSlice k))) = k.val ∧
    (∀ x, (c.replaceMarked k).get (checkBit k x) = c.get (checkBit k x)) ∧
    RegsBut [US_STAT (underIx (dieOfSlice k)), SL_STAT k.val] c (c.replaceMarked k) ∧ Only [.regs] c (c.replaceMarked k) := by
  generalize hu : underIx (dieOfSlice k) = u
  have apart : SL_STAT k.val ≠ US_STAT u := SL_STAT_ne_US_STAT _ _
  have small : k.val < 2 ^ 6 := Nat.lt_of_lt_of_le k.isLt (by decide)
  have slot : (US_STAT_TARGET u).ok := Field.ok_of _ rfl
  unfold Chip.replaceMarked
  rw [hu]
  refine ⟨?_, ?_, ?_, ?_, fun x => ?_, ?_, ?_⟩
  · rw [Chip.get_put_ne _ _ _ _ apart, Chip.get_put_ne _ _ _ _ apart, Chip.get_put_ne _ _ _ _ apart, Chip.get_put_ne _ _ _ _ apart]
    exact Chip.get_put_fit _ _ _ rfl
  · rw [Chip.get_put_beside _ _ _ _ rfl, Chip.get_put_beside _ _ _ _ rfl, Chip.get_put_beside _ _ _ _ rfl]
    exact Chip.get_put_fit _ _ _ rfl
  · rw [Chip.get_put_beside _ _ _ _ rfl, Chip.get_put_beside _ _ _ _ rfl]
    exact Chip.get_put_fit _ _ _ rfl
  · rw [Chip.get_put_beside _ _ _ _ rfl]
    exact Chip.get_put_lt _ _ slot _ small
  · have home : (checkBit k x).addr ≠ US_STAT u := checkBit_home k x ▸ apart
    rw [Chip.get_put_ne _ _ _ _ home, Chip.get_put_ne _ _ _ _ home, Chip.get_put_ne _ _ _ _ home, Chip.get_put_ne _ _ _ _ home]
    cases x <;> exact Chip.get_put_beside _ _ _ _ rfl
  · exact (((((RegsBut.refl [US_STAT u, SL_STAT k.val] c).put (SL_STAT_PERM k.val) 1 (by simp [SL_STAT_PERM])).put (US_STAT_PERM u) 1
      List.mem_cons_self).put (US_STAT_HALTED u) 1 List.mem_cons_self).put (US_STAT_TARGET u) k.val List.mem_cons_self).put (US_STAT_STEP u) 0
      List.mem_cons_self
  · exact ((((Only.put ..).trans (.put ..)).trans (.put ..)).trans (.put ..)).trans (.put ..)

/-- A permanent replacement begins (R117). -/
theorem Chip.replace_frame (none : (c.under (dieOfSlice k)).target = none) :
    (c.replace k).get (SL_STAT_PERM k.val) = 1 ∧ (c.replace k).get (US_STAT_PERM (underIx (dieOfSlice k))) = 1 ∧
    (c.replace k).get (US_STAT_HALTED (underIx (dieOfSlice k))) = 1 ∧ (c.replace k).get (US_STAT_TARGET (underIx (dieOfSlice k))) = k.val ∧
    (∀ x, (c.replace k).get (checkBit k x) = c.get (checkBit k x)) ∧
    (c.replace k).under (dieOfSlice k) = (c.under (dieOfSlice k)).replaces k ∧ ((c.replace k).slice k).gap = true ∧
    (∀ j ∈ closesWith k, (c.slice j).running = true → ((c.replace k).slice j).reqForced = true) ∧
    (∀ j, j ∉ closesWith k → (c.replace k).slice j = c.slice j) ∧ OneUnder (dieOfSlice k) c (c.replace k) ∧
    RegsBut (US_STAT (underIx (dieOfSlice k)) :: gapRegs k) c (c.replace k) ∧ Only [.regs, .slices, .unders] c (c.replace k) := by
  obtain ⟨perm, permToo, halted, target, bits, regs, only⟩ := c.replaceMarked_frame k
  rw [c.replace_eq k none]
  generalize c.replaceMarked k = b at perm permToo halted target bits regs only
  have set := Only.setUnder b (dieOfSlice k) ((c.under (dieOfSlice k)).replaces k)
  have own : (b.setUnder (dieOfSlice k) ((c.under (dieOfSlice k)).replaces k)).under (dieOfSlice k) = (c.under (dieOfSlice k)).replaces k :=
    Chip.under_setUnder ..
  have others (e : UDie) (he : e ≠ dieOfSlice k) :
      (b.setUnder (dieOfSlice k) ((c.under (dieOfSlice k)).replaces k)).under e = b.under e := Chip.under_setUnder_ne _ _ _ he
  generalize b.setUnder (dieOfSlice k) ((c.under (dieOfSlice k)).replaces k) = d at set own others
  obtain ⟨gap, forced, rest, -, fields, gapped, parts⟩ := d.noSpare_frame k
  have before (j : SliceId) : d.slice j = c.slice j := (set.slice j (by decide)).trans (only.slice j (by decide))
  have get {f : Field} (ok : f.ok) (high : 0x0A0000 ≤ f.addr) (beside : (∀ j, f.addr ≠ SL_STAT j) ∨ f.hi < 29 ∨ 29 < f.lo) : (d.noSpare k).get f = b.get f :=
    (fields f ok fun g hg => gapFields_apart high beside hg).trans (set.get f)
  have status (n : Nat) : 0x0A0000 ≤ US_STAT n := by simp only [US_STAT]; omega
  have stat (n : Nat) : 0x0A0000 ≤ SL_STAT n := by simp only [SL_STAT]; omega
  have inGap : SL_STAT k.val ∈ gapRegs k := List.mem_append_left _ (List.mem_map.mpr ⟨k, mem_closesWith k, rfl⟩)
  refine ⟨?_, ?_, ?_, ?_, fun x => ?_, (parts.under _ (by decide)).trans own, gap, fun j hj runs => ?_, fun j hj => ?_, fun e he => ?_, ?_, ?_⟩
  · exact (get (Field.ok_of _ rfl) (stat _) (.inr (.inr (by decide : 29 < 30)))).trans perm
  · exact (get (Field.ok_of _ rfl) (status _) (.inl fun _ => Ne.symm (SL_STAT_ne_US_STAT _ _))).trans permToo
  · exact (get (Field.ok_of _ rfl) (status _) (.inl fun _ => Ne.symm (SL_STAT_ne_US_STAT _ _))).trans halted
  · exact (get (Field.ok_of _ rfl) (status _) (.inl fun _ => Ne.symm (SL_STAT_ne_US_STAT _ _))).trans target
  · have low : (checkBit k x).hi < 29 := checkBit_low k x
    exact (get (checkBit_ok k x) (checkBit_home k x ▸ stat _) (.inr (.inl low))).trans (bits x)
  · exact forced j hj (by rw [before]; exact runs)
  · exact (rest j hj).trans (before j)
  · exact (parts.under e (by decide)).trans ((others e he).trans (only.under e (by decide)))
  · refine ((regs.mono ?_).of_regs (set.same .regs (by decide))).trans (gapped.mono (List.subset_cons_self ..))
    simp [inGap]
  · exact ((only.mono : Only [.regs, .slices, .unders] _ _).then set).then parts

end

/-! ### What a failure leaves of the checks' bits -/

/-- No check's bit, and nothing but registers, slices and understudies. -/
structure ChecksKept (b c : Chip) : Prop where
  bits : ∀ j x, c.get (checkBit j x) = b.get (checkBit j x)
  only : Only [.regs, .slices, .unders] b c

/-- An event that stands, stands where nothing more is reported. -/
theorem Raised.kept {src : Nat} {b c d : Chip} (h : Raised src b c) (same : d.faults = c.faults) : Raised src b d := same.trans h

section
variable {b c d : Chip}

theorem ChecksKept.refl (c : Chip) : ChecksKept c c := ⟨fun _ _ => rfl, .refl _ c⟩

theorem ChecksKept.trans (h : ChecksKept b c) (g : ChecksKept c d) : ChecksKept b d :=
  ⟨fun j x => (g.bits j x).trans (h.bits j x), h.only.trans g.only⟩

theorem ChecksKept.ite {p : Prop} [Decidable p] (h : ChecksKept b c) (g : ChecksKept b d) : ChecksKept b (if p then c else d) := by
  split
  · exact h
  · exact g

/-- What touches no register. -/
theorem ChecksKept.of_only (h : Only [.slices, .unders] b c) : ChecksKept b c := ⟨fun j x => h.get _, h.mono⟩

theorem ChecksKept.put (c : Chip) (f : Field) (v : Nat) (ok : f.ok) (other : (∀ j, SL_STAT j ≠ f.addr) ∨ 29 ≤ f.lo) :
    ChecksKept c (c.put f v) := by
  refine ⟨fun j x => c.get_put_apart _ f v (checkBit_ok j x) ok ?_, (Only.put ..).mono⟩
  refine other.imp (fun h => checkBit_home j x ▸ h j.val) fun h => .inl ?_
  have := checkBit_low j x
  omega

theorem ChecksKept.showGaps (c : Chip) (k : SliceId) : ChecksKept c (c.showGaps k) := by
  obtain ⟨fields, -, only⟩ := c.showGaps_frame k
  refine ⟨fun j x => fields _ (checkBit_ok j x) fun g hg => gapFields_apart ?_ (.inr (.inl (checkBit_low j x))) hg, only.mono⟩
  rw [checkBit_home]
  simp only [SL_STAT]
  omega

theorem ChecksKept.setGap (c : Chip) (k : SliceId) (v : Bool) : ChecksKept c (c.setGap k v) :=
  (ChecksKept.of_only (Only.setSlice c k _).mono).trans (.showGaps ..)

theorem ChecksKept.forced (c : Chip) (l : List SliceId) : ChecksKept c (c.each l Chip.askForced) :=
  .of_only (Only.each_askSlice (f := forcedAsked) c l).mono

theorem ChecksKept.handBackSoon (c : Chip) (k : SliceId) : ChecksKept c (c.handBackSoon k) :=
  (ChecksKept.forced c _).trans (.of_only (Only.setSlice ..).mono)

theorem ChecksKept.setUnder (c : Chip) (e : UDie) (u : UnderState) : ChecksKept c (c.setUnder e u) := .of_only (Only.setUnder ..).mono

theorem ChecksKept.putStat (c : Chip) (n v : Nat) : ChecksKept c (c.put (US_STAT_PERM n) v) ∧ ChecksKept c (c.put (US_STAT_HALTED n) v) ∧
    ChecksKept c (c.put (US_STAT_TARGET n) v) ∧ ChecksKept c (c.put (US_STAT_STEP n) v) :=
  ⟨.put c _ v (Field.ok_of _ rfl) (.inl fun j => SL_STAT_ne_US_STAT j n), .put c _ v (Field.ok_of _ rfl) (.inl fun j => SL_STAT_ne_US_STAT j n),
    .put c _ v (Field.ok_of _ rfl) (.inl fun j => SL_STAT_ne_US_STAT j n), .put c _ v (Field.ok_of _ rfl) (.inl fun j => SL_STAT_ne_US_STAT j n)⟩

theorem ChecksKept.replaceMarked (c : Chip) (k : SliceId) : ChecksKept c (c.replaceMarked k) :=
  ((((ChecksKept.put c (SL_STAT_PERM k.val) 1 (Field.ok_of _ rfl) (.inr (by decide : 29 ≤ 30))).trans (ChecksKept.putStat ..).1).trans
    (ChecksKept.putStat ..).2.1).trans (ChecksKept.putStat ..).2.2.1).trans (ChecksKept.putStat ..).2.2.2

theorem ChecksKept.noSpare (c : Chip) (k : SliceId) : ChecksKept c (c.noSpare k) := (ChecksKept.forced c _).trans (.setGap ..)

/-- The slice that the understudy substitutes is to go back. -/
def Chip.replaceFreed (c : Chip) (k : SliceId) : Chip :=
  match (c.under (dieOfSlice k)).target with
  | some y => if y != k.val && c.subNow (sliceOf y) then c.handBackSoon (sliceOf y) else c
  | none => c

theorem Chip.replace_cases (c : Chip) (k : SliceId) : c.replace k =
    if (c.under (dieOfSlice k)).target == some k.val && c.subNow k then
      (((c.replaceFreed k).replaceMarked k).setUnder (dieOfSlice k) { (c.under (dieOfSlice k)).idle with turns := [] }).showGaps k
    else (((c.replaceFreed k).replaceMarked k).setUnder (dieOfSlice k) ((c.under (dieOfSlice k)).replaces k)).noSpare k := rfl

theorem ChecksKept.replace (c : Chip) (k : SliceId) : ChecksKept c (c.replace k) := by
  have freed : ChecksKept c (c.replaceFreed k) := by
    unfold Chip.replaceFreed
    split
    · exact .ite (.handBackSoon ..) (.refl c)
    · exact .refl c
  have marked := freed.trans (.replaceMarked _ k)
  rw [Chip.replace_cases]
  exact .ite ((marked.trans (.setUnder ..)).trans (.showGaps ..)) ((marked.trans (.setUnder ..)).trans (.noSpare ..))

end

section
variable (c : Chip)

/-- The round of a die stops. -/
def Chip.roundHalted (d : UDie) : Chip := (c.put (US_STAT_HALTED (underIx d)) 1).put (US_STAT_STEP (underIx d)) 0

/-- A failed understudy. -/
def UnderState.fails (u : UnderState) : UnderState :=
  { u.idle with turns := [], failed := true, settling := none, settleFrom := none, settled := false }

/-- The slice that an understudy serves. -/
def Chip.served (d : UDie) (u : UnderState) : Option SliceId :=
  match u.settling with
  | some k => some (sliceOf k)
  | none => allSlices.find? fun k => dieOfSlice k == d && c.subNow k

theorem Chip.underFails_eq (d : UDie) : c.underFails d =
    match (c.roundHalted d).served d (c.under d) with
    | some k => (((c.roundHalted d).setUnder d (c.under d).fails).handBackSoon k).setGap k true
    | none => (c.roundHalted d).setUnder d (c.under d).fails := rfl

theorem ChecksKept.underFails (d : UDie) : ChecksKept c (c.underFails d) := by
  have halted : ChecksKept c ((c.roundHalted d).setUnder d (c.under d).fails) :=
    ((ChecksKept.putStat c _ 1).2.1.trans (ChecksKept.putStat _ _ 0).2.2.2).trans (.setUnder ..)
  rw [Chip.underFails_eq]
  split
  · exact (halted.trans (.handBackSoon ..)).trans (.setGap ..)
  · exact halted

/-- A failed check shows its bit, and is one event of its source, whatever follows. -/
theorem Chip.sliceFails_shows (k : SliceId) (x : SliceCheck) : (c.sliceFails k (checkBit k x)).get (checkBit k x) = 1 ∧
    Raised (srcSlice k) c (c.sliceFails k (checkBit k x)) := by
  obtain ⟨bit, -, -, raised, -⟩ := c.checkFailed_frame k x
  have kept : ChecksKept (c.checkFailed k (checkBit k x)) (c.sliceFails k (checkBit k x)) := by
    rw [Chip.sliceFails_eq]
    exact .ite (.underFails ..) (.ite (.refl _) (.ite (.replace ..) (.noSpare ..)))
  exact ⟨(kept.bits k x).trans bit, raised.kept (kept.only.same .faults (by decide))⟩

theorem Chip.roundHalted_frame (d : UDie) : (c.roundHalted d).get (US_STAT_HALTED (underIx d)) = 1 ∧
    FieldsBut [US_STAT_HALTED (underIx d), US_STAT_STEP (underIx d)] c (c.roundHalted d) ∧ Only [.regs] c (c.roundHalted d) ∧
    ∀ j, (c.roundHalted d).subNow j = c.subNow j := by
  have fields := FieldsBut.puts2 c (US_STAT_HALTED (underIx d)) (US_STAT_STEP (underIx d)) 1 0 (Field.ok_of _ rfl) (Field.ok_of _ rfl)
  refine ⟨(Chip.get_put_beside _ _ _ _ rfl).trans (Chip.get_put_fit _ _ _ rfl), fields, (Only.put ..).trans (.put ..), fun j => ?_⟩
  exact Chip.flag_of_get ((Chip.get_put_ne _ _ _ _ (SL_STAT_ne_US_STAT _ _)).trans (Chip.get_put_ne _ _ _ _ (SL_STAT_ne_US_STAT _ _)))

/-- An understudy that serves no slice fails alone (R119). -/
theorem Chip.underFails_alone {d : UDie} (still : (c.under d).settling = none) (none : ∀ j, dieOfSlice j = d → c.subNow j = false) :
    c.underFails d = (c.roundHalted d).setUnder d (c.under d).fails := by
  obtain ⟨-, -, -, sub⟩ := c.roundHalted_frame d
  have served : (c.roundHalted d).served d (c.under d) = .none := by
    unfold Chip.served
    rw [still]
    refine List.find?_eq_none.mpr fun j _ => ?_
    rw [sub]
    by_cases home : dieOfSlice j = d
    · simp [none j home]
    · simp [home]
  rw [Chip.underFails_eq, served]

end

/-! ### The rows of a failed check -/

section
variable {s : State} {k : SliceId} {x : SliceCheck}

theorem sliceCheckFail_row {P : Chip → Prop} (runs : (s.chip.slice k).running = true) (h : P (s.chip.sliceFails k (checkBit k x))) :
    Completes (.sliceCheckFail k x) s P :=
  completes_of_run (fun c => if (c.slice k).running then c.sliceFails k (checkBit k x) else c) rfl (if_pos runs) h

theorem sliceCheckFail_replaced (runs : (s.chip.slice k).running = true) (works : isUnder k = false) (closed : (s.chip.slice k).gap = false)
    (owned : s.chip.flag (SL_STAT_PERM k.val) = false) (spare : s.chip.spare (dieOfSlice k) = true)
    (rests : (s.chip.under (dieOfSlice k)).target = none) :
    Completes (.sliceCheckFail k x) s fun c =>
      c.get (checkBit k x) = 1 ∧ c.get (SL_STAT_PERM k.val) = 1 ∧
      c.get (US_STAT_PERM (underIx (dieOfSlice k))) = 1 ∧ c.get (US_STAT_HALTED (underIx (dieOfSlice k))) = 1 ∧
      c.get (US_STAT_TARGET (underIx (dieOfSlice k))) = k.val ∧
      (c.under (dieOfSlice k)).settling = some k.val ∧ (c.under (dieOfSlice k)).turns = [] ∧ (c.slice k).gap = true ∧
      (∀ j ∈ closesWith k, (s.chip.slice j).running = true → (c.slice j).reqForced = true) ∧
      (∀ j, j ∉ closesWith k → c.slice j = s.chip.slice j) ∧ OneUnder (dieOfSlice k) s.chip c ∧
      Raised (srcSlice k) s.chip c ∧
      RegsBut (US_STAT (underIx (dieOfSlice k)) :: gapRegs k) s.chip c ∧
      c = { s.chip with regs := c.regs, fresh := c.fresh, slices := c.slices, unders := c.unders, faults := c.faults } := by
  obtain ⟨bit, -, regs, raised, only⟩ := s.chip.checkFailed_frame k x
  obtain ⟨permSame, spareSame, -, underSame, sliceSame⟩ := s.chip.checkFailed_spare k x
  have row : s.chip.sliceFails k (checkBit k x) = (s.chip.checkFailed k (checkBit k x)).replace k := by
    rw [Chip.sliceFails_eq, works, permSame, owned, sliceSame, closed, spareSame, spare]
    rfl
  generalize s.chip.checkFailed k (checkBit k x) = b at bit regs raised only underSame sliceSame row
  obtain ⟨perm, permToo, halted, target, bits, under, gap, forced, rest, others, touched, parts⟩ :=
    b.replace_frame k (by rw [underSame]; exact rests)
  have inGap : SL_STAT k.val ∈ gapRegs k := List.mem_append_left _ (List.mem_map.mpr ⟨k, mem_closesWith k, rfl⟩)
  refine sliceCheckFail_row runs (row ▸ ⟨(bits x).trans bit, perm, permToo, halted, target, ?_, ?_, gap, fun j hj run => ?_, fun j hj => ?_,
    fun e he => ?_, ?_, ?_, ?_⟩)
  · exact congrArg UnderState.settling under
  · exact congrArg UnderState.turns under
  · exact forced j hj (by rw [sliceSame]; exact run)
  · exact (rest j hj).trans (sliceSame j)
  · exact (others e he).trans (underSame e)
  · exact raised.kept (parts.same .faults (by decide))
  · exact (regs.mono (by simp [inGap])).trans touched
  · exact ((only.mono : Only [.regs, .fresh, .slices, .unders, .faults] _ _).then parts).eq

theorem sliceCheckFail_gap (runs : (s.chip.slice k).running = true) (works : isUnder k = false) (closed : (s.chip.slice k).gap = false)
    (owned : s.chip.flag (SL_STAT_PERM k.val) = false) (unspared : s.chip.spare (dieOfSlice k) = false) :
    Completes (.sliceCheckFail k x) s fun c =>
      c.get (checkBit k x) = 1 ∧ (c.slice k).gap = true ∧ c.flag (SL_STAT_RECON k.val) = s.chip.reconOk k ∧
      (∀ j ∈ closesWith k, (s.chip.slice j).running = true → (c.slice j).reqForced = true) ∧
      (∀ j, j ∉ closesWith k → c.slice j = s.chip.slice j) ∧
      Raised (srcSlice k) s.chip c ∧ RegsBut (gapRegs k) s.chip c ∧
      c = { s.chip with regs := c.regs, fresh := c.fresh, slices := c.slices, faults := c.faults } := by
  obtain ⟨bit, -, regs, raised, only⟩ := s.chip.checkFailed_frame k x
  obtain ⟨permSame, spareSame, reconSame, -, sliceSame⟩ := s.chip.checkFailed_spare k x
  have row : s.chip.sliceFails k (checkBit k x) = (s.chip.checkFailed k (checkBit k x)).noSpare k := by
    rw [Chip.sliceFails_eq, works, permSame, owned, sliceSame, closed, spareSame, unspared]
    rfl
  generalize s.chip.checkFailed k (checkBit k x) = b at bit regs raised only sliceSame reconSame row
  obtain ⟨gap, forced, rest, recon, -, touched, parts⟩ := b.noSpare_frame k
  have kept := (ChecksKept.noSpare b k).bits k x
  have inGap : SL_STAT k.val ∈ gapRegs k := List.mem_append_left _ (List.mem_map.mpr ⟨k, mem_closesWith k, rfl⟩)
  refine sliceCheckFail_row runs (row ▸ ⟨kept.trans bit, gap, recon.trans reconSame, fun j hj run => ?_, fun j hj => ?_, ?_, ?_, ?_⟩)
  · exact forced j hj (by rw [sliceSame]; exact run)
  · exact (rest j hj).trans (sliceSame j)
  · exact raised.kept (parts.same .faults (by decide))
  · exact (regs.mono (by simp [inGap])).trans touched
  · exact ((only.mono : Only [.regs, .fresh, .slices, .faults] _ _).then parts).eq

theorem sliceCheckFail_under {d : UDie} (runs : (s.chip.slice (underOf d)).running = true) (still : (s.chip.under d).settling = none)
    (none : ∀ j, dieOfSlice j = d → s.chip.subNow j = false) :
    Completes (.sliceCheckFail (underOf d) x) s fun c =>
      c.get (checkBit (underOf d) x) = 1 ∧ c.get (US_STAT_HALTED (underIx d)) = 1 ∧
      (c.under d).failed = true ∧ (c.under d).turns = [] ∧ (c.under d).target = .none ∧
      Raised (srcSlice (underOf d)) s.chip c ∧
      FieldsBut [checkBit (underOf d) x, US_STAT_HALTED (underIx d), US_STAT_STEP (underIx d)] s.chip c ∧
      c = { s.chip with regs := c.regs, fresh := c.fresh, unders := c.unders, faults := c.faults } ∧
      OneUnder d s.chip c := by
  obtain ⟨bit, fields, -, raised, only⟩ := s.chip.checkFailed_frame (underOf d) x
  obtain ⟨-, -, -, underSame, -⟩ := s.chip.checkFailed_spare (underOf d) x
  have sub (j : SliceId) : (s.chip.checkFailed (underOf d) (checkBit (underOf d) x)).subNow j = s.chip.subNow j := by
    have ok : (SL_STAT_SUBNOW j.val).ok := Field.ok_of _ rfl
    refine Chip.flag_of_get (fields _ ok fun f hf => ?_)
    rw [List.mem_singleton] at hf
    subst hf
    have low := checkBit_low (underOf d) x
    exact .inr (.inr (Nat.lt_trans low (by decide : 29 < 31)))
  have row : s.chip.sliceFails (underOf d) (checkBit (underOf d) x) =
      (s.chip.checkFailed (underOf d) (checkBit (underOf d) x)).underFails d := by
    rw [Chip.sliceFails_eq, isUnder_underOf, dieOfSlice_underOf]
    rfl
  generalize s.chip.checkFailed (underOf d) (checkBit (underOf d) x) = b at bit fields raised only underSame sub row
  have alone := b.underFails_alone (d := d) (by rw [underSame]; exact still) fun j hj => (sub j).trans (none j hj)
  have kept := (ChecksKept.underFails b d).bits (underOf d) x
  obtain ⟨halted, stopped, regs, -⟩ := b.roundHalted_frame d
  rw [alone] at row kept
  have set := Only.setUnder (b.roundHalted d) d (b.under d).fails
  have own : ((b.roundHalted d).setUnder d (b.under d).fails).under d = (b.under d).fails := Chip.under_setUnder ..
  refine sliceCheckFail_row runs (row ▸ ⟨kept.trans bit, (set.get _).trans halted, ?_, ?_, ?_, ?_, ?_, ?_, fun e he => ?_⟩)
  · exact congrArg UnderState.failed own
  · exact congrArg UnderState.turns own
  · exact congrArg UnderState.target own
  · exact (raised.kept (regs.same .faults (by decide))).kept (set.same .faults (by decide))
  · exact (fields.mono (by simp)).trans ((stopped.mono (by simp)).of_regs (set.same .regs (by decide)))
  · exact (((only.mono : Only [.regs, .fresh, .unders, .faults] _ _).then regs).then set).eq
  · exact (Chip.under_setUnder_ne _ _ _ he).trans ((regs.under e (by decide)).trans (underSame e))

end

/-! ### Rounds, turns and calibration (R111 to R115, R117) -/

section
variable {s : State} {d : UDie}

/-- The turns of a round, each with its start time (R111). -/
def Chip.roundTurns (c : Chip) (d : UDie) : List (Nat × Nat) :=
  ((c.workers d).map (·.val)).zip ((List.range (c.workers d).length).map fun j => c.now + j * c.roundTicks d / (c.workers d).length)

theorem Chip.roundTurns_spaced (c : Chip) (d : UDie) : (c.roundTurns d).map (·.1) = (c.workers d).map (·.val) ∧
    ∀ j, j < (c.roundTurns d).length → ((c.roundTurns d).map (·.2))[j]? = some (c.now + j * c.roundTicks d / (c.roundTurns d).length) := by
  have length : (c.roundTurns d).length = (c.workers d).length := by simp [Chip.roundTurns]
  refine ⟨List.map_fst_zip (by simp), fun j hj => ?_⟩
  rw [length] at hj ⊢
  unfold Chip.roundTurns
  rw [List.map_snd_zip (by simp)]
  simp [hj]

theorem roundStart_queues (enabled : s.chip.flag (US_CFG_ENA (underIx d)) = true) (armed : s.chip.isArmed = true)
    (going : s.chip.flag (US_STAT_HALTED (underIx d)) = false) (due : (s.chip.under d).roundFrom + s.chip.roundTicks d ≤ s.chip.now) :
    Completes (.roundStart d) s fun c =>
      (∃ l : List (Nat × Nat), (c.under d).turns = (s.chip.under d).turns ++ l ∧
        l.map (·.1) = (s.chip.workers d).map (·.val) ∧
        ∀ j, j < l.length → (l.map (·.2))[j]? = some (s.chip.now + j * s.chip.roundTicks d / l.length)) ∧
      c.under d = { s.chip.under d with turns := (c.under d).turns, roundFrom := s.chip.now } ∧
      c = { s.chip with unders := c.unders } ∧ OneUnder d s.chip c := by
  have row : s.chip.roundStart d = s.chip.setUnder d
      { s.chip.under d with roundFrom := s.chip.now, turns := (s.chip.under d).turns ++ s.chip.roundTurns d } := by
    unfold Chip.roundStart Chip.beginRound
    rw [if_pos due, enabled, armed, going]
    rfl
  obtain ⟨names, times⟩ := s.chip.roundTurns_spaced d
  have own : (s.chip.setUnder d { s.chip.under d with
      roundFrom := s.chip.now, turns := (s.chip.under d).turns ++ s.chip.roundTurns d }).under d = _ := Chip.under_setUnder ..
  refine completes_of_run (·.roundStart d) rfl row ⟨⟨s.chip.roundTurns d, congrArg UnderState.turns own, names, times⟩, ?_,
    (Only.setUnder ..).eq, fun e he => Chip.under_setUnder_ne _ _ _ he⟩
  rw [own]

/-- A turn shown. -/
def Chip.turnShown (c : Chip) (d : UDie) (k : Nat) : Chip := (c.put (US_STAT_TARGET (underIx d)) k).put (US_STAT_STEP (underIx d)) 1

/-- The understudy of a turn that begins. -/
def UnderState.begins (u : UnderState) (k : Nat) (l : List (Nat × Nat)) : UnderState :=
  { u with turns := l, target := some k, left := 2, retried := false, calDone := false, newCal := none }

/-- The understudy's own windows run. -/
def Chip.underRuns (c : Chip) (d : UDie) : Chip :=
  c.setSlice (underOf d) { c.slice (underOf d) with running := true, opened := c.now }

theorem Chip.underRange_frame (c : Chip) (k : SliceId) : ∃ x : SliceState,
    (c.underRange k).slice (underOf (dieOfSlice k)) = x ∧ x.running = (c.slice (underOf (dieOfSlice k))).running ∧
    x.opened = (c.slice (underOf (dieOfSlice k))).opened ∧ x.range = c.get (SL_CFG_RANGE k.val) ∧
    ((c.slice (underOf (dieOfSlice k))).range ≠ c.get (SL_CFG_RANGE k.val) → x.settle = 2) ∧
    Only [.slices] c (c.underRange k) ∧ OneSlice (underOf (dieOfSlice k)) c (c.underRange k) := by
  refine ⟨_, rfl, ?_⟩
  unfold Chip.underRange
  dsimp only
  split
  next same => exact ⟨rfl, rfl, same, fun h => absurd same h, .refl _ c, fun _ _ => rfl⟩
  next => 
    rw [Chip.slice_setSlice]
    exact ⟨rfl, rfl, rfl, fun _ => rfl, .setSlice .., fun j h => Chip.slice_setSlice_ne _ _ _ h⟩

theorem turnStart_begins {k : SliceId} {t : Nat} {l : List (Nat × Nat)} (next : (s.chip.under d).turns = (k.val, t) :: l)
    (rests : (s.chip.under d).target = none) (going : s.chip.flag (US_STAT_HALTED (underIx d)) = false) (armed : s.chip.isArmed = true)
    (due : t ≤ s.chip.now) (edge : (s.chip.slice k).opened = s.chip.now) (home : dieOfSlice k = d) :
    Completes (.turnStart d) s fun c =>
      (c.under d).target = some k.val ∧ (c.under d).turns = l ∧ (c.under d).left = 2 ∧ c.get (US_STAT_STEP (underIx d)) = 1 ∧
      c.get (US_STAT_TARGET (underIx d)) = k.val ∧
      (c.slice (underOf d)).running = true ∧ (c.slice (underOf d)).opened = s.chip.now ∧
      (c.slice (underOf d)).range = s.chip.get (SL_CFG_RANGE k.val) ∧
      ((s.chip.slice (underOf d)).range ≠ s.chip.get (SL_CFG_RANGE k.val) → (c.slice (underOf d)).settle = 2) ∧
      FieldsBut [US_STAT_TARGET (underIx d), US_STAT_STEP (underIx d)] s.chip c ∧
      c = { s.chip with regs := c.regs, unders := c.unders, slices := c.slices } ∧
      OneUnder d s.chip c ∧ OneSlice (underOf d) s.chip c := by
  have row : s.chip.turnStart d =
      (((s.chip.turnShown d k.val).setUnder d ((s.chip.under d).begins k.val l)).underRuns d).underRange k := by
    unfold Chip.turnStart
    dsimp only
    rw [next]
    dsimp only
    rw [rests, going, armed, sliceOf_val, edge, decide_eq_false (Nat.not_lt.mpr due), if_neg (by simp)]
    rfl
  have fields := FieldsBut.puts2 s.chip (US_STAT_TARGET (underIx d)) (US_STAT_STEP (underIx d)) k.val 1 (Field.ok_of _ rfl) (Field.ok_of _ rfl)
  have step : (s.chip.turnShown d k.val).get (US_STAT_STEP (underIx d)) = 1 := Chip.get_put_fit _ _ _ rfl
  have small : k.val < 2 ^ 6 := Nat.lt_of_lt_of_le k.isLt (by decide)
  have slot : (US_STAT_TARGET (underIx d)).ok := Field.ok_of _ rfl
  have target : (s.chip.turnShown d k.val).get (US_STAT_TARGET (underIx d)) = k.val :=
    (Chip.get_put_beside _ _ _ _ rfl).trans (Chip.get_put_lt _ _ slot _ small)
  have shown : Only [.regs] s.chip (s.chip.turnShown d k.val) := (Only.put ..).trans (.put ..)
  have fieldsShown : FieldsBut [US_STAT_TARGET (underIx d), US_STAT_STEP (underIx d)] s.chip (s.chip.turnShown d k.val) := fields
  have range : (s.chip.turnShown d k.val).get (SL_CFG_RANGE k.val) = s.chip.get (SL_CFG_RANGE k.val) := by
    have apart : SL_CFG k.val ≠ US_STAT (underIx d) := by simp only [SL_CFG, US_STAT]; omega
    exact (Chip.get_put_ne _ _ _ _ apart).trans (Chip.get_put_ne _ _ _ _ apart)
  generalize s.chip.turnShown d k.val = b at row step target shown fieldsShown range
  have set := Only.setUnder b d ((s.chip.under d).begins k.val l)
  have own : (b.setUnder d ((s.chip.under d).begins k.val l)).under d = (s.chip.under d).begins k.val l := Chip.under_setUnder ..
  have others (e : UDie) (he : e ≠ d) : (b.setUnder d ((s.chip.under d).begins k.val l)).under e = b.under e :=
    Chip.under_setUnder_ne _ _ _ he
  generalize b.setUnder d ((s.chip.under d).begins k.val l) = e at row set own others
  have runs : Only [.slices] e (e.underRuns d) := .setSlice ..
  have started : (e.underRuns d).slice (underOf d) = { e.slice (underOf d) with running := true, opened := e.now } := Chip.slice_setSlice ..
  have alone (j : SliceId) (h : j ≠ underOf d) : (e.underRuns d).slice j = e.slice j := Chip.slice_setSlice_ne _ _ _ h
  generalize e.underRuns d = g at row runs started alone
  obtain ⟨x, atEnd, running, opened, ranged, settle, ranges, beside⟩ := g.underRange_frame k
  rw [home] at atEnd running opened settle beside
  have cfg : g.get (SL_CFG_RANGE k.val) = s.chip.get (SL_CFG_RANGE k.val) := (runs.get _).trans ((set.get _).trans range)
  have unmoved : e.now = b.now := set.same .now (by decide)
  have now : e.now = s.chip.now := unmoved.trans (shown.same .now (by decide))
  have was : (e.slice (underOf d)).range = (s.chip.slice (underOf d)).range :=
    congrArg SliceState.range ((set.slice _ (by decide)).trans (shown.slice _ (by decide)))
  have under (i : UDie) : (g.underRange k).under i = e.under i := (ranges.under i (by decide)).trans (runs.under i (by decide))
  rw [started] at running opened settle
  subst atEnd
  refine completes_of_run (·.turnStart d) rfl row ⟨?_, ?_, ?_, ?_, ?_, running, opened.trans now, ranged.trans cfg, fun h => ?_, ?_, ?_, ?_, ?_⟩
  · exact congrArg UnderState.target ((under d).trans own)
  · exact congrArg UnderState.turns ((under d).trans own)
  · exact congrArg UnderState.left ((under d).trans own)
  · exact (ranges.get _).trans ((runs.get _).trans ((set.get _).trans step))
  · exact (ranges.get _).trans ((runs.get _).trans ((set.get _).trans target))
  · exact settle (by rw [cfg]; exact was ▸ h)
  · exact ((fieldsShown.of_regs (set.same .regs (by decide))).of_regs (runs.same .regs (by decide))).of_regs (ranges.same .regs (by decide))
  · exact ((((shown.mono : Only [.regs, .unders, .slices] _ _).then set).then runs).then ranges).eq
  · exact fun i hi => (under i).trans ((others i hi).trans (shown.under i (by decide)))
  · exact fun j hj => (beside j hj).trans ((alone j hj).trans ((set.slice j (by decide)).trans (shown.slice j (by decide))))

/-- The settle windows of a replacement end (R117). -/
theorem understudySettleEnd_forces {k t : Nat} (settling : (s.chip.under d).settling = some k) (since : (s.chip.under d).settleFrom = some t)
    (past : t + 500 ≤ s.chip.now) :
    Completes (.understudySettleEnd d) s fun c =>
      c.under d = { s.chip.under d with settled := true } ∧
      Requested (closesWith (sliceOf k)) (fun x => { x with reqForced := true }) s.chip c ∧
      c = { s.chip with slices := c.slices, unders := c.unders } ∧ OneUnder d s.chip c := by
  have row : s.chip.settleEnd d = (s.chip.setUnder d { s.chip.under d with settled := true }).forced (sliceOf k) := by
    unfold Chip.settleEnd
    dsimp only
    rw [settling, since]
    exact if_pos past
  have set := Only.setUnder s.chip d { s.chip.under d with settled := true }
  have own : (s.chip.setUnder d { s.chip.under d with settled := true }).under d = _ := Chip.under_setUnder ..
  have others (e : UDie) (he : e ≠ d) : (s.chip.setUnder d { s.chip.under d with settled := true }).under e = s.chip.under e :=
    Chip.under_setUnder_ne _ _ _ he
  generalize s.chip.setUnder d { s.chip.under d with settled := true } = b at row set own others
  obtain ⟨asked, only⟩ := b.forced_slices (sliceOf k)
  refine completes_of_run (·.settleEnd d) rfl row ⟨(only.under d (by decide)).trans own, ?_, ?_, fun e he =>
    (only.under e (by decide)).trans (others e he)⟩
  · exact asked.around (set.same .slices (by decide)) rfl
  · exact ((set.mono : Only [.slices, .unders] _ _).then only).eq

/-! ### Calibration readings (R112, R113, R115) -/

section
variable {k : SliceId} {v : BitVec 16}

/-- The calibration of the die is due. -/
def Chip.calDue (c : Chip) (d : UDie) : Prop :=
  (c.under d).calFrom + 250000 * c.get (US_CFG_CAL_MS (underIx d)) ≤ c.now

/-- A reading of the target itself, by the step of its turn. -/
def Chip.targetRead (c : Chip) (d : UDie) (k : SliceId) (v : BitVec 16) : Chip :=
  match c.turnAt d with
  | 4 => (c.toStep d 5).setUnder d { c.under d with zeroRead := v, calFrom := c.now }
  | 5 =>
    if (c.under d).calDone then c
    else if zeroOk (c.under d).zeroRead && gainOk v then
      c.setUnder d { c.under d with newCal := some (v ++ (c.under d).zeroRead), calDone := true }
    else c.sliceFails k (SL_STAT_CAL k.val)
  | _ => c

theorem Chip.calibrationEnd_eq {c : Chip} (turn : (c.under d).target = some k.val) (due : c.calDue d) : c.calibrationEnd d v =
    if (c.under d).selfCal then c.selfCalEnd d v else c.targetRead d k v := by
  unfold Chip.calibrationEnd Chip.targetRead
  dsimp only
  rw [if_neg (Nat.not_lt.mpr due), turn]
  dsimp only
  rw [sliceOf_val] <;> rfl

theorem calibrationEnd_row {P : Chip → Prop} {c : Chip} (turn : (s.chip.under d).target = some k.val) (due : s.chip.calDue d)
    (row : (if (s.chip.under d).selfCal then s.chip.selfCalEnd d v else s.chip.targetRead d k v) = c) (h : P c) :
    Completes (.calibrationEnd d v) s P :=
  completes_of_run (·.calibrationEnd d v) rfl ((Chip.calibrationEnd_eq turn due).trans row) h

theorem calibrationEnd_zero (turn : (s.chip.under d).target = some k.val) (due : s.chip.calDue d)
    (other : (s.chip.under d).selfCal = false) (step : s.chip.turnAt d = 4) :
    Completes (.calibrationEnd d v) s fun c =>
      c.turnAt d = 5 ∧ c.under d = { s.chip.under d with zeroRead := v, calFrom := s.chip.now } ∧
      FieldsBut [US_STAT_STEP (underIx d)] s.chip c ∧ c = { s.chip with regs := c.regs, unders := c.unders } ∧
      OneUnder d s.chip c := by
  have read : s.chip.targetRead d k v = (s.chip.toStep d 5).setUnder d { s.chip.under d with zeroRead := v, calFrom := s.chip.now } := by
    unfold Chip.targetRead
    rw [step]
    rfl
  have put : Only [.regs] s.chip (s.chip.toStep d 5) := .put ..
  have at5 : (s.chip.toStep d 5).get (US_STAT_STEP (underIx d)) = 5 := Chip.get_put_fit _ _ _ rfl
  have fields : FieldsBut [US_STAT_STEP (underIx d)] s.chip (s.chip.toStep d 5) :=
    (FieldsBut.refl _ _).put (US_STAT_STEP (underIx d)) 5 (Field.ok_of _ rfl) List.mem_cons_self
  have set := Only.setUnder (s.chip.toStep d 5) d { s.chip.under d with zeroRead := v, calFrom := s.chip.now }
  refine calibrationEnd_row turn due ((if_neg (by simp [other])).trans read) ⟨(set.get _).trans at5, Chip.under_setUnder .., ?_, ?_, fun e he => ?_⟩
  · exact fields.of_regs (set.same .regs (by decide))
  · exact ((put.mono : Only [.regs, .unders] _ _).then set).eq
  · exact (Chip.under_setUnder_ne _ _ _ he).trans (put.under e (by decide))

theorem calibrationEnd_good (turn : (s.chip.under d).target = some k.val) (due : s.chip.calDue d)
    (other : (s.chip.under d).selfCal = false) (step : s.chip.turnAt d = 5) (undone : (s.chip.under d).calDone = false)
    (zero : zeroOk (s.chip.under d).zeroRead = true) (gain : gainOk v = true) :
    Completes (.calibrationEnd d v) s fun c =>
      c.under d = { s.chip.under d with newCal := some (v ++ (s.chip.under d).zeroRead), calDone := true } ∧
      c = { s.chip with unders := c.unders } ∧ OneUnder d s.chip c := by
  have read : s.chip.targetRead d k v =
      s.chip.setUnder d { s.chip.under d with newCal := some (v ++ (s.chip.under d).zeroRead), calDone := true } := by
    unfold Chip.targetRead
    rw [step]
    dsimp only
    rw [undone, zero, gain]
    rfl
  exact calibrationEnd_row turn due ((if_neg (by simp [other])).trans read)
    ⟨Chip.under_setUnder .., (Only.setUnder ..).eq, fun e he => Chip.under_setUnder_ne _ _ _ he⟩

theorem calibrationEnd_bad (turn : (s.chip.under d).target = some k.val) (due : s.chip.calDue d)
    (other : (s.chip.under d).selfCal = false) (step : s.chip.turnAt d = 5) (undone : (s.chip.under d).calDone = false)
    (bad : zeroOk (s.chip.under d).zeroRead = false ∨ gainOk v = false) :
    Completes (.calibrationEnd d v) s fun c => c.get (SL_STAT_CAL k.val) = 1 ∧ Raised (srcSlice k) s.chip c := by
  have read : s.chip.targetRead d k v = s.chip.sliceFails k (checkBit k .cal) := by
    have fails : (zeroOk (s.chip.under d).zeroRead && gainOk v) = false := by
      obtain bad | bad := bad <;> simp [bad]
    unfold Chip.targetRead
    rw [step]
    dsimp only
    rw [undone, fails]
    rfl
  exact calibrationEnd_row turn due ((if_neg (by simp [other])).trans read) (s.chip.sliceFails_shows k .cal)

theorem calibrationEnd_selfZero (turn : (s.chip.under d).target = some k.val) (due : s.chip.calDue d)
    (own : (s.chip.under d).selfCal = true) (first : (s.chip.under d).selfZero = false) :
    Completes (.calibrationEnd d v) s fun c =>
      c.under d = { s.chip.under d with selfZero := true, zeroRead := v, calFrom := s.chip.now } ∧
      c = { s.chip with unders := c.unders } ∧ OneUnder d s.chip c := by
  have read : s.chip.selfCalEnd d v =
      s.chip.setUnder d { s.chip.under d with selfZero := true, zeroRead := v, calFrom := s.chip.now } := if_pos (by simp [first])
  exact calibrationEnd_row turn due ((if_pos own).trans read)
    ⟨Chip.under_setUnder .., (Only.setUnder ..).eq, fun e he => Chip.under_setUnder_ne _ _ _ he⟩

/-- The understudy's own calibration is stored, and its turn goes back to step 1 (R113). -/
def Chip.selfCalStored (c : Chip) (d : UDie) (w : Word) : Chip :=
  ((c.setReg (SL_CAL (underIx d)) w).put (SL_CALT_TICK (underIx d)) c.wall).put (US_STAT_STEP (underIx d)) 1

theorem Chip.selfCalStored_frame (c : Chip) (d : UDie) (w : Word) : (c.selfCalStored d w).reg (SL_CAL (underIx d)) = w ∧
    (c.selfCalStored d w).get (SL_CALT_TICK (underIx d)) = c.wall % 2 ^ 32 ∧ (c.selfCalStored d w).turnAt d = 1 ∧
    RegsBut [SL_CAL (underIx d), SL_CALT (underIx d), US_STAT (underIx d)] c (c.selfCalStored d w) ∧ Only [.regs] c (c.selfCalStored d w) := by
  generalize hn : underIx d = n
  have calStat : SL_CAL n ≠ US_STAT n := by simp only [SL_CAL, US_STAT]; omega
  have calTick : SL_CAL n ≠ SL_CALT n := by simp only [SL_CAL, SL_CALT]; omega
  have tickStat : SL_CALT n ≠ US_STAT n := by simp only [SL_CALT, US_STAT]; omega
  have tickOk : (SL_CALT_TICK n).ok := Field.ok_of _ rfl
  have wall := c.wall
  unfold Chip.turnAt Chip.selfCalStored
  rw [hn]
  refine ⟨?_, ?_, Chip.get_put_fit _ _ _ rfl, ?_, ((Only.setReg ..).trans (.put ..)).trans (.put ..)⟩
  · exact (Chip.reg_put_ne _ _ _ calStat).trans ((Chip.reg_put_ne _ _ _ calTick).trans (Chip.reg_setReg ..))
  · exact (Chip.get_put_ne _ _ _ _ tickStat).trans (Chip.get_put _ _ tickOk _)
  · exact (((RegsBut.refl _ c).setReg (SL_CAL n) w List.mem_cons_self).put (SL_CALT_TICK n) _ (by simp [SL_CALT_TICK])).put (US_STAT_STEP n) 1
      (by simp [US_STAT_STEP])

theorem SL_CAL_read (n : Nat) (g o : BitVec 16) : (SL_CAL_GAIN n).read (g ++ o) = g.toNat ∧
    signed 16 ((SL_CAL_OFS n).read (g ++ o)) = o.toInt := by
  have whole : (g ++ o).toNat = g.toNat * 2 ^ 16 + o.toNat := by
    rw [BitVec.toNat_append, ← Nat.shiftLeft_add_eq_or_of_lt o.isLt, Nat.shiftLeft_eq]
  have high := g.isLt
  have low := o.isLt
  have gain : (SL_CAL_GAIN n).read (g ++ o) = (g ++ o).toNat / 2 ^ 16 % 2 ^ 16 := by
    rw [← Nat.shiftRight_eq_div_pow, ← BitVec.toNat_ushiftRight]
    rfl
  have ofs : (SL_CAL_OFS n).read (g ++ o) = (g ++ o).toNat % 2 ^ 16 := rfl
  have value : o.toInt = if o.toNat < 2 ^ 15 then (o.toNat : Int) else (o.toNat : Int) - 2 ^ 16 := by
    rw [BitVec.toInt_eq_toNat_cond]
    split <;> split <;> omega
  rw [gain, ofs, whole, value, signed]
  constructor
  · omega
  · rw [Nat.mul_add_mod_self_right, Nat.mod_eq_of_lt low]

theorem calibrationEnd_selfGain (turn : (s.chip.under d).target = some k.val) (due : s.chip.calDue d)
    (own : (s.chip.under d).selfCal = true) (second : (s.chip.under d).selfZero = true) :
    Completes (.calibrationEnd d v) s fun c =>
      c.get (SL_CAL_GAIN (underIx d)) = v.toNat ∧ c.gets (SL_CAL_OFS (underIx d)) = (s.chip.under d).zeroRead.toInt ∧
      c.get (SL_CALT_TICK (underIx d)) = s.chip.wall % 2 ^ 32 ∧ c.turnAt d = 1 ∧
      c.under d = { s.chip.under d with selfCal := false, left := 3 } ∧
      RegsBut [SL_CAL (underIx d), SL_CALT (underIx d), US_STAT (underIx d)] s.chip c ∧
      c = { s.chip with regs := c.regs, unders := c.unders } ∧ OneUnder d s.chip c := by
  have read : s.chip.selfCalEnd d v = (s.chip.selfCalStored d (v ++ (s.chip.under d).zeroRead)).setUnder d
      { s.chip.under d with selfCal := false, left := 3 } := if_neg (by simp [second])
  obtain ⟨gain, ofs⟩ := SL_CAL_read (underIx d) v (s.chip.under d).zeroRead
  obtain ⟨word, tick, step, regs, only⟩ := s.chip.selfCalStored_frame d (v ++ (s.chip.under d).zeroRead)
  generalize s.chip.selfCalStored d (v ++ (s.chip.under d).zeroRead) = b at read word tick step regs only
  have set := Only.setUnder b d { s.chip.under d with selfCal := false, left := 3 }
  have shown : (b.setUnder d { s.chip.under d with selfCal := false, left := 3 }).reg (SL_CAL (underIx d)) = v ++ (s.chip.under d).zeroRead :=
    (set.reg _ (by decide)).trans word
  refine calibrationEnd_row turn due ((if_pos own).trans read) ⟨?_, ?_, (set.get _).trans tick, (set.get _).trans step, Chip.under_setUnder ..,
    regs.of_regs (set.same .regs (by decide)), ((only.mono : Only [.regs, .unders] _ _).then set).eq, fun e he => ?_⟩
  · exact (congrArg (SL_CAL_GAIN (underIx d)).read shown).trans gain
  · exact (congrArg (fun w => signed 16 ((SL_CAL_OFS (underIx d)).read w)) shown).trans ofs
  · exact (Chip.under_setUnder_ne _ _ _ he).trans (only.under e (by decide))

end

end

end Sys2Proof.Machine

open Sys2Proof.Machine

/-- Settles O11: a failed check ends in the marks of a replacement or in a gap, and neither touches the bit it began with. -/
theorem understudies : Obligations.Understudies := by
  unfold Obligations.Understudies
  refine ⟨⟨?_, ?_, ?_⟩, ?_, ?_, ?_, ?_⟩
  · exact fun _ _ enabled armed going due => roundStart_queues enabled armed going due
  · exact fun _ _ _ _ _ next rests going armed due edge home _ => turnStart_begins next rests going armed due edge home
  · exact fun _ _ _ _ turn due => ⟨fun other step => calibrationEnd_zero turn due other step,
      fun other step undone zero gain => calibrationEnd_good turn due other step undone zero gain,
      fun other step undone bad => calibrationEnd_bad turn due other step undone bad,
      fun own first => calibrationEnd_selfZero turn due own first, fun own second => calibrationEnd_selfGain turn due own second⟩
  · exact fun _ _ _ runs works closed owned spare rests => sliceCheckFail_replaced runs works closed owned spare rests
  · exact fun _ _ _ runs works closed owned unspared => sliceCheckFail_gap runs works closed owned unspared
  · exact fun _ _ _ runs still none => sliceCheckFail_under runs still none
  · exact fun _ _ _ _ settling since past => understudySettleEnd_forces settling since past
end

section
-- One proof after the other: a side goal that `Only` settles by `decide` waits for the kernel, on a thread of its own.
set_option Elab.async false
/-! SUPPORT. What the end of a failed load does to the registers, the legs and the sensors (R78, R264, R267, R300, R309), and what a
start leaves of them (R297, R374). -/
namespace Sys2Proof.Machine

/-! ### Facts about the address map -/

/-- The registers in which the end of a load shows itself. -/
def stopShown : List Nat := [SYS_IMGSTAT, SYS_IMGAT, SYS_STATUS, SYS_BOOTT, LOG_STATUS]

/-- The registers of the legs' duties and of the monitors' states. -/
def dutyRegs : List Nat := (List.range 24).map LEG_DUTY

def monitorRegs : List Nat := (List.range 8).map WM_STAT

/-- The registers that the end of a load writes, beyond those that it resets. -/
def stopRegs : List Nat := stopShown ++ dutyRegs ++ monitorRegs ++ trimRegs

theorem stopShown_kept : ((stopShown ++ dutyRegs ++ monitorRegs).all fun a => !imageWritable a) = true := by decide +kernel

theorem dutyRegs_reset : ((dutyRegs ++ monitorRegs).all fun a => regReset a == 0) = true := by decide +kernel

theorem TMP_STAT_writable : ((List.range 17).all fun s =>
    imageWritable (TMP_STAT s) && (TMP_STAT_FAIL s).read (regReset (TMP_STAT s)) == 0) = true := by decide +kernel

theorem RNG_CFG_writable : imageWritable RNG_CFG = true ∧ RNG_CFG_EN.read (regReset RNG_CFG) = 0 := by decide +kernel

theorem trimRegs_apart : (trimRegs.all fun a => !(stopShown ++ dutyRegs ++ monitorRegs ++ (List.range 17).map TMP_STAT ++ [RNG_CFG]).contains a) =
    true := by decide +kernel

/-! ### What a load wrote is undone (R304, R309) -/

/-- Cells of other addresses than the filter's are as they were. -/
theorem cellsFind_filter {w : Nat} (keep : Nat → Bool) (m : Cells w) (a : Nat) :
    cellsFind (m.filter fun x => keep x.1) a = if keep a then cellsFind m a else none := by
  induction m with
  | nil => simp [cellsFind]
  | cons x m ih =>
    by_cases same : x.1 = a
    · subst same
      cases hk : keep x.1 <;> simp [cellsFind, hk, ih]
    · cases hk : keep x.1 <;> simp [cellsFind, hk, ih, same]

/-- The image-writable registers at their reset words. -/
def Chip.regsUndone (c : Chip) : Chip := { c with regs := c.regs.filter fun x => !imageWritable x.1 }

theorem Chip.regsUndone_reg (c : Chip) (a : Nat) : c.regsUndone.reg a = if imageWritable a then regReset a else c.reg a := by
  have found := cellsFind_filter (fun a => !imageWritable a) c.regs a
  unfold Chip.regsUndone Chip.reg cellsGet
  rw [found]
  cases imageWritable a <;> rfl

theorem Only.regsUndone (c : Chip) : Only [.regs] c c.regsUndone := .of_mix rfl

theorem Chip.undoLoad_eq (c : Chip) : c.undoLoad = c.regsUndone.wipe.setTrims.disarmMonitors := rfl

/-! ### The legs float (R78) -/

section
variable (c : Chip)

/-- A wiped leg. -/
def LegState.wiped (x : LegState) : LegState :=
  { x with
    nextOn := none, refreshReq := none, charging := false, duties := [], settings := []
    wantMode := .float, wantOn := 0, wantSlew := none }

/-- A leg in FLOAT with ON = 0. -/
def Chip.legFloats (l : Leg) : Chip := (c.setLegMode l .float).put (LEG_DUTY_ON l.val) 0

theorem Chip.legWipe_eq (l : Leg) : c.legWipe l = (c.legFloats l).setLeg l ((c.legFloats l).leg l).wiped := rfl

/-- What governs a leg lies in the collector and in three registers. -/
theorem Chip.legReact_of {b c : Chip} {regs : List Nat} (l : Leg) (faults : c.faults = b.faults) (same : RegsBut regs b c)
    (out : FE_STATUS (regionOf (axisOfLeg l)).val ∉ regs ∧ AX_COMCFG (axisOfLeg l).val ∉ regs ∧ BUS_STAT (regionOf (axisOfLeg l)).val ∉ regs) :
    c.legReact l = b.legReact l := by
  obtain ⟨fe, ax, bus⟩ := out
  unfold Chip.legReact Chip.curtain Chip.short Chip.reacted Chip.shutdownOn Chip.halted Chip.axisOn
  rw [faults, same.get (g := FE_STATUS_HALT (regionOf (axisOfLeg l)).val) fe,
    Chip.flag_of_get (same.get (g := AX_COMCFG_EN (axisOfLeg l).val) ax),
    Chip.flag_of_get (same.get (g := BUS_STAT_SHORT (regionOf (axisOfLeg l)).val) bus)]

end

section
variable (c : Chip) (l : Leg)

/-- The leg as the mode FLOAT leaves it before it obeys. -/
def Chip.floatTaken : Chip := (c.put (LEG_DUTY_MODE l.val) 0).setLeg l
  { c.leg l with refCount := 0, refresh := none, heldOn := none, pulse := none }

theorem Chip.setLegMode_float : c.setLegMode l .float = (c.floatTaken l).obeyLeg l := by
  unfold Chip.setLegMode
  rfl

/-- A leg in FLOAT that no line governs turns both gates off. -/
theorem Chip.setLegMode_float_leg (free : c.legReact l = 0) : (c.setLegMode l .float).leg l =
    { (((c.floatTaken l).leg l).turnOff (c.floatTaken l).now .high).turnOff (c.floatTaken l).now .low with waiting := none } := by
  have leg : (c.floatTaken l).leg l = { c.leg l with refCount := 0, refresh := none, heldOn := none, pulse := none } := Chip.leg_setLeg ..
  have mode : (c.floatTaken l).legMode l = 0 := by
    unfold Chip.legMode Chip.floatTaken
    rw [Chip.setLeg_get]
    exact Chip.get_put_fit _ _ _ rfl
  have still : (c.floatTaken l).legReact l = 0 := by
    refine Eq.trans ?_ free
    exact Chip.legReact_put (c := c) l (LEG_DUTY_MODE l.val) 0 (by simp only [LEG_DUTY_MODE, LEG_DUTY]; omega)
      (by simp only [LEG_DUTY_MODE, LEG_DUTY]; omega)
  have off : (c.floatTaken l).obeyLeg l = (c.floatTaken l).gates l none := by
    unfold Chip.obeyLeg
    dsimp only
    rw [still, mode, leg]
    dsimp only
    split
    next =>
      rw [if_neg (by simp)]
      split
      · rfl
      · rfl
    next line => exact absurd line (by decide)
    next line _ => exact absurd rfl line
  rw [Chip.setLegMode_float, off]
  exact Chip.leg_setLeg ..

/-- A leg in FLOAT that no line governs asks for neither gate. -/
theorem Chip.setLegMode_float_gates (free : c.legReact l = 0) :
    ((c.setLegMode l .float).leg l).ghCmd = false ∧ ((c.setLegMode l .float).leg l).glCmd = false := by
  rw [c.setLegMode_float_leg l free]
  generalize (c.floatTaken l).leg l = x
  generalize (c.floatTaken l).now = t
  exact ⟨(LegState.turnOff_other (x := x.turnOff t .high) (now := t) .low).1.trans (LegState.turnOff_off (x := x) (now := t) .high).1,
    (LegState.turnOff_off (x := x.turnOff t .high) (now := t) .low).1⟩

/-- What the wipe leaves of one leg. -/
structure LegWiped (l : Leg) (b c : Chip) : Prop where
  mode : c.legMode l = 0
  on : c.duty1 l = 0
  duties : (c.leg l).duties = []
  settings : (c.leg l).settings = []
  gates : b.legReact l = 0 → (c.leg l).ghCmd = false ∧ (c.leg l).glCmd = false

theorem Chip.legWipe_leg : (c.legWipe l).leg l = ((c.setLegMode l .float).leg l).wiped := by
  rw [Chip.legWipe_eq, Chip.leg_setLeg]
  rfl

theorem LegWiped.legWipe : LegWiped l c (c.legWipe l) := by
  have mode : (c.setLegMode l .float).get (LEG_DUTY_MODE l.val) = 0 := Chip.setLegMode_mode c l .float
  have leg := c.legWipe_leg l
  refine ⟨?_, ?_, (congrArg LegState.duties leg).trans rfl, (congrArg LegState.settings leg).trans rfl, fun free => ?_⟩
  · exact (Chip.setLeg_get ..).trans ((Chip.get_put_beside _ _ _ _ rfl).trans mode)
  · exact (Chip.setLeg_get ..).trans (Chip.get_put_fit _ _ _ rfl)
  · obtain ⟨high, low⟩ := c.setLegMode_float_gates l free
    exact ⟨(congrArg LegState.ghCmd leg).trans high, (congrArg LegState.glCmd leg).trans low⟩

theorem Chip.legWipe_frame : RegsBut [LEG_DUTY l.val] c (c.legWipe l) ∧ OneLeg l c (c.legWipe l) ∧ Only [.regs, .legs] c (c.legWipe l) := by
  have floats : RegsBut [LEG_DUTY l.val] c (c.setLegMode l .float) := by
    rw [Chip.setLegMode_float]
    exact (((RegsBut.refl _ c).put (LEG_DUTY_MODE l.val) 0 List.mem_cons_self).of_regs (Chip.setLeg_regs ..)).of_regs (Chip.obeyLeg_regs ..)
  refine ⟨(floats.put (LEG_DUTY_ON l.val) 0 List.mem_cons_self).of_regs (Chip.setLeg_regs ..), ?_, ?_⟩
  · have put : OneLeg l (c.setLegMode l .float) (c.legFloats l) := fun _ _ => rfl
    exact (OneLeg.trans (OneLeg.setLegMode c l .float) put).setLeg _
  · exact ((Only.setLegMode ..).then (.put ..)).then (.setLeg ..)

theorem Chip.reg_of_regs {b c : Chip} (h : c.regs = b.regs) (a : Nat) : c.reg a = b.reg a := by unfold Chip.reg; rw [h]

/-- A cleared field of a register that reads 0 leaves it so. -/
theorem Chip.reg_put_zero {f : Field} (zero : c.reg f.addr = 0) : (c.put f 0).reg f.addr = 0 := by
  rw [Chip.reg_put, zero]
  simp [Field.write]

theorem Chip.legWipe_zero (zero : c.reg (LEG_DUTY l.val) = 0) : (c.legWipe l).reg (LEG_DUTY l.val) = 0 := by
  have mode : (c.put (LEG_DUTY_MODE l.val) 0).reg (LEG_DUTY l.val) = 0 :=
    c.reg_put_zero (f := LEG_DUTY_MODE l.val) zero
  have taken : (c.setLegMode l .float).reg (LEG_DUTY l.val) = 0 := by
    rw [Chip.setLegMode_float]
    exact (Chip.reg_of_regs (Chip.obeyLeg_regs ..) _).trans ((Chip.reg_of_regs (Chip.setLeg_regs ..) _).trans mode)
  exact (Chip.reg_of_regs (Chip.setLeg_regs ..) _).trans (Chip.reg_put_zero _ (f := LEG_DUTY_ON l.val) taken)

end

section
variable {b c d : Chip} {l : Leg}

/-- What does not touch the leg and its duty leaves it wiped. -/
theorem LegWiped.kept (h : LegWiped l b c) (leg : d.leg l = c.leg l) (duty : d.reg (LEG_DUTY l.val) = c.reg (LEG_DUTY l.val)) :
    LegWiped l b d :=
  ⟨(congrArg (LEG_DUTY_MODE l.val).read duty).trans h.mode, (congrArg (LEG_DUTY_ON l.val).read duty).trans h.on,
    (congrArg LegState.duties leg).trans h.duties, (congrArg LegState.settings leg).trans h.settings,
    fun free => by rw [leg]; exact h.gates free⟩

theorem LegWiped.before (h : LegWiped l c d) (react : c.legReact l = b.legReact l) : LegWiped l b d :=
  ⟨h.mode, h.on, h.duties, h.settings, fun free => h.gates (react.trans free)⟩

end

theorem LEG_DUTY_mem (l : Leg) : LEG_DUTY l.val ∈ dutyRegs := List.mem_map.mpr ⟨l.val, List.mem_range.mpr l.isLt, rfl⟩

/-- No register that governs a leg shows the end of a load. -/
theorem governing_out : ∀ l : Leg, FE_STATUS (regionOf (axisOfLeg l)).val ∉ stopRegs ∧ AX_COMCFG (axisOfLeg l).val ∉ stopRegs ∧
    BUS_STAT (regionOf (axisOfLeg l)).val ∉ stopRegs := by decide +kernel

theorem dutyRegs_stop : dutyRegs ⊆ stopRegs := by
  intro x hx
  simp [stopRegs, hx]

theorem Chip.legReact_stopped {b c : Chip} (l : Leg) (faults : c.faults = b.faults) (same : RegsBut stopRegs b c) :
    c.legReact l = b.legReact l := Chip.legReact_of l faults same (governing_out l)

section
variable (c : Chip)

/-- Every leg wiped. -/
def Chip.legsWiped : Chip := c.each allLegs Chip.legWipe

theorem Chip.legWipes_frame (xs : List Leg) : RegsBut dutyRegs c (c.each xs Chip.legWipe) ∧ Only [.regs, .legs] c (c.each xs Chip.legWipe) :=
  ⟨Chip.each_keeps (P := RegsBut dutyRegs c) xs (.refl _ c) fun d hd l _ =>
      hd.trans ((d.legWipe_frame l).1.mono (by simpa using LEG_DUTY_mem l)),
    .each c xs fun d l _ => (d.legWipe_frame l).2.2⟩

theorem Chip.legWipes_leg (xs : List Leg) {l : Leg} (hl : l ∉ xs) : (c.each xs Chip.legWipe).leg l = c.leg l ∧
    (c.each xs Chip.legWipe).reg (LEG_DUTY l.val) = c.reg (LEG_DUTY l.val) := by
  have other {d : Chip} {k : Leg} (hk : k ∈ xs) : (d.legWipe k).leg l = d.leg l ∧ (d.legWipe k).reg (LEG_DUTY l.val) = d.reg (LEG_DUTY l.val) := by
    obtain ⟨regs, legs, -⟩ := d.legWipe_frame k
    have apart : l ≠ k := fun eq => hl (eq ▸ hk)
    refine ⟨legs l apart, regs _ fun h => apart (Fin.ext ?_)⟩
    have := List.mem_singleton.mp h
    simp only [LEG_DUTY] at this
    omega
  exact Chip.each_keeps (P := fun d => d.leg l = c.leg l ∧ d.reg (LEG_DUTY l.val) = c.reg (LEG_DUTY l.val)) xs ⟨rfl, rfl⟩
    fun d hd k hk => ⟨(other hk).1.trans hd.1, (other hk).2.trans hd.2⟩

theorem LegWiped.legsWiped (l : Leg) : LegWiped l c c.legsWiped := by
  obtain ⟨before, after, -, beyond, -, -, split⟩ := c.each_split Chip.legWipe (List.nodup_finRange 24) (List.mem_finRange l)
  obtain ⟨regs, only⟩ := c.legWipes_frame before
  obtain ⟨leg, duty⟩ := ((c.each before Chip.legWipe).legWipe l).legWipes_leg after beyond
  have react := Chip.legReact_stopped l (only.same .faults (by decide)) (regs.mono dutyRegs_stop)
  unfold Chip.legsWiped
  rw [show c.each allLegs Chip.legWipe = _ from split]
  exact ((LegWiped.legWipe _ l).kept leg duty).before react

theorem Chip.legsWiped_zero {a : Nat} (ha : a ∈ dutyRegs) (zero : c.reg a = 0) : c.legsWiped.reg a = 0 := by
  refine Chip.each_keeps (P := fun d => d.reg a = 0) _ zero fun d hd l _ => ?_
  by_cases own : a = LEG_DUTY l.val
  · subst own
    exact d.legWipe_zero l hd
  · exact ((d.legWipe_frame l).1 a (by simpa using own)).trans hd

/-! ### The memories of R300 -/

/-- The memories that a load has filled, emptied. -/
def Chip.memoriesWiped : Chip := { c with
  cues := { c.cues with sheet := [], disarmed := [] }
  axes := Vector.replicate 8 {}
  engines := Vector.replicate 2 none
  load := { c.load with fail := none, cueSeen := false, hold := 0, sect := 0, due := 0, retries := 0 } }

theorem Chip.wipe_eq : c.wipe = c.legsWiped.memoriesWiped := rfl

theorem Only.memoriesWiped : Only [.cues, .axes, .engines, .load] c c.memoriesWiped := .of_mix rfl

theorem Chip.wipe_frame : RegsBut dutyRegs c c.wipe ∧ Only [.regs, .legs, .cues, .axes, .engines, .load] c c.wipe := by
  obtain ⟨regs, only⟩ := c.legWipes_frame allLegs
  have wiped := Only.memoriesWiped c.legsWiped
  exact ⟨regs.of_regs (wiped.same .regs (by decide)), (only.mono : Only [.regs, .legs, .cues, .axes, .engines, .load] _ _).then wiped⟩

theorem Chip.setTrims_frame : RegsBut trimRegs c c.setTrims ∧ Only [.regs] c c.setTrims :=
  ⟨Chip.each_keeps (P := RegsBut trimRegs c) _ (.refl _ c) fun _ hd x hx => hd.setReg x.1 x.2 (List.of_mem_zip hx).1,
    .each c _ fun _ _ _ => .setReg ..⟩

/-! ### The monitors unarmed (R267) -/

/-- One monitor unarmed. -/
def Chip.disarmMonitor (m : Fin 8) : Chip :=
  (c.put (WM_STAT_ARMED m.val) 0).setWm m { above := (c.wm m).above, below := (c.wm m).below }

theorem Chip.disarmMonitors_eq : c.disarmMonitors = c.each (List.finRange 8) Chip.disarmMonitor := rfl

theorem WM_STAT_mem (m : Fin 8) : WM_STAT m.val ∈ monitorRegs := List.mem_map.mpr ⟨m.val, List.mem_range.mpr m.isLt, rfl⟩

theorem Chip.disarmMonitor_frame (m : Fin 8) : RegsBut [WM_STAT m.val] c (c.disarmMonitor m) ∧ Only [.regs, .wms] c (c.disarmMonitor m) :=
  ⟨((RegsBut.refl _ c).put (WM_STAT_ARMED m.val) 0 List.mem_cons_self).of_regs (Chip.setWm_regs ..), (Only.mono (.put ..)).then (.setWm ..)⟩

theorem Chip.disarmMonitors_frame : RegsBut monitorRegs c c.disarmMonitors ∧ Only [.regs, .wms] c c.disarmMonitors ∧
    (∀ m : Fin 8, c.disarmMonitors.flag (WM_STAT_ARMED m.val) = false) ∧
    (∀ a ∈ monitorRegs, c.reg a = 0 → c.disarmMonitors.reg a = 0) := by
  have field (d : Chip) (m : Fin 8) : (d.disarmMonitor m).get (WM_STAT_ARMED m.val) = 0 := (Chip.setWm_get ..).trans (Chip.get_put_fit _ _ _ rfl)
  have beside (d : Chip) {m n : Fin 8} (h : WM_STAT m.val ≠ WM_STAT n.val) : (d.disarmMonitor n).get (WM_STAT_ARMED m.val) = d.get (WM_STAT_ARMED m.val) :=
    (d.disarmMonitor_frame n).1.get (g := WM_STAT_ARMED m.val) (by simpa [WM_STAT_ARMED] using h)
  rw [Chip.disarmMonitors_eq]
  refine ⟨Chip.each_keeps (P := RegsBut monitorRegs c) _ (.refl _ c) fun d hd m _ => hd.trans ((d.disarmMonitor_frame m).1.mono (by simpa using WM_STAT_mem m)),
    .each c _ fun d m _ => (d.disarmMonitor_frame m).2, fun m => ?_, fun a _ zero => ?_⟩
  · obtain ⟨before, after, -, -, -, -, split⟩ := c.each_split Chip.disarmMonitor (List.nodup_finRange 8) (List.mem_finRange m)
    have kept : ((((c.each before Chip.disarmMonitor).disarmMonitor m).each after Chip.disarmMonitor).get (WM_STAT_ARMED m.val)) = 0 := by
      refine Chip.each_keeps (P := fun d => d.get (WM_STAT_ARMED m.val) = 0) after (field ..) fun d hd n _ => ?_
      by_cases own : WM_STAT m.val = WM_STAT n.val
      · have : m = n := Fin.ext (by simp only [WM_STAT] at own; omega)
        subst this
        exact field d m
      · exact (beside d own).trans hd
    rw [split]
    unfold Chip.flag
    rw [kept]
    rfl
  · refine Chip.each_keeps (P := fun d => d.reg a = 0) _ zero fun d hd m _ => ?_
    by_cases own : a = WM_STAT m.val
    · subst own
      exact (Chip.reg_of_regs (Chip.setWm_regs ..) _).trans (d.reg_put_zero (f := WM_STAT_ARMED m.val) hd)
    · exact ((d.disarmMonitor_frame m).1 a (by simpa using own)).trans hd

end

/-! ### What a load wrote, undone -/

/-- The registers that undoing a load writes, beyond those that it resets. -/
def undoneRegs : List Nat := dutyRegs ++ monitorRegs ++ trimRegs

theorem undoneRegs_stop : undoneRegs ⊆ stopRegs := fun x hx => by
  simp only [undoneRegs, stopRegs, List.mem_append] at hx ⊢
  tauto

/-- The load's effects are undone in `c`, which before held `b`. -/
structure LoadUndone (b c : Chip) : Prop where
  regs : RegsBut undoneRegs b.regsUndone c
  legs : ∀ l, LegWiped l b.regsUndone c
  sheet : c.cues.sheet = []
  axes : c.axes = Vector.replicate 8 {}
  engines : c.engines = Vector.replicate 2 none
  monitors : ∀ m : Fin 8, c.flag (WM_STAT_ARMED m.val) = false
  since : c.load.since = b.load.since
  zero : ∀ a ∈ dutyRegs ++ monitorRegs, b.reg a = 0 → c.reg a = 0
  only : Only [.regs, .legs, .cues, .axes, .engines, .load, .wms] b c

section
variable (c : Chip)

theorem stopShown_not_writable {a : Nat} (ha : a ∈ stopShown ++ dutyRegs ++ monitorRegs) : imageWritable a = false := by
  simpa using List.all_eq_true.mp stopShown_kept a ha

theorem Chip.regsUndone_kept {a : Nat} (ha : imageWritable a = false) : c.regsUndone.reg a = c.reg a := by
  rw [Chip.regsUndone_reg, ha]
  rfl

theorem Chip.memoriesWiped_since : c.memoriesWiped.load.since = c.load.since := rfl

theorem trimRegs_out {a : Nat} (ha : a ∈ stopShown ++ dutyRegs ++ monitorRegs ++ (List.range 17).map TMP_STAT ++ [RNG_CFG]) : a ∉ trimRegs := by
  intro trim
  have apart := List.all_eq_true.mp trimRegs_apart a trim
  simp only [Bool.not_eq_true', List.contains_eq_mem, decide_eq_false_iff_not] at apart
  exact apart ha

theorem dutyRegs_not_monitors : ∀ a ∈ dutyRegs, a ∉ monitorRegs := by decide +kernel

/-- The legs and the cue sheet of an undone load are those of the wipe. -/
theorem Chip.undoLoad_wiped : (∀ l, c.undoLoad.leg l = c.regsUndone.legsWiped.leg l) ∧
    c.undoLoad.cues = { c.cues with sheet := [], disarmed := [] } := by
  obtain ⟨-, trims⟩ := c.regsUndone.wipe.setTrims_frame
  obtain ⟨-, disarmed, -⟩ := c.regsUndone.wipe.setTrims.disarmMonitors_frame
  have memories := Only.memoriesWiped c.regsUndone.legsWiped
  refine ⟨fun l => (disarmed.leg l (by decide)).trans ((trims.leg l (by decide)).trans (memories.leg l (by decide))), ?_⟩
  have after : c.undoLoad.cues = c.regsUndone.wipe.cues := ((trims.mono : Only [.regs, .wms] _ _).then disarmed).same .cues (by decide)
  have undone : Only [.regs, .legs] c c.regsUndone := (Only.regsUndone c).mono
  have wiped : Only [.regs, .legs] c.regsUndone c.regsUndone.legsWiped := (c.regsUndone.legWipes_frame allLegs).2
  have legs : c.regsUndone.legsWiped.cues = c.cues := (undone.trans wiped).same .cues (by decide)
  rw [after, Chip.wipe_eq, ← legs]
  rfl

theorem LoadUndone.undoLoad : LoadUndone c c.undoLoad := by
  have undone := Only.regsUndone c
  obtain ⟨wipeRegs, wiped⟩ := c.regsUndone.wipe_frame
  obtain ⟨trimmed, trims⟩ := c.regsUndone.wipe.setTrims_frame
  obtain ⟨monitors, disarmed, unarmed, zeroes⟩ := c.regsUndone.wipe.setTrims.disarmMonitors_frame
  have memories := Only.memoriesWiped c.regsUndone.legsWiped
  have duty {a : Nat} (ha : a ∈ dutyRegs) : c.undoLoad.reg a = c.regsUndone.legsWiped.reg a := by
    have trim : a ∉ trimRegs := trimRegs_out (by simp [ha])
    exact (monitors a (dutyRegs_not_monitors a ha)).trans ((trimmed a trim).trans (memories.reg a (by decide)))
  have leg := c.undoLoad_wiped.1
  have after : Only [.regs, .wms] c.regsUndone.wipe c.undoLoad := (trims.mono : Only [.regs, .wms] _ _).then disarmed
  refine ⟨?_, fun l => ?_, ?_, ?_, ?_, unarmed, ?_, fun a ha zero => ?_, ?_⟩
  · exact ((wipeRegs.mono fun x hx => by simp [undoneRegs, hx]).trans (trimmed.mono fun x hx => by simp [undoneRegs, hx])).trans
      (monitors.mono fun x hx => by simp [undoneRegs, hx])
  · exact (LegWiped.legsWiped c.regsUndone l).kept (leg l) (duty (LEG_DUTY_mem l))
  · exact congrArg CueState.sheet c.undoLoad_wiped.2
  · have same : c.undoLoad.axes = c.regsUndone.wipe.axes := after.same .axes (by decide)
    rw [same]
    rfl
  · have same : c.undoLoad.engines = c.regsUndone.wipe.engines := after.same .engines (by decide)
    rw [same]
    rfl
  · have same : c.undoLoad.load = c.regsUndone.wipe.load := after.same .load (by decide)
    have legs : c.regsUndone.legsWiped.load = c.load := ((c.regsUndone.legWipes_frame allLegs).2.same .load (by decide))
    rw [same, Chip.wipe_eq, Chip.memoriesWiped_since, legs]
  · have kept : c.regsUndone.reg a = 0 := (c.regsUndone_kept (stopShown_not_writable (by simp at ha ⊢; tauto))).trans zero
    by_cases isDuty : a ∈ dutyRegs
    · exact (duty isDuty).trans (c.regsUndone.legsWiped_zero isDuty kept)
    · have isMonitor : a ∈ monitorRegs := by simpa [isDuty] using ha
      exact zeroes a isMonitor ((trimmed a (trimRegs_out (by simp [isMonitor]))).trans ((wipeRegs a isDuty).trans kept))
  · exact (((undone.mono : Only [.regs, .legs, .cues, .axes, .engines, .load, .wms] _ _).then wiped).then trims).then disarmed

end

/-! ### The entry into HOUSE with no sensor failed and no range link (R264, R298, R334) -/

section
variable (c : Chip)

/-- No sensor is failed, and the range link is off. -/
structure HouseQuiet (c : Chip) : Prop where
  sensors : ∀ i : Sensor, c.flag (TMP_STAT_FAIL i.val) = false
  range : c.flag RNG_CFG_EN = false

theorem HouseQuiet.of_regs {b c : Chip} (h : HouseQuiet b) (sensors : ∀ i : Sensor, c.reg (TMP_STAT i.val) = b.reg (TMP_STAT i.val))
    (range : c.reg RNG_CFG = b.reg RNG_CFG) : HouseQuiet c :=
  ⟨fun i => (congrArg (fun w => (TMP_STAT_FAIL i.val).read w != 0) (sensors i)).trans (h.sensors i),
    (congrArg (fun w => RNG_CFG_EN.read w != 0) range).trans h.range⟩

/-- One sensor has had no valid reading. -/
def Chip.sensorRested (i : Sensor) : Chip := c.setSensor i { c.sensor i with lastValid := none }

/-- What an entry into HOUSE makes of one sensor. -/
def Chip.sensorAnew (i : Sensor) : Chip :=
  if (c.sensorRested i).sensorOn i && (c.sensorRested i).flag (TMP_STAT_FAIL i.val) then (c.sensorRested i).sensorJudged i false
  else c.sensorRested i

theorem Chip.sensorsAnew_eq : c.sensorsAnew = c.each allSensors Chip.sensorAnew := rfl

theorem Chip.sensorAnew_rests {i : Sensor} (quiet : c.flag (TMP_STAT_FAIL i.val) = false) : c.sensorAnew i = c.sensorRested i := by
  have rested : Only [.sensors] c (c.sensorRested i) := .setSensor ..
  have flag : (c.sensorRested i).flag (TMP_STAT_FAIL i.val) = false := (Chip.flag_of_get (rested.get _)).trans quiet
  unfold Chip.sensorAnew
  rw [flag, Bool.and_false]
  rfl

theorem Chip.sensorsAnew_frame (quiet : ∀ i : Sensor, c.flag (TMP_STAT_FAIL i.val) = false) :
    Only [.sensors] c c.sensorsAnew ∧ ∀ i, (c.sensorsAnew.sensor i).lastValid = none := by
  have rests {d : Chip} (hd : Only [.sensors] c d) (i : Sensor) : d.sensorAnew i = d.sensorRested i :=
    d.sensorAnew_rests ((Chip.flag_of_get (hd.get _)).trans (quiet i))
  have steps {d : Chip} (hd : Only [.sensors] c d) (xs : List Sensor) : Only [.sensors] c (d.each xs Chip.sensorAnew) :=
    Chip.each_keeps (P := Only [.sensors] c) xs hd fun e he i _ => rests he i ▸ he.then (.setSensor ..)
  refine ⟨steps (.refl _ c) _, fun i => ?_⟩
  obtain ⟨before, after, -, -, -, -, split⟩ := c.each_split Chip.sensorAnew (List.nodup_finRange 17) (List.mem_finRange i)
  have first := steps (.refl _ c) before
  have own {d : Chip} : ((d.sensorRested i).sensor i).lastValid = none := congrArg TsState.lastValid (Chip.sensor_setSensor ..)
  have now : Only [.sensors] c ((c.each before Chip.sensorAnew).sensorAnew i) ∧
      (((c.each before Chip.sensorAnew).sensorAnew i).sensor i).lastValid = none := by
    rw [rests first i]
    exact ⟨first.then (.setSensor ..), own⟩
  have kept := Chip.each_keeps (P := fun d => Only [.sensors] c d ∧ (d.sensor i).lastValid = none) (f := Chip.sensorAnew) after now
    fun d hd j _ => by
      rw [rests hd.1 j]
      refine ⟨hd.1.then (.setSensor ..), ?_⟩
      by_cases same : i = j
      · subst same
        exact own
      · exact (congrArg TsState.lastValid (Chip.sensor_setSensor_ne _ _ _ same)).trans hd.2
  rw [Chip.sensorsAnew_eq, show c.each allSensors Chip.sensorAnew = _ from split]
  exact kept.2

/-- Marks, rounds and sensors anew. -/
theorem Chip.enterHouse_frame (quiet : HouseQuiet c) : Only [.sensors, .hkSettle, .houseTick] c c.enterHouse ∧
    (∀ i, (c.enterHouse.sensor i).lastValid = none) ∧ c.enterHouse.houseTick = c.now := by
  obtain ⟨only, none⟩ := c.sensorsAnew_frame quiet.sensors
  have anew : Only [.hkSettle, .houseTick] c.sensorsAnew c.houseAnew := .of_mix rfl
  have all : Only [.sensors, .hkSettle, .houseTick] c c.houseAnew := (only.mono : Only [.sensors, .hkSettle, .houseTick] _ _).then anew
  have still : c.houseAnew.shutdownActs c = c.houseAnew :=
    Chip.shutdownActs_same (congrArg FaultState.shutdown (all.same .faults (by decide)))
  have off : c.houseAnew.rngOn = false := by
    unfold Chip.rngOn
    rw [Chip.flag_of_get (all.get RNG_CFG_EN), quiet.range]
    rfl
  have range : c.houseAnew.rngHouse = c.houseAnew := by
    unfold Chip.rngHouse
    rw [off]
    rfl
  have whole : c.enterHouse = c.houseAnew := by
    unfold Chip.enterHouse
    rw [still, range]
  rw [whole]
  exact ⟨all, none, rfl⟩

/-- The record of an unannounced end. -/
def Chip.lossLogged : Chip :=
  match c.nvc.loss with
  | none => c
  | some (boot, t) => { (c.put LOG_STATUS_LOSS 1).logArise 2 boot t 0 with
      nvc := { ((c.put LOG_STATUS_LOSS 1).logArise 2 boot t 0).nvc with loss := none } }

theorem Chip.startRecords_eq : c.startRecords =
    c.lossLogged.logArise 1 (c.lossLogged.reg SYS_IMGSTAT) (c.lossLogged.reg SYS_IMGID) (c.lossLogged.reg SYS_STATUS) := rfl

theorem Chip.startRecords_frame : RegsBut [LOG_STATUS] c c.startRecords ∧ Only [.regs, .fresh, .nvc] c c.startRecords := by
  have loss : RegsBut [LOG_STATUS] c c.lossLogged ∧ Only [.regs, .fresh, .nvc] c c.lossLogged := by
    unfold Chip.lossLogged
    split
    · exact ⟨.refl _ c, .refl _ c⟩
    next boot t _ =>
      have put := (RegsBut.refl [LOG_STATUS] c).put LOG_STATUS_LOSS 1 List.mem_cons_self
      have arisen := Chip.logArise_regsBut (c.put LOG_STATUS_LOSS 1) 2 boot t 0
      have only : Only [.regs, .fresh, .nvc] c ((c.put LOG_STATUS_LOSS 1).logArise 2 boot t 0) := (Only.mono (.put ..)).then (.logArise ..)
      generalize (c.put LOG_STATUS_LOSS 1).logArise 2 boot t 0 = d at arisen only
      exact ⟨(put.trans arisen).of_regs rfl, only.then (m := [.nvc]) (.of_mix rfl)⟩
  rw [Chip.startRecords_eq]
  generalize c.lossLogged = d at loss
  exact ⟨loss.1.trans (Chip.logArise_regsBut d _ _ _ _), loss.2.trans (.logArise ..)⟩

/-- The loader has ended. -/
def Chip.loadDone : Chip :=
  { c with load := { c.load with stage := .done, header := none, cur := none, bytes := [], body := [] } }

/-- HOUSE is shown, with the time that the sequence took (R298). -/
def Chip.houseShown (t : Nat) : Chip := ((c.put SYS_STATUS_PSTATE 1).put SYS_STATUS_BOOT 0).put SYS_BOOTT_TICKS t

theorem Chip.intoHouse_eq : c.intoHouse = (c.loadDone.houseShown (c.now - c.load.since)).enterHouse.startRecords := rfl

/-- The fields that an entry into HOUSE sets, but for those of LOG_STATUS. -/
def houseFields : List Field := [SYS_STATUS_PSTATE, SYS_STATUS_BOOT, SYS_BOOTT_TICKS]

/-- The part has entered HOUSE at the end of its sequence. -/
structure HouseEntered (b c : Chip) : Prop where
  house : c.get SYS_STATUS_PSTATE = 1
  awake : c.get SYS_STATUS_BOOT = 0
  ticks : c.get SYS_BOOTT_TICKS = (b.now - b.load.since) % (SYS_BOOTT_TICKS.top + 1)
  stage : c.load.stage = .done
  since : c.load.since = b.load.since
  sensors : ∀ i, (c.sensor i).lastValid = none
  tick : c.houseTick = b.now
  regs : RegsBut [SYS_STATUS, SYS_BOOTT, LOG_STATUS] b c
  fields : ∀ g : Field, g.ok → g.addr ≠ LOG_STATUS → (∀ f ∈ houseFields, g.apart f) → c.get g = b.get g
  only : Only [.regs, .fresh, .nvc, .sensors, .hkSettle, .houseTick, .load] b c

theorem Chip.houseShown_frame (t : Nat) : (c.houseShown t).get SYS_STATUS_PSTATE = 1 ∧ (c.houseShown t).get SYS_STATUS_BOOT = 0 ∧
    (c.houseShown t).get SYS_BOOTT_TICKS = t % (SYS_BOOTT_TICKS.top + 1) ∧
    RegsBut [SYS_STATUS, SYS_BOOTT] c (c.houseShown t) ∧ FieldsBut houseFields c (c.houseShown t) ∧ Only [.regs] c (c.houseShown t) := by
  have ok : SYS_BOOTT_TICKS.ok := Field.ok_of _ rfl
  refine ⟨?_, ?_, Chip.get_put_top _ _ ok _, ?_, ?_, ((Only.put ..).trans (.put ..)).trans (.put ..)⟩
  · exact (Chip.get_put_ne _ _ _ _ (by decide)).trans ((Chip.get_put_beside _ _ _ _ rfl).trans (Chip.get_put_fit _ _ _ rfl))
  · exact (Chip.get_put_ne _ _ _ _ (by decide)).trans (Chip.get_put_fit _ _ _ rfl)
  · exact (((RegsBut.refl _ c).put SYS_STATUS_PSTATE 1 (by decide)).put SYS_STATUS_BOOT 0 (by decide)).put SYS_BOOTT_TICKS t (by decide)
  · exact (((FieldsBut.refl _ c).put SYS_STATUS_PSTATE 1 (Field.ok_of _ rfl) (by simp [houseFields])).put SYS_STATUS_BOOT 0 (Field.ok_of _ rfl)
      (by simp [houseFields])).put SYS_BOOTT_TICKS t ok (by simp [houseFields])

theorem HouseEntered.intoHouse (quiet : HouseQuiet c) : HouseEntered c c.intoHouse := by
  have done : Only [.load] c c.loadDone := .of_mix rfl
  have stage : c.loadDone.load.stage = .done := rfl
  have now : c.loadDone.now = c.now := rfl
  have since : c.loadDone.load.since = c.load.since := rfl
  rw [Chip.intoHouse_eq]
  generalize c.loadDone = d at done stage now since
  obtain ⟨house, awake, ticks, shownRegs, shownFields, shown⟩ := d.houseShown_frame (c.now - c.load.since)
  have sysOut (i : Sensor) : TMP_STAT i.val ∉ [SYS_STATUS, SYS_BOOTT] := by
    simp only [TMP_STAT, SYS_STATUS, SYS_BOOTT, List.mem_cons, List.not_mem_nil, or_false]
    omega
  have quietStill : HouseQuiet (d.houseShown (c.now - c.load.since)) :=
    quiet.of_regs (fun i => (shownRegs _ (sysOut i)).trans (done.reg _ (by decide))) ((shownRegs _ (by decide)).trans (done.reg _ (by decide)))
  generalize d.houseShown (c.now - c.load.since) = e at house awake ticks shownRegs shownFields shown quietStill
  obtain ⟨entered, rested, tick⟩ := e.enterHouse_frame quietStill
  generalize e.enterHouse = g at entered rested tick
  obtain ⟨records, kept⟩ := g.startRecords_frame
  have get {f : Field} (hf : f.addr ≠ LOG_STATUS) : g.startRecords.get f = e.get f :=
    (records.get (by simpa using hf)).trans (entered.get f)
  have nowToo : e.now = d.now := shown.same .now (by decide)
  have stageToo : g.startRecords.load = d.load :=
    Eq.trans (b := g.load) (kept.same .load (by decide)) (Eq.trans (b := e.load) (entered.same .load (by decide)) (shown.same .load (by decide)))
  have tickToo : g.startRecords.houseTick = g.houseTick := kept.same .houseTick (by decide)
  refine ⟨(get (by decide)).trans house, (get (by decide)).trans awake, (get (by decide)).trans ticks,
    (congrArg LoadState.stage stageToo).trans stage, (congrArg LoadState.since stageToo).trans since, fun i => ?_, ?_, ?_, fun f ok out apart => ?_, ?_⟩
  · exact (congrArg TsState.lastValid (kept.sensor i (by decide))).trans (rested i)
  · rw [tickToo, tick, nowToo, now]
  · have first : RegsBut [SYS_STATUS, SYS_BOOTT, LOG_STATUS] c e :=
      ((RegsBut.refl _ c).of_regs (done.same .regs (by decide))).trans (shownRegs.mono (by simp))
    exact (first.of_regs (entered.same .regs (by decide))).trans (records.mono (by simp))
  · exact (get out).trans ((shownFields f ok apart).trans (done.get f))
  · exact ((((done.mono : Only [.regs, .fresh, .nvc, .sensors, .hkSettle, .houseTick, .load] _ _).then shown).then entered)).then kept

end

/-! ### A stopped load (R309) -/

section
variable (c : Chip) (cause : Nat) (r : Reason) (at' : Nat)

/-- The word of SYS_IMGSTAT for a stop. -/
def stopFields (c : Chip) (cause : Nat) (r : Reason) : List (Field × Nat) :=
  [(SYS_IMGSTAT_CAUSE, cause), (SYS_IMGSTAT_REASON, r.toNat), (SYS_IMGSTAT_SECT, if cause = 5 ∨ cause = 7 then 0 else c.load.sect)]

/-- What failed is named. -/
def Chip.stopNamed : Chip := (c.setReg SYS_IMGSTAT (packFields (stopFields c cause r))).put SYS_IMGAT_AT at'

theorem Chip.stopLoad_eq : c.stopLoad cause r at' = (c.stopNamed cause r at').undoLoad.intoHouse := rfl

theorem Chip.stopNamed_frame (small : cause < 16) : (c.stopNamed cause r at').get SYS_IMGSTAT_CAUSE = cause ∧
    (c.stopNamed cause r at').get SYS_IMGSTAT_REASON = r.toNat ∧
    (c.stopNamed cause r at').get SYS_IMGSTAT_SECT = (if cause = 5 ∨ cause = 7 then 0 else c.load.sect % 512) ∧
    (c.stopNamed cause r at').get SYS_IMGAT_AT = at' % 2 ^ 24 ∧
    RegsBut [SYS_IMGSTAT, SYS_IMGAT] c (c.stopNamed cause r at') ∧ Only [.regs] c (c.stopNamed cause r at') := by
  have ok : SYS_IMGAT_AT.ok := Field.ok_of _ rfl
  have reason := r.toNat_lt
  have packed {f : Field} {v : Nat} (home : f.addr = SYS_IMGSTAT) (mem : (f, v) ∈ stopFields c cause r) :
      (c.stopNamed cause r at').get f = v % 2 ^ (f.hi + 1 - f.lo) := by
    have other : f.addr ≠ SYS_IMGAT_AT.addr := by rw [home]; decide
    have word : (c.setReg SYS_IMGSTAT (packFields (stopFields c cause r))).get f = f.read (packFields (stopFields c cause r)) := by
      unfold Chip.get
      rw [home, Chip.reg_setReg]
    exact (Chip.get_put_ne _ _ _ _ other).trans (word.trans (Field.read_packFields_mod rfl mem))
  refine ⟨?_, ?_, ?_, Chip.get_put _ _ ok _, ?_, (Only.setReg ..).trans (.put ..)⟩
  · exact (packed rfl (by simp [stopFields])).trans (Nat.mod_eq_of_lt small)
  · exact (packed rfl (v := r.toNat) (by simp [stopFields])).trans (Nat.mod_eq_of_lt reason)
  · refine (packed rfl (v := if cause = 5 ∨ cause = 7 then 0 else c.load.sect) (by simp [stopFields])).trans ?_
    split
    · rfl
    · rfl
  · exact ((RegsBut.refl _ c).setReg SYS_IMGSTAT _ List.mem_cons_self).put SYS_IMGAT_AT at' (by decide)

theorem TMP_STAT_not_undone : ∀ i : Sensor, TMP_STAT i.val ∉ undoneRegs := by decide +kernel

theorem RNG_CFG_not_undone : RNG_CFG ∉ undoneRegs := by decide +kernel

/-- What a load wrote held no sensor failed and no range link open. -/
theorem LoadUndone.quiet {b c : Chip} (h : LoadUndone b c) : HouseQuiet c := by
  have sensor (i : Sensor) : imageWritable (TMP_STAT i.val) = true ∧ (TMP_STAT_FAIL i.val).read (regReset (TMP_STAT i.val)) = 0 := by
    simpa using List.all_eq_true.mp TMP_STAT_writable i.val (List.mem_range.mpr i.isLt)
  have reset {a : Nat} (wr : imageWritable a = true) (out : a ∉ undoneRegs) : c.reg a = regReset a := by
    rw [h.regs a out, Chip.regsUndone_reg, if_pos wr]
  obtain ⟨range, off⟩ := RNG_CFG_writable
  refine ⟨fun i => ?_, ?_⟩
  · obtain ⟨wr, clear⟩ := sensor i
    unfold Chip.flag Chip.get
    rw [show (TMP_STAT_FAIL i.val).addr = TMP_STAT i.val from rfl, reset wr (TMP_STAT_not_undone i), clear]
    rfl
  · unfold Chip.flag Chip.get
    rw [show RNG_CFG_EN.addr = RNG_CFG from rfl, reset range RNG_CFG_not_undone, off]
    rfl

/-- What the end of a load leaves. -/
structure LoadEnded (b c : Chip) : Prop where
  regs : ∀ a, imageWritable a = false → a ∉ stopRegs → c.reg a = b.reg a
  status : ∀ g : Field, g.ok → g.addr = SYS_STATUS → g.apart SYS_STATUS_PSTATE → g.apart SYS_STATUS_BOOT → c.get g = b.get g
  reset : ∀ a, a ∉ trimRegs → a ∉ stopShown → b.reg a = regReset a → c.reg a = regReset a
  faults : c.faults = b.faults
  since : c.load.since = b.load.since

theorem stopShown_not_undone : ∀ a ∈ stopShown, a ∉ undoneRegs := by decide +kernel

theorem undoneRegs_writable {a : Nat} (ha : a ∈ undoneRegs) (trim : a ∉ trimRegs) : imageWritable a = false ∧ a ∈ dutyRegs ++ monitorRegs := by
  have mem : a ∈ dutyRegs ++ monitorRegs := by simpa [undoneRegs, trim] using ha
  exact ⟨stopShown_not_writable (by simp only [List.mem_append] at mem ⊢; tauto), mem⟩

theorem dutyRegs_reset_zero {a : Nat} (ha : a ∈ dutyRegs ++ monitorRegs) : regReset a = 0 := by
  simpa using List.all_eq_true.mp dutyRegs_reset a ha

/-- A register outside those that show the end reads what it did, or its reset word. -/
theorem LoadUndone.reset {b c : Chip} (h : LoadUndone b c) {a : Nat} (trim : a ∉ trimRegs) (was : b.reg a = regReset a) :
    c.reg a = regReset a := by
  by_cases undone : a ∈ undoneRegs
  · obtain ⟨-, mem⟩ := undoneRegs_writable undone trim
    rw [dutyRegs_reset_zero mem] at was ⊢
    exact h.zero a mem was
  · rw [h.regs a undone, Chip.regsUndone_reg, was, ite_self]

theorem LoadUndone.writable {b c : Chip} (h : LoadUndone b c) {a : Nat} (trim : a ∉ trimRegs) (wr : imageWritable a = true) :
    c.reg a = regReset a := by
  have out : a ∉ undoneRegs := fun mem => by
    have := (undoneRegs_writable mem trim).1
    rw [wr] at this
    exact absurd this (by decide)
  rw [h.regs a out, Chip.regsUndone_reg, if_pos wr]

theorem houseRegs_stop : ∀ a ∈ [SYS_STATUS, SYS_BOOTT, LOG_STATUS], a ∈ stopShown := by decide

theorem namedRegs_stop : ∀ a ∈ [SYS_IMGSTAT, SYS_IMGAT], a ∈ stopShown := by decide

theorem LoadEnded.stopLoad : LoadEnded c (c.stopLoad cause r at') := by
  have named : RegsBut [SYS_IMGSTAT, SYS_IMGAT] c (c.stopNamed cause r at') ∧ Only [.regs] c (c.stopNamed cause r at') :=
    ⟨((RegsBut.refl _ c).setReg SYS_IMGSTAT _ List.mem_cons_self).put SYS_IMGAT_AT at' (by decide), (Only.setReg ..).trans (.put ..)⟩
  rw [Chip.stopLoad_eq]
  generalize c.stopNamed cause r at' = d at named
  obtain ⟨first, only⟩ := named
  have undone := LoadUndone.undoLoad d
  generalize d.undoLoad = e at undone
  have house := HouseEntered.intoHouse e undone.quiet
  generalize e.intoHouse = g at house
  have beyond {a : Nat} (out : a ∉ stopShown) : g.reg a = e.reg a := house.regs a fun mem => out (houseRegs_stop a mem)
  have start {a : Nat} (out : a ∉ stopShown) : d.reg a = c.reg a := first a fun mem => out (namedRegs_stop a mem)
  refine ⟨fun a kept out => ?_, fun f ok home apart apartToo => ?_, fun a trim out was => ?_, ?_, ?_⟩
  · have shown : a ∉ stopShown := fun mem => out (by simp [stopRegs, mem])
    rw [beyond shown, undone.regs a fun mem => out (undoneRegs_stop mem), Chip.regsUndone_kept d kept, start shown]
  · have status : SYS_STATUS ∉ undoneRegs := stopShown_not_undone _ (by decide)
    have kept : e.get f = d.get f := by
      unfold Chip.get
      rw [home, undone.regs _ status, Chip.regsUndone_kept d (stopShown_not_writable (by simp [stopShown]))]
    have last : g.get f = e.get f := by
      refine house.fields f ok (by rw [home]; decide) fun x hx => ?_
      simp only [houseFields, List.mem_cons, List.not_mem_nil, or_false] at hx
      obtain rfl | rfl | rfl := hx
      · exact apart
      · exact apartToo
      · exact .inl (by rw [home]; decide)
    exact last.trans (kept.trans (first.get (g := f) (by rw [home]; decide)))
  · exact (beyond out).trans (undone.reset trim ((start out).trans was))
  · exact Eq.trans (b := e.faults) (house.only.same .faults (by decide))
      (Eq.trans (b := d.faults) (undone.only.same .faults (by decide)) (only.same .faults (by decide)))
  · have load : d.load = c.load := only.same .load (by decide)
    exact house.since.trans (undone.since.trans (congrArg LoadState.since load))

/-- The end of a load, as Table 12-5 names it. -/
theorem LoadStopped.stopLoad (small : cause < 16) : LoadStopped cause r c.load.sect at' c (c.stopLoad cause r at') := by
  obtain ⟨isCause, isReason, isSect, isAt, first, only⟩ := c.stopNamed_frame cause r at' small
  have ended := LoadEnded.stopLoad c cause r at'
  rw [Chip.stopLoad_eq] at ended ⊢
  generalize c.stopNamed cause r at' = d at isCause isReason isSect isAt first only ended
  have undone := LoadUndone.undoLoad d
  generalize d.undoLoad = e at undone ended
  have house := HouseEntered.intoHouse e undone.quiet
  generalize e.intoHouse = g at house ended
  have named {f : Field} (home : f.addr = SYS_IMGSTAT ∨ f.addr = SYS_IMGAT) : g.get f = d.get f := by
    have shown : f.addr ∈ stopShown := by rcases home with h | h <;> rw [h] <;> decide
    have out : f.addr ∉ [SYS_STATUS, SYS_BOOTT, LOG_STATUS] := by rcases home with h | h <;> rw [h] <;> decide
    have kept : e.reg f.addr = d.reg f.addr := by
      rw [undone.regs _ (stopShown_not_undone _ shown), Chip.regsUndone_kept d (stopShown_not_writable (by simp [shown]))]
    exact (house.regs.get out).trans (congrArg f.read kept)
  have now : e.now = c.now := Eq.trans (b := d.now) (undone.only.same .now (by decide)) (only.same .now (by decide))
  have load : d.load = c.load := only.same .load (by decide)
  have since : e.load.since = c.load.since := undone.since.trans (congrArg LoadState.since load)
  have okOk : SYS_STATUS_CFG_OK.ok := Field.ok_of _ rfl
  have legsSame (l : Leg) : g.leg l = e.leg l := house.only.leg l (by decide)
  have dutyOut (l : Leg) : LEG_DUTY l.val ∉ [SYS_STATUS, SYS_BOOTT, LOG_STATUS] := by
    simp only [LEG_DUTY, SYS_STATUS, SYS_BOOTT, LOG_STATUS, List.mem_cons, List.not_mem_nil, or_false]
    omega
  have wiped (l : Leg) : LegWiped l d.regsUndone g := (undone.legs l).kept (legsSame l) (house.regs _ (dutyOut l))
  have parts : Only [.regs, .legs, .cues, .axes, .engines, .load, .wms, .fresh, .nvc, .sensors, .hkSettle, .houseTick] c g :=
    ((Only.mono only).then undone.only).then house.only
  have faultsUndone : d.regsUndone.faults = d.faults := (Only.regsUndone d).same .faults (by decide)
  have faultsBefore : e.faults = d.faults := undone.only.same .faults (by decide)
  have faultsAfter : g.faults = e.faults := house.only.same .faults (by decide)
  have faults : g.faults = d.regsUndone.faults := faultsAfter.trans (faultsBefore.trans faultsUndone.symm)
  have react (l : Leg) : g.legReact l = d.regsUndone.legReact l :=
    Chip.legReact_stopped l faults ((undone.regs.mono undoneRegs_stop).trans (house.regs.mono fun x hx => by simp [stopRegs, houseRegs_stop x hx]))
  refine ⟨(named (.inl rfl)).trans isCause, (named (.inl rfl)).trans isReason, (named (.inl rfl)).trans isSect, (named (.inr rfl)).trans isAt,
    ?_, ?_, ?_, house.stage, ?_, ?_, ?_, fun a wr trim => ?_, ?_, ?_, fun l => ?_, fun m => ?_, house.sensors, ?_⟩
  · exact beq_iff_eq.mpr house.house
  · unfold Chip.booting Chip.flag
    rw [house.awake]
    rfl
  · exact Chip.flag_of_get (ended.status _ okOk rfl (Field.apart_of _ _ rfl) (Field.apart_of _ _ rfl))
  · exact (congrArg CueState.sheet (house.only.same .cues (by decide))).trans undone.sheet
  · exact Eq.trans (b := e.axes) (house.only.same .axes (by decide)) undone.axes
  · exact Eq.trans (b := e.engines) (house.only.same .engines (by decide)) undone.engines
  · have shown : a ∉ stopShown := fun mem => by
      have := stopShown_not_writable (a := a) (by simp [mem])
      rw [wr] at this
      exact absurd this (by decide)
    exact (house.regs a fun mem => shown (houseRegs_stop a mem)).trans (undone.writable trim wr)
  · rw [house.ticks, now, since]
  · exact house.tick.trans now
  · exact ⟨(wiped l).mode, (wiped l).on, (wiped l).duties, (wiped l).settings, fun free => (wiped l).gates ((react l).symm.trans free)⟩
  · refine (Chip.flag_of_get (house.regs.get (g := WM_STAT_ARMED m.val) ?_)).trans (undone.monitors m)
    simp only [WM_STAT_ARMED, WM_STAT, SYS_STATUS, SYS_BOOTT, LOG_STATUS, List.mem_cons, List.not_mem_nil, or_false]
    omega
  · exact (Only.mono parts : Only [.regs, .legs, .cues, .axes, .engines, .load, .wms, .fresh, .nvc, .sensors, .hkSettle, .houseTick, .faults] c g).eq

end

end Sys2Proof.Machine
end

section
-- One proof after the other: a side goal that `Only` settles by `decide` waits for the kernel, on a thread of its own.
set_option Elab.async false
/-! SUPPORT. What an image header, a section header and an I²C retry leave before the load goes on or stops; and the statement about
them (R301 to R303, R309, R352). -/
namespace Sys2Proof.Machine

section
variable {b c d : Chip}

/-- What the loader and its checks may have changed before a load stops. -/
structure LoadTouched (b c : Chip) : Prop where
  only : Only [.regs, .faults, .load] b c
  since : c.load.since = b.load.since
  cfgOk : c.cfgOk = b.cfgOk

theorem LoadTouched.trans (h : LoadTouched b c) (g : LoadTouched c d) : LoadTouched b d :=
  ⟨h.only.trans g.only, g.since.trans h.since, g.cfgOk.trans h.cfgOk⟩

/-- A load that has stopped is judged against the state before the check. -/
theorem LoadStopped.touched {cause n at' : Nat} {r : Reason} (h : LoadTouched b c) (stop : LoadStopped cause r n at' c d) :
    LoadStopped cause r n at' b d := by
  obtain ⟨isCause, isReason, isSect, isAt, house, awake, cfgOk, stage, sheet, axes, engines, reset, ticks, tick, legs, monitors, sensors, parts⟩ := stop
  have now : c.now = b.now := h.only.same .now (by decide)
  have only : Only [.regs, .legs, .cues, .axes, .engines, .load, .wms, .fresh, .nvc, .sensors, .hkSettle, .houseTick, .faults] c d :=
    .of_mix parts
  refine ⟨isCause, isReason, isSect, isAt, house, awake, cfgOk.trans h.cfgOk, stage, sheet, axes, engines, reset, ?_, tick.trans now, legs,
    monitors, sensors, ?_⟩
  · rw [ticks, now, h.since]
  · exact ((Only.mono h.only : Only [.regs, .legs, .cues, .axes, .engines, .load, .wms, .fresh, .nvc, .sensors, .hkSettle, .houseTick, .faults] b c).then
      only).eq

/-- The loader's own state may change at will but for its start. -/
theorem LoadTouched.loader (c : Chip) (x : LoadState) (since : x.since = c.load.since) : LoadTouched c { c with load := x } :=
  ⟨.of_mix rfl, since, rfl⟩

theorem LoadTouched.raise (c : Chip) (src : Nat) : LoadTouched c (c.raise src) := ⟨(Only.raise ..).mono, rfl, rfl⟩

/-- An injected check disarms its checker and is one event. -/
theorem LoadTouched.injected (c : Chip) (src : Nat) : LoadTouched c ((c.disarm 3).report src 1 0 0 true) := by
  have only : Only [.regs, .faults] c ((c.disarm 3).report src 1 0 0 true) := (Only.disarm c 3).then (.report ..)
  have told := Only.report (c.disarm 3) src 1 0 0 true
  exact ⟨only.mono, congrArg LoadState.since (only.same .load (by decide)),
    Chip.flag_of_get ((told.get _).trans ((RegsBut.disarm c 3).get (g := SYS_STATUS_CFG_OK) (by decide)))⟩

end

/-! ### Image headers (R301, R303) -/

section
variable {s : State} {h : Header}

/-- The header has come. -/
def Chip.headerTaken (c : Chip) (h : Header) : Chip :=
  { c with load := { c.load.take false (headerFront h ++ bytesOf 4 h.hcrc.toNat) with header := some h, sect := 0 } }

theorem LoadTouched.headerTaken (c : Chip) (h : Header) : LoadTouched c (c.headerTaken h) := .loader c _ rfl

/-- The checks of a header. -/
def Chip.headerChecked (c : Chip) (h : Header) : Chip :=
  if c.injected 3 0 then ((c.disarm 3).report 0xF1 1 0 0 true).stopLoad 2 .ok 0
  else if crc32 (headerFront h) != h.hcrc then (c.raise 0xF1).stopLoad 2 .ok 0
  else if headerBad h then c.stopLoad 2 .ok 0
  else if c.wrongDevice h then c.stopLoad 3 .ok 0
  else if c.tooLong h then c.stopLoad 4 .ok 0
  else c

theorem Chip.imageHeader_eq {c : Chip} (awaits : c.awaitsHeader = true) : c.imageHeader h = (c.headerTaken h).headerChecked h := by
  simp only [Chip.awaitsHeader, Bool.and_eq_true, beq_iff_eq, Option.isNone_iff_eq_none] at awaits
  obtain ⟨loading, none⟩ := awaits
  unfold Chip.imageHeader
  rw [loading, none]
  rfl

theorem Chip.headerTaken_asks (c : Chip) (h : Header) : (c.headerTaken h).injected 3 0 = c.injected 3 0 ∧
    (c.headerTaken h).wrongDevice h = c.wrongDevice h ∧ (c.headerTaken h).tooLong h = c.tooLong h := ⟨rfl, rfl, rfl⟩

theorem imageHeader_opens (awaits : s.chip.awaitsHeader = true) (free : s.chip.injected 3 0 = false)
    (crc : crc32 (headerFront h) = h.hcrc) (good : headerBad h = false) (device : s.chip.wrongDevice h = false)
    (fits : s.chip.tooLong h = false) :
    Completes (.imageHeader h) s fun c =>
      c.load.header = some h ∧ c.load.sect = 0 ∧ c.load.bytes.length = s.chip.load.bytes.length + 32 ∧
      c = { s.chip with load := c.load } := by
  obtain ⟨inj, dev, long⟩ := s.chip.headerTaken_asks h
  have row : (s.chip.headerTaken h).headerChecked h = s.chip.headerTaken h := by
    unfold Chip.headerChecked
    rw [inj, free, crc, good, dev, device, long, fits]
    simp
  refine completes_of_run (·.imageHeader h) rfl ((Chip.imageHeader_eq awaits).trans row) ⟨rfl, rfl, ?_, rfl⟩
  have length : (headerFront h ++ bytesOf 4 h.hcrc.toNat).length = 32 := by simp [headerFront, bytesOf]
  have bytes : (s.chip.headerTaken h).load.bytes = (headerFront h ++ bytesOf 4 h.hcrc.toNat).reverse ++ s.chip.load.bytes := rfl
  rw [bytes, List.length_append, List.length_reverse, length, Nat.add_comm]

/-- A header that is refused stops the load (R309, Table 12-5). -/
theorem imageHeader_stops {cause : Nat} {d : Chip} {P : Chip → Prop} (small : cause < 16) (awaits : s.chip.awaitsHeader = true)
    (touched : LoadTouched s.chip d) (sect : d.load.sect = 0)
    (row : (s.chip.headerTaken h).headerChecked h = d.stopLoad cause .ok 0) (faults : ∀ c, c.faults = d.faults → P c) :
    Completes (.imageHeader h) s fun c => LoadStopped cause .ok 0 0 s.chip c ∧ P c := by
  have stopped := LoadStopped.stopLoad d cause .ok 0 small
  rw [sect] at stopped
  exact completes_of_run (·.imageHeader h) rfl ((Chip.imageHeader_eq awaits).trans row)
    ⟨.touched touched stopped, faults _ (LoadEnded.stopLoad d cause .ok 0).faults⟩

theorem imageHeader_injected (awaits : s.chip.awaitsHeader = true) (armed : s.chip.injected 3 0 = true) :
    Completes (.imageHeader h) s fun c =>
      LoadStopped 2 .ok 0 0 s.chip c ∧ c.injected 3 0 = false ∧
      c.faults.events = s.chip.faults.events ++ [⟨0xF1, 1, 0, 0, true⟩] := by
  refine imageHeader_stops (by decide) awaits ((LoadTouched.headerTaken s.chip h).trans (.injected _ 0xF1)) rfl (if_pos armed) fun c same => ?_
  have inj : c.faults.inj = s.chip.faults.inj.set 3 none := congrArg FaultState.inj same
  refine ⟨?_, congrArg FaultState.events same⟩
  unfold Chip.injected
  rw [inj]
  simp

theorem imageHeader_crc (awaits : s.chip.awaitsHeader = true) (free : s.chip.injected 3 0 = false)
    (crc : crc32 (headerFront h) ≠ h.hcrc) :
    Completes (.imageHeader h) s fun c => LoadStopped 2 .ok 0 0 s.chip c ∧ Raised 0xF1 s.chip c := by
  obtain ⟨inj, -, -⟩ := s.chip.headerTaken_asks h
  refine imageHeader_stops (by decide) awaits ((LoadTouched.headerTaken s.chip h).trans (.raise _ 0xF1)) rfl ?_ fun c same => same
  unfold Chip.headerChecked
  rw [inj, free, bne_iff_ne.mpr crc]
  rfl

theorem imageHeader_bad (awaits : s.chip.awaitsHeader = true) (free : s.chip.injected 3 0 = false)
    (crc : crc32 (headerFront h) = h.hcrc) (bad : headerBad h = true) :
    Completes (.imageHeader h) s fun c => LoadStopped 2 .ok 0 0 s.chip c ∧ c.faults = s.chip.faults := by
  obtain ⟨inj, -, -⟩ := s.chip.headerTaken_asks h
  refine imageHeader_stops (by decide) awaits (.headerTaken s.chip h) rfl ?_ fun c same => same
  unfold Chip.headerChecked
  rw [inj, free, crc, bad, bne_self_eq_false]
  rfl

theorem imageHeader_device (awaits : s.chip.awaitsHeader = true) (free : s.chip.injected 3 0 = false)
    (crc : crc32 (headerFront h) = h.hcrc) (good : headerBad h = false) (device : s.chip.wrongDevice h = true) :
    Completes (.imageHeader h) s fun c => LoadStopped 3 .ok 0 0 s.chip c ∧ c.faults = s.chip.faults := by
  obtain ⟨inj, dev, -⟩ := s.chip.headerTaken_asks h
  refine imageHeader_stops (by decide) awaits (.headerTaken s.chip h) rfl ?_ fun c same => same
  unfold Chip.headerChecked
  rw [inj, free, crc, good, dev, device, bne_self_eq_false]
  rfl

theorem imageHeader_long (awaits : s.chip.awaitsHeader = true) (free : s.chip.injected 3 0 = false)
    (crc : crc32 (headerFront h) = h.hcrc) (good : headerBad h = false) (device : s.chip.wrongDevice h = false)
    (long : s.chip.tooLong h = true) :
    Completes (.imageHeader h) s fun c => LoadStopped 4 .ok 0 0 s.chip c ∧ c.faults = s.chip.faults := by
  obtain ⟨inj, dev, tall⟩ := s.chip.headerTaken_asks h
  refine imageHeader_stops (by decide) awaits (.headerTaken s.chip h) rfl ?_ fun c same => same
  unfold Chip.headerChecked
  rw [inj, free, crc, good, dev, device, tall, long, bne_self_eq_false]
  rfl

end

/-! ### Section headers (R302, R305) -/

section
variable {s : State} {hd : Header} {h : Section}

/-- The loader with a section header. -/
def LoadState.opens (l : LoadState) (h : Section) : LoadState :=
  { l.take false (sectionFront h ++ bytesOf 4 h.scrc.toNat) with
    sect := l.sect + 1, cur := some h, due := if h.type = 3 then 0 else h.count.toNat, body := []
    cueSeen := l.cueSeen || h.type == 2
    fail := if h.type = 1 ∧ l.cueSeen = true then some (.state, 0) else none }

/-- The section header has come. -/
def Chip.sectionTaken (c : Chip) (h : Section) : Chip := { c with load := c.load.opens h }

theorem Chip.sectionHeader_eq {c : Chip} (awaits : c.awaitsSection hd = true) : c.sectionHeader h =
    if sectionBad h c.load.bytes.length (headerStop hd) then (c.sectionTaken h).stopLoad 4 .ok 0 else c.sectionTaken h := by
  simp only [Chip.awaitsSection, Bool.and_eq_true, beq_iff_eq, Option.isNone_iff_eq_none, decide_eq_true_eq] at awaits
  obtain ⟨⟨⟨loading, header⟩, none⟩, left⟩ := awaits
  unfold Chip.sectionHeader
  rw [header]
  dsimp only
  rw [loading, none, if_neg (by simpa using left)]
  rfl

theorem sectionHeader_opens (awaits : s.chip.awaitsSection hd = true)
    (good : sectionBad h s.chip.load.bytes.length (headerStop hd) = false) :
    Completes (.sectionHeader h) s fun c =>
      c.load.cur = some h ∧ c.load.sect = s.chip.load.sect + 1 ∧ c.load.body = [] ∧
      c.load.due = (if h.type = 3 then 0 else h.count.toNat) ∧
      (c.load.fail = if h.type = 1 ∧ s.chip.load.cueSeen = true then some (.state, 0) else none) ∧
      c = { s.chip with load := c.load } :=
  completes_of_run (·.sectionHeader h) rfl ((Chip.sectionHeader_eq awaits).trans (if_neg (by simp [good]))) ⟨rfl, rfl, rfl, rfl, rfl, rfl⟩

theorem sectionHeader_bad (awaits : s.chip.awaitsSection hd = true)
    (bad : sectionBad h s.chip.load.bytes.length (headerStop hd) = true) :
    Completes (.sectionHeader h) s fun c =>
      LoadStopped 4 .ok (s.chip.load.sect + 1) 0 s.chip c ∧ c.faults = s.chip.faults := by
  have stopped := LoadStopped.stopLoad (s.chip.sectionTaken h) 4 .ok 0 (by decide)
  have faults := (LoadEnded.stopLoad (s.chip.sectionTaken h) 4 .ok 0).faults
  have touched : LoadTouched s.chip (s.chip.sectionTaken h) := .loader s.chip _ rfl
  exact completes_of_run (·.sectionHeader h) rfl ((Chip.sectionHeader_eq awaits).trans (if_pos bad)) ⟨.touched touched stopped, faults⟩

/-! ### I²C retries (R352) -/

theorem Chip.i2cRetry_eq (c : Chip) (acked : Bool) : c.i2cRetry acked =
    if c.load.stage != .loading || c.nvmSetting.any (!namesI2c ·) then c
    else if acked then { c with load := { c.load with retries := 0 } }
    else if 3 ≤ c.load.retries + 1 then c.stopLoad 1 .ok 0
    else { c with load := { c.load with retries := c.load.retries + 1 } } := by
  unfold Chip.i2cRetry
  cases c.nvmSetting <;> rfl

theorem i2cAddressRetry_counts {acked : Bool} (loading : s.chip.load.stage = .loading) (i2c : s.chip.nvmSetting.any (!namesI2c ·) = false)
    (more : acked = true ∨ s.chip.load.retries < 2) :
    Completes (.i2cAddressRetry acked) s fun c =>
      c = { s.chip with load := { s.chip.load with retries := if acked then 0 else s.chip.load.retries + 1 } } := by
  refine completes_of_run (·.i2cRetry acked) rfl (s.chip.i2cRetry_eq acked) ?_
  rw [if_neg (by simp [loading, i2c])]
  cases acked with
  | true => rfl
  | false =>
    have few : ¬ 3 ≤ s.chip.load.retries + 1 := by simpa using more
    rw [if_neg (by decide), if_neg few]
    rfl

theorem i2cAddressRetry_stops (loading : s.chip.load.stage = .loading) (i2c : s.chip.nvmSetting.any (!namesI2c ·) = false)
    (last : 2 ≤ s.chip.load.retries) :
    Completes (.i2cAddressRetry false) s fun c => LoadStopped 1 .ok s.chip.load.sect 0 s.chip c := by
  refine completes_of_run (·.i2cRetry false) rfl (s.chip.i2cRetry_eq false) ?_
  rw [if_neg (by simp [loading, i2c]), if_neg (by decide), if_pos (by omega)]
  exact .stopLoad _ 1 .ok 0 (by decide)

theorem i2cAddressRetry_idle {acked : Bool} (out : s.chip.load.stage ≠ .loading ∨ s.chip.nvmSetting.any (!namesI2c ·) = true) :
    exec (.i2cAddressRetry acked) s = .next s := by
  refine idles_of_run (·.i2cRetry acked) rfl ((s.chip.i2cRetry_eq acked).trans (if_pos ?_))
  rw [Bool.or_eq_true, bne_iff_ne]
  exact out

end

end Sys2Proof.Machine

open Sys2Proof.Machine

/-- Settles O37: every header that is refused is taken by the loader, told where it counts, and then ends the load. -/
theorem imageHeaders : Obligations.ImageHeaders := by
  unfold Obligations.ImageHeaders
  refine ⟨?_, ?_, ?_, ?_, ?_, ?_, ?_, ?_, ?_, ?_, ?_, ?_⟩
  · exact fun _ _ awaits free crc good device fits => imageHeader_opens awaits free crc good device fits
  · exact fun s h out => idles_of_run (·.imageHeader h) rfl (if_pos (by simpa using out))
  · exact fun _ _ awaits armed => imageHeader_injected awaits armed
  · exact fun _ _ awaits free crc => imageHeader_crc awaits free crc
  · exact fun _ _ awaits free crc bad => imageHeader_bad awaits free crc bad
  · exact fun _ _ awaits free crc good device => imageHeader_device awaits free crc good device
  · exact fun _ _ awaits free crc good device long => imageHeader_long awaits free crc good device long
  · exact fun _ _ _ awaits good => sectionHeader_opens awaits good
  · exact fun _ _ _ awaits bad => sectionHeader_bad awaits bad
  · exact fun _ _ loading i2c more => i2cAddressRetry_counts loading i2c more
  · exact fun _ loading i2c last => i2cAddressRetry_stops loading i2c last
  · exact fun _ _ out => i2cAddressRetry_idle out
end

section
-- One proof after the other: a side goal that `Only` settles by `decide` waits for the kernel, on a thread of its own.
set_option Elab.async false
/-! SUPPORT. The steps of a start sequence up to the image (R297, R300, R309, R322, R374, Table 12-1): what each leaves, and the state
they end in. -/
namespace Sys2Proof.Machine

/-! ### The registers that a start leaves at their reset words -/

/-- The address belongs neither to the fuses, the logbook and the part's own state, nor to what the fuses patch and trim. -/
def startArea (a : Nat) : Prop :=
  ((0x011000 ≤ a ∧ a < 0x020000) ∨ 0x040000 ≤ a) ∧ a ≠ FE_INFO 0 ∧ a ≠ FE_INFO 1 ∧ a ∉ trimRegs

/-- The address is one of those, or SYS_STATUS. -/
def keepArea (a : Nat) : Prop := startArea a ∨ a = SYS_STATUS

theorem startArea_low {a : Nat} (h : a < 0x011000 ∨ (0x020000 ≤ a ∧ a < 0x040000)) : ¬ startArea a := by
  rintro ⟨range, -⟩
  omega

theorem keepArea_fuse {a : Nat} (h : 0x020000 ≤ a ∧ a < 0x040000) : ¬ keepArea a := by
  rintro (start | status)
  · exact startArea_low (.inr h) start
  · rw [status] at h
    exact absurd h.1 (by decide)

theorem keepArea_info (r : Region) : ¬ keepArea (FE_INFO r.val) := by
  rintro (⟨-, first, second, -⟩ | status)
  rotate_left
  · simp only [FE_INFO, SYS_STATUS] at status
    omega
  have which : r.val = 0 ∨ r.val = 1 := by omega
  rcases which with h | h
  · exact first (by rw [h])
  · exact second (by rw [h])

/-- A step of the start between its reset and its image. -/
structure StartStep (b c : Chip) : Prop where
  area : RegsOf keepArea b c
  latched : c.faults.latched = b.faults.latched
  fire : c.faults.fire = b.faults.fire
  shutdown : c.faults.shutdown = b.faults.shutdown
  stage : c.load.stage = b.load.stage
  only : Only [.regs, .fresh, .faults, .nvc, .load, .free] b c

section
variable {b c d : Chip}

theorem StartStep.refl (c : Chip) : StartStep c c := ⟨.refl _ c, rfl, rfl, rfl, rfl, .refl _ c⟩

theorem StartStep.trans (h : StartStep b c) (g : StartStep c d) : StartStep b d :=
  ⟨h.area.trans g.area, g.latched.trans h.latched, g.fire.trans h.fire, g.shutdown.trans h.shutdown, g.stage.trans h.stage, h.only.trans g.only⟩

theorem StartStep.ite {p : Prop} [Decidable p] (h : StartStep b c) (g : StartStep b d) : StartStep b (if p then c else d) := by
  split
  · exact h
  · exact g

theorem StartStep.each {α : Type} {f : Chip → α → Chip} (c : Chip) (xs : List α) (hf : ∀ d, ∀ x ∈ xs, StartStep d (f d x)) :
    StartStep c (c.each xs f) :=
  Chip.each_keeps xs (.refl c) fun d hd x hx => hd.trans (hf d x hx)

/-- What touches neither the collector nor the loader. -/
theorem StartStep.of_only (area : RegsOf keepArea b c) (only : Only [.regs, .fresh, .nvc, .free] b c) : StartStep b c := by
  have faults : c.faults = b.faults := only.same .faults (by decide)
  have load : c.load = b.load := only.same .load (by decide)
  exact ⟨area, by rw [faults], by rw [faults], by rw [faults], by rw [load], only.mono⟩

theorem StartStep.setReg (c : Chip) (a : Nat) (w : Word) (out : ¬ keepArea a) : StartStep c (c.setReg a w) :=
  .of_only (.of_regsBut ((RegsBut.refl [a] c).setReg a w List.mem_cons_self) (by simpa using out)) (Only.setReg ..).mono

theorem StartStep.put (c : Chip) (f : Field) (v : Nat) (out : ¬ keepArea f.addr) : StartStep c (c.put f v) :=
  .of_only ((RegsOf.refl _ c).put f v out) (Only.put ..).mono

theorem StartStep.bump (c : Chip) (f : Field) (n : Nat) (out : ¬ keepArea f.addr) : StartStep c (c.bump f n) :=
  .of_only (.of_regsBut ((RegsBut.refl [f.addr] c).bump f n List.mem_cons_self) (by simpa using out)) (Only.bump ..).mono

theorem StartStep.raise (c : Chip) (src : Nat) : StartStep c (c.raise src) :=
  ⟨.of_regs (Chip.raise_regs ..), rfl, rfl, rfl, rfl, (Only.raise ..).mono⟩

theorem StartStep.nvc (c : Chip) (x : NvCtl) : StartStep c { c with nvc := x } := .of_only (.of_regs rfl) (.of_mix rfl)

theorem StartStep.useFree (c : Chip) : StartStep c c.useFree := .of_only (.of_regs rfl) (.of_mix rfl)

end

/-! ### Step 2: the fuses are read (R322 to R325, R329) -/

section
variable (c : Chip) (nv : NonVolatile) (l : List OtpRead)

theorem OTP_WORD_out {w : Nat} (hw : w < 1024) : ¬ keepArea (OTP_WORD w) := keepArea_fuse (by simp only [OTP_WORD]; omega)

theorem StartStep.showEntries : StartStep c (c.showEntries nv l) := by
  refine .each c _ fun d e he => ?_
  have small := List.mem_range.mp he
  have out : ¬ keepArea (OTP_REDIR e) := keepArea_fuse (by simp only [OTP_REDIR]; omega)
  split
  · exact .setReg d _ _ out
  · exact .put d (OTP_REDIR_VOID e) _ out

theorem StartStep.noteDoubt {w : Nat} (hw : w < 1024) (bad : Bool) : StartStep c (c.noteDoubt w bad) := by
  have low {a : Nat} (h : 0x020000 ≤ a ∧ a < 0x040000) : ¬ keepArea a := keepArea_fuse h
  have bit : StartStep c (c.put (OTP_WSTAT_DOUBT (w / 32)) (c.get (OTP_WSTAT_DOUBT (w / 32)) ||| 2 ^ (w % 32))) :=
    .put c (OTP_WSTAT_DOUBT (w / 32)) _ (low (by simp only [OTP_WSTAT_DOUBT, OTP_WSTAT]; omega))
  have counted (d : Chip) : StartStep d (d.bump (if bad then OTP_MARG_UNCORR else OTP_MARG_MARG) 1) :=
    .bump d _ 1 (by cases bad <;> exact low (by decide))
  have first (d : Chip) (x : Word) : StartStep d (if d.flag OTP_FIRSTM_VALID then d else d.setReg OTP_FIRSTM x) :=
    .ite (.refl d) (.setReg d _ x (low (by decide)))
  exact ((bit.trans (counted _)).trans (first _ _)).trans (.raise _ 0xF3)

/-- A word of step 2 as it stands in its register. -/
def Chip.wordShown (entries : List Word) (w : Nat) : Chip :=
  c.setReg (OTP_WORD w) (if w < 16 then (nv.wordRead l entries w).normal else readUsed (nv.wordRead l entries w))

/-- A marginal word is listed. -/
def Chip.marginalNoted (w : Nat) (marginal : Bool) : Chip :=
  if marginal then { c with nvc := { c.nvc with marginal := c.nvc.marginal ++ [w] } } else c

/-- An uncorrectable word of the image key keeps the key from its use. -/
def Chip.keyNoted (dead : Bool) : Chip := if dead then { c with load := { c.load with keyDead := true } } else c

theorem Chip.readWord_eq (entries : List Word) (w : Nat) : c.readWord nv l entries w =
    let q := doubt (nv.wordRead l entries w) w
    let d := c.wordShown nv l entries w
    ((if q.1 || q.2 then d.noteDoubt w q.2 else d).marginalNoted w q.1).keyNoted (q.2 && decide (128 ≤ w) && decide (w < 136)) := rfl

theorem StartStep.keyNoted (dead : Bool) : StartStep c (c.keyNoted dead) :=
  .ite ⟨.of_regs rfl, rfl, rfl, rfl, rfl, .of_mix rfl⟩ (.refl c)

theorem StartStep.marginalNoted (w : Nat) (marginal : Bool) : StartStep c (c.marginalNoted w marginal) := .ite (.nvc c _) (.refl c)

theorem StartStep.readWord (entries : List Word) {w : Nat} (hw : w < 1024) : StartStep c (c.readWord nv l entries w) := by
  rw [Chip.readWord_eq]
  have shown : StartStep c (c.wordShown nv l entries w) := .setReg c _ _ (OTP_WORD_out hw)
  exact ((shown.trans (.ite (.noteDoubt _ hw _) (.refl _))).trans (.marginalNoted ..)).trans (.keyNoted ..)

theorem wordsToRead_small {w : Nat} (hw : w ∈ nv.wordsToRead l) : w < 1024 := by
  unfold NonVolatile.wordsToRead at hw
  split at hw
  · exact absurd hw List.not_mem_nil
  · exact List.mem_range.mp hw

/-- Every word of step 2 in its register. -/
def Chip.wordsRead : Chip := (c.showEntries nv l).each (nv.wordsToRead l) (Chip.readWord nv l (nv.entries l))

theorem StartStep.wordsRead : StartStep c (c.wordsRead nv l) :=
  (StartStep.showEntries c nv l).trans (.each _ _ fun d _ hw => .readWord d nv l _ (wordsToRead_small nv l hw))

/-- The votes of step 2 stand in their fields. -/
def Chip.votesShown : Chip :=
  ((c.put SYS_STATUS_LC (nv.lifeCycle l).1).putF SYS_STATUS_LC_AMBIG (nv.lifeCycle l).2).put OTP_STATUS_LOCK (nv.locks l)

theorem Chip.readFuses_eq : c.readFuses nv l =
    ((c.wordsRead nv l).votesShown nv l).putF SYS_STATUS_KEY ((c.wordsRead nv l).votesShown nv l).keyHeld := rfl

theorem lifeCycle_small : (nv.lifeCycle l).1 < 4 := by
  unfold NonVolatile.lifeCycle
  dsimp only
  split
  · decide
  split
  · decide
  split <;> decide

theorem locks_small : nv.locks l < 16 := by
  have bit (k : Nat) : (if (nv.voteByte l 3 k).1 then 2 ^ k else 0) ≤ 2 ^ k := by split <;> simp
  have first := bit 0
  have second := bit 1
  have third := bit 2
  have fourth := bit 3
  have sum : nv.locks l = 0 + (if (nv.voteByte l 3 0).1 then 2 ^ 0 else 0) + (if (nv.voteByte l 3 1).1 then 2 ^ 1 else 0) +
      (if (nv.voteByte l 3 2).1 then 2 ^ 2 else 0) + (if (nv.voteByte l 3 3).1 then 2 ^ 3 else 0) := rfl
  omega

/-- The key's flag. -/
def Chip.keyShown : Chip := c.putF SYS_STATUS_KEY c.keyHeld

/-- What the votes of step 2 show and leave. -/
structure VotesTaken (n : Nat) (v : Bool) (m : Nat) (b c : Chip) : Prop where
  lc : c.get SYS_STATUS_LC = n
  ambig : c.flag SYS_STATUS_LC_AMBIG = v
  lock : c.get OTP_STATUS_LOCK = m
  fields : FieldsBut [SYS_STATUS_LC, SYS_STATUS_LC_AMBIG, OTP_STATUS_LOCK, SYS_STATUS_KEY] b c
  regs : RegsBut [SYS_STATUS, OTP_STATUS] b c
  only : Only [.regs] b c

theorem VotesTaken.shown : VotesTaken (nv.lifeCycle l).1 (nv.lifeCycle l).2 (nv.locks l) c (c.votesShown nv l).keyShown := by
  have lcOk : SYS_STATUS_LC.ok := Field.ok_of _ rfl
  have ambigOk : SYS_STATUS_LC_AMBIG.ok := Field.ok_of _ rfl
  have lockOk : OTP_STATUS_LOCK.ok := Field.ok_of _ rfl
  have keyOk : SYS_STATUS_KEY.ok := Field.ok_of _ rfl
  have key (d : Chip) {f : Field} (h : f.addr ≠ SYS_STATUS ∨ f.hi < 23 ∨ 23 < f.lo) (ok : f.ok) : d.keyShown.get f = d.get f :=
    d.get_put_apart f SYS_STATUS_KEY _ ok keyOk h
  have small := lifeCycle_small nv l
  have few := locks_small nv l
  unfold Chip.votesShown
  generalize (nv.lifeCycle l).1 = n at small
  generalize (nv.lifeCycle l).2 = v
  generalize nv.locks l = m at few
  refine ⟨?_, ?_, ?_, ?_, ?_, ?_⟩
  · rw [key _ (.inr (.inr (by decide))) lcOk, Chip.get_put_ne _ _ _ _ (by decide)]
    exact (Chip.get_put_beside _ _ _ _ rfl).trans (Chip.get_put_lt c _ lcOk n small)
  · refine (Chip.flag_of_get (key _ (.inr (.inl (by decide))) ambigOk)).trans ?_
    exact (Chip.flag_of_get (Chip.get_put_ne _ _ _ _ (by decide))).trans (Chip.flag_putF _ _ ambigOk v)
  · exact (key _ (.inl (by decide)) lockOk).trans (Chip.get_put_lt _ _ lockOk m few)
  · exact ((((FieldsBut.refl _ c).put SYS_STATUS_LC n lcOk (by simp)).putF SYS_STATUS_LC_AMBIG v ambigOk (by simp)).put OTP_STATUS_LOCK m lockOk
      (by simp)).putF SYS_STATUS_KEY _ keyOk (by simp)
  · exact ((((RegsBut.refl _ c).put SYS_STATUS_LC n (by decide)).put SYS_STATUS_LC_AMBIG _ (by decide)).put OTP_STATUS_LOCK m (by decide)).put
      SYS_STATUS_KEY _ (by decide)
  · exact (((Only.put ..).trans (.putF ..)).trans (.put ..)).trans (.putF ..)

theorem Chip.readFuses_keyShown : c.readFuses nv l = ((c.wordsRead nv l).votesShown nv l).keyShown := rfl

/-! ### The scan of the logbook, the patches and the trims (R330, R333, R374) -/

/-- The newest record of the logbook is taken up. -/
def Chip.bookTaken (r : Nat) : Chip :=
  ((c.setReg LOG_SEQ (nv.logWord r 0)).put LOG_HEAD_REC r).put LOG_BOOT_BOOT ((nv.logWord r 1).toNat % 65536 + 1)

theorem Chip.bookTaken_frame (r : Nat) : RegsBut [LOG_SEQ, LOG_HEAD, LOG_BOOT] c (c.bookTaken nv r) ∧ Only [.regs] c (c.bookTaken nv r) :=
  ⟨(((RegsBut.refl _ c).setReg LOG_SEQ _ (by decide)).put LOG_HEAD_REC r (by decide)).put LOG_BOOT_BOOT _ (by decide),
    ((Only.setReg ..).trans (.put ..)).trans (.put ..)⟩

theorem Chip.scanLog_frame : RegsBut [LOG_SEQ, LOG_HEAD, LOG_BOOT] c (c.scanLog nv) ∧ Only [.regs, .nvc, .free] c (c.scanLog nv) := by
  have nvc (d : Chip) (x : NvCtl) : Only [.regs, .nvc, .free] d { d with nvc := x } := .of_mix rfl
  have free (d : Chip) : Only [.regs, .nvc, .free] d d.useFree := .of_mix rfl
  unfold Chip.scanLog
  split
  · exact ⟨(RegsBut.refl _ c).put LOG_BOOT_BOOT 1 (by decide), (Only.put ..).mono⟩
  next r _ =>
    obtain ⟨regs, only⟩ := c.bookTaken_frame nv r
    have all : Only [.regs, .nvc, .free] c (c.bookTaken nv r) := only.mono
    dsimp only
    split
    · exact ⟨regs.of_regs rfl, all.trans (nvc ..)⟩
    · split
      · exact ⟨regs.of_regs rfl, (all.trans (nvc ..)).trans (nvc ..)⟩
      · exact ⟨regs.of_regs rfl, ((all.trans (nvc ..)).trans (free _)).trans (nvc ..)⟩

theorem StartStep.scanLog : StartStep c (c.scanLog nv) := by
  obtain ⟨regs, only⟩ := c.scanLog_frame nv
  refine .of_only (.of_regsBut regs ?_) only.mono
  simp only [List.forall_mem_cons, List.not_mem_nil, false_imp_iff, implies_true, and_true]
  exact ⟨keepArea_fuse (by decide), keepArea_fuse (by decide), keepArea_fuse (by decide)⟩

/-- What a patch entry leaves of the locks, besides. -/
structure PatchStep (b c : Chip) : Prop where
  step : StartStep b c
  lock : c.get OTP_STATUS_LOCK = b.get OTP_STATUS_LOCK

theorem PatchStep.refl (c : Chip) : PatchStep c c := ⟨.refl c, rfl⟩

theorem PatchStep.trans {b c d : Chip} (h : PatchStep b c) (g : PatchStep c d) : PatchStep b d := ⟨h.step.trans g.step, g.lock.trans h.lock⟩

theorem PatchStep.ite {b c d : Chip} {p : Prop} [Decidable p] (h : PatchStep b c) (g : PatchStep b d) : PatchStep b (if p then c else d) := by
  split
  · exact h
  · exact g

/-- A counter of OTP beside the locks. -/
theorem PatchStep.bump (f : Field) (ok : f.ok) (out : ¬ keepArea f.addr) (beside : OTP_STATUS_LOCK.apart f) : PatchStep c (c.bump f 1) := by
  have lockOk : OTP_STATUS_LOCK.ok := Field.ok_of _ rfl
  exact ⟨.bump c f 1 out, (FieldsBut.bump (l := [f]) (.refl _ c) f 1 ok List.mem_cons_self) _ lockOk (by simpa using beside)⟩

theorem PatchStep.patchEntry {e : Nat} (he : e < 256) : PatchStep c (c.patchEntry e) := by
  have low {a : Nat} (h : 0x020000 ≤ a ∧ a < 0x040000) : ¬ keepArea a := keepArea_fuse h
  have marginal : PatchStep c (c.bump OTP_MARG_MPATCH 1) := .bump c _ (Field.ok_of _ rfl) (low (by decide)) (.inl (by decide))
  have applied : PatchStep c (c.bump OTP_STATUS_APPLIED 1) := .bump c _ (Field.ok_of _ rfl) (low (by decide)) (Field.apart_of _ _ rfl)
  have void : PatchStep c (c.bump OTP_STATUS_VOID_COUNT 1) := .bump c _ (Field.ok_of _ rfl) (low (by decide)) (Field.apart_of _ _ rfl)
  have listed (d : Chip) (v : Nat) : PatchStep d (d.put (OTP_VOID_VOID (e / 32)) v) :=
    ⟨.put d (OTP_VOID_VOID (e / 32)) v (low (by simp only [OTP_VOID_VOID, OTP_VOID]; omega)),
      Chip.get_put_ne _ _ _ _ (by simp only [OTP_STATUS_LOCK, OTP_STATUS, OTP_VOID_VOID, OTP_VOID]; omega)⟩
  have kept (d : Chip) (x : NvCtl) : PatchStep d { d with nvc := x } := ⟨.nvc d x, rfl⟩
  exact .ite marginal (.ite (.refl c) (.ite (applied.trans (kept ..)) (.ite (.refl c) (void.trans (listed ..)))))

/-- Every entry judged. -/
def Chip.patchesJudged : Chip := c.each (List.range 256) Chip.patchEntry

/-- Each engine's revision of microcode. -/
def Chip.revisionsShown : Chip := c.each allRegions fun d r => d.put (FE_INFO_ROMREV r.val) d.freeVal.toNat

theorem Chip.applyPatches_eq : c.applyPatches =
    if c.patchesJudged.nvc.patches.isEmpty then c.patchesJudged else c.patchesJudged.revisionsShown.useFree := rfl

theorem PatchStep.revision (r : Region) (v : Nat) : PatchStep c (c.put (FE_INFO_ROMREV r.val) v) :=
  ⟨.put c (FE_INFO_ROMREV r.val) v (keepArea_info r), Chip.get_put_ne _ _ _ _
    (by simp only [OTP_STATUS_LOCK, OTP_STATUS, FE_INFO_ROMREV, FE_INFO]; omega)⟩

theorem PatchStep.applyPatches : PatchStep c c.applyPatches := by
  have judged : PatchStep c c.patchesJudged :=
    Chip.each_keeps (P := PatchStep c) _ (.refl c) fun d hd e he => hd.trans (.patchEntry d (List.mem_range.mp he))
  have shown (d : Chip) : PatchStep d d.revisionsShown :=
    Chip.each_keeps (P := PatchStep d) _ (.refl d) fun e he r _ => he.trans (.revision e r _)
  have free (d : Chip) : PatchStep d d.useFree := ⟨.useFree d, rfl⟩
  rw [Chip.applyPatches_eq]
  exact .ite judged (judged.trans ((shown _).trans (free _)))

theorem trimRegs_keep : (trimRegs.all fun a => a != SYS_STATUS && a != OTP_STATUS) = true := by decide +kernel

/-- One trim is read. -/
def Chip.trimRead : Chip := { c.useFree with nvc := { c.nvc with trims := c.nvc.trims ++ [c.freeVal.truncate 32] } }

theorem PatchStep.trimRead : PatchStep c c.trimRead := by
  have all : Only [.nvc, .free] c c.trimRead := .of_mix rfl
  exact ⟨.of_only (.of_regs (all.same .regs (by decide))) all.mono, all.get _⟩

/-- Each trim is read. -/
def Chip.trimsRead : Chip := c.each trimRegs fun d _ => d.trimRead

theorem Chip.takeTrims_eq : c.takeTrims = if c.trimmed then c.trimsRead.setTrims else c := rfl

theorem PatchStep.takeTrims : PatchStep c c.takeTrims := by
  have out {a : Nat} (ha : a ∈ trimRegs) : a ≠ SYS_STATUS ∧ a ≠ OTP_STATUS := by simpa using List.all_eq_true.mp trimRegs_keep a ha
  have read : PatchStep c c.trimsRead :=
    Chip.each_keeps (P := PatchStep c) (f := fun d _ => d.trimRead) trimRegs (.refl c) fun d hd _ _ => hd.trans (.trimRead d)
  have set (d : Chip) : PatchStep d d.setTrims := by
    obtain ⟨regs, only⟩ := d.setTrims_frame
    refine ⟨.of_only (.of_regsBut regs fun a ha => ?_) only.mono, regs.get (g := OTP_STATUS_LOCK) fun ha => (out ha).2 rfl⟩
    rintro (⟨-, -, -, trim⟩ | status)
    · exact trim ha
    · exact (out ha).1 status
  rw [Chip.takeTrims_eq]
  exact .ite (read.trans (set _)) (.refl c)

end

/-! ### A leg that a reset has left stays so when a load stops -/

section
variable (c : Chip) (l : Leg)

theorem LegState.turnOff_anew (x : LegState) (t : Nat) (g : Gate) : x.anew.turnOff t g = x.anew := by
  cases g <;> rfl

theorem Chip.legWipe_rests (rest : c.leg l = (c.leg l).anew) (free : c.legReact l = 0) :
    (c.legWipe l).leg l = ((c.legWipe l).leg l).anew := by
  have leg : (c.floatTaken l).leg l = { c.leg l with refCount := 0, refresh := none, heldOn := none, pulse := none } := Chip.leg_setLeg ..
  have taken : (c.floatTaken l).leg l = (c.leg l).anew := by
    rw [leg, rest]
    rfl
  rw [c.legWipe_leg l, c.setLegMode_float_leg l free, taken, LegState.turnOff_anew, LegState.turnOff_anew]
  rfl

theorem Chip.legsWiped_rests (rest : c.leg l = (c.leg l).anew) (free : c.legReact l = 0) :
    c.legsWiped.leg l = (c.legsWiped.leg l).anew := by
  obtain ⟨before, after, first, beyond, -, -, split⟩ := c.each_split Chip.legWipe (List.nodup_finRange 24) (List.mem_finRange l)
  obtain ⟨regs, only⟩ := c.legWipes_frame before
  have same := (c.legWipes_leg before first).1
  have react := Chip.legReact_stopped l (only.same .faults (by decide)) (regs.mono dutyRegs_stop)
  have wiped := (c.each before Chip.legWipe).legWipe_rests l (by rw [same]; exact rest) (react.trans free)
  unfold Chip.legsWiped
  rw [show c.each allLegs Chip.legWipe = _ from split, (Chip.legWipes_leg _ after beyond).1]
  exact wiped

/-- No line governs any leg: nothing is latched, and the registers that could show a line stand at reset. -/
structure Ungoverned (c : Chip) : Prop where
  latched : c.faults.latched = []
  fire : c.faults.fire = false
  shutdown : c.faults.shutdown = []
  engines : ∀ r : Region, c.reg (FE_STATUS r.val) = 0
  buses : ∀ r : Region, c.reg (BUS_STAT r.val) = 0

theorem Ungoverned.legReact (h : Ungoverned c) : c.legReact l = 0 := by
  have halt : c.get (FE_STATUS_HALT (regionOf (axisOfLeg l)).val) = 0 :=
    (congrArg (FE_STATUS_HALT (regionOf (axisOfLeg l)).val).read (h.engines _)).trans (by simp [Field.read, FE_STATUS_HALT])
  have short : c.flag (BUS_STAT_SHORT (regionOf (axisOfLeg l)).val) = false := by
    unfold Chip.flag Chip.get
    rw [show (BUS_STAT_SHORT (regionOf (axisOfLeg l)).val).addr = BUS_STAT (regionOf (axisOfLeg l)).val from rfl, h.buses]
    simp [Field.read, BUS_STAT_SHORT]
  unfold Chip.legReact Chip.curtain Chip.short Chip.reacted Chip.shutdownOn Chip.halted
  simp [h.fire, h.latched, h.shutdown, halt, short]

theorem lines_kept : ∀ r : Region, imageWritable (FE_STATUS r.val) = false ∧ imageWritable (BUS_STAT r.val) = false := by decide +kernel

theorem Ungoverned.regsUndone (h : Ungoverned c) : Ungoverned c.regsUndone := by
  have faults : c.regsUndone.faults = c.faults := (Only.regsUndone c).same .faults (by decide)
  refine ⟨by rw [faults, h.latched], by rw [faults, h.fire], by rw [faults, h.shutdown], fun r => ?_, fun r => ?_⟩
  · rw [c.regsUndone_kept (lines_kept r).1, h.engines]
  · rw [c.regsUndone_kept (lines_kept r).2, h.buses]

theorem lines_unnamed : ∀ r : Region, FE_STATUS r.val ∉ [SYS_IMGSTAT, SYS_IMGAT] ∧ BUS_STAT r.val ∉ [SYS_IMGSTAT, SYS_IMGAT] := by decide +kernel

end

section
variable (c : Chip) (cause : Nat) (r : Reason) (at' : Nat)

theorem Chip.stopLoad_rests (free : Ungoverned c) (rest : ∀ l, c.leg l = (c.leg l).anew) (l : Leg) :
    (c.stopLoad cause r at').leg l = ((c.stopLoad cause r at').leg l).anew := by
  have named : RegsBut [SYS_IMGSTAT, SYS_IMGAT] c (c.stopNamed cause r at') ∧ Only [.regs] c (c.stopNamed cause r at') :=
    ⟨((RegsBut.refl _ c).setReg SYS_IMGSTAT _ List.mem_cons_self).put SYS_IMGAT_AT at' (by decide), (Only.setReg ..).trans (.put ..)⟩
  rw [Chip.stopLoad_eq]
  generalize c.stopNamed cause r at' = d at named
  obtain ⟨regs, only⟩ := named
  have faults : d.faults = c.faults := only.same .faults (by decide)
  have still : Ungoverned d := ⟨by rw [faults, free.latched], by rw [faults, free.fire], by rw [faults, free.shutdown],
    fun q => (regs _ (lines_unnamed q).1).trans (free.engines q), fun q => (regs _ (lines_unnamed q).2).trans (free.buses q)⟩
  have leg : d.regsUndone.leg l = c.leg l := ((Only.regsUndone d).leg l (by decide)).trans (only.leg l (by decide))
  have wiped := d.regsUndone.legsWiped_rests l (by rw [leg]; exact rest l) (Ungoverned.legReact _ l (Ungoverned.regsUndone d still))
  have undone := LoadUndone.undoLoad d
  have same := d.undoLoad_wiped.1 l
  generalize d.undoLoad = e at undone same
  have house : e.intoHouse.leg l = e.leg l := (HouseEntered.intoHouse e undone.quiet).only.leg l (by decide)
  rw [house, same]
  exact wiped

theorem Chip.stopLoad_cues : (c.stopLoad cause r at').cues = { c.cues with sheet := [], disarmed := [] } := by
  have only : Only [.regs] c (c.stopNamed cause r at') := (Only.setReg ..).trans (.put ..)
  rw [Chip.stopLoad_eq]
  generalize c.stopNamed cause r at' = d at only
  have cues : d.cues = c.cues := only.same .cues (by decide)
  have undone := LoadUndone.undoLoad d
  have same := d.undoLoad_wiped.2
  generalize d.undoLoad = e at undone same
  have house : e.intoHouse.cues = e.cues := (HouseEntered.intoHouse e undone.quiet).only.same .cues (by decide)
  rw [house, same, cues]

end

/-! ### The state before the image -/

/-- What a start sequence has changed in a blank part. -/
def begunParts : List Part := [.regs, .fresh, .free, .legs, .cues, .axes, .engines, .hkSettle, .houseTick, .sensors, .wms, .faults, .load, .nvc, .hp]

/-- A start sequence has come to the image, or ended without one. -/
structure Begun (rcause : Nat) (nv : NonVolatile) (reads : List OtpRead) (c : Chip) : Prop where
  rcause : c.get SYS_STATUS_RCAUSE = rcause
  lc : c.get SYS_STATUS_LC = (nv.lifeCycle reads).1
  ambig : c.flag SYS_STATUS_LC_AMBIG = (nv.lifeCycle reads).2
  lock : c.get OTP_STATUS_LOCK = nv.locks reads
  cfgOk : c.cfgOk = false
  legs : ∀ l, c.leg l = (c.leg l).anew
  cues : c.cues = {}
  axes : c.axes = Vector.replicate 8 {}
  latched : c.faults.latched = []
  fire : c.faults.fire = false
  shutdown : c.faults.shutdown = []
  reset : ∀ a, startArea a → c.reg a = regReset a
  only : Only begunParts {} c

section
variable {rcause : Nat} {nv : NonVolatile} {reads : List OtpRead} {c : Chip}

theorem Begun.started (h : Begun rcause nv reads c) (awaits : Awaits c) : Started rcause nv reads c := by
  have same (p : Part) (out : p ∉ begunParts) : Chip.Same {} c p := h.only.same p out
  exact ⟨same .wall (by decide), h.rcause, h.lc, h.ambig, h.lock, h.cfgOk, h.legs, same .now (by decide), same .links (by decide),
    same .tbs (by decide), h.cues, same .slices (by decide), same .unders (by decide), same .ports (by decide), h.axes,
    same .buses (by decide), same .hks (by decide), h.latched, h.fire, same .rng (by decide),
    fun a range first second trim => h.reset a ⟨range, first, second, trim⟩, awaits⟩

theorem lines_reset : ∀ r : Region, (startArea (FE_STATUS r.val) ∧ regReset (FE_STATUS r.val) = 0) ∧
    (startArea (BUS_STAT r.val) ∧ regReset (BUS_STAT r.val) = 0) := by
  unfold startArea
  decide +kernel

theorem Begun.ungoverned (h : Begun rcause nv reads c) : Ungoverned c :=
  ⟨h.latched, h.fire, h.shutdown, fun r => (h.reset _ (lines_reset r).1.1).trans (lines_reset r).1.2,
    fun r => (h.reset _ (lines_reset r).2.1).trans (lines_reset r).2.2⟩

theorem stopShown_start : ∀ a ∈ stopShown, a < 0x011000 ∨ (0x020000 ≤ a ∧ a < 0x040000) := by decide

theorem OTP_STATUS_kept : imageWritable OTP_STATUS = false ∧ OTP_STATUS ∉ stopRegs := by decide +kernel

/-- A sequence that ends without an image still leaves what it has read. -/
theorem Begun.stopLoad (h : Begun rcause nv reads c) {cause : Nat} (small : cause < 16) : Begun rcause nv reads (c.stopLoad cause .ok 0) := by
  obtain ⟨-, -, -, -, -, -, cfgOk, -, -, axes, -, -, -, -, -, -, -, parts⟩ := LoadStopped.stopLoad c cause .ok 0 small
  have ended := LoadEnded.stopLoad c cause .ok 0
  have rests := c.stopLoad_rests cause .ok 0 h.ungoverned h.legs
  have cues := c.stopLoad_cues cause .ok 0
  generalize c.stopLoad cause .ok 0 = d at cfgOk axes parts ended rests cues
  have stopped : Only [.regs, .legs, .cues, .axes, .engines, .load, .wms, .fresh, .nvc, .sensors, .hkSettle, .houseTick, .faults] c d :=
    .of_mix parts
  have only : Only begunParts c d := stopped.mono
  have status (f : Field) (ok : f.ok) (home : f.addr = SYS_STATUS) (pstate : f.apart SYS_STATUS_PSTATE) (boot : f.apart SYS_STATUS_BOOT) :
      d.get f = c.get f := ended.status f ok home pstate boot
  refine ⟨?_, ?_, ?_, ?_, cfgOk.trans h.cfgOk, rests, ?_, axes, by rw [ended.faults, h.latched], by rw [ended.faults, h.fire],
    by rw [ended.faults, h.shutdown], fun a start => ?_, h.only.trans only⟩
  · exact (status _ (Field.ok_of _ rfl) rfl (Field.apart_of _ _ rfl) (Field.apart_of _ _ rfl)).trans h.rcause
  · exact (status _ (Field.ok_of _ rfl) rfl (Field.apart_of _ _ rfl) (Field.apart_of _ _ rfl)).trans h.lc
  · exact (Chip.flag_of_get (status _ (Field.ok_of _ rfl) rfl (Field.apart_of _ _ rfl) (Field.apart_of _ _ rfl))).trans h.ambig
  · exact (congrArg OTP_STATUS_LOCK.read (ended.regs OTP_STATUS OTP_STATUS_kept.1 OTP_STATUS_kept.2)).trans h.lock
  · rw [cues, h.cues]
  · exact ended.reset a start.2.2.2 (fun shown => startArea_low (stopShown_start a shown) start) (h.reset a start)

theorem settings_kept : (imageWritable (OTP_WORD 960) = false ∧ OTP_WORD 960 ∉ stopRegs) ∧
    (imageWritable (OTP_WSTAT_DOUBT 30).addr = false ∧ (OTP_WSTAT_DOUBT 30).addr ∉ stopRegs) := by decide +kernel

/-- The end of a load asks for neither. -/
theorem LoadEnded.asks {b c : Chip} (h : LoadEnded b c) : c.inStrike = b.inStrike ∧ c.nvmSetting = b.nvmSetting := by
  have lc : c.get SYS_STATUS_LC = b.get SYS_STATUS_LC := h.status _ (Field.ok_of _ rfl) rfl (Field.apart_of _ _ rfl) (Field.apart_of _ _ rfl)
  obtain ⟨⟨word, wordOut⟩, doubtful, doubtOut⟩ := settings_kept
  refine ⟨by unfold Chip.inStrike; rw [lc], ?_⟩
  unfold Chip.nvmSetting Chip.get
  rw [h.regs _ word wordOut, h.regs _ doubtful doubtOut]

/-- The step to the image awaits it, or ends the sequence with the cause. -/
theorem Awaits.beginLoad (boots : c.booting = true) (loads : c.load.stage = .loading) : Awaits c.beginLoad := by
  have stopped {cause : Nat} (small : cause < 16) : (c.stopLoad cause .ok 0).get SYS_IMGSTAT_CAUSE = cause ∧
      (c.stopLoad cause .ok 0).inHouse = true ∧ (c.stopLoad cause .ok 0).booting = false ∧ (c.stopLoad cause .ok 0).load.stage = .done := by
    obtain ⟨isCause, -, -, -, house, awake, -, done, -⟩ := LoadStopped.stopLoad c cause .ok 0 small
    exact ⟨isCause, house, awake, done⟩
  have asks (cause : Nat) := LoadEnded.asks (LoadEnded.stopLoad c cause .ok 0)
  unfold Chip.beginLoad
  split
  next strike =>
    obtain ⟨same, -⟩ := asks 8
    refine ⟨fun _ => stopped (by decide), fun off => ?_, fun off => ?_⟩ <;> rw [same, strike] at off <;> exact absurd off (by decide)
  next other =>
    have other : c.inStrike = false := by simpa using other
    split
    next w word =>
      split
      next bad =>
        obtain ⟨same, setting⟩ := asks 1
        refine ⟨fun on => ?_, fun _ _ => stopped (by decide), fun _ good => ?_⟩
        · rw [same, other] at on
          exact absurd on (by decide)
        · rw [setting, word] at good
          exact absurd (bad.symm.trans good) (by decide)
      next good =>
        have good : settingBad w = false := by simpa using good
        refine ⟨fun on => ?_, fun _ bad => ?_, fun _ _ => ⟨boots, loads⟩⟩
        · rw [other] at on
          exact absurd on (by decide)
        · rw [word] at bad
          exact absurd (good.symm.trans bad) (by decide)
    next no =>
      refine ⟨fun on => ?_, fun _ bad => ?_, fun _ _ => ⟨boots, loads⟩⟩
      · rw [other] at on
        exact absurd on (by decide)
      · rw [no] at bad
        exact absurd bad (by decide)

theorem Begun.beginLoad (h : Begun rcause nv reads c) : Begun rcause nv reads c.beginLoad := by
  unfold Chip.beginLoad
  split
  · exact h.stopLoad (by decide)
  · split
    · split
      · exact h.stopLoad (by decide)
      · exact h
    · exact h

end

section
variable (c : Chip) (rcause : Nat) (keep : Bool)

/-- The part with everything volatile wiped. -/
def Chip.bare : Chip := {
  free := c.free
  legs := c.legs.map LegState.anew
  load := { stage := .loading }
  hp := { c.hp with frames := 0 }
  nvc := { pending := c.nvc.pending, lost := c.nvc.lost } }

/-- The registers that show the reset. -/
def Chip.resetShown (v : Vector (Option Nat) 4) (hold : Bool) (n : Nat) : Chip :=
  (((c.put SYS_STATUS_RCAUSE rcause).setInjections v).putF LOG_STATUS_HOLD hold).put LOG_STATUS_PENDING n

/-- The held records wait to be written, unless they are still held. -/
def Chip.recordsFreed : Chip := if c.flag LOG_STATUS_HOLD then c else c.unholdRecords

theorem Chip.restart_eq : ∃ n, c.restart rcause keep =
    (c.bare.resetShown rcause (c.keptInjection keep) (c.flag LOG_STATUS_HOLD) n).recordsFreed := ⟨_, rfl⟩

/-- A step of the reset, which touches three registers, the injections and the records. -/
structure ResetStep (b c : Chip) : Prop where
  regs : RegsBut [SYS_STATUS, FLT_INJS, LOG_STATUS] b c
  latched : c.faults.latched = b.faults.latched
  fire : c.faults.fire = b.faults.fire
  shutdown : c.faults.shutdown = b.faults.shutdown
  only : Only [.regs, .faults, .nvc] b c

theorem Chip.resetShown_frame (v : Vector (Option Nat) 4) (hold : Bool) (n : Nat) : ResetStep c (c.resetShown rcause v hold n) := by
  have injected (d : Chip) : Only [.regs, .faults, .nvc] d (d.setInjections v) :=
    ((Only.put ..).mono : Only [.regs, .faults, .nvc] d (d.put FLT_INJS_ARMED (if v[3].isSome then 8 else 0))).trans (.of_mix rfl)
  have cause : Only [.regs, .faults, .nvc] c (c.put SYS_STATUS_RCAUSE rcause) := (Only.put ..).mono
  have held (d : Chip) : Only [.regs, .faults, .nvc] d ((d.putF LOG_STATUS_HOLD hold).put LOG_STATUS_PENDING n) :=
    ((Only.putF ..).trans (.put ..)).mono
  exact ⟨(((((RegsBut.refl _ c).put SYS_STATUS_RCAUSE rcause (by decide)).put FLT_INJS_ARMED _ (by decide)).of_regs rfl).put LOG_STATUS_HOLD _
    (by decide)).put LOG_STATUS_PENDING n (by decide), rfl, rfl, rfl, (cause.trans (injected _)).trans (held _)⟩

theorem Chip.recordsFreed_frame : ResetStep c c.recordsFreed := by
  unfold Chip.recordsFreed
  split
  · exact ⟨.refl _ c, rfl, rfl, rfl, .refl _ c⟩
  · have cleared (d : Chip) : Only [.regs, .faults, .nvc] d ((d.put LOG_STATUS_HOLD 0).put LOG_STATUS_PENDING 0) :=
      ((Only.put ..).trans (.put ..)).mono
    exact ⟨((((RegsBut.refl _ c).put LOG_STATUS_HOLD 0 (by decide)).put LOG_STATUS_PENDING 0 (by decide)).of_regs rfl), rfl, rfl, rfl,
      (cleared c).trans (.of_mix rfl)⟩

theorem ResetStep.trans {b c d : Chip} (h : ResetStep b c) (g : ResetStep c d) : ResetStep b d :=
  ⟨h.regs.trans g.regs, g.latched.trans h.latched, g.fire.trans h.fire, g.shutdown.trans h.shutdown, h.only.trans g.only⟩

/-- What a reset leaves. -/
structure Restarted (rcause : Nat) (c : Chip) : Prop where
  rcause : c.get SYS_STATUS_RCAUSE = rcause
  cfgOk : c.cfgOk = false
  boots : c.booting = true
  loads : c.load.stage = .loading
  legs : ∀ l, c.leg l = (c.leg l).anew
  latched : c.faults.latched = []
  fire : c.faults.fire = false
  shutdown : c.faults.shutdown = []
  reset : ∀ a, startArea a → c.reg a = regReset a
  only : Only [.regs, .free, .legs, .load, .hp, .nvc, .faults] {} c

theorem resetRegs_low : ∀ a ∈ [SYS_STATUS, FLT_INJS, LOG_STATUS], a < 0x011000 ∨ (0x020000 ≤ a ∧ a < 0x040000) := by decide

theorem Chip.bare_status (f : Field) (v : Vector (Option Nat) 4) (hold : Bool) (n : Nat) (home : f.addr = SYS_STATUS) :
    ((c.bare.resetShown rcause v hold n).recordsFreed).get f = (c.bare.put SYS_STATUS_RCAUSE rcause).get f := by
  have freed (d : Chip) : d.recordsFreed.get f = d.get f := by
    have other : f.addr ≠ LOG_STATUS := by rw [home]; decide
    unfold Chip.recordsFreed
    split
    · rfl
    · exact (Chip.get_put_ne _ _ _ _ other).trans (Chip.get_put_ne _ _ _ _ other)
  have injected : f.addr ≠ FLT_INJS := by rw [home]; decide
  have logged : f.addr ≠ LOG_STATUS := by rw [home]; decide
  exact (freed _).trans ((Chip.get_put_ne _ _ _ _ logged).trans ((Chip.get_put_ne _ _ _ _ logged).trans (Chip.get_put_ne _ _ _ _ injected)))

theorem reset_status : c.bare.flag SYS_STATUS_CFG_OK = false ∧ c.bare.flag SYS_STATUS_BOOT = true := by
  have word : (SYS_STATUS_CFG_OK.read (regReset SYS_STATUS) != 0) = false ∧ (SYS_STATUS_BOOT.read (regReset SYS_STATUS) != 0) = true := by
    decide +kernel
  exact word

theorem Restarted.restart (small : rcause < 4) : Restarted rcause (c.restart rcause keep) := by
  obtain ⟨n, eq⟩ := c.restart_eq rcause keep
  rw [eq]
  generalize c.keptInjection keep = v
  generalize c.flag LOG_STATUS_HOLD = hold
  have status (f : Field) (home : f.addr = SYS_STATUS) := c.bare_status rcause f v hold n home
  have step := (Chip.resetShown_frame c.bare rcause v hold n).trans (Chip.recordsFreed_frame _)
  generalize (c.bare.resetShown rcause v hold n).recordsFreed = d at status step
  have bare : Only [.regs, .free, .legs, .load, .hp, .nvc, .faults] {} c.bare := .of_mix rfl
  have load : d.load = c.bare.load := step.only.same .load (by decide)
  have legs (l : Leg) : d.leg l = (c.leg l).anew := (step.only.leg l (by decide)).trans (by
    unfold Chip.leg Chip.bare
    simp)
  have kept {f : Field} (ok : f.ok) (apart : f.apart SYS_STATUS_RCAUSE) : (c.bare.put SYS_STATUS_RCAUSE rcause).get f = c.bare.get f :=
    Chip.get_put_apart _ _ _ _ ok (Field.ok_of _ rfl) apart
  refine ⟨?_, ?_, ?_, by rw [load]; rfl, fun l => ?_, step.latched, step.fire, step.shutdown, fun a start => ?_, bare.trans step.only.mono⟩
  · exact (status _ rfl).trans (Chip.get_put_lt _ _ (Field.ok_of _ rfl) rcause small)
  · exact (Chip.flag_of_get ((status SYS_STATUS_CFG_OK rfl).trans (kept (Field.ok_of _ rfl) (Field.apart_of _ _ rfl)))).trans (reset_status c).1
  · exact (Chip.flag_of_get ((status SYS_STATUS_BOOT rfl).trans (kept (Field.ok_of _ rfl) (Field.apart_of _ _ rfl)))).trans (reset_status c).2
  · rw [legs l]
    rfl
  · exact step.regs a fun mem => startArea_low (resetRegs_low a mem) start

end

/-- A start sequence is under way and has come to the image. -/
structure AtImage (rcause : Nat) (nv : NonVolatile) (reads : List OtpRead) (c : Chip) : Prop where
  begun : Begun rcause nv reads c
  boots : c.booting = true
  loads : c.load.stage = .loading

section
variable {rcause : Nat} {nv : NonVolatile} {reads : List OtpRead} {c d : Chip}

/-- A later step of the sequence keeps all of it. -/
theorem AtImage.step (h : AtImage rcause nv reads c) (step : StartStep c d) (lock : d.get OTP_STATUS_LOCK = c.get OTP_STATUS_LOCK) :
    AtImage rcause nv reads d := by
  obtain ⟨⟨isRcause, lc, ambig, isLock, cfgOk, legs, cues, axes, latched, fire, shutdown, reset, only⟩, boots, loads⟩ := h
  have status (f : Field) (home : f.addr = SYS_STATUS) : d.get f = c.get f := step.area.get f (.inr home)
  have more : Only begunParts c d := step.only.mono
  refine ⟨⟨(status _ rfl).trans isRcause, (status _ rfl).trans lc, (Chip.flag_of_get (status _ rfl)).trans ambig, lock.trans isLock,
    (Chip.flag_of_get (status _ rfl)).trans cfgOk, fun l => ?_, ?_, ?_, step.latched.trans latched, step.fire.trans fire,
    step.shutdown.trans shutdown, fun a start => (step.area.reg a (.inl start)).trans (reset a start), only.trans more⟩,
    (Chip.flag_of_get (status _ rfl)).trans boots, step.stage.trans loads⟩
  · rw [step.only.leg l (by decide)]
    exact legs l
  · exact Eq.trans (b := c.cues) (step.only.same .cues (by decide)) cues
  · exact Eq.trans (b := c.axes) (step.only.same .axes (by decide)) axes

/-- The fuses are read. -/
theorem AtImage.readFuses (h : Restarted rcause c) : AtImage rcause nv reads (c.readFuses nv reads) := by
  have words := StartStep.wordsRead c nv reads
  rw [Chip.readFuses_keyShown]
  generalize c.wordsRead nv reads = d at words
  have votes := VotesTaken.shown d nv reads
  generalize (d.votesShown nv reads).keyShown = e at votes
  have faults : e.faults = d.faults := votes.only.same .faults (by decide)
  have load : e.load = d.load := votes.only.same .load (by decide)
  have all : Only [.regs, .fresh, .faults, .nvc, .load, .free] c e := words.only.trans votes.only.mono
  have first : Only begunParts {} c := h.only.mono
  have more : Only begunParts c e := all.mono
  have status (f : Field) (ok : f.ok) (home : f.addr = SYS_STATUS)
      (apart : ∀ g ∈ [SYS_STATUS_LC, SYS_STATUS_LC_AMBIG, OTP_STATUS_LOCK, SYS_STATUS_KEY], f.apart g) : e.get f = c.get f :=
    (votes.fields f ok apart).trans (words.area.get f (.inr home))
  have rest (l : Leg) : e.leg l = c.leg l := all.leg l (by decide)
  refine ⟨⟨?_, votes.lc, votes.ambig, votes.lock, ?_, fun l => ?_, ?_, ?_, ?_, ?_, ?_, fun a start => ?_, first.trans more⟩, ?_, ?_⟩
  · exact (status SYS_STATUS_RCAUSE (Field.ok_of _ rfl) rfl (by unfold Field.apart; decide)).trans h.rcause
  · exact (Chip.flag_of_get (status SYS_STATUS_CFG_OK (Field.ok_of _ rfl) rfl (by unfold Field.apart; decide))).trans h.cfgOk
  · rw [rest l]
    exact h.legs l
  · exact Eq.trans (b := c.cues) (all.same .cues (by decide)) (h.only.same .cues (by decide))
  · exact Eq.trans (b := c.axes) (all.same .axes (by decide)) (h.only.same .axes (by decide))
  · rw [faults, words.latched, h.latched]
  · rw [faults, words.fire, h.fire]
  · rw [faults, words.shutdown, h.shutdown]
  · refine (votes.regs a fun mem => startArea_low (a := a) ?_ start).trans ((words.area.reg a (.inl start)).trans (h.reset a start))
    have low : ∀ x ∈ [SYS_STATUS, OTP_STATUS], x < 0x011000 ∨ (0x020000 ≤ x ∧ x < 0x040000) := by decide
    exact low a mem
  · exact (Chip.flag_of_get (status SYS_STATUS_BOOT (Field.ok_of _ rfl) rfl (by unfold Field.apart; decide))).trans h.boots
  · rw [load, words.stage, h.loads]

end

/-- The start sequence, step by step. -/
theorem State.start_eq (s : State) (rcause : Nat) (keep : Bool) (reads : List OtpRead) : s.start rcause keep reads =
    { s with chip := (((((s.chip.restart rcause keep).readFuses s.nv reads).scanLog s.nv).applyPatches).takeTrims).beginLoad } := rfl

/-- A start sequence runs its steps 1 to 4. -/
theorem Started.start (s : State) {rcause : Nat} (small : rcause < 4) (keep : Bool) (reads : List OtpRead) :
    Started rcause s.nv reads (s.start rcause keep reads).chip := by
  have fuses : AtImage rcause s.nv reads _ := .readFuses (Restarted.restart s.chip rcause keep small)
  rw [State.start_eq]
  dsimp only
  generalize (s.chip.restart rcause keep).readFuses s.nv reads = c at fuses
  have scanned := fuses.step (.scanLog c s.nv) ((c.scanLog_frame s.nv).1.get (by decide))
  generalize c.scanLog s.nv = d at scanned
  have patched := scanned.step (PatchStep.applyPatches d).step (PatchStep.applyPatches d).lock
  generalize d.applyPatches = e at patched
  have trimmed := patched.step (PatchStep.takeTrims e).step (PatchStep.takeTrims e).lock
  generalize e.takeTrims = f at trimmed
  exact trimmed.begun.beginLoad.started (.beginLoad trimmed.boots trimmed.loads)

end Sys2Proof.Machine
end

section
-- One proof after the other: a side goal that `Only` settles by `decide` waits for the kernel, on a thread of its own.
set_option Elab.async false
/-! SUPPORT. What writing the logbook leaves (R332 to R337): the words of a record, the queue, a checkpoint slot, and the orderly
checkpoint. -/
namespace Sys2Proof.Machine

/-! ### The words of a record -/

section
variable (nv : NonVolatile)

theorem NonVolatile.putWords_fuses (k : Nat) (l : List Word) : (nv.putWords k l).fuses = nv.fuses := by
  induction l generalizing nv k with
  | nil => rfl
  | cons w l ih => exact ih _ (k + 1)

theorem NonVolatile.fuse_of_fuses {a b : NonVolatile} (h : b.fuses = a.fuses) (k : Nat) : b.fuse k = a.fuse k :=
  congrArg (cellsGet zeros · k) h

/-- The word at `j` of the logbook after `l` has gone to the places from `k` on. -/
theorem NonVolatile.putWords_log (k j : Nat) (l : List Word) :
    cellsGet zeros (nv.putWords k l).log j = if k ≤ j ∧ j < k + l.length then l.getD (j - k) 0 else cellsGet zeros nv.log j := by
  induction l generalizing nv k with
  | nil =>
    rw [if_neg (by simp)]
    rfl
  | cons w l ih =>
    have step := ih ({ nv with log := cellsSet zeros nv.log k w } : NonVolatile) (k + 1)
    refine step.trans ?_
    by_cases first : j = k
    · subst first
      rw [if_neg (by omega), if_pos (by simp), Nat.sub_self]
      exact cellsGet_set_same ..
    · rw [show cellsGet zeros ({ nv with log := cellsSet zeros nv.log k w } : NonVolatile).log j = cellsGet zeros nv.log j from
        cellsGet_set_ne _ _ _ first]
      by_cases inside : k + 1 ≤ j ∧ j < k + 1 + l.length
      · rw [if_pos inside, if_pos (by simp only [List.length_cons]; omega), show j - k = j - (k + 1) + 1 by omega, List.getD_cons_succ]
      · rw [if_neg inside, if_neg (by simp only [List.length_cons]; omega)]

/-- A record of eight words goes to its place. -/
theorem NonVolatile.putWords_same (r : Nat) {l : List Word} (eight : l.length = 8) {i : Nat} (hi : i < 8) :
    (nv.putWords (8 * r) l).logWord r i = l.getD i 0 := by
  unfold NonVolatile.logWord
  rw [nv.putWords_log, if_pos (by omega), show 8 * r + i - 8 * r = i by omega]

/-- A record of eight words leaves the other places. -/
theorem NonVolatile.putWords_other {r q : Nat} {l : List Word} (eight : l.length = 8) (other : q ≠ r) {i : Nat} (hi : i < 8) :
    (nv.putWords (8 * r) l).logWord q i = nv.logWord q i := by
  unfold NonVolatile.logWord
  rw [nv.putWords_log, if_neg (by omega)]

theorem withCrc_length (l : List Word) : (withCrc l).length = l.length + 1 := by simp [withCrc]

theorem LogRec.words_length (x : LogRec) (seq : Word) (lost : Bool) (boot : Nat) : (x.words seq lost boot).length = 8 := by
  rw [LogRec.words, withCrc_length]
  rfl

theorem Chip.slotWords_length (c : Chip) (j : Nat) : (c.slotWords j).length = 8 := by
  unfold Chip.slotWords
  rw [withCrc_length, List.length_append, List.length_map, List.length_range]
  rfl

theorem Chip.freeWords_frame (c : Chip) (n : Nat) : (c.freeWords n).2.length = n ∧ Only [.free] c (c.freeWords n).1 := by
  induction n generalizing c with
  | zero => exact ⟨rfl, .refl _ c⟩
  | succ n ih =>
    obtain ⟨len, only⟩ := ih c.useFree
    have free : Only [.free] c c.useFree := .of_mix rfl
    exact ⟨congrArg (· + 1) len, free.trans only⟩

/-- The type of a record stands in the top byte of its second word. -/
theorem LogRec.words_type (x : LogRec) (seq : Word) (lost : Bool) {boot : Nat} (small : boot < 2 ^ 16) (type : x.type < 2 ^ 8) :
    (x.words seq lost boot).getD 1 0 >>> 24 = BitVec.ofNat 32 x.type := by
  have word : (x.words seq lost boot).getD 1 0 = BitVec.ofNat 32 (2 ^ 24 * x.type + 2 ^ 23 * x.pending.toNat + 2 ^ 22 * lost.toNat + boot) := rfl
  have bits : x.pending.toNat ≤ 1 ∧ lost.toNat ≤ 1 := ⟨Bool.toNat_le _, Bool.toNat_le _⟩
  rw [word]
  apply BitVec.eq_of_toNat_eq
  rw [BitVec.toNat_ushiftRight, BitVec.toNat_ofNat, BitVec.toNat_ofNat, Nat.shiftRight_eq_div_pow]
  generalize x.type = t at type ⊢
  omega

end

/-! ### One record -/

/-- The registers that writing a record changes. -/
def bookRegs (ok : Bool) : List Nat := if ok then [LOG_SEQ, LOG_HEAD] else [LOG_FAILS]

/-- Records have been written, or have failed, as `ok` says. -/
structure BookStep (ok : Bool) (s t : State) : Prop where
  pending : t.pending = s.pending
  fuses : t.nv.fuses = s.nv.fuses
  regs : RegsBut (bookRegs ok) s.chip t.chip
  nvc : t.chip.nvc = { s.chip.nvc with queue := t.chip.nvc.queue, lost := t.chip.nvc.lost, ring := t.chip.nvc.ring }
  only : Only [.regs, .fresh, .faults, .nvc, .free] s.chip t.chip

theorem BookStep.refl (ok : Bool) (s : State) : BookStep ok s s := ⟨rfl, rfl, .refl _ _, rfl, .refl _ _⟩

theorem BookStep.trans {ok : Bool} {s t u : State} (h : BookStep ok s t) (g : BookStep ok t u) : BookStep ok s u :=
  ⟨g.pending.trans h.pending, g.fuses.trans h.fuses, h.regs.trans g.regs, by rw [g.nvc, h.nvc], h.only.trans g.only⟩

section
variable (s : State)

/-- The part after a record is in its place. -/
def Chip.recordIn (c : Chip) (rest : List LogRec) : Chip :=
  { (c.setReg LOG_SEQ (nextSeq (c.reg LOG_SEQ))).put LOG_HEAD_REC c.nvc.ring.val with
    nvc := { c.nvc with queue := rest, lost := false, ring := nextRing c.nvc.ring } }

/-- The words of the oldest record. -/
def Chip.recordWords (c : Chip) (x : LogRec) : List Word := x.words (nextSeq (c.reg LOG_SEQ)) c.nvc.lost (c.get LOG_BOOT_BOOT)

theorem Chip.recordIn_boot (c : Chip) : ((c.setReg LOG_SEQ (nextSeq (c.reg LOG_SEQ))).put LOG_HEAD_REC c.nvc.ring.val).get LOG_BOOT_BOOT =
    c.get LOG_BOOT_BOOT := by
  have regs : RegsBut [LOG_SEQ, LOG_HEAD] c ((c.setReg LOG_SEQ (nextSeq (c.reg LOG_SEQ))).put LOG_HEAD_REC c.nvc.ring.val) :=
    ((RegsBut.refl _ c).setReg LOG_SEQ _ (by decide)).put LOG_HEAD_REC _ (by decide)
  exact regs.get (by decide)

/-- The oldest record is written. -/
theorem State.writeRecord_ok {x : LogRec} {rest : List LogRec} (head : s.chip.nvc.queue = x :: rest) : s.writeRecord true =
    { s with nv := s.nv.putWords (8 * s.chip.nvc.ring.val) (s.chip.recordWords x), chip := s.chip.recordIn rest } := by
  unfold State.writeRecord
  dsimp only
  rw [head]
  have boot := s.chip.recordIn_boot
  unfold Chip.recordWords
  rw [← boot]
  rfl

/-- The oldest record fails. -/
theorem State.writeRecord_bad (waits : s.chip.nvc.queue ≠ []) : s.writeRecord false =
    let t := s.writeFails s.chip.nvc.ring.val
    { t with chip := { t.chip with nvc := { t.chip.nvc with ring := nextRing s.chip.nvc.ring } } } := by
  obtain ⟨x, rest, head⟩ := List.exists_cons_of_ne_nil waits
  unfold State.writeRecord
  dsimp only
  rw [head] <;> rfl

theorem Chip.recordIn_frame (c : Chip) (rest : List LogRec) : (c.recordIn rest).reg LOG_SEQ = nextSeq (c.reg LOG_SEQ) ∧
    (c.recordIn rest).get LOG_HEAD_REC = c.nvc.ring.val ∧ RegsBut [LOG_SEQ, LOG_HEAD] c (c.recordIn rest) ∧
    Only [.regs, .nvc] c (c.recordIn rest) := by
  have seq : (c.setReg LOG_SEQ (nextSeq (c.reg LOG_SEQ))).reg LOG_SEQ = nextSeq (c.reg LOG_SEQ) := Chip.reg_setReg ..
  have put : Only [.regs, .nvc] c ((c.setReg LOG_SEQ (nextSeq (c.reg LOG_SEQ))).put LOG_HEAD_REC c.nvc.ring.val) :=
    ((Only.setReg ..).trans (.put ..)).mono
  refine ⟨?_, ?_, (((RegsBut.refl _ c).setReg LOG_SEQ _ (by decide)).put LOG_HEAD_REC _ (by decide)).of_regs rfl, put.trans (.of_mix rfl)⟩
  · exact (Chip.reg_put_ne _ LOG_HEAD_REC _ (by decide)).trans seq
  · exact Chip.get_put_lt _ LOG_HEAD_REC (Field.ok_of _ rfl) _ c.nvc.ring.isLt

theorem State.writeFails_frame (r : Nat) : (s.writeFails r).pending = s.pending ∧ (s.writeFails r).nv.fuses = s.nv.fuses ∧
    (∀ q i, i < 8 → q ≠ r → (s.writeFails r).nv.logWord q i = s.nv.logWord q i) ∧
    (s.writeFails r).chip.get LOG_FAILS_FAILS = min (s.chip.get LOG_FAILS_FAILS + 1) LOG_FAILS_FAILS.top ∧
    Raised 0xF3 s.chip (s.writeFails r).chip ∧ (s.writeFails r).chip.nvc = s.chip.nvc ∧
    FieldsBut [LOG_FAILS_FAILS] s.chip (s.writeFails r).chip ∧ RegsBut [LOG_FAILS] s.chip (s.writeFails r).chip ∧
    Only [.regs, .fresh, .faults, .free] s.chip (s.writeFails r).chip := by
  obtain ⟨eight, free⟩ := s.chip.freeWords_frame 8
  have eq : s.writeFails r = { s with
      nv := s.nv.putWords (8 * r) (s.chip.freeWords 8).2, chip := ((s.chip.freeWords 8).1.bump LOG_FAILS_FAILS 1).raise 0xF3 } := rfl
  rw [eq]
  generalize (s.chip.freeWords 8).2 = l at eight
  generalize (s.chip.freeWords 8).1 = d at free
  have regs : d.regs = s.chip.regs := free.same .regs (by decide)
  have faults : d.faults = s.chip.faults := free.same .faults (by decide)
  have nvc : d.nvc = s.chip.nvc := free.same .nvc (by decide)
  have get (f : Field) : d.get f = s.chip.get f := congrArg f.read (Chip.reg_of_regs regs f.addr)
  have bumped : Only [.regs, .fresh, .faults, .free] d (d.bump LOG_FAILS_FAILS 1) := (Only.bump ..).mono
  have ok : LOG_FAILS_FAILS.ok := Field.ok_of _ rfl
  refine ⟨rfl, NonVolatile.putWords_fuses .., fun q i hi other => NonVolatile.putWords_other _ eight other hi, ?_, Raised.raise faults, nvc,
    fun g gOk apart => ?_, ?_, ((free.mono : Only [.regs, .fresh, .faults, .free] s.chip d).trans bumped).trans (Only.raise ..).mono⟩
  · exact (d.get_bump _ ok 1).trans (by rw [get])
  · exact ((FieldsBut.refl [LOG_FAILS_FAILS] d).bump LOG_FAILS_FAILS 1 ok List.mem_cons_self g gOk apart).trans (get g)
  · exact fun a out => (((RegsBut.refl [LOG_FAILS] d).bump LOG_FAILS_FAILS 1 List.mem_cons_self) a out).trans (Chip.reg_of_regs regs a)

theorem State.writeRecord_none (none : s.chip.nvc.queue = []) (ok : Bool) : s.writeRecord ok = s := by
  unfold State.writeRecord
  dsimp only
  rw [none] <;> rfl

theorem BookStep.writeRecord (ok : Bool) : BookStep ok s (s.writeRecord ok) := by
  rcases waits : s.chip.nvc.queue with _ | ⟨x, rest⟩
  · rw [s.writeRecord_none waits]
    exact .refl ok s
  cases ok with
  | true =>
    obtain ⟨-, -, regs, only⟩ := s.chip.recordIn_frame rest
    rw [s.writeRecord_ok waits]
    exact ⟨rfl, NonVolatile.putWords_fuses .., regs, rfl, only.mono⟩
  | false =>
    obtain ⟨pending, fuses, -, -, -, nvc, -, regs, only⟩ := s.writeFails_frame s.chip.nvc.ring.val
    rw [s.writeRecord_bad (by rw [waits]; simp)]
    generalize s.writeFails s.chip.nvc.ring.val = t at *
    have all : Only [.regs, .fresh, .faults, .nvc, .free] s.chip t.chip := only.mono
    exact ⟨pending, fuses, regs.of_regs rfl, by dsimp only; rw [nvc], all.trans (.of_mix rfl)⟩

/-- What a record that fails leaves waiting. -/
theorem State.writeRecord_waits : (s.writeRecord false).chip.nvc.queue = s.chip.nvc.queue := by
  by_cases none : s.chip.nvc.queue = []
  · rw [s.writeRecord_none none]
  · obtain ⟨-, -, -, -, -, nvc, -⟩ := s.writeFails_frame s.chip.nvc.ring.val
    rw [s.writeRecord_bad none]
    exact (congrArg NvCtl.queue nvc : (s.writeFails s.chip.nvc.ring.val).chip.nvc.queue = _)

end

/-! ### The queue -/

theorem BookStep.writeQueue (ok : Bool) (n : Nat) (s : State) : BookStep ok s (s.writeQueue ok n) := by
  induction n generalizing s with
  | zero => exact .refl ok s
  | succ n ih => exact (BookStep.writeRecord s ok).trans (ih _)

theorem State.writeQueue_waits (n : Nat) (s : State) : (s.writeQueue false n).chip.nvc.queue = s.chip.nvc.queue := by
  induction n generalizing s with
  | zero => rfl
  | succ n ih => exact (ih _).trans s.writeRecord_waits

/-- Every record that waits is written. -/
theorem State.writeQueue_all (s : State) {n : Nat} (all : s.chip.nvc.queue.length = n) : (s.writeQueue true n).chip.nvc.queue = [] := by
  induction n generalizing s with
  | zero => exact List.length_eq_zero_iff.mp all
  | succ n ih =>
    obtain ⟨x, rest, head⟩ := List.exists_cons_of_length_eq_add_one all
    have left : (s.writeRecord true).chip.nvc.queue = rest := by
      rw [s.writeRecord_ok head]
      rfl
    refine ih (s.writeRecord true) ?_
    rw [left]
    rw [head] at all
    simpa using all

/-- The last record to be written stands at the head of the logbook. -/
theorem State.writeQueue_last (s : State) (l : List LogRec) (x : LogRec) (type : x.type < 2 ^ 8) (waits : s.chip.nvc.queue = l ++ [x]) :
    (s.writeQueue true (l.length + 1)).nv.logWord ((s.writeQueue true (l.length + 1)).chip.get LOG_HEAD_REC) 1 >>> 24 =
      BitVec.ofNat 32 x.type := by
  induction l generalizing s with
  | nil =>
    obtain ⟨-, head, -⟩ := s.chip.recordIn_frame []
    have last : s.writeQueue true 1 = s.writeRecord true := rfl
    rw [List.length_nil, Nat.zero_add, last, s.writeRecord_ok waits]
    dsimp only
    rw [head, NonVolatile.putWords_same _ _ (l := s.chip.recordWords x) (LogRec.words_length ..) (by decide : 1 < 8)]
    exact x.words_type _ _ (s.chip.get_lt LOG_BOOT_BOOT) type
  | cons y l ih =>
    have left : (s.writeRecord true).chip.nvc.queue = l ++ [x] := by
      rw [s.writeRecord_ok waits]
      rfl
    exact ih (s.writeRecord true) left

/-! ### The orderly checkpoint (R337) -/

/-- Words of the logbook have changed, and nothing else. -/
structure SlotsWritten (s t : State) : Prop where
  pending : t.pending = s.pending
  fuses : t.nv.fuses = s.nv.fuses
  chip : t.chip = s.chip

theorem SlotsWritten.writeSlots (l : List Nat) (s : State) : SlotsWritten s (s.writeSlots l) := by
  induction l generalizing s with
  | nil => exact ⟨rfl, rfl, rfl⟩
  | cons j l ih =>
    obtain ⟨pending, fuses, chip⟩ := ih (s.writeSlot j true)
    exact ⟨pending, fuses.trans (NonVolatile.putWords_fuses ..), chip⟩

/-- LOG_BUSY ends. -/
def Chip.bookClosed (c : Chip) : Chip := { (c.put SYS_STATUS_LOG_BUSY 0).put LOG_STATUS_BUSY 0 with nvc := { c.nvc with orderly := none } }

theorem State.closeBook_eq (s : State) (cause : Nat) : s.closeBook cause =
    let d := (s.writeSlots (List.range 136)).chip.logArise 3 (BitVec.ofNat 32 cause) 0 0
    let t := ({ s.writeSlots (List.range 136) with chip := d } : State).writeQueue true d.nvc.queue.length
    { t with chip := t.chip.bookClosed } := rfl

/-- An orderly checkpoint has been taken. -/
structure BookClosed (s t : State) : Prop where
  pending : t.pending = s.pending
  fuses : t.nv.fuses = s.nv.fuses
  regs : RegsBut [SYS_STATUS, LOG_STATUS, LOG_SEQ, LOG_HEAD] s.chip t.chip
  orderly : t.chip.nvc.orderly = none
  busy : t.chip.flag SYS_STATUS_LOG_BUSY = false ∧ t.chip.flag LOG_STATUS_BUSY = false
  queue : t.chip.nvc.queue = []
  only : Only [.regs, .fresh, .faults, .nvc, .free] s.chip t.chip

theorem BookClosed.closeBook (s : State) (cause : Nat) : BookClosed s (s.closeBook cause) := by
  obtain ⟨pending, fuses, chip⟩ := SlotsWritten.writeSlots (List.range 136) s
  rw [State.closeBook_eq]
  dsimp only
  generalize s.writeSlots (List.range 136) = q at pending fuses chip
  have arisen := Chip.logArise_regsBut q.chip 3 (BitVec.ofNat 32 cause) 0 0
  have arise : Only [.regs, .fresh, .nvc] q.chip (q.chip.logArise 3 (BitVec.ofNat 32 cause) 0 0) := Only.logArise ..
  generalize q.chip.logArise 3 (BitVec.ofNat 32 cause) 0 0 = d at arisen arise
  have written := BookStep.writeQueue true d.nvc.queue.length ({ q with chip := d } : State)
  have none := State.writeQueue_all ({ q with chip := d } : State) rfl
  generalize ({ q with chip := d } : State).writeQueue true d.nvc.queue.length = t at written none
  rw [chip] at arisen arise
  have first : Only [.regs, .fresh, .faults, .nvc, .free] s.chip t.chip :=
    (arise.mono : Only [.regs, .fresh, .faults, .nvc, .free] s.chip d).trans written.only
  have last : Only [.regs, .fresh, .faults, .nvc, .free] t.chip t.chip.bookClosed :=
    ((Only.put t.chip SYS_STATUS_LOG_BUSY 0).trans (.put _ LOG_STATUS_BUSY 0)).mono.trans (.of_mix rfl)
  have zero (e : Chip) (f : Field) (ok : f.ok) : (e.put f 0).flag f = false := e.flag_putF f ok false
  have busyOk : SYS_STATUS_LOG_BUSY.ok := Field.ok_of _ rfl
  have shownOk : LOG_STATUS_BUSY.ok := Field.ok_of _ rfl
  refine ⟨written.pending.trans pending, written.fuses.trans fuses, ?_, rfl, ⟨?_, ?_⟩, none, first.trans last⟩
  · have shown : RegsBut [SYS_STATUS, LOG_STATUS, LOG_SEQ, LOG_HEAD] s.chip t.chip :=
      (arisen.mono (by decide)).trans (written.regs.mono (by decide))
    exact ((shown.put SYS_STATUS_LOG_BUSY 0 (by decide)).put LOG_STATUS_BUSY 0 (by decide)).of_regs rfl
  · have kept : t.chip.bookClosed.get SYS_STATUS_LOG_BUSY = (t.chip.put SYS_STATUS_LOG_BUSY 0).get SYS_STATUS_LOG_BUSY :=
      Chip.get_put_ne _ _ _ _ (by decide)
    exact (Chip.flag_of_get kept).trans (zero _ _ busyOk)
  · exact zero _ _ shownOk

end Sys2Proof.Machine
end

section
-- One proof after the other: a side goal that `Only` settles by `decide` waits for the kernel, on a thread of its own.
set_option Elab.async false
/-! SUPPORT. How a request that reaches the fuses or the logbook is judged, and the statement about nRESET, RESET and RELOAD (R78, R297,
R300, R310, R337, Table 12-1). -/
namespace Sys2Proof.Machine

/-! ### Requests that reach the fuses or the logbook -/

section
variable {s : State} {p : Path} {conds : Chip → List (Bool × Reason)} {f : State → State} {i : Instr}

/-- The reason of such a request. -/
def Chip.verdict (c : Chip) (conds : Chip → List (Bool × Reason)) : Reason :=
  if c.gate false = .ok then judge (conds c) else (c.gate false).under (judge (conds c))

theorem State.judged_eq (carries : s.chip.carries p = true) : s.judged p false conds f =
    let t := if s.chip.verdict conds = .ok then f s else s
    { t with chip := t.chip.answer p (s.chip.verdict conds) } := by
  unfold State.judged
  dsimp only
  rw [carries]
  rfl

theorem refuses_of_verdict {r : Reason} (row : exec i s = .next (s.judged p false conds f)) (carries : s.chip.carries p = true)
    (bad : s.chip.verdict conds = r) (refused : r ≠ .ok) : Refuses i p s r := by
  unfold Refuses
  rw [row, State.judged_eq carries, bad]
  dsimp only
  rw [if_neg refused]

theorem Chip.verdict_serves {c : Chip} (serving : c.serves p) : c.verdict conds = judge (conds c) := by
  obtain ⟨-, awake, lit⟩ := serving
  unfold Chip.verdict Chip.gate
  rw [awake, lit]
  rfl

theorem Chip.verdict_booting {c : Chip} (boots : c.booting = true) : c.verdict conds = Reason.busy.under (judge (conds c)) := by
  unfold Chip.verdict Chip.gate
  rw [boots]
  rfl

theorem Chip.verdict_dark {c : Chip} (awake : c.booting = false) (dark : c.inDark = true) : c.verdict conds = .state := by
  unfold Chip.verdict Chip.gate
  rw [awake, dark]
  exact Reason.state_under _

/-- An accepted request. -/
theorem exec_of_judged (row : exec i s = .next (s.judged p false conds f)) (serving : s.chip.serves p) (clear : judge (conds s.chip) = .ok) :
    exec i s = .next { f s with chip := (f s).chip.answer p .ok } := by
  rw [row, State.judged_eq serving.1, Chip.verdict_serves serving, clear]
  rfl

end

/-! ### nRESET -/

theorem Started.answer {n : Nat} {nv : NonVolatile} {reads : List OtpRead} {c : Chip} (h : Started n nv reads c) (p : Path) (r : Reason) :
    Started n nv reads (c.answer p r) := by
  cases p <;> exact h

theorem completes_nresetRise {s : State} {reads : List OtpRead} (held : s.chip.load.stage = .held) :
    Completes (.nresetRise reads) s (Started 0 s.nv reads) := by
  refine ⟨(s.start 0 false reads).chip, ?_, Started.start s (by decide) false reads⟩
  have rise : s.nresetRise reads = s.start 0 false reads := if_pos (by rw [held]; rfl)
  rw [show exec (.nresetRise reads) s = .next (s.nresetRise reads) from rfl, rise]
  rfl

theorem idles_nresetRise {s : State} {reads : List OtpRead} (runs : s.chip.load.stage ≠ .held) : exec (.nresetRise reads) s = .next s := by
  have still : s.nresetRise reads = s := if_neg (by simpa using runs)
  rw [show exec (.nresetRise reads) s = .next (s.nresetRise reads) from rfl, still]

theorem completes_nresetFall (s : State) : Completes .nresetFall s fun c =>
    c.regs = [] ∧ c.load.stage = .held ∧ (∀ l, c.leg l = (s.chip.leg l).anew ∧ (c.leg l).ghOn = false ∧ (c.leg l).glOn = false) ∧
      (∀ p, (c.port p).hiZ = true) ∧ c.wall = 0 ∧ c.now = 0 ∧ c.faults = {} ∧ c.cues = {} ∧
      c.axes = Vector.replicate 8 {} ∧ c.slices = Vector.replicate 41 {} ∧
      c.nvc = { pending := s.chip.nvc.pending, lost := s.chip.nvc.lost } := by
  have leg (l : Leg) : s.chip.nresetFall.leg l = (s.chip.leg l).anew := by
    unfold Chip.leg Chip.nresetFall
    simp
  refine ⟨s.chip.nresetFall, rfl, rfl, rfl, fun l => ⟨leg l, ?_, ?_⟩, fun p => ?_, rfl, rfl, rfl, rfl, rfl, rfl, rfl⟩
  · rw [leg l]
    rfl
  · rw [leg l]
    rfl
  · unfold Chip.port Chip.nresetFall
    simp

/-! ### RESET -/

section
variable {s : State} {p : Path} {reads : List OtpRead}

theorem resetConds_ok (idle : s.chip.flag SYS_STATUS_LOG_BUSY = false) (free : s.chip.nvc.op = none) : judge s.chip.resetConds = .ok := by
  unfold Chip.resetConds
  rw [idle, free]
  rfl

/-- The only reason of RESET's own rules. -/
theorem resetConds_busy : judge s.chip.resetConds = .ok ∨ judge s.chip.resetConds = .busy := by
  unfold Chip.resetConds
  cases s.chip.flag SYS_STATUS_LOG_BUSY <;> cases s.chip.nvc.op.isSome
  · exact .inl rfl
  all_goals exact .inr rfl

theorem refuses_reset (serving : s.chip.serves p) (busy : s.chip.flag SYS_STATUS_LOG_BUSY = true ∨ s.chip.nvc.op.isSome = true) :
    Refuses (.reset p reads) p s .busy := by
  refine refuses_of_verdict (conds := Chip.resetConds) rfl serving.1 ?_ (by decide)
  rw [Chip.verdict_serves serving]
  unfold Chip.resetConds
  rcases busy with book | op
  · rw [book]
    cases s.chip.nvc.op.isSome <;> rfl
  · rw [op]
    cases s.chip.flag SYS_STATUS_LOG_BUSY <;> rfl

theorem refuses_reset_booting (carries : s.chip.carries p = true) (boots : s.chip.booting = true) : Refuses (.reset p reads) p s .busy := by
  refine refuses_of_verdict (conds := Chip.resetConds) rfl carries ?_ (by decide)
  rw [Chip.verdict_booting boots]
  rcases resetConds_busy (s := s) with own | own <;> rw [own] <;> rfl

theorem refuses_reset_dark (carries : s.chip.carries p = true) (awake : s.chip.booting = false) (dark : s.chip.inDark = true) :
    Refuses (.reset p reads) p s .state :=
  refuses_of_verdict (conds := Chip.resetConds) rfl carries (Chip.verdict_dark awake dark) (by decide)

/-- LOG_BUSY shows in its two fields. -/
structure BusyShown (b : Bool) (c d : Chip) : Prop where
  status : d.flag SYS_STATUS_LOG_BUSY = b
  log : d.flag LOG_STATUS_BUSY = b
  fields : FieldsBut [SYS_STATUS_LOG_BUSY, LOG_STATUS_BUSY] c d
  only : Only [.regs] c d

theorem BusyShown.logBusy (c : Chip) (b : Bool) : BusyShown b c (c.logBusy b) := by
  have statusOk : SYS_STATUS_LOG_BUSY.ok := Field.ok_of _ rfl
  have logOk : LOG_STATUS_BUSY.ok := Field.ok_of _ rfl
  refine ⟨?_, Chip.flag_putF _ _ logOk b, ?_, (Only.putF ..).trans (.putF ..)⟩
  · have kept : (c.logBusy b).get SYS_STATUS_LOG_BUSY = (c.putF SYS_STATUS_LOG_BUSY b).get SYS_STATUS_LOG_BUSY :=
      Chip.get_put_ne _ _ _ _ (by decide)
    exact (Chip.flag_of_get kept).trans (Chip.flag_putF _ _ statusOk b)
  · exact ((FieldsBut.refl _ c).putF SYS_STATUS_LOG_BUSY b statusOk (by simp)).putF LOG_STATUS_BUSY b logOk (by simp)

theorem BusyShown.mayLog {b : Bool} {c d : Chip} (h : BusyShown b c d) : d.mayLog = c.mayLog := by
  have state : d.get SYS_STATUS_PSTATE = c.get SYS_STATUS_PSTATE := h.fields _ (Field.ok_of _ rfl) (by unfold Field.apart; decide)
  have hold : d.get LOG_STATUS_HOLD = c.get LOG_STATUS_HOLD := h.fields _ (Field.ok_of _ rfl) (by unfold Field.apart; decide)
  unfold Chip.mayLog Chip.inDark
  rw [state, Chip.flag_of_get hold]

theorem State.reset1_eq : s.reset1 reads =
    if !s.chip.mayLog then s.orderlyRequest 1 reads else ((s.orderlyRequest 1 reads).closeBook 1).start 1 true reads := by
  have may : (s.orderlyRequest 1 reads).chip.mayLog = s.chip.mayLog := (BusyShown.logBusy s.chip true).mayLog
  have run : s.reset1 reads = if !(s.orderlyRequest 1 reads).chip.mayLog then s.orderlyRequest 1 reads
    else ((s.orderlyRequest 1 reads).closeBook 1).start 1 true reads := rfl
  rw [run, may]

/-- An accepted RESET. -/
theorem reset_accepted (serving : s.chip.serves p) (idle : s.chip.flag SYS_STATUS_LOG_BUSY = false) (free : s.chip.nvc.op = none) :
    ∃ t, exec (.reset p reads) s = .next t ∧ t.pending = s.pending ∧ t.nv.fuses = s.nv.fuses ∧
      (s.chip.mayLog = true → Started 1 t.nv reads t.chip) ∧
      (s.chip.mayLog = false →
        t = { s with chip := ({ s.chip.logBusy true with
          nvc := { s.chip.nvc with orderly := some 1, reads := reads } } : Chip).answer p .ok }) := by
  have row : exec (.reset p reads) s = .next (s.judged p false Chip.resetConds fun s => s.reset1 reads) := rfl
  refine ⟨_, exec_of_judged row serving (resetConds_ok idle free), ?_⟩
  rw [State.reset1_eq]
  cases may : s.chip.mayLog with
  | false => exact ⟨rfl, rfl, fun h => absurd h (by decide), fun _ => rfl⟩
  | true =>
    have closed := BookClosed.closeBook (s.orderlyRequest 1 reads) 1
    have started := Started.start ((s.orderlyRequest 1 reads).closeBook 1) (rcause := 1) (by decide) true reads
    exact ⟨closed.pending, closed.fuses, fun _ => started.answer p .ok, fun h => absurd h (by decide)⟩

end

/-! ### RELOAD -/

section
variable (c : Chip) (p : Path)

/-- What a reload has wiped, with the trims set anew. -/
def Chip.reloadWiped : Chip := (c.wipe.setInjections (c.keptInjection true)).setTrims

/-- The loader starts anew. -/
def Chip.reloadTaken : Chip := { c with
  load := { c.load with stage := .loading, since := c.now, header := none, cur := none, bytes := [], body := [] }
  hp := { c.hp with frames := if p = .host then 1 else 0 } }

theorem Chip.reloadNow_eq : Chip.reloadNow p c =
    (((c.reloadWiped.reloadTaken p).put SYS_STATUS_BOOT 1).put SYS_STATUS_RCAUSE 3).beginLoad := by
  unfold Chip.reloadNow Chip.reloadWiped Chip.reloadTaken
  rfl

/-- What a reload leaves, before and after its image is awaited. -/
structure Reloading (b c : Chip) : Prop where
  rcause : c.get SYS_STATUS_RCAUSE = 3
  sheet : c.cues.sheet = []
  axes : c.axes = Vector.replicate 8 {}
  engines : c.engines = Vector.replicate 2 none
  legs : ∀ l, c.legMode l = 0 ∧ c.duty1 l = 0
  since : c.load.since = b.now
  latched : c.faults.latched = b.faults.latched
  only : Only [.regs, .legs, .cues, .axes, .engines, .load, .wms, .fresh, .nvc, .sensors, .hkSettle, .houseTick, .faults, .hp] b c

theorem Reloading.stopLoad {b c : Chip} (h : Reloading b c) {cause : Nat} (small : cause < 16) : Reloading b (c.stopLoad cause .ok 0) := by
  obtain ⟨-, -, -, -, -, -, -, -, sheet, axes, engines, -, -, -, legs, -, -, parts⟩ := LoadStopped.stopLoad c cause .ok 0 small
  have ended := LoadEnded.stopLoad c cause .ok 0
  generalize c.stopLoad cause .ok 0 = d at *
  have stopped : Only [.regs, .legs, .cues, .axes, .engines, .load, .wms, .fresh, .nvc, .sensors, .hkSettle, .houseTick, .faults] c d :=
    .of_mix parts
  refine ⟨?_, sheet, axes, engines, fun l => ⟨(legs l).1, (legs l).2.1⟩, ended.since.trans h.since, ?_, h.only.trans stopped.mono⟩
  · exact (ended.status _ (Field.ok_of _ rfl) rfl (Field.apart_of _ _ rfl) (Field.apart_of _ _ rfl)).trans h.rcause
  · rw [ended.faults]
    exact h.latched

theorem Reloading.beginLoad {b c : Chip} (h : Reloading b c) : Reloading b c.beginLoad := by
  unfold Chip.beginLoad
  split
  · exact h.stopLoad (by decide)
  · split
    · split
      · exact h.stopLoad (by decide)
      · exact h
    · exact h

theorem LEG_DUTY_beyond (l : Leg) : LEG_DUTY l.val ∉ FLT_INJS :: trimRegs := by
  have out : ∀ x ∈ FLT_INJS :: trimRegs, x ∉ dutyRegs := by decide +kernel
  exact fun mem => out _ mem (LEG_DUTY_mem l)

theorem Chip.setInjections_frame (v : Vector (Option Nat) 4) : RegsBut [FLT_INJS] c (c.setInjections v) ∧
    Only [.regs, .faults] c (c.setInjections v) ∧ (c.setInjections v).faults.latched = c.faults.latched := by
  have put : Only [.regs, .faults] c (c.put FLT_INJS_ARMED (if v[3].isSome then 8 else 0)) := (Only.put ..).mono
  exact ⟨((RegsBut.refl _ _).put FLT_INJS_ARMED _ (by decide)).of_regs rfl, put.trans (.of_mix rfl), rfl⟩

/-- The wipe of a reload. -/
theorem Chip.reloadWiped_frame : c.reloadWiped.cues.sheet = [] ∧ c.reloadWiped.axes = Vector.replicate 8 {} ∧
    c.reloadWiped.engines = Vector.replicate 2 none ∧ (∀ l, c.reloadWiped.legMode l = 0 ∧ c.reloadWiped.duty1 l = 0) ∧
    c.reloadWiped.faults.latched = c.faults.latched ∧ Only [.regs, .legs, .cues, .axes, .engines, .load, .faults] c c.reloadWiped := by
  have wiped := c.wipe_frame.2
  have memories := Only.memoriesWiped c.legsWiped
  have legs (l : Leg) := LegWiped.legsWiped c l
  have cleared : c.wipe.cues.sheet = [] ∧ c.wipe.axes = Vector.replicate 8 {} ∧ c.wipe.engines = Vector.replicate 2 none := by
    rw [Chip.wipe_eq]
    exact ⟨rfl, rfl, rfl⟩
  have duty (l : Leg) : c.wipe.reg (LEG_DUTY l.val) = c.legsWiped.reg (LEG_DUTY l.val) := memories.reg _ (by decide)
  have inject := c.wipe.setInjections_frame (c.keptInjection true)
  have faults : c.wipe.faults = c.faults := wiped.same .faults (by decide)
  unfold Chip.reloadWiped
  generalize c.wipe = d at wiped cleared duty inject faults
  obtain ⟨injRegs, injected, latched⟩ := inject
  generalize d.setInjections (c.keptInjection true) = e at injRegs injected latched
  obtain ⟨trimmedRegs, trimmed⟩ := e.setTrims_frame
  generalize e.setTrims = g at trimmedRegs trimmed
  have after : Only [.regs, .faults] d g := injected.trans trimmed.mono
  have reg (l : Leg) : g.reg (LEG_DUTY l.val) = c.legsWiped.reg (LEG_DUTY l.val) := by
    have out := LEG_DUTY_beyond l
    exact (trimmedRegs _ fun mem => out (List.mem_cons_of_mem _ mem)).trans
      ((injRegs _ fun mem => out (List.mem_cons.mpr (.inl (List.mem_singleton.mp mem)))).trans (duty l))
  have cues : g.cues = d.cues := after.same .cues (by decide)
  have axes : g.axes = d.axes := after.same .axes (by decide)
  have engines : g.engines = d.engines := after.same .engines (by decide)
  have last : g.faults = e.faults := trimmed.same .faults (by decide)
  refine ⟨by rw [cues]; exact cleared.1, axes.trans cleared.2.1, engines.trans cleared.2.2, fun l => ⟨?_, ?_⟩, ?_,
    (wiped.mono : Only [.regs, .legs, .cues, .axes, .engines, .load, .faults] c d).trans after.mono⟩
  · exact (congrArg (LEG_DUTY_MODE l.val).read (reg l)).trans (legs l).mode
  · exact (congrArg (LEG_DUTY_ON l.val).read (reg l)).trans (legs l).on
  · rw [last, latched, faults]

theorem Reloading.reloadNow : Reloading c (Chip.reloadNow p c) ∧ Awaits (Chip.reloadNow p c) := by
  obtain ⟨sheet, axes, engines, legs, latched, only⟩ := c.reloadWiped_frame
  rw [Chip.reloadNow_eq]
  generalize c.reloadWiped = d at sheet axes engines legs latched only
  have now : d.now = c.now := only.same .now (by decide)
  have taken : Only [.regs, .load, .hp] d (((d.reloadTaken p).put SYS_STATUS_BOOT 1).put SYS_STATUS_RCAUSE 3) :=
    (.of_mix rfl : Only [.regs, .load, .hp] d (d.reloadTaken p)).trans ((Only.put ..).trans (.put ..)).mono
  have regs : RegsBut [SYS_STATUS] d (((d.reloadTaken p).put SYS_STATUS_BOOT 1).put SYS_STATUS_RCAUSE 3) :=
    (((RegsBut.refl _ d).of_regs (rfl : (d.reloadTaken p).regs = d.regs)).put SYS_STATUS_BOOT 1 (by decide)).put SYS_STATUS_RCAUSE 3 (by decide)
  have load : (((d.reloadTaken p).put SYS_STATUS_BOOT 1).put SYS_STATUS_RCAUSE 3).load = (d.reloadTaken p).load := rfl
  have since : (d.reloadTaken p).load.since = d.now := rfl
  have loads : (d.reloadTaken p).load.stage = .loading := rfl
  have rcause : (((d.reloadTaken p).put SYS_STATUS_BOOT 1).put SYS_STATUS_RCAUSE 3).get SYS_STATUS_RCAUSE = 3 := Chip.get_put_fit _ _ _ rfl
  have boots : (((d.reloadTaken p).put SYS_STATUS_BOOT 1).put SYS_STATUS_RCAUSE 3).get SYS_STATUS_BOOT = 1 :=
    (Chip.get_put_beside _ _ _ _ rfl).trans (Chip.get_put_fit _ _ _ rfl)
  generalize d.reloadTaken p = q at *
  generalize (q.put SYS_STATUS_BOOT 1).put SYS_STATUS_RCAUSE 3 = e at taken regs load rcause boots
  have all : Only [.regs, .legs, .cues, .axes, .engines, .load, .wms, .fresh, .nvc, .sensors, .hkSettle, .houseTick, .faults, .hp] c e :=
    only.mono.trans taken.mono
  have cues : e.cues = d.cues := taken.same .cues (by decide)
  have faults : e.faults = d.faults := taken.same .faults (by decide)
  have axesToo : e.axes = d.axes := taken.same .axes (by decide)
  have enginesToo : e.engines = d.engines := taken.same .engines (by decide)
  have leg (l : Leg) : LEG_DUTY l.val ∉ [SYS_STATUS] := by simp only [LEG_DUTY, SYS_STATUS, List.mem_singleton]; omega
  have ready : Reloading c e := ⟨rcause, by rw [cues]; exact sheet, axesToo.trans axes, enginesToo.trans engines,
    fun l => ⟨(regs.get (g := LEG_DUTY_MODE l.val) (leg l)).trans (legs l).1, (regs.get (g := LEG_DUTY_ON l.val) (leg l)).trans (legs l).2⟩,
    by rw [load, since, now], by rw [faults]; exact latched, all⟩
  exact ⟨ready.beginLoad, .beginLoad (by unfold Chip.booting Chip.flag; rw [boots]; rfl) (by rw [load, loads])⟩

end

section
variable {s : State} {p : Path}

theorem grants_reload (serving : s.chip.serves p) (house : s.chip.inHouse = true) (blank : s.chip.cfgOk = false)
    (plain : s.chip.inStrike = false) (free : s.chip.nvc.op = none) :
    Grants (.reload p) p s fun c =>
      c.get SYS_STATUS_RCAUSE = 3 ∧ c.cues.sheet = [] ∧ c.axes = Vector.replicate 8 {} ∧
      c.engines = Vector.replicate 2 none ∧ (∀ l, c.legMode l = 0 ∧ c.duty1 l = 0) ∧ c.load.since = s.chip.now ∧
      c.wall = s.chip.wall ∧ c.now = s.chip.now ∧ c.tbs = s.chip.tbs ∧ c.ports = s.chip.ports ∧ c.faults.latched = s.chip.faults.latched ∧
      Awaits c := by
  refine grants_of_request (l := [(!s.chip.inHouse || s.chip.cfgOk || s.chip.inStrike || s.chip.booting, .state), (s.chip.nvc.op.isSome, .busy)])
    (f := Chip.reloadNow p) ?_ serving ?_ ?_
  · rfl
  · rw [house, blank, plain, serving.2.1, free]
    rfl
  · obtain ⟨⟨rcause, sheet, axes, engines, legs, since, latched, only⟩, awaits⟩ := Reloading.reloadNow s.chip p
    exact ⟨rcause, sheet, axes, engines, legs, since, only.same .wall (by decide), only.same .now (by decide), only.same .tbs (by decide),
      only.same .ports (by decide), latched, awaits⟩

theorem reload_bad {c : Chip} (bad : c.inHouse = false ∨ c.cfgOk = true ∨ c.inStrike = true ∨ c.booting = true) :
    (!c.inHouse || c.cfgOk || c.inStrike || c.booting) = true := by
  rcases bad with h | h | h | h <;> simp [h]

/-- RELOAD is refused with STATE wherever its first rule is not met, in a start sequence and in DARK too. -/
theorem refuses_reload_state (carries : s.chip.carries p = true)
    (bad : s.chip.inHouse = false ∨ s.chip.cfgOk = true ∨ s.chip.inStrike = true ∨ s.chip.booting = true) :
    Refuses (.reload p) p s .state := by
  have own : judge [(!s.chip.inHouse || s.chip.cfgOk || s.chip.inStrike || s.chip.booting, Reason.state), (s.chip.nvc.op.isSome, .busy)] = .state := by
    rw [reload_bad bad]
    exact judge_eq_state (by simp) List.mem_cons_self
  have judged : s.chip.reload p = (s.chip, .state) := by
    unfold Chip.reload Chip.request
    rw [own]
    rfl
  have row : exec (.reload p) s = s.ask p (Chip.reload p) := rfl
  unfold Refuses
  rw [row, State.ask, State.run_eq]
  congr 2
  unfold Chip.ask
  rw [carries, judged]
  dsimp only
  rw [if_neg (by simp)]
  split
  · rfl
  next shut =>
    have shuts : s.chip.gate false = .busy ∨ s.chip.gate false = .state := by
      unfold Chip.gate at shut ⊢
      split
      · exact .inl rfl
      next awake =>
        split
        · exact .inr rfl
        next lit => exact absurd ((if_neg awake).trans (if_neg lit)) shut
    have told : (s.chip.gate false).under .state = .state := by rcases shuts with gate | gate <;> rw [gate] <;> rfl
    rw [told]

theorem refuses_reload_busy (serving : s.chip.serves p) (house : s.chip.inHouse = true) (blank : s.chip.cfgOk = false)
    (plain : s.chip.inStrike = false) (op : s.chip.nvc.op.isSome = true) : Refuses (.reload p) p s .busy := by
  refine refuses_of_request (f := Chip.reload p) rfl serving rfl ?_ (by decide)
  rw [house, blank, plain, serving.2.1, op]
  rfl

end

end Sys2Proof.Machine

open Sys2Proof.Machine

/-- Settles O36: the start sequence is followed step by step, and each request is judged by its list of conditions. -/
theorem startSequences : Obligations.StartSequences :=
  ⟨⟨fun _ _ => completes_nresetRise, fun _ _ => idles_nresetRise, completes_nresetFall, fun _ _ _ => reset_accepted, fun _ _ _ => refuses_reset,
    fun _ _ _ => refuses_reset_booting, fun _ _ _ => refuses_reset_dark⟩,
    fun _ _ => grants_reload, fun _ _ => refuses_reload_state, fun _ _ => refuses_reload_busy⟩
end

section
-- One proof after the other: a side goal that `Only` settles by `decide` waits for the kernel, on a thread of its own.
set_option Elab.async false
/-! SUPPORT. The statement about the logbook (R332, R333, R335 to R337). -/
namespace Sys2Proof.Machine

/-! ### Event records -/

section
variable {s : State} {first second : Bool}

theorem logRecordWrite_row (may : s.chip.mayLog = true) : exec (.logRecordWrite first second) s = .next (s.writeRecord (first || second)) := by
  rw [show exec (.logRecordWrite first second) s = .next (if s.chip.mayLog then s.writeRecord (first || second) else s) from rfl, if_pos may]

theorem logRecord_written {x : LogRec} {rest : List LogRec} (may : s.chip.mayLog = true)
    (waits : s.chip.nvc.queue = x :: rest) (verified : (first || second) = true) :
    ∃ t, exec (.logRecordWrite first second) s = .next t ∧ t.pending = s.pending ∧ t.nv.fuses = s.nv.fuses ∧
      (∀ i, i < 8 → t.nv.logWord s.chip.nvc.ring.val i =
        (x.words (nextSeq (s.chip.reg LOG_SEQ)) s.chip.nvc.lost (s.chip.get LOG_BOOT_BOOT)).getD i 0) ∧
      (∀ r i, i < 8 → r ≠ s.chip.nvc.ring.val → t.nv.logWord r i = s.nv.logWord r i) ∧
      t.chip.reg LOG_SEQ = nextSeq (s.chip.reg LOG_SEQ) ∧ t.chip.get LOG_HEAD_REC = s.chip.nvc.ring.val ∧
      RegsBut [LOG_SEQ, LOG_HEAD] s.chip t.chip ∧
      t.chip = { s.chip with regs := t.chip.regs, nvc := { s.chip.nvc with
        queue := rest, lost := false, ring := nextRing s.chip.nvc.ring } } := by
  obtain ⟨seq, head, regs, only⟩ := s.chip.recordIn_frame rest
  rw [logRecordWrite_row may, verified, s.writeRecord_ok waits]
  refine ⟨_, rfl, rfl, NonVolatile.putWords_fuses .., fun i hi => ?_, fun r i hi other => ?_, seq, head, regs, only.eq⟩
  · exact NonVolatile.putWords_same _ _ (LogRec.words_length ..) hi
  · exact NonVolatile.putWords_other _ (LogRec.words_length ..) other hi

theorem logRecord_failed (may : s.chip.mayLog = true) (waits : s.chip.nvc.queue ≠ []) :
    ∃ t, exec (.logRecordWrite false false) s = .next t ∧ t.pending = s.pending ∧ t.nv.fuses = s.nv.fuses ∧
      (∀ r i, i < 8 → r ≠ s.chip.nvc.ring.val → t.nv.logWord r i = s.nv.logWord r i) ∧
      t.chip.get LOG_FAILS_FAILS = min (s.chip.get LOG_FAILS_FAILS + 1) LOG_FAILS_FAILS.top ∧
      Raised 0xF3 s.chip t.chip ∧ t.chip.nvc = { s.chip.nvc with ring := nextRing s.chip.nvc.ring } ∧
      FieldsBut [LOG_FAILS_FAILS] s.chip t.chip := by
  obtain ⟨pending, fuses, others, failed, raised, nvc, fields, -, -⟩ := s.writeFails_frame s.chip.nvc.ring.val
  rw [logRecordWrite_row may, Bool.or_self, s.writeRecord_bad waits]
  generalize s.writeFails s.chip.nvc.ring.val = t at *
  exact ⟨_, rfl, pending, fuses, fun r i hi other => others r i hi other, failed, raised, by dsimp only; rw [nvc], fields⟩

theorem logRecord_idles (still : s.chip.mayLog = false ∨ s.chip.nvc.queue = []) : exec (.logRecordWrite first second) s = .next s := by
  rw [show exec (.logRecordWrite first second) s = .next (if s.chip.mayLog then s.writeRecord (first || second) else s) from rfl]
  rcases still with shut | none
  · rw [shut]
    rfl
  · rw [s.writeRecord_none none, ite_self]

/-! ### Held records -/

/-- The held records wait. -/
structure RecordsFreed (b c : Chip) : Prop where
  pending : c.nvc.pending = []
  queue : c.nvc.queue = b.nvc.queue ++ b.nvc.pending
  hold : c.flag LOG_STATUS_HOLD = false
  count : c.get LOG_STATUS_PENDING = 0
  regs : RegsBut [LOG_STATUS] b c
  only : Only [.regs, .nvc] b c

theorem RecordsFreed.unholdRecords (c : Chip) : RecordsFreed c c.unholdRecords := by
  have put : Only [.regs, .nvc] c ((c.put LOG_STATUS_HOLD 0).put LOG_STATUS_PENDING 0) := ((Only.put ..).trans (.put ..)).mono
  have hold : c.unholdRecords.get LOG_STATUS_HOLD = (c.put LOG_STATUS_HOLD 0).get LOG_STATUS_HOLD := Chip.get_put_beside _ _ _ _ rfl
  have zero : (c.put LOG_STATUS_HOLD 0).flag LOG_STATUS_HOLD = false := c.flag_putF LOG_STATUS_HOLD (Field.ok_of _ rfl) false
  exact ⟨rfl, rfl, (Chip.flag_of_get hold).trans zero, Chip.get_put_fit _ LOG_STATUS_PENDING _ rfl,
    (((RegsBut.refl _ c).put LOG_STATUS_HOLD 0 (by decide)).put LOG_STATUS_PENDING 0 (by decide)).of_regs rfl, put.trans (.of_mix rfl)⟩

theorem pendingFlush_flushes (lit : s.chip.inDark = false) :
    ∃ t, exec (.pendingFlush first second) s = .next t ∧ t.pending = s.pending ∧ t.nv.fuses = s.nv.fuses ∧
      t.chip.nvc.pending = [] ∧ t.chip.flag LOG_STATUS_HOLD = false ∧ t.chip.get LOG_STATUS_PENDING = 0 ∧
      ((first || second) = true → t.chip.nvc.queue = []) ∧
      ((first || second) = false → t.chip.nvc.queue = s.chip.nvc.queue ++ s.chip.nvc.pending) ∧
      t.chip.wall = s.chip.wall ∧ t.chip.cues = s.chip.cues := by
  have freed := RecordsFreed.unholdRecords s.chip
  have flush : s.pendingFlush (first || second) =
      ({ s with chip := s.chip.unholdRecords } : State).writeQueue (first || second) s.chip.unholdRecords.nvc.queue.length :=
    if_neg (by rw [lit]; decide)
  rw [show exec (.pendingFlush first second) s = .next (s.pendingFlush (first || second)) from rfl, flush]
  generalize s.chip.unholdRecords = c at freed
  generalize (first || second) = ok
  have step := BookStep.writeQueue ok c.nvc.queue.length ({ s with chip := c } : State)
  have out : LOG_STATUS ∉ bookRegs ok := by cases ok <;> decide
  refine ⟨_, rfl, step.pending, step.fuses, ?_, ?_, ?_, fun good => ?_, fun bad => ?_, ?_, ?_⟩
  · rw [step.nvc]
    exact freed.pending
  · exact (Chip.flag_of_get (step.regs.get (g := LOG_STATUS_HOLD) out)).trans freed.hold
  · exact (step.regs.get (g := LOG_STATUS_PENDING) out).trans freed.count
  · subst good
    exact State.writeQueue_all _ rfl
  · subst bad
    exact (State.writeQueue_waits _ _).trans freed.queue
  · exact Eq.trans (b := c.wall) (step.only.same .wall (by decide)) (freed.only.same .wall (by decide))
  · exact Eq.trans (b := c.cues) (step.only.same .cues (by decide)) (freed.only.same .cues (by decide))

theorem pendingFlush_idles (dark : s.chip.inDark = true) : exec (.pendingFlush first second) s = .next s := by
  have still : s.pendingFlush (first || second) = s := if_pos dark
  rw [show exec (.pendingFlush first second) s = .next (s.pendingFlush (first || second)) from rfl, still]

/-! ### Checkpoints -/

theorem checkpoint_writes (done : s.chip.load.stage = .done) (may : s.chip.mayLog = true) :
    ∃ t, exec (.checkpointSlot first second) s = .next t ∧ t.pending = s.pending ∧ t.nv.fuses = s.nv.fuses ∧
      ((first || second) = true →
        (∀ i, i < 8 → t.nv.logWord (s.nv.olderCopy s.chip.nvc.slot) i = (s.chip.slotWords s.chip.nvc.slot).getD i 0) ∧
        t.chip = { s.chip with nvc := { s.chip.nvc with slot := (s.chip.nvc.slot + 1) % 136 } }) ∧
      ((first || second) = false →
        t.chip.get LOG_FAILS_FAILS = min (s.chip.get LOG_FAILS_FAILS + 1) LOG_FAILS_FAILS.top ∧ Raised 0xF3 s.chip t.chip ∧
        t.chip.nvc = { s.chip.nvc with slot := (s.chip.nvc.slot + 1) % 136 }) ∧
      (∀ r i, i < 8 → r ≠ s.nv.olderCopy s.chip.nvc.slot → t.nv.logWord r i = s.nv.logWord r i) := by
  have run : s.checkpoint (first || second) =
      let t := s.writeSlot s.chip.nvc.slot (first || second)
      { t with chip := { t.chip with nvc := { t.chip.nvc with slot := (s.chip.nvc.slot + 1) % 136 } } } :=
    if_pos (by rw [done, may]; rfl)
  rw [show exec (.checkpointSlot first second) s = .next (s.checkpoint (first || second)) from rfl, run]
  generalize (first || second) = ok
  cases ok with
  | true =>
    refine ⟨_, rfl, rfl, NonVolatile.putWords_fuses .., fun _ => ⟨fun i hi => ?_, rfl⟩, fun bad => absurd bad (by decide), fun r i hi other => ?_⟩
    · exact NonVolatile.putWords_same _ _ (Chip.slotWords_length ..) hi
    · exact NonVolatile.putWords_other _ (Chip.slotWords_length ..) other hi
  | false =>
    have fails : s.writeSlot s.chip.nvc.slot false = s.writeFails (s.nv.olderCopy s.chip.nvc.slot) := rfl
    obtain ⟨pending, fuses, others, failed, raised, nvc, -⟩ := s.writeFails_frame (s.nv.olderCopy s.chip.nvc.slot)
    rw [fails]
    generalize s.writeFails (s.nv.olderCopy s.chip.nvc.slot) = t at *
    exact ⟨_, rfl, pending, fuses, fun good => absurd good (by decide), fun _ => ⟨failed, raised, by dsimp only; rw [nvc]⟩,
      fun r i hi other => others r i hi other⟩

theorem checkpoint_idles (still : s.chip.load.stage ≠ .done ∨ s.chip.mayLog = false) : exec (.checkpointSlot first second) s = .next s := by
  have idle : s.checkpoint (first || second) = s := by
    refine if_neg ?_
    rcases still with runs | shut
    · simp [runs]
    · simp [shut]
  rw [show exec (.checkpointSlot first second) s = .next (s.checkpoint (first || second)) from rfl, idle]

/-! ### The orderly checkpoint -/

/-- CLOSE is the newest record. -/
theorem State.closeBook_close (cause : Nat) (may : s.chip.mayLog = true) :
    (s.closeBook cause).nv.logWord ((s.closeBook cause).chip.get LOG_HEAD_REC) 1 >>> 24 = 3 := by
  obtain ⟨-, -, chip⟩ := SlotsWritten.writeSlots (List.range 136) s
  rw [State.closeBook_eq]
  dsimp only
  generalize s.writeSlots (List.range 136) = q at chip
  have waits := Chip.logArise_queue q.chip (by rw [chip]; exact may) 3 (BitVec.ofNat 32 cause) 0 0
  generalize q.chip.logArise 3 (BitVec.ofNat 32 cause) 0 0 = d at waits
  have last := State.writeQueue_last ({ q with chip := d } : State) q.chip.nvc.queue _ (show 3 < 2 ^ 8 by decide) waits
  have all : d.nvc.queue.length = q.chip.nvc.queue.length + 1 := by rw [waits, List.length_append]; rfl
  rw [all]
  generalize ({ q with chip := d } : State).writeQueue true (q.chip.nvc.queue.length + 1) = t at last
  have head : t.chip.bookClosed.get LOG_HEAD_REC = t.chip.get LOG_HEAD_REC := by
    have regs : RegsBut [SYS_STATUS, LOG_STATUS] t.chip t.chip.bookClosed :=
      (((RegsBut.refl _ _).put SYS_STATUS_LOG_BUSY 0 (by decide)).put LOG_STATUS_BUSY 0 (by decide)).of_regs rfl
    exact regs.get (by decide)
  rw [head]
  exact last

theorem orderlyCheckpoint_row {cause : Nat} (may : s.chip.mayLog = true) (due : s.chip.nvc.orderly = some cause) :
    exec .orderlyCheckpoint s = .next (if cause = 1 then (s.closeBook cause).start 1 true s.chip.nvc.reads else s.closeBook cause) := by
  have run : s.orderlyCheckpoint = if cause = 1 then (s.closeBook cause).start 1 true s.chip.nvc.reads else s.closeBook cause := by
    unfold State.orderlyCheckpoint
    rw [due]
    dsimp only
    rw [may]
    rfl
  rw [show exec .orderlyCheckpoint s = .next s.orderlyCheckpoint from rfl, run]

theorem orderlyCheckpoint_dark (may : s.chip.mayLog = true) (due : s.chip.nvc.orderly = some 0) :
    ∃ t, exec .orderlyCheckpoint s = .next t ∧ t.pending = s.pending ∧ t.nv.fuses = s.nv.fuses ∧
      t.chip.nvc.orderly = none ∧ t.chip.flag SYS_STATUS_LOG_BUSY = false ∧ t.chip.flag LOG_STATUS_BUSY = false ∧
      t.chip.nvc.queue = [] ∧ t.nv.logWord (t.chip.get LOG_HEAD_REC) 1 >>> 24 = 3 ∧ t.chip.wall = s.chip.wall ∧
      RegsBut [SYS_STATUS, LOG_STATUS, LOG_SEQ, LOG_HEAD] s.chip t.chip := by
  have closed := BookClosed.closeBook s 0
  rw [orderlyCheckpoint_row may due, if_neg (by decide)]
  exact ⟨_, rfl, closed.pending, closed.fuses, closed.orderly, closed.busy.1, closed.busy.2, closed.queue, State.closeBook_close 0 may,
    closed.only.same .wall (by decide), closed.regs⟩

theorem orderlyCheckpoint_reset (may : s.chip.mayLog = true) (due : s.chip.nvc.orderly = some 1) :
    ∃ t, exec .orderlyCheckpoint s = .next t ∧ t.pending = s.pending ∧ t.nv.fuses = s.nv.fuses ∧
      Started 1 t.nv s.chip.nvc.reads t.chip := by
  have closed := BookClosed.closeBook s 1
  rw [orderlyCheckpoint_row may due, if_pos rfl]
  exact ⟨_, rfl, closed.pending, closed.fuses, Started.start (s.closeBook 1) (by decide) true s.chip.nvc.reads⟩

theorem orderlyCheckpoint_idles (still : s.chip.mayLog = false ∨ s.chip.nvc.orderly = none) : exec .orderlyCheckpoint s = .next s := by
  have idle : s.orderlyCheckpoint = s := by
    unfold State.orderlyCheckpoint
    split
    · rfl
    next cause due =>
      rcases still with shut | none
      · rw [shut]
        rfl
      · exact absurd (none.symm.trans due) (by simp)
  rw [show exec .orderlyCheckpoint s = .next s.orderlyCheckpoint from rfl, idle]

end

end Sys2Proof.Machine

open Sys2Proof.Machine

/-- Settles O43: a record goes to its own eight words, and the queue is written from its front. -/
theorem logbook : Obligations.Logbook :=
  ⟨⟨fun _ _ _ _ _ => logRecord_written, fun _ => logRecord_failed, fun _ _ _ => logRecord_idles⟩,
    fun _ _ _ => pendingFlush_flushes, fun _ _ _ => pendingFlush_idles, fun _ _ _ => checkpoint_writes, fun _ _ _ => checkpoint_idles,
    fun _ => orderlyCheckpoint_dark, fun _ => orderlyCheckpoint_reset, fun _ => orderlyCheckpoint_idles⟩
end

section
-- One proof after the other: a side goal that `Only` settles by `decide` waits for the kernel, on a thread of its own.
set_option Elab.async false
/-! SUPPORT. What an entry into HOUSE leaves of a part that is configured (R255, R256, R264, R265, R356). -/
namespace Sys2Proof.Machine

/-! ### The lines and the series of a leg -/

theorem GatesOnly.charging {x y : LegState} (h : GatesOnly x y) : y.charging = x.charging := by
  unfold GatesOnly at h
  rw [h]

section
variable (c : Chip)

theorem Chip.obeyLeg_charging (l : Leg) : ((c.obeyLeg l).leg l).charging = (c.leg l).charging := by
  have under (g : Option Gate) : ((c.underLine l g).leg l).charging = (c.leg l).charging := by
    have kept := (c.gates_only l g).charging
    unfold Chip.underLine
    rw [Chip.leg_setLeg]
    exact kept
  by_cases free : c.legReact l = 0
  · exact (Chip.obeyLeg_only free).charging
  · unfold Chip.obeyLeg
    dsimp only
    split
    next h => exact absurd h free
    next => exact under _
    next => exact under _

/-- The lines leave what waits in a leg, and its series. -/
theorem Chip.obeyLines_queues (l : Leg) : (c.obeyLines.leg l).charging = (c.leg l).charging ∧ (c.obeyLines.leg l).duties = (c.leg l).duties := by
  refine Chip.each_keeps (P := fun d => (d.leg l).charging = (c.leg l).charging ∧ (d.leg l).duties = (c.leg l).duties) allLegs ⟨rfl, rfl⟩
    fun d hd k _ => ?_
  by_cases same : l = k
  · subst same
    exact ⟨(d.obeyLeg_charging l).trans hd.1, (d.obeyLeg_queues l).1.trans hd.2⟩
  · rw [(LegAt.obeyLeg d k).frame.1 l same]
    exact hd

end

/-- The registers of the part itself, of the legs, and of the window monitors. -/
def KeptReg (a : Nat) : Prop := a < 0x040000 ∨ (0x090000 ≤ a ∧ a < 0x0A0000) ∨ (0x0E0C00 ≤ a ∧ a < 0x0E0D00)

/-- Those registers, but for that of the records. -/
def OwnReg (a : Nat) : Prop := KeptReg a ∧ a ≠ LOG_STATUS

/-- What an entry into HOUSE leaves of axes that are off, of the choppers, and of what waits in the legs. -/
structure IdleKept (b c : Chip) : Prop where
  off : AllOff c
  chop : ∀ r : Region, c.get (BUS_STAT_CHOP_ON r.val) = b.get (BUS_STAT_CHOP_ON r.val)
  queues : ∀ l, (c.leg l).charging = (b.leg l).charging ∧ (c.leg l).duties = (b.leg l).duties

section
variable {b c d : Chip}

theorem IdleKept.trans (h : IdleKept b c) (g : IdleKept c d) : IdleKept b d :=
  ⟨g.off, fun r => (g.chop r).trans (h.chop r), fun l => ⟨(g.queues l).1.trans (h.queues l).1, (g.queues l).2.trans (h.queues l).2⟩⟩

/-- What no leg and no axis takes part in. -/
theorem IdleKept.of_fields (mode : ∀ a : Axis, c.get (AX_MSTAT_MODE a.val) = b.get (AX_MSTAT_MODE a.val))
    (chop : ∀ r : Region, c.get (BUS_STAT_CHOP_ON r.val) = b.get (BUS_STAT_CHOP_ON r.val))
    (only : Only [.regs, .fresh, .sensors, .hkSettle, .houseTick, .faults, .nvc, .tbs, .rng] b c) (off : AllOff b) : IdleKept b c := by
  refine ⟨fun a => ⟨(mode a).trans (off a).1, ?_⟩, chop, fun l => ?_⟩
  · rw [only.axis a (by decide)]
    exact (off a).2
  · rw [only.leg l (by decide)]
    exact ⟨rfl, rfl⟩

theorem IdleKept.of_quiet (only : Only [.fresh, .sensors, .hkSettle, .houseTick, .faults, .nvc, .tbs, .rng] b c) (off : AllOff b) : IdleKept b c :=
  .of_fields (fun _ => only.get _) (fun _ => only.get _) only.mono off

end

/-- No register that is kept, none of an axis that is off, and not the chopper's field. -/
structure BesideIdle (f : Field) : Prop where
  ok : f.ok
  high : ¬KeptReg f.addr
  axis : ∀ a : Axis, AX_MSTAT a.val ≠ f.addr
  chop : ∀ r : Region, (BUS_STAT_CHOP_ON r.val).apart f

/-- What an entry into HOUSE changes. -/
def houseParts : List Part := [.regs, .fresh, .legs, .axes, .sensors, .hkSettle, .houseTick, .faults, .nvc, .tbs, .rng]

/-- A step of an entry into HOUSE: the part's own registers stay, and records may arise. -/
structure HouseStep (b c : Chip) : Prop where
  own : RegsOf OwnReg b c
  hold : c.get LOG_STATUS_HOLD = b.get LOG_STATUS_HOLD
  held : b.mayLog = true → c.nvc.pending = b.nvc.pending
  queue : b.mayLog = true → ∃ l, c.nvc.queue = b.nvc.queue ++ l
  latched : c.faults.latched = b.faults.latched
  rested : ∀ i, (b.sensor i).lastValid = none → (c.sensor i).lastValid = none
  idle : AllOff b → IdleKept b c
  only : Only houseParts b c

section
variable {b c d : Chip}

theorem HouseStep.refl (c : Chip) : HouseStep c c := ⟨.refl _ c, rfl, fun _ => rfl, fun _ => ⟨[], by simp⟩, rfl, fun _ h => h,
  fun off => ⟨off, fun _ => rfl, fun _ => ⟨rfl, rfl⟩⟩, .refl _ c⟩

theorem HouseStep.mayLog (h : HouseStep b c) : c.mayLog = b.mayLog := by
  have state : c.get SYS_STATUS_PSTATE = b.get SYS_STATUS_PSTATE := h.own.get _ (by unfold OwnReg KeptReg; decide)
  unfold Chip.mayLog Chip.inDark
  rw [state, Chip.flag_of_get h.hold]

theorem HouseStep.trans (h : HouseStep b c) (g : HouseStep c d) : HouseStep b d := by
  refine ⟨h.own.trans g.own, g.hold.trans h.hold, fun may => ?_, fun may => ?_, g.latched.trans h.latched,
    fun i none => g.rested i (h.rested i none),
    fun off => (h.idle off).trans (g.idle (h.idle off).off), h.only.trans g.only⟩
  · exact (g.held (h.mayLog.trans may)).trans (h.held may)
  · obtain ⟨l, first⟩ := h.queue may
    obtain ⟨m, after⟩ := g.queue (h.mayLog.trans may)
    exact ⟨l ++ m, by rw [after, first, List.append_assoc]⟩

theorem HouseStep.ite {p : Prop} [Decidable p] (h : HouseStep b c) (g : HouseStep b d) : HouseStep b (if p then c else d) := by
  split
  · exact h
  · exact g

theorem HouseStep.each {α : Type} {f : Chip → α → Chip} (c : Chip) (xs : List α) (hf : ∀ d, ∀ x ∈ xs, HouseStep d (f d x)) :
    HouseStep c (c.each xs f) :=
  Chip.each_keeps xs (.refl c) fun d hd x hx => hd.trans (hf d x hx)

/-- What no record and no sensor takes part in. -/
theorem HouseStep.of_only (high : RegsOf KeptReg b c) (latched : c.faults.latched = b.faults.latched)
    (idle : AllOff b → IdleKept b c) (only : Only [.regs, .fresh, .legs, .axes, .hkSettle, .houseTick, .faults, .tbs, .rng] b c) : HouseStep b c := by
  have nvc : c.nvc = b.nvc := only.same .nvc (by decide)
  exact ⟨⟨fun a own => high.reg a own.1⟩, high.get _ (.inl (by decide)), fun _ => by rw [nvc], fun _ => ⟨[], by rw [nvc, List.append_nil]⟩, latched,
    fun i none => by rw [only.sensor i (by decide)]; exact none, idle, only.mono⟩

theorem HouseStep.put (c : Chip) (f : Field) (v : Nat) (out : BesideIdle f) : HouseStep c (c.put f v) := by
  refine .of_only ((RegsOf.refl _ c).put f v out.high) rfl (.of_fields (fun a => ?_) (fun r => ?_) (Only.put ..).mono) (Only.put ..).mono
  · exact c.get_put_ne _ _ _ (out.axis a)
  · exact c.get_put_apart _ _ _ (Field.ok_of _ rfl) out.ok (out.chop r)

theorem HouseStep.raiseIf (c : Chip) (b : Bool) (src : Nat) : HouseStep c (c.raiseIf b src) := by
  have only := Only.raiseIf c b src
  refine .of_only (.of_regs (Chip.raiseIf_regs ..)) ?_ (.of_fields (fun _ => Chip.get_of_regs (Chip.raiseIf_regs ..) _)
    (fun _ => Chip.get_of_regs (Chip.raiseIf_regs ..) _) only.mono) only.mono
  cases b <;> rfl

theorem HouseStep.setSensor (c : Chip) (s : Sensor) (x : TsState) (none : (c.sensor s).lastValid = none → x.lastValid = none) :
    HouseStep c (c.setSensor s x) := by
  have only : Only [.sensors] c (c.setSensor s x) := .of_mix rfl
  refine ⟨.of_regs rfl, rfl, fun _ => rfl, fun _ => ⟨[], by rw [List.append_nil]; rfl⟩, rfl, fun i was => ?_, .of_quiet only.mono, only.mono⟩
  by_cases same : i = s
  · subst same
    rw [show (c.setSensor i x).sensor i = x from Chip.sensor_setSensor ..]
    exact none was
  · rw [show (c.setSensor s x).sensor i = c.sensor i from Chip.sensor_setSensor_ne _ _ _ same]
    exact was

theorem HouseStep.logArise (c : Chip) (type : Nat) (p4 p5 p6 : Word) : HouseStep c (c.logArise type p4 p5 p6) := by
  have only := Only.logArise c type p4 p5 p6
  refine ⟨.of_regsBut (c.logArise_regsBut type p4 p5 p6) (by simp [OwnReg]), ?_, fun may => ?_, fun may => ?_, ?_, fun i none => ?_,
    .of_fields (fun a => ?_) (fun r => ?_) only.mono, only.mono⟩
  · unfold Chip.logArise
    dsimp only
    split
    · rfl
    · split
      · exact Chip.get_put_beside _ _ _ _ rfl
      · exact Chip.get_put_beside _ _ _ _ rfl
  · rw [Chip.logArise, if_pos may]
  · exact ⟨_, c.logArise_queue may type p4 p5 p6⟩
  · exact congrArg FaultState.latched (only.same .faults (by decide))
  · rw [only.sensor i (by decide)]
    exact none
  · exact (c.logArise_regsBut type p4 p5 p6).get (by simp only [AX_MSTAT_MODE, AX_MSTAT, LOG_STATUS, List.mem_singleton]; omega)
  · exact (c.logArise_regsBut type p4 p5 p6).get (by simp only [BUS_STAT_CHOP_ON, BUS_STAT, LOG_STATUS, List.mem_singleton]; omega)

end

section
variable (c : Chip) (s : Sensor)

theorem BesideIdle.of_thermal {f : Field} (ok : f.ok) (low : 0x0E0800 ≤ f.addr) (high : f.addr < 0x0E0C00) : BesideIdle f := by
  refine ⟨ok, ?_, fun a => ?_, fun r => .inl ?_⟩
  · simp only [KeptReg]
    omega
  · simp only [AX_MSTAT]
    omega
  · simp only [BUS_STAT_CHOP_ON, BUS_STAT]
    omega

theorem TMP_STAT_beside (s : Sensor) {f : Field} (ok : f.ok) (addr : f.addr = TMP_STAT s.val) : BesideIdle f :=
  .of_thermal ok (by simp only [addr, TMP_STAT]; omega) (by simp only [addr, TMP_STAT]; omega)

theorem TMP_DF_beside (a : Axis) {f : Field} (ok : f.ok) (addr : f.addr = TMP_DF a.val) : BesideIdle f :=
  .of_thermal ok (by simp only [addr, TMP_DF]; omega) (by simp only [addr, TMP_DF]; omega)

theorem TFORBID_beside (r : Region) : BesideIdle (BUS_STAT_TFORBID r.val) := by
  refine ⟨Field.ok_of _ rfl, ?_, fun a => ?_, fun q => Field.apart_of _ _ rfl⟩
  · simp only [KeptReg, BUS_STAT_TFORBID, BUS_STAT]
    omega
  · simp only [AX_MSTAT, BUS_STAT_TFORBID, BUS_STAT]
    omega

theorem HouseStep.judgeHot (t : Int) : HouseStep c (c.judgeHot s t) := by
  have hot (v : Nat) : HouseStep c (c.put (TMP_STAT_HOT s.val) v) := .put c (TMP_STAT_HOT s.val) v (TMP_STAT_beside s (Field.ok_of _ rfl) rfl)
  exact .ite (hot 0) (.ite (hot 1) (.ite (hot 0) (.refl c)))

theorem HouseStep.judgePack (failed : Bool) : HouseStep c (c.judgePack s failed) :=
  .each c _ fun d r _ => .ite ((HouseStep.put d (BUS_STAT_TFORBID r.val) _ (TFORBID_beside r)).trans (.raiseIf _ _ _)) (.refl d)

theorem HouseStep.derate (a : Axis) : HouseStep c (c.derate a) := by
  have out {f : Field} (ok : f.ok) (addr : f.addr = TMP_DF a.val) := TMP_DF_beside a ok addr
  have noted : HouseStep c (c.putF (TMP_DF_SUBST a.val) ((c.sensorsOf a).any fun s => c.flag (TMP_STAT_FAIL s.val))) :=
    .put c (TMP_DF_SUBST a.val) _ (out (Field.ok_of _ rfl) rfl)
  exact .ite noted ((noted.trans (.put _ (TMP_DF_DF a.val) _ (out (Field.ok_of _ rfl) rfl))).trans (.put _ (TMP_DF_SENSOR a.val) _ (out (Field.ok_of _ rfl) rfl)))

/-- The shutdown list of a sensor that has reached its limit. -/
def Chip.shutdownListed (on : BitVec 8) : Chip := { c with faults := { c.faults with
  shutdown := c.faults.shutdown.filter (fun (x : Nat × BitVec 8) => x.1 != s.val) ++ [(s.val, on)] } }

theorem HouseStep.shutdownListed (on : BitVec 8) : HouseStep c (c.shutdownListed s on) :=
  .of_only (.of_regs rfl) rfl (.of_quiet (.of_mix rfl)) (.of_mix rfl)

theorem HouseStep.report (src n code : Nat) (mask : BitVec 8) (b : Bool) : HouseStep c (c.report src n code mask b) :=
  .of_only (.of_regs (Chip.report_regs ..)) (by unfold Chip.report; split <;> rfl)
    (.of_fields (fun _ => Chip.get_of_regs (Chip.report_regs ..) _) (fun _ => Chip.get_of_regs (Chip.report_regs ..) _) (Only.report ..).mono)
    (Only.report ..).mono

theorem HouseStep.judgeShutdown (t : Int) : HouseStep c (c.judgeShutdown s t) := by
  have sd (d : Chip) (v : Nat) : HouseStep d (d.put (TMP_STAT_SD s.val) v) := .put d (TMP_STAT_SD s.val) v (TMP_STAT_beside s (Field.ok_of _ rfl) rfl)
  have acts (d : Chip) (m t : Word) : HouseStep d (((d.put (TMP_STAT_SD s.val) 1).report (sensorSrc s) 1 4 0 false).logArise 6 m t 0) :=
    ((sd d 1).trans (.report _ (sensorSrc s) 1 4 0 false)).trans (.logArise _ 6 m t 0)
  exact .ite (.ite (sd c 0) (.refl c)) (.ite ((HouseStep.shutdownListed c s _).trans (acts _ _ _)) (.refl c))

theorem HouseStep.sensorJudged (failed : Bool) : HouseStep c (c.sensorJudged s failed) := by
  have valued : HouseStep c (c.sensorValued s) :=
    (HouseStep.put c (TMP_STAT_T s.val) (wrapTo 16 (c.sensorValue s)) (TMP_STAT_beside s (Field.ok_of _ rfl) rfl)).trans (.setSensor _ s _ id)
  have judged := ((valued.trans (.judgeHot _ s (c.sensorValue s))).trans (.judgePack _ s failed)).trans (.each _ allAxes fun d a _ => .derate d a)
  exact judged.trans (.judgeShutdown _ s (c.sensorValue s))

theorem HouseStep.sensorAnew : HouseStep c (c.sensorAnew s) := by
  have rested : HouseStep c (c.sensorRested s) := .setSensor c s _ fun _ => rfl
  exact .ite (rested.trans (.sensorJudged _ s false)) rested

theorem Chip.sensorAnew_lastValid (i : Sensor) : ((c.sensorAnew i).sensor i).lastValid = none := by
  have rested : ((c.sensorRested i).sensor i).lastValid = none := congrArg TsState.lastValid (Chip.sensor_setSensor ..)
  unfold Chip.sensorAnew
  split
  · exact (HouseStep.sensorJudged (c.sensorRested i) i false).rested i rested
  · exact rested

theorem HouseStep.sensorsAnew : HouseStep c c.sensorsAnew ∧ ∀ i, (c.sensorsAnew.sensor i).lastValid = none := by
  refine ⟨.each c allSensors fun d s _ => .sensorAnew d s, fun i => ?_⟩
  exact Chip.each_brings (P := fun d : Chip => (d.sensor i).lastValid = none) c allSensors (List.mem_finRange i) (fun d => d.sensorAnew_lastValid i)
    fun d hd s _ => (HouseStep.sensorAnew d s).rested i hd

theorem IdleKept.reactOff (a : Axis) (off : AllOff c) : IdleKept c (c.reactOff a) := by
  have rests : c.reactOff a = c.put (AX_MSTAT_REACTED a.val) 1 := by
    unfold Chip.reactOff Chip.enterOff
    rw [if_pos (by simpa using (off a).1)]
  rw [rests]
  refine ⟨fun x => ⟨?_, (off x).2⟩, fun r => Chip.get_put_ne _ _ _ _ ?_, fun _ => ⟨rfl, rfl⟩⟩
  · refine (Chip.get_put_apart _ (AX_MSTAT_MODE x.val) _ _ (Field.ok_of _ rfl) (Field.ok_of _ rfl) ?_).trans (off x).1
    exact Field.apart_of _ _ rfl
  · simp only [BUS_STAT_CHOP_ON, BUS_STAT, AX_MSTAT_REACTED, AX_MSTAT]
    omega

theorem IdleKept.obeyLines (off : AllOff c) : IdleKept c c.obeyLines := by
  have only := Only.obeyLines c
  refine ⟨fun a => ⟨(only.get _).trans (off a).1, ?_⟩, fun r => only.get _, fun l => c.obeyLines_queues l⟩
  rw [only.axis a (by decide)]
  exact (off a).2

theorem HouseStep.shutdownActs (b : Chip) : HouseStep c (c.shutdownActs b) := by
  have off (d : Chip) (a : Axis) : HouseStep d (d.reactOff a) :=
    .of_only (.of_regsBut (Chip.reactOff_regsBut d a) fun x hx => by have := offRegs_low hx; simp only [KeptReg]; omega)
      (congrArg FaultState.latched ((Only.reactOff d a).same .faults (by decide))) (.reactOff d a)
      (Only.reactOff d a).mono
  have obey (d : Chip) : HouseStep d d.obeyLines :=
    .of_only (.of_regs (Chip.obeyLines_regs d)) (congrArg FaultState.latched ((Only.obeyLines d).same .faults (by decide)))
      (.obeyLines d) (Only.obeyLines d).mono
  exact .ite (.refl c) ((HouseStep.each c _ fun d a _ => off d a).trans (obey _))

theorem HouseStep.rngTrain : HouseStep c c.rngTrain := by
  have shown (w : Word) : Only [.regs, .tbs, .rng] c (c.setReg RNG_STAT w) := (Only.setReg ..).mono
  have lost (d : Chip) : Only [.regs, .tbs, .rng] d d.rngLose := (Only.rngLose d).mono
  have regs (d : Chip) : d.rngLose.regs = d.regs := (Only.rngLose d).same .regs (by decide)
  have word (w : Word) : RegsBut [RNG_STAT] c (c.setReg RNG_STAT w).rngLose :=
    ((RegsBut.refl _ c).setReg RNG_STAT w List.mem_cons_self).of_regs (regs _)
  have only : Only [.regs, .tbs, .rng] c c.rngTrain := ((shown _).trans (lost _)).trans (.of_mix rfl)
  have regsBut : RegsBut [RNG_STAT] c c.rngTrain := (word _).of_regs rfl
  refine .of_only (.of_regsBut regsBut (by simp [KeptReg, RNG_STAT])) (congrArg FaultState.latched (only.same .faults (by decide)))
    (.of_fields (fun a => regsBut.get ?_) (fun r => regsBut.get ?_) only.mono) only.mono
  · simp only [AX_MSTAT_MODE, AX_MSTAT, RNG_STAT, List.mem_singleton]
    omega
  · simp only [BUS_STAT_CHOP_ON, BUS_STAT, RNG_STAT, List.mem_singleton]
    omega

theorem HouseStep.rngHouse : HouseStep c c.rngHouse := .ite (.rngTrain c) (.refl c)

/-- The marks of an entry into HOUSE. -/
theorem HouseStep.enterHouse : HouseStep c c.enterHouse ∧ (∀ i, (c.enterHouse.sensor i).lastValid = none) ∧ c.enterHouse.houseTick = c.now := by
  obtain ⟨sensors, rested⟩ := HouseStep.sensorsAnew c
  have marks : Only [.hkSettle, .houseTick] c.sensorsAnew c.houseAnew := .of_mix rfl
  have marked : HouseStep c.sensorsAnew c.houseAnew :=
    .of_only (.of_regs (marks.same .regs (by decide))) (congrArg FaultState.latched (marks.same .faults (by decide)))
      (.of_quiet marks.mono) marks.mono
  have after : HouseStep c.houseAnew c.enterHouse := (HouseStep.shutdownActs c.houseAnew c).trans (.rngHouse _)
  have acts : Only [.regs, .legs, .axes] c.houseAnew (c.houseAnew.shutdownActs c) := .shutdownActs ..
  have range : Only [.regs, .tbs, .rng] (c.houseAnew.shutdownActs c) c.enterHouse :=
    .ite (((Only.setReg ..).mono.trans (Only.rngLose _).mono).trans (.of_mix rfl)) (.refl _ _)
  have tick : c.enterHouse.houseTick = c.houseAnew.houseTick :=
    Eq.trans (b := (c.houseAnew.shutdownActs c).houseTick) (range.same .houseTick (by decide)) (acts.same .houseTick (by decide))
  exact ⟨(sensors.trans marked).trans after, fun i => after.rested i (marked.rested i (rested i)), tick⟩

end

end Sys2Proof.Machine
end

section
-- One proof after the other: a side goal that `Only` settles by `decide` waits for the kernel, on a thread of its own.
set_option Elab.async false
/-! SUPPORT. The entry into DARK and the return from it (R32, R127, R252, R313, R314, R334, R335), and life-cycle changes (R318, R319,
R321, R322); and the statement about them. -/
namespace Sys2Proof.Machine

/-! ### The entry into DARK -/

section
variable (c : Chip)

/-- DARK is shown, with the range link down. -/
def Chip.darkShown : Chip := (c.rngDark.setPstate 0).put SYS_STATUS_TRANS 0

/-- Every port in DARK. -/
def Chip.portsDark : Chip := c.each allPorts fun c p => c.setPort p (c.port p).dark

/-- Every converter stopped. -/
def Chip.convertersStopped : Chip := c.each allRegions Chip.hkStop

/-- The next sample of every timebase is a jump. -/
def Chip.jumpsDue : Chip := c.each allTbs Chip.jumpNext

theorem Chip.darkEntry_eq (house : c.inHouse = true) (trans : c.flag SYS_STATUS_TRANS = true) (empty : c.nvc.orderly = none)
    (awake : c.booting = false) : c.darkEntry = c.darkShown.portsDark.convertersStopped.jumpsDue.put CAN_STAT_STATE 3 := by
  unfold Chip.darkEntry
  rw [if_neg (by rw [house, trans, empty, awake]; decide)]
  rfl

theorem Chip.rngDark_frame : RegsBut [RNG_STAT] c c.rngDark ∧ Only [.regs, .tbs, .rng, .faults] c c.rngDark ∧
    (c.get RNG_STAT_STATE ≠ 2 → c.rngDark.faults = c.faults) := by
  have regs : RegsBut [RNG_STAT] c (c.rngIdle 7) := by
    rw [Chip.rngIdle_eq]
    exact (RegsBut.idleShown c 7).of_regs ((Only.idleTail c 7).same .regs (by decide))
  have idle := Only.rngIdle c 7
  unfold Chip.rngDark
  split
  next up =>
    have down : Only [.regs, .tbs, .rng, .faults] c (((c.rngIdle 7)).raise 0xF9) :=
      (idle.mono : Only [.regs, .tbs, .rng, .faults] c (c.rngIdle 7)).trans (Only.raise ..).mono
    rw [Chip.rngDown_eq up]
    exact ⟨(regs.of_regs (Chip.raise_regs (c.rngIdle 7) 0xF9)).of_regs rfl, down.trans (.of_mix rfl), fun out => absurd up out⟩
  · split
    · exact ⟨regs, idle.mono, fun _ => idle.same .faults (by decide)⟩
    · exact ⟨.refl _ c, .refl _ c, fun _ => rfl⟩

theorem Chip.setPstate_frame (n : Nat) : RegsBut (SYS_STATUS :: monitorRegs) c (c.setPstate n) ∧ Only [.regs, .wms] c (c.setPstate n) ∧
    (∀ m : Fin 8, (c.setPstate n).flag (WM_STAT_ARMED m.val) = false) ∧
    (c.setPstate n).reg SYS_STATUS = (c.put SYS_STATUS_PSTATE n).reg SYS_STATUS := by
  obtain ⟨regs, only, unarmed, -⟩ := (c.put SYS_STATUS_PSTATE n).disarmMonitors_frame
  have put : Only [.regs, .wms] c (c.put SYS_STATUS_PSTATE n) := (Only.put ..).mono
  exact ⟨((RegsBut.refl _ c).put SYS_STATUS_PSTATE n List.mem_cons_self).trans (regs.mono (List.subset_cons_self ..)), put.trans only, unarmed,
    regs _ (by decide +kernel)⟩

/-- The state of power shown, and no transition under way. -/
theorem Chip.stateShown_frame (n : Nat) (small : n < 4) : ((c.setPstate n).put SYS_STATUS_TRANS 0).get SYS_STATUS_PSTATE = n ∧
    ((c.setPstate n).put SYS_STATUS_TRANS 0).flag SYS_STATUS_TRANS = false := by
  obtain ⟨-, -, -, word⟩ := c.setPstate_frame n
  refine ⟨?_, Chip.flag_putF _ _ (Field.ok_of _ rfl) false⟩
  have shown : (c.setPstate n).get SYS_STATUS_PSTATE = (c.put SYS_STATUS_PSTATE n).get SYS_STATUS_PSTATE := congrArg SYS_STATUS_PSTATE.read word
  exact (Chip.get_put_beside _ _ _ _ rfl).trans (shown.trans (c.get_put_lt SYS_STATUS_PSTATE (Field.ok_of _ rfl) n small))

theorem Chip.darkShown_frame : c.darkShown.get SYS_STATUS_PSTATE = 0 ∧ c.darkShown.flag SYS_STATUS_TRANS = false ∧
    Only [.regs, .tbs, .rng, .faults, .wms] c c.darkShown ∧ (c.get RNG_STAT_STATE ≠ 2 → c.darkShown.faults = c.faults) := by
  obtain ⟨-, rng, faults⟩ := c.rngDark_frame
  unfold Chip.darkShown
  generalize c.rngDark = d at rng faults
  obtain ⟨state, still⟩ := d.stateShown_frame 0 (by decide)
  obtain ⟨-, only, -, -⟩ := d.setPstate_frame 0
  have shown : Only [.regs, .wms] d ((d.setPstate 0).put SYS_STATUS_TRANS 0) := only.trans (Only.put ..).mono
  exact ⟨state, still, rng.mono.trans shown.mono, fun up => Eq.trans (b := d.faults) (shown.same .faults (by decide)) (faults up)⟩

theorem Chip.portsDark_frame : Only [.ports] c c.portsDark ∧
    ∀ q, (c.portsDark.port q).hiZ = true ∧ (c.portsDark.port q).ssiBusy = false ∧ (c.portsDark.port q).linesKnown = false := by
  refine ⟨.each c _ fun d p _ => .setPort .., fun q => ?_⟩
  have brings (d : Chip) : (d.setPort q (d.port q).dark).port q = (d.port q).dark := Chip.port_setPort ..
  refine Chip.each_brings (P := fun d : Chip => (d.port q).hiZ = true ∧ (d.port q).ssiBusy = false ∧ (d.port q).linesKnown = false)
    (f := fun c p => c.setPort p (c.port p).dark) c allPorts (List.mem_finRange q) (fun d => ?_) fun d hd p _ => ?_
  · rw [brings d]
    exact ⟨rfl, rfl, rfl⟩
  · by_cases same : q = p
    · subst same
      rw [brings d]
      exact ⟨rfl, rfl, rfl⟩
    · rw [Chip.port_setPort_ne _ _ _ same]
      exact hd

theorem Chip.hkStop_frame (n : Region) : RegsBut [HK_STAT n.val] c (c.hkStop n) ∧ Only [.regs, .hks] c (c.hkStop n) ∧
    ((c.hkStop n).hk n).running = none ∧ ∀ m, m ≠ n → (c.hkStop n).hk m = c.hk m := by
  have put : Only [.regs, .hks] c (((c.put (HK_STAT_BUSY n.val) 0).put (HK_STAT_CLASS n.val) 0).put (HK_STAT_CH n.val) 0) :=
    (((Only.put ..).trans (.put ..)).trans (.put ..)).mono
  refine ⟨((((RegsBut.refl _ c).put (HK_STAT_BUSY n.val) 0 List.mem_cons_self).put (HK_STAT_CLASS n.val) 0 List.mem_cons_self).put
    (HK_STAT_CH n.val) 0 List.mem_cons_self).of_regs rfl, put.trans (.of_mix rfl), ?_, fun m other => ?_⟩
  · exact congrArg HkState.running (Chip.hk_setHk ..)
  · exact Chip.hk_setHk_ne _ _ _ other

theorem allRegions_all : ∀ r : Region, r ∈ allRegions := by decide

theorem HK_STAT_high (n : Nat) : 0x040000 ≤ HK_STAT n := by simp only [HK_STAT]; omega

theorem Chip.convertersStopped_frame : RegsOf (· < 0x040000) c c.convertersStopped ∧ Only [.regs, .hks] c c.convertersStopped ∧
    ∀ n, (c.convertersStopped.hk n).running = none := by
  refine ⟨.each c _ fun d n _ => .of_regsBut (d.hkStop_frame n).1 ?_, .each c _ fun d n _ => (d.hkStop_frame n).2.1, fun n => ?_⟩
  · simpa using HK_STAT_high n.val
  · refine Chip.each_brings (P := fun d : Chip => (d.hk n).running = none) c allRegions (allRegions_all n) (fun d => (d.hkStop_frame n).2.2.1)
      fun d hd m _ => ?_
    obtain ⟨-, -, own, others⟩ := d.hkStop_frame m
    by_cases same : n = m
    · subst same
      exact own
    · rw [others n same]
      exact hd

theorem Chip.jumpsDue_frame : Only [.tbs] c c.jumpsDue ∧ ∀ n, (c.jumpsDue.tb n).jumpDue = true := by
  have brings (d : Chip) (n : Tb) : ((d.jumpNext n).tb n).jumpDue = true := congrArg TbState.jumpDue (Chip.tb_setTb ..)
  refine ⟨.each c _ fun d n _ => .jumpNext d n, fun n => ?_⟩
  refine Chip.each_brings (P := fun d : Chip => (d.tb n).jumpDue = true) c allTbs (List.mem_finRange n) (fun d => brings d n) fun d hd m _ => ?_
  by_cases same : n = m
  · subst same
    exact brings d n
  · rw [show (d.jumpNext m).tb n = d.tb n from Chip.tb_setTb_ne _ _ _ same]
    exact hd

end

theorem completes_darkEntry {s : State} (house : s.chip.inHouse = true) (trans : s.chip.flag SYS_STATUS_TRANS = true)
    (empty : s.chip.nvc.orderly = none) (awake : s.chip.booting = false) :
    Completes .darkEntry s fun c =>
      c.inDark = true ∧ c.flag SYS_STATUS_TRANS = false ∧ (∀ n, (c.tb n).jumpDue = true) ∧
      (∀ q, (c.port q).hiZ = true ∧ (c.port q).ssiBusy = false ∧ (c.port q).linesKnown = false) ∧
      (∀ n, (c.hk n).running = none) ∧
      c.get CAN_STAT_STATE = 3 ∧ c.wall = s.chip.wall ∧ c.cues = s.chip.cues ∧ c.axes = s.chip.axes ∧
      (s.chip.get RNG_STAT_STATE ≠ 2 → c.faults = s.chip.faults) := by
  obtain ⟨state, moved, shown, faults⟩ := s.chip.darkShown_frame
  have eq := s.chip.darkEntry_eq house trans empty awake
  generalize s.chip.darkShown = d at state moved shown faults eq
  obtain ⟨ports, dark⟩ := d.portsDark_frame
  generalize d.portsDark = e at ports dark eq
  obtain ⟨low, stops, stopped⟩ := e.convertersStopped_frame
  generalize e.convertersStopped = f at low stops stopped eq
  obtain ⟨jumps, due⟩ := f.jumpsDue_frame
  generalize f.jumpsDue = g at jumps due eq
  refine completes_of_run Chip.darkEntry rfl eq ?_
  have last : Only [.regs] g (g.put CAN_STAT_STATE 3) := .put ..
  have after : Only [.regs, .tbs, .rng, .faults, .wms, .ports, .hks] d (g.put CAN_STAT_STATE 3) :=
    ((ports.mono : Only [.regs, .tbs, .rng, .faults, .wms, .ports, .hks] d e).trans stops.mono).trans (jumps.mono.trans last.mono)
  have all : Only [.regs, .tbs, .rng, .faults, .wms, .ports, .hks] s.chip (g.put CAN_STAT_STATE 3) := shown.mono.trans after
  have quiet : Only [.regs, .tbs, .ports, .hks] d (g.put CAN_STAT_STATE 3) :=
    ((ports.mono : Only [.regs, .tbs, .ports, .hks] d e).trans stops.mono).trans (jumps.mono.trans last.mono)
  have status (x : Field) (home : x.addr = SYS_STATUS) : (g.put CAN_STAT_STATE 3).get x = d.get x :=
    (Chip.get_put_ne _ _ _ _ (by rw [home]; decide)).trans
      ((jumps.get x).trans ((low.get x (by rw [home]; decide)).trans (ports.get x)))
  refine ⟨?_, (Chip.flag_of_get (status _ rfl)).trans moved, fun n => ?_, fun q => ?_, fun n => ?_, Chip.get_put_fit _ _ _ rfl,
    all.same .wall (by decide), all.same .cues (by decide), all.same .axes (by decide), fun up => ?_⟩
  · unfold Chip.inDark
    rw [status _ rfl, state]
    rfl
  · rw [last.tb n]
    exact due n
  · have same : (g.put CAN_STAT_STATE 3).port q = e.port q :=
      (last.port q).trans ((jumps.port q).trans (stops.port q))
    rw [same]
    exact dark q
  · have same : (g.put CAN_STAT_STATE 3).hk n = f.hk n := (last.hk n).trans (jumps.hk n)
    rw [same]
    exact stopped n
  · exact Eq.trans (b := d.faults) (quiet.same .faults (by decide)) (faults up)

theorem idles_darkEntry {s : State} (still : s.chip.inHouse = false ∨ s.chip.flag SYS_STATUS_TRANS = false ∨ s.chip.nvc.orderly.isSome = true) :
    exec .darkEntry s = .next s := by
  refine idles_of_run Chip.darkEntry rfl (if_pos ?_)
  rcases still with h | h | h <;> simp [h]

/-! ### The return from DARK -/

/-- What the ports bring back. -/
def portParts : List Part := .ports :: stateParts

section
variable (c : Chip)

/-- HOUSE is shown, with the time spent in DARK. -/
def Chip.returnShown (us : Word) : Chip := ((c.setPstate 1).put SYS_STATUS_TRANS 0).setReg SYS_DARKT us

/-- RESUME follows the held records. -/
def Chip.resumed (us : Word) : Chip := c.recordsFreed.logArise 4 us 0 0

/-- What an admitted image makes run again. -/
def Chip.imageRuns : Chip := if c.cfgOk then c.runAgain else c

theorem Chip.darkExit_eq (us : Word) (dark : c.inDark = true) (trans : c.flag SYS_STATUS_TRANS = true) :
    c.darkExit us = (((c.returnShown us).resumed us).imageRuns).enterHouse := by
  unfold Chip.darkExit
  rw [if_neg (by rw [dark, trans]; decide)]
  rfl

/-- The return shown, before any record. -/
structure Returned (us : Word) (b c : Chip) : Prop where
  state : c.get SYS_STATUS_PSTATE = 1
  trans : c.flag SYS_STATUS_TRANS = false
  time : c.reg SYS_DARKT = us
  cfgOk : c.cfgOk = b.cfgOk

theorem Chip.returnShown_frame (us : Word) : Returned us c (c.returnShown us) ∧ (c.returnShown us).flag LOG_STATUS_HOLD = c.flag LOG_STATUS_HOLD ∧
    Only [.regs, .wms] c (c.returnShown us) := by
  obtain ⟨state, still⟩ := c.stateShown_frame 1 (by decide)
  obtain ⟨regs, only, -, word⟩ := c.setPstate_frame 1
  have last : RegsBut [SYS_DARKT] ((c.setPstate 1).put SYS_STATUS_TRANS 0) (c.returnShown us) :=
    (RegsBut.refl _ _).setReg SYS_DARKT us List.mem_cons_self
  have beside {f : Field} (home : f.addr = SYS_STATUS) : (c.returnShown us).get f = ((c.setPstate 1).put SYS_STATUS_TRANS 0).get f :=
    last.get (by rw [home]; decide)
  have okSame : c.get SYS_STATUS_CFG_OK = (c.returnShown us).get SYS_STATUS_CFG_OK := by
    rw [beside rfl, Chip.get_put_beside _ _ _ _ rfl]
    exact ((congrArg SYS_STATUS_CFG_OK.read word).trans (Chip.get_put_beside _ _ _ _ rfl)).symm
  have shown : Only [.regs, .wms] c ((c.setPstate 1).put SYS_STATUS_TRANS 0) := only.trans (Only.put ..).mono
  refine ⟨⟨(beside rfl).trans state, (Chip.flag_of_get (beside rfl)).trans still, Chip.reg_setReg .., (Chip.flag_of_get okSame).symm⟩, ?_,
    shown.trans (Only.setReg ..).mono⟩
  have hold : (c.setPstate 1).get LOG_STATUS_HOLD = c.get LOG_STATUS_HOLD := regs.get (g := LOG_STATUS_HOLD) (by decide +kernel)
  exact Chip.flag_of_get ((last.get (g := LOG_STATUS_HOLD) (by decide)).trans ((Chip.get_put_ne _ _ _ _ (by decide)).trans hold))

/-- A step that leaves the part's own registers leaves the return shown. -/
theorem Returned.step {us : Word} {b c d : Chip} (h : Returned us b c) (own : RegsOf OwnReg c d) : Returned us b d := by
  have status (f : Field) (home : f.addr = SYS_STATUS) : d.get f = c.get f := own.get f (by unfold OwnReg KeptReg; rw [home]; decide)
  exact ⟨(status _ rfl).trans h.state, (Chip.flag_of_get (status _ rfl)).trans h.trans, (own.reg SYS_DARKT (by unfold OwnReg KeptReg; decide)).trans h.time,
    (Chip.flag_of_get (status _ rfl)).trans h.cfgOk⟩

theorem RegsOf.ports {b c : Chip} (h : RegsOf (fun x => ¬ Delivered x) b c) : RegsOf KeptReg b c :=
  ⟨fun x kept => h.reg x fun told => by
    unfold KeptReg at kept
    rcases told with ⟨n, eq⟩ | ⟨a, eq⟩ | ⟨p, eq⟩ <;> simp only [CUE_TB_STAT, AX_SRCSTAT, FP_STAT] at eq <;> omega⟩

/-- A port runs again: its registers and the ports' own state change, and no port returns to high impedance. -/
structure PortStep (b c : Chip) : Prop where
  low : RegsOf KeptReg b c
  shown : ∀ q, (b.port q).hiZ = false → (c.port q).hiZ = false
  only : Only portParts b c

theorem PortStep.refl (c : Chip) : PortStep c c := ⟨.refl _ c, fun _ h => h, .refl _ c⟩

theorem PortStep.trans {b c d : Chip} (h : PortStep b c) (g : PortStep c d) : PortStep b d :=
  ⟨h.low.trans g.low, fun q out => g.shown q (h.shown q out), h.only.trans g.only⟩

theorem PortStep.each {α : Type} {f : Chip → α → Chip} (c : Chip) (xs : List α) (hf : ∀ d, ∀ x ∈ xs, PortStep d (f d x)) :
    PortStep c (c.each xs f) :=
  Chip.each_keeps xs (.refl c) fun d hd x hx => hd.trans (hf d x hx)

theorem PortStep.setPort (p : Port) (x : PortState) (shown : (c.port p).hiZ = false → x.hiZ = false) : PortStep c (c.setPort p x) := by
  refine ⟨.of_regs rfl, fun q out => ?_, (Only.setPort ..).mono⟩
  by_cases same : q = p
  · subst same
    rw [Chip.port_setPort]
    exact shown out
  · rw [Chip.port_setPort_ne _ _ _ same]
    exact out

theorem PortStep.driveOut (p : Port) : PortStep c (c.driveOut p false none) := by
  have level : PortStep c (c.putF (FP_STAT_LEVEL p.val) false) := by
    refine ⟨(RegsOf.refl _ c).put (FP_STAT_LEVEL p.val) _ (by simp only [KeptReg, FP_STAT_LEVEL, FP_STAT]; omega), fun q out => ?_, (Only.putF ..).mono⟩
    rw [(Only.putF c (FP_STAT_LEVEL p.val) false).port q]
    exact out
  have same : (c.putF (FP_STAT_LEVEL p.val) false).port p = c.port p := (Only.putF c (FP_STAT_LEVEL p.val) false).port p
  exact level.trans (.setPort _ p _ fun out => by rw [same] at out; exact out)

theorem PortStep.acquire (p : Port) : PortStep c (c.acquire p) := by
  have marked : PortStep c (c.setPort p { c.port p with learned := false, ssiGood := 0, acqTick := c.now }) := .setPort c p _ id
  have state (d : Chip) : PortStep d (d.setPortState p 0) := by
    refine ⟨(RegsOf.setPortState d p 0).ports, fun q out => ?_, (Only.setPortState d p 0).mono⟩
    rw [(Only.setPortState d p 0).port q]
    exact out
  exact marked.trans (state _)

/-- The timers of a group's wires start. -/
def Chip.wiresTimed (p : Port) : Chip := c.each (c.membersOf p) fun c m => c.setPort m { c.port m with wireOkTick := c.now }

theorem Chip.beginGroup_eq (p : Port) : c.beginGroup p = (c.wiresTimed p).acquire p := rfl

theorem PortStep.beginGroup (p : Port) : PortStep c (c.beginGroup p) := by
  have timed : PortStep c (c.wiresTimed p) := .each c _ fun d m _ => .setPort d m { d.port m with wireOkTick := d.now } fun out => out
  rw [Chip.beginGroup_eq]
  exact timed.trans (.acquire _ p)

/-- Every port drives its lines again. -/
def Chip.portsDriven : Chip := c.each allPorts fun c p => c.setPort p { c.port p with hiZ := false }

/-- The outputs return low. -/
def Chip.outputsLow : Chip := c.each allPorts fun d p => if d.portIsOut p.val then d.driveOut p false none else d

/-- The groups of inputs start anew. -/
def Chip.groupsBegun : Chip := c.each (allPorts.filter c.inputLead) Chip.beginGroup

theorem Chip.portsBack_eq : c.portsBack = c.portsDriven.outputsLow.groupsBegun := rfl

theorem Chip.portsDriven_frame : RegsOf KeptReg c c.portsDriven ∧ (∀ q, (c.portsDriven.port q).hiZ = false) ∧ Only portParts c c.portsDriven := by
  have step := PortStep.each (f := fun c p => c.setPort p { c.port p with hiZ := false }) c allPorts fun d p _ => .setPort d p _ fun _ => rfl
  refine ⟨step.low, fun q => ?_, step.only⟩
  exact Chip.each_brings (P := fun d : Chip => (d.port q).hiZ = false) (f := fun c p => c.setPort p { c.port p with hiZ := false }) c allPorts
    (List.mem_finRange q) (fun d => congrArg PortState.hiZ (Chip.port_setPort ..))
    fun d hd p _ => (PortStep.setPort d p { d.port p with hiZ := false } fun _ => rfl).shown q hd

theorem Chip.portsBack_frame : RegsOf KeptReg c c.portsBack ∧ (∀ q, (c.portsBack.port q).hiZ = false) ∧ Only portParts c c.portsBack := by
  obtain ⟨low, driven, only⟩ := c.portsDriven_frame
  rw [Chip.portsBack_eq]
  generalize c.portsDriven = d at low driven only
  have outputs : PortStep d d.outputsLow := by
    refine .each d _ fun e p _ => ?_
    split
    · exact .driveOut e p
    · exact .refl e
  have groups (e : Chip) : PortStep e e.groupsBegun := .each e _ fun g p _ => .beginGroup g p
  have after := outputs.trans (groups _)
  exact ⟨low.trans after.low, fun q => after.shown q (driven q), only.trans after.only⟩

theorem Chip.runAgain_frame : RegsOf OwnReg c c.runAgain ∧ c.runAgain.get LOG_STATUS_HOLD = c.get LOG_STATUS_HOLD ∧
    (∀ q, (c.runAgain.port q).hiZ = false) ∧ Only (.can :: portParts) c c.runAgain := by
  obtain ⟨low, driven, only⟩ := c.portsBack_frame
  unfold Chip.runAgain
  generalize c.portsBack = d at low driven only
  dsimp only
  have timers : Only [.can] d { d with can := { d.can with nodeTicks := Vector.replicate 32 d.now } } := .of_mix rfl
  generalize ({ d with can := { d.can with nodeTicks := Vector.replicate 32 d.now } } : Chip) = e at timers
  have all : Only (.can :: portParts) c e := (only.mono : Only (.can :: portParts) c d).trans timers.mono
  have area : RegsOf KeptReg c e := low.trans (.of_regs (timers.same .regs (by decide)))
  have out (q : Port) : (e.port q).hiZ = false := by rw [timers.port q]; exact driven q
  split
  · generalize packFields _ = w
    have word : Only [.regs] e (e.setReg CAN_STAT w) := .setReg ..
    have whole : RegsOf KeptReg c (e.setReg CAN_STAT w) :=
      area.trans (.of_regsBut ((RegsBut.refl [CAN_STAT] e).setReg CAN_STAT w List.mem_cons_self) (by simp [KeptReg, CAN_STAT]))
    exact ⟨⟨fun a own => whole.reg a own.1⟩, whole.get _ (.inl (by decide)), fun q => by rw [word.port q]; exact out q, all.trans word.mono⟩
  · exact ⟨⟨fun a own => area.reg a own.1⟩, area.get _ (.inl (by decide)), out, all⟩

/-- What the return keeps of the records. -/
theorem Chip.resumed_frame (us : Word) (lit : c.get SYS_STATUS_PSTATE = 1) : RegsOf OwnReg c (c.resumed us) ∧
    Only [.regs, .fresh, .nvc, .faults] c (c.resumed us) ∧
    (c.flag LOG_STATUS_HOLD = false → (c.resumed us).flag LOG_STATUS_HOLD = false ∧ (c.resumed us).mayLog = true ∧
      (c.resumed us).nvc.pending = [] ∧ (c.resumed us).nvc.queue = c.nvc.queue ++ c.nvc.pending ++ [⟨4, false, c.wall, us, 0, 0⟩]) := by
  have arise (d : Chip) : RegsOf OwnReg d (d.logArise 4 us 0 0) := .of_regsBut (d.logArise_regsBut 4 us 0 0) (by simp [OwnReg])
  have arisen (d : Chip) : Only [.regs, .fresh, .nvc, .faults] d (d.logArise 4 us 0 0) := (Only.logArise d 4 us 0 0).mono
  unfold Chip.resumed Chip.recordsFreed
  split
  next held => exact ⟨arise c, arisen c, fun free => absurd (held.symm.trans free) (by decide)⟩
  next free =>
    have freed := RecordsFreed.unholdRecords c
    generalize c.unholdRecords = d at freed
    have own : RegsOf OwnReg c d := .of_regsBut freed.regs (by simp [OwnReg])
    have state : d.get SYS_STATUS_PSTATE = 1 := (own.get _ (by unfold OwnReg KeptReg; decide)).trans lit
    have may : d.mayLog = true := by
      unfold Chip.mayLog Chip.inDark
      rw [state, freed.hold]
      rfl
    have step := HouseStep.logArise d 4 us 0 0
    have wall : d.wall = c.wall := freed.only.same .wall (by decide)
    refine ⟨own.trans (arise d), (freed.only.mono : Only [.regs, .fresh, .nvc, .faults] c d).trans (arisen d), fun _ => ⟨?_, step.mayLog.trans may, ?_, ?_⟩⟩
    · exact (Chip.flag_of_get step.hold).trans freed.hold
    · exact (step.held may).trans freed.pending
    · rw [d.logArise_queue may, freed.queue, wall]

end

theorem completes_darkExit {s : State} {us : Word} (dark : s.chip.inDark = true) (trans : s.chip.flag SYS_STATUS_TRANS = true) :
    Completes (.darkExitComplete us) s fun c =>
      c.inHouse = true ∧ c.flag SYS_STATUS_TRANS = false ∧ c.reg SYS_DARKT = us ∧ c.wall = s.chip.wall ∧
      c.cues = s.chip.cues ∧ c.houseTick = s.chip.now ∧ (s.chip.cfgOk = true → ∀ q, (c.port q).hiZ = false) ∧
      (s.chip.flag LOG_STATUS_HOLD = false →
        c.nvc.pending = [] ∧
        ∃ l, c.nvc.queue = s.chip.nvc.queue ++ s.chip.nvc.pending ++ [⟨4, false, s.chip.wall, us, 0, 0⟩] ++ l) := by
  refine completes_of_run (fun c => c.darkExit us) rfl (s.chip.darkExit_eq us dark trans) ?_
  obtain ⟨shown, hold, first⟩ := s.chip.returnShown_frame us
  generalize s.chip.returnShown us = d at shown hold first
  have nvc : d.nvc = s.chip.nvc := first.same .nvc (by decide)
  have wall : d.wall = s.chip.wall := first.same .wall (by decide)
  obtain ⟨own, second, records⟩ := d.resumed_frame us shown.state
  have after := shown.step own
  rw [hold, nvc, wall] at records
  generalize d.resumed us = e at own second records after
  have runs : RegsOf OwnReg e e.imageRuns ∧ e.imageRuns.get LOG_STATUS_HOLD = e.get LOG_STATUS_HOLD ∧
      (s.chip.cfgOk = true → ∀ q, (e.imageRuns.port q).hiZ = false) ∧ Only (.can :: portParts) e e.imageRuns := by
    unfold Chip.imageRuns
    split
    next ok =>
      obtain ⟨same, held, out, only⟩ := e.runAgain_frame
      exact ⟨same, held, fun _ => out, only⟩
    next no => exact ⟨.refl _ e, rfl, fun ok => absurd (after.cfgOk.trans ok) no, .refl _ e⟩
  generalize e.imageRuns = f at runs
  obtain ⟨same, held, out, third⟩ := runs
  obtain ⟨step, -, tick⟩ := HouseStep.enterHouse f
  have last := (after.step same).step step.own
  generalize f.enterHouse = g at step tick last
  have kept : f.nvc = e.nvc := third.same .nvc (by decide)
  have may : f.mayLog = e.mayLog := by
    unfold Chip.mayLog Chip.inDark
    rw [same.get SYS_STATUS_PSTATE (by unfold OwnReg KeptReg; decide), Chip.flag_of_get held]
  refine ⟨beq_iff_eq.mpr last.state, last.trans, last.time, ?_, ?_, ?_, fun ok q => ?_, fun free => ?_⟩
  · exact Eq.trans (b := f.wall) (step.only.same .wall (by decide)) (Eq.trans (b := e.wall) (third.same .wall (by decide))
      (Eq.trans (b := d.wall) (second.same .wall (by decide)) wall))
  · exact Eq.trans (b := f.cues) (step.only.same .cues (by decide)) (Eq.trans (b := e.cues) (third.same .cues (by decide))
      (Eq.trans (b := d.cues) (second.same .cues (by decide)) (first.same .cues (by decide))))
  · exact tick.trans (Eq.trans (b := e.now) (third.same .now (by decide)) (Eq.trans (b := d.now) (second.same .now (by decide))
      (first.same .now (by decide))))
  · rw [step.only.port q (by decide)]
    exact out ok q
  · obtain ⟨-, writes, empty, queue⟩ := records free
    obtain ⟨l, more⟩ := step.queue (may.trans writes)
    refine ⟨(step.held (may.trans writes)).trans (by rw [kept, empty]), l, ?_⟩
    rw [more, kept, queue]

theorem idles_darkExit {s : State} {us : Word} (still : s.chip.inDark = false ∨ s.chip.flag SYS_STATUS_TRANS = false) :
    exec (.darkExitComplete us) s = .next s := by
  refine idles_of_run (fun c => c.darkExit us) rfl (if_pos ?_)
  rcases still with h | h <;> simp [h]

/-! ### The fuses of a life-cycle change (R319, R321, R322) -/

section
variable (nv : NonVolatile)

/-- What is still to be programmed after a pulse was so before. -/
theorem pulseStep_todo (o : OtpOp) (v : Verify) : (pulseStep nv o v).2.1.todo ⊆ o.todo := by
  rcases todo : o.todo with _ | ⟨⟨k, w⟩, rest⟩
  · rw [pulseStep, todo]
    dsimp only
    rw [todo]
    exact List.Subset.refl _
  · rw [pulseStep, todo]
    dsimp only
    split
    · exact List.Subset.refl _
    split
    · split
      · exact List.Subset.refl _
      · exact List.subset_cons_self ..
    · split
      · exact List.Subset.refl _
      · exact List.Subset.refl _

/-- A pulse reaches no word that is not to be programmed. -/
theorem pulseStep_out (o : OtpOp) (v : Verify) {k : Nat} (out : ∀ x ∈ o.todo, k ≠ x.1) : (pulseStep nv o v).1.fuse k = nv.fuse k := by
  rcases todo : o.todo with _ | ⟨⟨j, w⟩, rest⟩
  · rw [pulseStep, todo]
  · rw [pulseStep_fuses nv todo]
    exact nv.fuse_blow_ne _ (out (j, w) (by rw [todo]; exact List.mem_cons_self))

theorem blowAll_out (l : List (Nat × Word)) {k : Nat} (out : ∀ x ∈ l, k ≠ x.1) :
    (l.foldl (fun nv x => nv.blow x.1 x.2) nv).fuse k = nv.fuse k := by
  induction l generalizing nv with
  | nil => rfl
  | cons x l ih =>
    obtain ⟨first, rest⟩ := List.forall_mem_cons.mp out
    exact (ih (nv.blow x.1 x.2) rest).trans (nv.fuse_blow_ne _ first)

/-- A change reaches no word that is not to be programmed. -/
theorem burn_out (l : List Verify) (o : OtpOp) {k : Nat} (out : ∀ x ∈ o.todo, k ≠ x.1) : (burn nv o l).fuse k = nv.fuse k := by
  induction l generalizing nv o with
  | nil => exact blowAll_out nv o.todo out
  | cons v l ih =>
    have first := pulseStep_out nv o v out
    have left := pulseStep_todo nv o v
    unfold burn
    rcases step : pulseStep nv o v with ⟨next, q, _ | r⟩
    · rw [step] at first left
      exact (ih next q fun x hx => out x (left hx)).trans first
    · rw [step] at first
      exact first

theorem lcTodo_low (target k : Nat) (high : 3 ≤ k) : ∀ x ∈ nv.lcTodo target, k ≠ x.1 := by
  intro x hx
  obtain ⟨i, hi, rfl⟩ := List.mem_map.mp hx
  have := List.mem_range.mp hi
  dsimp only
  omega

/-- Words that verify at their first pulse: each copy takes the byte of the target. -/
theorem burn_all (target i : Nat) (hi : i < 3) :
    (burn nv ⟨0, 0, nv.lcTodo target, 0, 0⟩ []).fuse i = nv.fuse i ||| (nv.fuse i ||| (0xFF#32 <<< (8 * (target - 1)))) := by
  have run : burn nv ⟨0, 0, nv.lcTodo target, 0, 0⟩ [] = (((nv.blow 0 (nv.fuse 0 ||| (0xFF#32 <<< (8 * (target - 1))))).blow 1
      (nv.fuse 1 ||| (0xFF#32 <<< (8 * (target - 1))))).blow 2 (nv.fuse 2 ||| (0xFF#32 <<< (8 * (target - 1))))) := rfl
  rw [run]
  have which : i = 0 ∨ i = 1 ∨ i = 2 := by omega
  rcases which with rfl | rfl | rfl
  · rw [NonVolatile.fuse_blow_ne _ _ (by decide), NonVolatile.fuse_blow_ne _ _ (by decide), NonVolatile.fuse_blow]
  · rw [NonVolatile.fuse_blow_ne _ _ (by decide), NonVolatile.fuse_blow, NonVolatile.fuse_blow_ne _ _ (by decide)]
  · rw [NonVolatile.fuse_blow, NonVolatile.fuse_blow_ne _ _ (by decide), NonVolatile.fuse_blow_ne _ _ (by decide)]

/-- The byte of the target is programmed. -/
theorem burnt_byte (w : Word) {target : Nat} (least : 1 ≤ target) (most : target ≤ 3) :
    (((w ||| (w ||| (0xFF#32 <<< (8 * (target - 1))))) >>> (8 * (target - 1))).truncate 8 : Byte) = 0xFF := by
  have which : target = 1 ∨ target = 2 ∨ target = 3 := by omega
  apply BitVec.eq_of_getLsbD_eq
  intro j hj
  rcases which with rfl | rfl | rfl <;> interval_cases j <;> simp

end

/-! ### An accepted change -/

section
variable {s : State} {p : Path} {data : Word} {left : Bool} {copies : List Verify} {reads : List OtpRead}

theorem State.wipeLog_fuses (s : State) (old new : Nat) : (s.wipeLog old new).nv.fuses = s.nv.fuses :=
  (BookStep.writeQueue true _ _).fuses

/-- The fuses that a change leaves. -/
theorem State.lifecycle_nv (s : State) (target : Nat) (copies : List Verify) (reads : List OtpRead) :
    ∃ b : NonVolatile, b.fuses = s.nv.fuses ∧
      (s.lifecycle target copies reads).nv.fuses = (burn b ⟨0, 0, b.lcTodo target, 0, 0⟩ copies).fuses := by
  have closed := BookClosed.closeBook { s with chip := s.chip.logBusy true } 2
  refine ⟨_, closed.fuses, ?_⟩
  unfold State.lifecycle State.start
  dsimp only
  split
  · exact State.wipeLog_fuses ..
  · rfl

theorem Started.lifecycle (s : State) (target : Nat) (copies : List Verify) (reads : List OtpRead) :
    Started 2 (s.lifecycle target copies reads).nv reads (s.lifecycle target copies reads).chip :=
  Started.start (if target = 3 then _ else _) (by decide) false reads

/-- The reason of a life-cycle request: the lowest code of what it meets. -/
theorem lcReason (confirm state key strike busy window : Bool) :
    judge [(confirm, .range), (state, .state), (key, .state), (strike, .locked), (busy, .busy), (window, .window)] =
      if state || key then .state else if confirm then .range else if strike then .locked else if busy then .busy
      else if window then .window else .ok := by
  revert confirm state key strike busy window
  decide

theorem lcNext_target {old new : Nat} (next : lcNext old new = true) : 1 ≤ new ∧ new ≤ 3 := by
  unfold lcNext at next
  split at next <;> simp_all

/-- The conditions of SYS_LCCMD, in the order of their codes. -/
theorem Chip.lcConds_reason (c : Chip) : judge (Chip.lcConds data left c) =
    if (!c.inHouse || c.booting || c.flag SYS_STATUS_TRANS) ||
      (SYS_LCCMD_TARGET.read data == 2 && !(c.flag SYS_STATUS_KEY && (c.get OTP_STATUS_LOCK).testBit 1)) then .state
    else if SYS_LCCMD_CONFIRM.read data != 0xA55A || !lcNext (c.get SYS_STATUS_LC) (SYS_LCCMD_TARGET.read data) then .range
    else if SYS_LCCMD_TARGET.read data == 3 && c.get SYS_STATUS_LC == 2 && !(c.cfgOk && c.load.strikeOk) then .locked
    else if c.flag SYS_STATUS_LOG_BUSY || c.nvc.op.isSome then .busy
    else if c.windowLeft left then .window else .ok := lcReason ..

theorem lifecycle_row : exec (.lifecycleChange p data left copies reads) s =
    .next (s.judged p false (Chip.lcConds data left) fun s => s.lifecycle (SYS_LCCMD_TARGET.read data) copies reads) := rfl

/-- An accepted change names a target of Table 12-7. -/
theorem lcConds_target {c : Chip} (clear : judge (Chip.lcConds data left c) = .ok) :
    1 ≤ SYS_LCCMD_TARGET.read data ∧ SYS_LCCMD_TARGET.read data ≤ 3 := by
  rw [Chip.lcConds_reason] at clear
  split at clear
  · exact absurd clear (by decide)
  split at clear
  · exact absurd clear (by decide)
  next right =>
    have next : lcNext (c.get SYS_STATUS_LC) (SYS_LCCMD_TARGET.read data) = true := by simpa using (Bool.or_eq_false_iff.mp (Bool.eq_false_iff.mpr right)).2
    exact lcNext_target next

theorem lifecycle_accepted (serving : s.chip.serves p) (clear : judge (Chip.lcConds data left s.chip) = .ok) :
    ∃ t, exec (.lifecycleChange p data left copies reads) s = .next t ∧ t.pending = s.pending ∧
      Started 2 t.nv reads t.chip ∧ FusesKept s.nv t.nv ∧
      (copies = [] → ∀ i, i < 3 → ((t.nv.fuse i >>> (8 * (SYS_LCCMD_TARGET.read data - 1))).truncate 8 : Byte) = 0xFF) ∧
      (∀ k, 3 ≤ k → t.nv.fuse k = s.nv.fuse k) := by
  obtain ⟨pending, grows, -⟩ := s.lifecycle_keeps (SYS_LCCMD_TARGET.read data) copies reads
  obtain ⟨b, before, burnt⟩ := s.lifecycle_nv (SYS_LCCMD_TARGET.read data) copies reads
  have started := Started.lifecycle s (SYS_LCCMD_TARGET.read data) copies reads
  obtain ⟨least, most⟩ := lcConds_target clear
  refine ⟨_, exec_of_judged lifecycle_row serving clear, pending, started.answer p .ok, grows, fun all i hi => ?_, fun k high => ?_⟩
  · subst all
    rw [NonVolatile.fuse_of_fuses burnt, burn_all _ _ i hi]
    exact burnt_byte _ least most
  · rw [NonVolatile.fuse_of_fuses burnt, burn_out _ _ _ (lcTodo_low b _ k high)]
    exact NonVolatile.fuse_of_fuses before k

/-! ### Refused changes -/

theorem refuses_lifecycle {r : Reason} (serving : s.chip.serves p) (bad : judge (Chip.lcConds data left s.chip) = r) (refused : r ≠ .ok) :
    Refuses (.lifecycleChange p data left copies reads) p s r :=
  refuses_of_verdict lifecycle_row serving.1 ((Chip.verdict_serves serving).trans bad) refused

theorem refuses_lifecycle_state (carries : s.chip.carries p = true)
    (bad : s.chip.inHouse = false ∨ s.chip.flag SYS_STATUS_TRANS = true ∨ s.chip.booting = true) :
    Refuses (.lifecycleChange p data left copies reads) p s .state := by
  have own : judge (Chip.lcConds data left s.chip) = .state := by
    rw [Chip.lcConds_reason, if_pos]
    rcases bad with h | h | h <;> simp [h]
  refine refuses_of_verdict lifecycle_row carries ?_ (by decide)
  unfold Chip.verdict
  rw [own]
  unfold Chip.gate
  cases s.chip.booting <;> cases s.chip.inDark <;> rfl

/-- Nothing of the state refuses the change. -/
def Chip.lcReady (c : Chip) (target : Nat) : Prop := c.inHouse = true ∧ c.flag SYS_STATUS_TRANS = false ∧
  (target = 2 → c.flag SYS_STATUS_KEY = true ∧ (c.get OTP_STATUS_LOCK).testBit 1 = true)

/-- The request is one of Table 12-7, and confirmed. -/
def Chip.lcRight (c : Chip) (data : Word) : Prop :=
  SYS_LCCMD_CONFIRM.read data = 0xA55A ∧ lcNext (c.get SYS_STATUS_LC) (SYS_LCCMD_TARGET.read data) = true

/-- The image allows the entry into STRIKE. -/
def Chip.lcMayStrike (c : Chip) (target : Nat) : Prop := target = 3 → c.get SYS_STATUS_LC = 2 → c.cfgOk = true ∧ c.load.strikeOk = true

theorem Chip.lcReady_iff {c : Chip} (awake : c.booting = false) (target : Nat) :
    ((!c.inHouse || c.booting || c.flag SYS_STATUS_TRANS) || (target == 2 && !(c.flag SYS_STATUS_KEY && (c.get OTP_STATUS_LOCK).testBit 1))) = true ↔
      ¬c.lcReady target := by
  unfold Chip.lcReady
  rw [awake]
  cases c.inHouse <;> cases c.flag SYS_STATUS_TRANS <;> cases c.flag SYS_STATUS_KEY <;> simp

theorem Chip.lcRight_iff {c : Chip} :
    (SYS_LCCMD_CONFIRM.read data != 0xA55A || !lcNext (c.get SYS_STATUS_LC) (SYS_LCCMD_TARGET.read data)) = true ↔ ¬c.lcRight data := by
  unfold Chip.lcRight
  cases lcNext (c.get SYS_STATUS_LC) (SYS_LCCMD_TARGET.read data) <;> simp

theorem Chip.lcMayStrike_iff {c : Chip} (target : Nat) :
    (target == 3 && c.get SYS_STATUS_LC == 2 && !(c.cfgOk && c.load.strikeOk)) = true ↔ ¬c.lcMayStrike target := by
  unfold Chip.lcMayStrike
  cases c.cfgOk <;> simp [and_assoc]

/-- The reason of a change, in the words of Table 12-7. -/
theorem lcConds_judged {c : Chip} (awake : c.booting = false) : judge (Chip.lcConds data left c) =
    open Classical in
    if ¬c.lcReady (SYS_LCCMD_TARGET.read data) then .state else if ¬c.lcRight data then .range
    else if ¬c.lcMayStrike (SYS_LCCMD_TARGET.read data) then .locked
    else if c.flag SYS_STATUS_LOG_BUSY || c.nvc.op.isSome then .busy else if c.windowLeft left then .window else .ok := by
  classical
  rw [Chip.lcConds_reason]
  exact if_congr (Chip.lcReady_iff awake _) rfl (if_congr Chip.lcRight_iff rfl (if_congr (Chip.lcMayStrike_iff _) rfl rfl))

theorem lifecycle_refused (s : State) (p : Path) (data : Word) (left : Bool) (copies : List Verify) (reads : List OtpRead) :
    let target := SYS_LCCMD_TARGET.read data
    let right := SYS_LCCMD_CONFIRM.read data = 0xA55A ∧ lcNext (s.chip.get SYS_STATUS_LC) target = true
    let ready := s.chip.inHouse = true ∧ s.chip.flag SYS_STATUS_TRANS = false ∧
      (target = 2 → s.chip.flag SYS_STATUS_KEY = true ∧ (s.chip.get OTP_STATUS_LOCK).testBit 1 = true)
    let mayStrike := target = 3 → s.chip.get SYS_STATUS_LC = 2 → s.chip.cfgOk = true ∧ s.chip.load.strikeOk = true
    let i := Instr.lifecycleChange p data left copies reads
    (s.chip.serves p → ready → ¬right → Refuses i p s .range) ∧
    (s.chip.carries p = true → s.chip.inHouse = false ∨ s.chip.flag SYS_STATUS_TRANS = true ∨ s.chip.booting = true →
      Refuses i p s .state) ∧
    (s.chip.serves p → s.chip.inHouse = true → s.chip.flag SYS_STATUS_TRANS = false → ¬ready → Refuses i p s .state) ∧
    (s.chip.serves p → ready → right → ¬mayStrike → Refuses i p s .locked) ∧
    (s.chip.serves p → ready → right → mayStrike → s.chip.flag SYS_STATUS_LOG_BUSY = true ∨ s.chip.nvc.op.isSome = true →
      Refuses i p s .busy) ∧
    (s.chip.serves p → ready → right → mayStrike → s.chip.flag SYS_STATUS_LOG_BUSY = false → s.chip.nvc.op = none →
      s.chip.windowLeft left = true → Refuses i p s .window) := by
  intro target right ready mayStrike i
  have judged (serving : s.chip.serves p) := lcConds_judged (data := data) (left := left) serving.2.1
  have past (h : s.chip.lcReady target) (g : s.chip.lcRight data) (serving : s.chip.serves p) := ((judged serving).trans (if_neg (not_not.mpr h))).trans
    (if_neg (not_not.mpr g))
  refine ⟨fun serving isReady wrong => ?_, refuses_lifecycle_state, fun serving _ _ notReady => ?_, fun serving isReady isRight not => ?_,
    fun serving isReady isRight may busy => ?_, fun serving isReady isRight may idle free gone => ?_⟩
  · have reason := ((judged serving).trans (if_neg (not_not.mpr isReady))).trans (if_pos wrong)
    exact refuses_lifecycle serving reason (by decide)
  · exact refuses_lifecycle serving ((judged serving).trans (if_pos notReady)) (by decide)
  · exact refuses_lifecycle serving ((past isReady isRight serving).trans (if_pos not)) (by decide)
  · have reason := (past isReady isRight serving).trans (if_neg (not_not.mpr may))
    exact refuses_lifecycle serving (reason.trans (if_pos (by simpa using busy))) (by decide)
  · have reason := (past isReady isRight serving).trans (if_neg (not_not.mpr may))
    exact refuses_lifecycle serving ((reason.trans (if_neg (by simp [idle, free]))).trans (if_pos gone)) (by decide)

end

end Sys2Proof.Machine

open Sys2Proof.Machine

/-- Settles O40: the entry and the return step by step, and a change that reaches three words of the fuses. -/
theorem darkAndLifecycle : Obligations.DarkAndLifecycle :=
  ⟨⟨fun _ => completes_darkEntry, fun _ => idles_darkEntry, fun _ _ => completes_darkExit, fun _ _ => idles_darkExit⟩,
    fun _ _ _ _ _ _ => lifecycle_accepted, lifecycle_refused⟩
end

section
-- One proof after the other: a side goal that `Only` settles by `decide` waits for the kernel, on a thread of its own.
set_option Elab.async false
/-! SUPPORT. How SYS_PWR is judged, and what each transition of power leaves (R84, R88, R99, R204, R311 to R313, Table 12-6); and the
statement about them. -/
namespace Sys2Proof.Machine

/-! ### Requests (R10, R11, R299, R311, R361) -/

section
variable {s : State} {p : Path} {t : Nat} {i : Instr}

/-- The commands of SYS_PWR, by their target. -/
def pwrCommands (p : Path) : List (Instr × Nat) := [(.sysPwrHouse p, 1), (.sysPwrStandby p, 2), (.sysPwrShow p, 3), (.sysPwrDark p, 0)]

theorem sysPwr_row (named : (i, t) ∈ pwrCommands p) : exec i s = s.run fun c => c.ask p true fun c => c.sysPwr t := by
  simp only [pwrCommands, List.mem_cons, Prod.mk.injEq, List.not_mem_nil, or_false] at named
  obtain ⟨rfl, rfl⟩ | ⟨rfl, rfl⟩ | ⟨rfl, rfl⟩ | ⟨rfl, rfl⟩ := named <;> rfl

/-- The reason of a SYS_PWR write: the lowest code of what it meets. -/
theorem pwrReason (busy pair state window : Bool) :
    judge [(busy, .busy), (pair, .state), (state, .state), (window, .window)] =
      if pair || state then .state else if busy then .busy else if window then .window else .ok := by
  revert busy pair state window
  decide

theorem Chip.pwrConds_reason (c : Chip) (t : Nat) : judge (c.pwrConds t) =
    if !pwrPair c.pstate t || (c.pstate == 1 && t == 2 && c.armState) then .state else if c.pwrBusy then .busy
    else if c.pstate == 1 && t == 2 && c.armWindow then .window else .ok := pwrReason ..

/-- In every state of power a request is judged by its own rules, but in a start sequence. -/
theorem Chip.gate_pwr (c : Chip) : c.gate true = if c.booting then .busy else .ok := by
  unfold Chip.gate
  simp

theorem sysPwr_answered (named : (i, t) ∈ pwrCommands p) (carries : s.chip.carries p = true) (awake : s.chip.booting = false) :
    exec i s = .next { s with chip := (s.chip.sysPwr t).1.answer p (s.chip.sysPwr t).2 } := by
  have passes : s.chip.gate true = .ok := by rw [s.chip.gate_pwr, awake]; rfl
  rw [sysPwr_row named, State.run_eq, Chip.ask, carries, if_neg (by decide), if_pos passes]

theorem grants_sysPwr {P : Chip → Prop} (named : (i, t) ∈ pwrCommands p) (carries : s.chip.carries p = true) (awake : s.chip.booting = false)
    (clear : judge (s.chip.pwrConds t) = .ok) (hp : P (s.chip.pwrTo t)) : Grants i p s P := by
  have asked : s.chip.sysPwr t = (s.chip.pwrTo t, .ok) := s.chip.request_ok _ _ clear
  refine ⟨s.chip.pwrTo t, ?_, hp⟩
  rw [sysPwr_answered named carries awake, asked]

theorem refuses_sysPwr {r : Reason} (named : (i, t) ∈ pwrCommands p) (carries : s.chip.carries p = true)
    (bad : (if s.chip.booting then Reason.busy.under (judge (s.chip.pwrConds t)) else judge (s.chip.pwrConds t)) = r) (refused : r ≠ .ok) :
    Refuses i p s r := by
  unfold Refuses
  cases boots : s.chip.booting with
  | false =>
    have own : judge (s.chip.pwrConds t) = r := by simpa [boots] using bad
    have asked : s.chip.sysPwr t = (s.chip, r) := by
      have no := s.chip.request_refused (s.chip.pwrConds t) (fun c => c.pwrTo t) (by rw [own]; exact refused)
      rw [own] at no
      exact no
    rw [sysPwr_answered named carries boots, asked]
  | true =>
    have shut : s.chip.gate true = .busy := by rw [s.chip.gate_pwr, boots]; rfl
    have told : (s.chip.sysPwr t).2 = judge (s.chip.pwrConds t) := by
      unfold Chip.sysPwr Chip.request
      dsimp only
      split
      next ok => exact ok.symm
      next => rfl
    have own : Reason.busy.under (judge (s.chip.pwrConds t)) = r := by simpa [boots] using bad
    rw [sysPwr_row named, State.run_eq, Chip.ask, carries, if_neg (by decide), shut, if_neg (by decide), told, own]

/-- A start sequence adds BUSY, which STATE precedes. -/
theorem busy_under_cases (own : Reason) (which : own = .ok ∨ own = .state ∨ own = .busy ∨ own = .window) :
    Reason.busy.under own = if own = .state then .state else .busy := by
  rcases which with rfl | rfl | rfl | rfl <;> rfl

theorem pwrConds_which (c : Chip) (t : Nat) : judge (c.pwrConds t) = .ok ∨ judge (c.pwrConds t) = .state ∨ judge (c.pwrConds t) = .busy ∨
    judge (c.pwrConds t) = .window := by
  rw [c.pwrConds_reason]
  split
  · exact .inr (.inl rfl)
  split
  · exact .inr (.inr (.inl rfl))
  split
  · exact .inr (.inr (.inr rfl))
  · exact .inl rfl

theorem refuses_sysPwr_state (named : (i, t) ∈ pwrCommands p) (carries : s.chip.carries p = true)
    (bad : (!pwrPair s.chip.pstate t || (s.chip.pstate == 1 && t == 2 && s.chip.armState)) = true) : Refuses i p s .state := by
  have own : judge (s.chip.pwrConds t) = .state := by rw [s.chip.pwrConds_reason, if_pos bad]
  refine refuses_sysPwr named carries ?_ (by decide)
  rw [own]
  cases s.chip.booting <;> rfl

theorem refuses_sysPwr_busy (named : (i, t) ∈ pwrCommands p) (carries : s.chip.carries p = true)
    (good : (!pwrPair s.chip.pstate t || (s.chip.pstate == 1 && t == 2 && s.chip.armState)) = false)
    (busy : s.chip.pwrBusy = true ∨ s.chip.booting = true) : Refuses i p s .busy := by
  refine refuses_sysPwr named carries ?_ (by decide)
  have which := pwrConds_which s.chip t
  have reason := s.chip.pwrConds_reason t
  rw [good, if_neg (by decide)] at reason
  cases boots : s.chip.booting with
  | true =>
    have other : judge (s.chip.pwrConds t) ≠ .state := by
      rw [reason]
      split
      · decide
      split <;> decide
    rw [if_pos rfl, busy_under_cases _ which, if_neg other]
  | false =>
    have waits : s.chip.pwrBusy = true := by simpa [boots] using busy
    rw [if_neg (by decide), reason, if_pos waits]

theorem pwrConds_clear (pair : pwrPair s.chip.pstate t = true) (free : s.chip.pwrBusy = false)
    (arms : s.chip.pstate = 1 → t = 2 → s.chip.armState = false ∧ s.chip.armWindow = false) : judge (s.chip.pwrConds t) = .ok := by
  rw [s.chip.pwrConds_reason, pair, free]
  by_cases both : s.chip.pstate = 1 ∧ t = 2
  · obtain ⟨state, window⟩ := arms both.1 both.2
    simp [state, window]
  · have off : (s.chip.pstate == 1 && t == 2) = false := by simpa using both
    simp [off]

/-- A granted transition is due in the next tick. -/
theorem pwrTo_due {c : Chip} (other : c.pstate ≠ t) (lit : ¬(c.pstate = 1 ∧ t = 0)) (bright : ¬(c.pstate = 0 ∧ t = 1)) :
    c.pwrTo t = { c with pwrDue := some t } := by
  unfold Chip.pwrTo
  split
  next h => exact absurd ⟨‹_›, rfl⟩ lit
  next h => exact absurd ⟨‹_›, rfl⟩ bright
  next => rw [if_neg other]

theorem grants_transition (named : (i, t) ∈ [(Instr.sysPwrHouse p, 1), (.sysPwrStandby p, 2), (.sysPwrShow p, 3)]) (serving : s.chip.serves p)
    (pair : pwrPair s.chip.pstate t = true) (other : s.chip.pstate ≠ t) (free : s.chip.pwrBusy = false)
    (arms : s.chip.pstate = 1 → s.chip.armState = false ∧ s.chip.armWindow = false) :
    Grants i p s fun c => c = { s.chip with pwrDue := some t } := by
  obtain ⟨carries, awake, lit⟩ := serving
  have command : (i, t) ∈ pwrCommands p := by
    simp only [pwrCommands, List.mem_cons, List.not_mem_nil, or_false] at named ⊢
    tauto
  have lights : t ≠ 0 := by
    simp only [List.mem_cons, Prod.mk.injEq, List.not_mem_nil, or_false] at named
    omega
  have bright : s.chip.pstate ≠ 0 := by simpa [Chip.inDark, Chip.pstate] using lit
  exact grants_sysPwr command carries awake (pwrConds_clear pair free fun house _ => arms house)
    (pwrTo_due other (fun h => lights h.2) fun h => bright h.1)

theorem grants_dark (serving : s.chip.serves p) (house : s.chip.pstate = 1) (free : s.chip.pwrBusy = false) :
    Grants (.sysPwrDark p) p s fun c =>
      c.flag SYS_STATUS_TRANS = true ∧ c.flag SYS_STATUS_LOG_BUSY = true ∧ c.flag LOG_STATUS_BUSY = true ∧
      c.nvc.orderly = some 0 ∧ FieldsBut [SYS_STATUS_TRANS, SYS_STATUS_LOG_BUSY, LOG_STATUS_BUSY] s.chip c ∧
      c = { s.chip with regs := c.regs, nvc := c.nvc } := by
  obtain ⟨carries, awake, -⟩ := serving
  have pair : pwrPair s.chip.pstate 0 = true := by rw [house]; rfl
  have run : s.chip.pwrTo 0 = s.chip.darkRequest := by
    unfold Chip.pwrTo
    rw [house] <;> rfl
  refine grants_sysPwr (t := 0) (by simp [pwrCommands]) carries awake (pwrConds_clear pair free fun _ no => absurd no (by decide)) ?_
  have shown := BusyShown.logBusy (s.chip.put SYS_STATUS_TRANS 1) true
  have trans : FieldsBut [SYS_STATUS_TRANS] s.chip (s.chip.put SYS_STATUS_TRANS 1) := (FieldsBut.refl _ _).put SYS_STATUS_TRANS 1 (Field.ok_of _ rfl) (by simp)
  have flag : (s.chip.put SYS_STATUS_TRANS 1).flag SYS_STATUS_TRANS = true := Chip.flag_putF s.chip _ (Field.ok_of _ rfl) true
  have put : Only [.regs, .nvc] s.chip (s.chip.put SYS_STATUS_TRANS 1) := (Only.put ..).mono
  rw [run]
  have eq : s.chip.darkRequest = { (s.chip.put SYS_STATUS_TRANS 1).logBusy true with
    nvc := { ((s.chip.put SYS_STATUS_TRANS 1).logBusy true).nvc with orderly := some 0, reads := [] } } := rfl
  rw [eq]
  generalize s.chip.put SYS_STATUS_TRANS 1 = d at shown trans flag put
  generalize d.logBusy true = e at shown
  have kept : e.get SYS_STATUS_TRANS = d.get SYS_STATUS_TRANS := shown.fields _ (Field.ok_of _ rfl) (by unfold Field.apart; decide)
  have only : Only [.regs, .nvc] s.chip { e with nvc := { e.nvc with orderly := some 0, reads := [] } } :=
    (put.trans shown.only.mono).trans (.of_mix rfl)
  refine ⟨(Chip.flag_of_get kept).trans flag, shown.status, shown.log, rfl, fun g ok apart => ?_, only.eq⟩
  exact (shown.fields g ok fun f hf => apart f (List.mem_cons_of_mem _ hf)).trans (trans g ok fun f hf => apart f (by simp at hf ⊢; tauto))

theorem grants_return (carries : s.chip.carries p = true) (awake : s.chip.booting = false) (dark : s.chip.pstate = 0) (free : s.chip.pwrBusy = false) :
    Grants (.sysPwrHouse p) p s fun c =>
      c.flag SYS_STATUS_TRANS = true ∧ FieldsBut [SYS_STATUS_TRANS] s.chip c ∧ c = { s.chip with regs := c.regs } := by
  have pair : pwrPair s.chip.pstate 1 = true := by rw [dark]; rfl
  have run : s.chip.pwrTo 1 = s.chip.put SYS_STATUS_TRANS 1 := by
    unfold Chip.pwrTo
    rw [dark] <;> rfl
  refine grants_sysPwr (t := 1) (by simp [pwrCommands]) carries awake (pwrConds_clear pair free fun _ no => absurd no (by decide)) ?_
  rw [run]
  exact ⟨Chip.flag_putF s.chip _ (Field.ok_of _ rfl) true, (FieldsBut.refl _ _).put SYS_STATUS_TRANS 1 (Field.ok_of _ rfl) (by simp), (Only.put ..).eq⟩

/-- The reasons of a refused request, and the request for the present state. -/
theorem sysPwr_judged (named : (i, t) ∈ pwrCommands p) (carries : s.chip.carries p = true) :
    (pwrPair s.chip.pstate t = false → Refuses i p s .state) ∧
    (s.chip.pstate = 1 → t = 2 → s.chip.armState = true → Refuses i p s .state) ∧
    (pwrPair s.chip.pstate t = true → (s.chip.pstate = 1 → t = 2 → s.chip.armState = false) →
      s.chip.pwrBusy = true ∨ s.chip.booting = true → Refuses i p s .busy) ∧
    (s.chip.pstate = 1 → t = 2 → s.chip.armState = false → s.chip.pwrBusy = false → s.chip.booting = false →
      s.chip.armWindow = true → Refuses i p s .window) ∧
    (s.chip.pstate = t → s.chip.pwrBusy = false → s.chip.booting = false → Grants i p s fun c => c = s.chip) := by
  refine ⟨fun pair => ?_, fun house standby bad => ?_, fun pair arms busy => ?_, fun house standby state free awake gone => ?_,
    fun same free awake => ?_⟩
  · exact refuses_sysPwr_state named carries (by simp [pair])
  · exact refuses_sysPwr_state named carries (by simp [house, standby, bad])
  · refine refuses_sysPwr_busy named carries ?_ busy
    rw [pair]
    simpa using arms
  · refine refuses_sysPwr named carries ?_ (by decide)
    rw [awake, if_neg (by decide), s.chip.pwrConds_reason, free]
    subst standby
    simp [house, state, gone, pwrPair]
  · have pair : pwrPair s.chip.pstate t = true := by
      unfold pwrPair
      split
      all_goals simp_all
    have arms : s.chip.pstate = 1 → t = 2 → s.chip.armState = false ∧ s.chip.armWindow = false := by omega
    refine grants_sysPwr named carries awake (pwrConds_clear pair free arms) ?_
    unfold Chip.pwrTo
    split
    next h g => omega
    next h g => omega
    next => rw [if_pos same]

end

/-! ### The tick in which a transition takes effect -/

/-- Each element brings what is claimed of it, and every other leaves it. -/
theorem Chip.each_holds {α : Type} {P : Chip → Prop} {f : Chip → α → Chip} {x : α} (c : Chip) (xs : List α) (hx : x ∈ xs)
    (brings : ∀ d, P (f d x)) (others : ∀ d y, y ≠ x → P d → P (f d y)) : P (c.each xs f) := by
  classical
  refine Chip.each_brings c xs hx brings fun d hd y _ => ?_
  by_cases same : y = x
  · subst same
    exact brings d
  · exact others d y same hd

/-- The part at the beginning of a tick, before anything of it. -/
structure TickBegun (b c : Chip) : Prop where
  regs : RegsOf (· < 0x120000) b c
  wall : c.wall = b.wall + 1
  now : c.now = b.now + 1
  due : c.pwrDue = none
  only : Only [.regs, .tbs, .cues, .wall, .now, .tickRegs, .fresh, .pwrDue] b c

section
variable (c : Chip)

theorem RegsOf.swapActs (t : Nat) (n : Tb) : RegsOf (· < 0x120000) c (c.swapActs t n) := by
  have put := (RegsOf.refl (· < 0x120000) c).put (CUE_TB_CFG_RUN n.val) (1 - c.runAct n.val)
    (by simp only [CUE_TB_CFG_RUN, CUE_TB_CFG]; omega)
  have set (d : Chip) (x : TbState) : RegsOf (· < 0x120000) d (d.setTb n x) := .of_regs rfl
  have turned (d : Chip) : RegsOf (· < 0x120000) d (d.rearm n) := .of_regs ((Only.rearm d n).same .regs (by decide))
  exact .ite (.refl _ c) ((put.trans (set _ _)).trans (turned _))

/-- Every swap that is due is made. -/
def Chip.swapsMade : Chip := c.each (c.cues.fires.filter fun f => cueAction f.cue == 12) Chip.switchFire

theorem TickBegun.inNextTick : TickBegun c c.inNextTick := by
  have swaps := Only.settleSwaps c
  have made : RegsOf (· < 0x120000) c c.swapsMade := .each c _ fun d f _ => .each d _ fun e n _ => .swapActs e f.since n
  have settled : RegsOf (· < 0x120000) c c.settleSwaps := made.trans (.of_regs rfl)
  have wall : c.settleSwaps.wall = c.wall := swaps.same .wall (by decide)
  have now : c.settleSwaps.now = c.now := swaps.same .now (by decide)
  unfold Chip.inNextTick Chip.nextTick
  generalize c.settleSwaps = d at *
  have first : Only [.regs, .tbs, .cues, .wall, .now, .tickRegs, .fresh, .pwrDue] c d := swaps.mono
  exact ⟨settled.trans (.of_regs rfl), congrArg (· + 1) wall, congrArg (· + 1) now, rfl, first.trans (.of_mix rfl)⟩

end

/-- The registers that show the power state, and those of the window monitors. -/
def PwrReg (a : Nat) : Prop := (a < 0x040000 ∧ a ≠ LOG_STATUS) ∨ (0x0E0C00 ≤ a ∧ a < 0x0E0D00)

/-- What a transition of power changes, besides the state of power itself. -/
def powerParts : List Part := [.regs, .fresh, .legs, .axes, .slices, .unders, .buses, .engines, .armTick, .excPos, .sensors, .hkSettle,
  .houseTick, .faults, .nvc, .tbs, .rng, .wms]

/-- A step of a transition of power. -/
structure PowerStep (b c : Chip) : Prop where
  own : RegsOf PwrReg b c
  latched : c.faults.latched = b.faults.latched
  only : Only powerParts b c

section
variable {b c d : Chip}

theorem PowerStep.refl (c : Chip) : PowerStep c c := ⟨.refl _ c, rfl, .refl _ c⟩

theorem PowerStep.trans (h : PowerStep b c) (g : PowerStep c d) : PowerStep b d :=
  ⟨h.own.trans g.own, g.latched.trans h.latched, h.only.trans g.only⟩

theorem PowerStep.ite {p : Prop} [Decidable p] (h : PowerStep b c) (g : PowerStep b d) : PowerStep b (if p then c else d) := by
  split
  · exact h
  · exact g

theorem PowerStep.each {α : Type} {f : Chip → α → Chip} (c : Chip) (xs : List α) (hf : ∀ d, ∀ x ∈ xs, PowerStep d (f d x)) :
    PowerStep c (c.each xs f) :=
  Chip.each_keeps xs (.refl c) fun d hd x hx => hd.trans (hf d x hx)

/-- What leaves the collector alone. -/
theorem PowerStep.of_only {l : List Part} (own : RegsOf PwrReg b c) (only : Only l b c) (few : l ⊆ powerParts := by decide)
    (quiet : Part.faults ∉ l := by decide) : PowerStep b c :=
  ⟨own, congrArg FaultState.latched (only.same .faults quiet), only.mono few⟩

theorem PowerStep.of_house (h : HouseStep b c) : PowerStep b c := by
  refine ⟨⟨fun a pwr => h.own.reg a ?_⟩, h.latched, h.only.mono⟩
  unfold PwrReg at pwr
  unfold OwnReg KeptReg
  simp only [LOG_STATUS] at pwr ⊢
  omega

end

/-- The state of power has changed and every window monitor is unarmed; what a tick must keep is kept. -/
theorem moves_of {s : State} {ecc : List EntryIx} {t n : Nat} {d : Chip} {P : Chip → Prop} (runs : s.chip.clockRuns = true)
    (due : s.chip.pwrDue = some t) (small : n < 4) (move : s.chip.inNextTick.pwrMove t = d)
    (step : PowerStep (s.chip.inNextTick.setPstate n) d) (hp : P d) : Moves ecc n s P := by
  have settled : s.chip.settleSwaps.nextTick.pwrDue = some t := Eq.trans (b := s.chip.pwrDue) ((Only.settleSwaps s.chip).same .pwrDue (by decide)) due
  have ticks : s.chip.tick ecc = (s.chip.inNextTick.pwrMove t).tickRuns ecc := by
    rw [Chip.tick, if_neg (by simp [runs]), Chip.pwrSettle, settled] <;> rfl
  have begun := TickBegun.inNextTick s.chip
  have cues : d.cues = s.chip.inNextTick.cues := by
    have set := (s.chip.inNextTick.setPstate_frame n).2.1
    exact Eq.trans (b := (s.chip.inNextTick.setPstate n).cues) (step.only.same .cues (by decide)) (set.same .cues (by decide))
  have run : exec (.timebaseSample ecc) s = .next { s with chip := d.tickRuns ecc } := by
    rw [show exec (.timebaseSample ecc) s = s.run fun c => c.tick ecc from rfl, State.run_eq, ticks, move]
  unfold Moves
  generalize s.chip.inNextTick = b at *
  obtain ⟨regs, only, unarmed, word⟩ := b.setPstate_frame n
  have all : Only (.wms :: powerParts) b d := (only.mono : Only (.wms :: powerParts) b (b.setPstate n)).trans step.only.mono
  have state : (b.setPstate n).get SYS_STATUS_PSTATE = n :=
    (congrArg SYS_STATUS_PSTATE.read word).trans (b.get_put_lt SYS_STATUS_PSTATE (Field.ok_of _ rfl) n small)
  have monitor (m : Fin 8) : d.flag (WM_STAT_ARMED m.val) = (b.setPstate n).flag (WM_STAT_ARMED m.val) :=
    Chip.flag_of_get (step.own.get _ (.inr (by simp only [WM_STAT_ARMED, WM_STAT]; omega)))
  have latched : (b.setPstate n).faults = b.faults := only.same .faults (by decide)
  have before : b.faults = s.chip.faults := begun.only.same .faults (by decide)
  have ok : (b.setPstate n).get SYS_STATUS_CFG_OK = b.get SYS_STATUS_CFG_OK :=
    (congrArg SYS_STATUS_CFG_OK.read word).trans (Chip.get_put_beside _ _ _ _ rfl)
  refine ⟨d, run, hp, ?_, ?_, fun m => (monitor m).trans (unarmed m), ?_, ?_, cues, ?_, ?_, ?_⟩
  · exact Eq.trans (b := b.pwrDue) (all.same .pwrDue (by decide)) begun.due
  · exact (step.own.get _ (.inl (by decide))).trans state
  · exact Eq.trans (b := b.wall) (all.same .wall (by decide)) begun.wall
  · exact Eq.trans (b := b.now) (all.same .now (by decide)) begun.now
  · exact Eq.trans (b := b.ports) (all.same .ports (by decide)) (begun.only.same .ports (by decide))
  · rw [step.latched, latched, before]
  · exact (Chip.flag_of_get (step.own.get _ (.inl (by decide)))).trans ((Chip.flag_of_get ok).trans
      (Chip.flag_of_get (begun.regs.get SYS_STATUS_CFG_OK (by decide))))

/-! ### Registers that no transition of a leg, an axis or a bus reaches -/

theorem LEG_not_pwr (l : Leg) (k : Nat) (small : k < 0x100) : ¬PwrReg (0x090000 + l.val * 0x100 + k) := by
  simp only [PwrReg, LOG_STATUS]
  omega

theorem offRegs_not_pwr {a : Axis} {x : Nat} (hx : x ∈ offRegs a) : ¬PwrReg x := by
  have := offRegs_low hx
  simp only [PwrReg]
  omega

theorem FE_STATUS_not_pwr (r : Region) : ¬PwrReg (FE_STATUS r.val) := by
  simp only [PwrReg, FE_STATUS]
  omega

theorem BUS_STAT_not_pwr (r : Region) : ¬PwrReg (BUS_STAT r.val) ∧ ¬PwrReg (BUS_FAST r.val) := by
  simp only [PwrReg, BUS_STAT, BUS_FAST]
  omega

/-! ### The legs take their base slew steps and begin their series (R84, R88) -/

section
variable (c : Chip) (l : Leg)

theorem Chip.baseSlew_frame : FieldsBut [LEG_SLEW_LIVE_HS_ON l.val, LEG_SLEW_LIVE_HS_OFF l.val, LEG_SLEW_LIVE_LS_ON l.val, LEG_SLEW_LIVE_LS_OFF l.val]
      c (c.baseSlew l) ∧ RegsBut [LEG_SLEW l.val] c (c.baseSlew l) ∧ Only [.regs] c (c.baseSlew l) ∧
    (c.baseSlew l).get (LEG_SLEW_LIVE_HS_ON l.val) = c.get (LEG_SLEW_HS_ON l.val) := by
  have ok {f : Field} (low : f.lo ≤ f.hi) (high : f.hi < 32) : f.ok := ⟨low, high⟩
  refine ⟨?_, ?_, (((Only.put ..).trans (.put ..)).trans (.put ..)).trans (.put ..), ?_⟩
  · exact ((((FieldsBut.refl _ c).put _ _ (Field.ok_of _ rfl) (by simp)).put _ _ (Field.ok_of _ rfl) (by simp)).put _ _ (Field.ok_of _ rfl)
      (by simp)).put _ _ (Field.ok_of _ rfl) (by simp)
  · exact ((((RegsBut.refl _ c).put (LEG_SLEW_LIVE_HS_ON l.val) _ List.mem_cons_self).put (LEG_SLEW_LIVE_HS_OFF l.val) _ List.mem_cons_self).put
      (LEG_SLEW_LIVE_LS_ON l.val) _ List.mem_cons_self).put (LEG_SLEW_LIVE_LS_OFF l.val) _ List.mem_cons_self
  · unfold Chip.baseSlew
    rw [Chip.get_put_beside _ _ _ _ rfl, Chip.get_put_beside _ _ _ _ rfl, Chip.get_put_beside _ _ _ _ rfl]
    exact Chip.get_put_lt _ _ (Field.ok_of _ rfl) _ (c.get_lt (LEG_SLEW_HS_ON l.val))

/-- What a leg does at an entry into STANDBY. -/
structure LegStands (l : Leg) (b c : Chip) : Prop where
  fields : FieldsBut [LEG_SLEW_LIVE_HS_ON l.val, LEG_SLEW_LIVE_HS_OFF l.val, LEG_SLEW_LIVE_LS_ON l.val, LEG_SLEW_LIVE_LS_OFF l.val] b c
  regs : RegsBut [LEG_SLEW l.val] b c
  live : c.get (LEG_SLEW_LIVE_HS_ON l.val) = b.get (LEG_SLEW_HS_ON l.val)
  others : OneLeg l b c
  series : b.axisOn (axisOfLeg l) = true → b.modeOf (axisOfLeg l) = 0 → b.flag (LEG_STAT_BST_OK l.val) = false → (c.leg l).charging = true
  only : Only [.regs, .legs] b c

theorem LegStands.legStandby : LegStands l c (c.legStandby l) := by
  obtain ⟨fields, regs, slew, live⟩ := c.baseSlew_frame l
  have asked (f : Field) (out : f.addr ≠ LEG_SLEW l.val) : (c.baseSlew l).get f = c.get f := regs.get (by simpa using out)
  have on : (c.baseSlew l).axisOn (axisOfLeg l) = c.axisOn (axisOfLeg l) :=
    Chip.flag_of_get (asked _ (by simp only [AX_COMCFG_EN, AX_COMCFG, LEG_SLEW]; omega))
  have mode : (c.baseSlew l).get (AX_MSTAT_MODE (axisOfLeg l).val) = c.modeOf (axisOfLeg l) :=
    asked _ (by simp only [AX_MSTAT_MODE, AX_MSTAT, LEG_SLEW]; omega)
  have stored : (c.baseSlew l).flag (LEG_STAT_BST_OK l.val) = c.flag (LEG_STAT_BST_OK l.val) :=
    Chip.flag_of_get (asked _ (by simp only [LEG_STAT_BST_OK, LEG_STAT, LEG_SLEW]; omega))
  have same : OneLeg l c (c.baseSlew l) := fun k _ => slew.leg k (by decide)
  unfold Chip.legStandby
  generalize c.baseSlew l = d at *
  dsimp only
  split
  next starts =>
    have series : ((d.newSeries true l).leg l).charging = (true && !d.flag (LEG_STAT_BST_OK l.val)) :=
      congrArg LegState.charging (Chip.leg_setLeg ..)
    have begun := Only.newSeries d true l
    have words : (d.newSeries true l).regs = d.regs := begun.same .regs (by decide)
    exact ⟨fields.of_regs words, regs.of_regs words, (begun.get _).trans live, same.setLeg _, fun _ _ low => by rw [series, stored, low]; rfl, slew.mono.trans begun.mono⟩
  next rests =>
    refine ⟨fields, regs, live, same, fun enabled off _ => absurd ?_ rests, slew.mono⟩
    rw [on, mode, enabled, off]
    rfl

/-- Every leg at an entry into STANDBY. -/
def Chip.legsStand : Chip := c.each allLegs Chip.legStandby

theorem slew_fields_apart {k l : Leg} (other : k ≠ l) : LEG_SLEW k.val ≠ LEG_SLEW l.val := by
  have := mt Fin.ext other
  simp only [LEG_SLEW]
  omega

theorem Chip.legsStand_frame : RegsOf (fun x => ∀ l : Leg, x ≠ LEG_SLEW l.val) c c.legsStand ∧ Only [.regs, .legs] c c.legsStand ∧
    (∀ l : Leg, c.legsStand.get (LEG_SLEW_LIVE_HS_ON l.val) = c.get (LEG_SLEW_HS_ON l.val)) ∧
    ∀ l : Leg, c.axisOn (axisOfLeg l) = true → c.modeOf (axisOfLeg l) = 0 → c.flag (LEG_STAT_BST_OK l.val) = false →
      (c.legsStand.leg l).charging = true := by
  have stands (d : Chip) (l : Leg) := LegStands.legStandby d l
  have regs : RegsOf (fun x => ∀ l : Leg, x ≠ LEG_SLEW l.val) c c.legsStand :=
    .each c _ fun d l _ => .of_regsBut (stands d l).regs fun x hx all => all l (List.mem_singleton.mp hx)
  have asked (l : Leg) : LEG_SLEW_HS_ON l.val |>.ok := Field.ok_of _ rfl
  refine ⟨regs, .each c _ fun d l _ => (stands d l).only, fun l => ?_, fun l on off low => ?_⟩
  · have kept (d : Chip) (k : Leg) : (d.legStandby k).get (LEG_SLEW_HS_ON l.val) = d.get (LEG_SLEW_HS_ON l.val) := by
      refine (stands d k).fields _ (asked l) ?_
      simp only [List.forall_mem_cons, List.not_mem_nil, false_imp_iff, implies_true, and_true]
      simp [Field.apart, LEG_SLEW_HS_ON, LEG_SLEW_LIVE_HS_ON, LEG_SLEW_LIVE_HS_OFF, LEG_SLEW_LIVE_LS_ON, LEG_SLEW_LIVE_LS_OFF]
    have base : c.legsStand.get (LEG_SLEW_HS_ON l.val) = c.get (LEG_SLEW_HS_ON l.val) :=
      Chip.each_keeps (P := fun d => d.get (LEG_SLEW_HS_ON l.val) = c.get (LEG_SLEW_HS_ON l.val)) _ rfl fun d hd k _ => (kept d k).trans hd
    refine Eq.trans ?_ base
    refine Chip.each_holds (P := fun d : Chip => d.get (LEG_SLEW_LIVE_HS_ON l.val) = d.get (LEG_SLEW_HS_ON l.val)) c allLegs (List.mem_finRange l)
      (fun d => (stands d l).live.trans (kept d l).symm) fun d k other hd => ?_
    rw [kept d k, ← hd]
    exact (stands d k).regs.get (by simpa [LEG_SLEW_LIVE_HS_ON] using slew_fields_apart other.symm)
  · have asks (d : Chip) (k : Leg) : (d.legStandby k).axisOn (axisOfLeg l) = d.axisOn (axisOfLeg l) ∧
        (d.legStandby k).modeOf (axisOfLeg l) = d.modeOf (axisOfLeg l) ∧
        (d.legStandby k).flag (LEG_STAT_BST_OK l.val) = d.flag (LEG_STAT_BST_OK l.val) := by
      have get (f : Field) (out : f.addr ≠ LEG_SLEW k.val) : (d.legStandby k).get f = d.get f := (stands d k).regs.get (by simpa using out)
      exact ⟨Chip.flag_of_get (get _ (by simp only [AX_COMCFG_EN, AX_COMCFG, LEG_SLEW]; omega)),
        get _ (by simp only [AX_MSTAT_MODE, AX_MSTAT, LEG_SLEW]; omega),
        Chip.flag_of_get (get _ (by simp only [LEG_STAT_BST_OK, LEG_STAT, LEG_SLEW]; omega))⟩
    have all := Chip.each_holds (f := Chip.legStandby) (P := fun d : Chip => d.axisOn (axisOfLeg l) = true → d.modeOf (axisOfLeg l) = 0 →
        d.flag (LEG_STAT_BST_OK l.val) = false → (d.leg l).charging = true) c allLegs (List.mem_finRange l)
      (fun d => by
        obtain ⟨enabled, mode, stored⟩ := asks d l
        rw [enabled, mode, stored]
        exact (stands d l).series)
      (fun d k other hd => by
        obtain ⟨enabled, mode, stored⟩ := asks d k
        rw [enabled, mode, stored, (stands d k).others l other.symm]
        exact hd)
    have get (f : Field) (out : ∀ k : Leg, f.addr ≠ LEG_SLEW k.val) : c.legsStand.get f = c.get f := regs.get f out
    refine all ?_ ?_ ?_
    · exact (Chip.flag_of_get (get _ fun k => by simp only [AX_COMCFG_EN, AX_COMCFG, LEG_SLEW]; omega)).trans on
    · exact (get _ fun k => by simp only [AX_MSTAT_MODE, AX_MSTAT, LEG_SLEW]; omega).trans off
    · exact (Chip.flag_of_get (get _ fun k => by simp only [LEG_STAT_BST_OK, LEG_STAT, LEG_SLEW]; omega)).trans low

end

/-! ### HOUSE to STANDBY (R57, R84, R88, R99, R111, R241, R245) -/

section
variable (c : Chip)

/-- The entry's marks. -/
def Chip.armMarked : Chip := { c with armTick := some c.now, excPos := c.excPhase }

/-- Every slice starts. -/
def Chip.slicesStarted : Chip := c.each allSlices Chip.startSlice

/-- The admission of every bus without admission gates is closed. -/
def Chip.busesStand : Chip := c.each allRegions Chip.busStandby

/-- The engines show their active axes. -/
def Chip.activesShown : Chip := c.each allRegions Chip.showActive

theorem Chip.arm_eq : c.arm = ((((c.setPstate 2).armMarked.legsStand.slicesStarted.startRounds).busesStand).activesShown).obeyLines := rfl

theorem Only.startSlice (k : SliceId) : Only [.slices] c (c.startSlice k) := by
  unfold Chip.startSlice
  split
  · exact .setSlice ..
  · exact .refl _ c

theorem Chip.slicesStarted_frame : Only [.slices] c c.slicesStarted ∧
    ∀ k, c.sliceOn k = true ∨ isUnder k = true → (c.slicesStarted.slice k).running = true ∧ (c.slicesStarted.slice k).settle = 2 := by
  refine ⟨.each c _ fun d k _ => .startSlice d k, fun k works => ?_⟩
  have all := Chip.each_holds (f := Chip.startSlice) (P := fun d : Chip => d.sliceOn k = true ∨ isUnder k = true →
    (d.slice k).running = true ∧ (d.slice k).settle = 2) c allSlices (List.mem_finRange k)
    (fun d works => by
      have same : (d.startSlice k).sliceOn k = d.sliceOn k := Chip.flag_of_get ((Only.startSlice d k).get _)
      rw [same] at works
      unfold Chip.startSlice
      rw [if_pos (by simpa using works), Chip.slice_setSlice]
      exact ⟨rfl, rfl⟩)
    (fun d j other hd works => by
      have same : (d.startSlice j).sliceOn k = d.sliceOn k := Chip.flag_of_get ((Only.startSlice d j).get _)
      have own : (d.startSlice j).slice k = d.slice k := by
        unfold Chip.startSlice
        split
        · exact Chip.slice_setSlice_ne _ _ _ other.symm
        · rfl
      rw [same] at works
      rw [own]
      exact hd works)
  have same : c.slicesStarted.sliceOn k = c.sliceOn k :=
    Chip.flag_of_get ((Only.each c allSlices fun d j _ => Only.startSlice d j : Only [.slices] c c.slicesStarted).get _)
  exact all (works.imp_left same.trans)

theorem Only.beginRound (d : UDie) : Only [.unders] c (c.beginRound d) := by
  unfold Chip.beginRound
  split
  · exact .setUnder ..
  · exact .refl _ c

theorem Only.startRounds : Only [.unders] c c.startRounds :=
  .each c _ fun _ u _ => (Only.setUnder ..).trans (.beginRound _ u)

theorem Chip.busStandby_frame (r : Region) : RegsBut [BUS_STAT r.val] c (c.busStandby r) ∧ Only [.regs] c (c.busStandby r) := by
  unfold Chip.busStandby
  split
  · exact ⟨.refl _ c, .refl _ c⟩
  · exact ⟨(RegsBut.refl _ c).put (BUS_STAT_ADM r.val) 2 List.mem_cons_self, .put ..⟩

theorem Chip.busesStand_frame : RegsOf (fun x => ∀ r : Region, x ≠ BUS_STAT r.val) c c.busesStand ∧ Only [.regs] c c.busesStand ∧
    ∀ r : Region, c.flag (BUS_ADM_EN r.val) = false → c.busesStand.get (BUS_STAT_ADM r.val) = 2 := by
  have regs : RegsOf (fun x => ∀ r : Region, x ≠ BUS_STAT r.val) c c.busesStand :=
    .each c _ fun d r _ => .of_regsBut (d.busStandby_frame r).1 fun x hx all => all r (List.mem_singleton.mp hx)
  refine ⟨regs, .each c _ fun d r _ => (d.busStandby_frame r).2, fun r shut => ?_⟩
  have kept (d : Chip) (q : Region) : (d.busStandby q).flag (BUS_ADM_EN r.val) = d.flag (BUS_ADM_EN r.val) := by
    refine Chip.flag_of_get ((d.busStandby_frame q).1.get ?_)
    simp only [BUS_ADM_EN, BUS_ADM, BUS_STAT, List.mem_singleton]
    omega
  have all := Chip.each_holds (f := Chip.busStandby) (P := fun d : Chip => d.flag (BUS_ADM_EN r.val) = false → d.get (BUS_STAT_ADM r.val) = 2)
    c allRegions (allRegions_all r)
    (fun d off => by
      rw [kept d r] at off
      unfold Chip.busStandby
      rw [if_neg (by simp [off])]
      exact Chip.get_put_fit _ _ _ rfl)
    (fun d q other hd off => by
      rw [kept d q] at off
      refine ((d.busStandby_frame q).1.get ?_).trans (hd off)
      have := mt Fin.ext other
      simp only [BUS_STAT_ADM, BUS_STAT, List.mem_singleton]
      omega)
  refine all ((Chip.flag_of_get (regs.get (BUS_ADM_EN r.val) fun q => ?_)).trans shut)
  simp only [BUS_ADM_EN, BUS_ADM, BUS_STAT]
  omega

theorem Chip.activesShown_frame : RegsOf (fun x => ∀ r : Region, x ≠ FE_STATUS r.val) c c.activesShown ∧ Only [.regs] c c.activesShown :=
  ⟨.each c _ fun d r _ => (RegsOf.refl _ d).put (FE_STATUS_ACTIVE r.val) _ fun all => all r rfl, .each c _ fun d r _ => .showActive d r⟩

/-- What an entry into STANDBY from HOUSE leaves. -/
structure Armed (b c : Chip) : Prop where
  step : PowerStep b c
  tick : c.armTick = some b.now
  tbs : c.tbs = b.tbs
  faults : c.faults = b.faults
  slices : ∀ k, b.sliceOn k = true ∨ isUnder k = true → (c.slice k).running = true ∧ (c.slice k).settle = 2
  live : ∀ l : Leg, c.get (LEG_SLEW_LIVE_HS_ON l.val) = b.get (LEG_SLEW_HS_ON l.val)
  series : ∀ l : Leg, b.axisOn (axisOfLeg l) = true → b.modeOf (axisOfLeg l) = 0 → b.flag (LEG_STAT_BST_OK l.val) = false →
    (c.leg l).charging = true
  adm : ∀ r : Region, b.flag (BUS_ADM_EN r.val) = false → c.get (BUS_STAT_ADM r.val) = 2

theorem Armed.arm : Armed c ((((c.armMarked.legsStand.slicesStarted.startRounds).busesStand).activesShown).obeyLines) := by
  have marked : Only [.armTick, .excPos] c c.armMarked := .of_mix rfl
  have tick : c.armMarked.armTick = some c.now := rfl
  generalize c.armMarked = d at marked tick
  obtain ⟨legRegs, legs, live, series⟩ := d.legsStand_frame
  generalize d.legsStand = e at legRegs legs live series
  obtain ⟨slices, started⟩ := e.slicesStarted_frame
  generalize e.slicesStarted = f at slices started
  have rounds := Only.startRounds f
  generalize f.startRounds = g at rounds
  obtain ⟨busRegs, buses, adm⟩ := g.busesStand_frame
  generalize g.busesStand = h at busRegs buses adm
  obtain ⟨feRegs, shown⟩ := h.activesShown_frame
  generalize h.activesShown = k at feRegs shown
  have lines := Only.obeyLines k
  have queues := k.obeyLines_queues
  generalize k.obeyLines = u at lines queues
  have middle : Only [.slices, .unders] e g := slices.mono.trans rounds.mono
  have last : Only [.regs, .legs] g u := (buses.mono.trans shown.mono).trans lines.mono
  have after : Only [.regs, .legs, .slices, .unders] d u := (legs.mono.trans middle.mono).trans last.mono
  have all : Only [.regs, .legs, .slices, .unders, .armTick, .excPos] c u := marked.mono.trans after.mono
  have lineRegs : u.regs = k.regs := lines.same .regs (by decide)
  have midRegs : g.regs = e.regs := middle.same .regs (by decide)
  have late (x : Field) (fe : ∀ r : Region, x.addr ≠ FE_STATUS r.val) (bus : ∀ r : Region, x.addr ≠ BUS_STAT r.val) : u.get x = e.get x :=
    (Chip.get_of_regs lineRegs x).trans ((feRegs.get x fe).trans ((busRegs.get x bus).trans (Chip.get_of_regs midRegs x)))
  have own : RegsOf PwrReg c u := by
    refine ⟨fun a pwr => ?_⟩
    have fe (r : Region) : a ≠ FE_STATUS r.val := fun eq => FE_STATUS_not_pwr r (eq ▸ pwr)
    have bus (r : Region) : a ≠ BUS_STAT r.val := fun eq => (BUS_STAT_not_pwr r).1 (eq ▸ pwr)
    have leg (l : Leg) : a ≠ LEG_SLEW l.val := fun eq => LEG_not_pwr l 8 (by decide) (by
      have same : 0x090000 + l.val * 0x100 + 8 = a := by rw [eq]; simp only [LEG_SLEW]; omega
      rw [same]
      exact pwr)
    have start : d.reg a = c.reg a := Chip.reg_of_regs (marked.same .regs (by decide)) a
    exact (Chip.reg_of_regs lineRegs a).trans ((feRegs.reg a fe).trans ((busRegs.reg a bus).trans ((Chip.reg_of_regs midRegs a).trans
      ((legRegs.reg a leg).trans start))))
  refine ⟨.of_only own all, ?_, all.same .tbs (by decide), all.same .faults (by decide), fun j works => ?_, fun l => ?_, fun l on off low => ?_,
    fun r off => ?_⟩
  · exact Eq.trans (b := d.armTick) (after.same .armTick (by decide)) tick
  · have same : e.sliceOn j = c.sliceOn j := by
      have step : RegsOf (fun x => ∀ l : Leg, x ≠ LEG_SLEW l.val) c e := (RegsOf.of_regs (marked.same .regs (by decide))).trans legRegs
      exact Chip.flag_of_get (step.get (SL_CFG_EN j.val) fun l => by simp only [SL_CFG_EN, SL_CFG, LEG_SLEW]; omega)
    have kept : u.slice j = f.slice j := (last.slice j (by decide)).trans (rounds.slice j)
    rw [kept]
    exact started j (works.imp_left same.trans)
  · have same : d.get (LEG_SLEW_HS_ON l.val) = c.get (LEG_SLEW_HS_ON l.val) := marked.get _
    refine (late _ (fun r => ?_) fun r => ?_).trans ((live l).trans same) <;>
      simp only [LEG_SLEW_LIVE_HS_ON, LEG_SLEW, FE_STATUS, BUS_STAT] <;> omega
  · have kept : (u.leg l).charging = (e.leg l).charging := by
      have legsSame : k.leg l = e.leg l := (shown.leg l).trans ((buses.leg l).trans (middle.leg l (by decide)))
      rw [(queues l).1, legsSame]
    rw [kept]
    exact series l ((Chip.flag_of_get (marked.get _)).trans on) ((marked.get _).trans off) ((Chip.flag_of_get (marked.get _)).trans low)
  · have first : g.flag (BUS_ADM_EN r.val) = c.flag (BUS_ADM_EN r.val) := by
      refine Chip.flag_of_get ((Chip.get_of_regs midRegs _).trans ((legRegs.get (BUS_ADM_EN r.val) fun l => ?_).trans (marked.get _)))
      simp only [BUS_ADM_EN, BUS_ADM, LEG_SLEW]
      omega
    refine (Chip.get_of_regs lineRegs _).trans ((feRegs.get (BUS_STAT_ADM r.val) fun q => ?_).trans (adm r (first.trans off)))
    simp only [BUS_STAT_ADM, BUS_STAT, FE_STATUS]
    omega

end

/-- What a tick and a new state of power leave of the registers between. -/
theorem moved_get (s : State) (n : Nat) (f : Field) (low : 0x080000 ≤ f.addr) (high : f.addr < 0x0E0000) :
    (s.chip.inNextTick.setPstate n).get f = s.chip.get f := by
  have begun := TickBegun.inNextTick s.chip
  have regs := (s.chip.inNextTick.setPstate_frame n).1
  refine (regs.get fun mem => ?_).trans (begun.regs.get f (by omega))
  have out : ∀ x ∈ SYS_STATUS :: monitorRegs, x < 0x080000 ∨ 0x0E0000 ≤ x := by decide +kernel
  rcases out _ mem with h | h <;> omega

theorem moves_arm {s : State} {ecc : List EntryIx} (runs : s.chip.clockRuns = true) (due : s.chip.pwrDue = some 2) (house : s.chip.pstate = 1) :
    Moves ecc 2 s fun c =>
      c.armTick = some (s.chip.now + 1) ∧ c.tbs = s.chip.inNextTick.tbs ∧ c.faults = s.chip.inNextTick.faults ∧
      (∀ k, s.chip.sliceOn k = true ∨ isUnder k = true → (c.slice k).running = true ∧ (c.slice k).settle = 2) ∧
      (∀ l : Leg, c.get (LEG_SLEW_LIVE_HS_ON l.val) = s.chip.get (LEG_SLEW_HS_ON l.val) ∧
        (s.chip.axisOn (axisOfLeg l) = true → s.chip.modeOf (axisOfLeg l) = 0 → s.chip.flag (LEG_STAT_BST_OK l.val) = false →
          (c.leg l).charging = true)) ∧
      (∀ r : Region, s.chip.flag (BUS_ADM_EN r.val) = false → c.get (BUS_STAT_ADM r.val) = 2) := by
  have begun := TickBegun.inNextTick s.chip
  have state : s.chip.inNextTick.pstate = 1 := (begun.regs.get SYS_STATUS_PSTATE (by decide)).trans house
  have move : s.chip.inNextTick.pwrMove 2 = s.chip.inNextTick.arm := by
    unfold Chip.pwrMove
    rw [state] <;> rfl
  have armed := Armed.arm (s.chip.inNextTick.setPstate 2)
  have get := moved_get s 2
  have set := (s.chip.inNextTick.setPstate_frame 2).2.1
  have tbs : (s.chip.inNextTick.setPstate 2).tbs = s.chip.inNextTick.tbs := set.same .tbs (by decide)
  have faults : (s.chip.inNextTick.setPstate 2).faults = s.chip.inNextTick.faults := set.same .faults (by decide)
  have now : (s.chip.inNextTick.setPstate 2).now = s.chip.inNextTick.now := set.same .now (by decide)
  refine moves_of runs due (by decide) (move.trans (Chip.arm_eq _)) armed.step ⟨?_, armed.tbs.trans tbs, armed.faults.trans faults, fun k works => ?_,
    fun l => ⟨(armed.live l).trans ?_, fun on off low => ?_⟩, fun r off => ?_⟩
  · rw [armed.tick, now, begun.now]
  · refine armed.slices k (works.imp_left (Eq.trans (Chip.flag_of_get (get (SL_CFG_EN k.val) ?_ ?_)))) <;> simp only [SL_CFG_EN, SL_CFG] <;> omega
  · exact get (LEG_SLEW_HS_ON l.val) (by simp only [LEG_SLEW_HS_ON, LEG_SLEW]; omega) (by simp only [LEG_SLEW_HS_ON, LEG_SLEW]; omega)
  · have axis := (axisOfLeg l).isLt
    refine armed.series l ((Chip.flag_of_get (get _ ?_ ?_)).trans on) ((get _ ?_ ?_).trans off) ((Chip.flag_of_get (get _ ?_ ?_)).trans low) <;>
      simp only [AX_COMCFG_EN, AX_COMCFG, AX_MSTAT_MODE, AX_MSTAT, LEG_STAT_BST_OK, LEG_STAT] <;> omega
  · refine armed.adm r ((Chip.flag_of_get (get _ ?_ ?_)).trans off) <;> simp only [BUS_ADM_EN, BUS_ADM] <;> omega

/-! ### The pieces of an exit from SHOW and of a return to HOUSE (R88, R111, R241, R311) -/

/-- The registers of the part, of the timebases and ports, of axes and legs, and of the monitors. -/
def FrameReg (a : Nat) : Prop := a < 0x0A0000 ∨ 0x0E0000 ≤ a

theorem FE_STATUS_not_frame (r : Region) : ¬FrameReg (FE_STATUS r.val) := by
  simp only [FrameReg, FE_STATUS]
  omega

theorem US_STAT_not_frame (k : Nat) (small : k < 41) : ¬FrameReg (US_STAT k) := by
  simp only [FrameReg, US_STAT]
  omega

theorem PwrReg.frame {a : Nat} (h : PwrReg a) : FrameReg a := by
  simp only [PwrReg] at h
  simp only [FrameReg]
  omega

section
variable (c : Chip)

/-- What an exit from SHOW leaves. -/
structure AxesLeft (b c : Chip) : Prop where
  off : AllOff c
  regs : RegsOf (fun x => ∀ a : Axis, x ∉ offRegs a) b c
  only : Only [.regs, .legs, .axes] b c

theorem AxesLeft.leaveShow : AxesLeft c c.leaveShow := by
  have regs (d : Chip) (a : Axis) : RegsBut (offRegs a) d ((d.enterOff a 5).setAxis a { (d.enterOff a 5).axis a with localDue := false }) :=
    (Chip.enterOff_regsBut d a 5).of_regs (Chip.setAxis_regs ..)
  refine ⟨fun a => ?_, .each c _ fun d a _ => .of_regsBut (regs d a) fun x hx all => all a hx,
    .each c _ fun d a _ => (Only.enterOff d a 5).then (.setAxis ..)⟩
  refine Chip.each_holds (P := fun d : Chip => d.modeOf a = 0 ∧ (d.axis a).localDue = false) c allAxes (List.mem_finRange a)
    (fun d => ⟨(Chip.get_of_regs (Chip.setAxis_regs ..) _).trans (Chip.enterOff_mode d a 5), congrArg AxisState.localDue (Chip.axis_setAxis ..)⟩)
    fun d y other hd => ?_
  obtain ⟨mode, due⟩ := hd
  refine ⟨((regs d y).get (offRegs_disjoint other List.mem_cons_self)).trans mode, ?_⟩
  rw [Chip.axis_setAxis_ne _ _ _ other.symm, OneAxis.enterOff d y 5 a other.symm]
  exact due

/-- The engines give up their runs. -/
def Chip.runsDropped : Chip := c.each allAxes Chip.dropRun

theorem Chip.dropRun_kept (a : Axis) : RegsOf FrameReg c (c.dropRun a) ∧ (∀ x, ((c.dropRun a).axis x).localDue = (c.axis x).localDue) ∧
    ∀ e, (c.dropRun a).engine e = c.engine e ∨ (c.dropRun a).engine e = none := by
  have due (x : Axis) : ((c.setAxis a { c.axis a with run := {} }).axis x).localDue = (c.axis x).localDue := by
    by_cases same : x = a
    · subst same
      rw [Chip.axis_setAxis]
    · exact congrArg AxisState.localDue (Chip.axis_setAxis_ne _ _ _ same)
  have regs : RegsOf FrameReg c ((c.setAxis a { c.axis a with run := {} }).put (FE_STATUS_RETRY (regionOf a).val)
      ((c.setAxis a { c.axis a with run := {} }).get (FE_STATUS_RETRY (regionOf a).val) &&& (15 - 2 ^ localOf a))) :=
    (RegsOf.of_regs (Chip.setAxis_regs ..)).put _ _ (FE_STATUS_not_frame (regionOf a))
  unfold Chip.dropRun
  dsimp only
  split
  · refine ⟨regs.trans (.of_regs rfl), due, fun e => ?_⟩
    by_cases same : e = regionOf a
    · subst same
      exact .inr (Chip.engine_setEngine ..)
    · exact .inl (Chip.engine_setEngine_ne _ _ _ same)
  · exact ⟨regs, due, fun e => .inl rfl⟩

theorem Chip.dropRun_frees (a : Axis) : (c.dropRun a).engine (regionOf a) ≠ some a := by
  by_cases owner : c.engine (regionOf a) = some a
  · rw [Chip.dropRun_engine c a owner]
    exact nofun
  · rcases (c.dropRun_kept a).2.2 (regionOf a) with same | out
    · rw [same]
      exact owner
    · rw [out]
      exact nofun

theorem Chip.runsDropped_frame : RegsOf FrameReg c c.runsDropped ∧ Only [.regs, .axes, .engines] c c.runsDropped ∧
    (∀ x, (c.runsDropped.axis x).localDue = (c.axis x).localDue) ∧ ∀ a, c.runsDropped.engine (regionOf a) ≠ some a := by
  refine ⟨.each c _ fun d a _ => (d.dropRun_kept a).1, .each c _ fun d a _ => .dropRun d a, fun x => ?_, fun a => ?_⟩
  · exact Chip.each_keeps (P := fun d => (d.axis x).localDue = (c.axis x).localDue) allAxes rfl fun d hd a _ => ((d.dropRun_kept a).2.1 x).trans hd
  · refine Chip.each_holds (P := fun d : Chip => d.engine (regionOf a) ≠ some a) c allAxes (List.mem_finRange a) (fun d => d.dropRun_frees a)
      fun d y _ hd => ?_
    rcases (d.dropRun_kept y).2.2 (regionOf a) with same | out
    · rw [same]
      exact hd
    · rw [out]
      exact nofun

/-- Every running slice is to stop. -/
def Chip.slicesStopped : Chip := c.each allSlices Chip.stopSlice

theorem Chip.stopSlice_kept (k : SliceId) : Only [.slices] c (c.stopSlice k) ∧ ((c.stopSlice k).slice k).running = (c.slice k).running ∧
    ((c.slice k).running = true → ((c.stopSlice k).slice k).stopping = true ∧ ((c.stopSlice k).slice k).reqForced = true) ∧
    ∀ j, j ≠ k → (c.stopSlice k).slice j = c.slice j := by
  unfold Chip.stopSlice
  dsimp only
  split
  next runs =>
    refine ⟨.setSlice .., ?_, fun _ => ?_, fun j other => Chip.slice_setSlice_ne _ _ _ other⟩
    · rw [Chip.slice_setSlice]
    · rw [Chip.slice_setSlice]
      exact ⟨rfl, rfl⟩
  next rests => exact ⟨.refl _ c, rfl, fun runs => absurd runs rests, fun _ _ => rfl⟩

theorem Chip.slicesStopped_frame : Only [.slices] c c.slicesStopped ∧
    ∀ k, (c.slice k).running = true → (c.slicesStopped.slice k).stopping = true ∧ (c.slicesStopped.slice k).reqForced = true := by
  refine ⟨.each c _ fun d k _ => (d.stopSlice_kept k).1, fun k runs => ?_⟩
  have running : (c.slicesStopped.slice k).running = (c.slice k).running := by
    refine Chip.each_keeps (P := fun d => (d.slice k).running = (c.slice k).running) allSlices rfl fun d hd j _ => ?_
    by_cases same : k = j
    · subst same
      exact (d.stopSlice_kept k).2.1.trans hd
    · rw [(d.stopSlice_kept j).2.2.2 k same]
      exact hd
  refine Chip.each_holds (P := fun d : Chip => (d.slice k).running = true → (d.slice k).stopping = true ∧ (d.slice k).reqForced = true)
    c allSlices (List.mem_finRange k) (fun d => ?_) (fun d j other hd => ?_) (running.trans runs)
  · obtain ⟨-, same, stops, -⟩ := d.stopSlice_kept k
    rw [same]
    exact stops
  · rw [(d.stopSlice_kept j).2.2.2 k other.symm]
    exact hd

theorem Chip.stopRounds_frame : RegsOf FrameReg c c.stopRounds ∧ Only [.regs, .unders] c c.stopRounds :=
  ⟨.each c _ fun e d _ => ((RegsOf.refl _ e).put (US_STAT_STEP (underIx d)) 0 (US_STAT_not_frame _ (underOf d).isLt)).trans (.of_regs rfl),
    .each c _ fun e d _ => ((Only.put e (US_STAT_STEP (underIx d)) 0).mono : Only [.regs, .unders] _ _).then (.setUnder ..)⟩

/-- Every leg is floated and holds nothing. -/
def Chip.legsHoused : Chip := c.each allLegs Chip.legHouse

/-- A leg that is floated and holds nothing. -/
def Chip.Housed (c : Chip) (l : Leg) : Prop :=
  c.legMode l = 0 ∧ (c.leg l).charging = false ∧ (c.leg l).duties = [] ∧ c.flag (LEG_STAT_BST_OK l.val) = false

theorem Chip.legHouse_frame (l : Leg) : RegsBut [LEG_DUTY l.val, LEG_STAT l.val] c (c.legHouse l) ∧ OneLeg l c (c.legHouse l) ∧
    Only [.regs, .legs] c (c.legHouse l) ∧ (c.legHouse l).Housed l := by
  have set : RegsBut [LEG_DUTY l.val, LEG_STAT l.val] c (c.setLegMode l .float) := by
    unfold Chip.setLegMode
    exact ((RegsBut.refl _ c).put (LEG_DUTY_MODE l.val) _ List.mem_cons_self).of_regs ((LegAt.obeyLeg ..).only.same .regs (by decide))
  have mode := c.setLegMode_mode l .float
  have others := OneLeg.setLegMode c l .float
  have only := Only.setLegMode c l .float
  unfold Chip.legHouse
  generalize c.setLegMode l .float = d at *
  have put : RegsBut [LEG_DUTY l.val, LEG_STAT l.val] c (d.put (LEG_STAT_BST_OK l.val) 0) := set.put _ _ (by simp [LEG_STAT_BST_OK])
  refine ⟨put.of_regs (Chip.setLeg_regs ..), ?_, (only.then (.put ..)).then (.setLeg ..), ?_, ?_, ?_, ?_⟩
  · exact (others.trans fun _ _ => rfl : OneLeg l c (d.put (LEG_STAT_BST_OK l.val) 0)).setLeg _
  · refine (Chip.get_of_regs (Chip.setLeg_regs ..) _).trans ((d.get_put_ne _ _ _ ?_).trans mode)
    simp only [LEG_DUTY_MODE, LEG_DUTY, LEG_STAT_BST_OK, LEG_STAT]
    omega
  · exact congrArg LegState.charging (Chip.leg_setLeg ..)
  · exact congrArg LegState.duties (Chip.leg_setLeg ..)
  · exact (Chip.flag_of_get (Chip.get_of_regs (Chip.setLeg_regs ..) _)).trans (d.flag_putF _ (Field.ok_of _ rfl) false)

theorem leg_regs_apart {k l : Leg} (other : k ≠ l) {x : Nat} (hx : x = LEG_DUTY k.val ∨ x = LEG_STAT k.val) :
    x ∉ [LEG_DUTY l.val, LEG_STAT l.val] := by
  have := mt Fin.ext other
  simp only [LEG_DUTY, LEG_STAT, List.mem_cons, List.not_mem_nil, or_false] at hx ⊢
  omega

theorem Chip.legsHoused_frame : RegsOf (fun x => x < 0x090000 ∨ 0x0A0000 ≤ x) c c.legsHoused ∧ Only [.regs, .legs] c c.legsHoused ∧
    ∀ l, c.legsHoused.Housed l := by
  refine ⟨.each c _ fun d l _ => .of_regsBut (d.legHouse_frame l).1 ?_, .each c _ fun d l _ => (d.legHouse_frame l).2.2.1, fun l => ?_⟩
  · intro x hx
    simp only [LEG_DUTY, LEG_STAT, List.mem_cons, List.not_mem_nil, or_false] at hx
    omega
  · refine Chip.each_holds (P := fun d : Chip => d.Housed l) c allLegs (List.mem_finRange l) (fun d => (d.legHouse_frame l).2.2.2)
      fun d k other ⟨mode, charging, duties, stored⟩ => ?_
    obtain ⟨regs, others, -⟩ := d.legHouse_frame k
    have same : (d.legHouse k).leg l = d.leg l := others l other.symm
    refine ⟨(regs.get (leg_regs_apart other.symm (.inl rfl))).trans mode, ?_, ?_,
      (Chip.flag_of_get (regs.get (leg_regs_apart other.symm (.inr rfl)))).trans stored⟩
    · rw [same]
      exact charging
    · rw [same]
      exact duties

/-- Every bus is at rest. -/
def Chip.busesHoused : Chip := c.each allRegions Chip.busHouse

theorem Chip.admOff_frame (r : Region) : RegsBut [BUS_STAT r.val] c (c.admOff r) ∧ OneBus r c (c.admOff r) ∧
    (c.admOff r).get (BUS_STAT_CHOP_ON r.val) = c.get (BUS_STAT_CHOP_ON r.val) ∧ ((c.admOff r).bus r).gate = 0 := by
  unfold Chip.admOff
  refine ⟨((RegsBut.refl _ c).put (BUS_STAT_ADM r.val) 0 List.mem_cons_self).of_regs (Chip.setBus_regs ..), ?_, ?_, ?_⟩
  · exact ((Only.put c (BUS_STAT_ADM r.val) 0).oneBus r).setBus _
  · exact (Chip.get_of_regs (Chip.setBus_regs ..) _).trans (Chip.get_put_beside _ _ _ _ rfl)
  · rw [Chip.bus_setBus]

/-- A bus without a chopper's and a cut's state. -/
def Chip.busCleared (r : Region) : Chip :=
  (((c.chopStop r).setReg (BUS_FAST r.val) 0).put (BUS_STAT_UV r.val) 0).put (BUS_STAT_CUT r.val) 0

theorem Chip.busCleared_frame (r : Region) : RegsBut [BUS_FAST r.val, BUS_STAT r.val] c (c.busCleared r) ∧ OneBus r c (c.busCleared r) ∧
    Only [.regs, .buses] c (c.busCleared r) ∧ (c.busCleared r).get (BUS_STAT_CHOP_ON r.val) = 0 := by
  have stop : RegsBut [BUS_FAST r.val, BUS_STAT r.val] c (c.chopStop r) := (c.chopStop_regsBut r).mono (by simp)
  have off : (c.chopStop r).get (BUS_STAT_CHOP_ON r.val) = 0 := by simpa [Chip.flag] using (c.chopStop_off r).1
  obtain ⟨-, others, only⟩ := BusAt.chopStop c r
  unfold Chip.busCleared
  generalize c.chopStop r = d at *
  have mem : BUS_STAT r.val ∈ [BUS_FAST r.val, BUS_STAT r.val] := by simp
  have words : Only [.regs] d (((d.setReg (BUS_FAST r.val) 0).put (BUS_STAT_UV r.val) 0).put (BUS_STAT_CUT r.val) 0) :=
    ((Only.setReg d (BUS_FAST r.val) 0).then (.put ..)).then (.put ..)
  refine ⟨((stop.setReg _ _ List.mem_cons_self).put _ _ mem).put _ _ mem, others.trans (words.oneBus r), only.trans words.mono, ?_⟩
  rw [Chip.get_put_beside _ _ _ _ rfl, Chip.get_put_beside _ _ _ _ rfl, ← off]
  refine congrArg (BUS_STAT_CHOP_ON r.val).read (d.reg_setReg_ne _ ?_)
  simp only [BUS_STAT_CHOP_ON, BUS_STAT, BUS_FAST]
  omega

theorem Chip.busHouse_frame (r : Region) : RegsBut [BUS_FAST r.val, BUS_STAT r.val] c (c.busHouse r) ∧ OneBus r c (c.busHouse r) ∧
    Only [.regs, .buses] c (c.busHouse r) ∧ (c.busHouse r).get (BUS_STAT_CHOP_ON r.val) = 0 ∧ ((c.busHouse r).bus r).gate = 0 := by
  obtain ⟨regs, others, only, chop⟩ := c.busCleared_frame r
  have house : c.busHouse r = ((c.busCleared r).admOff r).setBus r { ((c.busCleared r).admOff r).bus r with chk := none } := rfl
  rw [house]
  generalize c.busCleared r = d at *
  obtain ⟨offRegs, offOthers, offChop, gate⟩ := d.admOff_frame r
  have off := Only.admOff d r
  generalize d.admOff r = e at *
  refine ⟨(regs.trans (offRegs.mono (by simp))).of_regs (Chip.setBus_regs ..), (others.trans offOthers).setBus _,
    (only.trans off).then (.setBus ..), ?_, ?_⟩
  · exact (Chip.get_of_regs (Chip.setBus_regs ..) _).trans (offChop.trans chop)
  · rw [Chip.bus_setBus]
    exact gate

theorem Chip.busesHoused_frame : RegsOf FrameReg c c.busesHoused ∧ Only [.regs, .buses] c c.busesHoused ∧
    ∀ r : Region, c.busesHoused.get (BUS_STAT_CHOP_ON r.val) = 0 ∧ (c.busesHoused.bus r).gate = 0 := by
  refine ⟨.each c _ fun d r _ => .of_regsBut (d.busHouse_frame r).1 ?_, .each c _ fun d r _ => (d.busHouse_frame r).2.2.1, fun r => ?_⟩
  · intro x hx
    simp only [BUS_FAST, BUS_STAT, List.mem_cons, List.not_mem_nil, or_false] at hx
    simp only [FrameReg]
    omega
  · refine Chip.each_holds (P := fun d : Chip => d.get (BUS_STAT_CHOP_ON r.val) = 0 ∧ (d.bus r).gate = 0) c allRegions (allRegions_all r)
      (fun d => (d.busHouse_frame r).2.2.2) fun d q other ⟨chop, gate⟩ => ?_
    obtain ⟨regs, others, -⟩ := d.busHouse_frame q
    refine ⟨(regs.get ?_).trans chop, ?_⟩
    · have := mt Fin.ext other
      simp only [BUS_STAT_CHOP_ON, BUS_STAT, BUS_FAST, List.mem_cons, List.not_mem_nil, or_false]
      omega
    · rw [others r other.symm]
      exact gate

end

/-! ### STANDBY to SHOW and back, and the return to HOUSE -/

/-- What the first tick of a new state of power leaves alone. -/
theorem Only.moved (c : Chip) (n : Nat) : Only [.regs, .tbs, .cues, .wall, .now, .tickRegs, .fresh, .pwrDue, .wms] c (c.inNextTick.setPstate n) :=
  (TickBegun.inNextTick c).only.mono.trans (c.inNextTick.setPstate_frame n).2.1.mono

section
variable (c : Chip)

/-- The axis is enabled and owns itself. -/
def Chip.ownsItself (a : Axis) : Bool := c.axisOn a && c.get (AX_CFG_OWNER a.val) == 2

theorem Chip.ownsItself_of_regs {b c : Chip} (same : c.regs = b.regs) (a : Axis) : c.ownsItself a = b.ownsItself a := by
  unfold Chip.ownsItself Chip.axisOn Chip.flag
  rw [Chip.get_of_regs same, Chip.get_of_regs same]

/-- An axis at an entry into SHOW. -/
def Chip.axisShows (a : Axis) : Chip :=
  c.setAxis a { c.axis a with entered := true, entries := (c.axis a).entries + 1, localDue := c.ownsItself a }

/-- Every axis at an entry into SHOW. -/
def Chip.axesShow : Chip := c.each allAxes Chip.axisShows

theorem Chip.axesShow_frame : Only [.axes] c c.axesShow ∧
    ∀ a, (c.axesShow.axis a).entered = true ∧ (c.axesShow.axis a).localDue = c.ownsItself a := by
  have one (d : Chip) (a : Axis) : Only [.axes] d (d.axisShows a) := .setAxis ..
  have regs (d : Chip) (a : Axis) : (d.axisShows a).regs = d.regs := (one d a).same .regs (by decide)
  refine ⟨.each c _ fun d a _ => one d a, fun a => ?_⟩
  have shown := Chip.each_holds (f := Chip.axisShows) (P := fun d : Chip => (d.axis a).entered = true ∧ (d.axis a).localDue = d.ownsItself a) c
    allAxes (List.mem_finRange a) (fun d => ?_) (fun d y other hd => ?_)
  · have same : c.axesShow.regs = c.regs := (Only.each c _ fun d a _ => one d a : Only [.axes] c c.axesShow).same .regs (by decide)
    exact ⟨shown.1, shown.2.trans (Chip.ownsItself_of_regs same a)⟩
  · rw [Chip.ownsItself_of_regs (regs d a), Chip.axisShows, Chip.axis_setAxis]
    exact ⟨rfl, rfl⟩
  · rw [Chip.ownsItself_of_regs (regs d y), Chip.axisShows, Chip.axis_setAxis_ne _ _ _ other.symm]
    exact hd

theorem moves_show {s : State} {ecc : List EntryIx} (runs : s.chip.clockRuns = true) (due : s.chip.pwrDue = some 3) (standby : s.chip.pstate = 2) :
    Moves ecc 3 s fun c =>
      (∀ a, (c.axis a).entered = true) ∧
      (∀ a, (c.axis a).localDue = true ↔ s.chip.axisOn a = true ∧ s.chip.get (AX_CFG_OWNER a.val) = 2) ∧
      c.legs = s.chip.legs ∧ c.slices = s.chip.slices ∧ c.buses = s.chip.buses ∧ c.faults = s.chip.inNextTick.faults := by
  have state : s.chip.inNextTick.pstate = 2 := ((TickBegun.inNextTick s.chip).regs.get SYS_STATUS_PSTATE (by decide)).trans standby
  have move : s.chip.inNextTick.pwrMove 3 = (s.chip.inNextTick.setPstate 3).axesShow := by
    unfold Chip.pwrMove
    rw [state] <;> rfl
  have moved := Only.moved s.chip 3
  have get := moved_get s 3
  have faults : (s.chip.inNextTick.setPstate 3).faults = s.chip.inNextTick.faults := (s.chip.inNextTick.setPstate_frame 3).2.1.same .faults (by decide)
  obtain ⟨only, shown⟩ := (s.chip.inNextTick.setPstate 3).axesShow_frame
  have quiet : (s.chip.inNextTick.setPstate 3).axesShow.faults = (s.chip.inNextTick.setPstate 3).faults := only.same .faults (by decide)
  refine moves_of runs due (by decide) move (.of_only (.of_regs (only.same .regs (by decide))) only) ?_
  generalize s.chip.inNextTick.setPstate 3 = d at *
  have all : Only [.regs, .tbs, .cues, .wall, .now, .tickRegs, .fresh, .pwrDue, .wms, .axes] s.chip d.axesShow := moved.mono.trans only.mono
  refine ⟨fun a => (shown a).1, fun a => ?_, all.same .legs (by decide), all.same .slices (by decide), all.same .buses (by decide), quiet.trans faults⟩
  have on : d.axisOn a = s.chip.axisOn a := Chip.flag_of_get (get _ (by simp only [AX_COMCFG_EN, AX_COMCFG]; omega) (by simp only [AX_COMCFG_EN, AX_COMCFG]; omega))
  have owner : d.get (AX_CFG_OWNER a.val) = s.chip.get (AX_CFG_OWNER a.val) :=
    get _ (by simp only [AX_CFG_OWNER, AX_CFG]; omega) (by simp only [AX_CFG_OWNER, AX_CFG]; omega)
  rw [(shown a).2, Chip.ownsItself, on, owner, Bool.and_eq_true, beq_iff_eq]

theorem Chip.unshow_eq : c.unshow = (c.setPstate 2).legsStand.leaveShow := rfl

theorem LEG_SLEW_not_off (l : Leg) (a : Axis) : LEG_SLEW l.val ∉ offRegs a := by
  intro hx
  have := offRegs_low hx
  simp only [LEG_SLEW] at this
  omega

theorem LEG_SLEW_not_pwr (l : Leg) : ¬PwrReg (LEG_SLEW l.val) := by
  simp only [PwrReg, LEG_SLEW]
  omega

theorem moves_unshow {s : State} {ecc : List EntryIx} (runs : s.chip.clockRuns = true) (due : s.chip.pwrDue = some 2) (shows : s.chip.pstate = 3) :
    Moves ecc 2 s fun c => AllOff c ∧ c.slices = s.chip.slices ∧ c.buses = s.chip.buses ∧
      (∀ l : Leg, c.get (LEG_SLEW_LIVE_HS_ON l.val) = s.chip.get (LEG_SLEW_HS_ON l.val)) := by
  have state : s.chip.inNextTick.pstate = 3 := ((TickBegun.inNextTick s.chip).regs.get SYS_STATUS_PSTATE (by decide)).trans shows
  have move : s.chip.inNextTick.pwrMove 2 = (s.chip.inNextTick.setPstate 2).legsStand.leaveShow := by
    unfold Chip.pwrMove
    rw [state] <;> rfl
  have moved := Only.moved s.chip 2
  have get := moved_get s 2
  obtain ⟨legRegs, legs, live, -⟩ := (s.chip.inNextTick.setPstate 2).legsStand_frame
  have left := AxesLeft.leaveShow (s.chip.inNextTick.setPstate 2).legsStand
  generalize hd : s.chip.inNextTick.setPstate 2 = d at *
  generalize d.legsStand = e at *
  have changed : Only [.regs, .legs, .axes] d e.leaveShow := legs.mono.trans left.only
  have own : RegsOf PwrReg d e.leaveShow :=
    (⟨fun x pwr => legRegs.reg x fun l eq => LEG_SLEW_not_pwr l (eq ▸ pwr)⟩ : RegsOf PwrReg d e).trans
      ⟨fun x pwr => left.regs.reg x fun a hx => offRegs_not_pwr hx pwr⟩
  refine moves_of runs due (by decide) move (hd ▸ .of_only own changed) ?_
  have all : Only [.regs, .tbs, .cues, .wall, .now, .tickRegs, .fresh, .pwrDue, .wms, .legs, .axes] s.chip e.leaveShow := moved.mono.trans changed.mono
  refine ⟨left.off, all.same .slices (by decide), all.same .buses (by decide), fun l => ?_⟩
  refine (left.regs.get (LEG_SLEW_LIVE_HS_ON l.val) fun a => LEG_SLEW_not_off l a).trans ((live l).trans (get _ ?_ ?_)) <;>
    simp only [LEG_SLEW_HS_ON, LEG_SLEW] <;> omega

/-- What a return to HOUSE leaves, before the entry itself. -/
structure Disarmed (b c : Chip) : Prop where
  off : AllOff c
  tick : c.armTick = none
  legs : ∀ l, c.Housed l
  slices : ∀ k, (b.slice k).running = true → (c.slice k).stopping = true ∧ (c.slice k).reqForced = true
  buses : ∀ r : Region, c.get (BUS_STAT_CHOP_ON r.val) = 0 ∧ (c.bus r).gate = 0
  engines : ∀ a, c.engine (regionOf a) ≠ some a
  step : PowerStep b c

/-- The part unarmed. -/
def Chip.unarmed : Chip := { c with armTick := none }

theorem Chip.disarmAll_eq : c.disarmAll =
    ((((((((c.setPstate 1).leaveShow).runsDropped).slicesStopped).stopRounds).legsHoused).busesHoused).unarmed).activesShown.enterHouse := rfl

theorem Disarmed.disarm : Disarmed c (((((((c.leaveShow).runsDropped).slicesStopped).stopRounds).legsHoused).busesHoused).unarmed).activesShown := by
  have left := AxesLeft.leaveShow c
  generalize c.leaveShow = d at *
  obtain ⟨dropRegs, dropped, localDue, engines⟩ := d.runsDropped_frame
  generalize d.runsDropped = e at *
  obtain ⟨stopped, stops⟩ := e.slicesStopped_frame
  generalize e.slicesStopped = f at *
  obtain ⟨roundRegs, rounds⟩ := f.stopRounds_frame
  generalize f.stopRounds = g at *
  obtain ⟨legRegs, legs, housed⟩ := g.legsHoused_frame
  generalize g.legsHoused = h at *
  obtain ⟨busRegs, buses, rests⟩ := h.busesHoused_frame
  generalize h.busesHoused = k at *
  have unarmed : Only [.armTick] k k.unarmed := .of_mix rfl
  have tick : k.unarmed.armTick = none := rfl
  generalize k.unarmed = u at *
  obtain ⟨feRegs, shown⟩ := u.activesShown_frame
  generalize u.activesShown = w at *
  have lastRegs : RegsOf FrameReg u w := ⟨fun x hx => feRegs.reg x fun r eq => FE_STATUS_not_frame r (eq ▸ hx)⟩
  have unarmedRegs {P : Nat → Prop} : RegsOf P k u := .of_regs (unarmed.same .regs (by decide))
  have early : RegsOf FrameReg d g := (dropRegs.trans (.of_regs (stopped.same .regs (by decide)))).trans roundRegs
  have late : RegsOf FrameReg h w := (busRegs.trans unarmedRegs).trans lastRegs
  have lateParts : Only [.regs, .buses, .armTick] h w := (buses.mono.trans unarmed.mono).trans shown.mono
  have midParts : Only [.regs, .unders, .legs] f h := rounds.mono.trans legs.mono
  have afterParts : Only [.regs, .unders, .legs, .buses, .armTick, .slices] e w := stopped.mono.trans (midParts.mono.trans lateParts.mono)
  have parts : Only [.regs, .legs, .axes, .engines, .slices, .unders, .buses, .armTick] c w :=
    left.only.mono.trans (dropped.mono.trans afterParts.mono)
  refine ⟨fun a => ⟨?_, ?_⟩, ?_, fun l => ?_, fun j runs => ?_, fun r => ⟨?_, ?_⟩, fun a => ?_, .of_only ⟨fun x pwr => ?_⟩ parts⟩
  · have mode (P : Nat → Prop) {x y : Chip} (same : RegsOf P x y) (hp : P (AX_MSTAT a.val)) : y.modeOf a = x.modeOf a := same.get (AX_MSTAT_MODE a.val) hp
    have low : AX_MSTAT a.val < 0x090000 := by simp only [AX_MSTAT]; omega
    have frame : FrameReg (AX_MSTAT a.val) := .inl (by omega)
    exact (mode _ late frame).trans ((mode _ legRegs (.inl low)).trans ((mode _ early frame).trans (left.off a).1))
  · rw [afterParts.axis a (by decide), localDue a]
    exact (left.off a).2
  · exact Eq.trans (b := u.armTick) (shown.same .armTick (by decide)) tick
  · obtain ⟨mode, charging, duties, stored⟩ := housed l
    have same : w.leg l = h.leg l := lateParts.leg l (by decide)
    refine ⟨(late.get (LEG_DUTY_MODE l.val) (.inl ?_)).trans mode, by rw [same]; exact charging, by rw [same]; exact duties,
      (Chip.flag_of_get (late.get (LEG_STAT_BST_OK l.val) (.inl ?_))).trans stored⟩ <;>
      simp only [LEG_DUTY_MODE, LEG_DUTY, LEG_STAT_BST_OK, LEG_STAT] <;> omega
  · have kept : e.slice j = c.slice j := (dropped.slice j (by decide)).trans (left.only.slice j (by decide))
    have after : w.slice j = f.slice j := (lateParts.slice j (by decide)).trans (midParts.slice j (by decide))
    rw [after]
    exact stops j (by rw [kept]; exact runs)
  · refine (feRegs.get (BUS_STAT_CHOP_ON r.val) fun q => ?_).trans ((unarmed.get _).trans (rests r).1)
    simp only [BUS_STAT_CHOP_ON, BUS_STAT, FE_STATUS]
    omega
  · have same : w.bus r = k.bus r := (shown.bus r).trans (unarmed.bus r)
    rw [same]
    exact (rests r).2
  · rw [show w.engine (regionOf a) = e.engine (regionOf a) from afterParts.engine _ (by decide)]
    exact engines a
  · have frame : FrameReg x := pwr.frame
    have outside : x < 0x090000 ∨ 0x0A0000 ≤ x := by
      simp only [PwrReg] at pwr
      omega
    exact (late.reg x frame).trans ((legRegs.reg x outside).trans ((early.reg x frame).trans (left.regs.reg x fun a hx => offRegs_not_pwr hx pwr)))

theorem moves_disarm {s : State} {ecc : List EntryIx} (runs : s.chip.clockRuns = true) (due : s.chip.pwrDue = some 1)
    (was : s.chip.pstate = 2 ∨ s.chip.pstate = 3) : Moves ecc 1 s fun c =>
      AllOff c ∧ c.armTick = none ∧ c.houseTick = s.chip.now + 1 ∧
      (∀ l, c.legMode l = 0 ∧ (c.leg l).charging = false ∧ (c.leg l).duties = [] ∧ c.flag (LEG_STAT_BST_OK l.val) = false) ∧
      (∀ k, (s.chip.slice k).running = true → (c.slice k).stopping = true ∧ (c.slice k).reqForced = true) ∧
      (∀ r : Region, c.get (BUS_STAT_CHOP_ON r.val) = 0 ∧ (c.bus r).gate = 0) ∧ (∀ a, c.engine (regionOf a) ≠ some a) ∧
      (∀ i, (c.sensor i).lastValid = none) := by
  have begun := TickBegun.inNextTick s.chip
  have state : s.chip.inNextTick.pstate = s.chip.pstate := begun.regs.get SYS_STATUS_PSTATE (by decide)
  have move : s.chip.inNextTick.pwrMove 1 = s.chip.inNextTick.disarmAll := by
    unfold Chip.pwrMove
    rcases was with h | h <;> rw [state, h] <;> rfl
  have moved := Only.moved s.chip 1
  have disarmed := Disarmed.disarm (s.chip.inNextTick.setPstate 1)
  have now : (s.chip.inNextTick.setPstate 1).now = s.chip.now + 1 :=
    Eq.trans (b := s.chip.inNextTick.now) ((s.chip.inNextTick.setPstate_frame 1).2.1.same .now (by decide)) begun.now
  refine moves_of runs due (by decide) (move.trans (Chip.disarmAll_eq _)) ?_ ?_
  · exact disarmed.step.trans (.of_house (HouseStep.enterHouse _).1)
  · generalize s.chip.inNextTick.setPstate 1 = b at *
    generalize (((((((b.leaveShow).runsDropped).slicesStopped).stopRounds).legsHoused).busesHoused).unarmed).activesShown = d at *
    obtain ⟨house, rested, tick⟩ := HouseStep.enterHouse d
    generalize d.enterHouse = e at *
    have idle := house.idle disarmed.off
    have ticks : d.now = b.now := disarmed.step.only.same .now (by decide)
    refine ⟨idle.off, ?_, tick.trans (ticks.trans now), fun l => ?_, fun k running => ?_, fun r => ⟨(idle.chop r).trans (disarmed.buses r).1, ?_⟩,
      fun a => ?_, rested⟩
    · exact Eq.trans (b := d.armTick) (house.only.same .armTick (by decide)) disarmed.tick
    · obtain ⟨mode, charging, duties, stored⟩ := disarmed.legs l
      have own (f : Field) (low : 0x090000 ≤ f.addr) (high : f.addr < 0x0A0000) : e.get f = d.get f :=
        house.own.get f ⟨.inr (.inl ⟨low, high⟩), by simp only [LOG_STATUS]; omega⟩
      refine ⟨(own (LEG_DUTY_MODE l.val) ?_ ?_).trans mode, (idle.queues l).1.trans charging, (idle.queues l).2.trans duties,
        (Chip.flag_of_get (own (LEG_STAT_BST_OK l.val) ?_ ?_)).trans stored⟩ <;>
        simp only [LEG_DUTY_MODE, LEG_DUTY, LEG_STAT_BST_OK, LEG_STAT] <;> omega
    · rw [show e.slice k = d.slice k from house.only.slice k (by decide)]
      exact disarmed.slices k (by rw [moved.slice k (by decide)]; exact running)
    · rw [show e.bus r = d.bus r from house.only.bus r (by decide)]
      exact (disarmed.buses r).2
    · rw [show e.engine (regionOf a) = d.engine (regionOf a) from house.only.engine _ (by decide)]
      exact disarmed.engines a

end

end Sys2Proof.Machine

open Sys2Proof.Machine

/-- Settles O39: what each request may do, and the tick in which each transition takes effect. -/
theorem powerStates : Obligations.PowerStates :=
  ⟨⟨fun _ _ _ _ => grants_transition, fun _ _ => moves_arm, fun _ _ => moves_show, fun _ _ => moves_unshow, fun _ _ => moves_disarm,
    fun _ _ => grants_dark, fun _ _ => grants_return⟩, fun _ _ _ _ => sysPwr_judged⟩
end

section
-- One proof after the other: a side goal that `Only` settles by `decide` waits for the kernel, on a thread of its own.
set_option Elab.async false
/-! SUPPORT. One tick of the fault collector with one event: what counting, the latch, the reaction, the first capture and the range's
queue each change (R277 to R289, R360); and the statement about it. -/
namespace Sys2Proof.Machine

/-! ### Counting and judging (R275, R277 to R282) -/

/-- The registers by which events are judged agree. -/
def ConfigSame (b c : Chip) : Prop := ∀ f : Field, 0x020000 ≤ f.addr → c.get f = b.get f

section
variable {b c : Chip} (same : ConfigSame b c)
include same

theorem ConfigSame.axisOn (a : Axis) : c.axisOn a = b.axisOn a :=
  Chip.flag_of_get (same _ (by simp only [AX_COMCFG_EN, AX_COMCFG]; omega))

theorem ConfigSame.sliceTargets (k : Nat) : c.sliceTargets k = b.sliceTargets k := by
  have source (a : Axis) (sec : Bool) : c.srcType a sec = b.srcType a sec ∧ c.srcIdx a sec = b.srcIdx a sec := by
    have get (f : Field) (addr : f.addr = AX_SRC a.val) : c.get f = b.get f := same f (by simp only [addr, AX_SRC]; omega)
    unfold Chip.srcType Chip.srcIdx
    cases sec <;> exact ⟨get _ rfl, get _ rfl⟩
  unfold Chip.sliceTargets
  simp only [source]

theorem ConfigSame.portTargets (p : Port) : c.portTargets p = b.portTargets p := by
  have get (f : Field) (addr : f.addr = FP_CFG p.val) : c.get f = b.get f := same f (by simp only [addr, FP_CFG]; omega)
  have dest : c.get (FP_CFG_DEST p.val) = b.get (FP_CFG_DEST p.val) := get _ rfl
  have leads (k : Nat) : c.leads p k = b.leads p k := by
    unfold Chip.leads Chip.flag
    rw [get (FP_CFG_EN p.val) rfl, get (FP_CFG_FUNC p.val) rfl, get (FP_CFG_ROLE p.val) rfl]
  have master (a : Axis) : c.get (AX_GEARCFG_MASTER a.val) = b.get (AX_GEARCFG_MASTER a.val) :=
    same _ (by simp only [AX_GEARCFG_MASTER, AX_GEARCFG]; omega)
  have pulse : c.pulseLead p = b.pulseLead p := by rw [Chip.pulseLead, leads, get (FP_CFG_DSUB p.val) rfl]; rfl
  have position : c.positionLead p = b.positionLead p := by rw [Chip.positionLead, leads, leads, leads, pulse]; rfl
  have axis : c.destAxis p = b.destAxis p := by unfold Chip.destAxis; simp only [dest]
  have of : c.masterOf p = b.masterOf p := by unfold Chip.masterOf; rw [dest, position]
  unfold Chip.portTargets
  simp only [axis, of, master]

theorem ConfigSame.targets (e : Event) : c.targets e = b.targets e := by
  unfold Chip.targets
  simp only [same.sliceTargets, same.portTargets]

end

section
variable {b c : Chip} {s : Nat} (own : RegsBut [FLT_CNT s, FLT_SRC s] b c)
include own

theorem RegsBut.config (low : s < 0xFC) : ConfigSame b c := fun f high => own.get (by
  simp only [FLT_CNT, FLT_SRC, List.mem_cons, List.not_mem_nil, or_false]
  omega)

theorem RegsBut.judged_config : c.get (FLT_CFG_CODE s) = b.get (FLT_CFG_CODE s) ∧ c.get (FLT_CFG_N s) = b.get (FLT_CFG_N s) ∧
    c.get (FLT_CFG_T s) = b.get (FLT_CFG_T s) := by
  have out : FLT_CFG s ∉ [FLT_CNT s, FLT_SRC s] := by
    simp only [FLT_CFG, FLT_CNT, FLT_SRC, List.mem_cons, List.not_mem_nil, or_false]
    omega
  exact ⟨own.get (g := FLT_CFG_CODE s) out, own.get (g := FLT_CFG_N s) out, own.get (g := FLT_CFG_T s) out⟩

end

/-- The event is judged in both chips alike. -/
structure JudgedAlike (e : Event) (b c : Chip) : Prop where
  severe : c.severe e.src = b.severe e.src
  code : c.effCode e = b.effCode e
  mask : c.reactionMask e = b.reactionMask e
  isOpen : c.windowOpen e.src = b.windowOpen e.src
  count : c.windowCount e.src = b.windowCount e.src
  becomes : c.becomesSevere e = b.becomesSevere e

section
variable (c : Chip) (e : Event)

/-- What counting an event leaves: the source's words, and in them the count and INJ. -/
structure Counted (e : Event) (b c : Chip) : Prop where
  regs : RegsBut [FLT_CNT e.src, FLT_SRC e.src] b c
  count : c.get (FLT_CNT_EVENTS e.src) = min (b.get (FLT_CNT_EVENTS e.src) + e.count) (2 ^ 32 - 1)
  inj : e.inj = true → c.flag (FLT_SRC_INJ e.src) = true
  window : c.get (FLT_SRC_WCNT e.src) = b.get (FLT_SRC_WCNT e.src)
  only : Only [.regs, .fresh] b c

theorem FLT_CNT_ne_SRC (s : Nat) : FLT_CNT s ≠ FLT_SRC s := by simp [FLT_CNT, FLT_SRC]

theorem Counted.countEvent : Counted e c (c.countEvent e) := by
  have bumped := c.get_bump (FLT_CNT_EVENTS e.src) (Field.ok_of _ rfl) e.count
  have marks (d : Chip) (v : Bool) (f : Field) (addr : f.addr = FLT_SRC e.src) :
      (d.markIf v f).get (FLT_CNT_EVENTS e.src) = d.get (FLT_CNT_EVENTS e.src) := by
    cases v
    · rfl
    · exact d.get_put_ne _ _ _ (addr ▸ FLT_CNT_ne_SRC e.src)
  refine ⟨c.countEvent_regsBut e, ?_, fun injected => ?_, ?_, ((Only.bump ..).trans (.markIf ..)).trans (.markIf ..)⟩
  · unfold Chip.countEvent
    dsimp only
    rw [marks _ _ _ rfl, marks _ _ _ rfl]
    exact bumped
  · unfold Chip.countEvent
    rw [injected]
    exact Chip.flag_one (Chip.get_mark _ _ (Field.ok_of _ rfl))
  · unfold Chip.countEvent
    dsimp only
    rw [Chip.get_markIf_beside _ _ (Field.ok_of _ rfl) (Field.ok_of _ rfl) rfl, Chip.get_markIf_beside _ _ (Field.ok_of _ rfl) (Field.ok_of _ rfl) rfl]
    exact c.get_put_ne _ _ _ (FLT_CNT_ne_SRC e.src).symm

end

theorem Counted.judged {e : Event} {b c : Chip} (h : Counted e b c) (low : e.src < 0xFC) : JudgedAlike e b c := by
  obtain ⟨code, number, time⟩ := h.regs.judged_config
  have config := h.regs.config low
  have faults : c.faults = b.faults := h.only.same .faults (by decide)
  have now : c.now = b.now := h.only.same .now (by decide)
  have effective : c.effCode e = b.effCode e := by unfold Chip.effCode; rw [code]
  have opened : c.windowOpen e.src = b.windowOpen e.src := by unfold Chip.windowOpen; rw [faults, now, time]
  have counted : c.windowCount e.src = b.windowCount e.src := by unfold Chip.windowCount; rw [opened, h.window]
  have on : c.axisOn = b.axisOn := funext fun a => config.axisOn a
  have range : c.flag RNG_CFG_EN = b.flag RNG_CFG_EN := Chip.flag_of_get (config _ (by decide))
  refine ⟨by unfold Chip.severe; rw [faults], effective, ?_, opened, counted, ?_⟩
  · unfold Chip.reactionMask
    rw [effective, config.targets e, on]
  · unfold Chip.becomesSevere Chip.compact
    rw [on, range, number, counted]

/-! ### The tick's own marks -/

section
variable (c : Chip) (e : Event)

/-- The marks of a tick whose one event is `e`. -/
def Chip.sampledOne : Chip := { c with faults := { c.faults with
  events := [], sampled := [e], risen := [], sampledTick := some c.now } }

theorem Chip.tickEvents_one (one : c.faults.events = [e]) (low : e.src < 0xFC) : c.tickEvents = [e] := by
  simp [Chip.tickEvents, one, low, mergeEvent]

theorem Chip.takeSevere_none : c.takeSevere [] = c := by
  unfold Chip.takeSevere Chip.capture1
  simp [Chip.each]

variable {c e} (runs : c.clockRuns = true) (new : c.faults.sampledTick ≠ some c.now) (one : c.faults.events = [e]) (low : e.src < 0xFC)
include runs new one low

theorem Chip.collect_one : c.collect =
    (let x := Chip.judgeSource (c.countEvent e, []) e
     if x.2.any fun l => decide (2 ≤ l.code) then ((x.1.sampledOne e).takeSevere x.2).obeyLines else (x.1.sampledOne e).takeSevere x.2) := by
  have first : (!c.clockRuns || c.faults.sampledTick == some c.now) = false := by simp [runs, new]
  unfold Chip.collect
  rw [if_neg (by simp [first]), c.tickEvents_one e one low]
  rfl

theorem Chip.collect_latched (already : c.severe e.src = true) : c.collect = (c.countEvent e).sampledOne e := by
  have alike := (Counted.countEvent c e).judged low
  have judged : Chip.judgeSource (c.countEvent e, []) e = (c.countEvent e, []) := by
    unfold Chip.judgeSource
    exact if_pos (alike.severe.trans already)
  rw [Chip.collect_one runs new one low, judged]
  exact Chip.takeSevere_none _

theorem Chip.collect_counted (free : c.severe e.src = false) (calm : c.becomesSevere e = false) :
    c.collect = ((c.countEvent e).countWindow e.src (c.windowCount e.src + e.count)).sampledOne e := by
  have alike := (Counted.countEvent c e).judged low
  have judged : Chip.judgeSource (c.countEvent e, []) e = ((c.countEvent e).countWindow e.src (c.windowCount e.src + e.count), []) := by
    unfold Chip.judgeSource
    dsimp only
    rw [if_neg (by simp [alike.severe, free]), if_neg (by simp [alike.becomes, calm]), alike.count]
  rw [Chip.collect_one runs new one low, judged]
  exact Chip.takeSevere_none _

theorem Chip.collect_risen (free : c.severe e.src = false) (rises : c.becomesSevere e = true) :
    c.collect = (let x : Latch := ⟨e.src, c.effCode e, c.reactionMask e⟩
      let d := (((c.countEvent e).closeWindow e.src).sampledOne e).takeSevere [x]
      if 2 ≤ c.effCode e then d.obeyLines else d) := by
  have alike := (Counted.countEvent c e).judged low
  have judged : Chip.judgeSource (c.countEvent e, []) e =
      ((c.countEvent e).closeWindow e.src, [⟨e.src, c.effCode e, c.reactionMask e⟩]) := by
    unfold Chip.judgeSource
    dsimp only
    rw [if_neg (by simp [alike.severe, free]), if_pos (alike.becomes.trans rises), alike.code, alike.mask, List.nil_append]
  rw [Chip.collect_one runs new one low, judged]
  simp only [List.any_cons, List.any_nil, Bool.or_false, decide_eq_true_eq]

end

/-! ### The window of a source (R277) -/

section
variable (c : Chip) (s : Nat)

/-- What a change of a source's window leaves. -/
structure WindowSet (s n : Nat) (w : List (Nat × Nat)) (b c : Chip) : Prop where
  regs : RegsBut [FLT_SRC s] b c
  fields : FieldsBut [FLT_SRC_WCNT s] b c
  value : c.get (FLT_SRC_WCNT s) = n
  faults : c.faults = { b.faults with windows := w }
  only : Only [.regs, .faults] b c

theorem WindowSet.closeWindow : WindowSet s 0 (c.faults.windows.filter (·.1 != s)) c (c.closeWindow s) :=
  ⟨c.closeWindow_regsBut s, ((FieldsBut.refl _ c).put _ _ (Field.ok_of _ rfl) List.mem_cons_self).of_regs rfl, Chip.get_put_fit c _ 0 rfl, rfl,
    .of_mix rfl⟩

/-- The open windows once one of the source is open. -/
def Chip.windowsWith : List (Nat × Nat) :=
  if c.windowOpen s then c.faults.windows else c.faults.windows.filter (·.1 != s) ++ [(s, c.now)]

/-- The chip in which a window of the source is open. -/
def Chip.windowOpened : Chip :=
  if c.windowOpen s then c
  else { c.closeWindow s with faults := { (c.closeWindow s).faults with windows := (c.closeWindow s).faults.windows ++ [(s, (c.closeWindow s).now)] } }

theorem Chip.windowOpened_frame : FieldsBut [FLT_SRC_WCNT s] c (c.windowOpened s) ∧
    (c.windowOpened s).faults = { c.faults with windows := c.windowsWith s } ∧ Only [.regs, .faults] c (c.windowOpened s) := by
  unfold Chip.windowOpened Chip.windowsWith
  split
  · exact ⟨.refl _ c, rfl, .refl _ c⟩
  · exact ⟨((FieldsBut.refl _ c).put _ _ (Field.ok_of _ rfl) List.mem_cons_self).of_regs rfl, rfl, .of_mix rfl⟩

theorem WindowSet.countWindow {n : Nat} (small : n < 256) : WindowSet s n (c.windowsWith s) c (c.countWindow s n) := by
  obtain ⟨fields, faults, only⟩ := c.windowOpened_frame s
  have run : c.countWindow s n = (c.windowOpened s).put (FLT_SRC_WCNT s) n := rfl
  have regs := c.countWindow_regsBut s n
  rw [run] at regs ⊢
  exact ⟨regs, fields.put _ _ (Field.ok_of _ rfl) List.mem_cons_self, Chip.get_put_lt _ _ (Field.ok_of _ rfl) n small, faults, only.then (.put ..)⟩

theorem WindowSet.apart {s n : Nat} {w : List (Nat × Nat)} {b c : Chip} (h : WindowSet s n w b c) :
    c.get (FLT_CNT_EVENTS s) = b.get (FLT_CNT_EVENTS s) ∧ c.flag (FLT_SRC_INJ s) = b.flag (FLT_SRC_INJ s) := by
  refine ⟨h.regs.get (g := FLT_CNT_EVENTS s) fun mem => FLT_CNT_ne_SRC s (List.mem_singleton.mp mem), Chip.flag_of_get (h.fields _ (Field.ok_of _ rfl) fun f hf => ?_)⟩
  rw [List.mem_singleton.mp hf]
  exact Field.apart_of _ _ rfl

/-- The window that an event opened, or that was open, is open. -/
theorem Chip.windowOpen_of {b c : Chip} (faults : c.faults.windows = b.windowsWith s) (now : c.now = b.now)
    (time : c.get (FLT_CFG_T s) = b.get (FLT_CFG_T s)) : c.windowOpen s = true := by
  by_cases was : b.windowOpen s = true
  · have all : c.windowOpen s = b.windowOpen s := by
      unfold Chip.windowOpen
      rw [faults, now, time, Chip.windowsWith, if_pos was]
    exact all.trans was
  · unfold Chip.windowOpen
    rw [faults, now, Chip.windowsWith, if_neg was, List.any_append]
    simp

end

/-! ### The reaction, the first capture and the range's queue (R281, R286 to R289, R360) -/

section
variable (c : Chip) (x : Latch)

theorem Only.chopStop (r : Region) : Only [.regs, .buses] c (c.chopStop r) := (BusAt.chopStop c r).only

theorem Only.fireOff : Only [.regs, .buses] c c.fireOff := .each c _ fun d r _ => (Only.chopStop d r).then (.setBus ..)

theorem RegsOf.fireOff : RegsOf (· < 0x0D0000) c c.fireOff := by
  refine .each c _ fun d r _ => .trans (.of_regsBut (d.chopStop_regsBut r) ?_) (.of_regs (Chip.setBus_regs ..))
  simp only [List.mem_singleton, forall_eq, BUS_STAT]
  omega

/-- What the reaction of a severe source leaves. -/
structure Reacted (x : Latch) (b c : Chip) : Prop where
  faults : c.faults = { b.faults with latched := b.faults.latched ++ [x], fire := b.faults.fire || x.code == 6 }
  low : RegsOf (· < 0x080000) b c
  only : Only [.regs, .legs, .axes, .buses, .faults] b c
  off : 2 ≤ x.code → ∀ a : Axis, x.mask.getLsbD a.val = true → c.modeOf a = 0 ∧ c.get (AX_MSTAT_REACTED a.val) = 1
  mild : x.code < 2 → Only [.faults] b c

/-- The source is latched. -/
def Chip.latches : Chip := { c with faults := { c.faults with latched := c.faults.latched ++ [x], fire := c.faults.fire || x.code == 6 } }

theorem Reacted.react : Reacted x c (c.react x) := by
  have latched : Only [.faults] c (c.latches x) := .of_mix rfl
  have noted : (c.latches x).faults = { c.faults with latched := c.faults.latched ++ [x], fire := c.faults.fire || x.code == 6 } := rfl
  have run : c.react x = (if x.code = 6 then (if 2 ≤ x.code then (c.latches x).each (axesIn x.mask) Chip.reactOff else c.latches x).fireOff
      else if 2 ≤ x.code then (c.latches x).each (axesIn x.mask) Chip.reactOff else c.latches x) := rfl
  rw [run]
  generalize c.latches x = d at latched noted
  by_cases acts : 2 ≤ x.code
  · rw [if_pos acts]
    have low : RegsOf (· < 0x080000) d (d.each (axesIn x.mask) Chip.reactOff) :=
      .each d _ fun e a _ => .of_regsBut (e.reactOff_regsBut a) fun y hy => by have := offRegs_low hy; omega
    have only : Only [.regs, .legs, .axes] d (d.each (axesIn x.mask) Chip.reactOff) := .each d _ fun e a _ => .reactOff e a
    have off (a : Axis) (hit : x.mask.getLsbD a.val = true) := Chip.each_reactOff_mode d a (axesIn x.mask)
      (List.mem_filter.mpr ⟨List.mem_finRange a, hit⟩)
    generalize d.each (axesIn x.mask) Chip.reactOff = f at *
    have start : RegsOf (· < 0x080000) c d := .of_regs (latched.same .regs (by decide))
    have kept : f.faults = d.faults := only.same .faults (by decide)
    have sofar : Only [.regs, .legs, .axes, .buses, .faults] c f := latched.mono.trans only.mono
    split
    · have fire := RegsOf.fireOff f
      have fired := Only.fireOff f
      have same : f.fireOff.faults = f.faults := fired.same .faults (by decide)
      refine ⟨same.trans (kept.trans noted), (start.trans low).trans ⟨fun y hy => fire.reg y (by omega)⟩, sofar.trans fired.mono, fun _ a hit => ?_,
        fun mild => absurd mild (by omega)⟩
      have get (g : Field) (addr : g.addr = AX_MSTAT a.val) : f.fireOff.get g = f.get g := fire.get g (by simp only [addr, AX_MSTAT]; omega)
      exact ⟨(get (AX_MSTAT_MODE a.val) rfl).trans (off a hit).1, (get (AX_MSTAT_REACTED a.val) rfl).trans (off a hit).2⟩
    · exact ⟨kept.trans noted, start.trans low, sofar, fun _ => off, fun mild => absurd mild (by omega)⟩
  · rw [if_neg acts, if_neg (by omega)]
    exact ⟨noted, .of_regs (latched.same .regs (by decide)), latched.mono, fun act => absurd act acts, fun _ => latched⟩

/-- What the first capture leaves of a source's latch. -/
structure FirstTaken (x : Latch) (b c : Chip) : Prop where
  faults : c.faults = { b.faults with firstTick := c.faults.firstTick, beaconTick := c.faults.beaconTick }
  regs : RegsBut (BEACON_CTL :: LOG_STATUS :: firstRegs) b c
  only : Only [.regs, .fresh, .nvc, .faults] b c
  empty : b.flag FLT_FIRST_VALID = false →
    c.get FLT_FIRST_VALID = 1 ∧ c.get FLT_FIRST_SRC = x.src % 256 ∧ c.get FLT_FIRST_CODE = x.code % 8 ∧
    c.get FLT_FIRST_SAME_TICK = 0 ∧ c.get FLT_FIRST_OVF = 0 ∧ c.get64 FLT_FIRSTT = b.wall % 2 ^ 64 ∧ c.flag BEACON_CTL_PULSING = true
  full : b.flag FLT_FIRST_VALID = true →
    c.get FLT_FIRST_OVF = 1 ∧ c.get FLT_FIRST_SRC = b.get FLT_FIRST_SRC ∧ c.get FLT_FIRST_CODE = b.get FLT_FIRST_CODE ∧
    c.get64 FLT_FIRSTT = b.get64 FLT_FIRSTT

theorem Chip.beaconPulse_frame : RegsBut [BEACON_CTL] c c.beaconPulse ∧ Only [.regs, .faults] c c.beaconPulse ∧
    c.beaconPulse.faults = { c.faults with beaconTick := c.now } ∧ c.beaconPulse.flag BEACON_CTL_PULSING = true :=
  ⟨((RegsBut.refl _ c).put BEACON_CTL_PULSING 1 List.mem_cons_self).of_regs rfl, .of_mix rfl, rfl, c.flag_putF _ (Field.ok_of _ rfl) true⟩

theorem FirstTaken.full_of (full : c.flag FLT_FIRST_VALID = true) : FirstTaken x c (c.capture1 [x]) := by
  have noted : RegsBut (BEACON_CTL :: LOG_STATUS :: firstRegs) c (c.put FLT_FIRST_OVF 1) := (RegsBut.refl _ c).put FLT_FIRST_OVF 1 (by decide)
  have overrun : (c.put FLT_FIRST_OVF 1).get FLT_FIRST_OVF = 1 := Chip.get_put_fit c _ 1 rfl
  have src : (c.put FLT_FIRST_OVF 1).get FLT_FIRST_SRC = c.get FLT_FIRST_SRC := Chip.get_put_beside _ _ _ _ rfl
  have code : (c.put FLT_FIRST_OVF 1).get FLT_FIRST_CODE = c.get FLT_FIRST_CODE := Chip.get_put_beside _ _ _ _ rfl
  have tick : (c.put FLT_FIRST_OVF 1).get64 FLT_FIRSTT = c.get64 FLT_FIRSTT :=
    Chip.get64_congr (Chip.reg_put_ne _ _ _ (by decide)) (Chip.reg_put_ne _ _ _ (by decide))
  have only : Only [.regs, .fresh, .nvc, .faults] c (c.put FLT_FIRST_OVF 1) := (Only.put ..).mono
  have faults : (c.put FLT_FIRST_OVF 1).faults = c.faults := rfl
  have run : c.capture1 [x] = (if [x].any (fun y => isChopper y.src) then (c.put FLT_FIRST_OVF 1).beaconPulse else c.put FLT_FIRST_OVF 1) := by
    unfold Chip.capture1
    rw [if_neg (by simp), if_pos full]
  rw [run]
  generalize c.put FLT_FIRST_OVF 1 = d at *
  obtain ⟨regs, pulsed, beacon, -⟩ := d.beaconPulse_frame
  split
  · have get (g : Field) (addr : g.addr = FLT_FIRST) : d.beaconPulse.get g = d.get g := regs.get (by rw [addr]; decide)
    refine ⟨by rw [beacon, faults], noted.trans (regs.mono (by decide)), only.trans pulsed.mono, fun empty => absurd full (by simp [empty]),
      fun _ => ⟨(get _ rfl).trans overrun, (get _ rfl).trans src, (get _ rfl).trans code, Eq.trans ?_ tick⟩⟩
    exact Chip.get64_congr (regs _ (by decide)) (regs _ (by decide))
  · exact ⟨by rw [faults], noted, only, fun empty => absurd full (by simp [empty]), fun _ => ⟨overrun, src, code, tick⟩⟩

theorem Only.firstNoted (l : List Latch) : Only [.regs, .faults] c (c.firstNoted x l) ∧
    (c.firstNoted x l).faults = { c.faults with firstTick := some c.now } := by
  have shown : Only [.regs] c (c.firstShown x l) := (((Only.refl _ c).then (.setReg ..)).then (.put64 ..)).then (.stvecs ..)
  have faults : (c.firstShown x l).faults = c.faults := shown.same .faults (by decide)
  have now : (c.firstShown x l).now = c.now := shown.same .now (by decide)
  unfold Chip.firstNoted
  generalize c.firstShown x l = d at *
  exact ⟨(shown.mono : Only [.regs, .faults] c d).trans (.of_mix rfl), by rw [faults, now]⟩

theorem FirstTaken.empty_of (empty : c.flag FLT_FIRST_VALID = false) : FirstTaken x c (c.capture1 [x]) := by
  have won : winner [x] = some x := rfl
  have run : c.capture1 [x] = c.fillFirst [x] := by
    unfold Chip.capture1
    rw [if_neg (by simp), if_neg (by simp [empty])]
  have shown {y : Nat} (hy : y ≠ BEACON_CTL ∧ y ≠ LOG_STATUS) : (c.fillFirst [x]).reg y = (c.firstShown x [x]).reg y := c.fillFirst_reg won hy
  have outside {y : Nat} (hy : y ∉ firstRegs) : (c.firstShown x [x]).reg y = c.reg y := by
    have far : y ≠ FLT_FIRST ∧ y ≠ FLT_FIRSTT ∧ y ≠ FLT_FIRSTT + 4 :=
      ⟨fun e => hy (e ▸ List.mem_cons_self), fun e => hy (e ▸ by decide), fun e => hy (e ▸ by decide)⟩
    unfold Chip.firstShown
    rw [Chip.stvecs_reg_ne (x := y) _ _ fun k hk e => hy (e ▸ stvec_mem hk), Chip.reg_put64_ne _ _ far.2.1 far.2.2, Chip.reg_setReg_ne _ _ far.1]
  have first (f : Field) (addr : f.addr = FLT_FIRST) : (c.fillFirst [x]).get f = f.read (firstWord x false) :=
    (congrArg f.read (shown (by rw [addr]; decide))).trans (c.firstShown_get x [x] addr)
  have packed {f : Field} {v : Nat} (h : (f, v) ∈ [(FLT_FIRST_VALID, 1), (FLT_FIRST_SAME_TICK, false.toNat), (FLT_FIRST_CODE, x.code),
      (FLT_FIRST_SRC, x.src)]) : f.read (firstWord x false) = v % 2 ^ (f.hi + 1 - f.lo) := Field.read_packFields_mod rfl h
  have tick : (c.fillFirst [x]).get64 FLT_FIRSTT = c.wall % 2 ^ 64 :=
    (Chip.get64_congr (shown (by decide)) (shown (by decide))).trans (c.firstShown_tick x [x])
  obtain ⟨noted, marked⟩ := Only.firstNoted c x [x]
  obtain ⟨-, pulsed, beacon, pulsing⟩ := (c.firstNoted x [x]).beaconPulse_frame
  have log := Only.logArise (c.firstNoted x [x]).beaconPulse 5
    (BitVec.ofNat 32 (x.src + 256 * x.code + 2048 * (decide (1 < [x].length)).toNat))
    (sourceWord (if decide (1 < [x].length) then [x].map (·.src) else []) 0) 0
  have logRegs := (c.firstNoted x [x]).beaconPulse.logArise_regsBut 5
    (BitVec.ofNat 32 (x.src + 256 * x.code + 2048 * (decide (1 < [x].length)).toNat))
    (sourceWord (if decide (1 < [x].length) then [x].map (·.src) else []) 0) 0
  rw [run]
  refine ⟨?_, fun y hy => ?_, ?_, fun _ => ⟨?_, ?_, ?_, ?_, ?_, tick, ?_⟩, fun full => absurd full (by simp [empty])⟩
  · have same : (c.fillFirst [x]).faults = (c.firstNoted x [x]).beaconPulse.faults := by
      rw [c.fillFirst_eq won]
      exact log.same .faults (by decide)
    rw [same, beacon, marked]
  · simp only [List.mem_cons, not_or] at hy
    exact (shown ⟨hy.1, hy.2.1⟩).trans (outside (by simpa [firstRegs] using hy.2.2))
  · rw [c.fillFirst_eq won]
    exact (noted.mono.trans pulsed.mono).trans log.mono
  · exact (first _ rfl).trans (packed (f := FLT_FIRST_VALID) (v := 1) List.mem_cons_self)
  · exact (first _ rfl).trans (packed (f := FLT_FIRST_SRC) (v := x.src) (by simp))
  · exact (first _ rfl).trans (packed (f := FLT_FIRST_CODE) (v := x.code) (by simp))
  · exact (first _ rfl).trans (packed (f := FLT_FIRST_SAME_TICK) (v := false.toNat) (by simp))
  · exact (first _ rfl).trans (Field.read_packFields_out rfl)
  · rw [c.fillFirst_eq won]
    exact (Chip.flag_of_get (logRegs.get (by decide))).trans pulsing

theorem FirstTaken.capture1 : FirstTaken x c (c.capture1 [x]) := by
  cases first : c.flag FLT_FIRST_VALID with
  | false => exact .empty_of c x first
  | true => exact .full_of c x first

/-- What the range's queue takes of a source's latch. -/
structure Queued (x : Latch) (b c : Chip) : Prop where
  regs : RegsBut [RNG_STAT] b c
  only : Only [.regs, .fresh, .rng] b c
  joins : b.flag RNG_CFG_EN = true → x.src ≠ 0xFB → b.rng.faultQ.length < 8 →
    c.rng = { b.rng with faultQ := b.rng.faultQ ++ [⟨x.src, x.code, b.wall⟩] }
  merges : b.flag RNG_CFG_EN = true → x.src ≠ 0xFB → 8 ≤ b.rng.faultQ.length →
    c.get RNG_STAT_FQOVF = 1 ∧ c.rng.faultQ.length = b.rng.faultQ.length
  stays : b.flag RNG_CFG_EN = false ∨ x.src = 0xFB → c.rng = b.rng

theorem Queued.propagate : Queued x c (c.propagate x) := by
  have regs := c.propagate_regsBut x
  have marked : Only [.regs, .fresh] c (c.mark RNG_STAT_FQOVF) := .mark ..
  have overrun : (c.mark RNG_STAT_FQOVF).get RNG_STAT_FQOVF = 1 := c.get_mark _ (Field.ok_of _ rfl)
  have rng : (c.mark RNG_STAT_FQOVF).rng = c.rng := rfl
  unfold Chip.propagate at *
  dsimp only at *
  generalize c.mark RNG_STAT_FQOVF = d at *
  by_cases silent : x.src = 0xFB ∨ c.flag RNG_CFG_EN = false
  · rw [if_pos (by simpa using silent)] at regs ⊢
    refine ⟨regs, .refl _ c, fun on own => ?_, fun on own => ?_, fun _ => rfl⟩
    · rcases silent with h | h
      · exact absurd h own
      · exact absurd on (by simp [h])
    · rcases silent with h | h
      · exact absurd h own
      · exact absurd on (by simp [h])
  · have told : ¬(c.flag RNG_CFG_EN = false ∨ x.src = 0xFB) := fun h => silent h.symm
    rw [if_neg (by simpa using silent)] at regs ⊢
    by_cases room : c.rng.faultQ.length < 8
    · rw [if_pos room] at regs ⊢
      exact ⟨regs, .of_mix rfl, fun _ _ _ => rfl, fun _ _ full => absurd room (by omega), fun h => absurd h told⟩
    · rw [if_neg room] at regs ⊢
      have kept : Only [.regs, .fresh, .rng] c d := marked.mono
      cases last : c.rng.faultQ.getLast? with
      | none =>
        rw [last] at regs
        exact ⟨regs, kept, fun _ _ few => absurd few room, fun _ _ _ => ⟨overrun, by rw [rng]⟩, fun h => absurd h told⟩
      | some y =>
        rw [last] at regs
        have length : (c.rng.faultQ.dropLast ++ [(⟨x.src, x.code, c.wall⟩ : FaultMsg)]).length = c.rng.faultQ.length := by
          rw [List.length_append, List.length_dropLast, List.length_singleton]
          omega
        by_cases worse : y.code < x.code
        · simp only [worse, if_true] at regs ⊢
          exact ⟨regs, kept.trans (.of_mix rfl), fun _ _ few => absurd few room, fun _ _ _ => ⟨overrun, length⟩, fun h => absurd h told⟩
        · simp only [worse, if_false] at regs ⊢
          exact ⟨regs, kept, fun _ _ few => absurd few room, fun _ _ _ => ⟨overrun, by rw [rng]⟩, fun h => absurd h told⟩

end

/-! ### The legs under the lines (R22, R96) -/

/-- A leg under a line obeys it. -/
def Chip.ObeysLine (c : Chip) (l : Leg) : Prop :=
  (c.legReact l = 1 → (c.leg l).ghOn = false ∧ (c.leg l).glCmd = true ∧ (c.leg l).awaitDuty = true) ∧
  (2 ≤ c.legReact l → (c.leg l).ghOn = false ∧ (c.leg l).glOn = false ∧ (c.leg l).awaitDuty = true)

section
variable (c : Chip)

theorem Chip.obeyLeg_obeys (l : Leg) : (c.obeyLeg l).ObeysLine l := by
  have line : (c.obeyLeg l).legReact l = c.legReact l := (LegAt.obeyLeg c l).only.legReact l
  refine ⟨fun short => ?_, fun curtain => ?_⟩
  · have run : c.obeyLeg l = c.underLine l (some .low) := by
      rw [Chip.obeyLeg, ← line, short] <;> rfl
    obtain ⟨low, -, high, -⟩ := c.gates_some l .low
    rw [run, Chip.underLine, Chip.leg_setLeg]
    exact ⟨high, low, rfl⟩
  · have run : c.obeyLeg l = c.underLine l none := by
      rw [Chip.obeyLeg, ← line]
      obtain ⟨n, hn⟩ := Nat.exists_eq_add_of_le curtain
      rw [hn, Nat.add_comm] <;> rfl
    rw [run, Chip.underLine, Chip.leg_setLeg]
    exact ⟨(c.gates_none l .high).2.1, (c.gates_none l .low).2.1, rfl⟩

theorem Chip.obeyLines_obeys (l : Leg) : c.obeyLines.ObeysLine l := by
  refine Chip.each_holds (P := fun d : Chip => d.ObeysLine l) c allLegs (List.mem_finRange l) (fun d => d.obeyLeg_obeys l) fun d k other hd => ?_
  unfold Chip.ObeysLine
  rw [(LegAt.obeyLeg d k).only.legReact l, (LegAt.obeyLeg d k).frame.1 l other.symm]
  exact hd

/-- The legs obey the lines where the reaction acts. -/
def Chip.obeyIf (code : Nat) : Chip := if 2 ≤ code then c.obeyLines else c

theorem Chip.obeyIf_frame (code : Nat) : Only [.legs] c (c.obeyIf code) ∧ (code < 2 → c.obeyIf code = c) ∧
    (2 ≤ code → ∀ l, (c.obeyIf code).ObeysLine l) := by
  unfold Chip.obeyIf
  split
  next acts => exact ⟨.obeyLines c, fun mild => absurd acts (by omega), fun _ l => c.obeyLines_obeys l⟩
  next rests => exact ⟨.refl _ c, fun _ => rfl, fun acts => absurd acts rests⟩

/-- A latched source's line governs the legs of its axes. -/
theorem Chip.legReact_latched {x : Latch} (latched : x ∈ c.faults.latched) (l : Leg) (hit : x.mask.getLsbD (axisOfLeg l).val = true) :
    (x.code = 3 → c.legReact l ≠ 0) ∧ (x.code = 4 ∨ x.code = 5 → 2 ≤ c.legReact l) := by
  have line (lo hi : Nat) (h : lo ≤ x.code ∧ x.code ≤ hi) : c.reacted (axisOfLeg l) lo hi = true :=
    List.any_eq_true.mpr ⟨x, latched, by simp [h.1, h.2, hit]⟩
  refine ⟨fun short => ?_, fun curtain => ?_⟩
  · have on : c.short (axisOfLeg l) = true := by simp [Chip.short, line 3 3 (by omega)]
    unfold Chip.legReact
    rw [if_pos on]
    split
    · decide
    · split <;> decide
  · have on : c.curtain (axisOfLeg l) = true := by simp [Chip.curtain, line 4 5 (by omega)]
    unfold Chip.legReact
    rw [if_pos on]
    split <;> decide

/-! ### A source that becomes severe (R281, R286, R360) -/

/-- The registers of the first capture, of BEACON, of the records and of the range. -/
def captureRegs : List Nat := RNG_STAT :: BEACON_CTL :: LOG_STATUS :: firstRegs

/-- What one severe source of a tick leaves. -/
structure Taken (x : Latch) (b c : Chip) : Prop where
  faults : c.faults = { b.faults with
    latched := b.faults.latched ++ [x], fire := b.faults.fire || x.code == 6, risen := b.faults.risen ++ [x],
    firstTick := c.faults.firstTick, beaconTick := c.faults.beaconTick }
  own : RegsOf (fun y => y < 0x080000 ∧ y ∉ captureRegs) b c
  mild : x.code < 2 → RegsBut captureRegs b c ∧ Only [.regs, .fresh, .nvc, .faults, .rng] b c
  off : 2 ≤ x.code → ∀ a : Axis, x.mask.getLsbD a.val = true → c.modeOf a = 0 ∧ c.get (AX_MSTAT_REACTED a.val) = 1
  empty : b.flag FLT_FIRST_VALID = false →
    c.get FLT_FIRST_VALID = 1 ∧ c.get FLT_FIRST_SRC = x.src % 256 ∧ c.get FLT_FIRST_CODE = x.code % 8 ∧
    c.get FLT_FIRST_SAME_TICK = 0 ∧ c.get FLT_FIRST_OVF = 0 ∧ c.get64 FLT_FIRSTT = b.wall % 2 ^ 64 ∧ c.flag BEACON_CTL_PULSING = true
  full : b.flag FLT_FIRST_VALID = true →
    c.get FLT_FIRST_OVF = 1 ∧ c.get FLT_FIRST_SRC = b.get FLT_FIRST_SRC ∧ c.get FLT_FIRST_CODE = b.get FLT_FIRST_CODE ∧
    c.get64 FLT_FIRSTT = b.get64 FLT_FIRSTT
  joins : b.flag RNG_CFG_EN = true → x.src ≠ 0xFB → b.rng.faultQ.length < 8 →
    c.rng = { b.rng with faultQ := b.rng.faultQ ++ [⟨x.src, x.code, b.wall⟩] }
  merges : b.flag RNG_CFG_EN = true → x.src ≠ 0xFB → 8 ≤ b.rng.faultQ.length →
    c.get RNG_STAT_FQOVF = 1 ∧ c.rng.faultQ.length = b.rng.faultQ.length
  stays : b.flag RNG_CFG_EN = false ∨ x.src = 0xFB → c.rng = b.rng

/-- The source is noted as one that became severe in this tick. -/
def Chip.rises (x : Latch) : Chip := { c with faults := { c.faults with risen := c.faults.risen ++ [x] } }

theorem Chip.takeSevere_one (x : Latch) : c.takeSevere [x] = ((((c.react x).capture1 [x]).propagate x).rises x) := rfl

theorem Taken.takeSevere (x : Latch) : Taken x c (c.takeSevere [x]) := by
  rw [Chip.takeSevere_one]
  have reacted := Reacted.react c x
  generalize c.react x = d at *
  have taken := FirstTaken.capture1 d x
  generalize d.capture1 [x] = e at *
  have queued := Queued.propagate e x
  generalize e.propagate x = f at *
  have risen : Only [.faults] f (f.rises x) := .of_mix rfl
  have marked : (f.rises x).faults = { f.faults with risen := f.faults.risen ++ [x] } := rfl
  generalize f.rises x = g at *
  have last : g.regs = f.regs := risen.same .regs (by decide)
  have kept : f.faults = e.faults := queued.only.same .faults (by decide)
  have wall : e.wall = c.wall := Eq.trans (b := d.wall) (taken.only.same .wall (by decide)) (reacted.only.same .wall (by decide))
  have walls : d.wall = c.wall := reacted.only.same .wall (by decide)
  have rng : g.rng = f.rng := risen.same .rng (by decide)
  have queue : e.rng = c.rng := Eq.trans (b := d.rng) (taken.only.same .rng (by decide)) (reacted.only.same .rng (by decide))
  have after (y : Nat) (out : y ≠ RNG_STAT) : g.reg y = e.reg y := (Chip.reg_of_regs last y).trans (queued.regs y (by simpa using out))
  have shown (y : Nat) (out : y ∉ captureRegs) : g.reg y = d.reg y := by
    simp only [captureRegs, List.mem_cons, not_or] at out
    exact (after y out.1).trans (taken.regs y (by simpa only [List.mem_cons, not_or] using out.2))
  have low (k : Field) (small : k.addr < 0x080000) : d.get k = c.get k := reacted.low.get k small
  have first : d.flag FLT_FIRST_VALID = c.flag FLT_FIRST_VALID := Chip.flag_of_get (low _ (by decide))
  have late (k : Field) (out : k.addr ≠ RNG_STAT) : g.get k = e.get k := congrArg k.read (after k.addr out)
  have tick : g.get64 FLT_FIRSTT = e.get64 FLT_FIRSTT := Chip.get64_congr (after _ (by decide)) (after _ (by decide))
  have range : e.flag RNG_CFG_EN = c.flag RNG_CFG_EN :=
    Chip.flag_of_get ((taken.regs.get (by decide)).trans (low _ (by decide)))
  refine ⟨?_, ⟨fun y hy => (shown y hy.2).trans (reacted.low.reg y hy.1)⟩, fun mild => ⟨fun y out => ?_, ?_⟩, fun acts a hit => ?_, fun empty => ?_,
    fun full => ?_, fun on own room => ?_, fun on own full => ?_, fun silent => ?_⟩
  · rw [marked, kept, taken.faults, reacted.faults]
  · exact (shown y out).trans (Chip.reg_of_regs ((reacted.mild mild).same .regs (by decide)) y)
  · exact ((reacted.mild mild).mono.trans taken.only.mono).trans (queued.only.mono.trans risen.mono)
  · obtain ⟨mode, shownOff⟩ := reacted.off acts a hit
    have out : AX_MSTAT a.val ∉ captureRegs := by
      have small : ∀ y ∈ captureRegs, y < 0x080000 := by decide
      intro mem
      have := small _ mem
      simp only [AX_MSTAT] at this
      omega
    exact ⟨(congrArg (AX_MSTAT_MODE a.val).read (shown _ out)).trans mode, (congrArg (AX_MSTAT_REACTED a.val).read (shown _ out)).trans shownOff⟩
  · obtain ⟨valid, src, code, alone, ovf, at', pulsing⟩ := taken.empty (first.trans empty)
    exact ⟨(late _ (by decide)).trans valid, (late _ (by decide)).trans src, (late _ (by decide)).trans code, (late _ (by decide)).trans alone,
      (late _ (by decide)).trans ovf, tick.trans (at'.trans (by rw [walls])), (Chip.flag_of_get (late _ (by decide))).trans pulsing⟩
  · obtain ⟨ovf, src, code, at'⟩ := taken.full (first.trans full)
    refine ⟨(late _ (by decide)).trans ovf, (late _ (by decide)).trans (src.trans (low _ (by decide))),
      (late _ (by decide)).trans (code.trans (low _ (by decide))), tick.trans (at'.trans ?_)⟩
    exact Chip.get64_congr (reacted.low.reg _ (by decide)) (reacted.low.reg _ (by decide))
  · rw [rng, queued.joins (range.trans on) own (by rw [queue]; exact room), queue, wall]
  · obtain ⟨overflow, length⟩ := queued.merges (range.trans on) own (by rw [queue]; exact full)
    exact ⟨(Chip.get_of_regs last _).trans overflow, by rw [rng, length, queue]⟩
  · rw [rng, queued.stays (silent.imp_left range.trans), queue]

end

/-! ### The three outcomes of an event (R277, R280, R281) -/

/-- The event is counted, and the tick has taken it. -/
structure TickCounted (e : Event) (b c : Chip) : Prop where
  count : c.get (FLT_CNT_EVENTS e.src) = min (b.get (FLT_CNT_EVENTS e.src) + e.count) (2 ^ 32 - 1)
  inj : e.inj = true → c.flag (FLT_SRC_INJ e.src) = true
  events : c.faults.events = []

section
variable {c : Chip} {e : Event}

theorem Chip.sampledOne_frame (c : Chip) (e : Event) : Only [.faults] c (c.sampledOne e) ∧ (c.sampledOne e).faults =
    { c.faults with events := [], sampled := [e], risen := [], sampledTick := some c.now } := ⟨.of_mix rfl, rfl⟩

variable (runs : c.clockRuns = true) (new : c.faults.sampledTick ≠ some c.now) (one : c.faults.events = [e]) (low : e.src < 0xFC)
include runs new one low

theorem collect_latched_all (already : c.severe e.src = true) : TickCounted e c c.collect ∧
    RegsBut [FLT_CNT e.src, FLT_SRC e.src] c c.collect ∧ c.collect.get (FLT_SRC_WCNT e.src) = c.get (FLT_SRC_WCNT e.src) ∧
    c.collect = { c with regs := c.collect.regs, fresh := c.collect.fresh, faults := { c.faults with
      events := [], sampled := [e], risen := [], sampledTick := some c.now } } := by
  rw [Chip.collect_latched runs new one low already]
  have counted := Counted.countEvent c e
  generalize c.countEvent e = d at *
  obtain ⟨only, faults⟩ := d.sampledOne_frame e
  generalize d.sampledOne e = f at *
  have same : f.regs = d.regs := only.same .regs (by decide)
  have kept : d.faults = c.faults := counted.only.same .faults (by decide)
  have now : d.now = c.now := counted.only.same .now (by decide)
  rw [kept, now] at faults
  have all : Only [.regs, .fresh, .faults] c f := counted.only.mono.trans only.mono
  exact ⟨⟨(Chip.get_of_regs same _).trans counted.count, fun inj => (Chip.flag_of_get (Chip.get_of_regs same _)).trans (counted.inj inj),
      congrArg FaultState.events faults⟩, counted.regs.of_regs same, (Chip.get_of_regs same _).trans counted.window,
    Eq.trans all.eq (congrArg (fun x => ({ c with regs := f.regs, fresh := f.fresh, faults := x } : Chip)) faults)⟩

theorem collect_counted_all (free : c.severe e.src = false) (calm : c.becomesSevere e = false) : TickCounted e c c.collect ∧
    RegsBut [FLT_CNT e.src, FLT_SRC e.src] c c.collect ∧
    c.collect.get (FLT_SRC_WCNT e.src) = c.windowCount e.src + e.count ∧ c.collect.windowOpen e.src = true ∧
    c.collect = { c with regs := c.collect.regs, fresh := c.collect.fresh, faults := { c.faults with
      events := [], sampled := [e], risen := [], sampledTick := some c.now, windows := c.windowsWith e.src } } := by
  have fits : c.windowCount e.src + e.count < 256 := by
    have below : c.windowCount e.src + e.count < c.get (FLT_CFG_N e.src) := by
      simp only [Chip.becomesSevere, Bool.or_eq_false_iff, decide_eq_false_iff_not, Nat.not_le] at calm
      exact calm.2
    exact below.trans (c.get_lt (FLT_CFG_N e.src))
  rw [Chip.collect_counted runs new one low free calm]
  have counted := Counted.countEvent c e
  have opened := counted.judged low |>.isOpen
  generalize c.countEvent e = d at *
  have window := WindowSet.countWindow d e.src fits
  generalize d.countWindow e.src (c.windowCount e.src + e.count) = f at *
  obtain ⟨only, faults⟩ := f.sampledOne_frame e
  generalize f.sampledOne e = g at *
  have same : g.regs = f.regs := only.same .regs (by decide)
  have kept : d.faults = c.faults := counted.only.same .faults (by decide)
  have now : d.now = c.now := counted.only.same .now (by decide)
  have nows : f.now = c.now := Eq.trans (b := d.now) (window.only.same .now (by decide)) now
  have windows : d.windowsWith e.src = c.windowsWith e.src := by unfold Chip.windowsWith; rw [opened, kept, now]
  rw [window.faults, kept, nows, windows] at faults
  have all : Only [.regs, .fresh, .faults] c g := counted.only.mono.trans (window.only.mono.trans only.mono)
  have regs : RegsBut [FLT_CNT e.src, FLT_SRC e.src] c g := (counted.regs.trans (window.regs.mono (List.subset_cons_self ..))).of_regs same
  obtain ⟨events, inj⟩ := window.apart
  refine ⟨⟨(Chip.get_of_regs same _).trans (events.trans counted.count), fun given => (Chip.flag_of_get (Chip.get_of_regs same _)).trans
      (inj.trans (counted.inj given)), congrArg FaultState.events faults⟩, regs, (Chip.get_of_regs same _).trans window.value, ?_,
    Eq.trans all.eq (congrArg (fun x => ({ c with regs := g.regs, fresh := g.fresh, faults := x } : Chip)) faults)⟩
  exact Chip.windowOpen_of e.src (congrArg FaultState.windows faults) (all.same .now (by decide)) regs.judged_config.2.2

end

/-- The part as the reaction finds it: counted, its window closed, the tick marked. -/
structure Prepared (e : Event) (b c : Chip) : Prop where
  regs : RegsBut [FLT_CNT e.src, FLT_SRC e.src] b c
  count : c.get (FLT_CNT_EVENTS e.src) = min (b.get (FLT_CNT_EVENTS e.src) + e.count) (2 ^ 32 - 1)
  inj : e.inj = true → c.flag (FLT_SRC_INJ e.src) = true
  window : c.get (FLT_SRC_WCNT e.src) = 0
  faults : c.faults = { b.faults with
    events := [], sampled := [e], risen := [], sampledTick := some b.now, windows := b.faults.windows.filter (·.1 != e.src) }
  only : Only [.regs, .fresh, .faults] b c

theorem Prepared.prepare (c : Chip) (e : Event) : Prepared e c (((c.countEvent e).closeWindow e.src).sampledOne e) := by
  have counted := Counted.countEvent c e
  generalize c.countEvent e = d at *
  have window := WindowSet.closeWindow d e.src
  generalize d.closeWindow e.src = f at *
  obtain ⟨only, faults⟩ := f.sampledOne_frame e
  generalize f.sampledOne e = g at *
  have same : g.regs = f.regs := only.same .regs (by decide)
  have kept : d.faults = c.faults := counted.only.same .faults (by decide)
  have nows : f.now = c.now := Eq.trans (b := d.now) (window.only.same .now (by decide)) (counted.only.same .now (by decide))
  rw [window.faults, kept, nows] at faults
  obtain ⟨events, inj⟩ := window.apart
  exact ⟨(counted.regs.trans (window.regs.mono (List.subset_cons_self ..))).of_regs same, (Chip.get_of_regs same _).trans (events.trans counted.count),
    fun given => (Chip.flag_of_get (Chip.get_of_regs same _)).trans (inj.trans (counted.inj given)), (Chip.get_of_regs same _).trans window.value, faults,
    counted.only.mono.trans (window.only.mono.trans only.mono)⟩

/-- The words of the sources stand between those of the first capture and those of the logbook. -/
theorem source_not_captureRegs {y : Nat} (low : 0x011000 ≤ y) (high : y < 0x012000) : y ∉ captureRegs := by
  have out : ∀ z ∈ captureRegs, z < 0x011000 ∨ 0x012000 ≤ z := by decide
  intro mem
  have := out y mem
  omega

section
variable {b p c : Chip} {e : Event} {m : BitVec 8} {code : Nat}

theorem Taken.source (taken : Taken ⟨e.src, code, m⟩ p c) (low : e.src < 0xFC) {f : Field}
    (addr : f.addr = FLT_CNT e.src ∨ f.addr = FLT_SRC e.src) : c.get f = p.get f := by
  have range : 0x011000 ≤ f.addr ∧ f.addr < 0x012000 := by
    simp only [FLT_CNT, FLT_SRC] at addr
    omega
  exact taken.own.get f ⟨by omega, source_not_captureRegs range.1 range.2⟩

theorem Prepared.outside (prepared : Prepared e b p) (low : e.src < 0xFC) {y : Nat} (out : y < 0x011000 ∨ 0x012000 ≤ y) : p.reg y = b.reg y :=
  prepared.regs y (by
    simp only [FLT_CNT, FLT_SRC, List.mem_cons, List.not_mem_nil, or_false]
    omega)

variable (prepared : Prepared e b p) (taken : Taken ⟨e.src, code, m⟩ p c)
include prepared taken

theorem Taken.faultsOf : c.faults = { b.faults with
    events := [], sampled := [e], sampledTick := some b.now, risen := [⟨e.src, code, m⟩],
    windows := b.faults.windows.filter (·.1 != e.src), latched := b.faults.latched ++ [⟨e.src, code, m⟩],
    fire := b.faults.fire || code == 6, firstTick := c.faults.firstTick, beaconTick := c.faults.beaconTick } := by
  refine taken.faults.trans ?_
  rw [prepared.faults] <;> rfl

variable (low : e.src < 0xFC)
include low

theorem Taken.counted : TickCounted e b c ∧ c.get (FLT_SRC_WCNT e.src) = 0 := by
  have get {f : Field} (addr : f.addr = FLT_CNT e.src ∨ f.addr = FLT_SRC e.src) := taken.source low addr
  refine ⟨⟨(get (.inl rfl)).trans prepared.count, fun given => (Chip.flag_of_get (get (.inr rfl))).trans (prepared.inj given), ?_⟩,
    (get (.inr rfl)).trans prepared.window⟩
  rw [taken.faults, prepared.faults]

theorem Taken.first :
    (b.flag FLT_FIRST_VALID = false → c.get FLT_FIRST_VALID = 1 ∧ c.get FLT_FIRST_SRC = e.src ∧ c.get FLT_FIRST_CODE = code % 8 ∧
      c.get FLT_FIRST_SAME_TICK = 0 ∧ c.get FLT_FIRST_OVF = 0 ∧ c.get64 FLT_FIRSTT = b.wall % 2 ^ 64 ∧ c.flag BEACON_CTL_PULSING = true) ∧
    (b.flag FLT_FIRST_VALID = true → c.get FLT_FIRST_OVF = 1 ∧ c.get FLT_FIRST_SRC = b.get FLT_FIRST_SRC ∧
      c.get FLT_FIRST_CODE = b.get FLT_FIRST_CODE ∧ c.get64 FLT_FIRSTT = b.get64 FLT_FIRSTT) := by
  have fits : e.src < 256 := by omega
  have reg (y : Nat) (small : y < 0x011000) : p.reg y = b.reg y := prepared.outside low (.inl small)
  have same (f : Field) (small : f.addr < 0x011000) : p.get f = b.get f := congrArg f.read (reg _ small)
  have valid : p.flag FLT_FIRST_VALID = b.flag FLT_FIRST_VALID := Chip.flag_of_get (same _ (by decide))
  have wall : p.wall = b.wall := prepared.only.same .wall (by decide)
  refine ⟨fun empty => ?_, fun full => ?_⟩
  · obtain ⟨shown, src, rest⟩ := taken.empty (valid.trans empty)
    rw [wall] at rest
    exact ⟨shown, src.trans (Nat.mod_eq_of_lt fits), rest⟩
  · obtain ⟨ovf, src, shown, at'⟩ := taken.full (valid.trans full)
    exact ⟨ovf, src.trans (same _ (by decide)), shown.trans (same _ (by decide)),
      at'.trans (Chip.get64_congr (reg _ (by decide)) (reg _ (by decide)))⟩

theorem Taken.range :
    (b.flag RNG_CFG_EN = true → e.src ≠ 0xFB → b.rng.faultQ.length < 8 →
      c.rng = { b.rng with faultQ := b.rng.faultQ ++ [⟨e.src, code, b.wall⟩] }) ∧
    (b.flag RNG_CFG_EN = true → e.src ≠ 0xFB → 8 ≤ b.rng.faultQ.length →
      c.get RNG_STAT_FQOVF = 1 ∧ c.rng.faultQ.length = b.rng.faultQ.length) ∧
    (b.flag RNG_CFG_EN = false ∨ e.src = 0xFB → c.rng = b.rng) := by
  have on : p.flag RNG_CFG_EN = b.flag RNG_CFG_EN :=
    Chip.flag_of_get (congrArg RNG_CFG_EN.read (prepared.outside low (.inr (by decide))))
  have wall : p.wall = b.wall := prepared.only.same .wall (by decide)
  have rng : p.rng = b.rng := prepared.only.same .rng (by decide)
  obtain ⟨-, -, -, -, -, -, joins, merges, stays⟩ := taken
  rw [on, rng] at joins merges stays
  rw [wall] at joins
  exact ⟨joins, merges, stays⟩

end

/-- What the lines, the legs and the axes show of a reaction. -/
theorem reacting_of {b c : Chip} {e : Event} (latched : ⟨e.src, b.effCode e, b.reactionMask e⟩ ∈ c.faults.latched)
    (fire : b.effCode e = 6 → c.faults.fire = true)
    (off : ∀ a : Axis, (b.reactionMask e).getLsbD a.val = true → c.modeOf a = 0 ∧ c.get (AX_MSTAT_REACTED a.val) = 1)
    (obeys : ∀ l, c.ObeysLine l) : Reacting e b c := by
  refine ⟨off, fun l hit => c.legReact_latched latched l hit, fun six => ⟨fire six, fun l => ?_⟩, fun l => (obeys l).1, fun l => (obeys l).2⟩
  unfold Chip.legReact
  rw [if_pos (fire six)]

section
variable {c : Chip} {e : Event} (runs : c.clockRuns = true) (new : c.faults.sampledTick ≠ some c.now) (one : c.faults.events = [e])
  (low : e.src < 0xFC)
include runs new one low

theorem collect_risen_all (free : c.severe e.src = false) (rises : c.becomesSevere e = true) : TickCounted e c c.collect ∧
    c.collect.faults = { c.faults with
      events := [], sampled := [e], sampledTick := some c.now
      risen := [⟨e.src, c.effCode e, c.reactionMask e⟩]
      windows := c.faults.windows.filter (·.1 != e.src)
      latched := c.faults.latched ++ [⟨e.src, c.effCode e, c.reactionMask e⟩]
      fire := c.faults.fire || c.effCode e == 6
      firstTick := c.collect.faults.firstTick, beaconTick := c.collect.faults.beaconTick } ∧
    c.collect.severe e.src = true ∧ c.collect.faultFlag = true ∧ c.collect.get (FLT_SRC_WCNT e.src) = 0 ∧ FirstCapture e c c.collect ∧
    (2 ≤ c.effCode e → Reacting e c c.collect) ∧
    (c.effCode e < 2 →
      RegsBut [FLT_CNT e.src, FLT_SRC e.src, FLT_FIRST, FLT_FIRSTT, FLT_FIRSTTH, FLT_STVEC 0, FLT_STVEC 1, FLT_STVEC 2,
        FLT_STVEC 3, FLT_STVEC 4, FLT_STVEC 5, FLT_STVEC 6, FLT_STVEC 7, BEACON_CTL, LOG_STATUS, RNG_STAT] c c.collect ∧
      c.collect = { c with regs := c.collect.regs, fresh := c.collect.fresh, faults := c.collect.faults, nvc := c.collect.nvc, rng := c.collect.rng }) ∧
    (c.flag RNG_CFG_EN = true → e.src ≠ 0xFB → c.rng.faultQ.length < 8 →
      c.collect.rng = { c.rng with faultQ := c.rng.faultQ ++ [⟨e.src, c.effCode e, c.wall⟩] }) ∧
    (c.flag RNG_CFG_EN = true → e.src ≠ 0xFB → 8 ≤ c.rng.faultQ.length →
      c.collect.get RNG_STAT_FQOVF = 1 ∧ c.collect.rng.faultQ.length = c.rng.faultQ.length) ∧
    (c.flag RNG_CFG_EN = false ∨ e.src = 0xFB → c.collect.rng = c.rng) := by
  have run : c.collect = ((((c.countEvent e).closeWindow e.src).sampledOne e).takeSevere [⟨e.src, c.effCode e, c.reactionMask e⟩]).obeyIf (c.effCode e) :=
    Chip.collect_risen runs new one low free rises
  rw [run]
  have prepared := Prepared.prepare c e
  generalize ((c.countEvent e).closeWindow e.src).sampledOne e = p at *
  have taken := Taken.takeSevere p ⟨e.src, c.effCode e, c.reactionMask e⟩
  generalize p.takeSevere [⟨e.src, c.effCode e, c.reactionMask e⟩] = d at *
  obtain ⟨legs, mild, obeys⟩ := d.obeyIf_frame (c.effCode e)
  generalize d.obeyIf (c.effCode e) = f at *
  obtain ⟨counted, window⟩ := taken.counted prepared low
  have faults := taken.faultsOf prepared
  obtain ⟨empty, full⟩ := taken.first prepared low
  obtain ⟨joins, merges, stays⟩ := taken.range prepared low
  have same : f.faults = d.faults := legs.same .faults (by decide)
  have rng : f.rng = d.rng := legs.same .rng (by decide)
  have regs : f.regs = d.regs := legs.same .regs (by decide)
  have get (g : Field) : f.get g = d.get g := legs.get g
  have tick : f.get64 FLT_FIRSTT = d.get64 FLT_FIRSTT := Chip.get64_congr (Chip.reg_of_regs regs _) (Chip.reg_of_regs regs _)
  have latched : f.faults.latched = c.faults.latched ++ [⟨e.src, c.effCode e, c.reactionMask e⟩] := by rw [same, faults]
  refine ⟨⟨(get _).trans counted.count, fun given => (Chip.flag_of_get (get _)).trans (counted.inj given), by rw [same]; exact counted.events⟩,
    by rw [same]; exact faults, ?_, ?_, (get _).trans window, ⟨fun h => ?_, fun h => ?_⟩, fun acts => ?_, fun small => ?_, ?_, ?_, ?_⟩
  · simp [Chip.severe, latched]
  · simp [Chip.faultFlag, latched]
  · simp only [get, tick, Chip.flag_of_get (get BEACON_CTL_PULSING)]
    exact empty h
  · simp only [get, tick]
    exact full h
  · refine reacting_of (by simp [latched]) (fun six => ?_) (fun a hit => ?_) (obeys acts)
    · rw [same, faults]
      simp [six]
    · obtain ⟨mode, shown⟩ := taken.off acts a hit
      exact ⟨(get _).trans mode, (get _).trans shown⟩
  · obtain ⟨kept, only⟩ := taken.mild small
    rw [mild small]
    have all : Only [.regs, .fresh, .nvc, .faults, .rng] c d := prepared.only.mono.trans only
    refine ⟨fun y out => ?_, all.eq⟩
    have captured : captureRegs ⊆ firstRegs ++ [BEACON_CTL, LOG_STATUS, RNG_STAT] := by decide
    have first : y ∉ captureRegs := fun mem => out (List.mem_cons_of_mem _ (List.mem_cons_of_mem _ (captured mem)))
    have source : y ∉ [FLT_CNT e.src, FLT_SRC e.src] := fun mem => out (List.mem_append_left (firstRegs ++ [BEACON_CTL, LOG_STATUS, RNG_STAT]) mem)
    exact (kept y first).trans (prepared.regs y source)
  · rw [rng]
    exact joins
  · rw [rng, get]
    exact merges
  · rw [rng]
    exact stays

end

theorem completes_collector {s : State} {e : Event} (runs : s.chip.clockRuns = true) (new : s.chip.faults.sampledTick ≠ some s.chip.now)
    (one : s.chip.faults.events = [e]) (low : e.src < 0xFC) {P : Chip → Prop} (hp : TickCounted e s.chip s.chip.collect → P s.chip.collect) :
    Completes .faultCollectorTick s P := by
  refine ⟨s.chip.collect, rfl, hp ?_⟩
  cases severe : s.chip.severe e.src with
  | true => exact (collect_latched_all runs new one low severe).1
  | false =>
    cases rises : s.chip.becomesSevere e with
    | true => exact (collect_risen_all runs new one low severe rises).1
    | false => exact (collect_counted_all runs new one low severe rises).1

end Sys2Proof.Machine

open Sys2Proof.Machine

/-- Settles O33: the event is counted in every case, and its source stays latched, keeps below its threshold or becomes severe. -/
theorem collectorTick : Obligations.CollectorTick := by
  refine ⟨fun s e runs new one low => completes_collector runs new one low fun counted => ?_, fun s rests => ?_⟩
  · exact ⟨counted.count, counted.inj, counted.events, fun severe => (collect_latched_all runs new one low severe).2,
      fun free calm => (collect_counted_all runs new one low free calm).2, fun free rises => (collect_risen_all runs new one low free rises).2⟩
  · have idle : s.chip.collect = s.chip := by
      unfold Chip.collect
      rw [if_pos (by simpa using rests)]
    exact congrArg (fun c => Host.Outcome.next { s with chip := c }) idle
end
